-- ==== Sys2Proof/Word.lean ====
section
/-!
DEFINITION. Words and the plainest arithmetic on them (R7: bit ranges are inclusive and run high to low).
-/
namespace Sys2Proof

/-- A byte. -/
abbrev Byte := BitVec 8
/-- A 32-bit word. -/
abbrev W32 := BitVec 32
/-- A 64-bit word: the width of a register (R9) and of a tile instruction (R55). -/
abbrev W64 := BitVec 64
/-- A 128-bit word: the device nonce (R530), a generator block (R246), a KMAC tag (R528). -/
abbrev W128 := BitVec 128

/-- Bits `hi:lo` of a number, as a number (R7). -/
abbrev bits (x hi lo : Nat) : Nat := (x >>> lo) % 2 ^ (hi + 1 - lo)

/-- Bit `i` of a number. -/
abbrev bit (x i : Nat) : Bool := (x >>> i) % 2 == 1

/-- A flag as the number 0 or 1. -/
abbrev b2n (b : Bool) : Nat := if b then 1 else 0

/-- The two's-complement reading of the low `w` bits of `x`. -/
abbrev signed (w x : Nat) : Int :=
  if x % 2 ^ w < 2 ^ (w - 1) then ((x % 2 ^ w : Nat) : Int) else ((x % 2 ^ w : Nat) : Int) - ((2 ^ w : Nat) : Int)

/-- The low `w` bits of an integer, as a number. -/
abbrev wrap (w : Nat) (z : Int) : Nat := (z % ((2 ^ w : Nat) : Int)).toNat

end Sys2Proof
end

