-- ==== Sys2Proof/Syntax.lean ====
section
/-!
DEFINITION. The commands of the block: one constructor of `Instr` for each row of spec/opcode_table.json, with the
row's operands. What the surroundings decide (a level of a pin, a reading of a sensor, the outcome of a test, what
a partner sends) is an operand of the command that brings it.
-/
namespace Sys2Proof

/-- A C-die, by its number k of Ck (R2 table "Die inventory"). -/
abbrev CDie := Fin 6
/-- An L-die, by its number. -/
abbrev LDie := Fin 4
/-- A P-die, by its number. -/
abbrev PDie := Fin 2
/-- An X-die, by its number. -/
abbrev XDie := Fin 2
/-- An M-base, by its number. -/
abbrev MBase := Fin 12
/-- A module-wide tile number, C-die index x 128 + site (R28). -/
abbrev TileId := Fin 768
/-- A group slot of a tile (R49). -/
abbrev Slot := Fin 16
/-- A module port, 4k + p for port p of L-die k (R407). -/
abbrev Port := Fin 16

/-- A die of the package (R1). -/
inductive Die where
  | c (k : CDie) | p (k : PDie) | l (k : LDie) | x (k : XDie) | m (k : MBase)
deriving DecidableEq, Repr

/-- A die that has a die reset of its own: a C-die or an L-die (R36). -/
inductive RDie where
  | c (k : CDie) | l (k : LDie)
deriving DecidableEq, Repr

/-- A clock island (R14, table "Islands per die"). -/
inductive Island where
  | quad (q : Fin 32) | grotto | network | cores (n : Fin 16) | port (p : Fin 4) | xdie | timebase | uszon | memctl
deriving DecidableEq, Repr

/-- The energy of a 1 us interval, in microjoules (R489, R508, R509): the module's input, and that of each tile-quad island that drew
any. -/
structure EnergySample where
  input : Nat
  quads : List (CDie × Fin 32 × Nat)
deriving DecidableEq, Repr

/-- Who reaches register space (R26): the host through its BARs, a Tamier core in machine mode, Uszon, and the
I3C and MCTP paths to their own mailboxes (R519). -/
inductive Agent where
  | host | core (n : Fin 128) | uszon | i3c | mctp
deriving DecidableEq, Repr

/-- The causes of a die loss (R46, CAUSE). -/
inductive LossCause where
  | command | clock | links | dieFault | heartbeat | carrier
deriving DecidableEq, Repr

/-- A home of memory lines (R346): an M-base, or deep-tier controller n of an X-die (R313, R343). -/
inductive Home where
  | fast (m : MBase) | deep (x : XDie) (n : Fin 12)
deriving DecidableEq, Repr

/-- A descriptor queue: Grotto queue n of a C-die (R191) or fabric send queue n of an L-die (R427). -/
inductive QueueRef where
  | grt (k : CDie) (n : Fin 32) | fab (l : LDie) (n : Fin 64)
deriving DecidableEq, Repr

/-- A job by its lead dispatcher, job queue and ring slot (R404); `n` tells it from earlier jobs of the slot that have not ended
yet, 0 where there are none. -/
structure JobRef where
  lead : CDie
  queue : Fin 16
  slot : Fin 4096
  n : Nat
deriving DecidableEq, Repr

/-- What the Reed-Solomon code of a 64-byte half finds in a read (R327): how many of its symbols are wrong (up to 3 are
corrected, more are detected), or an error in 6 or more symbols that it does not detect. -/
inductive HalfEcc where
  | symbols (n : Nat) | undetected
deriving DecidableEq, Repr

/-- What the ECC of a read of a line finds in its two halves (R327, R328). -/
structure Ecc where
  lo : HalfEcc
  hi : HalfEcc
deriving DecidableEq, Repr

/-- A read without an error, one with a corrected error, and one with an uncorrectable half. -/
def Ecc.good : Ecc := ⟨.symbols 0, .symbols 0⟩
def Ecc.corrected : Ecc := ⟨.symbols 1, .symbols 0⟩
def Ecc.uncorrectable (half : Bool) : Ecc := if half then ⟨.symbols 0, .symbols 4⟩ else ⟨.symbols 4, .symbols 0⟩

/-- What the ECC of a 64-bit word of a line or of a word of the Grotto finds (R187, R302). -/
inductive WordEcc where
  | good | corrected (w : Nat) | bad (w : Nat)
deriving DecidableEq, Repr

/-- A load as it issues: bits 55:0 of its word, and the lines whose hit in the L1 finds a parity error (R301). -/
structure LoadWord where
  word : BitVec 56
  parity : List Nat
  corrected : Nat
deriving DecidableEq, Repr

/-- A turn of a home: which of its waiting requests it performs, and the halves of its lines whose cells have gone wrong by then,
with the number of wrong symbols, where a number above 72, all that a half has, stands for an error that the code does not detect
(R327); and how many correctable errors the directory slice has met in its entries (R351). -/
structure HomeTurn where
  n : Nat
  cells : List (Nat × Nat)
  dirErrs : Nat
deriving DecidableEq, Repr

/-- An access kind at a Grotto or memory path. -/
inductive Access where
  | read (len : Nat)
  | write (data : List Byte)
  | atomic (aop : BitVec 4) (ty : BitVec 4) (operands : List W64)
deriving DecidableEq, Repr

/-- An access of the Grotto aperture, and what the ECC of its words finds (R187). -/
structure GrottoAccess where
  kind : Access
  ecc : WordEcc
deriving DecidableEq, Repr

/-- Who makes an aperture access (R188): a core, the host, or a tile or engine with its context. -/
inductive ApertureAgent where
  | core (n : Fin 128) | host | tile (t : TileId) (g : Slot) | engine (k : CDie) (q : Fin 32)
deriving DecidableEq, Repr

/-- Which core or agent of the coherent domain (R345): 0-131. -/
abbrev AgentId := Fin 132

/-- How a host BAR request accesses memory (R448, R449). -/
inductive HostAccess where
  | read (len : Nat)
  | write (data : List Byte)
  | fetchAdd (dword : Bool) (v : W64)
  | swap (dword : Bool) (v : W64)
  | cas (dword : Bool) (cmp swp : W64)
deriving DecidableEq, Repr

/-- A host command as the device reads it from the submission slot: eight header words and the 192-byte body (R452). -/
structure HostSlot where
  hdr : List W64
  body : List Byte
deriving DecidableEq, Repr

/-- The outcome of a read of host memory (R457). -/
inductive HostCpl where
  | ok (data : List Byte) | ur | ca | poisoned
deriving DecidableEq, Repr

/-- The features of R442's table that a configuration structure shows, and those that have none. -/
inductive PciCap where
  | powerManagement | msix | advancedErrorReporting | msi | sriov | ats | pri | pasid | tph | ide | doe | resizableBar
deriving DecidableEq, Repr

/-- A field of a configuration structure whose value R442 or R445 fixes, read where the host's walk of the capability list
finds it: the manual gives no offsets. -/
inductive PciField where
  | present (c : PciCap)
  | msixTableSize | msixTable | msixPba | msixEnable | msixFunctionMask
  | noSoftReset | d1Support | d2Support | powerState
  | maxPayloadSupported | maxPayload | maxReadRequest
  | atomic32Completer | atomic64Completer | cas128Completer | atomicRequester
deriving DecidableEq, Repr

/-- A configuration request (R442). A write that leaves D3hot resets the host port, which samples STRAP_COMPAT (R560).
`deviceControl` sets Max Payload Size to 128 << `mps` bytes and Max Read Request Size to 128 << `mrrs`. -/
inductive CfgReq where
  | read (offset : BitVec 12)
  | field (f : PciField)
  | deviceControl (mps : Fin 3) (mrrs : Fin 6)
  | busMaster (on : Bool)
  | msixEnable (on : Bool)
  | msixFunctionMask (on : Bool)
  | powerState (d3hot compat : Bool)
  | barWrite (bar : Fin 6) (v : W32)
deriving DecidableEq, Repr

/-- The fields of a fabric packet's header (R414), and its payload. -/
structure Packet where
  ptype : BitVec 4
  vc : BitVec 3
  dst : BitVec 18
  src : BitVec 18
  dconn : BitVec 13
  hops : BitVec 7
  psn : BitVec 32
  cgen : BitVec 8
  len : BitVec 13
  ord : Bool
  space : BitVec 3
  die : BitVec 3
  aop : BitVec 4
  atype : BitVec 3
  addr : BitVec 48
  status : BitVec 16
  tag : BitVec 16
  slot : BitVec 6
  rank : BitVec 10
  payload : List Byte
deriving DecidableEq, Repr

/-- The parameters that the two ends of a port exchange in training (R412): node ID, module port number, and half width. -/
structure TrainParams where
  node : BitVec 18
  portNo : BitVec 4
  half : Bool
deriving DecidableEq, Repr

/-- What a control frame carries (R409): the last FSEQ received in order, a NAK with the FSEQ that the receiver expects, the
cumulative counts of returned reserved and shared credits, the requests, and in training its parameters. -/
structure ControlFrame where
  lastAck : BitVec 12
  nak : Option (BitVec 12)
  reserved : List (BitVec 16)
  shared : BitVec 16
  kaRequest : Bool
  kaGrant : Bool
  wake : Bool
  down : Bool
  training : Option TrainParams
deriving DecidableEq, Repr

/-- A codeword at a control position of a receiver (R408, R409): how many of its 544 symbols arrived wrong, and its frame, none
where it cannot be read. -/
structure ControlCodeword where
  symbolErrors : Fin 545
  frame : Option ControlFrame
deriving DecidableEq, Repr

/-- A codeword at a data or idle position of a receiver (R408): its 20-bit frame header, how many of its 544 symbols arrived
wrong, and the packets whose last flit is among its ten. -/
structure DataFrame where
  header : BitVec 20
  symbolErrors : Fin 545
  packets : List Packet
deriving DecidableEq, Repr

/-- What a port's training found (R412): per-half lock, and what the partner reports. -/
structure TrainResult where
  lowerHalf : Bool
  upperHalf : Bool
  partnerHalf : Bool
  partnerNode : BitVec 18
  partnerPort : BitVec 4
deriving DecidableEq, Repr

/-- The reason a port goes DOWN (R411). -/
inductive DownCause where
  | controlMissed | replayLimit | partner
deriving DecidableEq, Repr

/-- A UCIe or M-link end: die and link index of the table "Link indices" (R470). -/
structure LinkRef where
  die : Die
  index : Fin 12
deriving DecidableEq, Repr

/-- The identity message of a UCIe partner (R470). -/
structure Identity where
  proto : BitVec 8
  dieType : BitVec 4
  dieIndex : BitVec 8
  link : BitVec 4
  modules : BitVec 5
  rate : BitVec 3
  mask : BitVec 16
  retained : Bool
deriving DecidableEq, Repr

/-- What one training attempt of a UCIe link finds (R472): the modules that pass the pattern test at the end that is named and at
its partner, and whether the confirmation passes on both sides. -/
structure Attempt where
  mask : BitVec 16
  partnerMask : BitVec 16
  confirm : Bool
deriving DecidableEq, Repr

/-- An exchange of identity messages as one end meets it (R471, R472): the modules that pass its own test, the message that comes
in, and whether the confirmation passes on both sides. -/
structure Exchange where
  tested : BitVec 16
  received : Identity
  confirm : Bool
deriving DecidableEq, Repr

/-- What the main-domain start-up meets on the way (R562, R564): the training attempts of a UCIe link that do not go well at once,
the slices of an M-link that train where not all do, and what fails in the tests. -/
structure StartupResult where
  memMode : Bool
  failure : Option (Die × BitVec 4)
  links : List (LinkRef × List Attempt)
  slices : List (MBase × Bool × W32)
  badTiles : List TileId
  badQuads : List (CDie × Fin 32)
  badFlowstone : List TileId
  badDripstone : List CDie
  elapsedMs : Nat
deriving DecidableEq, Repr

/-- What a rejoin meets (R42, R263): the slices that train, by M-link of the C-die, where not all do, and what fails in its tests. -/
structure RejoinResult where
  slices : List (Fin 4 × W32)
  badQuads : List (Fin 32)
  badFlowstone : List TileId
  badDripstone : Bool
deriving DecidableEq, Repr

/-- A temperature sensor (R496, R499). -/
inductive Sensor where
  | junction (d : Die) | stack (m : MBase) | package (x : XDie) (n : Fin 12)
deriving DecidableEq, Repr

/-- A coherence answer that an agent's own cache decides: the state it holds the line in is in `State`; this is the
core's AMO request (R362). -/
structure CoreAmo where
  op : BitVec 5
  word : Bool
  addr : BitVec 48
  operand : W64
deriving DecidableEq, Repr

/-- The levels of the straps that the release of the auxiliary reset finds (R560): STRAP_COMPAT is sampled there where the host port
leaves reset with the recovery loader (R533). -/
structure AuxStraps where
  recovery : Bool
  compat : Bool
deriving DecidableEq, Repr

/-- The JTAG instructions of X0 (R571), with what is shifted into the boundary cells. -/
inductive JtagOp where
  | bypass | samplePreload (pins : List Bool) | extest (pins : List Bool) | debug (op : W32)
deriving DecidableEq, Repr

/-- How the host port is lost (R461), PERST_N apart. -/
inductive PortLoss where
  | hotReset | d3hotToD0 | linkDown
deriving DecidableEq, Repr

/-- A mailbox request as Uszon reads it from mailbox m is in `State`; the command names the mailbox. -/
abbrev Mbx := Fin 32

/-- The commands of the block, in the order of spec/opcode_table.json. -/
inductive Instr where
  -- power, reset and start-up
  | auxPowerApply (nonce : W128) (pwrEn modResetN : Bool)
  | auxResetRelease (straps : AuxStraps) (sa : BitVec 3)
  | auxPowerRemove
  | pwrEnAssert
  | railsGood (compat : Bool)
  | mainStartup (r : StartupResult)
  | pwrEnDeassert
  | modResetNAssert
  | modResetNDeassert
  | perstNAssert (compat : Bool)
  | perstNDeassert
  | hostPortLost (why : PortLoss) (compat : Bool)
  | dlkCoreReleaseWrite (a : Agent) (p : PDie) (v : W64)
  | jtagInstruction (op : JtagOp)
  | registerWrite (a : Agent) (addr : BitVec 48) (size : Nat) (v : W64)
  | timebaseSync (d : Die)
  -- die loss and rejoin
  | islandClockLoss (d : Die) (n : Island)
  | heartbeatMissed (d : Die)
  | cDieLoss (k : CDie) (why : LossCause)
  | mLinkSwitch (k : CDie)
  | lostDieTilesFenced (k : CDie)
  | lDieLoss (l : LDie) (why : LossCause)
  | fatalLoss (d : Die) (why : LossCause)
  | dieRejoin (d : RDie) (r : RejoinResult)
  | dieRejoinFailed (d : RDie)
  | lDieRejoinOnCActive (l : LDie)
  | dieActionResetHold (a : Agent) (index : BitVec 8)
  | dieActionRejoin (a : Agent) (index : BitVec 8)
  | dieActionResetRejoin (a : Agent) (index : BitVec 8)
  -- tile instructions: the tile, the group slot and bits 55:0 of the instruction word (R55)
  | nop (t : TileId) (g : Slot) (w : BitVec 56)
  | mov (t : TileId) (g : Slot) (w : BitVec 56)
  | movi (t : TileId) (g : Slot) (w : BitVec 56)
  | movl (t : TileId) (g : Slot) (w : BitVec 56)
  | add (iform : Bool) (t : TileId) (g : Slot) (w : BitVec 56)
  | sub (iform : Bool) (t : TileId) (g : Slot) (w : BitVec 56)
  | mulLo (iform : Bool) (t : TileId) (g : Slot) (w : BitVec 56)
  | mulHi (t : TileId) (g : Slot) (w : BitVec 56)
  | mad (t : TileId) (g : Slot) (w : BitVec 56)
  | min (iform : Bool) (t : TileId) (g : Slot) (w : BitVec 56)
  | max (iform : Bool) (t : TileId) (g : Slot) (w : BitVec 56)
  | and (iform : Bool) (t : TileId) (g : Slot) (w : BitVec 56)
  | or (iform : Bool) (t : TileId) (g : Slot) (w : BitVec 56)
  | xor (iform : Bool) (t : TileId) (g : Slot) (w : BitVec 56)
  | not (iform : Bool) (t : TileId) (g : Slot) (w : BitVec 56)
  | shl (iform : Bool) (t : TileId) (g : Slot) (w : BitVec 56)
  | shr (iform : Bool) (t : TileId) (g : Slot) (w : BitVec 56)
  | sra (iform : Bool) (t : TileId) (g : Slot) (w : BitVec 56)
  | popc (t : TileId) (g : Slot) (w : BitVec 56)
  | clz (t : TileId) (g : Slot) (w : BitVec 56)
  | brev (t : TileId) (g : Slot) (w : BitVec 56)
  | bfe (t : TileId) (g : Slot) (w : BitVec 56)
  | bfi (t : TileId) (g : Slot) (w : BitVec 56)
  /-- `rel` is none in the V form, and the relation code of the opcode 0xF0-0xF7 in the I form (R576). -/
  | pcmp (rel : Option (Fin 8)) (t : TileId) (g : Slot) (w : BitVec 56)
  | sel (t : TileId) (g : Slot) (w : BitVec 56)
  | plog (t : TileId) (g : Slot) (w : BitVec 56)
  | fadd (iform : Bool) (t : TileId) (g : Slot) (w : BitVec 56)
  | fsub (iform : Bool) (t : TileId) (g : Slot) (w : BitVec 56)
  | fmul (iform : Bool) (t : TileId) (g : Slot) (w : BitVec 56)
  | fma (iform : Bool) (t : TileId) (g : Slot) (w : BitVec 56)
  | fmin (t : TileId) (g : Slot) (w : BitVec 56)
  | fmax (t : TileId) (g : Slot) (w : BitVec 56)
  | rcp (t : TileId) (g : Slot) (w : BitVec 56)
  | rsqrt (t : TileId) (g : Slot) (w : BitVec 56)
  | sqrt (t : TileId) (g : Slot) (w : BitVec 56)
  | exp2 (t : TileId) (g : Slot) (w : BitVec 56)
  | log2 (t : TileId) (g : Slot) (w : BitVec 56)
  | sin (t : TileId) (g : Slot) (w : BitVec 56)
  | cos (t : TileId) (g : Slot) (w : BitVec 56)
  | cvt (t : TileId) (g : Slot) (w : BitVec 56)
  | vote (t : TileId) (g : Slot) (w : BitVec 56)
  | shfl (iform : Bool) (t : TileId) (g : Slot) (w : BitVec 56)
  | rdlane (iform : Bool) (t : TileId) (g : Slot) (w : BitVec 56)
  | rdsr (t : TileId) (g : Slot) (w : BitVec 56)
  | ld (t : TileId) (g : Slot) (w : LoadWord)
  | st (t : TileId) (g : Slot) (w : BitVec 56)
  | atom (t : TileId) (g : Slot) (w : BitVec 56)
  | pf (t : TileId) (g : Slot) (w : BitVec 56)
  | br (t : TileId) (g : Slot) (w : BitVec 56)
  | jmp (t : TileId) (g : Slot) (w : BitVec 56)
  | call (t : TileId) (g : Slot) (w : BitVec 56)
  | ret (t : TileId) (g : Slot) (w : BitVec 56)
  | exit (t : TileId) (g : Slot) (w : BitVec 56)
  | trap (t : TileId) (g : Slot) (w : BitVec 56)
  | bar (t : TileId) (g : Slot) (w : BitVec 56)
  | barDeadlock (t : TileId)
  | fenceGroup (t : TileId) (g : Slot) (w : BitVec 56)
  | fenceTile (t : TileId) (g : Slot) (w : BitVec 56)
  | fenceDie (t : TileId) (g : Slot) (w : BitVec 56)
  | fenceDevice (t : TileId) (g : Slot) (w : BitVec 56)
  | fenceSys (t : TileId) (g : Slot) (w : BitVec 56)
  /-- The group's fetch at its pc: `w` is the word that the fetch gives (R78, R57, R383). -/
  | tilePreciseFault (t : TileId) (g : Slot) (w : W64)
  | tileWatchdogExpiry (t : TileId)
  | tileUncorrectable (t : TileId)
  -- matrix engines
  | mma (t : TileId) (g : Slot) (w : BitVec 56)
  | mmas (t : TileId) (g : Slot) (w : BitVec 56)
  | mtxZero (t : TileId) (g : Slot) (w : BitVec 56)
  | mtxRd (t : TileId) (g : Slot) (w : BitVec 56)
  | mtxWr (t : TileId) (g : Slot) (w : BitVec 56)
  | mtxWait (t : TileId) (g : Slot) (w : BitVec 56)
  | matrixEngineStart (t : TileId) (e : Fin 4)
  | matrixInstrComplete (t : TileId) (e : Fin 4)
  | engineCold (t : TileId) (e : Fin 4)
  | pacedStart (t : TileId) (e : Fin 4)
  -- Flowstone
  | flsIssue (t : TileId) (g : Slot) (w : BitVec 56)
  | flsWait (t : TileId) (g : Slot) (w : BitVec 56)
  | flsStat (t : TileId) (g : Slot) (w : BitVec 56)
  | flsCommandStart (t : TileId)
  | flsCommandComplete (t : TileId)
  | flsStatWrite (a : Agent) (t : TileId) (g : Slot) (v : W64)
  -- tile L1
  | mergeEntryIdleDrain (t : TileId) (line : Nat)
  | l1Inv (a : Agent) (t : TileId) (v : W64)
  | l1cCtlEnableWrite (a : Agent) (t : TileId) (v : W64)
  | l1FillArrive (t : TileId) (line : Nat)
  -- die cache: `v` holds bits 63:8 of DCC_MAINT_CMD (R309), the row being bits 7:0
  | dccAccess (k : CDie) (n : Nat) (ecc : WordEcc)
  | dccFillArrive (k : CDie) (line : Nat)
  | dccInv (a : Agent) (k : CDie) (v : BitVec 56)
  | dccClean (a : Agent) (k : CDie) (v : BitVec 56)
  | dccCleanInv (a : Agent) (k : CDie) (v : BitVec 56)
  | dccPreload (a : Agent) (k : CDie) (v : BitVec 56)
  | dccZero (a : Agent) (k : CDie) (v : BitVec 56)
  | dccInvSw (a : Agent) (k : CDie) (v : BitVec 56)
  | dccCleanSw (a : Agent) (k : CDie) (v : BitVec 56)
  | dccCleanInvSw (a : Agent) (k : CDie) (v : BitVec 56)
  | dccInvAll (a : Agent) (k : CDie) (v : BitVec 56)
  | dccMaintComplete (k : CDie)
  | dccCtlWrite (a : Agent) (k : CDie) (v : W64)
  | dccLockWrite (a : Agent) (k : CDie) (v : W64)
  -- the Grotto and its queues
  | grtOwnerWrite (a : Agent) (k : CDie) (m : Fin 12) (v : W64)
  | granuleOwnerEffect (k : CDie) (gr : Fin 96)
  | grottoApertureAccess (who : ApertureAgent) (k : CDie) (off : BitVec 32) (acc : GrottoAccess)
  | grtQcfgWrite (a : Agent) (k : CDie) (n : Fin 32) (v : W64)
  | grtDoorbell (q : QueueRef)
  | descriptorStart (q : QueueRef)
  | waitReevaluate (q : QueueRef)
  | descriptorComplete (q : QueueRef)
  | collContribution (k : CDie) (n : Nat)
  | collTimeout (k : CDie) (slot : Fin 64)
  | hlxSendRecord (k : CDie) (n : Fin 32)
  | decoderBindingEffect (k : CDie) (quad : Fin 32) (stream : Fin 8)
  | drpRngCfgWrite (a : Agent) (k : CDie) (v : W64)
  | drpTableApply (k : CDie)
  -- memory homes
  | homeRead (h : Home) (n : HomeTurn)
  | homeWrite (h : Home) (n : HomeTurn)
  | stackReadReturn (h : Home) (n : Nat) (e : Ecc)
  | sumpIdleWriteback (h : Home) (line : Nat) (e : Ecc)
  | sumpDrainRange (h : Home) (a : Agent) (v : W64)
  | sumpDrainAll (h : Home) (a : Agent) (v : W64)
  | sumpDrainComplete (h : Home)
  | amuAtomic (h : Home) (n : Nat) (e : Ecc)
  | memScrub (h : Home) (corrected : List Nat) (bad : List Nat)
  | memTempRead (h : Home) (celsius : Option Int)
  | memPeriodicRetrain (h : Home)
  | memCfgWrite (h : Home) (a : Agent) (v : W64)
  -- coherence: `line` is the line number, the address divided by 128; `stores` are what the core has stored to the line
  -- since it was granted (R348), `evicting` whether it has sent WbDirty for it (R357)
  | rdShared (req : AgentId) (line : Nat)
  | rdUnique (req : AgentId) (line : Nat)
  | upgrade (req : AgentId) (line : Nat)
  | cleanToHome (req : AgentId) (line : Nat)
  | flushToHome (req : AgentId) (line : Nat)
  | wbDirty (req : AgentId) (line : Nat) (stores : List (Fin 128 × Byte))
  | amoFar (req : AgentId) (line : Nat)
  | ncRead (line : Nat) (n : Nat)
  | ncWrite (line : Nat) (n : Nat)
  | ncAtomic (line : Nat) (n : Nat)
  | snpShared (ag : AgentId) (line : Nat) (stores : List (Fin 128 × Byte)) (evicting : Bool)
  | snpUnique (ag : AgentId) (line : Nat) (stores : List (Fin 128 × Byte)) (evicting : Bool)
  | snpInv (ag : AgentId) (line : Nat) (stores : List (Fin 128 × Byte)) (evicting : Bool)
  | snpClean (ag : AgentId) (line : Nat) (stores : List (Fin 128 × Byte)) (evicting : Bool)
  | snoopHoldExpiry (at_ : AgentId) (line : Nat) (stores : List (Fin 128 × Byte))
  | rspAbsent (by_ : AgentId) (line : Nat)
  | rspClean (by_ : AgentId) (line : Nat)
  | rspData (by_ : AgentId) (line : Nat)
  | rspWbInFlight (by_ : AgentId) (line : Nat)
  | grant (ag : AgentId) (line : Nat)
  | wbAck (ag : AgentId) (line : Nat)
  | cmoAck (ag : AgentId) (line : Nat)
  | performedVisible (n : Nat)
  | amoResult (c : Fin 128)
  | coreAmo (c : Fin 128) (op : CoreAmo)
  | cohAmoClear (a : Agent) (p : PDie) (v : W64)
  | snoopTimeout (agent : AgentId) (line : Nat)
  | dirUncorrectable (h : Home) (line : Nat)
  -- jobs and contexts
  | jobSubmit (a : Agent) (k : CDie) (q : Fin 16) (v : W64)
  | jobTake (k : CDie)
  | jobTilesReserved (j : JobRef)
  | jobWaitPriority (j : JobRef)
  | groupLaunch (j : JobRef) (rank : Nat)
  | jobComplete (j : JobRef)
  | jobQcfgWrite (a : Agent) (k : CDie) (q : Fin 16) (v : W64)
  | jobAbort (a : Agent) (k : CDie) (v : BitVec 60)
  | jobPreempt (a : Agent) (k : CDie) (v : BitVec 60)
  | tlbInv (a : Agent) (k : CDie) (v : BitVec 60)
  | tileFence (t : TileId)
  -- fabric
  | portTrain (p : Port) (r : TrainResult)
  | portTrainTimeout (p : Port)
  | portTrainRetry (p : Port)
  | fabPortCtlWrite (a : Agent) (p : Port) (v : W64)
  | dataFrameReceive (p : Port) (f : DataFrame)
  | controlFrameReceive (p : Port) (f : ControlCodeword)
  | portDown (p : Port) (why : DownCause)
  | keepaliveEnter (p : Port)
  | portWake (p : Port)
  | portWakeTimeout (p : Port)
  | packetRoute (p : Port) (trailer : W64)
  | writePacket (n : Nat)
  | readPacket (n : Nat)
  | atomicPacket (n : Nat)
  | messagePacket (n : Nat)
  | contribPacket (n : Nat)
  | powerPacket (n : Nat)
  | ackPacket (n : Nat)
  | readDataPacket (n : Nat)
  | atomicResultPacket (n : Nat)
  | nakPacket (n : Nat)
  | fabRxFullRetry (c : Fin 8192)
  | fabRtoExpiry (c : Fin 8192)
  | fabQcfgWrite (a : Agent) (l : LDie) (n : Fin 64) (v : W64)
  | fabRxqDoorbell (l : LDie) (n : Fin 64) (v : W64)
  -- host interface
  | hqSqTail (q : Fin 64) (v : W64)
  | hqCqHead (q : Fin 64) (v : W64)
  | hifNop (q : Fin 64) (c : HostSlot)
  | hifSubmit (q : Fin 64) (c : HostSlot)
  | writeInline (q : Fin 64) (c : HostSlot)
  | copyH2D (q : Fin 64) (c : HostSlot)
  | copyD2H (q : Fin 64) (c : HostSlot)
  | flag (q : Fin 64) (c : HostSlot)
  | hostReadCompletion (q : Fin 64) (tag : Nat) (c : HostCpl)
  | hqInterruptTimer (q : Fin 64)
  | bar0Access (off : BitVec 24) (size : Nat) (w : Option W64)
  | hostWindowAccess (off : BitVec 32) (acc : HostAccess)
  | compatBarAccess (off : BitVec 42) (acc : HostAccess)
  | hifWinBaseWrite (a : Agent) (v : W64)
  | hifHqCfgWrite (a : Agent) (q : Fin 64) (v : W64)
  | hqStopped (q : Fin 64)
  -- die-to-die links
  | linkTrain (l : LinkRef) (mask partnerMask : BitVec 16) (confirm : Bool)
  | linkIdentity (l : LinkRef) (x : Exchange)
  | linkCrcRetrain (l : LinkRef) (crcFails replayed : Nat) (a : Option Attempt)
  | linkTrainFailed (l : LinkRef)
  | linkRetrain (a : Agent) (l : LinkRef)
  | linkUnfence (a : Agent) (l : LinkRef)
  | mlinkSliceRetrain (m : MBase) (secondary : Bool) (slice : Fin 32) (pass : Bool)
  | mlinkTestFlit (m : MBase)
  -- Rimstone
  | rimPowerSample (watts : BitVec 16) (energy : EnergySample)
  | rimCoordinatorTick
  | rimBudgetCheck (d : Die) (watts : Nat)
  | rimFreqStep (d : Die) (n : Fin 32)
  | droopTrip (d : Die) (n : Island)
  | droopEnd (d : Die) (n : Island)
  | thermalRead (n : Sensor) (celsius : Option Int)
  | sensorTimeout (n : Sensor)
  | agingTrim (d : Die) (n : Fin 32) (margin : Int)
  | rimPaceCtlWrite (a : Agent) (k : CDie) (v : W64)
  /-- `wait` is the measured share of the period in which the module waited, per mille (R503). -/
  | powerReportSend (via : LDie)
  | groupPartnerStale (node : BitVec 18)
  | deepIdleEnter
  -- Uszon
  | epochLatch (tick : W64)
  | faultRecord
  | mbxFaultSoftWrite (a : Agent) (v : W64)
  | mbxClassBComplete (m : Mbx)
  | getInfo (m : Mbx)
  | getNonce (m : Mbx)
  | getSensors (m : Mbx)
  | telRead (m : Mbx)
  | ctxCreate (m : Mbx)
  | ctxDestroy (m : Mbx)
  | grtAssign (m : Mbx)
  | connCreate (m : Mbx)
  | connDestroy (m : Mbx)
  | nodeSet (m : Mbx)
  | routeSet (m : Mbx)
  | dieReset (m : Mbx)
  | moduleReset (m : Mbx)
  | fenceClear (m : Mbx)
  | setBudget (m : Mbx)
  | setGroup (m : Mbx)
  | setIdle (m : Mbx)
  | setPace (m : Mbx)
  | rngTable (m : Mbx)
  | telPeriod (m : Mbx)
  | timebaseSet (m : Mbx)
  | ownerInstall (m : Mbx) (nonce : W128) (flashOk : Bool)
  | keyRoll (m : Mbx) (nonce : W128) (flashOk : Bool)
  | ownerClear (m : Mbx) (nonce : W128) (flashOk : Bool)
  | attest (m : Mbx) (flashOk : Bool)
  | attestRead (m : Mbx)
  | getIdentity (m : Mbx)
  | fwBegin (m : Mbx) (flashOk : Bool)
  | fwChunk (m : Mbx) (flashOk : Bool)
  | fwCommit (m : Mbx) (flashOk : Bool)
  | fwActivate (m : Mbx) (nonce : W128)
  -- sideband
  | i3cPrivateWrite (offset : BitVec 16) (data : List Byte)
  | i3cPrivateRead (len : Nat)
  | mctpRequest (src : Byte) (body : List Byte)
  | mctpSetEndpointId (src eid : Byte)
  | mctpGetEndpointId (src : Byte)
  | mctpGetVersionSupport (src mtype : Byte)
  | mctpGetMessageTypeSupport (src : Byte)
  -- rows added later to the table
  | hostLinkUp
  | configRequest (r : CfgReq)
  | completionTimeout (q : Fin 64) (tag : Nat)
  | i3cDynamicAddress (setdasa : Option (BitVec 7)) (addr : BitVec 7)
  | inputBelowRating (aux : Bool)
  | jtagTapReset
deriving DecidableEq, Repr

end Sys2Proof
end

