-- ==== Sys2Proof/Decode.lean ====
section
/-!
DEFINITION. The commands that a word of the table spells. No row of spec/opcode_table.json gives bits: its commands
are events, not encodings, so no word spells one (DESIGN CHOICE, log entry 6). What a tile's own instruction words spell is `tileInstr`.
-/
namespace Sys2Proof

/-- The command that `nbits` bits of `w` spell by the table: none, since no row gives bits. -/
def decodeTableWord (_nbits _w : Nat) : Option Instr := none

/-! ### The tile's instruction words (R55, R62, R95, R150, R576) -/

/-- A fence by its scope, IMM24 2:0 (R77); one that is illegal is illegal under every scope's row. -/
def fenceOf (t : TileId) (g : Slot) (x : BitVec 56) : Instr :=
  match x.toNat / 4 % 8 with
  | 1 => .fenceTile t g x
  | 2 => .fenceDie t g x
  | 3 => .fenceDevice t g x
  | 4 => .fenceSys t g x
  | _ => .fenceGroup t g x

/-- The V, M, B and J forms, the instructions of one form, and those of the matrix engines and of Flowstone, by opcode. -/
def tileInstrV (t : TileId) (g : Slot) (opc : Nat) (x : BitVec 56) : Option Instr :=
  match opc with
  | 0x00 => some (.nop t g x)
  | 0x01 => some (.mov t g x)
  | 0x02 => some (.movi t g x)
  | 0x03 => some (.movl t g x)
  | 0x08 => some (.add false t g x)
  | 0x09 => some (.sub false t g x)
  | 0x0A => some (.mulLo false t g x)
  | 0x0B => some (.mulHi t g x)
  | 0x0C => some (.mad t g x)
  | 0x0D => some (.min false t g x)
  | 0x0E => some (.max false t g x)
  | 0x10 => some (.and false t g x)
  | 0x11 => some (.or false t g x)
  | 0x12 => some (.xor false t g x)
  | 0x13 => some (.not false t g x)
  | 0x14 => some (.shl false t g x)
  | 0x15 => some (.shr false t g x)
  | 0x16 => some (.sra false t g x)
  | 0x17 => some (.popc t g x)
  | 0x18 => some (.clz t g x)
  | 0x19 => some (.brev t g x)
  | 0x1A => some (.bfe t g x)
  | 0x1B => some (.bfi t g x)
  | 0x20 => some (.pcmp none t g x)
  | 0x21 => some (.sel t g x)
  | 0x22 => some (.plog t g x)
  | 0x28 => some (.fadd false t g x)
  | 0x29 => some (.fsub false t g x)
  | 0x2A => some (.fmul false t g x)
  | 0x2B => some (.fma false t g x)
  | 0x2C => some (.fmin t g x)
  | 0x2D => some (.fmax t g x)
  | 0x30 => some (.rcp t g x)
  | 0x31 => some (.rsqrt t g x)
  | 0x32 => some (.sqrt t g x)
  | 0x33 => some (.exp2 t g x)
  | 0x34 => some (.log2 t g x)
  | 0x35 => some (.sin t g x)
  | 0x36 => some (.cos t g x)
  | 0x38 => some (.cvt t g x)
  | 0x40 => some (.vote t g x)
  | 0x41 => some (.shfl false t g x)
  | 0x42 => some (.rdlane false t g x)
  | 0x43 => some (.rdsr t g x)
  | 0x50 => some (.ld t g ⟨x, [], 0⟩)
  | 0x51 => some (.st t g x)
  | 0x52 => some (.atom t g x)
  | 0x53 => some (.pf t g x)
  | 0x60 => some (.br t g x)
  | 0x61 => some (.jmp t g x)
  | 0x62 => some (.call t g x)
  | 0x63 => some (.ret t g x)
  | 0x64 => some (.exit t g x)
  | 0x65 => some (.trap t g x)
  | 0x68 => some (.bar t g x)
  | 0x69 => some (fenceOf t g x)
  | 0x80 => some (.mma t g x)
  | 0x81 => some (.mmas t g x)
  | 0x88 => some (.mtxZero t g x)
  | 0x89 => some (.mtxRd t g x)
  | 0x8A => some (.mtxWr t g x)
  | 0x8B => some (.mtxWait t g x)
  | 0xA0 => some (.flsIssue t g x)
  | 0xA1 => some (.flsWait t g x)
  | 0xA2 => some (.flsStat t g x)
  | _ => none

/-- The I forms of R576, by opcode. -/
def tileInstrI (t : TileId) (g : Slot) (opc : Nat) (x : BitVec 56) : Option Instr :=
  match opc with
  | 0xC1 => some (.shfl true t g x)
  | 0xC2 => some (.rdlane true t g x)
  | 0xC8 => some (.add true t g x)
  | 0xC9 => some (.sub true t g x)
  | 0xCA => some (.mulLo true t g x)
  | 0xCD => some (.min true t g x)
  | 0xCE => some (.max true t g x)
  | 0xD0 => some (.and true t g x)
  | 0xD1 => some (.or true t g x)
  | 0xD2 => some (.xor true t g x)
  | 0xD3 => some (.not true t g x)
  | 0xD4 => some (.shl true t g x)
  | 0xD5 => some (.shr true t g x)
  | 0xD6 => some (.sra true t g x)
  | 0xE8 => some (.fadd true t g x)
  | 0xE9 => some (.fsub true t g x)
  | 0xEA => some (.fmul true t g x)
  | 0xEB => some (.fma true t g x)
  | 0xF0 => some (.pcmp (some 0) t g x)
  | 0xF1 => some (.pcmp (some 1) t g x)
  | 0xF2 => some (.pcmp (some 2) t g x)
  | 0xF3 => some (.pcmp (some 3) t g x)
  | 0xF4 => some (.pcmp (some 4) t g x)
  | 0xF5 => some (.pcmp (some 5) t g x)
  | 0xF6 => some (.pcmp (some 6) t g x)
  | 0xF7 => some (.pcmp (some 7) t g x)
  | _ => none

/-- The instruction that a word fetched for a slot's group is, by its opcode in bits 63:56; none where no table gives the opcode.
A load is given without parity errors. -/
def tileInstr (t : TileId) (g : Slot) (w : W64) : Option Instr :=
  let opc := w.toNat / 2 ^ 56
  let x := w.setWidth 56
  if opc < 0xC0 then tileInstrV t g opc x else tileInstrI t g opc x

end Sys2Proof
end

