-- ==== Sys2Proof/Config.lean ====
section
/-!
DEFINITION. What the manual leaves to one part or leaves open: every constant here is opaque, with no body,
so that nothing in Lean can evaluate it and a statement holds whatever its value is.
-/
namespace Sys2Proof.Config

/-- The next free 64-bit value, drawn by a counter of the state (DESIGN CHOICE, log entry 1). -/
opaque freeValue : Nat → BitVec 64

/-- The bits that the fixed function `rcp` gives an f32 (R64): bits within its bound are not defined. -/
opaque rcpBits : BitVec 32 → BitVec 32
/-- As `rcpBits`, for `rsqrt` (R64). -/
opaque rsqrtBits : BitVec 32 → BitVec 32
/-- As `rcpBits`, for `exp2` (R64). -/
opaque exp2Bits : BitVec 32 → BitVec 32
/-- As `rcpBits`, for `log2` (R64). -/
opaque log2Bits : BitVec 32 → BitVec 32
/-- As `rcpBits`, for `sin` (R64). -/
opaque sinBits : BitVec 32 → BitVec 32
/-- As `rcpBits`, for `cos` (R64). -/
opaque cosBits : BitVec 32 → BitVec 32
/-- As `rcpBits`, for Flowstone's `tanh` (R161). -/
opaque tanhBits : BitVec 32 → BitVec 32
/-- As `rcpBits`, for the exp of gating and sampling (R221). -/
opaque expBits : BitVec 32 → BitVec 32

/-- The hash of a line address that chooses a directory set (R350): the manual gives no formula. -/
opaque dirSetHash : Nat → Nat

/-- Whether the XMSS signature of a firmware image verifies under Holtord's key in ROM (R531, R532). -/
opaque imageSignatureOk : List (BitVec 8) → Bool
/-- The image that the module was shipped with: header, body and signature (R531). -/
opaque factoryImage : List (BitVec 8)
/-- The 5,605-byte XMSS^MT signature of a report under the device identity's private seed, by signing index (R536, R537). -/
opaque attestSignature : BitVec 256 → Nat → List (BitVec 8) → List (BitVec 8)
/-- The device's serial number, 16 bytes (R526). -/
opaque serialNumber : BitVec 128
/-- The 68-byte identity public key of a private seed (R536), as one number. -/
opaque identityKey : BitVec 256 → BitVec 544
/-- The boot stage that a firmware body carries, byte by byte (R565): the manual does not say where in the body it lies. -/
opaque bootStage : List (BitVec 8) → List (BitVec 8)
/-- The function's PCI Express Vendor ID, which MCTP messages carry (R543): the manual gives no number. -/
opaque vendorId : BitVec 16

/-- What a 128-bit operation finds above the 64 bits of a scalar register that it reads (R56): the manual does not state it. -/
opaque scalarHigh : BitVec 64 → BitVec 64

/-- The sub-channel that holds a line of a deep-tier channel (R343). -/
opaque subChannel : Nat → Bool

end Sys2Proof.Config
end

