-- ==== Sys2Proof/Machine/State.lean ====
section
/-!
DEFINITION. The state of the module, as plain data: every register, buffer, queue, array and mode that the manual
names, the messages that are in flight between blocks, and the commands that are waiting. Sparse contents are maps:
lists of key and value with rising keys and no entry equal to what an unlisted key reads as.
-/
namespace Sys2Proof.Machine

/-- A sparse map: keys strictly rising; what an unlisted key reads as is given where the map is read. -/
abbrev Map (α : Type) := List (Nat × α)

/-- Why the block stops for good: raised by no meaning (see `NOTES.md`); kept for a state outside the address map.
`noSuchDie`: a command names a die that the package does not have; safe, since the hardware goes on. -/
inductive Fault where
  /-- Raised by no meaning of this model; safe. -/
  | noSuchDie
deriving DecidableEq, Repr

/-- Why the model gives a command no next state. -/
inductive Refusal where
  /-- Raised by an arm of `exec` whose command has no meaning yet; safe. -/
  | notModelled (mnemonic : String)
  /-- Raised by JTAG_INSTRUCTION for a Holtord debug instruction on an unowned module: the manual says that such
  instructions act and does not say what they do (R571); safe. -/
  | jtagDebug
deriving DecidableEq, Repr

/-! ### Tiles -/

/-- One entry of a group's reconvergence stack (R59). `rpc` none matches no address: the base entry. -/
structure StackEntry where
  pc : W64
  mask : W32
  rpc : Option W64
deriving DecidableEq, Repr

/-- What a group waits for before it can issue again (R53). -/
inductive GroupWait where
  | ready
  | barrier (b : Nat)
  | faulted
  | stopped
deriving DecidableEq, Repr

/-- A load or atomic of a group whose data has not come back: which registers it will write (R54). `lanes` lists each
lane with the physical address of its `width` bytes; `left` lists what has still to come: lines of a load, addresses of an
atomic; `got` holds a lane's bytes so far, keyed by lane x 16 + byte. -/
structure PendingMem where
  id : Nat
  scalar : Bool
  dst : Nat
  width : Nat
  lanes : List (Nat × Nat)
  left : List Nat
  got : Map Byte
deriving DecidableEq, Repr

/-- A group in a slot (R49, R52). `vregs` is keyed by v x 32 + lane, `preds` by predicate number. -/
structure Group where
  groupId : Nat
  attempt : Nat
  stack : List StackEntry
  exited : W32
  vregs : Map W32
  sregs : Map W64
  preds : Map W32
  wait : GroupWait
  pend : List PendingMem
  /-- Aperture accesses and home-policy writes not yet performed, or performed and not yet Visible (R365-R367). -/
  unperformed : List Nat
  invisible : List Nat
deriving DecidableEq, Repr

/-- A named barrier (R75): whether a group has named a count in this phase and which (R76), how many must arrive, the
arrivals, the slots that wait, those that have arrived and do not wait yet, and those whose phase has completed before they
wait, each with the count of that phase. -/
structure Barrier where
  named : Bool
  count : Nat
  need : Nat
  arrived : Nat
  waiters : List Nat
  early : List Nat
  passed : Map Nat
deriving DecidableEq, Repr

/-- Who issued an instruction to a unit of the tile: a slot's group, by number, in one of its runs. -/
structure Issuer where
  slot : Nat
  groupId : Nat
  attempt : Nat
deriving DecidableEq, Repr

/-- A queued matrix instruction (R108): the opcode, bits 55:0 of the word, the issuing group, the operands read at issue
(R98: registers, keyed as `Group.vregs`), the stream descriptor (R102), the pending entry of an mtx.rd, the runs of SLM
that a stream reads, as base, stride, count and length, and whether software wrote one of them meanwhile (R105). -/
structure MtxOp where
  opc : Nat
  word : BitVec 56
  from_ : Issuer
  regs : Map W32
  desc : List W64
  /-- How many Flowstone commands had issued on the tile when this instruction issued (R168). -/
  flsSeq : Nat
  pendId : Nat
  reads : List (Nat × Nat × Nat × Nat)
  spoiled : Bool
deriving DecidableEq, Repr

/-- A matrix engine (R108, R114): the head of its queue executes while it runs; by the timebase copy, `since` is when its next
instruction could have started but for its wave, and `freeAt` when its last instruction, and the wait that the throttle adds
to it (R491), ended. -/
structure Engine where
  queue : List MtxOp
  running : Bool
  cold : Bool
  since : Nat
  freeAt : Nat
deriving DecidableEq, Repr

/-- A queued Flowstone command (R151): the block's 32 words, the issuing group, its place in issue order, whether it has
started, the bytes that groups have written since its issue (space, offset and length, R171) and those that engines have
written since its start (R159), and what it will report: status bits, first completion code, and the code of a failed access
(R173, R174). -/
structure FlsCmd where
  words : List W64
  from_ : Issuer
  seq : Nat
  started : Bool
  dirty : List (Nat × Nat × Nat)
  byEngine : List (Nat × Nat × Nat)
  stat : Nat
  code : Nat
  fail : Nat
deriving DecidableEq, Repr

/-- A Flowstone command (`words` are its block) or an mmas (no words) that has completed, while the rules still keep groups from
its bytes (R105, R171): whether its own group has waited for it, the mmas's engine, the runs that it read and its accumulator
tiles. It goes once a barrier that its group reaches after that wait completes. -/
structure Uncovered where
  from_ : Issuer
  words : List W64
  engine : Nat
  reads : List (Nat × Nat × Nat × Nat)
  targets : List Nat
  waited : Bool
deriving DecidableEq, Repr

/-- An entry of the L1's merging buffer (R277); bytes keyed by offset in the line. -/
structure MergeEntry where
  line : Nat
  bytes : Map Byte
  streaming : Bool
deriving DecidableEq, Repr

/-- A line of the tile L1 (R275), keyed by set x 8 + way. -/
structure L1Line where
  line : Nat
  bytes : Map Byte
deriving DecidableEq, Repr

/-- A miss register of the L1 (R286): line, waiting instructions (slot and load), discard mark (R295), whether the fill is
installed (R280), and the bytes that the tile stored to the line meanwhile (R276). -/
structure L1Miss where
  line : Nat
  waiting : List (Nat × Nat)
  discard : Bool
  install : Bool
  stored : Map Byte
deriving DecidableEq, Repr

/-- TILE_STATE.STATE (R82). -/
inductive TileMode where
  | idle | running | stopping
deriving DecidableEq, Repr

/-- A tile (R49). -/
structure Tile where
  mode : TileMode
  job : Option JobRef
  ctx : Nat
  /-- Registers per thread A of the resident job (R50) and its SLM size in bytes (R51). -/
  alloc : Nat
  slmBytes : Nat
  rank : Nat
  groups : Map Group
  slm : Map Byte
  opCache : Map Byte
  acc : Map W32
  /-- MTX_ACC_MODE (R118). -/
  accTags : W64
  engines : Map Engine
  fls : List FlsCmd
  flsSeq : Nat
  uncovered : List Uncovered
  barriers : Map Barrier
  l1 : Map L1Line
  l1Plru : Map Nat
  l1Miss : List L1Miss
  merge : List MergeEntry
  /-- The slot whose instruction holds the global access path while it waits for a miss register (R286). -/
  heldBy : Option Nat
  /-- Merging-buffer writes that a disabled die cache has sent to homes (R298): not yet performed, and not yet Visible. -/
  unperformed : List Nat
  invisible : List Nat
deriving DecidableEq, Repr

/-! ### Requests on their way to a cache or a home -/

/-- Where the answer to a memory request goes. -/
inductive Origin where
  /-- A line fill of a tile's L1 (R276), or the bytes of one load that bypasses it. -/
  | l1Fill (t : Nat)
  | load (t g id : Nat)
  /-- A merging-buffer drain or a home-policy store of a tile (R277, R285). -/
  | store (t g id : Nat)
  | atomic (t g id : Nat)
  | dccFill (k : Nat)
  | core (a : Nat)
  | host (id : Nat)
  | fabric (id : Nat)
  | none
deriving DecidableEq, Repr

/-- What a coherent transaction at a home is for (R353, R360, R361). -/
inductive TxnKind where
  | rdShared | rdUnique | upgrade | clean | flush | nc | atomic | evict
deriving DecidableEq, Repr

/-- What a memory request asks (R320). `read` says which bytes of the line it needs; `write` bytes are keyed by offset in
the line and `poison` marks offsets. An atomic carries its chained operands in lane order with the offset (R73, R74).
`coh` is a coherent request of the agent that the origin names (R352). -/
inductive ReqKind where
  | read (need : BitVec 128)
  | write (bytes : Map Byte) (poison : List Nat)
  | atomic (aop : BitVec 4) (ty : BitVec 4) (off : Nat) (operands : List (W64 × W64))
  | coh (k : TxnKind)
deriving DecidableEq, Repr

/-- A request for one line at a home or a die cache. -/
structure MemReq where
  id : Nat
  line : Nat
  kind : ReqKind
  from_ : Origin
  /-- Die-cache policy (R280): home-policy accesses pass it under R285; streaming inserts at the replacement position. -/
  home : Bool
  streaming : Bool
  /-- The requester's key for the prefetcher (R288) and its demand or prefetch nature. -/
  requester : Nat
  prefetch : Bool
deriving DecidableEq, Repr

/-- An answer on its way back: to an L1 (L1_FILL_ARRIVE) or a die cache (DCC_FILL_ARRIVE); `code` nonzero is an error. -/
structure FillMsg where
  line : Nat
  bytes : Map Byte
  code : Nat
  dest : Origin
  /-- It comes from a home, over the links between the dies; another comes from the die cache of the requester's die. -/
  far : Bool
deriving DecidableEq, Repr

/-- What a home answers to a non-coherent write (R360): the request, who sent it, whether the answer says Performed and Visible, the
line, and a code where the answer is lost on its way (R38). -/
structure StoreAnswer where
  id : Nat
  dest : Origin
  performed : Bool
  visible : Bool
  line : Nat
  code : Nat
deriving DecidableEq, Repr

/-- What a home answers to a load or an atomic of a tile (R54): slot and request, the line or the address that it answers, the
code, a line's bytes or an atomic's results. -/
structure TileAnswer where
  t : Nat
  g : Nat
  id : Nat
  key : Nat
  code : Nat
  data : List Byte
  outs : Option (List Nat)
deriving DecidableEq, Repr

/-! ### Die caches -/

/-- A way of a die-cache set (R282), keyed by set x 16 + way; masks by byte of the line. -/
structure DccLine where
  line : Nat
  valid : BitVec 128
  dirtyMask : BitVec 128
  poison : BitVec 128
  bytes : Map Byte
  pending : Bool
  /-- A prefetch fetched the line (R288), and a demand access has hit it since (R311). -/
  prefetched : Bool
  used : Bool
deriving DecidableEq, Repr

/-- A die-cache miss register (R287): the waiting requests with the bytes that were valid when each arrived, which R69
keeps from later stores, and the code of poisoned ones among those that it needs (R302). -/
structure DccMiss where
  line : Nat
  way : Nat
  waiting : List (MemReq × Map Byte × Nat)
  discard : Bool
deriving DecidableEq, Repr

/-- A stream entry of the prefetcher (R288). -/
structure PfStream where
  requester : Nat
  page : Nat
  last : Nat
  stride : Int
  conf : Nat
deriving DecidableEq, Repr

/-- The register-issued maintenance operation in progress (R290-R296): the first line not yet visited (`pos`, past the
range once all are), the lines that PRELOAD fetches, and the ways that it has filled, by set and way. -/
structure Maint where
  op : Nat
  addr : Nat
  len : Nat
  ways : Nat
  lock : Bool
  pos : Nat
  fetching : List Nat
  placed : List Nat
  skipped : Nat
  notPlaced : Nat
deriving DecidableEq, Repr

/-- A die cache (R281); `plru` holds a set's replacement tree, `streams` the most recently used first. -/
structure DieCache where
  lines : Map DccLine
  plru : Map Nat
  misses : List DccMiss
  inq : List MemReq
  streams : List PfStream
  maint : Option Maint
deriving DecidableEq, Repr

/-! ### Grotto, queues and engines -/

/-- A descriptor that its engine has taken (R192): its ring slot and that slot's Grotto offset, the engine (8 for the fabric)
and context of its queue, its 16 words, and how far it is. -/
structure Taken where
  slot : Nat
  off : Nat
  engine : Nat
  ctx : Nat
  words : List W64
  started : Bool
  /-- Set when its work is done: the completion code and INFO to write (R194). -/
  result : Option (Nat × Nat)
  signal : Bool
  /-- Parts still outstanding, by number: contributions, rows or packets that must be answered (R200, R229, R428). -/
  waiting : List Nat
  /-- The parts that failed, in order of their answers, with their codes. -/
  fails : List (Nat × Nat)
  /-- The virtual address of a translation fault (R386). -/
  fva : Nat
  /-- The bytes read and written, as place, first byte and length: place 0 is physical addresses, place t + 1 the SLM of
  tile t. -/
  reads : List (Nat × Nat × Nat)
  writes : List (Nat × Nat × Nat)
  /-- Software wrote bytes that R265 keeps from it. -/
  spoiled : Bool
deriving DecidableEq, Repr

/-- Who waits for an answer: the queue of a C-die that holds the descriptor, its ring slot, and the part. -/
structure Part where
  k : Nat
  key : Nat
  slot : Nat
  part : Nat
deriving DecidableEq, Repr

/-- A destination of a SEND, or a connection of an A2A operation, in the order in which they are served (R227, R228, R432):
the descriptor's ring slot, its index, where its record goes and what the record holds (none where it has none), the parts
not yet answered, the rows written, the code of its failure, and whether the record has been sent. -/
structure SendDest where
  desc : Nat
  dest : Nat
  kind : Nat
  die : Nat
  conn : Nat
  slot : Nat
  rank : Nat
  record : Option (List Byte)
  left : List Nat
  rowsOk : Nat
  failed : Nat
  recordFailed : Bool
  sent : Bool
deriving DecidableEq, Repr

/-- A descriptor queue's engine-side state; HEAD and PHASE are in its QSTAT register (R213). -/
structure Queue where
  taken : List Taken
  sends : List SendDest
deriving DecidableEq, Repr

/-- A collective slot (R205-R208): `key` and `dslot` name the queue and ring slot of its open descriptor. -/
structure CollSlot where
  ctx : Nat
  mode : Nat
  op : Nat
  ty : Nat
  dst : Nat
  stage : Nat
  len : Nat
  n : Nat
  arrived : List Nat
  key : Nat
  dslot : Nat
  timeoutUs : Nat
deriving DecidableEq, Repr

/-- A contribution on its way to a C-die's collective engine (R207), with who sent it, so that PUT or SEND learns the code. -/
structure Contribution where
  ctx : Nat
  slot : Nat
  rank : Nat
  data : List Byte
  owner : Part
deriving DecidableEq, Repr

/-- What a decoder stream is bound to (R235): context, source, length, first panel, first K block, the header's word 0, and
whether software has written the stream or moved its granules since (R239). -/
structure Binding where
  ctx : Nat
  src : Nat
  len : Nat
  panel0 : Nat
  kblk0 : Nat
  hdr : Nat
  spoiled : Bool
deriving DecidableEq, Repr

/-- A change of a decoder stream in progress (R236): the queue and ring slot of the BIND or UNBIND, the binding it gives,
none for UNBIND, the INFO of its completion, and whether it leaves the binding alone, as an UNBIND by another context does. -/
structure Rebind where
  queue : Nat
  slot : Nat
  next : Option Binding
  info : Nat
  keeps : Bool
deriving DecidableEq, Repr

/-- A decoder stream (R234-R237), keyed by quad x 8 + s - 1. -/
structure DecStream where
  bound : Option Binding
  changing : Option Rebind
deriving DecidableEq, Repr

/-- A C-die's Grotto and the engines around it. -/
structure Grotto where
  bytes : Map Byte
  /-- 64-bit words that an uncorrectable error poisoned (R187), by word number. -/
  poison : List Nat
  /-- Ownership writes that wait for their effect (R190), oldest first: the register, the fields written and their value. -/
  ownerPending : List (Nat × Nat × Nat)
  queues : Map Queue
  coll : Map CollSlot
  contribs : List Contribution
  decoders : Map DecStream
  /-- The queue that the engine served last, plus one (R215, R254). -/
  hlxLast : Nat
  drpLast : Nat
  drpTablePending : Option Bool
deriving DecidableEq, Repr

/-! ### Homes and coherence -/

/-- A Sump or merge-buffer entry (R321): the masked bytes by offset, those of them that are poisoned (R330), and the failure
flag, which the model sets while any is (DEDUCED, log entry 101). -/
structure SumpEntry where
  line : Nat
  bytes : Map Byte
  poison : List Nat
  failed : Bool
deriving DecidableEq, Repr

/-- A stack read (R321): the line as it was at the request's arrival, the Sump's bytes among it, which bytes the stack
must give, and the code that the stack already held for them then. -/
structure StackRead where
  req : MemReq
  data : List Byte
  need : BitVec 128
  code : Nat
deriving DecidableEq, Repr

/-- A directory state (R349). -/
inductive DirState where
  | shared
  | excl (o : Nat)
  | owned (o : Nat)
deriving DecidableEq, Repr

/-- A holder set (R349): up to 8 agents, or a coarse vector of 20 bits. -/
inductive Holders where
  | ptr (ids : List Nat)
  | coarse (v : BitVec 20)
deriving DecidableEq, Repr

/-- A directory entry (R349), keyed by line; `stamp` orders last uses (R350). -/
structure DirEntry where
  st : DirState
  holders : Holders
  stamp : Nat
deriving DecidableEq, Repr

/-- A coherent transaction in progress for a line (R351): the snoops without an answer, the modified line returned, the
agents of whose crossing only the answer or only the WbDirty has arrived (R357), whether an answer was RspClean or
RspData, the atomic to execute or the NcWrite to answer Visible when it ends, the bytes that the NcWrite carried, and,
for a request that waits for a directory eviction (R350), the evicted line. -/
structure Txn where
  kind : TxnKind
  req : Nat
  waiting : List Nat
  data : Option (List Byte)
  wbFrom : List Nat
  gotClean : Bool
  gotData : Bool
  request : Option MemReq
  written : List Nat
  stalled : Option Nat
deriving DecidableEq, Repr

/-- The coherence messages that the home or an agent sends and a row of the table receives (R352). -/
inductive CohMsg where
  | snpShared | snpUnique | snpInv | snpClean
  | rspAbsent | rspClean
  | rspData (bytes : List Byte)
  | rspWbInFlight
  | grantS (bytes : List Byte)
  /-- `stale`: memory does not hold the bytes, which came from another agent (R353). -/
  | grantE (bytes : List Byte) (stale : Bool)
  | grantUpgrade
  | wbDirty (bytes : List Byte)
  | wbAck | cmoAck
  /-- The home could not read the line: the code of the read (R328, R330). -/
  | grantErr (code : Nat)
deriving DecidableEq, Repr

/-- A message in flight between agent `agent` and the home of `line`. -/
structure Flight where
  agent : Nat
  line : Nat
  msg : CohMsg
deriving DecidableEq, Repr

/-- A line of an agent's cache (R348), keyed by agent x 2^41 + line. -/
inductive MoesiState where
  | m | o | e | s
deriving DecidableEq, Repr

structure CacheLine where
  st : MoesiState
  bytes : List Byte
  /-- The 48-clock hold after a Grant, and the snoop that it defers (R355). -/
  hold : Bool
  deferred : Option CohMsg
deriving DecidableEq, Repr

/-- A core's AMO that waits for its line or for AmoResult (R362). -/
structure AmoWait where
  op : CoreAmo
  far : Bool
  snooped : Bool
deriving DecidableEq, Repr

/-- A home (R320): arrivals in order, how many of them came over the M-link that has given up its traffic (R336), Sump with the least recently written entry first, write queue in order, reads, merge-failure
list, and, while a register-issued drain runs, whether it met a failed merge (R323). -/
structure HomeSt where
  reqs : List MemReq
  sent : Nat
  sump : List SumpEntry
  writeQ : List (Nat × List Byte)
  reads : List StackRead
  mergeFails : List Nat
  drain : Option Bool
  /-- Atomics whose line has no holder left (R361), and the lines in the unit's 512-line store, most recent first (R325): an
  X-die has one unit, whose store stands in its first controller. -/
  amuQ : List MemReq
  amu : List Nat
  /-- Line, requester and master tick of recent atomics and grants (R363). -/
  recent : List (Nat × Nat × Nat)
deriving DecidableEq, Repr

/-! ### Jobs -/

/-- How far a job is (R390-R393). -/
inductive JobStage where
  | waiting (blocked : Bool) | running | ended
deriving DecidableEq, Repr

/-- A job that a dispatcher has taken: the 32 descriptor words, its tiles by rank, and its progress. -/
structure Job where
  ref : JobRef
  words : List W64
  stage : JobStage
  tiles : List Nat
  ntiles : Nat
  /-- Groups launched so far on each rank (R392). -/
  next : Map Nat
  /-- Groups that must run again: group and attempt (R395). -/
  rerun : List (Nat × Nat)
  /-- Group runs that have exited: group, tile, attempt. -/
  exited : List (Nat × Nat × Nat)
  /-- Tiles of the job that were fenced while it ran (R395). -/
  lost : List Nat
  /-- Physical ranges of inputs and outputs (R389). -/
  ins : List (Nat × Nat)
  outs : List (Nat × Nat)
  cplPa : Nat
  /-- The tile count of the image that it resumed, if that differed (R398): the image's rank of group g is g modulo it. -/
  shape : Option Nat
  /-- The first ending cause (R393), whether it is a precise fault, its fault fields, and completion status so far. -/
  endCode : Option Nat
  faulted : Bool
  firstStatus : Nat
  fls : Nat
  tileLost : Bool
  nonrepro : Bool
  saved : Bool
  silent : Bool
  startTb : Nat
  faultPc : Nat
  faultVa : Nat
  faultTile : Nat
  faultSlot : Nat
  faultGroup : Nat
  /-- Host queue and QGEN under which it was submitted, and the vector of JINT (R459). -/
  host : Option (Nat × Nat × Option Nat)
  /-- The microjoules charged so far, as a fraction (R509): numerator and denominator. -/
  energy : Nat × Nat
  /-- Blocks of an image that still wait for a tile (R398). -/
  blocks : List Nat
  /-- The tick at which it was taken, and whether a JOB_CTL operation waits for its end (R391, R404). -/
  takenAt : Nat
  ctl : Bool
deriving DecidableEq, Repr

/-- A cached translation (R385): who holds it (tile number, or 1024 + C-die for a walker), context, virtual page, and
what the walk gave: physical page and permission bits. -/
structure TlbEntry where
  holder : Nat
  ctx : Nat
  vpage : Nat
  ppage : Nat
  perm : Nat
deriving DecidableEq, Repr

/-! ### Fabric -/

/-- An unanswered request of a connection (R424): its packet, the part of an operation that waits for it, if it still does,
how often it has been sent, its RX_FULL answers, whether it waits out one of them (R430), and where its source is read or its data goes: space, C-die and address (R428). -/
structure OutReq where
  pkt : Packet
  owner : Option Part
  sends : Nat
  rxFull : Nat
  rxWait : Bool
  lspace : Nat
  ldie : Nat
  laddr : Nat
deriving DecidableEq, Repr

/-- The end-to-end state of a connection beyond its registers (R421-R424). -/
structure Conn where
  out : List OutReq
  /-- The tick of the last NAK sent for a request ahead of its turn (R423). -/
  lastNak : Option Nat
  /-- Contributions partly received (R431), keyed by (C-die x 64 + slot) x 1024 + rank: the code of the packet at offset 0. -/
  partial_ : Map Nat
deriving DecidableEq, Repr

/-- A packet that waits at a port (R413): the port on which it came, 16 for this module's own, the packet as it came, and as it
leaves (R420). -/
structure Queued where
  inPort : Nat
  came : Packet
  pkt : Packet
deriving DecidableEq, Repr

/-- A fabric port (R407-R413). -/
structure PortSt where
  txSeq : BitVec 12
  rxSeq : BitVec 12
  replay : List DataFrame
  /-- Flits in the newest frame of `replay` while it has room for more, else 0 (R408). -/
  openFlits : Nat
  nakPending : Bool
  /-- How often each unacknowledged frame has been replayed, by FSEQ (R411). -/
  replays : Map Nat
  missed : Nat
  fullWidth : Bool
  /-- What this end told its partner in its last training (R412). -/
  told : Option TrainParams
  /-- The transmitter's credits (R409, R418), in flits: reserved ones in use by VC, shared ones in use, and the cumulative
  counts of returned credits that the partner last reported, shared ones under key 8. -/
  credits : Map Nat
  sharedUsed : Nat
  returned : Map Nat
  /-- The receiver's buffer: reserved and shared flits held, by VC, and the cumulative counts of those it has returned. -/
  rxHeld : Map Nat
  rxHeldShared : Map Nat
  rxReserved : Map Nat
  rxShared : Nat
  /-- The VC that the transmitter served last (R418). -/
  lastVc : Nat
  /-- Packets routed to the port and not yet sent (R413). -/
  queue : List Queued
  /-- Packets received in order and not yet routed. -/
  rx : List Packet
  /-- The partner has requested down (R411), and asks for keep-alive or grants it (R413). -/
  downAsked : Bool
  kaAsked : Bool
  kaGranted : Bool
deriving DecidableEq, Repr

/-! ### Host interface -/

/-- A command that a host queue has started (R455). -/
structure HostCmd where
  idx : Nat
  slot : HostSlot
  /-- Completion code and INFO once the work is done. -/
  result : Option (Nat × Nat)
  /-- Host read requests outstanding: tag, host address, device address, bytes. -/
  reads : List (Nat × Nat × Nat × Nat)
  /-- The next byte to ask the host for, and the bytes moved. -/
  nextOff : Nat
  moved : Nat
deriving DecidableEq, Repr

/-- A host queue beyond its registers (R451, R463). -/
structure HostQueue where
  /-- The value of HIF_HQ_CFG_n under which the queue was enabled. -/
  cfg : Nat
  sqTail : Nat
  cqHead : Nat
  /-- Entries written and not yet returned by CQ_HEAD. -/
  cqUsed : Nat
  phase : Bool
  /-- Started commands whose entries are not written, in ring order. -/
  started : List HostCmd
  /-- Entries written since the last signal (R463). -/
  unsignalled : Nat
deriving DecidableEq, Repr

/-- What the device sends through the port, in order (R443, R458). -/
inductive HostPost where
  | write (addr : Nat) (data : List Byte)
  | msix (vector : Nat)
  | readReq (tag addr len : Nat)
  | completion (status : Nat) (data : List Byte) (poisoned : Bool)
  | mctp (dest : Byte) (body : List Byte)
deriving DecidableEq, Repr

/-- A job that a SUBMIT placed: its ring slot, and the queue, QGEN and JINT vector under which it came (R454, R459). -/
structure HostSubmit where
  job : JobRef
  queue : Nat
  qgen : Nat
  jvec : Option Nat
deriving DecidableEq, Repr

structure HostIf where
  linkUp : Bool
  training : Bool
  busMaster : Bool
  /-- Max Payload Size and Max Read Request Size, as the exponents of 128 bytes that the host set (R442). -/
  mps : Fin 3
  mrrs : Fin 6
  msixOn : Bool
  msixMask : Bool
  d3hot : Bool
  bars : Map W32
  /-- The MSI-X table in 32-bit words (R445). -/
  msixTable : Map W32
  msixPending : W64
  queues : Map HostQueue
  sent : List HostPost
  aer : List Nat
  /-- Uszon requests L0p narrowing of the link to x1 (R443, R507). -/
  narrow : Bool
deriving DecidableEq, Repr

/-! ### Links, power, management -/

/-- A die-to-die link end beyond its registers (R470-R480); M-links use `slices`. -/
structure LinkSt where
  mask : BitVec 16
  fails : Nat
  firstMismatch : Nat
  /-- The next attempt tests every module afresh (R476). -/
  fresh : Bool
  /-- An identity check failed: no attempt until RETRAIN is written (R471). -/
  stopped : Bool
  /-- A third mismatch has fenced the link until UNFENCE or a main-domain reset (R477). -/
  fenced : Bool
  slices : BitVec 32
  /-- Modules or slices of the set that was last adopted (R473). -/
  before : Nat
  /-- Flits that wait for replay after a successful attempt (R474). -/
  replay : Nat
  /-- The identity message that the end sent last (R470). -/
  sent : Option Identity
deriving DecidableEq, Repr

/-- A partner of the power group (R501-R505): its last accepted report and when it arrived. -/
structure Partner where
  node : Nat
  seq : Option Nat
  at_ : Nat
  budget : Nat
  limit : Nat
  wait : Nat
  grantTo : Nat
  grantW : Nat
  /-- The watts and the arrival of its latest report that names this module (R505). -/
  heldW : Nat
  heldAt : Nat
  stale : Bool
deriving DecidableEq, Repr

structure Rimstone where
  /-- Thermal step of the variable islands (R497), by die index. -/
  thermal : Map Nat
  /-- Islands of a die whose clock is stretched (R492), as die index x 64 + `islandNo`. -/
  stretched : List Nat
  /-- Last reading of each sensor in degrees, keyed by `sensorNo`, and the sensors that have failed (R499). -/
  readings : Map Int
  failed : List Nat
  /-- Power samples in watts, newest first, as many as the longest average needs (R489). -/
  samples : List Nat
  /-- Each die's 10 us averages of the last 1 ms, newest first, and its share: watts are the first divided by the second (R490). -/
  draw : Map (List Nat)
  share : Map (Nat × Nat)
  /-- The power group, its grant step and partners (R501), this member's grant, the SEQ of its next report, and the grants
  that it has announced, with the tick, newest first (R504, R505). -/
  group : Option Nat
  g : Nat
  partners : List Partner
  grantTo : Nat
  grantW : Nat
  seq : Nat
  announced : List (Nat × Nat)
  /-- Nanoseconds since the last report in which the module waited (R503). -/
  waited : Nat
  idleMs : Nat
  deepIdle : Bool
deriving DecidableEq, Repr

/-- A record that Uszon will write to the fault ring (R523, R524). -/
structure FaultEvent where
  code : Nat
  die : Nat
  severity : Nat
  info0 : Nat
  info1 : Nat
deriving DecidableEq, Repr

/-- The key store (R518): the owner key and the private seed of the device identity. The flash holds them encrypted under a key in
X0's fuses, and only Uszon reads them: here they stand as Uszon reads them. -/
structure KeyStore where
  ownerKey : Option (BitVec 256)
  identitySeed : BitVec 256
deriving DecidableEq, Repr

/-- The regions of the boot flash (R518). -/
inductive FlashRegion where
  | image | storeA | storeB | config | keys | faultLog
deriving DecidableEq, Repr

/-- Where a region begins and how long it is (R518). -/
def FlashRegion.range : FlashRegion → Nat × Nat
  | .image => (0x0000000, 0x100000)
  | .storeA => (0x0100000, 0x10000)
  | .storeB => (0x0110000, 0x10000)
  | .config => (0x0120000, 0x10000)
  | .keys => (0x0130000, 0x10000)
  | .faultLog => (0x0140000, 0x3EC0000)

/-- The boot flash (R518, R535). -/
structure Flash where
  /-- The key store (R518). -/
  keys : KeyStore
  /-- The image region: none while it holds the image that the module was shipped with; `good` when the image there passes
  the ROM's checks and an update of it was committed (R532, R534). -/
  image : Option (List Byte)
  good : Bool
  copyA : Nat × Nat × Nat
  copyB : Nat × Nat × Nat
  fenceRecord : List Nat
  table : Bool
  trims : Map Nat
  fmax : Map Nat
  budget : Option (Nat × Nat × Nat)
  groupCfg : Option (Nat × Nat × List Nat)
  idleMs : Option Nat
  pace : Option W64
  faultLog : List (List W64)
deriving DecidableEq, Repr

/-- A class B command in progress (R521): its opcode, the object it names, and its code and response once known. -/
structure PendB where
  op : Nat
  arg : Nat
  result : Option (Nat × List Byte)
deriving DecidableEq, Repr

structure Uszon where
  /-- Running the firmware, the recovery loader, or not running (R532, R533). -/
  running : Bool
  recovery : Bool
  /-- The image that was loaded, header first, none for the shipped one (R532). -/
  image : Option (List Byte)
  nonce : W128
  floors : Map W64
  /-- A start-up has failed (R564): only MODULE_RESET, MOD_RESET_N or a new application of auxiliary power starts again. -/
  startFailed : Bool
  genCounter : BitVec 16
  faults : List FaultEvent
  /-- Class B commands in progress by mailbox (R521, R526). -/
  pendingB : Map PendB
  /-- The mailboxes in the order in which their last commands were accepted (R522). -/
  order : List Nat
  fwSize : Option Nat
  fwReceived : Nat
  fwOpen : Bool
  report : List Byte
  signIndex : Nat
  epoch : W32
  nextBoundary : Nat
  newPeriod : Option Nat
  timeSet : Option (Nat × Nat)
deriving DecidableEq, Repr

structure Sideband where
  i3cAddr : Option (BitVec 7)
  i3cOffset : BitVec 16
  /-- Bytes of a word not yet whole, by word address (R542). -/
  i3cPart : Map (Map Byte)
  ibi : List Byte
  i3cOut : List Byte
  eid : Byte
  lastRequester : Option Byte
  /-- The endpoint whose request mailbox 30 holds (R543). -/
  requester : Option Byte
deriving DecidableEq, Repr

structure Pins where
  aux : Bool
  auxReset : Bool
  pwrEn : Bool
  modResetN : Bool
  perstN : Bool
  pwrGood : Bool
  modReady : Bool
  alertN : Bool
  rails : Bool
  underRating : Bool
deriving DecidableEq, Repr

/-- A Tamier core (R565, R566): in reset, or running from the address it was released at. -/
structure CoreSt where
  released : Bool
  /-- It runs in machine mode, in which it leaves reset (R565, R566). -/
  machine : Bool
  vec : Nat
  reservation : Option Nat
  amo : Option AmoWait
  /-- Lines of cache operations without a CmoAck yet (R369). -/
  cmo : List Nat
deriving DecidableEq, Repr

/-- X0's JTAG TAP (R571): its instruction, what the boundary cells hold for the outputs, and what they last captured. -/
structure Jtag where
  ir : JtagOp
  boundary : List Bool
  captured : List Bool
deriving DecidableEq, Repr

/-- The whole module. -/
structure State where
  /-- Register space, by address (R8): what is listed differs from its reset value. -/
  regs : Map W64
  /-- The master timebase (R33), and each die's copy, by die index, with whether it holds (R33). -/
  master : W64
  copies : Map W64
  copyHeld : List Nat
  pins : Pins
  holds : List Nat
  tiles : Map Tile
  /-- What SR_CLOCK last gave on each tile since it left reset (R66). -/
  tileClocks : Map Nat
  dcc : Map DieCache
  /-- Fills on their way to tiles (R276) and die caches (R287), by their order of sending. -/
  l1Fills : List FillMsg
  dccFills : List (Nat × FillMsg)
  grottos : Map Grotto
  mem : Map Byte
  /-- Poisoned half-lines by number, and how many symbols are wrong in the cells of the others (R327-R330). -/
  memPoison : List Nat
  memErrs : Map Nat
  homes : Map HomeSt
  /-- What homes have answered to non-coherent requesters and not yet delivered (R360). -/
  answers : List StoreAnswer
  /-- What homes have answered to loads and atomics of tiles and not yet delivered. -/
  tileAnswers : List TileAnswer
  /-- Corrected errors that no register counts: of C-die k's Grotto under key k (R187), of its die cache under 8 + k (R302), of the
  directory slice of a die under 16 + its index (R351), of a tile under 64 + its number (R80). -/
  eccCorrected : Map Nat
  dir : Map DirEntry
  txns : Map Txn
  cohNet : List Flight
  caches : Map CacheLine
  wbBuf : Map (List Byte)
  predictor : Map Nat
  /-- AmoResult on its way: core, prior value, CONTENDED, and the code of an atomic that failed (R326, R363). -/
  amoResults : List (Nat × W64 × Bool × Nat)
  cores : Map CoreSt
  /-- Stacks whose requests are held during an M-link switch (R38), by M-base, and dies that a command keeps in reset (R45). -/
  heldStacks : List Nat
  /-- Tiles that were fenced because their die was lost, which its rejoin clears (R405), by module-wide number. -/
  lossFenced : List Nat
  holdDies : List Nat
  gatedQuads : List Nat
  jobs : List Job
  rrNext : Map Nat
  hostSubmits : List HostSubmit
  tlb : List TlbEntry
  ports : Map PortSt
  conns : Map Conn
  /-- Packets delivered to this module and not yet handled, each with the port that it came in on, 16 for this module. -/
  delivered : List (Nat × Packet)
  /-- Consumer and producer counts of receive queues (R430), keyed by L-die index x 64 + queue. -/
  rxConsumed : Map Nat
  rxProduced : Map Nat
  host : HostIf
  links : Map LinkSt
  rim : Rimstone
  uszon : Uszon
  flash : Flash
  side : Sideband
  jtag : Jtag
  nextId : Nat
  /-- The model's own field: how many free values have been drawn (DESIGN CHOICE, log entry 1). -/
  freeCount : Nat
  /-- The commands that are waiting, first in, first out. -/
  pending : List Instr
deriving DecidableEq, Repr

/-! ### What each part holds after reset -/

/-- A matrix engine after a main-domain reset: idle and cold (R117). -/
def Engine.reset : Engine := { queue := [], running := false, cold := true, since := 0, freeAt := 0 }

/-- A tile after a main-domain reset (R82): idle, holding nothing. -/
def Tile.reset : Tile :=
  { mode := .idle, job := none, ctx := 0, alloc := 0, slmBytes := 0, rank := 0, groups := [], slm := [], opCache := [],
    acc := [], accTags := 0, engines := [], fls := [], flsSeq := 0, uncovered := [], barriers := [], l1 := [],
    l1Plru := [], l1Miss := [], merge := [], heldBy := none, unperformed := [], invisible := [] }

/-- A die cache after a main-domain reset: nothing held (R35 leaves its contents undefined; it is disabled, R307). -/
def DieCache.reset : DieCache := { lines := [], plru := [], misses := [], inq := [], streams := [], maint := none }

/-- A descriptor queue with nothing taken. -/
def Queue.reset : Queue := { taken := [], sends := [] }

/-- A decoder stream after reset (R242). -/
def DecStream.reset : DecStream := { bound := none, changing := none }

/-- A Grotto after a main-domain reset or a rejoin (R42). -/
def Grotto.reset : Grotto :=
  { bytes := [], poison := [], ownerPending := [], queues := [], coll := [], contribs := [], decoders := [],
    hlxLast := 0, drpLast := 0, drpTablePending := none }

/-- A home after a main-domain reset (R320). -/
def HomeSt.reset : HomeSt :=
  { reqs := [], sent := 0, sump := [], writeQ := [], reads := [], mergeFails := [], drain := none, amuQ := [], amu := [],
    recent := [] }

/-- A fabric port after a main-domain reset (R435). -/
def PortSt.reset : PortSt :=
  { txSeq := 0, rxSeq := 0, replay := [], openFlits := 0, nakPending := false, replays := [], missed := 0, fullWidth := false,
    told := none, credits := [], sharedUsed := 0, returned := [], rxHeld := [], rxHeldShared := [], rxReserved := [],
    rxShared := 0, lastVc := 0, queue := [], rx := [], downAsked := false, kaAsked := false, kaGranted := false }

/-- A connection with nothing in flight. -/
def Conn.reset : Conn := { out := [], lastNak := none, partial_ := [] }

/-- A host queue with nothing in it. -/
def HostQueue.reset : HostQueue :=
  { cfg := 0, sqTail := 0, cqHead := 0, cqUsed := 0, phase := true, started := [], unsignalled := 0 }

/-- The host interface after a host-port reset (R461): the payload and request sizes are PCI Express's initial 128 and 512 bytes
(PRESUMED, log entry 162). -/
def HostIf.reset : HostIf :=
  { linkUp := false, training := false, busMaster := false, mps := 0, mrrs := 2, msixOn := false, msixMask := false, d3hot := false, bars := [],
    msixTable := [], msixPending := 0, queues := [], sent := [], aer := [], narrow := false }

/-- A link end after a main-domain reset (R482). -/
def LinkSt.reset : LinkSt := 
  { mask := 0, fails := 0, firstMismatch := 0, fresh := true, stopped := false, fenced := false, slices := 0, before := 0, replay := 0,
    sent := none }

/-- A partner that has not reported yet (R501). -/
def Partner.new (n : Nat) : Partner :=
  { node := n, seq := none, at_ := 0, budget := 0, limit := 0, wait := 0, grantTo := 0, grantW := 0, heldW := 0, heldAt := 0,
    stale := false }

/-- Rimstone after a main-domain reset. -/
def Rimstone.reset : Rimstone :=
  { thermal := [], stretched := [], readings := [], failed := [], samples := [], share := [], draw := [], group := none, g := 25,
    partners := [], grantTo := 0, grantW := 0, seq := 0, announced := [], waited := 0, idleMs := 10,
    deepIdle := false }

/-- The flash as the module is shipped: a good image, nothing recorded, no setting stored (DESIGN CHOICE, log entry 3). -/
def Flash.reset : Flash :=
  { keys := { ownerKey := none, identitySeed := 0 }, image := none, good := true, copyA := (0, 0, 0), copyB := (0, 0, 0), fenceRecord := [], table := false, trims := [], fmax := [],
    budget := none, groupCfg := none, idleMs := none, pace := none, faultLog := [] }

/-- Uszon before its first start. -/
def Uszon.reset : Uszon :=
  { running := false, recovery := false, image := none, nonce := 0, floors := [], startFailed := false, genCounter := 0, faults := [],
    pendingB := [], order := [], fwSize := none, fwReceived := 0, fwOpen := false, report := [], signIndex := 0,
    epoch := 0, nextBoundary := 0, newPeriod := none, timeSet := none }

/-- The sideband before its first address (R542, R543). -/
def Sideband.reset : Sideband :=
  { i3cAddr := none, i3cOffset := 0, i3cPart := [], ibi := [], i3cOut := [], eid := 0, lastRequester := none,
    requester := none }

/-- The pins with no power applied: outputs held low (R554), inputs open (R553). -/
def Pins.reset : Pins :=
  { aux := false, auxReset := true, pwrEn := false, modResetN := false, perstN := false, pwrGood := false,
    modReady := false, alertN := true, rails := false, underRating := false }

/-- A core in reset (R565). -/
def CoreSt.reset : CoreSt := { released := false, machine := false, vec := 0, reservation := none, amo := none, cmo := [] }

/-- The TAP after its reset: BYPASS (R571). -/
def Jtag.reset : Jtag := { ir := .bypass, boundary := [], captured := [] }

/-- The module before auxiliary power is applied: every register at its reset value, nothing in any array, no pin
driven (DESIGN CHOICE, log entry 2). -/
def State.reset : State :=
  { regs := [], master := 0, copies := [], copyHeld := [], pins := Pins.reset, holds := [], tiles := [], tileClocks := [], dcc := [],
    l1Fills := [], dccFills := [], grottos := [], mem := [], memPoison := [], memErrs := [], homes := [], answers := [], tileAnswers := [], eccCorrected := [],
    dir := [], txns := [], cohNet := [], caches := [], wbBuf := [], predictor := [], amoResults := [], cores := [],
    heldStacks := [], lossFenced := [], holdDies := [], gatedQuads := [], jobs := [], rrNext := [], hostSubmits := [], tlb := [], ports := [], conns := [], delivered := [],
    rxConsumed := [], rxProduced := [], host := HostIf.reset, links := [], rim := Rimstone.reset, uszon := Uszon.reset,
    flash := Flash.reset, side := Sideband.reset, jtag := Jtag.reset, nextId := 0, freeCount := 0, pending := [] }

end Sys2Proof.Machine
end

