-- ==== Sys2Proof/Machine/Regs.lean ====
section
/-!
DEFINITION. The registers of the module: for each, the dies that carry it (R28), the place and repetition of its
offset, who writes it, whether the auxiliary domain holds it (R34), whether it is an event counter (R15), and the
fields of its table with access code and reset value. A reset shown as undefined is 0 here (DESIGN CHOICE, log entry 5).
-/
namespace Sys2Proof.Machine

/-- The access codes of R11. -/
inductive Acc where
  | rw | ro | wo | w1c | w1s | rc
deriving DecidableEq, Repr

/-- A field of a register: bits `hi:lo`. -/
structure Field where
  hi : Nat
  lo : Nat
  acc : Acc
  reset : Nat
deriving DecidableEq, Repr

/-- Who may write a register: every agent that reaches register space, Uszon alone, Uszon and Tamier cores in machine
mode, or the owner of the mailbox (R519). -/
inductive Writers where
  | any | uszon | uszonCore | owner | hif
deriving DecidableEq, Repr

/-- A register's place and layout. `dies` are ranges of die indices; instance (i, j) lies at offset
`base + i * outer.1 + j * inner.1` for `i < outer.2`, `j < inner.2`. -/
structure RegSpec where
  dies : List (Nat × Nat)
  base : Nat
  outer : Nat × Nat
  inner : Nat × Nat
  writers : Writers
  aux : Bool
  counter : Bool
  fields : List Field
deriving DecidableEq, Repr

/-- The registers by name. -/
inductive Reg where
  | dlkDieState | dlkDieResetCtl | tileCap | tileState | tileFault | tileFaultPc | tileWdogCtl | tileSlmReplays
  | mtxCap | mtxStatus | mtxAccMode | mtxFault | mtxBusy | mtxPaceWait | flsCap | flsStatus | flsStat | flsFault
  | flsRngCtr | flsBusy | flsCmds | l1cCap | l1cCtl | l1cHits | l1cMisses | l1cMerges | hlxDecSrc | hlxDecPos
  | hlxDecSkips | hlxDecBytes | grtCap | grtOwner | grtQcfg | grtQstat | hlxCap | hlxDrops | hlxRows | drpCap
  | drpStatus | drpRngCfg | drpRngCtr | drpRows | drpRowFails | dccCap | dccCtl | dccStatus | dccMaintAddr
  | dccMaintLen | dccMaintCmd | dccMaintStatus | dccLock | dccHits | dccMisses | dccPfIssued | dccPfUseful
  | dccWritebacks | memCap | memCfg | memStatus | memErrLog0 | memErrLog1 | memCorrected | memUncorrected
  | memRdLines | memWrLines | memTurns | smpStatus | smpDrainAddr | smpDrainLen | smpDrainCmd | smpMerges | smpRmw
  | lpdCap | lpdCfg | lpdStatus | lpdErrLog0 | lpdErrLog1 | lpdCorrected | lpdUncorrected | lpdRdLines | lpdWrLines
  | lpdTurns | lpdMergeStatus | lpdDrainAddr | lpdDrainLen | lpdDrainCmd | memAmuOps | cohCapP | cohCapX | cohCapM
  | cohAmoCtl | cohSnoops | cohSnoopAbsent | cohDirEvictions | cohWbCrossings | cohNcInvals | cohNcMerges
  | cohAmoNear | cohAmoFar | cohHoldDelays | jobCap | jobQcfg | jobQptr | jobCtx | jobCtxstat | jobCtl
  | jobCtlStatus | jobTiles | jobFenced | fabPortCtl | fabPortStatus | fabFecCorrected | fabFecUncorrectable
  | fabReplays | fabTxFlits | fabRxFlits | fabDiscards | fabNode | fabCap | fabE2eCfg | fabGroupRt | fabMemberRt
  | fabConn | fabConnSeq | fabConnPad2 | fabConnPad3 | fabQcfg | fabQstat | hifCap | hifWinBase | hifRegwinBase
  | hifHqCfg | hifHqSqbase | hifHqCqbase | hifHqStatus | hifLostRecords | hifHostLosses | hifTxBytes | hifRxBytes
  | dlkLinkCtl | dlkLinkStatus | dlkCrcErrors | dlkRetries | dlkRetrains | rimStatus | rimIslandC | rimIslandP
  | rimPaceCtl | rimModPower | rimModBudget | rimModEnergy | rimStretchClocks | rimThrottleUs | mbxFaultStatus
  | mbxFaultSoft | mbxFaultRing | mbxCmd | mbxStatus | mbxAuthCtr | mbxAuthTag0 | mbxAuthTag1 | mbxNotifyAddr
  | mbxNotifyData | mbxBuf | secStatus | telTimebase | telShadowEpoch | telShadowTb | telEpochCtl | dlkCoreRelease
  | dlkCoreVec | dlkStraps | dlkBoot
deriving DecidableEq, Repr

/-- Die indices 0x0-0x5 (R2). -/
def cDies : Nat × Nat := (0, 5)
/-- Die indices 0x8-0x9 (R2). -/
def pDies : Nat × Nat := (8, 9)
/-- Die indices 0xa-0xd (R2). -/
def lDies : Nat × Nat := (10, 13)
/-- Die indices 0xe-0xf (R2). -/
def xDies : Nat × Nat := (14, 15)
/-- Die indices 0xe-0xe (R2). -/
def x0Die : Nat × Nat := (14, 14)
/-- Die indices 0x10-0x1b (R2). -/
def mBases : Nat × Nat := (16, 27)
/-- Every die (R2). -/
def allDies : List (Nat × Nat) := [cDies, pDies, lDies, xDies, mBases]

/-- The layout of an event counter (R15). -/
def counterFields : List Field := [⟨63, 63, .w1c, 0⟩, ⟨62, 48, .ro, 0⟩, ⟨47, 0, .rw, 0⟩]

/-- The table of the registers. -/
def Reg.spec : Reg → RegSpec
  -- DLK_DIE_STATE_n (R46): LOSS_COUNT CAUSE SECONDARY REJOIN_FAILS STATE
  | .dlkDieState => ⟨[x0Die], 0x1000, (0x0, 1), (0x8, 28), .uszon, true, false,
     [⟨63, 48, .ro, 0⟩, ⟨47, 32, .ro, 0⟩, ⟨31, 24, .ro, 0⟩, ⟨23, 20, .ro, 0⟩, ⟨19, 17, .ro, 0⟩, ⟨16, 16, .ro, 0⟩,
      ⟨15, 8, .ro, 0⟩, ⟨7, 4, .ro, 0⟩, ⟨3, 0, .ro, 1⟩]⟩
  -- DLK_DIE_RESET_CTL (R47): ACTION DIE_INDEX
  | .dlkDieResetCtl => ⟨[x0Die], 0x2000, (0x0, 1), (0x8, 1), .uszon, true, false,
     [⟨63, 12, .wo, 0⟩, ⟨11, 8, .wo, 0⟩, ⟨7, 0, .wo, 0⟩]⟩
  -- TILE_CAP (R81): ISA_MAJOR ISA_MINOR GROUP_WIDTH MAX_GROUPS VREG_UNITS SLM_KIB
  | .tileCap => ⟨[cDies], 0x10000000, (0x100000, 128), (0x8, 1), .any, false, false,
     [⟨63, 56, .ro, 4⟩, ⟨55, 48, .ro, 0⟩, ⟨47, 40, .ro, 0x20⟩, ⟨39, 32, .ro, 0x10⟩, ⟨31, 16, .ro, 0x100⟩,
      ⟨15, 0, .ro, 0x200⟩]⟩
  -- TILE_STATE (R82): RESIDENT CONTEXT STATE
  | .tileState => ⟨[cDies], 0x10000008, (0x100000, 128), (0x8, 1), .any, false, false,
     [⟨63, 48, .ro, 0⟩, ⟨47, 32, .ro, 0⟩, ⟨31, 22, .ro, 0⟩, ⟨21, 16, .ro, 0⟩, ⟨15, 4, .ro, 0⟩, ⟨3, 0, .ro, 1⟩]⟩
  -- TILE_FAULT (R83): VALID GROUP CODE INFO
  | .tileFault => ⟨[cDies], 0x10000100, (0x100000, 128), (0x8, 1), .any, false, false,
     [⟨63, 63, .w1c, 0⟩, ⟨62, 52, .ro, 0⟩, ⟨51, 48, .ro, 0⟩, ⟨47, 32, .ro, 0⟩, ⟨31, 0, .ro, 0⟩]⟩
  -- TILE_FAULT_PC (R84): PC
  | .tileFaultPc => ⟨[cDies], 0x10000108, (0x100000, 128), (0x8, 1), .any, false, false,
     [⟨63, 0, .ro, 0⟩]⟩
  -- TILE_WDOG_CTL (R85): PERIOD_US
  | .tileWdogCtl => ⟨[cDies], 0x10000200, (0x100000, 128), (0x8, 1), .uszonCore, false, false,
     [⟨63, 32, .ro, 0⟩, ⟨31, 0, .rw, 0x186a0⟩]⟩
  -- TILE_SLM_REPLAYS (R86): OVF COUNT
  | .tileSlmReplays => ⟨[cDies], 0x10000300, (0x100000, 128), (0x8, 1), .any, false, true,
     counterFields⟩
  -- MTX_CAP (R116): ENGINES ACC_TILES QUEUE_DEPTH SPARSE24 FORMATS
  | .mtxCap => ⟨[cDies], 0x10010000, (0x100000, 128), (0x8, 1), .any, false, false,
     [⟨63, 56, .ro, 4⟩, ⟨55, 48, .ro, 0x20⟩, ⟨47, 40, .ro, 4⟩, ⟨39, 16, .ro, 0⟩, ⟨15, 15, .ro, 1⟩,
      ⟨14, 10, .ro, 0⟩, ⟨9, 0, .ro, 0x3ff⟩]⟩
  -- MTX_STATUS (R117): COLD BUSY QUEUED
  | .mtxStatus => ⟨[cDies], 0x10010008, (0x100000, 128), (0x8, 1), .any, false, false,
     [⟨63, 24, .ro, 0⟩, ⟨23, 20, .ro, 0xf⟩, ⟨19, 16, .ro, 0⟩, ⟨15, 12, .ro, 0⟩, ⟨11, 0, .ro, 0⟩]⟩
  -- MTX_ACC_MODE (R118): TAGS
  | .mtxAccMode => ⟨[cDies], 0x10010010, (0x100000, 128), (0x8, 1), .any, false, false,
     [⟨63, 0, .ro, 0⟩]⟩
  -- MTX_FAULT (R119): VALID OPC ACC ENGINE
  | .mtxFault => ⟨[cDies], 0x10010100, (0x100000, 128), (0x8, 1), .any, false, false,
     [⟨63, 63, .w1c, 0⟩, ⟨62, 48, .ro, 0⟩, ⟨47, 40, .ro, 0⟩, ⟨39, 37, .ro, 0⟩, ⟨36, 32, .ro, 0⟩, ⟨31, 2, .ro, 0⟩,
      ⟨1, 0, .ro, 0⟩]⟩
  -- MTX_BUSY_n (R120): OVF COUNT
  | .mtxBusy => ⟨[cDies], 0x10010200, (0x100000, 128), (0x8, 4), .any, false, true,
     counterFields⟩
  -- MTX_PACE_WAIT (R120): OVF COUNT
  | .mtxPaceWait => ⟨[cDies], 0x10010240, (0x100000, 128), (0x8, 1), .any, false, true,
     counterFields⟩
  -- FLS_CAP (R175): LANES QUEUE_DEPTH OC_KIB TYPES
  | .flsCap => ⟨[cDies], 0x10020000, (0x100000, 128), (0x8, 1), .any, false, false,
     [⟨63, 56, .ro, 0x40⟩, ⟨55, 48, .ro, 8⟩, ⟨47, 32, .ro, 0x40⟩, ⟨31, 22, .ro, 0⟩, ⟨21, 0, .ro, 0x3fffff⟩]⟩
  -- FLS_STATUS (R176): QUEUED BUSY
  | .flsStatus => ⟨[cDies], 0x10020008, (0x100000, 128), (0x8, 1), .any, false, false,
     [⟨63, 8, .ro, 0⟩, ⟨7, 4, .ro, 0⟩, ⟨3, 1, .ro, 0⟩, ⟨0, 0, .ro, 0⟩]⟩
  -- FLS_STAT_g (R177): FIRST_CODE TAGX ELOVF ELEXP ELSP MXSP SAT PERMX EMPTY
  | .flsStat => ⟨[cDies], 0x10020100, (0x100000, 128), (0x8, 16), .any, false, false,
     [⟨63, 48, .ro, 0⟩, ⟨47, 8, .ro, 0⟩, ⟨7, 7, .ro, 0⟩, ⟨6, 6, .ro, 0⟩, ⟨5, 5, .ro, 0⟩, ⟨4, 4, .ro, 0⟩,
      ⟨3, 3, .ro, 0⟩, ⟨2, 2, .ro, 0⟩, ⟨1, 1, .ro, 0⟩, ⟨0, 0, .ro, 0⟩]⟩
  -- FLS_FAULT (R178): VALID OP SLOT BLOCK
  | .flsFault => ⟨[cDies], 0x10020200, (0x100000, 128), (0x8, 1), .any, false, false,
     [⟨63, 63, .w1c, 0⟩, ⟨62, 48, .ro, 0⟩, ⟨47, 40, .ro, 0⟩, ⟨39, 35, .ro, 0⟩, ⟨34, 32, .ro, 0⟩,
      ⟨31, 0, .ro, 0⟩]⟩
  -- FLS_RNG_CTR (R179): CTR
  | .flsRngCtr => ⟨[cDies], 0x10020300, (0x100000, 128), (0x8, 1), .uszonCore, false, false,
     [⟨63, 0, .rw, 0⟩]⟩
  -- FLS_BUSY (R180): OVF COUNT
  | .flsBusy => ⟨[cDies], 0x10020400, (0x100000, 128), (0x8, 1), .any, false, true,
     counterFields⟩
  -- FLS_CMDS (R180): OVF COUNT
  | .flsCmds => ⟨[cDies], 0x10020408, (0x100000, 128), (0x8, 1), .any, false, true,
     counterFields⟩
  -- L1C_CAP (R303): WAYS MISS_REGS MERGE_ENTRIES LINE_BYTES SIZE_KIB
  | .l1cCap => ⟨[cDies], 0x10030000, (0x100000, 128), (0x8, 1), .uszonCore, false, false,
     [⟨63, 56, .ro, 8⟩, ⟨55, 48, .ro, 0x40⟩, ⟨47, 40, .ro, 0x10⟩, ⟨39, 32, .ro, 0x80⟩, ⟨31, 16, .ro, 0⟩,
      ⟨15, 0, .ro, 0x80⟩]⟩
  -- L1C_CTL (R304): CODE INVALIDATED INV ENABLE
  | .l1cCtl => ⟨[cDies], 0x10030008, (0x100000, 128), (0x8, 1), .uszonCore, false, false,
     [⟨63, 48, .ro, 0⟩, ⟨47, 32, .ro, 0⟩, ⟨31, 3, .ro, 0⟩, ⟨2, 2, .ro, 0⟩, ⟨1, 1, .wo, 0⟩, ⟨0, 0, .rw, 0⟩]⟩
  -- L1C_HITS (R305): OVF COUNT
  | .l1cHits => ⟨[cDies], 0x10030100, (0x100000, 128), (0x8, 1), .uszonCore, false, true,
     counterFields⟩
  -- L1C_MISSES (R305): OVF COUNT
  | .l1cMisses => ⟨[cDies], 0x10030108, (0x100000, 128), (0x8, 1), .uszonCore, false, true,
     counterFields⟩
  -- L1C_MERGES (R305): OVF COUNT
  | .l1cMerges => ⟨[cDies], 0x10030110, (0x100000, 128), (0x8, 1), .uszonCore, false, true,
     counterFields⟩
  -- HLX_DEC_SRC_s (R242): VALID CHANGING CONTEXT SRC
  | .hlxDecSrc => ⟨[cDies], 0x10040000, (0x100000, 128), (0x10, 8), .any, false, false,
     [⟨63, 63, .ro, 0⟩, ⟨62, 62, .ro, 0⟩, ⟨61, 56, .ro, 0⟩, ⟨55, 50, .ro, 0⟩, ⟨49, 32, .ro, 0⟩, ⟨31, 0, .ro, 0⟩]⟩
  -- HLX_DEC_POS_s (R243): PANEL0 KBLK0
  | .hlxDecPos => ⟨[cDies], 0x10040008, (0x100000, 128), (0x10, 8), .any, false, false,
     [⟨63, 32, .ro, 0⟩, ⟨31, 16, .ro, 0⟩, ⟨15, 0, .ro, 0⟩]⟩
  -- HLX_DEC_SKIPS (R244): OVF COUNT
  | .hlxDecSkips => ⟨[cDies], 0x10040100, (0x100000, 128), (0x8, 1), .any, false, true,
     counterFields⟩
  -- HLX_DEC_BYTES (R244): OVF COUNT
  | .hlxDecBytes => ⟨[cDies], 0x10040108, (0x100000, 128), (0x8, 1), .any, false, true,
     counterFields⟩
  -- GRT_CAP (R210): BANKS SIZE_MIB QUEUES COLL_SLOTS XFE
  | .grtCap => ⟨[cDies], 0x2000000, (0x0, 1), (0x8, 1), .any, false, false,
     [⟨63, 56, .ro, 0x40⟩, ⟨55, 40, .ro, 0x60⟩, ⟨39, 32, .ro, 0x20⟩, ⟨31, 24, .ro, 0x40⟩, ⟨23, 16, .ro, 4⟩,
      ⟨15, 0, .ro, 0⟩]⟩
  -- GRT_OWNER_m (R211): ENTRIES
  | .grtOwner => ⟨[cDies], 0x2000100, (0x0, 1), (0x8, 12), .uszonCore, false, false,
     [⟨63, 0, .rw, 0⟩]⟩
  -- GRT_QCFG_n (R212): ENABLE ENGINE CONTEXT LOG2SIZE BASE DOORBELL
  | .grtQcfg => ⟨[cDies], 0x2001000, (0x0, 1), (0x10, 32), .any, false, false,
     [⟨63, 63, .rw, 0⟩, ⟨62, 59, .rw, 0⟩, ⟨58, 53, .rw, 0⟩, ⟨52, 49, .rw, 0⟩, ⟨48, 48, .ro, 0⟩, ⟨47, 28, .rw, 0⟩,
      ⟨27, 4, .rw, 0⟩, ⟨3, 0, .ro, 0⟩]⟩
  -- GRT_QSTAT_n (R213): HALTED CODE PHASE HEAD
  | .grtQstat => ⟨[cDies], 0x2001008, (0x0, 1), (0x10, 32), .any, false, false,
     [⟨63, 63, .ro, 0⟩, ⟨62, 48, .ro, 0⟩, ⟨47, 32, .ro, 0⟩, ⟨31, 13, .ro, 0⟩, ⟨12, 12, .ro, 1⟩, ⟨11, 0, .ro, 0⟩]⟩
  -- HLX_CAP (R240): MAX_EXPERTS MAX_K DEC_STREAMS MAX_DEST
  | .hlxCap => ⟨[cDies], 0x2030000, (0x0, 1), (0x8, 1), .any, false, false,
     [⟨63, 48, .ro, 0x400⟩, ⟨47, 40, .ro, 0x20⟩, ⟨39, 32, .ro, 8⟩, ⟨31, 16, .ro, 0x100⟩, ⟨15, 0, .ro, 0⟩]⟩
  -- HLX_DROPS (R241): OVF COUNT
  | .hlxDrops => ⟨[cDies], 0x2030100, (0x0, 1), (0x8, 1), .any, false, true,
     counterFields⟩
  -- HLX_ROWS (R241): OVF COUNT
  | .hlxRows => ⟨[cDies], 0x2030108, (0x0, 1), (0x8, 1), .any, false, true,
     counterFields⟩
  -- DRP_CAP (R267): LANES MAX_K MAX_V
  | .drpCap => ⟨[cDies], 0x2040000, (0x0, 1), (0x8, 1), .any, false, false,
     [⟨63, 56, .ro, 0x80⟩, ⟨55, 43, .ro, 0x1000⟩, ⟨42, 23, .ro, 0x40000⟩, ⟨22, 0, .ro, 0⟩]⟩
  -- DRP_STATUS (R268): FAILED BUSY
  | .drpStatus => ⟨[cDies], 0x2040008, (0x0, 1), (0x8, 1), .any, false, false,
     [⟨63, 63, .ro, 0⟩, ⟨62, 1, .ro, 0⟩, ⟨0, 0, .ro, 0⟩]⟩
  -- DRP_RNG_CFG (R269): TABLE
  | .drpRngCfg => ⟨[cDies], 0x2040010, (0x0, 1), (0x8, 1), .uszon, false, false,
     [⟨63, 1, .ro, 0⟩, ⟨0, 0, .rw, 1⟩]⟩
  -- DRP_RNG_CTR (R270): CTR
  | .drpRngCtr => ⟨[cDies], 0x2040018, (0x0, 1), (0x8, 1), .uszonCore, false, false,
     [⟨63, 0, .rw, 0⟩]⟩
  -- DRP_ROWS (R271): OVF COUNT
  | .drpRows => ⟨[cDies], 0x2040100, (0x0, 1), (0x8, 1), .any, false, true,
     counterFields⟩
  -- DRP_ROW_FAILS (R271): OVF COUNT
  | .drpRowFails => ⟨[cDies], 0x2040108, (0x0, 1), (0x8, 1), .any, false, true,
     counterFields⟩
  -- DCC_CAP (R306): WAYS MAX_LOCK LINE_BYTES MISS_REGS SIZE_MIB
  | .dccCap => ⟨[cDies], 0x1000000, (0x0, 1), (0x8, 1), .uszonCore, false, false,
     [⟨63, 56, .ro, 0x10⟩, ⟨55, 48, .ro, 0xc⟩, ⟨47, 40, .ro, 0x80⟩, ⟨39, 24, .ro, 0x1000⟩, ⟨23, 8, .ro, 0x20⟩,
      ⟨7, 0, .ro, 0⟩]⟩
  -- DCC_CTL (R307): PF_DISTANCE PF_DEGREE PF_EN ENABLE
  | .dccCtl => ⟨[cDies], 0x1000008, (0x0, 1), (0x8, 1), .uszonCore, false, false,
     [⟨63, 32, .ro, 0⟩, ⟨31, 24, .rw, 8⟩, ⟨23, 20, .ro, 0⟩, ⟨19, 16, .rw, 4⟩, ⟨15, 9, .ro, 0⟩, ⟨8, 8, .rw, 1⟩,
      ⟨7, 1, .ro, 0⟩, ⟨0, 0, .rw, 0⟩]⟩
  -- DCC_STATUS (R308): CODE ENABLED INVALIDATED
  | .dccStatus => ⟨[cDies], 0x1000010, (0x0, 1), (0x8, 1), .uszonCore, false, false,
     [⟨63, 48, .ro, 0⟩, ⟨47, 32, .ro, 0⟩, ⟨31, 2, .ro, 0⟩, ⟨1, 1, .ro, 0⟩, ⟨0, 0, .ro, 0⟩]⟩
  -- DCC_MAINT_ADDR (R309): ADDR
  | .dccMaintAddr => ⟨[cDies], 0x1000100, (0x0, 1), (0x8, 1), .uszonCore, false, false,
     [⟨63, 48, .ro, 0⟩, ⟨47, 0, .rw, 0⟩]⟩
  -- DCC_MAINT_LEN (R309): LEN
  | .dccMaintLen => ⟨[cDies], 0x1000108, (0x0, 1), (0x8, 1), .uszonCore, false, false,
     [⟨63, 49, .ro, 0⟩, ⟨48, 0, .rw, 0⟩]⟩
  -- DCC_MAINT_CMD (R309): WAYS LOCK OP
  | .dccMaintCmd => ⟨[cDies], 0x1000110, (0x0, 1), (0x8, 1), .uszonCore, false, false,
     [⟨63, 48, .wo, 0⟩, ⟨47, 47, .wo, 0⟩, ⟨46, 8, .wo, 0⟩, ⟨7, 0, .wo, 0⟩]⟩
  -- DCC_MAINT_STATUS (R309): BUSY CODE SKIPPED NOT_PLACED
  | .dccMaintStatus => ⟨[cDies], 0x1000118, (0x0, 1), (0x8, 1), .uszonCore, false, false,
     [⟨63, 63, .ro, 0⟩, ⟨62, 48, .ro, 0⟩, ⟨47, 32, .ro, 0⟩, ⟨31, 16, .ro, 0⟩, ⟨15, 0, .ro, 0⟩]⟩
  -- DCC_LOCK (R310): PRELOADED LOCKED
  | .dccLock => ⟨[cDies], 0x1000200, (0x0, 1), (0x8, 1), .uszonCore, false, false,
     [⟨63, 32, .ro, 0⟩, ⟨31, 16, .ro, 0⟩, ⟨15, 0, .rw, 0⟩]⟩
  -- DCC_HITS (R311): OVF COUNT
  | .dccHits => ⟨[cDies], 0x1000300, (0x0, 1), (0x8, 1), .uszonCore, false, true,
     counterFields⟩
  -- DCC_MISSES (R311): OVF COUNT
  | .dccMisses => ⟨[cDies], 0x1000308, (0x0, 1), (0x8, 1), .uszonCore, false, true,
     counterFields⟩
  -- DCC_PF_ISSUED (R311): OVF COUNT
  | .dccPfIssued => ⟨[cDies], 0x1000310, (0x0, 1), (0x8, 1), .uszonCore, false, true,
     counterFields⟩
  -- DCC_PF_USEFUL (R311): OVF COUNT
  | .dccPfUseful => ⟨[cDies], 0x1000318, (0x0, 1), (0x8, 1), .uszonCore, false, true,
     counterFields⟩
  -- DCC_WRITEBACKS (R311): OVF COUNT
  | .dccWritebacks => ⟨[cDies], 0x1000320, (0x0, 1), (0x8, 1), .uszonCore, false, true,
     counterFields⟩
  -- MEM_CAP (R337): CHANNELS PCS SIDS BANKS STACK_GIB SUMP_KIB
  | .memCap => ⟨[mBases], 0x9000000, (0x0, 1), (0x8, 1), .uszonCore, false, false,
     [⟨63, 56, .ro, 0x20⟩, ⟨55, 48, .ro, 2⟩, ⟨47, 40, .ro, 4⟩, ⟨39, 32, .ro, 0x10⟩, ⟨31, 16, .ro, 0x40⟩,
      ⟨15, 0, .ro, 0x800⟩]⟩
  -- MEM_CFG (R338): LOCK MODE SCRUB_HOURS
  | .memCfg => ⟨[mBases], 0x9000008, (0x0, 1), (0x8, 1), .uszonCore, false, false,
     [⟨63, 63, .rw, 0⟩, ⟨62, 9, .ro, 0⟩, ⟨8, 8, .rw, 0⟩, ⟨7, 0, .rw, 0x18⟩]⟩
  -- MEM_STATUS (R339): TEMP_C OUTSTANDING SECONDARY REFX2 READY
  | .memStatus => ⟨[mBases], 0x9000010, (0x0, 1), (0x8, 1), .uszonCore, false, false,
     [⟨63, 48, .ro, 0⟩, ⟨47, 40, .ro, 0⟩, ⟨39, 28, .ro, 0⟩, ⟨27, 16, .ro, 0⟩, ⟨15, 3, .ro, 0⟩, ⟨2, 2, .ro, 0⟩,
      ⟨1, 1, .ro, 0⟩, ⟨0, 0, .ro, 0⟩]⟩
  -- MEM_ERR_LOG0 (R340): VALID MORE ADDR
  | .memErrLog0 => ⟨[mBases], 0x9000100, (0x0, 1), (0x8, 1), .uszonCore, false, false,
     [⟨63, 63, .w1c, 0⟩, ⟨62, 62, .ro, 0⟩, ⟨61, 48, .ro, 0⟩, ⟨47, 0, .ro, 0⟩]⟩
  -- MEM_ERR_LOG1 (R340): CODE CHANNEL PC SID BG BANK ROW COLUMN
  | .memErrLog1 => ⟨[mBases], 0x9000108, (0x0, 1), (0x8, 1), .uszonCore, false, false,
     [⟨63, 48, .ro, 0⟩, ⟨47, 44, .ro, 0⟩, ⟨43, 39, .ro, 0⟩, ⟨38, 38, .ro, 0⟩, ⟨37, 36, .ro, 0⟩, ⟨35, 34, .ro, 0⟩,
      ⟨33, 32, .ro, 0⟩, ⟨31, 18, .ro, 0⟩, ⟨17, 15, .ro, 0⟩, ⟨14, 0, .ro, 0⟩]⟩
  -- MEM_CORRECTED (R341): OVF COUNT
  | .memCorrected => ⟨[mBases], 0x9000200, (0x0, 1), (0x8, 1), .uszonCore, false, true,
     counterFields⟩
  -- MEM_UNCORRECTED (R341): OVF COUNT
  | .memUncorrected => ⟨[mBases], 0x9000208, (0x0, 1), (0x8, 1), .uszonCore, false, true,
     counterFields⟩
  -- MEM_RD_LINES (R341): OVF COUNT
  | .memRdLines => ⟨[mBases], 0x9000210, (0x0, 1), (0x8, 1), .uszonCore, false, true,
     counterFields⟩
  -- MEM_WR_LINES (R341): OVF COUNT
  | .memWrLines => ⟨[mBases], 0x9000218, (0x0, 1), (0x8, 1), .uszonCore, false, true,
     counterFields⟩
  -- MEM_TURNS (R341): OVF COUNT
  | .memTurns => ⟨[mBases], 0x9000220, (0x0, 1), (0x8, 1), .uszonCore, false, true,
     counterFields⟩
  -- SMP_STATUS (R342): BUSY CODE FAILS ENTRIES
  | .smpStatus => ⟨[mBases], 0x9100000, (0x0, 1), (0x8, 1), .uszonCore, false, false,
     [⟨63, 63, .ro, 0⟩, ⟨62, 48, .ro, 0⟩, ⟨47, 32, .ro, 0⟩, ⟨31, 23, .ro, 0⟩, ⟨22, 16, .ro, 0⟩, ⟨15, 0, .ro, 0⟩]⟩
  -- SMP_DRAIN_ADDR (R342): ADDR
  | .smpDrainAddr => ⟨[mBases], 0x9100008, (0x0, 1), (0x8, 1), .uszonCore, false, false,
     [⟨63, 48, .ro, 0⟩, ⟨47, 0, .rw, 0⟩]⟩
  -- SMP_DRAIN_LEN (R342): LEN
  | .smpDrainLen => ⟨[mBases], 0x9100010, (0x0, 1), (0x8, 1), .uszonCore, false, false,
     [⟨63, 49, .ro, 0⟩, ⟨48, 0, .rw, 0⟩]⟩
  -- SMP_DRAIN_CMD (R342): ALL GO
  | .smpDrainCmd => ⟨[mBases], 0x9100018, (0x0, 1), (0x8, 1), .uszonCore, false, false,
     [⟨63, 2, .wo, 0⟩, ⟨1, 1, .wo, 0⟩, ⟨0, 0, .wo, 0⟩]⟩
  -- SMP_MERGES (R341): OVF COUNT
  | .smpMerges => ⟨[mBases], 0x9100100, (0x0, 1), (0x8, 1), .uszonCore, false, true,
     counterFields⟩
  -- SMP_RMW (R341): OVF COUNT
  | .smpRmw => ⟨[mBases], 0x9100108, (0x0, 1), (0x8, 1), .uszonCore, false, true,
     counterFields⟩
  -- LPD_CAP (R343): CHANNELS PCS SIDS BANKS STACK_GIB SUMP_KIB
  | .lpdCap => ⟨[xDies], 0x6000000, (0x10000, 12), (0x8, 1), .uszonCore, false, false,
     [⟨63, 56, .ro, 4⟩, ⟨55, 48, .ro, 2⟩, ⟨47, 40, .ro, 1⟩, ⟨39, 32, .ro, 0x10⟩, ⟨31, 16, .ro, 0x40⟩,
      ⟨15, 0, .ro, 0x20⟩]⟩
  -- LPD_CFG (R343): LOCK SCRUB_HOURS
  | .lpdCfg => ⟨[xDies], 0x6000008, (0x10000, 12), (0x8, 1), .uszonCore, false, false,
     [⟨63, 63, .rw, 0⟩, ⟨62, 8, .ro, 0⟩, ⟨7, 0, .rw, 0x18⟩]⟩
  -- LPD_STATUS (R343): TEMP_C OUTSTANDING SECONDARY REFX2 READY
  | .lpdStatus => ⟨[xDies], 0x6000010, (0x10000, 12), (0x8, 1), .uszonCore, false, false,
     [⟨63, 48, .ro, 0⟩, ⟨47, 40, .ro, 0⟩, ⟨39, 28, .ro, 0⟩, ⟨27, 16, .ro, 0⟩, ⟨15, 3, .ro, 0⟩, ⟨2, 2, .ro, 0⟩,
      ⟨1, 1, .ro, 0⟩, ⟨0, 0, .ro, 0⟩]⟩
  -- LPD_ERR_LOG0 (R343): VALID MORE ADDR
  | .lpdErrLog0 => ⟨[xDies], 0x6000100, (0x10000, 12), (0x8, 1), .uszonCore, false, false,
     [⟨63, 63, .w1c, 0⟩, ⟨62, 62, .ro, 0⟩, ⟨61, 48, .ro, 0⟩, ⟨47, 0, .ro, 0⟩]⟩
  -- LPD_ERR_LOG1 (R343): CODE PLACE
  | .lpdErrLog1 => ⟨[xDies], 0x6000108, (0x10000, 12), (0x8, 1), .uszonCore, false, false,
     [⟨63, 48, .ro, 0⟩, ⟨47, 0, .ro, 0⟩]⟩
  -- LPD_CORRECTED (R343): OVF COUNT
  | .lpdCorrected => ⟨[xDies], 0x6000200, (0x10000, 12), (0x8, 1), .uszonCore, false, true,
     counterFields⟩
  -- LPD_UNCORRECTED (R343): OVF COUNT
  | .lpdUncorrected => ⟨[xDies], 0x6000208, (0x10000, 12), (0x8, 1), .uszonCore, false, true,
     counterFields⟩
  -- LPD_RD_LINES (R343): OVF COUNT
  | .lpdRdLines => ⟨[xDies], 0x6000210, (0x10000, 12), (0x8, 1), .uszonCore, false, true,
     counterFields⟩
  -- LPD_WR_LINES (R343): OVF COUNT
  | .lpdWrLines => ⟨[xDies], 0x6000218, (0x10000, 12), (0x8, 1), .uszonCore, false, true,
     counterFields⟩
  -- LPD_TURNS (R343): OVF COUNT
  | .lpdTurns => ⟨[xDies], 0x6000220, (0x10000, 12), (0x8, 1), .uszonCore, false, true,
     counterFields⟩
  -- LPD_MERGE_STATUS (R343): BUSY CODE FAILS ENTRIES
  | .lpdMergeStatus => ⟨[xDies], 0x6000800, (0x10000, 12), (0x8, 1), .uszonCore, false, false,
     [⟨63, 63, .ro, 0⟩, ⟨62, 48, .ro, 0⟩, ⟨47, 32, .ro, 0⟩, ⟨31, 23, .ro, 0⟩, ⟨22, 16, .ro, 0⟩, ⟨15, 0, .ro, 0⟩]⟩
  -- LPD_DRAIN_ADDR (R343): ADDR
  | .lpdDrainAddr => ⟨[xDies], 0x6000808, (0x10000, 12), (0x8, 1), .uszonCore, false, false,
     [⟨63, 48, .ro, 0⟩, ⟨47, 0, .rw, 0⟩]⟩
  -- LPD_DRAIN_LEN (R343): LEN
  | .lpdDrainLen => ⟨[xDies], 0x6000810, (0x10000, 12), (0x8, 1), .uszonCore, false, false,
     [⟨63, 49, .ro, 0⟩, ⟨48, 0, .rw, 0⟩]⟩
  -- LPD_DRAIN_CMD (R343): ALL GO
  | .lpdDrainCmd => ⟨[xDies], 0x6000818, (0x10000, 12), (0x8, 1), .uszonCore, false, false,
     [⟨63, 2, .wo, 0⟩, ⟨1, 1, .wo, 0⟩, ⟨0, 0, .wo, 0⟩]⟩
  -- MEM_AMU_OPS (R343): OVF COUNT
  | .memAmuOps => ⟨[xDies, mBases], 0x9200100, (0x0, 1), (0x8, 1), .uszonCore, false, true,
     counterFields⟩
  -- COH_CAP_P (R375): ROLE POINTERS WAYS DIR_KENTRIES AGENTS
  | .cohCapP => ⟨[pDies], 0x3000000, (0x0, 1), (0x8, 1), .uszonCore, false, false,
     [⟨63, 56, .ro, 1⟩, ⟨55, 48, .ro, 0⟩, ⟨47, 40, .ro, 0⟩, ⟨39, 16, .ro, 0⟩, ⟨15, 0, .ro, 0x84⟩]⟩
  -- COH_CAP_X (R375): ROLE POINTERS WAYS DIR_KENTRIES AGENTS
  | .cohCapX => ⟨[xDies], 0x3000000, (0x0, 1), (0x8, 1), .uszonCore, false, false,
     [⟨63, 56, .ro, 2⟩, ⟨55, 48, .ro, 8⟩, ⟨47, 40, .ro, 0x10⟩, ⟨39, 16, .ro, 0x800⟩, ⟨15, 0, .ro, 0x84⟩]⟩
  -- COH_CAP_M (R375): ROLE POINTERS WAYS DIR_KENTRIES AGENTS
  | .cohCapM => ⟨[mBases], 0x3000000, (0x0, 1), (0x8, 1), .uszonCore, false, false,
     [⟨63, 56, .ro, 3⟩, ⟨55, 48, .ro, 8⟩, ⟨47, 40, .ro, 0x10⟩, ⟨39, 16, .ro, 0x200⟩, ⟨15, 0, .ro, 0x84⟩]⟩
  -- COH_AMO_CTL (R376): CLEAR MODE
  | .cohAmoCtl => ⟨[pDies], 0x3000100, (0x0, 1), (0x8, 1), .uszonCore, false, false,
     [⟨63, 3, .ro, 0⟩, ⟨2, 2, .wo, 0⟩, ⟨1, 0, .rw, 0⟩]⟩
  -- COH_SNOOPS (R377): OVF COUNT
  | .cohSnoops => ⟨[xDies, mBases], 0x3000200, (0x0, 1), (0x8, 1), .uszonCore, false, true,
     counterFields⟩
  -- COH_SNOOP_ABSENT (R377): OVF COUNT
  | .cohSnoopAbsent => ⟨[xDies, mBases], 0x3000208, (0x0, 1), (0x8, 1), .uszonCore, false, true,
     counterFields⟩
  -- COH_DIR_EVICTIONS (R377): OVF COUNT
  | .cohDirEvictions => ⟨[xDies, mBases], 0x3000210, (0x0, 1), (0x8, 1), .uszonCore, false, true,
     counterFields⟩
  -- COH_WB_CROSSINGS (R377): OVF COUNT
  | .cohWbCrossings => ⟨[xDies, mBases], 0x3000218, (0x0, 1), (0x8, 1), .uszonCore, false, true,
     counterFields⟩
  -- COH_NC_INVALS (R377): OVF COUNT
  | .cohNcInvals => ⟨[xDies, mBases], 0x3000220, (0x0, 1), (0x8, 1), .uszonCore, false, true,
     counterFields⟩
  -- COH_NC_MERGES (R377): OVF COUNT
  | .cohNcMerges => ⟨[xDies, mBases], 0x3000228, (0x0, 1), (0x8, 1), .uszonCore, false, true,
     counterFields⟩
  -- COH_AMO_NEAR (R377): OVF COUNT
  | .cohAmoNear => ⟨[pDies], 0x3000200, (0x0, 1), (0x8, 1), .uszonCore, false, true,
     counterFields⟩
  -- COH_AMO_FAR (R377): OVF COUNT
  | .cohAmoFar => ⟨[pDies], 0x3000208, (0x0, 1), (0x8, 1), .uszonCore, false, true,
     counterFields⟩
  -- COH_HOLD_DELAYS (R377): OVF COUNT
  | .cohHoldDelays => ⟨[pDies], 0x3000210, (0x0, 1), (0x8, 1), .uszonCore, false, true,
     counterFields⟩
  -- JOB_CAP (R401): QUEUES CONTEXTS MODULE_TILES DIE_TILES IMG_VERSION
  | .jobCap => ⟨[cDies], 0x2050000, (0x0, 1), (0x8, 1), .uszonCore, false, false,
     [⟨63, 56, .ro, 0x10⟩, ⟨55, 48, .ro, 0x40⟩, ⟨47, 42, .ro, 0⟩, ⟨41, 32, .ro, 0⟩, ⟨31, 24, .ro, 0⟩,
      ⟨23, 16, .ro, 0⟩, ⟨15, 8, .ro, 0⟩, ⟨7, 0, .ro, 1⟩]⟩
  -- JOB_QCFG_n (R402): ENABLE LOG2SIZE BASE
  | .jobQcfg => ⟨[cDies], 0x2050100, (0x0, 1), (0x10, 16), .uszonCore, false, false,
     [⟨63, 63, .rw, 0⟩, ⟨62, 60, .ro, 0⟩, ⟨59, 56, .rw, 0⟩, ⟨55, 48, .ro, 0⟩, ⟨47, 8, .rw, 0⟩, ⟨7, 0, .ro, 0⟩]⟩
  -- JOB_QPTR_n (R402): CODE HEAD TAIL
  | .jobQptr => ⟨[cDies], 0x2050108, (0x0, 1), (0x10, 16), .uszonCore, false, false,
     [⟨63, 48, .ro, 0⟩, ⟨47, 44, .ro, 0⟩, ⟨43, 32, .ro, 0⟩, ⟨31, 12, .ro, 0⟩, ⟨11, 0, .rw, 0⟩]⟩
  -- JOB_CTX_n (R403): VALID GEN ROOT_PPN
  | .jobCtx => ⟨[cDies], 0x2051000, (0x0, 1), (0x10, 64), .uszon, false, false,
     [⟨63, 63, .rw, 0⟩, ⟨62, 60, .ro, 0⟩, ⟨59, 44, .rw, 0⟩, ⟨43, 36, .ro, 0⟩, ⟨35, 0, .rw, 0⟩]⟩
  -- JOB_CTXSTAT_n (R403): STALE_SEEN LAST_STALE JOBS
  | .jobCtxstat => ⟨[cDies], 0x2051008, (0x0, 1), (0x10, 64), .uszon, false, false,
     [⟨63, 63, .rw, 0⟩, ⟨62, 48, .ro, 0⟩, ⟨47, 32, .rw, 0⟩, ⟨31, 8, .ro, 0⟩, ⟨7, 0, .ro, 0⟩]⟩
  -- JOB_CTL (R404): OP CONTEXT QUEUE SLOT
  | .jobCtl => ⟨[cDies], 0x2050200, (0x0, 1), (0x8, 1), .uszonCore, false, false,
     [⟨63, 60, .wo, 0⟩, ⟨59, 54, .wo, 0⟩, ⟨53, 20, .wo, 0⟩, ⟨19, 16, .wo, 0⟩, ⟨15, 12, .wo, 0⟩, ⟨11, 0, .wo, 0⟩]⟩
  -- JOB_CTL_STATUS (R404): BUSY CODE
  | .jobCtlStatus => ⟨[cDies], 0x2050208, (0x0, 1), (0x8, 1), .uszonCore, false, false,
     [⟨63, 63, .ro, 0⟩, ⟨62, 48, .ro, 0⟩, ⟨47, 32, .ro, 0⟩, ⟨31, 0, .ro, 0⟩]⟩
  -- JOB_TILES_w (R405): ENABLED
  | .jobTiles => ⟨[cDies], 0x2050300, (0x0, 1), (0x8, 2), .uszonCore, false, false,
     [⟨63, 0, .ro, 0⟩]⟩
  -- JOB_FENCED_w (R405): FENCED
  | .jobFenced => ⟨[cDies], 0x2050310, (0x0, 1), (0x8, 2), .uszonCore, false, false,
     [⟨63, 0, .ro, 0⟩]⟩
  -- FAB_PORT_CTL (R434): KA ENABLE
  | .fabPortCtl => ⟨[lDies], 0x4000000, (0x10000, 4), (0x8, 1), .uszonCore, false, false,
     [⟨63, 5, .ro, 0⟩, ⟨4, 4, .rw, 0⟩, ⟨3, 1, .ro, 0⟩, ⟨0, 0, .rw, 0⟩]⟩
  -- FAB_PORT_STATUS (R435): CODE PARTNER PPORT TRAIN_FAILS WIDTH STATE
  | .fabPortStatus => ⟨[lDies], 0x4000008, (0x10000, 4), (0x8, 1), .uszonCore, false, false,
     [⟨63, 48, .ro, 0⟩, ⟨47, 30, .ro, 0⟩, ⟨29, 26, .ro, 0⟩, ⟨25, 24, .ro, 0⟩, ⟨23, 16, .ro, 0⟩, ⟨15, 8, .ro, 0⟩,
      ⟨7, 4, .ro, 0⟩, ⟨3, 0, .ro, 1⟩]⟩
  -- FAB_FEC_CORRECTED (R436): OVF COUNT
  | .fabFecCorrected => ⟨[lDies], 0x4000100, (0x10000, 4), (0x8, 1), .uszonCore, false, true,
     counterFields⟩
  -- FAB_FEC_UNCORRECTABLE (R436): OVF COUNT
  | .fabFecUncorrectable => ⟨[lDies], 0x4000108, (0x10000, 4), (0x8, 1), .uszonCore, false, true,
     counterFields⟩
  -- FAB_REPLAYS (R436): OVF COUNT
  | .fabReplays => ⟨[lDies], 0x4000110, (0x10000, 4), (0x8, 1), .uszonCore, false, true,
     counterFields⟩
  -- FAB_TX_FLITS (R436): OVF COUNT
  | .fabTxFlits => ⟨[lDies], 0x4000118, (0x10000, 4), (0x8, 1), .uszonCore, false, true,
     counterFields⟩
  -- FAB_RX_FLITS (R436): OVF COUNT
  | .fabRxFlits => ⟨[lDies], 0x4000120, (0x10000, 4), (0x8, 1), .uszonCore, false, true,
     counterFields⟩
  -- FAB_DISCARDS (R436): OVF COUNT
  | .fabDiscards => ⟨[lDies], 0x4000128, (0x10000, 4), (0x8, 1), .uszonCore, false, true,
     counterFields⟩
  -- FAB_NODE (R437): VALID NODE
  | .fabNode => ⟨[lDies], 0x4100000, (0x0, 1), (0x8, 1), .uszon, false, false,
     [⟨63, 63, .rw, 0⟩, ⟨62, 18, .ro, 0⟩, ⟨17, 0, .rw, 0⟩]⟩
  -- FAB_CAP (R437): PORTS LANES VCS CONNECTIONS INFLIGHT QUEUES
  | .fabCap => ⟨[lDies], 0x4100008, (0x0, 1), (0x8, 1), .uszonCore, false, false,
     [⟨63, 56, .ro, 4⟩, ⟨55, 48, .ro, 8⟩, ⟨47, 40, .ro, 8⟩, ⟨39, 24, .ro, 0x800⟩, ⟨23, 8, .ro, 0x4000⟩,
      ⟨7, 0, .ro, 0x40⟩]⟩
  -- FAB_E2E_CFG (R437): RTO_US RETRY_MAX
  | .fabE2eCfg => ⟨[lDies], 0x4100010, (0x0, 1), (0x8, 1), .uszon, false, false,
     [⟨63, 48, .ro, 0⟩, ⟨47, 32, .rw, 0x64⟩, ⟨31, 8, .ro, 0⟩, ⟨7, 0, .rw, 7⟩]⟩
  -- FAB_GROUP_RT_g (R438): VALID NCAND LVL PORTS
  | .fabGroupRt => ⟨[lDies], 0x4101000, (0x0, 1), (0x8, 512), .uszon, false, false,
     [⟨63, 63, .rw, 0⟩, ⟨62, 60, .rw, 0⟩, ⟨59, 58, .rw, 0⟩, ⟨57, 16, .ro, 0⟩, ⟨15, 0, .rw, 0⟩]⟩
  -- FAB_MEMBER_RT_m (R438): VALID NCAND LVL PORTS
  | .fabMemberRt => ⟨[lDies], 0x4102000, (0x0, 1), (0x8, 512), .uszon, false, false,
     [⟨63, 63, .rw, 0⟩, ⟨62, 60, .rw, 0⟩, ⟨59, 58, .rw, 0⟩, ⟨57, 16, .ro, 0⟩, ⟨15, 0, .rw, 0⟩]⟩
  -- FAB_CONN_c (R439): VALID STATE CONTEXT CGEN PERM RXQ PNODE PCONN BULK
  | .fabConn => ⟨[lDies], 0x4110000, (0x0, 1), (0x20, 2048), .uszon, false, false,
     [⟨63, 63, .rw, 0⟩, ⟨62, 61, .rw, 0⟩, ⟨60, 55, .rw, 0⟩, ⟨54, 47, .rw, 0⟩, ⟨46, 42, .rw, 0⟩, ⟨41, 36, .rw, 0⟩,
      ⟨35, 18, .rw, 0⟩, ⟨17, 5, .rw, 0⟩, ⟨4, 4, .rw, 0⟩, ⟨3, 0, .ro, 0⟩]⟩
  -- FAB_CONN_SEQ_c (R439): SPSN RPSN
  | .fabConnSeq => ⟨[lDies], 0x4110008, (0x0, 1), (0x20, 2048), .uszon, false, false,
     [⟨63, 32, .rw, 0⟩, ⟨31, 0, .rw, 0⟩]⟩
  -- FAB_CONN_PAD2_c (R439): ZERO
  | .fabConnPad2 => ⟨[lDies], 0x4110010, (0x0, 1), (0x20, 2048), .uszon, false, false,
     [⟨63, 0, .ro, 0⟩]⟩
  -- FAB_CONN_PAD3_c (R439): ZERO
  | .fabConnPad3 => ⟨[lDies], 0x4110018, (0x0, 1), (0x20, 2048), .uszon, false, false,
     [⟨63, 0, .ro, 0⟩]⟩
  -- FAB_QCFG_n (R440): ENABLE RECV CONTEXT LOG2SIZE BASE DOORBELL
  | .fabQcfg => ⟨[lDies], 0x4120000, (0x0, 1), (0x10, 64), .uszonCore, false, false,
     [⟨63, 63, .rw, 0⟩, ⟨62, 62, .rw, 0⟩, ⟨61, 56, .rw, 0⟩, ⟨55, 52, .rw, 0⟩, ⟨51, 48, .ro, 0⟩, ⟨47, 28, .rw, 0⟩,
      ⟨27, 4, .rw, 0⟩, ⟨3, 0, .ro, 0⟩]⟩
  -- FAB_QSTAT_n (R440): HALTED CODE PHASE HEAD
  | .fabQstat => ⟨[lDies], 0x4120008, (0x0, 1), (0x10, 64), .uszonCore, false, false,
     [⟨63, 63, .ro, 0⟩, ⟨62, 48, .ro, 0⟩, ⟨47, 32, .ro, 0⟩, ⟨31, 13, .ro, 0⟩, ⟨12, 12, .ro, 1⟩, ⟨11, 0, .ro, 0⟩]⟩
  -- HIF_CAP (R464): LANES QUEUES VECTORS MPS_LOG2 WIN_GIB COMPAT
  | .hifCap => ⟨[x0Die], 0x5000000, (0x0, 1), (0x8, 1), .hif, false, false,
     [⟨63, 56, .ro, 8⟩, ⟨55, 48, .ro, 0x40⟩, ⟨47, 40, .ro, 0x40⟩, ⟨39, 32, .ro, 9⟩, ⟨31, 16, .ro, 4⟩,
      ⟨15, 1, .ro, 0⟩, ⟨0, 0, .ro, 0⟩]⟩
  -- HIF_WIN_BASE (R465): CODE BASE
  | .hifWinBase => ⟨[x0Die], 0x5000008, (0x0, 1), (0x8, 1), .hif, false, false,
     [⟨63, 48, .ro, 0⟩, ⟨47, 32, .rw, 0⟩, ⟨31, 0, .ro, 0⟩]⟩
  -- HIF_REGWIN_BASE (R465): BASE
  | .hifRegwinBase => ⟨[x0Die], 0x5000010, (0x0, 1), (0x8, 1), .hif, false, false,
     [⟨63, 40, .ro, 0⟩, ⟨39, 23, .rw, 0⟩, ⟨22, 0, .ro, 0⟩]⟩
  -- HIF_HQ_CFG_n (R466): ENABLE IVEC QGEN LOG2SIZE ICOUNT ITIME_US
  | .hifHqCfg => ⟨[x0Die], 0x5001000, (0x0, 1), (0x20, 64), .hif, false, false,
     [⟨63, 63, .rw, 0⟩, ⟨62, 62, .ro, 0⟩, ⟨61, 56, .rw, 0⟩, ⟨55, 48, .rw, 0⟩, ⟨47, 44, .rw, 0⟩, ⟨43, 40, .ro, 0⟩,
      ⟨39, 32, .rw, 1⟩, ⟨31, 16, .rw, 0⟩, ⟨15, 0, .ro, 0⟩]⟩
  -- HIF_HQ_SQBASE_n (R466): BASE
  | .hifHqSqbase => ⟨[x0Die], 0x5001008, (0x0, 1), (0x20, 64), .hif, false, false,
     [⟨63, 12, .rw, 0⟩, ⟨11, 0, .ro, 0⟩]⟩
  -- HIF_HQ_CQBASE_n (R466): BASE
  | .hifHqCqbase => ⟨[x0Die], 0x5001010, (0x0, 1), (0x20, 64), .hif, false, false,
     [⟨63, 12, .rw, 0⟩, ⟨11, 0, .ro, 0⟩]⟩
  -- HIF_HQ_STATUS_n (R466): CODE LAST_QGEN SQ_HEAD CQ_TAIL STATE
  | .hifHqStatus => ⟨[x0Die], 0x5001018, (0x0, 1), (0x20, 64), .hif, false, false,
     [⟨63, 48, .ro, 0⟩, ⟨47, 40, .ro, 0⟩, ⟨39, 28, .ro, 0⟩, ⟨27, 16, .ro, 0⟩, ⟨15, 4, .ro, 0⟩, ⟨3, 0, .ro, 1⟩]⟩
  -- HIF_LOST_RECORDS (R467): OVF COUNT
  | .hifLostRecords => ⟨[x0Die], 0x5000100, (0x0, 1), (0x8, 1), .hif, false, true,
     counterFields⟩
  -- HIF_HOST_LOSSES (R467): OVF COUNT
  | .hifHostLosses => ⟨[x0Die], 0x5000108, (0x0, 1), (0x8, 1), .hif, false, true,
     counterFields⟩
  -- HIF_TX_BYTES (R467): OVF COUNT
  | .hifTxBytes => ⟨[x0Die], 0x5000110, (0x0, 1), (0x8, 1), .hif, false, true,
     counterFields⟩
  -- HIF_RX_BYTES (R467): OVF COUNT
  | .hifRxBytes => ⟨[x0Die], 0x5000118, (0x0, 1), (0x8, 1), .hif, false, true,
     counterFields⟩
  -- DLK_LINK_CTL_l (R481): UNFENCE RETRAIN
  | .dlkLinkCtl => ⟨allDies, 0x4000, (0x100, 12), (0x8, 1), .uszon, false, false,
     [⟨63, 2, .wo, 0⟩, ⟨1, 1, .wo, 0⟩, ⟨0, 0, .wo, 0⟩]⟩
  -- DLK_LINK_STATUS_l (R482): CODE MASK PARTNER RATE MISMATCHES STATE
  | .dlkLinkStatus => ⟨allDies, 0x4008, (0x100, 12), (0x8, 1), .uszon, false, false,
     [⟨63, 48, .ro, 0⟩, ⟨47, 32, .ro, 0⟩, ⟨31, 24, .ro, 0⟩, ⟨23, 21, .ro, 0⟩, ⟨20, 18, .ro, 0⟩, ⟨17, 16, .ro, 0⟩,
      ⟨15, 4, .ro, 0⟩, ⟨3, 0, .ro, 1⟩]⟩
  -- DLK_CRC_ERRORS_l (R483): OVF COUNT
  | .dlkCrcErrors => ⟨allDies, 0x4040, (0x100, 12), (0x8, 1), .uszon, false, true,
     counterFields⟩
  -- DLK_RETRIES_l (R483): OVF COUNT
  | .dlkRetries => ⟨allDies, 0x4048, (0x100, 12), (0x8, 1), .uszon, false, true,
     counterFields⟩
  -- DLK_RETRAINS_l (R483): OVF COUNT
  | .dlkRetrains => ⟨allDies, 0x4050, (0x100, 12), (0x8, 1), .uszon, false, true,
     counterFields⟩
  -- RIM_STATUS (R510): CODE TEMP_C DEEP_IDLE SENSOR_FAIL THERMAL MTX_THROTTLE
  | .rimStatus => ⟨allDies, 0x10000, (0x0, 1), (0x8, 1), .uszon, false, false,
     [⟨63, 48, .ro, 0⟩, ⟨47, 40, .ro, 0⟩, ⟨39, 4, .ro, 0⟩, ⟨3, 3, .ro, 0⟩, ⟨2, 2, .ro, 0⟩, ⟨1, 1, .ro, 0⟩,
      ⟨0, 0, .ro, 0⟩]⟩
  -- RIM_ISLAND_n_C (R511): TRIM FMAX CAP TARGET STRETCH PAUSED DEFERRED CUR
  | .rimIslandC => ⟨[cDies], 0x10400, (0x0, 1), (0x8, 32), .uszon, false, false,
     [⟨63, 48, .ro, 0⟩, ⟨47, 40, .ro, 0⟩, ⟨39, 29, .ro, 0⟩, ⟨28, 24, .ro, 0⟩, ⟨23, 21, .ro, 0⟩, ⟨20, 16, .ro, 0⟩,
      ⟨15, 13, .ro, 0⟩, ⟨12, 8, .ro, 0⟩, ⟨7, 7, .ro, 0⟩, ⟨6, 6, .ro, 0⟩, ⟨5, 5, .ro, 0⟩, ⟨4, 0, .ro, 0⟩]⟩
  -- RIM_ISLAND_n_P (R511): TRIM FMAX CAP TARGET STRETCH PAUSED DEFERRED CUR
  | .rimIslandP => ⟨[pDies], 0x10400, (0x0, 1), (0x8, 16), .uszon, false, false,
     [⟨63, 48, .ro, 0⟩, ⟨47, 40, .ro, 0⟩, ⟨39, 29, .ro, 0⟩, ⟨28, 24, .ro, 0⟩, ⟨23, 21, .ro, 0⟩, ⟨20, 16, .ro, 0⟩,
      ⟨15, 13, .ro, 0⟩, ⟨12, 8, .ro, 0⟩, ⟨7, 7, .ro, 0⟩, ⟨6, 6, .ro, 0⟩, ⟨5, 5, .ro, 0⟩, ⟨4, 0, .ro, 0⟩]⟩
  -- RIM_PACE_CTL (R512): CODE COLD_NS SPACING_NS WAVES
  | .rimPaceCtl => ⟨[cDies], 0x10100, (0x0, 1), (0x8, 1), .uszon, false, false,
     [⟨63, 48, .ro, 0⟩, ⟨47, 32, .rw, 0x3e8⟩, ⟨31, 16, .rw, 0x40⟩, ⟨15, 6, .ro, 0⟩, ⟨5, 0, .rw, 0x20⟩]⟩
  -- RIM_MOD_POWER (R513): P1MS_W P10MS_W P1S_W PNOW_W
  | .rimModPower => ⟨[x0Die], 0x10200, (0x0, 1), (0x8, 1), .uszon, false, false,
     [⟨63, 48, .ro, 0⟩, ⟨47, 32, .ro, 0⟩, ⟨31, 16, .ro, 0⟩, ⟨15, 0, .ro, 0⟩]⟩
  -- RIM_MOD_BUDGET (R513): LIMIT_W BUDGET_W HOME_W FLOOR_W
  | .rimModBudget => ⟨[x0Die], 0x10208, (0x0, 1), (0x8, 1), .uszon, false, false,
     [⟨63, 48, .rw, 0xe10⟩, ⟨47, 32, .ro, 0xe10⟩, ⟨31, 16, .rw, 0xe10⟩, ⟨15, 0, .rw, 0⟩]⟩
  -- RIM_MOD_ENERGY (R514): UJ
  | .rimModEnergy => ⟨[x0Die], 0x10210, (0x0, 1), (0x8, 1), .uszon, true, false,
     [⟨63, 0, .ro, 0⟩]⟩
  -- RIM_STRETCH_CLOCKS (R515): OVF COUNT
  | .rimStretchClocks => ⟨allDies, 0x10300, (0x0, 1), (0x8, 1), .uszon, false, true,
     counterFields⟩
  -- RIM_THROTTLE_US (R515): OVF COUNT
  | .rimThrottleUs => ⟨allDies, 0x10308, (0x0, 1), (0x8, 1), .uszon, false, true,
     counterFields⟩
  -- MBX_FAULT_STATUS (R547): PROD
  | .mbxFaultStatus => ⟨[x0Die], 0x8000000, (0x0, 1), (0x8, 1), .owner, true, false,
     [⟨63, 32, .ro, 0⟩, ⟨31, 0, .ro, 0⟩]⟩
  -- MBX_FAULT_SOFT (R547): CODE
  | .mbxFaultSoft => ⟨[x0Die], 0x8000008, (0x0, 1), (0x8, 1), .any, true, false,
     [⟨63, 16, .wo, 0⟩, ⟨15, 0, .wo, 0⟩]⟩
  -- MBX_FAULT_RING (R523): WORD
  | .mbxFaultRing => ⟨[x0Die], 0x8000400, (0x0, 1), (0x8, 128), .owner, true, false,
     [⟨63, 0, .ro, 0⟩]⟩
  -- MBX_CMD_m (R544): REQID LEN OPCODE
  | .mbxCmd => ⟨[x0Die], 0x8000800, (0x800, 31), (0x8, 1), .owner, true, false,
     [⟨63, 48, .rw, 0⟩, ⟨47, 32, .ro, 0⟩, ⟨31, 16, .rw, 0⟩, ⟨15, 0, .rw, 0⟩]⟩
  -- MBX_STATUS_m (R545): CODE REQID RLEN DROPPED AUTHED STATE
  | .mbxStatus => ⟨[x0Die], 0x8000808, (0x800, 31), (0x8, 1), .owner, true, false,
     [⟨63, 48, .ro, 0⟩, ⟨47, 32, .ro, 0⟩, ⟨31, 16, .ro, 0⟩, ⟨15, 6, .ro, 0⟩, ⟨5, 5, .w1c, 0⟩, ⟨4, 4, .ro, 0⟩,
      ⟨3, 0, .ro, 5⟩]⟩
  -- MBX_AUTH_CTR_m (R546): CTR
  | .mbxAuthCtr => ⟨[x0Die], 0x8000810, (0x800, 31), (0x8, 1), .owner, true, false,
     [⟨63, 0, .rw, 0⟩]⟩
  -- MBX_AUTH_TAG0_m (R546): TAG0
  | .mbxAuthTag0 => ⟨[x0Die], 0x8000818, (0x800, 31), (0x8, 1), .owner, true, false,
     [⟨63, 0, .rw, 0⟩]⟩
  -- MBX_AUTH_TAG1_m (R546): TAG1
  | .mbxAuthTag1 => ⟨[x0Die], 0x8000820, (0x800, 31), (0x8, 1), .owner, true, false,
     [⟨63, 0, .rw, 0⟩]⟩
  -- MBX_NOTIFY_ADDR_m (R546): EN ADDR
  | .mbxNotifyAddr => ⟨[x0Die], 0x8008028, (0x800, 14), (0x8, 1), .owner, true, false,
     [⟨63, 63, .rw, 0⟩, ⟨62, 48, .ro, 0⟩, ⟨47, 0, .rw, 0⟩]⟩
  -- MBX_NOTIFY_DATA_m (R546): DATA
  | .mbxNotifyData => ⟨[x0Die], 0x8008030, (0x800, 14), (0x8, 1), .owner, true, false,
     [⟨63, 32, .ro, 0⟩, ⟨31, 0, .rw, 0⟩]⟩
  -- MBX_BUF_m (R519): WORD
  | .mbxBuf => ⟨[x0Die], 0x8000c00, (0x800, 31), (0x8, 128), .owner, true, false,
     [⟨63, 0, .rw, 0⟩]⟩
  -- SEC_STATUS (R548): SVN_MIN CODE KEY_EXHAUSTED RECOVERY OWNED
  | .secStatus => ⟨[x0Die], 0x7000000, (0x0, 1), (0x8, 1), .uszon, true, false,
     [⟨63, 32, .ro, 0⟩, ⟨31, 16, .ro, 0⟩, ⟨15, 3, .ro, 0⟩, ⟨2, 2, .ro, 0⟩, ⟨1, 1, .ro, 0⟩, ⟨0, 0, .ro, 0⟩]⟩
  -- TEL_TIMEBASE (R549): TB
  | .telTimebase => ⟨allDies, 0x20000, (0x0, 1), (0x8, 1), .uszon, false, false,
     [⟨63, 0, .ro, 0⟩]⟩
  -- TEL_SHADOW_EPOCH (R549): EPOCH VALID
  | .telShadowEpoch => ⟨allDies, 0x20008, (0x0, 1), (0x8, 1), .uszon, false, false,
     [⟨63, 32, .ro, 0⟩, ⟨31, 1, .ro, 0⟩, ⟨0, 0, .ro, 0⟩]⟩
  -- TEL_SHADOW_TB (R549): TE
  | .telShadowTb => ⟨allDies, 0x20010, (0x0, 1), (0x8, 1), .uszon, false, false,
     [⟨63, 0, .ro, 0⟩]⟩
  -- TEL_EPOCH_CTL (R549): PERIOD_US
  | .telEpochCtl => ⟨[x0Die], 0x20100, (0x0, 1), (0x8, 1), .uszon, true, false,
     [⟨63, 32, .ro, 0⟩, ⟨31, 0, .rw, 0x3e8⟩]⟩
  -- DLK_CORE_RELEASE (R566): RELEASE
  | .dlkCoreRelease => ⟨[pDies], 0x5000, (0x0, 1), (0x8, 1), .uszonCore, false, false,
     [⟨63, 0, .w1s, 0⟩]⟩
  -- DLK_CORE_VEC (R566): ADDR
  | .dlkCoreVec => ⟨[pDies], 0x5008, (0x0, 1), (0x8, 1), .uszonCore, false, false,
     [⟨63, 48, .ro, 0⟩, ⟨47, 0, .rw, 0⟩]⟩
  -- DLK_STRAPS (R572): PWR_EN MOD_RESET_N RECOVERY MEMMODE I3C_SA COMPAT
  | .dlkStraps => ⟨[x0Die], 0x3000, (0x0, 1), (0x8, 1), .uszon, true, false,
     [⟨63, 16, .ro, 0⟩, ⟨15, 15, .ro, 0⟩, ⟨14, 14, .ro, 0⟩, ⟨13, 10, .ro, 0⟩, ⟨9, 9, .ro, 0⟩, ⟨8, 8, .ro, 0⟩,
      ⟨7, 7, .ro, 0⟩, ⟨6, 4, .ro, 0⟩, ⟨3, 1, .ro, 0⟩, ⟨0, 0, .ro, 0⟩]⟩
  -- DLK_BOOT (R573): CODE STARTS LAST_MS HOLD PHASE
  | .dlkBoot => ⟨[x0Die], 0x3008, (0x0, 1), (0x8, 1), .uszon, true, false,
     [⟨63, 48, .ro, 0⟩, ⟨47, 32, .ro, 0⟩, ⟨31, 16, .ro, 0⟩, ⟨15, 12, .ro, 0⟩, ⟨11, 8, .ro, 0⟩, ⟨7, 4, .ro, 0⟩,
      ⟨3, 0, .ro, 1⟩]⟩

/-- Every register. -/
def Reg.all : List Reg :=
  [.dlkDieState, .dlkDieResetCtl, .tileCap, .tileState, .tileFault, .tileFaultPc, .tileWdogCtl, .tileSlmReplays,
   .mtxCap, .mtxStatus, .mtxAccMode, .mtxFault, .mtxBusy, .mtxPaceWait, .flsCap, .flsStatus, .flsStat, .flsFault,
   .flsRngCtr, .flsBusy, .flsCmds, .l1cCap, .l1cCtl, .l1cHits, .l1cMisses, .l1cMerges, .hlxDecSrc, .hlxDecPos,
   .hlxDecSkips, .hlxDecBytes, .grtCap, .grtOwner, .grtQcfg, .grtQstat, .hlxCap, .hlxDrops, .hlxRows, .drpCap,
   .drpStatus, .drpRngCfg, .drpRngCtr, .drpRows, .drpRowFails, .dccCap, .dccCtl, .dccStatus, .dccMaintAddr,
   .dccMaintLen, .dccMaintCmd, .dccMaintStatus, .dccLock, .dccHits, .dccMisses, .dccPfIssued, .dccPfUseful,
   .dccWritebacks, .memCap, .memCfg, .memStatus, .memErrLog0, .memErrLog1, .memCorrected, .memUncorrected,
   .memRdLines, .memWrLines, .memTurns, .smpStatus, .smpDrainAddr, .smpDrainLen, .smpDrainCmd, .smpMerges, .smpRmw,
   .lpdCap, .lpdCfg, .lpdStatus, .lpdErrLog0, .lpdErrLog1, .lpdCorrected, .lpdUncorrected, .lpdRdLines,
   .lpdWrLines, .lpdTurns, .lpdMergeStatus, .lpdDrainAddr, .lpdDrainLen, .lpdDrainCmd, .memAmuOps, .cohCapP,
   .cohCapX, .cohCapM, .cohAmoCtl, .cohSnoops, .cohSnoopAbsent, .cohDirEvictions, .cohWbCrossings, .cohNcInvals,
   .cohNcMerges, .cohAmoNear, .cohAmoFar, .cohHoldDelays, .jobCap, .jobQcfg, .jobQptr, .jobCtx, .jobCtxstat,
   .jobCtl, .jobCtlStatus, .jobTiles, .jobFenced, .fabPortCtl, .fabPortStatus, .fabFecCorrected,
   .fabFecUncorrectable, .fabReplays, .fabTxFlits, .fabRxFlits, .fabDiscards, .fabNode, .fabCap, .fabE2eCfg,
   .fabGroupRt, .fabMemberRt, .fabConn, .fabConnSeq, .fabConnPad2, .fabConnPad3, .fabQcfg, .fabQstat, .hifCap,
   .hifWinBase, .hifRegwinBase, .hifHqCfg, .hifHqSqbase, .hifHqCqbase, .hifHqStatus, .hifLostRecords,
   .hifHostLosses, .hifTxBytes, .hifRxBytes, .dlkLinkCtl, .dlkLinkStatus, .dlkCrcErrors, .dlkRetries, .dlkRetrains,
   .rimStatus, .rimIslandC, .rimIslandP, .rimPaceCtl, .rimModPower, .rimModBudget, .rimModEnergy,
   .rimStretchClocks, .rimThrottleUs, .mbxFaultStatus, .mbxFaultSoft, .mbxFaultRing, .mbxCmd, .mbxStatus,
   .mbxAuthCtr, .mbxAuthTag0, .mbxAuthTag1, .mbxNotifyAddr, .mbxNotifyData, .mbxBuf, .secStatus, .telTimebase,
   .telShadowEpoch, .telShadowTb, .telEpochCtl, .dlkCoreRelease, .dlkCoreVec, .dlkStraps, .dlkBoot]

end Sys2Proof.Machine
end

