-- ==== Sys2Proof/Machine/Ops.lean ====
section
/-!
DEFINITION. The named operations over the state: sparse maps, bytes, the registers and their fields, the dies and
their states, event counters, error reports and free values. Every meaning reads and writes the state through these.
-/
namespace Sys2Proof.Machine

/-- The outcome of a command. -/
abbrev Out := Host.Outcome State Fault Refusal

/-! ### Sparse maps -/

/-- The entry of a key, if it is listed. -/
def mfind {α : Type} : Map α → Nat → Option α
  | [], _ => none
  | (k, v) :: m, a => if a = k then some v else if a < k then none else mfind m a

/-- What a key reads as, where an unlisted key reads as `d`. -/
def mget {α : Type} (d : α) (m : Map α) (a : Nat) : α := (mfind m a).getD d

/-- Lists a key with a value, keeping the keys rising. -/
def mins {α : Type} : Map α → Nat → α → Map α
  | [], a, v => [(a, v)]
  | (k, w) :: m, a, v => if a = k then (a, v) :: m else if a < k then (a, v) :: (k, w) :: m else (k, w) :: mins m a v

/-- Drops a key. -/
def mdel {α : Type} : Map α → Nat → Map α
  | [], _ => []
  | (k, w) :: m, a => if a = k then m else if a < k then (k, w) :: m else (k, w) :: mdel m a

/-- Writes a key: the default is not listed, so equal contents are equal lists. -/
def mput {α : Type} [DecidableEq α] (d : α) (m : Map α) (a : Nat) (v : α) : Map α :=
  if v = d then mdel m a else mins m a v

/-- Adds a key to a rising list of keys. -/
def kins : List Nat → Nat → List Nat
  | [], a => [a]
  | k :: l, a => if a = k then k :: l else if a < k then a :: k :: l else k :: kins l a

/-- Removes a key from a list of keys. -/
def kdel (l : List Nat) (a : Nat) : List Nat := l.filter (· != a)

/-- The keys of a map rise, and no entry is the default. -/
def Map.wf {α : Type} [DecidableEq α] (d : α) : Map α → Bool
  | [] => true
  | [(_, v)] => v != d
  | (k, v) :: (k', v') :: m => v != d && (decide (k < k') && Map.wf d ((k', v') :: m))

/-- The keys of a map rise, so each is listed once. -/
def Map.rising {α : Type} (m : Map α) : Prop := (m.map (·.1)).Pairwise (· < ·)

/-- The canonical form of memory: addresses rising, and no byte listed that reads as an unlisted byte does (DESIGN CHOICE, log entry 7). -/
abbrev Memory.wf (m : Map Byte) : Bool := Map.wf 0 m

/-- Item `n` of a list taken out. -/
def takeAt {α : Type} (l : List α) (n : Nat) : Option (α × List α) := (l[n]?).map fun x => (x, l.eraseIdx n)

/-! ### Numbers, bytes and fields -/

/-- Sets bits `hi:lo` of a number (R10 leaves the others). -/
def fset (v hi lo x : Nat) : Nat :=
  (v >>> (hi + 1)) <<< (hi + 1) + (x % 2 ^ (hi + 1 - lo)) <<< lo + v % 2 ^ lo

/-- A 64-bit word from a number. -/
def w64 (n : Nat) : W64 := BitVec.ofNat 64 n

/-- All ones, as an unoccupied offset reads (R12). -/
def ones64 : W64 := BitVec.allOnes 64

/-- The `n` bytes of a number, least significant first. -/
def toBytes : Nat → Nat → List Byte
  | 0, _ => []
  | n + 1, v => BitVec.ofNat 8 v :: toBytes n (v / 256)

/-- The number that bytes spell, least significant first. -/
def ofBytes : List Byte → Nat
  | [] => 0
  | b :: bs => b.toNat + 256 * ofBytes bs

/-- Cuts a list of bytes into 64-bit words, the last filled with zeros. -/
def toWords : Nat → List Byte → List W64
  | 0, _ => []
  | n + 1, bs => w64 (ofBytes (bs.take 8)) :: toWords n (bs.drop 8)

/-- The bytes of 64-bit words in order. -/
def wordBytes (ws : List W64) : List Byte := ws.flatMap fun w => toBytes 8 w.toNat

/-- Ceiling division. -/
def cdiv (a b : Nat) : Nat := (a + b - 1) / b

/-- Item `i` of a list of numbers, 0 beyond its end. -/
def nth (l : List Nat) (i : Nat) : Nat := l.getD i 0

/-- Word `i` of a list of words, as a number. -/
def wd (l : List W64) (i : Nat) : Nat := (l.getD i 0).toNat

/-! ### Free values -/

/-- Draws the next free value (DESIGN CHOICE, log entry 1). -/
def drawFree (s : State) : W64 × State := (Config.freeValue s.freeCount, { s with freeCount := s.freeCount + 1 })

/-- A free value of 128 bits. -/
def drawFree128 (s : State) : Nat × State :=
  let (a, s) := drawFree s
  let (b, s) := drawFree s
  (a.toNat + b.toNat <<< 64, s)

/-- A free value for each of `n`. -/
def drawList : Nat → State → List Nat × State
  | 0, s => ([], s)
  | n + 1, s =>
    let (v, s) := drawFree s
    let (vs, s) := drawList n s
    (v.toNat :: vs, s)

/-! ### Registers -/

/-- The value of a register's reset fields together. -/
def RegSpec.reset (sp : RegSpec) : Nat := sp.fields.foldl (fun a f => a + f.reset <<< f.lo) 0

/-- The register-space address of instance (i, j) of a register on a die (R8). -/
def regAddr (r : Reg) (die i j : Nat) : Nat :=
  0xF00000000000 + die <<< 32 + r.spec.base + i * r.spec.outer.1 + j * r.spec.inner.1

/-- The stored value of a register. -/
def rget (s : State) (r : Reg) (die : Nat) (i : Nat := 0) (j : Nat := 0) : Nat :=
  (mget (w64 r.spec.reset) s.regs (regAddr r die i j)).toNat

/-- Stores a register's value. -/
def rset (s : State) (r : Reg) (die i j v : Nat) : State :=
  { s with regs := mput (w64 r.spec.reset) s.regs (regAddr r die i j) (w64 v) }

/-- Stores bits `hi:lo` of a register. -/
def rfset (s : State) (r : Reg) (die i j hi lo v : Nat) : State := rset s r die i j (fset (rget s r die i j) hi lo v)

/-- Bits `hi:lo` of a register. -/
def rf (s : State) (r : Reg) (die i j hi lo : Nat) : Nat := bits (rget s r die i j) hi lo

/-! ### The places of the package (R2, R21) -/

/-- A C-die, and an L-die, by die index. -/
def isC (n : Nat) : Bool := n ≤ 5
def isL (n : Nat) : Bool := 10 ≤ n && n ≤ 13
/-- A die index in use (R3). -/
def dieUsed (n : Nat) : Bool := n ≤ 5 || (8 ≤ n && n ≤ 27)

/-- The column partner of a C-die (R21). -/
def colPartner (k : Nat) : Nat := if k < 3 then k + 3 else k - 3
/-- The L-die of a C-die, if it has one (R21 table "Die connections"), as a die index. -/
def lDieOf (k : Nat) : Option Nat :=
  match k with
  | 0 => some 10
  | 2 => some 11
  | 3 => some 12
  | 5 => some 13
  | _ => none
/-- The C-die of an L-die (R21), from the L-die's index. -/
def cDieOf (l : Nat) : Nat :=
  match l with
  | 10 => 0
  | 11 => 2
  | 12 => 3
  | _ => 5

/-- Link `l` of a die: the partner's die index and link index (tables "Die connections" and "Link indices"). -/
def linkPartner (die l : Nat) : Option (Nat × Nat) :=
  if die ≤ 5 then
    let side := if die % 3 = 0 then some 0 else if die % 3 = 2 then some 1 else none
    let row := if die < 3 then 0 else 1
    match l with
    | 0 => if die % 3 ≠ 0 then some (die - 1, 1) else none
    | 1 => if die % 3 ≠ 2 then some (die + 1, 0) else none
    | 2 => some (colPartner die, 2)
    | 3 => side.map fun p => (8 + p, row)
    | 4 => side.map fun p => (14 + p, row)
    | 5 => (lDieOf die).map fun d => (d, 0)
    | 8 => some (16 + 2 * die, 0)
    | 9 => some (17 + 2 * die, 0)
    | 10 => some (16 + 2 * colPartner die, 1)
    | 11 => some (17 + 2 * colPartner die, 1)
    | _ => none
  else if die = 8 ∨ die = 14 then
    match l with
    | 0 => some (0, if die = 8 then 3 else 4)
    | 1 => some (3, if die = 8 then 3 else 4)
    | _ => none
  else if die = 9 ∨ die = 15 then
    match l with
    | 0 => some (2, if die = 9 then 3 else 4)
    | 1 => some (5, if die = 9 then 3 else 4)
    | _ => none
  else if isL die then (if l = 0 then some (cDieOf die, 5) else none)
  else if 16 ≤ die ∧ die ≤ 27 then
    let c := (die - 16) / 2
    match l with
    | 0 => some (c, 8 + die % 2)
    | 1 => some (colPartner c, 10 + die % 2)
    | _ => none
  else none

/-- An instance of a register that exists: R46 has no entry for die indices 6 and 7, and a die has link registers only at
the link indices that it has. -/
def instanceThere (r : Reg) (die i j : Nat) : Bool :=
  match r with
  | .dlkDieState => dieUsed j
  | .dlkLinkCtl | .dlkLinkStatus | .dlkCrcErrors | .dlkRetries | .dlkRetrains => (linkPartner die i).isSome
  | _ => true

/-! ### Where an address names a register -/

/-- Where an offset falls in a register's repetition. -/
def RegSpec.locate (sp : RegSpec) (off : Nat) : Option (Nat × Nat) :=
  if off < sp.base then none
  else
    let r := off - sp.base
    let i := r / sp.outer.1
    let q := r - i * sp.outer.1
    let j := q / sp.inner.1
    if i < sp.outer.2 ∧ j < sp.inner.2 ∧ q = j * sp.inner.1 then some (i, j) else none

/-- The register that an address names on its die, with its instance numbers. -/
def regAt (die off : Nat) : Option (Reg × Nat × Nat) :=
  Reg.all.findSome? fun r =>
    if r.spec.dies.any (fun d => d.1 ≤ die ∧ die ≤ d.2) then
      (r.spec.locate off).bind fun p => if instanceThere r die p.1 p.2 then some (r, p.1, p.2) else none
    else none

/-- What a field becomes when `new` is written over `old` (R11). -/
def Acc.write (a : Acc) (old new : Nat) : Nat :=
  match a with
  | .rw => new
  | .ro => old
  | .wo => 0
  | .w1c => old - (old &&& new)
  | .w1s => old ||| new
  | .rc => old

/-- What a register becomes when `new` is written over `old`, all fields together (R10, R11). -/
def RegSpec.write (sp : RegSpec) (old new : Nat) : Nat :=
  sp.fields.foldl (fun v f => fset v f.hi f.lo (f.acc.write (bits old f.hi f.lo) (bits new f.hi f.lo))) old

/-! ### Dies (R2, R46) -/

/-- The die index of R2. -/
def dieIdx : Die → Nat
  | .c k => k.val
  | .p k => 8 + k.val
  | .l k => 10 + k.val
  | .x k => 14 + k.val
  | .m k => 16 + k.val

/-- Every die index in use. -/
def dieList : List Nat := [0, 1, 2, 3, 4, 5, 8, 9, 10, 11, 12, 13, 14, 15, 16, 17, 18, 19, 20, 21, 22, 23, 24, 25, 26, 27]

/-- The STATE values of DLK_DIE_STATE_n (R46). -/
def dsReset : Nat := 1
def dsTraining : Nat := 2
def dsActive : Nat := 3
def dsLost : Nat := 4
def dsRejoining : Nat := 5
def dsRetired : Nat := 6
def dsFatal : Nat := 7
def dsHeld : Nat := 8

/-- DLK_DIE_STATE_n.STATE of a die. -/
def dieSt (s : State) (n : Nat) : Nat := rf s .dlkDieState 14 0 n 3 0
/-- Sets DLK_DIE_STATE_n.STATE. -/
def setDieSt (s : State) (n v : Nat) : State := rfset s .dlkDieState 14 0 n 3 0 v
/-- Whether any die is FATAL (R41, R45). -/
def anyFatal (s : State) : Bool := dieList.any fun n => dieSt s n == dsFatal
/-- A die is ACTIVE in a main domain that still performs requests (R41, R574). -/
def dieActive (s : State) (n : Nat) : Bool := dieSt s n == dsActive && !anyFatal s

/-- DLK_BOOT.PHASE (R561). -/
def phase (s : State) : Nat := rf s .dlkBoot 14 0 0 3 0
def setPhase (s : State) (p : Nat) : State := rfset s .dlkBoot 14 0 0 3 0 p
/-- The main domain runs: start-up is complete and nothing fatal has happened since (R41, R563). -/
def mainUp (s : State) : Bool := phase s == 7 && !anyFatal s

/-! ### Event counters (R15) -/

/-- The largest count (R15). -/
def ctrMax : Nat := 0xFFFFFFFFFFFF

/-- An event counter after `n` more events: it saturates and sets the sticky OVF bit (R15). No event changes nothing. -/
def ctrAdd (v n : Nat) : Nat :=
  let c := bits v 47 0 + n
  if n = 0 then v
  else if c < ctrMax then fset v 47 0 c else fset (fset v 47 0 ctrMax) 63 63 1

/-- Counts `n` events in an event counter. -/
def count (s : State) (r : Reg) (die i j n : Nat) : State := rset s r die i j (ctrAdd (rget s r die i j) n)

/-! ### Error reports (R522-R524) -/

/-- Hands an error to Uszon, which will record it in the fault mailbox (R523) (DESIGN CHOICE, log entry 26). -/
def report (s : State) (code die severity info0 info1 : Nat) : State :=
  { s with uszon := { s.uszon with faults := s.uszon.faults ++ [⟨code, die, severity, info0, info1⟩] } }

/-! ### Corrected errors that no register counts (R80, R187, R302, R351) -/

/-- Where they are counted: the Grotto of C-die k under k, its die cache under 8 + k, the directory slice of a die under 16 + its
index, a tile under 64 + its number. -/
def eccDcc (k : Nat) : Nat := 8 + k
def eccDir (die : Nat) : Nat := 16 + die
def eccTile (t : Nat) : Nat := 64 + t

/-- Counts `n` corrected errors. -/
def correctedBy (s : State) (key n : Nat) : State :=
  if n = 0 then s else { s with eccCorrected := mput 0 s.eccCorrected key (mget 0 s.eccCorrected key + n) }

end Sys2Proof.Machine
end

