-- ==== Sys2Proof/Machine/Float.lean ====
section
/-!
DEFINITION. The floating formats (R122, R123) and exact arithmetic on them with one rounding (R64, R135, R136).
-/
namespace Sys2Proof.Machine

/-- What a format's top encodings are (R122): infinities and NaNs, one NaN and no infinity, or finite values only. -/
inductive Top where
  | ieee | oneNan | finite
deriving DecidableEq, Repr

/-- A floating format: exponent bits, mantissa bits, bias, top encodings. -/
structure Fmt where
  eb : Nat
  mb : Nat
  bias : Nat
  top : Top
deriving DecidableEq, Repr

def fmtE2M1 : Fmt := ⟨2, 1, 1, .finite⟩
def fmtE2M3 : Fmt := ⟨2, 3, 1, .finite⟩
def fmtE3M2 : Fmt := ⟨3, 2, 3, .finite⟩
def fmtE4M3 : Fmt := ⟨4, 3, 7, .oneNan⟩
def fmtE5M2 : Fmt := ⟨5, 2, 15, .ieee⟩
def fmtF16 : Fmt := ⟨5, 10, 15, .ieee⟩
def fmtBf16 : Fmt := ⟨8, 7, 127, .ieee⟩
def fmtF32 : Fmt := ⟨8, 23, 127, .ieee⟩
def fmtF64 : Fmt := ⟨11, 52, 1023, .ieee⟩

/-- The value of an encoding: (-1)^neg x m x 2^e when finite. -/
inductive FV where
  | nan
  | inf (neg : Bool)
  | fin (neg : Bool) (m : Nat) (e : Int)
deriving DecidableEq, Repr

/-- The width of a format in bits. -/
def Fmt.width (f : Fmt) : Nat := 1 + f.eb + f.mb
/-- The largest finite encoding without its sign (R122). -/
def Fmt.maxCode (f : Fmt) : Nat :=
  match f.top with
  | .ieee => (2 ^ f.eb - 1) <<< f.mb - 1
  | .oneNan => 2 ^ (f.eb + f.mb) - 2
  | .finite => 2 ^ (f.eb + f.mb) - 1
/-- The infinity's encoding without its sign. -/
def Fmt.infCode (f : Fmt) : Nat := (2 ^ f.eb - 1) <<< f.mb
/-- The canonical quiet NaN (R64, R136): the top mantissa bit set, or E4M3's only NaN. -/
def Fmt.nanCode (f : Fmt) : Nat :=
  match f.top with
  | .ieee => f.infCode + 2 ^ (f.mb - 1)
  | _ => 2 ^ (f.eb + f.mb) - 1
/-- Puts the sign bit. -/
def Fmt.signed (f : Fmt) (neg : Bool) (c : Nat) : Nat := if neg then 2 ^ (f.eb + f.mb) + c else c

/-- What an encoding means (R123). -/
def Fmt.dec (f : Fmt) (x : Nat) : FV :=
  let neg := bit x (f.eb + f.mb)
  let c := x % 2 ^ (f.eb + f.mb)
  let e := c >>> f.mb
  let m := c % 2 ^ f.mb
  if f.maxCode < c then (if f.top = .ieee ∧ c = f.infCode then .inf neg else .nan)
  else if e = 0 then .fin neg m (1 - (f.bias : Int) - f.mb)
  else .fin neg (2 ^ f.mb + m) ((e : Int) - f.bias - f.mb)

/-- A rounding: the four of MOD 1:0 (R55) and the stochastic one with its 16 bits (R135). -/
inductive Rnd where
  | rne | rz | rup | rdn
  | sr (r : Nat)
deriving DecidableEq, Repr

/-- The rounding that MOD 1:0 selects (R55). -/
def rndOf (m : Nat) : Rnd := match m with | 0 => .rne | 1 => .rz | 2 => .rup | _ => .rdn

/-- Rounds the nonnegative n / d to an integer (the magnitude of a value of that sign). -/
def Rnd.int (r : Rnd) (neg : Bool) (n d : Nat) : Nat :=
  let a := n / d
  let q := n % d
  match r with
  | .rne => if 2 * q > d ∨ (2 * q = d ∧ a % 2 = 1) then a + 1 else a
  | .rz => a
  | .rup => if !neg ∧ q ≠ 0 then a + 1 else a
  | .rdn => if neg ∧ q ≠ 0 then a + 1 else a
  | .sr k => (n * 65536 + k * d) / (d * 65536)

/-- 2^e as a numerator and a denominator. -/
def pow2 (e : Int) : Nat × Nat := if 0 ≤ e then (2 ^ e.toNat, 1) else (1, 2 ^ (-e).toNat)

/-- floor(log2 (n / d x 2^e)) for n, d > 0. -/
def ilog2 (n d : Nat) (e : Int) : Int :=
  let k : Int := (n.log2 : Int) - d.log2
  let p := pow2 k
  (if n * p.2 < d * p.1 then k - 1 else k) + e

/-- The encoding without sign of the magnitude n / d x 2^e rounded with an unbounded exponent (R136): a code above
`maxCode` is an overflow. -/
def Fmt.roundMag (f : Fmt) (r : Rnd) (neg : Bool) (n d : Nat) (e : Int) : Nat :=
  if n = 0 then 0
  else
    let emin : Int := 1 - (f.bias : Int)
    let k := ilog2 n d e
    let q := (if k < emin then emin else k) - f.mb
    let p := pow2 (e - q)
    let a := r.int neg (n * p.1) (d * p.2)
    if a < 2 ^ f.mb then a
    else
      let (a, q) := if a = 2 ^ (f.mb + 1) then (2 ^ f.mb, q + 1) else (a, q)
      (q + f.mb + f.bias).toNat <<< f.mb + (a - 2 ^ f.mb)

/-- What an overflow becomes under IEEE 754 (R64, R65). -/
def Fmt.overflow (f : Fmt) (r : Rnd) (neg : Bool) : Nat :=
  let toInf := match r with | .rne => true | .rz => false | .rup => !neg | .rdn => neg | .sr _ => true
  match f.top with
  | .ieee => if toInf then f.infCode else f.maxCode
  | .oneNan => if toInf then f.nanCode else f.maxCode
  | .finite => f.maxCode

/-- The encoding of the magnitude n / d x 2^e of a sign, rounded once (R64). -/
def Fmt.enc (f : Fmt) (r : Rnd) (neg : Bool) (n d : Nat) (e : Int) : Nat :=
  let c := f.roundMag r neg n d e
  f.signed neg (if f.maxCode < c then f.overflow r neg else c)

/-- The encoding of a value, rounded once. -/
def Fmt.ofFV (f : Fmt) (r : Rnd) : FV → Nat
  | .nan => f.nanCode
  | .inf n => f.signed n (match f.top with | .ieee => f.infCode | .oneNan => f.nanCode | .finite => f.maxCode)
  | .fin n m e => f.enc r n m 1 e

/-! ### Exact operations on values -/

/-- The signed integer m x 2^(e - q) for q at most e. -/
def alignTo (q : Int) (neg : Bool) (m : Nat) (e : Int) : Int :=
  let v : Int := ((m * 2 ^ (e - q).toNat : Nat) : Int)
  if neg then -v else v

/-- The exact sum, whose zero of operands of opposite sign is +0, or -0 when rounding toward minus infinity (R64, R133). -/
def FV.add (r : Rnd) : FV → FV → FV
  | .nan, _ => .nan
  | _, .nan => .nan
  | .inf a, .inf b => if a = b then .inf a else .nan
  | .inf a, _ => .inf a
  | _, .inf b => .inf b
  | .fin s m e, .fin t n g =>
    let q := if e ≤ g then e else g
    let z := alignTo q s m e + alignTo q t n g
    if z = 0 then .fin (if s = t then s else r == .rdn) 0 0 else .fin (z < 0) z.natAbs q

def FV.neg : FV → FV
  | .nan => .nan
  | .inf a => .inf !a
  | .fin s m e => .fin (!s) m e

/-- The exact product. -/
def FV.mul : FV → FV → FV
  | .nan, _ => .nan
  | _, .nan => .nan
  | .inf a, .inf b => .inf (a != b)
  | .inf a, .fin b m _ => if m = 0 then .nan else .inf (a != b)
  | .fin a m _, .inf b => if m = 0 then .nan else .inf (a != b)
  | .fin a m e, .fin b n g => .fin (a != b) (m * n) (e + g)

/-- The order of two values that are not NaN: negative, zero or positive as a is below, equal to or above b. -/
def FV.cmp : FV → FV → Int
  | .inf a, .inf b => if a = b then 0 else if a then -1 else 1
  | .inf a, _ => if a then -1 else 1
  | _, .inf b => if b then 1 else -1
  | .fin s m e, .fin t n g =>
    let q := if e ≤ g then e else g
    let z := alignTo q s m e - alignTo q t n g
    if z < 0 then -1 else if z = 0 then 0 else 1
  | _, _ => 0

def FV.isNan : FV → Bool
  | .nan => true
  | _ => false
def FV.isNeg : FV → Bool
  | .nan => false
  | .inf a => a
  | .fin s _ _ => s

/-- minimumNumber and maximumNumber (R62): a number beats a NaN, and -0 is below +0. -/
def fminmax (f : Fmt) (isMax : Bool) (a b : Nat) : Nat :=
  let x := f.dec a
  let y := f.dec b
  if x.isNan then (if y.isNan then f.nanCode else b)
  else if y.isNan then a
  else
    let c := x.cmp y
    let aLess := c < 0 || (c == 0 && x.isNeg && !y.isNeg)
    if aLess != isMax then a else b

/-- IEEE addition, subtraction, multiplication and fused multiply-add with one rounding (R62, R64). -/
def fadd (f : Fmt) (r : Rnd) (a b : Nat) : Nat := f.ofFV r ((f.dec a).add r (f.dec b))
def fsub (f : Fmt) (r : Rnd) (a b : Nat) : Nat := f.ofFV r ((f.dec a).add r (f.dec b).neg)
def fmul (f : Fmt) (r : Rnd) (a b : Nat) : Nat := f.ofFV r ((f.dec a).mul (f.dec b))
/-- A division, correctly rounded (R221, R233, R261). -/
def fdiv (f : Fmt) (r : Rnd) (a b : Nat) : Nat :=
  match f.dec a, f.dec b with
  | .nan, _ | _, .nan | .inf _, .inf _ => f.nanCode
  | .inf m, .fin n _ _ => f.signed (m != n) f.infCode
  | .fin m _ _, .inf n => f.signed (m != n) 0
  | .fin m x e, .fin n y d =>
    if y = 0 then (if x = 0 then f.nanCode else f.signed (m != n) f.infCode)
    else if x = 0 then f.signed (m != n) 0
    else f.enc r (m != n) x y (e - d)
def ffma (f : Fmt) (r : Rnd) (a b c : Nat) : Nat := f.ofFV r (((f.dec a).mul (f.dec b)).add r (f.dec c))

/-! ### The atomic operations (R72) -/

/-- The width of an atomic's type. -/
def atomWidth (ty : Nat) : Nat := if ty == 2 || ty == 3 || ty == 5 then 64 else 32

/-- Whether AOP supports TYPE (R72). -/
def atomLegal (aop ty : Nat) : Bool :=
  match aop with
  | 0 => ty ≤ 3
  | 1 => ty ≤ 4
  | 2 => ty ≤ 4
  | 3 => ty == 0 || ty == 2
  | 4 => ty == 0 || ty == 2
  | 5 => ty == 0 || ty == 2
  | 6 => ty == 0 || ty == 2
  | 7 => ty == 0 || ty == 2
  | 8 => ty == 4 || ty == 5
  | _ => false

/-- Whether a AOP's operands are combined by the tile (R73) or sent one by one (R74). -/
def atomCombines (aop : Nat) : Bool := aop != 6 && aop != 7

/-- A signed or unsigned comparison of integers of a type. -/
def intLt (ty a b : Nat) : Bool :=
  if ty == 1 || ty == 3 then decide (signed (atomWidth ty) a < signed (atomWidth ty) b) else decide (a < b)

/-- The new value that one atomic step gives for the prior value m and the operand c, with the swap value d (R72). -/
def atomStep (aop ty m c d : Nat) : Nat :=
  let w := 2 ^ atomWidth ty
  match aop with
  | 0 => (m + c) % w
  | 1 => if ty == 4 then fminmax fmtF32 false m c else if intLt ty c m then c else m
  | 2 => if ty == 4 then fminmax fmtF32 true m c else if intLt ty m c then c else m
  | 3 => m &&& c
  | 4 => m ||| c
  | 5 => m ^^^ c
  | 6 => c
  | 7 => if m = c then d else m
  | _ => fadd (if ty == 5 then fmtF64 else fmtF32) .rne m c

/-- The chain of the operands of all lanes but the first (R73). -/
def atomChain (aop ty : Nat) (c : Nat) : List Nat → List Nat
  | [] => []
  | x :: xs => c :: atomChain aop ty (atomStep aop ty c x 0) xs

/-- An atomic request's effect on the word `m`: the new value, and what each lane receives in lane order (R73, R74). -/
def atomApply (aop ty m : Nat) (ops : List (Nat × Nat)) : Nat × List Nat :=
  match ops with
  | [] => (m, [])
  | (c, d) :: rest =>
    if atomCombines aop then
      let cs := rest.map (·.1)
      let whole := cs.foldl (fun a x => atomStep aop ty a x 0) c
      (atomStep aop ty m whole 0, m :: (atomChain aop ty c cs).map fun k => atomStep aop ty m k 0)
    else
      rest.foldl (fun (acc : Nat × List Nat) x => (atomStep aop ty acc.1 x.1 x.2, acc.2 ++ [acc.1]))
        (atomStep aop ty m c d, [m])

end Sys2Proof.Machine
end

