-- ==== Sys2Proof/Machine/Homes.lean ====
section
/-!
DEFINITION. The memory tiers (R313-R344): where an address lives, the stacks, the write queues, the Sump and the merge
buffers, poison, the error logs and the drains. A home is numbered 0-11 for M-base m and 12 + 12 x + n for deep-tier
controller n of X-die x. A line is an address divided by 128.
-/
namespace Sys2Proof.Machine

/-! ### Where an address lives (R24, R314-R317) -/

/-- The regions of R24. -/
def inFast (a : Nat) : Bool := a < 0xC000000000
def inDeep (a : Nat) : Bool := 0x20000000000 ≤ a && a < 0x38000000000
/-- Main memory: the fast and deep tiers, the only lines that caches hold (R273). -/
def inMemory (a : Nat) : Bool := inFast a || inDeep a
/-- A Grotto aperture: the C-die and the offset. -/
def inAperture (a : Nat) : Option (Nat × Nat) :=
  if 0x80000000000 ≤ a ∧ a < 0x80000000000 + 6 * 0x100000000 ∧ a % 0x100000000 < 0x6000000 then
    some ((a - 0x80000000000) / 0x100000000, a % 0x100000000)
  else none
def inRegisters (a : Nat) : Bool := 0xF00000000000 ≤ a && a < 0xF10000000000

/-- MEM_CFG.MODE, the same in every M-base (R338). -/
def dieLocal (s : State) : Bool := rf s .memCfg 16 0 0 8 8 == 1

/-- The home of an address, with its local granule number (R314, R316, R317). -/
def homeOf (s : State) (a : Nat) : Option (Nat × Nat) :=
  if inFast a then
    if dieLocal s then
      let g := (a % 2 ^ 37) >>> 12
      some (2 * (a >>> 37) + g % 2, g / 2)
    else
      let g := a >>> 12
      some ((g + g / 12) % 12, g / 12)
  else if inDeep a then
    let x := if a < 0x2C000000000 then 0 else 1
    let h := (a - (if x = 0 then 0x20000000000 else 0x2C000000000)) >>> 12
    some (12 + 12 * x + (h + h / 12) % 12, h / 12)
  else none

/-- The home's number alone. -/
def homeNo (s : State) (line : Nat) : Option Nat := (homeOf s (line * 128)).map (·.1)

/-- The die of a home, and its controller's number there. -/
def homeDie (h : Nat) : Nat := if h < 12 then 16 + h else 14 + (h - 12) / 12
def homePkg (h : Nat) : Nat := if h < 12 then 0 else (h - 12) % 12
def isDeep (h : Nat) : Bool := 12 ≤ h

/-- The number of a home. -/
def homeKey : Home → Nat
  | .fast m => m.val
  | .deep x n => 12 + 12 * x.val + n.val

/-- Bits 43:9 of an error log's second word, where the line lives in its stack or package (R315, R317, R340, R343). The
manual does not say which lines of a deep-tier channel a sub-channel holds (DESIGN CHOICE, log entry 102). -/
def coords (s : State) (line : Nat) : Nat :=
  match homeOf s (line * 128) with
  | none => 0
  | some (h, l) =>
    let n := line % 32
    if isDeep h then
      let q := 8 * l + n / 4
      (((n % 4) ^^^ (l % 4)) <<< 39) + b2n (Config.subChannel line) <<< 38 + (bits q 7 4) <<< 32 + (bits q 26 8) <<< 13 + (bits q 3 0) <<< 9
    else
      ((n ^^^ (l % 32)) <<< 39) + (bits l 3 3) <<< 38 + (bits l 9 8) <<< 36 + (bits l 5 4) <<< 34 + (bits l 7 6) <<< 32
        + (bits l 23 10) <<< 18 + (bits l 2 0) <<< 15

/-- The pseudo-channel, or deep-tier channel, whose write queue a line uses (R333). -/
def channelOf (s : State) (line : Nat) : Nat :=
  match homeOf s (line * 128) with
  | none => 0
  | some (h, l) =>
    let n := line % 32
    if isDeep h then (n % 4) ^^^ (l % 4) else 2 * (n ^^^ (l % 32)) + bits l 3 3

/-! ### Bytes of lines -/

/-- The bytes of a line in memory itself. -/
def memLine (s : State) (line : Nat) : List Byte := (List.range 128).map fun i => mget 0 s.mem (line * 128 + i)

/-- Lays bytes, keyed by offset, over a line. -/
def overlay (base : List Byte) (bs : Map Byte) : List Byte :=
  base.mapIdx fun i b => (mfind bs i).getD b

/-- Writes a line's bytes to memory. -/
def memPut (m : Map Byte) (addr : Nat) : List Byte → Map Byte
  | [] => m
  | b :: bs => memPut (mput 0 m addr b) (addr + 1) bs

/-- Which offsets a byte map holds, as a mask. -/
def maskOf (bs : Map Byte) : Nat := bs.foldl (fun m e => m ||| 2 ^ e.1) 0

/-- All 128 bytes. -/
def fullMask : Nat := 2 ^ 128 - 1

/-- Whether a map holds every byte of a half-line. -/
def coversHalf (bs : Map Byte) (j : Nat) : Bool := (maskOf bs >>> (64 * j)) % 2 ^ 64 == 2 ^ 64 - 1

/-- The bytes of a list as a map from offset `o`. -/
def bytesFrom (o : Nat) : List Byte → Map Byte
  | [] => []
  | b :: bs => (o, b) :: bytesFrom (o + 1) bs

/-- Lays the later bytes over the earlier ones (R321). -/
def mergeBytes (old new : Map Byte) : Map Byte := new.foldl (fun m e => mins m e.1 e.2) old

/-! ### A home's state -/

def home (s : State) (h : Nat) : HomeSt := mget HomeSt.reset s.homes h
def setHome (s : State) (h : Nat) (v : HomeSt) : State := { s with homes := mput HomeSt.reset s.homes h v }

/-- The home whose state holds the store of a home's atomics unit (R325). -/
def amuHome (h : Nat) : Nat := if isDeep h then 12 + 12 * ((h - 12) / 12) else h
def amuStore (s : State) (h : Nat) : List Nat := (home s (amuHome h)).amu

/-! ### The M-links of a stack (R38, R335, R336) -/

/-- A stack, by the die index of its M-base, is served over its secondary, or again over its primary, M-link (R46, R339). The
requests that it has been sent are performed before any that come over the other link (R336). -/
def setSecondary (s : State) (m : Nat) (v : Bool) : State :=
  let e := home s (m - 16)
  let s := if rf s .dlkDieState 14 0 m 16 16 = b2n v then s else setHome s (m - 16) { e with sent := e.reqs.length }
  rfset (rfset s .dlkDieState 14 0 m 16 16 (b2n v)) .memStatus m 0 0 2 2 (b2n v)

/-- The stacks of a lost C-die go over to their secondary M-links, and the requests held for them proceed (R38). -/
def stacksSwitch (s : State) (k : Nat) : State :=
  if s.heldStacks.contains (2 * k) then
    let s := setSecondary (setSecondary s (16 + 2 * k) true) (17 + 2 * k) true
    { s with heldStacks := kdel (kdel s.heldStacks (2 * k)) (2 * k + 1) }
  else s

/-! ### Counts and logs -/

/-- Counts events in the register of a home: MEM_ of an M-base, LPD_ of a controller (R341, R343). -/
def homeCount (s : State) (h : Nat) (m l : Reg) (n : Nat) : State :=
  count s (if isDeep h then l else m) (homeDie h) (homePkg h) 0 n

/-- Logs a memory event (R340), which Uszon reports (R331): the first one is kept until VALID is cleared. -/
def memLog (s : State) (h line code : Nat) : State :=
  let d := homeDie h
  let p := homePkg h
  let r0 : Reg := if isDeep h then .lpdErrLog0 else .memErrLog0
  let r1 : Reg := if isDeep h then .lpdErrLog1 else .memErrLog1
  let c := coords s line
  let s := if bit (rget s r0 d p) 63 then rfset s r0 d p 0 62 62 1
           else rset (rset s r0 d p 0 (2 ^ 63 + line * 128)) r1 d p 0 (code <<< 48 + c)
  report s code d 1 (line * 128) c

/-- The Sump's registers (R342, R343). -/
def smpStatusReg (h : Nat) : Reg := if isDeep h then .lpdMergeStatus else .smpStatus

/-- Shows the counts of entries and failures in SMP_STATUS (R342). -/
def showSump (s : State) (h : Nat) : State :=
  let e := home s h
  rfset (rfset s (smpStatusReg h) (homeDie h) (homePkg h) 0 22 16 e.mergeFails.length)
    (smpStatusReg h) (homeDie h) (homePkg h) 0 15 0 e.sump.length

/-! ### The write queue (R333) -/

/-- Clears the poison and the errors of the halves that a write covers wholly (R330). -/
def healHalf (s : State) (line j : Nat) : State :=
  { s with memPoison := kdel s.memPoison (2 * line + j), memErrs := mdel s.memErrs (2 * line + j) }
def poisonHalf (s : State) (line j : Nat) : State :=
  { s with memPoison := kins s.memPoison (2 * line + j), memErrs := mdel s.memErrs (2 * line + j) }

/-- Moves the oldest `n` writes of a channel to the stack (DEDUCED, log entry 48). -/
def wqDrain (s : State) (h ch n : Nat) : State :=
  let e := home s h
  let (mine, rest) := e.writeQ.partition fun w => channelOf s w.1 == ch
  let out := mine.take n
  let s := setHome { s with mem := out.foldl (fun m w => memPut m (w.1 * 128) w.2) s.mem } h
    { e with writeQ := mine.drop n ++ rest }
  homeCount (homeCount s h .memWrLines .lpdWrLines out.length) h .memTurns .lpdTurns 1

/-- The queue of a line's channel drains to 16 once it holds 48, or when no read of the channel is pending (R333). -/
def wqGo (s : State) (h line : Nat) : State :=
  let ch := channelOf s line
  let e := home s h
  let n := (e.writeQ.filter fun w => channelOf s w.1 == ch).length
  let busy := e.reads.any fun r => channelOf s r.req.line == ch
  if 48 ≤ n ∨ (!busy ∧ 16 < n) then wqDrain s h ch (n - 16) else s

/-- A whole line enters the write queue of its channel. -/
def wqPush (s : State) (h line : Nat) (bs : List Byte) : State :=
  let e := home s h
  wqGo (setHome s h { e with writeQ := e.writeQ.filter (fun w => w.1 != line) ++ [(line, bs)] }) h line

/-- The line as the write queue and the stack hold it. -/
def homeLine (s : State) (h line : Nat) : List Byte :=
  match (home s h).writeQ.find? fun w => w.1 == line with
  | some w => w.2
  | none => memLine s line

/-- The Sump entry of a line. -/
def sumpEntry (s : State) (h line : Nat) : Option SumpEntry := (home s h).sump.find? fun e => e.line == line

/-- The symbols of a half's codeword: 64 of data and 8 of check (R327). A larger number of wrong ones stands for an error that
the code does not detect. -/
def halfSymbols : Nat := 72

/-- So many wrong symbols are detected and cannot be corrected (R327). -/
def uncorrectable (n : Nat) : Bool := decide (4 ≤ n) && decide (n ≤ halfSymbols)

/-- Whether a half cannot be read: 0, or the code (R328, R330). -/
def halfCode (s : State) (line j : Nat) : Nat :=
  if uncorrectable (mget 0 s.memErrs (2 * line + j)) then 0x841 else if (2 * line + j) ∈ s.memPoison then 0x842 else 0

/-- The halves of a line that could be read are stored again with the whole line: their cells hold no error any more. -/
def healGood (s : State) (line : Nat) : State :=
  let one (s : State) (j : Nat) : State := if halfCode s line j = 0 then healHalf s line j else s
  one (one s 0) 1

/-- The code of a read that needs the bytes of `need` from the stack. -/
def stackCode (s : State) (line need : Nat) : Nat :=
  let a := if need % 2 ^ 64 = 0 then 0 else halfCode s line 0
  if a ≠ 0 then a else if need >>> 64 = 0 then 0 else halfCode s line 1

/-! ### The ECC of a read (R327, R328) -/

/-- Symbols of a half are found wrong, and stay so in its cells until they are written. -/
def wearHalf (s : State) (half n : Nat) : State :=
  if half ∈ s.memPoison then s else { s with memErrs := mput 0 s.memErrs half (Nat.max n (mget 0 s.memErrs half)) }

/-- The write queue holds the line (R333). -/
def inWriteQ (s : State) (h line : Nat) : Bool := (home s h).writeQ.any fun w => w.1 == line

/-- The cells of a home's lines that have gone wrong. Those of a line in the write queue are written before they are read. -/
def wearCells (s : State) (h : Nat) (cells : List (Nat × Nat)) : State :=
  cells.foldl (fun s c => if homeNo s (c.1 / 2) = some h ∧ inWriteQ s h (c.1 / 2) = false then wearHalf s c.1 c.2 else s) s

/-- What the code finds in half `j` of a line. -/
def eccHalf (e : Ecc) (j : Nat) : HalfEcc := if j = 0 then e.lo else e.hi

/-- The bytes of `need` touch half `j`. -/
def needsHalf (need j : Nat) : Bool := (need >>> (64 * j)) % 2 ^ 64 != 0

/-- Counts the corrected errors of the halves that a read needs. -/
def countCorrected (s : State) (h line need : Nat) : State :=
  let n := b2n (needsHalf need 0 && decide (1 ≤ mget 0 s.memErrs (2 * line)) && decide (mget 0 s.memErrs (2 * line) ≤ 3))
    + b2n (needsHalf need 1 && decide (1 ≤ mget 0 s.memErrs (2 * line + 1)) && decide (mget 0 s.memErrs (2 * line + 1) ≤ 3))
  if n = 0 then s else homeCount s h .memCorrected .lpdCorrected n

/-- What a stack read of the bytes of `need` finds: wrong symbols stay in the cells, corrected errors are counted. -/
def eccEffect (s : State) (h line need : Nat) (e : Ecc) : State :=
  let one (s : State) (j : Nat) : State := match eccHalf e j with
    | .symbols n => if n = 0 then s else wearHalf s (2 * line + j) (Nat.min n halfSymbols)
    | .undetected => wearHalf s (2 * line + j) (halfSymbols + 1)
  countCorrected (one (one s 0) 1) h line need

/-- 64 bytes that nothing determines. -/
def freeHalf (s : State) : List Byte × State :=
  let (ws, s) := drawList 8 s
  (ws.flatMap (toBytes 8), s)

/-- The data of a stack read: in a half whose error goes undetected, the bytes of `need` are free values (R327). -/
def eccData (s : State) (line need : Nat) (data : List Byte) : List Byte × State :=
  let one (a : List Byte × State) (j : Nat) : List Byte × State :=
    if halfSymbols < mget 0 s.memErrs (2 * line + j) ∧ needsHalf need j = true then
      let (f, s) := freeHalf a.2
      (a.1.mapIdx fun i b => if i / 64 = j ∧ bit need i then f.getD (i % 64) 0 else b, s)
    else a
  one (one (data, s) 0) 1

/-! ### Read-merge-write (R321, R324) -/

/-- Lists a failed merge (R324). -/
def listFail (l : List Nat) (line : Nat) : List Nat := if 64 ≤ l.length ∨ line ∈ l then l else l ++ [line]

/-- A partial entry leaves the Sump by read-merge-write (DEDUCED, log entry 50). -/
def sumpRmw (s : State) (h : Nat) (en : SumpEntry) (ecc : Ecc) : State :=
  let e := home s h
  let s := setHome s h { e with sump := e.sump.filter fun x => x.line != en.line }
  let (old, s) := if e.writeQ.any fun w => w.1 == en.line then (homeLine s h en.line, s)
    else
      let s := homeCount (eccEffect s h en.line fullMask ecc) h .memRdLines .lpdRdLines 1
      eccData s en.line fullMask (memLine s en.line)
  let s := if isDeep h then s else count s .smpRmw (homeDie h) 0 0 1
  let lost (j : Nat) : Bool := halfCode s en.line j != 0 && !coversHalf en.bytes j
  let bad (j : Nat) : Bool := lost j || en.poison.any fun o => o / 64 == j
  let failed := lost 0 || lost 1
  let unread := [0, 1].any fun j => lost j && halfCode s en.line j == 0x841
  let s := if unread then homeCount s h .memUncorrected .lpdUncorrected 1 else s
  let s1 := wqPush s h en.line (overlay old en.bytes)
  let fin (s : State) (j : Nat) : State := if bad j then poisonHalf s en.line j else healHalf s en.line j
  let s1 := fin (fin s1 0) 1
  let s1 := if failed then
      let e := home s1 h
      memLog (setHome s1 h { e with mergeFails := listFail e.mergeFails en.line }) h en.line 0x843
    else s1
  showSump s1 h

/-- The set of a line in the Sump or the merge buffer (R321, R322). -/
def sumpSet (h line : Nat) : Nat := if isDeep h then line % 16 else line % 1024

/-- A write is performed at the home (R320, R321). -/
def homeWrite (s : State) (h line : Nat) (bs : Map Byte) (poison : List Nat) : State :=
  let e := home s h
  if maskOf bs = fullMask then
    let s := setHome s h { e with sump := e.sump.filter fun x => x.line != line }
    let s := wqPush s h line (overlay (List.replicate 128 0) bs)
    let fin (s : State) (j : Nat) : State :=
      if poison.any (fun o => o / 64 == j) then poisonHalf s line j else healHalf s line j
    showSump (fin (fin s 0) 1) h
  else
    let s := if isDeep h then s else count s .smpMerges (homeDie h) 0 0 1
    match e.sump.find? fun x => x.line == line with
    | some en =>
      let bad := poison.foldl kins (en.poison.filter fun o => (mfind bs o).isNone)
      let en' : SumpEntry := { en with bytes := mergeBytes en.bytes bs, poison := bad, failed := !bad.isEmpty }
      let e' := home s h
      let others := e'.sump.filter fun x => x.line != line
      if maskOf en'.bytes = fullMask then
        let s := wqPush (setHome s h { e' with sump := others }) h line (overlay (List.replicate 128 0) en'.bytes)
        let fin (s : State) (j : Nat) : State :=
          if en'.poison.any (fun o => o / 64 == j) then poisonHalf s line j else healHalf s line j
        showSump (fin (fin s 0) 1) h
      else showSump (setHome s h { e' with sump := others ++ [en'] }) h
    | none =>
      let set := e.sump.filter fun x => sumpSet h x.line == sumpSet h line
      let s := match set with
        | v :: _ => if 16 ≤ set.length then sumpRmw s h v .good else s
        | [] => s
      let e := home s h
      showSump (setHome s h { e with sump := e.sump ++ [⟨line, bs, poison, !poison.isEmpty⟩] }) h

/-- A read's data at its arrival: the line with the Sump's bytes, the needed bytes that the Sump does not give, and
whether a byte that it gives is poisoned (R321, R330). -/
def homeTake (s : State) (h line need : Nat) : List Byte × Nat × Bool :=
  let base := homeLine s h line
  match sumpEntry s h line with
  | some en => (overlay base en.bytes, need - (need &&& maskOf en.bytes), en.poison.any fun o => bit need o)
  | none => (base, need, false)

/-- The code of a read, and the counts and logs that it leaves (R328, R330, R331). -/
def readResult (s : State) (h line code : Nat) : State :=
  if code = 0 then s
  else memLog (if code = 0x841 then homeCount s h .memUncorrected .lpdUncorrected 1 else s) h line code

/-- A whole read at once: its code, the line, and what it leaves. -/
def homeReadNow (s : State) (h line need : Nat) : Nat × List Byte × State :=
  let (data, rest, sp) := homeTake s h line need
  let code := if sp then 0x842 else stackCode s line rest
  let (data, s) := if rest = 0 ∨ inWriteQ s h line then (data, s)
    else eccData (countCorrected (homeCount s h .memRdLines .lpdRdLines 1) h line rest) line rest data
  (code, if code = 0 then data else [], readResult s h line code)

/-- The line that the home holds now, whatever its errors. -/
def homeValue (s : State) (h line : Nat) : List Byte := (homeTake s h line fullMask).1

/-- One byte as the home holds it: the model's read of memory. -/
def readByte (s : State) (a : Nat) : Byte :=
  match homeNo s (a / 128) with
  | none => 0
  | some h => (homeValue s h (a / 128)).getD (a % 128) 0

/-! ### Drains (R323, R324, R342) -/

/-- A line has a byte in the range lo to hi - 1. -/
def lineIn (lo hi line : Nat) : Bool := line * 128 < hi && lo < line * 128 + 128

/-- Writes every partial entry of the range, and says whether the drain completes with E_MEM_MERGE_LOST. -/
def drainHome (s : State) (h lo hi : Nat) : Bool × State :=
  let s := ((home s h).sump.filter fun e => lineIn lo hi e.line).foldl (fun s e => sumpRmw s h e .good) s
  let e := home s h
  let full := decide (64 ≤ e.mergeFails.length)
  let hit := e.mergeFails.any (lineIn lo hi)
  (full || hit, showSump (setHome s h { e with mergeFails := if full then e.mergeFails else e.mergeFails.filter fun l => !lineIn lo hi l }) h)

/-- A drain with ALL writes every entry and empties the merge-failure list. -/
def drainHomeAll (s : State) (h : Nat) : Bool × State :=
  let s := (home s h).sump.foldl (fun s e => sumpRmw s h e .good) s
  let e := home s h
  (!e.mergeFails.isEmpty, showSump (setHome s h { e with mergeFails := [] }) h)

/-- Every home. -/
def homeList : List Nat := List.range 36

/-- Drains of a range at every home (R372 step 4). -/
def drainAll (s : State) (lo hi : Nat) : Bool × State :=
  homeList.foldl (fun (a : Bool × State) h => let r := drainHome a.2 h lo hi; (a.1 || r.1, r.2)) (false, s)

end Sys2Proof.Machine
end

