-- ==== Sys2Proof/Machine/Coherence.lean ====
section
/-!
DEFINITION. The coherent domain (R345-R364): the directory, its transactions and messages, what agents answer, the memory
atomics units, and whole coherent and non-coherent accesses to one line.
-/
namespace Sys2Proof.Machine

/-! ### Agents' copies (R348) -/

/-- The key of an agent's copy of a line. -/
def copyKey (a line : Nat) : Nat := a * 2 ^ 41 + line
def copyOf (s : State) (a line : Nat) : Option CacheLine := mfind s.caches (copyKey a line)
def setCopy (s : State) (a line : Nat) (c : CacheLine) : State := { s with caches := mins s.caches (copyKey a line) c }
/-- An agent's copy is gone; a reservation on the line is lost (R355). -/
def dropCopy (s : State) (a line : Nat) : State :=
  let c := mget CoreSt.reset s.cores a
  let s := { s with caches := mdel s.caches (copyKey a line) }
  if a < 128 ∧ c.reservation = some line then
    { s with cores := mput CoreSt.reset s.cores a { c with reservation := none } }
  else s

/-- The core has stored to a line that it may write: E becomes M (R348). -/
def coreStores (s : State) (a line : Nat) (st : List (Fin 128 × Byte)) : State :=
  match copyOf s a line with
  | none => s
  | some c =>
    if st.isEmpty ∨ !(c.st == .m || c.st == .e) then s
    else setCopy s a line { c with st := .m, bytes := st.foldl (fun l p => l.set p.1.val p.2) c.bytes }

/-- The P-die of a core or of an L3 (R345). -/
def agentDie (a : Nat) : Nat := if a < 64 then 8 else if a < 128 then 9 else if a = 128 then 8 else if a = 129 then 9 else if a = 130 then 14 else 15

/-- Sends a message. -/
def sendMsg (s : State) (a line : Nat) (m : CohMsg) : State := { s with cohNet := s.cohNet ++ [⟨a, line, m⟩] }

/-! ### The directory (R349, R350) -/

def dirEntry (s : State) (line : Nat) : Option DirEntry := mfind s.dir line

/-- The agents of a holder set: a coarse vector covers cores in eights and agents 128-131 (R349). -/
def holderIds : Holders → List Nat
  | .ptr ids => ids
  | .coarse v => (List.range 132).filter fun a => bit v.toNat (if a < 128 then a / 8 else a - 112)

/-- The coarse bit of an agent. -/
def coarseBit (a : Nat) : Nat := 2 ^ (if a < 128 then a / 8 else a - 112)

/-- Adds a holder: the ninth switches to coarse mode (R349). -/
def addHolder (h : Holders) (a : Nat) : Holders :=
  match h with
  | .ptr ids =>
    if (kins ids a).length ≤ 8 then .ptr (kins ids a)
    else .coarse (BitVec.ofNat 20 ((kins ids a).foldl (fun v x => v ||| coarseBit x) 0))
  | .coarse v => .coarse (v ||| BitVec.ofNat 20 (coarseBit a))

/-- Removes a holder that answered RspAbsent (R354); a coarse bit that covers eight cores stays. -/
def delHolder (h : Holders) (a : Nat) : Holders :=
  match h with
  | .ptr ids => .ptr (kdel ids a)
  | .coarse v => if a < 128 then .coarse v else .coarse (v &&& ~~~ BitVec.ofNat 20 (coarseBit a))

/-- The owner of a state. -/
def ownerOf : DirState → Option Nat
  | .shared => none
  | .excl o => some o
  | .owned o => some o

/-- Every recorded holder; the owner is not in the holder set. -/
def allHolders (e : DirEntry) : List Nat :=
  (match ownerOf e.st with | some o => [o] | none => []) ++ (holderIds e.holders).filter fun a => some a != ownerOf e.st

/-- Writes an entry, its last use now; an entry without any holder is I. -/
def setDir (s : State) (line : Nat) (st : DirState) (h : Holders) : State :=
  if st = .shared ∧ (holderIds h).isEmpty then { s with dir := mdel s.dir line }
  else { s with dir := mins s.dir line ⟨st, h, s.nextId⟩, nextId := s.nextId + 1 }
def delDir (s : State) (line : Nat) : State := { s with dir := mdel s.dir line }

/-- The directory slice and the set of a line (R350). -/
def dirSet (h line : Nat) : Nat := Config.dirSetHash line % (if isDeep h then 131072 else 32768)

/-- The entries of a line's set in its directory slice. -/
def dirMates (s : State) (h line : Nat) : Map DirEntry :=
  s.dir.filter fun e =>
    (match homeNo s e.1 with | some h' => homeDie h' == homeDie h | none => false) && dirSet h e.1 == dirSet h line

/-- The set of a line is full (R350). -/
def dirFull (s : State) (h line : Nat) : Bool := decide (16 ≤ (dirMates s h line).length)

/-- The entry to evict before `line` can be recorded in a full set: the least recently used that no transaction holds
(DEDUCED, log entry 78). -/
def dirVictim (s : State) (h line : Nat) : Option Nat :=
  let free := (dirMates s h line).filter fun e => (mfind s.txns e.1).isNone
  (free.foldl (fun (b : Option (Nat × DirEntry)) e =>
    match b with
    | none => some e
    | some x => if e.2.stamp < x.2.stamp then some e else b) none).map (·.1)

def setTxn (s : State) (line : Nat) (t : Txn) : State := { s with txns := mins s.txns line t }
def delTxn (s : State) (line : Nat) : State := { s with txns := mdel s.txns line }
def newTxn (k : TxnKind) (req : Nat) (waiting : List Nat) : Txn :=
  { kind := k, req := req, waiting := waiting, data := none, wbFrom := [], gotClean := false, gotData := false,
    request := none, written := [], stalled := none }

/-- Sends a snoop to each agent. -/
def snoopAll (s : State) (h line : Nat) (m : CohMsg) (as : List Nat) : State :=
  as.foldl (fun s a => sendMsg s a line m) (count s .cohSnoops (homeDie h) 0 0 as.length)

/-! ### Recent use of a line (R363) -/

/-- Records an atomic or a grant of a line, keeping 1 us. -/
def markUse (s : State) (h line who : Nat) : State :=
  let e := home s h
  let now := s.master.toNat
  setHome s h { e with recent := (line, who, now) :: e.recent.filter fun r => decide (now ≤ r.2.2 + 1000) }

/-- CONTENDED: another requester's atomic, or another agent's grant, of this line within 1 us. -/
def contended (s : State) (h line who : Nat) : Bool :=
  (home s h).recent.any fun r => r.1 == line && r.2.1 != who && decide (s.master.toNat ≤ r.2.2 + 1000)

/-! ### Reads of a home's stack (R321, R333, R334) -/

/-- Sends an answer towards a tile's L1; a prefetch into the die cache alone has nobody to answer. -/
def toL1 (s : State) (r : MemReq) (bs : Map Byte) (code : Nat) (far : Bool) : State :=
  match r.from_ with
  | .l1Fill _ => { s with l1Fills := s.l1Fills ++ [⟨r.line, bs, code, r.from_, far⟩] }
  | _ => s

/-- A read completes towards its requester: a die cache's fill, an L1's, or a home-policy load. -/
def answerRead (s : State) (r : MemReq) (code : Nat) (data : List Byte) : State :=
  match r.from_ with
  | .dccFill k => { s with dccFills := s.dccFills ++ [(k, ⟨r.line, bytesFrom 0 data, code, r.from_, true⟩)] }
  | .load t g id => { s with tileAnswers := s.tileAnswers ++ [⟨t, g, id, r.line, code, data, none⟩] }
  | _ => toL1 s r (bytesFrom 0 data) code true

/-- MEM_STATUS.OUTSTANDING (R339). -/
def showReads (s : State) (h : Nat) : State :=
  rfset s (if isDeep h then .lpdStatus else .memStatus) (homeDie h) (homePkg h) 0 27 16 (home s h).reads.length

/-- A read is performed at its home (R321, R333): it takes its data, and what the stack must give comes back later. -/
def readArrives (s : State) (h : Nat) (r : MemReq) (need : Nat) : State :=
  let (data, rest, bad) := homeTake s h r.line need
  let code := if bad then 0x842 else stackCode s r.line rest
  if bad ∨ rest = 0 ∨ inWriteQ s h r.line then answerRead (readResult s h r.line code) r code data
  else
    let (data, s) := eccData s r.line rest data
    let e := home s h
    let s := setHome s h { e with reads := e.reads ++ [⟨r, data, BitVec.ofNat 128 rest, code⟩] }
    showReads (homeCount s h .memRdLines .lpdRdLines 1) h

/-- STACK_READ_RETURN (R328, R333): the stack's data comes with its ECC checked; the writes of the channel may go then
(DEDUCED, log entry 70). -/
def stackReturn (s : State) (h n : Nat) (ecc : Ecc) : State :=
  let e := home s h
  match takeAt e.reads n with
  | none => s
  | some (r, rest) =>
    let s := showReads (setHome s h { e with reads := rest }) h
    let need := r.need.toNat
    let s := eccEffect s h r.req.line need (if inWriteQ s h r.req.line then .good else ecc)
    let (data, s) := eccData s r.req.line need r.data
    let found (j : Nat) : Bool := needsHalf need j && (match eccHalf ecc j with | .symbols n => decide (4 ≤ n) | .undetected => false)
    let code := if r.code ≠ 0 then r.code else if found 0 || found 1 then 0x841 else 0
    wqGo (answerRead (readResult s h r.req.line code) r.req code data) h r.req.line

/-- Reads outstanding at most (R334). -/
def readLimit (h : Nat) : Nat := if isDeep h then 64 else 2048

/-- A read that finds as many outstanding as its home can track waits until the oldest has come back (R334). -/
def roomForRead (s : State) (h : Nat) : State := if readLimit h ≤ (home s h).reads.length then stackReturn s h 0 .good else s

/-! ### Requests at the home (R353) -/

/-- Grants a line. -/
def grant (s : State) (h line req : Nat) (m : CohMsg) : State := sendMsg (markUse s h line req) req line m

/-- Grants with the home's value, and the entry becomes what the grant says. A line that cannot be read is not granted: the
request completes with the code (R328, R330), and after a request for an only copy no holder is left (DEDUCED, log entry 57). -/
def grantMem (s : State) (h line req : Nat) (ex : Bool) (st : DirState) (hs : Holders) : State :=
  let (code, data, s) := homeReadNow (roomForRead s h) h line fullMask
  if code ≠ 0 then sendMsg (if ex then delDir s line else s) req line (.grantErr code)
  else grant (setDir s line st hs) h line req (if ex then .grantE data false else .grantS data)

/-- Handles a coherent request whose line no transaction holds (DEDUCED, log entry 53). -/
def cohHandle (s : State) (h line : Nat) (k : TxnKind) (req : Nat) : State :=
  match k, dirEntry s line with
  | .rdShared, none => grantMem s h line req true (.excl req) (.ptr [])
  | .rdUnique, none => grantMem s h line req true (.excl req) (.ptr [])
  | .upgrade, none => grantMem s h line req true (.excl req) (.ptr [])
  | .rdShared, some e =>
    match e.st with
    | .shared => grantMem s h line req false .shared (addHolder e.holders req)
    | .excl o => snoopAll (setTxn s line (newTxn .rdShared req [o])) h line .snpShared [o]
    | .owned o => snoopAll (setTxn s line (newTxn .rdShared req [o])) h line .snpShared [o]
  | .upgrade, some e =>
    if e.st = .shared ∧ req ∈ holderIds e.holders then
      let others := (holderIds e.holders).filter (· != req)
      if others.isEmpty then grant (setDir s line (.excl req) (.ptr [])) h line req .grantUpgrade
      else snoopAll (setTxn s line (newTxn .upgrade req others)) h line .snpInv others
    else
      let others := (holderIds e.holders).filter fun a => a != req && some a != ownerOf e.st
      match ownerOf e.st with
      | none =>
        if others.isEmpty then grantMem s h line req true (.excl req) (.ptr [])
        else snoopAll (setTxn s line (newTxn .rdUnique req others)) h line .snpInv others
      | some o => snoopAll (snoopAll (setTxn s line (newTxn .rdUnique req (o :: others))) h line .snpUnique [o]) h line .snpInv others
  | .rdUnique, some e =>
    let others := (holderIds e.holders).filter fun a => a != req && some a != ownerOf e.st
    match ownerOf e.st with
    | none =>
      if others.isEmpty then grantMem s h line req true (.excl req) (.ptr [])
      else snoopAll (setTxn s line (newTxn .rdUnique req others)) h line .snpInv others
    | some o => snoopAll (snoopAll (setTxn s line (newTxn .rdUnique req (o :: others))) h line .snpUnique [o]) h line .snpInv others
  | .clean, some e =>
    match ownerOf e.st with
    | some o => snoopAll (setTxn s line (newTxn .clean req [o])) h line .snpClean [o]
    | none => sendMsg s req line .cmoAck
  | .clean, none => sendMsg s req line .cmoAck
  | .flush, some e => snoopAll (setTxn s line (newTxn .flush req (allHolders e))) h line .snpInv (allHolders e)
  | .flush, none => sendMsg s req line .cmoAck
  | _, _ => s

/-- Begins the eviction of a directory entry (R350), whose line may have another home of the die. -/
def startEvict (s : State) (line : Nat) : State :=
  match dirEntry s line, homeNo s line with
  | none, _ => s
  | _, none => s
  | some e, some h =>
    let as := allHolders e
    if as.isEmpty then delDir s line
    else snoopAll (setTxn (count s .cohDirEvictions (homeDie h) 0 0 1) line (newTxn .evict 0 as)) h line .snpInv as

/-- A request needs a directory entry that its line does not have. -/
def needsEntry (s : State) (line : Nat) (k : TxnKind) : Bool :=
  (dirEntry s line).isNone && (k == .rdShared || k == .rdUnique || k == .upgrade)

/-- A full set with a transaction on every entry: the request waits (R350). -/
def dirBlocked (s : State) (h line : Nat) (k : TxnKind) : Bool :=
  needsEntry s line k && dirFull s h line && (dirVictim s h line).isNone

/-- A coherent request of a line that no transaction holds (R353, R350): one that needs a new entry in a full set waits for an
eviction. -/
def cohRequest (s : State) (h line : Nat) (k : TxnKind) (req : Nat) : State :=
  match if needsEntry s line k && dirFull s h line then dirVictim s h line else none with
  | some v => startEvict (setTxn s line { newTxn k req [] with stalled := some v }) v
  | none => cohHandle s h line k req

/-! ### The memory atomics unit (R325, R326, R361) -/

/-- Who a request comes from, for CONTENDED. -/
def whoOf : Origin → Nat
  | .core a => a
  | .load t _ _ => 1000 + t
  | .store t _ _ => 1000 + t
  | .atomic t _ _ => 1000 + t
  | .l1Fill t => 1000 + t
  | .host _ => 130
  | .fabric _ => 5000
  | _ => 6000

/-- A line enters the store of a home's atomics unit. -/
def amuKeep (s : State) (h line : Nat) : State :=
  let e := home s (amuHome h)
  setHome s (amuHome h) { e with amu := (line :: e.amu.filter (· != line)).take 512 }

/-- Executes an atomic on a line that no agent holds: its code and what each lane receives. A line that the unit's store does
not hold is read from the stack. -/
def amuExec (s : State) (h : Nat) (r : MemReq) (ecc : Ecc) : Nat × List Nat × State :=
  match r.kind with
  | .atomic aop ty off ops =>
    let s := match sumpEntry s h r.line with
      | some en => sumpRmw s h en ecc
      | none => if r.line ∈ amuStore s h ∨ inWriteQ s h r.line then s
                else homeCount (eccEffect s h r.line fullMask ecc) h .memRdLines .lpdRdLines 1
    let code := halfCode s r.line (off / 64)
    if code ≠ 0 then (code, [], readResult s h r.line code)
    else
      let n := atomWidth ty.toNat / 8
      let base := homeLine s h r.line
      let (base, s) := if inWriteQ s h r.line then (base, s) else eccData s r.line (64 * (off / 64) |> fun o => (2 ^ 64 - 1) <<< o) base
      let m := ofBytes ((base.drop off).take n)
      let (v, outs) := atomApply aop.toNat ty.toNat m (ops.map fun p => (p.1.toNat % 2 ^ (8 * n), p.2.toNat % 2 ^ (8 * n)))
      let s := amuKeep (healGood (wqPush s h r.line (overlay base (bytesFrom off (toBytes n v)))) r.line) h r.line
      (0, outs, markUse (count s .memAmuOps (homeDie h) 0 0 1) h r.line (whoOf r.from_))
  | _ => (0, [], s)

/-- Executes a core's AmoFar and answers AmoResult with CONTENDED (R361, R363) and its code (R326). -/
def amoFarExec (s : State) (h : Nat) (r : MemReq) : State :=
  let c := contended s h r.line (whoOf r.from_)
  let (code, outs, s) := amuExec s h r .good
  match r.from_ with
  | .core a => { s with amoResults := s.amoResults ++ [(a, w64 (outs.headD 0), c, code)] }
  | _ => s

/-! ### Answers to snoops at the agent (R348, R352, R355, R357) -/

/-- What an agent answers, and the state that it is then in. -/
def snoopAnswer (m : CohMsg) (c : CacheLine) : CohMsg × Option MoesiState :=
  let dirty := c.st == .m || c.st == .o
  let rsp : CohMsg := if dirty then .rspData c.bytes else .rspClean
  match m with
  | .snpShared => (rsp, some (if dirty then .o else .s))
  | .snpClean => (rsp, some (if c.st == .m || c.st == .e then .e else .s))
  | _ => (rsp, none)

/-- A core that yields a line loses its LR/SC reservation on it (R355). -/
def loseReservation (s : State) (a line : Nat) : State :=
  let c := mget CoreSt.reset s.cores a
  if a < 128 ∧ c.reservation = some line then
    { s with cores := mput CoreSt.reset s.cores a { c with reservation := none } }
  else s

/-- The agent answers a snoop. -/
def answerSnoop (s : State) (a line : Nat) (m : CohMsg) : State :=
  let s := loseReservation s a line
  if (mfind s.wbBuf (copyKey a line)).isSome then sendMsg s a line .rspWbInFlight
  else match copyOf s a line with
  | none => sendMsg s a line .rspAbsent
  | some c =>
    let (r, st) := snoopAnswer m c
    match st with
    | none => sendMsg (dropCopy s a line) a line r
    | some st => sendMsg (setCopy s a line { c with st := st, hold := false, deferred := none }) a line r

/-- A copy leaves an agent: a modified one moves to the writeback buffer with a WbDirty (R357), a clean one is dropped without
a message (R348). A snoop that a hold deferred is answered then. -/
def evictCopy (s : State) (a line : Nat) : State :=
  match copyOf s a line with
  | none => s
  | some c =>
    let s := if c.st == .m || c.st == .o then
        sendMsg { dropCopy s a line with wbBuf := mins s.wbBuf (copyKey a line) c.bytes } a line (.wbDirty c.bytes)
      else dropCopy s a line
    match c.deferred with
    | some m => answerSnoop s a line m
    | none => s

/-- The agent receives a snoop: within the hold after a Grant it is deferred (R355). -/
def recvSnoop (s : State) (a line : Nat) (m : CohMsg) : State :=
  match copyOf s a line with
  | some c =>
    if c.hold then count (setCopy s a line { c with deferred := some m }) .cohHoldDelays (agentDie a) 0 0 (if a < 130 then 1 else 0)
    else answerSnoop s a line m
  | none => answerSnoop s a line m

/-- The hold ends, and the agent answers the snoop that it deferred. -/
def holdExpiry (s : State) (a line : Nat) : State :=
  match copyOf s a line with
  | none => s
  | some c =>
    let s := setCopy s a line { c with hold := false, deferred := none }
    match c.deferred with
    | some m => answerSnoop s a line m
    | none => s

/-! ### Core AMOs (R362-R364) -/

/-- The RISC-V AMO function codes as AOP and type: min and max signed, minu and maxu unsigned. -/
def amoCode (op : Nat) (word : Bool) : Nat × Nat :=
  let u := if word then 0 else 2
  let sg := if word then 1 else 3
  match op with
  | 0 => (0, u)
  | 1 => (6, u)
  | 4 => (5, u)
  | 8 => (4, u)
  | 12 => (3, u)
  | 16 => (1, sg)
  | 20 => (2, sg)
  | 24 => (1, u)
  | _ => (2, u)

/-- LR and SC (RISC-V). -/
def isLr (op : Nat) : Bool := op == 2
def isSc (op : Nat) : Bool := op == 3

/-- A predictor counter (R362): core, and PA bits 14:7 exclusive-or 22:15. -/
def predKey (c addr : Nat) : Nat := c * 256 + ((bits addr 14 7) ^^^ (bits addr 22 15))
def predict (s : State) (c addr : Nat) (up : Bool) : State :=
  let k := predKey c addr
  let v := mget 0 s.predictor k
  { s with predictor := mput 0 s.predictor k (if up then (if v < 3 then v + 1 else 3) else v - 1) }

def core (s : State) (c : Nat) : CoreSt := mget CoreSt.reset s.cores c
def setCore (s : State) (c : Nat) (v : CoreSt) : State := { s with cores := mput CoreSt.reset s.cores c v }

/-- An AMO, LR or SC performed in the L1D on a line held in M or E (R362). -/
def amoNear (s : State) (c : Nat) (op : CoreAmo) (snooped : Bool) : State :=
  let line := op.addr.toNat / 128
  match copyOf s c line with
  | none => s
  | some cl =>
    let n := if op.word then 4 else 8
    let off := op.addr.toNat % 128
    let m := ofBytes ((cl.bytes.drop off).take n)
    let put (v : Nat) : State :=
      setCopy s c line { cl with st := .m, bytes := overlay cl.bytes (bytesFrom off (toBytes n v)) }
    if isLr op.op.toNat then setCore s c { core s c with reservation := some line, amo := none }
    else if isSc op.op.toNat then
      let s' := if (core s c).reservation = some line then put op.operand.toNat else s
      setCore s' c { core s' c with reservation := none, amo := none }
    else
      let (aop, ty) := amoCode op.op.toNat op.word
      let s := put (atomStep aop ty m (op.operand.toNat % 2 ^ (8 * n)) 0)
      let s := predict (setCore s c { core s c with amo := none }) c op.addr.toNat snooped
      count s .cohAmoNear (agentDie c) 0 0 1

/-- The agent receives a Grant (R355): it holds the line, and a core's waiting near AMO is performed (DEDUCED, log entry 54). -/
def recvGrant (s : State) (a line : Nat) (m : CohMsg) : State :=
  let put (st : MoesiState) (bs : List Byte) : State := setCopy s a line ⟨st, bs, true, none⟩
  let s := match m with
    | .grantS bs => put .s bs
    | .grantE bs stale => put (if stale then .m else .e) bs
    | .grantUpgrade =>
      match copyOf s a line with
      | some c => put (if c.st == .o then .m else .e) c.bytes
      | none => s
    | _ => s
  if a < 128 then
    match (core s a).amo with
    | some w =>
      if !w.far && w.op.addr.toNat / 128 == line then
        match m with
        | .grantS _ => s
        | _ => amoNear s a w.op w.snooped
      else s
    | none => s
  else s

/-- An answer of another agent, `by_`, that shows its copy counts for the predictor of a core whose near AMO waits for this line by
RdUnique or Upgrade (R363). -/
def markSnooped (s : State) (line : Nat) (t : Txn) (by_ : Nat) : State :=
  if t.req < 128 ∧ by_ ≠ t.req ∧ (t.kind = .rdUnique ∨ t.kind = .upgrade) then
    match (core s t.req).amo with
    | some w =>
      if !w.far && w.op.addr.toNat / 128 == line then setCore s t.req { core s t.req with amo := some { w with snooped := true } }
      else s
    | none => s
  else s

/-! ### The end of a transaction (R353, R354, R357, R360, R361) -/

/-- A line's bytes as a byte map without some offsets. -/
def bytesBut (bs : List Byte) (not_ : List Nat) : Map Byte := (bytesFrom 0 bs).filter fun e => !(not_.contains e.1)

/-- Returned data is written to memory. -/
def dataHome (s : State) (h line : Nat) (t : Txn) : State :=
  match t.data with
  | none => s
  | some d =>
    let bs := bytesBut d t.written
    if bs.isEmpty then s else homeWrite s h line bs []

/-- A transaction ends once every snoop is answered and every crossing has both its parts. -/
def txnEnd (s : State) (h line : Nat) : State :=
  match mfind s.txns line with
  | none => s
  | some t =>
    if !t.waiting.isEmpty || !t.wbFrom.isEmpty || t.stalled.isSome then s
    else
      let s := delTxn s line
      let e := (dirEntry s line).getD ⟨.shared, .ptr [], 0⟩
      match t.kind with
      | .rdShared =>
        match t.data, ownerOf e.st with
        | some d, some o => grant (setDir s line (.owned o) (addHolder e.holders t.req)) h line t.req (.grantS d)
        | some d, none => grant (setDir s line .shared (addHolder e.holders t.req)) h line t.req (.grantS d)
        | none, some o =>
          if t.gotClean then grantMem s h line t.req false .shared (addHolder (addHolder e.holders o) t.req)
          else if (holderIds e.holders).isEmpty then grantMem s h line t.req true (.excl t.req) (.ptr [])
          else grantMem s h line t.req false .shared (addHolder e.holders t.req)
        | none, none =>
          if (holderIds e.holders).isEmpty then grantMem s h line t.req true (.excl t.req) (.ptr [])
          else grantMem s h line t.req false .shared (addHolder e.holders t.req)
      | .rdUnique =>
        match t.data with
        | some d => grant (setDir s line (.excl t.req) (.ptr [])) h line t.req (.grantE d true)
        | none => grantMem s h line t.req true (.excl t.req) (.ptr [])
      | .upgrade => grant (setDir s line (.excl t.req) (.ptr [])) h line t.req .grantUpgrade
      | .clean =>
        let s := dataHome s h line t
        let s := match e.st with
          | .excl o => if t.gotData || t.gotClean then setDir s line (.excl o) e.holders else delDir s line
          | .owned o => setDir s line .shared (if t.gotData || t.gotClean then addHolder e.holders o else e.holders)
          | .shared => s
        sendMsg s t.req line .cmoAck
      | .flush => sendMsg (delDir (dataHome s h line t) line) t.req line .cmoAck
      | .nc =>
        let s := if t.data.isSome then count (dataHome s h line t) .cohNcMerges (homeDie h) 0 0 1 else s
        let s := delDir s line
        match t.request with
        | some r => { s with answers := s.answers ++ [⟨r.id, r.from_, false, true, line, 0⟩] }
        | none => s
      | .atomic =>
        let s := delDir (dataHome s h line t) line
        match t.request with
        | some r =>
          match r.from_ with
          | .core _ => amoFarExec s h r
          | _ => let e := home s h
                 setHome s h { e with amuQ := e.amuQ ++ [r] }
        | none => s
      | .evict =>
        let s := delDir (dataHome s h line t) line
        match s.txns.find? fun x => x.2.stalled == some line with
        | some (l, w) => cohHandle (delTxn s l) ((homeNo s l).getD h) l w.kind w.req
        | none => s

/-- An answer to a snoop reaches the home. -/
def recvRsp (s : State) (h a line : Nat) (m : CohMsg) : State :=
  match mfind s.txns line with
  | none => s
  | some t =>
    if !(t.waiting.contains a) then s
    else
      let t := { t with waiting := kdel t.waiting a }
      let s := match m with
        | .rspAbsent =>
          let s := count s .cohSnoopAbsent (homeDie h) 0 0 1
          let s := match dirEntry s line with
            | some e => { s with dir := mins s.dir line { e with holders := delHolder e.holders a } }
            | none => s
          setTxn s line { t with wbFrom := kdel t.wbFrom a }
        | .rspClean => markSnooped (setTxn s line { t with gotClean := true }) line t a
        | .rspData bs => markSnooped (setTxn s line { t with gotData := true, data := some bs }) line t a
        | .rspWbInFlight =>
          setTxn (count s .cohWbCrossings (homeDie h) 0 0 1) line
            { t with wbFrom := if t.wbFrom.contains a then kdel t.wbFrom a else kins t.wbFrom a }
        | _ => s
      txnEnd s h line

/-- An owner's writeback leaves the directory entry (R353). -/
def wbEntry (s : State) (a line : Nat) : State :=
  match dirEntry s line with
  | none => s
  | some e => if ownerOf e.st = some a then setDir s line .shared e.holders else s

/-- WbDirty reaches the home (R353, R357): outside a transaction that snoops the agent it updates the entry; within one
its data is the snoop's data, and memory takes it at once. -/
def recvWbDirty (s : State) (h a line : Nat) (bs : List Byte) : State :=
  match mfind s.txns line with
  | some t =>
    if t.waiting.contains a ∨ t.wbFrom.contains a then
      let bytes := bytesBut bs t.written
      let s := if bytes.isEmpty then s else homeWrite s h line bytes []
      let s := if t.kind = .nc then count s .cohNcMerges (homeDie h) 0 0 1 else s
      let s := wbEntry s a line
      let s := setTxn s line { t with wbFrom := if t.wbFrom.contains a then kdel t.wbFrom a else kins t.wbFrom a }
      txnEnd (sendMsg s a line .wbAck) h line
    else sendMsg (wbEntry (homeWrite s h line (bytesFrom 0 bs) []) a line) a line .wbAck
  | none => sendMsg (wbEntry (homeWrite s h line (bytesFrom 0 bs) []) a line) a line .wbAck

/-- The agent receives WbAck and releases its buffer. -/
def recvWbAck (s : State) (a line : Nat) : State := { s with wbBuf := mdel s.wbBuf (copyKey a line) }

/-! ### Delivery of messages -/

/-- Takes the first message between an agent and a line's home that `p` accepts and that no earlier message of the same
direction precedes. -/
def takeMsg (s : State) (a line : Nat) (p : CohMsg → Bool) (dir : CohMsg → Bool) : Option (CohMsg × State) :=
  match s.cohNet.find? fun f => f.agent == a && f.line == line && dir f.msg with
  | some f => if p f.msg then some (f.msg, { s with cohNet := s.cohNet.erase f }) else none
  | none => none

/-- A message from the home to an agent. -/
def toAgent : CohMsg → Bool
  | .rspAbsent => false
  | .rspClean => false
  | .rspData _ => false
  | .rspWbInFlight => false
  | .wbDirty _ => false
  | _ => true
def toHome (m : CohMsg) : Bool := !toAgent m

/-- The line could not be read: a core's near AMO, LR or SC that waits for it ends without effect. -/
def recvGrantErr (s : State) (a line : Nat) : State :=
  if a < 128 then
    match (core s a).amo with
    | some w => if !w.far && w.op.addr.toNat / 128 == line then setCore s a { core s a with amo := none } else s
    | none => s
  else s

/-- A core's cache operation on a line is complete (R369). -/
def recvCmoAck (s : State) (a line : Nat) : State :=
  if a < 128 then setCore s a { core s a with cmo := kdel (core s a).cmo line } else s

/-- An agent receives a message of the home. -/
def agentRecv (s : State) (a line : Nat) (m : CohMsg) : State :=
  match m with
  | .snpShared => recvSnoop s a line m
  | .snpUnique => recvSnoop s a line m
  | .snpInv => recvSnoop s a line m
  | .snpClean => recvSnoop s a line m
  | .grantS _ => recvGrant s a line m
  | .grantE _ _ => recvGrant s a line m
  | .grantUpgrade => recvGrant s a line m
  | .grantErr _ => recvGrantErr s a line
  | .wbAck => recvWbAck s a line
  | .cmoAck => recvCmoAck s a line
  | _ => s

/-- The home receives a message of an agent. -/
def homeRecv (s : State) (h a line : Nat) (m : CohMsg) : State :=
  match m with
  | .wbDirty bs => recvWbDirty s h a line bs
  | _ => recvRsp s h a line m

/-- Delivers the first message about a line. -/
def deliverOne (s : State) (line : Nat) : State :=
  match s.cohNet.find? (fun f => f.line == line), homeNo s line with
  | some f, some h =>
    let s := { s with cohNet := s.cohNet.erase f }
    if toAgent f.msg then agentRecv s f.agent line f.msg else homeRecv s h f.agent line f.msg
  | _, _ => s

/-! ### Requests of a home (R320, R333, R334, R351, R360, R361) -/

/-- A non-coherent write is performed at its arrival (R360): its answers, and the snoops to the recorded holders. -/
def ncWrite (s : State) (h : Nat) (r : MemReq) (bs : Map Byte) (poison : List Nat) : State :=
  let s := homeWrite s h r.line bs poison
  match dirEntry s r.line with
  | none => { s with answers := s.answers ++ [⟨r.id, r.from_, true, true, r.line, 0⟩] }
  | some e =>
    let as := allHolders e
    let s := count { s with answers := s.answers ++ [⟨r.id, r.from_, true, false, r.line, 0⟩] } .cohNcInvals (homeDie h) 0 0 1
    snoopAll (setTxn s r.line { newTxn .nc 0 as with request := some r, written := bs.map (·.1) }) h r.line .snpInv as

/-- An atomic reaches the home (R361): with holders recorded they are invalidated first. -/
def atomicArrives (s : State) (h : Nat) (r : MemReq) : State :=
  match dirEntry s r.line with
  | some e =>
    let as := allHolders e
    snoopAll (setTxn s r.line { newTxn .atomic (whoOf r.from_) as with request := some r }) h r.line .snpInv as
  | none =>
    match r.from_ with
    | .core _ => amoFarExec s h r
    | _ => let e := home s h
           setHome s h { e with amuQ := e.amuQ ++ [r] }

/-- An atomic that the home's unit has accepted executes, and its results go to the tile (R326, R361). -/
def amuRun (s : State) (h : Nat) (r : MemReq) (ecc : Ecc) : State :=
  let (code, outs, s) := amuExec s h r ecc
  match r.from_, r.kind with
  | .atomic t g id, .atomic _ _ off _ =>
    { s with tileAnswers := s.tileAnswers ++ [⟨t, g, id, r.line * 128 + off, code, [], some outs⟩] }
  | _, _ => s

/-- A home performs requests: its die is ACTIVE, nothing is fatal, and its stack is not being switched (R38, R41). -/
def homeOpen (s : State) (h : Nat) : Bool := dieActive s (homeDie h) && !anyFatal s && !s.heldStacks.contains h

/-- Requests for a line wait: a transaction or an atomic of the line is in progress (R351, R361). -/
def lineBusy (s : State) (h line : Nat) : Bool := (mfind s.txns line).isSome || (home s h).amuQ.any fun r => r.line == line

/-- The agent of a coherent request. -/
def MemReq.agent (r : MemReq) : Nat := match r.from_ with | .core a => a | _ => 0

/-- A full directory set makes a request wait (R350). -/
def blockedReq (s : State) (h : Nat) (r : MemReq) : Bool :=
  match r.kind with
  | .coh k => dirBlocked s h r.line k
  | _ => false

/-- Takes request `n` of a home, unless it must wait: for an earlier one of its line (R320), for a transaction (R351), for a
directory entry (R350), or, after a switch of the M-link, for those that came before the switch (R336). -/
def takeReq (s : State) (h n : Nat) (p : MemReq → Bool) : Option (MemReq × State) :=
  let e := home s h
  match takeAt e.reqs n with
  | none => none
  | some (r, rest) =>
    if !homeOpen s h || !p r || lineBusy s h r.line || ((e.reqs.take n).any fun x => x.line == r.line) || blockedReq s h r
        || (decide (0 < e.sent) && decide (e.sent ≤ n)) then none
    else some (r, setHome s h { e with reqs := rest, sent := e.sent - 1 })

/-- A request that its home has taken is performed (DESIGN CHOICE, log entry 136). -/
def perform (s : State) (h : Nat) (r : MemReq) : State :=
  match r.kind with
  | .read need => readArrives s h r need.toNat
  | .write bs poison => ncWrite s h r bs poison
  | .atomic _ _ _ _ => atomicArrives s h r
  | .coh k => cohRequest s h r.line k r.agent

def MemReq.isRead (r : MemReq) : Bool := match r.kind with | .read _ => true | _ => false
def MemReq.isWrite (r : MemReq) : Bool := match r.kind with | .write _ _ => true | _ => false
def MemReq.isAtomic (r : MemReq) : Bool := match r.kind with | .atomic _ _ _ _ => true | _ => false
def MemReq.isCoh (r : MemReq) : Bool := match r.kind with | .coh _ => true | _ => false
def MemReq.ofCore (r : MemReq) : Bool := match r.from_ with | .core _ => true | _ => false

/-- The requests of the coherent domain's agents, a core's far AMO among them, go on by themselves once nothing holds them: up to
`n` of them at one home. -/
def cohPump : Nat → State → Nat → State
  | 0, s, _ => s
  | n + 1, s, h =>
    match (List.range (home s h).reqs.length).findSome? fun i => takeReq s h i MemReq.ofCore with
    | some (r, s) => cohPump n (perform s h r) h
    | none => s

/-- The requests of agents at every home of a home's die go on. -/
def pumpHome (s : State) (h : Nat) : State :=
  (homeList.filter fun x => homeDie x == homeDie h).foldl (fun s x => cohPump (home s x).reqs.length s x) s

/-- A request of an agent arrives at its home, behind the requests of its line (R351). -/
def agentSends (s : State) (h line : Nat) (k : ReqKind) (req : Nat) : State :=
  let e := home s h
  pumpHome (setHome s h { e with reqs := e.reqs ++ [⟨0, line, k, .core req, true, false, 0, false⟩] }) h

/-- A coherent request arrives at its home. -/
def cohArrives (s : State) (h line : Nat) (k : TxnKind) (req : Nat) : State := agentSends s h line (.coh k) req

/-! ### What a whole access waits for (DEDUCED, log entry 99) -/

/-- The line whose messages come first: that of the eviction for which a transaction of `line` waits, or that of a transaction
that holds an entry which a request of `line` needs, else `line` itself. -/
def blockLine (s : State) (h line : Nat) : Nat :=
  match mfind s.txns line with
  | some t => t.stalled.getD line
  | none =>
    match (home s h).reqs.find? fun r => r.line == line with
    | some r => if blockedReq s h r then (((dirMates s h line).find? fun e => (mfind s.txns e.1).isSome).map (·.1)).getD line else line
    | none => line

/-- One thing that is performed before a later access to `line`: a message, an atomic that the unit has accepted, or a request
that has been sent before. None where nothing is left, or nothing can go on. -/
def settleOne (s : State) (h line : Nat) : Option State :=
  let e := home s h
  let line := match e.sent, e.reqs with
    | _ + 1, r :: _ => r.line
    | _, _ => line
  let b := blockLine s h line
  match s.caches.find? fun c => c.1 % 2 ^ 41 == b && c.2.deferred.isSome with
  | some c => some (holdExpiry s (c.1 / 2 ^ 41) b)
  | none =>
    if s.cohNet.any fun f => f.line == b then some (deliverOne s b)
    else if (mfind s.txns line).isSome then none
    else
      match (e.amuQ.zipIdx).find? fun r => r.1.line == line with
      | some (r, i) => some (amuRun (setHome s h { e with amuQ := e.amuQ.eraseIdx i }) h r .good)
      | none =>
        match (e.reqs.zipIdx).find? fun r => r.1.line == line with
        | none => none
        | some (_, i) =>
          match takeReq s h i fun _ => true with
          | none => none
          | some (r, s) => some (perform (roomForRead s h) h r)

/-- Goes on until nothing is left before a later access to the line. -/
def settleFor : Nat → State → Nat → Nat → State
  | 0, s, _, _ => s
  | n + 1, s, h, line =>
    match settleOne s h line with
    | some s => settleFor n s h line
    | none => s

/-- What comes before a whole access to a line: the switch of its stack's M-link (R38), then everything that was sent before. -/
def settle (s : State) (h line : Nat) : State :=
  settleFor 4096 (if s.heldStacks.contains h then stacksSwitch s (h / 2) else s) h line

/-! ### Whole accesses to one line -/

/-- A non-coherent write of a line, performed and Visible. -/
def ncWriteNow (s : State) (line : Nat) (bs : Map Byte) (poison : List Nat) : State :=
  match homeNo s line with
  | none => s
  | some h =>
    let s := ncWrite (settle s h line) h ⟨0, line, .write bs poison, .none, true, false, 0, false⟩ bs poison
    let s := settle s h line
    { s with answers := s.answers.filter fun a => a.dest != .none }

/-- A non-coherent read of a line (R359). -/
def ncReadNow (s : State) (line need : Nat) : Nat × List Byte × State :=
  match homeNo s line with
  | none => (0x840, [], s)
  | some h => homeReadNow (roomForRead (settle s h line) h) h line need

/-- The X0 I/O agent sends a request for a line, and what follows from it comes to its end. -/
def ioTakes (s : State) (h line : Nat) (k : TxnKind) : State := settle (cohArrives (settle s h line) h line k 130) h line

/-- The code of a read of the bytes of `need` at a line's home. -/
def lineCode (s : State) (h line need : Nat) : Nat :=
  let (_, rest, bad) := homeTake s h line need
  if bad then 0x842 else stackCode s line rest

/-- The bytes of the halves of a line that a write does not cover wholly. -/
def uncovered (bs : Map Byte) : Nat :=
  (if coversHalf bs 0 then 0 else 2 ^ 64 - 1) + if coversHalf bs 1 then 0 else (2 ^ 64 - 1) <<< 64

/-- The home's value of a line is the coherent one, and some byte of it cannot be read. -/
def badAtHome (s : State) (h line : Nat) : Bool :=
  ((dirEntry s line).bind fun e => ownerOf e.st).isNone && lineCode s h line fullMask != 0

/-- A write of the X0 I/O agent (R358): it obtains the line by RdUnique, performs the write in it and drops it by WbDirty. A
write that meets a memory error has no effect (R450), unless it covers every half that is bad: then it is written at the home,
which clears the error (R330; DEDUCED, log entry 103). -/
def ioWriteNow (s : State) (line : Nat) (bs : Map Byte) : Nat × State :=
  match homeNo s line with
  | none => (0x840, s)
  | some h =>
    let s := settle s h line
    if badAtHome s h line && lineCode s h line (uncovered bs) == 0 then (0, ncWriteNow s line bs [])
    else
      let s := ioTakes s h line .rdUnique
      match copyOf s 130 line with
      | some c => (0, settle (evictCopy (setCopy s 130 line { c with st := .m, bytes := overlay c.bytes bs }) 130 line) h line)
      | none => (lineCode s h line fullMask, s)

/-- A coherent read, of the bytes of `need`, that the X0 I/O agent does not keep (R358): where the home holds the coherent value
and some of its bytes cannot be read, only those that the read needs count (R450). -/
def ioReadNow (s : State) (line need : Nat) : Nat × List Byte × State :=
  match homeNo s line with
  | none => (0x840, [], s)
  | some h =>
    let s := settle s h line
    if badAtHome s h line then homeReadNow (roomForRead s h) h line need
    else
      let s := ioTakes s h line .rdShared
      match copyOf s 130 line with
      | some c => (0, c.bytes, dropCopy s 130 line)
      | none =>
        let code := lineCode s h line need
        (code, if code = 0 then homeValue s h line else [], s)

/-- A whole atomic at the home for a requester: its code and results. -/
def atomicNow (s : State) (who : Origin) (line off aop ty : Nat) (ops : List (W64 × W64)) : Nat × List Nat × State :=
  match homeNo s line with
  | none => (0x840, [], s)
  | some h =>
    let s := settle (cohRequest (settle s h line) h line .flush 131) h line
    let s := { s with cohNet := s.cohNet.filter fun f => !(f.agent == 131 && f.line == line) }
    amuExec s h ⟨0, line, .atomic (BitVec.ofNat 4 aop) (BitVec.ofNat 4 ty) off ops, who, true, false, 0, false⟩ .good

end Sys2Proof.Machine
end

