-- ==== Sys2Proof/Machine/MemOps.lean ====
section
/-!
DEFINITION. The Grotto array (R182-R190) with the rings of its queues (R191, R192, R578), and whole accesses to device
physical addresses (R24, R25).
-/
namespace Sys2Proof.Machine

/-! ### The Grotto array -/

def grotto (s : State) (k : Nat) : Grotto := mget Grotto.reset s.grottos k
def setGrotto (s : State) (k : Nat) (g : Grotto) : State := { s with grottos := mput Grotto.reset s.grottos k g }

/-- The end of a Grotto: 96 MiB (R182). -/
def grtEnd : Nat := 0x6000000

/-- Entry of a granule in GRT_OWNER_m: VALID in bit 7, CONTEXT in bits 5:0 (R211). -/
def ownerEntry (s : State) (k gr : Nat) : Nat := rf s .grtOwner k 0 (gr / 8) (8 * (gr % 8) + 7) (8 * (gr % 8))

/-- A context owns every granule of a range (R188). -/
def grtOwned (s : State) (k ctx off len : Nat) : Bool :=
  (List.range ((off + len - 1) / 0x100000 + 1 - off / 0x100000)).all fun i =>
    let e := ownerEntry s k (off / 0x100000 + i)
    bit e 7 && e % 64 == ctx

/-- Bytes of the array. -/
def grtBytes (s : State) (k off len : Nat) : List Byte := (List.range len).map fun i => mget 0 (grotto s k).bytes (off + i)

/-- A 64-bit word of the array. -/
def grtWord (s : State) (k off : Nat) : Nat := ofBytes (grtBytes s k off 8)

/-- A read meets a poisoned word of the array (R187). -/
def grtBad (s : State) (k off len : Nat) : Bool := (grotto s k).poison.any fun w => off / 8 ≤ w && w * 8 < off + len

/-! ### Queues in the array (R191, R192, R213, R427) -/

/-- The configuration of a queue of C-die k: Grotto queues are keyed 0-31, the send and receive queues of the attached
L-die 32 and up. `die` carries its registers; `engine` is 8 for a fabric queue. -/
structure QCfg where
  fab : Bool
  die : Nat
  n : Nat
  enabled : Bool
  recv : Bool
  engine : Nat
  ctx : Nat
  log2 : Nat
  base : Nat
  bell : Nat

def qcfg (s : State) (k key : Nat) : Option QCfg :=
  if key < 32 then
    let v := rget s .grtQcfg k 0 key
    some ⟨false, k, key, bit v 63, false, bits v 62 59, bits v 58 53, bits v 52 49, bits v 47 28 * 128, bits v 27 4 * 8⟩
  else
    (lDieOf k).map fun d =>
      let v := rget s .fabQcfg d 0 (key - 32)
      ⟨true, d, key - 32, bit v 63, bit v 62, 8, bits v 61 56, bits v 55 52, bits v 47 28 * 128, bits v 27 4 * 8⟩

/-- The status register of a queue (R213, R440). -/
def QCfg.stat (c : QCfg) : Reg := if c.fab then .fabQstat else .grtQstat
def qsF (s : State) (c : QCfg) (hi lo : Nat) : Nat := rf s c.stat c.die 0 c.n hi lo
def qsSet (s : State) (c : QCfg) (hi lo v : Nat) : State := rfset s c.stat c.die 0 c.n hi lo v

/-- The slots of a ring. -/
def QCfg.slots (c : QCfg) : Nat := 2 ^ (c.log2 + 4)

/-- The keys of a C-die's queues. -/
def queueKeys : List Nat := List.range 96

def queue (s : State) (k key : Nat) : Queue := mget Queue.reset (grotto s k).queues key
def setQueue (s : State) (k key : Nat) (q : Queue) : State :=
  let g := grotto s k
  setGrotto s k { g with queues := mput Queue.reset g.queues key q }

/-- The header checks of R578, which use words 0-5. -/
def headerCheck (s : State) (k ctx : Nat) (w : List W64) : Nat :=
  let w0 := wd w 0
  let wait := bit w0 44
  let sig := bit w0 46
  let grt := sig && !bit w0 45
  let wo := bits (wd w 2) 31 0
  let sa := bits (wd w 4) 47 0
  if bits w0 42 1 ≠ 0 ∨ bits (wd w 1) 62 48 ≠ 0 ∨ bits (wd w 2) 63 32 ≠ 0 ∨ bits (wd w 4) 63 48 ≠ 0 then 0x501
  else if (wait ∧ wo % 8 ≠ 0) ∨ (sig ∧ sa % 8 ≠ 0) then 0x502
  else if (wait ∧ grtEnd ≤ wo) ∨ (grt ∧ grtEnd ≤ sa) then 0x503
  else if (wait ∧ !grtOwned s k ctx wo 8) ∨ (grt ∧ !grtOwned s k ctx sa 8) then 0x504
  else 0

/-- Takes slots while their phase matches (R192); a slot read that meets an uncorrectable word halts the queue (R197). The
queue's reads carry its context: a slot in a granule that it no longer owns is not read, so none is taken (R189, R190; DESIGN
CHOICE, log entry 115). The read covers all 128 bytes of the slot (DESIGN CHOICE, log entry 154). -/
def takeSlots : Nat → State → Nat → Nat → State
  | 0, s, _, _ => s
  | n + 1, s, k, key =>
    match qcfg s k key with
    | none => s
    | some c =>
      if !c.enabled || c.recv || qsF s c 63 63 == 1 then s
      else
        let head := qsF s c 11 0
        let expect := qsF s c 12 12
        let off := c.base + head * 128
        if !grtOwned s k c.ctx off 128 then s
        else if grtBad s k off 128 then qsSet (qsSet s c 63 63 1) c 47 32 0x507
        else if grtWord s k off % 2 != expect then s
        else
          let ws := toWords 16 (grtBytes s k off 128)
          let code := headerCheck s k c.ctx ws
          let q := queue s k key
          let tk : Taken :=
            { slot := head, off := off, engine := c.engine, ctx := c.ctx, words := ws, started := false,
              result := if code = 0 then none else some (code, 0), signal := code == 0 && bit (wd ws 0) 46, waiting := [],
              fails := [], fva := 0, reads := [], writes := [], spoiled := false }
          let s := setQueue s k key { q with taken := q.taken ++ [tk] }
          let h := (head + 1) % c.slots
          let s := qsSet s c 11 0 h
          takeSlots n (if h = 0 then qsSet s c 12 12 (1 - expect) else s) k key

/-- A doorbell is written: a send queue takes slots, a receive queue's consumer count is set (R192, R430)
(DEDUCED, log entry 49). -/
def ringBell (s : State) (k key v : Nat) : State :=
  match qcfg s k key with
  | none => s
  | some c =>
    if !c.enabled then s
    else if c.recv then { s with rxConsumed := mput 0 s.rxConsumed (c.die * 64 + c.n) (v % 2 ^ 32) }
    else takeSlots c.slots s k key

/-- Bound decoder streams whose bytes software writes, or whose granules it moves (R239). -/
def spoilStreams (g : Grotto) (off len : Nat) : Grotto :=
  let hit (b : Binding) : Binding :=
    if b.src < off + len ∧ off < b.src + b.len then { b with spoiled := true } else b
  { g with decoders := g.decoders.map fun e => (e.1, { e.2 with bound := e.2.bound.map hit }) }

/-- What a Dripstone descriptor reads and writes, as strided ranges: place (1 for the local Grotto, site + 2 for an SLM), first
byte, stride, count and length (R255-R257, R260). -/
def drpSources (w : List W64) : List (Nat × Nat × Nat × Nat × Nat) :=
  let sp := bits (wd w 6) 63 61
  let rows := bits (wd w 8) 63 48
  let size := if bits (wd w 6) 60 56 = 0 then 4 else 2
  let src (place : Nat) := (place, bits (wd w 6) 31 0, bits (wd w 7) 63 32, rows, bits (wd w 7) 18 0 * size)
  (if sp = 1 then [src 1] else if sp = 2 then [src (bits (wd w 6) 54 48 + 2)] else [])
    ++ if bit (wd w 0) 48 then [(1, bits (wd w 10) 31 0, 64, rows, 64)] else []

def drpOutputs (w : List W64) : List (Nat × Nat × Nat × Nat × Nat) :=
  let rows := bits (wd w 8) 63 48
  (1, bits (wd w 9) 31 0, 8, rows, 8)
    :: if bit (wd w 0) 49 then [(1, bits (wd w 10) 63 32, bits (wd w 11) 63 32, rows, 4 * bits (wd w 7) 18 0)] else []

/-- Strided ranges that meet the `n` bytes at `a` of a place. -/
def drpMeets (rs : List (Nat × Nat × Nat × Nat × Nat)) (place a n : Nat) : Bool :=
  rs.any fun r => r.1 == place && (List.range r.2.2.2.1).any fun i =>
    decide (r.2.1 + i * r.2.2.1 < a + n) && decide (a < r.2.1 + i * r.2.2.1 + r.2.2.2.2)

/-- Marks the Dripstone descriptors of a C-die that `p` picks: their outputs are undefined (R265). -/
def drpMark (s : State) (k : Nat) (p : Taken → Bool) : State :=
  let g := grotto s k
  let one (t : Taken) : Taken := if t.engine = 7 && p t then { t with spoiled := true } else t
  setGrotto s k { g with queues := g.queues.map fun e => (e.1, { e.2 with taken := e.2.taken.map one }) }

/-- Bytes are written. R265 keeps them from software from the doorbell on; what an engine writes before the descriptor starts
is read as R195 says. -/
def drpSpoil (s : State) (k place a n : Nat) (engine : Bool) : State :=
  drpMark s k fun t => (t.started || !engine) && drpMeets (drpSources t.words ++ drpOutputs t.words) place a n

/-- Bytes of the array are read, which R265 forbids for outputs. -/
def drpSeen (s : State) (k a n : Nat) (engine : Bool) : State :=
  drpMark s k fun t => (t.started || !engine) && drpMeets (drpOutputs t.words) 1 a n

/-- Accumulator tiles of a Dripstone descriptor's source (R257). -/
def drpAccTiles (w : List W64) : List Nat := (List.range (cdiv (bits (wd w 7) 18 0) 32)).map (bits (wd w 6) 31 0 % 32 + ·)

/-- An instruction or command that writes accumulator tiles of a site issues (R265). -/
def drpAccIssue (s : State) (k site : Nat) (as : List Nat) : State :=
  drpMark s k fun t => bits (wd t.words 6) 63 61 == 3 && bits (wd t.words 6) 54 48 == site && (drpAccTiles t.words).any as.contains

/-- An engine has written `n` bytes at `a` of a space (0 an SLM, 1 the Grotto) that running Flowstone commands of tiles use
(R159). -/
def engineWrote (s : State) (here : Nat → Bool) (space a n : Nat) : State :=
  let add (c : FlsCmd) : FlsCmd := if c.started then { c with byEngine := c.byEngine ++ [(space, a, n)] } else c
  { s with tiles := s.tiles.map fun e => if here e.1 then (e.1, { e.2 with fls := e.2.fls.map add }) else e }

/-- Writes bytes to the array, as software or as an engine: a word that is covered wholly is no longer poisoned (R187), and a
write that covers a queue's doorbell rings it. -/
def grtPut (s : State) (k off : Nat) (data : List Byte) (engine : Bool) : State :=
  let s := drpSpoil s k 1 off data.length engine
  let s := if engine then engineWrote s (fun t => t / 128 == k) 1 off data.length else s
  let g := spoilStreams (grotto s k) off data.length
  let covered (w : Nat) : Bool := off ≤ w * 8 && w * 8 + 8 ≤ off + data.length
  let s := setGrotto s k { g with bytes := memPut g.bytes off data, poison := g.poison.filter fun w => !covered w }
  queueKeys.foldl (fun s key =>
    match qcfg s k key with
    | none => s
    | some c =>
      if c.enabled && decide (off < c.bell + 8) && decide (c.bell < off + data.length) then ringBell s k key (grtWord s k c.bell)
      else s) s

/-- A write that is not an engine's. -/
def grtWrite (s : State) (k off : Nat) (data : List Byte) : State := grtPut s k off data false

/-- A read of the array (R187): code and bytes. -/
def grtRead (s : State) (k off len : Nat) : Nat × List Byte :=
  if grtBad s k off len then (0x506, []) else (0, grtBytes s k off len)

/-- An atomic in the bank that holds the word (R186): code and what each lane receives. -/
def grtAtomic (s : State) (k off aop ty : Nat) (ops : List (Nat × Nat)) (engine : Bool) : Nat × List Nat × State :=
  let n := atomWidth ty / 8
  if grtBad s k off n then (0x506, [], s)
  else
    let (v, outs) := atomApply aop ty (ofBytes (grtBytes s k off n)) ops
    (0, outs, grtPut s k off (toBytes n v) engine)

/-- The check of an access that carries a context (R188, R189), and of a lost die (R39). -/
def apertureCode (s : State) (k : Nat) (ctx : Option Nat) (off len : Nat) : Nat :=
  if !dieActive s k then 0xD80
  else
    match ctx with
    | none => 0
    | some c => if grtOwned s k c off len then 0 else 0x504

/-! ### Whole accesses to device physical addresses -/

/-- Cuts a range at 128-byte lines: address and length of each part. -/
def linePieces : Nat → Nat → Nat → List (Nat × Nat)
  | 0, _, _ => []
  | n + 1, a, len =>
    if len = 0 then []
    else
      let m := Nat.min len (128 - a % 128)
      (a, m) :: linePieces n (a + m) (len - m)

def pieces (a len : Nat) : List (Nat × Nat) := linePieces (len / 128 + 2) a len

/-- The bytes of a line that a part of it needs. -/
def needMask (a len : Nat) : Nat := (2 ^ len - 1) <<< (a % 128)

/-- A part of a range lies in a region (R25). -/
def inRegion (a : Nat) : Bool := inMemory a || (inAperture a).isSome

/-- A read of a range by the X0 I/O agent (`coherent`) or as NcReads, with the context that it carries (R25, R188). -/
def busRead (s : State) (ctx : Option Nat) (coherent : Bool) (addr len : Nat) : Nat × List Byte × State :=
  let ps := pieces addr len
  if ps.any fun p => !inRegion p.1 then (0x840, [], s)
  else
    let (code, data, s) := ps.foldl (fun (acc : Nat × List Byte × State) p =>
      let (code, data, s) := acc
      let (c, bs, s) :=
        match inAperture p.1 with
        | some (k, off) =>
          let c := apertureCode s k ctx off p.2
          let r := grtRead s k off p.2
          if c ≠ 0 then (c, [], s) else (r.1, r.2, drpSeen s k off p.2 false)
        | none =>
          let r := if coherent then ioReadNow s (p.1 / 128) (needMask p.1 p.2) else ncReadNow s (p.1 / 128) (needMask p.1 p.2)
          (r.1, (r.2.1.drop (p.1 % 128)).take p.2, r.2.2)
      (if code = 0 then c else code, data ++ bs, s)) (0, [], s)
    (code, if code = 0 then data else [], s)

/-- A write of a range: the lines that lie in regions are performed (R25). -/
def busWrite (s : State) (ctx : Option Nat) (coherent : Bool) (addr : Nat) (data : List Byte) : Nat × State :=
  (pieces addr data.length).foldl (fun (acc : Nat × State) p =>
    let (code, s) := acc
    let bs := (data.drop (p.1 - addr)).take p.2
    if !inRegion p.1 then (0x840, s)
    else
      match inAperture p.1 with
      | some (k, off) =>
        let c := apertureCode s k ctx off p.2
        if c ≠ 0 then (if code = 0 then c else code, s) else (code, grtWrite s k off bs)
      | none =>
        let m := bytesFrom (p.1 % 128) bs
        let (c, s) := if coherent then ioWriteNow s (p.1 / 128) m else (0, ncWriteNow s (p.1 / 128) m [])
        (if code = 0 then c else code, s)) (0, s)

/-- A requester's atomic on an aligned word: its code and what each lane receives (R186, R325). -/
def busAtomic (s : State) (who : Origin) (ctx : Option Nat) (addr aop ty : Nat) (ops : List (W64 × W64)) : Nat × List Nat × State :=
  match inAperture addr with
  | some (k, off) =>
    let c := apertureCode s k ctx off (atomWidth ty / 8)
    if c ≠ 0 then (c, [], s)
    else grtAtomic s k off aop ty (ops.map fun p => (p.1.toNat % 2 ^ atomWidth ty, p.2.toNat % 2 ^ atomWidth ty)) false
  | none => if inMemory addr then atomicNow s who (addr / 128) (addr % 128) aop ty ops else (0x840, [], s)

/-- A host-interface read or write (R358): coherent, without a context. -/
def devRead (s : State) (addr len : Nat) (coherent : Bool) : Nat × List Byte × State := busRead s none coherent addr len
def devWrite (s : State) (addr : Nat) (data : List Byte) : Nat × State := busWrite s none true addr data
/-- A single atomic of the host: its code and the prior value. -/
def devAtomic (s : State) (addr aop ty : Nat) (c d : W64) : Nat × Nat × State :=
  let r := busAtomic s (.host 0) none addr aop ty [(c, d)]
  (r.1, r.2.1.headD 0, r.2.2)

end Sys2Proof.Machine
end

