-- ==== Sys2Proof/Machine/Notify.lean ====
section
/-!
DEFINITION. What the module sends to the outside on its own: posted writes and MSI-X messages through the host port,
mailbox notifications, and the end of deep idle.
-/
namespace Sys2Proof.Machine

/-- The device may send through the port: the link is up, in D0, with Bus Master Enable (R442). -/
def canPost (s : State) : Bool := s.host.linkUp && s.host.busMaster && !s.host.d3hot

/-- Sends a message to the host behind every earlier one (R443) (DEDUCED, log entry 90). -/
def post (s : State) (p : HostPost) : State := { s with host := { s.host with sent := s.host.sent ++ [p] } }

/-- Writes host memory: a posted write, counted in HIF_TX_BYTES (R467); nothing leaves while the device may not send. -/
def postWrite (s : State) (addr : Nat) (data : List Byte) : State :=
  if canPost s then count (post s (.write addr data)) .hifTxBytes 14 0 0 data.length else s

/-- Sends an MSI-X message: a posted write of one dword, whose payload HIF_TX_BYTES counts (R467). -/
def msixSend (s : State) (v : Nat) : State := count (post s (.msix v)) .hifTxBytes 14 0 0 4

/-- Sends an MCTP message to an endpoint (R543); HIF_TX_BYTES counts its bytes (R467). -/
def mctpSend (s : State) (dst : Byte) (msg : List Byte) : State :=
  count (post s (.mctp dst msg)) .hifTxBytes 14 0 0 msg.length

/-- A Holtord message (R543): message type 0x7E, the function's Vendor ID, most significant byte first (PRESUMED, log entry 33),
and the kind byte. -/
def holtordMsg (kind : Byte) (data : List Byte) : List Byte :=
  [0x7E, BitVec.ofNat 8 (Config.vendorId.toNat / 256), BitVec.ofNat 8 Config.vendorId.toNat, kind] ++ data

/-- Dword `i` of the MSI-X table (R445): a vector's mask bit is 1 after reset, by the PCI Express specification. -/
def msixDword (s : State) (i : Nat) : W32 := mget (if i % 4 = 3 then 1 else 0) s.host.msixTable i

/-- Signals an MSI-X vector (R463): a masked vector sets its pending bit, and a message that cannot be sent because the
port is lost is discarded. -/
def msix (s : State) (v : Nat) : State :=
  if !(canPost s && s.host.msixOn) then s
  else if s.host.msixMask || (msixDword s (4 * v + 3)).toNat % 2 == 1 then
    { s with host := { s.host with msixPending := s.host.msixPending ||| w64 (2 ^ v) } }
  else msixSend s v

/-- Sends the pending vectors that are no longer masked (R463). -/
def msixFlush (s : State) : State :=
  (List.range 64).foldl (fun s v =>
    if bit s.host.msixPending.toNat v && canPost s && s.host.msixOn && !s.host.msixMask
        && (msixDword s (4 * v + 3)).toNat % 2 == 0 then
      msixSend { s with host := { s.host with msixPending := w64 (s.host.msixPending.toNat - 2 ^ v) } } v
    else s) s

/-! ### Deep idle (R507) -/

/-- The sixteen fabric ports, as L-die index and port of the die (R407). -/
def portList : List (Nat × Nat) := (List.range 16).map fun i => (10 + i / 4, i % 4)

/-- Deep idle ends: the quads' clocks run again, RIM_STATUS.DEEP_IDLE reads 0 on every die, and KA is cleared. -/
def deepIdleExit (s : State) : State :=
  if s.rim.deepIdle then
    let s := dieList.foldl (fun s n => rfset s .rimStatus n 0 0 3 3 0)
      { s with rim := { s.rim with deepIdle := false }, gatedQuads := [], host := { s.host with narrow := false } }
    portList.foldl (fun s p =>
      let s := rfset s .fabPortCtl p.1 p.2 0 4 4 0
      if rf s .fabPortStatus p.1 p.2 0 3 0 = 4 then rfset s .fabPortStatus p.1 p.2 0 3 0 5 else s) s
  else s

/-! ### Mailboxes (R520, R521) -/

/-- MBX_STATUS_m states (R545). -/
def mbIdle : Nat := 1
def mbBusy : Nat := 2
def mbPending : Nat := 3
def mbDone : Nat := 4
def mbUnavailable : Nat := 5

/-- Bits of MBX_STATUS_m; mailbox m is instance m - 1. -/
def mbxF (s : State) (m hi lo : Nat) : Nat := rf s .mbxStatus 14 (m - 1) 0 hi lo
/-- Sets bits of MBX_STATUS_m. -/
def mbxSet (s : State) (m hi lo v : Nat) : State := rfset s .mbxStatus 14 (m - 1) 0 hi lo v
/-- MBX_STATUS_m.STATE. -/
def mbxState (s : State) (m : Nat) : Nat := mbxF s m 3 0

/-- The first `n` bytes of MBX_BUF_m. -/
def mbxBytes (s : State) (m n : Nat) : List Byte :=
  ((List.range (cdiv n 8)).flatMap fun i => toBytes 8 (rget s .mbxBuf 14 (m - 1) i)).take n

/-- Writes bytes at the start of MBX_BUF_m; the last word is filled with zeros. -/
def mbxPut (s : State) (m : Nat) (bs : List Byte) : State :=
  (List.range (cdiv bs.length 8)).foldl (fun s i => rset s .mbxBuf 14 (m - 1) i (ofBytes ((bs.drop (8 * i)).take 8))) s

/-- The MCTP response of mailbox 30 (R543), to the endpoint that sent its request: kind 0x02, MBX_STATUS, then RLEN bytes. -/
def mctpRespond (s : State) : State :=
  match s.side.requester with
  | none => s
  | some d =>
    if s.host.linkUp then
      mctpSend s d (holtordMsg 0x02 (toBytes 8 (rget s .mbxStatus 14 29 0) ++ mbxBytes s 30 (mbxF s 30 31 16)))
    else s

/-- Tells a mailbox's owner that a command is DONE (R521). -/
def mbxNotify (s : State) (m : Nat) : State :=
  if m ≤ 15 then msix s 0
  else if m ≤ 29 then
    let a := rget s .mbxNotifyAddr 14 (m - 16) 0
    if bit a 63 && !anyFatal s then (devWrite s (bits a 47 0) (toBytes 4 (rget s .mbxNotifyData 14 (m - 16) 0))).2 else s
  else if m = 30 then mctpRespond s
  else { s with side := { s.side with ibi := s.side.ibi ++ [0x01] } }

/-- Ends a command: the response, RLEN and CODE, then DONE and the notification (R520, R521). Codes of the security
range are also SEC_STATUS.CODE (R548). -/
def mbxFinish (s : State) (m code : Nat) (resp : List Byte) : State :=
  let s := mbxPut s m resp
  let s := mbxSet (mbxSet (mbxSet s m 63 48 code) m 31 16 resp.length) m 3 0 mbDone
  let s := if 0xF09 ≤ code ∧ code ≤ 0xF15 ∧ code ≠ 0xF14 then rfset s .secStatus 14 0 0 31 16 code else s
  mbxNotify { s with uszon := { s.uszon with pendingB := mdel s.uszon.pendingB m } } m

end Sys2Proof.Machine
end

