-- ==== Sys2Proof/Machine/HostQueues.lean ====
section
/-!
DEFINITION. The host queues (R451-R459, R461-R463, R466): doorbells, commands, completion entries and signals.
-/
namespace Sys2Proof.Machine

/-- HIF_HQ_STATUS_n.STATE (R466). -/
def hqState (s : State) (q : Nat) : Nat := rf s .hifHqStatus 14 0 q 3 0
def hqDisabled : Nat := 1
def hqActive : Nat := 2
def hqLost : Nat := 3
def hqStopping : Nat := 4

/-- The queue's side of the state. -/
def hq (s : State) (q : Nat) : HostQueue := mget HostQueue.reset s.host.queues q
def setHq (s : State) (q : Nat) (h : HostQueue) : State :=
  { s with host := { s.host with queues := mput HostQueue.reset s.host.queues q h } }

/-- Slots of each ring: 2^(LOG2SIZE + 4) (R451). -/
def HostQueue.size (h : HostQueue) : Nat := 2 ^ (bits h.cfg 47 44 + 4)

/-- HIF_HQ_STATUS_n.SQ_HEAD. -/
def sqHead (s : State) (q : Nat) : Nat := rf s .hifHqStatus 14 0 q 39 28
/-- HIF_HQ_STATUS_n.CQ_TAIL. -/
def cqTail (s : State) (q : Nat) : Nat := rf s .hifHqStatus 14 0 q 27 16

/-- Signals a queue's vector (R463). -/
def hqSignal (s : State) (q : Nat) : State :=
  let h := hq s q
  msix (setHq s q { h with unsignalled := 0 }) (bits h.cfg 61 56)

/-- Writes the completion entry of a command, in ring order, and signals if it is due (R456, R463). -/
def hqEntry (s : State) (q : Nat) (c : HostCmd) (code info : Nat) : State :=
  let h := hq s q
  let w0 := wd c.slot.hdr 0
  let tail := cqTail s q
  let e0 := code <<< 48 + ((c.idx + 1) % h.size) <<< 32 + bits w0 31 0
  let e1 := (b2n h.phase) <<< 63 + (bits h.cfg 55 48) <<< 48 + bits info 47 0
  let s := postWrite s (rget s .hifHqCqbase 14 0 q + 16 * tail) (toBytes 8 e0 ++ toBytes 8 e1)
  let tail' := (tail + 1) % h.size
  let s := rfset s .hifHqStatus 14 0 q 27 16 tail'
  let n := h.unsignalled + 1
  let s := setHq s q { h with cqUsed := h.cqUsed + 1, phase := if tail' = 0 then !h.phase else h.phase, unsignalled := n }
  if bit w0 46 || decide (Nat.max 1 (bits h.cfg 39 32) ≤ n) then hqSignal s q else s

/-- Writes the entries of completed commands at the front of the queue (R455: entries are in ring order). -/
def hqRetire : Nat → State → Nat → State
  | 0, s, _ => s
  | fuel + 1, s, q =>
    let h := hq s q
    match h.started with
    | c :: rest =>
      match c.result with
      | some (code, info) => hqRetire fuel (hqEntry (setHq s q { h with started := rest }) q c code info) q
      | none => s
    | [] => s

/-- Retires every completed command at the front. -/
def hqRetireAll (s : State) (q : Nat) : State := hqRetire (hq s q).started.length s q

/-- Changes the started command whose slot index is `idx`. -/
def hqUpdate (s : State) (q idx : Nat) (f : HostCmd → HostCmd) : State :=
  let h := hq s q
  setHq s q { h with started := h.started.map fun c => if c.idx = idx then f c else c }

/-- Completes a started command and retires what can be retired. -/
def hqFinish (s : State) (q idx code info : Nat) : State :=
  hqRetireAll (hqUpdate s q idx fun c => { c with result := some (code, info), reads := [] }) q

/-! ### Starting a command (R455, R457) -/

/-- OP of a command (R452). -/
def slotOp (h : HostSlot) : Nat := bits (wd h.hdr 0) 63 56

/-- An earlier WRITE_INLINE or COPY_H2D has not completed. -/
def hqWritesRunning (h : HostQueue) : Bool :=
  h.started.any fun c => c.result.isNone && (slotOp c.slot == 2 || slotOp c.slot == 3)

/-- A command of the queue may start (R442, R451, R455): the queue is ACTIVE, the slot is available, the device may use the
port, no loss is fatal (R41), the completion ring has room, and what the command waits for has completed. FENCE waits for every earlier command
(R452), which includes those that R455 names (DEDUCED, log entry 20). -/
def hqReady (s : State) (q : Nat) (slot : HostSlot) : Bool :=
  let h := hq s q
  let w0 := wd slot.hdr 0
  hqState s q == hqActive && canPost s && !anyFatal s && sqHead s q != h.sqTail
    && decide (h.cqUsed + h.started.length < h.size)
    && (!(bit w0 47 || slotOp slot == 5) || h.started.isEmpty)
    && (!(slotOp slot == 1) || !hqWritesRunning h)

/-- A range lies wholly in the fast tier, the deep tier or one Grotto aperture (R453). -/
def hqRangeOk (a n : Nat) : Bool :=
  decide (a + n ≤ 0xC000000000) || decide (0x20000000000 ≤ a ∧ a + n ≤ 0x38000000000)
    || decide (0x80000000000 ≤ a ∧ a / 2 ^ 32 ≤ 0x805 ∧ a % 2 ^ 32 + n ≤ 0x6000000)

/-- Every byte of a list is zero. -/
def allZero (bs : List Byte) : Bool := bs.all (· == 0)

/-- The reserved fields, and the fields the operation does not use, are zero, and lengths and alignments are in the rules
(R452-R454, R457 check 2). -/
def hqDescOk (c : HostSlot) : Bool :=
  let w := wd c.hdr
  let op := slotOp c
  let ilen := bits (w 0) 39 32
  let body := c.body
  decide (op ≤ 5) && bits (w 0) 45 40 == 0 && bits (w 1) 63 48 == 0 && bits (w 3) 63 32 == 0
    && bits (w 4) 63 51 == 0 && bits (w 4) 42 38 == 0 && bits (w 4) 31 0 == 0 && w 6 == 0 && w 7 == 0
    && (if op = 2 then decide (1 ≤ ilen ∧ ilen ≤ 192) && allZero (body.drop ilen) else ilen == 0)
    && (op == 2 || op == 3 || op == 4 || w 1 == 0)
    && (op == 3 || op == 4 || (op == 5 && w 2 % 8 == 0) || w 2 == 0)
    && (if op = 3 ∨ op = 4 then w 3 != 0 else w 3 == 0)
    && (op == 5 || w 5 == 0)
    && (if op = 1 then decide (bits (w 4) 50 48 ≤ 5) && (bit (w 4) 43 || bits (w 4) 37 32 == 0)
          && allZero (body.drop 160) else w 4 == 0)
    && (op == 1 || op == 2 || allZero body)

/-- JOB_QCFG_n.ENABLE, and the ring of a job queue (R402). -/
def jobqEnabled (s : State) (k q : Nat) : Bool := rf s .jobQcfg k 0 q 63 63 == 1
def jobqSize (s : State) (k q : Nat) : Nat := 2 ^ (rf s .jobQcfg k 0 q 59 56 + 4)

/-- The first check of R457 that fails, 0 for none. -/
def hqCheck (s : State) (q : Nat) (c : HostSlot) : Nat :=
  let w := wd c.hdr
  let die := bits (w 4) 50 48
  let jq := bits (w 4) 47 44
  if bits (w 0) 55 48 ≠ bits (hq s q).cfg 55 48 then 0xC02
  else if !hqDescOk c then 0xC01
  else if (slotOp c = 2 ∧ !hqRangeOk (w 1) (bits (w 0) 39 32)) ∨ ((slotOp c = 3 ∨ slotOp c = 4) ∧ !hqRangeOk (w 1) (w 3)) then 0xC03
  else if slotOp c = 1 then
    if !dieActive s die then 0xD80
    else if !jobqEnabled s die jq then 0xC06
    else if (rf s .jobQptr die 0 jq 11 0 + 1) % jobqSize s die jq = rf s .jobQptr die 0 jq 43 32 then 0xC05
    else 0
  else 0

/-- The most reads of host memory that may be outstanding (R442). -/
def hqMaxReads : Nat := 1024

/-- Host reads outstanding over all queues. -/
def hqReadsOut (s : State) : Nat :=
  s.host.queues.foldl (fun n e => e.2.started.foldl (fun n c => n + c.reads.length) n) 0

/-- Max Payload Size and Max Read Request Size in bytes (R442). -/
def payloadMax (s : State) : Nat := 128 * 2 ^ s.host.mps.val
def readRequestMax (s : State) : Nat := 128 * 2 ^ s.host.mrrs.val

/-- Asks the host for the next bytes of a COPY_H2D: requests of up to Max Read Request Size that do not cross a 4 KiB boundary of
host memory, while fewer than 1,024 are outstanding (R442). -/
def hqIssueReads : Nat → State → Nat → Nat → State
  | 0, s, _, _ => s
  | fuel + 1, s, q, idx =>
    match (hq s q).started.find? (fun c => c.idx == idx) with
    | none => s
    | some c =>
      let len := wd c.slot.hdr 3
      if len ≤ c.nextOff || hqMaxReads ≤ hqReadsOut s then s
      else
        let ha := wd c.slot.hdr 2 + c.nextOff
        let m := readRequestMax s
        let n := Nat.min (len - c.nextOff) (m - ha % m)
        let tag := s.nextId
        let s := post { s with nextId := tag + 1 } (.readReq tag ha n)
        let s := hqUpdate s q idx fun c =>
          { c with reads := c.reads ++ [(tag, ha, wd c.slot.hdr 1 + c.nextOff, n)], nextOff := c.nextOff + n }
        hqIssueReads fuel s q idx

/-- Every started COPY_H2D that still has bytes to ask for goes on, as far as the limit on outstanding reads allows (R442). The
queues ask in ascending order (DESIGN CHOICE, log entry 122). -/
def hqReadsGoOn (s : State) : State :=
  s.host.queues.foldl (fun s e => e.2.started.foldl (fun s c =>
    if slotOp c.slot == 3 && c.result.isNone then hqIssueReads hqMaxReads s e.1 c.idx else s) s) s

/-- Copies device memory to the host in payloads of at most Max Payload Size (R442), which cross no 4 KiB boundary of host
memory, stopping at the first device-memory error (R457). Answers the code and the bytes sent (DESIGN CHOICE, log entry 122). -/
def hqD2H : Nat → State → Nat → Nat → Nat → Nat → Nat × Nat × State
  | 0, s, _, _, _, sent => (0, sent, s)
  | fuel + 1, s, ha, da, left, sent =>
    if left = 0 then (0, sent, s)
    else
      let m := payloadMax s
      let n := Nat.min left (Nat.min (m - da % m) (4096 - ha % 4096))
      let (code, data, s) := devRead s da n true
      if code ≠ 0 then (code, sent, s)
      else hqD2H fuel (postWrite s ha data) (ha + n) (da + n) (left - n) (sent + n)

/-- Two references name one ring slot (DESIGN CHOICE, log entry 141). -/
def JobRef.sameSlot (a b : JobRef) : Bool := a.lead == b.lead && a.queue == b.queue && a.slot == b.slot

/-- Places a job descriptor in a job queue and advances its TAIL (R454). -/
def hqSubmit (s : State) (q idx : Nat) (c : HostSlot) : State :=
  let w4 := wd c.hdr 4
  let die := bits w4 50 48
  let jq := bits w4 47 44
  let tail := rf s .jobQptr die 0 jq 11 0
  let base := rf s .jobQcfg die 0 jq 47 8 * 256
  let (code, s) := devWrite s (base + 256 * tail) ((c.body.take 160) ++ List.replicate 96 0)
  if code ≠ 0 then hqFinish s q idx code 0
  else
    let s := rfset s .jobQptr die 0 jq 11 0 ((tail + 1) % jobqSize s die jq)
    let job : JobRef := ⟨Fin.ofNat 6 die, Fin.ofNat 16 jq, Fin.ofNat 4096 tail, 0⟩
    let jv := if bit w4 43 then some (bits w4 37 32) else none
    let s := { s with hostSubmits := s.hostSubmits.filter (fun e => !JobRef.sameSlot e.job job)
                                        ++ [⟨job, q, bits (hq s q).cfg 55 48, jv⟩] }
    hqFinish (deepIdleExit s) q idx 0 (tail + jq <<< 12 + die <<< 16)

/-- Performs a command that has passed its checks (R453). -/
def hqPerform (s : State) (q idx : Nat) (c : HostSlot) : State :=
  let w := wd c.hdr
  match slotOp c with
  | 1 => hqSubmit s q idx c
  | 2 =>
    let (code, s) := devWrite s (w 1) (c.body.take (bits (w 0) 39 32))
    hqFinish s q idx code 0
  | 3 => hqIssueReads hqMaxReads s q idx
  | 4 =>
    let (code, n, s) := hqD2H (2 * cdiv (w 3) 128 + 2) s (w 2) (w 1) (w 3) 0
    hqFinish s q idx code n
  | 5 => hqFinish (postWrite s (w 2) (toBytes 8 (w 5))) q idx 0 0
  | _ => hqFinish s q idx 0 0

/-- A queue fetches its next slot, which holds `c`, and starts the command (R455, R457). `op` is the operation of the row:
a slot with another defined operation is not this row's, and a queue that may not start a command starts none. A
reserved OP is the business of NOP's row. -/
def hqStart (s : State) (op : Nat) (q : Nat) (c : HostSlot) : State :=
  if hqReady s q c && (slotOp c == op || (op == 0 && decide (5 < slotOp c))) then
    let idx := sqHead s q
    let h := hq s q
    let s := setHq s q { h with started := h.started ++ [⟨idx, c, none, [], 0, 0⟩] }
    let s := rfset s .hifHqStatus 14 0 q 39 28 ((idx + 1) % h.size)
    let s := count s .hifRxBytes 14 0 0 256
    let code := hqCheck s q c
    if code ≠ 0 then hqFinish s q idx code 0 else hqPerform s q idx c
  else s

/-! ### The rows -/

/-- A write of SQ_TAIL (R451): makes slots available; discarded unless the queue is ACTIVE. It ends deep idle (R507). -/
def sqTailWrite (s : State) (q v : Nat) : State :=
  if hqState s q == hqActive then
    deepIdleExit (setHq s q { hq s q with sqTail := bits v 11 0 % (hq s q).size })
  else s

/-- A write of CQ_HEAD (R451): returns the entries before it; on a full ring a head equal to the old one returns them all
(DEDUCED, log entry 21). -/
def cqHeadWrite (s : State) (q v : Nat) : State :=
  if hqState s q == hqActive then
    let h := hq s q
    let v := bits v 11 0 % h.size
    let k := (v + h.size - h.cqHead) % h.size
    let k := if k = 0 ∧ h.cqUsed = h.size then h.size else Nat.min k h.cqUsed
    setHq s q { h with cqHead := v, cqUsed := h.cqUsed - k }
  else s

/-- HQ_SQ_TAIL. -/
def execHqSqTail (q : Fin 64) (v : W64) (s : State) : Out := .next (sqTailWrite s q v.toNat)
/-- HQ_CQ_HEAD. -/
def execHqCqHead (q : Fin 64) (v : W64) (s : State) : Out := .next (cqHeadWrite s q v.toNat)

/-- HIF_NOP (R453). -/
def execHifNop (q : Fin 64) (c : HostSlot) (s : State) : Out := .next (hqStart s 0 q c)
/-- HIF_SUBMIT (R454). -/
def execHifSubmit (q : Fin 64) (c : HostSlot) (s : State) : Out := .next (hqStart s 1 q c)
/-- WRITE_INLINE (R453). -/
def execWriteInline (q : Fin 64) (c : HostSlot) (s : State) : Out := .next (hqStart s 2 q c)
/-- COPY_H2D (R453). -/
def execCopyH2D (q : Fin 64) (c : HostSlot) (s : State) : Out := .next (hqStart s 3 q c)
/-- COPY_D2H (R453). -/
def execCopyD2H (q : Fin 64) (c : HostSlot) (s : State) : Out := .next (hqStart s 4 q c)
/-- FLAG (R453). -/
def execFlag (q : Fin 64) (c : HostSlot) (s : State) : Out := .next (hqStart s 5 q c)

/-- The started command of a queue that waits for a read with this tag. -/
def hqReader (s : State) (q tag : Nat) : Option (HostCmd × Nat × Nat) :=
  (hq s q).started.findSome? fun c =>
    (c.reads.find? fun r => r.1 == tag).map fun r => (c, r.2.2.1, r.2.2.2)

/-- HOST_READ_COMPLETION (R457): good data is performed at DADDR, and the command completes when every byte is; any other
completion ends it with E_HIF_HOST_ABORT, and a device-memory error with the memory's code. -/
def execHostReadCompletion (q : Fin 64) (tag : Nat) (c : HostCpl) (s : State) : Out :=
  .next (match hqReader s q tag with
    | none => s
    | some (cmd, da, n) =>
      match c with
      | .ok data =>
        if data.length ≠ n ∨ anyFatal s then s
        else
          let s := count s .hifRxBytes 14 0 0 n
          let (code, s) := devWrite s da data
          hqReadsGoOn (
            if code ≠ 0 then hqFinish s q cmd.idx code cmd.moved
            else
              let s := hqUpdate s q cmd.idx fun c => { c with reads := c.reads.filter (fun r => r.1 != tag), moved := c.moved + n }
              if cmd.moved + n = wd cmd.slot.hdr 3 then hqFinish s q cmd.idx 0 (cmd.moved + n) else s)
      | _ => hqReadsGoOn (hqFinish (if c == .poisoned then count s .hifRxBytes 14 0 0 n else s) q cmd.idx 0xC04 cmd.moved))

/-- COMPLETION_TIMEOUT (R457): a read that no completion answers ends its command with E_HIF_HOST_ABORT. -/
def execCompletionTimeout (q : Fin 64) (tag : Nat) (s : State) : Out :=
  .next (match hqReader s q tag with
    | none => s
    | some (cmd, _, _) => hqReadsGoOn (hqFinish s q cmd.idx 0xC04 cmd.moved))

/-- HQ_INTERRUPT_TIMER (R463): the oldest unsignalled entry is ITIME_US old; an ITIME_US of 0 turns the trigger off. -/
def execHqInterruptTimer (q : Fin 64) (s : State) : Out :=
  .next (if (hq s q).unsignalled ≠ 0 ∧ bits (hq s q).cfg 31 16 ≠ 0 then hqSignal s q else s)

/-- HQ_STOPPED (R466): a stopping queue whose started commands have finished becomes DISABLED. -/
def execHqStopped (q : Fin 64) (s : State) : Out :=
  .next (if hqState s q = hqStopping ∧ (hq s q).started = [] then
      rfset (rfset s .hifHqStatus 14 0 q 3 0 hqDisabled) .hifHqStatus 14 0 q 47 40 (bits (hq s q).cfg 55 48)
    else s)

/-- A write of HIF_HQ_CFG_n (R462, R466): with ENABLE 0 it stops an ACTIVE queue, and an ACTIVE queue takes no other write;
with ENABLE 1 it re-arms a DISABLED or HOST_LOST queue or is refused with E_HIF_REARM, and until MOD_READY it is
discarded (R563). A refused write changes CODE only (DEDUCED, log entry 22). -/
def hqCfgWrite (s : State) (q : Nat) (v : Nat) : State :=
  let st := hqState s q
  if rf s .hifHqCfg 14 0 q 63 63 = 1 then
    if bit v 63 then s
    else
      let s := rset s .hifHqCfg 14 0 q (Reg.hifHqCfg.spec.write (rget s .hifHqCfg 14 0 q) v)
      if st = hqActive then rfset s .hifHqStatus 14 0 q 3 0 hqStopping else s
  else if !bit v 63 then rset s .hifHqCfg 14 0 q (Reg.hifHqCfg.spec.write (rget s .hifHqCfg 14 0 q) v)
  else if !s.pins.modReady then s
  else
    let g := bits v 55 48
    if g = 0 ∨ g = rf s .hifHqStatus 14 0 q 47 40 ∨ 8 < bits v 47 44 ∨ st = hqStopping then
      rfset s .hifHqStatus 14 0 q 63 48 0xC09
    else
      let c := Reg.hifHqCfg.spec.write 0 v
      let s := rset s .hifHqCfg 14 0 q c
      let s := rfset (rfset (rfset s .hifHqStatus 14 0 q 39 28 0) .hifHqStatus 14 0 q 27 16 0) .hifHqStatus 14 0 q 3 0 hqActive
      setHq s q { HostQueue.reset with cfg := c }

/-- HIF_HQ_CFG_WRITE: every agent that reaches register space writes it, with the port out of reset. -/
def execHifHqCfgWrite (a : Agent) (q : Fin 64) (v : W64) (s : State) : Out :=
  .next (match a with
    | .i3c => s
    | .mctp => s
    | _ => if s.pins.pwrGood then hqCfgWrite s q v.toNat else s)

/-- A write of HIF_WIN_BASE (R447): a base outside the list is refused with E_HIF_WINDOW and BASE is unchanged. -/
def winBaseWrite (s : State) (v : Nat) : State :=
  let b := bits v 47 32
  if b ≤ 0xBF ∨ (0x200 ≤ b ∧ b ≤ 0x37F) ∨ (0x800 ≤ b ∧ b ≤ 0x805) then rfset s .hifWinBase 14 0 0 47 32 b
  else rfset s .hifWinBase 14 0 0 63 48 0xC08

/-- HIF_WIN_BASE_WRITE. -/
def execHifWinBaseWrite (a : Agent) (v : W64) (s : State) : Out :=
  .next (match a with
    | .i3c => s
    | .mctp => s
    | _ => if s.pins.pwrGood then winBaseWrite s v.toNat else s)

/-! ### Loss of the port (R461, R462) -/

/-- One queue meets the loss of the port: ACTIVE becomes HOST_LOST, STOPPING becomes DISABLED (DEDUCED, log entry 23), and what
was running or waiting in it is gone. -/
def hqLose (s : State) (q : Nat) : State :=
  let h := hq s q
  let st := hqState s q
  let s := setHq s q HostQueue.reset
  if st = hqActive then
    rfset (rfset (rfset s .hifHqStatus 14 0 q 3 0 hqLost) .hifHqStatus 14 0 q 63 48 0xC07)
      .hifHqStatus 14 0 q 47 40 (bits h.cfg 55 48)
  else if st = hqStopping then
    rfset (rfset s .hifHqStatus 14 0 q 3 0 hqDisabled) .hifHqStatus 14 0 q 47 40 (bits h.cfg 55 48)
  else s

/-- The HIF_ registers that a host-port reset returns to their reset value (R462). -/
def hifResets (r : Reg) : Bool :=
  r == .hifCap || r == .hifWinBase || r == .hifRegwinBase || r == .hifHqCfg || r == .hifHqSqbase || r == .hifHqCqbase

/-- A host-port reset (R34, R461, R462): the queues are lost, and the HIF_ registers but HIF_HQ_STATUS_n and the event
counters, configuration space, the MSI-X table and the BARs return to reset; STRAP_COMPAT is sampled (R560). -/
def hostPortReset (s : State) (compat : Bool) : State :=
  let s := (List.range 64).foldl hqLose s
  let s := { s with regs := s.regs.filter (fun e => !(match regAt 14 (e.1 - 0xF00E00000000) with
                                  | some (r, _, _) => decide (0xF00E00000000 ≤ e.1 ∧ e.1 < 0xF00F00000000) && hifResets r
                                  | none => false)) }
  let s := { s with host := { HostIf.reset with queues := s.host.queues, sent := s.host.sent, aer := s.host.aer } }
  let s := rfset s .hifCap 14 0 0 0 0 (b2n compat)
  rfset s .dlkStraps 14 0 0 0 0 (b2n compat)

/-- A loss of the port (R461): a host-port reset that HIF_HOST_LOSSES counts. -/
def portLost (s : State) (compat : Bool) : State := hostPortReset (count s .hifHostLosses 14 0 0 1) compat

/-- PERST_N_ASSERT (R461). -/
def execPerstNAssert (compat : Bool) (s : State) : Out :=
  .next (if s.pins.perstN then portLost { s with pins := { s.pins with perstN := false } } compat else s)

/-- PERST_N_DEASSERT (R563): the port begins link training, if its domain is out of reset (R561). -/
def execPerstNDeassert (s : State) : Out :=
  .next (if s.pins.perstN then s
    else
      let s := { s with pins := { s.pins with perstN := true } }
      if s.pins.pwrGood || s.uszon.recovery then { s with host := { s.host with training := true } } else s)

/-- HOST_PORT_LOST (R461): a hot reset, an exit from D3hot, or a loss of DL_Up, while the port is up. -/
def execHostPortLost (why : PortLoss) (compat : Bool) (s : State) : Out :=
  .next (if s.host.linkUp && (why != .d3hotToD0 || s.host.d3hot) then
      let s := portLost s compat
      { s with host := { s.host with training := true } }
    else s)

/-- HOST_LINK_UP (R461): the data link layer comes up after training. -/
def execHostLinkUp (s : State) : Out :=
  .next (if s.host.training && s.pins.perstN then { s with host := { s.host with training := false, linkUp := true } } else s)

end Sys2Proof.Machine
end

