-- ==== Sys2Proof/Machine/Crypto.lean ====
section
/-!
DEFINITION. SHAKE256 (FIPS 202) and KMAC256 (NIST SP 800-185), which R528 and R537 name.
-/
namespace Sys2Proof.Machine

/-- Five lanes with one y coordinate, at x = 0 to 4. -/
structure KkPlane where
  p : BitVec 64 := 0
  q : BitVec 64 := 0
  r : BitVec 64 := 0
  s : BitVec 64 := 0
  t : BitVec 64 := 0
  deriving DecidableEq, Repr

/-- A lane-by-lane operation on two planes. -/
def KkPlane.both (f : BitVec 64 → BitVec 64 → BitVec 64) (u v : KkPlane) : KkPlane :=
  ⟨f u.p v.p, f u.q v.q, f u.r v.r, f u.s v.s, f u.t v.t⟩

/-- The plane whose lane x is lane x + 1 of this one. -/
def KkPlane.next (u : KkPlane) : KkPlane := ⟨u.q, u.r, u.s, u.t, u.p⟩

/-- The lane at x modulo 5. -/
def KkPlane.lane (u : KkPlane) (x : Nat) : BitVec 64 :=
  match x % 5 with
  | 0 => u.p
  | 1 => u.q
  | 2 => u.r
  | 3 => u.s
  | _ => u.t

/-- The five planes of the permutation's state, y = 0 to 4. -/
structure KkState where
  y0 : KkPlane := {}
  y1 : KkPlane := {}
  y2 : KkPlane := {}
  y3 : KkPlane := {}
  y4 : KkPlane := {}
  deriving DecidableEq, Repr

/-- Theta adds to every lane the parity of the column to its left and the rotated one to its right. -/
def KkState.theta (a : KkState) : KkState :=
  let par := (((a.y0.both (· ^^^ ·) a.y1).both (· ^^^ ·) a.y2).both (· ^^^ ·) a.y3).both (· ^^^ ·) a.y4
  let add := par.next.next.next.next.both (fun l r => l ^^^ r.rotateLeft 1) par.next
  ⟨a.y0.both (· ^^^ ·) add, a.y1.both (· ^^^ ·) add, a.y2.both (· ^^^ ·) add, a.y3.both (· ^^^ ·) add,
    a.y4.both (· ^^^ ·) add⟩

/-- The amount that rho turns the lane (x, y): the walk (x, y) → (y, 2x + 3y) from (1, 0) meets every lane but
(0, 0) once, and turns the lane of its step t by the t-th triangular number. -/
def kkTurn : Nat → Nat → Nat → Nat → Nat → Nat → Nat
  | 0, _, _, _, _, _ => 0
  | n + 1, t, u, v, x, y =>
    if u = x ∧ v = y then t * (t + 1) / 2 % 64 else kkTurn n (t + 1) v ((2 * u + 3 * v) % 5) x y

/-- Rho's amounts, by 5y + x. -/
def kkTurns : List Nat := (List.range 25).map fun i => kkTurn 24 1 1 0 (i % 5) (i / 5)

/-- Rho and pi: the lane (x, y) turned by its amount stands at (y, 2x + 3y). -/
def KkState.rhoPi (turns : List Nat) (a : KkState) : KkState :=
  let src (u : KkPlane) (y x : Nat) : BitVec 64 := (u.lane x).rotateLeft (turns.getD (5 * y + x % 5) 0)
  let plane (k : Nat) : KkPlane :=
    ⟨src a.y0 0 (3 * k), src a.y1 1 (3 * k + 1), src a.y2 2 (3 * k + 2), src a.y3 3 (3 * k + 3),
      src a.y4 4 (3 * k + 4)⟩
  ⟨plane 0, plane 1, plane 2, plane 3, plane 4⟩

/-- Chi on one plane. -/
def KkPlane.chi (u : KkPlane) : KkPlane :=
  u.both (· ^^^ ·) (u.next.both (fun l r => ~~~l &&& r) u.next.next)

/-- Iota's constant from the shift register's byte: bit 2^j - 1 is the register's output at step j. The answer
holds the byte seven steps on. -/
def kkConstant : Nat → Nat → BitVec 8 → BitVec 64 → BitVec 64 × BitVec 8
  | 0, _, g, c => (c, g)
  | n + 1, j, g, c =>
    kkConstant n (j + 1) ((g <<< 1) ^^^ (if g.getLsbD 7 then 0x71 else 0))
      (if g.getLsbD 0 then c ||| (1 <<< (2 ^ j - 1)) else c)

/-- `n` rounds from the shift register's byte `g`. -/
def kkRounds (turns : List Nat) : Nat → BitVec 8 → KkState → KkState
  | 0, _, a => a
  | n + 1, g, a =>
    let b := a.theta.rhoPi turns
    let k := kkConstant 7 0 g 0
    kkRounds turns n k.2
      ⟨b.y0.chi.both (· ^^^ ·) ⟨k.1, 0, 0, 0, 0⟩, b.y1.chi, b.y2.chi, b.y3.chi, b.y4.chi⟩

/-- Keccak-f[1600]. -/
def kkF (a : KkState) : KkState := kkRounds kkTurns 24 1 a

/-- Eight bytes as a lane, the first one lowest. -/
def kkLane (m : List Byte) (i : Nat) : BitVec 64 :=
  ((m.drop (8 * i)).take 8).foldr (fun b a => (a <<< 8) ||| b.setWidth 64) 0

/-- The plane that five lanes of a block form, from lane `i` on; the block has 17. -/
def kkBlockPlane (m : List Byte) (i : Nat) : KkPlane :=
  let l (j : Nat) : BitVec 64 := if i + j < 17 then kkLane m (i + j) else 0
  ⟨l 0, l 1, l 2, l 3, l 4⟩

/-- The state after a block of 136 bytes is taken in. -/
def kkTake (m : List Byte) (a : KkState) : KkState :=
  kkF ⟨a.y0.both (· ^^^ ·) (kkBlockPlane m 0), a.y1.both (· ^^^ ·) (kkBlockPlane m 5),
    a.y2.both (· ^^^ ·) (kkBlockPlane m 10), a.y3.both (· ^^^ ·) (kkBlockPlane m 15), a.y4⟩

/-- The state after `n` blocks. -/
def kkBlocks : Nat → List Byte → KkState → KkState
  | 0, _, a => a
  | n + 1, m, a => kkBlocks n (m.drop 136) (kkTake m a)

/-- The bytes of a plane, lane by lane, each lane's lowest byte first. -/
def KkPlane.bytes (u : KkPlane) : List Byte :=
  [u.p, u.q, u.r, u.s, u.t].flatMap fun (w : BitVec 64) =>
    (List.range 8).map fun i => BitVec.setWidth 8 (w >>> (8 * i))

/-- The message with its domain byte and padding, a multiple of 136 bytes. -/
def kkPad (dom : Byte) (m : List Byte) : List Byte :=
  let z := 135 - m.length % 136
  if z = 0 then m ++ [dom ||| 0x80] else m ++ dom :: (List.replicate (z - 1) 0 ++ [0x80])

/-- The first 136 bytes or fewer that the sponge gives. -/
def kkSponge (dom : Byte) (m : List Byte) (n : Nat) : List Byte :=
  let p := kkPad dom m
  let a := kkBlocks (p.length / 136) p {}
  (a.y0.bytes ++ a.y1.bytes ++ a.y2.bytes ++ a.y3.bytes).take n

/-- SHAKE256 with an output of `n` bytes, n at most 136. -/
def shake256 (m : List Byte) (n : Nat) : List Byte := kkSponge 0x1F m n

/-- The bytes of a number, most significant first, at least one. -/
def beBytes : Nat → Nat → List Byte
  | 0, _ => []
  | f + 1, v => if v < 256 then [BitVec.ofNat 8 v] else beBytes f (v / 256) ++ [BitVec.ofNat 8 v]

/-- left_encode of SP 800-185. -/
def leftEncode (v : Nat) : List Byte := let b := beBytes 8 v; BitVec.ofNat 8 b.length :: b
/-- right_encode of SP 800-185. -/
def rightEncode (v : Nat) : List Byte := let b := beBytes 8 v; b ++ [BitVec.ofNat 8 b.length]
/-- encode_string of SP 800-185. -/
def encodeString (s : List Byte) : List Byte := leftEncode (8 * s.length) ++ s
/-- bytepad of SP 800-185 with width 136. -/
def bytepad136 (s : List Byte) : List Byte :=
  let x := leftEncode 136 ++ s
  x ++ List.replicate ((136 - x.length % 136) % 136) 0

/-- The ASCII bytes of a string. -/
def ascii (s : String) : List Byte := s.toList.map fun c => BitVec.ofNat 8 c.toNat

/-- KMAC256 with an output of `n` bytes. -/
def kmac256 (key m : List Byte) (n : Nat) (custom : String) : List Byte :=
  kkSponge 0x04
    (bytepad136 (encodeString (ascii "KMAC") ++ encodeString (ascii custom))
      ++ bytepad136 (encodeString key) ++ m ++ rightEncode (8 * n)) n

end Sys2Proof.Machine
end

