-- ==== Sys2Proof/Machine/Mailbox.lean ====
section
/-!
DEFINITION. The mailbox protocol (R519-R521, R527-R529, R533): the registers of a mailbox, the checks of a command in
their order, authentication, and how a command ends.
-/
namespace Sys2Proof.Machine

/-- The opcodes of the table "Command set" (R526). -/
def mbxOpcodes : List Nat :=
  [0x0001, 0x0002, 0x0003, 0x0004, 0x0101, 0x0102, 0x0103, 0x0201, 0x0202, 0x0203, 0x0204, 0x0301, 0x0302, 0x0303,
   0x0401, 0x0402, 0x0403, 0x0404, 0x0501, 0x0502, 0x0503, 0x0701, 0x0702, 0x0703, 0x0704, 0x0705, 0x0706, 0x0801,
   0x0802, 0x0803, 0x0804]

/-- The critical commands (R526). -/
def mbxCritical : List Nat :=
  [0x0203, 0x0301, 0x0302, 0x0303, 0x0401, 0x0402, 0x0501, 0x0503, 0x0702, 0x0703, 0x0801, 0x0803, 0x0804]

/-- The opcodes of the recovery loader (R533). -/
def mbxRecovery : List Nat := [0x0001, 0x0002, 0x0801, 0x0802, 0x0803, 0x0804]

/-- The mailbox that an agent may write (R519). -/
def mbxOwns (a : Agent) (m : Nat) : Bool :=
  match a with
  | .host => 1 ≤ m && m ≤ 15
  | .core _ => 16 ≤ m && m ≤ 29
  | .mctp => m == 30
  | .i3c => m == 31
  | .uszon => false

/-! ### The order of commands (R522) -/

/-- The objects that the command of a mailbox acts on (R522): each a kind, and which one of the kind, or all of them. A create acts on
any context, and a granule assignment on a C-die too; the settings that R522 does not name count as one object for each group of
commands that writes them (DESIGN CHOICE, log entry 125). -/
def mbxObjects (s : State) (m : Nat) : List (Nat × Option Nat) :=
  let b := mbxBytes s m 4
  let byte (i : Nat) : Nat := (b.getD i 0).toNat
  match bits (rget s .mbxCmd 14 (m - 1)) 15 0 with
  | 0x0101 => [(1, none)]
  | 0x0102 => [(1, some (byte 0))]
  | 0x0103 => [(1, some (byte 1)), (5, some (byte 0))]
  | 0x0201 => [(2, some (byte 0 + 256 * byte 1)), (1, some (byte 2))]
  | 0x0202 => [(2, some (byte 0 + 256 * byte 1))]
  | 0x0203 => [(3, none)]
  | 0x0204 => [(4, none)]
  | 0x0301 => [(5, some (byte 0))]
  | 0x0302 => [(5, none)]
  | 0x0303 => [(6, none)]
  | 0x0401 => [(7, none)]
  | 0x0402 => [(7, none)]
  | 0x0403 => [(7, none)]
  | 0x0404 => [(7, none)]
  | 0x0501 => [(8, none)]
  | 0x0502 => [(9, none)]
  | 0x0503 => [(9, none)]
  | 0x0701 => [(10, none)]
  | 0x0702 => [(10, none)]
  | 0x0703 => [(10, none)]
  | 0x0704 => [(11, none)]
  | 0x0705 => [(11, none)]
  | 0x0801 => [(12, none)]
  | 0x0802 => [(12, none)]
  | 0x0803 => [(12, none)]
  | 0x0804 => [(12, none)]
  | _ => []

/-- The commands of two mailboxes act on a common object. -/
def sameObject (a b : List (Nat × Option Nat)) : Bool :=
  a.any fun x => b.any fun y => x.1 == y.1 && (x.2.isNone || y.2.isNone || x.2 == y.2)

/-- No command on a common object was accepted earlier and is still to be performed (R522). -/
def mbxTurn (s : State) (m : Nat) : Bool :=
  (s.uszon.order.takeWhile (· != m)).all fun e =>
    !(mbxState s e == mbBusy && sameObject (mbxObjects s e) (mbxObjects s m))

/-- A write of MBX_CMD_m starts a command; while one runs, or Uszon does, it is discarded and DROPPED is set (R520). An
opcode outside the table completes with E_MBX_OPCODE (R527, DEDUCED, log entry 28). -/
def mbxCmdWrite (s : State) (m v : Nat) : State :=
  let st := mbxState s m
  if st = mbIdle ∨ st = mbDone then
    let s := rset s .mbxCmd 14 (m - 1) 0 (Reg.mbxCmd.spec.write 0 v)
    let s := mbxSet (mbxSet (mbxSet s m 47 32 (bits v 63 48)) m 4 4 0) m 3 0 mbBusy
    let s := { s with uszon := { s.uszon with order := s.uszon.order.filter (· != m) ++ [m] } }
    if mbxOpcodes.contains (bits v 15 0) then s else mbxFinish s m 0xF01 []
  else mbxSet s m 5 5 1

/-- A write of another register of a command mailbox (R520, R545, R546). -/
def mbxRegWrite (s : State) (m : Nat) (r : Reg) (i j v : Nat) : State :=
  let put (s : State) := rset s r 14 i j (r.spec.write (rget s r 14 i j) v)
  if r = .mbxCmd then mbxCmdWrite s m v
  else if r = .mbxStatus ∨ r = .mbxNotifyAddr ∨ r = .mbxNotifyData then put s
  else if mbxState s m = mbIdle ∨ mbxState s m = mbDone then put s
  else mbxSet s m 5 5 1

/-! ### Authentication (R528, R529) -/

/-- The nonce's bytes, and a key's. -/
def nonceBytes (s : State) : List Byte := toBytes 16 s.uszon.nonce.toNat
def keyBytes (k : BitVec 256) : List Byte := toBytes 32 k.toNat

/-- A mailbox's counter floor. -/
def mbxFloor (s : State) (m : Nat) : Nat := (mget 0 s.uszon.floors m).toNat

/-- What the tag covers (R528). -/
def mbxTagged (s : State) (m op len : Nat) : List Byte :=
  toBytes 2 op ++ [BitVec.ofNat 8 m] ++ toBytes 2 len ++ mbxBytes s m len
    ++ toBytes 8 (rget s .mbxAuthCtr 14 (m - 1)) ++ nonceBytes s

/-- The tag that a critical command must carry (R528). -/
def mbxTag (s : State) (key : BitVec 256) (m op len : Nat) : List Byte :=
  kmac256 (keyBytes key) (mbxTagged s m op len) 16 "KZ4 CMD"

/-- A floor that lets only KEY_ROLL pass (R529). -/
def floorExhausted (f : Nat) : Bool := decide (0xFFFFFFFFFFFFFFFE ≤ f)

/-- Checks a critical command under R529: the failing code, or the state with the floor raised. Without an owner key, and in
recovery, no tag is needed (R528, R533). -/
def mbxAuth (s : State) (m op len : Nat) : Nat × State :=
  match s.flash.keys.ownerKey with
  | none => (0, s)
  | some key =>
    if s.uszon.recovery then (0, s)
    else
      let ctr := rget s .mbxAuthCtr 14 (m - 1)
      let f := mbxFloor s m
      let tag := toBytes 8 (rget s .mbxAuthTag0 14 (m - 1)) ++ toBytes 8 (rget s .mbxAuthTag1 14 (m - 1))
      if floorExhausted f && !(op == 0x0702 && ctr == 0xFFFFFFFFFFFFFFFF) then
        (0xF0D, rfset s .secStatus 14 0 0 2 2 1)
      else if tag ≠ mbxTag s key m op len then (0xF09, s)
      else if ctr ≤ f then (0xF0A, s)
      else
        let s := { s with uszon := { s.uszon with floors := mput 0 s.uszon.floors m (w64 ctr) } }
        let s := if floorExhausted ctr then rfset s .secStatus 14 0 0 2 2 1 else s
        (0, mbxSet s m 4 4 1)

/-- A fresh device nonce (R530): every floor returns to 0 (R529). -/
def newNonce (s : State) (n : W128) : State :=
  rfset { s with uszon := { s.uszon with nonce := n, floors := [] } } .secStatus 14 0 0 2 2 0

/-! ### Running a command -/

/-- How a command leaves its checks: at once with a code and a response, or pending on an object. -/
inductive MbxRes where
  | done (code : Nat) (resp : List Byte)
  | pending (arg : Nat) (result : Option (Nat × List Byte))
  /-- Not finished yet: the mailbox stays BUSY. -/
  | stay

/-- What a row of the command set says of its request. -/
structure MbxSpec where
  op : Nat
  lenOk : Nat → List Byte → Bool
  argOk : List Byte → Bool
  needsMain : Bool

/-- A request of a fixed length. -/
def lenIs (n len : Nat) (_ : List Byte) : Bool := len == n

/-- Ends or suspends a command. -/
def mbxSettle (s : State) (m op : Nat) (r : MbxRes) : State :=
  match r with
  | .done code resp => mbxFinish s m code resp
  | .pending arg result =>
    let s := { s with uszon := { s.uszon with pendingB := mins s.uszon.pendingB m ⟨op, arg, result⟩ } }
    let s := mbxSet s m 3 0 mbPending
    if m = 30 then mctpRespond s else s
  | .stay => s

/-- The command that mailbox `m` holds is this row's: it is BUSY with this opcode, its turn has come, and Uszon runs. -/
def mbxHolds (s : State) (m op : Nat) : Bool :=
  (s.uszon.running || s.uszon.recovery) && 1 ≤ m && mbxState s m == mbBusy && bits (rget s .mbxCmd 14 (m - 1)) 15 0 == op
    && mbxTurn s m

/-- Uszon takes the command of mailbox `m`, makes the checks of R527 in their order, and runs it (DEDUCED, log entry 38). -/
def mbxRun (s : State) (m : Nat) (sp : MbxSpec) (run : State → List Byte → State × MbxRes) : State :=
  if !mbxHolds s m sp.op then s
  else
    let len := bits (rget s .mbxCmd 14 (m - 1)) 31 16
    if s.uszon.recovery && !(mbxRecovery.contains sp.op && (m ≤ 15 || m == 31)) then mbxFinish s m 0xF01 []
    else if !sp.lenOk len (mbxBytes s m len) then mbxFinish s m 0xF02 []
    else
      let (code, s) := if mbxCritical.contains sp.op then mbxAuth s m sp.op len else (0, s)
      if code ≠ 0 then mbxFinish s m code []
      else
        let req := mbxBytes s m len
        if !sp.argOk req then mbxFinish s m 0xF03 []
        else if sp.needsMain && !mainUp s then mbxFinish s m 0xF04 []
        else
          let (s, r) := run s req
          mbxSettle s m sp.op r

/-- The little-endian field of `n` bytes at offset `o` of a payload. -/
def fld (b : List Byte) (o n : Nat) : Nat := ofBytes ((b.drop o).take n)

/-- Bytes `o` to `o + n - 1` of a payload are zero. -/
def zeros (b : List Byte) (o n : Nat) : Bool := ((b.drop o).take n).all (· == 0)

end Sys2Proof.Machine
end

