-- ==== Sys2Proof/Machine/Domains.lean ====
section
/-!
DEFINITION. The reset domains (R34), the die-to-die connections (R21), the start of Uszon (R532) and of the main domain
(R562), and the holds of R568.
-/
namespace Sys2Proof.Machine

/-! ### Who may write (R11, R26) -/

/-- An agent reaches register space and is among a register's writers. A mailbox's owner is decided by `mbxOwns`. -/
def agentMay (a : Agent) (w : Writers) : Bool :=
  match a, w with
  | .host, .any => true
  | .core _, .any => true
  | .core _, .uszonCore => true
  | .uszon, .any => true
  | .uszon, .uszonCore => true
  | .uszon, .uszon => true
  | .host, .hif => true
  | .core _, .hif => true
  | .uszon, .hif => true
  | _, _ => false

/-! ### The links of R21 -/

/-- A link between a C-die and an M-base (R478). -/
def isMLink (die l : Nat) : Bool := (die ≤ 5 && 8 ≤ l) || 16 ≤ die

/-- The secondary M-link of a stack (R21). -/
def isSecondary (die l : Nat) : Bool := if die ≤ 5 then decide (10 ≤ l) else l == 1

/-- Modules of a UCIe link, slices of an M-link (R21, R478). -/
def linkWidth (die l : Nat) : Nat :=
  if isMLink die l then (if isSecondary die l then 8 else 32)
  else if die ≤ 5 then (if l ≤ 2 then 16 else if l = 5 then 8 else 4)
  else if isL die then 8
  else 4

/-- The rate of a link in the code of the identity message (R470): 24 GT/s with an X-die, else 32 GT/s. -/
def linkRate (die l : Nat) : Nat := if die = 14 ∨ die = 15 ∨ (die ≤ 5 ∧ l = 4) then 3 else 4

/-- Link STATE values (R482). -/
def lkDown : Nat := 1
def lkTraining : Nat := 2
def lkActive : Nat := 3
def lkRetraining : Nat := 4
def lkFenced : Nat := 5

/-- Bits of DLK_LINK_STATUS_l. -/
def lkF (s : State) (die l hi lo : Nat) : Nat := rf s .dlkLinkStatus die l 0 hi lo
def lkSet (s : State) (die l hi lo v : Nat) : State := rfset s .dlkLinkStatus die l 0 hi lo v
def lkState (s : State) (die l : Nat) : Nat := lkF s die l 3 0

/-- The key of a link end. -/
def lkKey (die l : Nat) : Nat := die * 16 + l
def lk (s : State) (die l : Nat) : LinkSt := mget LinkSt.reset s.links (lkKey die l)
def setLk (s : State) (die l : Nat) (v : LinkSt) : State := { s with links := mput LinkSt.reset s.links (lkKey die l) v }

/-- One end of a link carries traffic on the set `mask` (UCIe), or on `mask`'s slices (M-link, R482). -/
def linkActive (s : State) (die l mask : Nat) : State :=
  match linkPartner die l with
  | none => s
  | some (p, _) =>
    let popc := (List.range 32).foldl (fun n i => n + b2n (bit mask i)) 0
    let s := setLk s die l
      { lk s die l with mask := BitVec.ofNat 16 mask, fails := 0, fresh := false, slices := BitVec.ofNat 32 mask, before := popc, replay := 0 }
    let s := lkSet s die l 47 32 (if isMLink die l then popc else mask)
    let s := lkSet s die l 31 24 p
    let s := lkSet s die l 23 21 (if isMLink die l then 0 else linkRate die l)
    lkSet s die l 3 0 lkActive

/-- Both ends of a link train in full. -/
def linkFull (s : State) (die l : Nat) : State :=
  match linkPartner die l with
  | none => s
  | some (p, pl) =>
    let m := 2 ^ linkWidth die l - 1
    linkActive (linkActive s die l m) p pl m

/-- The link indices. -/
def linkList : List Nat := [0, 1, 2, 3, 4, 5, 8, 9, 10, 11]

/-! ### Holds (R568) -/

/-- Shows the latest standing hold in PHASE and HOLD (DEDUCED, log entry 36). -/
def showHold (s : State) : State :=
  match s.holds with
  | [] => rfset s .dlkBoot 14 0 0 11 8 0
  | c :: _ => rfset (setPhase s 8) .dlkBoot 14 0 0 11 8 c

/-- A hold begins. -/
def addHold (s : State) (c : Nat) : State := showHold { s with holds := c :: s.holds.filter (· != c) }

/-- A hold ends. -/
def dropHold (s : State) (c : Nat) : State := showHold { s with holds := s.holds.filter (· != c) }

/-- A main-domain start-up begins: PHASE DIES, and STARTS counts it (R561, R573). -/
def beginDies (s : State) : State :=
  let n := rf s .dlkBoot 14 0 0 47 32
  rfset (setPhase s 4) .dlkBoot 14 0 0 47 32 (Nat.min 0xFFFF (n + 1))

/-- Once no hold stands, the main domain goes on (R561, R567, R568): its start-up begins, or, with the rails off, Uszon starts the main
conversion while PWR_EN is asserted. A start-up that has failed stays FAILED (R564), and MOD_RESET_N that is low holds a start-up
with the rails good. Uszon acts at once (DEDUCED, log entry 36). -/
def startIfFree (s : State) : State :=
  if !s.holds.isEmpty then s
  else if s.uszon.startFailed then setPhase s 9
  else if s.pins.rails then (if s.pins.modResetN then beginDies s else addHold s 2)
  else setPhase s (if s.uszon.running && s.pins.pwrEn then 3 else 2)

/-! ### The main-domain reset (R34, R35, R46, R522) -/

/-- A register that the auxiliary domain keeps through a main-domain reset. -/
def auxAddr (a : Nat) : Bool :=
  match regAt (bits a 39 32) (bits a 31 0) with
  | some (r, _, _) => r.spec.aux
  | none => false

/-- The commands that act on a main-domain object (R522): contexts, connections, nodes and routes, dies, pacing, and the
counters that TEL_READ reads (DEDUCED, log entry 126). -/
def mainObject (op : Nat) : Bool :=
  [0x0004, 0x0101, 0x0102, 0x0103, 0x0201, 0x0202, 0x0203, 0x0204, 0x0301, 0x0404].contains op

/-- Ends the commands on main-domain objects, pending or not yet performed, with E_MBX_RESET (R522). -/
def mbxMainReset (s : State) : State :=
  (List.range 31).foldl (fun s i =>
    let m := i + 1
    if (mbxState s m == mbBusy || mbxState s m == mbPending) && mainObject (bits (rget s .mbxCmd 14 i) 15 0) then
      mbxFinish s m 0xF07 []
    else s) s

/-- Resets everything outside the auxiliary domain: memory contents (R35, DESIGN CHOICE, log entry 7), contexts, connections and jobs
are gone; the host queues stop without entries (DEDUCED, log entry 24). -/
def mainReset (s : State) : State :=
  let s := mbxMainReset s
  let compat := rf s .dlkStraps 14 0 0 0 0
  let s := { s with
    regs := s.regs.filter (fun e => auxAddr e.1), copies := [], copyHeld := [], tiles := [], tileClocks := [], dcc := [], l1Fills := [],
    dccFills := [], grottos := [], mem := [], memPoison := [], memErrs := [], homes := [], answers := [], tileAnswers := [], eccCorrected := [], dir := [],
    txns := [], cohNet := [], caches := [], wbBuf := [], predictor := [], amoResults := [], cores := [], heldStacks := [], lossFenced := [],
    gatedQuads := [], jobs := [], rrNext := [], hostSubmits := [], tlb := [], ports := [], conns := [], delivered := [],
    rxConsumed := [], rxProduced := [], holdDies := [], host := { s.host with queues := [], narrow := false }, links := [],
    rim := { Rimstone.reset with readings := s.rim.readings, failed := s.rim.failed, idleMs := s.rim.idleMs },
    pins := { s.pins with modReady := false } }
  let s := rfset s .hifCap 14 0 0 0 0 compat
  dieList.foldl (fun s n => rfset (setDieSt s n dsReset) .dlkDieState 14 0 n 16 16 0) s

/-! ### Tiles enabled and fenced (R405) -/

/-- JOB_TILES_w and JOB_FENCED_w bits of a module-wide tile. -/
def tileEnabled (s : State) (t : Nat) : Bool := bit (rget s .jobTiles (t / 128) 0 (t % 128 / 64)) (t % 64)
def tileFenced (s : State) (t : Nat) : Bool := bit (rget s .jobFenced (t / 128) 0 (t % 128 / 64)) (t % 64)
/-- A tile that is present: enabled and not fenced. -/
def tilePresent (s : State) (t : Nat) : Bool := tileEnabled s t && !tileFenced s t

/-- Every module-wide tile number of a C-die. -/
def dieTiles (k : Nat) : List Nat := (List.range 128).map fun i => 128 * k + i
/-- The four tiles of a quad (R28). -/
def quadTiles (k q : Nat) : List Nat :=
  let r := 2 * (q / 4)
  let c := 2 * (q % 4)
  [128 * k + 8 * r + c, 128 * k + 8 * r + c + 1, 128 * k + 8 * (r + 1) + c, 128 * k + 8 * (r + 1) + c + 1]
/-- The quad of a site (R28). -/
def quadOf (site : Nat) : Nat := (site / 8 / 2) * 4 + site % 8 / 2
/-- The lowest site of a quad, under which the model keeps the registers that all four sites show (R242). -/
def quadSite (q : Nat) : Nat := q / 4 * 16 + q % 4 * 2

/-- Where an instance of a register is kept: the four tiles of a quad show the same decoder registers (R29). -/
def regHome (r : Reg) (i : Nat) : Nat := if r == .hlxDecSkips || r == .hlxDecBytes then quadSite (quadOf i) else i

/-- Enabled, unfenced tiles of a C-die, and of the module. -/
def dieTileCount (s : State) (k : Nat) : Nat :=
  (List.range 2).foldl (fun n w =>
    let v := rget s .jobTiles k 0 w - (rget s .jobTiles k 0 w &&& rget s .jobFenced k 0 w)
    (List.range 64).foldl (fun n i => n + b2n (bit v i)) n) 0
def moduleTiles (s : State) : Nat := (List.range 6).foldl (fun n k => n + dieTileCount s k) 0

/-- Uszon sets the tile counts of JOB_CAP (R401). -/
def setTileCounts (s : State) : State :=
  let m := moduleTiles s
  (List.range 6).foldl (fun s k => rfset (rfset s .jobCap k 0 0 41 32 m) .jobCap k 0 0 23 16 (dieTileCount s k)) s

/-- Sets or clears a JOB_FENCED_w bit. -/
def setFenced (s : State) (t : Nat) (v : Bool) : State :=
  rfset s .jobFenced (t / 128) 0 (t % 128 / 64) (t % 64) (t % 64) (b2n v)

/-- Fences a tile for the loss of its die: the fence ends with the die's rejoin, unless the tile was fenced before (R405). -/
def lossFence (s : State) (t : Nat) : State :=
  if tileFenced s t then s else { setFenced s t true with lossFenced := kins s.lossFenced t }

/-- Enters tiles in Uszon's fence record (R405). -/
def fenceEnter (s : State) (ts : List Nat) : State :=
  { s with flash := { s.flash with fenceRecord := ts.foldl kins s.flash.fenceRecord } }

/-! ### Uszon's start (R530, R532, R533) -/

/-- The valid record of the monotonic store with the higher sequence number (R535): sequence, reservation, SVN_MIN. -/
def storeRecord (s : State) : Nat × Nat × Nat :=
  if s.flash.copyA.1 < s.flash.copyB.1 then s.flash.copyB else s.flash.copyA

/-- Word `i` of an image's header (R531). -/
def imgWord (img : List Byte) (i : Nat) : Nat := ofBytes ((img.drop (8 * i)).take 8)

/-- The image in a flash region: header, body and signature, erased bytes reading 0xFF (R531). -/
def imgWhole (img : List Byte) : List Byte :=
  let n := 4096 + bits (imgWord img 1) 31 0 + 2820
  (img ++ List.replicate (n - img.length) 0xFF).take n

/-- The bytes of a stored image. -/
def imgBytes (o : Option (List Byte)) : List Byte := o.getD Config.factoryImage

/-- The ROM's checks of an image, in the order of R532: 0, or the code of the first that fails (R550). -/
def imgCheck (img : List Byte) (svnMin : Nat) : Nat :=
  let w0 := imgWord img 0
  let body := bits (imgWord img 1) 31 0
  let svn := bits (imgWord img 1) 63 32
  if bits w0 31 0 ≠ 0x5746344B ∨ bits w0 47 32 ≠ 1 ∨ body % 4 ≠ 0 ∨ body < 4096 ∨ 786432 < body then 0xF0E
  else if svn < svnMin then 0xF10
  else if !Config.imageSignatureOk (imgWhole img) then 0xF0F
  else 0

/-- Every command mailbox goes to a state. -/
def mbxAll (s : State) (v : Nat) : State := (List.range 31).foldl (fun s i => mbxSet s (i + 1) 3 0 v) s

/-- Uszon leaves reset: a fresh nonce (R530), SVN_MIN and OWNED are shown, and every command mailbox is idle. -/
def romPrepare (s : State) (nonce : W128) : State :=
  let s := newNonce s nonce
  mbxAll (rfset (rfset s .secStatus 14 0 0 63 32 (storeRecord s).2.2) .secStatus 14 0 0 0 0 (b2n s.flash.keys.ownerKey.isSome)) mbIdle

/-- The body of an image (R531). -/
def imgBody (img : List Byte) : List Byte := (img.drop 4096).take (bits (imgWord img 1) 31 0)

/-- The ROM starts the firmware (R532): PHASE is FIRMWARE, and signing goes on at the reserved index (R535). -/
def romFirmware (s : State) : State :=
  let s := rfset s .secStatus 14 0 0 1 1 0
  let s := { s with
    uszon := { s.uszon with running := true, recovery := false, image := s.flash.image, pendingB := [], order := [],
                            signIndex := (storeRecord s).2.1, report := [], fwOpen := false, fwSize := none, fwReceived := 0 },
    rim := { s.rim with idleMs := s.flash.idleMs.getD 10 } }
  setPhase (dropHold s 5) 2

/-- The ROM starts the recovery loader (R533), which E_SEC_RECOVERY records (DEDUCED, log entry 27). The host port comes up: one that
was in reset leaves it, with STRAP_COMPAT sampled (R560). -/
def romRecovery (s : State) (compat : Bool) : State :=
  let s := if s.pins.pwrGood || s.uszon.recovery then s
    else
      let s := hostPortReset s compat
      { s with host := { s.host with training := s.pins.perstN } }
  let s := rfset (rfset s .secStatus 14 0 0 1 1 1) .secStatus 14 0 0 31 16 0xF15
  let s := { s with
    uszon := { s.uszon with running := false, recovery := true, image := none, pendingB := [], order := [], report := [],
                            fwOpen := false, fwSize := none, fwReceived := 0 },
    pins := { s.pins with alertN := false } }
  addHold (report s 0xF15 0xFF 1 0 0) 5

/-- Uszon's ROM runs (R532): an image that passes its checks starts the firmware; a failed check, an update without a commit
(R534), or STRAP_RECOVERY, the recovery loader. -/
def romBoot (s : State) (nonce : W128) (compat : Bool) : State :=
  let s := romPrepare s nonce
  if s.flash.good = true ∧ imgCheck (imgBytes s.flash.image) (storeRecord s).2.2 = 0 ∧ rf s .dlkStraps 14 0 0 9 9 = 0 then romFirmware s
  else romRecovery s compat

end Sys2Proof.Machine
end

