-- ==== Sys2Proof/Machine/Training.lean ====
section
/-!
DEFINITION. The training of a UCIe link (R469-R477): the identity messages, one attempt, mismatches and fences; and which dies the
links join to the mesh (R21, R37).
-/
namespace Sys2Proof.Machine

/-- The modules of a mask. -/
def popMask (v : Nat) : Nat := (List.range 32).foldl (fun n i => n + b2n (bit v i)) 0

/-- Applies a change to both ends of a link. -/
def bothEnds (s : State) (die l : Nat) (f : State → Nat → Nat → State) : State :=
  match linkPartner die l with
  | none => s
  | some (p, pl) => f (f s die l) p pl

/-- Logs a link code at an end and reports it (R484), with the link index in INFO0. -/
def linkLog (s : State) (die l code : Nat) : State := report (lkSet s die l 63 48 code) code die 1 l 0

/-- The end's STATE. -/
def linkGoes (st : Nat) (s : State) (die l : Nat) : State := lkSet s die l 3 0 st

/-- A die whose links may train: it is active, or Uszon is rejoining it (R42). -/
def linkDie (s : State) (d : Nat) : Bool := dieActive s d || (dieSt s d == dsRejoining && !anyFatal s)

/-! ### The mesh (R21, R37, R474) -/

/-- A link end that carries traffic, or will again once its retrain ends (R474). -/
def linkCarries (s : State) (die l : Nat) : Bool := lkState s die l == lkActive || lkState s die l == lkRetraining

/-- The row and column links of the C-dies (R21): a die, its link index, and the die at the other end. -/
def meshLinks : List (Nat × Nat × Nat) := [(0, 1, 1), (1, 1, 2), (3, 1, 4), (4, 1, 5), (0, 2, 3), (1, 2, 4), (2, 2, 5)]

/-- A group of C-dies with those that one link more joins to it. -/
def meshJoin (links : List (Nat × Nat × Nat)) (ds : List Nat) : List Nat :=
  links.foldl (fun ds e => if ds.contains e.1 then kins ds e.2.2 else if ds.contains e.2.2 then kins ds e.1 else ds) ds

/-- The mesh: the largest group of active C-dies that links in service join, of two equal ones that of the lower index (DESIGN
CHOICE, log entry 163). -/
def mesh (s : State) : List Nat :=
  let up := (List.range 6).filter (dieActive s)
  let links := meshLinks.filter fun e => up.contains e.1 && up.contains e.2.2 && linkCarries s e.1 e.2.1
  up.foldl (fun best k =>
    let g := (List.range 5).foldl (fun ds _ => meshJoin links ds) [k]
    if best.length < g.length then g else best) []

/-- A die has a path into the mesh: an active C-die lies in it, and any other die has a link that carries traffic to one that
does (R37, R474). A link that trains counts for a die that is rejoining. -/
def hasPath (s : State) (die : Nat) : Bool :=
  let m := mesh s
  if die ≤ 5 ∧ dieActive s die = true then m.contains die
  else (if die ≤ 5 then [0, 1, 2] else [0, 1]).any fun l =>
    (linkCarries s die l || (lkState s die l == lkTraining && dieSt s die == dsRejoining)) &&
      match linkPartner die l with
      | some (p, _) => m.contains p
      | none => false

/-! ### Identity messages (R470, R471) -/

/-- DIETYPE of a die (R470). -/
def dieType (n : Nat) : Nat := if n ≤ 5 then 1 else if n ≤ 9 then 2 else if n ≤ 13 then 3 else 4

/-- An end's MASK comes from this attempt's own test: in a full retrain, and in a retrain of a running link (R472-R474). -/
def testsNow (s : State) (die l : Nat) : Bool := (lk s die l).fresh || lkState s die l == lkRetraining

/-- The identity message that an end sends (R470), when the modules of `tested` pass its pattern test. In a retrain that is not
full, a module left out before stays out (R473); an end that does not test sends the MASK of its earlier training. -/
def identityOf (s : State) (die l tested : Nat) : Identity :=
  let e := lk s die l
  let t := BitVec.ofNat 16 (tested &&& (2 ^ linkWidth die l - 1))
  { proto := 1, dieType := BitVec.ofNat 4 (dieType die), dieIndex := BitVec.ofNat 8 die, link := BitVec.ofNat 4 l,
    modules := BitVec.ofNat 5 (linkWidth die l), rate := if die = 14 ∨ die = 15 then 3 else 4,
    mask := if e.fresh then t else if testsNow s die l then t &&& e.mask else e.mask,
    retained := !testsNow s die l }

/-- The check of a message against the fixed floorplan (R471): it comes from link `l` of `die`. -/
def identityOk (die l : Nat) (m : Identity) : Bool :=
  m.proto == 1 && m.dieType.toNat == dieType die && m.dieIndex.toNat == die && m.link.toNat == l && m.modules.toNat == linkWidth die l

/-- The links of a lost die leave the active state and are held fenced at both ends (R38): nothing waits for replay any more. -/
def linksFenced (s : State) (d : Nat) : State :=
  linkList.foldl (fun s l => bothEnds s d l fun s d i => setLk (linkGoes lkFenced s d i) d i { lk s d i with replay := 0 }) s

/-! ### One attempt (R472-R477) -/

/-- Three attempts have failed (R474): the link is DOWN, and what waits for replay goes another way. -/
def linkDown (s : State) (die l : Nat) : State :=
  let s := bothEnds s die l fun s d i => setLk (linkGoes lkDown s d i) d i { lk s d i with fails := 0, replay := 0 }
  bothEnds s die l fun s d i => linkLog s d i 0xD01

/-- One attempt fails; the third in a row sends the link DOWN (R474). -/
def linkFail (s : State) (die l : Nat) : State :=
  let n := (lk s die l).fails + 1
  if 3 ≤ n then linkDown s die l
  else bothEnds s die l fun s d i => setLk s d i { lk s d i with fails := n }

/-- An end counts a width mismatch in the 1 s that the first one began (R476, R477), and tests every module afresh next. -/
def mismatchCounted (s : State) (d i : Nat) : State :=
  let e := lk s d i
  let n := lkF s d i 17 16
  let restart := n == 0 || decide (e.firstMismatch + 1000000000 < s.master.toNat)
  let s := setLk s d i { e with fresh := true, firstMismatch := if restart then s.master.toNat else e.firstMismatch }
  lkSet s d i 17 16 (if restart then 1 else n + 1)

/-- A width mismatch (R475-R477): a full retrain, or, where either end has counted a third, a fence of the link. -/
def linkMismatch (s : State) (die l : Nat) : State :=
  let s := bothEnds s die l mismatchCounted
  let third := lkF s die l 17 16 == 3 || (linkPartner die l).any fun p => lkF s p.1 p.2 17 16 == 3
  bothEnds s die l fun s d i =>
    if third then linkLog (setLk (linkGoes lkFenced s d i) d i { lk s d i with fenced := true, replay := 0 }) d i 0xD03
    else count (linkLog (linkGoes lkRetraining s d i) d i 0xD05) .dlkRetrains d i 0 1

/-- A set is adopted at both ends (R471): an end that trains with fewer modules than before logs E_DLK_DEGRADED (R473), and what
waits for replay is replayed and counted (R474, R483). -/
def linkAdopt (s : State) (die l set : Nat) : State :=
  bothEnds s die l fun s d i =>
    let e := lk s d i
    let s := linkActive (if e.replay = 0 then s else count s .dlkRetries d i 0 e.replay) d i set
    if popMask set < e.before then linkLog s d i 0xD04 else s

/-- A failed check keeps the link DOWN, and the end that made it tries no more until RETRAIN is written (R471). -/
def linkParam (s : State) (die l : Nat) : State :=
  let s := setLk s die l { lk s die l with stopped := true }
  linkLog (bothEnds s die l fun s d i => setLk (linkGoes lkDown s d i) d i { lk s d i with fails := 0, replay := 0 }) die l 0xD02

/-- Steps 3 and 4 of an attempt at an end of a link to (`p`, `pl`): the end sent `own` and got `got`; `full` when a full retrain on
both sides goes before, and `confirm` when the second pattern test passes on both sides. -/
def linkExchange (s : State) (die l p pl : Nat) (own got : Identity) (full confirm : Bool) : State :=
  let set := (own.mask &&& got.mask).toNat
  if !identityOk p pl got then linkParam s die l
  else if Nat.min own.rate.toNat got.rate.toNat < linkRate die l then linkFail s die l
  else if !full && own.mask != got.mask then linkMismatch s die l
  else if set = 0 then linkFail s die l
  else if !confirm then linkMismatch s die l
  else linkAdopt s die l set

/-- A link may train: both of its dies are up, no identity check has stopped it (R471), and neither end is ACTIVE or FENCED
(DESIGN CHOICE, log entry 138). -/
def mayTrain (s : State) (die l : Nat) : Bool :=
  let ready (d i : Nat) : Bool :=
    let st := lkState s d i
    linkDie s d && !(lk s d i).stopped && (st == lkDown || st == lkTraining || st == lkRetraining)
  match linkPartner die l with
  | some (p, pl) => !isMLink die l && ready die l && ready p pl
  | none => false

/-- An end sends its identity message. -/
def linkSends (s : State) (die l : Nat) (m : Identity) : State := setLk s die l { lk s die l with sent := some m }

/-- One attempt (R472), with what the two ends' pattern tests and the confirmation find. -/
def linkAttempt (s : State) (die l : Nat) (a : Attempt) : State :=
  match linkPartner die l with
  | none => s
  | some (p, pl) =>
    if !mayTrain s die l then s
    else
      let own := identityOf s die l a.mask.toNat
      let theirs := identityOf s p pl a.partnerMask.toNat
      let s := linkSends (linkSends s die l own) p pl theirs
      linkExchange s die l p pl own theirs ((lk s die l).fresh && (lk s p pl).fresh) a.confirm

/-- An attempt that meets nothing wrong. -/
def goodAttempt : Attempt := ⟨0xFFFF, 0xFFFF, true⟩

/-- A link that still trains makes its attempt with every module good at both ends, and the full retrain that a neighbour's
narrower mask forces (R475, R476). -/
def linkFinish (s : State) (die l : Nat) : State := linkAttempt (linkAttempt s die l goodAttempt) die l goodAttempt

/-- Slices of an M-link carry traffic at both ends (R480), none of them where it has no good slice; an end that has fewer than
before logs E_DLK_DEGRADED (R473). -/
def slicesAdopt (s : State) (die l slices : Nat) : State :=
  let m := slices % 2 ^ linkWidth die l
  bothEnds s die l fun s d i =>
    let before := (lk s d i).before
    let s := linkActive s d i m
    let s := if m = 0 then linkGoes lkDown s d i else s
    if popMask m < before then linkLog s d i 0xD04 else s

/-- The good slices of an M-base's primary link (0) or secondary link (1): a link that does not carry traffic has none. -/
def goodSlices (s : State) (die l : Nat) : Nat := if lkState s die l = lkActive then lkF s die l 37 32 else 0

/-- A stack whose primary link has fewer than 8 good slices while its C-die is active goes over to its secondary link, where
that has a slice to take it (R480). -/
def stackPlaced (s : State) (m : Nat) : State :=
  let d := 16 + m
  if dieActive s (m / 2) && decide (goodSlices s d 0 < 8) && decide (0 < goodSlices s d 1)
      && rf s .dlkDieState 14 0 d 16 16 == 0 then setSecondary s d true else s

end Sys2Proof.Machine
end

