-- ==== Sys2Proof/Machine/Boot.lean ====
section
/-!
DEFINITION. Power, resets and the start-up of the module (R551-R573), the TAP of X0 (R571), and the synchronisation of
timebase copies (R33).
-/
namespace Sys2Proof.Machine

/-- The module with auxiliary power just off: only what the flash holds survives (R568). -/
def coldState (s : State) : State :=
  { State.reset with
    flash := s.flash, freeCount := s.freeCount,
    host := { HostIf.reset with sent := s.host.sent }, rim := { Rimstone.reset with readings := s.rim.readings },
    pins := { Pins.reset with perstN := s.pins.perstN }, pending := s.pending, nextId := s.nextId }

/-- AUX_POWER_APPLY (R34, R530, R561, R570): the auxiliary domain powers up in its reset, with a fresh nonce. -/
def execAuxPowerApply (nonce : W128) (pwrEn modResetN : Bool) (s : State) : Out :=
  .next (if s.pins.aux then s
    else
      let s := coldState s
      { s with
        pins := { s.pins with aux := true, auxReset := true, pwrEn := pwrEn, modResetN := modResetN },
        uszon := { s.uszon with nonce := nonce } })

/-- AUX_RESET_RELEASE (R560, R561): STRAP_RECOVERY and STRAP_I3C_SA are sampled and the ROM runs; the firmware finds PWR_EN as it
stands. The nonce drawn when power was applied stands (R530). -/
def execAuxResetRelease (straps : AuxStraps) (sa : BitVec 3) (s : State) : Out :=
  .next (if s.pins.aux && s.pins.auxReset then
      let s := { s with pins := { s.pins with auxReset := false } }
      let s := rfset (rfset s .dlkStraps 14 0 0 9 9 (b2n straps.recovery)) .dlkStraps 14 0 0 6 4 sa.toNat
      startIfFree (romBoot s s.uszon.nonce straps.compat)
    else s)

/-- AUX_POWER_REMOVE (R568): Uszon and the main conversion stop. -/
def execAuxPowerRemove (s : State) : Out := .next (if s.pins.aux then coldState s else s)

/-- PWR_EN_ASSERT (R561, R568): the hold of PWR_EN ends, and the firmware starts the converter if no hold stands. -/
def execPwrEnAssert (s : State) : Out :=
  .next (
    let s := { s with pins := { s.pins with pwrEn := true } }
    if s.holds.contains 1 then startIfFree (dropHold s 1)
    else if s.uszon.running && phase s == 2 then startIfFree s
    else s)

/-- RAILS_GOOD (R560, R561): tm0. PWR_GOOD is asserted, the host-port domain leaves reset with STRAP_COMPAT sampled, and the
main-domain start-up begins unless MOD_RESET_N holds it (DEDUCED, log entry 41). -/
def execRailsGood (compat : Bool) (s : State) : Out :=
  .next (if phase s == 3 && s.pins.pwrEn then
      let s := { s with pins := { s.pins with rails := true, pwrGood := true } }
      let s := hostPortReset s compat
      startIfFree { s with host := { s.host with training := s.pins.perstN } }
    else s)

/-! ### The main-domain start-up (R562) -/

/-- A failed start-up (R564): the main domain is held in reset, PHASE and CODE say so, ALERT_N is asserted, and E_DIE_FATAL
is reported with the phase in INFO0 (DEDUCED, log entry 45). -/
def startFail (s : State) (die ph : Nat) : State :=
  let s := mainReset s
  let s := { s with uszon := { s.uszon with startFailed := true } }
  let s := rfset (setPhase s 9) .dlkBoot 14 0 0 63 48 0xD81
  report { s with pins := { s.pins with alertN := false } } 0xD81 die 3 ph 0

/-- One die becomes active: its state, its timebase copy and its copied settings (R33, R46). -/
def dieGoesActive (s : State) (n : Nat) : State :=
  let s := rfset (setDieSt s n dsActive) .dlkDieState 14 0 n 15 8 0
  if n = 14 then s else { s with copies := mput 0 s.copies n s.master, copyHeld := kdel s.copyHeld n }

/-- One die is left lost at start-up with a cause, its registers as its reset left them and its links fenced (R37, R38, R46, R564). -/
def dieLeftLost (s : State) (n cause : Nat) : State :=
  let s := { s with regs := s.regs.filter (fun e => bits e.1 39 32 != n), copies := mdel s.copies n, copyHeld := kdel s.copyHeld n }
  let c := rf s .dlkDieState 14 0 n 47 32
  linksFenced (rfset (rfset (setDieSt s n dsLost) .dlkDieState 14 0 n 23 20 cause) .dlkDieState 14 0 n 47 32 (Nat.min 0xFFFF (c + 1))) n

/-- INV_ALL and enable of the die cache and the tile L1s of a C-die (R297, R298, R562 step 6). -/
def enableCaches (s : State) (k : Nat) : State :=
  let s := (List.range 128).reverse.foldl (fun s i =>
    if tileEnabled s (128 * k + i) then rset s .l1cCtl k i 0 0x5 else s) s
  rset (rfset s .dccCtl k 0 0 0 0 1) .dccStatus k 0 0 0x3

/-- RIM_STATUS.CODE shows the last code that an agent logged, and Uszon reports it (R510, R522). -/
def rimLog (s : State) (d code info : Nat) : State :=
  report (if dieActive s d then rfset s .rimStatus d 0 0 63 48 code else s) code d 1 info 0

/-! ### Islands that change frequency (R487, R493, R511) -/

/-- The variable islands of a die and their slowest step (R487): tile quads and core islands. -/
def islandCount (d : Nat) : Nat := if d ≤ 5 then 32 else if d = 8 ∨ d = 9 then 16 else 0
def slowest (d : Nat) : Nat := if d ≤ 5 then 17 else 20
def islandReg (d : Nat) : Reg := if d ≤ 5 then .rimIslandC else .rimIslandP
def isl (s : State) (d n hi lo : Nat) : Nat := rf s (islandReg d) d 0 n hi lo
def setIsl (s : State) (d n hi lo v : Nat) : State := rfset s (islandReg d) d 0 n hi lo v
def isStretched (s : State) (d n : Nat) : Bool := s.rim.stretched.contains (64 * d + n)

/-- The TARGET in force: the slowest of CAP, FMAX and the thermal step. -/
def wanted (s : State) (d n : Nat) : Nat := Nat.max (Nat.max (isl s d n 20 16) (isl s d n 28 24)) (mget 0 s.rim.thermal d)

/-- A changed target is taken over, or deferred while the island's droop response is active. -/
def retarget (s : State) (d n : Nat) : State :=
  if isl s d n 12 8 = wanted s d n then s
  else if isStretched s d n then setIsl s d n 5 5 1
  else setIsl s d n 12 8 (wanted s d n)

def retargetAll (s : State) (d : Nat) : State := (List.range (islandCount d)).foldl (fun s n => retarget s d n) s

/-- The flash settings of a die's islands (R495), which their TARGET follows (R487). -/
def loadTrims (s : State) (k : Nat) : State :=
  let s := (List.range 32).foldl (fun s i =>
    if k ≤ 5 then
      rfset (rfset s .rimIslandC k 0 i 47 40 (mget 0 s.flash.trims (64 * k + i))) .rimIslandC k 0 i 28 24
        (mget 0 s.flash.fmax (64 * k + i))
    else if (k = 8 ∨ k = 9) ∧ i < 16 then
      rfset (rfset s .rimIslandP k 0 i 47 40 (mget 0 s.flash.trims (64 * k + i))) .rimIslandP k 0 i 28 24
        (mget 0 s.flash.fmax (64 * k + i))
    else s) s
  retargetAll s k

/-- The generator tests of R263 on an active C-die: a failed Dripstone reads FAILED and keeps TABLE as its reset left it;
after a pass TABLE is what the system stored, else 0. -/
def generatorTest (s : State) (k : Nat) (dripBad : Bool) : State :=
  let s := rfset s .drpStatus k 0 0 63 63 (b2n dripBad)
  if dripBad then s else rfset s .drpRngCfg k 0 0 0 0 (b2n s.flash.table)

/-- The settings that Uszon applies from flash (R562 step 6): pacing, budget and power group. -/
def applyFlash (s : State) : State :=
  let s := match s.flash.pace with
    | none => s
    | some v => (List.range 6).foldl (fun s k => rfset s .rimPaceCtl k 0 0 47 0 v.toNat) s
  let s := match s.flash.budget with
    | none => s
    | some (lim, home, floor) =>
      rfset (rfset (rfset s .rimModBudget 14 0 0 63 48 lim) .rimModBudget 14 0 0 31 16 home) .rimModBudget 14 0 0 15 0 floor
  match s.flash.groupCfg with
  | none => s
  | some (g, step, ps) =>
    { s with rim := { s.rim with group := some g, g := step, partners := ps.map Partner.new } }

/-- A released core leaves reset in machine mode at `vec`, its caches invalidated and its predictor at 0 (R566). -/
def releaseCore (s : State) (a vec : Nat) : State :=
  { s with
    cores := mput CoreSt.reset s.cores a { released := true, machine := true, vec := vec, reservation := none, amo := none, cmo := [] },
    caches := s.caches.filter (fun e => e.1 / 2 ^ 41 != a), wbBuf := s.wbBuf.filter (fun e => e.1 / 2 ^ 41 != a),
    predictor := s.predictor.filter (fun e => e.1 / 256 != a) }

/-- The attempts that a start-up's result names for a link, from the side of its end (`die`, `l`). -/
def attemptsOf (r : StartupResult) (die l p pl : Nat) : List Attempt :=
  r.links.flatMap fun e =>
    if dieIdx e.1.die = die ∧ e.1.index.val = l then e.2
    else if dieIdx e.1.die = p ∧ e.1.index.val = pl then e.2.map fun a => ⟨a.partnerMask, a.mask, a.confirm⟩
    else []

/-- The slices of a stack's primary or secondary M-link that train: those that the result names, else all. -/
def slicesOf (r : StartupResult) (m : Nat) (secondary : Bool) : Nat :=
  ((r.slices.find? fun e => e.1.val == m && e.2.1 == secondary).elim 0xFFFFFFFF fun e => e.2.2.toNat)

/-- A UCIe link trains at bring-up: the attempts that do not go well, then one that does (R472-R477). -/
def linkBringUp (s : State) (die l : Nat) (as_ : List Attempt) : State :=
  let s := bothEnds s die l (linkGoes lkTraining)
  linkFinish (as_.foldl (fun s a => linkAttempt s die l a) s) die l

/-- The links of the module train, each from the end with the lower die index (R562 steps 2 and 3). -/
def linksBringUp (s : State) (r : StartupResult) : State :=
  dieList.foldl (fun s n => linkList.foldl (fun s l =>
    match linkPartner n l with
    | some (p, pl) =>
      if p < n then s
      else if isMLink n l then slicesAdopt s p pl (slicesOf r (p - 16) (pl == 1))
      else linkBringUp s n l (attemptsOf r n l p pl)
    | none => s) s) s

/-- C-dies and L-dies without a link to the mesh are left lost (R37, R564): each round can cut off others. -/
def startLeaves (s : State) : State :=
  (List.range 6).foldl (fun s _ => ([0, 1, 2, 3, 4, 5, 10, 11, 12, 13] : List Nat).foldl (fun s d =>
    if dieActive s d && !hasPath s d then dieLeftLost s d (if isL d && !dieActive s (cDieOf d) then 6 else 3) else s) s) s

/-- A P-die, an X-die or an M-base that has no link to the mesh (R564). -/
def cutOff (s : State) : Option Nat := (dieList.filter fun n => !isC n && !isL n).find? fun n => !hasPath s n

/-- The C-dies and L-dies that a start-up has left lost. -/
def leftLost (s : State) : List Nat := dieList.filter fun n => dieSt s n == dsLost

/-- The dies and links of a start-up (R562 steps 1-3). -/
def startDies (s : State) (r : StartupResult) : State := startLeaves (linksBringUp (dieList.foldl dieGoesActive s) r)

/-- The memory of a start-up (R562 step 4, R480): a stack whose C-die is lost, or whose primary M-link is narrow, is on its secondary
M-link. -/
def startMemory (s : State) (r : StartupResult) : State :=
  let s := (List.range 12).foldl (fun s m =>
    let s := if dieActive s (m / 2) then stackPlaced s m else setSecondary s (16 + m) true
    let s := rfset (rfset s .memCfg (16 + m) 0 0 8 8 (b2n r.memMode)) .memCfg (16 + m) 0 0 63 63 1
    rfset s .memStatus (16 + m) 0 0 0 0 1) s
  (List.range 2).foldl (fun s x => (List.range 12).foldl (fun s n => rfset s .lpdStatus (14 + x) n 0 0 0 1) s) s

/-- The tests and settings of a start-up (R562 step 6): tiles enabled and fenced (R405, R263), caches, generators. -/
def startTests (s : State) (r : StartupResult) (lost : List Nat) : State :=
  let s := (List.range 6).foldl (fun s k => (List.range 2).foldl (fun s w =>
    rset s .jobTiles k 0 w ((List.range 64).foldl (fun v i =>
      if r.badTiles.any (fun t => t.val == 128 * k + 64 * w + i) then v else v + 2 ^ i) 0)) s) s
  let failed := (r.badQuads.flatMap fun e => quadTiles e.1.val e.2.val) ++ r.badFlowstone.map (·.val)
  let s := fenceEnter s (failed.filter fun t => !lost.contains (t / 128))
  let s := s.flash.fenceRecord.foldl (fun s t => setFenced s t true) s
  let s := lost.foldl (fun s k => if k ≤ 5 then (dieTiles k).foldl lossFence s else s) s
  let s := setTileCounts s
  let s := (List.range 6).foldl (fun s k =>
    if lost.contains k then s
    else generatorTest (enableCaches s k) k (r.badDripstone.any fun d => d.val == k)) s
  applyFlash (dieList.foldl loadTrims s)

/-- The tiles that are not disabled at manufacture, which JOB_TILES_w enables (R4). -/
def goodTiles (r : StartupResult) : Nat :=
  ((List.range 768).filter fun t => !(r.badTiles.any fun b => b.val == t)).length

/-- MAIN_STARTUP (R562-R566): it runs once the main domain has been let go, and ends with MOD_READY or with a failure. Uszon copies
the boot stage of the running image to address 0 and releases core 0. DESIGN CHOICE (log entry 98): where several dies have no
link to the mesh, DIE of the E_DIE_FATAL record names the one with the lowest index. -/
def execMainStartup (r : StartupResult) (s : State) : Out :=
  .next (if !(phase s == 4 && s.pins.rails && s.pins.modResetN && s.holds.isEmpty) then s
    else
      let s := rfset s .dlkStraps 14 0 0 8 8 (b2n r.memMode)
      match r.failure with
      | some (d, ph) => startFail s (dieIdx d) ph.toNat
      | none =>
        let s := startDies s r
        match cutOff s with
        | some d => startFail s d 4
        | none =>
          let s := startTests (startMemory s r) r (leftLost s)
          if goodTiles r < 736 then startFail s 0xFF 6
          else
            let s := rfset s .dlkCoreRelease 8 0 0 0 0 1
            let s := releaseCore s 0 0
            let stage := Config.bootStage (imgBody (imgBytes s.uszon.image))
            let s := { s with mem := (List.range stage.length).foldl (fun m i => mput 0 m i (stage.getD i 0)) s.mem }
            let s := rfset (setPhase s 7) .dlkBoot 14 0 0 31 16 (Nat.min 0xFFFF r.elapsedMs)
            { s with pins := { s.pins with modReady := true, alertN := true } })

/-- PWR_EN_DEASSERT (R568, R569): with the rails on or coming, jobs end with no record, the main domain is held in reset
and PWR_GOOD falls. -/
def execPwrEnDeassert (s : State) : Out :=
  .next (
    let s := { s with pins := { s.pins with pwrEn := false } }
    if s.pins.rails || phase s == 3 then
      let s := mainReset s
      addHold { s with pins := { s.pins with pwrGood := false, rails := false }, holds := s.holds.filter (· != 4) } 1
    else s)

/-- MOD_RESET_N_ASSERT (R567, R568): from DIES on, the main domain is reset and held; the hold of a fatal loss ends with
that reset, and a failed start-up may start again (R564). -/
def execModResetNAssert (s : State) : Out :=
  .next (
    let s := { s with pins := { s.pins with modResetN := false }, uszon := { s.uszon with startFailed := false } }
    if s.pins.rails then
      let s := mainReset s
      addHold { s with holds := s.holds.filter (· != 4) } 2
    else s)

/-- MOD_RESET_N_DEASSERT (R567, R568): the start-up begins, with the rails kept good, or from RAILS, if nothing else holds it. -/
def execModResetNDeassert (s : State) : Out :=
  .next (
    let s := { s with pins := { s.pins with modResetN := true } }
    if s.holds.contains 2 then startIfFree (dropHold s 2) else if phase s = 9 then startIfFree s else s)

/-- DLK_CORE_RELEASE_WRITE (R566): each newly set bit releases its core at DLK_CORE_VEC.ADDR. -/
def coreReleaseWrite (s : State) (p v : Nat) : State :=
  let old := rget s .dlkCoreRelease p
  let s := rset s .dlkCoreRelease p 0 0 (old ||| v)
  let vec := rf s .dlkCoreVec p 0 0 47 0
  (List.range 64).foldl (fun s c => if bit v c && !bit old c then releaseCore s ((p - 8) * 64 + c) vec else s) s

/-- DLK_CORE_RELEASE_WRITE: Uszon and Tamier cores in machine mode write it. -/
def execDlkCoreReleaseWrite (a : Agent) (p : PDie) (v : W64) (s : State) : Out :=
  .next (if agentMay a .uszonCore && dieActive s (8 + p.val) && !anyFatal s then coreReleaseWrite s (8 + p.val) v.toNat else s)

/-- The levels of the J2 outputs that the module holds (R553): PWR_GOOD, MOD_READY, ALERT_N. EXTEST drives them from the boundary
cells. -/
def j2Outputs (s : State) : List Bool :=
  let own := [s.pins.pwrGood, s.pins.modReady, s.pins.alertN]
  match s.jtag.ir with
  | .extest _ => (List.range 3).map fun i => s.jtag.boundary.getD i (own.getD i false)
  | _ => own

/-- The levels of the J2 inputs (R553): PERST_N, PWR_EN, MOD_RESET_N. -/
def j2Inputs (s : State) : List Bool := [s.pins.perstN, s.pins.pwrEn, s.pins.modResetN]

/-- The boundary cells capture the signal pins as they stand (R571), the outputs first (DESIGN CHOICE, log entry 164). -/
def jtagCapture (s : State) : State := { s with jtag := { s.jtag with captured := j2Outputs s ++ j2Inputs s } }

/-- JTAG_INSTRUCTION (R571): SAMPLE/PRELOAD captures the pins and loads the boundary cells; EXTEST loads them, drives the outputs
from them, and captures the pins. A debug instruction selects BYPASS on an owned module; on an unowned one it acts, and the manual does
not say how. -/
def execJtagInstruction (op : JtagOp) (s : State) : Out :=
  match op with
  | .bypass => .next { s with jtag := { s.jtag with ir := .bypass } }
  | .samplePreload pins =>
    let s := jtagCapture s
    .next { s with jtag := { s.jtag with ir := op, boundary := pins } }
  | .extest pins => .next (jtagCapture { s with jtag := { s.jtag with ir := op, boundary := pins } })
  | .debug _ =>
    if rf s .secStatus 14 0 0 0 0 = 1 then .next { s with jtag := { s.jtag with ir := .bypass } } else .refused .jtagDebug

/-- JTAG_TAP_RESET (R571): the TAP returns to BYPASS. -/
def execJtagTapReset (s : State) : Out := .next { s with jtag := { s.jtag with ir := .bypass } }

/-- A die's copy meets the master (R33): a copy ahead holds, a copy behind is stepped forward. -/
def syncCopy (s : State) (n : Nat) : State :=
  if n = 14 then s
  else if s.master.toNat < (mget 0 s.copies n).toNat then { s with copyHeld := kins s.copyHeld n }
  else { s with copies := mput 0 s.copies n s.master, copyHeld := kdel s.copyHeld n }

/-- TIMEBASE_SYNC (R33): every 1 ms, for an active die. -/
def execTimebaseSync (d : Die) (s : State) : Out :=
  .next (if dieActive s (dieIdx d) then syncCopy s (dieIdx d) else s)

end Sys2Proof.Machine
end

