-- ==== Sys2Proof/Machine/Streams.lean ====
section
/-!
DEFINITION. The operand formats of the matrix engines (R91, R92) and the block-sparse stream (R202), which the compression
engine and the decoders of Helictite share.
-/
namespace Sys2Proof.Machine

/-! ### Operand formats (R91) -/

/-- The rate classes. -/
inductive Rate where
  | fp46 | fp8 | int | bf16 | fp16 | int18
deriving DecidableEq, Repr

/-- The rate class of a format code; none where the code is reserved. -/
def mfRate (f : Nat) : Option Rate :=
  match f with
  | 0 | 1 | 2 => some .fp46
  | 3 | 4 => some .fp8
  | 5 | 6 => some .int
  | 7 => some .bf16
  | 8 => some .fp16
  | 9 => some .int18
  | _ => none

/-- The width of an element in storage. -/
def mfWidth (f : Nat) : Nat :=
  match f with
  | 0 => 4
  | 1 | 2 => 6
  | 3 | 4 | 5 => 8
  | 6 => 4
  | 7 | 8 => 16
  | _ => 32

/-- The floating format of a code. -/
def mfFmt (f : Nat) : Fmt :=
  match f with
  | 0 => fmtE2M1
  | 1 => fmtE2M3
  | 2 => fmtE3M2
  | 3 => fmtE4M3
  | 4 => fmtE5M2
  | 7 => fmtBf16
  | _ => fmtF16

/-- The value of an integer element (R91, R125). -/
def mfInt (f x : Nat) : Int := signed (if f = 9 then 18 else mfWidth f) x

/-- The legal combinations of a format with MX (R94). -/
def mxLegal (f : Nat) (mx : Bool) : Bool :=
  match mfRate f with
  | some .fp46 => mx
  | some .fp8 => true
  | _ => !mx

/-! ### The block-sparse stream (R202) -/

/-- The header's word 0. -/
structure BsHdr where
  format : Nat
  mx : Bool
  sp : Bool
  ktot : Nat
  rows : Nat
deriving DecidableEq, Repr

def bsHdr (w : Nat) : BsHdr := ⟨bits w 55 52, bit w 51, bit w 50, bits w 47 32, bits w 31 0⟩
def BsHdr.word (h : BsHdr) : Nat :=
  1 <<< 56 + h.format <<< 52 + b2n h.mx <<< 51 + b2n h.sp <<< 50 + h.ktot <<< 32 + h.rows

/-- The bytes of a row in a block, of a whole block, and of a panel's bitmap. -/
def BsHdr.rowBytes (h : BsHdr) : Nat := (if h.sp then 16 else 32) * mfWidth h.format / 8
def BsHdr.block (h : BsHdr) : Nat := 32 * h.rowBytes + (if h.sp then 128 else 0) + (if h.mx then 32 else 0)
def BsHdr.blocks (h : BsHdr) : Nat := h.ktot / 32
def BsHdr.mapBytes (h : BsHdr) : Nat := cdiv (cdiv h.blocks 8) 32 * 32
def BsHdr.panels (h : BsHdr) : Nat := h.rows / 32

/-- The rules for FORMAT, MX, SP, KTOT and ROWS (R202). -/
def BsHdr.legal (h : BsHdr) : Bool :=
  (mfRate h.format).isSome && h.format != 9 && mxLegal h.format h.mx && h.rows != 0 && h.rows % 32 == 0 && h.ktot != 0
    && h.ktot % 32 == 0 && decide (h.ktot ≤ 65504)

/-- A number of `n` bytes that `rd` gives from an offset on. -/
def rdNum (rd : Nat → Byte) (off n : Nat) : Nat := ofBytes ((List.range n).map fun i => rd (off + i))

/-- Element `k` of `w` bits of a packed array at `off` (R124). -/
def rdElem (rd : Nat → Byte) (off w k : Nat) : Nat := (rdNum rd (off + w * k / 8) 4 >>> (w * k % 8)) % 2 ^ w

/-- A panel's directory entry: NBLK and offset. -/
def bsDir (rd : Nat → Byte) (p : Nat) : Nat × Nat :=
  let w := rdNum rd (64 + 8 * p) 8
  (bits w 63 48, bits w 47 0)
/-- Block b of panel p is present. -/
def bsPresent (rd : Nat → Byte) (p b : Nat) : Bool := bit (rd ((bsDir rd p).2 + b / 8)).toNat (b % 8)
/-- How many present blocks of a panel stand before block b. -/
def bsBefore (rd : Nat → Byte) (p b : Nat) : Nat := ((List.range b).filter (bsPresent rd p)).length
/-- Where a present block stands. -/
def bsBlockAt (rd : Nat → Byte) (h : BsHdr) (p b : Nat) : Nat := (bsDir rd p).2 + h.mapBytes + bsBefore rd p b * h.block

/-- Element `e` of row i in a block: an element, or a kept value. -/
def bsElem (rd : Nat → Byte) (h : BsHdr) (p b i e : Nat) : Nat :=
  if bsPresent rd p b then rdElem rd (bsBlockAt rd h p b + i * h.rowBytes) (mfWidth h.format) e else 0
/-- Nibble `n` of row i's metadata; an absent block keeps the two lowest positions. -/
def bsMeta (rd : Nat → Byte) (h : BsHdr) (p b i n : Nat) : Nat :=
  if bsPresent rd p b then rdElem rd (bsBlockAt rd h p b + 32 * h.rowBytes + 4 * i) 4 n else 4
/-- Row i's scale; 0x7F in an absent block (R237). -/
def bsScale (rd : Nat → Byte) (h : BsHdr) (p b i : Nat) : Nat :=
  if bsPresent rd p b then (rd (bsBlockAt rd h p b + h.block - 32 + i)).toNat else 0x7F

end Sys2Proof.Machine
end

