-- ==== Sys2Proof/Machine/Xlate.lean ====
section
/-!
DEFINITION. Translation through a context's Sv48 table (R383-R386).
-/
namespace Sys2Proof.Machine

/-- What an access needs of a leaf. -/
inductive Need where
  | load | store | atomic | fetch
deriving DecidableEq, Repr

/-- A leaf's permission bits allow an access (R383). -/
def permits (p : Nat) (n : Need) : Bool :=
  bit p 4 && bit p 6 &&
  match n with
  | .load => bit p 1
  | .store => bit p 2 && bit p 7
  | .atomic => bit p 1 && bit p 2 && bit p 7
  | .fetch => bit p 3

/-- A page table entry, read as NcRead at its home (R384): code and value. -/
def readPte (s : State) (a : Nat) : Nat × Nat × State :=
  if inMemory a then
    let r := ncReadNow s (a / 128) (needMask a 8)
    if r.1 = 0 then (0, ofBytes ((r.2.1.drop (a % 128)).take 8), r.2.2) else (0xA09, 0, r.2.2)
  else (0xA09, 0, s)

/-- Walks from a table at level `i` (3 to 0, as fuel i + 1): code, physical page of the 4 KiB page, permission bits
(DEDUCED, log entry 58). -/
def walk : Nat → State → Nat → Nat → Nat × Nat × Nat × State
  | 0, s, _, _ => (0xA07, 0, 0, s)
  | i + 1, s, ppn, vpn =>
    let (code, pte, s) := readPte s (ppn * 4096 + bits vpn (9 * i + 8) (9 * i) * 8)
    if code ≠ 0 then (code, 0, 0, s)
    else if !bit pte 0 || (bit pte 2 && !bit pte 1) || bits pte 63 54 != 0 then (0xA07, 0, 0, s)
    else if bit pte 1 || bit pte 3 then
      let p := bits pte 53 10
      if i = 3 ∨ p % 2 ^ (9 * i) ≠ 0 then (0xA07, 0, 0, s)
      else (0, p + vpn % 2 ^ (9 * i), bits pte 7 0, s)
    else walk i s (bits pte 53 10) vpn

/-- Who holds cached translations (R385): a tile, or the walker of a die. -/
def walkerOf (k : Nat) : Nat := 1024 + k

/-- The C-die of a holder. -/
def holderDie (h : Nat) : Nat := if h < 768 then h / 128 else h - 1024

/-- Translates a canonical virtual address: code and physical address. A cached translation is used; a walk that gives a
leaf is cached. -/
def translate (s : State) (holder ctx va : Nat) (n : Need) : Nat × Nat × State :=
  let vpn := bits va 47 12
  match s.tlb.find? fun e => e.holder == holder && e.ctx == ctx && e.vpage == vpn with
  | some e => (if permits e.perm n then 0 else 0xA08, e.ppage * 4096 + va % 4096, s)
  | none =>
    let (code, ppage, perm, s) := walk 4 s (rf s .jobCtx (holderDie holder) 0 ctx 35 0) vpn
    if code ≠ 0 then (code, 0, s)
    else
      let s := { s with tlb := s.tlb ++ [⟨holder, ctx, vpn, ppage, perm⟩] }
      (if permits perm n then 0 else 0xA08, ppage * 4096 + va % 4096, s)

/-- Invalidates the translations of a context that holders of `p` cache (R385). -/
def tlbDrop (s : State) (p : Nat → Bool) (ctx : Nat) : State :=
  { s with tlb := s.tlb.filter fun e => !(p e.holder && e.ctx == ctx) }

/-- The holders of a die: its tiles and its walker. -/
def onDie (k h : Nat) : Bool := h / 128 == k && h < 768 || h == walkerOf k

/-- A sign-extended 48-bit address (R198). -/
def sext48 (a : Nat) : Nat := if bit a 47 then a % 2 ^ 48 + (2 ^ 64 - 2 ^ 48) else a % 2 ^ 48
/-- Bits 63:48 are copies of bit 47 (R60, R67). -/
def canonical (a : Nat) : Bool := a % 2 ^ 64 == sext48 a

end Sys2Proof.Machine
end

