-- ==== Sys2Proof/Machine/Dcc.lean ====
section
/-!
DEFINITION. The die caches (R281-R302): lookup, allocation, writeback, the prefetcher, maintenance and locking, and
whole accesses of engines through them.
-/
namespace Sys2Proof.Machine

/-! ### Replacement trees -/

/-- Follows a replacement tree over `2 ^ n` ways from way `lo` to the way it points at, passing by halves without a
permitted way. Tree node `i` has children `2 i` and `2 i + 1`; a node's bit 1 points right. -/
def plruPick : Nat → Nat → (Nat → Bool) → Nat → Nat → Nat
  | 0, _, _, _, lo => lo
  | n + 1, tree, ok, node, lo =>
    let leftOk := (List.range (2 ^ n)).any fun i => ok (lo + i)
    let rightOk := (List.range (2 ^ n)).any fun i => ok (lo + 2 ^ n + i)
    if (bit tree node && rightOk) || !leftOk then plruPick n tree ok (2 * node + 1) (lo + 2 ^ n)
    else plruPick n tree ok (2 * node) lo

/-- Points every node on a way's path away from it. -/
def plruTouch : Nat → Nat → Nat → Nat → Nat
  | 0, tree, _, _ => tree
  | n + 1, tree, node, way =>
    let right := bit way n
    plruTouch n (fset tree node node (b2n (!right))) (2 * node + b2n right) way

/-- Points every node on a way's path at it: the way is at the replacement position. -/
def plruAim : Nat → Nat → Nat → Nat → Nat
  | 0, tree, _, _ => tree
  | n + 1, tree, node, way =>
    let right := bit way n
    plruAim n (fset tree node node (b2n right)) (2 * node + b2n right) way

/-! ### Lines -/

def dcc (s : State) (k : Nat) : DieCache := mget DieCache.reset s.dcc k
def setDcc (s : State) (k : Nat) (c : DieCache) : State := { s with dcc := mput DieCache.reset s.dcc k c }

/-- The set of a line (R281). -/
def dccSet (line : Nat) : Nat := (line % 2 ^ 14) ^^^ ((line >>> 14) % 2 ^ 14)

/-- The key of the way that holds a line. -/
def dccFind (c : DieCache) (line : Nat) : Option Nat :=
  ((List.range 16).map fun w => dccSet line * 16 + w).find? fun key =>
    match mfind c.lines key with | some l => l.line == line | none => false

/-- The miss register that holds a line and will install its fill. -/
def dccMissOf (c : DieCache) (line : Nat) : Option DccMiss := c.misses.find? fun m => m.line == line && !m.discard

def dccEnabled (s : State) (k : Nat) : Bool := rf s .dccStatus k 0 0 1 1 == 1
def dccLocked (s : State) (k : Nat) : Nat := rf s .dccLock k 0 0 15 0

def dccSetLine (s : State) (k key : Nat) (l : DccLine) : State :=
  let c := dcc s k
  setDcc s k { c with lines := mins c.lines key l }
def dccDrop (s : State) (k key : Nat) : State :=
  let c := dcc s k
  setDcc s k { c with lines := mdel c.lines key }
/-- A way is the most recently used of its set. -/
def dccTouch (s : State) (k key : Nat) : State :=
  let c := dcc s k
  setDcc s k { c with plru := mput 0 c.plru (key / 16) (plruTouch 4 (mget 0 c.plru (key / 16)) 1 (key % 16)) }

/-- A way is its set's next victim: a line enters at the replacement position (R280, R289). -/
def dccAim (s : State) (k key : Nat) : State :=
  let c := dcc s k
  setDcc s k { c with plru := mput 0 c.plru (key / 16) (plruAim 4 (mget 0 c.plru (key / 16)) 1 (key % 16)) }
/-- Where a line enters its set: a streaming one at the replacement position, another as the most recently used (R280). -/
def dccPlace (s : State) (k key : Nat) (streaming : Bool) : State := if streaming then dccAim s k key else dccTouch s k key

/-- The bytes of a line that a mask names. -/
def pickBytes (bs : Map Byte) (mask : Nat) : Map Byte := bs.filter fun e => bit mask e.1
/-- The offsets of a mask. -/
def maskList (m : Nat) : List Nat := (List.range 128).filter fun i => bit m i

/-- Writes a line's valid dirty bytes to its home, with their poison (R282, R302); the line stays, clean
(DESIGN CHOICE, log entry 47). -/
def dccWriteback (s : State) (k key : Nat) : State :=
  match mfind (dcc s k).lines key with
  | none => s
  | some l =>
    if l.dirtyMask = 0 then s
    else
      let s := ncWriteNow s l.line (pickBytes l.bytes l.dirtyMask.toNat) (maskList (l.dirtyMask &&& l.poison).toNat)
      count (dccSetLine s k key { l with dirtyMask := 0 }) .dccWritebacks k 0 0 1

/-- A way is free to take a new line. -/
def dccUsable (c : DieCache) (set w : Nat) : Bool :=
  match mfind c.lines (set * 16 + w) with | some l => !l.pending | none => true

/-- A line takes a way of its set among those of `ways` (R281, R299): an empty one, else the replacement choice, whose
dirty bytes are written back. None where no way may be taken. -/
def dccAlloc (s : State) (k line ways : Nat) : Option (Nat × State) :=
  let c := dcc s k
  let set := dccSet line
  let ok (w : Nat) : Bool := bit ways w && dccUsable c set w
  match ((List.range 16).filter fun w => ok w && (mfind c.lines (set * 16 + w)).isNone) with
  | w :: _ => some (set * 16 + w, s)
  | [] =>
    if (List.range 16).any ok then
      let key := set * 16 + plruPick 4 (mget 0 c.plru set) ok 1 0
      some (key, dccDrop (dccWriteback s k key) k key)
    else none

/-- The ways open to demand fills (R300). -/
def openWays (s : State) (k : Nat) : Nat := 0xFFFF - dccLocked s k

/-- Sends a request to the home of its line; where the line has none, nothing is sent. -/
def toHomeReq (s : State) (r : MemReq) : State :=
  match homeNo s r.line with
  | none => s
  | some h => let e := home s h
              setHome s h { e with reqs := e.reqs ++ [r] }

/-- Begins a fill in a way: the miss register, the pending line, and the read of the whole line at its home (R287). -/
def dccStartFill (s : State) (k key line : Nat) (w : List (MemReq × Map Byte × Nat)) (pf : Bool) : State :=
  let c := dcc s k
  let old := mfind c.lines key
  let l : DccLine := match old with
    | some l => { l with pending := true }
    | none => ⟨line, 0, 0, 0, [], true, pf, false⟩
  let s := setDcc s k { c with lines := mins c.lines key l, misses := c.misses ++ [⟨line, key % 16, w, false⟩] }
  toHomeReq s ⟨0, line, .read (BitVec.ofNat 128 fullMask), .dccFill k, false, false, 0, pf⟩

/-! ### The stride prefetcher (R288, R289) -/

/-- A line that a maintenance operation has not yet reached. -/
def maintHolds (c : DieCache) (line : Nat) : Bool :=
  match c.maint with
  | none => false
  | some m => m.pos ≤ line && lineIn m.addr (m.addr + m.len) line && m.op ≤ 5

/-- Requests one prefetched line. -/
def prefetchLine (s : State) (k line : Nat) : State :=
  let c := dcc s k
  if !inMemory (line * 128) || (dccFind c line).isSome || (dccMissOf c line).isSome || decide (4096 < c.misses.length + 512)
      || maintHolds c line then s
  else
    match dccAlloc s k line (openWays s k) with
    | none => s
    | some (key, s) => count (dccAim (dccStartFill s k key line [] true) k key) .dccPfIssued k 0 0 1

/-- Trains a stream on a demand access, and prefetches once it is confident. -/
def dccTrain (s : State) (k requester line : Nat) : State :=
  if rf s .dccCtl k 0 0 8 8 = 0 then s
  else
    let c := dcc s k
    let page := line / 32
    let old := c.streams.find? fun p => p.requester == requester && p.page == page
    let st : PfStream := match old with
      | none => ⟨requester, page, line, 0, 0⟩
      | some p =>
        let d : Int := (line : Int) - p.last
        if d ≠ 0 ∧ d = p.stride then ⟨requester, page, line, d, Nat.min 3 (p.conf + 1)⟩ else ⟨requester, page, line, d, 0⟩
    let rest := c.streams.filter fun p => !(p.requester == requester && p.page == page)
    let s := setDcc s k { c with streams := (st :: rest).take 256 }
    if st.conf < 2 then s
    else
      let degree := Nat.max 1 (rf s .dccCtl k 0 0 19 16)
      let dist := let d := rf s .dccCtl k 0 0 31 24
                  if d = 0 then 1 else if 31 < d then 31 else d
      (List.range degree).foldl (fun s (i : Nat) =>
        let off : Int := st.stride * ((i : Int) + 1)
        let t : Int := (line : Int) + off
        if off.natAbs ≤ dist ∧ 0 ≤ t ∧ t.toNat / 32 = page then prefetchLine s k t.toNat else s) s

/-! ### Accesses (R282-R287) -/

/-- Merges written bytes into a line: they are valid and dirty, and no longer poisoned. -/
def dccMerge (l : DccLine) (bs : Map Byte) (poison : List Nat) : DccLine :=
  let m := BitVec.ofNat 128 (maskOf bs)
  { l with bytes := mergeBytes l.bytes bs, valid := l.valid ||| m, dirtyMask := l.dirtyMask ||| m,
           poison := (l.poison &&& ~~~ m) ||| BitVec.ofNat 128 (poison.foldl (fun v o => v ||| 2 ^ o) 0) }

/-- A fill that is pending for a line will not be installed (R295); its miss register serves those that wait. -/
def dccDiscard (s : State) (k line : Nat) : State :=
  let c := dcc s k
  setDcc s k { c with misses := c.misses.map fun m => if m.line == line then { m with discard := true } else m }

/-- The line leaves the cache: its dirty bytes are written back, a pending fill is discarded (R283, R285). -/
def dccEvict (s : State) (k line : Nat) : State :=
  match dccFind (dcc s k) line with
  | none => s
  | some key => dccDiscard (dccDrop (dccWriteback s k key) k key) k line

/-- What the ECC of a line's data finds (R302): a correctable error is counted; in an uncorrectable word dirty bytes are poisoned,
and a clean line is invalid. -/
def dccEcc (s : State) (k line : Nat) (e : WordEcc) : State :=
  match dccFind (dcc s k) line with
  | none => s
  | some key =>
    match mfind (dcc s k).lines key with
    | none => s
    | some l =>
      match e with
      | .good => s
      | .corrected w =>
        if l.valid &&& BitVec.ofNat 128 (0xFF <<< (8 * w)) = 0 then s
        else correctedBy s (eccDcc k) 1
      | .bad w =>
        let m := BitVec.ofNat 128 (0xFF <<< (8 * w))
        if (l.valid &&& m) = 0 then s
        else if (l.dirtyMask &&& m) ≠ 0 then dccSetLine s k key { l with poison := l.poison ||| (l.dirtyMask &&& m) }
        else if l.dirtyMask = 0 ∧ l.pending = false then dccDrop s k key
        else dccSetLine s k key { l with valid := l.valid &&& ~~~ m, bytes := l.bytes.filter fun e => !bit m.toNat e.1 }

/-- Counts a demand hit. A hit to a prefetched line trains the prefetcher (R288); the first one counts it as useful (R311). -/
def dccHit (s : State) (k key : Nat) (l : DccLine) (requester : Nat) : State :=
  let s := count s .dccHits k 0 0 1
  if l.prefetched then
    let s := if l.used then s else count (dccSetLine s k key { l with used := true }) .dccPfUseful k 0 0 1
    dccTrain s k requester l.line
  else s

/-- The code of a read that needs poisoned bytes of a line (R302). -/
def poisonCode (l : DccLine) (need : BitVec 128) : Nat := if need &&& l.poison = 0 then 0 else 0x808

/-- A merging-buffer write that a disabled die cache sends to a home: the tile waits for its answers (R298, R367). -/
def passStore (s : State) (r : MemReq) : MemReq × State :=
  match r.from_ with
  | .store t 16 _ =>
    let x := mget Tile.reset s.tiles t
    let id := s.nextId
    ({ r with id := id, from_ := .store t 16 id },
      { s with nextId := id + 1,
               tiles := mput Tile.reset s.tiles t { x with unperformed := x.unperformed ++ [id], invisible := x.invisible ++ [id] } })
  | _ => (r, s)

/-- A write is sent to the home of its line. -/
def sendStore (s : State) (r : MemReq) : State :=
  let (r, s) := passStore s r
  toHomeReq s { r with home := true }

/-- A request is performed at the die cache. None where it must wait at the input (R286, R287) (DEDUCED, log entry 61). -/
def dccPerform (s : State) (k : Nat) (r : MemReq) : Option State :=
  let c := dcc s k
  let direct := r.home || !dccEnabled s k
  match r.kind with
  | .coh _ => some s
  | .atomic _ _ _ _ => some (toHomeReq (dccEvict s k r.line) r)
  | .read need =>
    if direct then some (toHomeReq (dccEvict s k r.line) { r with home := true })
    else
      match dccFind c r.line with
      | some key =>
        match mfind c.lines key with
        | none => none
        | some l =>
          if need &&& ~~~ l.valid = 0 then
            let s := dccHit s k key l r.requester
            let s := if r.streaming then s else dccTouch s k key
            some (toL1 s r l.bytes (poisonCode l need) false)
          else if l.pending then
            match dccMissOf c r.line with
            | some m =>
              if 64 ≤ m.waiting.length then none
              else
                let c := { c with misses := c.misses.map fun x => if x = m then { x with waiting := x.waiting ++ [(r, l.bytes, poisonCode l need)] } else x }
                some (dccTrain (count (setDcc s k c) .dccMisses k 0 0 1) k r.requester r.line)
            | none => none
          else if 4096 ≤ c.misses.length then none
          else some (dccTrain (count (dccStartFill s k key r.line [(r, l.bytes, poisonCode l need)] false) .dccMisses k 0 0 1) k r.requester r.line)
      | none =>
        if 4096 ≤ c.misses.length then none
        else
          match dccAlloc s k r.line (openWays s k) with
          | none => none
          | some (key, s) =>
            let s := dccPlace (dccStartFill s k key r.line [(r, [], 0)] false) k key r.streaming
            some (dccTrain (count s .dccMisses k 0 0 1) k r.requester r.line)
  | .write bs poison =>
    match dccFind c r.line with
    | some key =>
      match mfind c.lines key with
      | none => none
      | some l =>
        let l := dccMerge l bs poison
        if direct then
          let out : MemReq := { r with kind := .write (pickBytes l.bytes l.dirtyMask.toNat) (maskList (l.dirtyMask &&& l.poison).toNat), home := true }
          some (sendStore (count (dccSetLine s k key { l with dirtyMask := 0 }) .dccWritebacks k 0 0 1) out)
        else
          let s := dccHit (dccSetLine s k key l) k key l r.requester
          some (if r.streaming then s else dccTouch s k key)
    | none =>
      if direct then some (sendStore s r)
      else
        match dccAlloc s k r.line (openWays s k) with
        | none => none
        | some (key, s) =>
          let s := dccPlace (dccSetLine s k key (dccMerge ⟨r.line, 0, 0, 0, [], false, false, false⟩ bs poison)) k key r.streaming
          some (dccTrain (count s .dccMisses k 0 0 1) k r.requester r.line)

/-- DCC_ACCESS (R282): request `n` at the input, unless an earlier one names its line. -/
def dccAccess (s : State) (k n : Nat) (w : WordEcc) : State :=
  let c := dcc s k
  match takeAt c.inq n with
  | none => s
  | some (r, rest) =>
    if !dieActive s k || (c.inq.take n).any fun x => x.line == r.line then s
    else (dccPerform (setDcc (dccEcc s k r.line w) k { dcc (dccEcc s k r.line w) k with inq := rest }) k r).getD s

/-! ### Maintenance (R290-R296, R299) -/

/-- The lowest line at or after `pos` in the range that the cache holds. -/
def nextResident (c : DieCache) (pos lo hi : Nat) : Option Nat :=
  c.lines.foldl (fun b e =>
    if pos ≤ e.2.line && lineIn lo hi e.2.line then
      match b with | none => some e.2.line | some x => some (Nat.min x e.2.line)
    else b) none

/-- The bytes of a line that lie in a range, as a mask. -/
def rangeMask (lo hi line : Nat) : Nat :=
  (List.range 128).foldl (fun m i => if lo ≤ line * 128 + i && line * 128 + i < hi then m ||| 2 ^ i else m) 0

/-- The effect of INV, CLEAN and CLEAN_INV on a line that is present (R291): INV of a line only partly in the range with
dirty bytes outside it is CLEAN_INV. -/
def maintLine (s : State) (k op lo hi line : Nat) : State :=
  match dccFind (dcc s k) line with
  | none => s
  | some key =>
    match mfind (dcc s k).lines key with
    | none => s
    | some l =>
      let outside := l.dirtyMask.toNat &&& (fullMask - rangeMask lo hi line)
      if op = 2 then dccWriteback s k key
      else if op = 3 ∨ outside ≠ 0 then dccDrop (dccWriteback s k key) k key
      else dccDrop s k key

/-- ZERO of one line: bytes of the range become zero, valid and dirty (R291). None where the line must wait. -/
def zeroLine (s : State) (k lo hi line : Nat) : Option State :=
  if !inMemory (line * 128) then some s
  else
    let zs : Map Byte := (maskList (rangeMask lo hi line)).map fun i => (i, (0 : Byte))
    match dccFind (dcc s k) line with
    | some key =>
      match mfind (dcc s k).lines key with
      | some l => if l.pending then none else some (dccTouch (dccSetLine s k key (dccMerge l zs [])) k key)
      | none => some s
    | none =>
      match dccAlloc s k line (openWays s k) with
      | none => none
      | some (key, s) => some (dccTouch (dccSetLine s k key (dccMerge ⟨line, 0, 0, 0, [], false, false, false⟩ zs [])) k key)

/-- PRELOAD of one line into a way of WAYS (R299). A set takes the line unless every named way holds a line that this operation
placed. None where the line must wait: for a named way whose fill is pending, or for a miss register. -/
def preloadLine (s : State) (k line : Nat) (m : Maint) : Option (State × Maint) :=
  if !inMemory (line * 128) then some (s, m)
  else
    let c := dcc s k
    let set := dccSet line
    let ok (w : Nat) : Bool := bit m.ways w && !(m.placed.contains (set * 16 + w)) && dccUsable c set w
    let target : Option Nat :=
      match (List.range 16).find? fun w => ok w && (mfind c.lines (set * 16 + w)).isNone with
      | some w => some (set * 16 + w)
      | none => if (List.range 16).any ok then some (set * 16 + plruPick 4 (mget 0 c.plru set) ok 1 0) else none
    let full := (List.range 16).all fun w => !bit m.ways w || m.placed.contains (set * 16 + w)
    let place (key : Nat) : Maint := { m with placed := kins m.placed key }
    match dccFind c line with
    | some key =>
      match mfind c.lines key with
      | none => some (s, m)
      | some l =>
        if l.pending then none
        else if bit m.ways (key % 16) then some (s, place key)
        else
          match target with
          | none => if full then some (s, { m with notPlaced := m.notPlaced + 1 }) else none
          | some t =>
            let s := dccDrop (dccWriteback s k t) k t
            some (dccTouch (dccSetLine (dccDrop s k key) k t l) k t, place t)
    | none =>
      match target with
      | none => if full then some (s, { m with notPlaced := m.notPlaced + 1 }) else none
      | some t =>
        if 4096 ≤ c.misses.length then none
        else
          let s := dccStartFill (dccDrop (dccWriteback s k t) k t) k t line [] false
          some (dccTouch s k t, { place t with fetching := m.fetching ++ [line] })

/-- Runs an operation by address over the lines that the cache holds, until one whose fill is pending (R292, R294). -/
def maintRun : Nat → State → Nat → Maint → State × Maint
  | 0, s, _, m => (s, m)
  | n + 1, s, k, m =>
    let hi := m.addr + m.len
    match nextResident (dcc s k) m.pos m.addr hi with
    | none => (s, { m with pos := hi / 128 + 1 })
    | some line =>
      if (dccMissOf (dcc s k) line).isSome then (s, { m with pos := line })
      else maintRun n (maintLine s k m.op m.addr hi line) k { m with pos := line + 1 }

/-- Runs ZERO or PRELOAD over every line of the range. -/
def maintEach : Nat → State → Nat → Maint → State × Maint
  | 0, s, _, m => (s, m)
  | n + 1, s, k, m =>
    let hi := m.addr + m.len
    if hi ≤ m.pos * 128 then (s, m)
    else
      match (if m.op = 5 then (zeroLine s k m.addr hi m.pos).map (·, m) else preloadLine s k m.pos m) with
      | none => (s, m)
      | some (s, m) => maintEach n s k { m with pos := m.pos + 1 }

/-- SKIPPED and NOT_PLACED of DCC_MAINT_STATUS show what the operation has counted so far (R296, R299). -/
def showMaint (s : State) (k : Nat) (m : Maint) : State :=
  rfset (rfset s .dccMaintStatus k 0 0 31 16 (Nat.min 0xFFFF m.skipped)) .dccMaintStatus k 0 0 15 0 (Nat.min 0xFFFF m.notPlaced)

/-- The operation goes on as far as it can. -/
def maintGo (s : State) (k : Nat) : State :=
  match (dcc s k).maint with
  | none => s
  | some m =>
    let (s, m) :=
      if m.op ≤ 3 then maintRun ((dcc s k).lines.length + 1) s k m
      else if m.op ≤ 5 then maintEach (m.len / 128 + 2) s k m
      else (s, m)
    let c := dcc s k
    showMaint (setDcc s k { c with maint := some m }) k m

/-- The ways of a cache in the order in which an operation visits them, as keys of a map (R292). -/
def inOrder (lines : Map DccLine) (place : Nat × DccLine → Nat) : List (Nat × DccLine) :=
  (lines.foldl (fun (m : Map (Nat × DccLine)) e => mins m (place e) e) []).map (·.2)

/-- A set/way operation on the ways of `ways` in the sets named, from `first` on (R292, R295, R296): how many it skipped. -/
def maintSetWay (s : State) (k op first n ways : Nat) : State × Nat :=
  let step (key : Nat) : Nat := (key / 16 + 16384 - first % 16384) % 16384
  let hit := (dcc s k).lines.filter fun e => bit ways (e.1 % 16) && decide (step e.1 < n)
  (inOrder hit fun e => step e.1 * 16 + e.1 % 16).foldl (fun (acc : State × Nat) e =>
    let (s, sk) := acc
    if op = 0x11 then (dccDrop (if e.2.pending then dccDiscard s k e.2.line else s) k e.1, sk)
    else if e.2.pending then (s, sk + 1)
    else if op = 0x12 then (dccWriteback s k e.1, sk)
    else (dccDrop (dccWriteback s k e.1) k e.1, sk)) (s, 0)

/-- INV_ALL (R291, R295): every way is invalid and unlocked, every pending fill is discarded. -/
def invAll (s : State) (k : Nat) : State :=
  let c := dcc s k
  rset (setDcc s k { c with lines := [], misses := c.misses.map fun m => { m with discard := true } }) .dccLock k 0 0 0

/-- The arguments that DCC_MAINT_CMD rejects (R291) (DEDUCED, log entry 59). -/
def maintBad (op addr len ways resv locked : Nat) (lock : Bool) : Bool :=
  resv != 0 || !(op == 1 || op == 2 || op == 3 || op == 4 || op == 5 || op == 0x11 || op == 0x12 || op == 0x13 || op == 0x1F)
  || (op != 0x1F && len == 0)
  || (decide (op ≤ 5) && decide (2 ^ 48 < addr + len))
  || (decide (0x11 ≤ op) && decide (op ≤ 0x13) && decide (16384 < len))
  || (op == 4 && (ways == 0 || decide (12 < (maskList ways).length) || (lock && decide (12 < (maskList (ways ||| locked)).length))))

/-- The die answers its registers: it is ACTIVE (R574). -/
def dieOpen (s : State) (n : Nat) : Bool := dieActive s n

/-- A write of DCC_MAINT_CMD: `v` is the whole word (R293, R309). -/
def maintStart (s : State) (k v : Nat) : State :=
  let st (hi lo x : Nat) (s : State) : State := rfset s .dccMaintStatus k 0 0 hi lo x
  let op := bits v 7 0
  let addr := rf s .dccMaintAddr k 0 0 47 0
  let len := rf s .dccMaintLen k 0 0 48 0
  let ways := bits v 63 48
  if rf s .dccMaintStatus k 0 0 63 63 = 1 then st 47 32 0x804 s
  else if maintBad op addr len ways (bits v 46 8) (dccLocked s k) (bit v 47) then st 47 32 0x805 s
  else
    let s := st 63 63 1 (st 31 0 0 s)
    let m : Maint := ⟨op, addr, len, ways, bit v 47, addr / 128, [], [], 0, 0⟩
    let put (s : State) (m : Maint) : State := let c := dcc s k
                                               setDcc s k { c with maint := some m }
    if op ≤ 5 then maintGo (put s m) k
    else if op = 0x1F then put (invAll s k) m
    else
      let (s, sk) := maintSetWay s k op (addr % 16384) len (if ways = 0 then 0xFFFF else ways)
      showMaint (put s { m with skipped := sk }) k { m with skipped := sk }

/-- The operation completes once it has visited everything (R293). -/
def maintComplete (s : State) (k : Nat) : State :=
  match (dcc s k).maint with
  | none => s
  | some m =>
    if (m.op ≤ 5 ∧ m.pos * 128 < m.addr + m.len) ∨ !m.fetching.isEmpty then s
    else
      let c := dcc s k
      let s := setDcc s k { c with maint := none }
      let code := if m.skipped ≠ 0 then 0x806 else if m.notPlaced ≠ 0 then 0x807 else 0
      let st (hi lo x : Nat) (s : State) : State := rfset s .dccMaintStatus k 0 0 hi lo x
      let s := st 63 63 0 (st 47 32 code s)
      let s := if m.op = 0x1F then rfset s .dccStatus k 0 0 0 0 1 else s
      if m.op = 4 then
        let s := rfset s .dccLock k 0 0 31 16 (rf s .dccLock k 0 0 31 16 ||| m.ways)
        if m.lock then rfset s .dccLock k 0 0 15 0 (dccLocked s k ||| m.ways) else s
      else s

/-- CLEAN_INV over every set, then the cache is disabled (R298). -/
def dccDisable (s : State) (k : Nat) : State :=
  let s := (dcc s k).lines.foldl (fun s e => dccEvict s k e.2.line) s
  rfset s .dccStatus k 0 0 1 0 0

/-- A write of DCC_CTL (R297, R298, R307). -/
def dccCtlWrite (s : State) (k v : Nat) : State :=
  let new := Reg.dccCtl.spec.write (rget s .dccCtl k) v
  let on := rf s .dccStatus k 0 0 1 1 == 1
  let want := bit new 0
  if want && !on then
    if rf s .dccStatus k 0 0 0 0 = 1 then rfset (rset s .dccCtl k 0 0 new) .dccStatus k 0 0 1 1 1
    else rfset (rset s .dccCtl k 0 0 (fset new 0 0 0)) .dccStatus k 0 0 47 32 0x801
  else if !want && on then dccDisable (rset s .dccCtl k 0 0 new) k
  else rset s .dccCtl k 0 0 new

/-- A write of DCC_LOCK (R300). -/
def dccLockWrite (s : State) (k v : Nat) : State :=
  let new := bits v 15 0
  let old := dccLocked s k
  let pre := rf s .dccLock k 0 0 31 16
  let added := new - (new &&& old)
  if added = 0 ∨ (added &&& pre = added ∧ (maskList new).length ≤ 12) then rfset s .dccLock k 0 0 15 0 new
  else rfset s .dccStatus k 0 0 47 32 0x803

/-! ### Fills (R287, R294, R295) -/

/-- DCC_FILL_ARRIVE: a fill lands under the bytes already valid, or is only served, and maintenance goes on
(DEDUCED, log entry 60). -/
def dccFillArrive (s : State) (k line : Nat) : State :=
  match s.dccFills.find? fun f => f.1 == k && f.2.line == line with
  | none => s
  | some f =>
    let s := { s with dccFills := s.dccFills.erase f }
    let c := dcc s k
    match c.misses.find? fun m => m.line == line with
    | none => s
    | some m =>
      let msg := f.2
      let s := setDcc s k { c with misses := c.misses.erase m }
      let serve (s : State) : State :=
        m.waiting.foldl (fun s w => toL1 s w.1 (mergeBytes msg.bytes w.2.1) (if w.2.2 ≠ 0 then w.2.2 else msg.code) false) s
      let s :=
        if m.discard then serve s
        else
          let key := dccSet line * 16 + m.way
          let s := serve s
          match mfind (dcc s k).lines key with
          | none => s
          | some l =>
            if l.line ≠ line then s
            else if msg.code = 0 then
              dccSetLine s k key { l with pending := false, valid := BitVec.ofNat 128 fullMask, bytes := mergeBytes msg.bytes l.bytes }
            else if l.valid = 0 then dccDrop s k key
            else dccSetLine s k key { l with pending := false }
      let c := dcc s k
      let s := setDcc s k { c with maint := c.maint.map fun m => { m with fetching := kdel m.fetching line } }
      maintGo s k

/-! ### Whole accesses (R193, R195, R273, R285, R290), which wait for pending fills (DEDUCED, log entry 99) -/

/-- A pending fill of a line lands: its home performs what was sent for the line, its stack reads come back, and it arrives. -/
def landFill (s : State) (k line : Nat) : State :=
  match dccMissOf (dcc s k) line, homeNo s line with
  | some _, some h =>
    let s := settle s h line
    let s := (List.range (home s h).reads.length).reverse.foldl (fun s i =>
      if ((home s h).reads[i]?).any fun x => x.req.line == line then stackReturn s h i .good else s) s
    dccFillArrive s k line
  | _, _ => s

/-- A miss register is free: while all 4,096 are in use, the first fill lands (R287). -/
def dccRoom (s : State) (k : Nat) : State :=
  match (dcc s k).misses with
  | m :: _ => if 4096 ≤ (dcc s k).misses.length then landFill s k m.line else s
  | [] => s

/-- An operation of the dispatcher on a range (R290, R371, R372): lines in ascending order (R292); one whose fill is pending is
acted on once the fill has landed (R294). -/
def dccRangeNow (s : State) (k op lo hi : Nat) : State :=
  (inOrder ((dcc s k).lines.filter fun e => lineIn lo hi e.2.line) fun e => e.2.line).foldl (fun s e =>
    maintLine (landFill s k e.2.line) k op lo hi e.2.line) s

/-- Reads the needed bytes of a line through the die cache: a line that is being filled is read once the fill has landed, another
miss is filled at once. -/
def dccReadNow (s : State) (k requester line need : Nat) (direct : Bool) : Nat × List Byte × State :=
  if direct || !dccEnabled s k then ncReadNow (dccEvict s k line) line need
  else
    let nd := BitVec.ofNat 128 need
    let waits : Bool := match dccFind (dcc s k) line with
      | some key => (mfind (dcc s k).lines key).any fun l => l.pending && (nd &&& ~~~ l.valid) != 0
      | none => false
    let s := if waits then landFill (count s .dccMisses k 0 0 1) k line else s
    let c := dcc s k
    match dccFind c line with
    | some key =>
      match mfind c.lines key with
      | none => (0, [], s)
      | some l =>
        if nd &&& ~~~ l.valid = 0 then
          let s := if waits then dccTrain s k requester line else dccHit s k key l requester
          let s := dccTouch s k key
          if poisonCode l nd = 0 then (0, overlay (List.replicate 128 0) l.bytes, s) else (0x808, [], s)
        else
          let s := dccTrain (count (dccRoom s k) .dccMisses k 0 0 1) k requester line
          let (code, bs, s) := ncReadNow s line (fullMask - l.valid.toNat)
          if code ≠ 0 then (code, [], s)
          else
            let l' := { l with valid := BitVec.ofNat 128 fullMask, bytes := mergeBytes (bytesFrom 0 bs) l.bytes }
            (poisonCode l nd, overlay bs l.bytes, dccTouch (dccSetLine s k key l') k key)
    | none =>
      let (code, bs, s) := ncReadNow (count (dccRoom s k) .dccMisses k 0 0 1) line fullMask
      if code ≠ 0 then (code, [], s)
      else
        match dccAlloc s k line (openWays s k) with
        | none => (0, bs, s)
        | some (key, s) =>
          let s := dccTouch (dccSetLine s k key ⟨line, BitVec.ofNat 128 fullMask, 0, 0, bytesFrom 0 bs, false, false, false⟩) k key
          (0, bs, dccTrain s k requester line)

/-- Writes bytes of a line through the die cache, or at the home. A streaming line enters at the replacement position. -/
def dccWriteNow (s : State) (k requester line : Nat) (bs : Map Byte) (direct streaming : Bool) : State :=
  let c := dcc s k
  match dccFind c line with
  | some key =>
    match mfind c.lines key with
    | none => s
    | some l =>
      let s := dccSetLine s k key (dccMerge l bs [])
      if direct || !dccEnabled s k then dccWriteback s k key else dccTouch (dccHit s k key (dccMerge l bs []) requester) k key
  | none =>
    if direct || !dccEnabled s k then ncWriteNow s line bs []
    else
      match dccAlloc s k line (openWays s k) with
      | none => ncWriteNow s line bs []
      | some (key, s) =>
        dccTrain (count (dccPlace (dccSetLine s k key (dccMerge ⟨line, 0, 0, 0, [], false, false, false⟩ bs [])) k key streaming)
          .dccMisses k 0 0 1) k requester line

/-- Who makes an engine access: its die, the requester key of its queue, its context, HOME of its descriptor. -/
structure EngBy where
  k : Nat
  requester : Nat
  ctx : Nat
  direct : Bool

/-- Cuts a virtual range at 128-byte lines and translates each part: code, and physical parts in order. -/
def engXlate (s : State) (by_ : EngBy) (va len : Nat) (n : Need) : Nat × List (Nat × Nat) × State :=
  (pieces (va % 2 ^ 48) len).foldl (fun (acc : Nat × List (Nat × Nat) × State) p =>
    let (code, ps, s) := acc
    if code ≠ 0 then acc
    else
      let (c, pa, s) := translate s (walkerOf by_.k) by_.ctx p.1 n
      (c, ps ++ [(pa, p.2)], s)) (0, [], s)

/-- An engine reads a global virtual range (R193, R198): code and bytes. -/
def engRead (s : State) (by_ : EngBy) (va len : Nat) : Nat × List Byte × State :=
  let (code, ps, s) := engXlate s by_ va len .load
  if code ≠ 0 then (code, [], s)
  else if ps.any fun p => !inRegion p.1 then (0x840, [], s)
  else
    let (code, data, s) := ps.foldl (fun (acc : Nat × List Byte × State) p =>
      let (code, data, s) := acc
      if code ≠ 0 then acc
      else
        match inAperture p.1 with
        | some (k, off) =>
          let c := apertureCode s k (some by_.ctx) off p.2
          let r := grtRead s k off p.2
          if c ≠ 0 then (c, data, s) else (r.1, data ++ r.2, drpSeen s k off p.2 true)
        | none =>
          let r := dccReadNow s by_.k by_.requester (p.1 / 128) (needMask p.1 p.2) by_.direct
          (r.1, data ++ (r.2.1.drop (p.1 % 128)).take p.2, r.2.2)) (0, [], s)
    (code, data, s)

/-- An engine writes a global virtual range: the parts that lie in regions are performed (R25). -/
def engWrite (s : State) (by_ : EngBy) (va : Nat) (data : List Byte) : Nat × State :=
  let (code, ps, s) := engXlate s by_ va data.length .store
  if code ≠ 0 then (code, s)
  else
    let r := ps.foldl (fun (acc : Nat × List Byte × State) p =>
      let (code, data, s) := acc
      let bs := data.take p.2
      let rest := data.drop p.2
      if !inRegion p.1 then (0x840, rest, s)
      else
        match inAperture p.1 with
        | some (k, off) =>
          let c := apertureCode s k (some by_.ctx) off p.2
          if c ≠ 0 then (if code = 0 then c else code, rest, s) else (code, rest, grtPut s k off bs true)
        | none => (code, rest, dccWriteNow s by_.k by_.requester (p.1 / 128) (bytesFrom (p.1 % 128) bs) by_.direct false)) (0, data, s)
    (r.1, r.2.2)

/-- An engine's atomic add of a 64-bit word at a global virtual address (R194): the die cache gives the line up first. -/
def engAdd (s : State) (by_ : EngBy) (va v : Nat) : Nat × State :=
  let (code, pa, s) := translate s (walkerOf by_.k) by_.ctx (va % 2 ^ 48) .atomic
  if code ≠ 0 then (code, s)
  else
    let s := if inMemory pa then dccEvict s by_.k (pa / 128) else s
    let r := busAtomic s .none (some by_.ctx) pa 0 2 [(w64 v, 0)]
    (r.1, r.2.2)

end Sys2Proof.Machine
end

