-- ==== Sys2Proof/Machine/Tile.lean ====
section
/-!
DEFINITION. Tiles, their groups and registers (R49-R61), and how a job is stopped: precise and imprecise faults (R78, R80,
R83, R84, R393).
-/
namespace Sys2Proof.Machine

/-! ### Tiles and groups -/

def tile (s : State) (t : Nat) : Tile := mget Tile.reset s.tiles t
def setTile (s : State) (t : Nat) (v : Tile) : State := { s with tiles := mput Tile.reset s.tiles t v }
def group (s : State) (t g : Nat) : Option Group := mfind (tile s t).groups g
def setGroup (s : State) (t g : Nat) (v : Group) : State :=
  let x := tile s t
  setTile s t { x with groups := mins x.groups g v }

/-- The C-die and the site of a tile (R28). -/
def tileDie (t : Nat) : Nat := t / 128
def tileSite (t : Nat) : Nat := t % 128

/-- A tile answers: its die is ACTIVE and it is present (R29). -/
def tileOpen (s : State) (t : Nat) : Bool := dieActive s (tileDie t) && tilePresent s t

/-- The timebase copy of a die (R33). -/
def timebaseOf (s : State) (n : Nat) : Nat := (if n = 14 then s.master else mget 0 s.copies n).toNat

/-! ### Registers (R52, R56) -/

def vget (g : Group) (v lane : Nat) : Nat := (mget 0 g.vregs (v * 32 + lane)).toNat
def vset (g : Group) (v lane x : Nat) : Group := { g with vregs := mput 0 g.vregs (v * 32 + lane) (BitVec.ofNat 32 x) }
def sget (g : Group) (i : Nat) : Nat := (mget 0 g.sregs i).toNat
def sset (g : Group) (i x : Nat) : Group := { g with sregs := mput 0 g.sregs i (w64 x) }
def pget (g : Group) (p lane : Nat) : Bool := bit (mget 0 g.preds p).toNat lane
def pset (g : Group) (p lane : Nat) (b : Bool) : Group :=
  { g with preds := mput 0 g.preds p (BitVec.ofNat 32 (fset (mget 0 g.preds p).toNat lane lane (b2n b))) }

/-- A value of `n` 32-bit registers from v, low word first (R56). -/
def vgetN (g : Group) (v lane n : Nat) : Nat :=
  (List.range n).foldl (fun a i => a + vget g (v + i) lane <<< (32 * i)) 0
def vsetN (g : Group) (v lane n x : Nat) : Group :=
  (List.range n).foldl (fun g i => vset g (v + i) lane (x >>> (32 * i))) g

/-! ### The reconvergence stack (R58, R59) -/

/-- Before each issue: entries that have reached their join, or hold no lane, are popped. -/
def popStack : List StackEntry → List StackEntry
  | [] => []
  | e :: es => if e.rpc = some e.pc ∨ e.mask = 0 then popStack es else e :: es

/-- The group's current entry. -/
def Group.top (g : Group) : StackEntry := g.stack.headD ⟨0, 0, none⟩
/-- The active lanes. -/
def Group.active (g : Group) : List Nat := (List.range 32).filter fun i => bit g.top.mask.toNat i
/-- The pc of the top entry becomes `pc`. -/
def Group.setPc (g : Group) (pc : W64) : Group :=
  match g.stack with
  | [] => g
  | e :: es => { g with stack := { e with pc := pc } :: es }
/-- The next instruction (R55: eight bytes each). -/
def Group.step (g : Group) : Group := g.setPc (g.top.pc + 8)

/-! ### Jobs -/

def jobFind (s : State) (r : JobRef) : Option Job := s.jobs.find? fun j => j.ref == r
def jobMod (s : State) (r : JobRef) (f : Job → Job) : State :=
  { s with jobs := s.jobs.map fun j => if j.ref == r then f j else j }

/-- Fields of a job's descriptor (R388). -/
def Job.w (j : Job) (i : Nat) : Nat := wd j.words i
def Job.ctx (j : Job) : Nat := bits (j.w 0) 53 48
def Job.gen (j : Job) : Nat := bits (j.w 0) 47 32
def Job.dieMask (j : Job) : Nat := bits (j.w 0) 29 24
def Job.flag (j : Job) (i : Nat) : Bool := bit (j.w 0) i
def Job.portable (j : Job) : Bool := j.flag 0
def Job.tolerant (j : Job) : Bool := j.flag 1
def Job.saveFlt (j : Job) : Bool := j.flag 2
def Job.cplHost (j : Job) : Bool := j.flag 3
def Job.serial (j : Job) : Bool := j.flag 4
def Job.restore (j : Job) : Bool := j.flag 5
def Job.ngroups (j : Job) : Nat := bits (j.w 2) 63 32
def Job.qmask (j : Job) : Nat := bits (j.w 3) 31 0
def Job.image (j : Job) : Nat := j.w 19
/-- A = n rounded up to a multiple of 8 (R50). -/
def Job.alloc (j : Job) : Nat := cdiv (bits (j.w 2) 24 16) 8 * 8
def Job.slmBytes (j : Job) : Nat := bits (j.w 2) 15 8 * 4096
/-- Resident groups allowed on one tile (R50). -/
def Job.maxGroups (j : Job) : Nat :=
  let lim := Nat.min 16 (2048 / Nat.max 1 j.alloc)
  let m := bits (j.w 2) 4 0
  if m = 0 then lim else Nat.min lim m
/-- The tiles that the job still has (R395). -/
def Job.alive (j : Job) : List Nat := j.tiles.filter fun t => !(j.lost.contains t)
/-- The dies of DIEMASK. -/
def Job.dies (j : Job) : List Nat := (List.range 6).filter fun k => bit j.dieMask k
/-- The C-dies that take part: those with tiles of the job, and those of DIEMASK where queues are enabled
(DEDUCED, log entry 74). -/
def Job.parts (j : Job) : List Nat :=
  (List.range 6).filter fun k => j.tiles.any (fun t => t / 128 == k) || (j.qmask != 0 && bit j.dieMask k)

/-- The job on a tile. -/
def jobOn (s : State) (t : Nat) : Option Job := (tile s t).job.bind (jobFind s)

/-- A tile's groups stop at their next instruction boundary (R78). -/
def stopTile (s : State) (t : Nat) : State :=
  let x := tile s t
  if x.mode = .running then
    setTile s t { x with mode := .stopping, groups := x.groups.map fun e =>
      (e.1, if e.2.wait = .faulted then e.2 else { e.2 with wait := match e.2.wait with | .barrier b => .barrier b | _ => .stopped }) }
  else s

/-- A job gets its ending cause, which only the first one decides (R393), and its groups stop. `f` adds what the record
shows of the cause. -/
def jobEnd (s : State) (r : JobRef) (code : Nat) (f : Job → Job) : State :=
  match jobFind s r with
  | none => s
  | some j =>
    if j.endCode.isSome then s
    else j.alive.foldl stopTile (jobMod s r fun j => f { j with endCode := some code })

/-- An imprecise fault of the job on a tile (R80, R187, R302, R328). -/
def imprecise (s : State) (t code : Nat) : State :=
  match (tile s t).job with
  | none => s
  | some r => jobEnd s r code id

/-- A completion status code of a job (R394): the first one is kept. -/
def jobStatus (s : State) (r : JobRef) (code : Nat) : State :=
  if code = 0 then s else jobMod s r fun j => if j.firstStatus = 0 then { j with firstStatus := code } else j

/-- A precise fault of a group (R78): recorded in TILE_FAULT if none is, the group stays at its pc, and the job ends. -/
def preciseFaultAt (s : State) (t g code info va : Nat) : State :=
  match group s t g with
  | none => s
  | some gr =>
    let k := tileDie t
    let i := tileSite t
    let pc := gr.top.pc.toNat
    let s := if rf s .tileFault k i 0 63 63 = 1 then s
             else rset (rset s .tileFault k i 0 (2 ^ 63 + g <<< 48 + code <<< 32 + info % 2 ^ 32)) .tileFaultPc k i 0 pc
    let s := setGroup s t g { gr with wait := .faulted }
    match (tile s t).job with
    | none => s
    | some r =>
      jobEnd s r code fun j => { j with faulted := true, faultPc := pc, faultVa := va, faultTile := t, faultSlot := g, faultGroup := gr.groupId }

/-- A precise fault whose INFO is the active lane mask (R83). -/
def preciseFault (s : State) (t g code : Nat) : State :=
  match group s t g with
  | none => s
  | some gr => preciseFaultAt s t g code gr.top.mask.toNat 0

/-! ### Issue (R53, R54) -/

/-- A pending load will write a register of those named: `v` and `n` for per-thread ones, `sc` scalar ones (R54). -/
def loadsTouch (g : Group) (vs : List Nat) (ss : List Nat) : Bool :=
  g.pend.any fun p =>
    if p.scalar then ss.contains p.dst
    else (List.range (Nat.max 1 (p.width / 4))).any fun i => vs.contains (p.dst + i)

/-- The group that may issue on a tile: the tile runs and is present, the group is in the slot and ready; its stack is
popped first (R59). -/
def ready (s : State) (t g : Nat) : Option (Group × State) :=
  if tileOpen s t && (tile s t).mode == .running then
    match group s t g with
    | none => none
    | some gr =>
      if gr.wait = .ready then
        let gr := { gr with stack := popStack gr.stack }
        if gr.stack.isEmpty then none else some (gr, setGroup s t g gr)
      else none
  else none

/-- A group retires: its slot is free, and the job notes its run (R61). -/
def retire (s : State) (t g : Nat) : State :=
  match group s t g with
  | none => s
  | some gr =>
    let x := tile s t
    let out (b : Barrier) : Barrier := { b with early := kdel b.early g, passed := mdel b.passed g }
    let s := setTile s t { x with groups := mdel x.groups g, barriers := x.barriers.map fun e => (e.1, out e.2) }
    match x.job with
    | none => s
    | some r => jobMod s r fun j => { j with exited := j.exited ++ [(gr.groupId, t, gr.attempt)] }

/-! ### Loads and atomics whose data comes back (R54, R62) -/

/-- Writes a loaded value: zero-extended into a scalar register or a register, or over a pair or quad. -/
def putLoaded (gr : Group) (scalar : Bool) (dst width lane x : Nat) : Group :=
  if scalar then sset gr dst x else vsetN gr dst lane (Nat.max 1 (width / 4)) x

/-- The bytes of a lane, as a number. -/
def laneValue (got : Map Byte) (lane width : Nat) : Nat :=
  ofBytes ((List.range width).map fun i => mget 0 got (lane * 16 + i))

/-- Bytes of a lane that have not come yet. -/
def gotAdd (got : Map Byte) (lane : Nat) (bs : List Byte) : Map Byte :=
  (bytesFrom 0 bs).foldl (fun m e => if (mfind m (lane * 16 + e.1)).isSome then m else mins m (lane * 16 + e.1) e.2) got

/-- A pending load or atomic: once nothing is left, its registers are written. -/
def pendPut (gr : Group) (p : PendingMem) : Group :=
  let others := gr.pend.filter fun q => q.id != p.id
  if p.left.isEmpty then
    p.lanes.foldl (fun gr l => putLoaded gr p.scalar p.dst p.width l.1 (laneValue p.got l.1 p.width)) { gr with pend := others }
  else { gr with pend := others ++ [p] }

/-- An answer with an error: nothing is written for what was asked, and the job has an imprecise fault (R187, R302, R328). -/
def pendFail (s : State) (t g id key code : Nat) : State :=
  match group s t g with
  | none => s
  | some gr =>
    let less (p : PendingMem) : Option PendingMem :=
      if p.id != id then some p
      else if (kdel p.left key).isEmpty then none
      else some { p with left := kdel p.left key }
    imprecise (setGroup s t g { gr with pend := gr.pend.filterMap less }) t code

/-- A line's bytes reach a load. -/
def pendLine (s : State) (t g id line : Nat) (bytes : List Byte) : State :=
  match group s t g with
  | none => s
  | some gr =>
    match gr.pend.find? fun p => p.id == id with
    | none => s
    | some p =>
      let got := (p.lanes.filter fun l => l.2 / 128 == line).foldl
        (fun m l => gotAdd m l.1 ((bytes.drop (l.2 % 128)).take p.width)) p.got
      setGroup s t g (pendPut gr { p with got := got, left := kdel p.left line })

/-- The results of an atomic at one address reach its lanes in order (R73, R74). -/
def pendAtomic (s : State) (t g id addr : Nat) (outs : List Nat) : State :=
  match group s t g with
  | none => s
  | some gr =>
    match gr.pend.find? fun p => p.id == id with
    | none => s
    | some p =>
      let mine := p.lanes.filter fun l => l.2 == addr
      let got := (mine.zip outs).foldl (fun m e => gotAdd m e.1.1 (toBytes p.width e.2)) p.got
      setGroup s t g (pendPut gr { p with got := got, left := kdel p.left addr })

/-! ### SLM (R51, R105) -/

def slmBytesAt (x : Tile) (a n : Nat) : List Byte := (List.range n).map fun i => mget 0 x.slm (a + i)

/-- Runs of base, stride, count and length that meet the `n` bytes at `a`. -/
def runsHit (rs : List (Nat × Nat × Nat × Nat)) (a n : Nat) : Bool :=
  rs.any fun r => (List.range r.2.2.1).any fun i =>
    decide (r.1 + i * r.2.1 < a + n) && decide (a < r.1 + i * r.2.1 + r.2.2.2)

/-- Queued streams that read any of the `n` bytes at `a` (R105): their result is undefined from here on. -/
def slmSpoil (x : Tile) (a n : Nat) : Tile :=
  let op (o : MtxOp) : MtxOp := if runsHit o.reads a n then { o with spoiled := true } else o
  { x with engines := x.engines.map fun e => (e.1, { e.2 with queue := e.2.queue.map op }) }

/-- Writes bytes of an SLM, as a group or as an engine. -/
def slmPut (s : State) (t a : Nat) (bs : List Byte) (engine : Bool) : State :=
  let s := drpSpoil s (t / 128) (t % 128 + 2) a bs.length engine
  let s := if engine then engineWrote s (· == t) 0 a bs.length else s
  let x := slmSpoil (tile s t) a bs.length
  setTile s t { x with slm := memPut x.slm a bs }

/-- A write that is not an engine's. -/
def slmWrite (s : State) (t a : Nat) (bs : List Byte) : State := slmPut s t a bs false

/-- Who a group's instructions come from. -/
def Group.issuer (gr : Group) (g : Nat) : Issuer := ⟨g, gr.groupId, gr.attempt⟩

/-- What has completed comes under a wait of its group. -/
def waitedFor (x : Tile) (p : Uncovered → Bool) : Tile :=
  { x with uncovered := x.uncovered.map fun u => if p u then { u with waited := true } else u }

/-- The group that issued `u` is still there, and has waited for it. -/
def Uncovered.ownsWait (u : Uncovered) (x : Tile) : Bool :=
  u.waited && (mfind x.groups u.from_.slot).any fun gr => gr.issuer u.from_.slot == u.from_

/-! ### What has still to complete (R78, R113, R174, R372) -/

/-- A group has memory requests that have not completed. -/
def Group.busy (g : Group) : Bool := !g.pend.isEmpty || !g.unperformed.isEmpty || !g.invisible.isEmpty

/-- A store of a tile has not been performed yet: it waits at its die cache's input, or at a home that a disabled die cache
sent it to. -/
def storesWaiting (s : State) (t : Nat) : Bool :=
  let mine (r : MemReq) : Bool := match r.from_ with | .store t' _ _ => t' == t | _ => false
  (dcc s (tileDie t)).inq.any mine || s.homes.any fun h => h.2.reqs.any mine

/-- Every matrix instruction, Flowstone command and memory request of a tile has completed. -/
def tileQuiet (s : State) (t : Nat) : Bool :=
  let x := tile s t
  x.fls.isEmpty && x.engines.all (fun e => e.2.queue.isEmpty) && x.groups.all (fun e => !e.2.busy) && !storesWaiting s t
    && x.unperformed.isEmpty && x.invisible.isEmpty

end Sys2Proof.Machine
end

