-- ==== Sys2Proof/Machine/FlsDesc.lean ====
section
/-!
DEFINITION. Flowstone's command blocks: header fields, element types, tensor descriptors, iteration space and the storage that
each element takes (R153-R157, R161, R165, R167, R575).
-/
namespace Sys2Proof.Machine

/-! ### The header (R153) -/

abbrev Block := List W64

def bOp (b : Block) : Nat := bits (wd b 0) 63 56
def bRdims (b : Block) : Nat := bits (wd b 0) 55 52
def bRnd (b : Block) : Nat := bits (wd b 0) 51 50
def bSat (b : Block) : Bool := bit (wd b 0) 49
def bStream (b : Block) : Bool := bit (wd b 0) 48
def bMen (b : Block) : Bool := bit (wd b 0) 47
def bMinv (b : Block) : Bool := bit (wd b 0) 46
def bMfill (b : Block) : Bool := bit (wd b 0) 45
def bAccum (b : Block) : Bool := bit (wd b 0) 44
def bRzero (b : Block) : Bool := bit (wd b 0) 43
def bSub (b : Block) : Nat := bits (wd b 0) 39 32
def bExt (b : Block) (i : Nat) : Nat := bits (wd b 1) (16 * i + 15) (16 * i)
def bFill (b : Block) : Nat := wd b 2
def bImm (b : Block) (i : Nat) : Nat := wd b (3 + i)
def bPlen (b : Block) : Nat := bits (wd b 5) 63 32
def bKp (b : Block) : Nat := bits (wd b 5) 31 16
def bKey (b : Block) : Nat := wd b 6 + wd b 7 <<< 64
def bCtr (b : Block) : Nat := wd b 8 + wd b 9 <<< 64

/-! ### Element types (R156) -/

/-- The width of an element type; 0 where the code is reserved. -/
def ftBits (ty : Nat) : Nat :=
  match ty with
  | 0x00 | 0x0D | 0x12 | 0x14 => 32
  | 0x01 | 0x0E | 0x13 => 64
  | 0x02 | 0x03 | 0x0C | 0x11 => 16
  | 0x04 | 0x05 | 0x09 | 0x0A | 0x10 => 8
  | 0x06 | 0x07 => 6
  | 0x08 | 0x0B => 4
  | 0x0F => 128
  | 0x15 => 1
  | _ => 0

/-- The floating format of an element type. -/
def ftFmt (ty : Nat) : Option Fmt :=
  match ty with
  | 0x00 => some fmtF32
  | 0x01 => some fmtF64
  | 0x02 => some fmtF16
  | 0x03 => some fmtBf16
  | 0x04 => some fmtE4M3
  | 0x05 => some fmtE5M2
  | 0x06 => some fmtE2M3
  | 0x07 => some fmtE3M2
  | 0x08 => some fmtE2M1
  | _ => none

/-- A signed integer type, the i18 slice among them. -/
def ftSigned (ty : Nat) : Bool := (decide (0x0A ≤ ty) && decide (ty ≤ 0x0F)) || ty == 0x14
/-- The bits that an integer of a type has (R125). -/
def ftIntBits (ty : Nat) : Nat := if ty = 0x14 then 18 else ftBits ty
/-- The integer that an element of an integer type stands for. -/
def ftInt (ty x : Nat) : Int := if ftSigned ty then signed (ftIntBits ty) x else ((x % 2 ^ ftBits ty : Nat) : Int)
/-- The tag that a type gives an accumulator tile (R169). -/
def ftTag (ty : Nat) : Nat := if ty = 0x0D then 1 else if ty = 0x0E then 2 else 0

/-! ### Tensor descriptors (R154, R155) -/

structure FlsDesc where
  space : Nat
  ty : Nat
  base : Nat
  str : List Int
deriving DecidableEq, Repr

/-- The descriptor in slot i. -/
def bDesc (b : Block) (i : Nat) : FlsDesc :=
  let w (j : Nat) : Nat := wd b (12 + 4 * i + j)
  ⟨bits (w 0) 63 61, bits (w 0) 60 56, bits (w 0) 47 0,
   [signed 32 (w 1), signed 32 (w 1 >>> 32), signed 32 (w 2), signed 32 (w 2 >>> 32)]⟩

/-- The element index of a point: the sum of its coordinates times the strides (R157). -/
def dotInt (str : List Int) (p : List Nat) : Int := (str.zip p).foldl (fun (a : Int) e => a + e.1 * e.2) 0

/-- The points of an iteration space in ascending linear index (R157). -/
def gridOf (e : List Nat) : List (List Nat) :=
  match e with
  | [] => [[]]
  | n :: es => (gridOf es).flatMap fun p => (List.range n).map fun i => i :: p

/-- The slots that an operation uses, the mask among them (R161, R167). -/
def bSlots (b : Block) : List Nat :=
  (match bOp b with
   | 0x01 | 0x02 | 0x0A | 0x10 | 0x20 | 0x41 => [0, 1]
   | 0x06 | 0x0C | 0x42 => [0, 1, 2, 3]
   | 0x38 => [0]
   | 0x40 => if bSub b = 1 then [0, 1, 2, 4] else [0, 1, 2, 3, 4]
   | _ => [0, 1, 2]) ++ (if bMen b then [4] else [])

/-- The slots that an operation writes. -/
def bOuts (b : Block) : List Nat :=
  match bOp b with
  | 0x30 => [0, 2]
  | 0x40 => if bSub b = 1 then [0, 2, 4] else [0, 2, 3, 4]
  | _ => [0]

/-- The extents over which a slot's elements run (R162, R165, R167, R575). Under ACCUM a reduction whose reduced extents hold a 0
has no contributing point, so it leaves its destination alone and has no element there (R163). -/
def bShape (b : Block) (i : Nat) : List Nat :=
  let e := (List.range 4).map (bExt b)
  match bOp b, i with
  | 0x28, 1 => if e.contains 0 then e else [bPlen b, 1, 1, 1]
  | 0x29, 0 => if e.contains 0 then e else [bPlen b, 1, 1, 1]
  | 0x30, 2 => [cdiv (bExt b 0) 32, bExt b 1, bExt b 2, bExt b 3]
  | 0x31, 2 => [cdiv (bExt b 0) 32, bExt b 1, bExt b 2, bExt b 3]
  | 0x20, 0 =>
    if bAccum b && (e.take (bRdims b)).contains 0 then e
    else (List.range 4).map fun k => if k < bRdims b then 1 else bExt b k
  | 0x40, 4 => [1, bExt b 1, 1, 1]
  | _, _ => e

/-- The element indices of a slot. -/
def bIndices (b : Block) (i : Nat) : List Int := (gridOf (bShape b i)).map (dotInt (bDesc b i).str)

/-- The bits of storage of an element: runs of start and length within its space, a word of the accumulator store counting as
32 bits (R156, R157). -/
def elemBits (d : FlsDesc) (x : Int) : List (Nat × Nat) :=
  if d.space = 2 then
    let q := ((d.base : Int) + x).toNat
    (q * 32, 32) :: (if ftBits d.ty = 64 then [((q + 1024) * 32, 32)] else [])
  else [(((d.base * 8 : Nat) + x * (ftBits d.ty : Nat) : Int).toNat, ftBits d.ty)]

/-- Two runs share a bit. -/
def runsMeet (a b : Nat × Nat) : Bool := decide (a.1 < b.1 + b.2) && decide (b.1 < a.1 + a.2)

/-- The accumulator tiles of a slot. -/
def slotTiles (b : Block) (i : Nat) : List Nat :=
  let d := bDesc b i
  if d.space = 2 then (bIndices b i).flatMap fun x => (elemBits d x).map fun r => r.1 / 32768 else []
/-- The accumulator tiles that a command names in its slots (R168), and those that it writes. -/
def bAccTiles (b : Block) : List Nat := (bSlots b).flatMap (slotTiles b)
def bOutTiles (b : Block) : List Nat := (bOuts b).flatMap (slotTiles b)

/-- The slots that a command reads: a destination too where it accumulates (R162, R167). -/
def bIns (b : Block) : List Nat := (bSlots b).filter fun i => !(bOuts b).contains i || bAccum b

/-- The accumulator tiles in which a command changes elements: its outputs, and with RZERO what it reads (R169). -/
def bSetTiles (b : Block) : List Nat := bOutTiles b ++ if bRzero b then (bIns b).flatMap (slotTiles b) else []

/-- An element of a slot lies in one of `n` bytes at `a` of a space. -/
def slotMeets (b : Block) (i space a n : Nat) : Bool :=
  let d := bDesc b i
  d.space == space && (bIndices b i).any fun x => (elemBits d x).any fun r => runsMeet r (a * 8, n * 8)

/-- A slot whose elements are less than a byte wide. -/
def subByte (b : Block) (i : Nat) : Bool := decide (ftBits (bDesc b i).ty < 8)

/-- A command writes one of `n` bytes at `a` of a space; an element of less than a byte takes its whole 32-bit word (R159). -/
def bWrites (b : Block) (space a n : Nat) : Bool :=
  (bOuts b).any fun i =>
    if subByte b i then slotMeets b i space (a / 4 * 4) (cdiv (a + n) 4 * 4 - a / 4 * 4) else slotMeets b i space a n

/-- A command reads one of the bytes. -/
def bReads (b : Block) (space a n : Nat) : Bool :=
  (bIns b).any fun i => slotMeets b i space a n

/-- The commands of a tile whose destinations group `me` of it, or with none a group of another tile, must not read yet (R171):
those that have not completed, and those that no wait and barrier cover for it. -/
def flsOpen (x : Tile) (me : Option Nat) : List Block :=
  x.fls.map (·.words)
    ++ (x.uncovered.filter fun u => !u.words.isEmpty && !(u.ownsWait x && me == some u.from_.slot)).map (·.words)

/-- What group `me` reads in these bytes is undefined (R171). -/
def flsHazard (x : Tile) (me : Option Nat) (space a n : Nat) : Bool := (flsOpen x me).any fun b => bWrites b space a n

/-- What group g of tile t reads in these bytes of C-die k's Grotto is undefined. -/
def grtHazard (s : State) (t g k off n : Nat) : Bool :=
  s.tiles.any fun e => e.1 / 128 == k && flsHazard e.2 (if e.1 = t then some g else none) 1 off n

end Sys2Proof.Machine
end

