-- ==== Sys2Proof/Machine/Jobs.lean ====
section
/-!
DEFINITION. Grotto queue enables (R191), and jobs (R387-R405): submission, checks, launch, fencing, endings, completion
records and context images.
-/
namespace Sys2Proof.Machine

/-! ### Grotto queues: enable and disable (R191, R212) -/

/-- Whether an enable is refused, and with which code (R191, R263): the cases of R191 come first (DESIGN CHOICE, log entry 156). -/
def grtEnableCode (s : State) (k v : Nat) : Nat :=
  let log2 := bits v 52 49
  let ctx := bits v 58 53
  let base := bits v 47 28 * 128
  let bell := bits v 27 4 * 8
  let len := 128 * 2 ^ (log2 + 4)
  if 7 < bits v 62 59 ∨ 8 < log2 ∨ !(decide (base + len ≤ grtEnd) && decide (bell + 8 ≤ grtEnd) && grtOwned s k ctx base len && grtOwned s k ctx bell 8)
      ∨ (base ≤ bell ∧ bell < base + len) then 0x507
  else if bits v 62 59 = 7 ∧ rf s .drpStatus k 0 0 63 63 = 1 then 0x705
  else 0

/-- A disabled queue's descriptors that have not started stay in their slots untouched (R191) (DEDUCED, log entry 56). -/
def queueStop (s : State) (k key : Nat) : State :=
  let q := queue s k key
  setQueue s k key { q with taken := q.taken.filter fun t => t.started || t.result.isSome }

/-- A write of GRT_QCFG_n. A refused enable leaves the register and records its code (DEDUCED, log entry 22); an accepted one clears
HALTED and starts the ring over, and CODE stays (R197, R213). -/
def grtQcfgWrite (s : State) (k n v : Nat) : State :=
  let new := Reg.grtQcfg.spec.write (rget s .grtQcfg k 0 n) v
  if bit (rget s .grtQcfg k 0 n) 63 then
    if bit v 63 then s else queueStop (rset s .grtQcfg k 0 n new) k n
  else if bit v 63 then
    let code := grtEnableCode s k new
    if code ≠ 0 then rfset s .grtQstat k 0 n 47 32 code
    else
      let s := rset s .grtQcfg k 0 n new
      rset s .grtQstat k 0 n (2 ^ 12 + rf s .grtQstat k 0 n 47 32 <<< 32)
  else rset s .grtQcfg k 0 n new

/-! ### Job queues (R387, R402) -/

def jobQF (s : State) (k q hi lo : Nat) : Nat := rf s .jobQptr k 0 q hi lo

/-- A write of JOB_QCFG_n: a successful enable zeroes HEAD and TAIL, and CODE stays that of the last refusal (R402). -/
def jobQcfgWrite (s : State) (k q v : Nat) : State :=
  let new := Reg.jobQcfg.spec.write (rget s .jobQcfg k 0 q) v
  if bit (rget s .jobQcfg k 0 q) 63 then (if bit v 63 then s else rset s .jobQcfg k 0 q new)
  else if bit v 63 then
    let base := bits new 47 8 * 256
    let last := base + 256 * 2 ^ (bits new 59 56 + 4) - 1
    if 8 < bits new 59 56 ∨ !((inFast base && inFast last) || (inDeep base && inDeep last)) then rfset s .jobQptr k 0 q 63 48 0xA02
    else rfset (rfset (rset s .jobQcfg k 0 q new) .jobQptr k 0 q 43 32 0) .jobQptr k 0 q 11 0 0
  else rset s .jobQcfg k 0 q new

/-- A write of JOB_QPTR_n.TAIL: a TAIL at or above the slot count is discarded; a submission ends deep idle (R387, R507). -/
def jobTailWrite (s : State) (k q v : Nat) : State :=
  if jobqSize s k q ≤ bits v 11 0 then s else deepIdleExit (rfset s .jobQptr k 0 q 11 0 (bits v 11 0))

/-! ### Completion records (R394, R459) -/

/-- The first seven words of a record; the energy is rounded down to whole microjoules (R509). -/
def recordWords (s : State) (j : Job) : List W64 :=
  [w64 (j.endCode.getD 0 <<< 48 + j.firstStatus <<< 32 + j.alive.length <<< 12 + b2n j.saved <<< 11 + b2n j.nonrepro <<< 10
        + b2n j.tileLost <<< 9 + j.fls % 256),
   w64 (j.energy.1 / j.energy.2), w64 j.startTb, w64 (timebaseOf s j.ref.lead), w64 j.faultPc, w64 j.faultVa,
   w64 (j.faultTile <<< 44 + j.faultSlot <<< 40 + j.faultGroup % 2 ^ 32)]

/-- The last word, with DONE. -/
def recordLast (j : Job) : W64 :=
  w64 (2 ^ 63 + j.gen <<< 32 + j.ref.queue.val <<< 16 + j.ref.lead.val <<< 12 + j.ref.slot.val)

/-- The host interface may write a record (R459): the queue is as it was at the submission, and the function may send (that a
record of a queue then counts as lost is a DESIGN CHOICE, log entry 123). -/
def recordAllowed (s : State) (j : Job) : Bool :=
  canPost s && match j.host with
    | some (q, gen, _) => hqState s q == hqActive && bits (hq s q).cfg 55 48 == gen
    | none => true

/-- A handle is current (R380). -/
def ctxCurrent (s : State) (k ctx gen : Nat) : Bool :=
  let v := rget s .jobCtx k 0 ctx
  bit v 63 && bits v 59 44 == gen

/-- Writes a job's record, if it can be written, and forgets the job. -/
def jobFinish (s : State) (r : JobRef) : State :=
  match jobFind s r with
  | none => s
  | some j =>
    let ws := recordWords s j
    let k := j.ref.lead.val
    let addr := j.w 18
    let s :=
      if j.cplHost then
        if addr % 64 = 0 ∧ recordAllowed s j then
          let s := postWrite (postWrite s addr (wordBytes ws)) (addr + 56) (wordBytes [recordLast j])
          match j.host with
          | some (_, _, some v) => msix s v
          | _ => s
        else count s .hifLostRecords 14 0 0 1
      else
        let (code, pa, s) :=
          if j.cplPa ≠ 0 then (0, j.cplPa, s)
          else if addr % 64 ≠ 0 ∨ !canonical addr ∨ !ctxCurrent s k j.ctx j.gen then (j.endCode.getD 0, 0, s)
          else let x := translate s (walkerOf k) j.ctx addr .store
               (if x.1 = 0 then 0 else 0xA06, x.2.1, x.2.2)
        if code ≠ 0 then report s code k 2 0 0
        else (busWrite (busWrite s none false pa (wordBytes ws)).2 none false (pa + 56) (wordBytes [recordLast j])).2
    let s := if j.ctl then rfset (rfset s .jobCtlStatus k 0 0 63 63 0) .jobCtlStatus k 0 0 47 32 0 else s
    { s with jobs := s.jobs.filter fun x => x.ref != r }

/-! ### The checks of a descriptor (R388, R390) -/

/-- E_JOB_DESC: a reserved field, a value outside the table, a misaligned or non-canonical address, or PORTABLE with another
shape. -/
def descBad (j : Job) : Bool :=
  bits (j.w 0) 63 56 != 1 || bits (j.w 0) 55 54 != 0 || bits (j.w 0) 31 30 != 0 || bits (j.w 0) 23 6 != 0
  || !canonical (j.w 1) || j.w 1 % 8 != 0
  || j.ngroups == 0 || bits (j.w 2) 31 25 != 0 || bits (j.w 2) 24 16 == 0 || decide (256 < bits (j.w 2) 24 16)
  || decide (128 < bits (j.w 2) 15 8) || bits (j.w 2) 7 5 != 0 || decide (16 < bits (j.w 2) 4 0)
  || bits (j.w 3) 63 42 != 0 || decide (768 < bits (j.w 3) 41 32)
  || j.w 16 % 16 != 0 || !canonical (j.w 16)
  || bits (j.w 17) 63 32 != 0 || decide (1024 < bits (j.w 17) 31 16) || decide (1024 < bits (j.w 17) 15 0)
  || j.w 18 % 64 != 0 || (!j.cplHost && !canonical (j.w 18))
  || j.image % 4096 != 0 || !canonical j.image
  || (List.range 12).any (fun i => j.w (20 + i) != 0)
  || (j.portable && (j.dieMask != 0x3F || !(bits (j.w 3) 41 32 == 0 || bits (j.w 3) 41 32 == 736)))

/-- Enabled, unfenced tiles of DIEMASK. -/
def maskTiles (s : State) (j : Job) : Nat := j.dies.foldl (fun n k => n + dieTileCount s k) 0
/-- T (R391), with NTILES 0 the number of present tiles at this moment. -/
def jobT (s : State) (j : Job) : Nat :=
  if j.portable then 736 else if bits (j.w 3) 41 32 ≠ 0 then bits (j.w 3) 41 32 else maskTiles s j
/-- Check 3 of R390. -/
def tilesBad (s : State) (j : Job) : Bool := decide (maskTiles s j < jobT s j) || jobT s j == 0

/-- Who the lead dispatcher is when it reads a job's image and lists: its die's walker, at the homes. -/
def jobBy (j : Job) : EngBy := ⟨j.ref.lead.val, 2 ^ 30, j.ctx, true⟩

/-- The checks of an image against the descriptor (R397). -/
def imageCheck (s : State) (j : Job) : Nat × State :=
  let (code, bs, s) := engRead s (jobBy j) j.image 0x200
  if code ≠ 0 then (code, s)
  else
    let ws := toWords 64 bs
    let d (i : Nat) : Nat := wd ws (32 + i)
    let same := bits (d 0) 63 56 == bits (j.w 0) 63 56 && bits (d 3) 31 0 == j.qmask
      && (List.range 32).all fun i => i == 0 || i == 3 || i == 18 || i == 19 || d i == j.w i
    if bits (wd ws 0) 63 48 ≠ 1 ∨ !bit (wd ws 3) 63 ∨ !same then (0xA0F, s)
    else if bits (wd ws 0) 47 40 ≠ 0x20 ∨ bits (wd ws 0) 39 32 ≠ 4 then (0xA0E, s)
    else (0, s)

/-- Records a stale reference of a slot (R380): on every C-die, the counter's value at that moment (DEDUCED, log entry 75). -/
def noteStale (s : State) (ctx : Nat) : State :=
  (List.range 6).foldl (fun s k =>
    rset s .jobCtxstat k 0 ctx (2 ^ 63 + s.uszon.genCounter.toNat <<< 32 + rf s .jobCtxstat k 0 ctx 7 0)) s

/-- A job as a dispatcher takes it. -/
def newJob (s : State) (r : JobRef) (ws : List W64) : Job :=
  let hs := s.hostSubmits.find? fun h => JobRef.sameSlot h.job r
  { ref := r, words := ws, stage := .waiting false, tiles := [], ntiles := 0, next := [], rerun := [], exited := [], lost := [],
    ins := [], outs := [], cplPa := 0, shape := none, endCode := none, faulted := false, firstStatus := 0, fls := 0, tileLost := false, nonrepro := false,
    saved := false, silent := false, startTb := 0, faultPc := 0, faultVa := 0, faultTile := 0, faultSlot := 0,
    faultGroup := 0, host := hs.map fun h => (h.queue, h.qgen, h.jvec), energy := (0, 1), blocks := [], takenAt := s.master.toNat,
    ctl := false }

/-- A job that has no tiles ends at once, with its record (R390, R391). -/
def jobFail (s : State) (r : JobRef) (code : Nat) : State := jobFinish (jobEnd s r code id) r

/-- The lead dispatcher takes a descriptor and checks it (R390). -/
def jobAccept (s : State) (r : JobRef) (ws : List W64) : State :=
  let j := newJob s r ws
  let s := { s with jobs := s.jobs ++ [j], hostSubmits := s.hostSubmits.filter fun h => !JobRef.sameSlot h.job r }
  if descBad j then jobFail s r 0xA01
  else if !ctxCurrent s r.lead j.ctx j.gen then jobFail (noteStale s j.ctx) r 0xA03
  else if tilesBad s j then jobFail s r 0xA05
  else if j.restore then
    let (code, s) := imageCheck s j
    if code ≠ 0 then jobFail s r code else s
  else s

/-- A queue of a dispatcher has an entry that it may take: none of its jobs waits for tiles (R387). -/
def queueOpen (s : State) (k q : Nat) : Bool :=
  jobqEnabled s k q && jobQF s k q 43 32 != jobQF s k q 11 0
  && !(s.jobs.any fun j => j.ref.lead.val == k && j.ref.queue.val == q && (match j.stage with | .waiting _ => true | _ => false))

/-- The name of a job that slot `slot` of a queue gives: jobs of one slot, which a ring may wrap onto while an earlier one
runs, are told apart by a number. -/
def slotJob (s : State) (k q slot : Nat) : JobRef :=
  let r : JobRef := ⟨Fin.ofNat 6 k, Fin.ofNat 16 q, Fin.ofNat 4096 slot, 0⟩
  { r with n := s.jobs.foldl (fun m j => if JobRef.sameSlot j.ref r then Nat.max m (j.ref.n + 1) else m) 0 }

/-- JOB_TAKE (R387): the next queue round robin gives its head slot, read as NcReads. -/
def jobTake (s : State) (k : Nat) : State :=
  let first := mget 0 s.rrNext k
  match ((List.range 16).map fun i => (first + i) % 16).find? (queueOpen s k) with
  | none => s
  | some q =>
    let head := jobQF s k q 43 32
    let pa := rf s .jobQcfg k 0 q 47 8 * 256 + 256 * head
    let s := { s with rrNext := mput 0 s.rrNext k ((q + 1) % 16) }
    let (code, bs, s) := busRead s none false pa 256
    let s := rfset s .jobQptr k 0 q 43 32 ((head + 1) % jobqSize s k q)
    if code ≠ 0 then report s code k 1 pa (k + q <<< 8 + head <<< 16)
    else jobAccept s (slotJob s k q head) (toWords 32 bs)

/-! ### Regions (R389, R391) -/

/-- The physical pages of a virtual range: code, the failing address, and ranges. -/
def rangePages : Nat → State → Nat → Nat → Nat → Nat → Need → Nat × Nat × List (Nat × Nat) × State
  | 0, s, _, _, _, _, _ => (0, 0, [], s)
  | n + 1, s, k, ctx, va, len, need =>
    if len = 0 then (0, 0, [], s)
    else
      let m := Nat.min len (4096 - va % 4096)
      let (code, pa, s) := if canonical va then translate s (walkerOf k) ctx va need else (0xA07, 0, s)
      if code ≠ 0 then (code, va, [], s)
      else
        let (code, bad, rest, s) := rangePages n s k ctx (va + m) (len - m) need
        (code, bad, (pa, pa + m) :: rest, s)

/-- Translates the region list's entries from `i` on: code, failing address, inputs and outputs (DEDUCED, log entry 76). -/
def regionList : Nat → State → Job → Nat → Nat × Nat × List (Nat × Nat) × List (Nat × Nat) × State
  | 0, s, _, _ => (0, 0, [], [], s)
  | n + 1, s, j, i =>
    let nin := bits (j.w 17) 31 16
    let va := j.w 16 + 16 * i
    let (code, bs, s) := engRead s (jobBy j) va 16
    let base := ofBytes (bs.take 8)
    let len := ofBytes (bs.drop 8)
    if code ≠ 0 then (0xA06, va, [], [], s)
    else if len = 0 then (0xA06, base, [], [], s)
    else
      let (code, bad, ps, s) := rangePages (len / 4096 + 2) s j.ref.lead j.ctx base len (if i < nin then .load else .store)
      if code ≠ 0 then (0xA06, bad, [], [], s)
      else
        let (code, bad, ins, outs, s) := regionList n s j (i + 1)
        (code, bad, if i < nin then ps ++ ins else ins, if i < nin then outs else ps ++ outs, s)

/-! ### Launch (R391, R392) -/

/-- Clears a tile for a job (R51, R90, R114, R170, R371): its engines are cold, its L1 is invalidated and pending fills are
discarded. -/
def tileForJob (s : State) (t rank : Nat) (j : Job) : State :=
  let x := tile s t
  let s := tlbDrop s (· == t) j.ctx
  setTile s t { x with
    mode := .running, job := some j.ref, ctx := j.ctx, alloc := j.alloc, slmBytes := j.slmBytes, rank := rank, groups := [],
    slm := [], opCache := [], acc := [], accTags := 0, barriers := [], l1 := [], fls := [], uncovered := [], heldBy := none,
    engines := x.engines.map fun e => (e.1, { Engine.reset with freeAt := e.2.freeAt }),
    l1Miss := x.l1Miss.map fun m => { m with discard := true, waiting := [] } }

/-- A tile is free for a job. -/
def tileFree (s : State) (t : Nat) : Bool := tileOpen s t && (tile s t).job.isNone

/-- Enables the queues of QMASK on every die of DIEMASK: the code of the first refusal (R391 step 4). -/
def jobQueuesOn (s : State) (j : Job) : Nat × State :=
  if j.qmask = 0 then (0, s)
  else if j.dies.any fun k => !dieActive s k then (0xD80, s)
  else
    (j.dies.flatMap fun k => (List.range 32).map fun n => (k, n)).foldl (fun (acc : Nat × State) p =>
      let (code, s) := acc
      if code ≠ 0 ∨ !bit j.qmask p.2 ∨ bit (rget s .grtQcfg p.1 0 p.2) 63 then acc
      else
        let s := grtQcfgWrite s p.1 p.2 (rget s .grtQcfg p.1 0 p.2 + 2 ^ 63)
        if bit (rget s .grtQcfg p.1 0 p.2) 63 then (0, s) else (rf s .grtQstat p.1 0 p.2 47 32, s)) (0, s)

/-- Disables the queues of QMASK (R393 step 2). -/
def jobQueuesOff (s : State) (j : Job) : State :=
  (j.dies.flatMap fun k => (List.range 32).map fun n => (k, n)).foldl (fun s p =>
    if bit j.qmask p.2 then grtQcfgWrite s p.1 p.2 (rget s .grtQcfg p.1 0 p.2 % 2 ^ 63) else s) s

/-- The tiles of a job are free again. A decoder binding ends with the last job of its context on the quad, also where the
job's tiles there have been fenced (R234); a change of the stream that another queue has started goes on (R236; DESIGN
CHOICE, log entry 114). -/
def releaseTiles (s : State) (j : Job) : State :=
  let s := j.alive.foldl (fun s t =>
    let x := tile s t
    setTile s t { Tile.reset with l1 := x.l1, l1Plru := x.l1Plru, l1Miss := x.l1Miss, engines := x.engines.map fun e =>
      (e.1, { Engine.reset with cold := e.2.cold, freeAt := e.2.freeAt }) }) s
  j.tiles.foldl (fun s t =>
    let k := t / 128
    let q := quadOf (t % 128)
    if (quadTiles k q).any fun u => (tile s u).job.isSome && (tile s u).ctx == j.ctx then s
    else
      let g := grotto s k
      let mine (b : Binding) : Bool := b.ctx != j.ctx
      let off (d : DecStream) : DecStream :=
        { bound := d.bound.filter mine, changing := d.changing.map fun c => { c with next := c.next.filter mine } }
      let ds := (g.decoders.map fun e => (e.1, if e.1 / 8 == q then off e.2 else e.2)).filter fun e => e.2 != DecStream.reset
      setGrotto s k { g with decoders := ds }) s

/-- A word of an image, and how a group's block of it is read (R396). -/
def restoreGroup (bs : List Byte) (slot alloc : Nat) (regs : List Byte) : Group :=
  let ws := toWords 256 bs
  let depth := wd ws 2
  let stack := (List.range depth).reverse.map fun i =>
    let rpc := wd ws (80 + 3 * i + 1)
    (⟨w64 (wd ws (80 + 3 * i)), BitVec.ofNat 32 (wd ws (80 + 3 * i + 2)), if rpc = 2 ^ 64 - 1 then none else some (w64 rpc)⟩ : StackEntry)
  let live := stack.foldl (fun m e => m ||| e.mask) 0
  let vregs : Map W32 := (List.range (alloc * 32)).foldl (fun m i =>
    mput 0 m i (BitVec.ofNat 32 (ofBytes ((regs.drop ((slot * alloc * 32 + i) * 4)).take 4)))) []
  let sregs : Map W64 := (List.range 64).foldl (fun m i => mput 0 m i (w64 (wd ws (8 + i)))) []
  let preds : Map W32 := (List.range 16).foldl (fun m i =>
    mput 0 m i (BitVec.ofNat 32 (ofBytes ((bs.drop (0x240 + 4 * i)).take 4)))) []
  { groupId := wd ws 1, attempt := 0, stack := stack, exited := ~~~ live, vregs := vregs, sregs := sregs, preds := preds,
    wait := .ready, pend := [], unperformed := [], invisible := [] }

/-- Restores one tile block of an image at `base`, with the lengths of its accumulator, operand-cache, group and last areas. -/
def restoreParts (s : State) (j : Job) (t base accLen ocLen grLen miscLen : Nat) : Nat × State :=
  let (c1, regs, s) := engRead s (jobBy j) base (16 * j.alloc * 128)
  let (c2, slm, s) := engRead s (jobBy j) (base + 0x40000) j.slmBytes
  let (c3, acc, s) := engRead s (jobBy j) (base + 0xC0000) accLen
  let (c4, oc, s) := engRead s (jobBy j) (base + 0xE0000) ocLen
  let (c5, gs, s) := engRead s (jobBy j) (base + 0xF0000) grLen
  let (c6, misc, s) := engRead s (jobBy j) (base + 0xF8000) miscLen
  let code := [c1, c2, c3, c4, c5, c6].foldl (fun a c => if a = 0 then c else a) 0
  if code ≠ 0 then (code, s)
  else
    let ws := toWords 82 misc
    let resident := wd ws 0
    let slots (m : Nat) : List Nat := (List.range 16).filter fun g => bit m g
    let bars : Map Barrier := (List.range 16).filterMap fun b =>
      let v := wd ws (18 + b)
      let u := wd ws (34 + b)
      let phases := wd ws (50 + 2 * b) + wd ws (51 + 2 * b) <<< 64
      if v = 0 ∧ u = 0 then none
      else some (b, { named := bit v 24, count := bits v 7 0, need := bits v 15 8, arrived := bits v 23 16,
                      waiters := slots (bits v 47 32), early := slots (bits u 15 0),
                      passed := (slots (bits u 31 16)).map fun g => (g, bits phases (8 * g + 7) (8 * g)) })
    let groups : Map Group := (List.range 16).filterMap fun g =>
      if bit resident g then
        let gr := restoreGroup ((gs.drop (0x800 * g)).take 0x800) g j.alloc regs
        let w := bars.find? fun e => e.2.waiters.contains g
        some (g, { gr with wait := match w with | some e => .barrier e.1 | none => .ready })
      else none
    let x := tile s t
    let s := setTile s t { x with
      groups := groups, slm := memPut [] 0 slm, opCache := memPut [] 0 oc, accTags := w64 (wd ws 1), barriers := bars,
      acc := (List.range 0x8000).foldl (fun m i => mput 0 m i (BitVec.ofNat 32 (ofBytes ((acc.drop (4 * i)).take 4)))) [] }
    (0, (List.range 16).foldl (fun s g => rset s .flsStat (t / 128) (t % 128) g (wd ws (2 + g))) s)

/-- Restores block `b` of an image onto a tile (R396-R398): code and state. -/
def restoreBlock (s : State) (j : Job) (t b : Nat) : Nat × State :=
  restoreParts s j t (j.image + 0x1000 + b * 0x100000) 0x20000 0x10000 0x8000 656

/-- Restores a job's image onto its tiles (R397, R398). -/
def restoreJob (s : State) (r : JobRef) : Nat × State :=
  match jobFind s r with
  | none => (0, s)
  | some j =>
    let (code, hd, s) := engRead s (jobBy j) j.image 0x1000
    if code ≠ 0 then (code, s)
    else
      let ws := toWords 512 hd
      let oldT := bits (wd ws 0) 9 0
      let t' := j.tiles.length
      let nxt (r : Nat) : Nat := ofBytes ((hd.drop (0x200 + 4 * r)).take 4)
      let left : List (Nat × Nat) := (List.range j.ngroups).filterMap fun g => if nxt (g % oldT) ≤ g / oldT then some (g, 0) else none
      let s := jobMod s r fun j =>
        { j with firstStatus := bits (wd ws 1) 63 48, fls := bits (wd ws 1) 7 0, nonrepro := j.nonrepro || t' != oldT,
                 next := if t' = oldT then (List.range t').filterMap fun r => if nxt r = 0 then none else some (r, nxt r)
                         else (List.range t').map fun r => (r, j.ngroups),
                 rerun := if t' = oldT then [] else left, shape := if t' = oldT then none else some oldT,
                 blocks := (List.range (oldT - t')).map fun i => t' + i }
      (List.range (Nat.min t' oldT)).foldl (fun (acc : Nat × State) b =>
        if acc.1 ≠ 0 then acc else restoreBlock acc.2 j (nth j.tiles b) b) (0, s)

/-- A job's launch fails: it releases its tiles and runs no group (R391). -/
def launchFail (s : State) (r : JobRef) (code va : Nat) : State :=
  match jobFind s r with
  | none => s
  | some j =>
    let s := releaseTiles s j
    jobFinish (jobMod s r fun j => { j with endCode := some code, faultVa := va, ntiles := j.tiles.length }) r

/-- The dies whose further reservations a job that has waited 10 ms stops (R391). -/
def blockedBy (s : State) (j : Job) : Bool :=
  s.jobs.any fun x => x.ref != j.ref && (match x.stage with | .waiting true => true | _ => false) && (x.dieMask &&& j.dieMask) != 0

/-- SERIAL: an earlier job of the queue has not completed (R387). -/
def serialWait (s : State) (j : Job) : Bool :=
  j.serial && (s.jobs.takeWhile fun x => x.ref != j.ref).any fun x => x.ref.lead == j.ref.lead && x.ref.queue == j.ref.queue

/-- JOB_TILES_RESERVED (R391): once T tiles of DIEMASK are free the job takes the lowest-numbered ones, and its launch is
prepared. -/
def jobReserve (s : State) (r : JobRef) : State :=
  match jobFind s r with
  | none => s
  | some j =>
    match j.stage with
    | .waiting blocked =>
      if tilesBad s j then jobFail s r 0xA05
      else
        let T := jobT s j
        let free := (j.dies.flatMap dieTiles).filter (tileFree s)
        if free.length < T ∨ serialWait s j ∨ (!blocked && blockedBy s j) then s
        else
          let ts := free.take T
          let s := jobMod s r fun j => { j with stage := .running, tiles := ts, ntiles := T }
          let s := (List.range T).foldl (fun s i => tileForJob s (nth ts i) i j) s
          -- the completion address (R391 step 2)
          let (cc, pa, s) := if j.cplHost then (0, 0, s) else translate s (walkerOf j.ref.lead) j.ctx (j.w 18) .store
          let (rc, bad, ins, outs, s) := regionList (bits (j.w 17) 31 16 + bits (j.w 17) 15 0) s j 0
          if rc ≠ 0 then launchFail (jobMod s r fun j => { j with cplPa := pa }) r 0xA06 bad
          else if cc ≠ 0 then
            let s := releaseTiles s { j with tiles := ts }
            report { s with jobs := s.jobs.filter fun x => x.ref != r } 0xA06 j.ref.lead 2 0 0
          else
            let s := jobMod s r fun j => { j with ins := ins, outs := outs, cplPa := pa }
            let j' := { j with tiles := ts, ins := ins, outs := outs }
            let s := j'.parts.foldl (fun s k => ins.foldl (fun s p => dccRangeNow s k 1 p.1 p.2) s) s
            let (qc, s) := jobQueuesOn s j
            if qc ≠ 0 then launchFail (jobQueuesOff s j) r qc 0
            else if j.restore then
              let (ic, s) := restoreJob s r
              if ic ≠ 0 then launchFail s r ic 0 else s
            else s
    | _ => s

/-- The groups placed on a rank (R392). -/
def placed (n T rank : Nat) : Nat := if rank < n then (n - 1 - rank) / T + 1 else 0

/-- A group as it is launched (R52, R392). -/
def newGroup (j : Job) (rank g attempt : Nat) : Group :=
  let args : Map W64 := (List.range 12).foldl (fun m i => mput 0 m i (w64 (j.w (4 + i)))) []
  let T := j.tiles.length
  let sr := mput 0 (mput 0 (mput 0 (mput 0 args 12 (w64 j.ngroups)) 13 (w64 rank)) 14 (w64 (placed j.ngroups T rank))) 15 (w64 attempt)
  { groupId := g, attempt := attempt, stack := [⟨w64 (j.w 1), BitVec.allOnes 32, none⟩], exited := 0, vregs := [], sregs := sr,
    preds := [], wait := .ready, pend := [], unperformed := [], invisible := [] }

/-- The lowest free slot of a tile, if the job may have another group there (R50). -/
def freeSlot (s : State) (t : Nat) (j : Job) : Option Nat :=
  let x := tile s t
  if j.maxGroups ≤ x.groups.length then none else (List.range 16).find? fun g => (mfind x.groups g).isNone

/-- Puts a group into a slot (R52, R173). -/
def launchInto (s : State) (r : JobRef) (j : Job) (t rank slot g attempt : Nat) : State :=
  let s := setGroup s t slot (newGroup j rank g attempt)
  let s := rset s .flsStat (t / 128) (t % 128) slot 0
  jobMod s r fun x => { x with startTb := if x.startTb = 0 then timebaseOf s r.lead else x.startTb }

/-- GROUP_LAUNCH (R392, R395, R398): a group that runs again, or that another rank left, goes to the first surviving tile
with a free slot; otherwise the rank's next group. An image's further block goes onto the first tile that has finished. -/
def groupLaunch (s : State) (r : JobRef) (rank : Nat) : State :=
  match jobFind s r with
  | none => s
  | some j =>
    let t := nth j.tiles rank
    if j.stage != .running || j.endCode.isSome || decide (j.tiles.length ≤ rank) || j.lost.contains t then s
    else
      let first (p : Nat → Bool) : Bool := (j.alive.find? p) == some t
      match j.blocks with
      | b :: bs =>
        if first fun u => (tile s u).groups.isEmpty && tileQuiet s u then
          let (code, s) := restoreBlock s j t b
          if code ≠ 0 then jobEnd s r code id else jobMod s r fun x => { x with blocks := bs }
        else s
      | [] =>
        match freeSlot s t j with
        | none => s
        | some slot =>
          match j.rerun with
          | (g, a) :: rest =>
            if first fun u => (freeSlot s u j).isSome then
              launchInto (jobMod s r fun x => { x with rerun := rest }) r j t rank slot g a
            else s
          | [] =>
            let n := mget 0 j.next rank
            let g := rank + n * j.tiles.length
            if g < j.ngroups then
              launchInto (jobMod s r fun x => { x with next := mput 0 x.next rank (n + 1) }) r j t rank slot g 0
            else s

/-! ### Fencing (R395, R405) -/

/-- The groups that must run again or elsewhere when a tile of rank `rank` is fenced. -/
def rerunOf (s : State) (j : Job) (t rank : Nat) : List (Nat × Nat) :=
  let res := (tile s t).groups.map fun e => (e.2.groupId, e.2.attempt + 1)
  let exd := (j.exited.filter fun e => e.2.1 == t).map fun e => (e.1, e.2.2 + 1)
  let n := mget 0 j.next rank
  let unl := (List.range (placed j.ngroups j.tiles.length rank - n)).map fun i => (rank + (n + i) * j.tiles.length, 0)
  res ++ exd ++ unl

/-- Inserts by group number. -/
def insGroup (l : List (Nat × Nat)) (e : Nat × Nat) : List (Nat × Nat) :=
  (l.takeWhile fun x => x.1 ≤ e.1) ++ e :: l.dropWhile fun x => x.1 ≤ e.1

/-- A job loses a tile (R393, R395). -/
def jobLosesTile (s : State) (r : JobRef) (t : Nat) : State :=
  match jobFind s r with
  | none => s
  | some j =>
    if j.lost.contains t then s
    else
      let again := rerunOf s j t (tile s t).rank
      let s := jobMod s r fun j => { j with lost := j.lost ++ [t], tileLost := true, nonrepro := true }
      if j.endCode.isSome then s
      else if !j.tolerant then jobEnd s r 0xA0A id
      else if j.alive.length ≤ 1 then jobEnd s r 0xA0B id
      else
        jobMod s r fun j => { j with
          rerun := again.foldl insGroup j.rerun, exited := j.exited.filter fun e => e.2.1 != t,
          next := mput 0 j.next (tile s t).rank (placed j.ngroups j.tiles.length (tile s t).rank) }

/-- Jobs that wait for tiles are checked again when the tiles change (R391). -/
def jobsRecheck (s : State) : State :=
  s.jobs.foldl (fun s j =>
    match j.stage with
    | .waiting _ => if tilesBad s j then jobFail s j.ref 0xA05 else s
    | _ => s) s

/-- Descriptors of the tile's die that run and use the tile's SLM complete with E_GRT_SITE and leave undefined what they wrote
elsewhere; nothing more is written to the tile (R200). The Dripstone looks at its site by itself (R264). -/
def siteLost (s : State) (t : Nat) : State :=
  let here (r : Nat × Nat × Nat) : Bool := r.1 == t + 1
  let one (d : Taken) : Taken :=
    if d.started && d.engine != 7 && (d.reads ++ d.writes).any here then
      { d with spoiled := true, writes := d.writes.filter fun r => !here r,
               result := d.result.map fun r => if r.1 = 0 then (0x505, 0) else r }
    else d
  let g := grotto s (tileDie t)
  setGrotto s (tileDie t) { g with queues := g.queues.map fun e => (e.1, { e.2 with taken := e.2.taken.map one }) }

/-- Uszon fences a tile (R395, R405): its state is lost, its job ends or goes on. `record` enters it in the fence record. -/
def fenceTile (s : State) (t : Nat) (record : Bool) : State :=
  if tileFenced s t then s
  else
    let s := match (tile s t).job with
      | some r => jobLosesTile s r t
      | none => s
    let s := setTileCounts (setFenced (setTile (siteLost s t) t Tile.reset) t true)
    jobsRecheck (if record then fenceEnter s [t] else s)

/-! ### Images (R396) -/

/-- The bytes of a word map. -/
def mapBytes (m : Map Byte) (n : Nat) : List Byte := (List.range n).map fun i => mget 0 m i

/-- A group's block of an image. -/
def imageGroup (g : Group) : List Byte :=
  let st := g.stack.reverse
  let head := [g.top.pc, w64 g.groupId, w64 st.length, 0, 0, 0, 0, 0]
  let sr := (List.range 64).map fun i => mget 0 g.sregs i
  let pr := (List.range 16).flatMap fun p => toBytes 4 (mget 0 g.preds p).toNat
  let se := st.flatMap fun e => [e.pc, e.rpc.getD (BitVec.allOnes 64), w64 e.mask.toNat]
  wordBytes head ++ wordBytes sr ++ pr ++ wordBytes se

/-- Writes rank `b`'s tile block. -/
def imageTile (s : State) (j : Job) (t b : Nat) : Nat × State :=
  let x := tile s t
  let base := j.image + 0x1000 + b * 0x100000
  let regs := (List.range 16).flatMap fun g => (List.range x.alloc).flatMap fun v => (List.range 32).flatMap fun l =>
    toBytes 4 (match mfind x.groups g with | some gr => vget gr v l | none => 0)
  let acc := (List.range 0x8000).flatMap fun q => toBytes 4 (mget 0 x.acc q).toNat
  let resident := x.groups.foldl (fun m e => m ||| 2 ^ e.1) 0
  let mask (l : List Nat) : Nat := l.foldl (fun m g => m ||| 2 ^ g) 0
  let bars (f : Barrier → Nat) : List W64 := (List.range 16).map fun b =>
    match mfind x.barriers b with
    | none => 0
    | some y => w64 (f y)
  let phases : List W64 := (List.range 16).flatMap fun b =>
    let p := match mfind x.barriers b with | none => [] | some y => y.passed
    let v := p.foldl (fun m e => m + e.2 % 256 <<< (8 * e.1)) 0
    [w64 v, w64 (v >>> 64)]
  let misc := [w64 resident, x.accTags] ++ (List.range 16).map (fun g => w64 (rget s .flsStat (t / 128) (t % 128) g))
    ++ bars (fun y => y.count + y.need <<< 8 + y.arrived <<< 16 + b2n y.named <<< 24 + mask y.waiters <<< 32)
    ++ bars (fun y => mask y.early + mask (y.passed.map Prod.fst) <<< 16) ++ phases
  let parts := [(base, regs), (base + 0x40000, mapBytes x.slm x.slmBytes), (base + 0xC0000, acc), (base + 0xE0000, mapBytes x.opCache 0x10000),
    (base + 0xF8000, wordBytes misc)] ++ x.groups.map fun e => (base + 0xF0000 + 0x800 * e.1, imageGroup e.2)
  parts.foldl (fun (a : Nat × State) p =>
    let r := engWrite a.2 (jobBy j) p.1 p.2
    (if a.1 = 0 then r.1 else a.1, r.2)) (0, s)

/-- The tile count of a job's image: its own, or that of the image that it resumed onto fewer tiles (DESIGN CHOICE, log
entry 113). -/
def imageTiles (j : Job) : Nat := Nat.max j.tiles.length (j.shape.getD 0)

/-- NEXT_r of an image (R396). A job that resumed on another number of tiles launches its groups in ascending g (R398):
those left of rank `r` are its last ones, or the image cannot say which they are and the word is free (DESIGN CHOICE, log
entry 113). -/
def imageNext (s : State) (j : Job) (r : Nat) : Nat × State :=
  if j.shape.isNone then (mget 0 j.next r, s)
  else
    let N := imageTiles j
    let n := placed j.ngroups N r
    let left := (j.rerun.map Prod.fst).filter fun g => g % N == r
    let k := n - left.length
    if left = (List.range left.length).map fun i => r + (k + i) * N then (k, s)
    else let (v, s) := drawFree s; (v.toNat % 2 ^ 32, s)

/-- The address of the group states of tile block `b` of a job's image (R396). -/
def imageGroups (j : Job) (b : Nat) : Nat := j.image + 0x1000 + b * 0x100000 + 0xF8000

/-- The code of an earlier part stands before this part's. -/
def firstCode (code : Nat) (r : Nat × State) : Nat × State := (if code = 0 then r.1 else code, r.2)

/-- Tile block `b` of a job's image holds no group any more (R396). -/
def blockGone (s : State) (j : Job) (b : Nat) : Nat × State := engWrite s (jobBy j) (imageGroups j b) (wordBytes [0])

/-- The blocks of an image that stay as they were, waiting for a tile, and those of an earlier image whose groups have all
gone: nothing is resident there. -/
def imageRest (s : State) (j : Job) : Nat × State :=
  ((List.range (imageTiles j)).filter fun b => decide (j.tiles.length ≤ b) && !j.blocks.contains b).foldl
    (fun (a : Nat × State) b => firstCode a.1 (blockGone a.2 j b)) (0, s)

/-- Writes the whole image, its header last and COMPLETE last of all: code and state (DEDUCED, log entry 72). -/
def saveImage (s : State) (j : Job) : Nat × State :=
  let (code, s) := (List.range j.tiles.length).foldl (fun (a : Nat × State) b =>
    let r := imageTile a.2 j (nth j.tiles b) b
    (if a.1 = 0 then r.1 else a.1, r.2)) (0, s)
  let (rest, s) := imageRest s j
  if code ≠ 0 then (code, s)
  else if rest ≠ 0 then (rest, s)
  else
    let N := imageTiles j
    let h0 := w64 (1 <<< 48 + 0x20 <<< 40 + 4 <<< 32 + N)
    let h1 := w64 (j.firstStatus <<< 48 + j.fls % 256)
    let (next, s) := (List.range N).foldl (fun (a : List Byte × State) r =>
      let x := imageNext a.2 j r
      (a.1 ++ toBytes 4 x.1, x.2)) ([], s)
    let (c1, s) := engWrite s (jobBy j) j.image (wordBytes [h0, h1, 0, 0])
    let (c2, s) := engWrite s (jobBy j) (j.image + 0x100) (wordBytes j.words)
    let (c3, s) := engWrite s (jobBy j) (j.image + 0x200) next
    let (c4, s) := engWrite s (jobBy j) (j.image + 0x18) (wordBytes [w64 (2 ^ 63)])
    ([c1, c2, c3, c4].foldl (fun a c => if a = 0 then c else a) 0, s)

/-- A job that R396 can save. -/
def saveable (j : Job) : Bool := j.qmask == 0 && !j.tileLost && j.image != 0

/-! ### Completion (R372, R393) -/

/-- Every group of a job has exited and none is left to launch. -/
def jobDone (s : State) (j : Job) : Bool :=
  j.rerun.isEmpty && j.blocks.isEmpty && j.alive.all (fun t => (tile s t).groups.isEmpty)
  && (List.range j.tiles.length).all fun r => j.lost.contains (nth j.tiles r) || decide (placed j.ngroups j.tiles.length r ≤ mget 0 j.next r)

/-- Every descriptor of the job has completed; on another ending, every one that has started (R372, R393). -/
def queuesQuiet (s : State) (j : Job) : Bool :=
  j.dies.all fun k => !dieActive s k || (List.range 32).all fun n =>
    !bit j.qmask n || (queue s k n).taken.all fun d => j.endCode.isSome && !d.started

/-- L1 DRAIN of a tile (R279): every entry of its merging buffer is written to the die cache. What is still inside a lost die is not
performed (R39). -/
def drainTile (s : State) (t : Nat) : State :=
  let x := tile s t
  let s := if dieActive s (tileDie t) then
      x.merge.foldl (fun s e => dccWriteNow s (tileDie t) (t % 128 * 16) e.line e.bytes false e.streaming) s
    else s
  setTile s t { tile s t with merge := [] }

/-- JOB_COMPLETE (R372, R393): the image, the drains, the cleans, the drains at the homes, and the record. -/
def jobComplete (s : State) (r : JobRef) : State :=
  match jobFind s r with
  | none => s
  | some j =>
    if j.stage != .running then s
    else if !((j.endCode.isSome || jobDone s j) && j.alive.all (tileQuiet s) && queuesQuiet s j) then s
    else
      let s := jobQueuesOff s j
      let (saved, s) :=
        if saveable j && ((j.endCode == some 0 && j.saved) || (j.saveFlt && j.faulted)) then
          let (code, s) := saveImage s j
          (code == 0, s)
        else (false, s)
      let s := j.alive.foldl drainTile s
      let s := j.parts.foldl (fun s k => if dieActive s k then j.outs.foldl (fun s p => dccRangeNow s k 2 p.1 p.2) s else s) s
      let (lost, s) := j.outs.foldl (fun (a : Bool × State) p => let x := drainAll a.2 p.1 p.2; (a.1 || x.1, x.2)) (false, s)
      let s := jobStatus s r (if lost then 0x843 else 0)
      let s := jobMod s r fun x => { x with saved := saved, endCode := some (x.endCode.getD 0) }
      let s := jobFinish s r
      releaseTiles s j

/-! ### JOB_CTL (R404) -/

def jobCtlCode (s : State) (k code : Nat) : State := rfset s .jobCtlStatus k 0 0 47 32 code

/-- The running job that a JOB_CTL word names on its lead die; of several that one slot gave, the oldest (DESIGN CHOICE, log
entry 63). -/
def jobNamed (s : State) (k v : Nat) : Option Job :=
  s.jobs.find? fun j => j.ref.lead.val == k && j.ref.queue.val == bits v 19 16 && j.ref.slot.val == bits v 11 0
    && j.stage == .running && j.endCode.isNone

/-- ABORT: a running job ends once its work has completed. -/
def jobAbort (s : State) (k v : Nat) : State :=
  if rf s .jobCtlStatus k 0 0 63 63 = 1 then jobCtlCode s k 0xA10
  else
    match jobNamed s k v with
    | none => jobCtlCode s k 0xA10
    | some j =>
      jobEnd (rfset (jobMod s j.ref fun x => { x with ctl := true }) .jobCtlStatus k 0 0 63 63 1) j.ref 0xA0C id

/-- PREEMPT (R393, R396, R404). -/
def jobPreempt (s : State) (k v : Nat) : State :=
  if rf s .jobCtlStatus k 0 0 63 63 = 1 then jobCtlCode s k 0xA10
  else
    match jobNamed s k v with
    | none => jobCtlCode s k 0xA10
    | some j =>
      if !saveable j then jobCtlCode s k 0xA0D
      else jobEnd (rfset (jobMod s j.ref fun x => { x with ctl := true }) .jobCtlStatus k 0 0 63 63 1) j.ref 0 fun x => { x with saved := true }

/-- TLB_INV on its own die (R385, R404). -/
def jobTlbInv (s : State) (k v : Nat) : State :=
  if rf s .jobCtlStatus k 0 0 63 63 = 1 then jobCtlCode s k 0xA10
  else jobCtlCode (tlbDrop s (onDie k) (bits v 59 54)) k 0

/-! ### The commands -/

/-- A register of a C-die answers a writer of the dispatcher's kind: the die is ACTIVE, the writer Uszon or a core (R574). -/
def cWrite (s : State) (a : Agent) (k : CDie) : Bool := dieActive s k.val && agentMay a .uszonCore

/-- JOB_SUBMIT. -/
def execJobSubmit (a : Agent) (k : CDie) (q : Fin 16) (v : W64) (s : State) : Out :=
  .next (if cWrite s a k then jobTailWrite s k q v.toNat else s)
/-- JOB_TAKE. -/
def execJobTake (k : CDie) (s : State) : Out := .next (if dieActive s k.val && mainUp s then jobTake s k else s)
/-- JOB_TILES_RESERVED. -/
def execJobTilesReserved (j : JobRef) (s : State) : Out := .next (if dieActive s j.lead.val then jobReserve s j else s)
/-- JOB_WAIT_PRIORITY (R391): a job that has waited 10 ms stops further reservations. -/
def execJobWaitPriority (j : JobRef) (s : State) : Out :=
  .next (jobMod s j fun x => match x.stage with | .waiting _ => { x with stage := .waiting true } | _ => x)
/-- GROUP_LAUNCH. -/
def execGroupLaunch (j : JobRef) (rank : Nat) (s : State) : Out := .next (groupLaunch s j rank)
/-- JOB_COMPLETE. -/
def execJobComplete (j : JobRef) (s : State) : Out := .next (jobComplete s j)
/-- JOB_QCFG_WRITE. -/
def execJobQcfgWrite (a : Agent) (k : CDie) (q : Fin 16) (v : W64) (s : State) : Out :=
  .next (if cWrite s a k then jobQcfgWrite s k q v.toNat else s)
/-- JOB_ABORT. -/
def execJobAbort (a : Agent) (k : CDie) (v : BitVec 60) (s : State) : Out :=
  .next (if cWrite s a k then jobAbort s k v.toNat else s)
/-- JOB_PREEMPT. -/
def execJobPreempt (a : Agent) (k : CDie) (v : BitVec 60) (s : State) : Out :=
  .next (if cWrite s a k then jobPreempt s k v.toNat else s)
/-- TLB_INV. -/
def execTlbInv (a : Agent) (k : CDie) (v : BitVec 60) (s : State) : Out :=
  .next (if cWrite s a k then jobTlbInv s k v.toNat else s)
/-- TILE_FENCE: a tile fenced for a fault of its own enters the fence record. -/
def execTileFence (t : TileId) (s : State) : Out := .next (if dieActive s (tileDie t) then fenceTile s t true else s)
/-- GRT_QCFG_WRITE: any agent that reaches register space (R212). -/
def execGrtQcfgWrite (a : Agent) (k : CDie) (n : Fin 32) (v : W64) (s : State) : Out :=
  .next (if dieActive s k.val && agentMay a .any then grtQcfgWrite s k n v.toNat else s)

end Sys2Proof.Machine
end

