-- ==== Sys2Proof/Machine/EngAcc.lean ====
section
/-!
DEFINITION. How a die engine reads and writes (R193-R200): its places, the checks at start, the record of what it touched,
and the free values that failures and overlapping descriptors leave.
-/
namespace Sys2Proof.Machine

/-- A run of an engine: the state, who accesses, the first failure with the virtual address of a translation fault, whether
what it writes is undefined (R194, R265), and the bytes read and written, as in `Taken`. -/
structure Eng where
  s : State
  by_ : EngBy
  code : Nat
  fva : Nat
  spoil : Bool
  reads : List (Nat × Nat × Nat)
  writes : List (Nat × Nat × Nat)

def Eng.fail (e : Eng) (c va : Nat) : Eng := if e.code = 0 then { e with code := c, fva := va } else e

/-- The module-wide tile of a site of the engine's die. -/
def Eng.tileNo (e : Eng) (site : Nat) : Nat := e.by_.k * 128 + site

/-- The device physical address of a local-Grotto offset (R24). -/
def apertureOf (k off : Nat) : Nat := 0x80000000000 + k * 0x100000000 + off

/-- The first address of a virtual range that fails to translate (R386). -/
def faultVa (s : State) (by_ : EngBy) (va len : Nat) (n : Need) : Nat :=
  match (pieces (va % 2 ^ 48) len).find? fun p => (translate s (walkerOf by_.k) by_.ctx p.1 n).1 != 0 with
  | some p => sext48 p.1
  | none => 0

/-- The runs of bytes of a range in a space: 0 global virtual, 1 local Grotto, 2 SLM of a site. -/
def Eng.runs (e : Eng) (sp site a n : Nat) (need : Need) : List (Nat × Nat × Nat) :=
  match sp with
  | 0 => (engXlate e.s e.by_ a n need).2.1.map fun p => (0, p.1, p.2)
  | 1 => [(0, apertureOf e.by_.k a, n)]
  | _ => [(e.tileNo site + 1, a, n)]

/-- Reads a range; after a failure the bytes are of no account. A granule may have changed its owner since the descriptor's checks
(R190). -/
def Eng.read (e : Eng) (sp site a n : Nat) : List Byte × Eng :=
  if n = 0 then ([], e)
  else
    let e := { e with reads := e.runs sp site a n .load ++ e.reads }
    let (c, bs, s) :=
      match sp with
      | 0 => engRead e.s e.by_ a n
      | 1 =>
        if !grtOwned e.s e.by_.k e.by_.ctx a n then (0x504, [], e.s)
        else
          let r := grtRead e.s e.by_.k a n
          (r.1, r.2, drpSeen e.s e.by_.k a n true)
      | _ => (0, slmBytesAt (tile e.s (e.tileNo site)) a n, e.s)
    if c ≠ 0 then (List.replicate n 0, Eng.fail { e with s := s } c (if sp = 0 then faultVa e.s e.by_ a n .load else 0))
    else (bs, { e with s := s })

/-- Reads a number. -/
def Eng.num (e : Eng) (sp site a n : Nat) : Nat × Eng :=
  let (bs, e) := e.read sp site a n
  (ofBytes bs, e)

/-- Free bytes. -/
def freeBytes (n : Nat) (s : State) : List Byte × State :=
  let (vs, s) := drawList n s
  (vs.map fun v => BitVec.ofNat 8 v, s)

/-- Writes a range; undefined bytes are free values. In granules that the context no longer owns nothing is written (R190). -/
def Eng.write (e : Eng) (sp site a : Nat) (bs : List Byte) : Eng :=
  if bs.isEmpty then e
  else
    let (bs, s) := if e.spoil then freeBytes bs.length e.s else (bs, e.s)
    let e := { e with s := s, writes := e.runs sp site a bs.length .store ++ e.writes }
    match sp with
    | 0 =>
      let (c, s) := engWrite e.s e.by_ a bs
      if c ≠ 0 then Eng.fail { e with s := s } c (faultVa e.s e.by_ a bs.length .store) else { e with s := s }
    | 1 => (pieces a bs.length).foldl (fun e p =>
        if grtOwned e.s e.by_.k e.by_.ctx p.1 p.2 then { e with s := grtPut e.s e.by_.k p.1 ((bs.drop (p.1 - a)).take p.2) true }
        else e.fail 0x504 0) e
    | _ => { e with s := slmPut e.s (e.tileNo site) a bs true }

/-- Writes free values over a range, whatever fails. -/
def Eng.free (e : Eng) (sp site a n : Nat) : Eng :=
  let r := Eng.write { e with spoil := true } sp site a (List.replicate n 0)
  { r with spoil := e.spoil, code := e.code, fva := e.fva }

/-! ### Bytes by their runs -/

def runsTouch (a b : List (Nat × Nat × Nat)) : Bool :=
  a.any fun x => b.any fun y => x.1 == y.1 && decide (x.2.1 < y.2.1 + y.2.2) && decide (y.2.1 < x.2.1 + x.2.2)

/-- A site that runs a job of a context. -/
def siteRuns (s : State) (k ctx site : Nat) : Bool :=
  tileOpen s (k * 128 + site) && (tile s (k * 128 + site)).job.isSome && (tile s (k * 128 + site)).ctx == ctx

/-- Writes free values over runs of bytes that an engine could write still. -/
def spoilRuns (s : State) (by_ : EngBy) (rs : List (Nat × Nat × Nat)) : State :=
  rs.foldl (fun s r =>
    let (bs, s) := freeBytes r.2.2 s
    match r.1 with
    | 0 =>
      (pieces r.2.1 r.2.2).foldl (fun s p =>
        let part := (bs.drop (p.1 - r.2.1)).take p.2
        match inAperture p.1 with
        | some (k, off) => if apertureCode s k (some by_.ctx) off p.2 = 0 then grtPut s k off part true else s
        | none =>
          if inMemory p.1 then dccWriteNow s by_.k by_.requester (p.1 / 128) (bytesFrom (p.1 % 128) part) by_.direct false else s) s
    | t + 1 => if siteRuns s (t / 128) by_.ctx (t % 128) then slmPut s t r.2.1 bs true else s) s

/-! ### Checks at start (R200) -/

/-- A range that a descriptor will read or write: space, site, first byte and end. -/
structure Area where
  sp : Nat
  site : Nat
  lo : Int
  hi : Int

def Area.of (sp site a n : Nat) : Area := ⟨sp, site, a, (a + n : Nat)⟩

/-- Checks 3, 4 and 5: the first that fails. -/
def areaCode (s : State) (k ctx : Nat) (as : List Area) : Nat :=
  let as := as.filter fun a => a.lo < a.hi
  let far (a : Area) : Bool :=
    (a.sp == 1 && (decide (a.lo < 0) || decide ((grtEnd : Int) < a.hi)))
    || (decide (2 ≤ a.sp) && siteRuns s k ctx a.site
        && (decide (a.lo < 0) || decide (((tile s (k * 128 + a.site)).slmBytes : Int) < a.hi)))
  if as.any far then 0x503
  else if as.any fun a => a.sp == 1 && !grtOwned s k ctx a.lo.toNat (a.hi - a.lo).toNat then 0x504
  else if as.any fun a => decide (2 ≤ a.sp) && !siteRuns s k ctx a.site then 0x505
  else 0

/-! ### What a start gives -/

/-- What a descriptor has after its start: its result, or parts that it waits for. -/
inductive Done where
  | now (code info : Nat)
  | later

def Eng.done (e : Eng) (info : Nat) : Done := .now e.code (if e.code = 0 then info else 0)

/-! ### Strided operands (R157, R198, R199) -/

/-- A side of a transfer (table "Transfer body"): space, site, address, and signed strides in elements. -/
structure Side where
  sp : Nat
  site : Nat
  addr : Nat
  str : List Int
deriving DecidableEq

def sideOf (w6 a b : Nat) : Side :=
  ⟨bits w6 63 61, bits w6 54 48, bits w6 47 0, [signed 32 a, signed 32 (a >>> 32), signed 32 b, signed 32 (b >>> 32)]⟩

/-- The byte location of a point (R199). -/
def Side.loc (d : Side) (es : Nat) (p : List Nat) : Int := (d.addr : Int) + dotInt d.str p * es
/-- A location as an address of its space: a global one is sign-extended from bit 47. -/
def Side.at_ (d : Side) (es : Nat) (p : List Nat) : Nat := if d.sp = 0 then wrap 48 (d.loc es p) else (d.loc es p).toNat

/-- The bytes of a PUT: the points of its source in ascending order (R198). -/
def Eng.putData (e : Eng) (w : List W64) : List Byte × Eng :=
  let f (i hi lo : Nat) : Nat := bits (wd w i) hi lo
  let es := 2 ^ f 13 2 0
  let src := sideOf (wd w 6) (wd w 9) (wd w 10)
  (gridOf ((List.range 4).map fun i => f 8 (16 * i + 15) (16 * i))).foldl (fun (r : List Byte × Eng) p =>
    if r.2.code ≠ 0 then r
    else
      let (bs, e) := r.2.read src.sp src.site (src.at_ es p) es
      (r.1 ++ bs, e)) ([], e)

/-! ### Answers of parts -/

/-- A part's number: a destination, and the packet within it; packet 0 is the record. -/
def partNo (i j : Nat) : Nat := i * 2 ^ 64 + j
def partDest (p : Nat) : Nat := p / 2 ^ 64
def isRecord (p : Nat) : Bool := p % 2 ^ 64 == 0
/-- A row's packets: row number from 1, up to 16 packets of a row of 64 KiB. -/
def rowPart (d row piece : Nat) : Nat := partNo d (row * 16 + piece)
def partRow (p : Nat) : Nat := p % 2 ^ 64 / 16
/-- A segment's packets, in list order; a connection's record stands at its first entry (R432). -/
def segPart (d entry piece : Nat) : Nat := partNo d ((entry + 1) * 2 ^ 24 + piece)
def segOrder (p : Nat) : Nat := if isRecord p then (partDest p + 1) * 2 ^ 24 else p % 2 ^ 64

/-- The result of a descriptor whose parts are all answered: A2A takes the first failed part in list order (R432), any other
descriptor the failure that came first. -/
def partsCode (t : Taken) (a2a : Bool) : Nat :=
  match t.fails with
  | [] => 0
  | f :: fs => if a2a then (fs.foldl (fun m x => if segOrder x.1 < segOrder m.1 then x else m) f).2 else f.2

/-- Changes the taken descriptor of a ring slot that has started. -/
def takenMod (s : State) (k key slot : Nat) (f : Taken → Taken) : State :=
  let q := queue s k key
  setQueue s k key { q with taken := q.taken.map fun t => if t.slot == slot && t.started then f t else t }

/-- The parts that a descriptor waits for. -/
def expect (s : State) (k key slot : Nat) (ps : List Nat) : State := takenMod s k key slot fun t => { t with waiting := ps }

def takenAt (s : State) (k key slot : Nat) : Option Taken := (queue s k key).taken.find? fun t => t.slot == slot && t.started

/-- A descriptor is an A2A operation of a fabric queue. -/
def isA2A (key : Nat) (t : Taken) : Bool := decide (32 ≤ key) && bits (wd t.words 0) 63 56 == 5

/-- The rows of a SEND and the segments of an A2A operation are answered destination by destination (R230, R432): the
destinations of the descriptor, and whether each has ended. -/
def destsOf (s : State) (k key slot : Nat) : List SendDest := (queue s k key).sends.filter fun d => d.desc == slot
def SendDest.ended (d : SendDest) : Bool := d.left.isEmpty && (d.sent || d.failed != 0 || d.record.isNone)

def destMod (s : State) (k key slot dest : Nat) (f : SendDest → SendDest) : State :=
  let q := queue s k key
  setQueue s k key { q with sends := q.sends.map fun d => if d.desc == slot && d.dest == dest then f d else d }

/-- Closes the operation once nothing is outstanding. A SEND takes the code of its first failed destination (R230). -/
def settleDesc (s : State) (k key slot : Nat) : State :=
  match takenAt s k key slot with
  | none => s
  | some t =>
    let ds := destsOf s k key slot
    if t.result.isSome || !t.waiting.isEmpty || ds.any (fun d => !d.ended) then s
    else
      let hlx := decide (key < 32) && !ds.isEmpty
      let res :=
        if hlx then
          let rows := ds.foldl (fun n d => n + d.rowsOk) 0 % 2 ^ 24
          match ds.find? fun d => d.failed != 0 with
          | some d => (if d.recordFailed then d.failed else 0x604, d.dest <<< 24 + rows)
          | none => (0, rows)
        else (partsCode t (isA2A key t), 0)
      let q := queue s k key
      let s := setQueue s k key { q with sends := q.sends.filter fun d => d.desc != slot }
      takenMod s k key slot fun t => { t with result := some res }

/-- A part of a descriptor is answered with a code. A row counts once its last packet is written (R230, R241). -/
def partAnswer (s : State) (w : Part) (code : Nat) : State :=
  match takenAt s w.k w.key w.slot with
  | none => s
  | some t =>
    let isDest := (destsOf s w.k w.key w.slot).find? fun d => d.dest == partDest w.part
    let s := takenMod s w.k w.key w.slot fun t =>
      { t with waiting := kdel t.waiting w.part, fails := if code = 0 then t.fails else t.fails ++ [(w.part, code)] }
    let s :=
      match isDest with
      | none => s
      | some d =>
        if !(d.left.contains w.part) then s
        else
          let left := kdel d.left w.part
          let record := isRecord w.part
          let rowDone := code = 0 && !record && !(left.any fun p => partRow p == partRow w.part)
            && !(t.fails.any fun f => partDest f.1 == partDest w.part && partRow f.1 == partRow w.part)
          let s := destMod s w.k w.key w.slot d.dest fun d =>
            { d with left := left, rowsOk := if rowDone then d.rowsOk + 1 else d.rowsOk,
                     failed := if d.failed = 0 then code else d.failed,
                     recordFailed := if d.failed = 0 && code != 0 then record else d.recordFailed }
          if rowDone && decide (w.key < 32) then count s .hlxRows w.k 0 0 1 else s
    settleDesc s w.k w.key w.slot

end Sys2Proof.Machine
end

