-- ==== Sys2Proof/Machine/Functions.lean ====
section
/-!
DEFINITION. The fixed functions (R64, R161, R221) and the square root. Within its bound a fixed function's bits are not
defined: the part's constant in `Config` is taken where it lies within the bound of the exact value, and the correctly
rounded value otherwise; where the manual states no result (rcp of 0, log2 of 0, sin of an infinity and the like) the
constant stands alone (DESIGN CHOICE, log entry 64). Exact values are enclosed by integers in units of 2^-200.
-/
namespace Sys2Proof.Machine

/-- The integer square root, by `n` binary digits from the top. -/
def isqrt : Nat → Nat → Nat → Nat
  | 0, _, r => r
  | k + 1, n, r => if (r + 2 ^ k) * (r + 2 ^ k) ≤ n then isqrt k n (r + 2 ^ k) else isqrt k n r

/-- floor(sqrt n). -/
def natSqrt (n : Nat) : Nat := isqrt (n.log2 / 2 + 1) n 0

/-- The correctly rounded square root (R64): IEEE for zeros, infinities and negative numbers. -/
def fsqrt (f : Fmt) (r : Rnd) (x : Nat) : Nat :=
  match f.dec x with
  | .nan => f.nanCode
  | .inf neg => if neg then f.nanCode else x
  | .fin neg m e =>
    if m = 0 then x
    else if neg then f.nanCode
    else
      let k : Nat := 64 + (e % 2).toNat
      let n := m <<< k
      let q := natSqrt n
      f.enc r false (2 * q + (if q * q = n then 0 else 1)) 1 ((e - k) / 2 - 1)

/-! ### Enclosures -/

/-- The unit: values are in units of 2^-200. -/
def fxp : Nat := 200
/-- A finite value in units of 2^-200, rounded toward minus infinity. -/
def fxOf (neg : Bool) (m : Nat) (e : Int) : Int :=
  let p := pow2 (e + fxp)
  let v : Int := ((m * p.1 / p.2 : Nat) : Int)
  if neg then -v else v

/-- The spacing of f32 at a magnitude, in units of 2^-200. -/
def ulpAt (v : Int) : Int :=
  if v = 0 then 2 ^ 51
  else
    let k : Int := (v.natAbs.log2 : Int) - fxp
    let k := if k < -126 then -126 else k
    2 ^ (k - 23 + fxp).toNat

/-- The nearest f32 to a value in units of 2^-200. -/
def fxRound (v : Int) : Nat := fmtF32.enc .rne (v < 0) v.natAbs 1 (-(fxp : Int))

/-- A NaN is the canonical one (R64). -/
def canonNan (y : Nat) : Nat := if (fmtF32.dec y).isNan then fmtF32.nanCode else y

/-- The part's bits where they lie within `k` ulps, or 2^-`abs`, of the enclosed value; its nearest f32 otherwise. -/
def within (bits : Nat) (lo hi : Int) (k : Nat) (abs : Option Nat) : Nat :=
  match fmtF32.dec bits with
  | .fin neg m e =>
    let y := fxOf neg m e
    let tol : Int := match abs with
      | some a => 2 ^ (fxp - a)
      | none => k * (if ulpAt y < ulpAt lo then ulpAt lo else ulpAt y)
    if lo - tol ≤ y ∧ y ≤ hi + tol then bits else fxRound lo
  | _ => fxRound lo

/-- Sums a Taylor series in units of 2^-200: term `t`, ratio numerator `x`, divisors `i`, `i + 1`, … -/
def taylor : Nat → Nat → Int → Int → Int → Int
  | 0, _, _, _, acc => acc
  | n + 1, i, t, x, acc =>
    let t' := t * x / (2 ^ fxp * i)
    taylor n (i + 1) t' x (acc + t')

/-- e^x for |x| below 1, in units of 2^-200. -/
def fxExp (x : Int) : Int := taylor 60 1 (2 ^ fxp) x (2 ^ fxp)

/-- ln 2 in units of 2^-200, by its series over 1 / (n 2^n). -/
def fxLn2 : Int := (List.range 220).foldl (fun (a : Int) n => a + 2 ^ (fxp + 20) / ((n + 1 : Nat) * 2 ^ (n + 1) : Int)) 0 / 2 ^ 20

/-- 2^x, for x in units of 2^-200 and above -200: in units of 2^-200. -/
def fxExp2 (x : Int) : Int :=
  let n := x / 2 ^ fxp
  let f := x - n * 2 ^ fxp
  let v := fxExp (f * fxLn2 / 2 ^ fxp)
  if 0 ≤ n then v * 2 ^ n.toNat else v / 2 ^ (-n).toNat

/-- The fraction bits of log2 of y, for y in [1, 2) in units of 2^-200. -/
def log2Bits : Nat → Int → Int → Int
  | 0, _, acc => acc
  | n + 1, y, acc =>
    let q := y * y / 2 ^ fxp
    if 2 * 2 ^ fxp ≤ q then log2Bits n (q / 2) (2 * acc + 1) else log2Bits n q (2 * acc)

/-- sin and cos by their series: `t` the first term, `i` its index. -/
def trig : Nat → Nat → Int → Int → Int → Int
  | 0, _, _, _, acc => acc
  | n + 1, i, t, x2, acc =>
    let t' := -(t * x2 / 2 ^ fxp) / ((i + 1) * (i + 2))
    trig n (i + 2) t' x2 (acc + t')

/-- π in units of 2^-200, rounded up: 16 atan(1/5) - 4 atan(1/239). -/
def fxPi : Int :=
  let atan (q : Int) : Int := (List.range 90).foldl (fun (a : Int) i =>
    let t : Int := 2 ^ (fxp + 20) / ((2 * i + 1 : Nat) * q ^ (2 * i + 1))
    if i % 2 = 0 then a + t else a - t) 0
  (16 * atan 5 - 4 * atan 239) / 2 ^ 20 + 1

/-! ### The functions of R64 -/

/-- rcp: within 1 ulp. -/
def fnRcp (x : Nat) : Nat :=
  let free := canonNan (Config.rcpBits (BitVec.ofNat 32 x)).toNat
  match fmtF32.dec x with
  | .nan => fmtF32.nanCode
  | .inf _ => free
  | .fin neg m e =>
    if m = 0 then free
    else
      let p := pow2 ((fxp : Int) - e)
      let v : Int := ((p.1 / (m * p.2) : Nat) : Int)
      let v := if neg then -v - 1 else v
      within free v (v + 1) 1 none

/-- rsqrt: within 1 ulp. -/
def fnRsqrt (x : Nat) : Nat :=
  let free := canonNan (Config.rsqrtBits (BitVec.ofNat 32 x)).toNat
  match fmtF32.dec x with
  | .nan => fmtF32.nanCode
  | .inf _ => free
  | .fin neg m e =>
    if m = 0 ∨ neg then free
    else
      let p := pow2 (2 * (fxp : Int) - e)
      let v : Int := ((natSqrt (p.1 / (m * p.2)) : Nat) : Int)
      within free v (v + 1) 1 none

/-- exp2: within 2 ulp. -/
def fnExp2 (x : Nat) : Nat :=
  let free := canonNan (Config.exp2Bits (BitVec.ofNat 32 x)).toNat
  match fmtF32.dec x with
  | .nan => fmtF32.nanCode
  | .inf _ => free
  | .fin neg m e =>
    let v := fxOf neg m e
    if 128 * 2 ^ fxp ≤ v then fmtF32.infCode
    else if v < -190 * 2 ^ fxp then within free 0 0 2 none
    else let y := fxExp2 v
         within free (y - y / 2 ^ 100) (y + y / 2 ^ 100 + 1) 2 none

/-- log2: within 2 ulp. -/
def fnLog2 (x : Nat) : Nat :=
  let free := canonNan (Config.log2Bits (BitVec.ofNat 32 x)).toNat
  match fmtF32.dec x with
  | .nan => fmtF32.nanCode
  | .inf _ => free
  | .fin neg m e =>
    if m = 0 ∨ neg then free
    else
      let k : Int := (m.log2 : Int)
      let frac := log2Bits 80 (fxOf false m (-k)) 0
      let v := (k + e) * 2 ^ fxp + frac * 2 ^ (fxp - 80)
      within free v (if m = 2 ^ m.log2 then v else v + 2 ^ (fxp - 70)) 2 none

/-- sin or cos: within 2^-21 on [-π, π], with no bound elsewhere. -/
def fnTrig (isCos : Bool) (x : Nat) : Nat :=
  let free := canonNan ((if isCos then Config.cosBits else Config.sinBits) (BitVec.ofNat 32 x)).toNat
  match fmtF32.dec x with
  | .nan => fmtF32.nanCode
  | .inf _ => free
  | .fin neg m e =>
    let v := fxOf neg m e
    if fxPi < v ∨ v < -fxPi then free
    else
      let x2 := v * v / 2 ^ fxp
      let y := if isCos then trig 40 0 (2 ^ fxp) x2 (2 ^ fxp) else trig 40 1 v x2 v
      within free (y - 2 ^ 100) (y + 2 ^ 100) 0 (some 21)

/-- e^x, for x in units of 2^-200 and above -100. -/
def fxExpE (x : Int) : Int := fxExp2 (x * 2 ^ fxp / fxLn2)

/-- exp: within 2 ulp (R221), and so +infinity from +infinity and near +0 from -infinity. DEDUCED (log entry 110): exp(0) is
exactly 1.0 (R260 makes the largest candidate's weight so), and the function gives no negative value (R262: DRAW takes every
weight that SAMPLE wrote). -/
def fnExp (x : Nat) : Nat :=
  let free := canonNan (Config.expBits (BitVec.ofNat 32 x)).toNat
  let near (lo hi : Int) : Nat := let y := within free lo hi 2 none
                                  if bit y 31 then fxRound lo else y
  match fmtF32.dec x with
  | .nan => fmtF32.nanCode
  | .inf neg => if neg then near 0 0 else fmtF32.infCode
  | .fin neg m e =>
    let v := fxOf neg m e
    if m = 0 then fmtF32.enc .rne false 1 1 0
    else if 89 * 2 ^ fxp ≤ v then fmtF32.infCode
    else if v < -120 * 2 ^ fxp then near 0 0
    else let y := fxExpE v
         near (if y = 0 then 0 else y - y / 2 ^ 100 - 1) (y + y / 2 ^ 100 + 1)

/-- tanh: within 2 ulp (R161). -/
def fnTanh (x : Nat) : Nat :=
  let free := canonNan (Config.tanhBits (BitVec.ofNat 32 x)).toNat
  match fmtF32.dec x with
  | .nan => fmtF32.nanCode
  | .inf _ => free
  | .fin neg m e =>
    let v := fxOf neg m e
    let v := if 40 * 2 ^ fxp < v then 40 * 2 ^ fxp else if v < -40 * 2 ^ fxp then -40 * 2 ^ fxp else v
    let a := fxExpE (2 * v)
    let y := (a - 2 ^ fxp) * 2 ^ fxp / (a + 2 ^ fxp)
    if m = 0 then within free 0 0 2 none else within free (y - 2 ^ 12) (y + 2 ^ 12) 2 none

end Sys2Proof.Machine
end

