-- ==== Sys2Proof/Machine/HomeCmds.lean ====
section
/-!
DEFINITION. The commands of the memory homes (R320-R343), of the coherent domain (R352-R376) and of the die caches (R282,
R290-R300).
-/
namespace Sys2Proof.Machine

/-! ### Arrivals at a home -/

/-- What homes have answered to tiles reaches them (DEDUCED, log entry 142). -/
def deliverTiles (s : State) : State :=
  s.tileAnswers.foldl (fun s a =>
    if a.code ≠ 0 then pendFail s a.t a.g a.id a.key a.code
    else match a.outs with
      | some outs => pendAtomic s a.t a.g a.id a.key outs
      | none => pendLine s a.t a.g a.id a.key a.data) { s with tileAnswers := [] }

/-- A home has gone on: coherent requests that nothing holds any more are performed, and answers reach their tiles. -/
def homeGoes (s : State) (h : Nat) : State := deliverTiles (pumpHome s h)

/-- The number of request `n` among those of a line, in a home's list. -/
def lineReq (s : State) (h line n : Nat) : Option Nat :=
  let e := home s h
  ((List.range e.reqs.length).filter fun i => (e.reqs[i]?).any fun r => r.line == line)[n]?

/-- Request `n` of a home's list is performed, if it is of the kind that `p` says and need not wait. A read waits while as many
as the home can track are outstanding (R334). -/
def doReq (s : State) (h n : Nat) (p : MemReq → Bool) : State :=
  match takeReq s h n p with
  | none => s
  | some (r, s') => if r.isRead && decide (readLimit h ≤ (home s h).reads.length) then s else homeGoes (perform s' h r) h

/-- A turn of a home, with the cells that have gone wrong (R327) and the directory errors that have been corrected (R351). No
register counts the latter: they stand in State.eccCorrected (DESIGN CHOICE, log entry 145). -/
def homeTurn (s : State) (h : Nat) (n : HomeTurn) (p : MemReq → Bool) : State :=
  doReq (correctedBy (wearCells s h n.cells) (eccDir (homeDie h)) n.dirErrs) h n.n p

/-- HOME_READ. -/
def execHomeRead (h : Home) (n : HomeTurn) (s : State) : Out := .next (homeTurn s (homeKey h) n MemReq.isRead)
/-- HOME_WRITE (R320, R360). -/
def execHomeWrite (h : Home) (n : HomeTurn) (s : State) : Out := .next (homeTurn s (homeKey h) n MemReq.isWrite)

/-- Performs the n-th request of a line at its home. -/
def atLine (s : State) (line n : Nat) (p : MemReq → Bool) : State :=
  match homeNo s line with
  | none => s
  | some h => match lineReq s h line n with
    | none => s
    | some i => doReq s h i p

/-- NC_READ (R359). -/
def execNcRead (line n : Nat) (s : State) : Out := .next (atLine s line n MemReq.isRead)
/-- NC_WRITE (R360). -/
def execNcWrite (line n : Nat) (s : State) : Out := .next (atLine s line n MemReq.isWrite)
/-- NC_ATOMIC (R361): the atomic reaches the atomics unit. -/
def execNcAtomic (line n : Nat) (s : State) : Out := .next (atLine s line n MemReq.isAtomic)

/-- STACK_READ_RETURN. -/
def execStackReadReturn (h : Home) (n : Nat) (e : Ecc) (s : State) : Out :=
  .next (homeGoes (stackReturn s (homeKey h) n e) (homeKey h))

/-- SUMP_IDLE_WRITEBACK (R321): a partial entry leaves by read-merge-write. -/
def execSumpIdleWriteback (h : Home) (line : Nat) (e : Ecc) (s : State) : Out :=
  .next (match sumpEntry s (homeKey h) line with
    | some en => if homeOpen s (homeKey h) then sumpRmw s (homeKey h) en e else s
    | none => s)

/-- The drain registers of a home. -/
def drainAddrReg (h : Nat) : Reg := if isDeep h then .lpdDrainAddr else .smpDrainAddr
def drainLenReg (h : Nat) : Reg := if isDeep h then .lpdDrainLen else .smpDrainLen

/-- A write of SMP_DRAIN_CMD with GO (R323, R342); one without GO only fails while a drain runs. -/
def drainCmd (s : State) (h : Nat) (go all : Bool) : State :=
  let d := homeDie h
  let p := homePkg h
  let st := smpStatusReg h
  if rf s st d p 0 63 63 = 1 then rfset s st d p 0 47 32 0x845
  else if !go then s
  else
    let addr := rf s (drainAddrReg h) d p 0 47 0
    let len := rf s (drainLenReg h) d p 0 48 0
    if !all && (len == 0 || decide (2 ^ 48 < addr + len)) then rfset s st d p 0 47 32 0x846
    else
      let (lost, s) := if all then drainHomeAll s h else drainHome s h addr (addr + len)
      let e := home s h
      rfset (setHome s h { e with drain := some lost }) st d p 0 63 63 1

/-- Who may write a home's registers, and whether they answer (R41, R574). -/
def homeWritable (s : State) (a : Agent) (h : Nat) : Bool := dieActive s (homeDie h) && !anyFatal s && agentMay a .uszonCore

/-- SUMP_DRAIN_RANGE: a write without ALL. -/
def execSumpDrainRange (h : Home) (a : Agent) (v : W64) (s : State) : Out :=
  .next (if homeWritable s a (homeKey h) then drainCmd s (homeKey h) (bit v.toNat 0) false else s)
/-- SUMP_DRAIN_ALL: a write with ALL. -/
def execSumpDrainAll (h : Home) (a : Agent) (v : W64) (s : State) : Out :=
  .next (if homeWritable s a (homeKey h) then drainCmd s (homeKey h) (bit v.toNat 0) true else s)

/-- SUMP_DRAIN_COMPLETE (R323, R324). -/
def execSumpDrainComplete (h : Home) (s : State) : Out :=
  .next (
    let n := homeKey h
    let e := home s n
    match e.drain with
    | none => s
    | some lost =>
      let s := setHome s n { e with drain := none }
      rfset (rfset s (smpStatusReg n) (homeDie n) (homePkg n) 0 63 63 0) (smpStatusReg n) (homeDie n) (homePkg n) 0 47 32
        (if lost then 0x843 else 0))

/-- AMU_ATOMIC (R325, R326): atomic `n` of the unit, unless an earlier one is of its line. -/
def amuAtomic (s : State) (h n : Nat) (ecc : Ecc) : State :=
  let e := home s h
  match takeAt e.amuQ n with
  | none => s
  | some (r, rest) =>
    if !homeOpen s h || (e.amuQ.take n).any fun x => x.line == r.line then s
    else homeGoes (amuRun (setHome s h { e with amuQ := rest }) h r ecc) h

/-- AMU_ATOMIC. -/
def execAmuAtomic (h : Home) (n : Nat) (e : Ecc) (s : State) : Out := .next (amuAtomic s (homeKey h) n e)

/-- The lines of a home: 64 GiB of a stack or of the packages of one controller (R313). -/
def homeLines : Nat := 2 ^ 29

/-- MEM_SCRUB (R329): one pass over a home's lines. `corrected` are lines in which it finds a correctable error, with those already
known, which it writes back; `bad` are half-lines found uncorrectable, with those already known; each is logged and poisoned.
SCRUB_HOURS 0 disables scrub (DEDUCED, log entry 71). -/
def memScrub (s : State) (h : Nat) (corrected bad : List Nat) : State :=
  let hours := rf s (if isDeep h then .lpdCfg else .memCfg) (homeDie h) (homePkg h) 0 7 0
  if hours = 0 ∨ !homeOpen s h then s
  else
    let mine (x : Nat) : Bool := homeNo s x == some h
    let mine (x : Nat) : Bool := mine x && !inWriteQ s h x
    let soft := s.memErrs.filter fun e => mine (e.1 / 2) && decide (e.2 ≤ 3)
    let lines := soft.foldl (fun l e => kins l (e.1 / 2)) ((corrected.filter mine).foldl kins [])
    let s' := homeCount { s with memErrs := s.memErrs.filter fun e => !(mine (e.1 / 2) && decide (e.2 ≤ 3)) } h
      .memCorrected .lpdCorrected lines.length
    let halves := bad.foldl kins ((s.memErrs.filter fun e => mine (e.1 / 2) && uncorrectable e.2).map (·.1))
    let lost := halves.filter fun x => mine (x / 2) && !(s.memPoison.contains x)
    let s' := homeCount (homeCount s' h .memRdLines .lpdRdLines homeLines) h .memWrLines .lpdWrLines
      (lost.foldl (fun l x => kins l (x / 2)) lines).length
    lost.foldl (fun s x => poisonHalf (memLog s h (x / 2) 0x844) (x / 2) (x % 2)) s'

/-- MEM_SCRUB. -/
def execMemScrub (h : Home) (corrected bad : List Nat) (s : State) : Out := .next (memScrub s (homeKey h) corrected bad)

/-- MEM_PERIODIC_RETRAIN (R318): data training repeats; contents, order and registers are unchanged. -/
def execMemPeriodicRetrain (_h : Home) (s : State) : Out := .next s

/-- MEM_CFG_WRITE (R338, R343): discarded while LOCK is 1. -/
def execMemCfgWrite (h : Home) (a : Agent) (v : W64) (s : State) : Out :=
  .next (
    let n := homeKey h
    let r : Reg := if isDeep n then .lpdCfg else .memCfg
    let old := rget s r (homeDie n) (homePkg n)
    if homeWritable s a n && !bit old 63 then rset s r (homeDie n) (homePkg n) 0 (r.spec.write old v.toNat) else s)

/-! ### The coherent domain -/

/-- A coherent request of an agent reaches the home of its line, and waits there for what is before it (R320, R351). Agent 131
holds no line (R345): it sends none (DEDUCED, log entry 55). -/
def cohRow (s : State) (req line : Nat) (k : TxnKind) : State :=
  match homeNo s line with
  | none => s
  | some h => if homeOpen s h && dieActive s (agentDie req) && decide (req ≤ 130) then deliverTiles (cohArrives s h line k req) else s

/-- A core waits for the CmoAck of a cache operation on a line (R369). -/
def cmoBegins (s : State) (req line : Nat) : State :=
  if req < 128 then setCore s req { core s req with cmo := kins (core s req).cmo line } else s

/-- RD_SHARED. -/
def execRdShared (req : AgentId) (line : Nat) (s : State) : Out := .next (cohRow s req line .rdShared)
/-- RD_UNIQUE. -/
def execRdUnique (req : AgentId) (line : Nat) (s : State) : Out := .next (cohRow s req line .rdUnique)
/-- UPGRADE (R356). -/
def execUpgrade (req : AgentId) (line : Nat) (s : State) : Out := .next (cohRow s req line .upgrade)
/-- CLEAN_TO_HOME. -/
def execCleanToHome (req : AgentId) (line : Nat) (s : State) : Out := .next (cohRow (cmoBegins s req line) req line .clean)
/-- FLUSH_TO_HOME, of cbo.flush and of cbo.inval (R369). -/
def execFlushToHome (req : AgentId) (line : Nat) (s : State) : Out := .next (cohRow (cmoBegins s req line) req line .flush)

/-- A modified copy leaves its agent (R357), once a hold after its Grant has ended (R355); another stays. -/
def dirtyLeaves (s : State) (a line : Nat) : State :=
  match copyOf s a line with
  | some c => if !c.hold && (c.st == .m || c.st == .o) then evictCopy s a line else s
  | none => s

/-- WB_DIRTY (R357): the writeback that is in flight from the agent, or one that it sends now, reaches the home. None is sent over
the other M-link while requests sent before its switch are to be performed (R336). -/
def execWbDirty (req : AgentId) (line : Nat) (stores : List (Fin 128 × Byte)) (s : State) : Out :=
  .next (match homeNo s line with
    | none => s
    | some h =>
      if !homeOpen s h then s
      else
        let s := if (mfind s.wbBuf (copyKey req line)).isSome || decide (0 < (home s h).sent) then s
          else dirtyLeaves (coreStores s req line stores) req line
        match s.cohNet.find? fun f => f.agent == req.val && f.line == line && (match f.msg with | .wbDirty _ => true | _ => false) with
        | some f => homeGoes (homeRecv { s with cohNet := s.cohNet.erase f } h req line f.msg) h
        | none => s)

/-- The far AMO of a core has been sent and has not been answered. -/
def amoSent (s : State) (a : Nat) : Bool :=
  (s.amoResults.any fun r => r.1 == a) || (s.txns.any fun t => t.2.request.any fun r => r.from_ == .core a)
    || s.homes.any fun e => e.2.reqs.any fun r => r.isAtomic && r.from_ == .core a

/-- AMO_FAR (R361): the core's AMO that waits is sent to the home, where it takes its place among the requests of its line
(R351). -/
def amoFar (s : State) (a line : Nat) : State :=
  if 128 ≤ a ∨ amoSent s a = true then s
  else
    match (core s a).amo with
    | some w =>
      if w.far ∧ w.op.addr.toNat / 128 = line then
        match homeNo s line with
        | none => s
        | some h =>
          if homeOpen s h && dieActive s (agentDie a) then
            let (aop, ty) := amoCode w.op.op.toNat w.op.word
            agentSends s h line (.atomic (BitVec.ofNat 4 aop) (BitVec.ofNat 4 ty) (w.op.addr.toNat % 128) [(w.op.operand, 0)]) a
          else s
      else s
    | none => s

/-- AMO_FAR. -/
def execAmoFar (req : AgentId) (line : Nat) (s : State) : Out := .next (amoFar s req line)

/-- An agent's snoop is delivered, with what the core has done to the line meanwhile: it may have stored, and, unless it holds
the line after a Grant (R355), have evicted it. -/
def snoopRow (s : State) (a line : Nat) (p : CohMsg → Bool) (stores : List (Fin 128 × Byte)) (evicting : Bool) : State :=
  match takeMsg s a line p toAgent with
  | none => s
  | some (m, s) =>
    let s := coreStores s a line stores
    recvSnoop (if evicting && !(copyOf s a line).any (·.hold) then evictCopy s a line else s) a line m

/-- SNP_SHARED. -/
def execSnpShared (ag : AgentId) (line : Nat) (stores : List (Fin 128 × Byte)) (evicting : Bool) (s : State) : Out :=
  .next (snoopRow s ag line (· == .snpShared) stores evicting)
/-- SNP_UNIQUE. -/
def execSnpUnique (ag : AgentId) (line : Nat) (stores : List (Fin 128 × Byte)) (evicting : Bool) (s : State) : Out :=
  .next (snoopRow s ag line (· == .snpUnique) stores evicting)
/-- SNP_INV. -/
def execSnpInv (ag : AgentId) (line : Nat) (stores : List (Fin 128 × Byte)) (evicting : Bool) (s : State) : Out :=
  .next (snoopRow s ag line (· == .snpInv) stores evicting)
/-- SNP_CLEAN. -/
def execSnpClean (ag : AgentId) (line : Nat) (stores : List (Fin 128 × Byte)) (evicting : Bool) (s : State) : Out :=
  .next (snoopRow s ag line (· == .snpClean) stores evicting)
/-- SNOOP_HOLD_EXPIRY (R355). -/
def execSnoopHoldExpiry (at_ : AgentId) (line : Nat) (stores : List (Fin 128 × Byte)) (s : State) : Out :=
  .next (holdExpiry (coreStores s at_ line stores) at_ line)

/-- An answer of an agent reaches the home. -/
def rspRow (s : State) (a line : Nat) (p : CohMsg → Bool) : State :=
  match homeNo s line with
  | none => s
  | some h =>
    match s.cohNet.find? fun f => f.agent == a && f.line == line && p f.msg with
    | none => s
    | some f => homeGoes (homeRecv { s with cohNet := s.cohNet.erase f } h a line f.msg) h

/-- RSP_ABSENT. -/
def execRspAbsent (by_ : AgentId) (line : Nat) (s : State) : Out := .next (rspRow s by_ line (· == .rspAbsent))
/-- RSP_CLEAN. -/
def execRspClean (by_ : AgentId) (line : Nat) (s : State) : Out := .next (rspRow s by_ line (· == .rspClean))
/-- RSP_DATA. -/
def execRspData (by_ : AgentId) (line : Nat) (s : State) : Out :=
  .next (rspRow s by_ line fun m => match m with | .rspData _ => true | _ => false)
/-- RSP_WB_IN_FLIGHT. -/
def execRspWbInFlight (by_ : AgentId) (line : Nat) (s : State) : Out := .next (rspRow s by_ line (· == .rspWbInFlight))

/-- A message of the home, other than a snoop, reaches an agent. -/
def ackRow (s : State) (a line : Nat) (p : CohMsg → Bool) : State :=
  match takeMsg s a line p toAgent with
  | none => s
  | some (m, s) => agentRecv s a line m

/-- GRANT (R355). -/
def execGrant (ag : AgentId) (line : Nat) (s : State) : Out :=
  .next (ackRow s ag line fun m => match m with
    | .grantS _ => true
    | .grantE _ _ => true
    | .grantUpgrade => true
    | .grantErr _ => true
    | _ => false)
/-- WB_ACK (R357). -/
def execWbAck (ag : AgentId) (line : Nat) (s : State) : Out := .next (ackRow s ag line (· == .wbAck))
/-- CMO_ACK (R369): the cache operation of the core is complete. -/
def execCmoAck (ag : AgentId) (line : Nat) (s : State) : Out := .next (ackRow s ag line (· == .cmoAck))

/-- PERFORMED_VISIBLE (R360): answer `n` reaches its requester: a group, or the tile whose merging buffer sent the write. One that was
lost on its way is an imprecise fault of the tile's job (R38, R80). -/
def performedVisible (s : State) (n : Nat) : State :=
  match takeAt s.answers n with
  | none => s
  | some (a, rest) =>
    let s := { s with answers := rest }
    match a.dest with
    | .store t g _ =>
      let s := if a.code = 0 then s else imprecise s t a.code
      match group s t g with
      | none =>
        let x := tile s t
        if g < 16 then s
        else setTile s t { x with unperformed := if a.performed then kdel x.unperformed a.id else x.unperformed,
                                  invisible := if a.visible then kdel x.invisible a.id else x.invisible }
      | some gr => setGroup s t g { gr with
          unperformed := if a.performed then kdel gr.unperformed a.id else gr.unperformed,
          invisible := if a.visible then kdel gr.invisible a.id else gr.invisible }
    | _ => s

/-- PERFORMED_VISIBLE. -/
def execPerformedVisible (n : Nat) (s : State) : Out := .next (performedVisible s n)

/-- AMO_RESULT (R363): the core's far AMO is complete, and its predictor is updated, as after any AMO in memory; one at an aperture
or at a hole does not consult it (R361). -/
def amoResult (s : State) (c : Nat) : State :=
  match s.amoResults.find? fun r => r.1 == c with
  | none => s
  | some r =>
    let s := { s with amoResults := s.amoResults.erase r }
    match (core s c).amo with
    | none => s
    | some w =>
      if !inMemory w.op.addr.toNat then setCore s c { core s c with amo := none }
      else predict (count (setCore s c { core s c with amo := none }) .cohAmoFar (agentDie c) 0 0 1) c w.op.addr.toNat r.2.2.1

/-- AMO_RESULT. -/
def execAmoResult (c : Fin 128) (s : State) : Out := .next (amoResult s c)

/-- A RISC-V A-extension function code (PRESUMED, log entry 52). -/
def amoKnown (op : Nat) : Bool := [0, 1, 2, 3, 4, 8, 12, 16, 20, 24, 28].contains op

/-- Whether a core executes an AMO far (R362). -/
def amoGoesFar (s : State) (c : Nat) (op : CoreAmo) : Bool :=
  let held := match copyOf s c (op.addr.toNat / 128) with | some l => l.st == .m || l.st == .e | none => false
  let mode := rf s .cohAmoCtl (agentDie c) 0 0 1 0
  if isLr op.op.toNat || isSc op.op.toNat || mode == 1 then false
  else if mode = 2 then true
  else !held && decide (2 ≤ mget 0 s.predictor (predKey c op.addr.toNat))

/-- CORE_AMO (R361, R362): an AMO, LR or SC of a core. In memory it is performed in the L1D if the line is held there in M or
E, else it waits for its line or for the home; at a Grotto aperture it executes in the bank, and at a hole nowhere: its code
(R326) comes with its AMO_RESULT. -/
def coreAmo (s : State) (c : Nat) (op : CoreAmo) : State :=
  let a := op.addr.toNat
  if !(core s c).released || (core s c).amo.isSome || !dieActive s (agentDie c) || anyFatal s || !amoKnown op.op.toNat
      || a % (if op.word then 4 else 8) != 0 then s
  else if inMemory a then
    if amoGoesFar s c op then setCore s c { core s c with amo := some ⟨op, true, false⟩ }
    else
      match copyOf s c (a / 128) with
      | some l =>
        if l.st = .m ∨ l.st = .e ∨ isLr op.op.toNat then amoNear s c op false
        else if isSc op.op.toNat ∧ (core s c).reservation ≠ some (a / 128) then setCore s c { core s c with reservation := none }
        else setCore s c { core s c with amo := some ⟨op, false, false⟩ }
      | none =>
        if isSc op.op.toNat then setCore s c { core s c with reservation := none }
        else setCore s c { core s c with amo := some ⟨op, false, false⟩ }
  else if isLr op.op.toNat || isSc op.op.toNat || inRegisters a then s
  else
    let (aop, ty) := amoCode op.op.toNat op.word
    let (code, outs, s) := busAtomic s .none none a aop ty [(op.operand, 0)]
    setCore { s with amoResults := s.amoResults ++ [(c, w64 (outs.headD 0), false, code)] } c
      { core s c with amo := some ⟨op, true, false⟩ }

/-- CORE_AMO. -/
def execCoreAmo (c : Fin 128) (op : CoreAmo) (s : State) : Out := .next (coreAmo s c op)

/-- COH_AMO_CLEAR (R376): a write of COH_AMO_CTL, whose CLEAR sets the predictor counters of the die's cores to 0. -/
def cohAmoCtlWrite (s : State) (p v : Nat) : State :=
  let s := if bit v 2 then { s with predictor := s.predictor.filter fun e => agentDie (e.1 / 256) != p } else s
  rset s .cohAmoCtl p 0 0 (v % 4)

/-- COH_AMO_CLEAR. -/
def execCohAmoClear (a : Agent) (p : PDie) (v : W64) (s : State) : Out :=
  .next (if agentMay a .uszonCore && dieActive s (8 + p.val) && !anyFatal s then cohAmoCtlWrite s (8 + p.val) v.toNat else s)

/-! ### The die caches -/

/-- DCC_ACCESS. -/
def execDccAccess (k : CDie) (n : Nat) (ecc : WordEcc) (s : State) : Out := .next (dccAccess s k n ecc)
/-- DCC_FILL_ARRIVE. -/
def execDccFillArrive (k : CDie) (line : Nat) (s : State) : Out := .next (dccFillArrive s k line)

/-- A write of DCC_MAINT_CMD: bits 63:8 are the operand, OP the row's. -/
def maintRow (s : State) (a : Agent) (k : CDie) (v : BitVec 56) (op : Nat) : State :=
  if cWrite s a k then maintStart s k (v.toNat * 256 + op) else s

/-- DCC_INV. -/
def execDccInv (a : Agent) (k : CDie) (v : BitVec 56) (s : State) : Out := .next (maintRow s a k v 0x01)
/-- DCC_CLEAN. -/
def execDccClean (a : Agent) (k : CDie) (v : BitVec 56) (s : State) : Out := .next (maintRow s a k v 0x02)
/-- DCC_CLEAN_INV. -/
def execDccCleanInv (a : Agent) (k : CDie) (v : BitVec 56) (s : State) : Out := .next (maintRow s a k v 0x03)
/-- DCC_PRELOAD. -/
def execDccPreload (a : Agent) (k : CDie) (v : BitVec 56) (s : State) : Out := .next (maintRow s a k v 0x04)
/-- DCC_ZERO. -/
def execDccZero (a : Agent) (k : CDie) (v : BitVec 56) (s : State) : Out := .next (maintRow s a k v 0x05)
/-- DCC_INV_SW. -/
def execDccInvSw (a : Agent) (k : CDie) (v : BitVec 56) (s : State) : Out := .next (maintRow s a k v 0x11)
/-- DCC_CLEAN_SW. -/
def execDccCleanSw (a : Agent) (k : CDie) (v : BitVec 56) (s : State) : Out := .next (maintRow s a k v 0x12)
/-- DCC_CLEAN_INV_SW. -/
def execDccCleanInvSw (a : Agent) (k : CDie) (v : BitVec 56) (s : State) : Out := .next (maintRow s a k v 0x13)
/-- DCC_INV_ALL. -/
def execDccInvAll (a : Agent) (k : CDie) (v : BitVec 56) (s : State) : Out := .next (maintRow s a k v 0x1F)
/-- DCC_MAINT_COMPLETE. -/
def execDccMaintComplete (k : CDie) (s : State) : Out := .next (maintComplete s k)
/-- DCC_CTL_WRITE. -/
def execDccCtlWrite (a : Agent) (k : CDie) (v : W64) (s : State) : Out := .next (if cWrite s a k then dccCtlWrite s k v.toNat else s)
/-- DCC_LOCK_WRITE. -/
def execDccLockWrite (a : Agent) (k : CDie) (v : W64) (s : State) : Out := .next (if cWrite s a k then dccLockWrite s k v.toNat else s)

end Sys2Proof.Machine
end

