-- ==== Sys2Proof/Machine/L1.lean ====
section
/-!
DEFINITION. The tile L1 and its merging buffer (R275-R280, R286, R295, R297, R304), and the global loads, stores, atomics
and prefetches of a tile.
-/
namespace Sys2Proof.Machine

/-! ### Lines and entries -/

def l1Enabled (s : State) (t : Nat) : Bool := rf s .l1cCtl (tileDie t) (tileSite t) 0 0 0 == 1

/-- Counts an event of a tile's L1. -/
def l1Count (s : State) (t : Nat) (r : Reg) (n : Nat) : State := count s r (tileDie t) (tileSite t) 0 n

/-- The way that holds a line (R275: the set is address bits 13:7). -/
def l1Find (x : Tile) (line : Nat) : Option Nat :=
  ((List.range 8).map fun w => line % 128 * 8 + w).find? fun key =>
    match mfind x.l1 key with | some l => l.line == line | none => false

def l1Drop (s : State) (t line : Nat) : State :=
  let x := tile s t
  match l1Find x line with
  | none => s
  | some key => setTile s t { x with l1 := mdel x.l1 key }

/-- Sends a request to the tile's die cache. -/
def toDcc (s : State) (t : Nat) (r : MemReq) : State :=
  let c := dcc s (tileDie t)
  setDcc s (tileDie t) { c with inq := c.inq ++ [r] }

/-- A fresh request number. -/
def freshId (s : State) : Nat × State := (s.nextId, { s with nextId := s.nextId + 1 })

/-- The requester of a group's accesses, for the prefetcher (R288). -/
def reqKey (t g : Nat) : Nat := t % 128 * 16 + g

/-! ### The merging buffer (R277, R278) -/

/-- An entry drains: one partial-line write to the die cache. -/
def drainEntry (s : State) (t line : Nat) : State :=
  let x := tile s t
  match x.merge.find? fun e => e.line == line with
  | none => s
  | some e =>
    let s := setTile s t { x with merge := x.merge.filter fun e => e.line != line }
    toDcc s t ⟨0, line, .write e.bytes [], .store t 16 0, false, e.streaming, reqKey t 0, false⟩

/-- Every entry drains to the die cache (R279, DRAIN). -/
def l1Drain (s : State) (t : Nat) : State := (tile s t).merge.foldl (fun s e => drainEntry s t e.line) s

/-- A group's bytes for one line enter the merging buffer; a line that the L1 holds, or is filling, gets them too (R276)
(DEDUCED, log entry 51). -/
def mergeStore (s : State) (t line : Nat) (bs : Map Byte) (streaming : Bool) : State :=
  let x := tile s t
  let s := match l1Find x line with
    | some key => match mfind x.l1 key with
      | some l => setTile s t { x with l1 := mins x.l1 key { l with bytes := mergeBytes l.bytes bs } }
      | none => s
    | none => s
  let x := tile s t
  let s := setTile s t { x with l1Miss := x.l1Miss.map fun m => if m.line == line then { m with stored := mergeBytes m.stored bs } else m }
  let x := tile s t
  let s :=
    if x.merge.any fun e => e.line == line then
      l1Count (setTile s t { x with merge := x.merge.map fun e => if e.line == line then { e with bytes := mergeBytes e.bytes bs } else e })
        t .l1cMerges 1
    else
      let s := if 16 ≤ x.merge.length then (match x.merge with | e :: _ => drainEntry s t e.line | [] => s) else s
      let x := tile s t
      setTile s t { x with merge := x.merge ++ [⟨line, mergeBytes [] bs, streaming⟩] }
  if (tile s t).merge.any fun e => e.line == line && maskOf e.bytes == fullMask then drainEntry s t line else s

/-- What the tile's own stores give of a line before the L1 is read: the merging buffer's bytes, and those stored since a fill
in progress was requested (R278). A load at the home takes the buffer's bytes alone (R285). -/
def ownBytes (x : Tile) (line cache : Nat) : Map Byte :=
  let m := if cache = 3 then [] else
    match x.l1Miss.find? fun m => m.line == line && !m.discard with | some m => m.stored | none => []
  match x.merge.find? fun e => e.line == line with | some e => mergeBytes m e.bytes | none => m

/-! ### INV, enable and fills (R279, R295, R297, R304) -/

/-- INV: every line is invalid, every pending fill is marked for discard. -/
def l1InvAll (s : State) (t : Nat) : State :=
  let x := tile s t
  setTile s t { x with l1 := [], l1Miss := x.l1Miss.map fun m => { m with discard := true } }

/-- A write of L1C_CTL: INV first, then ENABLE (DEDUCED, log entry 19). -/
def l1cCtlWrite (s : State) (t v : Nat) : State :=
  let k := tileDie t
  let i := tileSite t
  let st (hi lo x : Nat) (s : State) : State := rfset s .l1cCtl k i 0 hi lo x
  let s := if bit v 1 then st 2 2 1 (l1InvAll s t) else s
  let on := l1Enabled s t
  if bit v 0 && !on then
    if rf s .l1cCtl k i 0 2 2 = 1 then st 0 0 1 s else st 47 32 0x802 s
  else if !bit v 0 && on then st 2 2 0 (st 0 0 0 s)
  else s

/-- A line is installed in its set: an empty way, else the tree's choice (R275). -/
def l1Install (s : State) (t line : Nat) (bs : Map Byte) : State :=
  let x := tile s t
  let set := line % 128
  let key := match l1Find x line with
    | some key => key
    | none =>
      match (List.range 8).find? fun w => (mfind x.l1 (set * 8 + w)).isNone with
      | some w => set * 8 + w
      | none => set * 8 + plruPick 3 (mget 0 x.l1Plru set) (fun _ => true) 1 0
  setTile s t { x with l1 := mins x.l1 key ⟨line, bs⟩, l1Plru := mput 0 x.l1Plru set (plruTouch 3 (mget 0 x.l1Plru set) 1 (key % 8)) }

/-- A hit makes its way the most recently used. -/
def l1Touch (s : State) (t key : Nat) : State :=
  let x := tile s t
  setTile s t { x with l1Plru := mput 0 x.l1Plru (key / 8) (plruTouch 3 (mget 0 x.l1Plru (key / 8)) 1 (key % 8)) }

/-- L1_FILL_ARRIVE: the fill serves its waiting loads and is installed unless it was marked (R295). -/
def l1FillArrive (s : State) (t line : Nat) : State :=
  match s.l1Fills.find? fun f => f.line == line && f.dest == .l1Fill t with
  | none => s
  | some f =>
    let s := { s with l1Fills := s.l1Fills.erase f }
    let x := tile s t
    match x.l1Miss.find? fun m => m.line == line with
    | none => s
    | some m =>
      let s := setTile s t { x with l1Miss := x.l1Miss.erase m }
      let s := if f.code = 0 ∧ m.install ∧ !m.discard ∧ l1Enabled s t then l1Install s t line (mergeBytes f.bytes m.stored) else s
      m.waiting.foldl (fun s w =>
        if f.code = 0 then pendLine s t w.1 w.2 line (overlay (List.replicate 128 0) f.bytes) else pendFail s t w.1 w.2 line f.code) s

/-! ### Global accesses of a group (R67-R69, R273, R276-R286) -/

/-- Distinct items in order of first appearance. -/
def distinct : List Nat → List Nat → List Nat
  | seen, [] => seen
  | seen, x :: xs => distinct (if seen.contains x then seen else seen ++ [x]) xs

/-- The bytes of a line that lanes need. -/
def lanesNeed (lanes : List (Nat × Nat)) (width line : Nat) : Nat :=
  (lanes.filter fun l => l.2 / 128 == line).foldl (fun m l => m ||| needMask l.2 width) 0

/-- An access that no memory answers: a hole, register space, or a lost or foreign aperture. -/
def laneCode (s : State) (t pa width : Nat) : Nat :=
  if inMemory pa then 0
  else match inAperture pa with
    | some (k, off) => apertureCode s k (some (tile s t).ctx) off width
    | none => 0x840

/-- Adds the bytes that the tile's own stores and a resident line give to a load. -/
def addKnown (got : Map Byte) (lanes : List (Nat × Nat)) (width line : Nat) (bs : Map Byte) : Map Byte :=
  (lanes.filter fun l => l.2 / 128 == line).foldl (fun m l =>
    (List.range width).foldl (fun m i =>
      match mfind bs (l.2 % 128 + i) with
      | some b => if (mfind m (l.1 * 16 + i)).isSome then m else mins m (l.1 * 16 + i) b
      | none => m) m) got

/-- A load waits on a line's miss register, or begins a fill (R286). -/
def l1Miss (s : State) (t g id line cache : Nat) : State :=
  let x := tile s t
  let install := cache == 0
  match x.l1Miss.find? fun m => m.line == line && !m.discard with
  | some m =>
    setTile s t { x with l1Miss := x.l1Miss.map fun y =>
      if y = m then { y with waiting := y.waiting ++ [(g, id)], install := y.install || install } else y }
  | none =>
    let s := setTile s t { x with l1Miss := x.l1Miss ++ [⟨line, [(g, id)], false, install, []⟩] }
    toDcc s t ⟨0, line, .read (BitVec.ofNat 128 fullMask), .l1Fill t, false, cache == 1, reqKey t g, false⟩

/-- A global load by lanes of physical addresses (R276, R278, R280); a hit to a line of `parity` meets a parity error, which
invalidates the line and makes it a miss (R301). None where it waits for a miss register. -/
def loadGlobal (s : State) (t g : Nat) (scalar : Bool) (dst width : Nat) (all : List (Nat × Nat)) (cache : Nat)
    (parity : List Nat) : Option State :=
  let x := tile s t
  let lanes := all.filter fun l => laneCode s t l.2 width == 0
  let mem := lanes.filter fun l => inMemory l.2
  let lines := distinct [] (mem.map fun l => l.2 / 128)
  let need (line : Nat) : Nat :=
    let m := lanesNeed mem width line
    m - (m &&& maskOf (ownBytes x line cache))
  let found (line : Nat) : Option Nat := if cache ≠ 3 ∧ l1Enabled s t then l1Find x line else none
  let hit (line : Nat) : Option Nat := if parity.contains line then none else found line
  let wanted := lines.filter fun line => need line != 0
  let missing := wanted.filter fun line => (hit line).isNone
  let regs := if cache = 3 then [] else missing
  let old (line : Nat) : Option L1Miss := x.l1Miss.find? fun m => m.line == line && !m.discard
  if (regs.any fun l => match old l with | some m => decide (16 ≤ m.waiting.length) | none => false)
      || decide (64 < x.l1Miss.length + (regs.filter fun l => (old l).isNone).length) then none
  else
    let bad := all.foldl (fun c l => if c ≠ 0 then c else laneCode s t l.2 width) 0
    -- bytes of apertures (R185), free where R171 makes them undefined
    let (gc, got, s) := (lanes.filter fun l => !inMemory l.2).foldl (fun (a : Nat × Map Byte × State) l =>
      match inAperture l.2 with
      | some (k, off) =>
        let r := grtRead s k off width
        let s := drpSeen a.2.2 k off width false
        let (v, s) := if grtHazard s t g k off width then drawFree128 s else (ofBytes r.2, s)
        (if a.1 = 0 then r.1 else a.1, if r.1 = 0 then gotAdd a.2.1 l.1 (toBytes width v) else a.2.1, s)
      | none => a) (0, [], s)
    let got := lines.foldl (fun m line => addKnown m mem width line (ownBytes x line cache)) got
    let got := wanted.foldl (fun m line =>
      match hit line with
      | some key => (match mfind x.l1 key with | some l => addKnown m mem width line l.bytes | none => m)
      | none => m) got
    let (id, s) := freshId s
    let s := (wanted.filter fun line => parity.contains line && (found line).isSome).foldl (fun s line => l1Drop s t line) s
    let hits := wanted.filterMap hit
    let s := hits.foldl (fun s key => l1Touch s t key) s
    let s := if cache = 3 then s else l1Count (l1Count s t .l1cHits hits.length) t .l1cMisses missing.length
    match group s t g with
    | none => some s
    | some gr =>
      let p : PendingMem := { id := id, scalar := scalar, dst := dst, width := width, lanes := lanes, left := missing, got := got }
      let s := setGroup s t g (pendPut gr p)
      let s := missing.foldl (fun s line =>
        if cache = 3 then toDcc s t ⟨id, line, .read (BitVec.ofNat 128 (need line)), .load t g id, true, false, reqKey t g, false⟩
        else l1Miss s t g id line cache) s
      let code := if bad ≠ 0 then bad else gc
      some (if code = 0 then s else imprecise s t code)

/-- The bytes that lanes store to a line: the highest-numbered lane wins a byte (R68). -/
def lanesBytes (lanes : List (Nat × Nat × List Byte)) (line : Nat) : Map Byte :=
  (lanes.filter fun l => l.2.1 / 128 == line).foldl (fun m l => mergeBytes m (bytesFrom (l.2.1 % 128) l.2.2)) []

/-- A global store: lane, physical address and bytes, in lane order. -/
def storeGlobal (s : State) (t g : Nat) (all : List (Nat × Nat × List Byte)) (cache : Nat) : State :=
  let ok := all.filter fun l => laneCode s t l.2.1 l.2.2.length == 0
  let bad := all.foldl (fun c l => if c ≠ 0 then c else laneCode s t l.2.1 l.2.2.length) 0
  let mem := ok.filter fun l => inMemory l.2.1
  let s := (ok.filter fun l => !inMemory l.2.1).foldl (fun s l =>
    match inAperture l.2.1 with | some (k, off) => grtWrite s k off l.2.2 | none => s) s
  let s := (distinct [] (mem.map fun l => l.2.1 / 128)).foldl (fun s line =>
    let bs := lanesBytes mem line
    if cache = 3 then
      let s := drainEntry s t line
      let x := tile s t
      let s := match l1Find x line with
        | some key => (match mfind x.l1 key with
          | some l => setTile s t { x with l1 := mins x.l1 key { l with bytes := mergeBytes l.bytes bs } }
          | none => s)
        | none => s
      let x := tile s t
      let s := setTile s t { x with l1Miss := x.l1Miss.map fun m => if m.line == line then { m with stored := mergeBytes m.stored bs } else m }
      let (id, s) := freshId s
      let s := toDcc s t ⟨id, line, .write bs [], .store t g id, true, false, reqKey t g, false⟩
      match group s t g with
      | some gr => setGroup s t g { gr with unperformed := gr.unperformed ++ [id], invisible := gr.invisible ++ [id] }
      | none => s
    else mergeStore s t line bs (cache == 1)) s
  if bad = 0 then s else imprecise s t bad

/-- A global atomic (R72-R74, R278, R283): lane, physical address, operand and second operand. -/
def atomGlobal (s : State) (t g dst aop ty : Nat) (all : List (Nat × Nat × W64 × W64)) : State :=
  let n := atomWidth ty / 8
  let ok := all.filter fun l => laneCode s t l.2.1 n == 0
  let bad := all.foldl (fun c l => if c ≠ 0 then c else laneCode s t l.2.1 n) 0
  let addrs := distinct [] (ok.map fun l => l.2.1)
  let (id, s) := freshId s
  match group s t g with
  | none => s
  | some gr =>
    let p : PendingMem := { id := id, scalar := false, dst := dst, width := n, lanes := ok.map fun l => (l.1, l.2.1), left := addrs, got := [] }
    let s := setGroup s t g { gr with pend := gr.pend ++ [p] }
    let s := addrs.foldl (fun s a =>
      let ops := (ok.filter fun l => l.2.1 == a).map fun l => l.2.2
      if inMemory a then
        let s := l1Drop (drainEntry s t (a / 128)) t (a / 128)
        let x := tile s t
        let s := setTile s t { x with l1Miss := x.l1Miss.map fun m => if m.line == a / 128 then { m with discard := true } else m }
        toDcc s t ⟨id, a / 128, .atomic (BitVec.ofNat 4 aop) (BitVec.ofNat 4 ty) (a % 128) ops, .atomic t g id, true, false, reqKey t g, false⟩
      else
        match inAperture a with
        | some (k, off) =>
          let hazard := grtHazard s t g k off n
          let (code, outs, s) := grtAtomic s k off aop ty (ops.map fun p => (p.1.toNat % 2 ^ atomWidth ty, p.2.toNat % 2 ^ atomWidth ty)) false
          let (outs, s) := if hazard then drawList outs.length s else (outs, s)
          if code = 0 then pendAtomic s t g id a outs else pendFail s t g id a code
        | none => s) s
    let s := if addrs.isEmpty then (match group s t g with
        | some gr => setGroup s t g { gr with pend := gr.pend.filter fun p => p.id != id }
        | none => s) else s
    if bad = 0 then s else imprecise s t bad

/-- A prefetch of a line (R280): into L1 and die cache, or into the die cache alone; a line that is already held, or for which
no register is free, is not fetched. -/
def prefetchGlobal (s : State) (t g line cache : Nat) : State :=
  if cache = 3 ∨ !inMemory (line * 128) then s
  else
    let x := tile s t
    if cache = 0 ∧ l1Enabled s t then
      if (l1Find x line).isSome || (x.l1Miss.any fun m => m.line == line && !m.discard) || decide (64 ≤ x.l1Miss.length) then s
      else
        let s := setTile s t { x with l1Miss := x.l1Miss ++ [⟨line, [], false, true, []⟩] }
        toDcc s t ⟨0, line, .read (BitVec.ofNat 128 fullMask), .l1Fill t, false, false, reqKey t g, false⟩
    else toDcc s t ⟨0, line, .read (BitVec.ofNat 128 fullMask), .none, false, cache == 1, reqKey t g, false⟩

/-! ### The commands -/

/-- MERGE_ENTRY_IDLE_DRAIN (R277): an entry that has received no store for 256 tile clocks drains. -/
def execMergeEntryIdleDrain (t : TileId) (line : Nat) (s : State) : Out :=
  .next (if tileOpen s t then drainEntry s t line else s)

/-- A tile's registers answer a writer of the L1's kind (R29, R574). -/
def l1Writable (s : State) (a : Agent) (t : Nat) : Bool := tileOpen s t && !anyFatal s && agentMay a .uszonCore

/-- L1_INV: a write of L1C_CTL with INV. -/
def execL1Inv (a : Agent) (t : TileId) (v : W64) (s : State) : Out :=
  .next (if l1Writable s a t then l1cCtlWrite s t (fset v.toNat 1 1 1) else s)

/-- L1C_CTL_ENABLE_WRITE: a write of L1C_CTL without INV. -/
def execL1cCtlEnableWrite (a : Agent) (t : TileId) (v : W64) (s : State) : Out :=
  .next (if l1Writable s a t then l1cCtlWrite s t (fset v.toNat 1 1 0) else s)

/-- L1_FILL_ARRIVE. -/
def execL1FillArrive (t : TileId) (line : Nat) (s : State) : Out := .next (l1FillArrive s t line)

end Sys2Proof.Machine
end

