-- ==== Sys2Proof/Machine/Operands.lean ====
section
/-!
DEFINITION. The operand forms of tile instructions (R55-R58, R62, R576): the fields of a word, the roles that operands play,
the checks of R57, the lanes that take part, and reading and writing operands.
-/
namespace Sys2Proof.Machine

/-! ### Fields (R55) -/

def fTy (w : Nat) : Nat := bits w 55 52
def fGe (w : Nat) : Bool := bit w 51
def fGn (w : Nat) : Bool := bit w 50
def fGp (w : Nat) : Nat := bits w 49 46
def fDk (w : Nat) : Nat := bits w 45 44
def fDst (w : Nat) : Nat := bits w 43 36
def fAk (w : Nat) : Nat := bits w 35 34
def fA (w : Nat) : Nat := bits w 33 26
def fBk (w : Nat) : Nat := bits w 25 24
def fB (w : Nat) : Nat := bits w 23 16
def fCk (w : Nat) : Nat := bits w 15 14
def fC (w : Nat) : Nat := bits w 13 6
/-- MOD of the V format. -/
def fMod (w : Nat) : Nat := bits w 5 0
/-- IMM24 and MOD 1:0 of the I format. -/
def fImm24 (w : Nat) : Nat := bits w 25 2
def fImod (w : Nat) : Nat := bits w 1 0
/-- The M format. -/
def fMb (w : Nat) : Nat := bits w 25 18
def fSpace (w : Nat) : Nat := bits w 17 15
def fCache (w : Nat) : Nat := bits w 14 13
def fAop (w : Nat) : Nat := bits w 12 9
def fOff (w : Nat) : Int := signed 9 w
/-- The B and J formats. -/
def fReconv (w : Nat) : Nat := bits w 45 32
def fTarget (w : Nat) : Int := signed 32 w

/-! ### Types (R56) -/

/-- The width of a TYPE in bits, as a register holds it. -/
def tyWidth (ty : Nat) : Nat := if ty == 2 || ty == 3 || ty == 5 then 64 else if ty == 10 then 128 else 32
/-- The registers of a value. -/
def tyRegs (ty : Nat) : Nat := tyWidth ty / 32
/-- The bytes of an access of a TYPE. -/
def tyBytes (ty : Nat) : Nat := if ty == 8 then 1 else if ty == 9 then 2 else tyWidth ty / 8

/-- Classes of types, as lists of codes. -/
def tyInt : List Nat := [0, 1, 2, 3]
def tyU : List Nat := [0, 2]
def tyFp : List Nat := [4, 5, 6, 7]
def tyAny : List Nat := List.range 13
/-- The types of pcmp: a packed pair has no single relation (DEDUCED, log entry 66). -/
def tyNum : List Nat := [0, 1, 2, 3, 4, 5, 11, 12]
def tyCvt : List Nat := [0, 1, 2, 3, 4, 5, 6, 7, 11, 12]
def isPacked (ty : Nat) : Bool := ty == 6 || ty == 7
def isInt (ty : Nat) : Bool := decide (ty ≤ 3)

/-- The floating format of a TYPE; of a packed type, that of a half. -/
def tyFmt (ty : Nat) : Fmt :=
  if ty == 5 then fmtF64 else if ty == 6 || ty == 11 then fmtF16 else if ty == 7 || ty == 12 then fmtBf16 else fmtF32

/-- An FP32 value converted into a format to nearest even (R65, R576). -/
def cvtF32 (f : Fmt) (x : Nat) : Nat := f.ofFV .rne (fmtF32.dec x)

/-- The value of an I form's immediate (R55, R576). -/
def immValue (ty w : Nat) : Nat :=
  let i := fImm24 w
  if ty == 4 then i <<< 8
  else if isPacked ty then let h := cvtF32 (tyFmt ty) (i <<< 8)
                           h <<< 16 + h
  else if ty == 5 || ty == 11 || ty == 12 then cvtF32 (tyFmt ty) (i <<< 8)
  else wrap (tyWidth ty) (signed 24 i)

/-! ### Roles and checks (R57, R62) -/

/-- The destination an instruction allows: a value, per-thread or (with `scalar`) scalar too; a predicate; only a scalar
register; none. -/
inductive Dst where
  | value (scalar : Bool) | pred | scalar | none
deriving DecidableEq, Repr

/-- What a source holds: a value of TYPE, a value of type code `n`, a predicate, or nothing. -/
inductive Src where
  | typed | code (n : Nat) | pred | none
deriving DecidableEq, Repr

/-- An instruction's operands: the types it lists (all where its row lists none), its destination and its sources. `any`
says that source a of a scalar form may be per-thread or a predicate (R62). -/
structure Form where
  types : List Nat
  dst : Dst
  a : Src
  b : Src
  c : Src
  any : Bool
deriving DecidableEq, Repr

/-- One register operand: 0, or E_TILE_ILLEGAL. `n` registers, aligned to `n`. -/
def regIllegal (kind idx n : Nat) : Bool :=
  kind == 3 || (kind == 1 && decide (64 ≤ idx)) || (kind == 2 && decide (16 ≤ idx)) || (kind == 0 && idx % n != 0)

/-- A per-thread operand beyond the allocation (R57). -/
def regBeyond (alloc kind idx n : Nat) : Bool := kind == 0 && decide (alloc < idx + n)

/-- The registers of a source. -/
def srcRegs (ty : Nat) : Src → Nat
  | .typed => tyRegs ty
  | .code n => tyRegs n
  | _ => 1

/-- A source's kind and index are illegal; `held` says that it must be a scalar register. DESIGN CHOICE (log entry 107): a
predicate where the row takes a value, or the reverse, is illegal. -/
def srcIllegal (ty : Nat) (held : Bool) (r : Src) (kind idx : Nat) : Bool :=
  match r with
  | .none => false
  | _ => (r == .pred) != (kind == 2) || (held && kind != 1) || regIllegal kind idx (srcRegs ty r)

/-- Whether the destination is a scalar register. -/
def Form.isScalar (f : Form) (w : Nat) : Bool := (match f.dst with | .value _ => true | .scalar => true | _ => false) && fDk w == 1

/-- The destination is illegal. -/
def Form.dstIllegal (f : Form) (w : Nat) : Bool :=
  match f.dst with
  | .none => fDk w == 1
  | .pred => fDk w != 2 || decide (16 ≤ fDst w)
  | .scalar => fDk w != 1 || decide (64 ≤ fDst w) || fGe w
  | .value sc =>
    fDk w == 2 || (fDk w == 1 && (!sc || fTy w == 10 || fGe w)) || regIllegal (fDk w) (fDst w) (tyRegs (fTy w))

/-- The sources of a V form, with kind and index; of an I form only a. -/
def Form.sources (f : Form) (iform : Bool) (w : Nat) : List (Src × Nat × Nat) :=
  if iform then [(f.a, fAk w, fA w)] else [(f.a, fAk w, fA w), (f.b, fBk w, fB w), (f.c, fCk w, fC w)]

/-- The checks of R57 that the operands' fields decide: 0, E_TILE_ILLEGAL or E_TILE_REG_RANGE. `bad` is the instruction's
own condition on MOD and the immediate. DESIGN CHOICE (log entry 107): E_TILE_ILLEGAL comes first where both hold; of a field
that the instruction does not use, the kind 3 is illegal and the index is not looked at. -/
def Form.check (f : Form) (iform : Bool) (alloc w : Nat) (bad : Bool) : Nat :=
  let ty := fTy w
  let srcs := f.sources iform w
  let kinds := if iform then [fDk w, fAk w] else [fDk w, fAk w, fBk w, fCk w]
  if decide (12 < ty) || !f.types.contains ty || bad || kinds.contains 3 || f.dstIllegal w
      || (srcs.mapIdx fun i s => srcIllegal ty (f.isScalar w && !(f.any && i == 0)) s.1 s.2.1 s.2.2).any id then 0x101
  else if (match f.dst with | .value _ => regBeyond alloc (fDk w) (fDst w) (tyRegs ty) | _ => false)
      || srcs.any fun s => s.1 != .none && regBeyond alloc s.2.1 s.2.2 (srcRegs ty s.1) then 0x102
  else 0

/-- The per-thread and the scalar registers that the operands name, for the interlock (R54). -/
def Form.touches (f : Form) (iform : Bool) (w : Nat) : List Nat × List Nat :=
  let srcs := (f.sources iform w).filter fun s => s.1 != .none
  let all := (match f.dst with | .value _ => [(fDk w, fDst w, tyRegs (fTy w))] | .scalar => [(1, fDst w, 1)] | _ => [])
    ++ srcs.map fun s => (s.2.1, s.2.2, srcRegs (fTy w) s.1)
  (all.flatMap fun x => if x.1 = 0 then (List.range x.2.2).map (x.2.1 + ·) else [],
   all.flatMap fun x => if x.1 = 1 then [x.2.1] else [])

/-! ### Lanes (R58) -/

/-- The guard of a lane is true. -/
def guardOk (gr : Group) (w lane : Nat) : Bool := !fGe w || (pget gr (fGp w) lane != fGn w)

/-- The active lanes whose guard is true. -/
def lanesOf (gr : Group) (w : Nat) : List Nat := gr.active.filter (guardOk gr w)

/-! ### Reading and writing operands (R56, R58) -/

/-- Reads an operand in a lane: a scalar source is broadcast, a 32-bit operation taking its low half. What a 128-bit operation
finds above a scalar register's 64 bits is a free function of them (DESIGN CHOICE, log entry 65). -/
def srcRead (gr : Group) (kind idx n lane : Nat) : Nat :=
  if kind = 1 then
    (if n = 4 then sget gr idx + (Config.scalarHigh (w64 (sget gr idx))).toNat <<< 64 else sget gr idx % 2 ^ (32 * n))
  else if kind = 2 then b2n (pget gr idx lane)
  else vgetN gr idx lane n

/-- Writes a destination in a lane. DESIGN CHOICE (log entry 108): a value narrower than its register is written with zeros above
it (a 32-bit result in a scalar register, an f16 or bf16 result), and mov copies all 32 bits of a b8 or b16 register. -/
def dstWrite (gr : Group) (kind idx n lane v : Nat) : Group :=
  if kind = 1 then sset gr idx v else if kind = 2 then pset gr idx lane (v % 2 == 1) else vsetN gr idx lane n v

/-- A source's value in a lane. -/
def Form.read (gr : Group) (r : Src) (ty kind idx lane : Nat) : Nat :=
  match r with
  | .none => 0
  | _ => srcRead gr kind idx (srcRegs ty r) lane

/-! ### The common shape of an instruction -/

/-- The outcome of an instruction's issue: a fault, or the group after it and the rest of the state. -/
inductive Issue where
  | fault (code : Nat)
  | done (gr : Group) (s : State)
  /-- The unit that it needs cannot take it now (R53). -/
  | wait
  /-- It has begun its work and has not completed: the group stays at it. -/
  | hold (s : State)

/-- Issues an instruction of a group that is ready (R53, R54, R57, R78): the check of its operands, the interlock, then its
own work, after which the pc goes on. -/
def issue (s : State) (t g : Nat) (check : Nat → Nat) (touch : List Nat × List Nat) (f : State → Group → Issue) : Out :=
  .next (match ready s t g with
    | none => s
    | some (gr, s') =>
      let code := check (tile s t).alloc
      if code ≠ 0 then preciseFault s' t g code
      else if loadsTouch gr touch.1 touch.2 then s
      else
        match f s' gr with
        | .fault c => preciseFault s' t g c
        | .wait => s
        | .hold s => s
        | .done gr s => setGroup s t g gr.step)

/-- An instruction that computes lane by lane (R58, R62): `op` takes the type, the three sources and the previous value of the
destination. -/
def laneOp (f : Form) (iform : Bool) (bad : Bool) (op : Nat → Nat → Nat → Nat → Nat → Nat) (t g w : Nat) (s : State) : Out :=
  issue s t g (fun alloc => f.check iform alloc w bad) (f.touches iform w) fun s gr =>
    let ty := fTy w
    let n := match f.dst with | .pred => 1 | _ => tyRegs ty
    let one (gr0 gr : Group) (lane : Nat) : Group :=
      let a := Form.read gr0 f.a ty (fAk w) (fA w) lane
      let b := if iform then immValue ty w else Form.read gr0 f.b ty (fBk w) (fB w) lane
      let c := if iform then 0 else Form.read gr0 f.c ty (fCk w) (fC w) lane
      dstWrite gr (fDk w) (fDst w) n lane (op ty a b c (srcRead gr0 (fDk w) (fDst w) n lane))
    if f.isScalar w then
      match gr.active with
      | [] => .done gr s
      | l :: _ => .done (one gr gr l) s
    else .done ((lanesOf gr w).foldl (one gr) gr) s

/-- The forms that many instructions share: values from two sources, one source, three sources. -/
def form2 (types : List Nat) (scalar : Bool) : Form := ⟨types, .value scalar, .typed, .typed, .none, false⟩
def form1 (types : List Nat) (scalar : Bool) : Form := ⟨types, .value scalar, .typed, .none, .none, false⟩
def form3 (types : List Nat) (scalar : Bool) : Form := ⟨types, .value scalar, .typed, .typed, .typed, false⟩
def form0 (types : List Nat) : Form := ⟨types, .none, .none, .none, .none, false⟩

/-- MOD is nonzero where the instruction gives it no meaning. -/
def modNone (iform : Bool) (w : Nat) : Bool := if iform then fImod w != 0 else fMod w != 0
/-- MOD 5:2 is nonzero where only the rounding has a meaning. -/
def modRound (iform : Bool) (w : Nat) : Bool := !iform && fMod w / 4 != 0
/-- The rounding of a word. -/
def rndW (iform : Bool) (w : Nat) : Rnd := rndOf (if iform then fImod w else fMod w % 4)

end Sys2Proof.Machine
end

