-- ==== Sys2Proof/Machine/Flags.lean ====
section
/-!
DEFINITION. Predicates and what is computed lane by lane (R62, R64, R65): comparisons, integer and floating operations,
conversions. The tile has no other flags.
-/
namespace Sys2Proof.Machine

/-! ### Relations (R62, pcmp) -/

/-- The relation codes 0x0 eq, 0x1 ne, 0x2 lt, 0x3 le, 0x4 gt, 0x5 ge, 0x6 ord, 0x7 unord on an order. -/
def relOrd (rel : Nat) (c : Int) : Bool :=
  match rel with
  | 0 => c == 0
  | 1 => c != 0
  | 2 => c < 0
  | 3 => c ≤ 0
  | 4 => c > 0
  | 5 => c ≥ 0
  | 6 => true
  | _ => false

/-- A relation of two values of a type: an unordered pair gives true under ne and unord alone, and -0 equals +0. -/
def relation (rel ty a b : Nat) : Bool :=
  if isInt ty then
    let w := tyWidth ty
    let x : Int := if ty % 2 = 1 then signed w a else ((a % 2 ^ w : Nat) : Int)
    let y : Int := if ty % 2 = 1 then signed w b else ((b % 2 ^ w : Nat) : Int)
    relOrd rel (x - y)
  else
    let f := tyFmt ty
    let x := f.dec (a % 2 ^ f.width)
    let y := f.dec (b % 2 ^ f.width)
    if x.isNan || y.isNan then rel == 1 || rel == 7 else relOrd rel (x.cmp y)

/-- plog: and, or, xor, not. -/
def predLogic (op : Nat) (a b : Bool) : Bool :=
  match op with
  | 0 => a && b
  | 1 => a || b
  | 2 => a != b
  | _ => !a

/-! ### Integer operations (R62) -/

/-- The integer that a value of an integer type stands for. -/
def intOf (ty a : Nat) : Int := if ty % 2 = 1 then signed (tyWidth ty) a else ((a % 2 ^ tyWidth ty : Nat) : Int)

def iAdd (ty a b : Nat) : Nat := (a + b) % 2 ^ tyWidth ty
def iSub (ty a b : Nat) : Nat := wrap (tyWidth ty) ((a : Int) - b)
def iMulLo (ty a b : Nat) : Nat := a * b % 2 ^ tyWidth ty
def iMulHi (ty a b : Nat) : Nat := wrap (tyWidth ty) (intOf ty a * intOf ty b / 2 ^ tyWidth ty)
def iMad (ty a b c : Nat) : Nat := (a * b + c) % 2 ^ tyWidth ty
def iMin (ty a b : Nat) : Nat := if intOf ty a ≤ intOf ty b then a else b
def iMax (ty a b : Nat) : Nat := if intOf ty b ≤ intOf ty a then a else b
def iNot (ty a : Nat) : Nat := 2 ^ tyWidth ty - 1 - a % 2 ^ tyWidth ty
def iShl (ty a b : Nat) : Nat := (a <<< (b % tyWidth ty)) % 2 ^ tyWidth ty
def iShr (ty a b : Nat) : Nat := a >>> (b % tyWidth ty)
/-- sra shifts in copies of the top bit, whatever the type. -/
def iSra (ty a b : Nat) : Nat := wrap (tyWidth ty) (signed (tyWidth ty) a / 2 ^ (b % tyWidth ty))
def iPopc (ty a : Nat) : Nat := (List.range (tyWidth ty)).foldl (fun n i => n + b2n (bit a i)) 0
def iClz (ty a : Nat) : Nat := if a = 0 then tyWidth ty else tyWidth ty - 1 - a.log2
def iBrev (ty a : Nat) : Nat :=
  (List.range (tyWidth ty)).foldl (fun n i => n + b2n (bit a i) <<< (tyWidth ty - 1 - i)) 0

/-- The position and the length of bfe and bfi. -/
def bfPos (ty b : Nat) : Nat := b % tyWidth ty
def bfLen (ty b c : Nat) : Nat := Nat.min c (tyWidth ty - bfPos ty b)

/-- bfe: the field of a, sign-extended from its top bit for a signed type; an empty field gives 0. -/
def iBfe (ty a b c : Nat) : Nat :=
  let l := bfLen ty b c
  let v := (a >>> bfPos ty b) % 2 ^ l
  if ty % 2 = 1 ∧ l ≠ 0 then wrap (tyWidth ty) (signed l v) else v

/-- bfi: the low bits of a replace the field of the previous value. -/
def iBfi (ty a b c old : Nat) : Nat :=
  let p := bfPos ty b
  let l := bfLen ty b c
  if l = 0 then old else fset old (p + l - 1) p a

/-! ### Floating operations (R64) -/

/-- Applies an operation of a format to values, to each half of a packed type. -/
def onHalves (ty : Nat) (f : Fmt → Nat → Nat → Nat → Nat) (a b c : Nat) : Nat :=
  let h := tyFmt ty
  if isPacked ty then f h (a % 65536) (b % 65536) (c % 65536) + f h (bits a 31 16) (bits b 31 16) (bits c 31 16) <<< 16
  else f h a b c

def fpAdd (r : Rnd) (ty a b : Nat) : Nat := onHalves ty (fun f x y _ => fadd f r x y) a b 0
def fpSub (r : Rnd) (ty a b : Nat) : Nat := onHalves ty (fun f x y _ => fsub f r x y) a b 0
def fpMul (r : Rnd) (ty a b : Nat) : Nat := onHalves ty (fun f x y _ => fmul f r x y) a b 0
def fpFma (r : Rnd) (ty a b c : Nat) : Nat := onHalves ty (fun f x y z => ffma f r x y z) a b c
def fpMin (ty a b : Nat) : Nat := onHalves ty (fun f x y _ => fminmax f false x y) a b 0
def fpMax (ty a b : Nat) : Nat := onHalves ty (fun f x y _ => fminmax f true x y) a b 0

/-! ### Conversions (R65) -/

/-- The integer nearest to a value under a rounding, clamped to a range. -/
def toIntSat (r : Rnd) (lo hi : Int) : FV → Int
  | .nan => 0
  | .inf neg => if neg then lo else hi
  | .fin neg m e =>
    let p := pow2 e
    let a : Int := ((r.int neg (m * p.1) p.2 : Nat) : Int)
    let v := if neg then -a else a
    if v < lo then lo else if hi < v then hi else v

/-- The least and the greatest integer of a type. -/
def intLo (ty : Nat) : Int := if ty % 2 = 1 then -(2 ^ (tyWidth ty - 1)) else 0
def intHi (ty : Nat) : Int := if ty % 2 = 1 then 2 ^ (tyWidth ty - 1) - 1 else 2 ^ tyWidth ty - 1

/-- An integer rounded into a format. -/
def ofInt (f : Fmt) (r : Rnd) (z : Int) : Nat := f.enc r (z < 0) z.natAbs 1 0

/-- cvt from a source type to a destination type. -/
def convert (r : Rnd) (src dst a : Nat) : Nat :=
  if isPacked dst then
    let one (x : Nat) : Nat := (tyFmt dst).ofFV r ((tyFmt src).dec x)
    one (a % 65536) + one (bits a 31 16) <<< 16
  else if isInt dst then
    if isInt src then wrap (tyWidth dst) (intOf src a)
    else wrap (tyWidth dst) (toIntSat r (intLo dst) (intHi dst) ((tyFmt src).dec (a % 2 ^ (tyFmt src).width)))
  else if isInt src then ofInt (tyFmt dst) r (intOf src a)
  else (tyFmt dst).ofFV r ((tyFmt src).dec (a % 2 ^ (tyFmt src).width))

/-- The conditions of R65 on cvt's source type and rounding. -/
def cvtBad (w : Nat) : Bool :=
  let src := fMod w / 4
  !tyCvt.contains src || isPacked src != isPacked (fTy w) || (isInt src && isInt (fTy w) && fMod w % 4 != 0)

end Sys2Proof.Machine
end

