-- ==== Sys2Proof/Machine/FlsCheck.lean ====
section
/-!
DEFINITION. The checks that fls.issue makes on a command block, in the order of R151: each answers the code of the failure and
the slot that failed, 7 for the header or the block itself (R178).
-/
namespace Sys2Proof.Machine

/-- Types of add and the like, of the floating operations, of MX elements, and of the integers of a reduction (R161, R162); an i18
slice is none of the last (DESIGN CHOICE, log entry 150). -/
def ftFloats : List Nat := [0x00, 0x01, 0x02, 0x03]
def ftAdd : List Nat := [0x00, 0x01, 0x02, 0x03, 0x0D, 0x0E, 0x12, 0x13]
def ftMx : List Nat := [0x04, 0x05, 0x06, 0x07, 0x08]
def ftInts : List Nat := [0x0A, 0x0B, 0x0C, 0x0D, 0x0E, 0x0F, 0x10, 0x11, 0x12, 0x13]

/-- The operations of R161. -/
def flsOps : List Nat :=
  [0x01, 0x02, 0x03, 0x04, 0x05, 0x06, 0x07, 0x08, 0x09, 0x0A, 0x0B, 0x0C, 0x0D, 0x10, 0x20, 0x28, 0x29, 0x30, 0x31, 0x38,
   0x40, 0x41, 0x42]
/-- The Electrum operations (R167). -/
def isEl (op : Nat) : Bool := op == 0x40 || op == 0x41 || op == 0x42
/-- The greatest SUB of an operation. -/
def subMax (op : Nat) : Nat :=
  match op with
  | 0x0B => 7
  | 0x0D => 5
  | 0x10 => 9
  | 0x20 => 9
  | 0x38 => 2
  | 0x40 | 0x41 | 0x42 => 1
  | _ => 0

/-- A combination of header fields that R153, R158, R161 or R162 does not allow. -/
def headerBad (b : Block) : Bool :=
  let op := bOp b
  let t1 := (bDesc b 1).ty
  !flsOps.contains op || bits (wd b 0) 42 40 != 0 || bits (wd b 0) 31 0 != 0 || bits (wd b 5) 15 0 != 0 || wd b 10 != 0
    || wd b 11 != 0 || bRnd b == 3 || (if op = 0x20 then bRdims b == 0 || decide (4 < bRdims b) else bRdims b != 0)
    || decide (subMax op < bSub b)
    || (bMen b && (op == 0x28 || op == 0x29 || op == 0x30 || op == 0x31 || isEl op))
    || (!bMen b && (bMinv b || bMfill b))
    || (bAccum b && !((op == 0x20 && decide (bSub b < 8)) || op == 0x41 || op == 0x42))
    || (op == 0x20 && ((decide (5 ≤ bSub b) && decide (bSub b ≤ 7) && ftFloats.contains t1)
      || (bSub b == 4 && ftInts.contains t1)))

/-- A type that R161 and R162 allow in a slot. The Electrum operations' types are a matter of R167, but the space of the class
sums is one here. -/
def slotType (b : Block) (i : Nat) : Bool :=
  let ty := (bDesc b i).ty
  let t1 := (bDesc b 1).ty
  if i = 4 ∧ bMen b then ty == 0x15
  else match bOp b with
    | 0x01 => ty != 0x15 && ty == t1
    | 0x02 => if i = 0 then !([0x06, 0x07, 0x08, 0x09, 0x15].contains ty) else ty != 0x15
    | 0x03 | 0x04 | 0x05 | 0x08 | 0x09 => ftAdd.contains ty && ty == t1
    | 0x06 => ftFloats.contains ty && ty == t1
    | 0x07 => [0x00, 0x01].contains ty && ty == t1
    | 0x0A => [0x00, 0x01, 0x0D, 0x0E].contains ty && ty == t1
    | 0x0B => if i = 0 then ty == 0x15 || ty == 0x10 else ftAdd.contains ty && ty == t1
    | 0x0C => if i = 3 then ty == 0x15 else ty != 0x15 && ty == t1
    | 0x0D => [0x12, 0x13].contains ty && ty == t1
    | 0x10 => ty == 0x00
    | 0x20 =>
      if i = 1 then ftFloats.contains ty || ftInts.contains ty
      else if 8 ≤ bSub b then ty == 0x12
      else if [0x00, 0x02, 0x03].contains t1 then [0x00, 0x02, 0x03].contains ty
      else if t1 = 0x01 then [0x01, 0x00].contains ty
      else ty == t1
    | 0x28 | 0x29 => if i = 2 then [0x12, 0x0D].contains ty else ty != 0x15 && ty == t1
    | 0x30 => if i = 0 then ftMx.contains ty else if i = 1 then [0x00, 0x03, 0x02].contains ty else ty == 0x09
    | 0x31 => if i = 0 then [0x01, 0x00, 0x03, 0x02].contains ty else if i = 1 then ftMx.contains ty else ty == 0x09
    | 0x38 => ty == (if bSub b = 0 then 0x12 else 0x00)
    | 0x41 => i != 1 || (bDesc b i).space == 2
    | _ => true

/-- A slot whose words break R154-R156, or that is not used and not zero. -/
def slotBad (b : Block) (i : Nat) : Bool :=
  let d := bDesc b i
  if (bSlots b).contains i then
    bits (wd b (12 + 4 * i)) 55 48 != 0 || wd b (15 + 4 * i) != 0 || decide (3 < d.space) || ftBits d.ty == 0
      || (d.space == 2 && !([0x00, 0x0D, 0x0E].contains d.ty)) || !slotType b i
  else (List.range 4).any fun j => wd b (12 + 4 * i + j) != 0

/-- The types of the Electrum slots (R167). -/
def elType (b : Block) (i : Nat) : Bool :=
  let d := bDesc b i
  let single := bSub b == 1
  match bOp b, i with
  | 0x40, 1 => d.ty == (if single then 0x00 else 0x01)
  | 0x40, 4 => d.ty == 0x0C
  | 0x40, _ => d.ty == 0x14
  | 0x41, 0 => d.ty == 0x0F
  | 0x41, _ => d.ty == 0x0E
  | _, 0 => d.ty == 0x01 || (single && d.ty == 0x00)
  | _, 1 => d.ty == 0x0F
  | _, _ => d.ty == 0x0C

/-- The class of el.acc (R167). -/
def elClass (b : Block) : Nat := bits (bImm b 0) 1 0
/-- The top weight: 2 in FP64-class, 1 in FP32-class. -/
def elTop (b : Block) : Nat := if bSub b = 1 then 1 else 2

/-- The extents and strides (check 5). -/
def shapeBad (b : Block) : Option Nat :=
  let later (i : Nat) : Bool := ((bDesc b i).str.drop 1).any (· != 0)
  match bOp b with
  | 0x20 => if ((bDesc b 0).str.take (bRdims b)).any (· != 0) then some 0 else none
  | 0x28 => if later 1 then some 1 else none
  | 0x29 => if later 0 then some 0 else none
  | 0x40 =>
    if bExt b 0 ≠ bKp b ∨ bExt b 2 ≠ 1 ∨ bExt b 3 ≠ 1 then some 7
    else (bSlots b).find? fun i => !elType b i
  | 0x41 => if elTop b < elClass b then some 7 else (bSlots b).find? fun i => !elType b i
  | 0x42 => (bSlots b).find? fun i => !elType b i
  | _ => none

/-- The base and the s64 elements of a slot (check 6). An element outside the accumulator store counts by the tile number that its
index spells (DESIGN CHOICE, log entry 149). -/
def alignBad (b : Block) (i : Nat) : Bool :=
  let d := bDesc b i
  if d.space = 2 then d.ty == 0x0E && (bIndices b i).any fun x => (((d.base : Int) + x) / 1024) % 2 == 1
  else decide (8 ≤ ftBits d.ty) && d.base % (ftBits d.ty / 8) != 0

/-- An element of a slot outside its space, or in a granule that the context does not own (check 7, R155, R189). -/
def rangeBad (s : State) (t : Nat) (b : Block) (i : Nat) : Bool :=
  let d := bDesc b i
  let x := tile s t
  (bIndices b i).any fun e =>
    if d.space = 2 then
      let q := (d.base : Int) + e
      decide (q < 0) || decide (32768 ≤ q + (if d.ty = 0x0E then 1024 else 0))
    else
      let lo : Int := (d.base * 8 : Nat) + e * (ftBits d.ty : Nat)
      let limit := if d.space = 0 then x.slmBytes else if d.space = 1 then grtEnd else 0x10000
      decide (lo < 0) || decide ((limit : Int) * 8 < lo + (ftBits d.ty : Nat))
        || (d.space == 1 && !grtOwned s (tileDie t) x.ctx (lo.toNat / 8) (cdiv (lo.toNat % 8 + ftBits d.ty) 8))

/-- The checks of R151 from the third on: code and slot, 0 where all pass. -/
def blockCheck (s : State) (t : Nat) (b : Block) : Nat × Nat :=
  if headerBad b then (0x401, 7)
  else match (List.range 5).find? (slotBad b) with
    | some i => (0x401, i)
    | none =>
      let kp := bKp b
      if (bOp b = 0x40 ∨ bOp b = 0x42) ∧ (kp % 32 ≠ 0 ∨ kp < 32 ∨ 65504 < kp) then (0x306, 7)
      else match shapeBad b with
        | some i => (0x404, i)
        | none => match (List.range 5).find? fun i => (bSlots b).contains i && alignBad b i with
          | some i => (0x402, i)
          | none => match (List.range 5).find? fun i => (bSlots b).contains i && rangeBad s t b i with
            | some i => (0x403, i)
            | none => (0, 0)

end Sys2Proof.Machine
end

