-- ==== Sys2Proof/Machine/Matrix.lean ====
section
/-!
DEFINITION. The matrix engines: the checks and the issue of matrix instructions (R88-R112), their arithmetic (R126-R133), and
the start and completion of what an engine holds (R106, R108, R114).
-/
namespace Sys2Proof.Machine

/-! ### The X format (R93, R94) -/

def xFmt (w : Nat) : Nat := bits w 55 52
def xAcc (w : Nat) : Nat := bits w 44 40
/-- AREG, DESC or REG. -/
def xReg (w : Nat) : Nat := bits w 39 32
def xBreg (w : Nat) : Nat := bits w 31 24
def xShape (w : Nat) : Nat := bits w 25 24
def xSreg (w : Nat) : Nat := bits w 23 16
def xMreg (w : Nat) : Nat := bits w 15 8
def xBfmt (w : Nat) : Nat := bits w 6 3
def xMx (w : Nat) : Bool := bit w 2
def xSp (w : Nat) : Bool := bit w 1
def xClr (w : Nat) : Bool := bit w 0
def xRate (w : Nat) : Rate := (mfRate (xFmt w)).getD .int18

/-- The K step (R92). -/
def kStep (r : Rate) (sp : Bool) : Nat := (if r = .fp46 then 64 else 32) * (if sp then 2 else 1)
/-- Engine clocks per accumulator tile and K step (R92). -/
def kClocks : Rate → Nat
  | .bf16 | .fp16 => 64
  | .int18 => 128
  | _ => 32

/-- mma and mmas: the encodings that R94 makes illegal, and the fields that R93 shows as zero. -/
def mmIllegal (stream : Bool) (w : Nat) : Bool :=
  let fa := mfRate (xFmt w)
  let fb := mfRate (xBfmt w)
  bits w 51 45 != 0 || bit w 7 || fa.isNone || fb.isNone || fa != fb
    || ((fa == some .bf16 || fa == some .fp16 || fa == some .int18) && xFmt w != xBfmt w)
    || !mxLegal (xFmt w) (xMx w) || (xSp w && fa == some .int18) || (!stream && fa == some .int18)
    || (stream && (bits w 31 26 != 0 || bits w 23 8 != 0 || decide (64 ≤ xReg w)))

/-- The register fragments of an mma: A, B, then the scale pair and META where they are used (R96). -/
def mmaFrags (w : Nat) : List (Nat × Nat) :=
  let k := kStep (xRate w) (xSp w)
  [(xReg w, kStep (xRate w) false * mfWidth (xFmt w) / 32), (xBreg w, k * mfWidth (xBfmt w) / 32)]
    ++ (if xMx w then [(xSreg w, 2)] else []) ++ (if xSp w then [(xMreg w, k / 32)] else [])

/-- Ranges of registers that share none. -/
def disjoint : List (Nat × Nat) → Bool
  | [] => true
  | r :: rs => (rs.all fun q => decide (r.1 + r.2 ≤ q.1) || decide (q.1 + q.2 ≤ r.1)) && disjoint rs

/-- The block of an mmas: rows, columns and tiles per element (R103). -/
def mmasRows (w : Nat) : Nat := if bit (xShape w) 1 then 2 else 1
def mmasCols (w : Nat) : Nat := if bit (xShape w) 0 then 2 else 1
def mmasUnit (w : Nat) : Nat := if xRate w = .int18 then 2 else 1

/-- The TYPE of mtx.zero, mtx.rd and mtx.wr: s64 is a pair (R95, R99). -/
def xPair (w : Nat) : Bool := xFmt w == 3

/-- The target tiles of an instruction with the tags that R91, R95 and R99 give them. -/
def mtxTags (opc w : Nat) : List (Nat × Nat) :=
  if opc = 0x80 then [(xAcc w, if xRate w = .int then 1 else 0)]
  else if opc = 0x81 then
    (List.range (mmasRows w * mmasCols w * mmasUnit w)).map fun i =>
      (xAcc w + i, if mmasUnit w = 2 then 2 + i % 2 else if xRate w = .int then 1 else 0)
  else if xPair w then [(xAcc w, 2), (xAcc w + 1, 3)]
  else [(xAcc w, if xFmt w = 1 then 1 else 0)]

/-- The accumulator tiles that an instruction writes (R99). -/
def mtxWrites (opc w : Nat) : List Nat := if opc = 0x80 ∨ opc = 0x81 ∨ opc = 0x88 ∨ opc = 0x8A then (mtxTags opc w).map Prod.fst else []

/-- Whether an instruction sets its targets' tags (R99, R107). -/
def mtxSets (opc w : Nat) : Bool := opc == 0x88 || opc == 0x8A || ((opc == 0x80 || opc == 0x81) && xClr w)

/-! ### Engines -/

def eng (x : Tile) (e : Nat) : Engine := mget Engine.reset x.engines e
def setEng (x : Tile) (e : Nat) (v : Engine) : Tile := { x with engines := mput Engine.reset x.engines e v }

/-- The tag of an accumulator tile in MTX_ACC_MODE (R118). -/
def accTag (x : Tile) (a : Nat) : Nat := bits x.accTags.toNat (2 * a + 1) (2 * a)

/-- The tag that an instruction issued now finds: that of the last matrix instruction before it that sets one (R108). A
Flowstone command that could still set one is waited for (`flsTagging`). -/
def tagAtIssue (x : Tile) (a : Nat) : Nat :=
  (eng x (a / 8)).queue.foldl (fun tag o =>
    if mtxSets o.opc o.word.toNat then ((mtxTags o.opc o.word.toNat).find? fun p => p.1 == a).elim tag (·.2) else tag)
    (accTag x a)

/-- Every lane of the group is active (R111). -/
def allActive (gr : Group) : Bool := gr.top.mask == BitVec.allOnes 32

/-- A wrong tag on a target (R99, R107). -/
def tagWrong (x : Tile) (opc w : Nat) : Bool := (mtxTags opc w).any fun p => tagAtIssue x p.1 != p.2

/-- A Flowstone command that issued earlier and has not run will write one of the targets, and so set its tag: the instruction
is not ready before its tag is known (R54, R168). -/
def flsTagging (x : Tile) (opc w : Nat) : Bool :=
  x.fls.any fun c => !c.started && (mtxTags opc w).any fun p => (bOutTiles c.words).contains p.1

/-- MTX_FAULT takes the first matrix fault of the tile (R119). -/
def mtxFault (s : State) (t opc w : Nat) : State :=
  let k := tileDie t
  let i := tileSite t
  if rf s .mtxFault k i 0 63 63 = 1 then s
  else rset s .mtxFault k i 0 (2 ^ 63 + opc <<< 40 + xAcc w <<< 32 + xAcc w / 8)

/-- The issue of a matrix instruction (R53, R112): `check` gives the codes that the word decides, `late` those that the group
and the tile decide, `go` the issue itself. -/
def mtxIssue (t g opc w : Nat) (check : Nat → Nat) (touch : List Nat × List Nat) (s : State)
    (f : State → Group → Issue) : Out :=
  .next (match ready s t g with
    | none => s
    | some (gr, s') =>
      let fail (code : Nat) : State := preciseFault (mtxFault s' t opc w) t g code
      let code := check (tile s t).alloc
      if code ≠ 0 then fail code
      else if loadsTouch gr touch.1 touch.2 then s
      else
        match f s' gr with
        | .fault c => fail c
        | .wait => s
        | .hold s => s
        | .done gr s => setGroup s t g gr.step)

/-- The registers of a group that an instruction reads at issue (R98, R99), keyed as the group's own. -/
def regsAt (gr : Group) (rs : List (Nat × Nat)) : Map W32 :=
  rs.foldl (fun m r => (List.range (r.2 * 32)).foldl (fun m i => mput 0 m (r.1 * 32 + i) (mget 0 gr.vregs (r.1 * 32 + i))) m) []

/-- COLD_NS of RIM_PACE_CTL: how long an engine is idle before it is cold (R114, R500). -/
def coldNs (s : State) (t : Nat) : Nat := rf s .rimPaceCtl (tileDie t) 0 0 47 32

/-- Queues an instruction on its engine, which is cold by now if it has been idle for the threshold. -/
def mtxPut (s : State) (t : Nat) (o : MtxOp) : State :=
  let x := tile s t
  let e := xAcc o.word.toNat / 8
  let n := eng x e
  let now := timebaseOf s (tileDie t)
  let s := drpAccIssue s (tileDie t) (tileSite t) (mtxWrites o.opc o.word.toNat)
  setTile s t (setEng x e (if n.queue.isEmpty then
    { n with queue := [o], since := Nat.max now n.freeAt, cold := n.cold || decide (coldNs s t ≤ now - n.freeAt) }
    else { n with queue := n.queue ++ [o] }))

/-- The engine of a word is full (R108). -/
def engFull (s : State) (t w : Nat) : Bool := decide (4 ≤ (eng (tile s t) (xAcc w / 8)).queue.length)

/-- A queued instruction. -/
def mtxOp (s : State) (gr : Group) (t g opc : Nat) (w : BitVec 56) (regs : Map W32) : MtxOp :=
  { opc := opc, word := w, from_ := gr.issuer g, regs := regs, desc := [], flsSeq := (tile s t).flsSeq, pendId := 0, reads := [],
    spoiled := false }

/-- The registers of ranges. -/
def spread (rs : List (Nat × Nat)) : List Nat := rs.flatMap fun r => (List.range r.2).map (r.1 + ·)

/-- mma. -/
def execMma (t : TileId) (g : Slot) (w : BitVec 56) (s : State) : Out :=
  let n := w.toNat
  let fr := mmaFrags n
  mtxIssue t g 0x80 n
    (fun alloc => if mmIllegal false n then 0x101 else if fr.any fun r => decide (alloc < r.1 + r.2) then 0x102 else 0)
    (spread fr, []) s fun s gr =>
    if engFull s t n then .wait
    else if !allActive gr then .fault 0x201
    else if xReg n % 4 != 0 || xBreg n % 4 != 0 || (xMx n && xSreg n % 2 != 0)
        || (xSp n && xMreg n % (kStep (xRate n) true / 32) != 0) || !disjoint fr then .fault 0x202
    else if !xClr n && flsTagging (tile s t) 0x80 n then .wait
    else if !xClr n && tagWrong (tile s t) 0x80 n then .fault 0x203
    else .done gr (mtxPut s t (mtxOp s gr t g 0x80 w (regsAt gr fr)))

/-! ### Streams (R102-R105, R237) -/

/-- The fields of a stream descriptor (R102). -/
structure MtxDesc where
  abase : Nat
  bbase : Nat
  astride : Nat
  bstride : Nat
  ktot : Nat
  decode : Nat
  mbase : Nat
  mstride : Nat
  ascale : Nat
  bscale : Nat
deriving DecidableEq, Repr

def mtxDesc (d : List W64) : MtxDesc :=
  ⟨bits (wd d 0) 31 0, bits (wd d 0) 63 32, bits (wd d 1) 15 0, bits (wd d 1) 31 16, bits (wd d 1) 47 32, bits (wd d 2) 55 48,
   bits (wd d 2) 31 0, bits (wd d 2) 47 32, bits (wd d 3) 31 0, bits (wd d 3) 63 32⟩

/-- The bytes of a row of A and of a column of B (R96, R102). -/
def aLen (w ktot : Nat) : Nat := (if xSp w then ktot / 2 else ktot) * mfWidth (xFmt w) / 8
def bLen (w ktot : Nat) : Nat := ktot * mfWidth (xBfmt w) / 8

/-- What a stream reads: base, stride, count, length and bytes for each K step (R102, R237: A's parts come from the decoder
where DECODE is nonzero, whose ASCALE is checked and not read). -/
def streamParts (w : Nat) (d : MtxDesc) : List (Nat × Nat × Nat × Nat) :=
  let r := 32 * mmasRows w
  let c := 32 * mmasCols w
  [(d.bbase, d.bstride, c, bLen w d.ktot)]
    ++ (if d.decode = 0 then [(d.abase, d.astride, r, aLen w d.ktot)] else [])
    ++ (if d.decode = 0 ∧ xSp w then [(d.mbase, d.mstride, r, d.ktot / 8)] else [])
    ++ (if xMx w then [(d.bscale, d.ktot / 32, c, d.ktot / 32)] else [])
    ++ (if xMx w ∧ d.decode = 0 then [(d.ascale, d.ktot / 32, r, d.ktot / 32)] else [])

/-- The checks of R104 in the order of R112. -/
def streamCheck (w : Nat) (ws : List W64) (slm : Nat) : Nat :=
  let d := mtxDesc ws
  let k := kStep (xRate w) (xSp w)
  let scaleA := if xMx w then [(d.ascale, d.ktot / 32, 32 * mmasRows w, d.ktot / 32)] else []
  let parts := streamParts w d ++ scaleA
  let offs := [d.bbase, d.bstride] ++ (if d.decode = 0 then [d.abase, d.astride] else [])
    ++ (if d.decode = 0 ∧ xSp w then [d.mbase, d.mstride] else []) ++ (if xMx w then [d.ascale, d.bscale] else [])
  if d.ktot = 0 ∨ d.ktot % k ≠ 0 ∨ bits (wd ws 1) 63 48 ≠ 0 ∨ bits (wd ws 2) 63 56 ≠ 0 then 0x206
  else if offs.any fun x => x % 4 != 0 then 0x205
  else if parts.any fun p => decide (slm < p.1 + (p.2.2.1 - 1) * p.2.1 + p.2.2.2) then 0x204
  else 0

/-- The decoder stream that a tile names (R235). -/
def decStream (s : State) (t n : Nat) : DecStream :=
  mget DecStream.reset (grotto s (tileDie t)).decoders (quadOf (tileSite t) * 8 + (n - 1))

/-- The checks of a decoded stream at issue (R237). -/
def decodeCheck (s : State) (t w : Nat) (d : MtxDesc) : Nat :=
  if d.decode = 0 then 0
  else if 8 < d.decode then 0x608
  else
    match (decStream s t d.decode).bound with
    | none => 0x608
    | some b =>
      let h := bsHdr b.hdr
      if b.ctx ≠ (tile s t).ctx then 0x608
      else if xFmt w ≠ h.format ∨ xMx w ≠ h.mx ∨ xSp w ≠ h.sp ∨ h.panels < b.panel0 + mmasRows w
          ∨ h.ktot < b.kblk0 * 32 + d.ktot then 0x609
      else 0

/-- What a decoder reads of a stream for one block row: its panel's directory entry, the bitmap as far as the stream's last
K group, and the blocks that are present. -/
def decodeReads (gr : Nat → Byte) (h : BsHdr) (panel kblk n : Nat) : List (Nat × Nat) :=
  (64 + 8 * panel, 8) :: ((bsDir gr panel).2, cdiv (kblk + n) 8)
    :: (((List.range n).map (kblk + ·)).filter (bsPresent gr panel)).map fun b => (bsBlockAt gr h panel b, h.block)

/-- What a decoder of an mmas reads of a bound stream in the Grotto: offsets and lengths. -/
def boundReads (s : State) (t w : Nat) (d : MtxDesc) (bd : Binding) : List (Nat × Nat) :=
  let g := (grotto s (tileDie t)).bytes
  (List.range (mmasRows w)).flatMap fun r =>
    (decodeReads (fun i => mget 0 g (bd.src + i)) (bsHdr bd.hdr) (bd.panel0 + r) bd.kblk0 (d.ktot / 32)).map fun p => (bd.src + p.1, p.2)

/-- An mmas of group g would read destination bytes of a Flowstone command that no wait covers (R171). -/
def streamHazard (s : State) (t g w : Nat) (d : MtxDesc) : Bool :=
  ((streamParts w d).any fun r => (List.range r.2.2.1).any fun i => flsHazard (tile s t) (some g) 0 (r.1 + i * r.2.1) r.2.2.2)
    || (decide (0 < d.decode) && (decStream s t d.decode).bound.any fun bd =>
      (boundReads s t w d bd).any fun p => grtHazard s t g (tileDie t) p.1 p.2)

/-- mmas: a stream that is changing is not ready (R236). Operands that the group must not read yet make its result
undefined (R171). -/
def execMmas (t : TileId) (g : Slot) (w : BitVec 56) (s : State) : Out :=
  let n := w.toNat
  let ds := (List.range 4).map (xReg n + ·)
  mtxIssue t g 0x81 n (fun _ => if mmIllegal true n then 0x101 else 0) ([], ds) s fun s gr =>
    let ws := ds.map fun i => w64 (sget gr i)
    let d := mtxDesc ws
    let x := tile s t
    if engFull s t n || (decide (0 < d.decode) && decide (d.decode ≤ 8) && (decStream s t d.decode).changing.isSome) then .wait
    else if !allActive gr then .fault 0x201
    else if xReg n % 4 != 0 || xAcc n % (mmasRows n * mmasCols n * mmasUnit n) != 0 then .fault 0x202
    else if !xClr n && flsTagging x 0x81 n then .wait
    else if !xClr n && tagWrong x 0x81 n then .fault 0x203
    else
      let code := streamCheck n ws x.slmBytes
      if code ≠ 0 then .fault code
      else if decodeCheck s t n d ≠ 0 then .fault (decodeCheck s t n d)
      else
        let spoiled := streamHazard s t g n d
        .done gr (mtxPut s t { mtxOp s gr t g 0x81 w [] with desc := ws, reads := streamParts n d, spoiled := spoiled })

/-! ### mtx.zero, mtx.rd, mtx.wr, mtx.wait (R93, R95, R99) -/

/-- The checks of mtx.zero, mtx.rd and mtx.wr that the word decides; mtx.zero has no use for PART, so a nonzero one is illegal (DESIGN
CHOICE, log entry 146). -/
def mvCheck (opc alloc w : Nat) : Nat :=
  if bits w 51 45 != 0 || bits w 31 2 != 0 || !([1, 3, 4].contains (xFmt w))
      || (opc == 0x88 && (xReg w != 0 || bits w 1 0 != 0)) || (opc != 0x88 && !xPair w && bit w 1) then 0x101
  else if opc != 0x88 && decide (alloc < xReg w + 16) then 0x102
  else 0

/-- The shared part of the three: alignment, divergence and, for mtx.rd, the tag. -/
def mvIssue (opc : Nat) (t g : Nat) (w : BitVec 56) (s : State) (f : State → Group → State) : Out :=
  let n := w.toNat
  mtxIssue t g opc n (fun alloc => mvCheck opc alloc n) (if opc = 0x88 then ([], []) else (spread [(xReg n, 16)], [])) s
    fun s gr =>
    if engFull s t n then .wait
    else if !allActive gr then .fault 0x201
    else if (xPair n && xAcc n % 2 != 0) || (opc != 0x88 && xReg n % 4 != 0) then .fault 0x202
    else if opc == 0x89 && flsTagging (tile s t) opc n then .wait
    else if opc == 0x89 && tagWrong (tile s t) opc n then .fault 0x203
    else
      let s := f s gr
      match group s t g with
      | none => .wait
      | some gr => .done gr s

/-- mtx.zero. -/
def execMtxZero (t : TileId) (g : Slot) (w : BitVec 56) (s : State) : Out :=
  mvIssue 0x88 t g w s fun s gr => mtxPut s t (mtxOp s gr t g 0x88 w [])

/-- mtx.rd: its registers are pending until the engine has executed it (R54). -/
def execMtxRd (t : TileId) (g : Slot) (w : BitVec 56) (s : State) : Out :=
  mvIssue 0x89 t g w s fun s gr =>
    let (id, s) := freshId s
    let p : PendingMem := { id := id, scalar := false, dst := xReg w.toNat, width := 64, lanes := [], left := [0], got := [] }
    let s := setGroup s t g { gr with pend := gr.pend ++ [p] }
    mtxPut s t { mtxOp s gr t g 0x89 w [] with pendId := id }

/-- mtx.wr. -/
def execMtxWr (t : TileId) (g : Slot) (w : BitVec 56) (s : State) : Out :=
  mvIssue 0x8A t g w s fun s gr => mtxPut s t (mtxOp s gr t g 0x8A w (regsAt gr [(xReg w.toNat, 16)]))

/-- mtx.wait: the group stays at it while an mmas of its own is on one of the engines. -/
def execMtxWait (t : TileId) (g : Slot) (w : BitVec 56) (s : State) : Out :=
  let n := w.toNat
  mtxIssue t g 0x8B n (fun _ => if bits n 55 4 != 0 then 0x101 else 0) ([], []) s fun s gr =>
    let me := gr.issuer g
    let named (e : Nat) : Bool := bits n 3 0 == 0 || bit n e
    let mine (e : Nat) : Bool := (eng (tile s t) e).queue.any fun o => o.opc == 0x81 && o.from_ == me
    if !allActive gr then .fault 0x201
    else if (List.range 4).any fun e => named e && mine e then .wait
    else .done gr (setTile s t (waitedFor (tile s t) fun u => u.words.isEmpty && u.from_ == me && named u.engine))

/-! ### Arithmetic (R100, R101, R106, R126-R133) -/

/-- An element's value times 2^(x - 127) of its block scale; a scale of 0xFF gives NaN (R126, R127). -/
def scaled (scale : Nat) (v : FV) : FV :=
  if scale = 0xFF then .nan
  else match v with
    | .fin n m e => .fin n m (e + scale - 127)
    | v => v

/-- The sum of a group's products (R127, R128), cut `dist` below the largest. -/
def groupSum (dist : Nat) (ps : List FV) : FV :=
  let pos := ps.any (· == FV.inf false)
  let neg := ps.any (· == FV.inf true)
  if ps.any FV.isNan || (pos && neg) then .nan
  else if pos then .inf false
  else if neg then .inf true
  else
    let nz := ps.filterMap fun p => match p with
      | .fin n m e => if m = 0 then none else some (n, m, e)
      | _ => none
    match nz with
    | [] => .fin false 0 0
    | (_, m, e) :: rest =>
      let top := rest.foldl (fun (k : Int) p => if k < ilog2 p.2.1 1 p.2.2 then ilog2 p.2.1 1 p.2.2 else k) (ilog2 m 1 e)
      let u := top - dist
      let cut (p : Bool × Nat × Int) : Int :=
        let q := pow2 (p.2.2 - u)
        let v : Int := (p.2.1 * q.1 : Nat)
        (if p.1 then -v else v) / (q.2 : Int)
      let z := nz.foldl (fun (a : Int) p => a + cut p) 0
      .fin (decide (z < 0)) z.natAbs u

/-- A group sum enters its accumulator element (R132, R133). -/
def accAdd (c : Nat) (g : FV) : Nat := fmtF32.ofFV .rne ((fmtF32.dec c).add .rne g)

/-- Where an instruction's operands come from: element or kept value, metadata nibble and block scale of A by row, and element
and block scale of B by column. -/
structure MtxArgs where
  a : Nat → Nat → Nat
  nib : Nat → Nat → Nat
  sa : Nat → Nat → Nat
  b : Nat → Nat → Nat
  sb : Nat → Nat → Nat

/-- The A elements of a row in K group q, with their logical positions (R100, R101). -/
def rowGroup (ar : MtxArgs) (sp : Bool) (row q : Nat) : List (Nat × Nat) :=
  if sp then
    (List.range 8).flatMap fun j =>
      let n := 8 * q + j
      let i0 := ar.nib row n % 4
      let i1 := ar.nib row n / 4
      [(4 * n + i0, ar.a row (2 * n)), (4 * n + i1, ar.a row (2 * n + 1))]
        ++ ((List.range 4).filter fun i => i != i0 && i != i1).map fun i => (4 * n + i, 0)
  else (List.range 32).map fun i => (32 * q + i, ar.a row (32 * q + i))

/-- The sum of group q for a row and a column in a floating mode. -/
def floatGroup (w : Nat) (ar : MtxArgs) (row col q : Nat) : FV :=
  let sa := if xMx w then ar.sa row q else 127
  let sb := if xMx w then ar.sb col q else 127
  let dist := if xRate w = .bf16 ∨ xRate w = .fp16 then 34 else 28
  groupSum dist ((rowGroup ar (xSp w) row q).map fun p =>
    (scaled sa ((mfFmt (xFmt w)).dec p.2)).mul (scaled sb ((mfFmt (xBfmt w)).dec (ar.b col p.1))))

/-- The exact sum of an integer mode over `n` groups (R106). -/
def intSum (w : Nat) (ar : MtxArgs) (row col n : Nat) : Int :=
  (List.range n).foldl (fun z q =>
    (rowGroup ar (xSp w) row q).foldl (fun (z : Int) p => z + mfInt (xFmt w) p.2 * mfInt (xBfmt w) (ar.b col p.1)) z) 0

def accGet (x : Tile) (a q : Nat) : Nat := (mget 0 x.acc (a * 1024 + q)).toNat
def accSet (x : Tile) (a q v : Nat) : Tile := { x with acc := mput 0 x.acc (a * 1024 + q) (BitVec.ofNat 32 v) }

/-- One accumulator tile (a pair for INT18) takes `n` K groups: rows from `row0`, columns from `col0`. -/
def macTile (w : Nat) (ar : MtxArgs) (n : Nat) (x : Tile) (a row0 col0 : Nat) : Tile :=
  (List.range 1024).foldl (fun x q =>
    let row := row0 + q / 32
    let col := col0 + q % 32
    match xRate w with
    | .int => accSet x a q (wrap 32 ((if xClr w then 0 else (accGet x a q : Int)) + intSum w ar row col n))
    | .int18 =>
      let old : Int := if xClr w then 0 else ((accGet x a q + accGet x (a + 1) q <<< 32 : Nat) : Int)
      let v := wrap 64 (old + intSum w ar row col n)
      accSet (accSet x a q (v % 2 ^ 32)) (a + 1) q (v >>> 32)
    | _ => accSet x a q ((List.range n).foldl (fun c i => accAdd c (floatGroup w ar row col i)) (if xClr w then 0 else accGet x a q))) x

/-- The operands of an mma, from the registers read at issue (R96-R98). -/
def mmaArgs (o : MtxOp) : MtxArgs :=
  let w := o.word.toNat
  let reg (r lane : Nat) : Nat := (mget 0 o.regs (r * 32 + lane)).toNat
  let el (r wid lane k : Nat) : Nat :=
    ((reg (r + wid * k / 32) lane + reg (r + wid * k / 32 + 1) lane <<< 32) >>> (wid * k % 32)) % 2 ^ wid
  { a := fun row k => el (xReg w) (mfWidth (xFmt w)) row k
    nib := fun row n => el (xMreg w) 4 row n
    sa := fun row q => bits (reg (xSreg w) row) (8 * q + 7) (8 * q)
    b := fun col k => el (xBreg w) (mfWidth (xBfmt w)) col k
    sb := fun col q => bits (reg (xSreg w + 1) col) (8 * q + 7) (8 * q) }

/-- The operands of an mmas, from SLM and, where DECODE is nonzero, from the decoder's stream (R102, R237). -/
def mmasArgs (s : State) (t : Nat) (o : MtxOp) : MtxArgs :=
  let w := o.word.toNat
  let d := mtxDesc o.desc
  let slm := (tile s t).slm
  let rd (i : Nat) : Byte := mget 0 slm i
  let bOf (col k : Nat) : Nat := rdElem rd (d.bbase + col * d.bstride) (mfWidth (xBfmt w)) k
  let sbOf (col q : Nat) : Nat := (rd (d.bscale + col * (d.ktot / 32) + q)).toNat
  match (if d.decode = 0 then none else (decStream s t d.decode).bound) with
  | none =>
    { a := fun row k => rdElem rd (d.abase + row * d.astride) (mfWidth (xFmt w)) k
      nib := fun row n => rdElem rd (d.mbase + row * d.mstride) 4 n
      sa := fun row q => (rd (d.ascale + row * (d.ktot / 32) + q)).toNat
      b := bOf, sb := sbOf }
  | some bd =>
    let h := bsHdr bd.hdr
    let g := (grotto s (tileDie t)).bytes
    let gr (i : Nat) : Byte := mget 0 g (bd.src + i)
    let per := if h.sp then 16 else 32
    let panel (row : Nat) : Nat := bd.panel0 + row / 32
    { a := fun row k => bsElem gr h (panel row) (bd.kblk0 + k / per) (row % 32) (k % per)
      nib := fun row n => bsMeta gr h (panel row) (bd.kblk0 + n / 8) (row % 32) (n % 8)
      sa := fun row q => bsScale gr h (panel row) (bd.kblk0 + q) (row % 32)
      b := bOf, sb := sbOf }

/-- Moves row t of an accumulator to or from lane t: register offset, accumulator tile and element (R99). -/
def mvCells (w : Nat) : List (Nat × Nat × Nat × Nat) :=
  (List.range 32).flatMap fun lane =>
    if xPair w then
      (List.range 16).map fun c => (lane, c, xAcc w + c % 2, lane * 32 + 8 * bits w 1 0 + c / 2)
    else (List.range 16).map fun c => (lane, c, xAcc w, lane * 32 + 16 * (w % 2) + c)

/-! ### What a decoded stream fetches and skips (R238, R239, R244) -/

/-- An element that is an infinity or a NaN. -/
def notFinite (f x : Nat) : Bool := match (mfFmt f).dec x with | .fin _ _ _ => false | _ => true

/-- Skipped K groups of block row r, and the bytes of the blocks that the decoder fetches for it (DEDUCED, log entry 92)
(DEDUCED, log entry 93). -/
def decodeCounts (s : State) (t : Nat) (o : MtxOp) (bd : Binding) (r : Nat) : Nat × Nat :=
  let w := o.word.toNat
  let d := mtxDesc o.desc
  let ar := mmasArgs s t o
  let h := bsHdr bd.hdr
  let g := (grotto s (tileDie t)).bytes
  let gr (i : Nat) : Byte := mget 0 g (bd.src + i)
  let special (q : Nat) : Bool :=
    (List.range (32 * mmasCols w)).any fun col =>
      (xMx w && ar.sb col q == 0xFF)
        || (xRate w != .int && (List.range 32).any fun i => notFinite (xBfmt w) (ar.b col (32 * q + i)))
  (List.range (d.ktot / 32)).foldl (fun (acc : Nat × Nat) q =>
    if bsPresent gr (bd.panel0 + r) (bd.kblk0 + q) then (acc.1, acc.2 + h.block)
    else if special q then acc else (acc.1 + 1, acc.2)) (0, 0)

/-- A decoder read meets a poisoned word (R239). -/
def decodeBad (s : State) (t : Nat) (o : MtxOp) (bd : Binding) : Bool :=
  (boundReads s t o.word.toNat (mtxDesc o.desc) bd).any fun p => grtBad s (tileDie t) p.1 p.2

/-! ### Replays of a stream (R70) -/

/-- The replays of one read of 32 rows or columns at a K offset: `n` bytes of each. -/
def readReplays (base stride n : Nat) : Nat :=
  let per (i : Nat) : List Nat :=
    let a := base + i * stride
    (List.range ((a + n - 1) / 4 + 1 - a / 4)).map (a / 4 + ·)
  let words := ((List.range 32).flatMap per).eraseDups
  let p := (List.range 32).foldl (fun m b => Nat.max m (words.filter fun x => x % 32 == b).length) 0
  let f := (List.range 32).foldl (fun m i => Nat.max m (per i).length) 0
  p - f

/-- The replays of a stream: each part's rows are read 32 at a time at each K step. -/
def streamReplays (o : MtxOp) : Nat :=
  let w := o.word.toNat
  let d := mtxDesc o.desc
  let steps := d.ktot / kStep (xRate w) (xSp w)
  o.reads.foldl (fun n p =>
    let per := p.2.2.2 / steps
    (List.range (p.2.2.1 / 32)).foldl (fun n r =>
      (List.range steps).foldl (fun n i => n + readReplays (p.1 + 32 * r * p.2.1 + i * per) p.2.1 per) n) n) 0

/-! ### Start and completion (R108, R114, R168) -/

/-- A Flowstone command that issued earlier and has not finished with a tile that the instruction targets (R168). -/
def flsHolds (x : Tile) (o : MtxOp) : Bool :=
  x.fls.any fun c => !c.started && decide (c.seq < o.flsSeq)
    && (mtxTags o.opc o.word.toNat).any fun p => (bAccTiles c.words).contains p.1

/-- The clock of a tile in MHz: 2.7 GHz less 100 MHz a step (R487). -/
def tileMhz (s : State) (t : Nat) : Nat := 2700 - 100 * rf s .rimIslandC (tileDie t) 0 (quadOf (tileSite t)) 4 0

/-- A slot of a tile's wave is running on its die's timebase copy (R114, R500). -/
def waveNow (s : State) (t : Nat) : Bool :=
  let k := tileDie t
  let d := rf s .rimPaceCtl k 0 0 31 16
  let n := rf s .rimPaceCtl k 0 0 5 0
  timebaseOf s k / d % n == tileSite t % n

/-- An engine begins to execute its first instruction, and is warm; a cold one has waited for its wave since it could have
started (R114, R120). -/
def engStart (s : State) (t e : Nat) : State :=
  let x := tile s t
  let n := eng x e
  let k := tileDie t
  let s := setTile s t (setEng x e { n with running := true, cold := false })
  if n.cold then count s .mtxPaceWait k (tileSite t) 0 ((timebaseOf s k - n.since) * tileMhz s t / 1000) else s

/-- An engine can start its next instruction, but for its wave: neither the interlock of R168 nor the throttle's wait (R491)
holds it. -/
def engReady (s : State) (t e : Nat) : Bool :=
  let x := tile s t
  let n := eng x e
  !n.running && decide (n.freeAt ≤ timebaseOf s (tileDie t)) && (match n.queue with | [] => false | o :: _ => !flsHolds x o)

/-- MATRIX_ENGINE_START: a warm engine starts, and a cold one where a slot of its wave is running (R114). -/
def execMatrixEngineStart (t : TileId) (e : Fin 4) (s : State) : Out :=
  .next (if engReady s t e && (!(eng (tile s t) e).cold || waveNow s t) then engStart s t e else s)

/-- PACED_START: a cold engine starts when a slot of its wave begins (R114, R120). -/
def execPacedStart (t : TileId) (e : Fin 4) (s : State) : Out :=
  .next (if engReady s t e && (eng (tile s t) e).cold && waveNow s t then engStart s t e else s)

/-- ENGINE_COLD: an engine that holds nothing has been idle for the threshold, which a wait under the throttle is not (R114). -/
def execEngineCold (t : TileId) (e : Fin 4) (s : State) : Out :=
  let x := tile s t
  let n := eng x e
  .next (if n.queue.isEmpty && decide (n.freeAt + coldNs s t ≤ timebaseOf s (tileDie t)) then
      setTile s t (setEng x e { n with cold := true })
    else s)

/-- The time that an engine waits under the matrix throttle after an instruction that held it for `occ` tile clocks (R491). -/
def throttleWait (s : State) (t occ : Nat) : Nat :=
  if rf s .rimStatus (tileDie t) 0 0 0 0 = 1 then cdiv (occ * 1000) (tileMhz s t) else 0

/-- The tags that an instruction sets, set (R99, R107). -/
def setTags (x : Tile) (ts : List (Nat × Nat)) : Tile :=
  ts.foldl (fun x p => { x with accTags := w64 (fset x.accTags.toNat (2 * p.1 + 1) (2 * p.1) p.2) }) x

/-- The undefined result of a stream that software broke (R105, R239): every element of the block is free. -/
def mtxFree (s : State) (t : Nat) (ts : List Nat) : State :=
  ts.foldl (fun s a =>
    (List.range 1024).foldl (fun s q =>
      let (v, s) := drawFree s
      setTile s t (accSet (tile s t) a q v.toNat)) s) s

/-- An mma's or mmas's accumulation. -/
def mmRun (s : State) (t : Nat) (o : MtxOp) : State :=
  let w := o.word.toNat
  if o.opc = 0x80 then setTile s t (macTile w (mmaArgs o) (kStep (xRate w) (xSp w) / 32) (tile s t) (xAcc w) 0 0)
  else
    let ar := mmasArgs s t o
    let n := (mtxDesc o.desc).ktot / 32
    let blk := (List.range (mmasRows w * mmasCols w)).foldl (fun x i =>
      macTile w ar n x (xAcc w + i * mmasUnit w) (32 * (i / mmasCols w)) (32 * (i % mmasCols w))) (tile s t)
    setTile s t blk

/-- What an instruction does when it completes: the state, and the tile clocks for which it held its engine. -/
def mtxRun (s : State) (t : Nat) (o : MtxOp) : Nat × State :=
  let w := o.word.toNat
  let x := tile s t
  let k := tileDie t
  let i := tileSite t
  match o.opc with
  | 0x80 => (kClocks (xRate w), if o.spoiled then mtxFree s t ((mtxTags o.opc w).map (·.1)) else mmRun s t o)
  | 0x81 =>
    let d := mtxDesc o.desc
    let step := kStep (xRate w) (xSp w)
    let reps := streamReplays o
    let occ := kClocks (xRate w) * mmasRows w * mmasCols w * d.ktot / step + reps
    let targets := (mtxTags o.opc w).map (·.1)
    let s1 := count s .tileSlmReplays k i 0 reps
    if d.decode = 0 then (occ, if o.spoiled then mtxFree s1 t targets else mmRun s1 t o)
    else
      match (decStream s t d.decode).bound with
      | none => (occ, mtxFree s1 t targets)
      | some bd =>
        let (skips, bytes) := (List.range (mmasRows w)).foldl (fun (acc : Nat × Nat) r =>
          let c := decodeCounts s t o bd r
          (acc.1 + c.1, acc.2 + c.2)) (0, 0)
        let s1 := count (count s1 .hlxDecSkips k (quadSite (quadOf i)) 0 skips) .hlxDecBytes k (quadSite (quadOf i)) 0 bytes
        let s1 := if o.spoiled || bd.spoiled || decodeBad s t o bd then mtxFree s1 t targets else mmRun s1 t o
        (occ - skips * mmasCols w * (kClocks (xRate w) * 32 / step - 2),
         if decodeBad s t o bd then imprecise s1 t 0x506 else s1)
  | 0x88 => (4, setTile s t ((mtxTags o.opc w).foldl (fun x p => (List.range 1024).foldl (fun x q => accSet x p.1 q 0) x) x))
  | 0x89 =>
    match group s t o.from_.slot with
    | none => (4, s)
    | some gr =>
      let gr := (mvCells w).foldl (fun gr c => vset gr (xReg w + c.2.1) c.1 (accGet x c.2.2.1 c.2.2.2)) gr
      (4, setGroup s t o.from_.slot { gr with pend := gr.pend.filter fun p => p.id != o.pendId })
  | _ =>
    (4, setTile s t ((mvCells w).foldl (fun x c =>
      accSet x c.2.2.1 c.2.2.2 (mget 0 o.regs ((xReg w + c.2.1) * 32 + c.1)).toNat) x))

/-- MATRIX_INSTR_COMPLETE: an mmas's reads stay out of bounds until its group has waited for it (R105)
(DESIGN CHOICE, log entry 128). -/
def execMatrixInstrComplete (t : TileId) (e : Fin 4) (s : State) : Out :=
  let n := eng (tile s t) e
  .next (match n.running, n.queue with
    | true, o :: rest =>
      let (occ, s) := mtxRun s t o
      let x := if mtxSets o.opc o.word.toNat then setTags (tile s t) (mtxTags o.opc o.word.toNat) else tile s t
      let free := timebaseOf s (tileDie t) + throttleWait s t occ
      let x := setEng x e { eng x e with queue := rest, running := false, since := free, freeAt := free }
      let x := if o.opc = 0x81 then
          { x with uncovered := x.uncovered ++
              [⟨o.from_, [], e.val, if o.spoiled then [] else o.reads, (mtxTags o.opc o.word.toNat).map (·.1), false⟩] }
        else x
      let s := setTile s t x
      count s .mtxBusy (tileDie t) (tileSite t) e occ
    | _, _ => s)

end Sys2Proof.Machine
end

