-- ==== Sys2Proof/Machine/Random.lean ====
section
/-!
DEFINITION. The counter-based generator and its draws (R246, R251-R253).
-/
namespace Sys2Proof.Machine

/-! ### The generator (R246) -/

/-- Four 32-bit words. -/
structure Quad4 where
  a : W32
  b : W32
  c : W32
  d : W32
deriving DecidableEq, Repr

/-- Words 0 to 3 of a 128-bit number. -/
def quadOfNat (x : Nat) : Quad4 :=
  ⟨BitVec.ofNat 32 x, BitVec.ofNat 32 (x >>> 32), BitVec.ofNat 32 (x >>> 64), BitVec.ofNat 32 (x >>> 96)⟩
def Quad4.toNat (q : Quad4) : Nat := q.a.toNat + q.b.toNat <<< 32 + q.c.toNat <<< 64 + q.d.toNat <<< 96

/-- The rotation amounts of a round. -/
def genRot (r : Nat) : Nat × Nat :=
  match r with
  | 0 => (13, 26)
  | 1 => (17, 3)
  | 2 => (7, 22)
  | 3 => (24, 15)
  | 4 => (11, 30)
  | 5 => (29, 8)
  | 6 => (19, 12)
  | 7 => (5, 27)
  | 8 => (21, 6)
  | _ => (9, 18)

/-- round(x, r). -/
def genRound (x : Quad4) (r : Nat) : Quad4 :=
  let x0 := x.a + x.b
  let x1 := (x.b ^^^ x0).rotateLeft (genRot r).1
  let x2 := x.c + x.d
  let x3 := (x.d ^^^ x2).rotateLeft (genRot r).2
  ⟨x0, x3, x2, x1⟩

/-- Word i mod 4. -/
def Quad4.nth (q : Quad4) (i : Nat) : W32 := match i % 4 with | 0 => q.a | 1 => q.b | 2 => q.c | _ => q.d

/-- Injection s of the key schedule's words. -/
def genInject (w x : Quad4) (s : Nat) : Quad4 :=
  ⟨x.a + w.nth s + BitVec.ofNat 32 s, x.b + w.nth (s + 1), x.c + w.nth (s + 2), x.d + w.nth (s + 3)⟩

/-- The block G(key, ctr). -/
def genG (key ctr : Nat) : Nat :=
  let k := quadOfNat key
  let w := genRound (genRound ⟨k.a ^^^ 0x5B2DA417, k.b ^^^ 0xC13E6F08, k.c ^^^ 0x7A94D2E5, k.d ^^^ 0x2E07B9C3⟩ 0) 1
  let x := genInject w (quadOfNat ctr) 0
  ((List.range 10).foldl (fun x r => genInject w (genRound x r) (r + 1)) x).toNat

/-! ### Draws (R251-R253) -/

/-- The uniform value of a block, as an f32. -/
def drawUniform (blk : Nat) : Nat := fmtF32.enc .rne false (bits blk 31 8) 1 (-24)

/-- The normal draw while TABLE is 0. -/
def drawNormal (blk : Nat) : Nat :=
  let u1 := fmtF32.enc .rne false (bits blk 63 40 + 1) 1 (-24)
  let n : Int := 2 * (bits blk 95 72 : Int) - 2 ^ 24 + 1
  let a := fmtF32.enc .rne (n < 0) n.natAbs 1 (-24)
  let nl := fsub fmtF32 .rne (2 ^ 31) (fnLog2 u1)
  let rho := fsqrt fmtF32 .rne (fmul fmtF32 .rne 0x3FB17218 nl)
  fmul fmtF32 .rne rho (fnTrig true (fmul fmtF32 .rne 0x40490FDB a))

/-- Terms of the series of the normal integral: x - x^3/6 + x^5/40 - …, in units of 2^-200; `u` is x (x²/2)^k / k!. -/
def phiSeries : Nat → Nat → Int → Int → Int → Int
  | 0, _, _, _, acc => acc
  | n + 1, k, u, h, acc =>
    let u' := -(u * h) / (2 ^ fxp * (k + 1))
    phiSeries n (k + 1) u' h (acc + u' / (2 * (k + 1) + 1))

/-- sqrt(2 π) (Φ(x) - 1/2) for x in [0, 4), in units of 2^-200. -/
def phiInt (x : Int) : Int := phiSeries 110 0 x (x * x / 2 ^ (fxp + 1)) x

/-- An entry of the upper half: the number of f32 codes whose midpoint with the next lies below the exact value. -/
def normalUpper (i : Nat) : Nat :=
  let goal : Int := ((2 * i + 1 - 4096 : Nat) * natSqrt (2 * fxPi.toNat * 2 ^ fxp) / 8192 : Nat)
  let below (c : Nat) : Bool :=
    match fmtF32.dec c, fmtF32.dec (c + 1) with
    | .fin _ m e, .fin _ n g => decide (phiInt ((fxOf false m e + fxOf false n g) / 2) < goal)
    | _, _ => false
  (List.range 31).foldl (fun r j => let k := 2 ^ (30 - j)
                                    if r + k ≤ 0x40800000 ∧ below (r + k - 1) then r + k else r) 0

/-- The normal draw while TABLE is 1: the correctly rounded quantile. -/
def drawTable (blk : Nat) : Nat :=
  let i := bits blk 63 52
  if 2048 ≤ i then normalUpper i else 2 ^ 31 + normalUpper (4095 - i)

end Sys2Proof.Machine
end

