-- ==== Sys2Proof/Machine/FlsRun.lean ====
section
/-!
DEFINITION. What a Flowstone command does (R134-R147, R157-R167, R169, R575): reading and writing elements, and the operations.
-/
namespace Sys2Proof.Machine

/-! ### A running command -/

/-- A command as it runs: the tile, the block, the bytes that groups have written since it issued, and what it has done. `ok`
says that every access of the point in hand succeeded and is defined (R159, R171, R174). A run with `only` set writes no
result but those that are undefined. -/
structure FlsRun where
  t : Nat
  b : Block
  dirty : List (Nat × Nat × Nat)
  s : State
  stat : Nat
  code : Nat
  fail : Nat
  ok : Bool
  only : Bool

/-- A status bit, with its completion code where it has one (R173, R177). -/
def FlsRun.flag (r : FlsRun) (i code : Nat) : FlsRun :=
  { r with stat := r.stat ||| 2 ^ i, code := if r.code = 0 then code else r.code }

/-- A failed access of the local Grotto (R174). -/
def FlsRun.refused (r : FlsRun) (code : Nat) : FlsRun := { r with fail := if r.fail = 0 then code else r.fail }
/-- A failed read of it: the point's results are undefined (R174). -/
def FlsRun.failed (r : FlsRun) (code : Nat) : FlsRun := { r.refused code with ok := false }

/-- A new point. -/
def FlsRun.point (r : FlsRun) : FlsRun := { r with ok := true }

/-- An element shares storage with one of another slot under a different descriptor, or with another output (R159). -/
def flsClash (b : Block) (i : Nat) (x : Int) : Bool :=
  let d := bDesc b i
  let out (j : Nat) : Bool := (bOuts b).contains j
  (bSlots b).any fun j =>
    let e := bDesc b j
    j != i && (out i || out j) && (d != e || (out i && out j)) && d.space == e.space
      && (bIndices b j).any fun y => (elemBits d x).any fun p => (elemBits e y).any fun q => runsMeet p q

/-- A group has written one of an element's bytes since the command issued (R171). -/
def flsDirtied (r : FlsRun) (d : FlsDesc) (x : Int) : Bool :=
  r.dirty.any fun w => w.1 == d.space && (elemBits d x).any fun p => runsMeet p (w.2.1 * 8, w.2.2 * 8)

/-- The bytes that hold an element, and how far into them it begins. -/
def elemBytes (d : FlsDesc) (x : Int) : Nat × Nat × Nat :=
  let lo : Nat := ((d.base * 8 : Nat) + x * (ftBits d.ty : Nat) : Int).toNat
  (lo / 8, cdiv (lo % 8 + ftBits d.ty) 8, lo % 8)

/-- Bytes of a byte space: code and bytes. -/
def spaceRead (s : State) (t space a n : Nat) : Nat × List Byte :=
  let x := tile s t
  match space with
  | 0 => (0, slmBytesAt x a n)
  | 1 => if grtOwned s (tileDie t) x.ctx a n then grtRead s (tileDie t) a n else (0x504, [])
  | _ => (0, (List.range n).map fun i => mget 0 x.opCache (a + i))

/-- A command's write of bytes of a space; to the Flowstone commands of other tiles it is an engine's (R159). -/
def spaceWrite (s : State) (t space a : Nat) (bs : List Byte) : Nat × State :=
  let x := tile s t
  match space with
  | 0 => (0, slmWrite s t a bs)
  | 1 =>
    let k := tileDie t
    if grtOwned s k x.ctx a bs.length then
      (0, grtWrite (engineWrote s (fun u => u / 128 == k && u != t) 1 (a / 4 * 4) (cdiv (a + bs.length) 4 * 4 - a / 4 * 4)) k a bs)
    else (0x504, s)
  | _ => (0, setTile s t { x with opCache := memPut x.opCache a bs })

/-- What is read is undefined: a free value, and so is every result of the point in hand (R159, R171, R174). -/
def FlsRun.freeRead (r : FlsRun) (d : FlsDesc) : Nat × FlsRun :=
  let (v, s) := drawFree128 r.s
  (v % 2 ^ ftBits d.ty, { r with ok := false, s := s })

/-- Reads element x of slot i (R157, R169). With RZERO the element is 0 from then on, to a later read of the command too (DESIGN
CHOICE, log entry 151). -/
def FlsRun.read (r : FlsRun) (i : Nat) (x : Int) : Nat × FlsRun :=
  let d := bDesc r.b i
  let out (v : Nat) (r : FlsRun) : Nat × FlsRun := if flsDirtied r d x || flsClash r.b i x then r.freeRead d else (v, r)
  if d.space = 2 then
    let q := ((d.base : Int) + x).toNat
    let ti := tile r.s r.t
    let wide := ftBits d.ty == 64
    let v := (mget 0 ti.acc q).toNat + (if wide then (mget 0 ti.acc (q + 1024)).toNat <<< 32 else 0)
    let r := if accTag ti (q / 1024) ≠ ftTag d.ty ∨ (wide ∧ accTag ti (q / 1024 + 1) ≠ 3) then r.flag 7 0x405 else r
    let acc := if bRzero r.b && !r.only then mput 0 (if wide then mput 0 ti.acc (q + 1024) 0 else ti.acc) q 0 else ti.acc
    out v { r with s := setTile r.s r.t { ti with acc := acc } }
  else
    let (a, n, sh) := elemBytes d x
    let (c, bs) := spaceRead r.s r.t d.space a n
    let r := if d.space = 1 then { r with s := drpSeen r.s (tileDie r.t) a n false } else r
    if c ≠ 0 then (r.failed c).freeRead d else out ((ofBytes bs >>> sh) % 2 ^ ftBits d.ty) r

/-- Writes element x of slot i; a value that the manual leaves undefined is free. A write that fails leaves other points as they
are (R174). -/
def FlsRun.write (r : FlsRun) (i : Nat) (x : Int) (v : Nat) : FlsRun :=
  let d := bDesc r.b i
  let defined := r.ok && !flsClash r.b i x
  let (v, s) := if defined then (v, r.s) else drawFree128 r.s
  let r := { r with s := s }
  if r.only && defined then r
  else if d.space = 2 then
    let q := ((d.base : Int) + x).toNat
    let ti := tile r.s r.t
    let acc := mput 0 ti.acc q (BitVec.ofNat 32 v)
    let ti := if ftBits d.ty = 64 then
        setTags { ti with acc := mput 0 acc (q + 1024) (BitVec.ofNat 32 (v >>> 32)) } [(q / 1024, 2), (q / 1024 + 1, 3)]
      else setTags { ti with acc := acc } [(q / 1024, ftTag d.ty)]
    { r with s := setTile r.s r.t ti }
  else
    let (a, n, sh) := elemBytes d x
    let w := ftBits d.ty
    if w < 8 then
      let (c, bs) := spaceRead r.s r.t d.space a n
      if c ≠ 0 then r.refused c
      else
        let (c, s) := spaceWrite r.s r.t d.space a (toBytes n (fset (ofBytes bs) (sh + w - 1) sh v))
        if c ≠ 0 then r.refused c else { r with s := s }
    else
      let (c, s) := spaceWrite r.s r.t d.space a (toBytes n v)
      if c ≠ 0 then r.refused c else { r with s := s }

/-- A write of element x of slot i, at least a byte wide, would fail (R190). -/
def FlsRun.writeFails (r : FlsRun) (i : Nat) (x : Int) : Bool :=
  let d := bDesc r.b i
  let (a, n, _) := elemBytes d x
  d.space == 1 && !grtOwned r.s (tileDie r.t) (tile r.s r.t).ctx a n

/-- Reads and writes at a point. -/
def FlsRun.at_ (r : FlsRun) (i : Nat) (p : List Nat) : Nat × FlsRun := r.read i (dotInt (bDesc r.b i).str p)
def FlsRun.put (r : FlsRun) (i : Nat) (p : List Nat) (v : Nat) : FlsRun := r.write i (dotInt (bDesc r.b i).str p) v

/-- Whether a point is on (R158). -/
def FlsRun.on (r : FlsRun) (p : List Nat) : Bool × FlsRun :=
  if bMen r.b then
    let (m, r) := r.at_ 4 p
    ((m == 1) != bMinv r.b, r)
  else (true, r)

/-- Draws a block for the element at linear index n (R166). -/
def FlsRun.draw (r : FlsRun) (n : Nat) : Nat × FlsRun :=
  if bStream r.b then
    let k := tileDie r.t
    let i := tileSite r.t
    let c := rget r.s .flsRngCtr k i 0
    (genG (bKey r.b) (r.t <<< 64 + c), if r.only then r else { r with s := rset r.s .flsRngCtr k i 0 (c + 1) })
  else (genG (bKey r.b) ((bCtr r.b + n) % 2 ^ 128), r)

/-- The points with their linear indices. -/
def bPoints (b : Block) : List (List Nat × Nat) := (gridOf ((List.range 4).map (bExt b))).zipIdx

/-! ### Values and conversions (R134-R136) -/

/-- The value of an element. -/
def ftVal (ty x : Nat) : FV :=
  match ftFmt ty with
  | some f => f.dec (x % 2 ^ f.width)
  | none =>
    if ty = 0x09 then (if x % 256 = 0xFF then .nan else .fin false 1 ((x % 256 : Nat) - 127))
    else let z := ftInt ty x
         .fin (decide (z < 0)) z.natAbs 0

/-- Narrows a value into a floating format (R136): the encoding, and whether SAT clamped a finite value. -/
def encSat (f : Fmt) (r : Rnd) (sat : Bool) : FV → Nat × Bool
  | .nan => (f.nanCode, false)
  | .inf n => (if sat then f.signed n f.maxCode else f.ofFV r (.inf n), false)
  | .fin n m e =>
    if sat ∧ f.maxCode < f.roundMag r n m 1 e then (f.signed n f.maxCode, true) else (f.enc r n m 1 e, false)

/-- A value into an element type: integers saturate (R65, R136). -/
def encInto (ty : Nat) (r : Rnd) (sat : Bool) (v : FV) : Nat × Bool :=
  match ftFmt ty with
  | some f => encSat f r sat v
  | none =>
    let w := ftIntBits ty
    let lo : Int := if ftSigned ty then -(2 ^ (w - 1)) else 0
    let hi : Int := if ftSigned ty then 2 ^ (w - 1) - 1 else 2 ^ w - 1
    let z := toIntSat r lo hi v
    let out := match v with
      | .fin _ _ _ => decide (toIntSat r (lo - 1) (hi + 1) v ≠ z)
      | _ => false
    (wrap (ftBits ty) z, sat && out)

/-- The rounding of a command for a point; SR takes its bits from a block. -/
def FlsRun.rnd (r : FlsRun) (n : Nat) : Rnd × FlsRun :=
  match bRnd r.b with
  | 0 => (.rne, r)
  | 1 => (.rz, r)
  | _ => let (k, r) := r.draw n
         (.sr (k % 65536), r)

/-- A floating format that holds every value of another (R134): a conversion into it is exact. -/
def holdsAll (src dst : Nat) : Bool :=
  match ftFmt src, ftFmt dst with
  | some f, some g => src == dst || (decide (f.eb ≤ g.eb) && decide (f.mb ≤ g.mb))
  | _, _ => false

/-- cvt of a value: an integer into an integer wider than INT8 wraps (R65); into INT8 and INT4 it saturates (R136). SAT bears on
narrowing alone: an exact conversion keeps an infinity (R134) (DEDUCED, log entry 130). -/
def cvtElem (src dst x : Nat) (r : Rnd) (sat : Bool) : Nat × Bool :=
  if (ftFmt src).isNone ∧ src ≠ 0x09 ∧ (ftFmt dst).isNone ∧ dst ≠ 0x0A ∧ dst ≠ 0x0B then
    let z := ftInt src x
    (if dst = 0x14 then wrap 32 (signed 18 (wrap 18 z)) else wrap (ftBits dst) z, false)
  else encInto dst r (sat && !holdsAll src dst) (ftVal src x)

/-! ### Element-wise operations (R160, R161) -/

/-- Arithmetic on floats and integers of a type: 3 add, 4 sub, 5 mul, 8 min, 9 max. -/
def ftArith (op ty a b : Nat) : Nat :=
  match ftFmt ty with
  | some f =>
    match op with
    | 3 => fadd f .rne a b
    | 4 => fsub f .rne a b
    | 5 => fmul f .rne a b
    | 8 => fminmax f false a b
    | _ => fminmax f true a b
  | none =>
    let w := ftBits ty
    match op with
    | 3 => wrap w ((a : Int) + b)
    | 4 => wrap w ((a : Int) - b)
    | 5 => wrap w ((a : Int) * b)
    | 8 => if ftInt ty b < ftInt ty a then b else a
    | _ => if ftInt ty a < ftInt ty b then b else a

/-- A relation of two values (R62's codes). -/
def ftRelation (rel ty a b : Nat) : Bool :=
  match ftFmt ty with
  | some f =>
    let x := f.dec a
    let y := f.dec b
    if x.isNan || y.isNan then rel == 1 || rel == 7 else relOrd rel (x.cmp y)
  | none => relOrd rel (ftInt ty a - ftInt ty b)

/-- An immediate in a compute type: an f64, or an f32 or integer in bits 31:0 (R153). -/
def ftImm (ty x : Nat) : Nat :=
  if ty = 0x01 then x else if ty = 0x0E then wrap 64 (signed 32 x) else x % 2 ^ 32

/-- logic on u32 or u64. -/
def ftLogic (sub w a b : Nat) : Nat :=
  match sub with
  | 0 => a &&& b
  | 1 => a ||| b
  | 2 => a ^^^ b
  | 3 => (a <<< (b % w)) % 2 ^ w
  | 4 => a >>> (b % w)
  | _ => wrap w (signed w a / 2 ^ (b % w))

/-- fn on f32; abs and neg change the sign bit alone, of a NaN too (DESIGN CHOICE, log entry 153). -/
def ftFn (sub x : Nat) : Nat :=
  match sub with
  | 0 => x % 2 ^ 31
  | 1 => if x < 2 ^ 31 then x + 2 ^ 31 else x - 2 ^ 31
  | 2 => fnRcp x
  | 3 => fnRsqrt x
  | 4 => fsqrt fmtF32 .rne x
  | 5 => fnExp2 x
  | 6 => fnLog2 x
  | 7 => fnTrig false x
  | 8 => fnTrig true x
  | _ => fnTanh x

/-- The value of an element-wise operation other than cvt and rng. A copy, sel, gather or scatter moves the stored bits of an element,
those above an i18 slice too (DESIGN CHOICE, log entry 148). -/
def flsElem (b : Block) (x y z : Nat) : Nat :=
  let ty := (bDesc b 1).ty
  let i0 := ftImm ty (bImm b 0)
  let i1 := ftImm ty (bImm b 1)
  match bOp b with
  | 0x01 => x
  | 0x06 => match ftFmt ty with | some f => ffma f .rne x y z | none => 0
  | 0x07 => ftArith 3 ty (ftArith 5 ty i0 x) (ftArith 5 ty i1 y)
  | 0x0A => ftArith 8 ty (ftArith 9 ty x i0) i1
  | 0x0B => b2n (ftRelation (bSub b) ty x y)
  | 0x0C => if z = 1 then x else y
  | 0x0D => ftLogic (bSub b) (ftBits ty) x y
  | 0x10 => ftFn (bSub b) x
  | op => ftArith op ty x y

/-- The sources that an element-wise operation reads, in order. -/
def flsSources (b : Block) : List Nat := (bSlots b).filter fun i => i == 1 || i == 2 || i == 3

/-- One point of an element-wise operation (R157, R158, R166): under an undefined mask its result is undefined (R174). -/
def flsPoint (r : FlsRun) (pn : List Nat × Nat) : FlsRun :=
  let (p, n) := pn
  let (on, r) := r.point.on p
  if !r.ok then r.put 0 p 0
  else if !on then (if bMfill r.b then r.put 0 p (bFill r.b) else r)
  else
    let (vs, r) := (flsSources r.b).foldl (fun (acc : List Nat × FlsRun) i =>
      let (v, r) := acc.2.at_ i p
      (acc.1 ++ [v], r)) ([], r)
    match bOp r.b with
    | 0x02 =>
      let (rd, r) := r.rnd n
      let (v, sat) := cvtElem (bDesc r.b 1).ty (bDesc r.b 0).ty (nth vs 0) rd (bSat r.b)
      (if sat then r.flag 2 0x301 else r).put 0 p v
    | 0x38 =>
      let (k, r) := r.draw n
      let table := rf r.s .drpRngCfg (tileDie r.t) 0 0 0 0
      r.put 0 p (match bSub r.b with
        | 0 => k % 2 ^ 32
        | 1 => drawUniform k
        | _ => if table = 1 then drawTable k else drawNormal k)
    | _ => r.put 0 p (flsElem r.b (nth vs 0) (nth vs 1) (nth vs 2))

/-- One point of gather or scatter (R165). -/
def flsPermute (r : FlsRun) (pn : List Nat × Nat) : FlsRun :=
  let (v, r) := r.point.at_ 2 pn.1
  let v : Int := if (bDesc r.b 2).ty = 0x0D then signed 32 v else (v : Int)
  let inside := decide (0 ≤ v) && decide (v < (bPlen r.b : Int))
  let r := if inside then r else r.flag 1 0
  if bOp r.b = 0x28 then
    if inside then
      let (a, r) := r.read 1 (v * (bDesc r.b 1).str.headD 0)
      r.put 0 pn.1 a
    else r.put 0 pn.1 (bFill r.b)
  else if inside then
    let (a, r) := r.at_ 1 pn.1
    r.write 0 (v * (bDesc r.b 0).str.headD 0) a
  else r

/-! ### Reductions (R162-R164) -/

/-- The accumulation type. -/
def redType (ty : Nat) : Nat := if ty = 0x02 ∨ ty = 0x03 then 0x00 else ty

/-- A value between the destination's type and the accumulation type: the command's RND and SAT have no part in it (DESIGN CHOICE, log
entry 147). -/
def redConv (src dst x : Nat) : Nat :=
  match ftFmt src, ftFmt dst with
  | some f, some g => if src = dst then x else g.ofFV .rne (f.dec x)
  | _, _ => x

/-- argmax and argmin: the value that is greater (smaller), with its index; on a tie the lower index, and a NaN loses (R164). -/
def redArg (isMax : Bool) (ty : Nat) (a b : Nat × Nat) : Nat × Nat :=
  let low := if a.2 < b.2 then a else b
  let nan (x : Nat) : Bool := match ftFmt ty with | some f => (f.dec x).isNan | none => false
  if nan a.1 && nan b.1 then low
  else if nan a.1 then b
  else if nan b.1 then a
  else if ftRelation 0 ty a.1 b.1 then low
  else if ftRelation (if isMax then 4 else 2) ty a.1 b.1 then a else b

/-- comb of R162 on values with their q. -/
def redComb (sub ty : Nat) (a b : Nat × Nat) : Nat × Nat :=
  match sub with
  | 0 => (ftArith 3 ty a.1 b.1, 0)
  | 1 => (ftArith 5 ty a.1 b.1, 0)
  | 2 | 4 => (ftArith 9 ty a.1 b.1, 0)
  | 3 => (ftArith 8 ty a.1 b.1, 0)
  | 5 => (a.1 &&& b.1, 0)
  | 6 => (a.1 ||| b.1, 0)
  | 7 => (a.1 ^^^ b.1, 0)
  | 8 => redArg true ty a b
  | _ => redArg false ty a b

/-- The identity in the destination's type (R163). -/
def redIdentity (sub ty : Nat) : Nat :=
  let w := ftBits ty
  if 8 ≤ sub then 2 ^ 32 - 1
  else match ftFmt ty with
    | some f =>
      match sub with
      | 1 => f.enc .rne false 1 1 0
      | 2 => f.signed true f.infCode
      | 3 => f.infCode
      | _ => 0
    | none =>
      match sub with
      | 1 => 1
      | 2 => if ftSigned ty then 2 ^ (w - 1) else 0
      | 3 => if ftSigned ty then 2 ^ (w - 1) - 1 else 2 ^ w - 1
      | 5 => 2 ^ w - 1
      | _ => 0

/-- Combines two partial results, of which either may be missing. -/
def redJoin (f : Nat × Nat → Nat × Nat → Nat × Nat) : Option (Nat × Nat) → Option (Nat × Nat) → Option (Nat × Nat)
  | none, b => b
  | a, none => a
  | some a, some b => some (f a b)

/-- Neighbours of a list joined: one level of the tree of R162. -/
def redPairs (f : Nat × Nat → Nat × Nat → Nat × Nat) : List (Option (Nat × Nat)) → List (Option (Nat × Nat))
  | a :: b :: rest => redJoin f a b :: redPairs f rest
  | l => l

/-- The tree over 64 partial results. -/
def redTree (f : Nat × Nat → Nat × Nat → Nat × Nat) : Nat → List (Option (Nat × Nat)) → Option (Nat × Nat)
  | 0, l => l.headD none
  | n + 1, l => redTree f n (redPairs f l)

/-- One output point of a reduction. -/
def redPoint (r : FlsRun) (o : List Nat) : FlsRun :=
  let b := r.b
  let sub := bSub b
  let src := (bDesc b 1).ty
  let dst := (bDesc b 0).ty
  let ty := redType src
  let f := redComb sub ty
  let ext := (List.range (bRdims b)).map (bExt b)
  let zero := List.replicate (bRdims b) 0 ++ o
  let (parts, r) := (gridOf ext).zipIdx.foldl (fun (acc : List (Option (Nat × Nat)) × FlsRun) qn =>
    let p := qn.1 ++ o
    let (on, r) := acc.2.on p
    if !on then (acc.1, r)
    else
      let (x, r) := r.at_ 1 p
      let x := redConv src ty x
      let x := if sub = 4 then x % 2 ^ (ftBits ty - 1) else x
      let l := qn.2 % 64
      (acc.1.set l (redJoin f (acc.1.getD l none) (some (x, qn.2))), r)) (List.replicate 64 none, r.point)
  match redTree f 6 parts with
  | none =>
    let r := r.flag 0 0
    if bAccum b && r.ok then r else r.put 0 zero (redIdentity sub dst)
  | some (v, q) =>
    if 8 ≤ sub then r.put 0 zero q
    else
      let canon (x : Nat) : Nat := match ftFmt ty with
        | some g => if (g.dec x).isNan then g.nanCode else x
        | none => x
      let (v, r) := if bAccum b then
          let (d, r) := r.at_ 0 zero
          ((f (redConv dst ty d, 0) (v, 0)).1, r)
        else (v, r)
      r.put 0 zero (redConv ty dst (canon v))

/-! ### MX (R126, R137, R575) -/

/-- Step 4's emax_e. -/
def mxEmax (ty : Nat) : Int := match ty with | 0x07 => 4 | 0x04 => 8 | 0x05 => 15 | _ => 2

/-- A block's scale byte, and whether it is special. -/
def mxScale (ty : Nat) (vs : List FV) : Nat × Bool :=
  if vs.any fun v => match v with | .fin _ _ _ => false | _ => true then (0xFF, true)
  else
    let tops := vs.filterMap fun v => match v with
      | .fin _ m e => if m = 0 then none else some (ilog2 m 1 e)
      | _ => none
    match tops with
    | [] => (0, false)
    | k :: ks =>
      let top := ks.foldl (fun (a : Int) x => if a < x then x else a) k
      let s := top - mxEmax ty
      let s := if s < -127 then -127 else if 127 < s then 127 else s
      ((s + 127).toNat, false)

/-- mx.quant of one block: points with linear indices, and the block's coordinates. -/
def mxQuantBlock (r : FlsRun) (bp : List Nat) (ps : List (List Nat × Nat)) : FlsRun :=
  let src := (bDesc r.b 1).ty
  let dst := (bDesc r.b 0).ty
  let (vs, r) := ps.foldl (fun (acc : List (FV × Rnd) × FlsRun) pn =>
    let (x, r) := acc.2.at_ 1 pn.1
    let (rd, r) := r.rnd pn.2
    (acc.1 ++ [(ftVal src x, rd)], r)) ([], r.point)
  let (scale, special) := mxScale dst (vs.map (·.1))
  let r := if special then r.flag 3 0x302 else r
  let one (v : FV × Rnd) : Nat :=
    if special then 0
    else match ftFmt dst, v.1 with
      | some f, .fin n m e => (encSat f v.2 true (.fin n m (e - ((scale : Int) - 127)))).1
      | _, _ => 0
  let r := (ps.zip vs).foldl (fun (r : FlsRun) e => r.put 0 e.1.1 (one e.2)) r
  r.put 2 bp scale

/-- mx.quant. -/
def mxQuant (r : FlsRun) : FlsRun :=
  let pts := bPoints r.b
  (gridOf (bShape r.b 2)).foldl (fun r bp =>
    mxQuantBlock r bp (pts.filter fun pn => pn.1.headD 0 / 32 == bp.headD 0 && pn.1.drop 1 == bp.drop 1)) r

/-- One point of mx.dequant. -/
def mxDequantPoint (r : FlsRun) (pn : List Nat × Nat) : FlsRun :=
  let (p, n) := pn
  let (x, r) := r.point.at_ 1 p
  let (sc, r) := r.at_ 2 ((p.headD 0 / 32) :: p.drop 1)
  let dst := (bDesc r.b 0).ty
  let narrow := dst == 0x02 || dst == 0x03
  let (rd, r) := if narrow then r.rnd n else (.rne, r)
  let (v, sat) := encInto dst rd (bSat r.b && narrow) (scaled sc (ftVal (bDesc r.b 1).ty x))
  (if sat then r.flag 2 0x301 else r).put 0 p v

/-! ### Electrum (R138-R147, R167) -/

/-- The block exponent of R139 for a largest magnitude m x 2^e: the smallest E with max|x| at most 2^E (1 - 2^-17). -/
def elExponent (vs : List FV) : Int :=
  let fits (v : FV) (e : Int) : Bool := match v with
    | .fin _ m g =>
      let p := pow2 (g - e + 17)
      decide (m * p.1 ≤ (2 ^ 17 - 1) * p.2)
    | _ => true
  let one (v : FV) : Int := match v with
    | .fin _ m g => let k := ilog2 m 1 g + 1
                    if fits v k then k else k + 1
    | _ => 0
  let nz := vs.filter fun v => match v with | .fin _ m _ => m != 0 | _ => false
  match nz with
  | [] => 0
  | v :: rest => rest.foldl (fun (a : Int) x => if a < one x then one x else a) (one v)

/-- The remainder in -2^17 .. 2^17 - 1. -/
def mods18 (n : Int) : Int := (n + 2 ^ 17) % 2 ^ 18 - 2 ^ 17

/-- The slices of an element, most significant first (R140). -/
def elSlices (single : Bool) (v : FV) (e : Int) : List Int :=
  match v with
  | .fin neg m g =>
    let p := pow2 (g + (if single then 35 else 53) - e)
    let a : Int := (Rnd.int .rne false (m * p.1) p.2 : Nat)
    let n := if neg then -a else a
    if single then
      let s1 := mods18 n
      [(n - s1) / 2 ^ 18, s1]
    else
      let s2 := mods18 n
      let s1 := mods18 ((n - s2) / 2 ^ 18)
      [(n - s1 * 2 ^ 18 - s2) / 2 ^ 36, s1, s2]
  | _ => if single then [0, 0] else [0, 0, 0]

/-- el.split of one row or column i1. A slice that cannot be written leaves the others of its element undefined (R174). -/
def elSplitRow (r : FlsRun) (i1 : Nat) : FlsRun :=
  let single := bSub r.b == 1
  let ps := (List.range (bExt r.b 0)).map fun i0 => [i0, i1, 0, 0]
  let (vs, r) := ps.foldl (fun (acc : List FV × FlsRun) p =>
    let (x, r) := acc.2.at_ 1 p
    (acc.1 ++ [ftVal (bDesc r.b 1).ty x], r)) ([], r.point)
  let special := vs.any fun v => match v with | .fin _ _ _ => false | _ => true
  let e := if special then 0x7FFF else elExponent vs
  let r := if special then r.flag 4 0x303 else r
  let slots := if single then [0, 2] else [0, 2, 3]
  let zeros : List Int := if single then [0, 0] else [0, 0, 0]
  let r := (ps.zip vs).foldl (fun (r : FlsRun) pv =>
    let whole := r.ok
    let r := { r with ok := r.ok && !slots.any fun i => r.writeFails i (dotInt (bDesc r.b i).str pv.1) }
    let r := (slots.zip (if special then zeros else elSlices single pv.2 e)).foldl
      (fun (r : FlsRun) z => r.put z.1 pv.1 (wrap 32 z.2)) r
    { r with ok := whole }) r
  r.put 4 [0, i1, 0, 0] (wrap 16 e)

/-- One point of el.acc. -/
def elAccPoint (r : FlsRun) (pn : List Nat × Nat) : FlsRun :=
  let (x, r) := r.point.at_ 1 pn.1
  let term : Int := signed 64 x * 2 ^ (18 * (elTop r.b - elClass r.b))
  let (old, r) := if bAccum r.b then r.at_ 0 pn.1 else (0, r)
  r.put 0 pn.1 (wrap 128 ((old : Int) + term))

/-- One point of el.fin (R144, R147). -/
def elFinPoint (r : FlsRun) (pn : List Nat × Nat) : FlsRun :=
  let p := pn.1
  let (x, r) := r.point.at_ 1 p
  let (ea, r) := r.at_ 2 p
  let (eb, r) := r.at_ 3 p
  let dst := (bDesc r.b 0).ty
  let f := (ftFmt dst).getD fmtF64
  let (old, r) := if bAccum r.b then r.at_ 0 p else (0, r)
  let range (e : Nat) : Bool := decide (-1073 ≤ signed 16 e) && decide (signed 16 e ≤ 1025)
  let special := ea == 0x7FFF || eb == 0x7FFF
  let bad (e : Nat) : Bool := e != 0x7FFF && !range e
  let r := if bad ea || bad eb then r.flag 5 0x304 else r
  if special || bad ea || bad eb then r.put 0 p f.nanCode
  else
    let i := signed 128 x
    let d : FV := .fin (decide (i < 0)) i.natAbs (signed 16 ea + signed 16 eb - (if bSub r.b = 1 then 52 else 70))
    let sum := (f.dec old).add .rne d
    let v := f.ofFV .rne sum
    let ovf := match sum with
      | .fin _ _ _ => decide (v % 2 ^ (f.eb + f.mb) = f.infCode)
      | _ => false
    (if ovf then r.flag 6 0x305 else r).put 0 p v

/-! ### The whole command -/

/-- Runs a command. -/
def flsExec (r : FlsRun) : FlsRun :=
  let b := r.b
  match bOp b with
  | 0x20 => (gridOf ((List.range' (bRdims b) (4 - bRdims b)).map (bExt b))).foldl redPoint r
  | 0x28 | 0x29 => (bPoints b).foldl flsPermute r
  | 0x30 => mxQuant r
  | 0x31 => (bPoints b).foldl mxDequantPoint r
  | 0x40 => (List.range (bExt b 1)).foldl elSplitRow r
  | 0x41 => (bPoints b).foldl elAccPoint r
  | 0x42 => (bPoints b).foldl elFinPoint r
  | _ => (bPoints b).foldl flsPoint r

/-! ### Groups and engines that write a command's bytes (R105, R159, R171) -/

/-- The bytes that a write of `n` bytes at `a` leaves undefined in a command's destinations: those that it shares with them,
unless an engine writes, and every 32-bit word that holds a destination element of less than a byte. -/
def undefinedBytes (b : Block) (space a n : Nat) (engine : Bool) : List Nat :=
  let words := ((List.range (cdiv (a + n) 4 - a / 4)).map (a / 4 + ·)).filter fun w =>
    (bOuts b).any fun i => subByte b i && slotMeets b i space (4 * w) 4
  let whole := words.flatMap fun w => (List.range 4).map (4 * w + ·)
  let shared := ((List.range n).map (a + ·)).filter fun x =>
    !words.contains (x / 4) && (bOuts b).any fun i => slotMeets b i space x 1
  whole ++ if engine then [] else shared

/-- Bytes of a space of a tile become free values. -/
def flsFree (s : State) (t space : Nat) (as : List Nat) : State :=
  as.foldl (fun s a =>
    let (v, s) := drawFree s
    (spaceWrite s t space a (toBytes 1 v.toNat)).2) s

/-- A write to what a command has read: the results of the points that use it become undefined. -/
def flsTaint (s : State) (t : Nat) (b : Block) (space a n : Nat) : State :=
  if bReads b space a n then
    (flsExec { t := t, b := b, dirty := [(space, a, n)], s := s, stat := 0, code := 0, fail := 0, ok := true, only := true }).s
  else s

/-- Group `me` of tile u, or with none a group of another tile, has written `n` bytes at `a` of the tile's SLM or its die's
Grotto: what Flowstone commands and mmas streams of the tile make of them is undefined, where the group has not waited for
them. -/
def keepOut (s : State) (u : Nat) (me : Option Nat) (space a n : Nat) : State :=
  let x := tile s u
  let held := x.uncovered.filter fun v => !(v.ownsWait x && me == some v.from_.slot)
  let (cmds, streams) := held.partition fun v => !v.words.isEmpty
  let s := setTile s u { x with fls := x.fls.map fun c => { c with dirty := c.dirty ++ [(space, a, n)] } }
  let s := ((x.fls.filter (·.started)).map (·.words) ++ cmds.map (·.words)).foldl (fun s b => flsTaint s u b space a n) s
  let s := cmds.foldl (fun s v => flsFree s u space (undefinedBytes v.words space a n false)) s
  streams.foldl (fun s v => if space = 0 ∧ runsHit v.reads a n = true then mtxFree s u v.targets else s) s

/-- As `keepOut`, for every tile of C-die k, of bytes of its Grotto that group g of tile t has written. -/
def keepOutGrotto (s : State) (t g k off n : Nat) : State :=
  s.tiles.foldl (fun s e => if e.1 / 128 = k then keepOut s e.1 (if e.1 = t then some g else none) 1 off n else s) s

end Sys2Proof.Machine
end

