-- ==== Sys2Proof/Machine/Coll.lean ====
section
/-!
DEFINITION. The collective engine (R205-R209): opening a slot, contributions, completion and timeout.
-/
namespace Sys2Proof.Machine

/-- The job whose completion status takes a descriptor's code (R194, R197): it runs with the queue's context and has the
queue among its own. -/
def descJob (s : State) (k key ctx : Nat) : Option Job :=
  s.jobs.find? fun j => j.stage == .running && j.ctx == ctx && j.dies.contains k && (decide (32 ≤ key) || bit j.qmask key)

def descStatus (s : State) (k key ctx code : Nat) : State :=
  match descJob s k key ctx with
  | some j => jobStatus s j.ref code
  | none => s

/-! ### Elements -/

/-- The types of R205. -/
def collType (ty : Nat) : Bool := [0x00, 0x01, 0x02, 0x03, 0x0D, 0x0E, 0x12, 0x13].contains ty
/-- The reduce operations of R205, as Flowstone's sub-operations. -/
def collSub (op : Nat) : Nat := match op with | 0 => 0 | 1 => 3 | 2 => 2 | 3 => 5 | 4 => 6 | _ => 7
def collBytes (ty : Nat) : Nat := ftBits ty / 8

/-- Element i of packed bytes. -/
def elemAt (bs : List Byte) (w i : Nat) : Nat := ofBytes ((bs.drop (w * i)).take w)

/-- One element over the ranks, ascending (R208): f16 and bf16 in f32, rounded once at the end. -/
def collReduce (op ty : Nat) (vs : List Nat) : Nat :=
  let up (x : Nat) : Nat := redConv ty (redType ty) x
  match vs with
  | [] => 0
  | v :: rest =>
    redConv (redType ty) ty (rest.foldl (fun d x => (redComb (collSub op) (redType ty) (d, 0) (up x, 0)).1) (up v))

/-- Two packed lists of elements, combined one by one. -/
def collPair (op ty : Nat) (a b : List Byte) : List Byte :=
  let w := collBytes ty
  (List.range (a.length / w)).flatMap fun i => toBytes w (collReduce op ty [elemAt a w i, elemAt b w i])

/-! ### Contributions (R207) -/

def collSlot (s : State) (k slot : Nat) : Option CollSlot := mfind (grotto s k).coll slot
def collDel (s : State) (k slot : Nat) : State :=
  let g := grotto s k
  setGrotto s k { g with coll := mdel g.coll slot }
/-- The open descriptor completes. -/
def collDone (s : State) (k slot : Nat) (c : CollSlot) (code info : Nat) : State :=
  takenMod (collDel s k slot) k c.key c.dslot fun t => { t with result := some (code, info), waiting := [] }

/-- The checks of a contribution but for its length. -/
def collCode (s : State) (k ctx slot rank : Nat) : Nat :=
  match collSlot s k slot with
  | none => 0x50A
  | some c => if c.ctx ≠ ctx then 0x504 else if c.n ≤ rank ∨ c.arrived.contains rank then 0x50B else 0

/-- Places, stages or combines bytes of an accepted contribution, from a byte offset of it on. -/
def collPlace (s : State) (k : Nat) (c : CollSlot) (rank off : Nat) (bs : List Byte) : Nat × State :=
  let a := match c.mode with | 0 => c.dst + rank * c.len + off | 1 => c.stage + rank * c.len + off | _ => c.dst + off
  if bs.isEmpty then (0, s)
  else if !grtOwned s k c.ctx a bs.length then (0x504, s)
  else if c.mode ≤ 1 then (0, grtPut s k a bs true)
  else
    let (code, cur) := grtRead s k a bs.length
    if code ≠ 0 then (code, s) else (0, grtPut s k a (collPair c.op c.ty cur bs) true)

/-- The result of an ordered reduce (R208), when every staged byte can be read. The accesses carry the slot's context, also
after a reassignment (R189, R190). -/
def collOrdered (s : State) (k : Nat) (c : CollSlot) : Nat × State :=
  let w := collBytes c.ty
  let row (r : Nat) : Nat × List Byte :=
    if grtOwned s k c.ctx (c.stage + r * c.len) c.len then grtRead s k (c.stage + r * c.len) c.len else (0x504, [])
  let rows := (List.range c.n).map row
  if c.len = 0 then (0, s)
  else if !grtOwned s k c.ctx c.dst c.len then (0x504, s)
  else
    match rows.find? fun r => r.1 != 0 with
    | some r =>
      let (bs, s) := freeBytes c.len s
      (r.1, grtPut s k c.dst bs true)
    | none =>
      let out := (List.range (c.len / w)).flatMap fun i => toBytes w (collReduce c.op c.ty (rows.map fun r => elemAt r.2 w i))
      (0, grtPut s k c.dst out true)

/-- A rank has arrived; the last one completes the slot (R208). -/
def collArrive (s : State) (k slot rank : Nat) : State :=
  match collSlot s k slot with
  | none => s
  | some c =>
    let c := { c with arrived := kins c.arrived rank }
    if c.arrived.length < c.n then
      let g := grotto s k
      setGrotto s k { g with coll := mins g.coll slot c }
    else
      let (code, s) := if c.mode = 1 then collOrdered s k c else (0, s)
      collDone s k slot c code c.n

/-- A whole contribution (R207): its code. -/
def collAccept (s : State) (k ctx slot rank : Nat) (data : List Byte) : Nat × State :=
  let code := collCode s k ctx slot rank
  if code ≠ 0 then (code, s)
  else
    match collSlot s k slot with
    | none => (0x50A, s)
    | some c =>
      if data.length ≠ c.len then (0x50C, s)
      else
        let (code, s) := collPlace s k c rank 0 data
        if code ≠ 0 then (code, s) else (0, collArrive s k slot rank)

/-- A contribution that waits at a C-die's engine is handled, and its sender learns the code (R200, R230). -/
def collContribution (s : State) (k n : Nat) : State :=
  match takeAt (grotto s k).contribs n with
  | none => s
  | some (c, rest) =>
    let (code, s) := collAccept (setGrotto s k { grotto s k with contribs := rest }) k c.ctx c.slot c.rank c.data
    partAnswer s c.owner code

/-- TIMEOUT_US after its opening, a slot that has not completed ends (R208). -/
def collTimeout (s : State) (k slot : Nat) : State :=
  match collSlot s k slot with
  | none => s
  | some c => if c.timeoutUs = 0 then s else collDone s k slot c 0x50D c.arrived.length

/-! ### Opening (R205, R206) -/

/-- Sends a contribution to a C-die of this module; to a die that is lost it fails (R39). -/
def contribute (s : State) (k ctx slot rank : Nat) (data : List Byte) (owner : Part) : State :=
  if !dieActive s k then partAnswer s owner 0xD80
  else
    let g := grotto s k
    setGrotto s k { g with contribs := g.contribs ++ [⟨ctx, slot, rank, data, owner⟩] }

/-- Starts an open descriptor in ring slot `dslot` of queue `key` (DESIGN CHOICE, log entry 134). -/
def collOpen (e : Eng) (key dslot : Nat) (w : List W64) : Done × Eng :=
  let k := e.by_.k
  let f (i hi lo : Nat) : Nat := bits (wd w i) hi lo
  let sub := f 0 55 48
  let mode := sub % 4
  let op := bits sub 5 2
  let stage := f 6 63 32
  let dst := f 6 31 0
  let len := f 7 63 32
  let n := f 7 31 16
  let slot := f 7 15 10
  let ty := f 7 9 5
  let selfOn := f 10 63 63 = 1
  let bad := f 0 63 56 != 1 || bits sub 7 6 != 0 || mode == 3 || decide (5 < op) || !collType ty
    || (decide (3 ≤ op) && (ftFmt ty).isSome) || n == 0 || decide (1024 < n) || decide (0x1000000 < len) || f 7 4 0 != 0
    || f 8 62 32 != 0 || f 9 63 48 != 0 || f 10 62 42 != 0 || (List.range 5).any fun i => wd w (11 + i) != 0
  let areas := [Area.of 1 0 dst (if mode = 0 then n * len else len)] ++ (if mode = 1 then [Area.of 1 0 stage (n * len)] else [])
    ++ if selfOn then [Area.of 1 0 (f 10 31 0) len] else []
  let misaligned := dst % 8 != 0 || len % 8 != 0 || (mode == 1 && stage % 8 != 0)
  let code :=
    if f 0 63 56 = 1 ∧ (collSlot e.s k slot).isSome then 0x50E
    else if bad then 0x501
    else if misaligned then 0x502
    else if areaCode e.s k e.by_.ctx areas ≠ 0 then areaCode e.s k e.by_.ctx areas
    else if f 8 63 63 = 1 ∧ f 9 47 0 % 8 ≠ 0 then 0x502
    else if selfOn ∧ n ≤ f 10 41 32 then 0x50B
    else 0
  if code ≠ 0 then (.now code 0, e)
  else
    let e := if mode = 2 then
        e.write 1 0 dst ((List.range (len / collBytes ty)).flatMap fun _ => toBytes (collBytes ty) (redIdentity (collSub op) ty))
      else e
    let e := { e with writes := (areas.take (if mode = 1 then 2 else 1)).map (fun (a : Area) => (0, apertureOf k a.lo.toNat, (a.hi - a.lo).toNat)) ++ e.writes }
    let g := grotto e.s k
    let s := setGrotto e.s k { g with coll := mins g.coll slot ⟨e.by_.ctx, mode, op, ty, dst, stage, len, n, [], key, dslot, f 8 31 0⟩ }
    let s := if f 8 63 63 = 1 then
        let (c, s) := engAdd s e.by_ (f 9 47 0) 1
        if c = 0 then s else descStatus s k key e.by_.ctx c
      else s
    let e := { e with s := expect s k key dslot [1] }
    if selfOn then
      let (bs, e) := e.read 1 0 (f 10 31 0) len
      if e.code ≠ 0 then (.later, { e with s := descStatus e.s k key e.by_.ctx e.code, code := 0 })
      else (.later, { e with s := (collAccept e.s k e.by_.ctx slot (f 10 41 32) bs).2 })
    else (.later, e)

end Sys2Proof.Machine
end

