-- ==== Sys2Proof/Machine/FabNet.lean ====
section
/-!
DEFINITION. The fabric's network side: ports (R407-R413), flits and credits (R414-R418), routing (R419, R420), connections and
the sender's half of end-to-end delivery (R421-R424).
-/
namespace Sys2Proof.Machine

/-! ### Ports -/

/-- A module port's L-die and its port there (R407). -/
def portDie (p : Nat) : Nat := 10 + p / 4
def port (s : State) (p : Nat) : PortSt := mget PortSt.reset s.ports p
def setPort (s : State) (p : Nat) (v : PortSt) : State := { s with ports := mput PortSt.reset s.ports p v }
def portF (s : State) (p hi lo : Nat) : Nat := rf s .fabPortStatus (portDie p) (p % 4) 0 hi lo
def setPortF (s : State) (p hi lo v : Nat) : State := rfset s .fabPortStatus (portDie p) (p % 4) 0 hi lo v
/-- The STATE values of a port (R412). -/
def pDisabled : Nat := 1
def pTraining : Nat := 2
def pActive : Nat := 3
def pKeepalive : Nat := 4
def pWaking : Nat := 5
def pDown : Nat := 6
def portSt (s : State) (p : Nat) : Nat := portF s p 3 0
def portCount (s : State) (r : Reg) (p n : Nat) : State := if p < 16 then count s r (portDie p) (p % 4) 0 n else s

/-! ### Packets (R414-R418) -/

def pktFlits (p : Packet) : Nat := cdiv (40 + p.payload.length) 64
def pktClass (p : Packet) : Nat := p.vc.toNat / 2
def isRequest (ty : Nat) : Bool := decide (1 ≤ ty) && decide (ty ≤ 5)
def typeKnown (ty : Nat) : Bool := (decide (1 ≤ ty) && decide (ty ≤ 6)) || (decide (8 ≤ ty) && decide (ty ≤ 11))

/-- Flits that a transmitter may take on a VC: reserved ones first, then shared ones (R418). -/
def creditsFor (x : PortSt) (v : Nat) : Nat := (256 - mget 0 x.credits v) + (10240 - x.sharedUsed)
def takeCredits (x : PortSt) (v n : Nat) : PortSt :=
  let r := Nat.min n (256 - mget 0 x.credits v)
  { x with credits := mput 0 x.credits v (mget 0 x.credits v + r), sharedUsed := x.sharedUsed + (n - r) }

/-- A frame header (R408): KIND 0b00 data, 0b01 control, 0b10 idle, and FSEQ of a data frame. -/
def frameHeader (kind : Nat) (fseq : BitVec 12) : BitVec 20 := BitVec.ofNat 20 (kind <<< 18 + (if kind = 0 then fseq.toNat else 0) <<< 6)
def frameKind (f : DataFrame) : Nat := bits f.header.toNat 19 18
def frameSeq (f : DataFrame) : BitVec 12 := BitVec.ofNat 12 (bits f.header.toNat 17 6)
/-- The decoder corrects a codeword of up to 15 symbol errors, and reports any other (R408). -/
def codewordBad (errors : Nat) : Bool := decide (15 < errors)

/-- The four words of a packet's header (R414); what the table leaves reserved is zero. -/
def packetHeader (p : Packet) : List W64 :=
  [w64 (p.ptype.toNat <<< 60 + p.vc.toNat <<< 57 + p.dst.toNat <<< 38 + p.src.toNat <<< 20 + p.dconn.toNat <<< 7 + p.hops.toNat),
   w64 (p.psn.toNat <<< 32 + p.cgen.toNat <<< 24 + p.len.toNat),
   w64 (b2n p.ord <<< 63 + p.space.toNat <<< 60 + p.die.toNat <<< 57 + p.aop.toNat <<< 53 + p.atype.toNat <<< 50 + p.addr.toNat),
   w64 (p.status.toNat <<< 48 + p.tag.toNat <<< 32 + p.slot.toNat <<< 26 + p.rank.toNat <<< 16)]

/-- CRC-32C of bytes in order: the Castagnoli polynomial, reflected, from and into all ones (PRESUMED, log entry 159). -/
def crc32c (bs : List Byte) : Nat :=
  let bit_ (c : Nat) : Nat := if c % 2 = 1 then (c / 2) ^^^ 0x82F63B78 else c / 2
  bs.foldl (fun c b => (List.range 8).foldl (fun c _ => bit_ c) (c ^^^ b.toNat)) 0xFFFFFFFF ^^^ 0xFFFFFFFF

/-- A packet's trailer (R416): the CRC over header and payload with VC and HOPS as zero. -/
def packetTrailer (p : Packet) : W64 :=
  w64 (crc32c ((packetHeader { p with vc := 0, hops := 0 }).flatMap (fun w => toBytes 8 w.toNat) ++ p.payload) <<< 32)

/-- The flits of a packet that do not fit in the frame that the transmitter is filling (R408). -/
def flitsBeyond (x : PortSt) (p : Packet) : Nat := pktFlits p - (if x.openFlits = 0 then 0 else 10 - x.openFlits)

/-- A packet's flits enter data frames, ten to a frame, after those of the packet before it; it is whole at the receiver with the frame
that holds its last flit (DEDUCED, log entry 79; that a frame takes flits until it is full or acknowledged is a DESIGN CHOICE, log
entry 158). -/
def packFlits (x : PortSt) (p : Packet) : PortSt :=
  let rest := flitsBeyond x p
  let fresh := (List.range (cdiv rest 10)).map fun i => (⟨frameHeader 0 (x.txSeq + BitVec.ofNat 12 i), 0, []⟩ : DataFrame)
  let fs := x.replay ++ fresh
  { x with replay := fs.modify (fs.length - 1) fun f => { f with packets := f.packets ++ [p] }
           txSeq := x.txSeq + BitVec.ofNat 12 fresh.length
           openFlits := (if rest = 0 then x.openFlits + pktFlits p else rest) % 10 }

/-- The packet that the transmitter starts next: class 3 first, then the other VCs round robin (R418). -/
def nextPacket (x : PortSt) : Option Queued :=
  let first (v : Nat) : Option Queued :=
    (x.queue.find? fun q => q.pkt.vc.toNat == v).filter fun q =>
      decide (pktFlits q.pkt ≤ creditsFor x v) && decide (x.replay.length + cdiv (flitsBeyond x q.pkt) 10 ≤ 1024)
  ([6, 7] ++ (List.range 6).map fun i => (x.lastVc + 1 + i) % 6).findSome? first

/-- Starts every packet that credits and the replay buffer allow (R410, R418). -/
def pumpPort : Nat → State → Nat → State
  | 0, s, _ => s
  | n + 1, s, p =>
    if portSt s p ≠ pActive then s
    else
      let x := port s p
      match nextPacket x with
      | none => s
      | some q =>
        let pk := q.pkt
        let x := packFlits { x with queue := x.queue.erase q, lastVc := if pk.vc.toNat < 6 then pk.vc.toNat else x.lastVc } pk
        let x := takeCredits x pk.vc.toNat (pktFlits pk)
        pumpPort n (portCount (setPort s p x) .fabTxFlits p (pktFlits pk)) p

def pumpPortAll (s : State) (p : Nat) : State := pumpPort (port s p).queue.length s p

/-- A packet is routed to a port (R413): it wakes one in keep-alive; a POWER packet is discarded there. -/
def portAccept (s : State) (p : Nat) (q : Queued) : State :=
  let st := portSt s p
  if q.pkt.ptype = 6 ∧ (st = pKeepalive ∨ st = pWaking) then s
  else
    let x := port s p
    let s := setPort s p { x with queue := x.queue ++ [q] }
    pumpPortAll (if st = pKeepalive then setPortF s p 3 0 pWaking else s) p

/-! ### Routing (R419, R420) -/

inductive Routed where
  | here
  | out (port : Nat) (pk : Packet)
  | drop (code : Nat)

def nodeOf (s : State) (die : Nat) : Nat := rf s .fabNode die 0 0 17 0

/-- The live candidates of a destination, in listed order, and the entry's LVL; none where no route exists. -/
def routeTo (s : State) (die dst : Nat) : List Nat × Nat :=
  let node := nodeOf s die
  let e := if dst / 512 ≠ node / 512 then rget s .fabGroupRt die 0 (dst / 512) else rget s .fabMemberRt die 0 (dst % 512)
  let n := bits e 62 60
  if !bit e 63 || n == 0 || decide (4 < n) then ([], 0)
  else
    (((List.range n).map fun i => bits e (4 * i + 3) (4 * i)).filter fun p =>
      portSt s p == pActive || portSt s p == pKeepalive || portSt s p == pWaking, bits e 59 58)

/-- Where a packet goes (R420): one that this module sends (`own`) leaves at level 0, and LVL acts on it from the next hop on
(R417). -/
def routeOf (s : State) (die : Nat) (own : Bool) (p : Packet) : Routed :=
  if p.dst.toNat = nodeOf s die then .here
  else if p.hops = 63 then .drop 0xB02
  else
    let (live, lvl) := routeTo s die p.dst.toNat
    if live.isEmpty then .drop 0xB01
    else
      let h := p.src.toNat ^^^ p.dst.toNat ^^^ p.dconn.toNat
      let port := nth live (((h / 512) ^^^ (h % 512)) % live.length)
      let level := if own then 0 else if lvl = 1 then 1 else if lvl = 2 then 0 else p.vc.toNat % 2
      .out port { p with hops := p.hops + 1, vc := BitVec.ofNat 3 (pktClass p * 2 + level) }

/-- A packet is delivered to this module; one other than POWER ends deep idle (R507). -/
def deliver (s : State) (inPort : Nat) (p : Packet) : State :=
  let s := { s with delivered := s.delivered ++ [(inPort, p)] }
  if p.ptype = 6 then s else deepIdleExit s

/-- A packet that came in on a port, or that this module sends (port 16), goes on its way: the code of its discard, which counts
at port `seen`, 16 where no port has had it (DESIGN CHOICE, log entry 137). A lost POWER packet is not reported (R433). -/
def forwardFrom (s : State) (die inPort seen : Nat) (p : Packet) : Nat × State :=
  match routeOf s die (inPort == 16) p with
  | .here => (0, deliver s inPort p)
  | .out q pk => (0, portAccept s q ⟨inPort, p, pk⟩)
  | .drop code =>
    let s := portCount s .fabDiscards seen 1
    (code, if p.ptype = 6 then s else report s code die 0 (seen % 16) 0)
def forward (s : State) (die inPort : Nat) (p : Packet) : Nat × State := forwardFrom s die inPort inPort p

/-! ### Connections (R421-R424) -/

def connDie (c : Nat) : Nat := 10 + c / 2048
def connF (s : State) (c hi lo : Nat) : Nat := rf s .fabConn (connDie c) 0 (c % 2048) hi lo
def setConnF (s : State) (c hi lo v : Nat) : State := rfset s .fabConn (connDie c) 0 (c % 2048) hi lo v
def conn (s : State) (c : Nat) : Conn := mget Conn.reset s.conns c
def setConn (s : State) (c : Nat) (v : Conn) : State := { s with conns := mput Conn.reset s.conns c v }
def connSeqF (s : State) (c hi lo : Nat) : Nat := rf s .fabConnSeq (connDie c) 0 (c % 2048) hi lo
def setConnSeqF (s : State) (c hi lo v : Nat) : State := rfset s .fabConnSeq (connDie c) 0 (c % 2048) hi lo v
def connCtx (s : State) (c : Nat) : Nat := connF s c 60 55

/-- The code of an operation that names a connection (R422). -/
def connCode (s : State) (c ctx : Nat) : Nat :=
  if connF s c 63 63 = 0 ∨ connF s c 62 61 = 2 then 0xB04 else if connCtx s c ≠ ctx then 0xB05 else 0

/-- The partner of a connection has a route (R429). -/
def connRouted (s : State) (c : Nat) : Bool :=
  connF s c 35 18 == nodeOf s (connDie c) || !(routeTo s (connDie c) (connF s c 35 18)).1.isEmpty

/-- Reads the local source of a request again (R424): code, bytes. -/
def readSource (s : State) (c : Nat) (r : OutReq) : Nat × List Byte × State :=
  let n := r.pkt.payload.length
  match r.owner with
  | none => (0, r.pkt.payload, s)
  | some w =>
    let desc := takenAt s w.k w.key w.slot
    let home := desc.any fun t => bit (wd t.words 0) 47
    match (if (r.pkt.ptype = 1 ∨ r.pkt.ptype = 4 ∨ r.pkt.ptype = 5) ∧ n ≠ 0 then r.lspace else 7) with
    | 2 =>
      match desc with
      | none => (0, r.pkt.payload, s)
      | some t =>
        let (bs, e) := Eng.putData ⟨s, ⟨w.k, 65536 + w.key, t.ctx, home⟩, 0, 0, false, [], []⟩ t.words
        (e.code, (bs.drop r.pkt.addr.toNat).take n, e.s)
    | 0 =>
      engRead s ⟨w.k, 65536 + w.key, connCtx s c, home⟩ r.laddr n
    | 1 =>
      let code := apertureCode s r.ldie (some (connCtx s c)) r.laddr n
      if code ≠ 0 then (code, [], s) else let x := grtRead s r.ldie r.laddr n
                                          (x.1, x.2, drpSeen s r.ldie r.laddr n true)
    | _ => (0, r.pkt.payload, s)

/-- A request that has not been sent belongs to the same destination as a part. -/
def unsentFor (w : Part) (r : OutReq) : Bool :=
  r.sends == 0 && match r.owner with
    | some v => v.k == w.k && v.key == w.key && v.slot == w.slot && partDest v.part == partDest w.part
    | none => false

/-- The packets of a destination that have not been sent are dropped, with the code of its failure. -/
def dropUnsent (s : State) (c : Nat) (w : Part) (code : Nat) : State :=
  let x := conn s c
  (x.out.filter (unsentFor w)).foldl (fun s r => match r.owner with | some v => partAnswer s v code | none => s)
    (setConn s c { x with out := x.out.filter fun r => !unsentFor w r })

/-- The operation of a request ends at once with a code: what it has not sent is dropped, and answers that still come find no owner
(R420). -/
def opEnds (s : State) (w : Part) (code : Nat) : State :=
  let mine (r : OutReq) : Bool := r.owner.any fun v => v.k == w.k && v.key == w.key && v.slot == w.slot
  let s := s.conns.foldl (fun s e => setConn s e.1 { e.2 with
    out := (e.2.out.filter fun r => !(mine r && r.sends == 0)).map fun r => if mine r then { r with owner := none } else r }) s
  takenMod s w.k w.key w.slot fun t => { t with result := some (code, 0), waiting := [] }

/-- A request of connection c is discarded in this module: its operation ends (R420), but a SEND loses only the destination (R230) and
an A2A only the connection (R432). -/
def requestLost (s : State) (c : Nat) (w : Part) (code : Nat) : State :=
  match takenAt s w.k w.key w.slot with
  | none => s
  | some t =>
    if isA2A w.key t then partAnswer s w code
    else if w.key < 32 ∧ t.engine = 6 then dropUnsent (partAnswer s w code) c w code
    else opEnds s w code

/-- A request goes out: the packet is routed. The code of a discard here, which leaves the request without an owner (DESIGN CHOICE, log
entry 137). -/
def launch (s : State) (c : Nat) (r : OutReq) : OutReq × Nat × State :=
  let (code, s) := forward s (connDie c) 16 r.pkt
  ({ r with sends := r.sends + 1, owner := if code = 0 then r.owner else none }, code, s)

/-- Puts the request in the place of what it was, and acts on a discard. -/
def launched (s : State) (c : Nat) (old new : OutReq) (code : Nat) : State :=
  let x := conn s c
  let s := setConn s c { x with out := x.out.set (x.out.idxOf old) new }
  match old.owner with
  | some w => if code = 0 then s else requestLost s c w code
  | none => s

/-- A packet of this module is discarded here after it has waited at a port (R420). -/
def discardOwn (s : State) (pk : Packet) (code : Nat) : State :=
  match s.conns.findSome? fun e => (e.2.out.find? fun r => r.sends != 0 && r.pkt == pk).map fun r => (e.1, r) with
  | some (c, r) => launched s c r { r with owner := none } code
  | none => s

/-- A port goes DOWN (R411): what it had started is lost, and what it had queued is routed again from where it came.
PORT_TRAIN_RETRY trains it again (DESIGN CHOICE, log entry 80). -/
def portGoesDown (s : State) (p code : Nat) : State :=
  let x := port s p
  let s := setPort s p { PortSt.reset with rx := x.rx }
  let s := setPortF (setPortF (setPortF s p 3 0 pDown) p 7 4 0) p 63 48 code
  let s := report s code (portDie p) 1 p 0
  x.queue.foldl (fun s q =>
    let (c, s) := forwardFrom s (portDie p) q.inPort (if q.inPort = 16 then p else q.inPort) q.came
    if c ≠ 0 ∧ q.inPort = 16 then discardOwn s q.came c else s) s

/-- Requests in flight that an L-die tracks (R429). -/
def inFlight (s : State) (die : Nat) : Nat :=
  (s.conns.filter fun e => connDie e.1 == die).foldl (fun n e => n + (e.2.out.filter fun r => r.sends != 0).length) 0

/-- An A2A operation sends its segments in list order (R432): none of an earlier entry waits to be sent on another connection. -/
def inTurn (s : State) (r : OutReq) : Bool :=
  match r.owner with
  | none => true
  | some w =>
    if (takenAt s w.k w.key w.slot).any (isA2A w.key) && !isRecord w.part then
      !s.conns.any fun e => e.2.out.any fun y => y.sends == 0 && y.owner.any fun v =>
        v.k == w.k && v.key == w.key && v.slot == w.slot && !isRecord v.part && decide (segOrder v.part < segOrder w.part)
    else true

/-- The next request to send: on a connection that does not wait out an RX_FULL, of an L-die with a free tracking entry. -/
def nextUnsent (s : State) : Option (Nat × OutReq) :=
  let room := ([10, 11, 12, 13] : List Nat).filter fun die => decide (inFlight s die < 16384)
  s.conns.findSome? fun e =>
    if room.contains (connDie e.1) && !e.2.out.any (·.rxWait) then
      ((e.2.out.find? fun r => r.sends == 0).filter (inTurn s)).map fun r => (e.1, r)
    else none

/-- Sends what has not been sent, while tracking entries are free: a request takes its PSN when it is first sent. A source that
cannot be read completes its operation, and the packets that it has not sent are dropped (R429). -/
def pumpConns : Nat → State → State
  | 0, s => s
  | n + 1, s =>
    match nextUnsent s with
    | none => s
    | some (c, r) =>
      let (code, bs, s) := readSource s c r
      if code ≠ 0 then
        match r.owner with
        | none => s
        | some w => pumpConns n (dropUnsent s c w code)
      else
        let psn := connSeqF s c 63 32
        let s := setConnSeqF s c 63 32 ((psn + 1) % 2 ^ 32)
        let (r', code, s) := launch s c { r with pkt := { r.pkt with payload := bs, psn := BitVec.ofNat 32 psn } }
        pumpConns n (launched s c r r' code)

def unsentCount (s : State) : Nat := s.conns.foldl (fun n e => n + (e.2.out.filter fun r => r.sends == 0).length) 0
def pumpAll (s : State) : State := pumpConns (unsentCount s) s

/-- The packet of a request on a connection (R414, R415): class 2 where BULK is set or for a CONTRIB, else class 0. -/
def reqPacket (s : State) (c ty : Nat) : Packet :=
  { ptype := BitVec.ofNat 4 ty, vc := if ty = 5 ∨ connF s c 4 4 = 1 then 4 else 0, dst := BitVec.ofNat 18 (connF s c 35 18),
    src := BitVec.ofNat 18 (nodeOf s (connDie c)), dconn := BitVec.ofNat 13 (connF s c 17 5), hops := 0, psn := 0,
    cgen := BitVec.ofNat 8 (connF s c 54 47), len := 0, ord := false, space := 0, die := 0, aop := 0, atype := 0, addr := 0,
    status := 0, tag := 0, slot := 0, rank := 0, payload := [] }

/-- Queues requests on a connection and sends what can be sent. -/
def sendAll (s : State) (c : Nat) (rs : List OutReq) : State :=
  let x := conn s c
  pumpAll (setConn s c { x with out := x.out ++ rs })

/-- A connection enters ERROR (R424): what caused it completes with `cause`, every other operation with `rest`. -/
def connError (s : State) (c : Nat) (which : Option (BitVec 32)) (cause rest : Nat) : State :=
  let out := (conn s c).out
  let s := setConnF (setConn s c { conn s c with out := [] }) c 62 61 2
  out.foldl (fun s r =>
    match r.owner with
    | none => s
    | some w => partAnswer s w (if r.sends ≠ 0 ∧ which = some r.pkt.psn then cause else rest)) s

/-- Sends again every unanswered request from the given one on, in order, up to one that waits out an RX_FULL (R424). What cannot be
read again ends what its operation has not sent. -/
def resendFrom (s : State) (c : Nat) (p : OutReq → Bool) : State :=
  let x := conn s c
  let stop := x.out.takeWhile fun r => !r.rxWait
  let sel := (stop.dropWhile fun r => !p r).filter fun r => r.sends != 0
  sel.foldl (fun s r =>
    let (src, bs, s) := readSource s c r
    let (r', code, s) := launch s c (if src = 0 then { r with pkt := { r.pkt with payload := bs } } else { r with owner := none })
    let s := launched s c r r' code
    match r.owner with
    | some w => if src ≠ 0 ∧ code = 0 then dropUnsent (partAnswer s w src) c w src else s
    | none => s) s

/-- A request is answered: its part gets the code. A failure of a Grotto queue's part keeps from its destination what has not
been sent there (R230). -/
def answered (s : State) (c : Nat) (r : OutReq) (code : Nat) : State :=
  let x := conn s c
  let s := setConn s c { x with out := x.out.erase r }
  match r.owner with
  | none => s
  | some w =>
    let s := partAnswer s w code
    if code = 0 ∨ 32 ≤ w.key then s else dropUnsent s c w code

end Sys2Proof.Machine
end

