-- ==== Sys2Proof/Machine/Xfer.lean ====
section
/-!
DEFINITION. The transfer engines (R198-R200): COPY, FILL and PUT.
-/
namespace Sys2Proof.Machine

/-- A reserved space or field; SITE belongs to SLM only (DESIGN CHOICE, log entry 131). -/
def sideBad (w6 : Nat) : Bool := decide (2 < bits w6 63 61) || bits w6 60 55 != 0 || (bits w6 63 61 != 2 && bits w6 54 48 != 0)

def Side.area (d : Side) (es : Nat) (p : List Nat) : Area := ⟨d.sp, d.site, d.loc es p, d.loc es p + es⟩

/-- The run of a COPY or FILL over its points; a destination that overlaps a source is undefined (R199), and after a failure
the whole destination is (R200). -/
def xferRun (e : Eng) (src : Option Side) (pat : List Byte) (d : Side) (es : Nat) (ps : List (List Nat)) : Eng :=
  let dst (p : List Nat) := e.runs d.sp d.site (d.at_ es p) es .store
  let from_ (p : List Nat) := match src with | some x => e.runs x.sp x.site (x.at_ es p) es .load | none => []
  let same := src == some d
  let dsts := ps.flatMap dst
  let srcs := ps.flatMap from_
  let meet := !same && runsTouch srcs dsts
  let bad (p : List Nat) : Bool := meet && (runsTouch (from_ p) dsts || runsTouch (dst p) srcs)
  let r := ps.foldl (fun (r : Eng) p =>
    if r.code ≠ 0 then r
    else
      let (bs, r) := match src with | some x => r.read x.sp x.site (x.at_ es p) es | none => (pat, r)
      if r.code ≠ 0 then r
      else if bad p then r.free d.sp d.site (d.at_ es p) es
      else r.write d.sp d.site (d.at_ es p) bs) e
  if r.code ≠ 0 then ps.foldl (fun r p => r.free d.sp d.site (d.at_ es p) es) r else r

/-- The packets of a contribution over the fabric (R431): at most 4,096 bytes each, in ascending offset; `lspace` says whether their
bytes are read again when a packet is (R424). -/
def contribReqs (s : State) (c die slot rank : Nat) (data : List Byte) (lspace : Nat) (owner : Nat → Part) : List OutReq :=
  let n := Nat.max 1 (cdiv data.length 4096)
  (List.range n).map fun i =>
    let bs := (data.drop (4096 * i)).take 4096
    let pk := { reqPacket s c 5 with
      len := BitVec.ofNat 13 bs.length, die := BitVec.ofNat 3 die, addr := BitVec.ofNat 48 (4096 * i),
      slot := BitVec.ofNat 6 slot, rank := BitVec.ofNat 10 rank, payload := bs }
    { pkt := pk, owner := some (owner i), sends := 0, rxFull := 0, rxWait := false, lspace := lspace, ldie := 0, laddr := 0 }

/-- Starts a descriptor of a transfer engine. -/
def xferStart (e : Eng) (key dslot : Nat) (w : List W64) : Done × Eng :=
  let k := e.by_.k
  let f (i hi lo : Nat) : Nat := bits (wd w i) hi lo
  let op := f 0 63 56
  let es := 2 ^ f 13 2 0
  let ext := (List.range 4).map fun i => f 8 (16 * i + 15) (16 * i)
  let src := sideOf (wd w 6) (wd w 9) (wd w 10)
  let dst := sideOf (wd w 7) (wd w 11) (wd w 12)
  let zero (i : Nat) : Bool := wd w i == 0
  let bad := !(op == 1 || op == 2 || op == 3) || f 0 55 48 != 0 || f 13 63 3 != 0 || decide (4 < f 13 2 0)
    || (if op = 2 then !(zero 6 && zero 9 && zero 10) else sideBad (wd w 6) || !zero 14)
    || (if op = 3 then !(zero 7 && zero 11 && zero 12) else sideBad (wd w 7) || !zero 15)
    || (op == 3 && (decide (1 < f 15 63 62) || decide (5 < f 15 61 59) || (f 15 63 62 == 0 && f 15 58 46 != 0) || f 15 29 0 != 0))
  let ps := gridOf ext
  let sides := (if op = 2 then [] else [src]) ++ (if op = 3 then [] else [dst])
  let fab := op = 3 ∧ f 15 63 62 = 1
  let code :=
    if bad then 0x501
    else if sides.any fun d => d.addr % es != 0 then 0x502
    else
      let a := areaCode e.s k e.by_.ctx (sides.flatMap fun d => ps.map (d.area es))
      if a ≠ 0 then a else if fab then connCode e.s (f 15 58 46) e.by_.ctx else 0
  if code ≠ 0 then (.now code 0, e)
  else if op = 3 then
    let r := e.putData w
    let e := r.2
    if e.code ≠ 0 then (.now e.code 0, e)
    else
      let (data, s) := if e.spoil then freeBytes r.1.length e.s else (r.1, e.s)
      let part (i : Nat) : Part := ⟨k, key, dslot, partNo 0 (i + 1)⟩
      if fab then
        let c := f 15 58 46
        let rs := contribReqs s c (f 15 61 59) (f 15 45 40) (f 15 39 30) data (if e.spoil then 7 else 2) part
        (.later, { e with s := sendAll (expect s k key dslot ((List.range rs.length).map fun i => partNo 0 (i + 1))) c rs })
      else
        (.later, { e with s := contribute (expect s k key dslot [partNo 0 1]) (f 15 61 59) e.by_.ctx (f 15 45 40) (f 15 39 30) data (part 0) })
  else
    let pat := (toBytes 8 (wd w 14) ++ toBytes 8 (wd w 14)).take es
    let r := xferRun e (if op = 1 then some src else none) pat dst es ps
    (r.done 0, r)

end Sys2Proof.Machine
end

