-- ==== Sys2Proof/Machine/Compress.lean ====
section
/-!
DEFINITION. The compression engine (R201-R204): block-sparse and zero-elided streams, packed and unpacked.
-/
namespace Sys2Proof.Machine

/-! ### Block-sparse streams -/

/-- Element j of a row's packed elements (R124). -/
def bitElem (row : List Byte) (w j : Nat) : Nat := (ofBytes ((row.drop (w * j / 8)).take 4) >>> (w * j % 8)) % 2 ^ w
/-- A zero of either sign. -/
def isZero (f x : Nat) : Bool :=
  match mfRate f with
  | some .int => x == 0
  | _ => x % 2 ^ (mfWidth f - 1) == 0
/-- Packs elements of w bits (R124). -/
def packBits (w : Nat) (xs : List Nat) : List Byte :=
  toBytes (xs.length * w / 8) (xs.zipIdx.foldl (fun a x => a + x.1 <<< (w * x.2)) 0)

/-- The positions that a group of four keeps (R202); none where it has more than two nonzero values. -/
def keepTwo (f : Nat) (g : List Nat) : Option (Nat × Nat) :=
  let nz := (List.range 4).filter fun i => !isZero f (nth g i)
  let z := (List.range 4).filter fun i => isZero f (nth g i)
  match nz with
  | [] => some (0, 1)
  | [i] => let j := z.headD 0
           some (Nat.min i j, Nat.max i j)
  | [i, j] => some (i, j)
  | _ => none

/-- A row of a block: its stored elements or kept values, and its metadata word (R100, R202). -/
def packRow (h : BsHdr) (xs : List Nat) : Option (List Nat × Nat) :=
  if !h.sp then some (xs, 0)
  else
    (List.range 8).foldl (fun (acc : Option (List Nat × Nat)) g =>
      match acc, keepTwo h.format ((xs.drop (4 * g)).take 4) with
      | some (ks, m), some (i, j) => some (ks ++ [nth xs (4 * g + i), nth xs (4 * g + j)], m + (i + 4 * j) <<< (4 * g))
      | _, _ => none) (some ([], 0))

/-- A block from the dense rows of its panel and their scales: none where a group cannot be packed; no bytes where it is
absent. -/
def packBlock (h : BsHdr) (rows scales : List (List Byte)) (b : Nat) : Option (List Byte) :=
  let w := mfWidth h.format
  let rs := rows.map fun r => packRow h ((List.range 32).map fun e => bitElem r w (32 * b + e))
  if rs.any (·.isNone) then none
  else
    let rs := rs.map fun r => r.getD ([], 0)
    let sc := if h.mx then scales.map fun r => r.getD b 0 else []
    if rs.all (fun r => r.1.all (isZero h.format)) && !(sc.contains 0xFF) then some []
    else some (rs.flatMap (fun r => packBits w r.1) ++ (if h.sp then rs.flatMap fun r => toBytes 4 r.2 else []) ++ sc)

/-- A panel: its directory count and bytes. -/
def packPanel (h : BsHdr) (rows scales : List (List Byte)) : Option (Nat × List Byte) :=
  let bl := (List.range h.blocks).map (packBlock h rows scales)
  if bl.any (·.isNone) then none
  else
    let bl := bl.map fun b => b.getD []
    let map := bl.zipIdx.foldl (fun a x => a + b2n (!x.1.isEmpty) <<< x.2) 0
    some ((bl.filter fun b => !b.isEmpty).length, toBytes h.mapBytes map ++ bl.flatMap id)

/-- Pads with zero bytes to a multiple. -/
def padTo (n : Nat) (bs : List Byte) : List Byte := bs ++ List.replicate (cdiv bs.length n * n - bs.length) 0

/-- A whole stream. -/
def packStream (h : BsHdr) (rows scales : List (List Byte)) : Option (List Byte) :=
  let ps := (List.range h.panels).map fun p => packPanel h ((rows.drop (32 * p)).take 32) ((scales.drop (32 * p)).take 32)
  if ps.any (·.isNone) then none
  else
    let ps := ps.map fun p => p.getD (0, [])
    let first := cdiv (64 + 8 * h.panels) 32 * 32
    let dir := ps.foldl (fun (a : List W64 × Nat) p => (a.1 ++ [w64 (p.1 <<< 48 + a.2)], a.2 + p.2.length)) ([], first)
    some (padTo 32 (wordBytes ([w64 h.word] ++ List.replicate 7 0) ++ wordBytes dir.1) ++ ps.flatMap (·.2))

/-- The longest stream of a header. -/
def BsHdr.most (h : BsHdr) : Nat := cdiv (64 + 8 * h.panels) 32 * 32 + h.panels * (h.mapBytes + h.blocks * h.block)

/-- The rules of a stream's header (R202, R204). -/
def headOk (rd : Nat → Byte) (h : BsHdr) : Bool :=
  bits (rdNum rd 0 8) 63 56 == 1 && bits (rdNum rd 0 8) 49 48 == 0 && (List.range 7).all (fun i => rdNum rd (8 + 8 * i) 8 == 0) && h.legal

/-- The rules of its directory: offsets in order, and no panel beyond the stream's `len` bytes. -/
def dirOk (rd : Nat → Byte) (h : BsHdr) (len : Nat) : Bool :=
  (List.range h.panels).all fun p =>
    let d := bsDir rd p
    let prev := if p = 0 then 64 + 8 * h.panels - 1 else (bsDir rd (p - 1)).2
    d.2 % 32 == 0 && decide (prev < d.2) && decide (d.1 ≤ h.blocks) && decide (d.2 + h.mapBytes + d.1 * h.block ≤ len)

/-- The rule of its bitmaps: each has its panel's NBLK blocks. -/
def mapsOk (rd : Nat → Byte) (h : BsHdr) : Bool := (List.range h.panels).all fun p => (bsDir rd p).1 == bsBefore rd p h.blocks

/-- All of them, for a stream of `len` bytes. -/
def streamOk (rd : Nat → Byte) (h : BsHdr) (len : Nat) : Bool := headOk rd h && dirOk rd h len && mapsOk rd h

/-- A dense row of 32 elements from a block (R202): bit for bit, +0 where it is absent or a position is not kept. -/
def unpackRow (rd : Nat → Byte) (h : BsHdr) (p b i : Nat) : List Byte :=
  let w := mfWidth h.format
  if !bsPresent rd p b then List.replicate (4 * w) 0
  else if !h.sp then (List.range (4 * w)).map fun j => rd (bsBlockAt rd h p b + i * h.rowBytes + j)
  else
    packBits w ((List.range 32).map fun e =>
      let n := bsMeta rd h p b i (e / 4)
      if n % 4 = e % 4 then bsElem rd h p b i (e / 4 * 2)
      else if n / 4 = e % 4 then bsElem rd h p b i (e / 4 * 2 + 1)
      else 0)

/-! ### Zero-elided streams (R203) -/

/-- A chunk of up to 64 elements of n bytes. -/
def zeChunk (n : Nat) (xs : List Nat) : List Byte :=
  let m := xs.zipIdx.foldl (fun a x => a + b2n (x.1 != 0) <<< x.2) 0
  padTo 8 (toBytes 8 m ++ (xs.filter (· != 0)).flatMap (toBytes n))

/-- A stream of elements. -/
def zeStream (n esize : Nat) (xs : List Nat) : List Byte :=
  let chunks := (List.range (cdiv xs.length 64)).map fun i => zeChunk n ((xs.drop (64 * i)).take 64)
  let runs := cdiv xs.length 4096
  let base := 32 + cdiv (4 * runs) 32 * 32
  let offs := (List.range runs).map fun r => base + ((chunks.take (64 * r)).flatMap id).length
  padTo 32 (wordBytes [w64 (1 <<< 56 + esize <<< 54 + xs.length), 0, 0, 0] ++ padTo 32 (offs.flatMap fun o => toBytes 4 (o / 8))
    ++ chunks.flatMap id)

/-! ### The operations -/

/-- The stream's bytes, read as the structure names them. -/
def Eng.bytesOf (e : Eng) (d : Side) (off n : Nat) : Map Byte × Eng :=
  let (bs, e) := e.read d.sp d.site (d.addr + off) n
  (bytesFrom off bs, e)

/-- Checks a further part of a stream before it is read (R200). -/
def Eng.part (e : Eng) (d : Side) (off n : Nat) : Map Byte × Eng :=
  if e.code ≠ 0 then ([], e)
  else
    let c := areaCode e.s e.by_.k e.by_.ctx [Area.of d.sp d.site (d.addr + off) n]
    if c ≠ 0 then ([], e.fail c 0) else e.bytesOf d off n

/-- Reads the parts of a stream that its structure names, each after the checks of R204 on what names it: header, directory,
bitmaps, blocks (R201). A stream's end is that of the longest one with its header (DESIGN CHOICE, log entry 117). -/
def Eng.stream (e : Eng) (d : Side) (h : BsHdr) : Map Byte × Eng :=
  let parts (at_ : Nat → Nat × Nat) (m : Map Byte) (e : Eng) : Map Byte × Eng :=
    (List.range h.panels).foldl (fun (a : Map Byte × Eng) p =>
      let r := a.2.part d (at_ p).1 (at_ p).2
      (r.1.foldl (fun m x => mins m x.1 x.2) a.1, r.2)) (m, e)
  let look (m : Map Byte) (a : Nat) : Byte := mget 0 m a
  let check (ok : Bool) (e : Eng) : Eng := if ok then e else e.fail 0x508 0
  let (m, e) := e.part d 0 64
  let e := check (rdNum (look m) 0 8 == h.word && headOk (look m) h) e
  let (dir, e) := e.part d 64 (8 * h.panels)
  let m := m ++ dir
  let e := check (dirOk (look m) h h.most) e
  let panel (p : Nat) : Nat × Nat := bsDir (look m) p
  let (m, e) := parts (fun p => ((panel p).2, h.mapBytes)) m e
  let e := check (mapsOk (look m) h) e
  parts (fun p => ((panel p).2 + h.mapBytes, (panel p).1 * h.block)) m e

def isBs (op : Nat) : Bool := op == 0x10 || op == 0x11
def isPack (op : Nat) : Bool := op == 0x10 || op == 0x20

/-- The dense areas of a BS descriptor: its rows and, with MX, their scales. -/
def bsAreas (d : Side) (h : BsHdr) (stride scale : Nat) : List Area :=
  ((List.range h.rows).map fun i => Area.of d.sp d.site (d.addr + i * stride) (h.ktot * mfWidth h.format / 8))
  ++ if h.mx then (List.range h.rows).map fun i => Area.of d.sp d.site (scale + i * h.blocks) h.blocks else []

/-- BS.PACK. -/
def bsPack (e : Eng) (s d : Side) (h : BsHdr) (stride scale cap : Nat) : Nat × Eng :=
  let rd (a n : Nat → Nat) (e : Eng) : List (List Byte) × Eng :=
    (List.range h.rows).foldl (fun (r : List (List Byte) × Eng) i =>
      if r.2.code ≠ 0 then r
      else let x := r.2.read s.sp s.site (a i) (n i)
           (r.1 ++ [x.1], x.2)) ([], e)
  let (rows, e) := rd (fun i => s.addr + i * stride) (fun _ => h.ktot * mfWidth h.format / 8) e
  let (scales, e) := if h.mx then rd (fun i => scale + i * h.blocks) (fun _ => h.blocks) e else ([], e)
  let waste (e : Eng) : Eng := e.free d.sp d.site d.addr (Nat.min cap h.most)
  if e.code ≠ 0 then (0, waste e)
  else
    match packStream h rows scales with
    | none => (0, waste (e.fail 0x508 0))
    | some out =>
      if cap < out.length then (0, waste (e.fail 0x509 0))
      else
        let e := e.write d.sp d.site d.addr out
        (out.length / 32, if e.code ≠ 0 then waste e else e)

/-- BS.UNPACK. -/
def bsUnpack (e : Eng) (s d : Side) (h : BsHdr) (stride scale : Nat) : Nat × Eng :=
  let (m, e) := e.stream s h
  let rd (a : Nat) : Byte := mget 0 m a
  let nibbles : Bool := !h.sp || (List.range h.panels).all fun p => (List.range h.blocks).all fun b => (List.range 32).all fun i =>
    (List.range 8).all fun n => let x := bsMeta rd h p b i n
                                x % 4 != x / 4
  let e := if e.code = 0 ∧ !nibbles then e.fail 0x508 0 else e
  let e := if e.code ≠ 0 then e
    else (List.range h.rows).foldl (fun (e : Eng) i =>
      let row := (List.range h.blocks).flatMap fun b => unpackRow rd h (i / 32) b (i % 32)
      let e := e.write d.sp d.site (d.addr + i * stride) row
      if h.mx then
        e.write d.sp d.site (scale + i * h.blocks) ((List.range h.blocks).map fun b => BitVec.ofNat 8 (bsScale rd h (i / 32) b (i % 32)))
      else e) e
  (0, if e.code ≠ 0 then (bsAreas d h stride scale).foldl (fun e a => e.free a.sp a.site a.lo.toNat (a.hi - a.lo).toNat) e else e)

/-- ZE.PACK. -/
def zePack (e : Eng) (s d : Side) (esize n cnt cap : Nat) : Nat × Eng :=
  let most := 32 + cdiv (4 * cdiv cnt 4096) 32 * 32 + cdiv cnt 64 * (8 + 64 * n)
  let (bs, e) := e.read s.sp s.site s.addr (n * cnt)
  let waste (e : Eng) : Eng := e.free d.sp d.site d.addr (Nat.min cap most)
  if e.code ≠ 0 then (0, waste e)
  else
    let out := zeStream n esize ((List.range cnt).map fun i => elemAt bs n i)
    if cap < out.length then (0, waste (e.fail 0x509 0))
    else
      let e := e.write d.sp d.site d.addr out
      (out.length / 32, if e.code ≠ 0 then waste e else e)

/-- The elements of a run of a ZE stream, chunk by chunk: mask bits beyond COUNT have elements that are skipped (DESIGN CHOICE, log entry
155). -/
def zeRun (n : Nat) (d : Side) : Nat → Nat → Nat → Eng → List Byte × Eng
  | 0, _, _, e => ([], e)
  | c + 1, off, cnt, e =>
    if cnt = 0 ∨ e.code ≠ 0 then ([], e)
    else
      let (m, e) := e.part d off 8
      let mask := rdNum (fun a => mget 0 m a) off 8
      let here := Nat.min cnt 64
      let set := (List.range 64).filter fun i => bit mask i
      let (v, e) := e.part d (off + 8) (n * set.length)
      let one (i : Nat) : List Byte :=
        if bit mask i then (List.range n).map fun j => mget 0 v (off + 8 + n * (set.idxOf i) + j) else List.replicate n 0
      let (rest, e) := zeRun n d c (off + 8 + cdiv (n * set.length) 8 * 8) (cnt - here) e
      ((List.range here).flatMap one ++ rest, e)

/-- ZE.UNPACK. -/
def zeUnpack (e : Eng) (s d : Side) (esize n cnt : Nat) : Nat × Eng :=
  let (hd, e) := e.part s 0 32
  let rd (a : Nat) : Byte := mget 0 hd a
  let e := if e.code = 0 ∧ !(rdNum rd 0 8 == 1 <<< 56 + esize <<< 54 + cnt && rdNum rd 8 8 == 0 && rdNum rd 16 8 == 0 && rdNum rd 24 8 == 0)
    then e.fail 0x508 0 else e
  let runs := cdiv cnt 4096
  let (ix, e) := e.part s 32 (4 * runs)
  let (out, e) := (List.range runs).foldl (fun (a : List Byte × Eng) r =>
    let x := zeRun n s 64 (8 * rdNum (fun a => mget 0 ix a) (32 + 4 * r) 4) (Nat.min 4096 (cnt - 4096 * r)) a.2
    (a.1 ++ x.1, x.2)) ([], e)
  let e := if e.code ≠ 0 then e else e.write d.sp d.site d.addr out
  (0, if e.code ≠ 0 then e.free d.sp d.site d.addr (n * cnt) else e)

/-- Runs an operation; where its source and destination overlap the destination is undefined (R199). -/
def cmpRun (e : Eng) (f : Eng → Nat × Eng) : Nat × Eng :=
  let r := f e
  if runsTouch r.2.reads r.2.writes then f { e with spoil := true } else r

/-- Starts a descriptor of the compression engine (DESIGN CHOICE, log entry 132). -/
def cmpStart (e : Eng) (w : List W64) : Done × Eng :=
  let f (i hi lo : Nat) : Nat := bits (wd w i) hi lo
  let op := f 0 63 56
  let s := sideOf (wd w 6) 0 0
  let d := sideOf (wd w 7) 0 0
  let h : BsHdr := ⟨f 9 63 60, bit (wd w 9) 59, bit (wd w 9) 58, f 9 47 32, f 9 31 0⟩
  let esize := f 9 63 62
  let n := 2 ^ esize
  let cnt := f 9 47 0
  let stride := wd w 10
  let scale := wd w 11
  let cap := wd w 8
  let dense := if isPack op then s else d
  let bad := !(isBs op || op == 0x20 || op == 0x21) || f 0 55 48 != 0 || sideBad (wd w 6) || sideBad (wd w 7)
    || (List.range 4).any (fun i => wd w (12 + i) != 0)
    || (if isBs op then f 9 57 48 != 0 || !h.legal || (!h.mx && wd w 11 != 0)
        else decide (2 < esize) || f 9 61 48 != 0 || wd w 10 != 0 || wd w 11 != 0)
  let unit := if isBs op then Nat.max 1 (mfWidth h.format / 8) else n
  let areas :=
    (if isBs op then bsAreas dense h stride scale else [Area.of dense.sp dense.site dense.addr (n * cnt)])
    ++ if isPack op then [Area.of d.sp d.site d.addr cap] else [Area.of s.sp s.site s.addr (if isBs op then 64 else 32)]
  let code :=
    if bad then 0x501
    else if dense.addr % unit != 0 || (isBs op && stride % unit != 0) then 0x502
    else areaCode e.s e.by_.k e.by_.ctx areas
  if code ≠ 0 then (.now code 0, e)
  else if isBs op ∧ h.mx ∧ dense.sp = 0 ∧ !canonical scale then
    -- the scales' address does not translate (R200; the code is a DESIGN CHOICE, log entry 118): the rest of the destination is
    -- undefined
    let out := if isPack op then [Area.of d.sp d.site d.addr (Nat.min cap h.most)] else bsAreas dense { h with mx := false } stride 0
    let e := out.foldl (fun e a => e.free a.sp a.site a.lo.toNat (a.hi - a.lo).toNat) e
    ((e.fail 0xA07 scale).done 0, e.fail 0xA07 scale)
  else
    let (info, e) := cmpRun e fun e =>
      match op with
      | 0x10 => bsPack e s d h stride scale cap
      | 0x11 => bsUnpack e s d h stride scale
      | 0x20 => zePack e s d esize n cnt cap
      | _ => zeUnpack e s d esize n cnt
    (e.done info, e)

end Sys2Proof.Machine
end

