-- ==== Sys2Proof/Machine/Helictite.lean ====
section
/-!
DEFINITION. The Helictite engine (R215-R239): GATE, SEND, COMBINE, BIND and UNBIND.
-/
namespace Sys2Proof.Machine

/-! ### f32 arithmetic, rounded to nearest even -/

def f32add (a b : Nat) : Nat := fadd fmtF32 .rne a b
def f32sub (a b : Nat) : Nat := fsub fmtF32 .rne a b
def f32mul (a b : Nat) : Nat := fmul fmtF32 .rne a b
def f32div (a b : Nat) : Nat := fdiv fmtF32 .rne a b
def f32nan (a : Nat) : Bool := (fmtF32.dec a).isNan
/-- a is smaller than b; false with a NaN. -/
def f32lt (a b : Nat) : Bool := !f32nan a && !f32nan b && decide ((fmtF32.dec a).cmp (fmtF32.dec b) < 0)
def f32one : Nat := 0x3F800000
def f32inf : Nat := 0x7F800000
def f32ninf : Nat := 0xFF800000

/-- The score and row types: size and format. -/
def hlxSize (ty : Nat) : Nat := if ty = 0 then 4 else 2
def hlxFmt (ty : Nat) : Fmt := match ty with | 0 => fmtF32 | 2 => fmtF16 | _ => fmtBf16
def hlxTypeOk (ty : Nat) : Bool := ty == 0 || ty == 2 || ty == 3
/-- A value of such a type as f32, exactly. -/
def toF32 (ty x : Nat) : Nat := if ty = 0 then x else fmtF32.ofFV .rne ((hlxFmt ty).dec x)
def ofF32 (ty x : Nat) : Nat := (hlxFmt ty).ofFV .rne (fmtF32.dec x)

/-! ### GATE (R218-R223) -/

/-- A softmax over a set of experts in ascending order (R221): each expert with its value. -/
def softmax (s : Nat → Nat) (set : List Nat) : List (Nat × Nat) :=
  match set with
  | [] => []
  | e :: es =>
    let m := es.foldl (fun m i => if f32lt m (s i) then s i else m) (s e)
    let x := set.map fun i => fnExp (f32sub (s i) m)
    let sum := match x with | [] => 0 | v :: vs => vs.foldl f32add v
    set.zip (x.map fun v => f32div v sum)

/-- The logistic function, each step rounded. -/
def sigma (x : Nat) : Nat := f32div f32one (f32add f32one (fnExp (x ^^^ 2 ^ 31)))

/-- Value of an expert in a list. -/
def exVal (l : List (Nat × Nat)) (e : Nat) : Nat := match l.find? fun p => p.1 == e with | some p => p.2 | none => 0

/-- The n best of a list of experts: descending key, equal keys in ascending order. -/
def topBy (key : Nat → Nat) : Nat → List Nat → List Nat
  | 0, _ => []
  | n + 1, l =>
    match l with
    | [] => []
    | e :: es =>
      let b := es.foldl (fun b i => if f32lt (key b) (key i) then i else b) e
      b :: topBy key n (l.erase b)

/-- The choices of a token and their weights, from its scores and the biases (R220). -/
def gateToken (norm K : Nat) (sc bias : List Nat) : List (Nat × Nat) :=
  let all := List.range sc.length
  let s (e : Nat) : Nat := if (norm = 1 ∨ norm = 2) ∧ nth sc e = f32inf then 0x7F7FFFFF else nth sc e
  let ok := all.filter fun e => !f32nan (nth sc e) && nth sc e != f32ninf
  let p := if norm = 1 then softmax s ok else []
  let base (e : Nat) : Nat := match norm with | 1 => exVal p e | 3 => sigma (s e) | _ => s e
  let keys := ok.map fun e => (e, f32add (base e) (nth bias e))
  let sel := topBy (exVal keys) K ((keys.filter fun x => !f32nan x.2).map (·.1))
  let asc := all.filter fun e => sel.contains e
  match norm with
  | 2 => let q := softmax s asc
         sel.map fun e => (e, exVal q e)
  | 3 =>
    let sum := match asc with | [] => 0 | e :: es => es.foldl (fun a i => f32add a (sigma (s i))) (sigma (s e))
    sel.map fun e => (e, f32div (sigma (s e)) sum)
  | _ => sel.map fun e => (e, base e)

/-- A choice after capacity: token, choice, expert, weight, whether it is kept, and its slot (R222). -/
structure Placed where
  t : Nat
  c : Nat
  e : Nat
  w : Nat
  kept : Bool
  slot : Nat
deriving DecidableEq

/-- Assigns capacity in order; `kd` holds kept and demand by expert. -/
def gatePlace (cap : Nat) : List (Nat × Nat × Nat × Nat) → Map (Nat × Nat) → List Placed × Map (Nat × Nat)
  | [], kd => ([], kd)
  | (t, c, e, w) :: rest, kd =>
    let (k, d) := mget (0, 0) kd e
    let keep := decide (k < cap)
    let (ps, kd) := gatePlace cap rest (mins kd e (if keep then k + 1 else k, d + 1))
    (⟨t, c, e, w, keep, if keep then k else d⟩ :: ps, kd)

/-- The non-empty choices in token order or, with DROPORD, first choices first. -/
def gateOrder (dropord : Bool) (K : Nat) (ch : List (List (Nat × Nat))) : List (Nat × Nat × Nat × Nat) :=
  let one (t c : Nat) : List (Nat × Nat × Nat × Nat) :=
    match (ch.getD t [])[c]? with
    | some x => [(t, c, x.1, x.2)]
    | none => []
  if dropord then (List.range K).flatMap fun c => (List.range ch.length).flatMap fun t => one t c
  else (List.range ch.length).flatMap fun t => (List.range K).flatMap fun c => one t c

/-- Reads n numbers of a size at a stride. -/
def Eng.nums (e : Eng) (a size n : Nat) : List Nat × Eng :=
  let (bs, e) := e.read 1 0 a (size * n)
  ((List.range n).map fun i => elemAt bs size i, e)

def gateRun (e : Eng) (w : List W64) : Nat × Eng :=
  let f (i hi lo : Nat) : Nat := bits (wd w i) hi lo
  let sub := f 0 55 48
  let ty := f 6 63 59
  let E := f 8 26 16
  let T := f 8 47 32
  let K := f 8 5 0
  let cap := f 8 63 48
  let (bias, e) := if bit sub 2 then e.nums (f 7 31 0) 4 E else ([], e)
  let (ch, e) := (List.range T).foldl (fun (r : List (List (Nat × Nat)) × Eng) t =>
    let (sc, e) := r.2.nums (f 6 31 0 + t * f 7 63 32) (hlxSize ty) E
    (r.1 ++ [gateToken (sub % 4) K (sc.map (toF32 ty)) bias], e)) ([], e)
  let (ps, kd) := gatePlace cap (gateOrder (bit sub 3) K ch) []
  let find (t c : Nat) : Option Placed := ps.find? fun p => p.t == t && p.c == c
  let route := (List.range T).flatMap fun t => (List.range K).map fun c =>
    match find t c with
    | none => (0 : W64)
    | some p => w64 (p.w <<< 32 + (if p.kept then 1 else 2) <<< 30 + p.e <<< 16 + p.slot % 65536)
  let dropped := (ps.filter fun p => !p.kept).length
  let counts := (List.range E).map fun x => let v := mget (0, 0) kd x
                                            w64 (v.2 <<< 32 + v.1)
  let free := e.code ≠ 0
  let put (e : Eng) (a : Nat) (bs : List Byte) : Eng := if free then e.free 1 0 a bs.length else e.write 1 0 a bs
  let e := put e (f 9 31 0) (wordBytes route)
  let e := if free then e.free 1 0 (f 9 63 32) (4 * E * cap) else
    ps.foldl (fun e p => if p.kept then e.write 1 0 (f 9 63 32 + (p.e * cap + p.slot) * 4) (toBytes 4 (p.c <<< 16 + p.t)) else e) e
  let e := put e (f 10 31 0) (wordBytes (counts ++ [w64 ((T * K - ps.length) <<< 32 + dropped)]))
  (dropped, if free then e else { e with s := count e.s .hlxDrops e.by_.k 0 0 dropped })

def gateStart (e : Eng) (w : List W64) : Done × Eng :=
  let f (i hi lo : Nat) : Nat := bits (wd w i) hi lo
  let ty := f 6 63 59
  let E := f 8 26 16
  let T := f 8 47 32
  let K := f 8 5 0
  let cap := f 8 63 48
  let size := hlxSize ty
  let bad := f 0 55 52 != 0 || f 6 58 32 != 0 || f 8 31 27 != 0 || f 8 15 6 != 0 || f 10 63 32 != 0
    || (List.range 5).any fun i => wd w (11 + i) != 0
  let shape := !hlxTypeOk ty || f 7 63 32 % size != 0 || decide (f 7 63 32 < E * size) || cap == 0 || T == 0 || E == 0 || decide (1024 < E)
    || K == 0 || decide (32 < K) || decide (E < K)
  let areas := (List.range T).map (fun t => Area.of 1 0 (f 6 31 0 + t * f 7 63 32) (E * size))
    ++ (if f 0 50 50 = 1 then [Area.of 1 0 (f 7 31 0) (4 * E)] else [])
    ++ [Area.of 1 0 (f 9 63 32) (4 * E * cap), Area.of 1 0 (f 9 31 0) (8 * T * K), Area.of 1 0 (f 10 31 0) (8 * (E + 1))]
  let code :=
    if bad then 0x501
    else if shape then 0x601
    else if [f 7 31 0, f 9 63 32, f 9 31 0, f 10 31 0].any (· % 8 != 0) ∨ f 6 31 0 % size ≠ 0 then 0x502
    else areaCode e.s e.by_.k e.by_.ctx areas
  if code ≠ 0 then (.now code 0, e)
  else
    let (info, e) := cmpRun e fun e => gateRun e w
    (e.done info, e)

/-! ### Tables (R224) -/

/-- A destination's entry. -/
structure Dest where
  kind : Nat
  die : Nat
  conn : Nat
  slot : Nat
  rank : Nat
  nloc : Nat
  lstride : Nat
  wbase : Nat
  llstride : Nat
  lbase : Nat
  crec : Nat
  bad : Bool

def destOf (ws : List W64) : Dest :=
  let f (i hi lo : Nat) : Nat := bits (wd ws i) hi lo
  ⟨f 0 63 62, f 0 61 59, f 0 58 46, f 0 45 40, f 0 39 30, f 0 29 19, f 1 63 32, f 1 31 0, f 2 63 32, f 2 31 0, f 3 31 0,
   decide (1 < f 0 63 62) || f 0 18 0 != 0 || f 3 63 32 != 0 || (f 0 63 62 == 0 && f 0 58 46 != 0)⟩

/-- E_HLX_SHAPE of an entry: NLOC or DIE outside its range, a window smaller than CAP rows. -/
def Dest.shape (d : Dest) (cap rowb : Nat) : Bool :=
  d.nloc == 0 || decide (1024 < d.nloc) || decide (5 < d.die) || decide (d.lstride < cap * rowb) || decide (d.llstride < cap * rowb)

/-- The tables as a descriptor reads them: destinations, and DEST and LOCAL by expert with its reserved bits. -/
def Eng.tables (e : Eng) (dtab ndest emap E : Nat) : List Dest × List (Nat × Nat × Nat) × Eng :=
  let (bs, e) := e.read 1 0 dtab (32 * ndest)
  let ds := (List.range ndest).map fun d => destOf (toWords 4 (bs.drop (32 * d)))
  let (es, e) := e.nums emap 4 E
  (ds, es.map fun x => (bits x 31 24, bits x 9 0, bits x 23 10), e)

/-- E_HLX_MAP (R226). -/
def mapBad (ds : List Dest) (es : List (Nat × Nat × Nat)) : Bool :=
  ds.any (·.bad)
  || es.any (fun x => match ds[x.1]? with | none => true | some d => decide (d.nloc ≤ x.2.1) || x.2.2 != 0)
  || !decide (es.map fun x => (x.1, x.2.1)).Nodup

/-- The expert of a destination's local index. -/
def expertAt (es : List (Nat × Nat × Nat)) (d l : Nat) : Option Nat := (es.findIdx? fun x => x.1 == d && x.2.1 == l)

/-! ### SEND (R225-R231) -/

/-- A row that a SEND moves: its local offset and its far offset. -/
abbrev Row := Nat × Nat

/-- What SEND serves at a destination: its rows in order and the counts of its record. -/
structure Service where
  d : Dest
  rows : List Row
  counts : List Nat

/-- The record of a destination (R227): counts as u32, padded to a multiple of 8 bytes. -/
def recordOf (cs : List Nat) : List Byte := padTo 8 (cs.flatMap (toBytes 4))

/-- The requests of a row over the fabric: Grotto writes of at most 4,096 bytes. -/
def rowReqs (s : State) (d : Dest) (k rowb : Nat) (r : Row) (owner : Nat → Part) : List OutReq :=
  (List.range (cdiv rowb 4096)).map fun i =>
    let n := Nat.min 4096 (rowb - 4096 * i)
    let pk := { reqPacket s d.conn 1 with
      len := BitVec.ofNat 13 n, space := 1, die := BitVec.ofNat 3 d.die, addr := BitVec.ofNat 48 (r.2 + 4096 * i),
      payload := List.replicate n 0 }
    { pkt := pk, owner := some (owner i), sends := 0, rxFull := 0, rxWait := false, lspace := 1, ldie := k, laddr := r.1 + 4096 * i }

/-- Writes the rows of a destination in this module through its aperture (R229): rows written, and the first failure, after
which no further row goes there (R230). -/
def sendLocal (e : Eng) (d : Dest) (rowb : Nat) : List Row → Nat → Nat × Nat × Eng
  | [], n => (n, 0, e)
  | r :: rs, n =>
    let (bs, e1) := e.read 1 0 r.1 rowb
    let code :=
      if e1.code ≠ 0 then e1.code
      else if !dieActive e1.s d.die then 0xD80
      else if grtEnd < r.2 + rowb then 0x503
      else if !grtOwned e1.s d.die e.by_.ctx r.2 rowb then 0x504
      else 0
    if code ≠ 0 then (n, code, { e1 with code := e.code })
    else
      let (bs, s) := if e1.spoil then freeBytes rowb e1.s else (bs, e1.s)
      sendLocal { e1 with s := grtPut s d.die r.2 bs true, writes := (0, apertureOf d.die r.2, rowb) :: e1.writes } d rowb rs (n + 1)

/-- Serves the destinations in ascending order (R227, R228). -/
def sendRun (e : Eng) (key dslot rowb : Nat) (sv : List Service) : Eng :=
  let k := e.by_.k
  let put (s : State) (x : SendDest) : State := let q := queue s k key
                                                setQueue s k key { q with sends := q.sends ++ [x] }
  sv.zipIdx.foldl (fun (e : Eng) x =>
    let d := x.1.d
    let new : SendDest := ⟨dslot, x.2, d.kind, d.die, d.conn, d.slot, d.rank, some (recordOf x.1.counts), [], 0, 0, false, false⟩
    if d.kind = 0 then
      let (n, code, e) := sendLocal e d rowb x.1.rows 0
      { e with s := count (put e.s { new with rowsOk := n, failed := code }) .hlxRows k 0 0 n }
    else
      let rs := x.1.rows.zipIdx.flatMap fun r => rowReqs e.s d k rowb r.1 fun i => ⟨k, key, dslot, rowPart x.2 (r.2 + 1) i⟩
      let left := rs.filterMap fun r => r.owner.map (·.part)
      { e with
        s := sendAll (put e.s { new with left := left }) d.conn rs,
        reads := (x.1.rows.map fun r => (0, apertureOf k r.1, rowb)) ++ e.reads }) e

/-- An operation that stops at once with a code. -/
def stopEng (c : Nat) (e : Eng) : Done × Eng := (.now c 0, { e with code := 0 })

/-- The rows of a SEND or of a return, in the order in which its destinations are served, with the counts of each (R227, R228). -/
def sendPlan (ret : Bool) (w : List W64) (ds : List Dest) (es : List (Nat × Nat × Nat)) (cnt : List Nat) (vals : List (List Nat)) :
    List Service :=
  let f (i hi lo : Nat) : Nat := bits (wd w i) hi lo
  let rowb := f 6 63 32
  let v (i j : Nat) : Nat := nth (vals.getD i []) j
  ds.zipIdx.map fun x =>
    let d := x.1
    let cs := (List.range d.nloc).map fun l =>
      if ret then v x.2 l else match expertAt es x.2 l with | some ex => nth cnt ex % 2 ^ 32 | none => 0
    let row (l j : Nat) : Row :=
      (if ret then d.lbase + l * d.llstride + j * rowb
       else match expertAt es x.2 l with | some ex => f 6 31 0 + bits (v ex j) 15 0 * f 7 63 32 | none => 0,
       d.wbase + l * d.lstride + j * rowb)
    ⟨d, (List.range d.nloc).flatMap fun l => (List.range (nth cs l)).map (row l), cs⟩

/-- Reads a SEND's counts, dispatch entries or received records, makes the checks that rest on them, and starts it (R227, R228). -/
def sendTake (e : Eng) (key dslot : Nat) (ret : Bool) (E : Nat) (w : List W64) (ds : List Dest) (es : List (Nat × Nat × Nat))
    (cnt : List Nat) : Done × Eng :=
  let f (i hi lo : Nat) : Nat := bits (wd w i) hi lo
  let k := e.by_.k
  let ctx := e.by_.ctx
  let cap := f 8 63 48
  let rowb := f 6 63 32
  let lists := if ret then ds.map fun d => Area.of 1 0 d.crec (4 * d.nloc)
    else (List.range E).map fun x => Area.of 1 0 (f 7 31 0 + x * cap * 4) (4 * (nth cnt x % 2 ^ 32))
  let lc := areaCode e.s k ctx lists
  if lc ≠ 0 then stopEng lc e
  else
    let (vals, e1) := lists.foldl (fun (r : List (List Nat) × Eng) a =>
      let (v, e) := r.2.nums a.lo.toNat 4 ((a.hi - a.lo).toNat / 4)
      (r.1 ++ [v], e)) ([], e)
    if e1.code ≠ 0 then stopEng e1.code e1
    else if vals.any fun l => l.any fun x => if ret then decide (cap < x) else bits x 31 21 != 0 then stopEng 0x603 e1
    else
      let sv := sendPlan ret w ds es cnt vals
      let ac := areaCode e1.s k ctx (sv.flatMap fun x => x.rows.map fun r => Area.of 1 0 r.1 rowb)
      let cc := (ds.filter fun d => d.kind == 1).foldl (fun c d => if c = 0 then connCode e1.s d.conn ctx else c) 0
      if ac ≠ 0 then stopEng ac e1
      else if cc ≠ 0 then stopEng cc e1
      else (.later, sendRun e1 key dslot rowb sv)

/-- A destination whose rows are all written gets its record (R229). -/
def sendRecord (s : State) (k key : Nat) (d : SendDest) : State :=
  match d.record with
  | none => s
  | some bs =>
    let p := partNo d.dest 0
    let s := destMod s k key d.desc d.dest fun d => { d with sent := true, left := [p] }
    let owner : Part := ⟨k, key, d.desc, p⟩
    if d.kind = 0 then
      match takenAt s k key d.desc with
      | none => s
      | some t => contribute s d.die t.ctx d.slot d.rank bs owner
    else sendAll s d.conn (contribReqs s d.conn d.die d.slot d.rank bs 7 fun _ => owner)

def recordReady (d : SendDest) : Bool := d.left.isEmpty && d.failed == 0 && !d.sent && d.record.isSome

def sendStart (e : Eng) (key dslot : Nat) (w : List W64) : Done × Eng :=
  let f (i hi lo : Nat) : Nat := bits (wd w i) hi lo
  let k := e.by_.k
  let ctx := e.by_.ctx
  let ret := f 0 48 48 == 1
  let rowb := f 6 63 32
  let cap := f 8 63 48
  let E := if ret then 0 else f 8 42 32
  let nd := f 10 8 0
  let bad := f 0 55 49 != 0 || f 8 47 43 != 0 || f 10 63 9 != 0 || (List.range 5).any (fun i => wd w (11 + i) != 0)
    || (ret && (f 6 31 0 != 0 || wd w 7 != 0 || f 8 42 0 != 0 || f 9 63 32 != 0))
  let shape := rowb % 8 != 0 || decide (rowb < 8) || decide (65536 < rowb) || cap == 0 || nd == 0 || decide (256 < nd)
    || (!ret && (E == 0 || decide (1024 < E)))
  if bad then stopEng 0x501 e
  else if shape then stopEng 0x601 e
  else if !ret ∧ [f 7 31 0, f 8 31 0].any (· % 8 != 0) then stopEng 0x502 e
  else
    let tab := areaCode e.s k ctx ([Area.of 1 0 (f 9 31 0) (32 * nd), Area.of 1 0 (f 9 63 32) (4 * E)]
      ++ if ret then [] else [Area.of 1 0 (f 8 31 0) (8 * E)])
    if tab ≠ 0 then stopEng tab e
    else
      let (ds, es, e1) := e.tables (f 9 31 0) nd (f 9 63 32) E
      let (cnt, e1) := if ret then ([], e1) else e1.nums (f 8 31 0) 8 E
      if e1.code ≠ 0 then stopEng e1.code e1
      else if ds.any fun d => d.shape cap rowb then stopEng 0x601 e1
      else if mapBad ds es ∨ (!ret && ds.any fun d => d.crec != 0) then stopEng 0x602 e1
      else if (List.range E).any fun x => decide (cap < nth cnt x % 2 ^ 32) then stopEng 0x603 e1
      else sendTake e1 key dslot ret E w ds es cnt

/-! ### COMBINE (R232, R233) -/

/-- One output element: the weighted sum over the kept choices, each a weight and its row's value (R233). -/
def combineElem (ws : List Nat) (xs : List Nat) : Nat :=
  (ws.zip xs).foldl (fun a p => ffma fmtF32 .rne p.1 p.2 a) 0

/-- One token row of a COMBINE: the number of rows with nothing kept so far, and the engine's state. -/
def combineRow (w : List W64) (ds : List Dest) (es : List (Nat × Nat × Nat)) (route : List Nat) (r : Nat × Eng) (t : Nat) :
    Nat × Eng :=
  let f (i hi lo : Nat) : Nat := bits (wd w i) hi lo
  let ty := f 6 63 59
  let oty := f 6 58 54
  let n := f 6 47 32
  let K := f 10 17 12
  let rowb := n * hlxSize ty
  let out := f 7 31 0 + t * f 8 63 32
  if r.2.code ≠ 0 then r
  else
    let kc := ((route.drop (t * K)).take K).filter fun x => bits x 31 30 == 1
    if kc.isEmpty then
      let (xs, e) := if f 0 49 49 = 1 then r.2.nums (f 9 31 0 + t * f 9 63 32) (hlxSize ty) n else (List.replicate n 0, r.2)
      let bs := xs.flatMap fun x => toBytes (hlxSize oty) (if f 0 49 49 = 1 then ofF32 oty (toF32 ty x) else 0)
      (r.1 + 1, if e.code ≠ 0 then e else e.write 1 0 out bs)
    else
      let ws := kc.map fun x => bits x 63 32
      let sw := match ws with | [] => 0 | v :: vs => vs.foldl f32add v
      let ws := if f 0 48 48 = 1 ∧ sw % 2 ^ 31 ≠ 0 then ws.map fun x => f32div x sw else ws
      let (rows, e) := kc.foldl (fun (a : List (List Nat) × Eng) x =>
        let m := es.getD (bits x 25 16) (0, 0, 0)
        match ds[m.1]? with
        | none => a
        | some d =>
          let (xs, e) := a.2.nums (d.lbase + m.2.1 * d.llstride + bits x 15 0 * rowb) (hlxSize ty) n
          (a.1 ++ [xs.map (toF32 ty)], e)) ([], r.2)
      let bs := (List.range n).flatMap fun i => toBytes (hlxSize oty) (ofF32 oty (combineElem ws (rows.map fun l => nth l i)))
      (r.1, if e.code ≠ 0 then e else e.write 1 0 out bs)

/-- The COMBINE operation (R233): the rows with nothing kept, and the engine; a failed access leaves the whole output free. -/
def combineRun (e : Eng) (w : List W64) (ds : List Dest) (es : List (Nat × Nat × Nat)) (route : List Nat) : Nat × Eng :=
  let f (i hi lo : Nat) : Nat := bits (wd w i) hi lo
  let r := (List.range (f 7 63 48)).foldl (combineRow w ds es route) (0, e)
  if r.2.code ≠ 0 then
    (0, (List.range (f 7 63 48)).foldl (fun e t => e.free 1 0 (f 7 31 0 + t * f 8 63 32) (f 6 47 32 * hlxSize (f 6 58 54))) r.2)
  else r

/-- Starts a COMBINE. A CREC that it has no use for is accepted (DESIGN CHOICE, log entry 157). -/
def combineStart (e : Eng) (w : List W64) : Done × Eng :=
  let f (i hi lo : Nat) : Nat := bits (wd w i) hi lo
  let k := e.by_.k
  let ctx := e.by_.ctx
  let ty := f 6 63 59
  let oty := f 6 58 54
  let n := f 6 47 32
  let T := f 7 63 48
  let cap := f 7 47 32
  let E := f 10 30 20
  let K := f 10 17 12
  let nd := f 10 8 0
  let rowb := n * hlxSize ty
  let pass := f 0 49 49 == 1
  let bad := f 0 55 50 != 0 || f 6 53 48 != 0 || f 10 31 31 != 0 || f 10 19 18 != 0 || f 10 11 9 != 0
    || (List.range 5).any fun i => wd w (11 + i) != 0
  let shape := !hlxTypeOk ty || !hlxTypeOk oty || n == 0 || decide (16384 < n) || decide (65536 < rowb) || rowb % 8 != 0 || T == 0
    || cap == 0 || E == 0 || decide (1024 < E) || K == 0 || decide (32 < K) || nd == 0 || decide (256 < nd)
  if bad then stopEng 0x501 e
  else if shape then stopEng 0x601 e
  else if f 6 31 0 % 8 ≠ 0 then stopEng 0x502 e
  else
    let c1 := areaCode e.s k ctx ([Area.of 1 0 (f 10 63 32) (32 * nd), Area.of 1 0 (f 8 31 0) (4 * E), Area.of 1 0 (f 6 31 0) (8 * T * K)]
      ++ (List.range T).map (fun t => Area.of 1 0 (f 7 31 0 + t * f 8 63 32) (n * hlxSize oty))
      ++ if pass then (List.range T).map fun t => Area.of 1 0 (f 9 31 0 + t * f 9 63 32) rowb else [])
    if c1 ≠ 0 then stopEng c1 e
    else
      let (ds, es, e1) := e.tables (f 10 63 32) nd (f 8 31 0) E
      let (route, e1) := e1.nums (f 6 31 0) 8 (T * K)
      let kept := route.filter fun x => bits x 31 30 == 1
      if e1.code ≠ 0 then stopEng e1.code e1
      else if ds.any fun d => d.shape cap rowb then stopEng 0x601 e1
      else if mapBad ds es then stopEng 0x602 e1
      else if route.any fun x => bits x 31 30 == 3 || bits x 29 26 != 0 || decide (E ≤ bits x 25 16)
          || (bits x 31 30 == 1 && decide (cap ≤ bits x 15 0)) then stopEng 0x603 e1
      else
        let c2 := areaCode e.s k ctx (kept.map fun x =>
          let m := es.getD (bits x 25 16) (0, 0, 0)
          match ds[m.1]? with
          | none => Area.of 1 0 0 0
          | some d => Area.of 1 0 (d.lbase + m.2.1 * d.llstride + bits x 15 0 * rowb) rowb)
        if c2 ≠ 0 then stopEng c2 e1
        else
          let (info, e) := cmpRun e1 fun e => combineRun e w ds es route
          (e.done info, e)

/-! ### Decoder streams (R234-R236) -/

def decKey (quad s : Nat) : Nat := quad * 8 + (s - 1)
def decoder (s : State) (k key : Nat) : DecStream := mget DecStream.reset (grotto s k).decoders key
def setDecoder (s : State) (k key : Nat) (d : DecStream) : State :=
  let g := grotto s k
  setGrotto s k { g with decoders := mput DecStream.reset g.decoders key d }

/-- A change of a stream begins (R236). -/
def rebind (s : State) (k key dslot dk : Nat) (b : Option Binding) (info : Nat) (keeps : Bool) : State :=
  expect (setDecoder s k dk { decoder s k dk with changing := some ⟨key, dslot, b, info, keeps⟩ }) k key dslot [1]

/-- Reads and checks the stream that a BIND names, and starts the change of the binding (R226). -/
def bindTake (e : Eng) (key dslot dk : Nat) (w : List W64) : Done × Eng :=
  let f (i hi lo : Nat) : Nat := bits (wd w i) hi lo
  let k := e.by_.k
  let ctx := e.by_.ctx
  let src := f 6 31 0
  let len := f 8 31 0
  let (hd, e1) := e.nums src 8 8
  let h := bsHdr (nth hd 0)
  let e1 := if e1.code = 0 ∧ h.legal ∧ 64 + 8 * h.panels ≤ len then (e1.read 1 0 (src + 64) (8 * h.panels)).2 else e1
  let rd (a : Nat) : Byte := mget 0 (grotto e.s k).bytes (src + a)
  if e1.code ≠ 0 then (.now e1.code 0, { e1 with code := 0 })
  else if !h.legal ∨ len < 64 + 8 * h.panels ∨ !headOk rd h ∨ !dirOk rd h len then (.now 0x605 0, e1)
  else
    let e1 := (List.range h.panels).foldl (fun (e : Eng) p => (e.read 1 0 (src + (bsDir rd p).2) h.mapBytes).2) e1
    if e1.code ≠ 0 then (.now e1.code 0, { e1 with code := 0 })
    else if !mapsOk rd h then (.now 0x605 0, e1)
    else if h.panels ≤ f 7 63 32 ∨ h.blocks ≤ f 7 15 0 then (.now 0x601 0, e1)
    else
      let n := (List.range h.panels).foldl (fun n p =>
        if f 7 63 32 ≤ p then n + bsBefore rd p h.blocks - bsBefore rd p (f 7 15 0) else n) 0
      (.later, { e1 with s := rebind e1.s k key dslot dk (some ⟨ctx, src, len, f 7 63 32, f 7 15 0, nth hd 0, false⟩) n false })

/-- BIND and UNBIND (R226): the checks, then the change (DESIGN CHOICE, log entry 133). -/
def bindStart (e : Eng) (key dslot : Nat) (w : List W64) : Done × Eng :=
  let f (i hi lo : Nat) : Nat := bits (wd w i) hi lo
  let k := e.by_.k
  let ctx := e.by_.ctx
  let st := f 6 58 55
  let src := f 6 31 0
  let len := f 8 31 0
  let dk := decKey (f 6 63 59) st
  let unbind := f 0 63 56 == 0x11
  let bad := f 0 55 48 != 0 || f 6 54 32 != 0 || f 7 31 16 != 0 || f 8 63 32 != 0 || st == 0 || decide (8 < st)
    || (List.range 7).any (fun i => wd w (9 + i) != 0) || (unbind && (src != 0 || wd w 7 != 0 || wd w 8 != 0))
  if bad then (.now 0x501 0, e)
  else if unbind then
    (.later, { e with s := rebind e.s k key dslot dk none 0 ((decoder e.s k dk).bound.any fun b => b.ctx != ctx) })
  else
    let ac := areaCode e.s k ctx [Area.of 1 0 src len]
    if src % 64 ≠ 0 then (.now 0x502 0, e)
    else if ac ≠ 0 then (.now ac 0, e)
    else if !(quadTiles k (f 6 63 59)).any fun t => siteRuns e.s k ctx (t % 128) then (.now 0x606 0, e)
    else if (match (decoder e.s k dk).bound with | some b => b.ctx != ctx | none => false) then (.now 0x607 0, e)
    else if len < 64 then (.now 0x605 0, e)
    else bindTake e key dslot dk w

/-- A queued mmas of the quad names a stream. -/
def decBusy (s : State) (k quad st : Nat) : Bool :=
  (quadTiles k quad).any fun t => (tile s t).engines.any fun e => e.2.queue.any fun o =>
    o.opc == 0x81 && bits (wd o.desc 2) 55 48 == st

/-- DECODER_BINDING_EFFECT (R236): once every earlier mmas on the stream has completed, the new binding takes effect and the
descriptor completes. -/
def decoderEffect (s : State) (k quad st : Nat) : State :=
  let dk := decKey quad st
  match (decoder s k dk).changing with
  | none => s
  | some c =>
    if decBusy s k quad st then s
    else takenMod (setDecoder s k dk ⟨if c.keeps then (decoder s k dk).bound else c.next, none⟩) k c.queue c.slot fun t => { t with result := some (0, c.info), waiting := [] }

/-! ### The engine (R215, R216) -/

def hlxStart (e : Eng) (key dslot : Nat) (w : List W64) : Done × Eng :=
  match bits (wd w 0) 63 56 with
  | 0x01 => gateStart e w
  | 0x02 => sendStart e key dslot w
  | 0x03 => combineStart e w
  | 0x10 | 0x11 => bindStart e key dslot w
  | _ => (.now 0x501 0, e)

end Sys2Proof.Machine
end

