-- ==== Sys2Proof/Machine/Dripstone.lean ====
section
/-!
DEFINITION. The Dripstone engine (R247, R254-R265): SAMPLE and DRAW.
-/
namespace Sys2Proof.Machine

/-! ### The raw categorical draw (R261) -/

/-- The tree sum of 128 positions: neighbours are added until one is left. -/
def treeSum : Nat → List Nat → Nat
  | 0, l => l.headD 0
  | n + 1, l =>
    let rec pairs : List Nat → List Nat
      | a :: b :: r => f32add a b :: pairs r
      | l => l
    treeSum n (pairs l)

/-- The weights cut into blocks of 128, the last filled with +0. -/
def drawBlocks (w : List Nat) : List (List Nat) :=
  (List.range (cdiv w.length 128)).map fun j =>
    let b := (w.drop (128 * j)).take 128
    b ++ List.replicate (128 - b.length) 0

def sumAll (l : List Nat) : Nat := match l with | [] => 0 | v :: vs => vs.foldl f32add v

/-- The highest position of a list with a positive weight, counted from `base`. -/
def lastPos (w : List Nat) (base : Nat) : Nat :=
  w.zipIdx.foldl (fun a x => if f32lt 0 x.1 then base + x.2 else a) base

/-- The first position of a block at which the running sum exceeds t. -/
def pickIn (t : Nat) : Nat → Nat → List Nat → Option Nat
  | _, _, [] => none
  | acc, i, w :: ws => if f32lt t (f32add acc w) then some i else pickIn t (f32add acc w) (i + 1) ws

/-- Scans the blocks (R261). -/
def pickBlock (t : Nat) : Nat → Nat → List (List Nat × Nat) → Option Nat
  | _, _, [] => none
  | acc, j, (blk, b) :: rest =>
    if f32lt t (f32add acc b) then
      match pickIn t acc (128 * j) blk with
      | some i => some i
      | none => some (lastPos blk (128 * j))
    else pickBlock t (f32add acc b) (j + 1) rest

def drawTotal (w : List Nat) : Nat := sumAll ((drawBlocks w).map (treeSum 7))

/-- The chosen position and its probability. -/
def rawDraw (w : List Nat) (blk : Nat) : Nat × Nat :=
  let bs := drawBlocks w
  let b := bs.map (treeSum 7)
  let tot := sumAll b
  let i := match pickBlock (f32mul (drawUniform blk) tot) 0 0 (bs.zip b) with | some i => i | none => lastPos w 0
  (i, f32div (nth w i) tot)

/-! ### Sampling a row (R259) -/

/-- The weights of a row that is not greedy, from the scaled scores: none where no score is eligible. -/
def sampleWeights (x : List Nat) (K p : Nat) : Option (List Nat) :=
  let all := List.range x.length
  let v (i : Nat) : Nat := nth x i
  let ok := all.filter fun i => !f32nan (v i) && v i != f32ninf
  match ok with
  | [] => none
  | _ =>
    let cand := if K = 0 then ok else topBy v K ok
    let m := match cand with | [] => 0 | c :: cs => cs.foldl (fun m i => if f32lt m (v i) then v i else m) (v c)
    let w := all.map fun i =>
      if !cand.contains i then 0
      else if m = f32inf then (if v i = f32inf then f32one else 0)
      else fnExp (f32sub (v i) m)
    if !f32lt p f32one then some w
    else
      let order := topBy (nth w) cand.length (all.filter fun i => cand.contains i)
      let h := f32mul p (sumAll (order.map (nth w)))
      let keep := (order.foldl (fun (a : List Nat × Nat × Bool) i =>
        if a.2.2 then a
        else
          let r := if a.1.isEmpty then nth w i else f32add a.2.1 (nth w i)
          (a.1 ++ [i], r, !f32lt r h)) ([], 0, false)).1
      some (all.map fun i => if keep.contains i then nth w i else 0)

/-- The greedy choice. -/
def greedy (s : List Nat) : Option Nat :=
  (topBy (nth s) 1 ((List.range s.length).filter fun i => !f32nan (nth s i) && nth s i != f32ninf)).head?

/-- INVT, P and K within the table "Dripstone body". -/
def drpParams (invt p K : Nat) : Bool :=
  let neg (x : Nat) : Bool := bit x 31 && x % 2 ^ 31 != 0
  let fin (x : Nat) : Bool := bits x 30 23 != 255
  fin invt && !neg invt && f32lt 0 p && !f32lt f32one p && decide (K ≤ 4096) && (p == f32one || K != 0)

/-! ### Descriptors (R254-R258) -/

structure Drp where
  draw : Bool
  rowp : Bool
  pen : Bool
  stream : Bool
  sp : Nat
  ty : Nat
  site : Nat
  src : Nat
  sstr : Nat
  v : Nat
  rows : Nat
  k : Nat
  invt : Nat
  p : Nat
  out : Nat
  probs : Nat
  param : Nat
  pstr : Nat
  key : Nat
  ctr : Nat

def drpOf (w : List W64) : Drp :=
  let f (i hi lo : Nat) : Nat := bits (wd w i) hi lo
  ⟨f 0 63 56 == 2, f 0 48 48 == 1, f 0 49 49 == 1, f 0 50 50 == 1, f 6 63 61, f 6 60 56, f 6 54 48, f 6 31 0, f 7 63 32, f 7 18 0, f 8 63 48,
   f 8 44 32, f 8 31 0, f 9 63 32, f 9 31 0, f 10 63 32, f 10 31 0, f 11 63 32, wd w 12 + wd w 13 <<< 64, wd w 14 + wd w 15 <<< 64⟩

/-- The accumulator tiles of a source (R257). -/
def Drp.accTiles (d : Drp) : List Nat := (List.range (cdiv d.v 32)).map (d.src % 32 + ·)

/-- The checks of R258 in order. -/
def drpCode (s : State) (k ctx : Nat) (w : List W64) : Nat :=
  let f (i hi lo : Nat) : Nat := bits (wd w i) hi lo
  let d := drpOf w
  let op := f 0 63 56
  let acc := d.sp = 3
  let size := hlxSize d.ty
  let one := !(op == 1 || op == 2) || f 0 55 51 != 0 || (d.draw && d.pen) || d.sp == 0 || decide (3 < d.sp)
    || f 6 55 55 != 0 || f 6 47 32 != 0 || f 7 31 19 != 0 || f 8 47 45 != 0 || f 11 31 0 != 0
  let two := !hlxTypeOk d.ty || ((d.draw || acc) && d.ty != 0)
    || (if acc then decide (32 < d.rows) || decide (32 * (32 - d.src % 32) < d.v) || decide (31 < d.src) || d.sstr != 0
        else decide (d.sstr < d.v * size) || d.sstr % size != 0)
  let three := d.v == 0 || decide (262144 < d.v) || d.rows == 0
    || (if d.draw || d.rowp then d.invt != 0 || d.p != 0 || d.k != 0 else !drpParams d.invt d.p d.k)
    || (d.rowp && (d.key != 0 || d.ctr != 0))
    || (if d.pen then decide (d.pstr < 4 * d.v) || d.pstr % 4 != 0 else d.probs != 0 || d.pstr != 0)
  let areas := (if acc then [] else (List.range d.rows).map fun r => Area.of d.sp d.site (d.src + r * d.sstr) (d.v * size))
    ++ [Area.of 1 0 d.out (8 * d.rows)]
    ++ (if d.pen then (List.range d.rows).map fun r => Area.of 1 0 (d.probs + r * d.pstr) (4 * d.v) else [])
    ++ if d.rowp then [Area.of 1 0 d.param (64 * d.rows)] else []
  let misaligned := (!acc && d.src % size != 0) || d.out % 8 != 0 || d.param % 8 != 0 || (d.pen && d.probs % 4 != 0)
  if one then 0x501
  else if two then 0x701
  else if three then 0x702
  else if misaligned then 0x502
  else
    let c := areaCode s k ctx areas
    if c ≠ 0 then c else if acc ∧ !siteRuns s k ctx d.site then 0x505 else 0

/-- A matrix instruction or Flowstone command that still has to write a tile of the source (R257). -/
def drpBlocked (s : State) (k : Nat) (d : Drp) : Bool :=
  let x := tile s (k * 128 + d.site)
  d.sp == 3 &&
  (x.engines.any (fun e => e.2.queue.any fun o => (mtxWrites o.opc o.word.toNat).any d.accTiles.contains)
   || x.fls.any fun c => (bSetTiles c.words).any d.accTiles.contains)

/-! ### Rows -/

/-- The scores of a row, as f32. -/
def Eng.scores (e : Eng) (d : Drp) (r : Nat) : List Nat × Eng :=
  if d.sp = 3 then
    let x := tile e.s (e.tileNo d.site)
    ((List.range d.v).map fun i => (mget 0 x.acc ((d.src % 32 + i / 32) * 1024 + r * 32 + i % 32)).toNat, e)
  else
    let size := hlxSize d.ty
    let (bs, e) := e.read d.sp d.site (d.src + r * d.sstr) (d.v * size)
    ((List.range d.v).map fun i => toF32 d.ty (elemAt bs size i), e)

/-- What a row gives: its code, token, probability, and weights. -/
abbrev RowOut := Nat × Nat × Nat × List Nat

/-- Draws the block of a row (R247). -/
def drpBlock (e : Eng) (d : Drp) (key ctr : Nat) : Nat × Eng :=
  if d.stream then
    let c := rget e.s .drpRngCtr e.by_.k 0 0
    (genG key ((0x400 + e.by_.k) <<< 64 + c), { e with s := rset e.s .drpRngCtr e.by_.k 0 0 (c + 1) })
  else (genG key ctr, e)

def drpFail (code : Nat) : RowOut := (code, 0xFFFFFFFF, 0x7FC00000, [])

/-- A row from its scores and parameters (R259, R261). -/
def drpRow (e : Eng) (d : Drp) (s : List Nat) (key ctr invt p K : Nat) : RowOut × Eng :=
  let pick (w : List Nat) : RowOut × Eng :=
    let (b, e) := drpBlock e d key ctr
    let r := rawDraw w b
    ((0, r.1, r.2, w), e)
  if d.draw then
    let bad := s.any fun x => f32nan x || bits x 30 23 == 255 || (bit x 31 && x % 2 ^ 31 != 0)
    if bad ∨ drawTotal s % 2 ^ 31 = 0 ∨ drawTotal s = f32inf then (drpFail 0x704, e) else pick s
  else if invt % 2 ^ 31 = 0 then
    match greedy s with
    | none => (drpFail 0x703, e)
    | some j => ((0, j, f32one, (List.range s.length).map fun i => if i = j then f32one else 0), e)
  else
    match sampleWeights (s.map fun x => f32mul x invt) K p with
    | none => (drpFail 0x703, e)
    | some w => pick w

/-- The parameters of a row (R247, R256): key, counter, INVT, P, K; none where its entry breaks the ranges. -/
def drpEntry (e : Eng) (d : Drp) (r : Nat) : Option (Nat × Nat × Nat × Nat × Nat) × Eng :=
  if !d.rowp then (some (d.key, (d.ctr + r) % 2 ^ 128, d.invt, d.p, d.k), e)
  else
    let (bs, e) := e.read 1 0 (d.param + 64 * r) 64
    let ws := toWords 8 bs
    let invt := bits (wd ws 4) 31 0
    let p := bits (wd ws 4) 63 32
    let K := bits (wd ws 5) 12 0
    let bad := bits (wd ws 5) 63 13 != 0 || wd ws 6 != 0 || wd ws 7 != 0
      || (if d.draw then wd ws 4 != 0 || K != 0 else !drpParams invt p K)
    (if bad then none else some (wd ws 0 + wd ws 1 <<< 64, wd ws 2 + wd ws 3 <<< 64, invt, p, K), e)

/-- The rows from r on: the first failed row's code and the number of failed rows (R254, R264). -/
def drpRows (d : Drp) : Nat → Nat → Nat → Nat → Eng → Nat × Nat × Eng
  | 0, _, first, fails, e => (first, fails, e)
  | n + 1, r, first, fails, e =>
    let (s, e) := e.scores d r
    let (par, e) := drpEntry e d r
    if e.code ≠ 0 then (e.code, fails, { e with code := 0 })
    else
      let (o, e) := match par with
        | none => (drpFail 0x702, e)
        | some (key, ctr, invt, p, K) => drpRow e d s key ctr invt p K
      let e := e.write 1 0 (d.out + 8 * r) (toBytes 4 o.2.1 ++ toBytes 4 o.2.2.1)
      let e := if d.pen && o.1 == 0 then e.write 1 0 (d.probs + r * d.pstr) (o.2.2.2.flatMap (toBytes 4)) else e
      if e.code ≠ 0 then (e.code, fails, { e with code := 0 })
      else
      let e := { e with s := count e.s (if o.1 = 0 then .drpRows else .drpRowFails) e.by_.k 0 0 1 }
      drpRows d n (r + 1) (if first = 0 then o.1 else first) (if o.1 = 0 then fails else fails + 1) e

/-- The outputs would overlap the source or the parameters of the descriptor itself (R265). -/
def drpOverlap (w : List W64) : Bool :=
  (drpOutputs w).any fun o => (List.range o.2.2.2.1).any fun i => drpMeets (drpSources w) 1 (o.2.1 + i * o.2.2.1) o.2.2.2.2

/-- The rows of a descriptor: code and number of failed rows. The source is on a site that still runs the context (R264), and an
accumulator source holds f32 tiles (R257). -/
def drpWork (w : List W64) (e : Eng) : Nat × Nat × Eng :=
  let d := drpOf w
  if 2 ≤ d.sp ∧ !siteRuns e.s e.by_.k e.by_.ctx d.site then (0x505, 0, e)
  else if d.sp = 3 ∧ d.accTiles.any fun a => accTag (tile e.s (e.tileNo d.site)) a != 0 then (0x701, 0, e)
  else drpRows d d.rows 0 0 0 { e with spoil := e.spoil || drpOverlap w }

/-- Starts a descriptor of the Dripstone: the checks of R258. -/
def drpStart (e : Eng) (w : List W64) : Done × Eng :=
  let code := drpCode e.s e.by_.k e.by_.ctx w
  if code ≠ 0 then (.now code 0, e) else (.later, e)

end Sys2Proof.Machine
end

