-- ==== Sys2Proof/Machine/FabOps.lean ====
section
/-!
DEFINITION. Fabric operations (R427-R432), and what packets do when they reach their module (R423-R431).
-/
namespace Sys2Proof.Machine

/-! ### Operations of send queues (R428, R429, R432) -/

/-- A local range of an operation on the Grotto of a C-die (checks 3 and 4 of R200). -/
def localCode (s : State) (ctx lspace ldie a n : Nat) : Nat :=
  if lspace = 1 ∧ n ≠ 0 then
    (if !dieActive s ldie then 0xD80 else if grtEnd < a + n then 0x503 else if !grtOwned s ldie ctx a n then 0x504 else 0)
  else 0

/-- Splits a length at 4,096 bytes: offset and length of each packet (R428). -/
def packetCuts (n : Nat) : List (Nat × Nat) := (List.range (cdiv n 4096)).map fun i => (4096 * i, Nat.min 4096 (n - 4096 * i))

/-- What an operation sends: packet type, remote space, C-die and address, ORD, local place. -/
structure FabReq where
  ty : Nat
  rspace : Nat
  rdie : Nat
  raddr : Nat
  ord : Bool
  lspace : Nat
  ldie : Nat
  laddr : Nat

/-- The packets of a WRITE or READ. -/
def bulkReqs (s : State) (c : Nat) (q : FabReq) (n : Nat) (owner : Nat → Part) : List OutReq :=
  (packetCuts n).zipIdx.map fun x =>
    let pk := { reqPacket s c q.ty with
      len := BitVec.ofNat 13 x.1.2, ord := q.ord, space := BitVec.ofNat 3 q.rspace, die := BitVec.ofNat 3 q.rdie,
      addr := BitVec.ofNat 48 (q.raddr + x.1.1), payload := if q.ty = 1 then List.replicate x.1.2 0 else [] }
    { pkt := pk, owner := some (owner x.2), sends := 0, rxFull := 0, rxWait := false, lspace := q.lspace, ldie := q.ldie,
      laddr := q.laddr + x.1.1 }

/-- A local range that an operation reads, or writes, while it runs (R194). -/
def Eng.uses (e : Eng) (writes : Bool) (ctx lspace ldie a n : Nat) : Eng :=
  let rs : List (Nat × Nat × Nat) :=
    if n = 0 then []
    else if lspace = 0 then (engXlate e.s { e.by_ with ctx := ctx } a n (if writes then .store else .load)).2.1.map fun p => (0, p.1, p.2)
    else [(0, apertureOf ldie a, n)]
  if writes then { e with writes := rs ++ e.writes } else { e with reads := rs ++ e.reads }

/-- What an operation sends from bytes that an uncompleted descriptor writes is undefined (R194): free values. -/
def spoiledReqs (spoil : Bool) (rs : List OutReq) (s : State) : List OutReq × State :=
  if !spoil then (rs, s)
  else
    rs.foldl (fun (a : List OutReq × State) r =>
      let n := r.pkt.payload.length
      if n = 0 ∨ 1 < r.lspace then (a.1 ++ [r], a.2)
      else
        let (bs, s) := freeBytes n a.2
        (a.1 ++ [{ r with pkt := { r.pkt with payload := bs }, lspace := 7 }], s)) ([], s)

/-- The checks of R429 that concern a connection. -/
def fabConnCode (s : State) (c ctx : Nat) : Nat :=
  if connCode s c ctx ≠ 0 then connCode s c ctx else if !connRouted s c then 0xB01 else 0

/-- An entry of an A2A list: connection, remote space and C-die, remote address, local source, byte count, and whether a
reserved field or value spoils it. -/
structure Seg where
  c : Nat
  rspace : Nat
  rdie : Nat
  raddr : Nat
  src : Nat
  n : Nat
  bad : Bool

def segOf (ws : List W64) : Seg :=
  let f (i hi lo : Nat) : Nat := bits (wd ws i) hi lo
  ⟨f 0 63 51, f 0 50 48, f 0 47 45, f 1 47 0, f 2 47 0, f 3 31 0,
   f 0 44 0 != 0 || decide (1 < f 0 50 48) || decide (5 < f 0 47 45) || f 1 63 48 != 0 || f 2 63 48 != 0 || f 3 63 32 != 0⟩

/-- Sends the records of an A2A operation's connections whose segments are all answered (R432). -/
def a2aRecords (s : State) : State :=
  ([0, 2, 3, 5].flatMap fun k => (List.range 64).map fun n => (k, 32 + n)).foldl (fun s p =>
    (queue s p.1 p.2).sends.foldl (fun s d => if recordReady d then sendRecord s p.1 p.2 d else s) s) s

/-- A2A (R432). -/
def a2aStart (e : Eng) (key dslot : Nat) (w : List W64) : Done × Eng :=
  let f (i hi lo : Nat) : Nat := bits (wd w i) hi lo
  let k := e.by_.k
  let ctx := e.by_.ctx
  let n := f 9 31 0
  let lspace := f 8 63 61
  let ldie := f 8 60 58
  let lc := localCode e.s ctx lspace ldie (f 8 47 0) (32 * n)
  if lc ≠ 0 then (.now lc 0, e)
  else
    let (code, bs, e) :=
      if lspace = 0 then let r := e.read 0 0 (f 8 47 0) (32 * n)
                         (r.2.code, r.1, { r.2 with code := 0 })
      else
        let r := grtRead e.s ldie (f 8 47 0) (32 * n)
        let e := e.uses false ctx lspace ldie (f 8 47 0) (32 * n)
        (r.1, r.2, { e with s := drpSeen e.s ldie (f 8 47 0) (32 * n) true })
    if code ≠ 0 then (.now code 0, e)
    else
      let segs := (List.range n).map fun i => segOf (toWords 4 ((bs.drop (32 * i)).take 32))
      let entry (x : Seg) : Nat :=
        if x.bad then 0xB09
        else if fabConnCode e.s x.c ctx ≠ 0 then fabConnCode e.s x.c ctx
        else localCode e.s ctx lspace ldie x.src x.n
      match segs.find? fun x => entry x != 0 with
      | some x => (.now (entry x) 0, e)
      | none =>
        let e := segs.foldl (fun e x => e.uses false ctx lspace ldie x.src x.n) e
        let conns := (segs.map (·.c)).eraseDups
        let first (c : Nat) : Nat := segs.findIdx fun x => x.c == c
        let reqs (x : Seg × Nat) : List OutReq :=
          bulkReqs e.s x.1.c ⟨1, x.1.rspace, x.1.rdie, x.1.raddr, f 6 44 44 == 1, lspace, ldie, x.1.src⟩ x.1.n
            fun i => ⟨k, key, dslot, segPart (first x.1.c) x.2 i⟩
        let dest (c : Nat) : SendDest :=
          let total := segs.foldl (fun a x => if x.c = c then a + x.n else a) 0
          ⟨dslot, first c, 1, (segs.getD (first c) (segOf [])).rdie, c, f 12 63 58, f 12 57 48,
           if f 12 47 47 = 1 then some (toBytes 8 total) else none, ((segs.zipIdx.filter fun x => x.1.c == c).flatMap reqs).filterMap fun r => r.owner.map (·.part), 0, 0, false, false⟩
        let q := queue e.s k key
        let s := setQueue e.s k key { q with sends := q.sends ++ conns.map dest }
        (.later, { e with s := a2aRecords (segs.zipIdx.foldl (fun s x =>
          let (rs, s) := spoiledReqs e.spoil (reqs x) s
          sendAll s x.1.c rs) s) })

/-- Starts a descriptor of a fabric send queue. -/
def fabStart (e : Eng) (key dslot : Nat) (w : List W64) : Done × Eng :=
  let f (i hi lo : Nat) : Nat := bits (wd w i) hi lo
  let k := e.by_.k
  let ctx := e.by_.ctx
  let op := f 0 63 56
  let c := f 6 63 51
  let q : FabReq := ⟨op, f 6 50 48, f 6 47 45, f 7 47 0, f 6 44 44 == 1, f 8 63 61, f 8 60 58, f 8 47 0⟩
  let n := f 9 31 0
  let aop := f 6 43 40
  let aty := f 6 39 37
  let width := atomWidth aty / 8
  let unused : List Nat := match op with
    | 1 | 2 => [10, 11, 12, 13, 14, 15]
    | 3 => (if aop = 7 then [] else [11]) ++ [9, 12, 13, 14, 15]
    | 4 => [7, 10, 11, 12, 13, 14, 15]
    | _ => [7, 10, 11, 13, 14, 15]
  let bad := op == 0 || decide (5 < op) || f 0 55 48 != 0 || f 6 36 0 != 0 || f 7 63 48 != 0 || f 8 57 48 != 0 || f 9 63 32 != 0
    || f 12 46 0 != 0 || unused.any (fun i => wd w i != 0) || decide (1 < q.lspace) || (q.lspace == 1 && decide (5 < q.ldie))
    || (decide (op ≤ 3) && (decide (1 < q.rspace) || (q.rspace == 1 && decide (5 < q.rdie))))
    || (op == 4 && decide (4032 < n))
    || (op == 3 && (decide (5 < aty) || !atomLegal aop aty || q.raddr % width != 0 || q.laddr % width != 0))
    || (op == 5 && q.laddr % 8 != 0)
  if bad then (.now 0xB09 0, e)
  else if op = 5 then a2aStart e key dslot w
  else
    let cc := fabConnCode e.s c ctx
    let lc := localCode e.s ctx q.lspace q.ldie q.laddr (if op = 3 then width else n)
    if cc ≠ 0 then (.now cc 0, e)
    else if lc ≠ 0 then (.now lc 0, e)
    else
      let owner (i : Nat) : Part := ⟨k, key, dslot, partNo 0 (i + 1)⟩
      let rs : List OutReq :=
        if op ≤ 2 then bulkReqs e.s c q n owner
        else
          let pay := if op = 4 then List.replicate n 0 else toBytes width (wd w 10) ++ if aop = 7 then toBytes width (wd w 11) else []
          let pk := { reqPacket e.s c op with
            len := BitVec.ofNat 13 pay.length, ord := q.ord, space := BitVec.ofNat 3 q.rspace, die := BitVec.ofNat 3 q.rdie,
            aop := BitVec.ofNat 4 aop, atype := BitVec.ofNat 3 aty, addr := BitVec.ofNat 48 q.raddr, payload := pay }
          [{ pkt := pk, owner := some (owner 0), sends := 0, rxFull := 0, rxWait := false, lspace := q.lspace, ldie := q.ldie,
             laddr := q.laddr }]
      let e := e.uses (op == 2 || op == 3) ctx q.lspace q.ldie q.laddr (if op = 3 then width else n)
      let (rs, s) := spoiledReqs (e.spoil && (op == 1 || op == 4)) rs e.s
      (.later, { e with s := sendAll (expect s k key dslot (rs.filterMap fun r => r.owner.map (·.part))) c rs })

/-! ### Requests at the receiver (R423-R431) -/

/-- The connection of a delivered packet, if it takes it (R421). -/
def connOf (s : State) (p : Packet) : Option Nat :=
  let c := p.dconn.toNat
  if dieActive s (connDie c) = true ∧ connF s c 63 63 = 1 ∧ connF s c 54 47 = p.cgen.toNat then some c else none

/-- Takes the n-th delivered packet, if it has the type. -/
def takePacket (s : State) (n ty : Nat) : Option (Nat × Packet × State) :=
  match s.delivered[n]? with
  | some (i, p) => if p.ptype.toNat = ty then some (i, p, { s with delivered := s.delivered.eraseIdx n }) else none
  | none => none

/-- A packet that no connection takes is discarded and counted. -/
def discard (s : State) (inPort : Nat) : State := portCount s .fabDiscards inPort 1

/-- Sends an answer (R415, R417). -/
def respond (s : State) (c : Nat) (p : Packet) (ty status : Nat) (psn : BitVec 32) (data : List Byte) : State :=
  let pk := { reqPacket s c 8 with
    ptype := BitVec.ofNat 4 ty, vc := 2, psn := psn, len := BitVec.ofNat 13 data.length, status := BitVec.ofNat 16 status, tag := p.tag,
    payload := data }
  (forward s (connDie c) 16 pk).2

/-- The answer to a request of a type. -/
def answerType (ty : Nat) : Nat := match ty with | 2 => 9 | 3 => 10 | _ => 8

/-- PERM's bit of a request type (R439). -/
def permBit (ty : Nat) : Nat := 47 - ty

/-- How a request's PSN stands to RPSN (R423): equal, ahead or behind; exactly 2^31 apart counts as behind (DESIGN CHOICE, log
entry 120). -/
def psnAhead (psn rpsn : Nat) : Nat := (psn + 2 ^ 32 - rpsn) % 2 ^ 32

/-- Handles a request: the connection, the PSN, PERM, then its effect, which gives a status and data. A duplicate is
answered as R423 says; `again` performs a duplicate READ. -/
def onRequest (s : State) (n ty : Nat) (perform : State → Nat → Packet → Nat × List Byte × State) : State :=
  match takePacket s n ty with
  | none => s
  | some (inPort, p, s) =>
    match connOf s p with
    | none => discard s inPort
    | some c =>
      let rpsn := connSeqF s c 31 0
      let d := psnAhead p.psn.toNat rpsn
      let allowed := connF s c (permBit ty) (permBit ty) = 1
      let run (s : State) : Nat × List Byte × State := if allowed then perform s c p else (0xB06, [], s)
      if d = 0 then
        let (status, data, s) := run s
        if status = 0xB07 then respond s c p 11 status p.psn []
        else respond (setConnSeqF s c 31 0 ((rpsn + 1) % 2 ^ 32)) c p (answerType ty) status p.psn data
      else if d < 2 ^ 31 then
        let now := s.master.toNat
        let x := conn s c
        if (match x.lastNak with | some t => decide (now < t + 1000) | none => false) then s
        else respond (setConn s c { x with lastNak := some now }) c p 11 0 (BitVec.ofNat 32 rpsn) []
      else
        match ty with
        | 2 => let (status, data, s) := run s
               respond s c p 9 status p.psn data
        | 3 => respond s c p 10 0xB08 p.psn []
        | _ => respond s c p 8 0 p.psn []

/-- The C-die whose walker translates for a connection: that of its home L-die. -/
def connBy (s : State) (c : Nat) : EngBy := ⟨cDieOf (connDie c), 65536, connCtx s c, true⟩

/-- The physical parts of a request's range, or the code for which it is not performed (R426). -/
def remoteParts (s : State) (c : Nat) (p : Packet) (n : Nat) (need : Need) : Nat × List (Nat × Nat) × State :=
  let a := p.addr.toNat
  let ctx := connCtx s c
  if p.space = 1 then
    let die := p.die.toNat
    if 5 < die ∨ grtEnd < a + n then (0x503, [], s)
    else if !dieActive s die then (0xD80, [], s)
    else if n ≠ 0 ∧ !grtOwned s die ctx a n then (0x504, [], s)
    else (0, [(apertureOf die a, n)], s)
  else if p.space = 0 then
    let (code, ps, s) := engXlate s (connBy s c) a n need
    if code ≠ 0 then (code, [], s)
    else
      let bad (x : Nat × Nat) : Nat :=
        match inAperture x.1 with
        | some (k, off) => apertureCode s k (some ctx) off x.2
        | none => if inMemory x.1 then 0 else 0x840
      ((ps.map bad).foldl (fun c x => if c = 0 then x else c) 0, ps, s)
  else (0x503, [], s)

/-- A WRITE at its receiver: an NcWrite, or a write to a Grotto (R426). -/
def performWrite (s : State) (c : Nat) (p : Packet) : Nat × List Byte × State :=
  let (code, ps, s) := remoteParts s c p p.payload.length .store
  if code ≠ 0 then (code, [], s)
  else
    let r := ps.foldl (fun (a : Nat × List Byte × State) x =>
      let w := busWrite a.2.2 (some (connCtx a.2.2 c)) false x.1 (a.2.1.take x.2)
      (if a.1 = 0 then w.1 else a.1, a.2.1.drop x.2, w.2)) (0, p.payload, s)
    (r.1, [], r.2.2)

/-- A READ: an NcRead, or a read of a Grotto (R425). -/
def performRead (s : State) (c : Nat) (p : Packet) : Nat × List Byte × State :=
  let (code, ps, s) := remoteParts s c p p.len.toNat .load
  if code ≠ 0 then (code, [], s)
  else
    let r := ps.foldl (fun (a : Nat × List Byte × State) x =>
      let w := busRead a.2.2 (some (connCtx a.2.2 c)) false x.1 x.2
      (if a.1 = 0 then w.1 else a.1, a.2.1 ++ w.2.1, w.2.2)) (0, [], s)
    (r.1, if r.1 = 0 then r.2.1 else [], r.2.2)

/-- An ATOMIC: an NcAtomic, or an atomic in a Grotto's bank (R426). -/
def performAtomic (s : State) (c : Nat) (p : Packet) : Nat × List Byte × State :=
  let ty := p.atype.toNat
  let n := atomWidth ty / 8
  let (code, ps, s) := remoteParts s c p n .atomic
  if code ≠ 0 then (code, [], s)
  else
    let r := busAtomic s (.fabric c) (some (connCtx s c)) (ps.headD (0, 0)).1 p.aop.toNat ty
      [(w64 (ofBytes (p.payload.take n)), w64 (ofBytes (p.payload.drop n)))]
    (r.1, if r.1 = 0 then toBytes n (r.2.1.headD 0) else [], r.2.2)

/-- A MESSAGE into the receive queue of its connection (R430): word 0 of the slot last. -/
def performMessage (s : State) (c : Nat) (p : Packet) : Nat × List Byte × State :=
  let l := connDie c
  let k := cDieOf l
  let n := connF s c 41 36
  match qcfg s k (32 + n) with
  | none => (0xB07, [], s)
  | some q =>
    let id := l * 64 + n
    let used := (mget 0 s.rxProduced id + 2 ^ 32 - mget 0 s.rxConsumed id) % 2 ^ 32
    if !q.enabled || !q.recv || decide (q.slots ≤ used) || !dieActive s k then (0xB07, [], s)
    else
      let head := qsF s q 11 0
      let phase := qsF s q 12 12
      let off := q.base + head * 4096
      if !grtOwned s k q.ctx off 4096 then (0x504, [], s)
      else
        let s := if p.payload.isEmpty then s else grtPut s k (off + 64) p.payload true
        let s := grtPut s k off (toBytes 8 (phase <<< 63 + p.payload.length <<< 32 + c)) true
        let h := (head + 1) % q.slots
        let s := qsSet s q 11 0 h
        let s := if h = 0 then qsSet s q 12 12 (1 - phase) else s
        (0, [], { s with rxProduced := mput 0 s.rxProduced id ((mget 0 s.rxProduced id + 1) % 2 ^ 32) })

/-- A packet of a contribution (R431): the packet at offset 0 is checked under R207, every later one is answered with its result, and
the rank arrives with the last. A later packet that cannot be placed keeps the rank from arriving (65536 in `partial_`; DESIGN CHOICE,
log entry 160). -/
def performContrib (s : State) (c : Nat) (p : Packet) : Nat × List Byte × State :=
  let k := p.die.toNat
  let slot := p.slot.toNat
  let rank := p.rank.toNat
  let off := p.addr.toNat
  let n := p.payload.length
  let id := (k * 64 + slot) * 1024 + rank
  let setP (s : State) (v : Option Nat) : State :=
    let x := conn s c
    setConn s c { x with partial_ := match v with | some v => mins x.partial_ id v | none => mdel x.partial_ id }
  if 5 < k ∨ !dieActive s k then (0xD80, [], s)
  else
    let len := (collSlot s k slot).elim 0 (·.len)
    let whole := decide (n = Nat.min 4096 (len - off))
    -- places the bytes: its code, and the state in which the rank has arrived with the last packet
    let place (s : State) : Nat × State :=
      match collSlot s k slot with
      | none => (0x50A, s)
      | some x =>
        let (code, s) := collPlace s k x rank off p.payload
        if code ≠ 0 then (code, s)
        else (0, if off + n = len then collArrive (setP s none) k slot rank else setP s (some 0))
    if off = 0 then
      let code := collCode s k (connCtx s c) slot rank
      let code := if code = 0 ∧ !whole then 0x50C else code
      let (code, s) := if code ≠ 0 then (code, s) else place s
      (code, [], if code ≠ 0 then setP s (some code) else s)
    else
      match mfind (conn s c).partial_ id with
      | none => (0x50C, [], s)
      | some v =>
        if v ≠ 0 then (v % 65536, [], s)
        else
          let (code, s) := if whole then place s else (0x50C, s)
          (0, [], if code ≠ 0 then setP s (some 65536) else s)

/-! ### Answers at the sender (R424, R428) -/

/-- The request that an answer is for. -/
def outReq (s : State) (c : Nat) (psn : BitVec 32) : Option OutReq := (conn s c).out.find? fun r => r.sends != 0 && r.pkt.psn == psn

/-- Writes an answer's data locally (R428). -/
def localWrite (s : State) (c : Nat) (r : OutReq) (data : List Byte) : Nat × State :=
  match r.owner with
  | none => (0, s)
  | some w =>
    if data.isEmpty then (0, s)
    else if r.lspace = 0 then
      let home := match takenAt s w.k w.key w.slot with | some t => bit (wd t.words 0) 47 | none => false
      engWrite s ⟨w.k, 65536 + w.key, connCtx s c, home⟩ r.laddr data
    else
      let code := localCode s (connCtx s c) 1 r.ldie r.laddr data.length
      if code ≠ 0 then (code, s) else (0, grtPut s r.ldie r.laddr data true)

/-- Handles an answer: its request is done, with the answer's status or what its data meets here. -/
def onAnswer (s : State) (n ty : Nat) : State :=
  match takePacket s n ty with
  | none => s
  | some (inPort, p, s) =>
    match connOf s p with
    | none => discard s inPort
    | some c =>
      match outReq s c p.psn with
      | none => s
      | some r =>
        if answerType r.pkt.ptype.toNat ≠ ty then s
        else
          let (code, s) := if p.status.toNat ≠ 0 then (p.status.toNat, s) else localWrite s c r p.payload
          a2aRecords (pumpAll (answered s c r code))

def retryMax (s : State) (c : Nat) : Nat := rf s .fabE2eCfg (connDie c) 0 0 7 0

/-- A NAK (R424, R430). -/
def onNak (s : State) (n : Nat) : State :=
  match takePacket s n 11 with
  | none => s
  | some (inPort, p, s) =>
    match connOf s p with
    | none => discard s inPort
    | some c =>
      if p.status = 0 then a2aRecords (resendFrom s c fun r => decide (psnAhead r.pkt.psn.toNat p.psn.toNat < 2 ^ 31))
      else if p.status ≠ 0xB07 then s
      else
        match outReq s c p.psn with
        | none => s
        | some r =>
          if retryMax s c + 1 ≤ r.rxFull + 1 then a2aRecords (connError s c (some r.pkt.psn) 0xB07 0xB04)
          else
            let x := conn s c
            setConn s c { x with out := x.out.map fun y => if y == r then { y with rxFull := y.rxFull + 1, rxWait := true } else y }

/-- Ten microseconds after an RX_FULL, the sender acts under R424 (R430). -/
def rxFullRetry (s : State) (c : Nat) : State :=
  let x := conn s c
  match x.out.find? (·.rxWait) with
  | none => s
  | some r =>
    let s := setConn s c { x with out := x.out.map fun y => { y with rxWait := false } }
    a2aRecords (pumpAll (resendFrom s c fun y => y.pkt.psn == r.pkt.psn))

/-- The oldest request has been unanswered for RTO_US (R424). -/
def rtoExpiry (s : State) (c : Nat) : State :=
  let sent := (conn s c).out.filter fun r => r.sends != 0
  match sent.find? fun r => decide (retryMax s c + 1 ≤ r.sends) with
  | some r => a2aRecords (connError s c (some r.pkt.psn) 0xB03 0xB04)
  | none => if sent.isEmpty then s else a2aRecords (resendFrom s c fun _ => true)

/-- The home L-die of connections is lost (R40, R424): every valid one enters ERROR. -/
def connsLost (s : State) (die : Nat) : State :=
  let base := regAddr .fabConn die 0 0
  let open_ := s.regs.filterMap fun e =>
    if decide (base ≤ e.1) && decide (e.1 < base + 2048 * 32) && (e.1 - base) % 32 == 0 && bit e.2.toNat 63 then
      some ((die - 10) * 2048 + (e.1 - base) / 32)
    else none
  a2aRecords (open_.foldl (fun s c => connError s c none 0xD80 0xD80) s)

/-! ### Receive and send queues (R427, R430) -/

/-- Whether an enable is refused (R427). -/
def fabEnableRefused (s : State) (l v : Nat) : Bool :=
  let recv := bit v 62
  let log2 := bits v 55 52
  let ctx := bits v 61 56
  let base := bits v 47 28 * 128
  let bell := bits v 27 4 * 8
  let len := (if recv then 4096 else 128) * 2 ^ (log2 + 4)
  let k := cDieOf l
  decide ((if recv then 4 else 8) < log2) || (recv && base % 4096 != 0)
    || !(decide (base + len ≤ grtEnd) && decide (bell + 8 ≤ grtEnd) && grtOwned s k ctx base len && grtOwned s k ctx bell 8)
    || (decide (base ≤ bell) && decide (bell < base + len))

/-- A write of FAB_QCFG_n. A refused enable leaves the register and records its code (DEDUCED, log entry 22); an accepted one starts the
ring over, and CODE stays (R427, R440). -/
def fabQcfgWrite (s : State) (l n v : Nat) : State :=
  let new := Reg.fabQcfg.spec.write (rget s .fabQcfg l 0 n) v
  let k := cDieOf l
  if bit (rget s .fabQcfg l 0 n) 63 then
    if bit v 63 then s else queueStop (rset s .fabQcfg l 0 n new) k (32 + n)
  else if bit v 63 then
    if fabEnableRefused s l new then rfset s .fabQstat l 0 n 47 32 0xB0A
    else
      let s := rset s .fabQcfg l 0 n new
      let s := rset s .fabQstat l 0 n (2 ^ 12 + rf s .fabQstat l 0 n 47 32 <<< 32)
      { s with rxConsumed := mdel s.rxConsumed (l * 64 + n), rxProduced := mdel s.rxProduced (l * 64 + n) }
  else rset s .fabQcfg l 0 n new

end Sys2Proof.Machine
end

