-- ==== Sys2Proof/Machine/Engines.lean ====
section
/-!
DEFINITION. The commands of the Grotto and its engines: ownership (R188-R190, R211), doorbells (R192), the start and completion of
descriptors (R194-R197), contributions, records and decoder bindings.
-/
namespace Sys2Proof.Machine

/-! ### Ownership (R190, R211) -/

/-- A write of entries of GRT_OWNER_m waits for the accesses that the Grotto has accepted, behind earlier ones. `mask` says which of
the register's eight entries it writes. -/
def ownerPend (s : State) (k m mask v : Nat) : State :=
  let g := grotto s k
  setGrotto s k { g with ownerPending := g.ownerPending ++ [(m, mask, v &&& 0xBFBFBFBFBFBFBFBF)] }

/-- A write of GRT_OWNER_m. -/
def ownerWrite (s : State) (k m v : Nat) : State := ownerPend s k m 0xFF v

/-- A granule's new entry: one that becomes valid or changes its context finds zeros. -/
def granuleGets (s : State) (k gr new : Nat) : State :=
  let g := grotto s k
  let old := ownerEntry s k gr
  let zero := bit new 7 && (!bit old 7 || old % 64 != new % 64)
  let lo := gr * 0x100000
  let out (a : Nat) : Bool := decide (a < lo) || decide (lo + 0x100000 ≤ a)
  let g := if zero then { g with bytes := g.bytes.filter fun e => out e.1, poison := g.poison.filter fun w => out (w * 8) } else g
  let g := if old ≠ new then spoilStreams g lo 0x100000 else g
  rfset (setGrotto s k g) .grtOwner k 0 (gr / 8) (8 * (gr % 8) + 7) (8 * (gr % 8)) new

/-- The entries of a write change together (R10). -/
def ownerSet (s : State) (k : Nat) (w : Nat × Nat × Nat) : State :=
  (List.range 8).foldl (fun s j =>
    if bit w.2.1 j then granuleGets s k (8 * w.1 + j) (bits w.2.2 (8 * j + 7) (8 * j)) else s) s

/-- A change of a granule's ownership takes effect: the oldest write of its register that waits, with all of its entries. -/
def ownerEffect (s : State) (k gr : Nat) : State :=
  let g := grotto s k
  match g.ownerPending.find? fun w => w.1 == gr / 8 with
  | none => s
  | some w => ownerSet (setGrotto s k { g with ownerPending := g.ownerPending.erase w }) k w

/-! ### Aperture accesses (R186-R189) -/

/-- The context that an access carries. -/
def apertureCtx (s : State) : ApertureAgent → Option Nat
  | .tile t _ => some (tile s t).ctx
  | .engine k q => some (bits (rget s .grtQcfg k 0 q) 58 53)
  | _ => none

/-- The access is an engine's. -/
def apertureEngine : ApertureAgent → Bool
  | .engine _ _ => true
  | _ => false

/-- The error goes to the requester: a tile's job has an imprecise fault (R187). -/
def apertureFail (s : State) (who : ApertureAgent) (code : Nat) : State :=
  match who with
  | .tile t _ => imprecise s t code
  | _ => s

/-- The operands of an atomic: for cas, compare and swap in turn. -/
def bankOperands (aop : Nat) : List W64 → List (Nat × Nat)
  | a :: b :: r => if aop = 7 then (a.toNat, b.toNat) :: bankOperands aop r else (a.toNat, 0) :: bankOperands aop (b :: r)
  | [a] => [(a.toNat, 0)]
  | [] => []

def accessLen : Access → Nat
  | .read n => n
  | .write bs => bs.length
  | .atomic _ ty _ => atomWidth ty.toNat / 8

/-- What the ECC of the words that a read or an atomic meets finds (R187): a corrected error is counted, a word with an
uncorrectable one is poisoned. Word 0 holds the access's first byte. -/
def grtEcc (s : State) (k off n : Nat) : WordEcc → State
  | .good => s
  | .corrected w =>
    if (off / 8 + w) * 8 < off + n then correctedBy s k 1 else s
  | .bad w =>
    if (off / 8 + w) * 8 < off + n then
      let g := grotto s k
      setGrotto s k { g with poison := kins g.poison (off / 8 + w) }
    else s

/-- A group's write through an aperture, against the Flowstone commands of the die (R159, R171). -/
def apertureMark (s : State) (who : ApertureAgent) (k off n : Nat) : State :=
  match who with
  | .tile t g => keepOutGrotto s t g k off n
  | _ => s

/-- The write of a range of an aperture, line by line (R25): the lines beyond the array are not performed. -/
def apertureWrite (s : State) (who : ApertureAgent) (k off : Nat) (bs : List Byte) : State :=
  let r := (pieces off bs.length).foldl (fun (acc : Nat × State) p =>
    let (code, s) := acc
    let c := if grtEnd < p.1 + p.2 then 0x840 else apertureCode s k (apertureCtx s who) p.1 p.2
    let s := if c = 0 then apertureMark (grtPut s k p.1 ((bs.drop (p.1 - off)).take p.2) (apertureEngine who)) who k p.1 p.2 else s
    (if c = 0x840 ∨ code = 0 then c else code, s)) (0, s)
  if r.1 ≠ 0 then apertureFail r.2 who r.1 else r.2

/-- An access through an aperture: its code, checked for all of its lines (R25, R187-R189). -/
def apertureAccess (s : State) (who : ApertureAgent) (k off : Nat) (acc : Access) (ecc : WordEcc) : State :=
  let n := accessLen acc
  let code := if grtEnd < off + n then 0x840 else apertureCode s k (apertureCtx s who) off n
  if n = 0 then s
  else
    match acc with
    | .write bs => apertureWrite s who k off bs
    | .read n =>
      if code ≠ 0 then apertureFail s who code
      else
        let s := drpSeen (grtEcc s k off n ecc) k off n (apertureEngine who)
        if (grtRead s k off n).1 ≠ 0 then apertureFail s who 0x506 else s
    | .atomic aop ty ops =>
      if code ≠ 0 then apertureFail s who code
      else
        let w := 2 ^ atomWidth ty.toNat
        if atomLegal aop.toNat ty.toNat ∧ off % n = 0 then
          let s := grtEcc s k off n ecc
          let r := grtAtomic s k off aop.toNat ty.toNat ((bankOperands aop.toNat ops).map fun p => (p.1 % w, p.2 % w)) (apertureEngine who)
          if r.1 ≠ 0 then apertureFail s who r.1 else apertureMark r.2.2 who k off n
        else s

/-! ### The start of a descriptor (R191, R194, R215, R254) -/

/-- The queue of a C-die that a reference names. -/
def queueOf : QueueRef → Nat × Nat
  | .grt k n => (k.val, n.val)
  | .fab l n => (cDieOf (10 + l.val), 32 + n.val)

/-- The dies of a queue run. -/
def queueUp (s : State) (k key : Nat) : Bool := dieActive s k && (decide (key < 32) || (match lDieOf k with | some l => dieActive s l | none => false))

/-- The next descriptor to start: the first that is taken, has not started, and has no result. -/
def headOf (s : State) (k key : Nat) : Option Taken := (queue s k key).taken.find? fun t => !t.started && t.result.isNone

def waits (t : Taken) : Bool := bit (wd t.words 0) 44
/-- Why the WAIT word cannot be read (R187, R189). -/
def waitCode (s : State) (k : Nat) (t : Taken) : Nat :=
  let off := bits (wd t.words 2) 31 0
  if !waits t then 0 else if !grtOwned s k t.ctx off 8 then 0x504 else if grtBad s k off 8 then 0x506 else 0

/-- WAIT and FENCE hold, and a decoder stream that it would change is not changing yet. -/
def canStart (s : State) (k key : Nat) (t : Taken) : Bool :=
  let q := queue s k key
  let op := bits (wd t.words 0) 63 56
  let bind := t.engine == 6 && (op == 0x10 || op == 0x11)
  (!waits t || decide (wd t.words 3 ≤ grtWord s k (bits (wd t.words 2) 31 0)))
  && (!bit (wd t.words 0) 43 || q.taken.head? == some t)
  && !(bind && (decoder s k (decKey (bits (wd t.words 6) 63 59) (bits (wd t.words 6) 58 55))).changing.isSome)

/-- A queue of an engine whose head can start; the Helictite engine runs one descriptor of a queue at a time. -/
def queueReady (s : State) (k engine key : Nat) : Bool :=
  match headOf s k key with
  | some t => t.engine == engine && waitCode s k t == 0 && canStart s k key t && (engine != 6 || !((queue s k key).taken.any (·.started)))
  | none => false

/-- The queue that is next in the rotation of R254. -/
def rotation (s : State) (k engine last : Nat) : Option Nat := ((List.range 32).map fun i => (last + i) % 32).find? (queueReady s k engine)

/-- How many descriptors of an engine run. -/
def running (s : State) (k engine : Nat) : Nat :=
  (grotto s k).queues.foldl (fun n e => n + (e.2.taken.filter fun t => t.started && t.engine == engine).length) 0

/-- The engine has room for this queue's head, and it is the queue's turn (R215, R254). -/
def hasRoom (s : State) (k key engine : Nat) : Bool :=
  match engine with
  | 6 => decide (running s k 6 < 4) && rotation s k 6 (grotto s k).hlxLast == some key
  | 7 => running s k 7 == 0 && rotation s k 7 (grotto s k).drpLast == some key
  | _ => true

/-- What an engine does with a descriptor. -/
def engineRun (engine key dslot : Nat) (w : List W64) (e : Eng) : Done × Eng :=
  match engine with
  | 0 | 1 | 2 | 3 => xferStart e key dslot w
  | 4 => cmpStart e w
  | 5 => collOpen e key dslot w
  | 6 => hlxStart e key dslot w
  | 7 => drpStart e w
  | _ => fabStart e key dslot w

/-- The first descriptor that has not started changes. -/
def headMod (s : State) (k key : Nat) (t : Taken) (f : Taken → Taken) : State :=
  let q := queue s k key
  let i := q.taken.idxOf t
  setQueue s k key { q with taken := q.taken.set i (f t) }

/-- DRP_STATUS.BUSY (R268). -/
def drpBusy (s : State) (k : Nat) : State := rfset s .drpStatus k 0 0 0 0 (b2n (running s k 7 != 0))

/-- Runs a descriptor. If it touches bytes that an earlier descriptor of the queue, still uncompleted, touches and one of
the two writes, what both write is undefined (R194). -/
def runDesc (s : State) (k key : Nat) (t : Taken) : State :=
  let earlier := (queue s k key).taken.filter (·.started)
  let s1 := headMod s k key t fun t => { t with started := true }
  let by_ : EngBy := ⟨k, 65536 + key, t.ctx, bit (wd t.words 0) 47⟩
  let go (s : State) (spoil : Bool) : Done × Eng := engineRun t.engine key t.slot t.words ⟨s, by_, 0, 0, spoil, [], []⟩
  let r := go s1 t.spoiled
  let clash := earlier.filter fun x => runsTouch r.2.writes (x.reads ++ x.writes) || runsTouch r.2.reads x.writes
  let again (s : State) (x : Taken) : State := takenMod (spoilRuns s by_ x.writes) k key x.slot fun x => { x with spoiled := true }
  let r := if clash.isEmpty then r else go (clash.foldl again s1) true
  let e := r.2
  let s := takenMod e.s k key t.slot fun x =>
    { x with reads := e.reads, writes := e.writes, fva := e.fva, spoiled := t.spoiled || !clash.isEmpty,
             result := match r.1 with | .now c i => some (c, i) | .later => x.result }
  let g := grotto s k
  let s := match t.engine with
    | 6 => setGrotto s k { g with hlxLast := (key + 1) % 32 }
    | 7 => drpBusy (setGrotto s k { g with drpLast := (key + 1) % 32 }) k
    | _ => s
  match r.1 with
  | .now _ _ => s
  | .later => if t.engine = 5 ∨ t.engine = 7 then s else settleDesc s k key t.slot

/-- DESCRIPTOR_START and WAIT_REEVALUATE: the head of a queue starts if its conditions hold and its engine has room. A WAIT
word that cannot be read completes it. -/
def descStart (s : State) (k key : Nat) : State :=
  match headOf s k key with
  | none => s
  | some t =>
    if !queueUp s k key then s
    else if waitCode s k t ≠ 0 then headMod s k key t fun x => { x with result := some (waitCode s k t, 0) }
    else if canStart s k key t && hasRoom s k key t.engine then runDesc s k key t
    else s

/-! ### Completion (R193, R194, R197) -/

/-- The add of SIGNAL: its code. -/
def signalAdd (s : State) (k key : Nat) (t : Taken) : Nat × State :=
  let a := bits (wd t.words 4) 47 0
  if !t.signal then (0, s)
  else if bit (wd t.words 0) 45 then engAdd s ⟨k, 65536 + key, t.ctx, false⟩ a (wd t.words 5)
  else if !grtOwned s k t.ctx a 8 then (0x504, s)
  else
    let r := grtAtomic s k a 0 2 [(wd t.words 5, 0)] true
    (r.1, r.2.2)

/-- A translation fault's address reaches the job's record (R386). -/
def descVa (s : State) (k key : Nat) (t : Taken) (code : Nat) : State :=
  if 0xA07 ≤ code ∧ code ≤ 0xA09 then
    match descJob s k key t.ctx with
    | some j => jobMod s j.ref fun j => if j.faultVa = 0 then { j with faultVa := t.fva } else j
    | none => s
  else s

/-- A descriptor of the Dripstone runs its rows, once its accumulator source is complete (R257, R264; that they run at its
completion is a DESIGN CHOICE, log entry 116). It answers code and INFO, or none while it has to wait. -/
def drpRun (s : State) (k key : Nat) (t : Taken) : Option (Nat × Nat) × State :=
  let by_ : EngBy := ⟨k, 65536 + key, t.ctx, bit (wd t.words 0) 47⟩
  if drpBlocked s k (drpOf t.words) then (none, s)
  else
    let (c, i, e) := drpWork t.words ⟨s, by_, 0, 0, t.spoiled, [], []⟩
    (some (c, i), e.s)

/-- DESCRIPTOR_COMPLETE: in ring order, word 1 and then the signal. Word 1 of a slot that the queue's context no longer owns is
not written, and the code says so (R189, R190). -/
def descComplete (s : State) (k key : Nat) : State :=
  let q := queue s k key
  match q.taken with
  | [] => s
  | t :: rest =>
    if !queueUp s k key then s
    else
      let s1 := setQueue s k key { q with taken := rest }
      match (if t.engine = 7 ∧ t.started ∧ t.result = none then drpRun s1 k key t else (t.result, s1)) with
      | (none, _) => s
      | (some (code, info), s) =>
        let s := if t.engine = 7 then drpBusy s k else if t.spoiled then spoilRuns s ⟨k, 65536 + key, t.ctx, false⟩ t.writes else s
        let mine := grtOwned s k t.ctx (t.off + 8) 8
        let s := if mine then grtPut s k (t.off + 8) (toBytes 8 (2 ^ 63 + code <<< 32 + info % 2 ^ 32)) true else s
        let code := if code = 0 ∧ !mine then 0x504 else code
        let (sc, s) := signalAdd s k key t
        descStatus (descVa (descStatus s k key t.ctx code) k key t code) k key t.ctx sc

/-! ### The commands -/

/-- GRT_OWNER_WRITE: Uszon and cores in machine mode. -/
def execGrtOwnerWrite (a : Agent) (k : CDie) (m : Fin 12) (v : W64) (s : State) : Out :=
  .next (if dieActive s k.val && agentMay a .uszonCore then ownerWrite s k m v.toNat else s)
/-- GRANULE_OWNER_EFFECT. -/
def execGranuleOwnerEffect (k : CDie) (gr : Fin 96) (s : State) : Out := .next (ownerEffect s k gr)
/-- GROTTO_APERTURE_ACCESS. -/
def execGrottoApertureAccess (who : ApertureAgent) (k : CDie) (off : BitVec 32) (acc : GrottoAccess) (s : State) : Out :=
  .next (apertureAccess s who k off.toNat acc.kind acc.ecc)
/-- GRT_DOORBELL. -/
def execGrtDoorbell (q : QueueRef) (s : State) : Out :=
  let (k, key) := queueOf q
  .next (if queueUp s k key then
      (match qcfg s k key with
       | some c => ringBell s k key (grtWord s k c.bell)
       | none => s)
    else s)
/-- DESCRIPTOR_START. -/
def execDescriptorStart (q : QueueRef) (s : State) : Out := .next (descStart s (queueOf q).1 (queueOf q).2)
/-- WAIT_REEVALUATE: the head of the queue, which has WAIT, starts if its condition holds now. -/
def execWaitReevaluate (q : QueueRef) (s : State) : Out :=
  let (k, key) := queueOf q
  .next (match headOf s k key with
    | some t => if waits t then descStart s k key else s
    | none => s)
/-- DESCRIPTOR_COMPLETE. -/
def execDescriptorComplete (q : QueueRef) (s : State) : Out := .next (descComplete s (queueOf q).1 (queueOf q).2)
/-- COLL_CONTRIBUTION. -/
def execCollContribution (k : CDie) (n : Nat) (s : State) : Out := .next (if dieActive s k.val then collContribution s k n else s)
/-- COLL_TIMEOUT. -/
def execCollTimeout (k : CDie) (slot : Fin 64) (s : State) : Out := .next (if dieActive s k.val then collTimeout s k slot else s)
/-- HLX_SEND_RECORD: the first destination of the queue whose rows are all written gets its record. -/
def execHlxSendRecord (k : CDie) (n : Fin 32) (s : State) : Out :=
  .next (if dieActive s k.val then
      (match (queue s k n).sends.find? recordReady with
       | some d => sendRecord s k n d
       | none => s)
    else s)
/-- DECODER_BINDING_EFFECT: `stream` counts from 0, so stream s is s - 1 here. -/
def execDecoderBindingEffect (k : CDie) (quad : Fin 32) (stream : Fin 8) (s : State) : Out :=
  .next (if dieActive s k.val then decoderEffect s k quad (stream.val + 1) else s)

end Sys2Proof.Machine
end

