-- ==== Sys2Proof/Machine/Fabric.lean ====
section
/-!
DEFINITION. The fabric's commands: ports and frames (R407-R413, R434-R436), routing (R420), the packets that reach this module
(R415, R421-R431) and the commands of its queues (R427, R430).
-/
namespace Sys2Proof.Machine

/-! ### Training (R412) -/

def portUp (s : State) (p : Nat) : Bool := dieActive s (portDie p)

/-- A port becomes ACTIVE with nothing in flight; at half width the port shows 4 lanes. -/
def portActivate (s : State) (p : Nat) (full : Bool) (node pport : Nat) : State :=
  let x := port s p
  let s := setPort s p { PortSt.reset with fullWidth := full, told := x.told, queue := x.queue, rx := x.rx }
  let s := setPortF (setPortF s p 47 30 node) p 29 26 pport
  pumpPortAll (setPortF (setPortF s p 7 4 (if full then 8 else 4)) p 3 0 pActive) p

/-- PORT_TRAIN: each end tells the other its node, port and the width of the lanes that locked, and the lower of the two widths
stands. A partner that is this module keeps the port DOWN. -/
def portTrain (s : State) (p : Nat) (r : TrainResult) : State :=
  if portSt s p ≠ pTraining ∨ !portUp s p then s
  else if !r.lowerHalf && !r.upperHalf then s
  else
  let s := setPort s p { port s p with
    told := some ⟨BitVec.ofNat 18 (nodeOf s (portDie p)), BitVec.ofNat 4 p, !(r.lowerHalf && r.upperHalf)⟩ }
  if r.partnerNode.toNat = nodeOf s (portDie p) then
    report (setPortF (setPortF (setPortF s p 3 0 pDown) p 7 4 0) p 63 48 0xB0C) 0xB0C (portDie p) 1 p 0
  else portActivate s p (r.lowerHalf && r.upperHalf && !r.partnerHalf) r.partnerNode.toNat r.partnerPort.toNat

/-- PORT_TRAIN_TIMEOUT: 50 ms without becoming ACTIVE (that CODE then names E_FAB_LINK_DOWN is a DESIGN CHOICE, log entry 80). -/
def trainTimeout (s : State) (p : Nat) : State :=
  if portSt s p ≠ pTraining ∨ !portUp s p then s
  else setPortF (setPortF (setPortF (setPortF s p 23 16 (Nat.min 255 (portF s p 23 16 + 1))) p 3 0 pDown) p 7 4 0) p 63 48 0xB0B

/-- PORT_TRAIN_RETRY: a DOWN port that is enabled trains again, but for one that met this module's own node ID. -/
def trainRetry (s : State) (p : Nat) : State :=
  if portSt s p = pDown ∧ portF s p 63 48 ≠ 0xB0C ∧ rf s .fabPortCtl (portDie p) (p % 4) 0 0 0 = 1 ∧ portUp s p = true then
    setPortF s p 3 0 pTraining
  else s

/-! ### FAB_PORT_CTL (R434) -/

/-- A wake begins (R413). -/
def portWakes (s : State) (p : Nat) : State := if portSt s p = pKeepalive then setPortF s p 3 0 pWaking else s

/-- A write of FAB_PORT_CTL: ENABLE 1 starts training of a port that is not enabled or DOWN, and ENABLE 0 takes the port DOWN and
leaves it DISABLED. -/
def portCtlWrite (s : State) (p v : Nat) : State :=
  if !portUp s p || (bit v 0 && rf s .fabNode (portDie p) 0 0 63 63 == 0) then s
  else
    let s := rset s .fabPortCtl (portDie p) (p % 4) 0 (Reg.fabPortCtl.spec.write (rget s .fabPortCtl (portDie p) (p % 4) 0) v)
    let s := setPortF s p 23 16 0
    if bit v 0 then
      if portSt s p = pDisabled ∨ portSt s p = pDown then setPortF s p 3 0 pTraining
      else if !bit v 4 then portWakes s p else s
    else if portSt s p = pDisabled then s
    else setPortF (portGoesDown s p 0xB0B) p 3 0 pDisabled

/-! ### Frames (R408-R410, R418) -/

/-- The flits of a packet enter the receive buffer, in its VC's reserved part first. -/
def rxTake (x : PortSt) (pk : Packet) : PortSt :=
  let v := pk.vc.toNat
  let r := Nat.min (pktFlits pk) (256 - mget 0 x.rxHeld v)
  { x with rxHeld := mput 0 x.rxHeld v (mget 0 x.rxHeld v + r),
           rxHeldShared := mput 0 x.rxHeldShared v (mget 0 x.rxHeldShared v + (pktFlits pk - r)), rx := x.rx ++ [pk] }

/-- They leave it, and their credits go back, shared ones first. -/
def rxReturn (x : PortSt) (pk : Packet) : PortSt :=
  let v := pk.vc.toNat
  let sh := Nat.min (pktFlits pk) (mget 0 x.rxHeldShared v)
  let r := Nat.min (pktFlits pk - sh) (mget 0 x.rxHeld v)
  { x with rxHeldShared := mput 0 x.rxHeldShared v (mget 0 x.rxHeldShared v - sh), rxHeld := mput 0 x.rxHeld v (mget 0 x.rxHeld v - r),
           rxShared := (x.rxShared + sh) % 65536, rxReserved := mput 0 x.rxReserved v ((mget 0 x.rxReserved v + r) % 65536) }

/-- A codeword with errors that the decoder has corrected is counted (R410). -/
def correctedCount (s : State) (p errors : Nat) : State := if errors = 0 then s else portCount s .fabFecCorrected p 1

/-- DATA_FRAME_RECEIVE: a data frame, in FSEQ order or not, or an idle one. -/
def dataFrame (s : State) (p : Nat) (f : DataFrame) : State :=
  if portSt s p ≠ pActive ∨ !portUp s p then s
  else if codewordBad f.symbolErrors then portCount (setPort s p { port s p with nakPending := true }) .fabFecUncorrectable p 1
  else
    let s := correctedCount s p f.symbolErrors
    let x := port s p
    if frameKind f ≠ 0 then s
    else if frameSeq f ≠ x.rxSeq then setPort s p { x with nakPending := true }
    else
      let flits := f.packets.foldl (fun n pk => n + pktFlits pk) 0
      portCount (setPort s p (f.packets.foldl rxTake { x with rxSeq := x.rxSeq + 1, nakPending := false })) .fabRxFlits p flits

/-- Credits that the partner has returned since its last report, from its cumulative counts. -/
def creditsBack (x : PortSt) (f : ControlFrame) : PortSt :=
  let newer (key n : Nat) : Nat := (n + 65536 - mget 0 x.returned key) % 65536
  let x' := (List.range 8).foldl (fun (y : PortSt) v =>
    let n := (f.reserved.getD v (BitVec.ofNat 16 (mget 0 x.returned v))).toNat
    { y with credits := mput 0 y.credits v (mget 0 y.credits v - newer v n), returned := mput 0 y.returned v n }) x
  { x' with sharedUsed := x'.sharedUsed - newer 8 f.shared.toNat, returned := mput 0 x'.returned 8 f.shared.toNat }

/-- Drops the data frames up to the last that the partner has received in order. -/
def ackFrames (x : PortSt) (last : BitVec 12) : PortSt :=
  match x.replay with
  | [] => x
  | f :: _ =>
    let n := (last - frameSeq f).toNat + 1
    if n ≤ x.replay.length then
      { x with replay := x.replay.drop n, openFlits := if n = x.replay.length then 0 else x.openFlits, replays := x.replays.filter fun e => (x.replay.drop n).any fun f => (frameSeq f).toNat == e.1 }
    else x

/-- A NAK replays the frames from the FSEQ that the partner expects (R410): whether there are any, and how often each has been
replayed. -/
def nakFrames (x : PortSt) (want : BitVec 12) : Bool × PortSt :=
  let again := x.replay.dropWhile fun f => frameSeq f != want
  (!again.isEmpty, { x with openFlits := 0, replays := again.foldl (fun m f => mput 0 m (frameSeq f).toNat (mget 0 m (frameSeq f).toNat + 1)) x.replays })

/-- What a port's next control frame carries (R409), every 256th frame position while its transmitter runs: everything that its
receiver knows, and what it asks for. In training it carries the parameters of R412, once lanes have locked (when a port asks for keep-alive, a wake or
down is a DESIGN CHOICE, log entry 119). -/
def portControl (s : State) (p : Nat) : ControlFrame :=
  let x := port s p
  let st := portSt s p
  let ctl (i : Nat) : Bool := rf s .fabPortCtl (portDie p) (p % 4) 0 i i == 1
  let quiet := st == pActive && x.replay.isEmpty && x.queue.isEmpty
  { lastAck := x.rxSeq - 1
    nak := if x.nakPending then some x.rxSeq else none
    reserved := (List.range 8).map fun v => BitVec.ofNat 16 (mget 0 x.rxReserved v)
    shared := BitVec.ofNat 16 x.rxShared
    kaRequest := quiet && ctl 4
    kaGrant := quiet && x.kaAsked
    wake := st == pWaking
    down := !ctl 0
    training := if st = pTraining then x.told else none }

/-- CONTROL_FRAME_RECEIVE: what its codeword brings, none where nothing came at the position. -/
def controlFrame (s : State) (p errors : Nat) (f : Option ControlFrame) : State :=
  if !portUp s p || !(portSt s p == pActive || portSt s p == pKeepalive || portSt s p == pWaking) then s
  else
    let miss (s : State) : State := setPort s p { port s p with missed := (port s p).missed + 1 }
    match f with
    | none => miss s
    | some f =>
      if codewordBad errors then miss (portCount s .fabFecUncorrectable p 1)
      else
        let s := correctedCount s p errors
        let x := ackFrames (creditsBack { port s p with missed := 0 } f) f.lastAck
        let (replayed, x) := match f.nak with
          | some want => nakFrames x want
          | none => (false, x)
        let s := setPort s p { x with kaAsked := f.kaRequest, kaGranted := f.kaGrant, downAsked := x.downAsked || f.down }
        let s := if replayed then portCount s .fabReplays p 1 else s
        pumpPortAll (if f.wake then portWakes s p else s) p

/-- PORT_DOWN: only where its cause holds (R411). -/
def portDownNow (s : State) (p : Nat) (why : DownCause) : State :=
  let x := port s p
  let holds : Bool := match why with
    | .controlMissed => decide (8 ≤ x.missed)
    | .replayLimit => x.replays.any fun e => decide (16 ≤ e.2)
    | .partner => x.downAsked
  if holds && portUp s p && (portSt s p == pActive || portSt s p == pKeepalive || portSt s p == pWaking) then
    portGoesDown s p 0xB0B
  else s

/-! ### Keep-alive (R413) -/

/-- KEEPALIVE_ENTER: the partner has granted what KA asks for, or this end grants what the partner asks for. -/
def keepalive (s : State) (p : Nat) : State :=
  let x := port s p
  let ka := rf s .fabPortCtl (portDie p) (p % 4) 0 4 4 == 1
  if portUp s p && portSt s p == pActive && x.replay.isEmpty && x.queue.isEmpty && (x.kaAsked || (ka && x.kaGranted)) then
    setPortF (setPortF s p 3 0 pKeepalive) p 7 4 0
  else s

/-- PORT_WAKE: lanes 1-7 are restored. -/
def portWoken (s : State) (p : Nat) : State :=
  if portSt s p = pWaking ∧ portUp s p = true then
    pumpPortAll (setPortF (setPortF s p 7 4 (if (port s p).fullWidth then 8 else 4)) p 3 0 pActive) p
  else s

/-! ### PACKET_ROUTE (R416, R420) -/

/-- The oldest packet of a port's receive buffer leaves it, with the trailer that came with it, and goes its way. -/
def routeNext (s : State) (p : Nat) (trailer : W64) : State :=
  let x := port s p
  match x.rx with
  | [] => s
  | pk :: rest =>
    if !portUp s p then s
    else
      let s := setPort s p (rxReturn { x with rx := rest } pk)
      if trailer ≠ packetTrailer pk then report (portCount s .fabDiscards p 1) 0xB0D (portDie p) 0 p 0
      else if !typeKnown pk.ptype.toNat then portCount s .fabDiscards p 1
      else (forward s (portDie p) p pk).2

/-! ### The commands -/

/-- PORT_TRAIN. -/
def execPortTrain (p : Port) (r : TrainResult) (s : State) : Out := .next (portTrain s p r)
/-- PORT_TRAIN_TIMEOUT. -/
def execPortTrainTimeout (p : Port) (s : State) : Out := .next (trainTimeout s p)
/-- PORT_TRAIN_RETRY. -/
def execPortTrainRetry (p : Port) (s : State) : Out := .next (trainRetry s p)
/-- FAB_PORT_CTL_WRITE: Uszon and cores in machine mode. -/
def execFabPortCtlWrite (a : Agent) (p : Port) (v : W64) (s : State) : Out :=
  .next (if agentMay a .uszonCore then portCtlWrite s p v.toNat else s)
/-- DATA_FRAME_RECEIVE. -/
def execDataFrameReceive (p : Port) (f : DataFrame) (s : State) : Out := .next (dataFrame s p f)
/-- CONTROL_FRAME_RECEIVE. -/
def execControlFrameReceive (p : Port) (f : ControlCodeword) (s : State) : Out :=
  .next (controlFrame s p f.symbolErrors f.frame)
/-- PORT_DOWN. -/
def execPortDown (p : Port) (why : DownCause) (s : State) : Out := .next (portDownNow s p why)
/-- KEEPALIVE_ENTER. -/
def execKeepaliveEnter (p : Port) (s : State) : Out := .next (keepalive s p)
/-- PORT_WAKE. -/
def execPortWake (p : Port) (s : State) : Out := .next (portWoken s p)
/-- PORT_WAKE_TIMEOUT. -/
def execPortWakeTimeout (p : Port) (s : State) : Out :=
  .next (if portSt s p = pWaking ∧ portUp s p = true then portGoesDown s p 0xB0B else s)
/-- PACKET_ROUTE. -/
def execPacketRoute (p : Port) (trailer : W64) (s : State) : Out := .next (routeNext s p trailer)
/-- WRITE_PACKET. -/
def execWritePacket (n : Nat) (s : State) : Out := .next (onRequest s n 1 performWrite)
/-- READ_PACKET. -/
def execReadPacket (n : Nat) (s : State) : Out := .next (onRequest s n 2 performRead)
/-- ATOMIC_PACKET. -/
def execAtomicPacket (n : Nat) (s : State) : Out := .next (onRequest s n 3 performAtomic)
/-- MESSAGE_PACKET. -/
def execMessagePacket (n : Nat) (s : State) : Out := .next (onRequest s n 4 performMessage)
/-- CONTRIB_PACKET. -/
def execContribPacket (n : Nat) (s : State) : Out := .next (onRequest s n 5 performContrib)
/-- ACK_PACKET. -/
def execAckPacket (n : Nat) (s : State) : Out := .next (onAnswer s n 8)
/-- READ_DATA_PACKET. -/
def execReadDataPacket (n : Nat) (s : State) : Out := .next (onAnswer s n 9)
/-- ATOMIC_RESULT_PACKET. -/
def execAtomicResultPacket (n : Nat) (s : State) : Out := .next (onAnswer s n 10)
/-- NAK_PACKET. -/
def execNakPacket (n : Nat) (s : State) : Out := .next (onNak s n)
/-- FAB_RX_FULL_RETRY. -/
def execFabRxFullRetry (c : Fin 8192) (s : State) : Out := .next (if dieActive s (connDie c) then rxFullRetry s c else s)
/-- FAB_RTO_EXPIRY. -/
def execFabRtoExpiry (c : Fin 8192) (s : State) : Out := .next (if dieActive s (connDie c) then rtoExpiry s c else s)
/-- FAB_QCFG_WRITE: Uszon and cores in machine mode. -/
def execFabQcfgWrite (a : Agent) (l : LDie) (n : Fin 64) (v : W64) (s : State) : Out :=
  .next (if dieActive s (10 + l.val) && agentMay a .uszonCore then fabQcfgWrite s (10 + l.val) n v.toNat else s)
/-- FAB_RXQ_DOORBELL: software writes its count to the doorbell word of an enabled receive queue. -/
def execFabRxqDoorbell (l : LDie) (n : Fin 64) (v : W64) (s : State) : Out :=
  let k := cDieOf (10 + l.val)
  .next (match qcfg s k (32 + n.val) with
    | some q => if q.enabled && q.recv && dieActive s k && dieActive s (10 + l.val) then grtWrite s k q.bell (toBytes 8 v.toNat) else s
    | none => s)

end Sys2Proof.Machine
end

