-- ==== Sys2Proof/Machine/Uszon.lean ====
section
/-!
DEFINITION. Uszon's own commands and events: the fault mailbox (R522-R525), the management commands of R526 that no other
chapter owns, keys (R530), firmware (R531-R535), attestation (R536, R537) and the epoch latch (R538-R541).
-/
namespace Sys2Proof.Machine

/-! ### Sensors (R496, R499) -/

/-- The number of a sensor in the state. -/
def sensorNo : Sensor → Nat
  | .junction d => dieIdx d
  | .stack m => 64 + m.val
  | .package x n => 96 + 12 * x.val + n.val

/-- The sensors of a die. -/
def dieSensors (n : Nat) : List Nat :=
  [n] ++ (if 16 ≤ n ∧ n ≤ 27 then [48 + n] else [])
    ++ (if n = 14 ∨ n = 15 then (List.range 12).map fun i => 96 + 12 * (n - 14) + i else [])

/-- Throttle, release and trip temperatures of a sensor, in degrees (R496). -/
def sensorLimits (no : Nat) : Int × Int × Int :=
  if no = 14 ∨ no = 15 then (95, 90, 110) else if no < 16 then (100, 95, 115) else (95, 90, 105)

/-- What a sensor counts as: its last reading, or its throttle temperature once it has failed (R499). -/
def sensorTemp (s : State) (no : Nat) : Option Int :=
  if s.rim.failed.contains no then some (sensorLimits no).1 else mfind s.rim.readings no

/-- Every sensor number. -/
def sensorList : List Nat := dieList.flatMap dieSensors

/-- Some sensor is above its release temperature (R498). -/
def aboveRelease (s : State) : Bool :=
  sensorList.any fun no => match sensorTemp s no with
    | some t => decide ((sensorLimits no).2.1 < t)
    | none => false

/-- The hottest valid reading of a die. -/
def hottest (s : State) (n : Nat) : Option Int :=
  (dieSensors n).foldl (fun a no =>
    if s.rim.failed.contains no then a
    else match mfind s.rim.readings no, a with
      | some t, some u => some (if u < t then t else u)
      | some t, none => some t
      | none, a => a) none

/-- A temperature as a byte: two's complement, 0xFF where there is none (R526, DEDUCED, log entry 39). -/
def tempByte (o : Option Int) : Byte :=
  match o with
  | some t => BitVec.ofNat 8 (wrap 8 t)
  | none => 0xFF

/-! ### The fault mailbox (R523-R525) -/

/-- The fault records that the flash holds (R518): its region in records of 32 bytes. -/
def faultLogSize : Nat := FlashRegion.faultLog.range.2 / 32

/-- A record appended to the flash fault log, which overwrites its oldest records when it is full (R518). -/
def logRecord (log : List (List W64)) (r : List W64) : List (List W64) := log.drop (log.length + 1 - faultLogSize) ++ [r]

/-- Writes the next fault record to the ring, counts it, and sends it on (R523, R524). -/
def recordFault (s : State) (e : FaultEvent) : State :=
  let seq := rf s .mbxFaultStatus 14 0 0 63 32
  let w0 := seq <<< 32 + (e.code % 65536) <<< 16 + (e.die % 256) <<< 8 + (e.severity % 4) <<< 6 + 1
  let rec4 := [w0, s.master.toNat, e.info0, e.info1]
  let slot := seq % 32
  let s := (List.range 4).foldl (fun s i => rset s .mbxFaultRing 14 0 (4 * slot + i) (nth rec4 i)) s
  let s := rfset s .mbxFaultStatus 14 0 0 63 32 (seq + 1)
  let s := { s with flash := { s.flash with faultLog := logRecord s.flash.faultLog (rec4.map w64) },
                    side := { s.side with ibi := s.side.ibi ++ [0x02] } }
  let s := match s.side.lastRequester with
    | some d => if s.host.linkUp then mctpSend s d (holtordMsg 0x03 (rec4.flatMap (toBytes 8))) else s
    | none => s
  msix s 0

/-- FAULT_RECORD (R523): Uszon records the oldest event that waits, once it is ready. -/
def execFaultRecord (s : State) : Out :=
  .next (if s.uszon.running || s.uszon.recovery then
      match s.uszon.faults with
      | [] => s
      | e :: rest => recordFault { s with uszon := { s.uszon with faults := rest } } e
    else s)

/-- A write of MBX_FAULT_SOFT (R525). -/
def faultSoftWrite (s : State) (v : Nat) : State := report s 0xF08 0xFF 0 (bits v 15 0) 0

/-- MBX_FAULT_SOFT_WRITE: any agent that reaches register space. -/
def execMbxFaultSoftWrite (a : Agent) (v : W64) (s : State) : Out :=
  .next (if agentMay a .any then faultSoftWrite s v.toNat else s)

/-! ### Information -/

/-- GET_INFO (R526): the recovery loader runs no image, whose fields then read zero (DEDUCED, log entry 32). -/
def execGetInfo (m : Mbx) (s : State) : Out :=
  .next (mbxRun s m ⟨0x0001, lenIs 0, fun _ => true, false⟩ fun s _ =>
    let img := imgBytes s.uszon.image
    let ver := if s.uszon.running then toBytes 8 (imgWord img 2) else List.replicate 8 0
    let svn := if s.uszon.running then toBytes 4 (bits (imgWord img 1) 63 32) else List.replicate 4 0
    (s, .done 0 (ascii "KZ4-N1A" ++ List.replicate 9 0 ++ [0xA1, BitVec.ofNat 8 (b2n s.uszon.recovery)]
      ++ List.replicate 6 0 ++ ver ++ svn ++ toBytes 2 (moduleTiles s) ++ [0, 0] ++ toBytes 16 Config.serialNumber.toNat)))

/-- GET_NONCE (R526). -/
def execGetNonce (m : Mbx) (s : State) : Out :=
  .next (mbxRun s m ⟨0x0002, lenIs 0, fun _ => true, false⟩ fun s _ =>
    (s, .done 0 (nonceBytes s ++ toBytes 8 (mbxFloor s m) ++ [BitVec.ofNat 8 (b2n s.flash.keys.ownerKey.isSome)])))

/-- GET_SENSORS (R526). -/
def execGetSensors (m : Mbx) (s : State) : Out :=
  .next (mbxRun s m ⟨0x0003, lenIs 0, fun _ => true, false⟩ fun s _ =>
    (s, .done 0 ((List.range 32).map (fun n => if dieUsed n then tempByte (hottest s n) else 0xFF)
      ++ toBytes 8 (rget s .rimModPower 14) ++ toBytes 8 (rget s .rimModBudget 14)
      ++ toBytes 8 (rget s .rimModEnergy 14) ++ toBytes 8 s.master.toNat)))

/-! ### Telemetry (R538-R541) -/

/-- Ticks of one period of `us` microseconds. -/
def periodTicks (us : Nat) : Nat := us * 1000

/-- The first multiple of `p` after `t`. -/
def nextMultiple (t p : Nat) : Nat := (t / p + 1) * p

/-- The register-space address of an event counter that is live: on an active die, and, in a tile block, of a present tile
(R539, R574). -/
def liveCounter (s : State) (a : Nat) : Bool :=
  let die := bits a 39 32
  bits a 47 40 == 0xF0 && bits a 63 48 == 0 &&
  match regAt die (bits a 31 0) with
  | some (r, i, _) => r.spec.counter && dieActive s die && !anyFatal s
      && (!(decide (0x10000000 ≤ bits a 31 0)) || tilePresent s (128 * die + i))
  | none => false

/-- The shadow of an event counter: at its address plus 0x8000 (R539). -/
def shadowOf (s : State) (a : Nat) : Nat :=
  match regAt (bits a 39 32) (bits a 31 0) with
  | some (r, i, j) => (mget 0 s.regs (regAddr r (bits a 39 32) (regHome r i) j + 0x8000)).toNat
  | none => 0

/-- An address is that of an event counter. -/
def isCounter (a : Nat) : Bool :=
  match regAt (bits a 39 32) (bits a 31 0) with
  | some (r, _, _) => r.spec.counter
  | none => false

/-- An address is the shadow of some event counter. -/
def isShadow (a : Nat) : Bool := decide (0x8000 ≤ bits a 31 0) && isCounter (a - 0x8000)

/-- Every island of a die copies its counters to their shadows (R538). -/
def latchDie (s : State) (n epoch tick : Nat) : State :=
  let live := s.regs.filter fun e => bits e.1 39 32 == n && isCounter e.1
  let rest := s.regs.filter fun e => !(bits e.1 39 32 == n && isShadow e.1)
  let regs := live.foldl (fun m e => mput 0 m (e.1 + 0x8000) e.2) rest
  let s := { s with regs := regs }
  rset (rset s .telShadowEpoch n 0 0 (epoch <<< 32 + 1)) .telShadowTb n 0 0 tick

/-- TEL_EPOCH_CTL.PERIOD_US. -/
def periodUs (s : State) : Nat := rf s .telEpochCtl 14 0 0 31 0

/-- The tick of the next boundary (R538). -/
def nextBoundary (s : State) : Nat :=
  if s.uszon.nextBoundary = 0 then nextMultiple 0 (periodTicks (periodUs s)) else s.uszon.nextBoundary

/-- A copy after the master has moved on to `m` (R33): it moves with the master, or, while it holds, waits until the master
has reached it. -/
def copyMoves (s : State) (m : W64) (n : Nat) : State :=
  let c := mget 0 s.copies n
  if n != 14 && dieActive s n && !(s.copyHeld.contains n && decide (m.toNat ≤ c.toNat)) then
    { s with copies := mput 0 s.copies n (if s.copyHeld.contains n then m else c + (m - s.master)), copyHeld := kdel s.copyHeld n }
  else s

/-- The master timebase runs on to tick `m`, and the copies with it (R15, R33). It never moves back. -/
def timeRuns (s : State) (m : W64) : State :=
  if s.master.toNat < m.toNat then { dieList.foldl (fun s n => copyMoves s m n) s with master := m } else s

/-- A TIMEBASE_SET whose moment has not come and is not after tick `t` (R541). -/
def stepDue (s : State) (t : Nat) : Bool :=
  match s.uszon.timeSet with
  | some (at_, _) => decide (at_ ≤ t)
  | none => false

/-- EPOCH_LATCH (R538, R541): at the next boundary every active die latches and stamps the new epoch number; a waiting
period then takes effect at its first multiple. The boundary carries its own moment, so the master has reached it; a
boundary beyond the moment of a TIMEBASE_SET does not come before that moment (DESIGN CHOICE, log entry 97). -/
def execEpochLatch (tick : W64) (s : State) : Out :=
  .next (if s.pins.aux && !s.pins.auxReset && tick.toNat == nextBoundary s && !stepDue s tick.toNat then
      let t := tick.toNat
      let e := s.uszon.epoch + 1
      let nb := nextMultiple t (periodTicks (s.uszon.newPeriod.getD (periodUs s)))
      let s := timeRuns s tick
      let s := { s with uszon := { s.uszon with epoch := e, newPeriod := none, nextBoundary := nb } }
      dieList.foldl (fun s n => if dieActive s n && !anyFatal s then latchDie s n e.toNat t else s) s
    else s)

/-- The addresses of a TEL_READ request. -/
def telAddrs (b : List Byte) : List Nat := (List.range (fld b 0 2)).map fun i => fld b (8 + 8 * i) 8

/-- TEL_READ (R540): the shadows of one epoch. While the dies' stamps differ, Uszon reads again. -/
def execTelRead (m : Mbx) (s : State) : Out :=
  .next (mbxRun s m ⟨0x0004, fun n b => n == 8 + 8 * fld b 0 2,
      fun b => decide (1 ≤ fld b 0 2 ∧ fld b 0 2 ≤ 120) && zeros b 2 6, true⟩ fun s b =>
    let as_ := telAddrs b
    if as_.any (fun a => !liveCounter s a) then (s, .done 0xF14 [])
    else
      let stamps := as_.map fun a => rget s .telShadowEpoch (bits a 39 32)
      let st := nth stamps 0
      if stamps.all (· == st) && bit st 0 then
        (s, .done 0 (toBytes 4 (bits st 63 32) ++ List.replicate 4 0
          ++ toBytes 8 (rget s .telShadowTb (bits (nth as_ 0) 39 32)) ++ as_.flatMap fun a => toBytes 8 (shadowOf s a)))
      else (s, .stay))

/-- Sets the epoch period (R541, R549): outside its range a write is discarded. -/
def telPeriodWrite (s : State) (us : Nat) : State :=
  if 100 ≤ us ∧ us ≤ 1000000 then
    let b := nextBoundary s
    { rset s .telEpochCtl 14 0 0 us with uszon := { s.uszon with newPeriod := some us, nextBoundary := b } }
  else s

/-- TEL_PERIOD (R541). -/
def execTelPeriod (m : Mbx) (s : State) : Out :=
  .next (mbxRun s m ⟨0x0502, lenIs 4, fun b => decide (100 ≤ fld b 0 4 ∧ fld b 0 4 ≤ 1000000), false⟩ fun s b =>
    (telPeriodWrite s (fld b 0 4), .done 0 []))

/-- TIMEBASE_SET (R541): Uszon picks a tick S at least 20 us ahead, which the manual does not fix further (DESIGN CHOICE, log entry 31);
a V not greater than S fails. The master reads V at S. While the moment of an earlier one has not come, Uszon does not take
the command yet (DESIGN CHOICE, log entry 31). -/
def execTimebaseSet (m : Mbx) (s : State) : Out :=
  .next (if s.uszon.timeSet.isSome then s else mbxRun s m ⟨0x0503, lenIs 8, fun _ => true, false⟩ fun s b =>
    let (f, s) := drawFree s
    let t := s.master.toNat + 20000 + f.toNat % 980000
    if fld b 0 8 ≤ t then (s, .done 0xF03 [])
    else ({ s with uszon := { s.uszon with timeSet := some (t, fld b 0 8) } }, .done 0 []))

/-! ### Settings kept in flash (R405, R507, R512, R513) -/

/-- FENCE_CLEAR (R405). -/
def execFenceClear (m : Mbx) (s : State) : Out :=
  .next (mbxRun s m ⟨0x0303, lenIs 2, fun b => decide (fld b 0 2 < 768 ∨ fld b 0 2 = 0xFFFF), false⟩ fun s b =>
    let t := fld b 0 2
    ({ s with flash := { s.flash with fenceRecord := if t = 0xFFFF then [] else kdel s.flash.fenceRecord t } }, .done 0 []))

/-- SET_BUDGET (R513): the limits are checked, written to RIM_MOD_BUDGET and stored. -/
def execSetBudget (m : Mbx) (s : State) : Out :=
  .next (mbxRun s m ⟨0x0401, lenIs 6, fun _ => true, false⟩ fun s b =>
    let lim := fld b 0 2
    let home := fld b 2 2
    let floor := fld b 4 2
    if 1000 ≤ lim ∧ lim ≤ 3600 ∧ floor ≤ home ∧ home ≤ lim then
      let s := rfset (rfset (rfset s .rimModBudget 14 0 0 63 48 lim) .rimModBudget 14 0 0 31 16 home) .rimModBudget 14 0 0 15 0 floor
      ({ s with flash := { s.flash with budget := some (lim, home, floor) } }, .done 0 [])
    else (s, .done 0xE06 []))

/-- The partner IDs of a SET_GROUP request. -/
def groupPartners (b : List Byte) : List Nat := (List.range (fld b 4 1)).map fun i => fld b (8 + 4 * i) 4

/-- SET_GROUP (R501): partner count 0 leaves the group. -/
def execSetGroup (m : Mbx) (s : State) : Out :=
  .next (mbxRun s m ⟨0x0402, fun n b => n == 8 + 4 * fld b 4 1,
      fun b => decide (fld b 4 1 ≤ 31) && zeros b 5 3
        && (groupPartners b).all (fun n => decide (n < 2 ^ 18)), false⟩ fun s b =>
    let ps := groupPartners b
    let cfg := if ps = [] then none else some (fld b 0 2, fld b 2 2, ps)
    ({ s with
        flash := { s.flash with groupCfg := cfg },
        rim := { s.rim with group := cfg.map (·.1), g := fld b 2 2, partners := ps.map Partner.new, grantTo := 0,
                            grantW := 0 } }, .done 0 []))

/-- SET_IDLE (R507): the deep-idle interval in milliseconds, 0 for none. -/
def execSetIdle (m : Mbx) (s : State) : Out :=
  .next (mbxRun s m ⟨0x0403, lenIs 4, fun b => decide (fld b 0 4 ≤ 60000), false⟩ fun s b =>
    let v := fld b 0 4
    let s := { s with flash := { s.flash with idleMs := some v }, rim := { s.rim with idleMs := v } }
    (if v = 0 then deepIdleExit s else s, .done 0 []))

/-- The range check of pacing parameters (R512). -/
def paceOk (cold spacing waves : Nat) : Bool :=
  decide (64 ≤ cold ∧ spacing % 8 = 0 ∧ 8 ≤ spacing ∧ spacing ≤ 1024 ∧ 1 ≤ waves ∧ waves ≤ 32)

/-- A write of RIM_PACE_CTL of C-die `k` (R512). -/
def paceWrite (s : State) (k v : Nat) : State :=
  if paceOk (bits v 47 32) (bits v 31 16) (bits v 5 0) then
    rset s .rimPaceCtl k 0 0 (Reg.rimPaceCtl.spec.write (rget s .rimPaceCtl k) v)
  else rfset s .rimPaceCtl k 0 0 63 48 0xE05

/-- RIM_PACE_CTL_WRITE (R512): only Uszon writes it. -/
def execRimPaceCtlWrite (a : Agent) (k : CDie) (v : W64) (s : State) : Out :=
  .next (if agentMay a .uszon && dieActive s k && !anyFatal s then paceWrite s k v.toNat else s)

/-- SET_PACE (R500, R512): the same values on all six C-dies. -/
def execSetPace (m : Mbx) (s : State) : Out :=
  .next (mbxRun s m ⟨0x0404, lenIs 5, fun _ => true, true⟩ fun s b =>
    let v := fld b 0 2 <<< 32 + fld b 2 2 <<< 16 + fld b 4 1 % 64
    let ok := paceOk (fld b 0 2) (fld b 2 2) (fld b 4 1)
    let s := (List.range 6).foldl (fun s k =>
      if ok then paceWrite s k v else rfset s .rimPaceCtl k 0 0 63 48 0xE05) s
    if ok then ({ s with flash := { s.flash with pace := some (w64 v) } }, .done 0 []) else (s, .done 0xE05 []))

/-- A job runs on a C-die. -/
def dieHasJob (s : State) (k : Nat) : Bool := s.jobs.any fun j => j.tiles.any fun t => t / 128 == k

/-- A write of DRP_RNG_CFG: while a job runs on the die it waits (R269). -/
def rngCfgWrite (s : State) (k : Nat) (table : Bool) : State :=
  if dieHasJob s k then
    let g := mget Grotto.reset s.grottos k
    { s with grottos := mput Grotto.reset s.grottos k { g with drpTablePending := some table } }
  else
    let g := mget Grotto.reset s.grottos k
    rfset { s with grottos := mput Grotto.reset s.grottos k { g with drpTablePending := none } } .drpRngCfg k 0 0 0 0 (b2n table)

/-- DRP_RNG_CFG_WRITE (R269): only Uszon writes it. -/
def execDrpRngCfgWrite (a : Agent) (k : CDie) (v : W64) (s : State) : Out :=
  .next (if agentMay a .uszon && dieActive s k && !anyFatal s then rngCfgWrite s k (bit v.toNat 0) else s)

/-- DRP_TABLE_APPLY (R269): no job runs on the die, and the waiting write takes effect. -/
def execDrpTableApply (k : CDie) (s : State) : Out :=
  .next (
    let g := mget Grotto.reset s.grottos k
    match g.drpTablePending with
    | some t =>
      if dieHasJob s k then s
      else rfset { s with grottos := mput Grotto.reset s.grottos k { g with drpTablePending := none } }
             .drpRngCfg k 0 0 0 0 (b2n t)
    | none => s)

/-- RNG_TABLE (R269, R526): stored in flash, and applied to every active C-die. -/
def execRngTable (m : Mbx) (s : State) : Out :=
  .next (mbxRun s m ⟨0x0501, lenIs 1, fun b => decide (fld b 0 1 ≤ 1), false⟩ fun s b =>
    let t := fld b 0 1 == 1
    let s := { s with flash := { s.flash with table := t } }
    ((List.range 6).foldl (fun s k => if dieActive s k && !anyFatal s then rngCfgWrite s k t else s) s, .done 0 []))

/-! ### Keys (R530) -/

/-- Writes the key store, then draws a fresh nonce (R530). -/
def keyStore (s : State) (key : Option (BitVec 256)) (nonce : W128) (flashOk : Bool) : State × MbxRes :=
  if flashOk then
    let s := { s with flash := { s.flash with keys := { s.flash.keys with ownerKey := key } } }
    (newNonce (rfset s .secStatus 14 0 0 0 0 (b2n key.isSome)) nonce, .done 0 [])
  else (s, .done 0xF12 [])

/-- OWNER_INSTALL (R530). -/
def execOwnerInstall (m : Mbx) (nonce : W128) (flashOk : Bool) (s : State) : Out :=
  .next (mbxRun s m ⟨0x0701, lenIs 32, fun _ => true, false⟩ fun s b =>
    if s.flash.keys.ownerKey.isSome then (s, .done 0xF0B []) else keyStore s (some (BitVec.ofNat 256 (fld b 0 32))) nonce flashOk)

/-- KEY_ROLL (R530). -/
def execKeyRoll (m : Mbx) (nonce : W128) (flashOk : Bool) (s : State) : Out :=
  .next (mbxRun s m ⟨0x0702, lenIs 32, fun _ => true, false⟩ fun s b =>
    if s.flash.keys.ownerKey.isNone then (s, .done 0xF0C []) else keyStore s (some (BitVec.ofNat 256 (fld b 0 32))) nonce flashOk)

/-- OWNER_CLEAR (R530). -/
def execOwnerClear (m : Mbx) (nonce : W128) (flashOk : Bool) (s : State) : Out :=
  .next (mbxRun s m ⟨0x0703, lenIs 0, fun _ => true, false⟩ fun s _ =>
    if s.flash.keys.ownerKey.isNone then (s, .done 0xF0C []) else keyStore s none nonce flashOk)

/-! ### The monotonic store and attestation (R535-R537) -/

/-- Commits a record with the next sequence number to both copies (R535). -/
def commitStore (s : State) (res svnMin : Nat) : State :=
  let r := ((storeRecord s).1 + 1, res, svnMin)
  { s with flash := { s.flash with copyA := r, copyB := r } }

/-- The 256-byte report (R537) (DEDUCED, log entry 34). -/
def attestReport (s : State) (nonce : List Byte) : List Byte :=
  let img := imgBytes s.uszon.image
  let body := bits (imgWord img 1) 31 0
  let pad (n : Nat) (b : List Byte) := (b ++ List.replicate n 0).take n
  toBytes 2 1 ++ [0, 0]
    ++ toBytes 4 (b2n s.flash.keys.ownerKey.isSome + 2 * rf s .dlkStraps 14 0 0 0 0)
    ++ toBytes 16 Config.serialNumber.toNat ++ pad 32 nonce ++ toBytes 8 s.master.toNat
    ++ toBytes 8 (imgWord img 2) ++ toBytes 4 (bits (imgWord img 1) 63 32) ++ toBytes 4 (storeRecord s).2.2
    ++ shake256 (img.take (4096 + body)) 32
    ++ (match s.flash.keys.ownerKey with | some k => shake256 (keyBytes k) 32 | none => List.replicate 32 0)
    ++ toBytes 2 (moduleTiles s) ++ [0, 0]
    ++ shake256 ((List.range 6).flatMap fun k =>
         toBytes 8 (rget s .jobTiles k 0 0) ++ toBytes 8 (rget s .jobTiles k 0 1)
           ++ toBytes 8 (rget s .jobFenced k 0 0) ++ toBytes 8 (rget s .jobFenced k 0 1)) 32
    ++ List.replicate 76 0

/-- ATTEST (R536, R537): the first index of a block of 64 is used only after the next block is reserved; the report is
signed and the command stays pending until it is complete. -/
def execAttest (m : Mbx) (flashOk : Bool) (s : State) : Out :=
  .next (mbxRun s m ⟨0x0704, lenIs 32, fun _ => true, false⟩ fun s b =>
    let i := s.uszon.signIndex
    if 2 ^ 40 ≤ i then (s, .done 0xF13 [])
    else if i % 64 = 0 ∧ !flashOk then (s, .done 0xF12 [])
    else
      let s := if i % 64 = 0 then commitStore s (i + 64) (storeRecord s).2.2 else s
      let rep := attestReport s b
      let sig := (Config.attestSignature s.flash.keys.identitySeed i rep ++ List.replicate 5605 0).take 5605
      ({ s with uszon := { s.uszon with report := rep ++ sig, signIndex := i + 1 } },
        .pending 0 (some (0, toBytes 4 5861))))

/-- ATTEST_READ (R537). -/
def execAttestRead (m : Mbx) (s : State) : Out :=
  .next (mbxRun s m ⟨0x0705, lenIs 4, fun b => fld b 0 4 % 1024 == 0, false⟩ fun s b =>
    (s, .done 0 ((s.uszon.report.drop (fld b 0 4)).take 1024)))

/-- GET_IDENTITY (R526). -/
def execGetIdentity (m : Mbx) (s : State) : Out :=
  .next (mbxRun s m ⟨0x0706, lenIs 0, fun _ => true, false⟩ fun s _ =>
    (s, .done 0 (toBytes 68 (Config.identityKey s.flash.keys.identitySeed).toNat ++ List.replicate 4 0 ++ toBytes 16 Config.serialNumber.toNat
      ++ toBytes 5 s.uszon.signIndex)))

/-! ### Firmware (R531-R534) -/

/-- FW_BEGIN (R534): the image region is erased, and a start before a commit enters recovery. A size beyond the region is
out of range (DEDUCED, log entry 37). -/
def execFwBegin (m : Mbx) (flashOk : Bool) (s : State) : Out :=
  .next (mbxRun s m ⟨0x0801, lenIs 4, fun b => decide (fld b 0 4 ≤ FlashRegion.image.range.2), false⟩ fun s b =>
    let s := { s with
      flash := { s.flash with image := some [], good := false },
      uszon := { s.uszon with fwOpen := true, fwSize := some (fld b 0 4), fwReceived := 0 } }
    (s, .pending 0 (some (if flashOk then 0 else 0xF12, []))))

/-- FW_CHUNK (R534): chunks come in order and within the size. -/
def execFwChunk (m : Mbx) (flashOk : Bool) (s : State) : Out :=
  .next (mbxRun s m ⟨0x0802, fun n b => n == 8 + fld b 4 2,
      fun b => decide (1 ≤ fld b 4 2 ∧ fld b 4 2 ≤ 1016) && zeros b 6 2, false⟩ fun s b =>
    let n := fld b 4 2
    if !s.uszon.fwOpen || fld b 0 4 != s.uszon.fwReceived || decide (s.uszon.fwSize.getD 0 < s.uszon.fwReceived + n) then
      (s, .done 0xF11 [])
    else if !flashOk then (s, .done 0xF12 [])
    else
      ({ s with flash := { s.flash with image := some ((s.flash.image.getD []) ++ (b.drop 8).take n) },
                uszon := { s.uszon with fwReceived := s.uszon.fwReceived + n } }, .pending 0 (some (0, []))))

/-- FW_COMMIT (R534): the image in flash is checked as the ROM checks it, and SVN_MIN is raised to its SVN. After a commit that
fails the next start enters recovery. -/
def execFwCommit (m : Mbx) (flashOk : Bool) (s : State) : Out :=
  .next (mbxRun s m ⟨0x0803, lenIs 0, fun _ => true, false⟩ fun s _ =>
    if !flashOk then ({ s with flash := { s.flash with good := false } }, .done 0xF12 [])
    else
      let img := imgBytes s.flash.image
      let (_, res, svnMin) := storeRecord s
      let code := imgCheck img svnMin
      if code ≠ 0 then ({ s with flash := { s.flash with good := false } }, .pending 0 (some (code, [])))
      else
        let svn := bits (imgWord img 1) 63 32
        let s := commitStore s res (Nat.max svn svnMin)
        let s := rfset s .secStatus 14 0 0 63 32 (Nat.max svn svnMin)
        ({ s with flash := { s.flash with good := true }, uszon := { s.uszon with fwOpen := false } },
          .pending 0 (some (0, []))))

/-- A job runs: it does not wait for tiles or under SERIAL. -/
def jobRuns (j : Job) : Bool :=
  match j.stage with
  | .waiting _ => false
  | _ => true

/-- FW_ACTIVATE (R522, R534, R568): the main domain is held in reset, which ends the hold of a fatal loss, while Uszon restarts
through its ROM with a fresh nonce; then, with the firmware running, the main-domain start-up begins. The mailboxes read IDLE
afterwards, this one too (DEDUCED, log entry 29). -/
def execFwActivate (m : Mbx) (nonce : W128) (s : State) : Out :=
  .next (mbxRun s m ⟨0x0804, lenIs 0, fun _ => true, false⟩ fun s _ =>
    if s.jobs.any jobRuns then (s, .done 0xF06 [])
    else
      let s := addHold (dropHold (mainReset s) 4) 6
      let s := romBoot s nonce (rf s .dlkStraps 14 0 0 0 0 == 1)
      let s := dropHold s 6
      (if s.uszon.running then startIfFree s else s, .stay))

/-! ### MODULE_RESET and the end of class B commands (R521, R526, R568) -/

/-- MODULE_RESET (R498, R526, R568): refused while a sensor is above release, PWR_EN is deasserted or MOD_RESET_N is
asserted; otherwise the main domain is reset, the holds of a thermal trip and of a fatal loss end, and the start-up begins. -/
def execModuleReset (m : Mbx) (s : State) : Out :=
  .next (mbxRun s m ⟨0x0302, lenIs 0, fun _ => true, false⟩ fun s _ =>
    if aboveRelease s || !s.pins.pwrEn || !s.pins.modResetN then (s, .done 0xF04 [])
    else
      let s := mainReset s
      let s := dropHold (dropHold s 3) 4
      let s := { s with uszon := { s.uszon with startFailed := false } }
      (startIfFree s, .pending 0 none))

end Sys2Proof.Machine
end

