-- ==== Sys2Proof/Machine/Dies.lean ====
section
/-!
DEFINITION. The loss of a die and its rejoin (R32, R36-R48, R574, R577), and the coherence errors that lose one (R374).
-/
namespace Sys2Proof.Machine

/-- LOSS_COUNT and CAUSE record a loss (R46). -/
def lossRecord (s : State) (d cause : Nat) : State :=
  let n := rf s .dlkDieState 14 0 d 47 32
  rfset (rfset s .dlkDieState 14 0 d 47 32 (Nat.min 0xFFFF (n + 1))) .dlkDieState 14 0 d 23 20 cause

/-- The loss of a die is fatal (R37): a P-die, an X-die or an M-base, or a C-die whose column partner is not active. -/
def lossFatal (s : State) (d : Nat) : Bool := if d ≤ 5 then !dieActive s (colPartner d) else !isL d

/-- A fatal loss (R41, R568): every job ends without a record, and the main domain performs no request any more. -/
def fatalLoss (s : State) (d cause : Nat) : State :=
  let s := setDieSt (lossRecord s d cause) d dsFatal
  let s := s.jobs.foldl releaseTiles s
  let s := { s with jobs := [], hostSubmits := [], pins := { s.pins with alertN := false } }
  mbxMainReset (addHold (report s 0xD81 d 3 0 0) 4)

/-- Step 4 of R42 begins: the links of a die in reset train with each neighbour that is active or rejoins too. The die's own
ends test every module afresh; the neighbours send the masks that they hold (R475). A link that R477 has fenced stays so at
both ends. -/
def linksTrain (s : State) (d : Nat) : State :=
  linkList.foldl (fun s l =>
    match linkPartner d l with
    | some (p, pl) =>
      let e := lk s d l
      if !linkDie s p then s
      else if e.fenced then bothEnds s d l (linkGoes lkFenced)
      else setLk (lkSet (lkSet s d l 3 0 lkTraining) p pl 3 0 lkTraining) d l { LinkSt.reset with before := e.before }
    | none => s) s

/-- A die begins to rejoin (R42). -/
def beginRejoin (s : State) (d : Nat) : State :=
  linksTrain (setDieSt { s with holdDies := kdel s.holdDies d } d dsRejoining) d

/-- A rejoin attempt fails (R44): the third in a row retires the die; else Uszon tries again. -/
def rejoinFails (s : State) (d : Nat) : State :=
  let n := rf s .dlkDieState 14 0 d 15 8 + 1
  let s := report (rfset s .dlkDieState 14 0 d 15 8 n) 0xD83 d 1 0 0
  if 3 ≤ n then linksFenced (setDieSt s d dsRetired) d else linksTrain s d

/-- What Uszon gives a die again when it rejoins, and what only a main-domain reset clears (R248, R405, R526): the model leaves
it in place through the die's reset (DEDUCED, log entry 82). -/
def keptReg (r : Reg) : Bool :=
  [Reg.jobTiles, .jobFenced, .jobCtx, .jobCtxstat, .grtOwner, .flsRngCtr, .drpRngCtr, .fabNode, .fabGroupRt, .fabMemberRt, .fabConn,
   .fabConnSeq].contains r

/-- The reset of a die (R34): its registers, what Rimstone holds for it, and its dispatcher's turn. -/
def dieRegsReset (s : State) (d : Nat) : State :=
  let keep (e : Nat × W64) : Bool :=
    bits e.1 39 32 != d || (match regAt d (bits e.1 31 0) with
      | some (r, _, _) => keptReg r
      | none => false)
  { s with
    regs := s.regs.filter keep,
    gatedQuads := s.gatedQuads.filter (fun q => !(isC d && q / 32 == d)), rrNext := mdel s.rrNext d,
    rim := { s.rim with stretched := s.rim.stretched.filter (fun i => i / 64 != d), thermal := mdel s.rim.thermal d,
                        draw := mdel s.rim.draw d, share := mdel s.rim.share d } }

/-- The state that a die is in once its loss sequence is complete (R42, R47, R577): HELD after a reset-and-hold; an L-die that
waits for its C-die stays LOST; otherwise Uszon rejoins it (DEDUCED, log entry 81). -/
def lossSettled (s : State) (d : Nat) : State :=
  if s.holdDies.contains d then setDieSt s d dsHeld
  else if isL d && rf s .dlkDieState 14 0 d 23 20 == 6 && !dieActive s (cDieOf d) then s
  else beginRejoin s d

/-- Every started descriptor of a lost L-die's send queues completes with E_DIE_LOST (R40). -/
def fabDescsLost (s : State) (l : Nat) : State :=
  let k := cDieOf l
  (List.range 64).foldl (fun s n =>
    let key := 32 + n
    let q := queue s k key
    let ts := (q.taken.filter fun t => t.started || t.result.isSome).map fun t =>
      { t with result := if t.result.isNone then some (0xD80, 0) else t.result }
    let s := setQueue s k key { taken := ts, sends := [] }
    let s := q.taken.foldl (fun s _ => descComplete s k key) s
    setQueue s k key Queue.reset) s

/-- An L-die's contents are lost: connections, queues and ports (R40, R420, R424, R435). -/
def lDieContents (s : State) (l : Nat) : State :=
  let s := linksFenced (dieRegsReset (fabDescsLost (connsLost s l) l) l) l
  let ps := (List.range 4).map fun i => 4 * (l - 10) + i
  let s := ps.foldl (fun s p => setPortF (setPortF (setPort s p PortSt.reset) p 3 0 pDown) p 63 48 0xD80) s
  { s with conns := s.conns.filter (fun e => connDie e.1 != l), rxConsumed := s.rxConsumed.filter (fun e => e.1 / 64 != l),
           rxProduced := s.rxProduced.filter (fun e => e.1 / 64 != l),
           delivered := s.delivered.filter (fun e => e.2.ptype == 6 || connDie e.2.dconn.toNat != l) }

/-- An L-die is lost (R40): its sequence is complete at once. -/
def lDieLost (s : State) (l cause : Nat) : State :=
  let s := lDieContents s l
  let s := lossRecord (setDieSt s l dsLost) l cause
  lossSettled (report s 0xD80 l 1 0 0) l

/-- The L-die of a lost C-die (R37, R45, R577): one that was rejoining fails its attempt and waits. -/
def lDieWithC (s : State) (l : Nat) : State :=
  if dieActive s l then lDieLost s l 6
  else if dieSt s l = dsRejoining then
    let s := rejoinFails (lossRecord s l 6) l
    if dieSt s l = dsRetired then s else setDieSt (linksFenced s l) l dsLost
  else s

/-- The running jobs that enabled queues on a lost C-die end (R393; the loss of the lead die alone ends none, DEDUCED, log entry 83). -/
def jobsOfLost (s : State) (k : Nat) : State :=
  s.jobs.foldl (fun s j =>
    if j.stage == .running && j.qmask != 0 && j.dies.contains k then jobEnd s j.ref 0xD80 id else s) s

/-- A C-die's contents are lost (R38, R39): its die cache, Grotto, queues and translations, and what was under way inside it.
What waited to take effect in its ownership registers is what Uszon will give it. -/
def cDieContents (s : State) (k : Nat) : State :=
  let g := grotto s k
  let s := g.contribs.foldl (fun s c => partAnswer s c.owner 0xD80) s
  let s := g.ownerPending.foldl (fun s w => ownerSet s k w) s
  let s := linksFenced (dieRegsReset s k) k
  let mine (o : Origin) : Bool := match o with
    | .l1Fill t => t / 128 == k
    | .load t _ _ => t / 128 == k
    | .store t _ _ => t / 128 == k
    | .atomic t _ _ => t / 128 == k
    | .dccFill d => d == k
    | _ => false
  { s with dcc := mdel s.dcc k, grottos := mdel s.grottos k, l1Fills := s.l1Fills.filter (fun f => !mine f.dest),
           dccFills := s.dccFills.filter (fun f => f.1 != k), hostSubmits := s.hostSubmits.filter (fun h => h.job.lead.val != k),
           tileClocks := s.tileClocks.filter (fun e => e.1 / 128 != k),
           tlb := s.tlb.filter (fun e => !(e.holder / 128 == k || e.holder == 1024 + k)) }

/-- The C-die by which a die enters the mesh (R21): its own, that of its working M-link (R46), or that of its first link that
works. -/
def meshEntry (s : State) (d : Nat) : Nat :=
  if isC d then d
  else if isL d then cDieOf d
  else if 16 ≤ d then (if rf s .dlkDieState 14 0 d 16 16 = 1 then colPartner ((d - 16) / 2) else (d - 16) / 2)
  else (([0, 1].filterMap (linkPartner d)).find? fun p => dieActive s p.1).elim 0 (·.1)

/-- The C-dies that lie between two C-dies of the mesh, with them: along the row of the first or of the second. -/
def meshPath (a b : Nat) (alongFirst : Bool) : List Nat :=
  let lo := Nat.min (a % 3) (b % 3)
  let row := (if alongFirst then a else b) / 3
  (if alongFirst then a else b) :: (if alongFirst then b else a)
    :: (List.range (Nat.max (a % 3) (b % 3) - lo + 1)).map fun i => 3 * row + lo + i

/-- What two dies exchange crosses C-die `k`. It goes along the row of the first while all dies there are active, else along that
of the second (the manual does not say which path it takes: DESIGN CHOICE, log entry 100). -/
def crosses (s : State) (k a b : Nat) : Bool :=
  let x := meshEntry s a
  let y := meshEntry s b
  let p := meshPath x y true
  (if p.all (dieActive s) then p else meshPath x y false).contains k

/-- The die that a request comes from. -/
def originDie : Origin → Nat
  | .l1Fill t => tileDie t
  | .load t _ _ => tileDie t
  | .store t _ _ => tileDie t
  | .atomic t _ _ => tileDie t
  | .dccFill k => k
  | .core a => agentDie a
  | _ => 14

/-- The answers of a line's home to a die cross C-die `k`. -/
def throughDie (s : State) (k die line : Nat) : Bool :=
  match homeNo s line with
  | some h => crosses s k die (homeDie h)
  | none => false

/-- The answers that are in flight through a C-die that is being lost reach their requesters as E_DIE_LOST (R38, DESIGN CHOICE, log entry
100): fills, grants, the answers to stores, and the results of far AMOs. -/
def inFlightLost (s : State) (k : Nat) : State :=
  let lose (die : Nat) (f : FillMsg) : FillMsg := if f.far && throughDie s k die f.line then { f with code := 0xD80 } else f
  let lost (f : Flight) : Flight :=
    match f.msg with
    | .grantS _ => if throughDie s k (agentDie f.agent) f.line then { f with msg := .grantErr 0xD80 } else f
    | .grantE _ _ => if throughDie s k (agentDie f.agent) f.line then { f with msg := .grantErr 0xD80 } else f
    | .grantUpgrade => if throughDie s k (agentDie f.agent) f.line then { f with msg := .grantErr 0xD80 } else f
    | _ => f
  let amo (r : Nat × W64 × Bool × Nat) : Nat × W64 × Bool × Nat :=
    match (core s r.1).amo with
    | some w => if throughDie s k (agentDie r.1) (w.op.addr.toNat / 128) then (r.1, 0, r.2.2.1, 0xD80) else r
    | none => r
  let answer (a : StoreAnswer) : StoreAnswer :=
    match a.dest with
    | .store t _ _ => if throughDie s k (tileDie t) a.line then { a with performed := true, visible := true, code := 0xD80 } else a
    | _ => a
  { s with answers := s.answers.map answer, l1Fills := s.l1Fills.map fun f => lose (originDie f.dest) f, dccFills := s.dccFills.map fun e => (e.1, lose e.1 e.2),
           cohNet := s.cohNet.map lost, amoResults := s.amoResults.map amo }


/-- A C-die is lost (R38): LOST, its stacks' requests held until the switch. Its L-die, if it has one, goes with it. -/
def cDieLost (s : State) (k cause : Nat) : State :=
  let s := jobsOfLost (inFlightLost s k) k
  let s := lossRecord (setDieSt s k dsLost) k cause
  let s := match lDieOf k with
    | some l => lDieWithC s l
    | none => s
  let s := cDieContents s k
  let s := report s 0xD80 k 1 0 0
  { s with heldStacks := kins (kins s.heldStacks (2 * k)) (2 * k + 1) }

/-- A die is lost, and with it each die that it leaves without a path, which is lost with cause 0x3 (R37, R45, R474). Each
round of the recursion loses a die, so 27 rounds are enough. -/
def lossChain : Nat → State → Nat → Nat → State
  | 0, s, _, _ => s
  | n + 1, s, d, cause =>
    if dieActive s d then
      if lossFatal s d then fatalLoss s d cause
      else
        let s := if d ≤ 5 then cDieLost s d cause else lDieLost s d cause
        (linkList.filterMap (linkPartner d)).foldl
          (fun s p => if dieActive s p.1 && !hasPath s p.1 then lossChain n s p.1 3 else s) s
    else if dieSt s d = dsRejoining ∧ anyFatal s = false then
      if lossFatal s d then fatalLoss s d cause else rejoinFails (lossRecord s d cause) d
    else s

/-- A die is lost (R37, R45). -/
def dieLossEvent (s : State) (d cause : Nat) : State := lossChain 27 s d cause

def lossCode : LossCause → Nat
  | .command => 1
  | .clock => 2
  | .links => 3
  | .dieFault => 4
  | .heartbeat => 5
  | .carrier => 6

/-- The loss sequence of a C-die is complete once its stacks have switched and its tiles are fenced (R38). -/
def cLossDone (s : State) (k : Nat) : State :=
  if dieSt s k = dsLost ∧ !s.heldStacks.contains (2 * k) ∧ (dieTiles k).all (fun t => !tilePresent s t) = true then lossSettled s k
  else s

/-- M_LINK_SWITCH (R38): the stacks of a lost C-die go over to their secondary M-links, and held requests proceed. -/
def linkSwitch (s : State) (k : Nat) : State := cLossDone (stacksSwitch s k) k

/-- LOST_DIE_TILES_FENCED (R38, R395, R405): the fences are not entered in the fence record. -/
def lostTilesFenced (s : State) (k : Nat) : State :=
  if dieSt s k = dsLost ∧ anyFatal s = false then cLossDone ((dieTiles k).foldl (fun s t => if tileFenced s t then s else
      { fenceTile s t false with lossFenced := kins s.lossFenced t }) s) k else s

/-! ### Rejoin (R42-R44) -/

/-- The M-links of a rejoined C-die train (R42 step 6, R480): its primaries and secondaries on the slices that the result names, else
on all. -/
def mLinksUp (s : State) (k : Nat) (r : RejoinResult) : State :=
  (List.range 4).foldl (fun s i =>
    slicesAdopt s k (8 + i) ((r.slices.find? fun e => e.1.val == i).elim 0xFFFFFFFF fun e => e.2.toNat)) s

/-- A stack goes back to its primary M-link (R42 step 6), if 8 or more of its slices train (R480). -/
def stackBack (s : State) (m : Nat) : State :=
  if 8 ≤ goodSlices s (16 + m) 0 ∨ goodSlices s (16 + m) 1 = 0 then setSecondary s (16 + m) false else s

/-- A die that rejoins in deep idle has it too (R507): a C-die's quads are gated. -/
def idleShown (s : State) (d : Nat) : State :=
  if s.rim.deepIdle then
    { rfset s .rimStatus d 0 0 3 3 1 with
      gatedQuads := if isC d then (List.range 32).foldl (fun l q => kins l (32 * d + q)) s.gatedQuads else s.gatedQuads }
  else s

/-- A C-die rejoins: tests, empty caches and Grotto, settings, its stacks back on their primary M-links. The tiles that were
fenced for its loss are fenced no more, but for those of a quad that fails. -/
def cRejoin (s : State) (k : Nat) (r : RejoinResult) : State :=
  let s := mLinksUp (dieGoesActive s k) k r
  let s := stackBack (stackBack s (2 * k)) (2 * k + 1)
  let s := stackPlaced (stackPlaced s (2 * colPartner k)) (2 * colPartner k + 1)
  let bad := (r.badQuads.flatMap fun q => quadTiles k q.val) ++ (r.badFlowstone.filter fun t => t.val / 128 == k).map (·.val)
  let s := fenceEnter s bad
  let s := s.lossFenced.foldl (fun s t => if t / 128 = k then setFenced s t false else s) s
  let s := bad.foldl (fun s t => setFenced s t true) { s with lossFenced := s.lossFenced.filter fun t => t / 128 != k }
  let s := idleShown (generatorTest (enableCaches (loadTrims (setTileCounts s) k) k) k r.badDripstone) k
  match s.flash.pace with
  | none => s
  | some v => rfset s .rimPaceCtl k 0 0 47 0 v.toNat

/-- An L-die rejoins: its ports start DISABLED, their CODE as the loss left it. -/
def lRejoin (s : State) (l : Nat) : State :=
  idleShown ((List.range 4).foldl (fun s i => setPortF s (4 * (l - 10) + i) 3 0 pDisabled) (dieGoesActive s l)) l

/-! ### DLK_DIE_RESET_CTL (R36, R45, R47) -/

/-- An action on a die: E_OK or the code of the refusal. DESIGN CHOICE (log entry 104): the index is looked at first, so a
register write that names a P-die, an X-die or an M-base reports E_DIE_RESET_REFUSED (R36) even once a die is FATAL. -/
def dieAction (s : State) (action d : Nat) : Nat × State :=
  if !(isC d || isL d) then (0xD82, s)
  else if action = 0 ∨ 3 < action ∨ anyFatal s = true then (0, s)
  else
    let st := dieSt s d
    if st = dsRetired then (0xD85, s)
    else if st = dsReset then (if action = 2 then 0xD85 else 0xD84, s)
    else if st = dsHeld then (0, if action = 1 then s else beginRejoin s d)
    else if st = dsActive then
      if action = 2 then (0xD85, s)
      else (0, dieLossEvent (if action = 1 then { s with holdDies := kins s.holdDies d } else s) d 1)
    else (0xD84, s)

/-- A write of DLK_DIE_RESET_CTL: only Uszon's acts, and Uszon reports a refusal. -/
def dieResetWrite (s : State) (a : Agent) (action d : Nat) : State :=
  if agentMay a .uszon && s.pins.aux && !s.pins.auxReset then
    let (code, s) := dieAction s action d
    if code = 0 then s else report s code d 1 0 0
  else s

/-! ### A supply below its rating (R494) -/

/-- What a group has computed is undefined: its registers and predicates are free values. -/
def sagGroup (s : State) (t g : Nat) : State :=
  match group s t g with
  | none => s
  | some gr =>
    let (gr, s) := (List.range ((tile s t).alloc * 32)).foldl (fun (a : Group × State) i =>
      let (v, s) := drawFree a.2
      (vset a.1 (i / 32) (i % 32) v.toNat, s)) (gr, s)
    let (gr, s) := (List.range 64).foldl (fun (a : Group × State) i =>
      let (v, s) := drawFree a.2
      (sset a.1 i v.toNat, s)) (gr, s)
    let (gr, s) := (List.range 8).foldl (fun (a : Group × State) p =>
      let (v, s) := drawFree a.2
      ((List.range 32).foldl (fun gr l => pset gr p l (bit v.toNat l)) a.1, s)) (gr, s)
    setGroup s t g gr

/-- What a tile is computing is undefined: its groups, the instructions in its matrix engines, and the outputs of the Flowstone
commands that have started. -/
def sagTile (s : State) (t : Nat) : State :=
  let x := tile s t
  let s := setTile s t { x with engines := x.engines.map fun e => (e.1, { e.2 with queue := e.2.queue.map fun o => { o with spoiled := true } }) }
  let s := x.groups.foldl (fun s e => sagGroup s t e.1) s
  (x.fls.filter (·.started)).foldl (fun s c => (bOuts c.words).foldl (fun s i =>
    let d := bDesc c.words i
    if d.space = 2 then mtxFree s t (slotTiles c.words i)
    else (bIndices c.words i).foldl (fun s y =>
      let (a, n, _) := elemBytes d y
      flsFree s t d.space ((List.range n).map (a + ·))) s) s) s

/-- INPUT_BELOW_RATING (R494): nothing is detected, and what is being computed at that moment is undefined (DESIGN CHOICE, log entry
42). -/
def execInputBelowRating (_aux : Bool) (s : State) : Out :=
  .next (
    let s := { s with pins := { s.pins with underRating := true } }
    let s := s.tiles.foldl (fun s e => sagTile s e.1) s
    let spoil (q : Queue) : Queue := { q with taken := q.taken.map fun t => if t.started then { t with spoiled := true } else t }
    { s with grottos := s.grottos.map fun e => (e.1, { e.2 with queues := e.2.queues.map fun q => (q.1, spoil q.2) }) })

/-! ### The commands -/

/-- ISLAND_CLOCK_LOSS (R32): a quad is fenced; a Grotto or network clock loses the die, a rejoining one too (R45); a port's
recovered clock loses nothing; any island of a P-die, X-die or M-base is fatal. -/
def execIslandClockLoss (d : Die) (i : Island) (s : State) : Out :=
  .next (
    let n := dieIdx d
    match d, i with
    | .c k, .quad q =>
      if !dieActive s n || s.gatedQuads.contains (32 * k.val + q.val) then s
      else (quadTiles k.val q.val).foldl (fun s t => fenceTile s t true) s
    | .c _, .grotto => dieLossEvent s n 2
    | .c _, .network => dieLossEvent s n 2
    | .c _, _ => s
    | .l _, .network => dieLossEvent s n 2
    | .l _, _ => s
    | .p _, _ => dieLossEvent s n 2
    | .x _, _ => dieLossEvent s n 2
    | .m _, _ => dieLossEvent s n 2)
/-- HEARTBEAT_MISSED: twice in a row. -/
def execHeartbeatMissed (d : Die) (s : State) : Out := .next (dieLossEvent s (dieIdx d) 5)
/-- C_DIE_LOSS. -/
def execCDieLoss (k : CDie) (why : LossCause) (s : State) : Out := .next (dieLossEvent s k (lossCode why))
/-- M_LINK_SWITCH. -/
def execMLinkSwitch (k : CDie) (s : State) : Out := .next (linkSwitch s k)
/-- LOST_DIE_TILES_FENCED. -/
def execLostDieTilesFenced (k : CDie) (s : State) : Out := .next (lostTilesFenced s k)
/-- L_DIE_LOSS. -/
def execLDieLoss (l : LDie) (why : LossCause) (s : State) : Out := .next (dieLossEvent s (10 + l.val) (lossCode why))
/-- FATAL_LOSS: of a die whose loss is fatal. -/
def execFatalLoss (d : Die) (why : LossCause) (s : State) : Out :=
  .next (if lossFatal s (dieIdx d) then dieLossEvent s (dieIdx d) (lossCode why) else s)
/-- The index of a die that has a die reset. -/
def rdieIdx : RDie → Nat
  | .c k => k.val
  | .l l => 10 + l.val
/-- DIE_REJOIN_FAILED. -/
def execDieRejoinFailed (d : RDie) (s : State) : Out :=
  .next (if dieSt s (rdieIdx d) = dsRejoining ∧ anyFatal s = false then rejoinFails s (rdieIdx d) else s)
/-- L_DIE_REJOIN_ON_C_ACTIVE (R577): Uszon rejoins an L-die that is LOST once its C-die is active, one that start-up left LOST
with its C-die too (DEDUCED, log entry 81). -/
def execLDieRejoinOnCActive (l : LDie) (s : State) : Out :=
  .next (
    let d := 10 + l.val
    if dieSt s d = dsLost ∧ anyFatal s = false ∧ dieActive s (cDieOf d) = true then lossSettled s d else s)
/-- DIE_ACTION_RESET_HOLD. -/
def execDieActionResetHold (a : Agent) (index : BitVec 8) (s : State) : Out := .next (dieResetWrite s a 1 index.toNat)
/-- DIE_ACTION_REJOIN. -/
def execDieActionRejoin (a : Agent) (index : BitVec 8) (s : State) : Out := .next (dieResetWrite s a 2 index.toNat)
/-- DIE_ACTION_RESET_REJOIN. -/
def execDieActionResetRejoin (a : Agent) (index : BitVec 8) (s : State) : Out := .next (dieResetWrite s a 3 index.toNat)
/-- DIE_RESET (R526): an action that is accepted completes under R44, another at once; where it makes the loss fatal, R522 has
ended the command already. -/
def execDieReset (m : Mbx) (s : State) : Out :=
  .next (mbxRun s m ⟨0x0301, lenIs 2, fun _ => true, true⟩ fun s b =>
    let d := fld b 0 1
    let action := fld b 1 1
    let (code, s) := dieAction s action d
    if mbxState s m ≠ mbBusy then (s, .stay)
    else if code ≠ 0 ∨ action = 0 ∨ 3 < action then (s, .done code []) else (s, .pending (action * 256 + d) none))
/-- SNOOP_TIMEOUT (R374): the agent's die is lost with cause 0x4. -/
def execSnoopTimeout (agent : AgentId) (line : Nat) (s : State) : Out :=
  .next (match mfind s.txns line with
    | some x =>
      if x.waiting.contains agent.val then dieLossEvent (report s 0x901 (agentDie agent) 3 (line * 128) 0) (agentDie agent) 4 else s
    | none => s)
/-- DIR_UNCORRECTABLE (R374): the home's die is lost with cause 0x4. -/
def execDirUncorrectable (h : Home) (line : Nat) (s : State) : Out :=
  .next (
    let d := homeDie (homeKey h)
    if dieActive s d then dieLossEvent (report s 0x902 d 3 (line * 128) 0) d 4 else s)

end Sys2Proof.Machine
end

