-- ==== Sys2Proof/Machine/Flowstone.lean ====
section
/-!
DEFINITION. The Flowstone commands of the table: issue, wait, status, start and completion (R149-R152, R168, R171-R180).
-/
namespace Sys2Proof.Machine

/-- SREG (R150). -/
def fSreg (w : Nat) : Nat := bits w 43 36

/-- The checks of a Flowstone word: the zero fields, and a scalar register index (R57, R150). -/
def flsWordCheck (isWait : Bool) (w : Nat) : Nat :=
  if bits w 55 44 != 0 || bits w 35 3 != 0 || (!isWait && bits w 2 0 != 0) || decide (64 ≤ fSreg w) then 0x101 else 0

/-- FLS_FAULT takes the first Flowstone fault of the tile (R178). -/
def flsFault (s : State) (t op slot block : Nat) : State :=
  let k := tileDie t
  let i := tileSite t
  if rf s .flsFault k i 0 63 63 = 1 then s
  else rset s .flsFault k i 0 (2 ^ 63 + op <<< 40 + slot <<< 32 + block % 2 ^ 32)

/-- The block of fls.issue: bytes that the group must not read yet are undefined (R171). -/
def blockCopy (s : State) (t g off : Nat) : List W64 × State :=
  let (bs, s) := (slmBytesAt (tile s t) off 256).zipIdx.foldl (fun (acc : List Byte × State) e =>
    if flsHazard (tile s t) (some g) 0 (off + e.2) 1 then
      let (v, s) := drawFree acc.2
      (acc.1 ++ [BitVec.ofNat 8 v.toNat], s)
    else (acc.1 ++ [e.1], acc.2)) ([], s)
  (toWords 32 bs, s)

/-- fls.issue: the block is copied, checked and queued. FLS_FAULT.OP is 0 where no block was read (DESIGN CHOICE, log entry 152). -/
def execFlsIssue (t : TileId) (g : Slot) (w : BitVec 56) (s : State) : Out :=
  let n := w.toNat
  issue s t g (fun _ => flsWordCheck false n) ([], [fSreg n]) fun s gr =>
    let x := tile s t
    let off := sget gr (fSreg n)
    let fail (s : State) (op slot code : Nat) : Issue := .hold (preciseFault (flsFault s t op slot off) t g code)
    if 8 ≤ x.fls.length then .wait
    else if off % 256 ≠ 0 then fail s 0 7 0x402
    else if x.slmBytes < off + 256 then fail s 0 7 0x403
    else
      let (b, s) := blockCopy s t g off
      let (code, slot) := blockCheck s t b
      if code ≠ 0 then fail s (bOp b) slot code
      else
        let c : FlsCmd :=
          { words := b, from_ := gr.issuer g, seq := x.flsSeq, started := false, dirty := [], byEngine := [], stat := 0, code := 0, fail := 0 }
        let s := drpAccIssue s (tileDie t) (tileSite t) (bSetTiles b)
        .done gr (setTile s t { x with fls := x.fls ++ [c], flsSeq := x.flsSeq + 1 })

/-- fls.wait: the group stays at it while more than N of its commands have not completed (R152); it covers those that have. -/
def execFlsWait (t : TileId) (g : Slot) (w : BitVec 56) (s : State) : Out :=
  let n := w.toNat
  issue s t g (fun _ => flsWordCheck true n) ([], []) fun s gr =>
    let me := gr.issuer g
    if bits n 2 0 < ((tile s t).fls.filter fun c => c.from_ == me).length then .wait
    else .done gr (setTile s t (waitedFor (tile s t) fun u => !u.words.isEmpty && u.from_ == me))

/-- fls.stat: reads FLS_STAT_g and clears it. -/
def execFlsStat (t : TileId) (g : Slot) (w : BitVec 56) (s : State) : Out :=
  let n := w.toNat
  issue s t g (fun _ => flsWordCheck false n) ([], [fSreg n]) fun s gr =>
    let k := tileDie t
    let i := tileSite t
    .done (sset gr (fSreg n) (rget s .flsStat k i g)) (rset s .flsStat k i g 0)

/-- A matrix instruction that issued earlier still has a tile that the command names to finish (R168). -/
def mtxHolds (x : Tile) (c : FlsCmd) : Bool :=
  let tiles := bAccTiles c.words
  x.engines.any fun e => e.2.queue.any fun o =>
    decide (o.flsSeq ≤ c.seq) && (mtxTags o.opc o.word.toNat).any fun p => tiles.contains p.1

/-- An engine whose instruction only a Flowstone command held (R168) begins to wait for its wave (R114); `x` is the tile before. -/
def engsReleased (s : State) (x : Tile) (t : Nat) : State :=
  let y := tile s t
  setTile s t { y with engines := y.engines.map fun e =>
    (e.1, match e.2.queue with
      | o :: _ => if flsHolds x o && !flsHolds y o then { e.2 with since := Nat.max (timebaseOf s (tileDie t)) e.2.freeAt } else e.2
      | [] => e.2) }

/-- What the Flowstone commands that run on other tiles of the die write in its Grotto (R159). -/
def othersWrite (s : State) (t : Nat) : List (Nat × Nat × Nat) :=
  s.tiles.flatMap fun e =>
    if e.1 / 128 = tileDie t ∧ e.1 ≠ t then
      (e.2.fls.filter (·.started)).flatMap fun c => (bOuts c.words).flatMap fun i =>
        let d := bDesc c.words i
        if d.space = 1 then (bIndices c.words i).map fun x => (1, (elemBytes d x).1, (elemBytes d x).2.1) else []
    else []

/-- FLS_COMMAND_START: the first command that has not started does its work (R152) (DESIGN CHOICE, log entry 129). -/
def execFlsCommandStart (t : TileId) (s : State) : Out :=
  let x := tile s t
  .next (match x.fls.find? fun c => !c.started with
    | none => s
    | some c =>
      if mtxHolds x c then s
      else
        let r := flsExec { t := t, b := c.words, dirty := c.dirty, s := s, stat := 0, code := 0, fail := 0, ok := true, only := false }
        let y := tile r.s t
        let c' : FlsCmd :=
          { c with started := true, byEngine := c.byEngine ++ othersWrite s t, stat := r.stat, code := r.code, fail := r.fail }
        engsReleased (setTile r.s t { y with fls := y.fls.map fun d => if d.seq = c.seq then c' else d }) x t)

/-- What groups and engines wrote over a command's destinations, or into their words, is undefined once it completes (R159,
R171). -/
def flsUndefined (s : State) (t : Nat) (c : FlsCmd) : State :=
  let one (engine : Bool) (s : State) (w : Nat × Nat × Nat) : State :=
    flsFree s t w.1 (undefinedBytes c.words w.1 w.2.1 w.2.2 engine)
  c.byEngine.foldl (one true) (c.dirty.foldl (one false) s)

/-- FLS_COMMAND_COMPLETE: status and first code reach FLS_STAT_g and the job, and a failed access is an imprecise fault of the
job (R173, R174). The tile clocks that the command took are typical figures (R6), so FLS_BUSY counts a free value. -/
def execFlsCommandComplete (t : TileId) (s : State) : Out :=
  .next (match (tile s t).fls with
    | [] => s
    | c :: rest =>
      if !c.started then s
      else
        let k := tileDie t
        let i := tileSite t
        let s := flsUndefined s t c
        let s := setTile s t { tile s t with
          fls := rest, uncovered := (tile s t).uncovered ++ [⟨c.from_, c.words, 0, [], [], false⟩] }
        let g := c.from_.slot
        let st := rget s .flsStat k i g
        let st := if bits st 63 48 = 0 then fset st 63 48 c.code else st
        let s := rset s .flsStat k i g (st ||| c.stat)
        let s := match (tile s t).job with
          | none => s
          | some r => jobStatus (jobMod s r fun j => { j with fls := j.fls ||| c.stat }) r c.code
        let (v, s) := drawFree s
        let s := count (count s .flsBusy k i 0 (v.toNat % 2 ^ 48)) .flsCmds k i 0 1
        if c.fail = 0 then s else imprecise s t c.fail)

/-- FLS_STAT_WRITE: any value clears FLS_STAT_g; a tile that does not answer ignores the write (R29, R177). -/
def execFlsStatWrite (a : Agent) (t : TileId) (g : Slot) (_v : W64) (s : State) : Out :=
  .next (if agentMay a .any && tileOpen s t then rset s .flsStat (tileDie t) (tileSite t) g 0 else s)

end Sys2Proof.Machine
end

