-- ==== Sys2Proof/Machine/Links.lean ====
section
/-!
DEFINITION. The die-to-die links (R469-R484): training, identity, mismatches, fencing, and the slices of M-links.
-/
namespace Sys2Proof.Machine

/-- A link is DOWN at both ends, or counts as DOWN: a die that has no other path is lost with cause 0x3 (R474), and one that is
rejoining fails its attempt (R45). -/
def linkDownEffect (s : State) (die l : Nat) : State :=
  match linkPartner die l with
  | none => s
  | some (p, _) =>
    let one (s : State) (d : Nat) : State := if linkDie s d && !hasPath s d then dieLossEvent s d 3 else s
    one (one s die) p

/-- What follows an attempt: a link that it leaves DOWN or fenced may cost a die its last path (R474, R477). -/
def linkSettled (s : State) (die l : Nat) : State :=
  if lkState s die l = lkDown ∨ lkState s die l = lkFenced then linkDownEffect s die l else s

/-- LINK_TRAIN (R472-R477): one attempt. -/
def linkTrain (s : State) (die l : Nat) (a : Attempt) : State :=
  if mayTrain s die l then linkSettled (linkAttempt s die l a) die l else s

/-- LINK_TRAIN. -/
def execLinkTrain (l : LinkRef) (mask partnerMask : BitVec 16) (confirm : Bool) (s : State) : Out :=
  .next (linkTrain s (dieIdx l.die) l.index ⟨mask, partnerMask, confirm⟩)

/-- LINK_IDENTITY (R470-R472, R475): an end that has tested its modules meets the message that comes in, whatever it says, and the
attempt goes on from it. A partner that says RETAINED has not made a full retrain. -/
def execLinkIdentity (l : LinkRef) (x : Exchange) (s : State) : Out :=
  .next (
    let die := dieIdx l.die
    match linkPartner die l.index with
    | none => s
    | some (p, pl) =>
      if !mayTrain s die l.index then s
      else
        let own := identityOf s die l.index x.tested.toNat
        let full := (lk s die l.index).fresh && (lk s p pl).fresh && !x.received.retained
        linkSettled (linkExchange (linkSends s die l.index own) die l.index p pl own x.received full x.confirm) die l.index)

/-- LINK_CRC_RETRAIN (R474, R483): the flits that failed CRC at a module in 1 ms, and the flits that wait for replay. More than 64
make a UCIe link retrain: both ends go to RETRAINING and an attempt is made, none for one that fails before the exchange. The retry
buffer is replayed once an attempt succeeds, and nothing is lost. -/
def execLinkCrcRetrain (l : LinkRef) (crcFails replayed : Nat) (a : Option Attempt) (s : State) : Out :=
  .next (
    let die := dieIdx l.die
    if lkState s die l.index == lkActive then
      let s := count s .dlkCrcErrors die l.index 0 crcFails
      if crcFails ≤ 64 ∨ isMLink die l.index = true then count s .dlkRetries die l.index 0 replayed
      else
        let s := bothEnds s die l.index fun s d i => count (linkGoes lkRetraining s d i) .dlkRetrains d i 0 1
        let s := setLk s die l.index { lk s die l.index with replay := (lk s die l.index).replay + replayed }
        linkTrain s die l.index (a.getD ⟨0, 0, false⟩)
    else s)

/-- LINK_TRAIN_FAILED (R474): the third attempt in a row has failed. -/
def execLinkTrainFailed (l : LinkRef) (s : State) : Out :=
  .next (
    let die := dieIdx l.die
    let st := lkState s die l.index
    if (linkPartner die l.index).isSome && (st == lkTraining || st == lkRetraining) then linkDownEffect (linkDown s die l.index) die l.index else s)

/-- Uszon writes DLK_LINK_CTL_l: it is there while the die is ACTIVE (R481, R574). -/
def linkCtl (s : State) (a : Agent) (die : Nat) : Bool := agentMay a .uszon && dieActive s die

/-- DLK_LINK_CTL_l.RETRAIN (R476, R480, R481): a full retrain of a link that is ACTIVE or DOWN. -/
def linkRetrain (s : State) (die l : Nat) : State :=
  let st := lkState s die l
  if (linkPartner die l).isSome && (st == lkActive || st == lkDown) then
    bothEnds s die l fun s d i =>
      let s := count s .dlkRetrains d i 0 1
      let e := lk s d i
      let s := setLk s d i { e with fresh := true, stopped := false, fails := 0,
                                    slices := if isMLink d i then 0 else e.slices }
      linkGoes (if st = lkActive then lkRetraining else lkTraining) s d i
  else s

/-- LINK_RETRAIN: only Uszon writes it. -/
def execLinkRetrain (a : Agent) (l : LinkRef) (s : State) : Out :=
  .next (if linkCtl s a (dieIdx l.die) then linkRetrain s (dieIdx l.die) l.index else s)

/-- DLK_LINK_CTL_l.UNFENCE (R477, R481): a FENCED link trains afresh with its mismatch count cleared. One whose other die is
down stays fenced (R38), and trains when that die rejoins. -/
def linkUnfence (s : State) (die l : Nat) : State :=
  match linkPartner die l with
  | none => s
  | some (p, _) =>
    if lkState s die l == lkFenced then
      bothEnds s die l fun s d i =>
        let s := setLk (lkSet s d i 17 16 0) d i { lk s d i with fresh := true, fails := 0, stopped := false, fenced := false }
        if linkDie s die && linkDie s p then linkGoes lkTraining s d i else s
    else s

/-- LINK_UNFENCE: only Uszon writes it. -/
def execLinkUnfence (a : Agent) (l : LinkRef) (s : State) : Out :=
  .next (if linkCtl s a (dieIdx l.die) then linkUnfence s (dieIdx l.die) l.index else s)

/-! ### M-links (R478-R480) -/

/-- MLINK_SLICE_RETRAIN (R479, R480): a slice that fails is dropped; it comes back only in a full retrain (R473). A link that a
lost die holds fenced retrains nothing. -/
def execMlinkSliceRetrain (m : MBase) (secondary : Bool) (slice : Fin 32) (pass : Bool) (s : State) : Out :=
  .next (
    let die := 16 + m.val
    let l := b2n secondary
    match linkPartner die l with
    | none => s
    | some (p, _) =>
      if linkWidth die l ≤ slice.val ∨ lkState s die l = lkFenced ∨ dieActive s die = false ∨ dieActive s p = false then s
      else
        let e := lk s die l
        let had := bit e.slices.toNat slice
        let now := pass && (had || e.fresh)
        let sl := if now then e.slices ||| BitVec.ofNat 32 (2 ^ slice.val) else e.slices &&& ~~~ (BitVec.ofNat 32 (2 ^ slice.val))
        let last := slice.val + 1 == linkWidth die l
        let n := popMask sl.toNat
        -- a full retrain is judged once its last slice has been tried (R480)
        let open_ := e.fresh && !last
        let s := bothEnds s die l fun s d i =>
          let s := setLk s d i { lk s d i with slices := sl, fresh := open_, before := if open_ then e.before else n }
          linkGoes (if n = 0 then lkDown else lkActive) (lkSet s d i 47 32 n) d i
        let s := if !open_ && decide (n < e.before) then bothEnds s die l fun s d i => linkLog s d i 0xD04 else s
        if open_ then s
        else if goodSlices s die 0 = 0 ∧ goodSlices s die 1 = 0 then dieLossEvent s die 3
        else if !secondary && e.fresh && decide (8 ≤ n) then setSecondary s die false
        else stackPlaced s m.val)

/-- MLINK_TEST_FLIT (R479): a secondary link that is trained exchanges a test flit; nothing else changes. -/
def execMlinkTestFlit (m : MBase) (s : State) : Out :=
  .next (if lkState s (16 + m.val) 1 == lkActive then s else s)

/-! ### The links of a rejoin (R42) -/

/-- Step 4 of R42 is complete: each link of the rejoining die that still trains makes its attempt with every module good at both
ends, and the full retrain that a neighbour's narrower mask forces (R475, R476). DESIGN CHOICE (log entry 105): a module that
fails a rejoin's training is what a LINK_TRAIN before DIE_REJOIN says. -/
def linksFinish (s : State) (d : Nat) : State :=
  linkList.foldl (fun s l => linkTrain (linkTrain s d l goodAttempt) d l goodAttempt) s

/-- DIE_REJOIN (R42): the attempt that Uszon makes for a die in REJOINING succeeds, unless it leaves the die without a path into
the mesh. An L-die waits for its C-die. -/
def dieRejoin (s : State) (d : Nat) (r : RejoinResult) : State :=
  if dieSt s d ≠ dsRejoining ∨ anyFatal s = true ∨ (isL d = true ∧ dieActive s (cDieOf d) = false) then s
  else
    let s := linksFinish s d
    if dieSt s d ≠ dsRejoining ∨ anyFatal s = true then s
    else if !hasPath s d then rejoinFails s d
    else if d ≤ 5 then cRejoin s d r
    else lRejoin s d

/-- DIE_REJOIN. -/
def execDieRejoin (d : RDie) (r : RejoinResult) (s : State) : Out := .next (dieRejoin s (rdieIdx d) r)

end Sys2Proof.Machine
end

