-- ==== Sys2Proof/Machine/Rimstone.lean ====
section
/-!
DEFINITION. Rimstone (R485-R515): power samples and budgets, frequency steps, the droop response, thermal steps and trips,
aging trims, power groups and deep idle; and the memory temperatures (R332).
-/
namespace Sys2Proof.Machine

/-! ### Islands that change frequency (R487, R493, R511) -/

/-- RIM_FREQ_STEP: one step toward TARGET, but for a stretched island. -/
def freqStep (s : State) (d n : Nat) : State :=
  let cur := isl s d n 4 0
  let t := isl s d n 12 8
  if !dieActive s d || decide (islandCount d ≤ n) || isStretched s d n then s
  else if cur < t then setIsl s d n 4 0 (cur + 1)
  else if t < cur then setIsl s d n 4 0 (cur - 1)
  else s

/-! ### Droop (R492, R493, R515) -/

/-- An island's number on its die: tile quads and core islands by their own numbers. -/
def islandNo : Island → Nat
  | .quad q => q.val
  | .cores n => n.val
  | .grotto => 32
  | .network => 33
  | .xdie => 34
  | .uszon => 35
  | .memctl => 36
  | .timebase => 37
  | .port p => 40 + p.val

/-- A die has an island (table "Islands per die") and it has a droop response: all but the timebase and the fabric ports. -/
def droops : Die → Island → Bool
  | .c _, .quad _ | .c _, .grotto | .c _, .network => true
  | .p _, .cores _ | .p _, .network => true
  | .l _, .network => true
  | .x _, .xdie => true
  | .x x, .uszon => x.val == 0
  | .m _, .memctl => true
  | _, _ => false

/-- DROOP_TRIP: the clock stretches, and a ramp under way pauses. -/
def droopTrip (s : State) (die : Die) (i : Island) : State :=
  let d := dieIdx die
  let n := islandNo i
  if !dieActive s d || !droops die i || isStretched s d n then s
  else
    let s := { s with rim := { s.rim with stretched := kins s.rim.stretched (64 * d + n) } }
    if n < islandCount d then
      let s := setIsl s d n 7 7 1
      if isl s d n 4 0 = isl s d n 12 8 then s else setIsl s d n 6 6 1
    else s

/-- DROOP_END: the stretch ends after 256 clear clocks, and the island takes the TARGET then in force. How many clocks were
stretched before they were clear is free (DESIGN CHOICE, log entry 84). -/
def droopEnd (s : State) (die : Die) (i : Island) : State :=
  let d := dieIdx die
  let n := islandNo i
  if !isStretched s d n then s
  else
    let s := { s with rim := { s.rim with stretched := kdel s.rim.stretched (64 * d + n) } }
    let (f, s) := drawFree s
    let s := count s .rimStretchClocks d 0 0 (256 + f.toNat % 2 ^ 32)
    if n < islandCount d then
      setIsl (setIsl (setIsl (setIsl s d n 7 7 0) d n 6 6 0) d n 5 5 0) d n 12 8 (wanted s d n)
    else s

/-! ### Power (R488-R491, R508, R515) -/

/-- The average of the newest `n` samples, or of those there are (DESIGN CHOICE, log entry 85). -/
def average (l : List Nat) (n : Nat) : Nat :=
  let x := l.take n
  if x.isEmpty then 0 else x.foldl (· + ·) 0 / x.length

/-- The C-dies that are active. -/
def activeC (s : State) : List Nat := (List.range 6).filter (dieActive s)

/-- MTX_THROTTLE of every active C-die. -/
def setThrottle (s : State) (v : Nat) : State := (activeC s).foldl (fun s k => rfset s .rimStatus k 0 0 0 0 v) s

/-- The matrix throttle engages or releases on every C-die (R491); a C-die that rejoins while it is engaged has it too. The log
is X0's, whose agent takes the samples (DESIGN CHOICE, log entry 85). -/
def matrixThrottle (s : State) : State :=
  let p1 := rf s .rimModPower 14 0 0 63 48
  let p10 := rf s .rimModPower 14 0 0 47 32
  let on := (activeC s).any fun k => rf s .rimStatus k 0 0 0 0 == 1
  if on then
    if p1 < 4275 ∧ p10 < 3800 then setThrottle s 0 else setThrottle s 1
  else if (4300 ≤ p1 ∨ 3850 ≤ p10) ∧ (activeC s).isEmpty = false then rimLog (setThrottle s 1) 14 0xE04 0
  else s

/-- A sum of two fractions, in lowest terms. -/
def fracAdd (a b : Nat × Nat) : Nat × Nat :=
  let n := a.1 * b.2 + b.1 * a.2
  let d := a.2 * b.2
  (n / Nat.gcd n d, d / Nat.gcd n d)

/-- What a job is charged for an interval (R509): a quarter of its quad's energy for each tile, and its share of the rest of the
module's input. The charges of the ten samples of a 10 us interval add up to that of the interval (DEDUCED, log entry 161). -/
def jobCharge (s : State) (e : EnergySample) (j : Job) : Nat × Nat :=
  let quad (t : Nat) : Nat := (e.quads.filter fun q => q.1.val == t / 128 && q.2.1.val == quadOf (t % 128)).foldl (fun n q => n + q.2.2) 0
  let rest := e.input - e.quads.foldl (fun n q => n + q.2.2) 0
  fracAdd (j.alive.foldl (fun n t => n + quad t) 0, 4) (rest * j.alive.length, Nat.max 1 (moduleTiles s))

/-- Charges the jobs that have started and not yet written their records. -/
def chargeJobs (s : State) (e : EnergySample) : State :=
  { s with jobs := s.jobs.map fun j => if j.startTb = 0 then j else { j with energy := fracAdd j.energy (jobCharge s e j) } }

/-- RIM_POWER_SAMPLE: every 1 us. -/
def powerSample (s : State) (watts : Nat) (e : EnergySample) : State :=
  if !s.pins.aux || s.pins.auxReset then s
  else
    let ss := (watts :: s.rim.samples).take 1000000
    let s := { s with rim := { s.rim with samples := ss } }
    let s := rset s .rimModPower 14 0 0 (average ss 1000 <<< 48 + average ss 10000 <<< 32 + average ss 1000000 <<< 16 + watts)
    let s := chargeJobs (rset s .rimModEnergy 14 0 0 ((rget s .rimModEnergy 14 + e.input) % 2 ^ 64)) e
    let s := dieList.foldl (fun s d =>
      if dieActive s d && rf s .rimStatus d 0 0 1 0 != 0 then count s .rimThrottleUs d 0 0 1 else s) s
    matrixThrottle s

/-! ### Groups (R501-R506) -/

/-- BUDGET_W (R490, R505). -/
def budgetNow (s : State) : Nat :=
  let lim := rf s .rimModBudget 14 0 0 63 48
  match s.rim.group with
  | none => lim
  | some _ =>
    let now := s.master.toNat
    let ded := ((s.rim.announced.filter fun a => decide (now < a.1 + 1200000)).map (·.2)).foldl Nat.max 0
    let held := s.rim.partners.foldl (fun n p => if now < p.heldAt + 1000000 then n + p.heldW else n) 0
    Nat.min lim (rf s .rimModBudget 14 0 0 31 16 + held - ded)

def setBudgetNow (s : State) : State := rfset s .rimModBudget 14 0 0 47 32 (budgetNow s)

/-- RIM_COORDINATOR_TICK: BUDGET_W and each die's share of it, by its share of the draw over the last 1 ms. -/
def coordinatorTick (s : State) : State :=
  if !dieActive s 14 then s
  else
    let s := setBudgetNow s
    let b := rf s .rimModBudget 14 0 0 47 32
    let avg (d : Nat) : Nat := (mget [] s.rim.draw d).foldl (· + ·) 0
    let total := dieList.foldl (fun n d => n + avg d) 0
    if total = 0 then s
    else { s with rim := { s.rim with share := dieList.map fun d => (d, (b * avg d, total)) } }

/-- RIM_BUDGET_CHECK: a die's 10 us average against its share moves every CAP of the die by one step. -/
def budgetCheck (s : State) (d watts : Nat) : State :=
  if !dieActive s d then s
  else
    let s := { s with rim := { s.rim with draw := mput [] s.rim.draw d ((watts :: mget [] s.rim.draw d).take 100) } }
    match mfind s.rim.share d with
    | none => s
    | some (a, b) =>
      let step (f : Nat → Nat) : State :=
        retargetAll ((List.range (islandCount d)).foldl (fun s n => setIsl s d n 20 16 (f (isl s d n 20 16))) s) d
      if a < watts * b then step fun c => Nat.min (slowest d) (c + 1)
      else if watts * b * 100 < a * 95 then step fun c => c - 1
      else s

/-- The payload of a report (R502). -/
def reportBytes (s : State) (wait : Nat) : List Byte :=
  let w0 := 1 <<< 56 + (s.rim.group.getD 0 % 65536) <<< 40 + nodeOf s 10 <<< 22
  let w1 := (s.rim.seq % 2 ^ 32) <<< 32 + rf s .rimModBudget 14 0 0 47 32 <<< 16 + rf s .rimModBudget 14 0 0 63 48
  let w2 := (average s.rim.samples 100 % 65536) <<< 48 + wait <<< 38 + s.rim.grantTo <<< 20 + (s.rim.grantW % 65536) <<< 4
  wordBytes [w64 w0, w64 w1, w64 w2, 0, 0, 0, 0, 0]

/-- The grant of a report (R504). -/
def nextGrant (s : State) (wait : Nat) : Nat × Nat :=
  let now := s.master.toNat
  let cand := s.rim.partners.filter fun p => p.seq.isSome && decide (now < p.at_ + 1000000) && decide (p.wait < 20)
  let best := cand.foldl (fun (a : Option Partner) p =>
    match a with
    | none => some p
    | some q => if p.wait < q.wait ∨ (p.wait = q.wait ∧ p.node < q.node) then some p else a) none
  match best with
  | none => (s.rim.grantTo, s.rim.grantW - s.rim.g)
  | some r =>
    if wait < 100 then (s.rim.grantTo, s.rim.grantW - s.rim.g)
    else
      let w := if r.node = s.rim.grantTo then s.rim.grantW else 0
      let own := rf s .rimModBudget 14 0 0 47 32
      (r.node, if r.budget + s.rim.g ≤ r.limit ∧ rf s .rimModBudget 14 0 0 15 0 + s.rim.g ≤ own then w + s.rim.g else w)

/-- WAIT (R503): the share of the period of 100 us, per mille, in which the module waited. -/
def waitShare (s : State) : Nat := Nat.min 1000 (s.rim.waited / 100)

/-- POWER_REPORT_SEND: the grant, then a POWER packet to each partner from an L-die. A member in deep idle sends none. -/
def reportSend (s : State) (via : Nat) : State :=
  if s.rim.group.isNone || s.rim.deepIdle || !dieActive s 14 then s
  else
    let wait := waitShare s
    let s := setBudgetNow s
    let (node, w) := nextGrant s wait
    let now := s.master.toNat
    let live := s.rim.announced.filter fun a => decide (now < a.1 + 1200000)
    let s := { s with rim := { s.rim with grantTo := node, grantW := w, announced := (now, w) :: live } }
    let s := setBudgetNow s
    let bs := reportBytes s wait
    let s := if !dieActive s via then s
      else s.rim.partners.foldl (fun (s : State) (p : Partner) =>
        let pk : Packet :=
          { ptype := 6, vc := 6, dst := BitVec.ofNat 18 p.node, src := BitVec.ofNat 18 (nodeOf s via), dconn := 0, hops := 0,
            psn := 0, cgen := 0, len := 64, ord := false, space := 0, die := 0, aop := 0, atype := 0, addr := 0, status := 0, tag := 0,
            slot := 0, rank := 0, payload := bs }
        (forward s via 16 pk).2) s
    { s with rim := { s.rim with seq := (s.rim.seq + 1) % 2 ^ 32, waited := 0 } }

/-- POWER_PACKET: a report is accepted from a partner, of this group, with a later SEQ (R502). -/
def powerPacket (s : State) (n : Nat) : State :=
  match takePacket s n 6 with
  | none => s
  | some (_, p, s) =>
    let ws := toWords 8 p.payload
    let f (i hi lo : Nat) : Nat := bits (wd ws i) hi lo
    let later (x : Partner) : Bool := match x.seq with
      | none => true
      | some q => let d := (f 1 63 32 + 2 ^ 32 - q) % 2 ^ 32
                  decide (0 < d) && decide (d < 2 ^ 31)
    if f 0 63 56 ≠ 1 ∨ s.rim.group ≠ some (f 0 55 40) then s
    else
      let accepted (x : Partner) : Partner :=
        if x.node == f 0 39 22 && later x then
          let me := f 2 37 20 == nodeOf s 10
          { node := x.node, seq := some (f 1 63 32), at_ := s.master.toNat, budget := f 1 31 16, limit := f 1 15 0, wait := f 2 47 38,
            grantTo := f 2 37 20, grantW := f 2 19 4, heldW := if me then f 2 19 4 else x.heldW,
            heldAt := if me then s.master.toNat else x.heldAt, stale := false }
        else x
      let s := { s with rim := { s.rim with partners := s.rim.partners.map accepted } }
      if dieActive s 14 then setBudgetNow s else s

/-- GROUP_PARTNER_STALE: logged once. -/
def partnerStale (s : State) (node : Nat) : State :=
  match s.rim.partners.find? fun p => p.node == node && !p.stale with
  | none => s
  | some _ =>
    let mark (p : Partner) : Partner := if p.node = node then { p with stale := true } else p
    rimLog { s with rim := { s.rim with partners := s.rim.partners.map mark } } 14 0xE07 node

/-! ### Temperatures (R332, R496-R499) -/

def sensorDie : Sensor → Nat
  | .junction d => dieIdx d
  | .stack m => 16 + m.val
  | .package x _ => 14 + x.val

/-- The sensor of a die's junction, and the limits: at or above throttle, at or below release. -/
def atThrottle (s : State) (no : Nat) : Bool :=
  match sensorTemp s no with
  | some t => decide ((sensorLimits no).1 ≤ t)
  | none => false
def atRelease (s : State) (no : Nat) : Bool :=
  match sensorTemp s no with
  | some t => decide (t ≤ (sensorLimits no).2.1)
  | none => true

/-- One evaluation of a die's sensors (R497): the thermal step of its variable islands, and THERMAL. -/
def thermalStep (s : State) (d : Nat) (step : Bool) : State :=
  if !dieActive s d then s
  else
    let hot := (dieSensors d).any (atThrottle s)
    let cool := (dieSensors d).all (atRelease s)
    let t := mget 0 s.rim.thermal d
    let t' := if !step || islandCount d == 0 then t else if atThrottle s d then Nat.min (slowest d) (t + 1) else if cool then t - 1 else t
    let s := retargetAll { s with rim := { s.rim with thermal := mput 0 s.rim.thermal d t' } } d
    if hot then rfset s .rimStatus d 0 0 1 1 1
    else if cool ∧ t' = 0 then rfset s .rimStatus d 0 0 1 1 0
    else s

/-- SENSOR_FAIL of a die goes with the last of its failed sensors (R499). -/
def clearFail (s : State) (d : Nat) : State :=
  if dieActive s d && !(dieSensors d).any s.rim.failed.contains then rfset s .rimStatus d 0 0 2 2 0 else s

/-- A sensor fails: it counts as standing at its throttle temperature. One that had failed before the die was reset is found so
again. -/
def sensorFails (s : State) (x : Sensor) : State :=
  let no := sensorNo x
  let d := sensorDie x
  if s.rim.failed.contains no && (!dieActive s d || rf s .rimStatus d 0 0 2 2 == 1) then s
  else
    let s := { s with rim := { s.rim with failed := kins s.rim.failed no } }
    rimLog (if dieActive s d then rfset s .rimStatus d 0 0 2 2 1 else s) d 0xE02 no

/-- A trip (R498, R568): jobs end without a record, and the main domain is held in reset. -/
def thermalTrip (s : State) (d no : Nat) : State :=
  let s := mainReset s
  addHold (report { s with pins := { s.pins with alertN := false } } 0xE01 d 3 no 0) 3

/-- The temperature fields of a memory sensor (R332, R339): doubled refresh above 85 degrees, normal again after 1 ms at or below
82, which two readings span. -/
def memTemp (s : State) (x : Sensor) (before : Option Int) (t : Int) : State :=
  let go (r : Reg) (d i : Nat) : State :=
    if !dieActive s d then s
    else
      let s := rfset s r d i 0 47 40 (tempByte (some t)).toNat
      if 85 < t then rfset s r d i 0 1 1 1
      else if t ≤ 82 ∧ (match before with | some b => decide (b ≤ 82) | none => false) = true then rfset s r d i 0 1 1 0
      else s
  match x with
  | .junction _ => s
  | .stack m => go .memStatus (16 + m.val) 0
  | .package k n => go .lpdStatus (14 + k.val) n.val

/-- A reading arrives (R497, R499). -/
def reading (s : State) (x : Sensor) (c : Option Int) : State :=
  let no := sensorNo x
  let d := sensorDie x
  match c with
  | none => thermalStep s d (no == d)
  | some t =>
    if !s.pins.aux then s
    else if t < -40 ∨ 150 < t then thermalStep (sensorFails s x) d (no == d)
    else
      let before := mfind s.rim.readings no
      let s := { s with rim := { s.rim with readings := mins s.rim.readings no t, failed := kdel s.rim.failed no } }
      let s := memTemp (clearFail s d) x before t
      let s := if no = d ∧ dieActive s d = true then rfset s .rimStatus d 0 0 47 40 (tempByte (some t)).toNat else s
      if (sensorLimits no).2.2 ≤ t ∧ s.pins.rails = true ∧ s.holds.contains 3 = false then thermalTrip s d no
      else thermalStep s d (no == d)

/-! ### Aging (R495) -/

def setTrim (s : State) (d n v : Nat) : State :=
  let s := setIsl s d n 47 40 v
  { s with flash := { s.flash with trims := mput 0 s.flash.trims (64 * d + n) v } }

/-- AGING_TRIM: `margin` is the margin less its target, in trim units. Nothing changes during a droop response. -/
def agingTrim (s : State) (d n : Nat) (margin : Int) : State :=
  if !dieActive s d || decide (islandCount d ≤ n) || isStretched s d n || !s.uszon.running then s
  else
    let t := isl s d n 47 40
    if margin < 0 then
      if t < 20 then setTrim s d n (t + 1)
      else if isl s d n 28 24 < slowest d then
        let f := isl s d n 28 24 + 1
        let s := setIsl (setTrim s d n 12) d n 28 24 f
        report (retarget { s with flash := { s.flash with fmax := mput 0 s.flash.fmax (64 * d + n) f } } d n) 0xE03 d 1 n 0
      else s
    else if 2 < margin then setTrim s d n (t - 1)
    else s

/-! ### Deep idle (R507) -/

/-- No job has run or been queued, and no host-queue command has run. -/
def moduleIdle (s : State) : Bool :=
  s.jobs.isEmpty
  && ((List.range 6).all fun k => !dieActive s k || (List.range 16).all fun q =>
      rf s .jobQcfg k 0 q 63 63 == 0 || jobQF s k q 11 0 == jobQF s k q 43 32)
  && s.host.queues.all fun e => e.2.started.isEmpty

/-- DEEP_IDLE_ENTER: Uszon also requests L0p narrowing of the host link. -/
def deepIdle (s : State) : State :=
  if !mainUp s || s.rim.deepIdle || s.rim.idleMs == 0 || !moduleIdle s then s
  else
    let gated := (activeC s).flatMap fun k => (List.range 32).map fun q => 32 * k + q
    let s := { s with rim := { s.rim with deepIdle := true }, gatedQuads := gated, host := { s.host with narrow := true } }
    let s := dieList.foldl (fun s d => if dieActive s d then rfset s .rimStatus d 0 0 3 3 1 else s) s
    (List.range 16).foldl (fun s p =>
      if dieActive s (portDie p) && portSt s p == pActive then rfset s .fabPortCtl (portDie p) (p % 4) 0 4 4 1 else s) s

/-! ### The commands -/

/-- RIM_POWER_SAMPLE. -/
def execRimPowerSample (watts : BitVec 16) (energy : EnergySample) (s : State) : Out := .next (powerSample s watts.toNat energy)
/-- RIM_COORDINATOR_TICK. -/
def execRimCoordinatorTick (s : State) : Out := .next (coordinatorTick s)
/-- RIM_BUDGET_CHECK. -/
def execRimBudgetCheck (d : Die) (watts : Nat) (s : State) : Out := .next (budgetCheck s (dieIdx d) watts)
/-- RIM_FREQ_STEP. -/
def execRimFreqStep (d : Die) (n : Fin 32) (s : State) : Out := .next (freqStep s (dieIdx d) n)
/-- DROOP_TRIP. -/
def execDroopTrip (d : Die) (n : Island) (s : State) : Out := .next (droopTrip s d n)
/-- DROOP_END. -/
def execDroopEnd (d : Die) (n : Island) (s : State) : Out := .next (droopEnd s d n)
/-- THERMAL_READ. -/
def execThermalRead (x : Sensor) (celsius : Option Int) (s : State) : Out := .next (reading s x celsius)
/-- SENSOR_TIMEOUT. -/
def execSensorTimeout (x : Sensor) (s : State) : Out := .next (thermalStep (sensorFails s x) (sensorDie x) false)
/-- AGING_TRIM. -/
def execAgingTrim (d : Die) (n : Fin 32) (margin : Int) (s : State) : Out := .next (agingTrim s (dieIdx d) n margin)
/-- POWER_REPORT_SEND. -/
def execPowerReportSend (via : LDie) (s : State) : Out := .next (reportSend s (10 + via.val))
/-- POWER_PACKET. -/
def execPowerPacket (n : Nat) (s : State) : Out := .next (powerPacket s n)
/-- GROUP_PARTNER_STALE. -/
def execGroupPartnerStale (node : BitVec 18) (s : State) : Out := .next (partnerStale s node.toNat)
/-- DEEP_IDLE_ENTER. -/
def execDeepIdleEnter (s : State) : Out := .next (deepIdle s)
/-- MEM_TEMP_READ: a stack's or package's reading, every 1 ms. -/
def execMemTempRead (h : Home) (celsius : Option Int) (s : State) : Out :=
  .next (reading s (match h with | .fast m => .stack m | .deep x n => .package x n) celsius)

end Sys2Proof.Machine
end

