-- ==== Sys2Proof/Machine/Objects.lean ====
section
/-!
DEFINITION. The mailbox commands on contexts, granules, connections and routes (R379-R382, R419-R421, R526), and the completion of
pending commands (R521).
-/
namespace Sys2Proof.Machine

/-! ### Contexts (R379-R382) -/

/-- A slot that a create may take (R381). -/
def slotFree (s : State) (n : Nat) : Bool :=
  let v := rget s .jobCtxstat 0 0 n
  rf s .jobCtx 0 0 n 63 63 == 0 && (!bit v 63 || decide (4096 ≤ (s.uszon.genCounter.toNat + 65536 - bits v 47 32) % 65536))

/-- Writes a context slot on all six C-dies (R379). -/
def ctxPut (s : State) (n v : Nat) : State := (List.range 6).foldl (fun s k => rset s .jobCtx k 0 n v) s

/-- CTX_CREATE (R380, R381). -/
def execCtxCreate (m : Mbx) (s : State) : Out :=
  .next (mbxRun s m ⟨0x0101, lenIs 8, fun b => decide (fld b 0 8 < 2 ^ 36), true⟩ fun s b =>
    match (List.range 64).find? (slotFree s) with
    | none => (s, .done 0xA04 [])
    | some n =>
      let gen := s.uszon.genCounter
      let s := ctxPut s n (2 ^ 63 + gen.toNat <<< 44 + fld b 0 8)
      ({ s with uszon := { s.uszon with genCounter := gen + 1 } }, .done 0 ([BitVec.ofNat 8 n, 0] ++ toBytes 2 gen.toNat)))

/-- The dispatchers' jobs of a context end (R382 step 1). -/
def ctxJobsEnd (s : State) (ctx : Nat) : State :=
  s.jobs.foldl (fun s j =>
    if j.ctx ≠ ctx then s
    else match j.stage with
      | .waiting _ => jobFail s j.ref 0xA0C
      | _ => jobEnd s j.ref 0xA0C id) s

/-- The Grotto queues of a context halt and are disabled (R197, R382 step 2). -/
def ctxQueuesOff (s : State) (ctx : Nat) : State :=
  (activeC s).foldl (fun s k => (List.range 32).foldl (fun s n =>
    let v := rget s .grtQcfg k 0 n
    if bit v 63 && bits v 58 53 == ctx then
      let s := rfset (rfset s .grtQstat k 0 n 63 63 1) .grtQstat k 0 n 47 32 0x507
      grtQcfgWrite s k n (v % 2 ^ 63)
    else s) s) s

/-- The fabric send queues of a context halt (R197, R427). -/
def ctxFabQueuesHalt (s : State) (ctx : Nat) : State :=
  (([10, 11, 12, 13] : List Nat).filter (dieActive s)).foldl (fun s l => (List.range 64).foldl (fun s n =>
    let v := rget s .fabQcfg l 0 n
    if bit v 63 && !bit v 62 && bits v 61 56 == ctx then
      rfset (rfset s .fabQstat l 0 n 63 63 1) .fabQstat l 0 n 47 32 0x507
    else s) s) s

/-- The eight entries of a GRT_OWNER_m value, those that name the context without VALID. -/
def entriesOff (v ctx : Nat) : Nat :=
  (List.range 8).foldl (fun v j =>
    let e := bits v (8 * j + 7) (8 * j)
    if bit e 7 && e % 64 == ctx then fset v (8 * j + 7) (8 * j) (e % 128) else v) v

/-- The context's granules lose VALID, also in writes that wait, and its decoder bindings end (R382 step 3). -/
def ctxGranulesOff (s : State) (ctx : Nat) : State :=
  (List.range 6).foldl (fun s k =>
    let s := (List.range 96).foldl (fun s gr =>
      let e := ownerEntry s k gr
      if bit e 7 && e % 64 == ctx then granuleGets s k gr (e % 128) else s) s
    let g := grotto s k
    let g : Grotto := { g with ownerPending := g.ownerPending.map fun w => (w.1, w.2.1, entriesOff w.2.2 ctx) }
    let off (b : Option Binding) : Option Binding := b.filter fun b => b.ctx != ctx
    let dec (d : DecStream) : DecStream :=
      { bound := off d.bound, changing := d.changing.map fun r => { r with next := off r.next } }
    setGrotto s k { g with decoders := (g.decoders.map fun e => (e.1, dec e.2)).filter fun e => e.2 != DecStream.reset }) s

/-- Steps 2-5 of a destroy (R382). -/
def ctxFree (s : State) (ctx : Nat) : State :=
  let s := tlbDrop (ctxGranulesOff (ctxFabQueuesHalt (ctxQueuesOff s ctx) ctx) ctx) (fun _ => true) ctx
  ctxPut s ctx (fset (rget s .jobCtx 0 0 ctx) 63 63 0)

/-- CTX_DESTROY: its jobs end; the rest follows once they have written their records. -/
def execCtxDestroy (m : Mbx) (s : State) : Out :=
  .next (mbxRun s m ⟨0x0102, lenIs 4, fun b => decide (fld b 0 1 < 64) && zeros b 1 1, true⟩ fun s b =>
    if ctxCurrent s 0 (fld b 0 1) (fld b 2 2) then (ctxJobsEnd s (fld b 0 1), .pending (fld b 0 1 + 256 * fld b 2 2) none) else (s, .done 0xA03 []))

/-- GRT_ASSIGN (R188, R190): the entries of the granules in the mask, which take effect under R190. -/
def execGrtAssign (m : Mbx) (s : State) : Out :=
  .next (mbxRun s m ⟨0x0103, lenIs 16, fun b => decide (fld b 0 1 ≤ 5) && decide (fld b 1 1 < 64 ∨ fld b 1 1 = 0xFF), true⟩ fun s b =>
    let k := fld b 0 1
    let slot := fld b 1 1
    if slot ≠ 0xFF ∧ !ctxCurrent s 0 slot (fld b 2 2) then (s, .done 0xA03 [])
    else if !dieActive s k then (s, .done 0xD80 [])
    else
      let v := (if slot = 0xFF then 0 else 128 + slot) * 0x0101010101010101
      ((List.range 12).foldl (fun s m =>
        let mask := bits (fld b 4 12) (8 * m + 7) (8 * m)
        if mask = 0 then s else ownerPend s k m mask v) s, .done 0 []))

/-! ### Connections, nodes and routes (R419-R421, R424) -/

/-- CONN_CREATE. An index that is in use must be destroyed first (DEDUCED, log entry 86). -/
def execConnCreate (m : Mbx) (s : State) : Out :=
  .next (mbxRun s m ⟨0x0201, lenIs 18, fun b =>
      decide (fld b 0 2 < 8192 ∧ fld b 2 1 < 64 ∧ fld b 7 1 < 32 ∧ fld b 8 1 < 64 ∧ fld b 9 1 ≤ 1 ∧ fld b 12 4 < 2 ^ 18
        ∧ fld b 16 2 < 8192) && zeros b 3 1 && zeros b 10 2, true⟩ fun s b =>
    let c := fld b 0 2
    if !ctxCurrent s 0 (fld b 2 1) (fld b 4 2) then (s, .done 0xA03 [])
    else if !dieActive s (connDie c) then (s, .done 0xD80 [])
    else if connF s c 63 63 = 1 then (s, .done 0xF04 [])
    else
      let v := 2 ^ 63 + 1 <<< 61 + fld b 2 1 <<< 55 + fld b 6 1 <<< 47 + fld b 7 1 <<< 42 + fld b 8 1 <<< 36 + fld b 12 4 <<< 18
        + fld b 16 2 <<< 5 + fld b 9 1 <<< 4
      let s := rset (rset s .fabConn (connDie c) 0 (c % 2048) v) .fabConnSeq (connDie c) 0 (c % 2048) 0
      (setConn s c Conn.reset, .done 0 []))

/-- CONN_DESTROY: ERROR, then VALID clears (DESIGN CHOICE, log entry 139). -/
def execConnDestroy (m : Mbx) (s : State) : Out :=
  .next (mbxRun s m ⟨0x0202, lenIs 2, fun b => decide (fld b 0 2 < 8192), true⟩ fun s b =>
    let c := fld b 0 2
    if connF s c 63 63 = 1 then
      let s := a2aRecords (connError s c none 0xB04 0xB04)
      (setConn (setConnF s c 63 63 0) c Conn.reset, .pending c (some (0, [])))
    else (s, .pending c (some (0, []))))

/-- Every port of the module is DISABLED (R437); those of a lost L-die are DOWN (R420). -/
def portsDisabled (s : State) : Bool := (List.range 16).all fun p => portSt s p == pDisabled

/-- NODE_SET (R419). -/
def execNodeSet (m : Mbx) (s : State) : Out :=
  .next (mbxRun s m ⟨0x0203, lenIs 4, fun b => decide (fld b 0 4 < 2 ^ 18), true⟩ fun s b =>
    if !portsDisabled s then (s, .done 0xF04 [])
    else ((List.range 4).foldl (fun s l => rset s .fabNode (10 + l) 0 0 (2 ^ 63 + fld b 0 4)) s, .done 0 []))

/-- ROUTE_SET (R420, R438): the same entries on all four L-dies. -/
def execRouteSet (m : Mbx) (s : State) : Out :=
  .next (mbxRun s m ⟨0x0204, fun n b => n == 8 + 8 * fld b 4 2, fun b =>
      decide (fld b 0 1 ≤ 1 ∧ 1 ≤ fld b 4 2 ∧ fld b 4 2 ≤ 64 ∧ fld b 2 2 + fld b 4 2 ≤ 512) && zeros b 1 1 && zeros b 6 2, true⟩ fun s b =>
    let r : Reg := if fld b 0 1 = 0 then .fabGroupRt else .fabMemberRt
    ((List.range (fld b 4 2)).foldl (fun s i => (List.range 4).foldl (fun s l =>
      rset s r (10 + l) 0 (fld b 2 2 + i) (r.spec.write 0 (fld b (8 + 8 * i) 8))) s) s, .done 0 []))

/-! ### Pending commands (R521) -/

/-- What a pending class B command waits for has come: its code and response, or nothing yet. -/
def pendingDone (s : State) (p : PendB) : Option (Nat × List Byte) :=
  match p.result with
  | some r => some r
  | none =>
    match p.op with
    -- MODULE_RESET: MOD_READY, or a failed start-up (DEDUCED, log entry 30)
    | 0x0302 => if phase s = 7 then some (0, []) else if phase s = 9 then some (0xD81, []) else none
    -- DIE_RESET: HELD for ACTION 0x1, ACTIVE or RETIRED for the others (R44); the argument is ACTION x 256 + die
    | 0x0301 =>
      let st := dieSt s (p.arg % 256)
      if p.arg / 256 = 1 then (if st = dsHeld then some (0, []) else none)
      else if st = dsActive then some (0, [])
      else if st = dsRetired then some (0xD83, [])
      else none
    -- CTX_DESTROY: no job of the context is left (R382), or a destroy accepted earlier has freed it; the argument is slot + 256 x GEN
    | 0x0102 =>
      if !ctxCurrent s 0 (p.arg % 256) (p.arg / 256) then some (0xA03, [])
      else if s.jobs.any (fun j => j.ctx == p.arg % 256) then none
      else some (0, [])
    | _ => some (0, [])

/-- A pending destroy of the same slot was accepted earlier and is performed first (R522). -/
def destroyWaits (s : State) (m : Nat) (p : PendB) : Bool :=
  p.op == 0x0102 && (s.uszon.order.takeWhile (· != m)).any fun e =>
    match mfind s.uszon.pendingB e with
    | some q => q.op == 0x0102 && q.arg % 256 == p.arg % 256
    | none => false

/-- MBX_CLASS_B_COMPLETE (R521): a pending command whose work is done reaches DONE and notifies its owner. A destroy frees its
slot then, and ends jobs of the context that a dispatcher has taken since. -/
def execMbxClassBComplete (m : Mbx) (s : State) : Out :=
  .next (match mfind s.uszon.pendingB m.val with
    | none => s
    | some p =>
      if destroyWaits s m p then s
      else
        match pendingDone s p with
        | none => if p.op = 0x0102 then ctxJobsEnd s (p.arg % 256) else s
        | some (code, resp) => mbxFinish (if p.op = 0x0102 ∧ code = 0 then ctxFree s (p.arg % 256) else s) m code resp)

end Sys2Proof.Machine
end

