-- ==== Sys2Proof/Machine/TileCtl.lean ====
section
/-!
DEFINITION. The tile's branches, jumps, exit, trap, barriers and fences (R59-R61, R75-R77, R365-R367), the watchdog and
uncorrectable errors (R79, R80).
-/
namespace Sys2Proof.Machine

/-! ### Branches (R59, R60) -/

/-- A branch target: `n` words from pc. -/
def targetOf (pc : W64) (n : Int) : Nat := wrap 64 ((pc.toNat : Int) + 8 * n)

/-- The mask of a list of lanes. -/
def maskOfLanes (ls : List Nat) : W32 := BitVec.ofNat 32 (ls.foldl (fun m l => m + 2 ^ l) 0)

/-- br, as the pseudocode of R59 has it: a fault code, or the group after it. DESIGN CHOICE (log entry 111): a non-canonical
target comes before E_TILE_UNIFORM_VIOLATION and E_TILE_RECONV_OVERFLOW. -/
def branch (gr : Group) (w : Nat) : Nat × Group :=
  let e := gr.top
  let ls := lanesOf gr w
  let tm := maskOfLanes ls
  let nm := maskOfLanes (gr.active.filter fun l => !ls.contains l)
  let rpc := e.pc + w64 (8 * fReconv w)
  let tgt := targetOf e.pc (fTarget w)
  if tm ≠ 0 ∧ !canonical tgt then (0x105, gr)
  else if nm = 0 then (0, gr.setPc (w64 tgt))
  else if tm = 0 then (0, gr.step)
  else if fReconv w = 0 then (0x107, gr)
  else
    let rest := gr.stack.drop 1
    let tk : StackEntry := ⟨w64 tgt, tm, some rpc⟩
    let st := if e.rpc = some rpc then tk :: { e with pc := e.pc + 8, mask := nm } :: rest
              else tk :: ⟨e.pc + 8, nm, some rpc⟩ :: { e with pc := rpc } :: rest
    if 32 < st.length then (0x106, gr) else (0, { gr with stack := st })

/-- Ends an instruction that sets the pc itself. -/
def goTo (t g : Nat) (gr : Group) (s : State) : Issue := .hold (setGroup s t g gr)

/-- br: bits 55:52 are zero. -/
def execBr (t : TileId) (g : Slot) (w : BitVec 56) (s : State) : Out :=
  issue s t g (fun _ => if fTy w.toNat ≠ 0 then 0x101 else 0) ([], []) fun s gr =>
    let r := branch gr w.toNat
    if r.1 ≠ 0 then .fault r.1 else goTo t g r.2 s

/-- The checks of the J format. -/
def jCheck (w : Nat) : Nat := if bits w 55 46 ≠ 0 ∨ fDk w ≠ 1 ∨ bits w 35 32 ≠ 0 ∨ 64 ≤ fDst w then 0x101 else 0

/-- A jump to the address in SREG: its checks, then the pc (R60). DESIGN CHOICE (log entry 111): a misaligned target comes before
a non-canonical one. -/
def jumpTo (t g w : Nat) (s : State) : Out :=
  issue s t g (fun _ => jCheck w) ([], [fDst w]) fun s gr =>
    let tgt := sget gr (fDst w)
    if tgt % 8 ≠ 0 then .fault 0x104 else if !canonical tgt then .fault 0x105 else goTo t g (gr.setPc (w64 tgt)) s

/-- jmp. -/
def execJmp (t : TileId) (g : Slot) (w : BitVec 56) (s : State) : Out := jumpTo t g w.toNat s
/-- ret. -/
def execRet (t : TileId) (g : Slot) (w : BitVec 56) (s : State) : Out := jumpTo t g w.toNat s
/-- call: SREG = pc + 8; pc += 8 x TARGET. -/
def execCall (t : TileId) (g : Slot) (w : BitVec 56) (s : State) : Out :=
  let n := w.toNat
  issue s t g (fun _ => jCheck n) ([], [fDst n]) fun s gr =>
    let tgt := targetOf gr.top.pc (fTarget n)
    if !canonical tgt then .fault 0x105
    else goTo t g ((sset gr (fDst n) (gr.top.pc + 8).toNat).setPc (w64 tgt)) s

/-- exit: its lanes leave every entry for good; a group without lanes retires, once its accesses have completed (DEDUCED, log entry
68). -/
def execExit (t : TileId) (g : Slot) (w : BitVec 56) (s : State) : Out :=
  let n := w.toNat
  issue s t g (fun al => (form0 tyAny).check false al n (modNone false n)) ([], []) fun s gr =>
    let m := maskOfLanes (lanesOf gr n)
    let gr' := { gr with exited := gr.exited ||| m, stack := gr.stack.map fun e => { e with mask := e.mask &&& ~~~ m } }
    if gr'.stack.all fun e => e.mask == 0 then (if gr.busy then .wait else .hold (retire (setGroup s t g gr') t g)) else .done gr' s

/-- trap: E_TILE_TRAP with IMM24 in INFO, if a lane takes part. -/
def execTrap (t : TileId) (g : Slot) (w : BitVec 56) (s : State) : Out :=
  let n := w.toNat
  issue s t g (fun al => (form0 tyAny).check true al n (modNone true n)) ([], []) fun s gr =>
    if (lanesOf gr n).isEmpty then .done gr s else .hold (preciseFaultAt s t g 0x10B (fImm24 n) 0)

/-! ### Barriers (R75, R76) -/

/-- A barrier that no group has named. -/
def Barrier.reset : Barrier := ⟨false, 0, 0, 0, [], [], []⟩
def barrier (x : Tile) (b : Nat) : Barrier := mget Barrier.reset x.barriers b
def setBarrier (x : Tile) (b : Nat) (v : Barrier) : Tile := { x with barriers := mput Barrier.reset x.barriers b v }

/-- A phase completes (BAR_PHASE_COMPLETE): the waiting groups go on. DESIGN CHOICE (log entry 112): a group that only arrived
passes its next wait on the barrier, and a wait without an earlier arrival is for the phase that runs. What its groups had
waited for before they arrived is kept from no group any more (R105, R171). -/
def phaseDone (s : State) (t b : Nat) : State :=
  let x := tile s t
  let y := barrier x b
  let passed := y.early.foldl (fun m g => mins m g y.count) y.passed
  let x := { x with uncovered := x.uncovered.filter fun u =>
    !(u.ownsWait x && (y.waiters ++ y.early).contains u.from_.slot) }
  let s := setTile s t (setBarrier x b { Barrier.reset with passed := passed })
  y.waiters.foldl (fun s g => match group s t g with
    | some gr => setGroup s t g { gr.step with wait := .ready }
    | none => s) s

/-- A group names a count in the running phase. -/
def Barrier.names (y : Barrier) (n : Nat) : Barrier := if y.named then y else { y with named := true, count := n }

/-- A group arrives. -/
def arrive (s : State) (t b n g : Nat) (waits : Bool) : State :=
  let x := tile s t
  let y := (barrier x b).names n
  let y := if y.arrived = 0 then { y with need := if n = 0 then x.groups.length else n } else y
  let y := { y with arrived := y.arrived + 1, waiters := if waits then y.waiters ++ [g] else y.waiters,
                    early := if waits then y.early else kins y.early g }
  let s := setTile s t (setBarrier x b y)
  if y.need ≤ y.arrived then phaseDone s t b else s

/-- The count that a group's bar is held against (R76): that of the phase in which it arrived and which has completed, for its
wait, or that which the running phase has been given. DESIGN CHOICE (log entry 112): 0 and the number that it stands for are
different counts. -/
def barCount (y : Barrier) (g mode : Nat) : Option Nat :=
  match if mode = 2 then mfind y.passed g else none with
  | some c => some c
  | none => if y.named then some y.count else none

/-- bar. A waiting group stays at the instruction until its phase completes; it arrives once its accesses are visible to the
tile (R75). DESIGN CHOICE (log entry 112): a bar whose guard no lane passes does nothing, one that some lanes pass acts for the
whole group, and a count above 16 is illegal (DEDUCED, log entry 14) (DEDUCED, log entry 15). -/
def execBar (t : TileId) (g : Slot) (w : BitVec 56) (s : State) : Out :=
  let n := w.toNat
  let b := fImm24 n % 16
  let c := bits (fImm24 n) 8 4
  let mode := fImod n
  issue s t g (fun al => (form0 tyAny).check true al n (mode == 3 || decide (16 < c))) ([], []) fun s gr =>
    if (lanesOf gr n).isEmpty then .done gr s
    else if gr.top.mask ≠ BitVec.allOnes 32 then .fault 0x108
    else
      let y := barrier (tile s t) b
      if (barCount y g mode).any (· != c) then .fault 0x109
      else if !gr.pend.isEmpty then .wait
      else
        match mode with
        | 1 =>
          match group (arrive s t b c g false) t g with
          | some gr => .done gr (arrive s t b c g false)
          | none => .wait
        | 0 => .hold (arrive (setGroup s t g { gr with wait := .barrier b }) t b c g true)
        | _ =>
          let put (y : Barrier) : State := setTile s t (setBarrier (tile s t) b y)
          if (mfind y.passed g.val).isSome then .done gr (put { y with passed := mdel y.passed g })
          else
            .hold (setGroup (put { y.names c with waiters := y.waiters ++ [g.val], early := kdel y.early g }) t g
              { gr with wait := .barrier b })

/-- A further group of the job can launch onto a tile (R76). -/
def canLaunch (s : State) (t : Nat) (j : Job) : Bool :=
  let rank := (tile s t).rank
  (!j.rerun.isEmpty || decide (mget 0 j.next rank < placed j.ngroups j.tiles.length rank)) && (freeSlot s t j).isSome

/-- BAR_DEADLOCK (R76): every resident group waits at a barrier and no further group can launch; the group of the lowest slot
raises the code (DEDUCED, log entry 69). -/
def barDeadlock (s : State) (t : Nat) : State :=
  let x := tile s t
  match x.groups, jobOn s t with
  | e :: _, some j =>
    if tileOpen s t && x.mode == .running && (x.groups.all fun e => match e.2.wait with | .barrier _ => true | _ => false) && !canLaunch s t j then
      preciseFault s t e.1 0x10A
    else s
  | _, _ => s

/-- BAR_DEADLOCK. -/
def execBarDeadlock (t : TileId) (s : State) : Out := .next (barDeadlock s t)

/-! ### Fences (R77, R365-R367) -/

/-- A fence of scope `scope`: bits 2:0 of IMM24 above 4 are illegal, and a word of another scope is another row's. `ready`
says when it has completed; `fst` is what it begins with and `last` what it ends with (DEDUCED, log entry 16). -/
def fence (scope : Nat) (first last : State → State) (quiet : State → Group → Bool) (t g w : Nat) (s : State) : Out :=
  let sc := fImm24 w % 8
  if sc ≤ 4 ∧ sc ≠ scope then .next s
  else
    issue s t g (fun al => (form0 tyAny).check true al w (modNone true w || decide (4 < sc))) ([], []) fun s gr =>
      let s := first s
      if quiet s gr then .done gr (last s) else .hold s

/-- The group's loads and atomics have completed. -/
def pendDone (_ : State) (gr : Group) : Bool := gr.pend.isEmpty
/-- Every access of the group has been performed, and the tile's cached stores are in the die cache, or performed at their
homes where the die cache is disabled (R298, R365). -/
def dieDone (t : Nat) (s : State) (gr : Group) : Bool :=
  gr.pend.isEmpty && gr.unperformed.isEmpty && !storesWaiting s t && (tile s t).unperformed.isEmpty
/-- As `dieDone`, with every write performed at a home Visible (R367). -/
def sysDone (t : Nat) (s : State) (gr : Group) : Bool := dieDone t s gr && gr.invisible.isEmpty && (tile s t).invisible.isEmpty

/-- What fence.tile waits for (R77, R105): the group's loads and atomics, and its mmas streams. -/
def tileDone (t g : Nat) (s : State) (gr : Group) : Bool :=
  gr.pend.isEmpty && (tile s t).engines.all fun e => e.2.queue.all fun o => o.opc != 0x81 || o.from_ != gr.issuer g

/-- The group's streams come under its fence.tile. -/
def streamsFenced (t g : Nat) (s : State) : State :=
  match group s t g with
  | none => s
  | some gr => setTile s t (waitedFor (tile s t) fun u => u.words.isEmpty && u.from_ == gr.issuer g)

/-- fence.group. -/
def execFenceGroup (t : TileId) (g : Slot) (w : BitVec 56) (s : State) : Out := fence 0 id id pendDone t g w.toNat s
/-- fence.tile. -/
def execFenceTile (t : TileId) (g : Slot) (w : BitVec 56) (s : State) : Out :=
  fence 1 id (streamsFenced t g) (tileDone t g) t g w.toNat s
/-- fence.die: L1 DRAIN, the wait, L1 INV. -/
def execFenceDie (t : TileId) (g : Slot) (w : BitVec 56) (s : State) : Out :=
  fence 2 (l1Drain · t) (l1InvAll · t) (dieDone t) t g w.toNat s
/-- fence.device: aperture accesses are performed at issue in this model (DESIGN CHOICE, log entry 46). -/
def execFenceDevice (t : TileId) (g : Slot) (w : BitVec 56) (s : State) : Out :=
  fence 3 (l1Drain · t) (l1InvAll · t) (dieDone t) t g w.toNat s
/-- fence.sys. -/
def execFenceSys (t : TileId) (g : Slot) (w : BitVec 56) (s : State) : Out :=
  fence 4 (l1Drain · t) (l1InvAll · t) (sysDone t) t g w.toNat s

/-! ### The watchdog and uncorrectable errors (R79, R80) -/

/-- TILE_STATE.STATE is RUNNING (R82): the tile runs, or its groups stop and requests of theirs are outstanding. -/
def tileRuns (s : State) (t : Nat) : Bool :=
  let x := tile s t
  x.mode == .running || (x.mode == .stopping && !tileQuiet s t)

/-- TILE_WATCHDOG_EXPIRY: while the tile is RUNNING, a group that waits at no barrier has completed nothing for PERIOD_US; Uszon
reports E_TILE_HANG and fences the tile. -/
def execTileWatchdogExpiry (t : TileId) (s : State) : Out :=
  let x := tile s t
  .next (if tileOpen s t && tileRuns s t && x.groups.any fun e => (match e.2.wait with | .barrier _ => false | _ => true) then
      fenceTile (report s 0x10C (tileDie t) 1 t 0) t true
    else s)

/-- TILE_UNCORRECTABLE: the job ends with E_TILE_UNCORRECTABLE, and Uszon fences the tile. -/
def execTileUncorrectable (t : TileId) (s : State) : Out :=
  .next (if tileOpen s t then fenceTile (report (imprecise s t 0x10D) 0x10D (tileDie t) 1 t 0) t true else s)

/-! ### The fetch (R57, R78, R383) -/

/-- TILE_PRECISE_FAULT at a group's fetch: a pc that has no translation, or a word whose opcode is not given. A word that is an
instruction raises its own faults when it issues, and the fetch then changes nothing. -/
def execTilePreciseFault (t : TileId) (g : Slot) (w : W64) (s : State) : Out :=
  .next (match ready s t g with
    | none => s
    | some (gr, s') =>
      let pc := gr.top.pc.toNat
      let mask := gr.top.mask.toNat
      if !canonical pc then preciseFaultAt s' t g 0x105 mask pc
      else
        let (code, pa, s') := translate s' t (tile s' t).ctx (pc % 2 ^ 48) .fetch
        if code ≠ 0 then preciseFaultAt s' t g code mask pc
        else if laneCode s' t pa 8 ≠ 0 then imprecise s' t (laneCode s' t pa 8)
        else if (tileInstr t g w).isSome then s
        else preciseFaultAt s' t g 0x101 mask 0)

end Sys2Proof.Machine
end

