-- ==== Sys2Proof/Machine/RegisterWrite.lean ====
section
/-!
DEFINITION. Register space as a whole (R8-R12, R26, R29): which registers answer, what a read shows, and what a write does.
-/
namespace Sys2Proof.Machine

/-! ### Which registers answer (R23, R29, R34, R41, R563, R574) -/

/-- A register of the host interface: its domain leaves reset with the main rails (R561). -/
def isHif (r : Reg) : Bool := bits r.spec.base 31 16 == 0x500

/-- A register of a tile block (R29). -/
def inTileBlock (r : Reg) : Bool := decide (0x10000000 ≤ r.spec.base)

/-- The register answers. The auxiliary domain and the master timebase answer with auxiliary power, the host interface once
its domain has left reset, a tile block while its tile is neither disabled nor fenced, the rest of a die while it is ACTIVE
(DEDUCED, log entry 25). -/
def regUp (s : State) (r : Reg) (die i : Nat) : Bool :=
  if r.spec.aux || (r == .telTimebase && die == 14) then s.pins.aux && !s.pins.auxReset
  else if isHif r then s.pins.pwrGood
  else dieActive s die && (!inTileBlock r || tilePresent s (128 * die + i))

/-! ### Reading -/

/-- TILE_STATE (R82). -/
def viewTileState (s : State) (t : Nat) : Nat :=
  let x := tile s t
  let st := match x.mode with
    | .idle => 1
    | .running => 2
    | .stopping => if tileRuns s t then 2 else 3
  x.groups.foldl (fun n e => n + 2 ^ (32 + e.1)) 0 + (if st = 1 then 0 else x.ctx <<< 16) + st

/-- MTX_STATUS (R117). -/
def viewMtxStatus (s : State) (t : Nat) : Nat :=
  (List.range 4).foldl (fun n e =>
    let g := mget Engine.reset (tile s t).engines e
    n + b2n g.cold <<< (20 + e) + b2n g.running <<< (16 + e) + g.queue.length <<< (3 * e)) 0

/-- FLS_STATUS (R176). -/
def viewFlsStatus (s : State) (t : Nat) : Nat := (tile s t).fls.length <<< 4 + b2n ((tile s t).fls.any (·.started))

/-- HLX_DEC_SRC_s (R242) of the quad of a site. -/
def viewDecSrc (d : DecStream) : Nat :=
  b2n d.changing.isSome <<< 62 +
    (match d.bound with
     | some b => 1 <<< 63 + b.ctx <<< 50 + b.src
     | none => 0)

/-- HLX_DEC_POS_s (R243). -/
def viewDecPos (d : DecStream) : Nat :=
  match d.bound with
  | some b => b.panel0 <<< 32 + b.kblk0
  | none => 0

/-- JOB_CTXSTAT_n.JOBS (R403): running jobs of the context with tiles on the die. -/
def viewJobs (s : State) (k ctx : Nat) : Nat :=
  (s.jobs.filter fun j => j.stage == .running && j.ctx == ctx && j.alive.any fun t => t / 128 == k).length

/-- What a register that answers shows. -/
def regView (s : State) (r : Reg) (die i j : Nat) : Nat :=
  let t := 128 * die + i
  match r with
  | .tileState => viewTileState s t
  | .mtxStatus => viewMtxStatus s t
  | .mtxAccMode => (tile s t).accTags.toNat
  | .flsStatus => viewFlsStatus s t
  | .hlxDecSrc => viewDecSrc (decoder s die (quadOf i * 8 + j))
  | .hlxDecPos => viewDecPos (decoder s die (quadOf i * 8 + j))
  | .jobCtxstat => fset (rget s r die i j) 7 0 (viewJobs s die j)
  | .telTimebase => timebaseOf s die
  | .dlkStraps => fset (fset (rget s r die i j) 15 15 (b2n s.pins.pwrEn)) 14 14 (b2n s.pins.modResetN)
  | _ => rget s r die (regHome r i) j

/-- A read of eight aligned bytes of register space (R9, R12, R539): an offset that no register occupies, and a register that
does not answer, read all ones. -/
def regRead (s : State) (a : Nat) : Nat :=
  let die := bits a 39 32
  let off := bits a 31 0
  match regAt die off with
  | some (r, i, j) => if regUp s r die i then regView s r die i j else ones64.toNat
  | none =>
    if isShadow a then
      match regAt die (off - 0x8000) with
      | some (r, i, _) => if regUp s r die i then shadowOf s (a - 0x8000) else ones64.toNat
      | none => ones64.toNat
    else ones64.toNat

/-! ### Writing -/

/-- The access codes of a register's fields act (R10, R11). -/
def regPut (s : State) (r : Reg) (die i j v : Nat) : State :=
  rset s r die (regHome r i) j (r.spec.write (rget s r die (regHome r i) j) v)

/-- The command mailbox that holds a register instance (R519). -/
def mailboxOf (r : Reg) (i : Nat) : Option Nat :=
  if r == .mbxCmd || r == .mbxStatus || r == .mbxAuthCtr || r == .mbxAuthTag0 || r == .mbxAuthTag1 || r == .mbxBuf then some (i + 1)
  else if r == .mbxNotifyAddr || r == .mbxNotifyData then some (i + 16)
  else none

/-- Clearing VALID of an error log clears MORE (R340). -/
def errLogWrite (s : State) (r : Reg) (die i v : Nat) : State :=
  if bit v 63 then rset s r die i 0 (rget s r die i % 2 ^ 48) else s

/-- SMP_DRAIN_CMD and LPD_DRAIN_CMD (R342, R343). -/
def drainWrite (s : State) (h v : Nat) : State := drainCmd s h (bit v 0) (bit v 1)

/-- JOB_CTL (R404) (DEDUCED, log entry 77). -/
def jobCtlWrite (s : State) (k v : Nat) : State :=
  match bits v 63 60 with
  | 1 => jobAbort s k v
  | 2 => jobPreempt s k v
  | 3 => jobTlbInv s k v
  | _ => s

/-- DLK_LINK_CTL_l (R481). -/
def linkCtlWrite (s : State) (die l v : Nat) : State :=
  let s := if bit v 0 then linkRetrain s die l else s
  if bit v 1 then linkUnfence s die l else s

/-- RIM_MOD_BUDGET holds only values that pass the check of R513. -/
def budgetWrite (s : State) (v : Nat) : State :=
  let lim := bits v 63 48
  if 1000 ≤ lim ∧ lim ≤ 3600 ∧ bits v 15 0 ≤ bits v 31 16 ∧ bits v 31 16 ≤ lim then regPut s .rimModBudget 14 0 0 v else s

/-- A permitted write of a register that answers. -/
def regAct (s : State) (a : Agent) (r : Reg) (die i j v : Nat) : State :=
  let t := 128 * die + i
  match r with
  | .dlkDieResetCtl => dieResetWrite s a (bits v 11 8) (bits v 7 0)
  | .mbxFaultSoft => faultSoftWrite s v
  | .flsStat => rset s .flsStat die i j 0
  | .l1cCtl => l1cCtlWrite s t v
  | .grtOwner => ownerWrite s die j v
  | .grtQcfg => grtQcfgWrite s die j v
  | .drpRngCfg => rngCfgWrite s die (bit v 0)
  | .dccCtl => dccCtlWrite s die v
  | .dccLock => dccLockWrite s die v
  | .dccMaintCmd => maintStart s die v
  | .memCfg => if bit (rget s .memCfg die) 63 then s else regPut s r die i j v
  | .lpdCfg => if bit (rget s .lpdCfg die i) 63 then s else regPut s r die i j v
  | .memErrLog0 => errLogWrite s r die i v
  | .lpdErrLog0 => errLogWrite s r die i v
  | .smpDrainCmd => drainWrite s (die - 16) v
  | .lpdDrainCmd => drainWrite s (12 + 12 * (die - 14) + i) v
  | .cohAmoCtl => cohAmoCtlWrite s die v
  | .jobQcfg => jobQcfgWrite s die j v
  | .jobQptr => jobTailWrite s die j v
  | .jobCtl => jobCtlWrite s die v
  | .fabPortCtl => portCtlWrite s (4 * (die - 10) + i) v
  | .fabNode => if portsDisabled s then regPut s r die i j v else s
  | .fabQcfg => fabQcfgWrite s die j v
  | .hifWinBase => winBaseWrite s v
  | .hifHqCfg => hqCfgWrite s j v
  | .hifHqSqbase => if rf s .hifHqCfg 14 0 j 63 63 = 1 then s else regPut s r die i j v
  | .hifHqCqbase => if rf s .hifHqCfg 14 0 j 63 63 = 1 then s else regPut s r die i j v
  | .dlkLinkCtl => linkCtlWrite s die i v
  | .rimPaceCtl => paceWrite s die v
  | .rimModBudget => budgetWrite s v
  | .telEpochCtl => telPeriodWrite s (bits v 31 0)
  | .dlkCoreRelease => coreReleaseWrite s die v
  | _ => regPut s r die i j v

/-- A write of eight aligned bytes of register space by an agent. -/
def regWrite (s : State) (a : Agent) (addr v : Nat) : State :=
  let die := bits addr 39 32
  match regAt die (bits addr 31 0) with
  | none => s
  | some (r, i, j) =>
    if !regUp s r die i then s
    else
      match mailboxOf r i with
      | some m => if mbxOwns a m then mbxRegWrite s m r i j v else s
      | none => if agentMay a r.spec.writers then regAct s a r die i j v else s

/-- An access of a register's width, naturally aligned, to register space (R9). -/
def regAligned (addr size : Nat) : Bool := size == 8 && addr % 8 == 0 && bits addr 47 40 == 0xF0

/-- REGISTER_WRITE (DEDUCED, log entry 94). -/
def execRegisterWrite (a : Agent) (addr : BitVec 48) (size : Nat) (v : W64) (s : State) : Out :=
  .next (if regAligned addr.toNat size then regWrite s a addr.toNat v.toNat else s)

end Sys2Proof.Machine
end

