-- ==== Sys2Proof/Machine/HostAccess.lean ====
section
/-!
DEFINITION. What the host asks through the port: the three BARs (R444-R450) and configuration requests (R442). An answer
goes out as a completion: status 0 is Successful Completion, 1 Unsupported Request.
-/
namespace Sys2Proof.Machine

/-! ### Completions -/

/-- A completion with data, counted in HIF_TX_BYTES (R467). -/
def complete (s : State) (data : List Byte) (poisoned : Bool) : State :=
  count (post s (.completion 0 data poisoned)) .hifTxBytes 14 0 0 data.length

/-- Unsupported Request. -/
def completeUR (s : State) : State := post s (.completion 1 [] false)

/-- An error is logged through AER (R450). -/
def aerLog (s : State) (code : Nat) : State := { s with host := { s.host with aer := s.host.aer ++ [code] } }

/-- The port takes memory requests: its link is up and the function is in D0 (PRESUMED, log entry 88). -/
def takesRequests (s : State) : Bool := s.host.linkUp && !s.host.d3hot

/-! ### BAR0 (R445, R446) -/

/-- The register-space address of a BAR0 offset, with whether it lies in the register window. -/
def bar0Reg (s : State) (off : Nat) : Option (Nat × Bool) :=
  if off < 0x10000 then some (0xF00E05000000 + off, false)
  else if off < 0x20000 then some (0xF00E08000000 + (off - 0x10000), false)
  else if 0x800000 ≤ off then some (0xF00000000000 + rf s .hifRegwinBase 14 0 0 39 23 * 0x800000 + (off - 0x800000), true)
  else none

/-- A write through the register window acts only on a register whose writers are not restricted (R446). -/
def windowWritable (addr : Nat) : Bool :=
  match regAt (bits addr 39 32) (bits addr 31 0) with
  | some (r, _, _) => r.spec.writers == .any
  | none => false

/-- The bits of a dword of the MSI-X table that hold something (PRESUMED, log entry 35). -/
def msixMaskOf (i : Nat) : Nat := if i % 4 = 0 then 0xFFFFFFFC else if i % 4 = 3 then 1 else 0xFFFFFFFF

/-- Writes a dword of the MSI-X table. -/
def msixPut (s : State) (i v : Nat) : State :=
  { s with host := { s.host with
      msixTable := mput (if i % 4 = 3 then 1 else 0) s.host.msixTable i (BitVec.ofNat 32 (v % 2 ^ 32 &&& msixMaskOf i)) } }

/-- The MSI-X structures take aligned accesses of 32 and 64 bits. -/
def msixAligned (off size : Nat) : Bool := (size == 4 || size == 8) && off % size == 0

/-- In recovery only the MBX_ part of BAR0 works (R533). -/
def bar0Works (s : State) (off : Nat) : Bool := !s.uszon.recovery || (decide (0x10000 ≤ off) && decide (off < 0x20000))

/-- A host write of `size` bytes at a BAR0 offset. -/
def bar0Write (s : State) (off size v : Nat) : State :=
  if !bar0Works s off then s
  else
    match bar0Reg s off with
    | some (addr, win) => if regAligned addr size && (!win || windowWritable addr) then regWrite s .host addr v else s
    | none =>
      if 0x20000 ≤ off ∧ off < 0x20400 then
        if msixAligned off size then
          let i := (off - 0x20000) / 4
          let s := msixPut s i v
          msixFlush (if size = 8 then msixPut s (i + 1) (v >>> 32) else s)
        else s
      else if 0x100000 ≤ off ∧ off < 0x140000 ∧ size = 8 then
        let q := (off - 0x100000) / 0x1000
        if off % 0x1000 = 0 then sqTailWrite s q v else if off % 0x1000 = 8 then cqHeadWrite s q v else s
      else s

/-- What a host read of `size` bytes at a BAR0 offset returns. A doorbell word is write-only: it reads zero (R11, R451). -/
def bar0Read (s : State) (off size : Nat) : Nat :=
  let all := 2 ^ (8 * size) - 1
  if !bar0Works s off then all
  else
    match bar0Reg s off with
    | some (addr, _) => if regAligned addr size then regRead s addr else all
    | none =>
      if 0x20000 ≤ off ∧ off < 0x20400 then
        let i := (off - 0x20000) / 4
        if msixAligned off size then
          (msixDword s i).toNat + (if size = 8 then (msixDword s (i + 1)).toNat <<< 32 else 0)
        else all
      else if 0x21000 ≤ off ∧ off < 0x21008 then
        if msixAligned off size then (s.host.msixPending.toNat >>> (8 * (off % 8))) % 2 ^ (8 * size) else all
      else if 0x100000 ≤ off ∧ off < 0x140000 ∧ size = 8 ∧ (off % 0x1000 = 0 ∨ off % 0x1000 = 8) then 0
      else all

/-- BAR0_ACCESS: a write of `w`, or a read. -/
def execBar0Access (off : BitVec 24) (size : Nat) (w : Option W64) (s : State) : Out :=
  .next (if !s.host.linkUp then s
    else
      match w with
      | some v =>
        let s := count s .hifRxBytes 14 0 0 size
        if s.host.d3hot then s else bar0Write s off.toNat size v.toNat
      | none => if s.host.d3hot then completeUR s else complete s (toBytes size (bar0Read s off.toNat size)) false)

/-! ### The host window and the compatibility BAR (R447-R450) -/

/-- Requests to memory are taken once MOD_READY is asserted (R563), while the main domain performs requests (R41)
(DEDUCED, log entry 91). -/
def memoryUp (s : State) : Bool := s.pins.modReady && !anyFatal s

/-- A failed request: a hole is E_HIF_DECODE, a memory error keeps its code (R450). -/
def aerCode (code : Nat) : Nat := if code = 0x840 then 0xC0A else code

/-- A read of `n` bytes that failed: a hole and a lost aperture complete with Unsupported Request, memory errors with poisoned
data, which is free (DESIGN CHOICE, log entry 124). -/
def readFailed (s : State) (code n : Nat) : State :=
  let s := aerLog s (aerCode code)
  if code = 0x840 ∨ code = 0xD80 then completeUR s
  else
    let (vs, s) := drawList n s
    complete s (vs.map fun v => BitVec.ofNat 8 v) true

/-- A BAR read of device memory. -/
def hostRead (s : State) (coherent : Bool) (addr len : Nat) : State :=
  let (code, data, s) := busRead s none coherent addr len
  if code ≠ 0 then readFailed s code len else complete s data false

/-- A BAR write of device memory. -/
def hostWrite (s : State) (coherent : Bool) (addr : Nat) (data : List Byte) : State :=
  let (code, s) := busWrite s none coherent addr data
  if code ≠ 0 then aerLog s (aerCode code) else s

/-- An AtomicOp of the host: AOP of R72, with its operands (PRESUMED, log entry 89). -/
def hostAtomic (s : State) (addr aop : Nat) (dword : Bool) (c d : W64) : State :=
  let n := if dword then 4 else 8
  if addr % n ≠ 0 then completeUR s
  else
    let (code, prior, s) := devAtomic s addr aop (if dword then 0 else 2) c d
    if code ≠ 0 then readFailed s code n else complete s (toBytes n prior) false

/-- The payload bytes of a host request, counted in HIF_RX_BYTES whether or not it is performed (R467): a FetchAdd and a Swap
carry one operand, a CAS two. -/
def hostReceived (s : State) (acc : HostAccess) : State :=
  let word (dw : Bool) : Nat := if dw then 4 else 8
  match acc with
  | .read _ => s
  | .write d => count s .hifRxBytes 14 0 0 d.length
  | .fetchAdd dw _ => count s .hifRxBytes 14 0 0 (word dw)
  | .swap dw _ => count s .hifRxBytes 14 0 0 (word dw)
  | .cas dw _ _ => count s .hifRxBytes 14 0 0 (2 * word dw)

/-- HOST_WINDOW_ACCESS: BAR2 offset o is HIF_WIN_BASE.BASE x 2^32 + o. -/
def execHostWindowAccess (off : BitVec 32) (acc : HostAccess) (s : State) : Out :=
  let addr := rf s .hifWinBase 14 0 0 47 32 <<< 32 + off.toNat
  .next (if !s.host.linkUp then s
    else
      let s := hostReceived s acc
      match acc with
      | .read n => if takesRequests s && memoryUp s then hostRead s true addr n else completeUR s
      | .write d => if takesRequests s && memoryUp s then hostWrite s true addr d else s
      | .fetchAdd dw v => if takesRequests s && memoryUp s then hostAtomic s addr 0 dw v 0 else completeUR s
      | .swap dw v => if takesRequests s && memoryUp s then hostAtomic s addr 6 dw v 0 else completeUR s
      | .cas dw c v => if takesRequests s && memoryUp s then hostAtomic s addr 7 dw c v else completeUR s)

/-- COMPAT_BAR_ACCESS: BAR4 offset o is device physical address o, read and written without coherence; it is implemented only
while HIF_CAP.COMPAT is 1. -/
def execCompatBarAccess (off : BitVec 42) (acc : HostAccess) (s : State) : Out :=
  .next (if !s.host.linkUp || rf s .hifCap 14 0 0 0 0 == 0 then s
    else
      let s := hostReceived s acc
      match acc with
      | .read n => if takesRequests s && memoryUp s then hostRead s false off.toNat n else completeUR s
      | .write d => if takesRequests s && memoryUp s then hostWrite s false off.toNat d else s
      | _ => completeUR s)

/-! ### Configuration requests (R442, R444) -/

/-- The bits of a BAR dword that hold an address, and its fixed low bits: 64-bit memory BARs of 16 MiB, 4 GiB and 4 TiB. -/
def barLayout (s : State) (i : Nat) : Nat × Nat :=
  match i with
  | 0 => (0xFF000000, 0x4)
  | 1 => (0xFFFFFFFF, 0)
  | 2 => (0, 0xC)
  | 3 => (0xFFFFFFFF, 0)
  | 4 => (0, if rf s .hifCap 14 0 0 0 0 = 1 then 0xC else 0)
  | _ => (if rf s .hifCap 14 0 0 0 0 = 1 then 0xFFFFFC00 else 0, 0)

/-- A dword of configuration space by its offset. The manual places the class code, the BARs and Bus Master Enable; what it fixes
without an offset is read by `configField`, and every other bit is a free value (DESIGN CHOICE, log entry 96). -/
def configRead (s : State) (off : Nat) : Nat × State :=
  let o := off / 4 * 4
  if 0x10 ≤ o ∧ o < 0x28 then
    let i := (o - 0x10) / 4
    ((mget 0 s.host.bars i).toNat + (barLayout s i).2, s)
  else
    let (f, s) := drawFree s
    let v := f.toNat % 2 ^ 32
    (if o = 0x08 then fset v 31 8 0x120000 else if o = 0x04 then fset v 2 2 (b2n s.host.busMaster) else v, s)

/-- A structure of configuration space that R442 lists; what it does not list is absent. -/
def capPresent (c : PciCap) : Bool := c == .powerManagement || c == .msix || c == .advancedErrorReporting

/-- A configuration field that the manual fixes or that the host set (R442, R445), in the encodings of the PCI Express
specification (PRESUMED, log entry 166): a table size less one, a structure's BAR0 offset, a size as the exponent of 128. -/
def configField (s : State) (f : PciField) : Nat :=
  match f with
  | .present c => b2n (capPresent c)
  | .msixTableSize => 63
  | .msixTable => 0x20000
  | .msixPba => 0x21000
  | .msixEnable => b2n s.host.msixOn
  | .msixFunctionMask => b2n s.host.msixMask
  | .noSoftReset => 0
  | .d1Support => 0
  | .d2Support => 0
  | .powerState => if s.host.d3hot then 3 else 0
  | .maxPayloadSupported => 2
  | .maxPayload => s.host.mps.val
  | .maxReadRequest => s.host.mrrs.val
  | .atomic32Completer => 1
  | .atomic64Completer => 1
  | .cas128Completer => 0
  | .atomicRequester => 0

/-- A configuration write of one dword comes in (R467). -/
def configWritten (s : State) : State := count s .hifRxBytes 14 0 0 4

/-- A write that leaves D3hot is a host-port reset (R442, R461). -/
def leaveD3hot (s : State) (compat : Bool) : State :=
  let s := portLost s compat
  { s with host := { s.host with training := true } }

/-- CONFIG_REQUEST: answered while the link is up (R563). -/
def configRequest (s : State) (r : CfgReq) : State :=
  if !s.host.linkUp then s
  else
    match r with
    | .read o => let (v, s) := configRead s o.toNat
                 complete s (toBytes 4 v) false
    | .field f => complete s (toBytes 4 (configField s f)) false
    | .deviceControl mps mrrs =>
      let s := configWritten s
      { s with host := { s.host with mps := mps, mrrs := mrrs } }
    | .busMaster on =>
      let s := configWritten s
      { s with host := { s.host with busMaster := on } }
    | .msixEnable on =>
      let s := configWritten s
      msixFlush { s with host := { s.host with msixOn := on } }
    | .msixFunctionMask on =>
      let s := configWritten s
      msixFlush { s with host := { s.host with msixMask := on } }
    | .powerState d3 compat =>
      let s := configWritten s
      if d3 then { s with host := { s.host with d3hot := true } }
      else if s.host.d3hot then leaveD3hot s compat else s
    | .barWrite b v =>
      let s := configWritten s
      { s with host := { s.host with bars := mput 0 s.host.bars b (BitVec.ofNat 32 (v.toNat &&& (barLayout s b).1)) } }

/-- CONFIG_REQUEST. -/
def execConfigRequest (r : CfgReq) (s : State) : Out := .next (configRequest s r)

end Sys2Proof.Machine
end

