-- ==== Sys2Proof/Machine/Sideband.lean ====
section
/-!
DEFINITION. The sideband: the I3C target (R542) and the MCTP endpoint (R543).
-/
namespace Sys2Proof.Machine

/-- One 64-bit word of the MBX block, as mailbox `m` and offset; an unoccupied one reads all ones (R12, R519). -/
def mbxWord (s : State) (m off : Nat) : Nat :=
  match regAt 14 (0x08000000 + 0x800 * m + off) with
  | some (r, i, j) => rget s r 14 i j
  | none => ones64.toNat

/-- The byte at an I3C offset (R542): mailbox 31, then mailbox 0; beyond them nothing answers (DESIGN CHOICE, log entry 40). -/
def i3cByte (s : State) (o : Nat) : Byte :=
  if o < 0x800 then BitVec.ofNat 8 (mbxWord s 31 (o / 8 * 8) >>> (8 * (o % 8)))
  else if o < 0x1000 then BitVec.ofNat 8 (mbxWord s 0 ((o - 0x800) / 8 * 8) >>> (8 * (o % 8)))
  else 0xFF

/-- One byte of a private write: a word of mailbox 31 is performed once all of its bytes are written (R542). -/
def i3cPut (s : State) (o : Nat) (b : Byte) : State :=
  if 0x800 ≤ o then s
  else
    let w := o / 8
    let part := mins (mget [] s.side.i3cPart w) (o % 8) b
    if part.length = 8 then
      let s := { s with side := { s.side with i3cPart := mdel s.side.i3cPart w } }
      let v := ofBytes (part.map (·.2))
      match regAt 14 (0x08000000 + 0x800 * 31 + 8 * w) with
      | some (r, i, j) => mbxRegWrite s 31 r i j v
      | none => s
    else { s with side := { s.side with i3cPart := mins s.side.i3cPart w part } }

/-- I3C_PRIVATE_WRITE (R542): the offset is kept for the reads that follow; data is written from it onwards. -/
def execI3cPrivateWrite (offset : BitVec 16) (data : List Byte) (s : State) : Out :=
  .next (if s.pins.aux && !s.pins.auxReset && s.side.i3cAddr.isSome then
      let s := { s with side := { s.side with i3cOffset := offset } }
      (List.range data.length).foldl (fun s i => i3cPut s (offset.toNat + i) (data.getD i 0)) s
    else s)

/-- I3C_PRIVATE_READ (R542): bytes from the last offset onwards, which increments. -/
def execI3cPrivateRead (len : Nat) (s : State) : Out :=
  .next (if s.pins.aux && !s.pins.auxReset && s.side.i3cAddr.isSome then
      let o := s.side.i3cOffset.toNat
      { s with side := { s.side with i3cOut := (List.range len).map fun i => i3cByte s (o + i),
                                     i3cOffset := BitVec.ofNat 16 (o + len) } }
    else s)

/-- The static I3C address: 0x50 plus the strap value (R560). -/
def i3cStatic (s : State) : Nat := 0x50 + rf s .dlkStraps 14 0 0 6 4

/-- I3C_DYNAMIC_ADDRESS (R542): through ENTDAA, or through SETDASA that names the static address, while the target has no dynamic
address. -/
def execI3cDynamicAddress (setdasa : Option (BitVec 7)) (addr : BitVec 7) (s : State) : Out :=
  .next (if s.pins.aux && !s.pins.auxReset && setdasa.all (fun a => a.toNat == i3cStatic s && s.side.i3cAddr.isNone) then { s with side := { s.side with i3cAddr := some addr } } else s)

/-- MCTP_REQUEST (R543): a Holtord request, after its type, Vendor ID and kind bytes: MBX_CMD, MBX_AUTH_CTR, the tag, the payload. A busy
mailbox answers E_MBX_BUSY at once, and the running command is not affected. -/
def execMctpRequest (src : Byte) (body : List Byte) (s : State) : Out :=
  .next (if !s.host.linkUp then s
    else
      let s := count s .hifRxBytes 14 0 0 (4 + body.length)
      if body.length < 32 then s
      else
        let s := { s with side := { s.side with lastRequester := some src } }
        let cmd := fld body 0 8
        let st := mbxState s 30
        if st = mbBusy ∨ st = mbPending then
          mctpSend s src (holtordMsg 0x02 (toBytes 8 (0xF05 <<< 48 + bits cmd 63 48 <<< 32 + mbDone)))
        else if st = mbUnavailable then mbxCmdWrite s 30 cmd
        else
          let s := rset (rset (rset s .mbxAuthCtr 14 29 0 (fld body 8 8)) .mbxAuthTag0 14 29 0 (fld body 16 8))
            .mbxAuthTag1 14 29 0 (fld body 24 8)
          let s := { s with side := { s.side with requester := some src } }
          mbxCmdWrite (mbxPut s 30 ((body.drop 32).take 1024)) 30 cmd)

/-- An MCTP control response: message type 0x00, the command code, completion code 0x00, then its data (R543 names the
messages; their bytes are DSP0236's, PRESUMED, log entry 33). -/
def mctpControl (s : State) (src : Byte) (command : Byte) (data : List Byte) : State :=
  if s.host.linkUp then mctpSend s src ([0x00, 0x00, command, 0x00] ++ data) else s

/-- An MCTP control request comes in (R467): its type, its instance, its command code and `n` data bytes. -/
def mctpReceived (s : State) (n : Nat) : State := if s.host.linkUp then count s .hifRxBytes 14 0 0 (3 + n) else s

/-- MCTP_SET_ENDPOINT_ID (R543): a null or broadcast ID is refused with the invalid-data completion code (PRESUMED, log entry 33). -/
def execMctpSetEndpointId (src eid : Byte) (s : State) : Out :=
  let s := mctpReceived s 2
  .next (if !s.host.linkUp then s
    else if eid = 0 ∨ eid = 0xFF then mctpSend s src [0x00, 0x00, 0x01, 0x02]
    else mctpControl { s with side := { s.side with eid := eid } } src 0x01 [0x00, eid, 0x00])

/-- MCTP_GET_ENDPOINT_ID (R543). -/
def execMctpGetEndpointId (src : Byte) (s : State) : Out :=
  .next (mctpControl (mctpReceived s 0) src 0x02 [s.side.eid, 0x00, 0x00])

/-- MCTP_GET_VERSION_SUPPORT (R543): one entry, version 1.3.1 in the form of DSP0236 (PRESUMED, log entry 33). -/
def execMctpGetVersionSupport (src mtype : Byte) (s : State) : Out :=
  let s := mctpReceived s 1
  .next (if mtype = 0x00 ∨ mtype = 0xFF ∨ mtype = 0x7E then mctpControl s src 0x04 [0x01, 0xF1, 0xF3, 0xF1, 0x00]
    else if s.host.linkUp then mctpSend s src [0x00, 0x00, 0x04, 0x80] else s)

/-- MCTP_GET_MESSAGE_TYPE_SUPPORT (R543): besides control, the vendor-defined type 0x7E. -/
def execMctpGetMessageTypeSupport (src : Byte) (s : State) : Out :=
  .next (mctpControl (mctpReceived s 0) src 0x05 [0x01, 0x7E])

end Sys2Proof.Machine
end

