-- ==== Sys2Proof/Machine/TileAlu.lean ====
section
/-!
DEFINITION. The tile's move, integer, predicate, floating and lane instructions (R62-R66, R576).
-/
namespace Sys2Proof.Machine

/-! ### Moves -/

/-- nop. -/
def execNop (t : TileId) (g : Slot) (w : BitVec 56) (s : State) : Out :=
  issue s t g (fun al => (form0 tyAny).check false al w.toNat (modNone false w.toNat)) ([], []) fun s gr => .done gr s
/-- mov: d = a. -/
def execMov (t : TileId) (g : Slot) (w : BitVec 56) (s : State) : Out :=
  laneOp (form1 tyAny true) false (modNone false w.toNat) (fun _ a _ _ _ => a) t g w.toNat s
/-- movi: d = immediate. -/
def execMovi (t : TileId) (g : Slot) (w : BitVec 56) (s : State) : Out :=
  laneOp ⟨[0, 1, 4], .value true, .none, .none, .none, false⟩ true (modNone true w.toNat) (fun _ _ b _ _ => b) t g w.toNat s
/-- movl: d = IMM32; bits 35:32 are zero. -/
def execMovl (t : TileId) (g : Slot) (w : BitVec 56) (s : State) : Out :=
  laneOp ⟨[0, 4], .value true, .none, .none, .none, false⟩ true (bits w.toNat 35 32 != 0)
    (fun _ _ _ _ _ => bits w.toNat 31 0) t g (fset w.toNat 35 34 0) s

/-! ### Integer instructions -/

/-- add. -/
def execAdd (iform : Bool) (t : TileId) (g : Slot) (w : BitVec 56) (s : State) : Out :=
  laneOp (form2 tyInt true) iform (modNone iform w.toNat) (fun ty a b _ _ => iAdd ty a b) t g w.toNat s
/-- sub. -/
def execSub (iform : Bool) (t : TileId) (g : Slot) (w : BitVec 56) (s : State) : Out :=
  laneOp (form2 tyInt true) iform (modNone iform w.toNat) (fun ty a b _ _ => iSub ty a b) t g w.toNat s
/-- mul.lo. -/
def execMulLo (iform : Bool) (t : TileId) (g : Slot) (w : BitVec 56) (s : State) : Out :=
  laneOp (form2 tyInt true) iform (modNone iform w.toNat) (fun ty a b _ _ => iMulLo ty a b) t g w.toNat s
/-- mul.hi. -/
def execMulHi (t : TileId) (g : Slot) (w : BitVec 56) (s : State) : Out :=
  laneOp (form2 tyInt true) false (modNone false w.toNat) (fun ty a b _ _ => iMulHi ty a b) t g w.toNat s
/-- mad. -/
def execMad (t : TileId) (g : Slot) (w : BitVec 56) (s : State) : Out :=
  laneOp (form3 [0, 1] true) false (modNone false w.toNat) (fun ty a b c _ => iMad ty a b c) t g w.toNat s
/-- min. -/
def execMin (iform : Bool) (t : TileId) (g : Slot) (w : BitVec 56) (s : State) : Out :=
  laneOp (form2 tyInt true) iform (modNone iform w.toNat) (fun ty a b _ _ => iMin ty a b) t g w.toNat s
/-- max. -/
def execMax (iform : Bool) (t : TileId) (g : Slot) (w : BitVec 56) (s : State) : Out :=
  laneOp (form2 tyInt true) iform (modNone iform w.toNat) (fun ty a b _ _ => iMax ty a b) t g w.toNat s
/-- and. -/
def execAnd (iform : Bool) (t : TileId) (g : Slot) (w : BitVec 56) (s : State) : Out :=
  laneOp (form2 tyU true) iform (modNone iform w.toNat) (fun _ a b _ _ => a &&& b) t g w.toNat s
/-- or. -/
def execOr (iform : Bool) (t : TileId) (g : Slot) (w : BitVec 56) (s : State) : Out :=
  laneOp (form2 tyU true) iform (modNone iform w.toNat) (fun _ a b _ _ => a ||| b) t g w.toNat s
/-- xor. -/
def execXor (iform : Bool) (t : TileId) (g : Slot) (w : BitVec 56) (s : State) : Out :=
  laneOp (form2 tyU true) iform (modNone iform w.toNat) (fun _ a b _ _ => a ^^^ b) t g w.toNat s
/-- not: of a, or in the I form of the immediate, where a nonzero AK or SRCA is illegal (R576). -/
def execNot (iform : Bool) (t : TileId) (g : Slot) (w : BitVec 56) (s : State) : Out :=
  if iform then
    laneOp ⟨tyU, .value true, .none, .none, .none, false⟩ true (modNone true w.toNat || bits w.toNat 35 26 != 0)
      (fun ty _ b _ _ => iNot ty b) t g w.toNat s
  else laneOp (form1 tyU true) false (modNone false w.toNat) (fun ty a _ _ _ => iNot ty a) t g w.toNat s
/-- shl. -/
def execShl (iform : Bool) (t : TileId) (g : Slot) (w : BitVec 56) (s : State) : Out :=
  laneOp (form2 tyU true) iform (modNone iform w.toNat) (fun ty a b _ _ => iShl ty a b) t g w.toNat s
/-- shr. -/
def execShr (iform : Bool) (t : TileId) (g : Slot) (w : BitVec 56) (s : State) : Out :=
  laneOp (form2 tyU true) iform (modNone iform w.toNat) (fun ty a b _ _ => iShr ty a b) t g w.toNat s
/-- sra. -/
def execSra (iform : Bool) (t : TileId) (g : Slot) (w : BitVec 56) (s : State) : Out :=
  laneOp (form2 tyU true) iform (modNone iform w.toNat) (fun ty a b _ _ => iSra ty a b) t g w.toNat s
/-- popc. -/
def execPopc (t : TileId) (g : Slot) (w : BitVec 56) (s : State) : Out :=
  laneOp (form1 tyU true) false (modNone false w.toNat) (fun ty a _ _ _ => iPopc ty a) t g w.toNat s
/-- clz. -/
def execClz (t : TileId) (g : Slot) (w : BitVec 56) (s : State) : Out :=
  laneOp (form1 tyU true) false (modNone false w.toNat) (fun ty a _ _ _ => iClz ty a) t g w.toNat s
/-- brev. -/
def execBrev (t : TileId) (g : Slot) (w : BitVec 56) (s : State) : Out :=
  laneOp (form1 tyU true) false (modNone false w.toNat) (fun ty a _ _ _ => iBrev ty a) t g w.toNat s
/-- bfe. -/
def execBfe (t : TileId) (g : Slot) (w : BitVec 56) (s : State) : Out :=
  laneOp (form3 tyInt true) false (modNone false w.toNat) (fun ty a b c _ => iBfe ty a b c) t g w.toNat s
/-- bfi. -/
def execBfi (t : TileId) (g : Slot) (w : BitVec 56) (s : State) : Out :=
  laneOp (form3 tyInt true) false (modNone false w.toNat) (fun ty a b c old => iBfi ty a b c old) t g w.toNat s

/-! ### Predicates -/

/-- pcmp: the relation is MOD 5:2, or in the I form the opcode's. -/
def execPcmp (rel : Option (Fin 8)) (t : TileId) (g : Slot) (w : BitVec 56) (s : State) : Out :=
  let iform := rel.isSome
  let r := match rel with | some r => r.val | none => fMod w.toNat / 4
  laneOp ⟨tyNum, .pred, .typed, .typed, .none, false⟩ iform
    (if iform then fImod w.toNat != 0 else fMod w.toNat % 4 != 0 || decide (8 ≤ r))
    (fun ty a b _ _ => b2n (relation r ty a b)) t g w.toNat s
/-- sel: d = c ? a : b, c a predicate. -/
def execSel (t : TileId) (g : Slot) (w : BitVec 56) (s : State) : Out :=
  laneOp ⟨tyAny, .value false, .typed, .typed, .pred, false⟩ false (modNone false w.toNat)
    (fun _ a b c _ => if c = 1 then a else b) t g w.toNat s
/-- plog: predicate and, or, xor, and not of a alone. -/
def execPlog (t : TileId) (g : Slot) (w : BitVec 56) (s : State) : Out :=
  let op := fMod w.toNat / 4
  laneOp ⟨tyAny, .pred, .pred, if op = 3 then .none else .pred, .none, false⟩ false (fMod w.toNat % 4 != 0 || decide (4 ≤ op))
    (fun _ a b _ _ => b2n (predLogic op (a == 1) (b == 1))) t g w.toNat s

/-! ### Floating instructions -/

/-- fadd. -/
def execFadd (iform : Bool) (t : TileId) (g : Slot) (w : BitVec 56) (s : State) : Out :=
  laneOp (form2 tyFp false) iform (modRound iform w.toNat) (fun ty a b _ _ => fpAdd (rndW iform w.toNat) ty a b) t g w.toNat s
/-- fsub. -/
def execFsub (iform : Bool) (t : TileId) (g : Slot) (w : BitVec 56) (s : State) : Out :=
  laneOp (form2 tyFp false) iform (modRound iform w.toNat) (fun ty a b _ _ => fpSub (rndW iform w.toNat) ty a b) t g w.toNat s
/-- fmul. -/
def execFmul (iform : Bool) (t : TileId) (g : Slot) (w : BitVec 56) (s : State) : Out :=
  laneOp (form2 tyFp false) iform (modRound iform w.toNat) (fun ty a b _ _ => fpMul (rndW iform w.toNat) ty a b) t g w.toNat s
/-- fma: a x b + c; in the I form a x immediate + d (R576). -/
def execFma (iform : Bool) (t : TileId) (g : Slot) (w : BitVec 56) (s : State) : Out :=
  laneOp (if iform then form2 tyFp false else form3 tyFp false) iform (modRound iform w.toNat)
    (fun ty a b c old => fpFma (rndW iform w.toNat) ty a b (if iform then old else c)) t g w.toNat s
/-- fmin: minimumNumber. -/
def execFmin (t : TileId) (g : Slot) (w : BitVec 56) (s : State) : Out :=
  laneOp (form2 tyFp false) false (modNone false w.toNat) (fun ty a b _ _ => fpMin ty a b) t g w.toNat s
/-- fmax: maximumNumber. -/
def execFmax (t : TileId) (g : Slot) (w : BitVec 56) (s : State) : Out :=
  laneOp (form2 tyFp false) false (modNone false w.toNat) (fun ty a b _ _ => fpMax ty a b) t g w.toNat s
/-- rcp. -/
def execRcp (t : TileId) (g : Slot) (w : BitVec 56) (s : State) : Out :=
  laneOp (form1 [4] false) false (modNone false w.toNat) (fun _ a _ _ _ => fnRcp a) t g w.toNat s
/-- rsqrt. -/
def execRsqrt (t : TileId) (g : Slot) (w : BitVec 56) (s : State) : Out :=
  laneOp (form1 [4] false) false (modNone false w.toNat) (fun _ a _ _ _ => fnRsqrt a) t g w.toNat s
/-- sqrt, correctly rounded as MOD 1:0 selects. -/
def execSqrt (t : TileId) (g : Slot) (w : BitVec 56) (s : State) : Out :=
  laneOp (form1 [4] false) false (modRound false w.toNat) (fun _ a _ _ _ => fsqrt fmtF32 (rndW false w.toNat) a) t g w.toNat s
/-- exp2. -/
def execExp2 (t : TileId) (g : Slot) (w : BitVec 56) (s : State) : Out :=
  laneOp (form1 [4] false) false (modNone false w.toNat) (fun _ a _ _ _ => fnExp2 a) t g w.toNat s
/-- log2. -/
def execLog2 (t : TileId) (g : Slot) (w : BitVec 56) (s : State) : Out :=
  laneOp (form1 [4] false) false (modNone false w.toNat) (fun _ a _ _ _ => fnLog2 a) t g w.toNat s
/-- sin. -/
def execSin (t : TileId) (g : Slot) (w : BitVec 56) (s : State) : Out :=
  laneOp (form1 [4] false) false (modNone false w.toNat) (fun _ a _ _ _ => fnTrig false a) t g w.toNat s
/-- cos. -/
def execCos (t : TileId) (g : Slot) (w : BitVec 56) (s : State) : Out :=
  laneOp (form1 [4] false) false (modNone false w.toNat) (fun _ a _ _ _ => fnTrig true a) t g w.toNat s
/-- cvt: from the type that MOD 5:2 names to TYPE. -/
def execCvt (t : TileId) (g : Slot) (w : BitVec 56) (s : State) : Out :=
  let src := fMod w.toNat / 4
  laneOp ⟨tyCvt, .value false, .code src, .none, .none, false⟩ false (cvtBad w.toNat)
    (fun ty a _ _ _ => convert (rndW false w.toNat) src ty a) t g w.toNat s

/-! ### Lane instructions -/

/-- vote: any and all into a predicate of the lanes that take part, ballot into a scalar register. -/
def execVote (t : TileId) (g : Slot) (w : BitVec 56) (s : State) : Out :=
  let n := w.toNat
  let op := fMod n / 4
  let f : Form := ⟨tyAny, if op = 2 then .scalar else .pred, .pred, .none, .none, true⟩
  issue s t g (fun al => f.check false al n (fMod n % 4 != 0 || decide (3 ≤ op))) (f.touches false n) fun s gr =>
    let ls := lanesOf gr n
    let yes := ls.filter fun l => pget gr (fA n) l
    if op = 2 then
      .done (if gr.active.isEmpty then gr else sset gr (fDst n) (yes.foldl (fun m l => m + 2 ^ l) 0)) s
    else
      let v := if op = 0 then !yes.isEmpty else yes.length == ls.length
      .done (ls.foldl (fun x l => pset x (fDst n) l v) gr) s

/-- The lane that shfl reads, modulo 32. -/
def shflLane (mode lane x : Nat) : Nat :=
  match mode with
  | 0 => x % 32
  | 1 => (lane + 32 - x % 32) % 32
  | 2 => (lane + x) % 32
  | _ => (lane ^^^ x) % 32

/-- shfl: reads the source lane's register whether or not that lane is active. -/
def execShfl (iform : Bool) (t : TileId) (g : Slot) (w : BitVec 56) (s : State) : Out :=
  let n := w.toNat
  let mode := if iform then fImod n else fMod n / 4
  let f : Form := ⟨[0], .value false, .typed, .code 0, .none, false⟩
  issue s t g (fun al => f.check iform al n (!iform && (fMod n % 4 != 0 || decide (4 ≤ mode)))) (f.touches iform n) fun s gr =>
    let one (x : Group) (l : Nat) : Group :=
      let b := if iform then immValue 0 n else srcRead gr (fBk n) (fB n) 1 l
      dstWrite x 0 (fDst n) 1 l (srcRead gr (fAk n) (fA n) 1 (shflLane mode l b))
    .done ((lanesOf gr n).foldl one gr) s

/-- rdlane: scalar d = a in the lane given by b, modulo 32. -/
def execRdlane (iform : Bool) (t : TileId) (g : Slot) (w : BitVec 56) (s : State) : Out :=
  let n := w.toNat
  let f : Form := ⟨tyU, .scalar, .typed, .code 0, .none, true⟩
  issue s t g (fun al => f.check iform al n (modNone iform n)) (f.touches iform n) fun s gr =>
    let b := if iform then immValue 0 n else srcRead gr (fBk n) (fB n) 1 0
    .done (if gr.active.isEmpty then gr
           else sset gr (fDst n) (srcRead gr (fAk n) (fA n) (tyRegs (fTy n)) (b % 32))) s

/-- The special registers of R66. -/
def srKnown (i : Nat) : Bool := [0, 1, 2, 3, 4, 8, 9].contains i

/-- A special register's value; SR_CLOCK is `clk`. -/
def srValue (s : State) (t g : Nat) (gr : Group) (i lane clk : Nat) : Nat :=
  match i with
  | 0 => lane
  | 1 => g
  | 2 => t
  | 3 => gr.groupId
  | 4 => match jobOn s t with | some j => j.tiles.length | none => 0
  | 8 => clk
  | _ => timebaseOf s (tileDie t)

/-- The next value of SR_CLOCK on a tile (R66): it never runs backwards; how many clocks have passed since it was last read is
free (DESIGN CHOICE, log entry 67). -/
def tileClock (s : State) (t : Nat) : Nat × State :=
  let (v, s) := drawFree s
  let c := Nat.min (2 ^ 64 - 1) (mget 0 s.tileClocks t + v.toNat)
  (c, { s with tileClocks := mput 0 s.tileClocks t c })

/-- rdsr. DESIGN CHOICE (log entry 109): with TYPE u32 it gives the low half of a 64-bit special register. -/
def execRdsr (t : TileId) (g : Slot) (w : BitVec 56) (s : State) : Out :=
  let n := w.toNat
  let i := fImm24 n
  let f : Form := ⟨tyU, .value true, .none, .none, .none, false⟩
  issue s t g (fun al => f.check true al n (modNone true n || !srKnown i || (i == 0 && fDk n == 1))) (f.touches true n) fun s gr =>
    let (clk, s) := if i = 8 then tileClock s t else (0, s)
    let put (x : Group) (l : Nat) : Group :=
      dstWrite x (fDk n) (fDst n) (tyRegs (fTy n)) l (srValue s t g gr i l clk % 2 ^ tyWidth (fTy n))
    if f.isScalar n then .done (if gr.active.isEmpty then gr else put gr 0) s
    else .done ((lanesOf gr n).foldl put gr) s

end Sys2Proof.Machine
end

