-- ==== Sys2Proof/Machine/TileMem.lean ====
section
/-!
DEFINITION. The tile's loads, stores, atomics and prefetches (R67-R74), with the replays of SLM accesses (R70).
-/
namespace Sys2Proof.Machine

/-- The types of ld and st. -/
def tyMem : List Nat := [0, 2, 8, 9, 10]

/-- The registers of the base address: a pair or a scalar register for global, one register otherwise (R67). -/
def addrRegs (w : Nat) : Nat := if fSpace w = 0 ∧ fAk w = 0 then 2 else 1

/-- The registers that SRCB gives: the data of st, the operand of atom with cas's swap value after it (R72). -/
def dataRegs (isAtom : Bool) (w : Nat) : Nat := if isAtom ∧ fAop w = 7 then 2 * tyRegs (fTy w) else tyRegs (fTy w)

/-- The checks of R57 for the M format. `hasDst`, `hasData` say which registers the instruction uses, `scalarOk` whether its
destination may be scalar. -/
def memCheck (types : List Nat) (hasDst hasData isAtom scalarOk : Bool) (alloc w : Nat) : Nat :=
  let ty := fTy w
  let n := tyRegs ty
  let dstBad :=
    if hasDst then
      fDk w == 2 || (fDk w == 1 && (!scalarOk || !tyU.contains ty || fAk w != 1 || fGe w)) || regIllegal (fDk w) (fDst w) n
    else fDk w == 1
  if decide (12 < ty) || !types.contains ty || decide (2 < fSpace w) || fDk w == 3 || decide (2 ≤ fAk w) || dstBad
      || regIllegal (fAk w) (fA w) (addrRegs w) || (hasData && fMb w % n != 0) || (isAtom && !atomLegal (fAop w) ty) then 0x101
  else if (hasDst && regBeyond alloc (fDk w) (fDst w) n) || regBeyond alloc (fAk w) (fA w) (addrRegs w)
      || (hasData && decide (alloc < fMb w + dataRegs isAtom w)) then 0x102
  else 0

/-- The registers that the interlock watches (R54). -/
def memTouches (hasDst hasData isAtom : Bool) (w : Nat) : List Nat × List Nat :=
  let run (i n : Nat) : List Nat := (List.range n).map (i + ·)
  let vs := (if fAk w = 0 then run (fA w) (addrRegs w) else []) ++ (if hasData then run (fMb w) (dataRegs isAtom w) else [])
    ++ (if hasDst ∧ fDk w = 0 then run (fDst w) (tyRegs (fTy w)) else [])
  let ss := (if fAk w = 1 then [fA w] else []) ++ (if hasDst ∧ fDk w = 1 then [fDst w] else [])
  (vs, ss)

/-- The effective address of a lane: base + OFFSET x access size (R67). -/
def effAddr (gr : Group) (w lane : Nat) : Nat :=
  let wd := if fSpace w = 0 then 64 else 32
  let base := if fAk w = 1 then sget gr (fA w) else vgetN gr (fA w) lane (addrRegs w)
  wrap wd ((base % 2 ^ wd : Nat) + fOff w * (tyBytes (fTy w) : Nat))

/-- The lanes that access: of a scalar load, the first active one alone. -/
def memLanes (gr : Group) (w : Nat) (hasDst : Bool) : List Nat :=
  if hasDst ∧ fDk w = 1 then gr.active.take 1 else lanesOf gr w

/-- A lane's check before any lane accesses (R67, R189): 0 or the code. DESIGN CHOICE (log entry 106): E_TILE_MISALIGNED comes
before the other codes, and the lowest-numbered lane that fails decides. -/
def laneCheck (s : State) (t w a : Nat) : Nat :=
  let n := tyBytes (fTy w)
  let x := tile s t
  if a % n ≠ 0 then 0x104
  else match fSpace w with
    | 0 => if canonical a then 0 else 0x105
    | 1 => if x.slmBytes ≤ a then 0x103 else 0
    | _ => if grtEnd ≤ a ∨ !grtOwned s (tileDie t) x.ctx a n then 0x103 else 0

/-- Translates the addresses of a global access, lane by lane: the code and the virtual address of the first that fails, or
the physical addresses. -/
def lanesXlate (t ctx : Nat) (need : Need) : List (Nat × Nat) → State → Nat × Nat × List (Nat × Nat) × State
  | [], s => (0, 0, [], s)
  | (l, a) :: rest, s =>
    let (c, pa, s) := translate s t ctx (a % 2 ^ 48) need
    if c ≠ 0 then (c, a, [], s)
    else
      let (c, va, ps, s) := lanesXlate t ctx need rest s
      (c, va, (l, pa) :: ps, s)

/-- The replays of an SLM instruction (R70). -/
def slmReplays (addrs : List Nat) (n : Nat) : Nat :=
  let words := distinct [] (addrs.flatMap fun a => (List.range (cdiv n 4)).map fun i => a / 4 + i)
  let most := (List.range 32).foldl (fun m b => Nat.max m (words.filter fun w => w % 32 == b).length) 0
  most - Nat.max 1 (n / 4)

/-- Another group's instruction waits for a miss register and holds the tile's global access path (R286). -/
def pathHeld (x : Tile) (g : Nat) : Bool :=
  match x.heldBy with
  | some h => h != g && (mfind x.groups h).any fun gr => gr.wait == .ready
  | none => false

/-- The tile's global access path is held by a slot, or by none. -/
def setHeld (s : State) (t : Nat) (h : Option Nat) : State := setTile s t { tile s t with heldBy := h }

/-- The common shape of the M format: the lanes with their addresses pass the checks of R67, and the access is made. `f` takes
the state, the group, and each lane with its offset or physical address; a global access for which it answers none holds the
tile's global access path until it finds a miss register (R286) (DEDUCED, log entry 17). -/
def memIssue (types : List Nat) (hasDst hasData isAtom scalarOk : Bool) (need : Need) (t g w : Nat) (s : State)
    (f : State → Group → List (Nat × Nat) → Option State) : Out :=
  issue s t g (memCheck types hasDst hasData isAtom scalarOk · w) (memTouches hasDst hasData isAtom w) fun s gr =>
    let las := (memLanes gr w hasDst).map fun l => (l, effAddr gr w l)
    let bad := las.foldl (fun c l => if c ≠ 0 then c else laneCheck s t w l.2) 0
    if bad ≠ 0 then .fault bad
    else
      let (code, va, las, s) := if fSpace w = 0 then lanesXlate t (tile s t).ctx need las s else (0, 0, las, s)
      if code ≠ 0 then .hold (preciseFaultAt s t g code gr.top.mask.toNat va)
      else
        let s := if fSpace w = 1 then count s .tileSlmReplays (tileDie t) (tileSite t) 0 (slmReplays (las.map (·.2)) (tyBytes (fTy w))) else s
        if fSpace w = 0 ∧ pathHeld (tile s t) g then .wait
        else
          match f s gr las with
          | none => .hold (setHeld s t (some g))
          | some s =>
            let s := if (tile s t).heldBy = some g then setHeld s t none else s
            match group s t g with
            | some gr => .done gr s
            | none => .hold s

/-- A local Grotto access that meets an uncorrectable word is an imprecise fault of the job (R187) (DEDUCED, log entry 135). -/
def grtFault (s : State) (t code : Nat) : State := if code = 0 then s else imprecise s t code

/-- The bytes of a local array that a group reads are undefined (R171): `space` 1 is SLM, 2 the die's Grotto. -/
def localHazard (s : State) (t g space a n : Nat) : Bool :=
  if space = 1 then flsHazard (tile s t) (some g) 0 a n else grtHazard s t g (tileDie t) a n

/-- Loads from a local array lane by lane: `rd` answers code and bytes; what R171 makes undefined reads as a free value. Answers
the first code, the group and the state (DEDUCED, log entry 13). -/
def loadLocal (s : State) (t g w : Nat) (gr : Group) (las : List (Nat × Nat))
    (rd : State → Nat → Nat → Nat × List Byte) : Nat × Group × State :=
  let len := tyBytes (fTy w)
  las.foldl (fun (acc : Nat × Group × State) l =>
    let (code, gr, s) := acc
    let (c, bs) := rd s l.2 len
    if c ≠ 0 then (if code = 0 then c else code, gr, s)
    else
      let (v, s) := if localHazard s t g (fSpace w) l.2 len then drawFree128 s else (ofBytes bs, s)
      (code, putLoaded gr (fDk w == 1) (fDst w) len l.1 (v % 2 ^ (8 * len)), s)) (0, gr, s)

/-- ld; `parity` are the lines whose L1 copies it finds with a parity error (R301), `corrected` the correctable errors that the tile
has met in its registers, predicates and SLM by then (R80; DESIGN CHOICE, log entry 145). -/
def execLd (t : TileId) (g : Slot) (w : LoadWord) (s : State) : Out :=
  let n := w.word.toNat
  memIssue tyMem true false false true .load t g n s fun s gr las =>
    let s := correctedBy s (eccTile t) w.corrected
    let put (r : Nat × Group × State) : Option State := some (grtFault (setGroup r.2.2 t g r.2.1) t r.1)
    match fSpace n with
    | 0 => loadGlobal s t g (fDk n == 1) (fDst n) (tyBytes (fTy n)) las (fCache n) w.parity
    | 1 => put (loadLocal s t g n gr las fun s a len => (0, slmBytesAt (tile s t) a len))
    | _ =>
      let s := las.foldl (fun s l => drpSeen s (tileDie t) l.2 (tyBytes (fTy n)) false) s
      put (loadLocal s t g n gr las fun s a len => grtRead s (tileDie t) a len)

/-- A group's store to SLM (1), to the local Grotto (2), or to an aperture, against the commands and streams that use the bytes
(R105, R171). -/
def storeMarks (s : State) (t g space a n : Nat) : State :=
  match space with
  | 1 => keepOut s t (some g) 0 a n
  | 2 => keepOutGrotto s t g (tileDie t) a n
  | _ => match inAperture a with
    | some (k, off) => if laneCode s t a n = 0 then keepOutGrotto s t g k off n else s
    | none => s

/-- st: the highest-numbered lane wins a byte (R68). -/
def execSt (t : TileId) (g : Slot) (w : BitVec 56) (s : State) : Out :=
  let n := w.toNat
  memIssue tyMem false true false false .store t g n s fun s gr las =>
    let len := tyBytes (fTy n)
    let data (l : Nat) : List Byte := toBytes len (vgetN gr (fMb n) l (tyRegs (fTy n)))
    let s := match fSpace n with
      | 0 => storeGlobal s t g (las.map fun l => (l.1, l.2, data l.1)) (fCache n)
      | 1 => las.foldl (fun s l => slmWrite s t l.2 (data l.1)) s
      | _ => las.foldl (fun s l => grtWrite s (tileDie t) l.2 (data l.1)) s
    some (las.foldl (fun s l => storeMarks s t g (fSpace n) l.2 len) s)

/-- The operand and the swap value of a lane (R72). -/
def atomOperands (gr : Group) (w lane : Nat) : Nat × Nat :=
  let n := tyRegs (fTy w)
  (vgetN gr (fMb w) lane n, if fAop w = 7 then vgetN gr (fMb w + n) lane n else 0)

/-- An atomic on a local array: each address with its lanes in order (R73, R74). `f` answers code, results and state. -/
def atomLocal (s : State) (t g w : Nat) (gr : Group) (las : List (Nat × Nat))
    (f : State → Nat → List (Nat × Nat) → Nat × List Nat × State) : State :=
  let n := tyBytes (fTy w)
  let (code, res, s) := (distinct [] (las.map (·.2))).foldl (fun (acc : Nat × List (Nat × Nat) × State) a =>
    let mine := las.filter fun l => l.2 == a
    let hazard := localHazard acc.2.2 t g (fSpace w) a n
    let (c, outs, s) := f acc.2.2 a (mine.map fun l => atomOperands gr w l.1)
    let (outs, s) := if hazard then drawList outs.length s else (outs, s)
    let s := storeMarks s t g (fSpace w) a n
    (if acc.1 = 0 then c else acc.1, acc.2.1 ++ (mine.map (·.1)).zip outs, s)) (0, [], s)
  match group s t g with
  | none => s
  | some gr => grtFault (setGroup s t g (res.foldl (fun x r => putLoaded x false (fDst w) n r.1 r.2) gr)) t code

/-- atom. -/
def execAtom (t : TileId) (g : Slot) (w : BitVec 56) (s : State) : Out :=
  let n := w.toNat
  memIssue [0, 1, 2, 3, 4, 5] true true true false .atomic t g n s fun s gr las =>
    let ty := fTy n
    match fSpace n with
    | 0 =>
      let s := atomGlobal s t g (fDst n) (fAop n) ty (las.map fun l =>
        let o := atomOperands gr n l.1
        (l.1, l.2, w64 o.1, w64 o.2))
      some (las.foldl (fun s l => storeMarks s t g 0 l.2 (tyBytes ty)) s)
    | 1 => some (atomLocal s t g n gr las fun s a ops =>
        let (v, outs) := atomApply (fAop n) ty (ofBytes (slmBytesAt (tile s t) a (tyBytes ty))) ops
        (0, outs, slmWrite s t a (toBytes (tyBytes ty) v)))
    | _ => some (atomLocal s t g n gr las fun s a ops => grtAtomic s (tileDie t) a (fAop n) ty ops false)

/-- pf: it never faults on an address, and changes no architectural state (R62, R280). -/
def execPf (t : TileId) (g : Slot) (w : BitVec 56) (s : State) : Out :=
  let n := w.toNat
  issue s t g (memCheck tyAny false false false false · n) (memTouches false false false n) fun s gr =>
    if fSpace n = 0 ∧ pathHeld (tile s t) g then .wait
    else
      let las := (lanesOf gr n).map fun l => effAddr gr n l
      let s := if fSpace n ≠ 0 then s
        else las.foldl (fun s a =>
          if !canonical a then s
          else
            let (code, pa, s) := translate s t (tile s t).ctx (a % 2 ^ 48) .load
            if code = 0 ∧ inMemory pa then prefetchGlobal s t g (pa / 128) (fCache n) else s) s
      .done gr s

end Sys2Proof.Machine
end

