-- ==== Sys2Proof/Machine/Dispatch.lean ====
section
/-!
DEFINITION. The one dispatch: each command of the block to its meaning.
-/
namespace Sys2Proof.Machine

/-- The effect of a command on everything but the queue. -/
def exec (i : Instr) (s : State) : Host.Outcome State Fault Refusal :=
  match i with
  | .auxPowerApply nonce pwrEn modResetN => Sys2Proof.Machine.execAuxPowerApply nonce pwrEn modResetN s
  | .auxResetRelease straps sa => Sys2Proof.Machine.execAuxResetRelease straps sa s
  | .auxPowerRemove => Sys2Proof.Machine.execAuxPowerRemove s
  | .pwrEnAssert => Sys2Proof.Machine.execPwrEnAssert s
  | .railsGood compat => Sys2Proof.Machine.execRailsGood compat s
  | .mainStartup r => Sys2Proof.Machine.execMainStartup r s
  | .pwrEnDeassert => Sys2Proof.Machine.execPwrEnDeassert s
  | .modResetNAssert => Sys2Proof.Machine.execModResetNAssert s
  | .modResetNDeassert => Sys2Proof.Machine.execModResetNDeassert s
  | .perstNAssert compat => Sys2Proof.Machine.execPerstNAssert compat s
  | .perstNDeassert => Sys2Proof.Machine.execPerstNDeassert s
  | .hostPortLost why compat => Sys2Proof.Machine.execHostPortLost why compat s
  | .dlkCoreReleaseWrite a p v => Sys2Proof.Machine.execDlkCoreReleaseWrite a p v s
  | .jtagInstruction op => Sys2Proof.Machine.execJtagInstruction op s
  | .registerWrite a addr size v => Sys2Proof.Machine.execRegisterWrite a addr size v s
  | .timebaseSync d => Sys2Proof.Machine.execTimebaseSync d s
  | .islandClockLoss d n => Sys2Proof.Machine.execIslandClockLoss d n s
  | .heartbeatMissed d => Sys2Proof.Machine.execHeartbeatMissed d s
  | .cDieLoss k why => Sys2Proof.Machine.execCDieLoss k why s
  | .mLinkSwitch k => Sys2Proof.Machine.execMLinkSwitch k s
  | .lostDieTilesFenced k => Sys2Proof.Machine.execLostDieTilesFenced k s
  | .lDieLoss l why => Sys2Proof.Machine.execLDieLoss l why s
  | .fatalLoss d why => Sys2Proof.Machine.execFatalLoss d why s
  | .dieRejoin d r => Sys2Proof.Machine.execDieRejoin d r s
  | .dieRejoinFailed d => Sys2Proof.Machine.execDieRejoinFailed d s
  | .lDieRejoinOnCActive l => Sys2Proof.Machine.execLDieRejoinOnCActive l s
  | .dieActionResetHold a index => Sys2Proof.Machine.execDieActionResetHold a index s
  | .dieActionRejoin a index => Sys2Proof.Machine.execDieActionRejoin a index s
  | .dieActionResetRejoin a index => Sys2Proof.Machine.execDieActionResetRejoin a index s
  | .nop t g w => Sys2Proof.Machine.execNop t g w s
  | .mov t g w => Sys2Proof.Machine.execMov t g w s
  | .movi t g w => Sys2Proof.Machine.execMovi t g w s
  | .movl t g w => Sys2Proof.Machine.execMovl t g w s
  | .add iform t g w => Sys2Proof.Machine.execAdd iform t g w s
  | .sub iform t g w => Sys2Proof.Machine.execSub iform t g w s
  | .mulLo iform t g w => Sys2Proof.Machine.execMulLo iform t g w s
  | .mulHi t g w => Sys2Proof.Machine.execMulHi t g w s
  | .mad t g w => Sys2Proof.Machine.execMad t g w s
  | .min iform t g w => Sys2Proof.Machine.execMin iform t g w s
  | .max iform t g w => Sys2Proof.Machine.execMax iform t g w s
  | .and iform t g w => Sys2Proof.Machine.execAnd iform t g w s
  | .or iform t g w => Sys2Proof.Machine.execOr iform t g w s
  | .xor iform t g w => Sys2Proof.Machine.execXor iform t g w s
  | .not iform t g w => Sys2Proof.Machine.execNot iform t g w s
  | .shl iform t g w => Sys2Proof.Machine.execShl iform t g w s
  | .shr iform t g w => Sys2Proof.Machine.execShr iform t g w s
  | .sra iform t g w => Sys2Proof.Machine.execSra iform t g w s
  | .popc t g w => Sys2Proof.Machine.execPopc t g w s
  | .clz t g w => Sys2Proof.Machine.execClz t g w s
  | .brev t g w => Sys2Proof.Machine.execBrev t g w s
  | .bfe t g w => Sys2Proof.Machine.execBfe t g w s
  | .bfi t g w => Sys2Proof.Machine.execBfi t g w s
  | .pcmp rel t g w => Sys2Proof.Machine.execPcmp rel t g w s
  | .sel t g w => Sys2Proof.Machine.execSel t g w s
  | .plog t g w => Sys2Proof.Machine.execPlog t g w s
  | .fadd iform t g w => Sys2Proof.Machine.execFadd iform t g w s
  | .fsub iform t g w => Sys2Proof.Machine.execFsub iform t g w s
  | .fmul iform t g w => Sys2Proof.Machine.execFmul iform t g w s
  | .fma iform t g w => Sys2Proof.Machine.execFma iform t g w s
  | .fmin t g w => Sys2Proof.Machine.execFmin t g w s
  | .fmax t g w => Sys2Proof.Machine.execFmax t g w s
  | .rcp t g w => Sys2Proof.Machine.execRcp t g w s
  | .rsqrt t g w => Sys2Proof.Machine.execRsqrt t g w s
  | .sqrt t g w => Sys2Proof.Machine.execSqrt t g w s
  | .exp2 t g w => Sys2Proof.Machine.execExp2 t g w s
  | .log2 t g w => Sys2Proof.Machine.execLog2 t g w s
  | .sin t g w => Sys2Proof.Machine.execSin t g w s
  | .cos t g w => Sys2Proof.Machine.execCos t g w s
  | .cvt t g w => Sys2Proof.Machine.execCvt t g w s
  | .vote t g w => Sys2Proof.Machine.execVote t g w s
  | .shfl iform t g w => Sys2Proof.Machine.execShfl iform t g w s
  | .rdlane iform t g w => Sys2Proof.Machine.execRdlane iform t g w s
  | .rdsr t g w => Sys2Proof.Machine.execRdsr t g w s
  | .ld t g w => Sys2Proof.Machine.execLd t g w s
  | .st t g w => Sys2Proof.Machine.execSt t g w s
  | .atom t g w => Sys2Proof.Machine.execAtom t g w s
  | .pf t g w => Sys2Proof.Machine.execPf t g w s
  | .br t g w => Sys2Proof.Machine.execBr t g w s
  | .jmp t g w => Sys2Proof.Machine.execJmp t g w s
  | .call t g w => Sys2Proof.Machine.execCall t g w s
  | .ret t g w => Sys2Proof.Machine.execRet t g w s
  | .exit t g w => Sys2Proof.Machine.execExit t g w s
  | .trap t g w => Sys2Proof.Machine.execTrap t g w s
  | .bar t g w => Sys2Proof.Machine.execBar t g w s
  | .barDeadlock t => Sys2Proof.Machine.execBarDeadlock t s
  | .fenceGroup t g w => Sys2Proof.Machine.execFenceGroup t g w s
  | .fenceTile t g w => Sys2Proof.Machine.execFenceTile t g w s
  | .fenceDie t g w => Sys2Proof.Machine.execFenceDie t g w s
  | .fenceDevice t g w => Sys2Proof.Machine.execFenceDevice t g w s
  | .fenceSys t g w => Sys2Proof.Machine.execFenceSys t g w s
  | .tilePreciseFault t g w => Sys2Proof.Machine.execTilePreciseFault t g w s
  | .tileWatchdogExpiry t => Sys2Proof.Machine.execTileWatchdogExpiry t s
  | .tileUncorrectable t => Sys2Proof.Machine.execTileUncorrectable t s
  | .mma t g w => Sys2Proof.Machine.execMma t g w s
  | .mmas t g w => Sys2Proof.Machine.execMmas t g w s
  | .mtxZero t g w => Sys2Proof.Machine.execMtxZero t g w s
  | .mtxRd t g w => Sys2Proof.Machine.execMtxRd t g w s
  | .mtxWr t g w => Sys2Proof.Machine.execMtxWr t g w s
  | .mtxWait t g w => Sys2Proof.Machine.execMtxWait t g w s
  | .matrixEngineStart t e => Sys2Proof.Machine.execMatrixEngineStart t e s
  | .matrixInstrComplete t e => Sys2Proof.Machine.execMatrixInstrComplete t e s
  | .engineCold t e => Sys2Proof.Machine.execEngineCold t e s
  | .pacedStart t e => Sys2Proof.Machine.execPacedStart t e s
  | .flsIssue t g w => Sys2Proof.Machine.execFlsIssue t g w s
  | .flsWait t g w => Sys2Proof.Machine.execFlsWait t g w s
  | .flsStat t g w => Sys2Proof.Machine.execFlsStat t g w s
  | .flsCommandStart t => Sys2Proof.Machine.execFlsCommandStart t s
  | .flsCommandComplete t => Sys2Proof.Machine.execFlsCommandComplete t s
  | .flsStatWrite a t g v => Sys2Proof.Machine.execFlsStatWrite a t g v s
  | .mergeEntryIdleDrain t line => Sys2Proof.Machine.execMergeEntryIdleDrain t line s
  | .l1Inv a t v => Sys2Proof.Machine.execL1Inv a t v s
  | .l1cCtlEnableWrite a t v => Sys2Proof.Machine.execL1cCtlEnableWrite a t v s
  | .l1FillArrive t line => Sys2Proof.Machine.execL1FillArrive t line s
  | .dccAccess k n ecc => Sys2Proof.Machine.execDccAccess k n ecc s
  | .dccFillArrive k line => Sys2Proof.Machine.execDccFillArrive k line s
  | .dccInv a k v => Sys2Proof.Machine.execDccInv a k v s
  | .dccClean a k v => Sys2Proof.Machine.execDccClean a k v s
  | .dccCleanInv a k v => Sys2Proof.Machine.execDccCleanInv a k v s
  | .dccPreload a k v => Sys2Proof.Machine.execDccPreload a k v s
  | .dccZero a k v => Sys2Proof.Machine.execDccZero a k v s
  | .dccInvSw a k v => Sys2Proof.Machine.execDccInvSw a k v s
  | .dccCleanSw a k v => Sys2Proof.Machine.execDccCleanSw a k v s
  | .dccCleanInvSw a k v => Sys2Proof.Machine.execDccCleanInvSw a k v s
  | .dccInvAll a k v => Sys2Proof.Machine.execDccInvAll a k v s
  | .dccMaintComplete k => Sys2Proof.Machine.execDccMaintComplete k s
  | .dccCtlWrite a k v => Sys2Proof.Machine.execDccCtlWrite a k v s
  | .dccLockWrite a k v => Sys2Proof.Machine.execDccLockWrite a k v s
  | .grtOwnerWrite a k m v => Sys2Proof.Machine.execGrtOwnerWrite a k m v s
  | .granuleOwnerEffect k gr => Sys2Proof.Machine.execGranuleOwnerEffect k gr s
  | .grottoApertureAccess who k off acc => Sys2Proof.Machine.execGrottoApertureAccess who k off acc s
  | .grtQcfgWrite a k n v => Sys2Proof.Machine.execGrtQcfgWrite a k n v s
  | .grtDoorbell q => Sys2Proof.Machine.execGrtDoorbell q s
  | .descriptorStart q => Sys2Proof.Machine.execDescriptorStart q s
  | .waitReevaluate q => Sys2Proof.Machine.execWaitReevaluate q s
  | .descriptorComplete q => Sys2Proof.Machine.execDescriptorComplete q s
  | .collContribution k n => Sys2Proof.Machine.execCollContribution k n s
  | .collTimeout k slot => Sys2Proof.Machine.execCollTimeout k slot s
  | .hlxSendRecord k n => Sys2Proof.Machine.execHlxSendRecord k n s
  | .decoderBindingEffect k quad stream => Sys2Proof.Machine.execDecoderBindingEffect k quad stream s
  | .drpRngCfgWrite a k v => Sys2Proof.Machine.execDrpRngCfgWrite a k v s
  | .drpTableApply k => Sys2Proof.Machine.execDrpTableApply k s
  | .homeRead h n => Sys2Proof.Machine.execHomeRead h n s
  | .homeWrite h n => Sys2Proof.Machine.execHomeWrite h n s
  | .stackReadReturn h n e => Sys2Proof.Machine.execStackReadReturn h n e s
  | .sumpIdleWriteback h line e => Sys2Proof.Machine.execSumpIdleWriteback h line e s
  | .sumpDrainRange h a v => Sys2Proof.Machine.execSumpDrainRange h a v s
  | .sumpDrainAll h a v => Sys2Proof.Machine.execSumpDrainAll h a v s
  | .sumpDrainComplete h => Sys2Proof.Machine.execSumpDrainComplete h s
  | .amuAtomic h n e => Sys2Proof.Machine.execAmuAtomic h n e s
  | .memScrub h corrected bad => Sys2Proof.Machine.execMemScrub h corrected bad s
  | .memTempRead h celsius => Sys2Proof.Machine.execMemTempRead h celsius s
  | .memPeriodicRetrain h => Sys2Proof.Machine.execMemPeriodicRetrain h s
  | .memCfgWrite h a v => Sys2Proof.Machine.execMemCfgWrite h a v s
  | .rdShared req line => Sys2Proof.Machine.execRdShared req line s
  | .rdUnique req line => Sys2Proof.Machine.execRdUnique req line s
  | .upgrade req line => Sys2Proof.Machine.execUpgrade req line s
  | .cleanToHome req line => Sys2Proof.Machine.execCleanToHome req line s
  | .flushToHome req line => Sys2Proof.Machine.execFlushToHome req line s
  | .wbDirty req line stores => Sys2Proof.Machine.execWbDirty req line stores s
  | .amoFar req line => Sys2Proof.Machine.execAmoFar req line s
  | .ncRead line n => Sys2Proof.Machine.execNcRead line n s
  | .ncWrite line n => Sys2Proof.Machine.execNcWrite line n s
  | .ncAtomic line n => Sys2Proof.Machine.execNcAtomic line n s
  | .snpShared ag line stores evicting => Sys2Proof.Machine.execSnpShared ag line stores evicting s
  | .snpUnique ag line stores evicting => Sys2Proof.Machine.execSnpUnique ag line stores evicting s
  | .snpInv ag line stores evicting => Sys2Proof.Machine.execSnpInv ag line stores evicting s
  | .snpClean ag line stores evicting => Sys2Proof.Machine.execSnpClean ag line stores evicting s
  | .snoopHoldExpiry at_ line stores => Sys2Proof.Machine.execSnoopHoldExpiry at_ line stores s
  | .rspAbsent by_ line => Sys2Proof.Machine.execRspAbsent by_ line s
  | .rspClean by_ line => Sys2Proof.Machine.execRspClean by_ line s
  | .rspData by_ line => Sys2Proof.Machine.execRspData by_ line s
  | .rspWbInFlight by_ line => Sys2Proof.Machine.execRspWbInFlight by_ line s
  | .grant ag line => Sys2Proof.Machine.execGrant ag line s
  | .wbAck ag line => Sys2Proof.Machine.execWbAck ag line s
  | .cmoAck ag line => Sys2Proof.Machine.execCmoAck ag line s
  | .performedVisible n => Sys2Proof.Machine.execPerformedVisible n s
  | .amoResult c => Sys2Proof.Machine.execAmoResult c s
  | .coreAmo c op => Sys2Proof.Machine.execCoreAmo c op s
  | .cohAmoClear a p v => Sys2Proof.Machine.execCohAmoClear a p v s
  | .snoopTimeout agent line => Sys2Proof.Machine.execSnoopTimeout agent line s
  | .dirUncorrectable h line => Sys2Proof.Machine.execDirUncorrectable h line s
  | .jobSubmit a k q v => Sys2Proof.Machine.execJobSubmit a k q v s
  | .jobTake k => Sys2Proof.Machine.execJobTake k s
  | .jobTilesReserved j => Sys2Proof.Machine.execJobTilesReserved j s
  | .jobWaitPriority j => Sys2Proof.Machine.execJobWaitPriority j s
  | .groupLaunch j rank => Sys2Proof.Machine.execGroupLaunch j rank s
  | .jobComplete j => Sys2Proof.Machine.execJobComplete j s
  | .jobQcfgWrite a k q v => Sys2Proof.Machine.execJobQcfgWrite a k q v s
  | .jobAbort a k v => Sys2Proof.Machine.execJobAbort a k v s
  | .jobPreempt a k v => Sys2Proof.Machine.execJobPreempt a k v s
  | .tlbInv a k v => Sys2Proof.Machine.execTlbInv a k v s
  | .tileFence t => Sys2Proof.Machine.execTileFence t s
  | .portTrain p r => Sys2Proof.Machine.execPortTrain p r s
  | .portTrainTimeout p => Sys2Proof.Machine.execPortTrainTimeout p s
  | .portTrainRetry p => Sys2Proof.Machine.execPortTrainRetry p s
  | .fabPortCtlWrite a p v => Sys2Proof.Machine.execFabPortCtlWrite a p v s
  | .dataFrameReceive p f => Sys2Proof.Machine.execDataFrameReceive p f s
  | .controlFrameReceive p f => Sys2Proof.Machine.execControlFrameReceive p f s
  | .portDown p why => Sys2Proof.Machine.execPortDown p why s
  | .keepaliveEnter p => Sys2Proof.Machine.execKeepaliveEnter p s
  | .portWake p => Sys2Proof.Machine.execPortWake p s
  | .portWakeTimeout p => Sys2Proof.Machine.execPortWakeTimeout p s
  | .packetRoute p trailer => Sys2Proof.Machine.execPacketRoute p trailer s
  | .writePacket n => Sys2Proof.Machine.execWritePacket n s
  | .readPacket n => Sys2Proof.Machine.execReadPacket n s
  | .atomicPacket n => Sys2Proof.Machine.execAtomicPacket n s
  | .messagePacket n => Sys2Proof.Machine.execMessagePacket n s
  | .contribPacket n => Sys2Proof.Machine.execContribPacket n s
  | .powerPacket n => Sys2Proof.Machine.execPowerPacket n s
  | .ackPacket n => Sys2Proof.Machine.execAckPacket n s
  | .readDataPacket n => Sys2Proof.Machine.execReadDataPacket n s
  | .atomicResultPacket n => Sys2Proof.Machine.execAtomicResultPacket n s
  | .nakPacket n => Sys2Proof.Machine.execNakPacket n s
  | .fabRxFullRetry c => Sys2Proof.Machine.execFabRxFullRetry c s
  | .fabRtoExpiry c => Sys2Proof.Machine.execFabRtoExpiry c s
  | .fabQcfgWrite a l n v => Sys2Proof.Machine.execFabQcfgWrite a l n v s
  | .fabRxqDoorbell l n v => Sys2Proof.Machine.execFabRxqDoorbell l n v s
  | .hqSqTail q v => Sys2Proof.Machine.execHqSqTail q v s
  | .hqCqHead q v => Sys2Proof.Machine.execHqCqHead q v s
  | .hifNop q c => Sys2Proof.Machine.execHifNop q c s
  | .hifSubmit q c => Sys2Proof.Machine.execHifSubmit q c s
  | .writeInline q c => Sys2Proof.Machine.execWriteInline q c s
  | .copyH2D q c => Sys2Proof.Machine.execCopyH2D q c s
  | .copyD2H q c => Sys2Proof.Machine.execCopyD2H q c s
  | .flag q c => Sys2Proof.Machine.execFlag q c s
  | .hostReadCompletion q tag c => Sys2Proof.Machine.execHostReadCompletion q tag c s
  | .hqInterruptTimer q => Sys2Proof.Machine.execHqInterruptTimer q s
  | .bar0Access off size w => Sys2Proof.Machine.execBar0Access off size w s
  | .hostWindowAccess off acc => Sys2Proof.Machine.execHostWindowAccess off acc s
  | .compatBarAccess off acc => Sys2Proof.Machine.execCompatBarAccess off acc s
  | .hifWinBaseWrite a v => Sys2Proof.Machine.execHifWinBaseWrite a v s
  | .hifHqCfgWrite a q v => Sys2Proof.Machine.execHifHqCfgWrite a q v s
  | .hqStopped q => Sys2Proof.Machine.execHqStopped q s
  | .linkTrain l mask partnerMask confirm => Sys2Proof.Machine.execLinkTrain l mask partnerMask confirm s
  | .linkIdentity l x => Sys2Proof.Machine.execLinkIdentity l x s
  | .linkCrcRetrain l crcFails replayed a => Sys2Proof.Machine.execLinkCrcRetrain l crcFails replayed a s
  | .linkTrainFailed l => Sys2Proof.Machine.execLinkTrainFailed l s
  | .linkRetrain a l => Sys2Proof.Machine.execLinkRetrain a l s
  | .linkUnfence a l => Sys2Proof.Machine.execLinkUnfence a l s
  | .mlinkSliceRetrain m secondary slice pass => Sys2Proof.Machine.execMlinkSliceRetrain m secondary slice pass s
  | .mlinkTestFlit m => Sys2Proof.Machine.execMlinkTestFlit m s
  | .rimPowerSample watts energy => Sys2Proof.Machine.execRimPowerSample watts energy s
  | .rimCoordinatorTick => Sys2Proof.Machine.execRimCoordinatorTick s
  | .rimBudgetCheck d watts => Sys2Proof.Machine.execRimBudgetCheck d watts s
  | .rimFreqStep d n => Sys2Proof.Machine.execRimFreqStep d n s
  | .droopTrip d n => Sys2Proof.Machine.execDroopTrip d n s
  | .droopEnd d n => Sys2Proof.Machine.execDroopEnd d n s
  | .thermalRead n celsius => Sys2Proof.Machine.execThermalRead n celsius s
  | .sensorTimeout n => Sys2Proof.Machine.execSensorTimeout n s
  | .agingTrim d n margin => Sys2Proof.Machine.execAgingTrim d n margin s
  | .rimPaceCtlWrite a k v => Sys2Proof.Machine.execRimPaceCtlWrite a k v s
  | .powerReportSend via => Sys2Proof.Machine.execPowerReportSend via s
  | .groupPartnerStale node => Sys2Proof.Machine.execGroupPartnerStale node s
  | .deepIdleEnter => Sys2Proof.Machine.execDeepIdleEnter s
  | .epochLatch tick => Sys2Proof.Machine.execEpochLatch tick s
  | .faultRecord => Sys2Proof.Machine.execFaultRecord s
  | .mbxFaultSoftWrite a v => Sys2Proof.Machine.execMbxFaultSoftWrite a v s
  | .mbxClassBComplete m => Sys2Proof.Machine.execMbxClassBComplete m s
  | .getInfo m => Sys2Proof.Machine.execGetInfo m s
  | .getNonce m => Sys2Proof.Machine.execGetNonce m s
  | .getSensors m => Sys2Proof.Machine.execGetSensors m s
  | .telRead m => Sys2Proof.Machine.execTelRead m s
  | .ctxCreate m => Sys2Proof.Machine.execCtxCreate m s
  | .ctxDestroy m => Sys2Proof.Machine.execCtxDestroy m s
  | .grtAssign m => Sys2Proof.Machine.execGrtAssign m s
  | .connCreate m => Sys2Proof.Machine.execConnCreate m s
  | .connDestroy m => Sys2Proof.Machine.execConnDestroy m s
  | .nodeSet m => Sys2Proof.Machine.execNodeSet m s
  | .routeSet m => Sys2Proof.Machine.execRouteSet m s
  | .dieReset m => Sys2Proof.Machine.execDieReset m s
  | .moduleReset m => Sys2Proof.Machine.execModuleReset m s
  | .fenceClear m => Sys2Proof.Machine.execFenceClear m s
  | .setBudget m => Sys2Proof.Machine.execSetBudget m s
  | .setGroup m => Sys2Proof.Machine.execSetGroup m s
  | .setIdle m => Sys2Proof.Machine.execSetIdle m s
  | .setPace m => Sys2Proof.Machine.execSetPace m s
  | .rngTable m => Sys2Proof.Machine.execRngTable m s
  | .telPeriod m => Sys2Proof.Machine.execTelPeriod m s
  | .timebaseSet m => Sys2Proof.Machine.execTimebaseSet m s
  | .ownerInstall m nonce flashOk => Sys2Proof.Machine.execOwnerInstall m nonce flashOk s
  | .keyRoll m nonce flashOk => Sys2Proof.Machine.execKeyRoll m nonce flashOk s
  | .ownerClear m nonce flashOk => Sys2Proof.Machine.execOwnerClear m nonce flashOk s
  | .attest m flashOk => Sys2Proof.Machine.execAttest m flashOk s
  | .attestRead m => Sys2Proof.Machine.execAttestRead m s
  | .getIdentity m => Sys2Proof.Machine.execGetIdentity m s
  | .fwBegin m flashOk => Sys2Proof.Machine.execFwBegin m flashOk s
  | .fwChunk m flashOk => Sys2Proof.Machine.execFwChunk m flashOk s
  | .fwCommit m flashOk => Sys2Proof.Machine.execFwCommit m flashOk s
  | .fwActivate m nonce => Sys2Proof.Machine.execFwActivate m nonce s
  | .i3cPrivateWrite offset data => Sys2Proof.Machine.execI3cPrivateWrite offset data s
  | .i3cPrivateRead len => Sys2Proof.Machine.execI3cPrivateRead len s
  | .mctpRequest src body => Sys2Proof.Machine.execMctpRequest src body s
  | .mctpSetEndpointId src eid => Sys2Proof.Machine.execMctpSetEndpointId src eid s
  | .mctpGetEndpointId src => Sys2Proof.Machine.execMctpGetEndpointId src s
  | .mctpGetVersionSupport src mtype => Sys2Proof.Machine.execMctpGetVersionSupport src mtype s
  | .mctpGetMessageTypeSupport src => Sys2Proof.Machine.execMctpGetMessageTypeSupport src s
  | .hostLinkUp => Sys2Proof.Machine.execHostLinkUp s
  | .configRequest r => Sys2Proof.Machine.execConfigRequest r s
  | .completionTimeout q tag => Sys2Proof.Machine.execCompletionTimeout q tag s
  | .i3cDynamicAddress setdasa addr => Sys2Proof.Machine.execI3cDynamicAddress setdasa addr s
  | .inputBelowRating aux => Sys2Proof.Machine.execInputBelowRating aux s
  | .jtagTapReset => Sys2Proof.Machine.execJtagTapReset s

end Sys2Proof.Machine
end

