-- ==== Sys2Proof/Machine/Time.lean ====
section
/-!
DEFINITION. What one tick of the master timebase does (R33, R541): the model's own clock, DESIGN CHOICE, log entry 4.
-/
namespace Sys2Proof.Machine

/-- TIMEBASE_SET's moment (R541): the master and every active copy read V together, and boundaries that the step skips
become one latch at the first boundary after V. The master moves forward only (R15). -/
def timeStep (s : State) (v : Nat) : State :=
  let v := Nat.max v s.master.toNat
  let s := { s with master := w64 v, uszon := { s.uszon with timeSet := none } }
  let s := if nextBoundary s ≤ v then
      { s with uszon := { s.uszon with nextBoundary := nextMultiple v (periodTicks (periodUs s)) } } else s
  dieList.foldl (fun s n =>
    if n != 14 && dieActive s n then { s with copies := mput 0 s.copies n (w64 v), copyHeld := kdel s.copyHeld n } else s) s

/-- A collective slot of the module is open, and every matrix engine is idle (R503). -/
def moduleWaits (s : State) : Bool :=
  s.grottos.any (fun e => !e.2.coll.isEmpty) && s.tiles.all fun e => e.2.engines.all fun n => n.2.queue.isEmpty

/-- One tick, 1 ns (R14, R15): the master timebase runs while auxiliary power is present. -/
def tick (s : State) : State :=
  if s.pins.aux && !s.pins.auxReset then
    let m := s.master + 1
    let s := if moduleWaits s then { s with rim := { s.rim with waited := s.rim.waited + 1 } } else s
    match s.uszon.timeSet with
    | some (t, v) => if t ≤ m.toNat then timeStep s v else timeRuns s m
    | none => timeRuns s m
  else s

end Sys2Proof.Machine
end

