-- ==== Sys2Proof/Safety.lean ====
section
/-!
DEFINITION. The terms in which claims are stated: a command that the block answers with a next state, states in canonical form, and
what two states have in common.
-/
namespace Sys2Proof.Machine

/-- The command completes in this state. -/
def Completes (c : Instr) (s : State) : Prop := ∃ t, exec c s = .next t

/-- Memory lists its bytes by rising address and none that reads as an unlisted byte does (DESIGN CHOICE, log entry 7), and the registers that
differ from their reset values are listed by rising address. -/
def Canonical (s : State) : Prop := Memory.wf s.mem = true ∧ s.regs.rising

/-- Nothing but registers differs. -/
def OnlyRegs (s t : State) : Prop := { t with regs := s.regs } = s

/-- Every register address outside a list holds in `t` what it holds in `s`. -/
def SameRegsBut (as : List Nat) (s t : State) : Prop := ∀ a, a ∉ as → mfind t.regs a = mfind s.regs a

/-- The address of a register of a die (R8). -/
abbrev at_ (r : Reg) (die : Nat) (i : Nat := 0) (j : Nat := 0) : Nat := regAddr r die i j

end Sys2Proof.Machine
end

