-- ==== Sys2Proof/Certificates/Slice0/Obligations.lean ====
section
/-!
DEFINITION. The statements for the provers: what the commands of the block do, family by family, in the order of the specification's
sections, and the invariant that every step keeps. `exec c s = .next t` is the completion of a command.
-/
open Sys2Proof Sys2Proof.Machine

/-! ### The block as a whole -/

/-- A step runs the command at the front of the queue, with the rest of the queue left waiting. -/
def Obligations.StepRunsFrontCommand : Prop :=
  ∀ (c : Instr) (rest : List Instr) (s : State), step { s with pending := c :: rest } = exec c { s with pending := rest }

/-- On an empty queue a step is one tick of the master timebase (DESIGN CHOICE, log entry 4, the model's choice): without auxiliary power nothing
moves; with it, and no TIMEBASE_SET due, the master gains one, and only timebase copies change beside it (R15, R33). -/
def Obligations.IdleStepTicksTimebase : Prop :=
  ∀ s : State, s.pending = [] →
    (s.pins.aux = false → step s = .next s) ∧
    (s.pins.aux = true → s.pins.auxReset = false → s.uszon.timeSet = none → s.master.toNat + 1 < 2 ^ 64 →
      ∃ t, step s = .next t ∧ t.master = s.master + 1 ∧
        { t with master := s.master, copies := s.copies, copyHeld := s.copyHeld } = s)

/-- What reset leaves: every register reads its reset value, auxiliary power is off and its reset not yet released, every other input
is low, PWR_GOOD and MOD_READY are not asserted and ALERT_N is not (R554), no hold stands, nothing waits, and the state is canonical.
That State.reset is the module before auxiliary power, with its pins so (DESIGN CHOICE, log entry 2), and that a field whose reset the
manual shows as a dash reads 0 (DESIGN CHOICE, log entry 5), are the model's choices. -/
def Obligations.ResetStateIsCanonical : Prop :=
  (∀ (r : Reg) (die i j : Nat), rget State.reset r die i j = (w64 r.spec.reset).toNat) ∧
  State.reset.pending = [] ∧ State.reset.holds = [] ∧
  State.reset.pins =
    { aux := false, auxReset := true, pwrEn := false, modResetN := false, perstN := false, pwrGood := false, modReady := false,
      alertN := true, rails := false, underRating := false } ∧
  Canonical State.reset

/-- Every step keeps the canonical form of memory and of the registers, from any state whatever that has it. -/
def Obligations.StepKeepsCanonicalForm : Prop :=
  ∀ s t : State, Canonical s → step s = .next t → Canonical t

/-- No command touches the queue of the commands that wait behind it, and identities and free values are never given twice. That a free value
is drawn by a counter of State is the model's choice (DESIGN CHOICE, log entry 1), as are its own numbers of jobs and parts (DESIGN
CHOICE, log entry 141). Every command completes in every state, but a Holtord debug instruction at the TAP of a module that no owner key
protects, which the manual says acts and does not say how (R571). -/
def Obligations.CommandsAnswerAndLeaveTheQueueAlone : Prop :=
  (∀ (c : Instr) (s t : State), exec c s = .next t →
    t.pending = s.pending ∧ s.nextId ≤ t.nextId ∧ s.freeCount ≤ t.freeCount) ∧
  ((∀ (c : Instr) (s : State), (∀ op, c ≠ .jtagInstruction (.debug op)) → Completes c s) ∧
  (∀ (op : W32) (s : State), rf s .secStatus 14 0 0 0 0 ≠ 1 →
    exec (.jtagInstruction (.debug op)) s = .refused .jtagDebug))

/-! ### Power, reset pins and the host port's pins -/

/-- Auxiliary power and its reset (R34, R530, R532-R534, R560, R561, R568, R570): applied, the auxiliary domain comes up in its reset
with a fresh nonce and what the flash holds; released, the ROM checks the image and starts the firmware, which starts the main
conversion at once where PWR_EN is asserted (DEDUCED, log entry 36), or else the recovery loader, a hold of cause 5, with the host port
out of reset and STRAP_COMPAT sampled; removed, everything stops. -/
def Obligations.AuxiliaryPowerStartsUszon : Prop :=
  (∀ (n : W128) (en rn : Bool) (s : State), s.pins.aux = false →
    ∃ t, exec (.auxPowerApply n en rn) s = .next t ∧ t.pins.aux = true ∧ t.pins.auxReset = true ∧ t.pins.pwrEn = en ∧
      t.pins.modResetN = rn ∧ t.uszon.nonce = n ∧ t.flash = s.flash ∧ t.regs = [] ∧ t.jobs = [] ∧ t.pins.alertN = true) ∧
  (∀ (x : AuxStraps) (sa : BitVec 3) (s : State), Canonical s → s.pins.aux = true → s.pins.auxReset = true → s.holds = [] →
    s.pins.rails = false → s.pins.pwrGood = false → s.uszon.startFailed = false → s.uszon.recovery = false →
    ∃ t, exec (.auxResetRelease x sa) s = .next t ∧ t.pins.auxReset = false ∧ t.uszon.nonce = s.uszon.nonce ∧
      rf t .dlkStraps 14 0 0 9 9 = b2n x.recovery ∧ rf t .dlkStraps 14 0 0 6 4 = sa.toNat ∧
      if s.flash.good = true ∧ imgCheck (imgBytes s.flash.image) (storeRecord s).2.2 = 0 ∧ x.recovery = false then
        t.uszon.running = true ∧ t.uszon.recovery = false ∧ phase t = (if s.pins.pwrEn then 3 else 2)
      else
        t.uszon.running = false ∧ t.uszon.recovery = true ∧ t.pins.alertN = false ∧ t.holds = [5] ∧ phase t = 8 ∧
        rf t .dlkStraps 14 0 0 0 0 = b2n x.compat ∧ t.host.training = s.pins.perstN) ∧
  (∀ s : State, s.pins.aux = true →
    ∃ t, exec .auxPowerRemove s = .next t ∧ t.pins.aux = false ∧ t.pins.pwrGood = false ∧ t.pins.modReady = false ∧
      t.uszon.running = false ∧ t.jobs = [] ∧ t.regs = [] ∧ t.flash = s.flash)

/-- The main power conversion and MOD_RESET_N (R560, R561, R567-R569): PWR_EN starts the converter and its fall holds the main domain
with cause 1; tm0 raises PWR_GOOD, samples STRAP_COMPAT and begins the start-up, or the hold of MOD_RESET_N, which the model counts from
there (DEDUCED, log entry 41); MOD_RESET_N resets the main domain with cause 2, and the start-up goes on, from DIES or from RAILS, once
the last hold ends. Memory that lists nothing after a reset (DESIGN CHOICE, log entry 7), PHASE and HOLD that show the latest hold and a
next phase at once (DEDUCED, log entry 36) are the model's. -/
def Obligations.RailsAndModResetHoldTheMainDomain : Prop :=
  (∀ s : State, Canonical s → s.uszon.running = true → s.uszon.startFailed = false → s.holds = [1] ∨ (s.holds = [] ∧ phase s = 2) →
    s.pins.rails = false →
    ∃ t, exec .pwrEnAssert s = .next t ∧ t.pins.pwrEn = true ∧ t.holds = [] ∧ phase t = 3) ∧
  (∀ (compat : Bool) (s : State), Canonical s → phase s = 3 → s.pins.pwrEn = true → s.pins.modResetN = true → s.holds = [] →
    s.uszon.startFailed = false →
    ∃ t, exec (.railsGood compat) s = .next t ∧ t.pins.pwrGood = true ∧ t.pins.rails = true ∧ phase t = 4 ∧
      rf t .dlkStraps 14 0 0 0 0 = b2n compat ∧ rf t .hifCap 14 0 0 0 0 = b2n compat) ∧
  (∀ (compat : Bool) (s : State), Canonical s → phase s = 3 → s.pins.pwrEn = true → s.pins.modResetN = false → s.holds = [] →
    s.uszon.startFailed = false →
    ∃ t, exec (.railsGood compat) s = .next t ∧ t.pins.pwrGood = true ∧ phase t = 8 ∧ rf t .dlkBoot 14 0 0 11 8 = 2) ∧
  (∀ s : State, Canonical s → s.pins.rails = true →
    ∃ t, exec .pwrEnDeassert s = .next t ∧ t.pins.pwrGood = false ∧ t.pins.rails = false ∧
      t.pins.modReady = false ∧ t.jobs = [] ∧ phase t = 8 ∧ rf t .dlkBoot 14 0 0 11 8 = 1) ∧
  (∀ s : State, Canonical s → s.pins.rails = true →
    ∃ t, exec .modResetNAssert s = .next t ∧ t.pins.modReady = false ∧
      t.jobs = [] ∧ t.mem = [] ∧ phase t = 8 ∧ rf t .dlkBoot 14 0 0 11 8 = 2) ∧
  (∀ s : State, Canonical s → s.holds = [2] → s.uszon.startFailed = false →
    (s.pins.rails = true →
      ∃ t, exec .modResetNDeassert s = .next t ∧ t.pins.modResetN = true ∧ t.pins.rails = true ∧ t.holds = [] ∧ phase t = 4 ∧
        rf t .dlkBoot 14 0 0 11 8 = 0 ∧ rf t .dlkBoot 14 0 0 47 32 = Nat.min 0xFFFF (rf s .dlkBoot 14 0 0 47 32 + 1)) ∧
    (s.pins.rails = false → s.pins.pwrEn = true → s.uszon.running = true →
      ∃ t, exec .modResetNDeassert s = .next t ∧ t.pins.modResetN = true ∧ t.holds = [] ∧ phase t = 3 ∧ rf t .dlkBoot 14 0 0 11 8 = 0))

/-- The host port's pins and losses, and the TAP (R442, R461, R494, R553, R563, R571): losing the port takes the link down and lets memory,
jobs and the start-up go on; an input below its rating is not detected, and what it spoils is undefined (DESIGN CHOICE, log entry 42), while
memory, registers, jobs and Uszon stay; SAMPLE/PRELOAD and EXTEST capture the signal pins and EXTEST drives the outputs, in an order of
cells that is the model's (DESIGN CHOICE, log entry 164). -/
def Obligations.HostPortPinsAndTap : Prop :=
  (∀ (compat : Bool) (s : State), s.pins.perstN = true →
    ∃ t, exec (.perstNAssert compat) s = .next t ∧ t.pins.perstN = false ∧ t.host.linkUp = false ∧ t.host.training = false ∧
      t.host.queues = [] ∧ t.mem = s.mem ∧ t.jobs = s.jobs ∧ t.holds = s.holds ∧ t.tiles = s.tiles) ∧
  (∀ s : State, s.pins.perstN = false → s.pins.pwrGood = true →
    exec .perstNDeassert s = .next { s with pins := { s.pins with perstN := true }, host := { s.host with training := true } }) ∧
  (∀ (why : PortLoss) (compat : Bool) (s : State), s.host.linkUp = true → (why = .d3hotToD0 → s.host.d3hot = true) →
    ∃ t, exec (.hostPortLost why compat) s = .next t ∧ t.host.linkUp = false ∧ t.host.training = true ∧ t.host.d3hot = false ∧
      t.mem = s.mem ∧ t.jobs = s.jobs ∧ t.pins = s.pins) ∧
  (∀ s : State, s.host.training = true → s.pins.perstN = true →
    exec .hostLinkUp s = .next { s with host := { s.host with training := false, linkUp := true } }) ∧
  (∀ (aux : Bool) (s : State), ∃ t, exec (.inputBelowRating aux) s = .next t ∧ t.pins = { s.pins with underRating := true } ∧
    t.mem = s.mem ∧ t.regs = s.regs ∧ t.jobs = s.jobs ∧ t.uszon = s.uszon ∧ t.host = s.host ∧
    ∀ e ∈ t.grottos, ∀ q ∈ e.2.queues, ∀ d ∈ q.2.taken, d.started = true → d.spoiled = true) ∧
  (∀ s : State, exec .jtagTapReset s = .next { s with jtag := { s.jtag with ir := .bypass } }) ∧
  (∀ s : State, exec (.jtagInstruction .bypass) s = .next { s with jtag := { s.jtag with ir := .bypass } }) ∧
  (∀ (b : List Bool) (s : State), exec (.jtagInstruction (.samplePreload b)) s =
    .next { s with jtag := ⟨.samplePreload b, b, j2Outputs s ++ [s.pins.perstN, s.pins.pwrEn, s.pins.modResetN]⟩ }) ∧
  (∀ (b : List Bool) (s : State), ∃ t, exec (.jtagInstruction (.extest b)) s = .next t ∧ t.jtag.ir = .extest b ∧
    (∀ g r a rest, b = g :: r :: a :: rest → j2Outputs t = [g, r, a]) ∧
    t.jtag.captured = j2Outputs t ++ [s.pins.perstN, s.pins.pwrEn, s.pins.modResetN] ∧ { t with jtag := s.jtag } = s) ∧
  (∀ (op : W32) (s : State), rf s .secStatus 14 0 0 0 0 = 1 →
    exec (.jtagInstruction (.debug op)) s = .next { s with jtag := { s.jtag with ir := .bypass } })

/-- The main-domain start-up (R4, R37, R562-R566, R570): where every P-die, X-die and M-base ends with a link to the mesh and at least 736
tiles are enabled, it ends READY with MOD_READY asserted, ALERT_N deasserted and core 0 of P0 released at address 0 in machine mode. A
named failure, a die cut off, as where both C-dies of a column are lost, or too few tiles end it FAILED: the main domain is reset,
CODE is E_DIE_FATAL, ALERT_N is asserted, and E_DIE_FATAL is reported with the phase. CODE's value (DEDUCED, log entry 45), the record's
severity (DESIGN CHOICE, log entry 26), which of several cut-off dies DIE names (DESIGN CHOICE, log entry 98) and memory that lists nothing
(DESIGN CHOICE, log entry 7) are the model's. -/
def Obligations.MainStartupEndsReadyOrFailed : Prop :=
  let fails (t : State) (die ph : Nat) : Prop :=
    phase t = 9 ∧ rf t .dlkBoot 14 0 0 63 48 = 0xD81 ∧ t.pins.modReady = false ∧ t.pins.alertN = false ∧ t.uszon.startFailed = true ∧
      t.jobs = [] ∧ t.mem = [] ∧ (∀ n, dieSt t n ≠ dsActive) ∧ t.uszon.faults.getLast? = some ⟨0xD81, die, 3, ph, 0⟩
  ∀ (r : StartupResult) (s : State), Canonical s → phase s = 4 → s.pins.rails = true → s.pins.modResetN = true → s.holds = [] →
    let x := startDies (rfset s .dlkStraps 14 0 0 8 8 (b2n r.memMode)) r
    (r.failure = none → cutOff x = none → 736 ≤ goodTiles r →
      ∃ t, exec (.mainStartup r) s = .next t ∧ phase t = 7 ∧ t.pins.modReady = true ∧ t.pins.alertN = true ∧
        rf t .dlkBoot 14 0 0 31 16 = Nat.min 0xFFFF r.elapsedMs ∧ rf t .dlkCoreRelease 8 0 0 0 0 = 1 ∧
        mget CoreSt.reset t.cores 0 =
          { released := true, machine := true, vec := 0, reservation := none, amo := none, cmo := [] }) ∧
    (∀ (d : Die) (ph : BitVec 4), r.failure = some (d, ph) → ∃ t, exec (.mainStartup r) s = .next t ∧ fails t (dieIdx d) ph.toNat) ∧
    (∀ d, r.failure = none → cutOff x = some d → hasPath x d = false ∧ ∃ t, exec (.mainStartup r) s = .next t ∧ fails t d 4) ∧
    ((∃ k < 3, dieActive x k = false ∧ dieActive x (k + 3) = false) → cutOff x ≠ none) ∧
    (r.failure = none → cutOff x = none → goodTiles r < 736 → ∃ t, exec (.mainStartup r) s = .next t ∧ fails t 0xFF 6)

/-! ### Registers and timebase -/

/-- The access codes of R11, on every field of every register: what a write leaves in the field, from what it held and what is written.
No register of the manual has an RC field. -/
def Obligations.RegisterFieldsFollowTheirAccessCodes : Prop :=
  ∀ r ∈ Reg.all, ∀ f ∈ r.spec.fields, ∀ old new : Nat, old < 2 ^ 64 → new < 2 ^ 64 →
    f.acc ≠ .rc ∧ f.lo ≤ f.hi ∧ f.hi < 64 ∧
    bits (r.spec.write old new) f.hi f.lo =
      match f.acc with
      | .rw => bits new f.hi f.lo
      | .ro => bits old f.hi f.lo
      | .wo => 0
      | .w1c => bits old f.hi f.lo &&& ((2 ^ 64 - 1) ^^^ bits new f.hi f.lo)
      | .w1s => bits old f.hi f.lo ||| bits new f.hi f.lo
      | .rc => 0

/-- The registers whose write does more than R11 says: each has a command of its own, or a rule that restricts the values it takes. -/
def Sys2Proof.Machine.ruledRegs : List Reg :=
  [.dlkDieResetCtl, .mbxFaultSoft, .flsStat, .l1cCtl, .grtOwner, .grtQcfg, .drpRngCfg, .dccCtl, .dccLock, .dccMaintCmd, .memCfg,
   .lpdCfg, .memErrLog0, .lpdErrLog0, .smpDrainCmd, .lpdDrainCmd, .cohAmoCtl, .jobQcfg, .jobQptr, .jobCtl, .fabPortCtl, .fabNode,
   .fabQcfg, .hifWinBase, .hifHqCfg, .hifHqSqbase, .hifHqCqbase, .dlkLinkCtl, .rimPaceCtl, .rimModBudget, .telEpochCtl,
   .dlkCoreRelease]

/-- A register's address (R8): 0xF000_0000_0000, the die index shifted left by 32 and the offset within the die, so that bits 47:40 hold
0xF0, bits 39:32 the die index and bits 31:0 the offset; and the register that an offset of a die names has that address. -/
def Obligations.RegisterAddressesHoldDieAndOffset : Prop :=
  ∀ die off : Nat, die < 256 → off < 2 ^ 32 →
    let a := 0xF00000000000 + die <<< 32 + off
    a < 2 ^ 48 ∧ bits a 47 40 = 0xF0 ∧ bits a 39 32 = die ∧ bits a 31 0 = off ∧
      ∀ r i j, regAt die off = some (r, i, j) → regAddr r die i j = a

/-- An access to a register window of an unused die index reads all ones and discards writes (R3). -/
def Obligations.UnusedDieIndicesReadOnes : Prop :=
  ∀ (die off : Nat), (die = 6 ∨ die = 7 ∨ (28 ≤ die ∧ die ≤ 255)) → off < 2 ^ 32 →
    (∀ s : State, regRead s (0xF00000000000 + die <<< 32 + off) = 2 ^ 64 - 1) ∧
    (∀ (a : Agent) (n : Nat) (v : W64) (s : State),
      exec (.registerWrite a (BitVec.ofNat 48 (0xF00000000000 + die <<< 32 + off)) n v) s = .next s)

/-- An aligned 64-bit write of a register that answers, by an agent that may write it, acts on all its fields together (R9-R11) and on no
other register and nothing else; the wrong width or alignment, an agent that may not write it, and a register that does not answer leave
everything as it was. Error logs, ring bases, the power budget, the node ID, the epoch period and a mailbox's registers act under their
rules (R340, R343, R437, R466, R513, R520, R541). That a refused access has no effect at all is the model's choice (DEDUCED, log entry
94). An offset that no register occupies, of whatever die, discards writes, and reads all ones unless it is the shadow of a counter (R12,
R539). -/
def Obligations.RegisterWritesActOnTheirRegisterAlone : Prop :=
  ((∀ (a : Agent) (addr : BitVec 48) (v : W64) (s : State) (r : Reg) (i j : Nat), Canonical s →
    regAligned addr.toNat 8 = true → regAt (bits addr.toNat 39 32) (bits addr.toNat 31 0) = some (r, i, j) →
    regUp s r (bits addr.toNat 39 32) i = true → mailboxOf r i = none → agentMay a r.spec.writers = true → r ∉ ruledRegs →
    ∃ t, exec (.registerWrite a addr 8 v) s = .next t ∧ OnlyRegs s t ∧
      rget t r (bits addr.toNat 39 32) (regHome r i) j = r.spec.write (rget s r (bits addr.toNat 39 32) (regHome r i) j) v.toNat ∧
      SameRegsBut [regAddr r (bits addr.toNat 39 32) (regHome r i) j] s t) ∧
  (∀ (a : Agent) (addr : BitVec 48) (n : Nat) (v : W64) (s : State), (n ≠ 8 ∨ addr.toNat % 8 ≠ 0) →
    exec (.registerWrite a addr n v) s = .next s) ∧
  (∀ (a : Agent) (addr : BitVec 48) (n : Nat) (v : W64) (s : State) (r : Reg) (i j : Nat),
    regAt (bits addr.toNat 39 32) (bits addr.toNat 31 0) = some (r, i, j) →
    (regUp s r (bits addr.toNat 39 32) i = false ∨ (mailboxOf r i = none ∧ agentMay a r.spec.writers = false)) →
    exec (.registerWrite a addr n v) s = .next s) ∧
  (∀ (a : Agent) (addr : BitVec 48) (v : W64) (s : State) (r : Reg) (i j : Nat), Canonical s →
    regAligned addr.toNat 8 = true → regAt (bits addr.toNat 39 32) (bits addr.toNat 31 0) = some (r, i, j) →
    regUp s r (bits addr.toNat 39 32) i = true → mailboxOf r i = none → agentMay a r.spec.writers = true →
    let die := bits addr.toNat 39 32
    let n := v.toNat
    let stays : Prop := exec (.registerWrite a addr 8 v) s = .next s
    let becomes (x : Nat) : Prop := ∃ t, exec (.registerWrite a addr 8 v) s = .next t ∧ rget t r die i j = x ∧ OnlyRegs s t ∧
      SameRegsBut [regAddr r die i j] s t
    (r = .memErrLog0 ∨ r = .lpdErrLog0 → if bit n 63 then becomes (rget s r die i j % 2 ^ 48) else stays) ∧
    (r = .hifHqSqbase ∨ r = .hifHqCqbase →
      if rf s .hifHqCfg 14 0 j 63 63 = 1 then stays else becomes (r.spec.write (rget s r die i j) n)) ∧
    (r = .rimModBudget →
      if 1000 ≤ bits n 63 48 ∧ bits n 63 48 ≤ 3600 ∧ bits n 15 0 ≤ bits n 31 16 ∧ bits n 31 16 ≤ bits n 63 48 then
        becomes (r.spec.write (rget s r die i j) n) else stays) ∧
    (r = .fabNode → if portsDisabled s then becomes (r.spec.write (rget s r die i j) n) else stays) ∧
    (r = .telEpochCtl →
      if 100 ≤ bits n 31 0 ∧ bits n 31 0 ≤ 1000000 then
        ∃ t, exec (.registerWrite a addr 8 v) s = .next t ∧ rget t r die i j = bits n 31 0 ∧ t.uszon.newPeriod = some (bits n 31 0)
      else stays)) ∧
  (∀ (a : Agent) (addr : BitVec 48) (v : W64) (s : State) (r : Reg) (i j m : Nat), Canonical s →
    regAligned addr.toNat 8 = true → regAt (bits addr.toNat 39 32) (bits addr.toNat 31 0) = some (r, i, j) →
    regUp s r (bits addr.toNat 39 32) i = true → mailboxOf r i = some m →
    (mbxOwns a m = false → exec (.registerWrite a addr 8 v) s = .next s) ∧
    (mbxOwns a m = true → r = .mbxAuthCtr ∨ r = .mbxAuthTag0 ∨ r = .mbxAuthTag1 ∨ r = .mbxBuf →
      ∃ t, exec (.registerWrite a addr 8 v) s = .next t ∧ OnlyRegs s t ∧
        if mbxState s m = mbIdle ∨ mbxState s m = mbDone then rget t r 14 i j = v.toNat
        else rget t r 14 i j = rget s r 14 i j ∧ mbxF t m 5 5 = 1) ∧
    (mbxOwns a m = true → r = .mbxCmd → mbxState s m = mbIdle ∨ mbxState s m = mbDone → mbxOpcodes.contains (bits v.toNat 15 0) = true →
      ∃ t, exec (.registerWrite a addr 8 v) s = .next t ∧ mbxState t m = mbBusy ∧ mbxF t m 47 32 = bits v.toNat 63 48))) ∧
  (∀ (a : Agent) (addr : BitVec 48) (n : Nat) (v : W64) (s : State),
    regAt (bits addr.toNat 39 32) (bits addr.toNat 31 0) = none →
    exec (.registerWrite a addr n v) s = .next s ∧ (isShadow addr.toNat = false → regRead s addr.toNat = 2 ^ 64 - 1))

/-- Each newly set bit of DLK_CORE_RELEASE releases its core in machine mode at DLK_CORE_VEC.ADDR, with no line and no predictor count
left; the bits that stood, and the cores of other bits, stay (R566). Agents other than Uszon and a core change nothing. -/
def Obligations.CoreReleaseStartsCoresAtTheVector : Prop :=
  (∀ (a : Agent) (p : PDie) (v : W64) (s : State), Canonical s → agentMay a .uszonCore = true → dieActive s (8 + p.val) = true →
    ∃ t, exec (.dlkCoreReleaseWrite a p v) s = .next t ∧
      rget t .dlkCoreRelease (8 + p.val) = rget s .dlkCoreRelease (8 + p.val) ||| v.toNat ∧
      ∀ c < 64,
        if bit v.toNat c = true ∧ bit (rget s .dlkCoreRelease (8 + p.val)) c = false then
          mget CoreSt.reset t.cores (64 * p.val + c) =
            { released := true, machine := true, vec := rf s .dlkCoreVec (8 + p.val) 0 0 47 0, reservation := none, amo := none, cmo := [] } ∧
          (∀ e ∈ t.caches, e.1 / 2 ^ 41 ≠ 64 * p.val + c) ∧ (∀ e ∈ t.wbBuf, e.1 / 2 ^ 41 ≠ 64 * p.val + c) ∧
          ∀ e ∈ t.predictor, e.1 / 256 ≠ 64 * p.val + c
        else mget CoreSt.reset t.cores (64 * p.val + c) = mget CoreSt.reset s.cores (64 * p.val + c)) ∧
  (∀ (a : Agent) (p : PDie) (v : W64) (s : State), agentMay a .uszonCore = false → exec (.dlkCoreReleaseWrite a p v) s = .next s)

/-- A synchronisation never moves a copy backwards: a copy behind or at the master takes its value, a copy ahead holds (R33). -/
def Obligations.TimebaseSyncNeverMovesBack : Prop :=
  ∀ (d : Die) (s : State), dieIdx d ≠ 14 → dieActive s (dieIdx d) = true → s.copies.rising →
    ∃ t, exec (.timebaseSync d) s = .next t ∧
      mget 0 t.copies (dieIdx d) = (if s.master.toNat < (mget 0 s.copies (dieIdx d)).toNat then mget 0 s.copies (dieIdx d) else s.master) ∧
      (s.master.toNat < (mget 0 s.copies (dieIdx d)).toNat → t.copyHeld.contains (dieIdx d) = true) ∧
      { t with copies := s.copies, copyHeld := s.copyHeld } = s

/-! ### Losing a die and bringing it back -/

/-- No die but its L-die loses its only path into the mesh with C-die `k` (R37, R474): the others have one with `k`'s links fenced. -/
def Sys2Proof.Machine.LossStaysLocal (s : State) (k : Nat) : Prop :=
  ∀ l ∈ linkList, ∀ p pl, linkPartner k l = some (p, pl) → lDieOf k ≠ some p → dieActive s p = true →
    hasPath (linksFenced (setDieSt s k dsLost) k) p = true

/-- A C-die that is lost while its column partner is ACTIVE is LOST with its cause, its stacks' requests are held until the M-link
switch, and E_DIE_LOST is reported (R37, R38, R46), with the severity that the model gives the record (DESIGN CHOICE, log entry 26). A missed
heartbeat and the loss of its Grotto or network clock lose it with causes 5 and 2 (R32). -/
def Obligations.LostCDieHoldsItsStacks : Prop :=
  ∀ (k : CDie) (s : State), Canonical s → dieActive s k.val = true → dieActive s (colPartner k.val) = true →
    LossStaysLocal s k.val →
    let lostWith (c : Nat) (t : State) : Prop :=
      dieSt t k.val = dsLost ∧ rf t .dlkDieState 14 0 k.val 23 20 = c ∧ 2 * k.val ∈ t.heldStacks ∧ 2 * k.val + 1 ∈ t.heldStacks ∧
        t.uszon.faults.getLast? = some ⟨0xD80, k.val, 1, 0, 0⟩
    (∀ why : LossCause, ∃ t, exec (.cDieLoss k why) s = .next t ∧ lostWith (lossCode why) t) ∧
    (∃ t, exec (.heartbeatMissed (.c k)) s = .next t ∧ lostWith 5 t) ∧
    (∃ t, exec (.islandClockLoss (.c k) .grotto) s = .next t ∧ lostWith 2 t) ∧
    (∃ t, exec (.islandClockLoss (.c k) .network) s = .next t ∧ lostWith 2 t)

/-- A fatal loss (R37, R41, R45, R568): of an active P-die, X-die or M-base, and of a C-die whose column partner is not ACTIVE. The die is
FATAL with its cause, no die counts as active any more, every job ends and no record is written to memory or to the host (R393; DESIGN CHOICE,
log entry 138), ALERT_N is asserted, E_DIE_FATAL is reported with the model's severity (DESIGN CHOICE, log entry 26), and the hold of cause
4 stands. -/
def Obligations.FatalLossStopsTheMainDomain : Prop :=
  (∀ (d : Die) (why : LossCause) (s : State), Canonical s → s.jobs = [] → dieActive s (dieIdx d) = true → lossFatal s (dieIdx d) = true →
    ∃ t, exec (.fatalLoss d why) s = .next t ∧ dieSt t (dieIdx d) = dsFatal ∧ rf t .dlkDieState 14 0 (dieIdx d) 23 20 = lossCode why ∧
      (∀ n, dieActive t n = false) ∧ t.pins.alertN = false ∧ phase t = 8 ∧ rf t .dlkBoot 14 0 0 11 8 = 4) ∧
  (∀ (d : Die) (why : LossCause) (s : State), Canonical s → dieActive s (dieIdx d) = true → lossFatal s (dieIdx d) = true →
    ∃ t, exec (.fatalLoss d why) s = .next t ∧ t.jobs = [] ∧ t.hostSubmits = [] ∧ t.pins.alertN = false ∧ phase t = 8 ∧
      t.mem = s.mem ∧ (∀ n d, HostPost.write n d ∈ t.host.sent → HostPost.write n d ∈ s.host.sent) ∧
      ⟨0xD81, dieIdx d, 3, 0, 0⟩ ∈ t.uszon.faults) ∧
  (∀ (k : CDie) (why : LossCause) (s : State), Canonical s → dieActive s k.val = true → dieActive s (colPartner k.val) = false →
    ∃ t, exec (.cDieLoss k why) s = .next t ∧ t.jobs = [] ∧ t.pins.alertN = false ∧ phase t = 8)

/-- An L-die that is lost keeps no connection, and is HELD exactly where a command holds it, else in the rejoin that Uszon makes of it (R40,
R42, R47, R577; DEDUCED, log entry 81); the record's severity is the model's (DESIGN CHOICE, log entry 26). The end of a C-die's loss
(R38): the switch moves its stacks to their secondary M-links and lets their requests go; fencing its tiles enters none in the fence
record; and once both are done the die is REJOINING, or HELD (DEDUCED, log entry 81). An L-die that waited for its C-die is rejoined when
that is ACTIVE (R577). -/
def Obligations.LossSequencesComplete : Prop :=
  (∀ (l : LDie) (why : LossCause) (s : State), Canonical s → dieActive s (10 + l.val) = true → why ≠ .carrier →
    (dieActive s (cDieOf (10 + l.val)) = true → hasPath s (cDieOf (10 + l.val)) = true) →
    ∃ t, exec (.lDieLoss l why) s = .next t ∧
      dieSt t (10 + l.val) = (if s.holdDies.contains (10 + l.val) then dsHeld else dsRejoining) ∧
      rf t .dlkDieState 14 0 (10 + l.val) 23 20 = lossCode why ∧
      (∀ e ∈ t.conns, connDie e.1 ≠ 10 + l.val) ∧ t.uszon.faults.getLast? = some ⟨0xD80, 10 + l.val, 1, 0, 0⟩) ∧
  ((∀ (k : CDie) (s : State), Canonical s → 2 * k.val ∈ s.heldStacks →
    ∃ t, exec (.mLinkSwitch k) s = .next t ∧ t.heldStacks = kdel (kdel s.heldStacks (2 * k.val)) (2 * k.val + 1) ∧
      rf t .dlkDieState 14 0 (16 + 2 * k.val) 16 16 = 1 ∧ rf t .dlkDieState 14 0 (17 + 2 * k.val) 16 16 = 1) ∧
  (∀ (k : CDie) (s : State), Canonical s → 2 * k.val ∈ s.heldStacks → dieSt s k.val = dsLost →
    (∀ t ∈ dieTiles k.val, tilePresent s t = false) →
    ∃ t, exec (.mLinkSwitch k) s = .next t ∧ dieSt t k.val = (if s.holdDies.contains k.val then dsHeld else dsRejoining)) ∧
  (∀ (k : CDie) (s : State), Canonical s → dieSt s k.val = dsLost → anyFatal s = false → s.jobs = [] →
    ∃ t, exec (.lostDieTilesFenced k) s = .next t ∧ (∀ u ∈ dieTiles k.val, tileFenced t u = true) ∧ t.flash = s.flash) ∧
  (∀ (l : LDie) (s : State), Canonical s → dieSt s (10 + l.val) = dsLost →
    (dieActive s (cDieOf (10 + l.val)) = true → s.holdDies.contains (10 + l.val) = false →
      ∃ t, exec (.lDieRejoinOnCActive l) s = .next t ∧ dieSt t (10 + l.val) = dsRejoining) ∧
    (dieActive s (cDieOf (10 + l.val)) = false → exec (.lDieRejoinOnCActive l) s = .next s)))

/-- A rejoin (R42-R44) whose links leave it a path into the mesh ends ACTIVE with no failures counted, the timebase copy at the master's
value, for a C-die and, beside an ACTIVE C-die, for an L-die; a failed attempt counts and is reported, and the third in a row retires the
die. That links for which no command gives an attempt train and pass in the same step is the model's choice (DESIGN CHOICE, log entry
105). A write of DLK_DIE_RESET_CTL is Uszon's (R47): on a HELD die, rejoin and reset-and-rejoin let it go, and reset-and-hold leaves it
held; on an ACTIVE die, reset-and-hold and reset-and-rejoin lose it by command; a die without a reset of its own is refused with
E_DIE_RESET_REFUSED (R36), even once a die is FATAL, where R45 gives every request no effect (DESIGN CHOICE, log entry 104), and every
other agent's write does nothing. The severity of the records is the model's (DESIGN CHOICE, log entry 26). -/
def Obligations.RejoinsAndDieActions : Prop :=
  ((∀ (d : RDie) (r : RejoinResult) (s : State), Canonical s → dieSt s (rdieIdx d) = dsRejoining → anyFatal s = false →
    (isL (rdieIdx d) = true → dieActive s (cDieOf (rdieIdx d)) = true) → let x := linksFinish s (rdieIdx d)
    dieSt x (rdieIdx d) = dsRejoining → anyFatal x = false → hasPath x (rdieIdx d) = true → Canonical x →
    ∃ t, exec (.dieRejoin d r) s = .next t ∧ dieSt t (rdieIdx d) = dsActive ∧ rf t .dlkDieState 14 0 (rdieIdx d) 15 8 = 0 ∧
      (x.copies.rising → mget 0 t.copies (rdieIdx d) = x.master)) ∧
  (∀ (d : RDie) (s : State), Canonical s → dieSt s (rdieIdx d) = dsRejoining → anyFatal s = false →
    rf s .dlkDieState 14 0 (rdieIdx d) 15 8 < 255 →
    ∃ t, exec (.dieRejoinFailed d) s = .next t ∧
      dieSt t (rdieIdx d) = (if 2 ≤ rf s .dlkDieState 14 0 (rdieIdx d) 15 8 then dsRetired else dsRejoining) ∧
      rf t .dlkDieState 14 0 (rdieIdx d) 15 8 = rf s .dlkDieState 14 0 (rdieIdx d) 15 8 + 1 ∧
      t.uszon.faults = s.uszon.faults ++ [⟨0xD83, rdieIdx d, 1, 0, 0⟩])) ∧
  ((∀ (x : BitVec 8) (s : State), Canonical s → s.pins.aux = true → s.pins.auxReset = false → isC x.toNat = true ∨ isL x.toNat = true →
    anyFatal s = false → dieSt s x.toNat = dsHeld →
    (∃ t, exec (.dieActionRejoin .uszon x) s = .next t ∧ dieSt t x.toNat = dsRejoining ∧ t.holdDies = kdel s.holdDies x.toNat) ∧
    (∃ t, exec (.dieActionResetRejoin .uszon x) s = .next t ∧ dieSt t x.toNat = dsRejoining ∧ t.holdDies = kdel s.holdDies x.toNat) ∧
    exec (.dieActionResetHold .uszon x) s = .next s) ∧
  (∀ (x : BitVec 8) (s : State), Canonical s → s.pins.aux = true → s.pins.auxReset = false → isC x.toNat = true ∨ isL x.toNat = true →
    anyFatal s = false → dieSt s x.toNat = dsActive →
    exec (.dieActionResetHold .uszon x) s = .next (dieLossEvent { s with holdDies := kins s.holdDies x.toNat } x.toNat 1) ∧
    exec (.dieActionResetRejoin .uszon x) s = .next (dieLossEvent s x.toNat 1)) ∧
  (∀ (x : BitVec 8) (s : State), s.pins.aux = true → s.pins.auxReset = false → isC x.toNat = false → isL x.toNat = false →
    exec (.dieActionResetHold .uszon x) s = .next (report s 0xD82 x.toNat 1 0 0) ∧
    exec (.dieActionRejoin .uszon x) s = .next (report s 0xD82 x.toNat 1 0 0) ∧
    exec (.dieActionResetRejoin .uszon x) s = .next (report s 0xD82 x.toNat 1 0 0)) ∧
  (∀ (a : Agent) (x : BitVec 8) (s : State), a ≠ .uszon →
    exec (.dieActionResetHold a x) s = .next s ∧ exec (.dieActionRejoin a x) s = .next s ∧ exec (.dieActionResetRejoin a x) s = .next s))

/-! ### The tile's arithmetic -/

/-- An instruction that computes lane by lane: its command, its operand form, whether it is an I form, the condition on MOD and
immediate that makes its word illegal, and what a lane computes from TYPE, the three sources and the destination's previous value. -/
structure Sys2Proof.Machine.AluRow where
  command : TileId → Slot → BitVec 56 → Instr
  form : Nat → Form
  iform : Bool
  bad : Nat → Bool
  op : Nat → Nat → Nat → Nat → Nat → Nat → Nat

/-- The group `gr` may issue the word, nothing is illegal in it and no load will still write what it names (R53, R54, R57). -/
def Sys2Proof.Machine.issues (f : Form) (iform bad : Bool) (t g w : Nat) (s s' : State) (gr : Group) : Prop :=
  ready s t g = some (gr, s') ∧ f.check iform (tile s t).alloc w bad = 0 ∧
    loadsTouch gr (f.touches iform w).1 (f.touches iform w).2 = false

/-- The lanes that an instruction writes: the active ones whose guard is true (R58), and of a scalar destination one (R62). -/
def Sys2Proof.Machine.writtenLanes (f : Form) (w : Nat) (gr : Group) : List Nat := if f.isScalar w then gr.active.take 1 else lanesOf gr w

/-- The group after a lane instruction: each written lane's destination holds what the operation gives of the sources as they were
before the instruction, the lanes in order, and the pc goes on by one word (R55). What the upper half of a 128-bit scalar source holds, which the manual does
not state, is a free function of the register's value (DESIGN CHOICE, log entry 65). -/
def Sys2Proof.Machine.laneResult (r : AluRow) (w : Nat) (gr : Group) : Group :=
  let f := r.form w
  let ty := fTy w
  let n := match f.dst with | .pred => 1 | _ => tyRegs ty
  ((writtenLanes f w gr).foldl (fun x l =>
    dstWrite x (fDk w) (fDst w) n l
      (r.op w ty (Form.read gr f.a ty (fAk w) (fA w) l)
        (if r.iform then immValue ty w else Form.read gr f.b ty (fBk w) (fB w) l)
        (if r.iform then 0 else Form.read gr f.c ty (fCk w) (fC w) l)
        (srcRead gr (fDk w) (fDst w) n l))) gr).step

/-- What is said of every row: where its word issues it completes with the result above and nothing else changed; where its operands
are illegal or beyond the allocation it takes the precise fault of R57; where the group may not issue, or a load is due, it waits. -/
def Sys2Proof.Machine.alu (r : AluRow) : Prop :=
  ∀ (t : TileId) (g : Slot) (w : BitVec 56) (s s' : State) (gr : Group),
    (issues (r.form w.toNat) r.iform (r.bad w.toNat) t g w.toNat s s' gr →
      exec (r.command t g w) s = .next (setGroup s' t g (laneResult r w.toNat gr))) ∧
    (ready s t g = some (gr, s') → (r.form w.toNat).check r.iform (tile s t).alloc w.toNat (r.bad w.toNat) ≠ 0 →
      exec (r.command t g w) s =
        .next (preciseFault s' t g ((r.form w.toNat).check r.iform (tile s t).alloc w.toNat (r.bad w.toNat)))) ∧
    (ready s t g = none → exec (r.command t g w) s = .next s)

/-- mov, sel and plog, and the integer instructions with each of their forms (R62, R576). -/
def Sys2Proof.Machine.integerRows : List AluRow :=
  [⟨.mov, fun _ => form1 tyAny true, false, modNone false, fun _ _ a _ _ _ => a⟩,
   ⟨.movi, fun _ => ⟨[0, 1, 4], .value true, .none, .none, .none, false⟩, true, modNone true, fun _ _ _ b _ _ => b⟩,
   ⟨.mulHi, fun _ => form2 tyInt true, false, modNone false, fun _ ty a b _ _ => iMulHi ty a b⟩,
   ⟨.mad, fun _ => form3 [0, 1] true, false, modNone false, fun _ ty a b c _ => iMad ty a b c⟩,
   ⟨.popc, fun _ => form1 tyU true, false, modNone false, fun _ ty a _ _ _ => iPopc ty a⟩,
   ⟨.clz, fun _ => form1 tyU true, false, modNone false, fun _ ty a _ _ _ => iClz ty a⟩,
   ⟨.brev, fun _ => form1 tyU true, false, modNone false, fun _ ty a _ _ _ => iBrev ty a⟩,
   ⟨.bfe, fun _ => form3 tyInt true, false, modNone false, fun _ ty a b c _ => iBfe ty a b c⟩,
   ⟨.bfi, fun _ => form3 tyInt true, false, modNone false, fun _ ty a b c old => iBfi ty a b c old⟩,
   ⟨.not false, fun _ => form1 tyU true, false, modNone false, fun _ ty a _ _ _ => iNot ty a⟩,
   ⟨.not true, fun _ => ⟨tyU, .value true, .none, .none, .none, false⟩, true, fun w => modNone true w || bits w 35 26 != 0,
     fun _ ty _ b _ _ => iNot ty b⟩]
  ++ [false, true].flatMap fun i =>
    [⟨.add i, fun _ => form2 tyInt true, i, modNone i, fun _ ty a b _ _ => iAdd ty a b⟩,
     ⟨.sub i, fun _ => form2 tyInt true, i, modNone i, fun _ ty a b _ _ => iSub ty a b⟩,
     ⟨.mulLo i, fun _ => form2 tyInt true, i, modNone i, fun _ ty a b _ _ => iMulLo ty a b⟩,
     ⟨.min i, fun _ => form2 tyInt true, i, modNone i, fun _ ty a b _ _ => iMin ty a b⟩,
     ⟨.max i, fun _ => form2 tyInt true, i, modNone i, fun _ ty a b _ _ => iMax ty a b⟩,
     ⟨.and i, fun _ => form2 tyU true, i, modNone i, fun _ _ a b _ _ => a &&& b⟩,
     ⟨.or i, fun _ => form2 tyU true, i, modNone i, fun _ _ a b _ _ => a ||| b⟩,
     ⟨.xor i, fun _ => form2 tyU true, i, modNone i, fun _ _ a b _ _ => a ^^^ b⟩,
     ⟨.shl i, fun _ => form2 tyU true, i, modNone i, fun _ ty a b _ _ => iShl ty a b⟩,
     ⟨.shr i, fun _ => form2 tyU true, i, modNone i, fun _ ty a b _ _ => iShr ty a b⟩,
     ⟨.sra i, fun _ => form2 tyU true, i, modNone i, fun _ ty a b _ _ => iSra ty a b⟩]

/-- The floating instructions and conversions (R62, R64, R65, R576). -/
def Sys2Proof.Machine.floatRows : List AluRow :=
  [⟨.fmin, fun _ => form2 tyFp false, false, modNone false, fun _ ty a b _ _ => fpMin ty a b⟩,
   ⟨.fmax, fun _ => form2 tyFp false, false, modNone false, fun _ ty a b _ _ => fpMax ty a b⟩,
   ⟨.fma false, fun _ => form3 tyFp false, false, modRound false, fun w ty a b c _ => fpFma (rndW false w) ty a b c⟩,
   ⟨.fma true, fun _ => form2 tyFp false, true, modRound true, fun w ty a b _ old => fpFma (rndW true w) ty a b old⟩,
   ⟨.rcp, fun _ => form1 [4] false, false, modNone false, fun _ _ a _ _ _ => fnRcp a⟩,
   ⟨.rsqrt, fun _ => form1 [4] false, false, modNone false, fun _ _ a _ _ _ => fnRsqrt a⟩,
   ⟨.sqrt, fun _ => form1 [4] false, false, modRound false, fun w _ a _ _ _ => fsqrt fmtF32 (rndW false w) a⟩,
   ⟨.exp2, fun _ => form1 [4] false, false, modNone false, fun _ _ a _ _ _ => fnExp2 a⟩,
   ⟨.log2, fun _ => form1 [4] false, false, modNone false, fun _ _ a _ _ _ => fnLog2 a⟩,
   ⟨.sin, fun _ => form1 [4] false, false, modNone false, fun _ _ a _ _ _ => fnTrig false a⟩,
   ⟨.cos, fun _ => form1 [4] false, false, modNone false, fun _ _ a _ _ _ => fnTrig true a⟩,
   ⟨.cvt, fun w => ⟨tyCvt, .value false, .code (fMod w / 4), .none, .none, false⟩, false, cvtBad,
     fun w ty a _ _ _ => convert (rndW false w) (fMod w / 4) ty a⟩]
  ++ [false, true].flatMap fun i =>
    [⟨.fadd i, fun _ => form2 tyFp false, i, modRound i, fun w ty a b _ _ => fpAdd (rndW i w) ty a b⟩,
     ⟨.fsub i, fun _ => form2 tyFp false, i, modRound i, fun w ty a b _ _ => fpSub (rndW i w) ty a b⟩,
     ⟨.fmul i, fun _ => form2 tyFp false, i, modRound i, fun w ty a b _ _ => fpMul (rndW i w) ty a b⟩]

/-- pcmp with its relation in MOD or, in the I form, in the opcode; sel; plog (R62, R576). -/
def Sys2Proof.Machine.predicateRows : List AluRow :=
  [⟨.pcmp none, fun _ => ⟨tyNum, .pred, .typed, .typed, .none, false⟩, false, fun w => fMod w % 4 != 0 || decide (8 ≤ fMod w / 4),
     fun w ty a b _ _ => b2n (relation (fMod w / 4) ty a b)⟩,
   ⟨.sel, fun _ => ⟨tyAny, .value false, .typed, .typed, .pred, false⟩, false, modNone false, fun _ _ a b c _ => if c = 1 then a else b⟩,
   ⟨.plog, fun w => ⟨tyAny, .pred, .pred, if fMod w / 4 = 3 then .none else .pred, .none, false⟩, false,
     fun w => fMod w % 4 != 0 || decide (4 ≤ fMod w / 4), fun w _ a b _ _ => b2n (predLogic (fMod w / 4) (a == 1) (b == 1))⟩]
  ++ (List.finRange 8).map fun r =>
    ⟨.pcmp (some r), fun _ => ⟨tyNum, .pred, .typed, .typed, .none, false⟩, true, fun w => fImod w != 0,
      fun _ ty a b _ _ => b2n (relation r.val ty a b)⟩

/-- Every move and integer instruction computes lane by lane what its row of "Tile instruction set" says. That a result narrower than its
register has zeros above it (DESIGN CHOICE, log entry 108) and that an operand of the wrong kind is illegal, before its range is looked at (DESIGN
CHOICE, log entry 107), are the model's choices. -/
def Obligations.IntegerInstructionsComputeTheirRows : Prop := ∀ r ∈ integerRows, alu r

/-- Every floating instruction, fixed function and conversion computes lane by lane what its row says. The last bits of a fixed function
are free within the bound of R64 (DESIGN CHOICE, log entry 64); an f16 or bf16 result has zeros above it (DESIGN CHOICE, log entry 108); an
operand of the wrong kind is illegal, before its range is looked at (DESIGN CHOICE, log entry 107). -/
def Obligations.FloatingInstructionsComputeTheirRows : Prop := ∀ r ∈ floatRows, alu r

/-- Every predicate instruction computes lane by lane what its row says. A packed TYPE is illegal for pcmp (DEDUCED, log entry 66), and an
operand of the wrong kind for all of them, before its range is looked at (DESIGN CHOICE, log entry 107). -/
def Obligations.PredicateInstructionsComputeTheirRows : Prop := ∀ r ∈ predicateRows, alu r

/-- The integer operations are those of two's complement words: sums, differences, products and their high halves, order, shifts by
the amount modulo the width, complement and exchange of bits agree with the arithmetic of bit vectors, for each integer TYPE. -/
def Obligations.IntegerOperationsAreTwosComplement : Prop :=
  ∀ ty ∈ tyInt, ∀ x y z : BitVec (tyWidth ty),
    iAdd ty x.toNat y.toNat = (x + y).toNat ∧ iSub ty x.toNat y.toNat = (x - y).toNat ∧
    iMulLo ty x.toNat y.toNat = (x * y).toNat ∧ iMad ty x.toNat y.toNat z.toNat = (x * y + z).toNat ∧
    iNot ty x.toNat = (~~~x).toNat ∧
    iMulHi ty x.toNat y.toNat =
      (if ty % 2 = 1 then ((x.signExtend (2 * tyWidth ty) * y.signExtend (2 * tyWidth ty)) >>> tyWidth ty)
       else ((x.setWidth (2 * tyWidth ty) * y.setWidth (2 * tyWidth ty)) >>> tyWidth ty)).toNat % 2 ^ tyWidth ty ∧
    iMin ty x.toNat y.toNat = (if (if ty % 2 = 1 then x.slt y else x.ult y) then x else y).toNat ∧
    iMax ty x.toNat y.toNat = (if (if ty % 2 = 1 then x.slt y else x.ult y) then y else x).toNat ∧
    iShl ty x.toNat y.toNat = (x <<< (y.toNat % tyWidth ty)).toNat ∧
    iShr ty x.toNat y.toNat = (x >>> (y.toNat % tyWidth ty)).toNat ∧
    iSra ty x.toNat y.toNat = (x.sshiftRight (y.toNat % tyWidth ty)).toNat ∧
    iBrev ty x.toNat = x.reverse.toNat

/-- nop does nothing but go on; movl writes its 32-bit immediate; rdlane, vote, shfl and rdsr read other lanes, predicates and special
registers (R62, R66). SR_CLOCK never goes back on a tile, and its value is otherwise free (DESIGN CHOICE, log entry 67); rdsr gives the
low bits of a special register that is wider than its TYPE (DESIGN CHOICE, log entry 109). -/
def Obligations.LaneExchangesReadOtherLanes : Prop :=
  (∀ (t : TileId) (g : Slot) (w : BitVec 56) (s s' : State) (gr : Group), ready s t g = some (gr, s') →
    (form0 tyAny).check false (tile s t).alloc w.toNat (modNone false w.toNat) = 0 → loadsTouch gr [] [] = false →
    exec (.nop t g w) s = .next (setGroup s' t g gr.step)) ∧
  (∀ (t : TileId) (g : Slot) (w : BitVec 56) (s s' : State) (gr : Group),
    issues ⟨[0, 4], .value true, .none, .none, .none, false⟩ true (bits w.toNat 35 32 != 0) t g (fset w.toNat 35 34 0) s s' gr →
    exec (.movl t g w) s = .next (setGroup s' t g ((writtenLanes ⟨[0, 4], .value true, .none, .none, .none, false⟩ (fset w.toNat 35 34 0) gr).foldl
      (fun x l => dstWrite x (fDk (fset w.toNat 35 34 0)) (fDst (fset w.toNat 35 34 0)) 1 l (bits w.toNat 31 0)) gr).step)) ∧
  (∀ (t : TileId) (g : Slot) (w : BitVec 56) (s s' : State) (gr : Group), fMod w.toNat / 4 < 2 →
    issues ⟨tyAny, .pred, .pred, .none, .none, true⟩ false (fMod w.toNat % 4 != 0) t g w.toNat s s' gr →
    exec (.vote t g w) s = .next (setGroup s' t g ((lanesOf gr w.toNat).foldl (fun x l => pset x (fDst w.toNat) l
      (if fMod w.toNat / 4 = 0 then (lanesOf gr w.toNat).any (fun m => pget gr (fA w.toNat) m)
       else (lanesOf gr w.toNat).all fun m => pget gr (fA w.toNat) m)) gr).step)) ∧
  (∀ (t : TileId) (g : Slot) (w : BitVec 56) (s s' : State) (gr : Group), fMod w.toNat / 4 = 2 → gr.active ≠ [] →
    issues ⟨tyAny, .scalar, .pred, .none, .none, true⟩ false (fMod w.toNat % 4 != 0) t g w.toNat s s' gr →
    exec (.vote t g w) s = .next (setGroup s' t g
      (sset gr (fDst w.toNat) (((lanesOf gr w.toNat).filter fun m => pget gr (fA w.toNat) m).foldl (fun m l => m + 2 ^ l) 0)).step)) ∧
  (∀ (i : Bool) (t : TileId) (g : Slot) (w : BitVec 56) (s s' : State) (gr : Group),
    issues ⟨[0], .value false, .typed, .code 0, .none, false⟩ i (!i && (fMod w.toNat % 4 != 0 || decide (4 ≤ fMod w.toNat / 4))) t g
      w.toNat s s' gr →
    exec (.shfl i t g w) s = .next (setGroup s' t g ((lanesOf gr w.toNat).foldl (fun x l => dstWrite x 0 (fDst w.toNat) 1 l
      (srcRead gr (fAk w.toNat) (fA w.toNat) 1
        (shflLane (if i then fImod w.toNat else fMod w.toNat / 4) l
          (if i then immValue 0 w.toNat else srcRead gr (fBk w.toNat) (fB w.toNat) 1 l)))) gr).step)) ∧
  (∀ (i : Bool) (t : TileId) (g : Slot) (w : BitVec 56) (s s' : State) (gr : Group), gr.active ≠ [] →
    issues ⟨tyU, .scalar, .typed, .code 0, .none, true⟩ i (modNone i w.toNat) t g w.toNat s s' gr →
    exec (.rdlane i t g w) s = .next (setGroup s' t g (sset gr (fDst w.toNat)
      (srcRead gr (fAk w.toNat) (fA w.toNat) (tyRegs (fTy w.toNat))
        ((if i then immValue 0 w.toNat else srcRead gr (fBk w.toNat) (fB w.toNat) 1 0) % 32))).step)) ∧
  (∀ (t : TileId) (g : Slot) (w : BitVec 56) (s s' : State) (gr : Group), srKnown (fImm24 w.toNat) = true →
    issues ⟨tyU, .value true, .none, .none, .none, false⟩ true (modNone true w.toNat) t g w.toNat s s' gr →
    let c := if fImm24 w.toNat = 8 then tileClock s' t else (0, s')
    let put (x : Group) (l : Nat) : Group := dstWrite x (fDk w.toNat) (fDst w.toNat) (tyRegs (fTy w.toNat)) l
      (srValue c.2 t g gr (fImm24 w.toNat) l c.1 % 2 ^ tyWidth (fTy w.toNat))
    (fDk w.toNat = 0 → exec (.rdsr t g w) s = .next (setGroup c.2 t g ((lanesOf gr w.toNat).foldl put gr).step)) ∧
    (fDk w.toNat = 1 → fImm24 w.toNat ≠ 0 → gr.active ≠ [] → exec (.rdsr t g w) s = .next (setGroup c.2 t g (put gr 0).step)) ∧
    mget 0 s'.tileClocks t ≤ (tileClock s' t).1)

/-! ### The tile's memory and control instructions -/

/-- The group may issue an access: its word is legal, and no load is due. -/
def Sys2Proof.Machine.mayAccess (types : List Nat) (hasDst hasData isAtom scalarOk : Bool) (t g w : Nat) (s s' : State) (gr : Group) : Prop :=
  ready s t g = some (gr, s') ∧ memCheck types hasDst hasData isAtom scalarOk (tile s t).alloc w = 0 ∧
    loadsTouch gr (memTouches hasDst hasData isAtom w).1 (memTouches hasDst hasData isAtom w).2 = false

/-- The group may issue an access, and every lane's address passes the checks of R67. -/
def Sys2Proof.Machine.accesses (types : List Nat) (hasDst hasData isAtom scalarOk : Bool) (t g w : Nat) (s s' : State) (gr : Group) : Prop :=
  mayAccess types hasDst hasData isAtom scalarOk t g w s s' gr ∧ ∀ l ∈ memLanes gr w hasDst, laneCheck s' t w (effAddr gr w l) = 0

/-- The lowest of the lanes whose address fails a check of R67 fails with this code. -/
def Sys2Proof.Machine.failsCheck (t w : Nat) (s' : State) (gr : Group) (hasDst : Bool) (code : Nat) : Prop :=
  code ≠ 0 ∧ ∃ pre l post, memLanes gr w hasDst = pre ++ l :: post ∧ (∀ m ∈ pre, laneCheck s' t w (effAddr gr w m) = 0) ∧
    laneCheck s' t w (effAddr gr w l) = code

/-- Each lane that takes part with its address. -/
def Sys2Proof.Machine.laneAddrs (gr : Group) (w : Nat) (hasDst : Bool) : List (Nat × Nat) := (memLanes gr w hasDst).map fun l => (l, effAddr gr w l)

/-- An SLM access's replays are counted (R70). -/
def Sys2Proof.Machine.replayed (s : State) (t w : Nat) (las : List (Nat × Nat)) : State :=
  count s .tileSlmReplays (tileDie t) (tileSite t) 0 (slmReplays (las.map (·.2)) (tyBytes (fTy w)))

/-- The group of a slot goes on to its next word. -/
def Sys2Proof.Machine.goesOn (s : State) (t g : Nat) : State :=
  match group s t g with
  | some gr => setGroup s t g gr.step
  | none => s

/-- The group lets the tile's global access path go, if a full L1 made it hold it (R286), and goes on. -/
def Sys2Proof.Machine.accessDone (s : State) (t g : Nat) : State := goesOn (if (tile s t).heldBy = some g then setHeld s t none else s) t g

/-- Loads, stores and atomics on SLM (R67-R70, R72-R74): a load writes each lane's register from the bytes at its address, a store puts
each lane's data there, the highest-numbered lane last, and an atomic does its operation at each address; nothing in a device memory
changes. A load of what no Flowstone command may still write reads what stands there, and a store leaves its
data where none may still read or write it (R171). Where a lane's address fails a check, the lowest
such lane's code is the precise fault of the group, for these accesses and for those of the other spaces; that the lowest failing lane
decides, and of one lane's checks alignment first, is the model's choice (DESIGN CHOICE, log entry 106). -/
def Obligations.SlmAccessesReadAndWriteTheirBytes : Prop :=
  (∀ (t : TileId) (g : Slot) (w : BitVec 56) (parity : List Nat) (n : Nat) (s s' : State) (gr : Group), fSpace w.toNat = 1 →
    accesses tyMem true false false true t g w.toNat s s' gr →
    (∀ l ∈ laneAddrs gr w.toNat true, localHazard s' t g 1 l.2 (tyBytes (fTy w.toNat)) = false) →
    ∃ u, exec (.ld t g ⟨w, parity, n⟩) s = .next u ∧ u.mem = s.mem ∧ u.eccCorrected = (correctedBy s' (eccTile t) n).eccCorrected ∧
      group u t g = some ((laneAddrs gr w.toNat true).foldl (fun x l => putLoaded x (fDk w.toNat == 1) (fDst w.toNat) (tyBytes (fTy w.toNat)) l.1
        (ofBytes (slmBytesAt (tile s' t) l.2 (tyBytes (fTy w.toNat))) % 2 ^ (8 * tyBytes (fTy w.toNat)))) gr).step) ∧
  (∀ (t : TileId) (g : Slot) (w : BitVec 56) (s s' : State) (gr : Group), fSpace w.toNat = 1 →
    accesses tyMem false true false false t g w.toNat s s' gr →
    exec (.st t g w) s = .next (accessDone ((laneAddrs gr w.toNat false).foldl (fun x l => storeMarks x t g 1 l.2 (tyBytes (fTy w.toNat)))
      ((laneAddrs gr w.toNat false).foldl (fun x l =>
        slmWrite x t l.2 (toBytes (tyBytes (fTy w.toNat)) (vgetN gr (fMb w.toNat) l.1 (tyRegs (fTy w.toNat)))))
        (replayed s' t w.toNat (laneAddrs gr w.toNat false)))) t g)) ∧
  (∀ (t : TileId) (g : Slot) (w : BitVec 56) (s s' : State) (gr : Group), fSpace w.toNat = 1 →
    accesses tyMem false true false false t g w.toNat s s' gr → (tile s' t).fls = [] → (tile s' t).uncovered = [] →
    ∃ u, exec (.st t g w) s = .next u ∧ u.mem = s.mem ∧ group u t g = some gr.step ∧
      (tile u t).slm = (laneAddrs gr w.toNat false).foldl (fun m l =>
        memPut m l.2 (toBytes (tyBytes (fTy w.toNat)) (vgetN gr (fMb w.toNat) l.1 (tyRegs (fTy w.toNat))))) (tile s' t).slm) ∧
  (∀ (t : TileId) (g : Slot) (w : BitVec 56) (s s' : State) (gr : Group), fSpace w.toNat = 1 →
    accesses [0, 1, 2, 3, 4, 5] true true true false t g w.toNat s s' gr →
    exec (.atom t g w) s = .next (accessDone (atomLocal (replayed s' t w.toNat (laneAddrs gr w.toNat true)) t g w.toNat gr (laneAddrs gr w.toNat true)
      fun x a ops =>
        let r := atomApply (fAop w.toNat) (fTy w.toNat) (ofBytes (slmBytesAt (tile x t) a (tyBytes (fTy w.toNat)))) ops
        (0, r.2, slmWrite x t a (toBytes (tyBytes (fTy w.toNat)) r.1))) t g)) ∧
  (∀ (t : TileId) (g : Slot) (w : BitVec 56) (parity : List Nat) (n : Nat) (s s' : State) (gr : Group) (code : Nat),
    (mayAccess tyMem true false false true t g w.toNat s s' gr → failsCheck t w.toNat s' gr true code →
      exec (.ld t g ⟨w, parity, n⟩) s = .next (preciseFault s' t g code)) ∧
    (mayAccess tyMem false true false false t g w.toNat s s' gr → failsCheck t w.toNat s' gr false code →
      exec (.st t g w) s = .next (preciseFault s' t g code)) ∧
    (mayAccess [0, 1, 2, 3, 4, 5] true true true false t g w.toNat s s' gr → failsCheck t w.toNat s' gr true code →
      exec (.atom t g w) s = .next (preciseFault s' t g code)))

/-- Accesses to the local Grotto (R67, R186-R189) and to global addresses (R67, R385): once every lane's address translates, the load,
store or atomic is handed to the tile's L1 or its die and the group goes on; a lane that does not translate stops the access before any
lane's is made, with its code and its address. A load for which the L1 has no room holds the tile's global access path, and while
another group holds it a global access waits (R286). A prefetch goes on whatever its addresses are (R62). The lowest lane that does not
translate gives the code (R383, R386). That a Grotto access is performed at issue, in one step, and that its failure is imprecise, are log
entries 17 (DEDUCED) and 46 (DESIGN CHOICE). -/
def Obligations.OuterAccessesAreHandedOn : Prop :=
  (∀ (t : TileId) (g : Slot) (w : BitVec 56) (s s' : State) (gr : Group), fSpace w.toNat = 2 →
    accesses tyMem false true false false t g w.toNat s s' gr →
    exec (.st t g w) s = .next (accessDone ((laneAddrs gr w.toNat false).foldl (fun x l => storeMarks x t g 2 l.2 (tyBytes (fTy w.toNat)))
      ((laneAddrs gr w.toNat false).foldl (fun x l =>
        grtWrite x (tileDie t) l.2 (toBytes (tyBytes (fTy w.toNat)) (vgetN gr (fMb w.toNat) l.1 (tyRegs (fTy w.toNat))))) s')) t g)) ∧
  (∀ (t : TileId) (g : Slot) (w : BitVec 56) (parity : List Nat) (n : Nat) (s s' : State) (gr : Group), fSpace w.toNat = 2 →
    accesses tyMem true false false true t g w.toNat s s' gr →
    let r := loadLocal ((laneAddrs gr w.toNat true).foldl (fun x l => drpSeen x (tileDie t) l.2 (tyBytes (fTy w.toNat)) false)
      (correctedBy s' (eccTile t) n)) t g
      w.toNat gr (laneAddrs gr w.toNat true) fun x a len => grtRead x (tileDie t) a len
    exec (.ld t g ⟨w, parity, n⟩) s = .next (accessDone (grtFault (setGroup r.2.2 t g r.2.1) t r.1) t g)) ∧
  (∀ (t : TileId) (g : Slot) (w : BitVec 56) (s s' : State) (gr : Group), fSpace w.toNat = 2 →
    accesses [0, 1, 2, 3, 4, 5] true true true false t g w.toNat s s' gr →
    exec (.atom t g w) s = .next (accessDone (atomLocal s' t g w.toNat gr (laneAddrs gr w.toNat true)
      fun x a ops => grtAtomic x (tileDie t) a (fAop w.toNat) (fTy w.toNat) ops false) t g)) ∧
  (∀ (t : TileId) (g : Slot) (w : BitVec 56) (s s' x : State) (gr : Group) (las : List (Nat × Nat)) (va : Nat), fSpace w.toNat = 0 →
    accesses tyMem false true false false t g w.toNat s s' gr →
    lanesXlate t (tile s' t).ctx .store (laneAddrs gr w.toNat false) s' = (0, va, las, x) → pathHeld (tile x t) g = false →
    exec (.st t g w) s = .next (accessDone (las.foldl (fun x l => storeMarks x t g 0 l.2 (tyBytes (fTy w.toNat)))
      (storeGlobal x t g (las.map fun l => (l.1, l.2, toBytes (tyBytes (fTy w.toNat)) (vgetN gr (fMb w.toNat) l.1 (tyRegs (fTy w.toNat)))))
        (fCache w.toNat))) t g)) ∧
  (∀ (t : TileId) (g : Slot) (w : BitVec 56) (parity : List Nat) (n : Nat) (s s' x : State) (gr : Group) (las : List (Nat × Nat)) (va : Nat),
    fSpace w.toNat = 0 → accesses tyMem true false false true t g w.toNat s s' gr →
    lanesXlate t (tile s' t).ctx .load (laneAddrs gr w.toNat true) s' = (0, va, las, x) → pathHeld (tile x t) g = false →
    (∀ u, loadGlobal (correctedBy x (eccTile t) n) t g (fDk w.toNat == 1) (fDst w.toNat) (tyBytes (fTy w.toNat)) las (fCache w.toNat) parity = some u →
      exec (.ld t g ⟨w, parity, n⟩) s = .next (accessDone u t g)) ∧
    (loadGlobal (correctedBy x (eccTile t) n) t g (fDk w.toNat == 1) (fDst w.toNat) (tyBytes (fTy w.toNat)) las (fCache w.toNat) parity = none →
      exec (.ld t g ⟨w, parity, n⟩) s = .next (setHeld x t (some g)))) ∧
  (∀ (t : TileId) (g : Slot) (w : BitVec 56) (s s' x : State) (gr : Group) (las : List (Nat × Nat)) (va : Nat), fSpace w.toNat = 0 →
    accesses [0, 1, 2, 3, 4, 5] true true true false t g w.toNat s s' gr →
    lanesXlate t (tile s' t).ctx .atomic (laneAddrs gr w.toNat true) s' = (0, va, las, x) → pathHeld (tile x t) g = false →
    exec (.atom t g w) s = .next (accessDone (las.foldl (fun x l => storeMarks x t g 0 l.2 (tyBytes (fTy w.toNat)))
      (atomGlobal x t g (fDst w.toNat) (fAop w.toNat) (fTy w.toNat)
        (las.map fun l => (l.1, l.2, w64 (atomOperands gr w.toNat l.1).1, w64 (atomOperands gr w.toNat l.1).2)))) t g)) ∧
  (∀ (t : TileId) (g : Slot) (w : BitVec 56) (parity : List Nat) (n : Nat) (s s' x : State) (gr : Group) (las : List (Nat × Nat)) (code va : Nat),
    fSpace w.toNat = 0 →
    (accesses tyMem true false false true t g w.toNat s s' gr →
      lanesXlate t (tile s' t).ctx .load (laneAddrs gr w.toNat true) s' = (code, va, las, x) →
      (code ≠ 0 → exec (.ld t g ⟨w, parity, n⟩) s = .next (preciseFaultAt x t g code gr.top.mask.toNat va)) ∧
      (code = 0 → pathHeld (tile x t) g = true → exec (.ld t g ⟨w, parity, n⟩) s = .next s)) ∧
    (accesses tyMem false true false false t g w.toNat s s' gr →
      lanesXlate t (tile s' t).ctx .store (laneAddrs gr w.toNat false) s' = (code, va, las, x) →
      (code ≠ 0 → exec (.st t g w) s = .next (preciseFaultAt x t g code gr.top.mask.toNat va)) ∧
      (code = 0 → pathHeld (tile x t) g = true → exec (.st t g w) s = .next s)) ∧
    (accesses [0, 1, 2, 3, 4, 5] true true true false t g w.toNat s s' gr →
      lanesXlate t (tile s' t).ctx .atomic (laneAddrs gr w.toNat true) s' = (code, va, las, x) →
      (code ≠ 0 → exec (.atom t g w) s = .next (preciseFaultAt x t g code gr.top.mask.toNat va)) ∧
      (code = 0 → pathHeld (tile x t) g = true → exec (.atom t g w) s = .next s))) ∧
  (∀ (t : TileId) (g : Slot) (w : BitVec 56) (s s' : State) (gr : Group), ready s t g = some (gr, s') →
    memCheck tyAny false false false false (tile s t).alloc w.toNat = 0 →
    loadsTouch gr (memTouches false false false w.toNat).1 (memTouches false false false w.toNat).2 = false →
    (fSpace w.toNat = 0 → pathHeld (tile s' t) g = false) →
    ∃ u, exec (.pf t g w) s = .next (setGroup u t g gr.step) ∧ u.mem = s.mem)

/-- Branches follow the pseudocode of R59: all lanes taken, none taken, and a divergent branch, which leaves the taken lanes on top of
the rest with the join that RECONV names, sharing the entry that already has that join. A divergent branch without a join, a target
that is not canonical and a stack of more than 32 entries fault; that a target that is not canonical comes before the other two is the
model's choice (DESIGN CHOICE, log entry 111). -/
def Obligations.BranchesFollowTheReconvergenceStack : Prop :=
  ∀ (t : TileId) (g : Slot) (w : BitVec 56) (s s' : State) (gr : Group) (e : StackEntry) (rest : List StackEntry),
    ready s t g = some (gr, s') → gr.stack = e :: rest → fTy w.toNat = 0 → loadsTouch gr [] [] = false →
    let tgt := w64 (targetOf e.pc (fTarget w.toNat))
    let taken := maskOfLanes (lanesOf gr w.toNat)
    let others := maskOfLanes (gr.active.filter fun l => !(lanesOf gr w.toNat).contains l)
    let join := e.pc + w64 (8 * fReconv w.toNat)
    (others = 0 → (taken = 0 ∨ canonical (targetOf e.pc (fTarget w.toNat)) = true) →
      exec (.br t g w) s = .next (setGroup s' t g { gr with stack := { e with pc := tgt } :: rest })) ∧
    (others ≠ 0 → taken = 0 → exec (.br t g w) s = .next (setGroup s' t g { gr with stack := { e with pc := e.pc + 8 } :: rest })) ∧
    (others ≠ 0 → taken ≠ 0 → canonical (targetOf e.pc (fTarget w.toNat)) = true → fReconv w.toNat ≠ 0 → e.rpc ≠ some join →
      rest.length ≤ 29 →
      exec (.br t g w) s = .next (setGroup s' t g { gr with stack :=
        ⟨tgt, taken, some join⟩ :: ⟨e.pc + 8, others, some join⟩ :: { e with pc := join } :: rest })) ∧
    (others ≠ 0 → taken ≠ 0 → canonical (targetOf e.pc (fTarget w.toNat)) = true → fReconv w.toNat ≠ 0 → e.rpc = some join →
      rest.length ≤ 30 →
      exec (.br t g w) s = .next (setGroup s' t g { gr with stack := ⟨tgt, taken, some join⟩ :: { e with pc := e.pc + 8, mask := others } :: rest })) ∧
    (others ≠ 0 → taken ≠ 0 → canonical (targetOf e.pc (fTarget w.toNat)) = true → fReconv w.toNat = 0 →
      exec (.br t g w) s = .next (preciseFault s' t g 0x107)) ∧
    (taken ≠ 0 → canonical (targetOf e.pc (fTarget w.toNat)) = false → exec (.br t g w) s = .next (preciseFault s' t g 0x105)) ∧
    (others ≠ 0 → taken ≠ 0 → canonical (targetOf e.pc (fTarget w.toNat)) = true → fReconv w.toNat ≠ 0 →
      (if e.rpc = some join then 31 else 30) ≤ rest.length → exec (.br t g w) s = .next (preciseFault s' t g 0x106))

/-- jmp and ret go to the address in SREG, call writes pc + 8 there and goes TARGET words on (R60); an address that is not a multiple of 8 or
not canonical faults, the first before the second (DESIGN CHOICE, log entry 111). exit removes its active, unguarded lanes from every
entry, for good; while a lane of the group remains it goes on, and when none does, and its loads are back and its accesses are performed
(DEDUCED, log entry 68), its slot is free (R61). -/
def Obligations.JumpsAndExitsMoveTheGroup : Prop :=
  ((∀ (t : TileId) (g : Slot) (w : BitVec 56) (s s' : State) (gr : Group), ready s t g = some (gr, s') → jCheck w.toNat = 0 →
    loadsTouch gr [] [fDst w.toNat] = false → sget gr (fDst w.toNat) % 8 = 0 → canonical (sget gr (fDst w.toNat)) = true →
    exec (.jmp t g w) s = .next (setGroup s' t g (gr.setPc (w64 (sget gr (fDst w.toNat))))) ∧
    exec (.ret t g w) s = .next (setGroup s' t g (gr.setPc (w64 (sget gr (fDst w.toNat)))))) ∧
  (∀ (t : TileId) (g : Slot) (w : BitVec 56) (s s' : State) (gr : Group), ready s t g = some (gr, s') → jCheck w.toNat = 0 →
    loadsTouch gr [] [fDst w.toNat] = false → canonical (targetOf gr.top.pc (fTarget w.toNat)) = true →
    exec (.call t g w) s = .next (setGroup s' t g
      ((sset gr (fDst w.toNat) (gr.top.pc + 8).toNat).setPc (w64 (targetOf gr.top.pc (fTarget w.toNat)))))) ∧
  (∀ (t : TileId) (g : Slot) (w : BitVec 56) (s s' : State) (gr : Group), ready s t g = some (gr, s') → jCheck w.toNat = 0 →
    loadsTouch gr [] [fDst w.toNat] = false → (sget gr (fDst w.toNat) % 8 ≠ 0 ∨ canonical (sget gr (fDst w.toNat)) = false) →
    exec (.jmp t g w) s = .next (preciseFault s' t g (if sget gr (fDst w.toNat) % 8 ≠ 0 then 0x104 else 0x105)) ∧
    exec (.ret t g w) s = .next (preciseFault s' t g (if sget gr (fDst w.toNat) % 8 ≠ 0 then 0x104 else 0x105))) ∧
  (∀ (t : TileId) (g : Slot) (w : BitVec 56) (s s' : State) (gr : Group), ready s t g = some (gr, s') → jCheck w.toNat = 0 →
    loadsTouch gr [] [fDst w.toNat] = false → canonical (targetOf gr.top.pc (fTarget w.toNat)) = false →
    exec (.call t g w) s = .next (preciseFault s' t g 0x105))) ∧
  (∀ (t : TileId) (g : Slot) (w : BitVec 56) (s s' : State) (gr : Group), ready s t g = some (gr, s') →
    (form0 tyAny).check false (tile s t).alloc w.toNat (modNone false w.toNat) = 0 → loadsTouch gr [] [] = false →
    let gone := maskOfLanes (lanesOf gr w.toNat)
    let left : Group := { gr with exited := gr.exited ||| gone, stack := gr.stack.map fun e => { e with mask := e.mask &&& ~~~ gone } }
    ((∃ e ∈ left.stack, e.mask ≠ 0) → exec (.exit t g w) s = .next (setGroup s' t g left.step)) ∧
    ((∀ e ∈ left.stack, e.mask = 0) → gr.busy = false → exec (.exit t g w) s = .next (retire (setGroup s' t g left) t g)) ∧
    ((∀ e ∈ left.stack, e.mask = 0) → gr.busy = true → exec (.exit t g w) s = .next s))

/-- A barrier that no load of the group's is due for (R75, R76; the wait for loads is DEDUCED, log entry 15): a guard false in every lane
passes it by (DESIGN CHOICE, log entry 112); a divergent group faults, as does a count that differs from the one that the phase's first
group named, or, at a wait for a phase that has completed, from that phase's; arrive goes on, sync waits from its arrival, and wait waits
unless its phase has completed. Each fence of the group that may issue it completes once its accesses have reached its scope: group once
its loads are back, tile once its streams are read as well, die and device once they are performed and the tile's stores have left its L1,
which is then invalidated, sys once every write is Visible as well (R77, R365-R367). Until then it holds the group and has drained the L1.
What each scope waits for beside stores is read from the rules (DEDUCED, log entry 16), and bits of IMM24 above the scope are ignored
(DEDUCED, log entry 14). -/
def Obligations.BarriersAndFencesHoldTheGroup : Prop :=
  (∀ (t : TileId) (g : Slot) (w : BitVec 56) (s s' : State) (gr : Group), ready s t g = some (gr, s') →
    (form0 tyAny).check true (tile s t).alloc w.toNat (fImod w.toNat == 3 || decide (16 < bits (fImm24 w.toNat) 8 4)) = 0 →
    loadsTouch gr [] [] = false →
    let b := fImm24 w.toNat % 16
    let c := bits (fImm24 w.toNat) 8 4
    let y := barrier (tile s' t) b
    (lanesOf gr w.toNat = [] → exec (.bar t g w) s = .next (setGroup s' t g gr.step)) ∧
    (lanesOf gr w.toNat ≠ [] → gr.top.mask ≠ BitVec.allOnes 32 → exec (.bar t g w) s = .next (preciseFault s' t g 0x108)) ∧
    (lanesOf gr w.toNat ≠ [] → gr.top.mask = BitVec.allOnes 32 → (fImod w.toNat ≠ 2 ∨ mfind y.passed g.val = none) → y.named = true →
      c ≠ y.count → exec (.bar t g w) s = .next (preciseFault s' t g 0x109)) ∧
    (∀ c', lanesOf gr w.toNat ≠ [] → gr.top.mask = BitVec.allOnes 32 → fImod w.toNat = 2 → mfind y.passed g.val = some c' → c ≠ c' →
      exec (.bar t g w) s = .next (preciseFault s' t g 0x109)) ∧
    (lanesOf gr w.toNat ≠ [] → gr.top.mask = BitVec.allOnes 32 → gr.pend = [] → fImod w.toNat = 0 → (y.named = false ∨ c = y.count) →
      exec (.bar t g w) s = .next (arrive (setGroup s' t g { gr with wait := .barrier b }) t b c g true)) ∧
    (lanesOf gr w.toNat ≠ [] → gr.top.mask = BitVec.allOnes 32 → gr.pend = [] → fImod w.toNat = 1 → (y.named = false ∨ c = y.count) →
      (group (arrive s' t b c g false) t g).isSome = true →
      exec (.bar t g w) s = .next (goesOn (arrive s' t b c g false) t g)) ∧
    (lanesOf gr w.toNat ≠ [] → gr.top.mask = BitVec.allOnes 32 → gr.pend = [] → fImod w.toNat = 2 → mfind y.passed g.val = some c →
      exec (.bar t g w) s = .next (setGroup (setTile s' t (setBarrier (tile s' t) b { y with passed := mdel y.passed g })) t g gr.step)) ∧
    (lanesOf gr w.toNat ≠ [] → gr.top.mask = BitVec.allOnes 32 → gr.pend = [] → fImod w.toNat = 2 → mfind y.passed g.val = none →
      (y.named = false ∨ c = y.count) →
      exec (.bar t g w) s = .next (setGroup (setTile s' t (setBarrier (tile s' t) b
        { y.names c with waiters := y.waiters ++ [g.val], early := kdel y.early g })) t g { gr with wait := .barrier b }))) ∧
  (∀ (t : TileId) (g : Slot) (w : BitVec 56) (s s' : State) (gr : Group), ready s t g = some (gr, s') →
    (form0 tyAny).check true (tile s t).alloc w.toNat (modNone true w.toNat || decide (4 < fImm24 w.toNat % 8)) = 0 →
    loadsTouch gr [] [] = false →
    (fImm24 w.toNat % 8 = 0 → gr.pend = [] → exec (.fenceGroup t g w) s = .next (setGroup s' t g gr.step)) ∧
    (fImm24 w.toNat % 8 = 0 → gr.pend ≠ [] → exec (.fenceGroup t g w) s = .next s') ∧
    (fImm24 w.toNat % 8 = 1 → tileDone t g s' gr = true →
      exec (.fenceTile t g w) s = .next (setGroup (streamsFenced t g s') t g gr.step)) ∧
    (fImm24 w.toNat % 8 = 1 → tileDone t g s' gr = false → exec (.fenceTile t g w) s = .next s') ∧
    (fImm24 w.toNat % 8 = 2 → dieDone t (l1Drain s' t) gr = true →
      exec (.fenceDie t g w) s = .next (setGroup (l1InvAll (l1Drain s' t) t) t g gr.step)) ∧
    (fImm24 w.toNat % 8 = 2 → dieDone t (l1Drain s' t) gr = false → exec (.fenceDie t g w) s = .next (l1Drain s' t)) ∧
    (fImm24 w.toNat % 8 = 3 → dieDone t (l1Drain s' t) gr = false → exec (.fenceDevice t g w) s = .next (l1Drain s' t)) ∧
    (fImm24 w.toNat % 8 = 3 → dieDone t (l1Drain s' t) gr = true →
      exec (.fenceDevice t g w) s = .next (setGroup (l1InvAll (l1Drain s' t) t) t g gr.step)) ∧
    (fImm24 w.toNat % 8 = 4 → sysDone t (l1Drain s' t) gr = true →
      exec (.fenceSys t g w) s = .next (setGroup (l1InvAll (l1Drain s' t) t) t g gr.step)) ∧
    (fImm24 w.toNat % 8 = 4 → sysDone t (l1Drain s' t) gr = false → exec (.fenceSys t g w) s = .next (l1Drain s' t)))

/-- trap raises E_TILE_TRAP with its immediate in INFO, if a lane takes part (R62, R83). Faults of a tile (R76, R78-R80, R83, R84): a precise
fault is recorded in TILE_FAULT with its slot, code and pc unless one stands already, and the group stays at its pc; a deadlock of
barriers faults the group of the lowest slot (DEDUCED, log entry 69); a hang and an uncorrectable error are reported to Uszon, with the
severity that the model gives the record (DESIGN CHOICE, log entry 26), which fences the tile. -/
def Obligations.TrapsAndFaultsAreRecorded : Prop :=
  (∀ (t : TileId) (g : Slot) (w : BitVec 56) (s s' : State) (gr : Group), ready s t g = some (gr, s') →
    (form0 tyAny).check true (tile s t).alloc w.toNat (modNone true w.toNat) = 0 → loadsTouch gr [] [] = false →
    (lanesOf gr w.toNat ≠ [] → exec (.trap t g w) s = .next (preciseFaultAt s' t g 0x10B (fImm24 w.toNat) 0)) ∧
    (lanesOf gr w.toNat = [] → exec (.trap t g w) s = .next (setGroup s' t g gr.step))) ∧
  ((∀ (t : TileId) (g : Slot) (w : W64) (s s' : State) (gr : Group), Canonical s → ready s t g = some (gr, s') →
    canonical gr.top.pc.toNat = false → rf s .tileFault (tileDie t) (tileSite t) 0 63 63 = 0 →
    ∃ u, exec (.tilePreciseFault t g w) s = .next u ∧ rf u .tileFault (tileDie t) (tileSite t) 0 63 63 = 1 ∧
      rf u .tileFault (tileDie t) (tileSite t) 0 51 48 = g.val ∧ rf u .tileFault (tileDie t) (tileSite t) 0 47 32 = 0x105 ∧
      rf u .tileFault (tileDie t) (tileSite t) 0 31 0 = gr.top.mask.toNat ∧
      rget u .tileFaultPc (tileDie t) (tileSite t) = gr.top.pc.toNat) ∧
  (∀ (t : TileId) (g : Slot) (w : W64) (s s' x : State) (gr : Group) (pa : Nat), ready s t g = some (gr, s') →
    canonical gr.top.pc.toNat = true → translate s' t (tile s' t).ctx (gr.top.pc.toNat % 2 ^ 48) .fetch = (0, pa, x) →
    laneCode x t pa 8 = 0 → tileInstr t g w = none →
    exec (.tilePreciseFault t g w) s = .next (preciseFaultAt x t g 0x101 gr.top.mask.toNat 0)) ∧
  (∀ (t : TileId) (s : State) (g : Nat) (gr : Group) (rest : Map Group) (j : Job), (tile s t).groups = (g, gr) :: rest →
    jobOn s t = some j → tileOpen s t = true → (tile s t).mode = .running → (∀ e ∈ (tile s t).groups, ∃ b, e.2.wait = .barrier b) →
    canLaunch s t j = false → exec (.barDeadlock t) s = .next (preciseFault s t g 0x10A)) ∧
  (∀ (t : TileId) (s : State), tileOpen s t = true → tileRuns s t = true →
    (∃ e ∈ (tile s t).groups, ∀ b, e.2.wait ≠ .barrier b) →
    exec (.tileWatchdogExpiry t) s = .next (fenceTile (report s 0x10C (tileDie t) 1 t 0) t true)) ∧
  (∀ (t : TileId) (s : State), tileOpen s t = true →
    exec (.tileUncorrectable t) s = .next (fenceTile (report (imprecise s t 0x10D) 0x10D (tileDie t) 1 t 0) t true)))

/-! ### Matrix engines and Flowstone -/

/-- A group has put a matrix instruction on its engine and goes on. -/
def Sys2Proof.Machine.queued (s : State) (t g : Nat) (gr : Group) (o : MtxOp) (u : State) : Prop :=
  u = setGroup (mtxPut s t o) t g gr.step ∧
    (eng (tile u t) (xAcc o.word.toNat / 8)).queue = (eng (tile s t) (xAcc o.word.toNat / 8)).queue ++ [o]

/-- The group may issue a matrix instruction: no load is due that it touches, its engine has room, and every lane is active. -/
def Sys2Proof.Machine.mayQueue (t g w : Nat) (touch : List Nat) (s s' : State) (gr : Group) : Prop :=
  ready s t g = some (gr, s') ∧ loadsTouch gr touch [] = false ∧ engFull s' t w = false ∧ allActive gr = true

/-- Matrix instructions that pass the checks of R112 join their engine's queue, an mma with the registers that it reads, an mmas with
its descriptor and its parts, from SLM or from a decoder stream that is bound and at rest, an mtx.rd with its registers pending (R98, R102, R108); mtx.wait goes on when no mmas of its group is left
on the engines that it names, and covers what its own mmas there have read (R105, R113); a divergent group faults (R111). That registers are
read at issue is the model's choice (DESIGN CHOICE, log entry 128), and so is E_TILE_ILLEGAL for an mtx.zero with a nonzero PART (DESIGN
CHOICE, log entry 146). -/
def Obligations.MatrixInstructionsAreQueued : Prop :=
  (∀ (t : TileId) (g : Slot) (w : BitVec 56) (s s' : State) (gr : Group), mayQueue t g w.toNat (spread (mmaFrags w.toNat)) s s' gr →
    mmIllegal false w.toNat = false → (∀ r ∈ mmaFrags w.toNat, r.1 + r.2 ≤ (tile s t).alloc) → disjoint (mmaFrags w.toNat) = true →
    xReg w.toNat % 4 = 0 → xBreg w.toNat % 4 = 0 → (xMx w.toNat = true → xSreg w.toNat % 2 = 0) →
    (xSp w.toNat = true → xMreg w.toNat % (kStep (xRate w.toNat) true / 32) = 0) →
    (xClr w.toNat = true ∨ (flsTagging (tile s' t) 0x80 w.toNat = false ∧ tagWrong (tile s' t) 0x80 w.toNat = false)) →
    ∃ u, exec (.mma t g w) s = .next u ∧ queued s' t g gr (mtxOp s' gr t g 0x80 w (regsAt gr (mmaFrags w.toNat))) u) ∧
  (∀ (t : TileId) (g : Slot) (w : BitVec 56) (s s' : State) (gr : Group), ready s t g = some (gr, s') →
    loadsTouch gr [] [xReg w.toNat, xReg w.toNat + 1, xReg w.toNat + 2, xReg w.toNat + 3] = false →
    engFull s' t w.toNat = false → allActive gr = true → mmIllegal true w.toNat = false →
    let ws := [w64 (sget gr (xReg w.toNat)), w64 (sget gr (xReg w.toNat + 1)), w64 (sget gr (xReg w.toNat + 2)), w64 (sget gr (xReg w.toNat + 3))]
    ((mtxDesc ws).decode = 0 ∨ (decStream s' t (mtxDesc ws).decode).changing = none) → decodeCheck s' t w.toNat (mtxDesc ws) = 0 →
    xReg w.toNat % 4 = 0 → xAcc w.toNat % (mmasRows w.toNat * mmasCols w.toNat * mmasUnit w.toNat) = 0 →
    (xClr w.toNat = true ∨ (flsTagging (tile s' t) 0x81 w.toNat = false ∧ tagWrong (tile s' t) 0x81 w.toNat = false)) →
    streamCheck w.toNat ws (tile s' t).slmBytes = 0 →
    ∃ u, exec (.mmas t g w) s = .next u ∧
      queued s' t g gr { mtxOp s' gr t g 0x81 w [] with desc := ws, reads := streamParts w.toNat (mtxDesc ws) } u) ∧
  (∀ (t : TileId) (g : Slot) (w : BitVec 56) (s s' : State) (gr : Group), mayQueue t g w.toNat [] s s' gr →
    mvCheck 0x88 (tile s t).alloc w.toNat = 0 → (xPair w.toNat = true → xAcc w.toNat % 2 = 0) →
    ∃ u, exec (.mtxZero t g w) s = .next u ∧ queued s' t g gr (mtxOp s' gr t g 0x88 w []) u) ∧
  (∀ (t : TileId) (g : Slot) (w : BitVec 56) (s s' : State) (gr : Group), mayQueue t g w.toNat (spread [(xReg w.toNat, 16)]) s s' gr →
    mvCheck 0x89 (tile s t).alloc w.toNat = 0 → (xPair w.toNat = true → xAcc w.toNat % 2 = 0) → xReg w.toNat % 4 = 0 →
    flsTagging (tile s' t) 0x89 w.toNat = false → tagWrong (tile s' t) 0x89 w.toNat = false →
    let gr' : Group := { gr with pend := gr.pend ++ [⟨s'.nextId, false, xReg w.toNat, 64, [], [0], []⟩] }
    ∃ u, exec (.mtxRd t g w) s = .next u ∧
      queued (setGroup { s' with nextId := s'.nextId + 1 } t g gr') t g gr' { mtxOp s' gr t g 0x89 w [] with pendId := s'.nextId } u) ∧
  (∀ (t : TileId) (g : Slot) (w : BitVec 56) (s s' : State) (gr : Group), mayQueue t g w.toNat (spread [(xReg w.toNat, 16)]) s s' gr →
    mvCheck 0x8A (tile s t).alloc w.toNat = 0 → (xPair w.toNat = true → xAcc w.toNat % 2 = 0) → xReg w.toNat % 4 = 0 →
    ∃ u, exec (.mtxWr t g w) s = .next u ∧ queued s' t g gr (mtxOp s' gr t g 0x8A w (regsAt gr [(xReg w.toNat, 16)])) u) ∧
  (∀ (t : TileId) (g : Slot) (w : BitVec 56) (s s' : State) (gr : Group), ready s t g = some (gr, s') → bits w.toNat 55 4 = 0 →
    loadsTouch gr [] [] = false → allActive gr = true →
    (∀ e < 4, w.toNat % 16 = 0 ∨ bit w.toNat e = true → ∀ o ∈ (eng (tile s' t) e).queue, ¬(o.opc = 0x81 ∧ o.from_ = gr.issuer g)) →
    exec (.mtxWait t g w) s = .next (setGroup (setTile s' t (waitedFor (tile s' t) fun u =>
      u.words.isEmpty && u.from_ == gr.issuer g && (w.toNat % 16 == 0 || bit w.toNat u.engine))) t g gr.step)) ∧
  (∀ (t : TileId) (g : Slot) (w : BitVec 56) (s s' : State) (gr : Group), ready s t g = some (gr, s') → bits w.toNat 55 4 = 0 →
    loadsTouch gr [] [] = false → allActive gr = false →
    exec (.mtxWait t g w) s = .next (preciseFault (mtxFault s' t 0x8B w.toNat) t g 0x201))

/-- An engine executes one instruction at a time (R108, R114, R116): a warm engine starts, a cold one in a slot of its wave, the paced
wait is counted, an engine that has been idle for COLD_NS goes cold, and completion does the instruction's work, sets the tags that it sets, counts
the clocks for which it held the engine, leaves the rest of the queue and keeps what an mmas has read until its group waits for it. That the
effects come with the completion, and which clocks the counters count, are the model's choices (DESIGN CHOICE, log entry 128). -/
def Obligations.EnginesRunTheirQueues : Prop :=
  (∀ (t : TileId) (e : Fin 4) (s : State) (o : MtxOp) (rest : List MtxOp), (eng (tile s t) e).queue = o :: rest →
    (eng (tile s t) e).running = false → flsHolds (tile s t) o = false → (eng (tile s t) e).freeAt ≤ timebaseOf s (tileDie t) →
    (eng (tile s t) e).cold = false →
    ∃ u, exec (.matrixEngineStart t e) s = .next u ∧ (eng (tile u t) e).running = true ∧ (eng (tile u t) e).cold = false ∧
      (eng (tile u t) e).queue = o :: rest ∧ { u with tiles := s.tiles } = s) ∧
  (∀ (t : TileId) (e : Fin 4) (s : State) (o : MtxOp) (rest : List MtxOp), (eng (tile s t) e).queue = o :: rest →
    (eng (tile s t) e).running = false → flsHolds (tile s t) o = false → (eng (tile s t) e).freeAt ≤ timebaseOf s (tileDie t) →
    (eng (tile s t) e).cold = true → waveNow s t = true →
    ∃ u, exec (.pacedStart t e) s = .next u ∧ exec (.matrixEngineStart t e) s = .next u ∧ (eng (tile u t) e).running = true ∧ (eng (tile u t) e).cold = false ∧
      u.regs = (count s .mtxPaceWait (tileDie t) (tileSite t) 0
        ((timebaseOf s (tileDie t) - (eng (tile s t) e).since) * tileMhz s t / 1000)).regs) ∧
  (∀ (t : TileId) (e : Fin 4) (s : State), (eng (tile s t) e).queue = [] →
    (eng (tile s t) e).freeAt + rf s .rimPaceCtl (tileDie t) 0 0 47 32 ≤ timebaseOf s (tileDie t) →
    exec (.engineCold t e) s = .next (setTile s t (setEng (tile s t) e { eng (tile s t) e with cold := true }))) ∧
  (∀ (t : TileId) (e : Fin 4) (s : State) (o : MtxOp) (rest : List MtxOp), (eng (tile s t) e).queue = o :: rest →
    (eng (tile s t) e).running = true →
    let r := mtxRun s t o
    let x := if mtxSets o.opc o.word.toNat then setTags (tile r.2 t) (mtxTags o.opc o.word.toNat) else tile r.2 t
    let free := timebaseOf r.2 (tileDie t) + throttleWait r.2 t r.1
    let x := setEng x e { eng x e with queue := rest, running := false, since := free, freeAt := free }
    exec (.matrixInstrComplete t e) s = .next (count (setTile r.2 t (if o.opc = 0x81 then
        { x with uncovered := x.uncovered ++
            [⟨o.from_, [], e, if o.spoiled then [] else o.reads, (mtxTags o.opc o.word.toNat).map (·.1), false⟩] }
      else x)) .mtxBusy (tileDie t) (tileSite t) e r.1))

/-- An integer mma adds, at each of the 32 x 32 elements of its accumulator tile, the exact sum of the 32 products of its A row and B
column, modulo 2^32, to what stood there or to zero (R97, R100, R106), and leaves the other accumulator tiles as they were. That this comes
with the completion is the model's choice (DESIGN CHOICE, log entry 128). -/
def Obligations.IntegerMmaSumsItsProducts : Prop :=
  ∀ (t : TileId) (e : Fin 4) (s : State) (o : MtxOp) (rest : List MtxOp), s.tiles.rising → (tile s t).acc.rising →
    (eng (tile s t) e).queue = o :: rest → (eng (tile s t) e).running = true → o.opc = 0x80 → xRate o.word.toNat = .int →
    xSp o.word.toNat = false →
    ∃ u, exec (.matrixInstrComplete t e) s = .next u ∧
      (∀ row < 32, ∀ col < 32, accGet (tile u t) (xAcc o.word.toNat) (32 * row + col) =
        wrap 32 ((if xClr o.word.toNat then 0 else (accGet (tile s t) (xAcc o.word.toNat) (32 * row + col) : Int)) +
          ((List.range 32).map fun k => mfInt (xFmt o.word.toNat) ((mmaArgs o).a row k) * mfInt (xBfmt o.word.toNat) ((mmaArgs o).b col k)).sum)) ∧
      (∀ a q, a ≠ xAcc o.word.toNat → q < 1024 → accGet (tile u t) a q = accGet (tile s t) a q) ∧
      (tile u t).groups = (tile s t).groups ∧ (tile u t).slm = (tile s t).slm ∧ u.mem = s.mem

/-- Flowstone commands (R149-R152, R168, R173, R177): an issue copies the block from SLM and queues it behind the others; a wait goes on
when no more than N of the group's commands are left; the status is read and cleared; a command starts when no earlier matrix
instruction holds its accumulator tiles, and its end leaves its status bits and its first code in FLS_STAT_g, counts it, and takes it off
the queue; a write clears FLS_STAT_g. That a command reads and writes at its start and shows its status at its end is the model's choice
(DESIGN CHOICE, log entry 129). -/
def Obligations.FlowstoneCommandsRunInOrder : Prop :=
  (∀ (t : TileId) (g : Slot) (w : BitVec 56) (s s' : State) (gr : Group), ready s t g = some (gr, s') → flsWordCheck false w.toNat = 0 →
    loadsTouch gr [] [fSreg w.toNat] = false → (tile s' t).fls.length < 8 → sget gr (fSreg w.toNat) % 256 = 0 →
    sget gr (fSreg w.toNat) + 256 ≤ (tile s' t).slmBytes →
    let b := toWords 32 (slmBytesAt (tile s' t) (sget gr (fSreg w.toNat)) 256)
    (blockCheck s' t b).1 = 0 →
    exec (.flsIssue t g w) s = .next (setGroup (setTile (drpAccIssue s' (tileDie t) (tileSite t) (bOutTiles b)) t { tile s' t with
      fls := (tile s' t).fls ++ [⟨b, gr.issuer g, (tile s' t).flsSeq, false, [], [], 0, 0, 0⟩], flsSeq := (tile s' t).flsSeq + 1 }) t g gr.step)) ∧
  (∀ (t : TileId) (g : Slot) (w : BitVec 56) (s s' : State) (gr : Group), ready s t g = some (gr, s') → flsWordCheck true w.toNat = 0 →
    loadsTouch gr [] [] = false →
    exec (.flsWait t g w) s = .next (if ((tile s' t).fls.filter fun c => c.from_ == gr.issuer g).length ≤ w.toNat % 8 then
      setGroup (setTile s' t (waitedFor (tile s' t) fun u => !u.words.isEmpty && u.from_ == gr.issuer g)) t g gr.step else s)) ∧
  (∀ (t : TileId) (g : Slot) (w : BitVec 56) (s s' : State) (gr : Group), Canonical s → ready s t g = some (gr, s') →
    flsWordCheck false w.toNat = 0 → loadsTouch gr [] [fSreg w.toNat] = false →
    ∃ u, exec (.flsStat t g w) s = .next u ∧ rget u .flsStat (tileDie t) (tileSite t) g = 0 ∧
      group u t g = some (sset gr (fSreg w.toNat) (rget s' .flsStat (tileDie t) (tileSite t) g)).step) ∧
  (∀ (t : TileId) (s : State) (c : FlsCmd), ((tile s t).fls.find? fun c => !c.started) = some c → mtxHolds (tile s t) c = false →
    let r := flsExec { t := t, b := c.words, dirty := c.dirty, s := s, stat := 0, code := 0, fail := 0, ok := true, only := false }
    exec (.flsCommandStart t) s = .next (engsReleased (setTile r.s t { tile r.s t with fls := (tile r.s t).fls.map fun d =>
      if d.seq = c.seq then { c with started := true, stat := r.stat, code := r.code, fail := r.fail } else d }) (tile s t) t)) ∧
  (∀ (t : TileId) (s : State) (c : FlsCmd) (rest : List FlsCmd), Canonical s → s.tiles.rising → (tile s t).fls = c :: rest →
    c.started = true → c.dirty = [] → c.byEngine = [] → c.stat < 2 ^ 48 → c.code < 2 ^ 16 → c.fail = 0 →
    ∃ u, exec (.flsCommandComplete t) s = .next u ∧ (tile u t).fls = rest ∧
      (let old := rget s .flsStat (tileDie t) (tileSite t) c.from_.slot
       rget u .flsStat (tileDie t) (tileSite t) c.from_.slot =
         ((if bits old 63 48 = 0 then fset old 63 48 c.code else old) ||| c.stat)) ∧
      rget u .flsCmds (tileDie t) (tileSite t) = ctrAdd (rget s .flsCmds (tileDie t) (tileSite t)) 1) ∧
  (∀ (a : Agent) (t : TileId) (g : Slot) (v : W64) (s : State), Canonical s → agentMay a .any = true → tileOpen s t = true →
    ∃ u, exec (.flsStatWrite a t g v) s = .next u ∧ OnlyRegs s u ∧ rget u .flsStat (tileDie t) (tileSite t) g = 0)

/-! ### The tile L1 and the die caches -/

/-- The tile L1 (R276-R279, R295, R297): an idle merging entry leaves as one partial-line write to the die cache; INV invalidates every
line, marks every pending fill for discard and, of an L1 that is not enabled, leaves INVALIDATED 1, which a reset and disabling clear;
enabling takes effect only if INVALIDATED is 1, else it fails with code 0x802; a fill serves its waiting loads and is installed, under the
bytes stored meanwhile, unless it was marked. That INV acts before an ENABLE of the same write (DEDUCED, log entry 19), and that a load
that waits gets the fill's bytes (DEDUCED, log entry 60), are the model's readings. -/
def Obligations.L1DrainsInvalidatesAndFills : Prop :=
  (∀ (t : TileId) (line : Nat) (e : MergeEntry) (s : State), tileOpen s t = true →
    ((tile s t).merge.find? fun x => x.line == line) = some e →
    exec (.mergeEntryIdleDrain t line) s = .next (toDcc (setTile s t { tile s t with merge := (tile s t).merge.filter fun x => x.line != line }) t
      ⟨0, line, .write e.bytes [], .store t 16 0, false, e.streaming, reqKey t 0, false⟩)) ∧
  (∀ (a : Agent) (t : TileId) (v : W64) (s : State), Canonical s → s.tiles.rising → l1Writable s a t = true →
    ∃ u, exec (.l1Inv a t v) s = .next u ∧ (tile u t).l1 = [] ∧ (∀ m ∈ (tile u t).l1Miss, m.discard = true) ∧
      (tile u t).merge = (tile s t).merge ∧ rf u .l1cCtl (tileDie t) (tileSite t) 0 0 0 = b2n (bit v.toNat 0) ∧
      (l1Enabled s t = false ∨ bit v.toNat 0 = true → rf u .l1cCtl (tileDie t) (tileSite t) 0 2 2 = 1) ∧
      (l1Enabled s t = true ∧ bit v.toNat 0 = false → rf u .l1cCtl (tileDie t) (tileSite t) 0 2 2 = 0)) ∧
  Reg.l1cCtl.spec.reset = 0 ∧
  (∀ (a : Agent) (t : TileId) (v : W64) (s : State), Canonical s → l1Writable s a t = true → l1Enabled s t = false → bit v.toNat 0 = true →
    ∃ u, exec (.l1cCtlEnableWrite a t v) s = .next u ∧ OnlyRegs s u ∧
      (rf s .l1cCtl (tileDie t) (tileSite t) 0 2 2 = 1 → l1Enabled u t = true) ∧
      (rf s .l1cCtl (tileDie t) (tileSite t) 0 2 2 = 0 →
        l1Enabled u t = false ∧ rf u .l1cCtl (tileDie t) (tileSite t) 0 2 2 = 0 ∧ rf u .l1cCtl (tileDie t) (tileSite t) 0 47 32 = 0x802)) ∧
  (∀ (a : Agent) (t : TileId) (v : W64) (s : State), Canonical s → l1Writable s a t = true → l1Enabled s t = true → bit v.toNat 0 = false →
    ∃ u, exec (.l1cCtlEnableWrite a t v) s = .next u ∧ OnlyRegs s u ∧ l1Enabled u t = false ∧
      rf u .l1cCtl (tileDie t) (tileSite t) 0 2 2 = 0) ∧
  (∀ (t : TileId) (line : Nat) (f : FillMsg) (m : L1Miss) (s : State),
    (s.l1Fills.find? fun f => f.line == line && f.dest == .l1Fill t) = some f → ((tile s t).l1Miss.find? fun m => m.line == line) = some m →
    f.code = 0 → m.install = true →
    let x := setTile { s with l1Fills := s.l1Fills.erase f } t { tile s t with l1Miss := (tile s t).l1Miss.erase m }
    exec (.l1FillArrive t line) s = .next (m.waiting.foldl (fun y w => pendLine y t w.1 w.2 line (overlay (List.replicate 128 0) f.bytes))
      (if m.discard = false ∧ l1Enabled s t = true then l1Install x t line (mergeBytes f.bytes m.stored) else x))) ∧
  (∀ (t : TileId) (line : Nat) (f : FillMsg) (m : L1Miss) (s : State),
    (s.l1Fills.find? fun f => f.line == line && f.dest == .l1Fill t) = some f → ((tile s t).l1Miss.find? fun m => m.line == line) = some m →
    f.code ≠ 0 →
    exec (.l1FillArrive t line) s = .next (m.waiting.foldl (fun y w => pendFail y t w.1 w.2 line f.code)
      (setTile { s with l1Fills := s.l1Fills.erase f } t { tile s t with l1Miss := (tile s t).l1Miss.erase m })))

/-- Request `n` at a die cache's input is next for its line, and what is left when it is taken and the line's ECC finds `e`. -/
def Sys2Proof.Machine.dccTakes (s : State) (k n : Nat) (e : WordEcc) (r : MemReq) (x : State) : Prop :=
  dieActive s k = true ∧ ∃ rest, takeAt (dcc s k).inq n = some (r, rest) ∧ (∀ y ∈ (dcc s k).inq.take n, y.line ≠ r.line) ∧
    x = setDcc (dccEcc s k r.line e) k { dcc (dccEcc s k r.line e) k with inq := rest }

/-- A line of a die cache, by key. -/
def Sys2Proof.Machine.dccHas (s : State) (k line key : Nat) (l : DccLine) : Prop := dccFind (dcc s k) line = some key ∧ mfind (dcc s k).lines key = some l

/-- Accesses of an enabled die cache (R282-R287, R308): a read whose bytes are valid is answered from the line and counted as a hit; one
that misses takes a way and asks the home for the line; a write makes its bytes valid and dirty, in the line that the cache holds or, on
a miss, in a line of its own that fetches nothing and whose other bytes are not valid; a home-policy read writes the line back, drops it
and goes to the home. A fill lands under the bytes already valid and answers those that wait; one that fails answers them with its code,
and drops the line if nothing of it is valid. That the dirty bytes of a victim reach the home in the same step is the model's choice
(DESIGN CHOICE, log entry 47); what a waiting read gets is its reading (DEDUCED, log entry 60). -/
def Obligations.DieCacheServesAccesses : Prop :=
  (∀ (k : CDie) (n key : Nat) (e : WordEcc) (r : MemReq) (need : BitVec 128) (l : DccLine) (t : Nat) (s x : State), Canonical s → dccTakes s k n e r x →
    dccEnabled s k = true → r.kind = .read need → r.home = false → r.from_ = .l1Fill t → dccHas x k r.line key l →
    need &&& ~~~ l.valid = 0 → l.prefetched = false →
    ∃ u, exec (.dccAccess k n e) s = .next u ∧
      u.l1Fills = s.l1Fills ++ [⟨r.line, l.bytes, if need &&& l.poison = 0 then 0 else 0x808, .l1Fill t, false⟩] ∧
      rget u .dccHits k = ctrAdd (rget s .dccHits k) 1 ∧ u.mem = s.mem ∧ u.homes = s.homes) ∧
  (∀ (k : CDie) (n key : Nat) (e : WordEcc) (r : MemReq) (need : BitVec 128) (s x y : State), dccTakes s k n e r x → dccEnabled s k = true →
    r.kind = .read need → r.home = false → dccFind (dcc x k) r.line = none → (dcc x k).misses.length < 4096 →
    dccAlloc x k r.line (openWays x k) = some (key, y) →
    let z := dccPlace (dccStartFill y k key r.line [(r, [], 0)] false) k key r.streaming
    exec (.dccAccess k n e) s = .next (dccTrain (count z .dccMisses k 0 0 1) k r.requester r.line)) ∧
  (∀ (k : CDie) (n key : Nat) (e : WordEcc) (r : MemReq) (bs : Map Byte) (p : List Nat) (l : DccLine) (s x : State), dccTakes s k n e r x →
    dccEnabled s k = true → r.kind = .write bs p → r.home = false → dccHas x k r.line key l → l.prefetched = false →
    ∃ u, exec (.dccAccess k n e) s = .next u ∧ mfind (dcc u k).lines key = some (dccMerge l bs p) ∧ u.mem = s.mem ∧ u.homes = s.homes) ∧
  (∀ (k : CDie) (n key : Nat) (e : WordEcc) (r : MemReq) (bs : Map Byte) (p : List Nat) (s x y : State), dccTakes s k n e r x →
    dccEnabled s k = true → r.kind = .write bs p → r.home = false → dccFind (dcc x k) r.line = none →
    dccAlloc x k r.line (openWays x k) = some (key, y) →
    exec (.dccAccess k n e) s = .next (dccTrain (count (dccPlace (dccSetLine y k key
      { line := r.line, valid := BitVec.ofNat 128 (maskOf bs), dirtyMask := BitVec.ofNat 128 (maskOf bs),
        poison := BitVec.ofNat 128 (p.foldl (fun v o => v ||| 2 ^ o) 0), bytes := mergeBytes [] bs, pending := false, prefetched := false,
        used := false }) k key r.streaming) .dccMisses k 0 0 1) k r.requester r.line)) ∧
  (∀ (k : CDie) (n : Nat) (e : WordEcc) (r : MemReq) (need : BitVec 128) (s x : State), dccTakes s k n e r x →
    (dccEnabled s k = false ∨ r.home = true) → r.kind = .read need →
    exec (.dccAccess k n e) s = .next (toHomeReq (dccEvict x k r.line) { r with home := true })) ∧
  (∀ (k : CDie) (n : Nat) (e : WordEcc) (r : MemReq) (aop ty : BitVec 4) (off : Nat) (ops : List (W64 × W64)) (s x : State), dccTakes s k n e r x →
    r.kind = .atomic aop ty off ops → exec (.dccAccess k n e) s = .next (toHomeReq (dccEvict x k r.line) r)) ∧
  (∀ (k : CDie) (line : Nat) (f : Nat × FillMsg) (m : DccMiss) (l : DccLine) (s : State),
    (s.dccFills.find? fun f => f.1 == k.val && f.2.line == line) = some f → ((dcc s k).misses.find? fun m => m.line == line) = some m →
    m.discard = false → f.2.code = 0 → mfind (dcc s k).lines (dccSet line * 16 + m.way) = some l → l.line = line → (dcc s k).maint = none →
    ∃ u, exec (.dccFillArrive k line) s = .next u ∧
      mfind (dcc u k).lines (dccSet line * 16 + m.way) =
        some { l with pending := false, valid := BitVec.ofNat 128 fullMask, bytes := mergeBytes f.2.bytes l.bytes } ∧
      u.l1Fills = (m.waiting.foldl (fun y w => toL1 y w.1 (mergeBytes f.2.bytes w.2.1) w.2.2 false) s).l1Fills ∧
      u.dccFills = s.dccFills.erase f ∧ u.mem = s.mem) ∧
  (∀ (k : CDie) (line : Nat) (f : Nat × FillMsg) (m : DccMiss) (l : DccLine) (s : State), s.dcc.rising → (dcc s k).lines.rising →
    (s.dccFills.find? fun f => f.1 == k.val && f.2.line == line) = some f → ((dcc s k).misses.find? fun m => m.line == line) = some m →
    m.discard = false → f.2.code ≠ 0 → mfind (dcc s k).lines (dccSet line * 16 + m.way) = some l → l.line = line → (dcc s k).maint = none →
    ∃ u, exec (.dccFillArrive k line) s = .next u ∧
      mfind (dcc u k).lines (dccSet line * 16 + m.way) = (if l.valid = 0 then none else some { l with pending := false }) ∧
      u.l1Fills = (m.waiting.foldl (fun y w => toL1 y w.1 (mergeBytes f.2.bytes w.2.1) (if w.2.2 ≠ 0 then w.2.2 else f.2.code) false) s).l1Fills ∧
      u.dccFills = s.dccFills.erase f ∧ u.mem = s.mem)

/-- The maintenance commands by address and by set and way, with their OP (R291). -/
def Sys2Proof.Machine.maintRows : List (Nat × (Agent → CDie → BitVec 56 → Instr)) :=
  [(0x01, .dccInv), (0x02, .dccClean), (0x03, .dccCleanInv), (0x04, .dccPreload), (0x05, .dccZero)]
def Sys2Proof.Machine.setWayRows : List (Nat × (Agent → CDie → BitVec 56 → Instr)) :=
  [(0x11, .dccInvSw), (0x12, .dccCleanSw), (0x13, .dccCleanInvSw)]

/-- Maintenance of a die cache (R290-R296, R299, R309): a command while one is in progress fails with 0x804, one with bad arguments with
0x805, and neither does anything else; an accepted one by address sets BUSY and visits the lines of its range, one by set and way acts
on the sets and ways named, and INV_ALL leaves no line and no lock, and the fills that were pending are discarded. Completion clears
BUSY, shows the code, and after INV_ALL the cache is READY. INV_ALL is not refused for a LEN of 0 (DEDUCED, log entry 59); that writebacks
reach the home in the same step is the model's choice (DESIGN CHOICE, log entry 47). -/
def Obligations.DieCacheMaintenance : Prop :=
  (∀ row ∈ maintRows ++ setWayRows ++ [(0x1F, .dccInvAll)], ∀ (a : Agent) (k : CDie) (v : BitVec 56) (s : State), cWrite s a k = true →
    (rf s .dccMaintStatus k 0 0 63 63 = 1 → exec (row.2 a k v) s = .next (rfset s .dccMaintStatus k 0 0 47 32 0x804)) ∧
    (rf s .dccMaintStatus k 0 0 63 63 = 0 →
      maintBad row.1 (rf s .dccMaintAddr k 0 0 47 0) (rf s .dccMaintLen k 0 0 48 0) (bits v.toNat 55 40) (bits v.toNat 38 0) (dccLocked s k)
        (bit v.toNat 39) = true →
      exec (row.2 a k v) s = .next (rfset s .dccMaintStatus k 0 0 47 32 0x805))) ∧
  (∀ row ∈ maintRows, ∀ (a : Agent) (k : CDie) (v : BitVec 56) (s : State), cWrite s a k = true → rf s .dccMaintStatus k 0 0 63 63 = 0 →
    let addr := rf s .dccMaintAddr k 0 0 47 0
    let len := rf s .dccMaintLen k 0 0 48 0
    maintBad row.1 addr len (bits v.toNat 55 40) (bits v.toNat 38 0) (dccLocked s k) (bit v.toNat 39) = false →
    exec (row.2 a k v) s = .next (maintGo (setDcc (rfset (rfset s .dccMaintStatus k 0 0 31 0 0) .dccMaintStatus k 0 0 63 63 1) k
      { dcc s k with maint := some ⟨row.1, addr, len, bits v.toNat 55 40, bit v.toNat 39, addr / 128, [], [], 0, 0⟩ }) k)) ∧
  (∀ row ∈ setWayRows, ∀ (a : Agent) (k : CDie) (v : BitVec 56) (s : State), cWrite s a k = true → rf s .dccMaintStatus k 0 0 63 63 = 0 →
    let addr := rf s .dccMaintAddr k 0 0 47 0
    let len := rf s .dccMaintLen k 0 0 48 0
    let ways := bits v.toNat 55 40
    maintBad row.1 addr len ways (bits v.toNat 38 0) (dccLocked s k) (bit v.toNat 39) = false →
    let r := maintSetWay (rfset (rfset s .dccMaintStatus k 0 0 31 0 0) .dccMaintStatus k 0 0 63 63 1) k row.1 (addr % 16384) len
      (if ways = 0 then 0xFFFF else ways)
    let m : Maint := ⟨row.1, addr, len, ways, bit v.toNat 39, addr / 128, [], [], r.2, 0⟩
    exec (row.2 a k v) s = .next (showMaint (setDcc r.1 k { dcc r.1 k with maint := some m }) k m)) ∧
  (∀ (a : Agent) (k : CDie) (v : BitVec 56) (s : State), Canonical s → s.dcc.rising → cWrite s a k = true → rf s .dccMaintStatus k 0 0 63 63 = 0 →
    bits v.toNat 38 0 = 0 →
    ∃ u, exec (.dccInvAll a k v) s = .next u ∧ (dcc u k).lines = [] ∧ (∀ m ∈ (dcc u k).misses, m.discard = true) ∧ dccLocked u k = 0 ∧
      rf u .dccMaintStatus k 0 0 63 63 = 1 ∧ u.mem = s.mem ∧ u.homes = s.homes) ∧
  (∀ (k : CDie) (m : Maint) (s : State), Canonical s → (dcc s k).maint = some m → m.fetching = [] →
    (m.op ≤ 5 → m.addr + m.len ≤ m.pos * 128) →
    ∃ u, exec (.dccMaintComplete k) s = .next u ∧ rf u .dccMaintStatus k 0 0 63 63 = 0 ∧
      rf u .dccMaintStatus k 0 0 47 32 = (if m.skipped ≠ 0 then 0x806 else if m.notPlaced ≠ 0 then 0x807 else 0) ∧
      (m.op = 0x1F → rf u .dccStatus k 0 0 0 0 = 1) ∧ (m.op = 4 → m.lock = true → dccLocked u k = dccLocked s k ||| m.ways % 65536))

/-- What the three operations by address do to a resident line whose bytes the range covers (R291): INV and CLEAN_INV leave no way that
holds it, CLEAN leaves it clean; CLEAN and CLEAN_INV write its dirty bytes to its home, the Sump (R282, R321), INV writes nothing. DCC_CTL
enables only a cache whose INVALIDATED is 1, else code 0x801; disabling it first performs CLEAN_INV, so that no line that it held, and no
dirty byte, is left, and clears INVALIDATED (R297, R298); a lock of ways that are not preloaded, or of more than 12, fails with 0x803
(R300). That the bytes reach the home in the same step is the model's choice (DESIGN CHOICE, log entry 47). -/
def Obligations.DieCacheLinesAndControl : Prop :=
  (∀ (s : State) (k lo hi line key : Nat) (l : DccLine), s.dcc.rising → (dcc s k).lines.rising → dccHas s k line key l → lo ≤ line * 128 → line * 128 + 128 ≤ hi →
    (mfind (dcc (maintLine s k 1 lo hi line) k).lines key = none ∧ (maintLine s k 1 lo hi line).homes = s.homes ∧
      (maintLine s k 1 lo hi line).mem = s.mem) ∧
    (l.dirtyMask ≠ 0 →
      let home := ncWriteNow s l.line (pickBytes l.bytes l.dirtyMask.toNat) (maskList (l.dirtyMask &&& l.poison).toNat)
      mfind (dcc (maintLine s k 2 lo hi line) k).lines key = some { l with dirtyMask := 0 } ∧
        (maintLine s k 2 lo hi line).mem = home.mem ∧ (maintLine s k 2 lo hi line).homes = home.homes) ∧
    (mfind (dcc (maintLine s k 3 lo hi line) k).lines key = none ∧
      (maintLine s k 3 lo hi line).mem = (maintLine s k 2 lo hi line).mem ∧ (maintLine s k 3 lo hi line).homes = (maintLine s k 2 lo hi line).homes)) ∧
  (∀ (a : Agent) (k : CDie) (v : W64) (s : State), Canonical s → cWrite s a k = true → dccEnabled s k = false → bit v.toNat 0 = true →
    ∃ u, exec (.dccCtlWrite a k v) s = .next u ∧ OnlyRegs s u ∧
      (rf s .dccStatus k 0 0 0 0 = 1 → dccEnabled u k = true ∧ rf u .dccCtl k 0 0 0 0 = 1) ∧
      (rf s .dccStatus k 0 0 0 0 = 0 → dccEnabled u k = false ∧ rf u .dccCtl k 0 0 0 0 = 0 ∧ rf u .dccStatus k 0 0 47 32 = 0x801)) ∧
  (∀ (a : Agent) (k : CDie) (v : W64) (s : State), cWrite s a k = true → dccEnabled s k = true → bit v.toNat 0 = false →
    exec (.dccCtlWrite a k v) s = .next (dccDisable (rset s .dccCtl k 0 0 (Reg.dccCtl.spec.write (rget s .dccCtl k) v.toNat)) k)) ∧
  (∀ (a : Agent) (k : CDie) (v : W64) (s : State), Canonical s → s.dcc.rising → (dcc s k).lines.rising → cWrite s a k = true →
    dccEnabled s k = true → bit v.toNat 0 = false →
    ∃ u, exec (.dccCtlWrite a k v) s = .next u ∧ dccEnabled u k = false ∧ rf u .dccStatus k 0 0 0 0 = 0 ∧
      ∀ line key l, dccHas s k line key l → mfind (dcc u k).lines key = none) ∧
  (∀ (a : Agent) (k : CDie) (v : W64) (s : State), Canonical s → cWrite s a k = true →
    let new := v.toNat % 65536
    let added := new - (new &&& dccLocked s k)
    ∃ u, exec (.dccLockWrite a k v) s = .next u ∧ OnlyRegs s u ∧
      ((added = 0 ∨ (added &&& rf s .dccLock k 0 0 31 16 = added ∧ (maskList new).length ≤ 12)) → dccLocked u k = new) ∧
      (¬(added = 0 ∨ (added &&& rf s .dccLock k 0 0 31 16 = added ∧ (maskList new).length ≤ 12)) →
        dccLocked u k = dccLocked s k ∧ rf u .dccStatus k 0 0 47 32 = 0x803))

/-! ### The memory homes -/

/-- What a home holds between requests: one Sump entry and one queued write for a line, and queued lines of 128 bytes. -/
def Sys2Proof.Machine.HomeSound (e : HomeSt) : Prop :=
  (e.sump.map (·.line)).Nodup ∧ (e.writeQ.map (·.1)).Nodup ∧ (∀ w ∈ e.writeQ, w.2.length = 128) ∧ ∀ en ∈ e.sump, Map.rising en.bytes

/-- Nothing at the homes of a home's die goes on by itself: no agent's request waits there, and no answer is on its way to a tile. -/
def Sys2Proof.Machine.HomesQuiet (s : State) (h : Nat) : Prop :=
  s.tileAnswers = [] ∧ ∀ x < 36, homeDie x = homeDie h → ∀ r ∈ (home s x).reqs, r.ofCore = false

/-- A home keeps what is written: after a write is performed, the value of the line that later requests find is the value before with
the written bytes laid over it, whatever of it lies in the Sump, in the write queue or in the stack, and whether or not the write
completes a line or displaces an entry (R320, R321, R333). -/
def Obligations.HomesKeepWhatIsWritten : Prop :=
  ∀ (s : State) (h line : Nat) (bs : Map Byte) (poison : List Nat), Canonical s → s.homes.rising → HomeSound (home s h) → Map.rising bs →
    bs ≠ [] → (∀ b ∈ bs, b.1 < 128) →
    homeValue (homeWrite s h line bs poison) h line = overlay (homeValue s h line) bs ∧ HomeSound (home (homeWrite s h line bs poison) h)

/-- Requests at a home (R320, R321, R325-R329, R333, R338, R360): a read takes what the Sump gives and leaves the rest to the stack; the
stack's return answers it with its data, which are free in a half whose error goes undetected, or with the code of an uncorrectable half,
four symbols wrong or more, logged and reported with the model's severity (DESIGN CHOICE, log entry 26); a write is answered Performed,
and Visible at once where no holder is recorded; a partial entry leaves by read-merge-write; an atomic is answered in lane order, or with its code; a
retrain changes nothing. The errors of cells and of the directory that a turn meets are its operands (DEDUCED, log entry 127). -/
def Obligations.HomesPerformRequests : Prop :=
  (∀ (hm : Home) (n : Nat) (cells : List (Nat × Nat)) (errs : Nat) (r : MemReq) (need : BitVec 128) (s x : State), HomesQuiet s (homeKey hm) →
    takeReq (correctedBy (wearCells s (homeKey hm) cells) (eccDir (homeDie (homeKey hm))) errs) (homeKey hm) n MemReq.isRead = some (r, x) →
    r.kind = .read need → need ≠ 0 → (home s (homeKey hm)).reads.length < readLimit (homeKey hm) → sumpEntry x (homeKey hm) r.line = none →
    inWriteQ x (homeKey hm) r.line = false →
    ∃ u, exec (.homeRead hm ⟨n, cells, errs⟩) s = .next u ∧ (home u (homeKey hm)).reads = (home x (homeKey hm)).reads ++
      [⟨r, (eccData x r.line need.toNat (homeLine x (homeKey hm) r.line)).1, need, stackCode x r.line need.toNat⟩] ∧ u.mem = s.mem) ∧
  (∀ (hm : Home) (n : Nat) (cells : List (Nat × Nat)) (errs : Nat) (r : MemReq) (need : BitVec 128) (en : SumpEntry) (s x : State), HomesQuiet s (homeKey hm) →
    takeReq (correctedBy (wearCells s (homeKey hm) cells) (eccDir (homeDie (homeKey hm))) errs) (homeKey hm) n MemReq.isRead = some (r, x) → r.kind = .read need → (home s (homeKey hm)).reads.length < readLimit (homeKey hm) →
    sumpEntry x (homeKey hm) r.line = some en → en.poison = [] → need.toNat &&& maskOf en.bytes = need.toNat →
    exec (.homeRead hm ⟨n, cells, errs⟩) s = .next (deliverTiles (answerRead x r 0 (overlay (homeLine x (homeKey hm) r.line) en.bytes)))) ∧
  (∀ (hm : Home) (n k : Nat) (r : StackRead) (rest : List StackRead) (s : State), HomesQuiet s (homeKey hm) →
    takeAt (home s (homeKey hm)).reads n = some (r, rest) → s.homes.rising → r.code = 0 → r.req.from_ = .dccFill k →
    ∃ u, exec (.stackReadReturn hm n .good) s = .next u ∧ (home u (homeKey hm)).reads = rest ∧
      ((home s (homeKey hm)).writeQ.length ≤ 16 → u.mem = s.mem) ∧
      u.dccFills = s.dccFills ++ [(k, ⟨r.req.line, bytesFrom 0 (eccData s r.req.line r.need.toNat r.data).1, 0, .dccFill k, true⟩)]) ∧
  (∀ (hm : Home) (n k lo hi : Nat) (r : StackRead) (rest : List StackRead) (s : State), Canonical s → HomesQuiet s (homeKey hm) →
    takeAt (home s (homeKey hm)).reads n = some (r, rest) → r.code = 0 → r.req.from_ = .dccFill k →
    ((r.need.toNat % 2 ^ 64 ≠ 0 ∧ 4 ≤ lo) ∨ ((r.need.toNat >>> 64) % 2 ^ 64 ≠ 0 ∧ 4 ≤ hi)) →
    (∀ j < 2, mget 0 s.memErrs (2 * r.req.line + j) ≤ halfSymbols) →
    ∃ u, exec (.stackReadReturn hm n ⟨.symbols lo, .symbols hi⟩) s = .next u ∧
      u.dccFills = s.dccFills ++ [(k, ⟨r.req.line, bytesFrom 0 r.data, 0x841, .dccFill k, true⟩)] ∧
      (∃ c, u.uszon.faults = s.uszon.faults ++ [⟨0x841, homeDie (homeKey hm), 1, r.req.line * 128, c⟩])) ∧
  (∀ (hm : Home) (n : Nat) (cells : List (Nat × Nat)) (errs : Nat) (r : MemReq) (bs : Map Byte) (p : List Nat) (s x : State), HomesQuiet s (homeKey hm) →
    takeReq (correctedBy (wearCells s (homeKey hm) cells) (eccDir (homeDie (homeKey hm))) errs) (homeKey hm) n MemReq.isWrite = some (r, x) → r.kind = .write bs p →
    ∃ u, exec (.homeWrite hm ⟨n, cells, errs⟩) s = .next u ∧ u.answers = s.answers ++ [⟨r.id, r.from_, true, (dirEntry s r.line).isNone, r.line, 0⟩] ∧
      u.homes = (homeWrite x (homeKey hm) r.line bs p).homes ∧ u.mem = (homeWrite x (homeKey hm) r.line bs p).mem) ∧
  (∀ (hm : Home) (line : Nat) (e : Ecc) (en : SumpEntry) (s : State), sumpEntry s (homeKey hm) line = some en → homeOpen s (homeKey hm) = true →
    exec (.sumpIdleWriteback hm line e) s = .next (sumpRmw s (homeKey hm) en e)) ∧
  (∀ (hm : Home) (n t g id code : Nat) (e : Ecc) (r : MemReq) (rest : List MemReq) (aop ty : BitVec 4) (off : Nat) (ops : List (W64 × W64))
    (outs : List Nat) (s y : State), HomesQuiet s (homeKey hm) → takeAt (home s (homeKey hm)).amuQ n = some (r, rest) → homeOpen s (homeKey hm) = true →
    (∀ q ∈ (home s (homeKey hm)).amuQ.take n, q.line ≠ r.line) → r.from_ = .atomic t g id → r.kind = .atomic aop ty off ops →
    amuExec (setHome s (homeKey hm) { home s (homeKey hm) with amuQ := rest }) (homeKey hm) r e = (code, outs, y) →
    exec (.amuAtomic hm n e) s = .next (if code = 0 then pendAtomic y t g id (r.line * 128 + off) outs
      else pendFail y t g id (r.line * 128 + off) code)) ∧
  (∀ (hm : Home) (n m : Nat) (line : Nat) (s : State), homeNo s line = some (homeKey hm) → lineReq s (homeKey hm) line m = some n →
    (∃ u, exec (.ncRead line m) s = .next u ∧ exec (.homeRead hm ⟨n, [], 0⟩) s = .next u) ∧
    (∃ u, exec (.ncWrite line m) s = .next u ∧ exec (.homeWrite hm ⟨n, [], 0⟩) s = .next u)) ∧
  (∀ (hm : Home) (n m line : Nat) (r : MemReq) (s x : State), HomesQuiet s (homeKey hm) → homeNo s line = some (homeKey hm) → lineReq s (homeKey hm) line m = some n →
    takeReq s (homeKey hm) n MemReq.isAtomic = some (r, x) → exec (.ncAtomic line m) s = .next (atomicArrives x (homeKey hm) r)) ∧
  (∀ (hm : Home) (s : State), exec (.memPeriodicRetrain hm) s = .next s)

/-- Drains, scrub, temperatures and configuration of a home (R323, R329, R338, R342, R343, R497): a write of the drain command while one is in
progress fails with 0x845, one with a bad range with 0x846; an accepted one writes the entries that it names and shows BUSY until it completes with
0, or with 0x843 where a merge had failed; scrub reads every line, counts and writes back what it corrected, leaves lines of the write queue
alone, and poisons and reports what it could not correct (DEDUCED, log entry 71), with the model's severity (DESIGN CHOICE, log entry 26); a
reading is kept; a locked MEM_CFG keeps its value. -/
def Obligations.HomesDrainScrubAndConfigure : Prop :=
  (∀ (hm : Home) (a : Agent) (v : W64) (s : State), homeWritable s a (homeKey hm) = true →
    rf s (smpStatusReg (homeKey hm)) (homeDie (homeKey hm)) (homePkg (homeKey hm)) 0 63 63 = 1 →
    exec (.sumpDrainRange hm a v) s = .next (rfset s (smpStatusReg (homeKey hm)) (homeDie (homeKey hm)) (homePkg (homeKey hm)) 0 47 32 0x845) ∧
    exec (.sumpDrainAll hm a v) s = .next (rfset s (smpStatusReg (homeKey hm)) (homeDie (homeKey hm)) (homePkg (homeKey hm)) 0 47 32 0x845)) ∧
  (∀ (hm : Home) (a : Agent) (v : W64) (s : State), homeWritable s a (homeKey hm) = true → bit v.toNat 0 = true →
    let st := smpStatusReg (homeKey hm)
    let d := homeDie (homeKey hm)
    let p := homePkg (homeKey hm)
    let addr := rf s (drainAddrReg (homeKey hm)) d p 0 47 0
    let len := rf s (drainLenReg (homeKey hm)) d p 0 48 0
    (rf s st d p 0 63 63 = 0 → (len = 0 ∨ 2 ^ 48 < addr + len) →
      exec (.sumpDrainRange hm a v) s = .next (rfset s st d p 0 47 32 0x846)) ∧
    (rf s st d p 0 63 63 = 0 → len ≠ 0 → addr + len ≤ 2 ^ 48 →
      let r := drainHome s (homeKey hm) addr (addr + len)
      exec (.sumpDrainRange hm a v) s = .next (rfset (setHome r.2 (homeKey hm) { home r.2 (homeKey hm) with drain := some r.1 }) st d p 0 63 63 1)) ∧
    (rf s st d p 0 63 63 = 0 →
      let r := drainHomeAll s (homeKey hm)
      exec (.sumpDrainAll hm a v) s = .next (rfset (setHome r.2 (homeKey hm) { home r.2 (homeKey hm) with drain := some r.1 }) st d p 0 63 63 1))) ∧
  (∀ (hm : Home) (lost : Bool) (s : State), Canonical s → (home s (homeKey hm)).drain = some lost →
    let st := smpStatusReg (homeKey hm)
    ∃ u, exec (.sumpDrainComplete hm) s = .next u ∧ rf u st (homeDie (homeKey hm)) (homePkg (homeKey hm)) 0 63 63 = 0 ∧
      rf u st (homeDie (homeKey hm)) (homePkg (homeKey hm)) 0 47 32 = (if lost then 0x843 else 0) ∧ u.mem = s.mem) ∧
  (∀ (hm : Home) (corrected : List Nat) (s : State), homeOpen s (homeKey hm) = true → s.memErrs = [] →
    rf s (if isDeep (homeKey hm) then .lpdCfg else .memCfg) (homeDie (homeKey hm)) (homePkg (homeKey hm)) 0 7 0 ≠ 0 →
    let lines := (corrected.filter fun x => homeNo s x == some (homeKey hm) && !inWriteQ s (homeKey hm) x).foldl kins []
    exec (.memScrub hm corrected []) s = .next (homeCount (homeCount (homeCount s (homeKey hm) .memCorrected .lpdCorrected lines.length)
      (homeKey hm) .memRdLines .lpdRdLines homeLines) (homeKey hm) .memWrLines .lpdWrLines lines.length)) ∧
  (∀ (hm : Home) (x : Nat) (s : State), homeOpen s (homeKey hm) = true → s.memErrs = [] → homeNo s (x / 2) = some (homeKey hm) →
    inWriteQ s (homeKey hm) (x / 2) = false → s.memPoison.contains x = false →
    rf s (if isDeep (homeKey hm) then .lpdCfg else .memCfg) (homeDie (homeKey hm)) (homePkg (homeKey hm)) 0 7 0 ≠ 0 →
    ∃ u, exec (.memScrub hm [] [x]) s = .next u ∧ x ∈ u.memPoison ∧ u.mem = s.mem ∧
      ∃ c, u.uszon.faults = s.uszon.faults ++ [⟨0x844, homeDie (homeKey hm), 1, x / 2 * 128, c⟩]) ∧
  (∀ (hm : Home) (s : State), rf s (if isDeep (homeKey hm) then .lpdCfg else .memCfg) (homeDie (homeKey hm)) (homePkg (homeKey hm)) 0 7 0 = 0 →
    ∀ c b, exec (.memScrub hm c b) s = .next s) ∧
  (∀ (hm : Home) (t : Int) (s : State), s.pins.aux = true → -40 ≤ t → t ≤ 150 →
    let no := sensorNo (match hm with | .fast m => .stack m | .deep x n => .package x n)
    t < (sensorLimits no).2.2 →
    ∃ u, exec (.memTempRead hm (some t)) s = .next u ∧ mfind u.rim.readings no = some t ∧ u.mem = s.mem) ∧
  (∀ (hm : Home) (a : Agent) (v : W64) (s : State), homeWritable s a (homeKey hm) = true →
    let r : Reg := if isDeep (homeKey hm) then .lpdCfg else .memCfg
    let old := rget s r (homeDie (homeKey hm)) (homePkg (homeKey hm))
    exec (.memCfgWrite hm a v) s = .next (if bit old 63 then s else rset s r (homeDie (homeKey hm)) (homePkg (homeKey hm)) 0 (r.spec.write old v.toNat)))

/-! ### The coherent domain -/

/-- A coherent request of an agent is handled at once: its home is open, the agent's die is ACTIVE, and nothing of the line is in
progress or waits before it. -/
def Sys2Proof.Machine.cohTakes (s : State) (a line h : Nat) : Prop :=
  homeNo s line = some h ∧ homeOpen s h = true ∧ dieActive s (agentDie a) = true ∧ a ≤ 130 ∧ lineBusy s h line = false ∧
    (∀ r ∈ (home s h).reqs, r.line ≠ line) ∧ (home s h).sent = 0 ∧ s.homes.rising ∧ HomesQuiet s h

/-- The message that an agent or a home gets, after those already in flight. -/
def Sys2Proof.Machine.sent (s u : State) (a line : Nat) (m : CohMsg) : Prop := u.cohNet = s.cohNet ++ [⟨a, line, m⟩]

/-- Coherent requests (R349-R353, R356, R361): of a line without an entry the home grants the whole line exclusively, of a shared one it
grants a shared copy and records the holder, and it snoops an owner, or the other holders, before it grants; a sole holder's upgrade is
granted without data; a clean or a flush of a line that no one owns, or holds, is acknowledged at once; WbDirty reaches memory, is
acknowledged and leaves the entry without its owner; a core's far atomic takes its place there (R351). A line that cannot be read is not
granted, and its request completes with the code (R328, R330; DEDUCED, log entry 57). -/
def Obligations.CoherentRequestsAreGranted : Prop :=
  (∀ c ∈ ([.rdShared, .rdUnique, .upgrade] : List (AgentId → Nat → Instr)), ∀ (a : AgentId) (line h : Nat) (s : State), cohTakes s a line h →
    dirEntry s line = none → dirFull s h line = false →
    ∃ u, exec (c a line) s = .next u ∧
      ((homeReadNow (roomForRead s h) h line fullMask).1 = 0 → sent s u a line (.grantE (homeReadNow (roomForRead s h) h line fullMask).2.1 false) ∧
        (dirEntry u line).map (fun e => (e.st, e.holders)) = some (.excl a.val, .ptr [])) ∧
      ((homeReadNow (roomForRead s h) h line fullMask).1 ≠ 0 → sent s u a line (.grantErr (homeReadNow (roomForRead s h) h line fullMask).1) ∧ dirEntry u line = none)) ∧
  (∀ (a : AgentId) (line h : Nat) (e : DirEntry) (s : State), cohTakes s a line h → dirEntry s line = some e → e.st = .shared →
    (homeReadNow (roomForRead s h) h line fullMask).1 = 0 →
    ∃ u, exec (.rdShared a line) s = .next u ∧ sent s u a line (.grantS (homeReadNow (roomForRead s h) h line fullMask).2.1) ∧
      (dirEntry u line).map (fun e => (e.st, e.holders)) = some (.shared, addHolder e.holders a)) ∧
  (∀ (a : AgentId) (line h o : Nat) (e : DirEntry) (s : State), cohTakes s a line h → dirEntry s line = some e → ownerOf e.st = some o →
    ∃ u, exec (.rdShared a line) s = .next u ∧ sent s u o line .snpShared ∧ mfind u.txns line = some (newTxn .rdShared a [o]) ∧ u.dir = s.dir) ∧
  (∀ (a : AgentId) (line h : Nat) (e : DirEntry) (s : State), cohTakes s a line h → dirEntry s line = some e → e.st = .shared →
    let others := (holderIds e.holders).filter (· != a.val)
    others ≠ [] →
    (∃ u, exec (.rdUnique a line) s = .next u ∧ u.cohNet = s.cohNet ++ others.map (fun b => ⟨b, line, .snpInv⟩) ∧
      mfind u.txns line = some (newTxn .rdUnique a others)) ∧
    (a.val ∈ holderIds e.holders → ∃ u, exec (.upgrade a line) s = .next u ∧ u.cohNet = s.cohNet ++ others.map (fun b => ⟨b, line, .snpInv⟩) ∧
      mfind u.txns line = some (newTxn .upgrade a others))) ∧
  (∀ (a : AgentId) (line h : Nat) (e : DirEntry) (s : State), cohTakes s a line h → dirEntry s line = some e → e.st = .shared →
    a.val ∈ holderIds e.holders → (∀ b ∈ holderIds e.holders, b = a.val) →
    ∃ u, exec (.upgrade a line) s = .next u ∧ sent s u a line .grantUpgrade ∧
      (dirEntry u line).map (fun e => (e.st, e.holders)) = some (.excl a.val, .ptr [])) ∧
  (∀ (a : AgentId) (line h : Nat) (s : State), cohTakes s a line h →
    ((dirEntry s line = none ∨ ∃ e, dirEntry s line = some e ∧ e.st = .shared) →
      ∃ u, exec (.cleanToHome a line) s = .next u ∧ sent s u a line .cmoAck ∧ u.dir = s.dir) ∧
    (dirEntry s line = none → ∃ u, exec (.flushToHome a line) s = .next u ∧ sent s u a line .cmoAck ∧ u.dir = s.dir) ∧
    (∀ e, dirEntry s line = some e → ∃ u, exec (.flushToHome a line) s = .next u ∧ u.cohNet = s.cohNet ++ (allHolders e).map (fun b => ⟨b, line, .snpInv⟩) ∧
      mfind u.txns line = some (newTxn .flush a (allHolders e)))) ∧
  (∀ (a : AgentId) (line h : Nat) (bs : List Byte) (s : State), homeNo s line = some h → homeOpen s h = true → HomesQuiet s h →
    (mfind s.wbBuf (copyKey a line)).isSome = true → mfind s.txns line = none →
    (s.cohNet.find? fun f => f.agent == a.val && f.line == line && (match f.msg with | .wbDirty _ => true | _ => false)) =
      some ⟨a, line, .wbDirty bs⟩ →
    exec (.wbDirty a line []) s = .next (sendMsg (wbEntry (homeWrite { s with cohNet := s.cohNet.erase ⟨a, line, .wbDirty bs⟩ } h line
      (bytesFrom 0 bs) []) a line) a line .wbAck)) ∧
  (∀ (a : AgentId) (line h : Nat) (w : AmoWait) (s : State), cohTakes s a line h → a.val < 128 → amoSent s a = false →
    (core s a).amo = some w → w.far = true → w.op.addr.toNat / 128 = line →
    exec (.amoFar a line) s = .next (atomicArrives (setHome s h (home s h)) h ⟨0, line, .atomic (BitVec.ofNat 4 (amoCode w.op.op.toNat w.op.word).1)
      (BitVec.ofNat 4 (amoCode w.op.op.toNat w.op.word).2) (w.op.addr.toNat % 128) [(w.op.operand, 0)], .core a, true, false, 0, false⟩))

/-- The four snoops with the state that a copy is left in (R348, R352): none where the copy is given up. -/
def Sys2Proof.Machine.snoopRows : List (CohMsg × (AgentId → Nat → List (Fin 128 × Byte) → Bool → Instr) × (MoesiState → Option MoesiState)) :=
  [(.snpShared, .snpShared, fun st => some (if st = .m ∨ st = .o then .o else .s)),
   (.snpClean, .snpClean, fun st => some (if st = .m ∨ st = .e then .e else .s)),
   (.snpUnique, .snpUnique, fun _ => none), (.snpInv, .snpInv, fun _ => none)]

/-- Snoops at an agent (R348, R352, R355, R357): a modified or owned copy is answered with its data, another without, and the copy is left
as the snoop says or given up, with a core's reservation on it; without a copy the answer is RspAbsent, or RspWbInFlight while its writeback is in flight; within the hold
after a Grant the snoop is kept and nothing is sent until the hold ends. -/
def Obligations.SnoopsAreAnsweredOnce : Prop :=
  (∀ row ∈ snoopRows, ∀ (a : AgentId) (line : Nat) (c : CacheLine) (s x : State), s.caches.rising → s.cores.rising →
    takeMsg s a line (· == row.1) toAgent = some (row.1, x) → mfind s.wbBuf (copyKey a line) = none → copyOf s a line = some c → c.hold = false →
    ∃ u, exec (row.2.1 a line [] false) s = .next u ∧
      sent x u a line (if c.st = .m ∨ c.st = .o then .rspData c.bytes else .rspClean) ∧
      (copyOf u a line = (row.2.2 c.st).map fun st => { c with st := st, hold := false, deferred := none }) ∧
      (a.val < 128 → (core u a).reservation ≠ some line)) ∧
  (∀ row ∈ snoopRows, ∀ (a : AgentId) (line : Nat) (s x : State), takeMsg s a line (· == row.1) toAgent = some (row.1, x) →
    copyOf s a line = none →
    exec (row.2.1 a line [] false) s = .next (sendMsg (loseReservation x a line) a line (if (mfind s.wbBuf (copyKey a line)).isSome then .rspWbInFlight else .rspAbsent))) ∧
  (∀ row ∈ snoopRows, ∀ (a : AgentId) (line : Nat) (c : CacheLine) (s x : State), takeMsg s a line (· == row.1) toAgent = some (row.1, x) →
    copyOf s a line = some c → c.hold = true →
    ∃ u, exec (row.2.1 a line [] false) s = .next u ∧ u.cohNet = x.cohNet ∧ copyOf u a line = some { c with deferred := some row.1 }) ∧
  (∀ row ∈ snoopRows, ∀ (a : AgentId) (line : Nat) (c : CacheLine) (s : State), s.caches.rising → mfind s.wbBuf (copyKey a line) = none →
    copyOf s a line = some c → c.deferred = some row.1 →
    ∃ u, exec (.snoopHoldExpiry a line []) s = .next u ∧ sent s u a line (if c.st = .m ∨ c.st = .o then .rspData c.bytes else .rspClean) ∧
      copyOf u a line = (row.2.2 c.st).map fun st => { c with st := st, hold := false, deferred := none })

/-- The first message of a kind from an agent about a line. -/
def Sys2Proof.Machine.arrives (s : State) (a line h : Nat) (p : CohMsg → Bool) (m : CohMsg) (x : State) : Prop :=
  homeNo s line = some h ∧ HomesQuiet s h ∧ (s.cohNet.find? fun f => f.agent == a && f.line == line && p f.msg) = some ⟨a, line, m⟩ ∧
    x = { s with cohNet := s.cohNet.erase ⟨a, line, m⟩ }

/-- Answers at the home and what the requester then receives (R353-R357, R360, R363, R369): returned data is granted, shared and owned by the
agent that gave it, or exclusively and modified to a unique request; an owner that answers clean becomes a sharer; an absence is counted
and drops the holder; a crossing waits for its WbDirty. A grant puts the line in the agent's cache, held for its hold; WbAck frees the
buffer; CmoAck, Performed, Visible and AmoResult end what waited for them, and an answer that was lost on its way ends the job of its tile. A grant
whose data another agent gave is installed in M (DEDUCED, log entry 54). -/
def Obligations.CoherentTransactionsEnd : Prop :=
  (∀ (a : AgentId) (line h q : Nat) (d : List Byte) (e : DirEntry) (t : Txn) (s x : State),
    arrives s a line h (fun m => match m with | .rspData _ => true | _ => false) (.rspData d) x → mfind s.txns line = some t →
    t.kind = .rdShared → t.req = q → t.waiting = [a.val] → t.wbFrom = [] → t.stalled = none → dirEntry s line = some e → ownerOf e.st = some a.val →
    ∃ u, exec (.rspData a line) s = .next u ∧ sent x u q line (.grantS d) ∧
      (dirEntry u line).map (fun e => (e.st, e.holders)) = some (.owned a, addHolder e.holders q)) ∧
  (∀ (a : AgentId) (line h q : Nat) (d : List Byte) (t : Txn) (s x : State),
    arrives s a line h (fun m => match m with | .rspData _ => true | _ => false) (.rspData d) x → mfind s.txns line = some t →
    t.kind = .rdUnique → t.req = q → t.waiting = [a.val] → t.wbFrom = [] → t.stalled = none →
    ∃ u, exec (.rspData a line) s = .next u ∧ sent x u q line (.grantE d true) ∧
      (dirEntry u line).map (fun e => (e.st, e.holders)) = some (.excl q, .ptr [])) ∧
  (∀ (a : AgentId) (line h q : Nat) (e : DirEntry) (t : Txn) (s x : State), arrives s a line h (· == .rspClean) .rspClean x →
    mfind s.txns line = some t → t.kind = .rdShared → t.req = q → t.waiting = [a.val] → t.wbFrom = [] → t.stalled = none → t.data = none →
    dirEntry s line = some e → ownerOf e.st = some a.val → (homeReadNow (roomForRead s h) h line fullMask).1 = 0 →
    ∃ u, exec (.rspClean a line) s = .next u ∧ sent x u q line (.grantS (homeReadNow (roomForRead s h) h line fullMask).2.1) ∧
      (dirEntry u line).map (fun e => (e.st, e.holders)) = some (.shared, addHolder (addHolder e.holders a) q)) ∧
  (∀ (a : AgentId) (line h b : Nat) (rest : List Nat) (e : DirEntry) (t : Txn) (s x : State), Canonical s →
    arrives s a line h (· == .rspAbsent) .rspAbsent x → mfind s.txns line = some t → a.val ∈ t.waiting → kdel t.waiting a = b :: rest →
    dirEntry s line = some e →
    ∃ u, exec (.rspAbsent a line) s = .next u ∧ rget u .cohSnoopAbsent (homeDie h) = ctrAdd (rget s .cohSnoopAbsent (homeDie h)) 1 ∧
      (dirEntry u line).map (·.holders) = some (delHolder e.holders a) ∧ (mfind u.txns line).map (·.waiting) = some (b :: rest) ∧ u.cohNet = x.cohNet) ∧
  (∀ (a : AgentId) (line h : Nat) (t : Txn) (s x : State), arrives s a line h (· == .rspWbInFlight) .rspWbInFlight x →
    mfind s.txns line = some t → a.val ∈ t.waiting → t.wbFrom = [] →
    ∃ u, exec (.rspWbInFlight a line) s = .next u ∧ (mfind u.txns line).map (·.wbFrom) = some [a.val] ∧ u.cohNet = x.cohNet) ∧
  (∀ (a : AgentId) (line : Nat) (m : CohMsg) (s x : State), takeMsg s a line (fun m => match m with
      | .grantS _ => true | .grantE _ _ => true | .grantUpgrade => true | .grantErr _ => true | _ => false) toAgent = some (m, x) →
    (a.val < 128 → (core s a).amo = none) →
    ∃ u, exec (.grant a line) s = .next u ∧
      (∀ bs, m = .grantS bs → copyOf u a line = some ⟨.s, bs, true, none⟩) ∧
      (∀ bs stale, m = .grantE bs stale → copyOf u a line = some ⟨if stale then .m else .e, bs, true, none⟩) ∧
      (∀ code, m = .grantErr code → u.caches = s.caches) ∧
      (∀ c, m = .grantUpgrade → copyOf s a line = some c → copyOf u a line = some ⟨if c.st = .o then .m else .e, c.bytes, true, none⟩)) ∧
  (∀ (a : AgentId) (line : Nat) (s x : State), takeMsg s a line (· == .wbAck) toAgent = some (.wbAck, x) →
    exec (.wbAck a line) s = .next { x with wbBuf := mdel x.wbBuf (copyKey a line) }) ∧
  (∀ (a : AgentId) (line : Nat) (s x : State), takeMsg s a line (· == .cmoAck) toAgent = some (.cmoAck, x) →
    ∃ u, exec (.cmoAck a line) s = .next u ∧ { u with cores := x.cores } = x ∧ (a.val < 128 → x.cores.rising → line ∉ (core u a).cmo)) ∧
  (∀ (a : AgentId) (line code : Nat) (s x : State), takeMsg s a line (fun m => match m with
      | .grantS _ => true | .grantE _ _ => true | .grantUpgrade => true | .grantErr _ => true | _ => false) toAgent = some (.grantErr code, x) →
    ∃ u, exec (.grant a line) s = .next u ∧ { u with cores := x.cores } = x ∧
      ∀ w, a.val < 128 → x.cores.rising → (core x a).amo = some w → w.far = false → w.op.addr.toNat / 128 = line → (core u a).amo = none) ∧
  (∀ (n id t g i line code : Nat) (p v : Bool) (rest : List StoreAnswer) (s : State),
    takeAt s.answers n = some (⟨id, .store t g i, p, v, line, code⟩, rest) →
    let x := if code = 0 then { s with answers := rest } else imprecise { s with answers := rest } t code
    (∀ gr, group x t g = some gr → exec (.performedVisible n) s = .next (setGroup x t g { gr with
      unperformed := if p then kdel gr.unperformed id else gr.unperformed, invisible := if v then kdel gr.invisible id else gr.invisible })) ∧
    (16 ≤ g → group x t g = none → exec (.performedVisible n) s = .next (setTile x t { tile x t with
      unperformed := if p then kdel (tile x t).unperformed id else (tile x t).unperformed,
      invisible := if v then kdel (tile x t).invisible id else (tile x t).invisible }))) ∧
  (∀ (c : Fin 128) (v : W64) (cont : Bool) (code : Nat) (w : AmoWait) (s : State), Canonical s → s.cores.rising →
    (s.amoResults.find? fun r => r.1 == c.val) = some (c.val, v, cont, code) → (core s c).amo = some w →
    ∃ u, exec (.amoResult c) s = .next u ∧ (core u c).amo = none ∧ u.amoResults = s.amoResults.erase (c.val, v, cont, code) ∧
      rget u .cohAmoFar (agentDie c) = (if inMemory w.op.addr.toNat then ctrAdd (rget s .cohAmoFar (agentDie c)) 1 else rget s .cohAmoFar (agentDie c)))

/-- Atomics of a Tamier core (R361-R364, R376): on a line that it holds modified or exclusively it is done in the L1D, which then holds the
new bytes modified, and the predictor and COH_AMO_NEAR count it; LR reserves its line, SC stores only under its reservation and ends it;
an atomic that goes far waits for the home, and one to a hole completes with E_MEM_DECODE. The function codes are those of the A extension
(PRESUMED, log entry 52), and the severity of records is the model's (DESIGN CHOICE, log entry 26). CLEAR forgets what the predictors of the die's cores had learned. An agent that answers no
snoop, or a directory entry that cannot be read, is reported and loses its die. -/
def Obligations.CoreAtomicsAndDirectoryErrors : Prop :=
  (∀ (c : Fin 128) (op : CoreAmo) (cl : CacheLine) (s : State), Canonical s → (core s c).released = true → (core s c).amo = none →
    dieActive s (agentDie c) = true → amoKnown op.op.toNat = true → isLr op.op.toNat = false → isSc op.op.toNat = false →
    op.addr.toNat % (if op.word then 4 else 8) = 0 → inMemory op.addr.toNat = true → amoGoesFar s c op = false →
    copyOf s c (op.addr.toNat / 128) = some cl → cl.st = .m ∨ cl.st = .e →
    let n := if op.word then 4 else 8
    let old := ofBytes ((cl.bytes.drop (op.addr.toNat % 128)).take n)
    ∃ u, exec (.coreAmo c op) s = .next u ∧
      copyOf u c (op.addr.toNat / 128) = some { cl with st := .m, bytes := overlay cl.bytes (bytesFrom (op.addr.toNat % 128)
        (toBytes n (atomStep (amoCode op.op.toNat op.word).1 (amoCode op.op.toNat op.word).2 old (op.operand.toNat % 2 ^ (8 * n)) 0))) } ∧
      rget u .cohAmoNear (agentDie c) = ctrAdd (rget s .cohAmoNear (agentDie c)) 1 ∧ u.mem = s.mem) ∧
  (∀ (c : Fin 128) (op : CoreAmo) (cl : CacheLine) (s : State), (core s c).released = true → (core s c).amo = none →
    dieActive s (agentDie c) = true → op.addr.toNat % (if op.word then 4 else 8) = 0 → inMemory op.addr.toNat = true →
    copyOf s c (op.addr.toNat / 128) = some cl →
    (op.op.toNat = 2 → ∃ u, exec (.coreAmo c op) s = .next u ∧ (core u c).reservation = some (op.addr.toNat / 128) ∧ u.caches = s.caches) ∧
    (op.op.toNat = 3 → (core s c).reservation ≠ some (op.addr.toNat / 128) → cl.st = .s ∨ cl.st = .o →
      exec (.coreAmo c op) s = .next (setCore s c { core s c with reservation := none }))) ∧
  (∀ (c : Fin 128) (op : CoreAmo) (s : State), (core s c).released = true → (core s c).amo = none → dieActive s (agentDie c) = true →
    amoKnown op.op.toNat = true → op.addr.toNat % (if op.word then 4 else 8) = 0 → inMemory op.addr.toNat = true → amoGoesFar s c op = true →
    exec (.coreAmo c op) s = .next (setCore s c { core s c with amo := some ⟨op, true, false⟩ })) ∧
  (∀ (c : Fin 128) (op : CoreAmo) (s : State), s.cores.rising → (core s c).released = true → (core s c).amo = none →
    dieActive s (agentDie c) = true → amoKnown op.op.toNat = true → isLr op.op.toNat = false → isSc op.op.toNat = false →
    op.addr.toNat % (if op.word then 4 else 8) = 0 → inMemory op.addr.toNat = false → inAperture op.addr.toNat = none →
    inRegisters op.addr.toNat = false →
    ∃ u v, exec (.coreAmo c op) s = .next u ∧ u.amoResults = s.amoResults ++ [(c.val, v, false, 0x840)] ∧
      (core u c).amo = some ⟨op, true, false⟩ ∧ u.mem = s.mem ∧ u.caches = s.caches) ∧
  (∀ (a : Agent) (p : PDie) (v : W64) (s : State), Canonical s → agentMay a .uszonCore = true → dieActive s (8 + p.val) = true → bit v.toNat 2 = true →
    ∃ u, exec (.cohAmoClear a p v) s = .next u ∧ u.predictor = s.predictor.filter (fun e => agentDie (e.1 / 256) != 8 + p.val) ∧
      rget u .cohAmoCtl (8 + p.val) = v.toNat % 4) ∧
  (∀ (a : AgentId) (line : Nat) (t : Txn) (s : State), mfind s.txns line = some t → a.val ∈ t.waiting →
    exec (.snoopTimeout a line) s = .next (dieLossEvent (report s 0x901 (agentDie a) 3 (line * 128) 0) (agentDie a) 4)) ∧
  (∀ (hm : Home) (line : Nat) (s : State), dieActive s (homeDie (homeKey hm)) = true →
    exec (.dirUncorrectable hm line) s = .next (dieLossEvent (report s 0x902 (homeDie (homeKey hm)) 3 (line * 128) 0) (homeDie (homeKey hm)) 4))

/-! ### The Grotto, its queues and its engines -/

/-- An access to a Grotto aperture is allowed: within the Grotto, on an ACTIVE die, and owned by the context that it carries. -/
def Sys2Proof.Machine.apertureOk (s : State) (who : ApertureAgent) (k off n : Nat) : Prop :=
  n ≠ 0 ∧ off + n ≤ grtEnd ∧ apertureCode s k (apertureCtx s who) off n = 0

/-- Ownership and apertures (R10, R186-R190, R211, R576): an ownership write waits behind earlier ones, and when it takes effect all the
granules of its register have their new entries together, and each that becomes valid or changes its context reads as zeros; an allowed read changes no byte, an allowed write writes its bytes and no others,
an allowed atomic is done in the bank, a word that cannot be read gives 0x506; a tile's access to a granule that its context does not own
changes none of its bytes and is an imprecise fault of its job with 0x504, one beyond the array with 0x840 (DEDUCED, log entry 135). -/
def Obligations.GrottoOwnershipAndApertures : Prop :=
  (∀ (a : Agent) (k : CDie) (m : Fin 12) (v : W64) (s : State), dieActive s k = true → agentMay a .uszonCore = true →
    ∃ u, exec (.grtOwnerWrite a k m v) s = .next u ∧ u.regs = s.regs ∧ (grotto u k).bytes = (grotto s k).bytes ∧
      (grotto u k).ownerPending = (grotto s k).ownerPending ++ [(m.val, 0xFF, v.toNat &&& 0xBFBFBFBFBFBFBFBF)]) ∧
  (∀ (k : CDie) (gr : Fin 96) (mask v : Nat) (s : State), Canonical s → s.grottos.rising → (grotto s k).bytes.rising →
    ((grotto s k).ownerPending.find? fun w => w.1 == gr.val / 8) = some (gr.val / 8, mask, v) →
    let new (x : Nat) : Nat := if bit mask (x % 8) then bits v (8 * (x % 8) + 7) (8 * (x % 8)) else ownerEntry s k x
    ∃ u, exec (.granuleOwnerEffect k gr) s = .next u ∧ (grotto u k).ownerPending = (grotto s k).ownerPending.erase (gr.val / 8, mask, v) ∧
      (∀ x, x / 8 = gr.val / 8 → ownerEntry u k x = new x ∧
        (bit mask (x % 8) = true → bit (new x) 7 = true → (bit (ownerEntry s k x) 7 = false ∨ ownerEntry s k x % 64 ≠ new x % 64) →
          ∀ i < 0x100000, mget 0 (grotto u k).bytes (x * 0x100000 + i) = 0)) ∧
      (∀ a, a / 0x100000 / 8 ≠ gr.val / 8 ∨ ownerEntry s k (a / 0x100000) = new (a / 0x100000) →
        mget 0 (grotto u k).bytes a = mget 0 (grotto s k).bytes a)) ∧
  (∀ (who : ApertureAgent) (k : CDie) (off : BitVec 32) (s : State),
    (∀ n e, apertureOk s who k off.toNat n → (grtRead (grtEcc s k off.toNat n e) k off.toNat n).1 = 0 → s.grottos.rising →
      ∃ u, exec (.grottoApertureAccess who k off ⟨.read n, e⟩) s = .next u ∧ (grotto u k).bytes = (grotto s k).bytes ∧
        (grotto u k).poison = (grotto s k).poison ∧ u.regs = s.regs ∧ u.mem = s.mem) ∧
    (∀ n e, apertureOk s who k off.toNat n → (grtRead (grtEcc s k off.toNat n e) k off.toNat n).1 ≠ 0 →
      exec (.grottoApertureAccess who k off ⟨.read n, e⟩) s =
        .next (apertureFail (drpSeen (grtEcc s k off.toNat n e) k off.toNat n (apertureEngine who)) who 0x506)) ∧
    (∀ bs e, apertureOk s who k off.toNat bs.length → s.grottos.rising → (grotto s k).bytes.rising →
      ∃ u, exec (.grottoApertureAccess who k off ⟨.write bs, e⟩) s = .next u ∧
        (∀ i < bs.length, mget 0 (grotto u k).bytes (off.toNat + i) = bs.getD i 0) ∧
        (∀ a, (a < off.toNat ∨ off.toNat + bs.length ≤ a) → mget 0 (grotto u k).bytes a = mget 0 (grotto s k).bytes a)) ∧
    (∀ (aop ty : BitVec 4) (ops : List W64) (e : WordEcc), atomLegal aop.toNat ty.toNat = true → off.toNat % (atomWidth ty.toNat / 8) = 0 →
      apertureOk s who k off.toNat (atomWidth ty.toNat / 8) →
      let r := grtAtomic (grtEcc s k off.toNat (atomWidth ty.toNat / 8) e) k off.toNat aop.toNat ty.toNat
        ((bankOperands aop.toNat ops).map fun p => (p.1 % 2 ^ atomWidth ty.toNat, p.2 % 2 ^ atomWidth ty.toNat)) (apertureEngine who)
      exec (.grottoApertureAccess who k off ⟨.atomic aop ty ops, e⟩) s = .next (if r.1 = 0 then
          apertureMark r.2.2 who k off.toNat (atomWidth ty.toNat / 8) else
        apertureFail (grtEcc s k off.toNat (atomWidth ty.toNat / 8) e) who 0x506))) ∧
  (∀ (t : TileId) (g : Slot) (k : CDie) (off : BitVec 32) (bs : List Byte) (e : WordEcc) (s : State), bs ≠ [] →
    off.toNat + bs.length ≤ grtEnd → dieActive s k = true → grtOwned s k (tile s t).ctx off.toNat bs.length = false →
    s.grottos.rising → (grotto s k).bytes.rising →
    ∃ x, exec (.grottoApertureAccess (.tile t g) k off ⟨.write bs, e⟩) s = .next (imprecise x t 0x504) ∧
      ∀ a, grtOwned s k (tile s t).ctx a 1 = false → mget 0 (grotto x k).bytes a = mget 0 (grotto s k).bytes a) ∧
  (∀ (t : TileId) (g : Slot) (k : CDie) (off : BitVec 32) (n : Nat) (e : WordEcc) (s : State), n ≠ 0 → off.toNat + n ≤ grtEnd →
    dieActive s k = true → grtOwned s k (tile s t).ctx off.toNat n = false →
    exec (.grottoApertureAccess (.tile t g) k off ⟨.read n, e⟩) s = .next (imprecise s t 0x504)) ∧
  (∀ (t : TileId) (g : Slot) (k : CDie) (off : BitVec 32) (bs : List Byte) (e : WordEcc) (s : State), bs ≠ [] →
    grtEnd < off.toNat + bs.length →
    ∃ x, exec (.grottoApertureAccess (.tile t g) k off ⟨.write bs, e⟩) s = .next (imprecise x t 0x840) ∧
      (grtEnd ≤ off.toNat → x = s))

/-- Descriptor queues (R191-R197, R212, R213, R578): an enable that passes its checks starts the queue at slot 0 with phase 1, a refused one
leaves its code, which an enable keeps; a doorbell takes the slots whose phase matches; a head whose WAIT holds, and whose engine has room, runs, and one whose
WAIT does not hold stays, one whose WAIT word cannot be read ends with the code; completion leaves the queue, writes word 1 with bit 63, the
code and INFO, and then signals. A slot is read whole before its phase is looked at (DESIGN CHOICE, log entry 154), and when a descriptor
reads and writes is the model's choice (DESIGN CHOICE, log entry 116). -/
def Obligations.DescriptorQueuesRunInOrder : Prop :=
  (∀ (a : Agent) (k : CDie) (n : Fin 32) (v : W64) (s : State), Canonical s → dieActive s k = true → agentMay a .any = true →
    bit (rget s .grtQcfg k 0 n) 63 = false → bit v.toNat 63 = true →
    let new := Reg.grtQcfg.spec.write (rget s .grtQcfg k 0 n) v.toNat
    (grtEnableCode s k new = 0 → ∃ u, exec (.grtQcfgWrite a k n v) s = .next u ∧ OnlyRegs s u ∧ rget u .grtQcfg k 0 n = new % 2 ^ 64 ∧
      rget u .grtQstat k 0 n = 2 ^ 12 + rf s .grtQstat k 0 n 47 32 <<< 32) ∧
    (grtEnableCode s k new ≠ 0 → exec (.grtQcfgWrite a k n v) s = .next (rfset s .grtQstat k 0 n 47 32 (grtEnableCode s k new)))) ∧
  (∀ (q : QueueRef) (c : QCfg) (s : State), queueUp s (queueOf q).1 (queueOf q).2 = true → qcfg s (queueOf q).1 (queueOf q).2 = some c →
    c.enabled = true → c.recv = false → exec (.grtDoorbell q) s = .next (takeSlots c.slots s (queueOf q).1 (queueOf q).2)) ∧
  (∀ (q : QueueRef) (t : Taken) (s : State), headOf s (queueOf q).1 (queueOf q).2 = some t → queueUp s (queueOf q).1 (queueOf q).2 = true →
    waitCode s (queueOf q).1 t = 0 →
    (canStart s (queueOf q).1 (queueOf q).2 t = true → hasRoom s (queueOf q).1 (queueOf q).2 t.engine = true →
      exec (.descriptorStart q) s = .next (runDesc s (queueOf q).1 (queueOf q).2 t)) ∧
    (waits t = true → canStart s (queueOf q).1 (queueOf q).2 t = true → hasRoom s (queueOf q).1 (queueOf q).2 t.engine = true →
      exec (.waitReevaluate q) s = .next (runDesc s (queueOf q).1 (queueOf q).2 t)) ∧
    (waits t = true → grtWord s (queueOf q).1 (bits (wd t.words 2) 31 0) < wd t.words 3 →
      exec (.waitReevaluate q) s = .next s ∧ exec (.descriptorStart q) s = .next s)) ∧
  (∀ (q : QueueRef) (t : Taken) (s : State), headOf s (queueOf q).1 (queueOf q).2 = some t → queueUp s (queueOf q).1 (queueOf q).2 = true →
    waitCode s (queueOf q).1 t ≠ 0 →
    exec (.descriptorStart q) s = .next (headMod s (queueOf q).1 (queueOf q).2 t fun x =>
      { x with result := some (waitCode s (queueOf q).1 t, 0) })) ∧
  (∀ (q : QueueRef) (t : Taken) (rest : List Taken) (code info : Nat) (s : State), queueUp s (queueOf q).1 (queueOf q).2 = true →
    (queue s (queueOf q).1 (queueOf q).2).taken = t :: rest → t.result = some (code, info) → (t.spoiled = false ∨ t.engine = 7) → t.signal = false →
    grtOwned s (queueOf q).1 t.ctx (t.off + 8) 8 = true →
    Map.wf 0 (grotto s (queueOf q).1).bytes = true → code < 2 ^ 16 →
    ∃ u, exec (.descriptorComplete q) s = .next u ∧
      grtWord u (queueOf q).1 (t.off + 8) = 2 ^ 63 + code <<< 32 + info % 2 ^ 32 ∧ u.mem = s.mem)

/-- Collectives, records, decoder streams and the generator (R205-R209, R229, R236, R269): a contribution that the slot accepts is placed
and answered, one that it does not is answered with its code and places nothing; a slot that times out completes with 0x50D and the number
of arrivals; a destination whose rows are all written gets its record; a decoder's new binding takes effect once no queued mmas names the
stream, or, after the end of another job's queue, leaves the binding as it was; a write of DRP_RNG_CFG takes effect at once, or after the
jobs of the die. When the engines read and write (DESIGN CHOICE, log entry 116), a change that another queue began (DESIGN CHOICE, log entry
114) and how a slot checks a contribution (DESIGN CHOICE, log entry 134) are the model's choices. -/
def Obligations.CollectivesAndBindingsComplete : Prop :=
  (∀ (k : CDie) (n : Nat) (c : Contribution) (rest : List Contribution) (s : State), dieActive s k = true →
    takeAt (grotto s k).contribs n = some (c, rest) →
    let x := setGrotto s k { grotto s k with contribs := rest }
    let r := collAccept x k c.ctx c.slot c.rank c.data
    exec (.collContribution k n) s = .next (partAnswer r.2 c.owner r.1) ∧
    (collCode x k c.ctx c.slot c.rank ≠ 0 → exec (.collContribution k n) s = .next (partAnswer x c.owner (collCode x k c.ctx c.slot c.rank)))) ∧
  (∀ (s : State) (k slot rank : Nat) (d : List Byte) (c : CollSlot), collSlot s k slot = some c → c.mode = 0 → d ≠ [] → d.length = c.len →
    rank < c.n → rank ∉ c.arrived → grtOwned s k c.ctx (c.dst + rank * c.len) c.len = true →
    collAccept s k c.ctx slot rank d = (0, collArrive (grtPut s k (c.dst + rank * c.len) d true) k slot rank)) ∧
  (∀ (k : CDie) (slot : Fin 64) (c : CollSlot) (s : State), dieActive s k = true → collSlot s k slot = some c → c.timeoutUs ≠ 0 →
    exec (.collTimeout k slot) s = .next (takenMod (collDel s k slot) k c.key c.dslot fun t =>
      { t with result := some (0x50D, c.arrived.length), waiting := [] })) ∧
  (∀ (k : CDie) (n : Fin 32) (d : SendDest) (t : Taken) (bs : List Byte) (s : State), dieActive s k = true →
    ((queue s k n).sends.find? recordReady) = some d → d.record = some bs → d.kind = 0 →
    let x := destMod s k n d.desc d.dest fun d => { d with sent := true, left := [partNo d.dest 0] }
    takenAt x k n d.desc = some t →
    exec (.hlxSendRecord k n) s = .next (contribute x d.die t.ctx d.slot d.rank bs ⟨k, n, d.desc, partNo d.dest 0⟩)) ∧
  (∀ (k : CDie) (quad : Fin 32) (st : Fin 8) (c : Rebind) (s : State), dieActive s k = true → s.grottos.rising → (grotto s k).decoders.rising →
    (decoder s k (quad.val * 8 + st.val)).changing = some c → decBusy s k quad (st.val + 1) = false →
    ∃ u, exec (.decoderBindingEffect k quad st) s = .next u ∧ decoder u k (quad.val * 8 + st.val) = ⟨if c.keeps then (decoder s k (quad.val * 8 + st.val)).bound else c.next, none⟩ ∧ u.mem = s.mem ∧ u.regs = s.regs) ∧
  (∀ (k : CDie) (v : W64) (s : State), dieActive s k = true →
    (dieHasJob s k = false → exec (.drpRngCfgWrite .uszon k v) s = .next (rfset (setGrotto s k { grotto s k with drpTablePending := none }) .drpRngCfg k 0 0 0 0
      (b2n (bit v.toNat 0)))) ∧
    (dieHasJob s k = true → exec (.drpRngCfgWrite .uszon k v) s = .next (setGrotto s k { grotto s k with drpTablePending := some (bit v.toNat 0) }))) ∧
  (∀ (k : CDie) (t : Bool) (s : State), Canonical s → (grotto s k).drpTablePending = some t → dieHasJob s k = false →
    ∃ u, exec (.drpTableApply k) s = .next u ∧ rf u .drpRngCfg k 0 0 0 0 = b2n t ∧ u.mem = s.mem ∧ u.jobs = s.jobs)

/-! ### Jobs -/

/-- Submission and the checks of a job (R387, R390, R402): enabling a queue whose ring lies in memory sets HEAD and TAIL to 0 and keeps CODE, another
enable is refused with 0xA02; a TAIL within the ring is taken, another is discarded; the next queue in turn gives its head slot, and a descriptor
that fails a check ends its job at once, with the code of the first check that fails. A region of length 0 is no region (DEDUCED, log entry
76); the numbers that keep the jobs of a wrapped ring apart are the model's own (DESIGN CHOICE, log entry 141). -/
def Obligations.JobsAreSubmittedAndChecked : Prop :=
  (∀ (a : Agent) (k : CDie) (q : Fin 16) (v : W64) (s : State), Canonical s → cWrite s a k = true → bit (rget s .jobQcfg k 0 q) 63 = false →
    bit v.toNat 63 = true →
    let new := Reg.jobQcfg.spec.write (rget s .jobQcfg k 0 q) v.toNat
    let base := bits new 47 8 * 256
    let last := base + 256 * 2 ^ (bits new 59 56 + 4) - 1
    let ok := bits new 59 56 ≤ 8 ∧ ((inFast base = true ∧ inFast last = true) ∨ (inDeep base = true ∧ inDeep last = true))
    ∃ u, exec (.jobQcfgWrite a k q v) s = .next u ∧ OnlyRegs s u ∧ (ok → jobqEnabled u k q = true ∧
        rf u .jobQptr k 0 q 43 32 = 0 ∧ rf u .jobQptr k 0 q 11 0 = 0 ∧ rf u .jobQptr k 0 q 63 48 = rf s .jobQptr k 0 q 63 48) ∧
      (¬ok → jobqEnabled u k q = false ∧ rf u .jobQptr k 0 q 63 48 = 0xA02)) ∧
  (∀ (a : Agent) (k : CDie) (q : Fin 16) (v : W64) (s : State), cWrite s a k = true → s.rim.deepIdle = false →
    exec (.jobSubmit a k q v) s = .next (if v.toNat % 4096 < jobqSize s k q then rfset s .jobQptr k 0 q 11 0 (v.toNat % 4096) else s)) ∧
  (∀ (k : CDie) (q : Fin 16) (bs : List Byte) (s y : State), dieActive s k = true → mainUp s = true →
    (((List.range 16).map fun i => (mget 0 s.rrNext k + i) % 16).find? (queueOpen s k)) = some q.val →
    let head := rf s .jobQptr k 0 q 43 32
    busRead { s with rrNext := mput 0 s.rrNext k ((q.val + 1) % 16) } none false (rf s .jobQcfg k 0 q 47 8 * 256 + 256 * head) 256 = (0, bs, y) →
    exec (.jobTake k) s = .next (jobAccept (rfset y .jobQptr k 0 q 43 32 ((head + 1) % jobqSize y k q))
      (slotJob y k q head) (toWords 32 bs))) ∧
  (∀ (s : State) (r : JobRef) (ws : List W64),
    let j := newJob s r ws
    let x : State := { s with jobs := s.jobs ++ [j], hostSubmits := s.hostSubmits.filter fun h => !JobRef.sameSlot h.job r }
    (descBad j = true → jobAccept s r ws = jobFail x r 0xA01) ∧
    (descBad j = false → ctxCurrent x r.lead j.ctx j.gen = false → jobAccept s r ws = jobFail (noteStale x j.ctx) r 0xA03) ∧
    (descBad j = false → ctxCurrent x r.lead j.ctx j.gen = true → tilesBad x j = true → jobAccept s r ws = jobFail x r 0xA05) ∧
    (descBad j = false → ctxCurrent x r.lead j.ctx j.gen = true → tilesBad x j = false → j.restore = false → jobAccept s r ws = x))

/-- Launch and completion (R50-R52, R371, R391-R394): a waiting job without regions and queues takes the lowest-numbered T free tiles of its
dies, each cleared for it; a job that has waited 10 ms stops later ones; the next group of a rank goes into the lowest free slot with its
arguments and every lane active; a job that is done, and quiet, leaves the dispatcher, and one that is not stays. The dies that take part
(DEDUCED, log entry 74) and ENERGY_UJ as the sum of its samples (DEDUCED, log entry 161) are read from the rules. -/
def Obligations.JobsLaunchAndComplete : Prop :=
  (∀ (r : JobRef) (b : Bool) (j : Job) (s : State), dieActive s r.lead = true → jobFind s r = some j → j.stage = .waiting b → tilesBad s j = false →
    serialWait s j = false → (b = true ∨ blockedBy s j = false) → j.cplHost = true → j.w 17 % 2 ^ 32 = 0 → j.qmask = 0 → j.restore = false →
    let free := (j.dies.flatMap dieTiles).filter (tileFree s)
    (free.length < jobT s j → exec (.jobTilesReserved r) s = .next s) ∧
    (jobT s j ≤ free.length → ∃ u, exec (.jobTilesReserved r) s = .next u ∧
      jobFind u r = some { j with stage := .running, tiles := free.take (jobT s j), ntiles := jobT s j, ins := [], outs := [], cplPa := 0 } ∧
      ∀ i < jobT s j, (tile u (nth free i)).job = some j.ref ∧ (tile u (nth free i)).mode = .running ∧ (tile u (nth free i)).rank = i ∧
        (tile u (nth free i)).alloc = j.alloc ∧ (tile u (nth free i)).slmBytes = j.slmBytes ∧ (tile u (nth free i)).groups = [] ∧
        (tile u (nth free i)).slm = [] ∧ (tile u (nth free i)).l1 = [])) ∧
  (∀ (r : JobRef) (j : Job) (b : Bool) (s : State), jobFind s r = some j → j.stage = .waiting b →
    ∃ u, exec (.jobWaitPriority r) s = .next u ∧ jobFind u r = some { j with stage := .waiting true } ∧ u.tiles = s.tiles ∧ u.regs = s.regs) ∧
  (∀ (r : JobRef) (rank slot : Nat) (j : Job) (s : State), jobFind s r = some j → j.stage = .running → j.endCode = none → rank < j.tiles.length →
    nth j.tiles rank ∉ j.lost → j.blocks = [] → j.rerun = [] → freeSlot s (nth j.tiles rank) j = some slot →
    rank + mget 0 j.next rank * j.tiles.length < j.ngroups →
    ∃ u, exec (.groupLaunch r rank) s = .next u ∧
      group u (nth j.tiles rank) slot = some (newGroup j rank (rank + mget 0 j.next rank * j.tiles.length) 0) ∧
      (jobFind u r).map (·.next) = some (mput 0 j.next rank (mget 0 j.next rank + 1)) ∧ u.mem = s.mem) ∧
  (∀ (r : JobRef) (j : Job) (s : State), jobFind s r = some j → j.stage = .running →
    (((j.endCode.isSome = true ∨ jobDone s j = true) ∧ (∀ t ∈ j.alive, tileQuiet s t = true) ∧ queuesQuiet s j = true) →
      ∃ u, exec (.jobComplete r) s = .next u ∧ ∀ x ∈ u.jobs, x.ref ≠ r) ∧
    (¬((j.endCode.isSome = true ∨ jobDone s j = true) ∧ (∀ t ∈ j.alive, tileQuiet s t = true) ∧ queuesQuiet s j = true) →
      exec (.jobComplete r) s = .next s)) ∧
  (∀ (r : JobRef) (j : Job) (s : State), jobFind s r = some j → j.cplHost = true → j.w 18 % 64 = 0 → recordAllowed s j = true → canPost s = true →
    (∀ x, j.host = some x → x.2.2 = none) → j.ctl = false →
    (jobFinish s r).host.sent = s.host.sent ++ [.write (j.w 18) (wordBytes (recordWords s j)),
      .write (j.w 18 + 56) (wordBytes [recordLast j])])

/-- JOB_CTL and fencing (R385, R395, R404, R405): an operation while one is in progress, or on a job that is not there, fails with 0xA10;
ABORT of a running job sets BUSY and gives it the ending 0xA0C, a waiting one is not named; PREEMPT of a job that cannot be saved fails with
0xA0D; TLB_INV drops the context's translations on the die. A fenced tile holds nothing, is in the fence record, and a job that does not
tolerate its loss ends with 0xA0A. Which of several running jobs of one slot is named is the model's choice (DESIGN CHOICE, log entry 63), and
BUSY is read to stay until the job's record is written (DEDUCED, log entry 77). -/
def Obligations.JobControlAndFencing : Prop :=
  (∀ (a : Agent) (k : CDie) (v : BitVec 60) (s : State), cWrite s a k = true → rf s .jobCtlStatus k 0 0 63 63 = 1 →
    exec (.jobAbort a k v) s = .next (jobCtlCode s k 0xA10) ∧ exec (.jobPreempt a k v) s = .next (jobCtlCode s k 0xA10) ∧
      exec (.tlbInv a k v) s = .next (jobCtlCode s k 0xA10)) ∧
  (∀ (a : Agent) (k : CDie) (v : BitVec 60) (s : State), cWrite s a k = true → rf s .jobCtlStatus k 0 0 63 63 ≠ 1 → jobNamed s k v.toNat = none →
    exec (.jobAbort a k v) s = .next (jobCtlCode s k 0xA10) ∧ exec (.jobPreempt a k v) s = .next (jobCtlCode s k 0xA10)) ∧
  (∀ (a : Agent) (k : CDie) (v : BitVec 60) (j : Job) (s : State), Canonical s → cWrite s a k = true → rf s .jobCtlStatus k 0 0 63 63 ≠ 1 →
    jobNamed s k v.toNat = some j → jobFind s j.ref = some j → j.stage = .running →
    (∃ u, exec (.jobAbort a k v) s = .next u ∧ jobFind u j.ref = some { j with ctl := true, endCode := some 0xA0C } ∧
      rf u .jobCtlStatus k 0 0 63 63 = 1) ∧
    (saveable j = true → ∃ u, exec (.jobPreempt a k v) s = .next u ∧
      jobFind u j.ref = some { j with ctl := true, endCode := some 0, saved := true } ∧ rf u .jobCtlStatus k 0 0 63 63 = 1) ∧
    (saveable j = false → exec (.jobPreempt a k v) s = .next (jobCtlCode s k 0xA0D))) ∧
  (∀ (a : Agent) (k : CDie) (v : BitVec 60) (j : Job) (s : State), cWrite s a k = true → rf s .jobCtlStatus k 0 0 63 63 ≠ 1 →
    (∀ x ∈ s.jobs, x.ref.lead = k → x.ref.queue.val = bits v.toNat 19 16 → x.ref.slot.val = bits v.toNat 11 0 →
      x = j ∧ ∃ b, j.stage = .waiting b) →
    exec (.jobAbort a k v) s = .next (jobCtlCode s k 0xA10) ∧ exec (.jobPreempt a k v) s = .next (jobCtlCode s k 0xA10)) ∧
  (∀ (a : Agent) (k : CDie) (v : BitVec 60) (s : State), Canonical s → cWrite s a k = true → rf s .jobCtlStatus k 0 0 63 63 ≠ 1 →
    ∃ u, exec (.tlbInv a k v) s = .next u ∧ u.tlb = s.tlb.filter (fun e => !(onDie k e.holder && e.ctx == bits v.toNat 59 54)) ∧
      rf u .jobCtlStatus k 0 0 47 32 = 0 ∧ u.mem = s.mem) ∧
  (∀ (t : TileId) (s : State), Canonical s → s.tiles.rising → dieActive s (tileDie t) = true → tileFenced s t = false → (tile s t).job = none →
    s.jobs = [] →
    ∃ u, exec (.tileFence t) s = .next u ∧ tileFenced u t = true ∧ t.val ∈ u.flash.fenceRecord ∧ tile u t = Tile.reset ∧ u.mem = s.mem) ∧
  (∀ (t : TileId) (j : Job) (s : State), dieActive s (tileDie t) = true → tileFenced s t = false → (tile s t).job = some j.ref → s.jobs = [j] →
    j.stage = .running → j.endCode = none → j.tolerant = false → t.val ∉ j.lost →
    ∃ u, exec (.tileFence t) s = .next u ∧ u.jobs = [{ j with lost := j.lost ++ [t.val], tileLost := true, nonrepro := true, endCode := some 0xA0A }])

/-! ### Fabric ports -/

/-- A fabric port (R407-R413, R420, R434-R436): training ends ACTIVE with the lanes that locked, or DOWN with 0xB0C at this module itself, or
counts a failure and goes DOWN; a retry and ENABLE begin it again; a readable frame in sequence enters the receive buffer and is
acknowledged, one out of sequence is asked for again, and a codeword with more than 15 symbol errors is not read; an acknowledgement frees
the replay buffer and a NAK sends its frames again; a cause of R411 takes the port DOWN with 0xB0B; keep-alive, asked for or granted, and its
wake change state and lanes; the oldest packet received leaves the buffer for this module or for the port that its route gives, or, with a
trailer that is not its CRC (R416; PRESUMED, log entry 159), of an unknown type, or without a way, is discarded, counted and, but for POWER
(R433), reported. CODE after a timeout (DESIGN CHOICE, log entry 80), what control frames ask for (DESIGN CHOICE, log entry 119), and the
severity of records (DESIGN CHOICE, log entry 26) are the model's choices. -/
def Obligations.FabricPortsFollowTheirStates : Prop :=
  (∀ (p : Port) (r : TrainResult) (s : State), Canonical s → portSt s p = pTraining → portUp s p = true → (port s p).queue = [] →
    (r.lowerHalf = true ∨ r.upperHalf = true) → r.partnerNode.toNat ≠ nodeOf s (portDie p) →
    let full := r.lowerHalf && r.upperHalf && !r.partnerHalf
    ∃ u, exec (.portTrain p r) s = .next u ∧ portSt u p = pActive ∧ portF u p 7 4 = (if full then 8 else 4) ∧
      portF u p 47 30 = r.partnerNode.toNat ∧ portF u p 29 26 = r.partnerPort.toNat ∧ u.mem = s.mem ∧
      (port u p).told = some ⟨BitVec.ofNat 18 (nodeOf s (portDie p)), BitVec.ofNat 4 p.val, !(r.lowerHalf && r.upperHalf)⟩) ∧
  (∀ (p : Port) (r : TrainResult) (s : State), Canonical s → portSt s p = pTraining → portUp s p = true →
    (r.lowerHalf = true ∨ r.upperHalf = true) → r.partnerNode.toNat = nodeOf s (portDie p) →
    ∃ u, exec (.portTrain p r) s = .next u ∧ portSt u p = pDown ∧ portF u p 63 48 = 0xB0C ∧
      u.uszon.faults = s.uszon.faults ++ [⟨0xB0C, portDie p, 1, p, 0⟩]) ∧
  (∀ (p : Port) (s : State), Canonical s → portSt s p = pTraining → portUp s p = true →
    ∃ u, exec (.portTrainTimeout p) s = .next u ∧ OnlyRegs s u ∧ portSt u p = pDown ∧ portF u p 7 4 = 0 ∧
      portF u p 23 16 = Nat.min 255 (portF s p 23 16 + 1) ∧ portF u p 63 48 = 0xB0B) ∧
  (∀ (p : Port) (s : State), Canonical s → portSt s p = pDown → portF s p 63 48 ≠ 0xB0C → rf s .fabPortCtl (portDie p) (p.val % 4) 0 0 0 = 1 →
    portUp s p = true → ∃ u, exec (.portTrainRetry p) s = .next u ∧ OnlyRegs s u ∧ portSt u p = pTraining) ∧
  (∀ (a : Agent) (p : Port) (v : W64) (s : State), Canonical s → agentMay a .uszonCore = true → portUp s p = true →
    rf s .fabNode (portDie p) 0 0 63 63 = 1 →
    (bit v.toNat 0 = true → (portSt s p = pDisabled ∨ portSt s p = pDown) →
      ∃ u, exec (.fabPortCtlWrite a p v) s = .next u ∧ OnlyRegs s u ∧ portSt u p = pTraining ∧ portF u p 23 16 = 0) ∧
    (bit v.toNat 0 = false → portSt s p = pActive → (port s p).queue = [] →
      ∃ u, exec (.fabPortCtlWrite a p v) s = .next u ∧ portSt u p = pDisabled ∧ portF u p 63 48 = 0xB0B)) ∧
  (∀ (p : Port) (f : DataFrame) (s : State), portSt s p = pActive → portUp s p = true →
    (codewordBad f.symbolErrors = true → exec (.dataFrameReceive p f) s =
      .next (portCount (setPort s p { port s p with nakPending := true }) .fabFecUncorrectable p 1)) ∧
    (codewordBad f.symbolErrors = false → frameKind f ≠ 0 → exec (.dataFrameReceive p f) s = .next (correctedCount s p f.symbolErrors)) ∧
    (s.ports.rising → codewordBad f.symbolErrors = false → frameKind f = 0 → frameSeq f ≠ (port s p).rxSeq →
      ∃ u, exec (.dataFrameReceive p f) s = .next u ∧ (port u p).rx = (port s p).rx ∧ (portControl u p).nak = some (port s p).rxSeq ∧
        u.mem = s.mem) ∧
    (Canonical s → s.ports.rising → codewordBad f.symbolErrors = false → frameKind f = 0 → frameSeq f = (port s p).rxSeq →
      ∃ u, exec (.dataFrameReceive p f) s = .next u ∧ (port u p).rx = (port s p).rx ++ f.packets ∧ (port u p).rxSeq = (port s p).rxSeq + 1 ∧
        (portControl u p).lastAck = frameSeq f ∧ (portControl u p).nak = none ∧ u.mem = s.mem ∧
        (f.symbolErrors.val ≠ 0 → rget u .fabFecCorrected (portDie p) (p.val % 4) = ctrAdd (rget s .fabFecCorrected (portDie p) (p.val % 4)) 1))) ∧
  (∀ (p : Port) (errors : Fin 545) (f : ControlFrame) (s : State), s.ports.rising → portSt s p = pActive → portUp s p = true →
    (port s p).queue = [] → (port s p).replay ≠ [] → codewordBad errors = false → f.nak = none → f.wake = false →
    (∀ x ∈ (port s p).replay.head?, (f.lastAck - frameSeq x).toNat + 1 ≤ (port s p).replay.length) →
    ∃ u, exec (.controlFrameReceive p ⟨errors, some f⟩) s = .next u ∧
      (∀ x ∈ (port s p).replay.head?, (port u p).replay = (port s p).replay.drop ((f.lastAck - frameSeq x).toNat + 1)) ∧ (port u p).missed = 0) ∧
  (∀ (p : Port) (errors : Fin 545) (f : ControlFrame) (x : DataFrame) (rest : List DataFrame) (s : State), Canonical s → s.ports.rising →
    portSt s p = pActive → portUp s p = true → (port s p).queue = [] → (port s p).replay = x :: rest → rest.length < 4095 →
    codewordBad errors = false → f.nak = some (frameSeq x) → f.lastAck = frameSeq x - 1 → f.wake = false → (∀ y ∈ rest, frameSeq y ≠ frameSeq x) →
    ∃ u, exec (.controlFrameReceive p ⟨errors, some f⟩) s = .next u ∧ (port u p).replay = (port s p).replay ∧
      mget 0 (port u p).replays (frameSeq x).toNat = mget 0 (port s p).replays (frameSeq x).toNat + 1 ∧
      rget u .fabReplays (portDie p) (p.val % 4) = ctrAdd (rget s .fabReplays (portDie p) (p.val % 4)) 1) ∧
  (∀ (p : Port) (errors : Fin 545) (s : State), portSt s p ∈ [pActive, pKeepalive, pWaking] → portUp s p = true →
    exec (.controlFrameReceive p ⟨errors, none⟩) s = .next (setPort s p { port s p with missed := (port s p).missed + 1 }) ∧
    ∀ f, codewordBad errors = true → exec (.controlFrameReceive p ⟨errors, some f⟩) s =
      .next (setPort (portCount s .fabFecUncorrectable p 1) p { port s p with missed := (port s p).missed + 1 })) ∧
  (∀ (p : Port) (why : DownCause) (s : State), Canonical s → portSt s p = pActive → portUp s p = true → (port s p).queue = [] →
    (why = .controlMissed → 8 ≤ (port s p).missed) → (why = .replayLimit → ∃ e ∈ (port s p).replays, 16 ≤ e.2) → (why = .partner → (port s p).downAsked = true) →
    ∃ u, exec (.portDown p why) s = .next u ∧ portSt u p = pDown ∧ portF u p 7 4 = 0 ∧ portF u p 63 48 = 0xB0B ∧
      u.uszon.faults = s.uszon.faults ++ [⟨0xB0B, portDie p, 1, p, 0⟩]) ∧
  (∀ (p : Port) (s : State), Canonical s → portUp s p = true → portSt s p = pActive → (port s p).replay = [] → (port s p).queue = [] →
    ((port s p).kaAsked = true ∨ (rf s .fabPortCtl (portDie p) (p.val % 4) 0 4 4 = 1 ∧ (port s p).kaGranted = true)) →
    ∃ u, exec (.keepaliveEnter p) s = .next u ∧ OnlyRegs s u ∧ portSt u p = pKeepalive ∧ portF u p 7 4 = 0) ∧
  (∀ (p : Port) (s : State), Canonical s → portUp s p = true → portSt s p = pWaking → (port s p).queue = [] →
    (∃ u, exec (.portWake p) s = .next u ∧ OnlyRegs s u ∧ portSt u p = pActive ∧ portF u p 7 4 = (if (port s p).fullWidth then 8 else 4)) ∧
    (∃ u, exec (.portWakeTimeout p) s = .next u ∧ portSt u p = pDown ∧ portF u p 63 48 = 0xB0B)) ∧
  (∀ (p : Port) (pk : Packet) (rest : List Packet) (s : State), (port s p).rx = pk :: rest → portUp s p = true →
    let x := setPort s p (rxReturn { port s p with rx := rest } pk)
    (∀ tr, tr ≠ packetTrailer pk → exec (.packetRoute p tr) s = .next (report (portCount x .fabDiscards p 1) 0xB0D (portDie p) 0 p 0)) ∧
    (typeKnown pk.ptype.toNat = false → exec (.packetRoute p (packetTrailer pk)) s = .next (portCount x .fabDiscards p 1)) ∧
    (typeKnown pk.ptype.toNat = true → pk.dst.toNat = nodeOf s (portDie p) → exec (.packetRoute p (packetTrailer pk)) s = .next (deliver x p pk)) ∧
    (∀ q out, typeKnown pk.ptype.toNat = true → routeOf s (portDie p) false pk = .out q out → exec (.packetRoute p (packetTrailer pk)) s = .next (portAccept x q ⟨p, pk, out⟩)) ∧
    (∀ code, typeKnown pk.ptype.toNat = true → routeOf s (portDie p) false pk = .drop code →
      exec (.packetRoute p (packetTrailer pk)) s = .next (if pk.ptype = 6 then portCount x .fabDiscards p 1 else
        report (portCount x .fabDiscards p 1) code (portDie p) 0 p 0)))

/-! ### Packets and connections -/

/-- The requests of R415 with what their receiver performs. -/
def Sys2Proof.Machine.requestRows : List (Nat × (Nat → Instr) × (State → Nat → Packet → Nat × List Byte × State)) :=
  [(1, .writePacket, performWrite), (2, .readPacket, performRead), (3, .atomicPacket, performAtomic), (4, .messagePacket, performMessage),
   (5, .contribPacket, performContrib)]

/-- Delivered packet `n` has the type, leaves the list, and connection `c` takes it. -/
def Sys2Proof.Machine.packetTaken (s : State) (n ty c : Nat) (p : Packet) (x : State) : Prop := (∃ i, takePacket s n ty = some (i, p, x)) ∧ connOf x p = some c

/-- Requests at their receiver (R421-R426, R430, R431): the expected one is performed if PERM allows it, else answered 0xB06, RPSN advances
and its answer goes back; one that meets a full receive queue is answered RX_FULL and RPSN stays; one ahead of its turn is answered by a NAK
with RPSN, at most once a microsecond; a duplicate has no effect but a READ, which is read again; one that no connection takes is
discarded. That a request is performed and answered at once (DESIGN CHOICE, log entry 136), and that a PSN exactly half-way ahead counts as
behind (DESIGN CHOICE, log entry 120), are the model's choices. -/
def Obligations.FabricRequestsArePerformedInOrder : Prop :=
  (∀ row ∈ requestRows, ∀ (n c : Nat) (p : Packet) (s x : State), packetTaken s n row.1 c p x → p.psn.toNat = connSeqF x c 31 0 →
    let next (y : State) : State := setConnSeqF y c 31 0 ((p.psn.toNat + 1) % 2 ^ 32)
    (connF x c (permBit row.1) (permBit row.1) = 1 → ∀ st data y, row.2.2 x c p = (st, data, y) →
      (st ≠ 0xB07 → exec (row.2.1 n) s = .next (respond (next y) c p (answerType row.1) st p.psn data)) ∧
      (st = 0xB07 → exec (row.2.1 n) s = .next (respond y c p 11 0xB07 p.psn []))) ∧
    (connF x c (permBit row.1) (permBit row.1) ≠ 1 → exec (row.2.1 n) s = .next (respond (next x) c p (answerType row.1) 0xB06 p.psn []))) ∧
  (∀ row ∈ requestRows, ∀ (n c : Nat) (p : Packet) (s x : State), packetTaken s n row.1 c p x →
    0 < psnAhead p.psn.toNat (connSeqF x c 31 0) → psnAhead p.psn.toNat (connSeqF x c 31 0) < 2 ^ 31 →
    (∀ t, (conn x c).lastNak = some t → t + 1000 ≤ x.master.toNat) →
    exec (row.2.1 n) s = .next (respond (setConn x c { conn x c with lastNak := some x.master.toNat }) c p 11 0
      (BitVec.ofNat 32 (connSeqF x c 31 0)) [])) ∧
  (∀ row ∈ requestRows, ∀ (n c : Nat) (p : Packet) (s x : State), packetTaken s n row.1 c p x →
    2 ^ 31 ≤ psnAhead p.psn.toNat (connSeqF x c 31 0) →
    (row.1 = 3 → exec (row.2.1 n) s = .next (respond x c p 10 0xB08 p.psn [])) ∧
    (∀ st data y, row.1 = 2 → connF x c 45 45 = 1 → performRead x c p = (st, data, y) →
      exec (row.2.1 n) s = .next (respond y c p 9 st p.psn data)) ∧
    (row.1 ≠ 2 → row.1 ≠ 3 → exec (row.2.1 n) s = .next (respond x c p 8 0 p.psn []))) ∧
  (∀ row ∈ requestRows, ∀ (n i : Nat) (p : Packet) (s x : State), takePacket s n row.1 = some (i, p, x) → connOf x p = none →
    exec (row.2.1 n) s = .next (discard x i)) ∧
  (∀ (s : State) (c : Nat) (p : Packet) (q : QCfg), qcfg s (cDieOf (connDie c)) (32 + connF s c 41 36) = some q →
    (q.enabled = false ∨ q.recv = false ∨
      q.slots ≤ (mget 0 s.rxProduced (connDie c * 64 + connF s c 41 36) + 2 ^ 32 - mget 0 s.rxConsumed (connDie c * 64 + connF s c 41 36)) % 2 ^ 32) →
    performMessage s c p = (0xB07, [], s))

/-- The answers with their types. -/
def Sys2Proof.Machine.answerRows : List (Nat × (Nat → Instr)) := [(8, .ackPacket), (9, .readDataPacket), (10, .atomicResultPacket)]

/-- Answers at the sender, and its timers and queues (R424, R427, R428, R430, R440): an answer ends its request with its status, after its data
is written; a sequence NAK sends again what is unanswered; RX_FULL waits and, after 10 us, is tried again, and beyond RETRY_MAX the connection
is in ERROR, as it is when a request has been sent RETRY_MAX + 1 times; an enable that passes its checks starts the queue at slot 0 and keeps
CODE, and a doorbell word takes the consumer count. -/
def Obligations.FabricAnswersAndRetries : Prop :=
  (∀ row ∈ answerRows, ∀ (n c : Nat) (p : Packet) (r : OutReq) (s x : State), packetTaken s n row.1 c p x → outReq x c p.psn = some r →
    answerType r.pkt.ptype.toNat = row.1 →
    (p.status.toNat ≠ 0 → exec (row.2 n) s = .next (a2aRecords (pumpAll (answered x c r p.status.toNat)))) ∧
    (p.status.toNat = 0 → exec (row.2 n) s =
      .next (a2aRecords (pumpAll (answered (localWrite x c r p.payload).2 c r (localWrite x c r p.payload).1))))) ∧
  (∀ (n c : Nat) (p : Packet) (s x : State), packetTaken s n 11 c p x → p.status = 0 →
    exec (.nakPacket n) s = .next (a2aRecords (resendFrom x c fun r => decide (psnAhead r.pkt.psn.toNat p.psn.toNat < 2 ^ 31)))) ∧
  (∀ (n c : Nat) (p : Packet) (r : OutReq) (s x : State), packetTaken s n 11 c p x → p.status = 0xB07 → outReq x c p.psn = some r →
    (r.rxFull < retryMax x c → exec (.nakPacket n) s = .next (setConn x c { conn x c with out := (conn x c).out.map fun y =>
      if y = r then { y with rxFull := y.rxFull + 1, rxWait := true } else y })) ∧
    (retryMax x c ≤ r.rxFull → exec (.nakPacket n) s = .next (a2aRecords (connError x c (some r.pkt.psn) 0xB07 0xB04)))) ∧
  (∀ (c : Fin 8192) (r : OutReq) (s : State), dieActive s (connDie c) = true → ((conn s c).out.find? (·.rxWait)) = some r →
    exec (.fabRxFullRetry c) s = .next (a2aRecords (pumpAll (resendFrom (setConn s c { conn s c with out := (conn s c).out.map fun y =>
      { y with rxWait := false } }) c fun y => y.pkt.psn == r.pkt.psn)))) ∧
  (∀ (c : Fin 8192) (s : State), dieActive s (connDie c) = true → (∃ r ∈ (conn s c).out, r.sends ≠ 0) →
    (∀ r ∈ (conn s c).out, r.sends ≤ retryMax s c) → exec (.fabRtoExpiry c) s = .next (a2aRecords (resendFrom s c fun _ => true))) ∧
  (∀ (c : Fin 8192) (r : OutReq) (s : State), dieActive s (connDie c) = true →
    (((conn s c).out.filter fun r => r.sends != 0).find? fun r => decide (retryMax s c + 1 ≤ r.sends)) = some r →
    exec (.fabRtoExpiry c) s = .next (a2aRecords (connError s c (some r.pkt.psn) 0xB03 0xB04))) ∧
  (∀ (a : Agent) (l : LDie) (n : Fin 64) (v : W64) (s : State), Canonical s → dieActive s (10 + l.val) = true → agentMay a .uszonCore = true →
    bit (rget s .fabQcfg (10 + l.val) 0 n) 63 = false → bit v.toNat 63 = true →
    let new := Reg.fabQcfg.spec.write (rget s .fabQcfg (10 + l.val) 0 n) v.toNat
    (fabEnableRefused s (10 + l.val) new = false → ∃ u, exec (.fabQcfgWrite a l n v) s = .next u ∧ rget u .fabQcfg (10 + l.val) 0 n = new % 2 ^ 64 ∧
      rget u .fabQstat (10 + l.val) 0 n = 2 ^ 12 + rf s .fabQstat (10 + l.val) 0 n 47 32 <<< 32 ∧ u.mem = s.mem) ∧
    (fabEnableRefused s (10 + l.val) new = true → exec (.fabQcfgWrite a l n v) s = .next (rfset s .fabQstat (10 + l.val) 0 n 47 32 0xB0A))) ∧
  (∀ (l : LDie) (n : Fin 64) (v : W64) (q : QCfg) (s : State), qcfg s (cDieOf (10 + l.val)) (32 + n.val) = some q → q.enabled = true → q.recv = true →
    dieActive s (cDieOf (10 + l.val)) = true → dieActive s (10 + l.val) = true →
    exec (.fabRxqDoorbell l n v) s = .next (grtWrite s (cDieOf (10 + l.val)) q.bell (toBytes 8 v.toNat)))

/-! ### Rimstone -/

/-- Rimstone (R485-R515): a sample is the newest power, its energy is added, and the jobs that run are charged with it; the coordinator shares the budget in force; a die above its
share has every CAP one step slower, one below 95 % of it one step faster; an island steps toward its target; any island but the timebase
and the fabric ports stretches in a droop, for at least 256 clocks, and takes the target then in force when the droop ends; a reading at the trip limit holds the main domain with cause 3, another is kept; a failed
sensor is logged once; a trim follows its margin; pacing takes only legal values; a report goes to each partner with the next SEQ, a
partner's later report is taken, and a grant to this module is held apart from its later reports; a stale partner is logged once; an idle
module enters deep idle and asks for L0p. The stretched clocks beyond 256 are free (DESIGN CHOICE, log entry 84); averages of few samples and
the first SEQ (DESIGN CHOICE, log entry 85), the charge of single samples (DEDUCED, log entry 161) and the severity of records (DESIGN CHOICE,
log entry 26) are the model's. -/
def Obligations.RimstoneGovernsPower : Prop :=
  (∀ (w : BitVec 16) (e : EnergySample) (s : State), Canonical s → s.pins.aux = true → s.pins.auxReset = false →
    ∃ u, exec (.rimPowerSample w e) s = .next u ∧ rf u .rimModPower 14 0 0 15 0 = w.toNat ∧
      rget u .rimModEnergy 14 = (rget s .rimModEnergy 14 + e.input) % 2 ^ 64 ∧
      u.jobs = (chargeJobs s e).jobs ∧ u.rim.samples = (w.toNat :: s.rim.samples).take 1000000 ∧ u.mem = s.mem) ∧
  (∀ s : State, Canonical s → dieActive s 14 = true → s.rim.group = none →
    ∃ u, exec .rimCoordinatorTick s = .next u ∧ rf u .rimModBudget 14 0 0 47 32 = rf s .rimModBudget 14 0 0 63 48 ∧
      (let avg (d : Nat) : Nat := (mget [] s.rim.draw d).foldl (· + ·) 0
       let total := dieList.foldl (fun n d => n + avg d) 0
       u.rim.share = if total = 0 then s.rim.share else dieList.map fun d => (d, (rf s .rimModBudget 14 0 0 63 48 * avg d, total)))) ∧
  (∀ (d : Die) (watts a b : Nat) (s : State), Canonical s → dieActive s (dieIdx d) = true → mfind s.rim.share (dieIdx d) = some (a, b) →
    ∃ u, exec (.rimBudgetCheck d watts) s = .next u ∧ u.mem = s.mem ∧ ∀ n < islandCount (dieIdx d),
      (a < watts * b → isl u (dieIdx d) n 20 16 = Nat.min (slowest (dieIdx d)) (isl s (dieIdx d) n 20 16 + 1)) ∧
      (watts * b * 100 < a * 95 → isl u (dieIdx d) n 20 16 = isl s (dieIdx d) n 20 16 - 1) ∧
      (a * 95 ≤ watts * b * 100 → watts * b ≤ a → isl u (dieIdx d) n 20 16 = isl s (dieIdx d) n 20 16)) ∧
  (∀ (d : Die) (n : Fin 32) (s : State), Canonical s → dieActive s (dieIdx d) = true → n.val < islandCount (dieIdx d) →
    isStretched s (dieIdx d) n = false →
    let cur := isl s (dieIdx d) n 4 0
    let tgt := isl s (dieIdx d) n 12 8
    ∃ u, exec (.rimFreqStep d n) s = .next u ∧ OnlyRegs s u ∧
      isl u (dieIdx d) n 4 0 = (if cur < tgt then cur + 1 else if tgt < cur then cur - 1 else cur) ∧ isl u (dieIdx d) n 12 8 = tgt) ∧
  (∀ (d : Die) (i : Island) (s : State), Canonical s → dieActive s (dieIdx d) = true → droops d i = true →
    let n := islandNo i
    isStretched s (dieIdx d) n = false →
    ∃ u, exec (.droopTrip d i) s = .next u ∧ isStretched u (dieIdx d) n = true ∧
      (n < islandCount (dieIdx d) → isl u (dieIdx d) n 7 7 = 1 ∧
        (isl s (dieIdx d) n 4 0 ≠ isl s (dieIdx d) n 12 8 → isl u (dieIdx d) n 6 6 = 1))) ∧
  (∀ (d : Die) (i : Island) (s : State), droops d i = false → exec (.droopTrip d i) s = .next s) ∧
  (∀ (d : Die) (i : Island) (s : State), Canonical s →
    let n := islandNo i
    isStretched s (dieIdx d) n = true →
    ∃ u f, exec (.droopEnd d i) s = .next u ∧ isStretched u (dieIdx d) n = false ∧
      rget u .rimStretchClocks (dieIdx d) = ctrAdd (rget s .rimStretchClocks (dieIdx d)) (256 + f) ∧
      (n < islandCount (dieIdx d) → isl u (dieIdx d) n 7 5 = 0 ∧ isl u (dieIdx d) n 12 8 =
        Nat.max (Nat.max (isl s (dieIdx d) n 20 16) (isl s (dieIdx d) n 28 24)) (mget 0 s.rim.thermal (dieIdx d)) % 32)) ∧
  (∀ (x : Sensor) (t : Int) (s : State), s.pins.aux = true → -40 ≤ t → t ≤ 150 → t < (sensorLimits (sensorNo x)).2.2 →
    ∃ u, exec (.thermalRead x (some t)) s = .next u ∧ mfind u.rim.readings (sensorNo x) = some t ∧ u.jobs = s.jobs ∧ u.mem = s.mem) ∧
  (∀ (x : Sensor) (t : Int) (s : State), Canonical s → s.pins.aux = true → s.pins.rails = true → s.holds.contains 3 = false → t ≤ 150 →
    (sensorLimits (sensorNo x)).2.2 ≤ t → -40 ≤ t →
    ∃ u, exec (.thermalRead x (some t)) s = .next u ∧ u.jobs = [] ∧ u.mem = [] ∧ u.pins.alertN = false ∧ u.holds.contains 3 = true ∧
      phase u = 8 ∧ rf u .dlkBoot 14 0 0 11 8 = 3) ∧
  (∀ (x : Sensor) (s : State), (s.rim.failed.contains (sensorNo x) = false ∨
      (dieActive s (sensorDie x) = true ∧ rf s .rimStatus (sensorDie x) 0 0 2 2 = 0)) →
    ∃ u, exec (.sensorTimeout x) s = .next u ∧ u.rim.failed.contains (sensorNo x) = true ∧
      u.uszon.faults = s.uszon.faults ++ [⟨0xE02, sensorDie x, 1, sensorNo x, 0⟩]) ∧
  (∀ (d : Die) (n : Fin 32) (margin : Int) (s : State), Canonical s → dieActive s (dieIdx d) = true → n.val < islandCount (dieIdx d) →
    isStretched s (dieIdx d) n = false → s.uszon.running = true →
    let t := isl s (dieIdx d) n 47 40
    (margin < 0 → t < 20 → ∃ u, exec (.agingTrim d n margin) s = .next u ∧ isl u (dieIdx d) n 47 40 = t + 1) ∧
    (2 < margin → ∃ u, exec (.agingTrim d n margin) s = .next u ∧ isl u (dieIdx d) n 47 40 = t - 1) ∧
    (0 ≤ margin → margin ≤ 2 → exec (.agingTrim d n margin) s = .next s)) ∧
  (∀ (k : CDie) (v : W64) (s : State), Canonical s → dieActive s k = true →
    let ok := paceOk (bits v.toNat 47 32) (bits v.toNat 31 16) (bits v.toNat 5 0)
    ∃ u, exec (.rimPaceCtlWrite .uszon k v) s = .next u ∧ OnlyRegs s u ∧
      (ok = true → rget u .rimPaceCtl k = Reg.rimPaceCtl.spec.write (rget s .rimPaceCtl k) v.toNat % 2 ^ 64) ∧
      (ok = false → rf u .rimPaceCtl k 0 0 63 48 = 0xE05)) ∧
  (∀ (via : LDie) (g : Nat) (s : State), dieActive s 14 = true → s.rim.group = some g → s.rim.deepIdle = false →
    ∃ u, exec (.powerReportSend via) s = .next u ∧ u.rim.seq = (s.rim.seq + 1) % 2 ^ 32 ∧
      (u.rim.grantTo, u.rim.grantW) = nextGrant (setBudgetNow s) (waitShare s) ∧ u.rim.waited = 0 ∧ u.mem = s.mem) ∧
  (∀ (n i : Nat) (p : Packet) (s x : State), takePacket s n 6 = some (i, p, x) → bits (wd (toWords 8 p.payload) 0) 63 56 = 1 →
    s.rim.group = some (bits (wd (toWords 8 p.payload) 0) 55 40) →
    ∃ u, exec (.powerPacket n) s = .next u ∧ u.rim.partners = s.rim.partners.map (fun (y : Partner) =>
      if y.node = bits (wd (toWords 8 p.payload) 0) 39 22 ∧
          (match y.seq with
           | none => true
           | some q => let d := (bits (wd (toWords 8 p.payload) 1) 63 32 + 2 ^ 32 - q) % 2 ^ 32
                       decide (0 < d) && decide (d < 2 ^ 31)) = true then
        let me : Bool := bits (wd (toWords 8 p.payload) 2) 37 20 == nodeOf s 10
        ⟨y.node, some (bits (wd (toWords 8 p.payload) 1) 63 32), s.master.toNat, bits (wd (toWords 8 p.payload) 1) 31 16,
         bits (wd (toWords 8 p.payload) 1) 15 0, bits (wd (toWords 8 p.payload) 2) 47 38, bits (wd (toWords 8 p.payload) 2) 37 20,
         bits (wd (toWords 8 p.payload) 2) 19 4, if me then bits (wd (toWords 8 p.payload) 2) 19 4 else y.heldW,
         if me then s.master.toNat else y.heldAt, false⟩
      else y)) ∧
  (∀ (node : BitVec 18) (y : Partner) (s : State), (s.rim.partners.find? fun p => p.node == node.toNat && !p.stale) = some y →
    ∃ u, exec (.groupPartnerStale node) s = .next u ∧ (∀ p ∈ u.rim.partners, p.node = node.toNat → p.stale = true) ∧
      u.uszon.faults = s.uszon.faults ++ [⟨0xE07, 14, 1, node.toNat, 0⟩]) ∧
  (∀ s : State, mainUp s = true → s.rim.deepIdle = false → s.rim.idleMs ≠ 0 → moduleIdle s = true →
    ∃ u, exec .deepIdleEnter s = .next u ∧ u.rim.deepIdle = true ∧ u.host.narrow = true ∧ u.gatedQuads = (activeC s).flatMap (fun k => (List.range 32).map fun q => 32 * k + q) ∧
      u.mem = s.mem)

/-! ### Links -/

/-- MISMATCHES of an end after one more mismatch (R477). -/
def Sys2Proof.Machine.nextMismatch (s : State) (die l : Nat) : Nat :=
  if lkF s die l 17 16 = 0 ∨ (lk s die l).firstMismatch + 1000000000 < s.master.toNat then 1 else lkF s die l 17 16 + 1

/-- The two dies of a link that are up have paths into the mesh without it (R37, R474). -/
def Sys2Proof.Machine.LinkSpare (s : State) (die l : Nat) : Prop :=
  ∀ p pl, linkPartner die l = some (p, pl) → ∀ d, d = die ∨ d = p → linkDie s d = true → hasPath (bothEnds s die l (linkGoes lkDown)) d = true

/-- A set is adopted at both ends (R471, R473, R474): ACTIVE on its modules, with the rate, the partner and a count of failures that starts
anew; fewer modules than before are logged, and what waited for replay is replayed and counted. -/
def Sys2Proof.Machine.LinkAdopted (s u : State) (die l p pl set : Nat) : Prop :=
  lkState u die l = lkActive ∧ lkState u p pl = lkActive ∧ lkF u die l 47 32 = set ∧ lkF u p pl 47 32 = set ∧
    lkF u die l 23 21 = linkRate die l ∧ lkF u die l 31 24 = p ∧ (lk u die l).fails = 0 ∧ (lk u die l).replay = 0 ∧
    rget u .dlkRetries die l = (if (lk s die l).replay = 0 then rget s .dlkRetries die l else ctrAdd (rget s .dlkRetries die l) (lk s die l).replay) ∧
    (popMask set < (lk s die l).before → ⟨0xD04, die, 1, l, 0⟩ ∈ u.uszon.faults) ∧ u.jobs = s.jobs ∧ u.mem = s.mem

/-- A width mismatch is counted at both ends (R476, R477): a full retrain, or a fence of both where either end counts its third. -/
def Sys2Proof.Machine.LinkMismatched (s u : State) (die l p pl : Nat) : Prop :=
  let third := nextMismatch s die l = 3 ∨ nextMismatch s p pl = 3
  lkF u die l 17 16 = nextMismatch s die l ∧ lkF u p pl 17 16 = nextMismatch s p pl ∧ (lk u die l).fresh = true ∧ (lk u p pl).fresh = true ∧
    (third → lkState u die l = lkFenced ∧ lkState u p pl = lkFenced ∧ lkF u die l 63 48 = 0xD03) ∧
    (¬third → lkState u die l = lkRetraining ∧ lkState u p pl = lkRetraining ∧ lkF u die l 63 48 = 0xD05)

/-- The links (R469-R482). An attempt, of the two ends' own tests or of a message that comes in, adopts the modules that both masks have,
once a full retrain or equal masks go before and the confirmation passes; other masks, or a failed confirmation, are a mismatch, the
third fences; without a common module the attempt fails. A message that does not fit the floorplan keeps the link DOWN until RETRAIN.
More than 64 CRC failures make the link retrain, and its flits wait for replay until an attempt succeeds; a third failure sends it DOWN.
RETRAIN and UNFENCE make both ends train afresh. A slice that fails is dropped, and a primary M-link under 8 slices hands its stack to the
secondary. When a DOWN link makes an attempt (DESIGN CHOICE, log entry 138), which C-dies are the mesh (DESIGN CHOICE, log entry 163) and
the severity of the records (DESIGN CHOICE, log entry 26) are the model's choices. -/
def Obligations.LinksTrainMismatchAndFence : Prop :=
  (∀ (x : LinkRef) (mask pmask : BitVec 16) (c : Bool) (s : State) (p pl : Nat), Canonical s → s.links.rising →
    linkPartner (dieIdx x.die) x.index = some (p, pl) → mayTrain s (dieIdx x.die) x.index = true →
    let a := dieIdx x.die
    let l := x.index.val
    let own := identityOf s a l mask.toNat
    let theirs := identityOf s p pl pmask.toNat
    let set := (own.mask &&& theirs.mask).toNat
    let agree := ((lk s a l).fresh = true ∧ (lk s p pl).fresh = true) ∨ own.mask = theirs.mask
    ∃ u, exec (.linkTrain x mask pmask c) s = .next u ∧ (lk u a l).sent = some own ∧ (lk u p pl).sent = some theirs ∧
      (agree → set ≠ 0 → c = true → LinkAdopted s u a l p pl set) ∧
      ((¬agree ∨ (set ≠ 0 ∧ c = false)) → lkF s a l 17 16 ≤ 2 → lkF s p pl 17 16 ≤ 2 → LinkSpare s a l → LinkMismatched s u a l p pl) ∧
      (agree → set = 0 → (lk s a l).fails < 2 → LinkSpare s a l →
        (lk u a l).fails = (lk s a l).fails + 1 ∧ (lk u p pl).fails = (lk s a l).fails + 1 ∧ lkState u a l = lkState s a l)) ∧
  (∀ (x : LinkRef) (e : Exchange) (s : State) (p pl : Nat), Canonical s → s.links.rising →
    linkPartner (dieIdx x.die) x.index = some (p, pl) → mayTrain s (dieIdx x.die) x.index = true →
    let a := dieIdx x.die
    let l := x.index.val
    let own := identityOf s a l e.tested.toNat
    let m := e.received
    let fits := m.proto = 1 ∧ m.dieType.toNat = dieType p ∧ m.dieIndex.toNat = p ∧ m.link.toNat = pl ∧ m.modules.toNat = linkWidth a l
    let set := (own.mask &&& m.mask).toNat
    let agree := ((lk s a l).fresh = true ∧ (lk s p pl).fresh = true ∧ m.retained = false) ∨ own.mask = m.mask
    ∃ u, exec (.linkIdentity x e) s = .next u ∧ (lk u a l).sent = some own ∧
      (fits → linkRate a l ≤ Nat.min own.rate.toNat m.rate.toNat → agree → set ≠ 0 → e.confirm = true → LinkAdopted s u a l p pl set) ∧
      (fits → linkRate a l ≤ Nat.min own.rate.toNat m.rate.toNat → (¬agree ∨ (set ≠ 0 ∧ e.confirm = false)) → lkF s a l 17 16 ≤ 2 →
        lkF s p pl 17 16 ≤ 2 → LinkSpare s a l → LinkMismatched s u a l p pl) ∧
      (¬fits → LinkSpare s a l → lkState u a l = lkDown ∧ lkState u p pl = lkDown ∧ (lk u a l).stopped = true ∧ lkF u a l 63 48 = 0xD02 ∧
        u.uszon.faults = s.uszon.faults ++ [⟨0xD02, a, 1, l, 0⟩])) ∧
  (∀ (x : LinkRef) (fails n : Nat) (s : State), Canonical s → s.links.rising →
    let a := dieIdx x.die
    let l := x.index.val
    (∀ p pl, lkState s a l = lkActive → linkPartner a l = some (p, pl) → isMLink a l = false → 64 < fails → linkDie s a = true →
      linkDie s p = true → (lk s a l).stopped = false → (lk s p pl).stopped = false → (lk s a l).fresh = false → (lk s p pl).fresh = false →
      let mask := (lk s a l).mask
      (∃ u, exec (.linkCrcRetrain x fails n none) s = .next u ∧
        rget u .dlkCrcErrors a l = ctrAdd (rget s .dlkCrcErrors a l) fails ∧ rget u .dlkRetrains a l = ctrAdd (rget s .dlkRetrains a l) 1 ∧
        ((lk s a l).fails < 2 → lkState u a l = lkRetraining ∧ (lk u a l).fails = (lk s a l).fails + 1 ∧
          (lk u a l).replay = (lk s a l).replay + n)) ∧
      (mask = (lk s p pl).mask → mask ≠ 0 → mask &&& BitVec.ofNat 16 (2 ^ linkWidth a l - 1) = mask →
        ∃ u, exec (.linkCrcRetrain x fails n (some goodAttempt)) s = .next u ∧ lkState u a l = lkActive ∧ lkF u a l 47 32 = mask.toNat ∧
          rget u .dlkRetrains a l = ctrAdd (rget s .dlkRetrains a l) 1 ∧ (lk u a l).replay = 0 ∧ u.jobs = s.jobs ∧ u.mem = s.mem ∧
          (0 < (lk s a l).replay + n → rget u .dlkRetries a l = ctrAdd (rget s .dlkRetries a l) ((lk s a l).replay + n)))) ∧
    (lkState s a l = lkActive → fails ≤ 64 ∨ isMLink a l = true → ∀ att,
      ∃ u, exec (.linkCrcRetrain x fails n att) s = .next u ∧ OnlyRegs s u ∧ lkState u a l = lkActive ∧
        rget u .dlkCrcErrors a l = ctrAdd (rget s .dlkCrcErrors a l) fails ∧
        rget u .dlkRetrains a l = rget s .dlkRetrains a l ∧ rget u .dlkRetries a l = ctrAdd (rget s .dlkRetries a l) n) ∧
    (lkState s a l ≠ lkActive → ∀ att, exec (.linkCrcRetrain x fails n att) s = .next s)) ∧
  (∀ (x : LinkRef) (s : State) (p pl : Nat), Canonical s → linkPartner (dieIdx x.die) x.index = some (p, pl) →
    lkState s (dieIdx x.die) x.index ∈ [lkTraining, lkRetraining] → LinkSpare s (dieIdx x.die) x.index →
    ∃ u, exec (.linkTrainFailed x) s = .next u ∧ lkState u (dieIdx x.die) x.index = lkDown ∧ lkState u p pl = lkDown ∧
      u.uszon.faults = s.uszon.faults ++ [⟨0xD01, dieIdx x.die, 1, x.index, 0⟩, ⟨0xD01, p, 1, pl, 0⟩]) ∧
  (∀ (x : LinkRef) (s : State) (p pl : Nat), Canonical s → s.links.rising → linkPartner (dieIdx x.die) x.index = some (p, pl) →
    dieActive s (dieIdx x.die) = true →
    let a := dieIdx x.die
    let l := x.index.val
    let afresh (u : State) : Prop := (lk u a l).fresh = true ∧ (lk u p pl).fresh = true ∧ (lk u a l).stopped = false ∧
      (lk u a l).fails = 0
    (lkState s a l ∈ [lkActive, lkDown] → ∃ u, exec (.linkRetrain .uszon x) s = .next u ∧ afresh u ∧ u.mem = s.mem ∧
      let st := if lkState s a l = lkActive then lkRetraining else lkTraining
      lkState u a l = st ∧ lkState u p pl = st) ∧
    (lkState s a l = lkFenced → ∃ u, exec (.linkUnfence .uszon x) s = .next u ∧ afresh u ∧ (lk u a l).fenced = false ∧ u.mem = s.mem ∧
      (linkDie s p = true → lkState u a l = lkTraining ∧ lkState u p pl = lkTraining) ∧
      (linkDie s p = false → lkState u a l = lkFenced) ∧ lkF u a l 17 16 = 0 ∧ lkF u p pl 17 16 = 0)) ∧
  (∀ (g : Agent) (x : LinkRef) (s : State), g ≠ .uszon ∨ dieActive s (dieIdx x.die) = false →
    exec (.linkRetrain g x) s = .next s ∧ exec (.linkUnfence g x) s = .next s) ∧
  (∀ (m : MBase) (sec : Bool) (n : Fin 32) (pass : Bool) (s : State) (p pl : Nat), Canonical s → s.links.rising →
    let d := 16 + m.val
    let l := b2n sec
    n.val < linkWidth d l → linkPartner d l = some (p, pl) → lkState s d l ≠ lkFenced → dieActive s d = true → dieActive s p = true →
    let e := lk s d l
    let now := pass && (bit e.slices.toNat n || e.fresh)
    let sl := if now then e.slices ||| BitVec.ofNat 32 (2 ^ n.val) else e.slices &&& ~~~ (BitVec.ofNat 32 (2 ^ n.val))
    let ended := e.fresh = false ∨ n.val + 1 = linkWidth d l
    popMask sl.toNat ≠ 0 →
    ∃ u, exec (.mlinkSliceRetrain m sec n pass) s = .next u ∧ (lk u d l).slices = sl ∧
      lkState u d l = lkActive ∧ lkF u d l 47 32 = popMask sl.toNat ∧
      (ended → popMask sl.toNat < e.before → ⟨0xD04, d, 1, l, 0⟩ ∈ u.uszon.faults) ∧
      (sec = false → ended → popMask sl.toNat < 8 → 0 < goodSlices s d 1 → rf s .dlkDieState 14 0 d 16 16 = 0 →
        rf u .dlkDieState 14 0 d 16 16 = 1 ∧ rf u .memStatus d 0 0 2 2 = 1)) ∧
  (∀ (m : MBase) (s : State), exec (.mlinkTestFlit m) s = .next s)

/-! ### The host port -/

/-- The state after queue `q` has fetched its next slot, which holds `c` (R455). -/
def Sys2Proof.Machine.slotFetched (s : State) (q : Nat) (c : HostSlot) : State :=
  count (rfset (setHq s q { hq s q with started := (hq s q).started ++ [⟨sqHead s q, c, none, [], 0, 0⟩] })
    .hifHqStatus 14 0 q 39 28 ((sqHead s q + 1) % (hq s q).size)) .hifRxBytes 14 0 0 256

/-- Host queues (R451-R457, R462-R466): SQ_TAIL offers slots and CQ_HEAD returns entries; a slot that may start is fetched and
checked, a failed check completes it with the first code; NOP, FLAG, WRITE_INLINE and COPY_D2H act and complete, SUBMIT places its
job and moves TAIL, COPY_H2D asks the host within blocks of Max Read Request Size; a completion goes to the next entry of the ring; a failed
or timed-out read ends its command with E_HIF_HOST_ABORT, and after each the copies that still have bytes to ask for go on; after a fatal loss
none starts (R41); the timer signals; an enabled queue starts empty, and one that is disabled stops. The sizes of payloads and reads and
the order of the queues (DESIGN CHOICE, log entry 122) and the reset of the sizes (PRESUMED, log entry 162) are the model's. -/
def Obligations.HostQueueCommandsRun : Prop :=
  (∀ (q : Fin 64) (v : W64) (s : State), s.host.queues.rising →
    (hqState s q = hqActive →
      (∃ u, exec (.hqSqTail q v) s = .next u ∧ hq u q = { hq s q with sqTail := bits v.toNat 11 0 % (hq s q).size } ∧ u.rim.deepIdle = false) ∧
      (0 < (bits v.toNat 11 0 % (hq s q).size + (hq s q).size - (hq s q).cqHead) % (hq s q).size →
        ∃ u, exec (.hqCqHead q v) s = .next u ∧ u.regs = s.regs ∧ hq u q = { hq s q with
          cqHead := bits v.toNat 11 0 % (hq s q).size,
          cqUsed := (hq s q).cqUsed -
            Nat.min ((bits v.toNat 11 0 % (hq s q).size + (hq s q).size - (hq s q).cqHead) % (hq s q).size) (hq s q).cqUsed })) ∧
    (hqState s q ≠ hqActive → exec (.hqSqTail q v) s = .next s ∧ exec (.hqCqHead q v) s = .next s)) ∧
  (∀ (q : Fin 64) (c : HostSlot) (s : State), hqReady s q c = true →
    let x := slotFetched s q c
    let idx := sqHead s q
    let w := wd c.hdr
    ((slotOp c = 0 ∨ 5 < slotOp c) → exec (.hifNop q c) s = .next (hqFinish x q idx (hqCheck x q c) 0)) ∧
    (∀ row ∈ [(1, Instr.hifSubmit q c), (2, .writeInline q c), (3, .copyH2D q c), (4, .copyD2H q c), (5, .flag q c)],
      slotOp c = row.1 → hqCheck x q c ≠ 0 → exec row.2 s = .next (hqFinish x q idx (hqCheck x q c) 0)) ∧
    (hqCheck x q c = 0 →
      (slotOp c = 1 → ∀ y, devWrite x (rf x .jobQcfg (bits (w 4) 50 48) 0 (bits (w 4) 47 44) 47 8 * 256 +
          256 * rf x .jobQptr (bits (w 4) 50 48) 0 (bits (w 4) 47 44) 11 0) (c.body.take 160 ++ List.replicate 96 0) = (0, y) →
        y.regs.rising → rf y .jobQcfg (bits (w 4) 50 48) 0 (bits (w 4) 47 44) 59 56 ≤ 8 →
        ∃ u, exec (.hifSubmit q c) s = .next u ∧ u.mem = y.mem ∧
          rf u .jobQptr (bits (w 4) 50 48) 0 (bits (w 4) 47 44) 11 0 =
            (rf x .jobQptr (bits (w 4) 50 48) 0 (bits (w 4) 47 44) 11 0 + 1) % jobqSize y (bits (w 4) 50 48) (bits (w 4) 47 44) ∧
          (u.hostSubmits.map (·.job)).contains ⟨Fin.ofNat 6 (bits (w 4) 50 48), Fin.ofNat 16 (bits (w 4) 47 44),
            Fin.ofNat 4096 (rf x .jobQptr (bits (w 4) 50 48) 0 (bits (w 4) 47 44) 11 0), 0⟩ = true) ∧
      (slotOp c = 2 → ∀ code y, devWrite x (w 1) (c.body.take (bits (w 0) 39 32)) = (code, y) →
        exec (.writeInline q c) s = .next (hqFinish y q idx code 0)) ∧
      (slotOp c = 3 → (hq s q).started = [] → hqReadsOut x < 1024 → s.host.queues.rising → w 3 ≠ 0 →
        ∃ u, exec (.copyH2D q c) s = .next u ∧ u.mem = s.mem ∧
          .readReq s.nextId (w 2) (Nat.min (w 3) (readRequestMax s - w 2 % readRequestMax s)) ∈ u.host.sent) ∧
      (slotOp c = 4 → ∀ code n y, hqD2H (2 * cdiv (w 3) 128 + 2) x (w 2) (w 1) (w 3) 0 = (code, n, y) →
        exec (.copyD2H q c) s = .next (hqFinish y q idx code n)) ∧
      (slotOp c = 5 → exec (.flag q c) s = .next (hqFinish (postWrite x (w 2) (toBytes 8 (w 5))) q idx 0 0)))) ∧
  (∀ (q : Fin 64) (c : HostSlot) (s : State), Canonical s → s.host.queues.rising → hqReady s q c = true → slotOp c = 0 →
    (hq s q).started = [] → bits (hq s q).cfg 47 44 ≤ 8 →
    ∃ u, exec (.hifNop q c) s = .next u ∧ (hq u q).started = [] ∧ (hq u q).cqUsed = (hq s q).cqUsed + 1 ∧
      cqTail u q = (cqTail s q + 1) % (hq s q).size ∧ sqHead u q = (sqHead s q + 1) % (hq s q).size ∧
      .write (rget s .hifHqCqbase 14 0 q + 16 * cqTail s q)
        (toBytes 8 (hqCheck (slotFetched s q c) q c <<< 48 + ((sqHead s q + 1) % (hq s q).size) <<< 32 + bits (wd c.hdr 0) 31 0) ++
          toBytes 8 ((b2n (hq s q).phase) <<< 63 + (bits (hq s q).cfg 55 48) <<< 48)) ∈ u.host.sent) ∧
  (∀ (q : Fin 64) (tag da n : Nat) (cmd : HostCmd) (s : State), hqReader s q tag = some (cmd, da, n) →
    (∀ bad ∈ [HostCpl.ur, .ca], exec (.hostReadCompletion q tag bad) s = .next (hqReadsGoOn (hqFinish s q cmd.idx 0xC04 cmd.moved))) ∧
    exec (.hostReadCompletion q tag .poisoned) s =
      .next (hqReadsGoOn (hqFinish (count s .hifRxBytes 14 0 0 n) q cmd.idx 0xC04 cmd.moved)) ∧
    exec (.completionTimeout q tag) s = .next (hqReadsGoOn (hqFinish s q cmd.idx 0xC04 cmd.moved)) ∧
    (∀ data, anyFatal s = true → exec (.hostReadCompletion q tag (.ok data)) s = .next s) ∧
    (∀ data code y, data.length = n → anyFatal s = false → devWrite (count s .hifRxBytes 14 0 0 n) da data = (code, y) →
      (code ≠ 0 → exec (.hostReadCompletion q tag (.ok data)) s = .next (hqReadsGoOn (hqFinish y q cmd.idx code cmd.moved))) ∧
      (code = 0 →
        let z := hqUpdate y q cmd.idx fun (c : HostCmd) => { c with reads := c.reads.filter (fun r => r.1 != tag), moved := c.moved + n }
        exec (.hostReadCompletion q tag (.ok data)) s = .next
          (hqReadsGoOn (if cmd.moved + n = wd cmd.slot.hdr 3 then hqFinish z q cmd.idx 0 (cmd.moved + n) else z))))) ∧
  (∀ (q : Fin 64) (c : HostSlot) (s : State), anyFatal s = true → ∀ i ∈ [Instr.hifNop q c, .hifSubmit q c, .writeInline q c, .copyH2D q c,
    .copyD2H q c, .flag q c], exec i s = .next s) ∧
  (∀ (q : Fin 64) (s : State), s.host.queues.rising →
    ((hq s q).unsignalled ≠ 0 → bits (hq s q).cfg 31 16 ≠ 0 → ∃ u, exec (.hqInterruptTimer q) s = .next u ∧ (hq u q).unsignalled = 0 ∧
      (canPost s = true → s.host.msixOn = true → s.host.msixMask = false → (msixDword s (4 * bits (hq s q).cfg 61 56 + 3)).toNat % 2 = 0 →
        u.host.sent = s.host.sent ++ [.msix (bits (hq s q).cfg 61 56)])) ∧
    (Canonical s → hqState s q = hqStopping → (hq s q).started = [] → ∃ u, exec (.hqStopped q) s = .next u ∧ OnlyRegs s u ∧
      hqState u q = hqDisabled ∧ rf u .hifHqStatus 14 0 q 47 40 = bits (hq s q).cfg 55 48)) ∧
  (∀ (q : Fin 64) (v : W64) (s : State), Canonical s → s.host.queues.rising → s.pins.pwrGood = true →
    let g := bits v.toNat 55 48
    let h := bits v.toNat 47 44
    (rf s .hifHqCfg 14 0 q 63 63 = 0 → bit v.toNat 63 = true → s.pins.modReady = true → g ≠ 0 →
      g ≠ rf s .hifHqStatus 14 0 q 47 40 → h ≤ 8 → hqState s q ≠ hqStopping →
      ∃ u, exec (.hifHqCfgWrite .host q v) s = .next u ∧ hqState u q = hqActive ∧ sqHead u q = 0 ∧ cqTail u q = 0 ∧
        hq u q = { HostQueue.reset with cfg := Reg.hifHqCfg.spec.write 0 v.toNat }) ∧
    (rf s .hifHqCfg 14 0 q 63 63 = 0 → bit v.toNat 63 = true → s.pins.modReady = true →
      (g = 0 ∨ g = rf s .hifHqStatus 14 0 q 47 40 ∨ 8 < h ∨ hqState s q = hqStopping) →
      ∃ u, exec (.hifHqCfgWrite .host q v) s = .next u ∧ OnlyRegs s u ∧ hqState u q = hqState s q ∧
        rf u .hifHqStatus 14 0 q 63 48 = 0xC09 ∧ rget u .hifHqCfg 14 0 q = rget s .hifHqCfg 14 0 q) ∧
    (rf s .hifHqCfg 14 0 q 63 63 = 1 → hqState s q = hqActive →
      (bit v.toNat 63 = true → exec (.hifHqCfgWrite .host q v) s = .next s) ∧
      (bit v.toNat 63 = false → ∃ u, exec (.hifHqCfgWrite .host q v) s = .next u ∧ hqState u q = hqStopping ∧ u.host = s.host)))

/-- The port's requests (R442-R450): BAR0 carries the HIF_ and MBX_ windows, the doorbells and the register window; BAR2 reads, writes and
performs AtomicOps at HIF_WIN_BASE x 2^32 + offset, coherently, and BAR4 without coherence while the port has it; before MOD_READY a read
is an Unsupported Request; an error is logged and a hole completes as one; HIF_WIN_BASE takes only listed bases; a configuration read gives
what R442 fixes and the host has set, and a write sets its bits; HIF_RX_BYTES counts what comes in (R467). What a whole access does at once
(DESIGN CHOICE, log entry 46), how AtomicOps map to AOP (PRESUMED, log entry 89), how a failed read completes (DESIGN CHOICE, log entry 124)
the fields of configuration space (DESIGN CHOICE, log entry 96) and
their encodings (PRESUMED, log entry 166) are the model's. -/
def Obligations.HostRequestsFollowTheirBars : Prop :=
  (∀ (off : BitVec 24) (s : State), s.host.linkUp = true → s.host.d3hot = false → s.uszon.recovery = false →
    (off.toNat < 0x20000 → off.toNat % 8 = 0 → ∀ v : W64,
      let addr := if off.toNat < 0x10000 then 0xF00E05000000 + off.toNat else 0xF00E08000000 + (off.toNat - 0x10000)
      exec (.bar0Access off 8 (some v)) s = .next (regWrite (count s .hifRxBytes 14 0 0 8) .host addr v.toNat) ∧
      exec (.bar0Access off 8 none) s = .next (complete s (toBytes 8 (regRead s addr)) false)) ∧
    (0x800000 ≤ off.toNat → off.toNat % 8 = 0 → Canonical s → ∀ v : W64,
      let addr := 0xF00000000000 + rf s .hifRegwinBase 14 0 0 39 23 * 0x800000 + (off.toNat - 0x800000)
      exec (.bar0Access off 8 none) s = .next (complete s (toBytes 8 (regRead s addr)) false) ∧
      (windowWritable addr = false → exec (.bar0Access off 8 (some v)) s = .next (count s .hifRxBytes 14 0 0 8))) ∧
    (∀ q : Fin 64, ∀ v : W64, (off.toNat = 0x100000 + 0x1000 * q.val →
        exec (.bar0Access off 8 (some v)) s = .next (sqTailWrite (count s .hifRxBytes 14 0 0 8) q v.toNat)) ∧
      (off.toNat = 0x100008 + 0x1000 * q.val →
        exec (.bar0Access off 8 (some v)) s = .next (cqHeadWrite (count s .hifRxBytes 14 0 0 8) q v.toNat))) ∧
    (0x140000 ≤ off.toNat → off.toNat < 0x800000 → ∀ n v, exec (.bar0Access off n (some v)) s = .next (count s .hifRxBytes 14 0 0 n) ∧
      exec (.bar0Access off n none) s = .next (complete s (toBytes n (2 ^ (8 * n) - 1)) false))) ∧
  (∀ (off : BitVec 32) (s : State), s.host.linkUp = true → takesRequests s = true → memoryUp s = true →
    let addr := rf s .hifWinBase 14 0 0 47 32 <<< 32 + off.toNat
    (∀ n code data y, busRead s none true addr n = (code, data, y) →
      (code = 0 → exec (.hostWindowAccess off (.read n)) s = .next (complete y data false)) ∧
      (code = 0x840 → ∃ u, exec (.hostWindowAccess off (.read n)) s = .next u ∧ u.host.aer = y.host.aer ++ [0xC0A] ∧
        u.host.sent = y.host.sent ++ [.completion 1 [] false])) ∧
    (∀ data code y, busWrite (count s .hifRxBytes 14 0 0 data.length) none true addr data = (code, y) → 
      exec (.hostWindowAccess off (.write data)) s = .next (if code = 0 then y else aerLog y (if code = 0x840 then 0xC0A else code))) ∧
    (∀ op ∈ [(0, fun dw (a _b : W64) => HostAccess.fetchAdd dw a), (6, fun dw a _ => .swap dw a), (7, fun dw a b => .cas dw a b)],
      ∀ (dw : Bool) (a b : W64), ∀ prior y, addr % (if dw then 4 else 8) = 0 →
        devAtomic (count s .hifRxBytes 14 0 0 (if op.1 = 7 then 2 * (if dw then 4 else 8) else if dw then 4 else 8)) addr op.1
          (if dw then 0 else 2) a (if op.1 = 7 then b else 0) = (0, prior, y) →
        exec (.hostWindowAccess off (op.2 dw a b)) s = .next (complete y (toBytes (if dw then 4 else 8) prior) false))) ∧
  (∀ (off : BitVec 42) (s : State), s.host.linkUp = true → takesRequests s = true → memoryUp s = true → rf s .hifCap 14 0 0 0 0 = 1 →
    (∀ n data y, busRead s none false off.toNat n = (0, data, y) →
      exec (.compatBarAccess off (.read n)) s = .next (complete y data false)) ∧
    (∀ data y, busWrite (count s .hifRxBytes 14 0 0 data.length) none false off.toNat data = (0, y) →
      exec (.compatBarAccess off (.write data)) s = .next y)) ∧
  (∀ (off : BitVec 32) (n : Nat) (s : State), s.host.linkUp = true → memoryUp s = false →
    ∃ u, exec (.hostWindowAccess off (.read n)) s = .next u ∧ u.host.sent = s.host.sent ++ [.completion 1 [] false] ∧ u.mem = s.mem) ∧
  (∀ (v : W64) (s : State), Canonical s → s.pins.pwrGood = true →
    let b := bits v.toNat 47 32
    ∃ u, exec (.hifWinBaseWrite .host v) s = .next u ∧ OnlyRegs s u ∧
      (if b ≤ 0xBF ∨ (0x200 ≤ b ∧ b ≤ 0x37F) ∨ (0x800 ≤ b ∧ b ≤ 0x805) then rf u .hifWinBase 14 0 0 47 32 = b
       else rf u .hifWinBase 14 0 0 47 32 = rf s .hifWinBase 14 0 0 47 32 ∧ rf u .hifWinBase 14 0 0 63 48 = 0xC08)) ∧
  (∀ s : State, Canonical s → s.host.linkUp = true →
    let came (u : State) : Prop := rget u .hifRxBytes 14 = ctrAdd (rget s .hifRxBytes 14) 4 ∧ u.mem = s.mem
    (∀ f, exec (.configRequest (.field f)) s = .next (complete s (toBytes 4 (configField s f)) false)) ∧
    (∀ mps mrrs, ∃ u, exec (.configRequest (.deviceControl mps mrrs)) s = .next u ∧ u.host = { s.host with mps := mps, mrrs := mrrs } ∧ came u) ∧
    (∀ o, ∃ u bs, exec (.configRequest (.read o)) s = .next u ∧ u.host.sent = s.host.sent ++ [.completion 0 bs false] ∧ bs.length = 4) ∧
    (∀ on, ∃ u, exec (.configRequest (.busMaster on)) s = .next u ∧ u.host.busMaster = on ∧ came u) ∧
    (∀ on, ∃ u, exec (.configRequest (.msixEnable on)) s = .next u ∧ u.host.msixOn = on ∧ came u) ∧
    (∀ on, ∃ u, exec (.configRequest (.msixFunctionMask on)) s = .next u ∧ u.host.msixMask = on ∧ came u) ∧
    (∀ compat, ∃ u, exec (.configRequest (.powerState true compat)) s = .next u ∧ u.host.d3hot = true ∧ came u) ∧
    (∀ (v : W32) (i : Fin 6), s.host.bars.rising → ∃ u, exec (.configRequest (.barWrite i v)) s = .next u ∧
      (mget 0 u.host.bars i).toNat = v.toNat &&& (barLayout s i).1 ∧ came u))

/-! ### Uszon -/

/-- Mailbox `m` holds a command of opcode `op` that has passed its checks: `x` is the state after authentication and `b` the request. -/
def Sys2Proof.Machine.Admitted (s : State) (m : Mbx) (op : Nat) (main : Bool) (x : State) (b : List Byte) : Prop :=
  mbxHolds s m.val op = true ∧ s.uszon.recovery = false ∧ b.length = bits (rget s .mbxCmd 14 (m.val - 1)) 31 16 ∧
  (if mbxCritical.contains op then mbxAuth s m.val op b.length = (0, x) else x = s) ∧ b = mbxBytes x m.val b.length ∧
  (main = true → mainUp x = true)

/-- The commands that Uszon answers from what it holds or keeps (R405, R507, R512, R513, R518, R526, R530, R534-R541): each admitted command
has its effect and its response; a command with the wrong length, or with a tag or counter that fails, ends with that code. The owner key is
in the flash's key store, and a commit that fails leaves no good image. The delay of TIMEBASE_SET is free (DESIGN CHOICE, log entry 31),
temperatures are two's complement (DEDUCED, log entry 39), an image's length (DEDUCED, log entry 37), and SET_IDLE 0, jobs that wait at an
FW_ACTIVATE (DESIGN CHOICE, log entry 139) and the commands that need the main domain (DEDUCED, log entry 126) are as the model reads them. -/
def Obligations.ManagementCommandsAnswer : Prop :=
  (∀ (m : Mbx) (s : State) (nonce : W128) (ok : Bool),
    ∀ row ∈ [(0x0001, 0, Instr.getInfo m), (0x0002, 0, .getNonce m), (0x0003, 0, .getSensors m), (0x0101, 8, .ctxCreate m),
        (0x0102, 4, .ctxDestroy m), (0x0103, 16, .grtAssign m), (0x0201, 18, .connCreate m), (0x0202, 2, .connDestroy m),
        (0x0203, 4, .nodeSet m), (0x0301, 2, .dieReset m), (0x0302, 0, .moduleReset m), (0x0303, 2, .fenceClear m),
        (0x0401, 6, .setBudget m), (0x0403, 4, .setIdle m), (0x0404, 5, .setPace m), (0x0501, 1, .rngTable m), (0x0502, 4, .telPeriod m),
        (0x0503, 8, .timebaseSet m), (0x0701, 32, .ownerInstall m nonce ok), (0x0702, 32, .keyRoll m nonce ok),
        (0x0703, 0, .ownerClear m nonce ok), (0x0704, 32, .attest m ok), (0x0705, 4, .attestRead m), (0x0706, 0, .getIdentity m),
        (0x0801, 4, .fwBegin m ok), (0x0803, 0, .fwCommit m ok), (0x0804, 0, .fwActivate m nonce)],
      mbxHolds s m.val row.1 = true → s.uszon.recovery = false → (row.1 = 0x0503 → s.uszon.timeSet = none) →
      (bits (rget s .mbxCmd 14 (m.val - 1)) 31 16 ≠ row.2.1 → exec row.2.2 s = .next (mbxFinish s m.val 0xF02 [])) ∧
      (bits (rget s .mbxCmd 14 (m.val - 1)) 31 16 = row.2.1 → row.1 ∈ mbxCritical → ∀ code x, mbxAuth s m.val row.1 row.2.1 = (code, x) →
        code ≠ 0 → exec row.2.2 s = .next (mbxFinish x m.val code []))) ∧
  (∀ (m : Mbx) (s : State) (b : List Byte), b = [] → Admitted s m 0x0002 false s b → Canonical s →
    ∃ u, exec (.getNonce m) s = .next u ∧ mbxState u m.val = mbDone ∧ mbxF u m.val 63 48 = 0 ∧ mbxF u m.val 31 16 = 25) ∧
  (∀ (m : Mbx) (s x : State) (b : List Byte),
    (Admitted s m 0x0001 false x b → b = [] → s.uszon.running = true → exec (.getInfo m) s = .next (mbxFinish x m.val 0
      (ascii "KZ4-N1A" ++ List.replicate 9 0 ++ [0xA1, 0] ++ List.replicate 6 0 ++ toBytes 8 (imgWord (imgBytes s.uszon.image) 2) ++
        toBytes 4 (bits (imgWord (imgBytes s.uszon.image) 1) 63 32) ++ toBytes 2 (moduleTiles s) ++ [0, 0] ++
        toBytes 16 Config.serialNumber.toNat))) ∧
    (Admitted s m 0x0003 false x b → b = [] → exec (.getSensors m) s = .next (mbxFinish x m.val 0
      ((List.range 32).map (fun n => if dieUsed n then tempByte (hottest s n) else 0xFF) ++ toBytes 8 (rget s .rimModPower 14) ++
        toBytes 8 (rget s .rimModBudget 14) ++ toBytes 8 (rget s .rimModEnergy 14) ++ toBytes 8 s.master.toNat))) ∧
    (Admitted s m 0x0004 true x b → b.length = 8 + 8 * fld b 0 2 → 1 ≤ fld b 0 2 → fld b 0 2 ≤ 120 → zeros b 2 6 = true →
      (∀ a ∈ telAddrs b, liveCounter s a = true) →
      (∀ a ∈ telAddrs b, rget s .telShadowEpoch (bits a 39 32) = rget s .telShadowEpoch (bits (nth (telAddrs b) 0) 39 32)) →
      bit (rget s .telShadowEpoch (bits (nth (telAddrs b) 0) 39 32)) 0 = true →
      exec (.telRead m) s = .next (mbxFinish x m.val 0
        (toBytes 4 (bits (rget s .telShadowEpoch (bits (nth (telAddrs b) 0) 39 32)) 63 32) ++ List.replicate 4 0 ++
          toBytes 8 (rget s .telShadowTb (bits (nth (telAddrs b) 0) 39 32)) ++ (telAddrs b).flatMap fun a => toBytes 8 (shadowOf s a)))) ∧
    (Admitted s m 0x0303 false x b → b.length = 2 → fld b 0 2 < 768 → exec (.fenceClear m) s = .next (mbxFinish
      { x with flash := { x.flash with fenceRecord := kdel x.flash.fenceRecord (fld b 0 2) } } m.val 0 [])) ∧
    (Admitted s m 0x0401 false x b → b.length = 6 →
      (1000 ≤ fld b 0 2 ∧ fld b 0 2 ≤ 3600 ∧ fld b 4 2 ≤ fld b 2 2 ∧ fld b 2 2 ≤ fld b 0 2 → Canonical x →
        ∃ u, exec (.setBudget m) s = .next u ∧ rf u .rimModBudget 14 0 0 63 48 = fld b 0 2 ∧ rf u .rimModBudget 14 0 0 31 16 = fld b 2 2 ∧
          rf u .rimModBudget 14 0 0 15 0 = fld b 4 2 ∧ u.flash.budget = some (fld b 0 2, fld b 2 2, fld b 4 2)) ∧
      (¬ (1000 ≤ fld b 0 2 ∧ fld b 0 2 ≤ 3600 ∧ fld b 4 2 ≤ fld b 2 2 ∧ fld b 2 2 ≤ fld b 0 2) →
        exec (.setBudget m) s = .next (mbxFinish x m.val 0xE06 []))) ∧
    (Admitted s m 0x0402 false x b → Canonical s → b.length = 8 + 4 * fld b 4 1 → fld b 4 1 ≤ 31 → zeros b 5 3 = true →
      (∀ n ∈ groupPartners b, n < 2 ^ 18) →
      ∃ u, exec (.setGroup m) s = .next u ∧ u.rim.group = (if groupPartners b = [] then none else some (fld b 0 2)) ∧
        u.rim.g = fld b 2 2 ∧ u.rim.partners = (groupPartners b).map Partner.new ∧ u.rim.grantTo = 0 ∧ u.rim.grantW = 0) ∧
    (Admitted s m 0x0403 false x b → b.length = 4 → fld b 0 4 ≤ 60000 →
      ∃ u, exec (.setIdle m) s = .next u ∧ u.rim.idleMs = fld b 0 4 ∧ u.flash.idleMs = some (fld b 0 4) ∧
        (fld b 0 4 = 0 → u.rim.deepIdle = false)) ∧
    (Admitted s m 0x0404 true x b → b.length = 5 → paceOk (fld b 0 2) (fld b 2 2) (fld b 4 1) = true →
      ∃ u, exec (.setPace m) s = .next u ∧ u.flash.pace = some (w64 (fld b 0 2 <<< 32 + fld b 2 2 <<< 16 + fld b 4 1 % 64)) ∧
        (Canonical s → ∀ k < 6, rf u .rimPaceCtl k 0 0 47 32 = fld b 0 2 ∧ rf u .rimPaceCtl k 0 0 31 16 = fld b 2 2 ∧
          rf u .rimPaceCtl k 0 0 5 0 = fld b 4 1)) ∧
    (Admitted s m 0x0501 false x b → b.length = 1 → fld b 0 1 ≤ 1 →
      ∃ u, exec (.rngTable m) s = .next u ∧ u.flash.table = (fld b 0 1 == 1)) ∧
    (Admitted s m 0x0502 false x b → b.length = 4 → 100 ≤ fld b 0 4 → fld b 0 4 ≤ 1000000 →
      ∃ u, exec (.telPeriod m) s = .next u ∧ u.uszon.newPeriod = some (fld b 0 4) ∧ u.uszon.nextBoundary = nextBoundary x) ∧
    (Admitted s m 0x0503 false x b → s.uszon.timeSet = none → b.length = 8 → x.master.toNat + 1000000 ≤ fld b 0 8 →
      ∃ u n, exec (.timebaseSet m) s = .next u ∧ u.uszon.timeSet = some (n, fld b 0 8) ∧ x.master.toNat + 20000 ≤ n ∧ n < fld b 0 8) ∧
    (∀ (nonce : W128), let stored (key : Option (BitVec 256)) (u : State) : Prop := u.flash.keys.ownerKey = key ∧ u.uszon.nonce = nonce ∧
        u.uszon.floors = [] ∧ u.mem = x.mem
      (Admitted s m 0x0701 false x b → b.length = 32 → s.flash.keys.ownerKey = none → m.val < 16 →
        ∃ u, exec (.ownerInstall m nonce true) s = .next u ∧ stored (some (BitVec.ofNat 256 (fld b 0 32))) u) ∧
      (Admitted s m 0x0702 false x b → b.length = 32 → s.flash.keys.ownerKey ≠ none → m.val < 16 →
        ∃ u, exec (.keyRoll m nonce true) s = .next u ∧ stored (some (BitVec.ofNat 256 (fld b 0 32))) u) ∧
      (Admitted s m 0x0703 false x b → b = [] → s.flash.keys.ownerKey ≠ none → m.val < 16 →
        ∃ u, exec (.ownerClear m nonce true) s = .next u ∧ stored none u)) ∧
    (Admitted s m 0x0704 false x b → b.length = 32 → s.uszon.signIndex < 2 ^ 40 →
      ∃ u, exec (.attest m true) s = .next u ∧ u.uszon.signIndex = s.uszon.signIndex + 1 ∧
        u.uszon.report.length = (attestReport (if s.uszon.signIndex % 64 = 0 then commitStore s (s.uszon.signIndex + 64) (storeRecord s).2.2
          else s) b).length + 5605 ∧
        (s.uszon.signIndex % 64 = 0 → (storeRecord u).2.1 = s.uszon.signIndex + 64) ∧
        mfind u.uszon.pendingB m.val = some ⟨0x0704, 0, some (0, toBytes 4 5861)⟩) ∧
    (Admitted s m 0x0705 false x b → b.length = 4 → fld b 0 4 % 1024 = 0 →
      exec (.attestRead m) s = .next (mbxFinish x m.val 0 ((s.uszon.report.drop (fld b 0 4)).take 1024))) ∧
    (Admitted s m 0x0706 false x b → b = [] → exec (.getIdentity m) s = .next (mbxFinish x m.val 0
      (toBytes 68 (Config.identityKey s.flash.keys.identitySeed).toNat ++ List.replicate 4 0 ++ toBytes 16 Config.serialNumber.toNat ++
        toBytes 5 s.uszon.signIndex))) ∧
    (Admitted s m 0x0801 false x b → b.length = 4 → fld b 0 4 ≤ 0x100000 →
      ∃ u, exec (.fwBegin m true) s = .next u ∧ u.flash.image = some [] ∧ u.flash.good = false ∧ u.uszon.fwOpen = true ∧
        u.uszon.fwSize = some (fld b 0 4) ∧ u.uszon.fwReceived = 0) ∧
    (Admitted s m 0x0802 false x b → b.length = 8 + fld b 4 2 → 1 ≤ fld b 4 2 → fld b 4 2 ≤ 1016 → zeros b 6 2 = true →
      (s.uszon.fwOpen = true → fld b 0 4 = s.uszon.fwReceived → s.uszon.fwReceived + fld b 4 2 ≤ s.uszon.fwSize.getD 0 →
        ∃ u, exec (.fwChunk m true) s = .next u ∧ u.uszon.fwReceived = s.uszon.fwReceived + fld b 4 2 ∧
          u.flash.image = some (s.flash.image.getD [] ++ (b.drop 8).take (fld b 4 2))) ∧
      (fld b 0 4 ≠ s.uszon.fwReceived → exec (.fwChunk m true) s = .next (mbxFinish x m.val 0xF11 []))) ∧
    (Admitted s m 0x0803 false x b → b = [] → imgCheck (imgBytes x.flash.image) (storeRecord x).2.2 = 0 →
      ∃ u, exec (.fwCommit m true) s = .next u ∧ u.flash.good = true ∧ u.flash.image = x.flash.image ∧ u.uszon.fwOpen = false ∧
        (storeRecord u).2.2 = Nat.max (bits (imgWord (imgBytes x.flash.image) 1) 63 32) (storeRecord x).2.2) ∧
    (∀ ok, Admitted s m 0x0803 false x b → b = [] → ok = false ∨ imgCheck (imgBytes x.flash.image) (storeRecord x).2.2 ≠ 0 →
      ∃ u, exec (.fwCommit m ok) s = .next u ∧ u.flash.good = false ∧ u.flash.image = x.flash.image ∧ storeRecord u = storeRecord x) ∧
    (∀ nonce : W128, Admitted s m 0x0804 false x b → b = [] →
      (x.jobs.any jobRuns = true → exec (.fwActivate m nonce) s = .next (mbxFinish x m.val 0xF06 [])) ∧
      (x.jobs.any jobRuns = false → ∃ u, exec (.fwActivate m nonce) s = .next u ∧ u.mem = [] ∧ u.uszon.nonce = nonce ∧ u.uszon.floors = [])))

/-- Uszon's objects, faults, epochs and sideband (R188, R380-R382, R419-R424, R521-R525, R538, R542, R543): a context is created in the
first free slot with the generation counter; its destruction ends its jobs and waits; granules, connections, node IDs, routes and die
actions follow their requests; a pending command completes when its work is done; the oldest fault is recorded in the ring, the flash and
an in-band interrupt; an epoch stamps every active die and copies its counters; and I3C and MCTP reach mailboxes 31 and 30. Two destroys
of one context complete in the order of acceptance (R522; DESIGN CHOICE, log entry 125). That CONN_DESTROY of any connection ends with E_OK,
what a busy mailbox answers over MCTP and the entry of slot 0xFF (DESIGN CHOICE, log entry 139), a DIE_RESET's severity (DESIGN CHOICE,
log entry 26), and the MCTP formats and the order of the vendor ID's bytes (PRESUMED, log entry 33) are the model's. -/
def Obligations.UszonObjectsFaultsAndSideband : Prop :=
  (∀ (m : Mbx) (s x : State) (b : List Byte),
    (Admitted s m 0x0101 true x b → b.length = 8 → fld b 0 8 < 2 ^ 36 →
      (∀ n, (List.range 64).find? (slotFree s) = some n → Canonical s →
        ∃ u, exec (.ctxCreate m) s = .next u ∧ u.uszon.genCounter = s.uszon.genCounter + 1 ∧ mbxState u m.val = mbDone ∧
          ∀ k < 6, rget u .jobCtx k 0 n = 2 ^ 63 + s.uszon.genCounter.toNat * 2 ^ 44 + fld b 0 8) ∧
      ((List.range 64).find? (slotFree s) = none → exec (.ctxCreate m) s = .next (mbxFinish s m.val 0xA04 []))) ∧
    (Admitted s m 0x0102 true x b → b.length = 4 → fld b 0 1 < 64 → zeros b 1 1 = true →
      (ctxCurrent s 0 (fld b 0 1) (fld b 2 2) = true → exec (.ctxDestroy m) s = .next
        (mbxSettle (ctxJobsEnd s (fld b 0 1)) m.val 0x0102 (.pending (fld b 0 1 + 256 * fld b 2 2) none))) ∧
      (ctxCurrent s 0 (fld b 0 1) (fld b 2 2) = false → exec (.ctxDestroy m) s = .next (mbxFinish s m.val 0xA03 []))) ∧
    (Admitted s m 0x0103 true x b → b.length = 16 → fld b 0 1 ≤ 5 → s.grottos.rising → dieActive s (fld b 0 1) = true →
      (fld b 1 1 = 0xFF ∨ fld b 1 1 < 64 ∧ ctxCurrent s 0 (fld b 1 1) (fld b 2 2) = true) →
      let mask (r : Nat) : Nat := bits (fld b 4 12) (8 * r + 7) (8 * r)
      ∃ u, exec (.grtAssign m) s = .next u ∧
        (grotto u (fld b 0 1)).ownerPending = (grotto s (fld b 0 1)).ownerPending ++ ((List.range 12).filter fun r => mask r != 0).map fun r =>
          (r, mask r, ((if fld b 1 1 = 0xFF then 0 else 128 + fld b 1 1) * 0x0101010101010101) &&& 0xBFBFBFBFBFBFBFBF)) ∧
    (Admitted s m 0x0201 true x b → b.length = 18 → fld b 0 2 < 8192 → fld b 2 1 < 64 → fld b 7 1 < 32 → fld b 8 1 < 64 → fld b 9 1 ≤ 1 →
      fld b 12 4 < 2 ^ 18 → fld b 16 2 < 8192 → zeros b 3 1 = true → zeros b 10 2 = true → Canonical s →
      (ctxCurrent s 0 (fld b 2 1) (fld b 4 2) = false → exec (.connCreate m) s = .next (mbxFinish s m.val 0xA03 [])) ∧
      (ctxCurrent s 0 (fld b 2 1) (fld b 4 2) = true → dieActive s (connDie (fld b 0 2)) = true → connF s (fld b 0 2) 63 63 = 0 →
        ∃ u, exec (.connCreate m) s = .next u ∧ connF u (fld b 0 2) 63 63 = 1 ∧ connF u (fld b 0 2) 62 61 = 1 ∧
          connCtx u (fld b 0 2) = fld b 2 1 ∧ connF u (fld b 0 2) 35 18 = fld b 12 4 ∧ connF u (fld b 0 2) 17 5 = fld b 16 2 ∧
          rget u .fabConnSeq (connDie (fld b 0 2)) 0 (fld b 0 2 % 2048) = 0)) ∧
    (Admitted s m 0x0202 true x b → b.length = 2 → fld b 0 2 < 8192 → Canonical s →
      ∃ u, exec (.connDestroy m) s = .next u ∧ connF u (fld b 0 2) 63 63 = 0 ∧ mfind u.uszon.pendingB m.val = some ⟨0x0202, fld b 0 2, some (0, [])⟩) ∧
    (Admitted s m 0x0203 true x b → b.length = 4 → fld b 0 4 < 2 ^ 18 →
      (portsDisabled x = false → exec (.nodeSet m) s = .next (mbxFinish x m.val 0xF04 [])) ∧
      (portsDisabled x = true → Canonical x → ∃ u, exec (.nodeSet m) s = .next u ∧
        ∀ l < 4, rget u .fabNode (10 + l) = 2 ^ 63 + fld b 0 4)) ∧
    (Admitted s m 0x0204 true x b → b.length = 8 + 8 * fld b 4 2 → fld b 0 1 ≤ 1 → 1 ≤ fld b 4 2 → fld b 4 2 ≤ 64 →
      fld b 2 2 + fld b 4 2 ≤ 512 → zeros b 1 1 = true → zeros b 6 2 = true → Canonical s →
      let r : Reg := if fld b 0 1 = 0 then .fabGroupRt else .fabMemberRt
      ∃ u, exec (.routeSet m) s = .next u ∧ ∀ l < 4, ∀ i < fld b 4 2,
        rget u r (10 + l) 0 (fld b 2 2 + i) = r.spec.write 0 (fld b (8 + 8 * i) 8) % 2 ^ 64) ∧
    (Admitted s m 0x0301 true x b → b.length = 2 → ∀ code y, dieAction x (fld b 1 1) (fld b 0 1) = (code, y) →
      (code ≠ 0 → mbxState y m.val = mbBusy → exec (.dieReset m) s = .next (mbxFinish y m.val code [])) ∧
      (code = 0 → fld b 1 1 ∈ [1, 2, 3] → mbxState y m.val = mbBusy → ∃ u, exec (.dieReset m) s = .next u ∧ dieSt u (fld b 0 1) = dieSt y (fld b 0 1) ∧
        mfind u.uszon.pendingB m.val = some ⟨0x0301, fld b 1 1 * 256 + fld b 0 1, none⟩)) ∧
    (Admitted s m 0x0302 false x b → b = [] →
      ((aboveRelease x = true ∨ x.pins.pwrEn = false ∨ x.pins.modResetN = false) →
        exec (.moduleReset m) s = .next (mbxFinish x m.val 0xF04 [])) ∧
      (aboveRelease x = false → x.pins.pwrEn = true → x.pins.modResetN = true →
        ∃ u, exec (.moduleReset m) s = .next u ∧ u.mem = [] ∧ u.jobs = [] ∧ u.uszon.startFailed = false ∧ u.holds = (x.holds.filter (· != 3)).filter (· != 4)))) ∧
  (∀ (m : Mbx) (s : State) (p : PendB), mfind s.uszon.pendingB m.val = some p →
    (∀ code resp, p.op ≠ 0x0102 → pendingDone s p = some (code, resp) → exec (.mbxClassBComplete m) s = .next (mbxFinish s m.val code resp)) ∧
    (∀ code resp, p.op = 0x0102 → destroyWaits s m p = false → pendingDone s p = some (code, resp) →
      exec (.mbxClassBComplete m) s = .next (mbxFinish (if code = 0 then ctxFree s (p.arg % 256) else s) m.val code resp)) ∧
    (p.op = 0x0102 → ((∃ e ∈ s.uszon.order.takeWhile (· != m.val), ∃ q, mfind s.uszon.pendingB e = some q ∧ q.op = 0x0102 ∧
      q.arg % 256 = p.arg % 256) ↔ destroyWaits s m p = true) ∧ (destroyWaits s m p = true → exec (.mbxClassBComplete m) s = .next s)) ∧
    (p.op ≠ 0x0102 → pendingDone s p = none → exec (.mbxClassBComplete m) s = .next s)) ∧
  (∀ (e : FaultEvent) (rest : List FaultEvent) (s : State), Canonical s → s.uszon.running = true → s.uszon.faults = e :: rest →
    ∃ u, exec .faultRecord s = .next u ∧ u.uszon.faults = rest ∧
      rf u .mbxFaultStatus 14 0 0 63 32 = (rf s .mbxFaultStatus 14 0 0 63 32 + 1) % 2 ^ 32 ∧
      rget u .mbxFaultRing 14 0 (4 * (rf s .mbxFaultStatus 14 0 0 63 32 % 32) + 1) = s.master.toNat ∧
      rf u .mbxFaultRing 14 0 (4 * (rf s .mbxFaultStatus 14 0 0 63 32 % 32)) 31 16 = e.code % 65536 ∧
      rf u .mbxFaultRing 14 0 (4 * (rf s .mbxFaultStatus 14 0 0 63 32 % 32)) 63 32 = rf s .mbxFaultStatus 14 0 0 63 32 ∧
      u.flash.faultLog.length = Nat.min (s.flash.faultLog.length + 1) faultLogSize ∧ u.side.ibi = s.side.ibi ++ [0x02]) ∧
  (∀ (v : W64) (s : State), (∀ a : Agent, a = .host ∨ a = .uszon ∨ (∃ n, a = .core n) →
      exec (.mbxFaultSoftWrite a v) s = .next { s with uszon := { s.uszon with
        faults := s.uszon.faults ++ [⟨0xF08, 0xFF, 0, bits v.toNat 15 0, 0⟩] } }) ∧
    ∀ a : Agent, a = .i3c ∨ a = .mctp → exec (.mbxFaultSoftWrite a v) s = .next s) ∧
  (∀ (tick : W64) (s : State), s.pins.aux = true → s.pins.auxReset = false →
    (tick.toNat = nextBoundary s → stepDue s tick.toNat = false → Canonical s → ∃ u, exec (.epochLatch tick) s = .next u ∧ u.uszon.epoch = s.uszon.epoch + 1 ∧
      s.master.toNat ≤ u.master.toNat ∧ tick.toNat ≤ u.master.toNat ∧ u.uszon.newPeriod = none ∧
      ∀ n ∈ dieList, dieActive s n = true →
        rget u .telShadowEpoch n = (s.uszon.epoch + 1).toNat * 2 ^ 32 + 1 ∧ rget u .telShadowTb n = tick.toNat ∧
        ∀ a, isCounter a = true → bits a 39 32 = n → mget 0 u.regs (a + 0x8000) = mget 0 s.regs a) ∧
    (tick.toNat ≠ nextBoundary s → exec (.epochLatch tick) s = .next s)) ∧
  (∀ (s : State), s.pins.aux = true → s.pins.auxReset = false →
    (∀ addr, exec (.i3cDynamicAddress none addr) s = .next { s with side := { s.side with i3cAddr := some addr } }) ∧
    (∀ a addr, exec (.i3cDynamicAddress (some a) addr) s = .next (if a.toNat = 0x50 + rf s .dlkStraps 14 0 0 6 4 ∧ s.side.i3cAddr = none then
      { s with side := { s.side with i3cAddr := some addr } } else s)) ∧
    (s.side.i3cAddr.isSome = true →
      (∀ len, ∃ u, exec (.i3cPrivateRead len) s = .next u ∧ u.regs = s.regs ∧
        u.side.i3cOut = (List.range len).map (fun i => i3cByte s (s.side.i3cOffset.toNat + i)) ∧
        u.side.i3cOffset = BitVec.ofNat 16 (s.side.i3cOffset.toNat + len)) ∧
      (∀ (o : BitVec 16) (a b c d e f g h : Byte), s.side.i3cPart = [] → o.toNat % 8 = 0 → o.toNat < 0x800 → ∀ r i j,
        regAt 14 (0x08000000 + 0x800 * 31 + o.toNat) = some (r, i, j) →
        exec (.i3cPrivateWrite o [a, b, c, d, e, f, g, h]) s =
          .next (mbxRegWrite { s with side := { s.side with i3cOffset := o } } 31 r i j (ofBytes [a, b, c, d, e, f, g, h]))))) ∧
  (∀ (src : Byte) (s : State), s.host.linkUp = true →
    (∀ body : List Byte, 32 ≤ body.length →
      (mbxState s 30 ∈ [mbIdle, mbDone] → Canonical s → fld body 0 2 ∈ mbxOpcodes → ∃ u, exec (.mctpRequest src body) s = .next u ∧
        mbxState u 30 = mbBusy ∧ rget u .mbxAuthCtr 14 29 = fld body 8 8 ∧ u.side.lastRequester = some src) ∧
      (mbxState s 30 ∈ [mbBusy, mbPending] → ∃ u, exec (.mctpRequest src body) s = .next u ∧ mbxState u 30 = mbxState s 30 ∧
        u.host.sent = s.host.sent ++ [.mctp src (holtordMsg 0x02 (toBytes 8 (0xF05 <<< 48 + bits (fld body 0 8) 63 48 <<< 32 + mbDone)))])) ∧
    (∀ kind data, holtordMsg kind data = [0x7E, BitVec.ofNat 8 (Config.vendorId.toNat / 256), BitVec.ofNat 8 Config.vendorId.toNat, kind] ++ data) ∧
    (∀ eid : Byte, eid ≠ 0 → eid ≠ 0xFF → ∃ u, exec (.mctpSetEndpointId src eid) s = .next u ∧ u.side.eid = eid ∧
      u.host.sent = s.host.sent ++ [.mctp src [0x00, 0x00, 0x01, 0x00, 0x00, eid, 0x00]]) ∧
    (∃ u, exec (.mctpGetEndpointId src) s = .next u ∧ u.host.sent = s.host.sent ++ [.mctp src [0x00, 0x00, 0x02, 0x00, s.side.eid, 0x00, 0x00]]) ∧
    (∀ t ∈ [0x00, 0xFF, 0x7E], ∃ u, exec (.mctpGetVersionSupport src t) s = .next u ∧
      u.host.sent = s.host.sent ++ [.mctp src [0x00, 0x00, 0x04, 0x00, 0x01, 0xF1, 0xF3, 0xF1, 0x00]]) ∧
    (∃ u, exec (.mctpGetMessageTypeSupport src) s = .next u ∧ u.host.sent = s.host.sent ++ [.mctp src [0x00, 0x00, 0x05, 0x00, 0x01, 0x7E]]))
end

