-- ==== Sys2Proof/Laws/Maps.lean ====
section
/-!
SUPPORT. Laws of the sparse maps: what reading gives after writing, and that every operation keeps the keys rising and the
canonical form of memory.
-/
namespace Sys2Proof.Machine

theorem mem_mins {α : Type} {m : Map α} {a : Nat} {v : α} {x : Nat × α} (h : x ∈ mins m a v) : x.1 = a ∨ x ∈ m := by
  induction m with
  | nil => simp [mins] at h; exact .inl (by rw [h])
  | cons e m ih =>
    obtain ⟨k, w⟩ := e
    simp only [mins] at h
    split at h
    · rcases List.mem_cons.1 h with h | h
      · exact .inl (by rw [h])
      · exact .inr (List.mem_cons_of_mem _ h)
    · split at h
      · rcases List.mem_cons.1 h with h | h
        · exact .inl (by rw [h])
        · exact .inr h
      · rcases List.mem_cons.1 h with h | h
        · exact .inr (by rw [h]; exact List.mem_cons_self)
        · exact (ih h).imp id (List.mem_cons_of_mem _)

theorem mem_mdel {α : Type} {m : Map α} {a : Nat} {x : Nat × α} (h : x ∈ mdel m a) : x ∈ m := by
  induction m with
  | nil => exact h
  | cons e m ih =>
    obtain ⟨k, w⟩ := e
    simp only [mdel] at h
    split at h
    · exact List.mem_cons_of_mem _ h
    · split at h
      · exact h
      · rcases List.mem_cons.1 h with h | h
        · rw [h]; exact List.mem_cons_self
        · exact List.mem_cons_of_mem _ (ih h)

theorem rising_cons {α : Type} {k : Nat} {w : α} {m : Map α} :
    Map.rising ((k, w) :: m) ↔ (∀ x ∈ m, k < x.1) ∧ Map.rising m := by
  simp [Map.rising, List.pairwise_cons]

theorem rising_mins {α : Type} {m : Map α} (h : m.rising) (a : Nat) (v : α) : (mins m a v).rising := by
  induction m with
  | nil => exact rising_cons.2 ⟨by simp, h⟩
  | cons e m ih =>
    obtain ⟨k, w⟩ := e
    have hc := rising_cons.1 h
    simp only [mins]
    split
    · next he => exact rising_cons.2 ⟨by simpa [he] using hc.1, hc.2⟩
    · split
      · next hne hlt =>
        refine rising_cons.2 ⟨fun x hx => ?_, h⟩
        rcases List.mem_cons.1 hx with hx | hx
        · rw [hx]; exact hlt
        · exact Nat.lt_trans hlt (hc.1 x hx)
      · next hne hlt =>
        refine rising_cons.2 ⟨fun x hx => ?_, ih hc.2⟩
        rcases mem_mins hx with hx | hx
        · omega
        · exact hc.1 x hx

theorem rising_mdel {α : Type} {m : Map α} (h : m.rising) (a : Nat) : (mdel m a).rising := by
  induction m with
  | nil => exact h
  | cons e m ih =>
    obtain ⟨k, w⟩ := e
    have hc := rising_cons.1 h
    simp only [mdel]
    split
    · exact hc.2
    · split
      · exact h
      · exact rising_cons.2 ⟨fun x hx => hc.1 x (mem_mdel hx), ih hc.2⟩

theorem rising_mput {α : Type} [DecidableEq α] {m : Map α} (h : m.rising) (d : α) (a : Nat) (v : α) : (mput d m a v).rising := by
  unfold mput; split
  · exact rising_mdel h a
  · exact rising_mins h a v

theorem rising_filter {α : Type} {m : Map α} (h : m.rising) (p : Nat × α → Bool) : Map.rising (m.filter p) := by
  induction m with
  | nil => exact h
  | cons e m ih =>
    have hc := rising_cons.1 h
    simp only [List.filter]
    split
    · exact rising_cons.2 ⟨fun x hx => hc.1 x (List.mem_filter.1 hx).1, ih hc.2⟩
    · exact ih hc.2

theorem wf_iff {α : Type} [DecidableEq α] {d : α} {m : Map α} : Map.wf d m = true ↔ m.rising ∧ ∀ x ∈ m, x.2 ≠ d := by
  induction m with
  | nil => simp [Map.wf, Map.rising]
  | cons e m ih =>
    obtain ⟨k, v⟩ := e
    cases m with
    | nil => simp [Map.wf, Map.rising]
    | cons e m =>
      obtain ⟨k', v'⟩ := e
      simp only [Map.wf, Bool.and_eq_true, decide_eq_true_eq, ih, rising_cons, bne_iff_ne, ne_eq]
      constructor
      · rintro ⟨hv, hk, hr, hd⟩
        refine ⟨⟨fun x hx => ?_, hr⟩, fun x hx => ?_⟩
        · rcases List.mem_cons.1 hx with hx | hx
          · rw [hx]; exact hk
          · exact Nat.lt_trans hk (hr.1 x hx)
        · rcases List.mem_cons.1 hx with hx | hx
          · rw [hx]; exact hv
          · exact hd x hx
      · rintro ⟨⟨hk, hr⟩, hd⟩
        exact ⟨hd _ List.mem_cons_self, hk _ List.mem_cons_self, hr, fun x hx => hd x (List.mem_cons_of_mem _ hx)⟩

theorem wf_mput {α : Type} [DecidableEq α] {d : α} {m : Map α} (h : Map.wf d m = true) (a : Nat) (v : α) :
    Map.wf d (mput d m a v) = true := by
  rw [wf_iff] at h ⊢
  refine ⟨rising_mput h.1 d a v, fun x hx => ?_⟩
  unfold mput at hx
  split at hx
  · exact h.2 x (mem_mdel hx)
  · next hv =>
    have key : ∀ (m : Map α), (∀ y ∈ m, y.2 ≠ d) → ∀ x ∈ mins m a v, x.2 ≠ d := by
      intro m
      induction m with
      | nil => intro _ x hx; simp [mins] at hx; rw [hx]; exact hv
      | cons e m ih =>
        intro hm x hx
        obtain ⟨k, w⟩ := e
        simp only [mins] at hx
        split at hx
        · rcases List.mem_cons.1 hx with hx | hx
          · rw [hx]; exact hv
          · exact hm x (List.mem_cons_of_mem _ hx)
        · split at hx
          · rcases List.mem_cons.1 hx with hx | hx
            · rw [hx]; exact hv
            · exact hm x hx
          · rcases List.mem_cons.1 hx with hx | hx
            · rw [hx]; exact hm _ List.mem_cons_self
            · exact ih (fun y hy => hm y (List.mem_cons_of_mem _ hy)) x hx
    exact key m h.2 x hx

theorem wf_memPut {m : Map Byte} (h : Map.wf 0 m = true) (a : Nat) (bs : List Byte) : Map.wf 0 (memPut m a bs) = true := by
  induction bs generalizing m a with
  | nil => exact h
  | cons b bs ih => exact ih (wf_mput h a b) (a + 1)

end Sys2Proof.Machine
end

