-- ==== Sys2Proof/Laws/Keeps.lean ====
section
/-!
SUPPORT. `Keeps s t`: what every operation of the block keeps on the way from `s` to `t` (the canonical form of memory, the
order of the register map, the queue of waiting commands, the counters of identities and of free values), with the rules that
carry it through updates, choices and loops.
-/
namespace Sys2Proof.Machine

/-- What every operation keeps. -/
structure Keeps (s t : State) : Prop where
  mem : Map.wf 0 s.mem = true → Map.wf 0 t.mem = true
  regs : s.regs.rising → t.regs.rising
  pending : t.pending = s.pending
  nextId : s.nextId ≤ t.nextId
  free : s.freeCount ≤ t.freeCount

theorem Keeps.refl (s : State) : Keeps s s := ⟨id, id, rfl, Nat.le_refl _, Nat.le_refl _⟩
theorem Keeps.trans {a b c : State} (h : Keeps a b) (k : Keeps b c) : Keeps a c :=
  ⟨k.mem ∘ h.mem, k.regs ∘ h.regs, k.pending.trans h.pending, Nat.le_trans h.nextId k.nextId, Nat.le_trans h.free k.free⟩
theorem Keeps.ite {b x y : State} {c : Prop} [Decidable c] (h : Keeps b x) (k : Keeps b y) : Keeps b (if c then x else y) := by
  split <;> assumption
theorem Keeps.foldl {α : Type} {b x : State} {f : State → α → State} {l : List α} (h : ∀ y a, Keeps y (f y a)) (k : Keeps b x) :
    Keeps b (l.foldl f x) := by
  induction l generalizing x with
  | nil => exact k
  | cons a l ih => exact ih (k.trans (h x a))
theorem Keeps.foldl2 {α β : Type} {b : State} {x : β × State} {f : β × State → α → β × State} {l : List α}
    (h : ∀ y a, Keeps y.2 (f y a).2) (k : Keeps b x.2) : Keeps b (l.foldl f x).2 := by
  induction l generalizing x with
  | nil => exact k
  | cons a l ih => exact ih (k.trans (h x a))
theorem Keeps.foldl3 {α β γ : Type} {b : State} {x : β × γ × State} {f : β × γ × State → α → β × γ × State} {l : List α}
    (h : ∀ y a, Keeps y.2.2 (f y a).2.2) (k : Keeps b x.2.2) : Keeps b (l.foldl f x).2.2 := by
  induction l generalizing x with
  | nil => exact k
  | cons a l ih => exact ih (k.trans (h x a))
theorem Keeps.fold1 {α : Type} {b x : State} {f : State → α → State} {l : List α} (h : ∀ y a, Keeps b y → Keeps b (f y a)) (k : Keeps b x) :
    Keeps b (l.foldl f x) := by
  induction l generalizing x with
  | nil => exact k
  | cons a l ih => exact ih (h x a k)
theorem Keeps.fold2 {α β : Type} {b : State} {x : β × State} {f : β × State → α → β × State} {l : List α}
    (h : ∀ c y a, Keeps b y → Keeps b (f (c, y) a).2) (k : Keeps b x.2) : Keeps b (l.foldl f x).2 := by
  induction l generalizing x with
  | nil => exact k
  | cons a l ih => exact ih (h x.1 x.2 a k)
theorem Keeps.fold3 {α β γ : Type} {b : State} {x : β × γ × State} {f : β × γ × State → α → β × γ × State} {l : List α}
    (h : ∀ c d y a, Keeps b y → Keeps b (f (c, d, y) a).2.2) (k : Keeps b x.2.2) : Keeps b (l.foldl f x).2.2 := by
  induction l generalizing x with
  | nil => exact k
  | cons a l ih => exact ih (h x.1 x.2.1 x.2.2 a k)
theorem Keeps.fold21 {α β : Type} {b : State} {x : State × β} {f : State × β → α → State × β} {l : List α}
    (h : ∀ y c a, Keeps b y → Keeps b (f (y, c) a).1) (k : Keeps b x.1) : Keeps b (l.foldl f x).1 := by
  induction l generalizing x with
  | nil => exact k
  | cons a l ih => exact ih (h x.1 x.2 a k)
theorem Keeps.getD {b x : State} {o : Option State} (h : ∀ t, o = some t → Keeps b t) (k : Keeps b x) : Keeps b (o.getD x) := by
  cases o with
  | none => exact k
  | some t => exact h t rfl
theorem Keeps.of_eq1 {α : Type} {b t : State} {p : State × α} {a : α} (e : p = (t, a)) (h : Keeps b p.1) : Keeps b t := by
  subst e; exact h
theorem Keeps.of_eq4 {α β γ : Type} {b t : State} {p : α × β × γ × State} {a : α} {c : β} {d : γ} (e : p = (a, c, d, t)) (h : Keeps b p.2.2.2) : Keeps b t := by
  subst e; exact h
theorem Keeps.foldR {α : Type} {b : State} {x : FlsRun} {f : FlsRun → α → FlsRun} {l : List α}
    (h : ∀ y a, Keeps b y.s → Keeps b (f y a).s) (k : Keeps b x.s) : Keeps b (l.foldl f x).s := by
  induction l generalizing x with
  | nil => exact k
  | cons a l ih => exact ih (h x a k)
theorem Keeps.foldR2 {α β : Type} {b : State} {x : β × FlsRun} {f : β × FlsRun → α → β × FlsRun} {l : List α}
    (h : ∀ c y a, Keeps b y.s → Keeps b (f (c, y) a).2.s) (k : Keeps b x.2.s) : Keeps b (l.foldl f x).2.s := by
  induction l generalizing x with
  | nil => exact k
  | cons a l ih => exact ih (h x.1 x.2 a k)
theorem Keeps.foldE {α : Type} {b : State} {x : Eng} {f : Eng → α → Eng} {l : List α}
    (h : ∀ y a, Keeps b y.s → Keeps b (f y a).s) (k : Keeps b x.s) : Keeps b (l.foldl f x).s := by
  induction l generalizing x with
  | nil => exact k
  | cons a l ih => exact ih (h x a k)
theorem Keeps.foldE2 {α β : Type} {b : State} {x : β × Eng} {f : β × Eng → α → β × Eng} {l : List α}
    (h : ∀ c y a, Keeps b y.s → Keeps b (f (c, y) a).2.s) (k : Keeps b x.2.s) : Keeps b (l.foldl f x).2.s := by
  induction l generalizing x with
  | nil => exact k
  | cons a l ih => exact ih (h x.1 x.2 a k)
theorem Keeps.foldE3 {α β γ : Type} {b : State} {x : β × γ × Eng} {f : β × γ × Eng → α → β × γ × Eng} {l : List α}
    (h : ∀ c d y a, Keeps b y.s → Keeps b (f (c, d, y) a).2.2.s) (k : Keeps b x.2.2.s) : Keeps b (l.foldl f x).2.2.s := by
  induction l generalizing x with
  | nil => exact k
  | cons a l ih => exact ih (h x.1 x.2.1 x.2.2 a k)
theorem Keeps.of_eqR {α : Type} {b : State} {t : FlsRun} {p : α × FlsRun} {a : α} (e : p = (a, t)) (h : Keeps b p.2.s) : Keeps b t.s := by
  subst e; exact h
theorem Keeps.of_eqE {α : Type} {b : State} {t : Eng} {p : α × Eng} {a : α} (e : p = (a, t)) (h : Keeps b p.2.s) : Keeps b t.s := by
  subst e; exact h
theorem Keeps.of_eqE3 {α β : Type} {b : State} {t : Eng} {p : α × β × Eng} {a : α} {c : β} (e : p = (a, c, t)) (h : Keeps b p.2.2.s) : Keeps b t.s := by
  subst e; exact h
def KIss (b : State) : Issue → Prop
  | .hold s => Keeps b s
  | .done _ s => Keeps b s
  | _ => True
theorem KIss.hold {b s : State} (h : Keeps b s) : KIss b (.hold s) := h
theorem KIss.done {b s : State} {gr : Group} (h : Keeps b s) : KIss b (.done gr s) := h
theorem KIss.fault {b : State} {c : Nat} : KIss b (.fault c) := trivial
theorem KIss.wait {b : State} : KIss b .wait := trivial
theorem Keeps.of_eq {α : Type} {b t : State} {p : α × State} {a : α} (e : p = (a, t)) (h : Keeps b p.2) : Keeps b t := by
  subst e; exact h
theorem Keeps.of_eq3 {α β : Type} {b t : State} {p : α × β × State} {a : α} {c : β} (e : p = (a, c, t)) (h : Keeps b p.2.2) : Keeps b t := by
  subst e; exact h
theorem Keeps.upd {b x : State} {v_master : W64} {v_copies : Map W64} {v_copyHeld : List Nat} {v_pins : Pins} {v_holds : List Nat} {v_tiles : Map Tile} {v_tileClocks : Map Nat} {v_dcc : Map DieCache} {v_l1Fills : List FillMsg} {v_dccFills : List (Nat × FillMsg)} {v_grottos : Map Grotto} {v_memPoison : List Nat} {v_memErrs : Map Nat} {v_homes : Map HomeSt} {v_answers : List StoreAnswer} {v_tileAnswers : List TileAnswer} {v_eccCorrected : Map Nat} {v_dir : Map DirEntry} {v_txns : Map Txn} {v_cohNet : List Flight} {v_caches : Map CacheLine} {v_wbBuf : Map (List Byte)} {v_predictor : Map Nat} {v_amoResults : List (Nat × W64 × Bool × Nat)} {v_cores : Map CoreSt} {v_heldStacks : List Nat} {v_lossFenced : List Nat} {v_holdDies : List Nat} {v_gatedQuads : List Nat} {v_jobs : List Job} {v_rrNext : Map Nat} {v_hostSubmits : List HostSubmit} {v_tlb : List TlbEntry} {v_ports : Map PortSt} {v_conns : Map Conn} {v_delivered : List (Nat × Packet)} {v_rxConsumed : Map Nat} {v_rxProduced : Map Nat} {v_host : HostIf} {v_links : Map LinkSt} {v_rim : Rimstone} {v_uszon : Uszon} {v_flash : Flash} {v_side : Sideband} {v_jtag : Jtag}
    (h : Keeps b x) : Keeps b (State.mk x.regs v_master v_copies v_copyHeld v_pins v_holds v_tiles v_tileClocks v_dcc v_l1Fills v_dccFills v_grottos x.mem v_memPoison v_memErrs v_homes v_answers v_tileAnswers v_eccCorrected v_dir v_txns v_cohNet v_caches v_wbBuf v_predictor v_amoResults v_cores v_heldStacks v_lossFenced v_holdDies v_gatedQuads v_jobs v_rrNext v_hostSubmits v_tlb v_ports v_conns v_delivered v_rxConsumed v_rxProduced v_host v_links v_rim v_uszon v_flash v_side v_jtag x.nextId x.freeCount x.pending) :=
  ⟨h.mem, h.regs, h.pending, h.nextId, h.free⟩
theorem Keeps.updId {b x : State} {v_master : W64} {v_copies : Map W64} {v_copyHeld : List Nat} {v_pins : Pins} {v_holds : List Nat} {v_tiles : Map Tile} {v_tileClocks : Map Nat} {v_dcc : Map DieCache} {v_l1Fills : List FillMsg} {v_dccFills : List (Nat × FillMsg)} {v_grottos : Map Grotto} {v_memPoison : List Nat} {v_memErrs : Map Nat} {v_homes : Map HomeSt} {v_answers : List StoreAnswer} {v_tileAnswers : List TileAnswer} {v_eccCorrected : Map Nat} {v_dir : Map DirEntry} {v_txns : Map Txn} {v_cohNet : List Flight} {v_caches : Map CacheLine} {v_wbBuf : Map (List Byte)} {v_predictor : Map Nat} {v_amoResults : List (Nat × W64 × Bool × Nat)} {v_cores : Map CoreSt} {v_heldStacks : List Nat} {v_lossFenced : List Nat} {v_holdDies : List Nat} {v_gatedQuads : List Nat} {v_jobs : List Job} {v_rrNext : Map Nat} {v_hostSubmits : List HostSubmit} {v_tlb : List TlbEntry} {v_ports : Map PortSt} {v_conns : Map Conn} {v_delivered : List (Nat × Packet)} {v_rxConsumed : Map Nat} {v_rxProduced : Map Nat} {v_host : HostIf} {v_links : Map LinkSt} {v_rim : Rimstone} {v_uszon : Uszon} {v_flash : Flash} {v_side : Sideband} {v_jtag : Jtag} {n : Nat}
    (h : Keeps b x) : Keeps b (State.mk x.regs v_master v_copies v_copyHeld v_pins v_holds v_tiles v_tileClocks v_dcc v_l1Fills v_dccFills v_grottos x.mem v_memPoison v_memErrs v_homes v_answers v_tileAnswers v_eccCorrected v_dir v_txns v_cohNet v_caches v_wbBuf v_predictor v_amoResults v_cores v_heldStacks v_lossFenced v_holdDies v_gatedQuads v_jobs v_rrNext v_hostSubmits v_tlb v_ports v_conns v_delivered v_rxConsumed v_rxProduced v_host v_links v_rim v_uszon v_flash v_side v_jtag (x.nextId + n) x.freeCount x.pending) :=
  ⟨h.mem, h.regs, h.pending, Nat.le_trans h.nextId (Nat.le_add_right _ _), h.free⟩
theorem Keeps.cut {p q : Prop} (h : p) (k : p → q) : q := k h


theorem Keeps.setRegs {b x : State} (h : Keeps b x) {m : Map W64} (hm : x.regs.rising → m.rising) : Keeps b { x with regs := m } :=
  ⟨h.mem, hm ∘ h.regs, h.pending, h.nextId, h.free⟩

theorem Keeps.setMem {b x : State} (h : Keeps b x) {m : Map Byte} (hm : Map.wf 0 x.mem = true → Map.wf 0 m = true) :
    Keeps b { x with mem := m } :=
  ⟨hm ∘ h.mem, h.regs, h.pending, h.nextId, h.free⟩

theorem keeps_rset {b x : State} (h : Keeps b x) (r : Reg) (die i j v : Nat) : Keeps b (rset x r die i j v) := by
  rw [rset]
  generalize w64 r.spec.reset = d
  generalize regAddr r die i j = a
  exact h.setRegs fun hr => rising_mput hr d a (w64 v)

theorem keeps_drawFree {b s : State} (h : Keeps b s) : Keeps b (drawFree s).2 :=
  ⟨h.mem, h.regs, h.pending, h.nextId, Nat.le_trans h.free (Nat.le_succ _)⟩

theorem keeps_drawFree128 {b s : State} (h : Keeps b s) : Keeps b (drawFree128 s).2 := by
  unfold drawFree128
  dsimp only
  with_reducible exact keeps_drawFree (keeps_drawFree h)

theorem keeps_drawList {b : State} (n : Nat) {s : State} (h : Keeps b s) : Keeps b (drawList n s).2 := by
  induction n generalizing s with
  | zero => exact h
  | succ n ih =>
    unfold drawList
    dsimp only
    with_reducible exact ih (keeps_drawFree h)

end Sys2Proof.Machine
end

