-- ==== Sys2Proof/Laws/KeepsMemory.lean ====
section
/-!
SUPPORT. `keeps_f`, for each operation f of the memory homes, the coherent domain, the Grotto array, translation and the caches: what it answers keeps what `Keeps` says. A lemma about a meaning speaks of
every next state that it answers.
-/
set_option linter.unusedSimpArgs false
set_option linter.unusedVariables false
set_option linter.tactic.unusedName false
namespace Sys2Proof.Machine

theorem keeps_rfset {b0 : State} {s : State} (r : Reg) (die : Nat) (i : Nat) (j : Nat) (hi : Nat) (lo : Nat) (v : Nat) (hK : Keeps b0 s) :
    Keeps b0 (rfset s r die i j hi lo v) := by
  unfold rfset; simp (maxDischargeDepth := 99) only [KIss.hold, KIss.done, KIss.fault, KIss.wait, Keeps.upd, Keeps.updId,
        Keeps.ite, Keeps.foldl, Keeps.foldl2, Keeps.foldl3, Keeps.refl, implies_true, keeps_rset, *]

theorem keeps_setDieSt {b0 : State} {s : State} (n : Nat) (v : Nat) (hK : Keeps b0 s) :
    Keeps b0 (setDieSt s n v) := by
  unfold setDieSt; simp (maxDischargeDepth := 99) only [KIss.hold, KIss.done, KIss.fault, KIss.wait, Keeps.upd, Keeps.updId,
        Keeps.ite, Keeps.foldl, Keeps.foldl2, Keeps.foldl3, Keeps.refl, implies_true, keeps_rfset, *]

theorem keeps_setPhase {b0 : State} {s : State} (p : Nat) (hK : Keeps b0 s) :
    Keeps b0 (setPhase s p) := by
  unfold setPhase; simp (maxDischargeDepth := 99) only [KIss.hold, KIss.done, KIss.fault, KIss.wait, Keeps.upd, Keeps.updId,
        Keeps.ite, Keeps.foldl, Keeps.foldl2, Keeps.foldl3, Keeps.refl, implies_true, keeps_rfset, *]

theorem keeps_count {b0 : State} {s : State} (r : Reg) (die : Nat) (i : Nat) (j : Nat) (n : Nat) (hK : Keeps b0 s) :
    Keeps b0 (count s r die i j n) := by
  unfold count; simp (maxDischargeDepth := 99) only [KIss.hold, KIss.done, KIss.fault, KIss.wait, Keeps.upd, Keeps.updId,
        Keeps.ite, Keeps.foldl, Keeps.foldl2, Keeps.foldl3, Keeps.refl, implies_true, keeps_rset, *]

theorem keeps_report {b0 : State} {s : State} (code : Nat) (die : Nat) (severity : Nat) (info0 : Nat) (info1 : Nat) (hK : Keeps b0 s) :
    Keeps b0 (report s code die severity info0 info1) := by
  unfold report; simp (maxDischargeDepth := 99) only [KIss.hold, KIss.done, KIss.fault, KIss.wait, Keeps.upd, Keeps.updId,
        Keeps.ite, Keeps.foldl, Keeps.foldl2, Keeps.foldl3, Keeps.refl, implies_true, *]

theorem keeps_correctedBy {b0 : State} {s : State} (key : Nat) (n : Nat) (hK : Keeps b0 s) :
    Keeps b0 (correctedBy s key n) := by
  unfold correctedBy; simp (maxDischargeDepth := 99) only [KIss.hold, KIss.done, KIss.fault, KIss.wait, Keeps.upd,
        Keeps.updId, Keeps.ite, Keeps.foldl, Keeps.foldl2, Keeps.foldl3, Keeps.refl, implies_true, *]

theorem keeps_setHome {b0 : State} {s : State} (h : Nat) (v : HomeSt) (hK : Keeps b0 s) :
    Keeps b0 (setHome s h v) := by
  unfold setHome; simp (maxDischargeDepth := 99) only [KIss.hold, KIss.done, KIss.fault, KIss.wait, Keeps.upd, Keeps.updId,
        Keeps.ite, Keeps.foldl, Keeps.foldl2, Keeps.foldl3, Keeps.refl, implies_true, *]

theorem keeps_setSecondary {b0 : State} {s : State} (m : Nat) (v : Bool) (hK : Keeps b0 s) :
    Keeps b0 (setSecondary s m v) := by
  unfold setSecondary; simp (maxDischargeDepth := 99) only [KIss.hold, KIss.done, KIss.fault, KIss.wait, Keeps.upd,
        Keeps.updId, Keeps.ite, Keeps.foldl, Keeps.foldl2, Keeps.foldl3, Keeps.refl, implies_true, keeps_rfset,
        keeps_setHome, *]

theorem keeps_stacksSwitch {b0 : State} {s : State} (k : Nat) (hK : Keeps b0 s) :
    Keeps b0 (stacksSwitch s k) := by
  unfold stacksSwitch; simp (maxDischargeDepth := 99) only [KIss.hold, KIss.done, KIss.fault, KIss.wait, Keeps.upd,
        Keeps.updId, Keeps.ite, Keeps.foldl, Keeps.foldl2, Keeps.foldl3, Keeps.refl, implies_true, keeps_setSecondary, *]

theorem keeps_homeCount {b0 : State} {s : State} (h : Nat) (m : Reg) (l : Reg) (n : Nat) (hK : Keeps b0 s) :
    Keeps b0 (homeCount s h m l n) := by
  unfold homeCount; simp (maxDischargeDepth := 99) only [KIss.hold, KIss.done, KIss.fault, KIss.wait, Keeps.upd, Keeps.updId,
         Keeps.ite, Keeps.foldl, Keeps.foldl2, Keeps.foldl3, Keeps.refl, implies_true, keeps_count, *]

theorem keeps_memLog {b0 : State} {s : State} (h : Nat) (line : Nat) (code : Nat) (hK : Keeps b0 s) :
    Keeps b0 (memLog s h line code) := by
  unfold memLog; simp (maxDischargeDepth := 99) only [KIss.hold, KIss.done, KIss.fault, KIss.wait, Keeps.upd, Keeps.updId,
        Keeps.ite, Keeps.foldl, Keeps.foldl2, Keeps.foldl3, Keeps.refl, implies_true, keeps_rset, keeps_rfset, keeps_report,
        *]

theorem keeps_showSump {b0 : State} {s : State} (h : Nat) (hK : Keeps b0 s) :
    Keeps b0 (showSump s h) := by
  unfold showSump; simp (maxDischargeDepth := 99) only [KIss.hold, KIss.done, KIss.fault, KIss.wait, Keeps.upd, Keeps.updId,
        Keeps.ite, Keeps.foldl, Keeps.foldl2, Keeps.foldl3, Keeps.refl, implies_true, keeps_rfset, *]

theorem keeps_healHalf {b0 : State} {s : State} (line : Nat) (j : Nat) (hK : Keeps b0 s) :
    Keeps b0 (healHalf s line j) := by
  unfold healHalf; simp (maxDischargeDepth := 99) only [KIss.hold, KIss.done, KIss.fault, KIss.wait, Keeps.upd, Keeps.updId,
        Keeps.ite, Keeps.foldl, Keeps.foldl2, Keeps.foldl3, Keeps.refl, implies_true, *]

theorem keeps_poisonHalf {b0 : State} {s : State} (line : Nat) (j : Nat) (hK : Keeps b0 s) :
    Keeps b0 (poisonHalf s line j) := by
  unfold poisonHalf; simp (maxDischargeDepth := 99) only [KIss.hold, KIss.done, KIss.fault, KIss.wait, Keeps.upd,
        Keeps.updId, Keeps.ite, Keeps.foldl, Keeps.foldl2, Keeps.foldl3, Keeps.refl, implies_true, *]

theorem keeps_wqDrain {b0 : State} {s : State} (h ch n : Nat) (hK : Keeps b0 s) : Keeps b0 (wqDrain s h ch n) := by
  unfold wqDrain
  extract_lets e
  split
  extract_lets out t
  have hm : ∀ m : Map Byte, Map.wf 0 m = true → Map.wf 0 (out.foldl (fun m w => memPut m (w.1 * 128) w.2) m) = true := by
    induction out with
    | nil => exact fun _ h => h
    | cons w l ih => exact fun m h => ih _ (wf_memPut h _ _)
  have ht : Keeps b0 t := keeps_setHome _ _ (hK.setMem (hm _))
  exact keeps_homeCount _ _ _ _ (keeps_homeCount _ _ _ _ ht)

theorem keeps_wqGo {b0 : State} {s : State} (h : Nat) (line : Nat) (hK : Keeps b0 s) :
    Keeps b0 (wqGo s h line) := by
  unfold wqGo; simp (maxDischargeDepth := 99) only [KIss.hold, KIss.done, KIss.fault, KIss.wait, Keeps.upd, Keeps.updId,
        Keeps.ite, Keeps.foldl, Keeps.foldl2, Keeps.foldl3, Keeps.refl, implies_true, keeps_wqDrain, *]

theorem keeps_wqPush {b0 : State} {s : State} (h : Nat) (line : Nat) (bs : List Byte) (hK : Keeps b0 s) :
    Keeps b0 (wqPush s h line bs) := by
  unfold wqPush; simp (maxDischargeDepth := 99) only [KIss.hold, KIss.done, KIss.fault, KIss.wait, Keeps.upd, Keeps.updId,
        Keeps.ite, Keeps.foldl, Keeps.foldl2, Keeps.foldl3, Keeps.refl, implies_true, keeps_setHome, keeps_wqGo, *]

theorem keeps_healGood {b0 : State} {s : State} (line : Nat) (hK : Keeps b0 s) :
    Keeps b0 (healGood s line) := by
  unfold healGood; simp (maxDischargeDepth := 99) only [KIss.hold, KIss.done, KIss.fault, KIss.wait, Keeps.upd, Keeps.updId,
        Keeps.ite, Keeps.foldl, Keeps.foldl2, Keeps.foldl3, Keeps.refl, implies_true, keeps_healHalf, *]

theorem keeps_wearHalf {b0 : State} {s : State} (half : Nat) (n : Nat) (hK : Keeps b0 s) :
    Keeps b0 (wearHalf s half n) := by
  unfold wearHalf; simp (maxDischargeDepth := 99) only [KIss.hold, KIss.done, KIss.fault, KIss.wait, Keeps.upd, Keeps.updId,
        Keeps.ite, Keeps.foldl, Keeps.foldl2, Keeps.foldl3, Keeps.refl, implies_true, *]

theorem keeps_wearCells {b0 : State} {s : State} (h : Nat) (cells : List (Nat × Nat)) (hK : Keeps b0 s) :
    Keeps b0 (wearCells s h cells) := by
  unfold wearCells; simp (maxDischargeDepth := 99) only [KIss.hold, KIss.done, KIss.fault, KIss.wait, Keeps.upd, Keeps.updId,
         Keeps.ite, Keeps.foldl, Keeps.foldl2, Keeps.foldl3, Keeps.refl, implies_true, keeps_wearHalf, *]

theorem keeps_countCorrected {b0 : State} {s : State} (h : Nat) (line : Nat) (need : Nat) (hK : Keeps b0 s) :
    Keeps b0 (countCorrected s h line need) := by
  unfold countCorrected; simp (maxDischargeDepth := 99) only [KIss.hold, KIss.done, KIss.fault, KIss.wait, Keeps.upd,
        Keeps.updId, Keeps.ite, Keeps.foldl, Keeps.foldl2, Keeps.foldl3, Keeps.refl, implies_true, keeps_homeCount, *]

theorem keeps_eccEffect {b0 : State} {s : State} (h : Nat) (line : Nat) (need : Nat) (e : Ecc) (hK : Keeps b0 s) :
    Keeps b0 (eccEffect s h line need e) := by
  unfold eccEffect
  repeat' first
    | with_reducible assumption
    | (extract_lets +onlyGivenNames z; first | ((first | refine Keeps.cut (p := Keeps b0 z) ?_ ?_ | refine Keeps.cut (p := Keeps b0 z.2) ?_ ?_ | refine Keeps.cut (p := Keeps b0 z.2.2) ?_ ?_ | refine Keeps.cut (p := Keeps b0 z.1) ?_ ?_ | refine Keeps.cut (p := Keeps b0 z.s) ?_ ?_ | refine Keeps.cut (p := Keeps b0 z.2.s) ?_ ?_ | refine Keeps.cut (p := Keeps b0 z.2.2.s) ?_ ?_ | refine Keeps.cut (p := ∀ b y a, Keeps b y → Keeps b (z y a)) ?_ ?_ | refine Keeps.cut (p := ∀ b a y, Keeps b y → Keeps b (z a y)) ?_ ?_ | refine Keeps.cut (p := ∀ b y, Keeps b y → Keeps b (z y)) ?_ ?_ | refine Keeps.cut (p := ∀ b y a c, Keeps b y → Keeps b (z y a c)) ?_ ?_ | refine Keeps.cut (p := ∀ b y, Keeps b y → Keeps b (z y).2) ?_ ?_ | refine Keeps.cut (p := ∀ b y a, Keeps b y → Keeps b (z y a).2) ?_ ?_ | refine Keeps.cut (p := ∀ b y, Keeps b y → Keeps b (z y).2.2) ?_ ?_ | refine Keeps.cut (p := ∀ a, Keeps b0 (z a)) ?_ ?_ | refine Keeps.cut (p := ∀ a c, Keeps b0 (z a c)) ?_ ?_ | refine Keeps.cut (p := ∀ a, Keeps b0 (z a).2) ?_ ?_ | refine Keeps.cut (p := ∀ a c d, Keeps b0 (z a c d)) ?_ ?_ | refine Keeps.cut (p := ∀ a, Keeps b0 (z a).2.2) ?_ ?_); (focus (intros; dsimp only [z]; (repeat' first | (simp (maxDischargeDepth := 99) only [KIss.hold, KIss.done, KIss.fault, KIss.wait, Keeps.upd, Keeps.updId, Keeps.ite, Keeps.foldl, Keeps.foldl2, Keeps.foldl3, Keeps.refl, implies_true, keeps_wearHalf, keeps_countCorrected, *]; done) | with_reducible apply Keeps.fold1 | with_reducible apply Keeps.fold2 | with_reducible apply Keeps.fold3 | with_reducible apply Keeps.fold21 | intro _ | split | dsimp only))); intro hz; clear_value z) | clear_value z | skip)
    | (simp (maxDischargeDepth := 99) only [KIss.hold, KIss.done, KIss.fault, KIss.wait, Keeps.upd, Keeps.updId, Keeps.ite, Keeps.foldl, Keeps.foldl2, Keeps.foldl3, Keeps.refl, implies_true, keeps_wearHalf, keeps_countCorrected, *]; done)
    | with_reducible apply Keeps.fold1
    | with_reducible apply Keeps.fold2
    | with_reducible apply Keeps.fold3
    | with_reducible apply Keeps.fold21
    | intro _
    | (split <;> (try (rename_i heq; (first | refine Keeps.cut (Keeps.of_eq (b := b0) heq ?_) ?_ | refine Keeps.cut (Keeps.of_eq3 (b := b0) heq ?_) ?_ | refine Keeps.cut (Keeps.of_eq1 (b := b0) heq ?_) ?_ | refine Keeps.cut (Keeps.of_eq4 (b := b0) heq ?_) ?_); (focus (clear heq; (repeat' first | (simp (maxDischargeDepth := 99) only [KIss.hold, KIss.done, KIss.fault, KIss.wait, Keeps.upd, Keeps.updId, Keeps.ite, Keeps.foldl, Keeps.foldl2, Keeps.foldl3, Keeps.refl, implies_true, keeps_wearHalf, keeps_countCorrected, *]; done) | with_reducible apply Keeps.fold1 | with_reducible apply Keeps.fold2 | with_reducible apply Keeps.fold3 | with_reducible apply Keeps.fold21 | intro _ | split | dsimp only))); intro hz; (try dsimp only at hz); clear heq)))

theorem keeps_freeHalf {b0 : State} {s : State} (hK : Keeps b0 s) :
    Keeps b0 (freeHalf s).2 := by
  unfold freeHalf; simp (maxDischargeDepth := 99) only [KIss.hold, KIss.done, KIss.fault, KIss.wait, Keeps.upd, Keeps.updId,
        Keeps.ite, Keeps.foldl, Keeps.foldl2, Keeps.foldl3, Keeps.refl, implies_true, keeps_drawList, *]

theorem keeps_eccData {b0 : State} {s : State} (line need : Nat) (data : List Byte) (hK : Keeps b0 s) :
    Keeps b0 (eccData s line need data).2 := by
  unfold eccData
  extract_lets +onlyGivenNames one
  have h1 : ∀ a j, Keeps b0 a.2 → Keeps b0 (one a j).2 := by
    intro a j ha
    dsimp only [one]
    split
    · exact keeps_freeHalf ha
    · exact ha
  exact h1 _ _ (h1 _ _ hK)

theorem keeps_sumpRmw {b0 : State} {s : State} (h : Nat) (en : SumpEntry) (ecc : Ecc) (hK : Keeps b0 s) :
    Keeps b0 (sumpRmw s h en ecc) := by
  unfold sumpRmw
  repeat' first
    | with_reducible assumption
    | (extract_lets +onlyGivenNames z; first | ((first | refine Keeps.cut (p := Keeps b0 z) ?_ ?_ | refine Keeps.cut (p := Keeps b0 z.2) ?_ ?_ | refine Keeps.cut (p := Keeps b0 z.2.2) ?_ ?_ | refine Keeps.cut (p := Keeps b0 z.1) ?_ ?_ | refine Keeps.cut (p := Keeps b0 z.s) ?_ ?_ | refine Keeps.cut (p := Keeps b0 z.2.s) ?_ ?_ | refine Keeps.cut (p := Keeps b0 z.2.2.s) ?_ ?_ | refine Keeps.cut (p := ∀ b y a, Keeps b y → Keeps b (z y a)) ?_ ?_ | refine Keeps.cut (p := ∀ b a y, Keeps b y → Keeps b (z a y)) ?_ ?_ | refine Keeps.cut (p := ∀ b y, Keeps b y → Keeps b (z y)) ?_ ?_ | refine Keeps.cut (p := ∀ b y a c, Keeps b y → Keeps b (z y a c)) ?_ ?_ | refine Keeps.cut (p := ∀ b y, Keeps b y → Keeps b (z y).2) ?_ ?_ | refine Keeps.cut (p := ∀ b y a, Keeps b y → Keeps b (z y a).2) ?_ ?_ | refine Keeps.cut (p := ∀ b y, Keeps b y → Keeps b (z y).2.2) ?_ ?_ | refine Keeps.cut (p := ∀ a, Keeps b0 (z a)) ?_ ?_ | refine Keeps.cut (p := ∀ a c, Keeps b0 (z a c)) ?_ ?_ | refine Keeps.cut (p := ∀ a, Keeps b0 (z a).2) ?_ ?_ | refine Keeps.cut (p := ∀ a c d, Keeps b0 (z a c d)) ?_ ?_ | refine Keeps.cut (p := ∀ a, Keeps b0 (z a).2.2) ?_ ?_); (focus (intros; dsimp only [z]; (repeat' first | (simp (maxDischargeDepth := 99) only [KIss.hold, KIss.done, KIss.fault, KIss.wait, Keeps.upd, Keeps.updId, Keeps.ite, Keeps.foldl, Keeps.foldl2, Keeps.foldl3, Keeps.refl, implies_true, keeps_count, keeps_setHome, keeps_homeCount, keeps_memLog, keeps_showSump, keeps_healHalf, keeps_poisonHalf, keeps_wqPush, keeps_eccEffect, keeps_eccData, *]; done) | with_reducible apply Keeps.fold1 | with_reducible apply Keeps.fold2 | with_reducible apply Keeps.fold3 | with_reducible apply Keeps.fold21 | intro _ | split | dsimp only))); intro hz; clear_value z) | clear_value z | skip)
    | (simp (maxDischargeDepth := 99) only [KIss.hold, KIss.done, KIss.fault, KIss.wait, Keeps.upd, Keeps.updId, Keeps.ite, Keeps.foldl, Keeps.foldl2, Keeps.foldl3, Keeps.refl, implies_true, keeps_count, keeps_setHome, keeps_homeCount, keeps_memLog, keeps_showSump, keeps_healHalf, keeps_poisonHalf, keeps_wqPush, keeps_eccEffect, keeps_eccData, *]; done)
    | with_reducible apply Keeps.fold1
    | with_reducible apply Keeps.fold2
    | with_reducible apply Keeps.fold3
    | with_reducible apply Keeps.fold21
    | intro _
    | (split <;> (try (rename_i heq; (first | refine Keeps.cut (Keeps.of_eq (b := b0) heq ?_) ?_ | refine Keeps.cut (Keeps.of_eq3 (b := b0) heq ?_) ?_ | refine Keeps.cut (Keeps.of_eq1 (b := b0) heq ?_) ?_ | refine Keeps.cut (Keeps.of_eq4 (b := b0) heq ?_) ?_); (focus (clear heq; (repeat' first | (simp (maxDischargeDepth := 99) only [KIss.hold, KIss.done, KIss.fault, KIss.wait, Keeps.upd, Keeps.updId, Keeps.ite, Keeps.foldl, Keeps.foldl2, Keeps.foldl3, Keeps.refl, implies_true, keeps_count, keeps_setHome, keeps_homeCount, keeps_memLog, keeps_showSump, keeps_healHalf, keeps_poisonHalf, keeps_wqPush, keeps_eccEffect, keeps_eccData, *]; done) | with_reducible apply Keeps.fold1 | with_reducible apply Keeps.fold2 | with_reducible apply Keeps.fold3 | with_reducible apply Keeps.fold21 | intro _ | split | dsimp only))); intro hz; (try dsimp only at hz); clear heq)))

theorem keeps_homeWrite {b0 : State} {s : State} (h : Nat) (line : Nat) (bs : Map Byte) (poison : List Nat) (hK : Keeps b0 s) :
    Keeps b0 (homeWrite s h line bs poison) := by
  unfold homeWrite
  repeat' first
    | with_reducible assumption
    | (extract_lets +onlyGivenNames z; first | ((first | refine Keeps.cut (p := Keeps b0 z) ?_ ?_ | refine Keeps.cut (p := Keeps b0 z.2) ?_ ?_ | refine Keeps.cut (p := Keeps b0 z.2.2) ?_ ?_ | refine Keeps.cut (p := Keeps b0 z.1) ?_ ?_ | refine Keeps.cut (p := Keeps b0 z.s) ?_ ?_ | refine Keeps.cut (p := Keeps b0 z.2.s) ?_ ?_ | refine Keeps.cut (p := Keeps b0 z.2.2.s) ?_ ?_ | refine Keeps.cut (p := ∀ b y a, Keeps b y → Keeps b (z y a)) ?_ ?_ | refine Keeps.cut (p := ∀ b a y, Keeps b y → Keeps b (z a y)) ?_ ?_ | refine Keeps.cut (p := ∀ b y, Keeps b y → Keeps b (z y)) ?_ ?_ | refine Keeps.cut (p := ∀ b y a c, Keeps b y → Keeps b (z y a c)) ?_ ?_ | refine Keeps.cut (p := ∀ b y, Keeps b y → Keeps b (z y).2) ?_ ?_ | refine Keeps.cut (p := ∀ b y a, Keeps b y → Keeps b (z y a).2) ?_ ?_ | refine Keeps.cut (p := ∀ b y, Keeps b y → Keeps b (z y).2.2) ?_ ?_ | refine Keeps.cut (p := ∀ a, Keeps b0 (z a)) ?_ ?_ | refine Keeps.cut (p := ∀ a c, Keeps b0 (z a c)) ?_ ?_ | refine Keeps.cut (p := ∀ a, Keeps b0 (z a).2) ?_ ?_ | refine Keeps.cut (p := ∀ a c d, Keeps b0 (z a c d)) ?_ ?_ | refine Keeps.cut (p := ∀ a, Keeps b0 (z a).2.2) ?_ ?_); (focus (intros; dsimp only [z]; (repeat' first | (simp (maxDischargeDepth := 99) only [KIss.hold, KIss.done, KIss.fault, KIss.wait, Keeps.upd, Keeps.updId, Keeps.ite, Keeps.foldl, Keeps.foldl2, Keeps.foldl3, Keeps.refl, implies_true, keeps_count, keeps_setHome, keeps_showSump, keeps_healHalf, keeps_poisonHalf, keeps_wqPush, keeps_sumpRmw, *]; done) | with_reducible apply Keeps.fold1 | with_reducible apply Keeps.fold2 | with_reducible apply Keeps.fold3 | with_reducible apply Keeps.fold21 | intro _ | split | dsimp only))); intro hz; clear_value z) | clear_value z | skip)
    | (simp (maxDischargeDepth := 99) only [KIss.hold, KIss.done, KIss.fault, KIss.wait, Keeps.upd, Keeps.updId, Keeps.ite, Keeps.foldl, Keeps.foldl2, Keeps.foldl3, Keeps.refl, implies_true, keeps_count, keeps_setHome, keeps_showSump, keeps_healHalf, keeps_poisonHalf, keeps_wqPush, keeps_sumpRmw, *]; done)
    | with_reducible apply Keeps.fold1
    | with_reducible apply Keeps.fold2
    | with_reducible apply Keeps.fold3
    | with_reducible apply Keeps.fold21
    | intro _
    | (split <;> (try (rename_i heq; (first | refine Keeps.cut (Keeps.of_eq (b := b0) heq ?_) ?_ | refine Keeps.cut (Keeps.of_eq3 (b := b0) heq ?_) ?_ | refine Keeps.cut (Keeps.of_eq1 (b := b0) heq ?_) ?_ | refine Keeps.cut (Keeps.of_eq4 (b := b0) heq ?_) ?_); (focus (clear heq; (repeat' first | (simp (maxDischargeDepth := 99) only [KIss.hold, KIss.done, KIss.fault, KIss.wait, Keeps.upd, Keeps.updId, Keeps.ite, Keeps.foldl, Keeps.foldl2, Keeps.foldl3, Keeps.refl, implies_true, keeps_count, keeps_setHome, keeps_showSump, keeps_healHalf, keeps_poisonHalf, keeps_wqPush, keeps_sumpRmw, *]; done) | with_reducible apply Keeps.fold1 | with_reducible apply Keeps.fold2 | with_reducible apply Keeps.fold3 | with_reducible apply Keeps.fold21 | intro _ | split | dsimp only))); intro hz; (try dsimp only at hz); clear heq)))

theorem keeps_readResult {b0 : State} {s : State} (h : Nat) (line : Nat) (code : Nat) (hK : Keeps b0 s) :
    Keeps b0 (readResult s h line code) := by
  unfold readResult; simp (maxDischargeDepth := 99) only [KIss.hold, KIss.done, KIss.fault, KIss.wait, Keeps.upd,
        Keeps.updId, Keeps.ite, Keeps.foldl, Keeps.foldl2, Keeps.foldl3, Keeps.refl, implies_true, keeps_homeCount,
        keeps_memLog, *]

theorem keeps_homeReadNow {b0 : State} {s : State} (h : Nat) (line : Nat) (need : Nat) (hK : Keeps b0 s) :
    Keeps b0 (homeReadNow s h line need).2.2 := by
  unfold homeReadNow
  repeat' first
    | with_reducible assumption
    | (simp (maxDischargeDepth := 99) only [KIss.hold, KIss.done, KIss.fault, KIss.wait, Keeps.upd, Keeps.updId, Keeps.ite, Keeps.foldl, Keeps.foldl2, Keeps.foldl3, Keeps.refl, implies_true, keeps_homeCount, keeps_countCorrected, keeps_eccData, keeps_readResult, *]; done)
    | (split <;> (try (rename_i heq; (first | refine Keeps.cut (Keeps.of_eq (b := b0) heq ?_) ?_ | refine Keeps.cut (Keeps.of_eq3 (b := b0) heq ?_) ?_ | refine Keeps.cut (Keeps.of_eq1 (b := b0) heq ?_) ?_ | refine Keeps.cut (Keeps.of_eq4 (b := b0) heq ?_) ?_); (focus (clear heq; (repeat' first | (simp (maxDischargeDepth := 99) only [KIss.hold, KIss.done, KIss.fault, KIss.wait, Keeps.upd, Keeps.updId, Keeps.ite, Keeps.foldl, Keeps.foldl2, Keeps.foldl3, Keeps.refl, implies_true, keeps_homeCount, keeps_countCorrected, keeps_eccData, keeps_readResult, *]; done) | with_reducible apply Keeps.fold1 | with_reducible apply Keeps.fold2 | with_reducible apply Keeps.fold3 | with_reducible apply Keeps.fold21 | intro _ | split | dsimp only))); intro hz; (try dsimp only at hz); clear heq)))

theorem keeps_drainHome {b0 : State} {s : State} (h : Nat) (lo : Nat) (hi : Nat) (hK : Keeps b0 s) :
    Keeps b0 (drainHome s h lo hi).2 := by
  unfold drainHome; simp (maxDischargeDepth := 99) only [KIss.hold, KIss.done, KIss.fault, KIss.wait, Keeps.upd, Keeps.updId,
         Keeps.ite, Keeps.foldl, Keeps.foldl2, Keeps.foldl3, Keeps.refl, implies_true, keeps_setHome, keeps_showSump,
        keeps_sumpRmw, *]

theorem keeps_drainHomeAll {b0 : State} {s : State} (h : Nat) (hK : Keeps b0 s) :
    Keeps b0 (drainHomeAll s h).2 := by
  unfold drainHomeAll; simp (maxDischargeDepth := 99) only [KIss.hold, KIss.done, KIss.fault, KIss.wait, Keeps.upd,
        Keeps.updId, Keeps.ite, Keeps.foldl, Keeps.foldl2, Keeps.foldl3, Keeps.refl, implies_true, keeps_setHome,
        keeps_showSump, keeps_sumpRmw, *]

theorem keeps_drainAll {b0 : State} {s : State} (lo : Nat) (hi : Nat) (hK : Keeps b0 s) :
    Keeps b0 (drainAll s lo hi).2 := by
  unfold drainAll; simp (maxDischargeDepth := 99) only [KIss.hold, KIss.done, KIss.fault, KIss.wait, Keeps.upd, Keeps.updId,
        Keeps.ite, Keeps.foldl, Keeps.foldl2, Keeps.foldl3, Keeps.refl, implies_true, keeps_drainHome, *]

theorem keeps_setCopy {b0 : State} {s : State} (a : Nat) (line : Nat) (c : CacheLine) (hK : Keeps b0 s) :
    Keeps b0 (setCopy s a line c) := by
  unfold setCopy; simp (maxDischargeDepth := 99) only [KIss.hold, KIss.done, KIss.fault, KIss.wait, Keeps.upd, Keeps.updId,
        Keeps.ite, Keeps.foldl, Keeps.foldl2, Keeps.foldl3, Keeps.refl, implies_true, *]

theorem keeps_dropCopy {b0 : State} {s : State} (a : Nat) (line : Nat) (hK : Keeps b0 s) :
    Keeps b0 (dropCopy s a line) := by
  unfold dropCopy; simp (maxDischargeDepth := 99) only [KIss.hold, KIss.done, KIss.fault, KIss.wait, Keeps.upd, Keeps.updId,
        Keeps.ite, Keeps.foldl, Keeps.foldl2, Keeps.foldl3, Keeps.refl, implies_true, *]

theorem keeps_coreStores {b0 : State} {s : State} (a : Nat) (line : Nat) (st : List (Fin 128 × Byte)) (hK : Keeps b0 s) :
    Keeps b0 (coreStores s a line st) := by
  unfold coreStores; (repeat' split) <;> simp (maxDischargeDepth := 99) only [KIss.hold, KIss.done, KIss.fault, KIss.wait,
        Keeps.upd, Keeps.updId, Keeps.ite, Keeps.foldl, Keeps.foldl2, Keeps.foldl3, Keeps.refl, implies_true, keeps_setCopy,
        *]

theorem keeps_sendMsg {b0 : State} {s : State} (a : Nat) (line : Nat) (m : CohMsg) (hK : Keeps b0 s) :
    Keeps b0 (sendMsg s a line m) := by
  unfold sendMsg; simp (maxDischargeDepth := 99) only [KIss.hold, KIss.done, KIss.fault, KIss.wait, Keeps.upd, Keeps.updId,
        Keeps.ite, Keeps.foldl, Keeps.foldl2, Keeps.foldl3, Keeps.refl, implies_true, *]

theorem keeps_setDir {b0 : State} {s : State} (line : Nat) (st : DirState) (h : Holders) (hK : Keeps b0 s) :
    Keeps b0 (setDir s line st h) := by
  unfold setDir; simp (maxDischargeDepth := 99) only [KIss.hold, KIss.done, KIss.fault, KIss.wait, Keeps.upd, Keeps.updId,
        Keeps.ite, Keeps.foldl, Keeps.foldl2, Keeps.foldl3, Keeps.refl, implies_true, *]

theorem keeps_delDir {b0 : State} {s : State} (line : Nat) (hK : Keeps b0 s) :
    Keeps b0 (delDir s line) := by
  unfold delDir; simp (maxDischargeDepth := 99) only [KIss.hold, KIss.done, KIss.fault, KIss.wait, Keeps.upd, Keeps.updId,
        Keeps.ite, Keeps.foldl, Keeps.foldl2, Keeps.foldl3, Keeps.refl, implies_true, *]

theorem keeps_setTxn {b0 : State} {s : State} (line : Nat) (t : Txn) (hK : Keeps b0 s) :
    Keeps b0 (setTxn s line t) := by
  unfold setTxn; simp (maxDischargeDepth := 99) only [KIss.hold, KIss.done, KIss.fault, KIss.wait, Keeps.upd, Keeps.updId,
        Keeps.ite, Keeps.foldl, Keeps.foldl2, Keeps.foldl3, Keeps.refl, implies_true, *]

theorem keeps_delTxn {b0 : State} {s : State} (line : Nat) (hK : Keeps b0 s) :
    Keeps b0 (delTxn s line) := by
  unfold delTxn; simp (maxDischargeDepth := 99) only [KIss.hold, KIss.done, KIss.fault, KIss.wait, Keeps.upd, Keeps.updId,
        Keeps.ite, Keeps.foldl, Keeps.foldl2, Keeps.foldl3, Keeps.refl, implies_true, *]

theorem keeps_snoopAll {b0 : State} {s : State} (h : Nat) (line : Nat) (m : CohMsg) (as : List Nat) (hK : Keeps b0 s) :
    Keeps b0 (snoopAll s h line m as) := by
  unfold snoopAll; simp (maxDischargeDepth := 99) only [KIss.hold, KIss.done, KIss.fault, KIss.wait, Keeps.upd, Keeps.updId,
        Keeps.ite, Keeps.foldl, Keeps.foldl2, Keeps.foldl3, Keeps.refl, implies_true, keeps_count, keeps_sendMsg, *]

theorem keeps_markUse {b0 : State} {s : State} (h : Nat) (line : Nat) (who : Nat) (hK : Keeps b0 s) :
    Keeps b0 (markUse s h line who) := by
  unfold markUse; simp (maxDischargeDepth := 99) only [KIss.hold, KIss.done, KIss.fault, KIss.wait, Keeps.upd, Keeps.updId,
        Keeps.ite, Keeps.foldl, Keeps.foldl2, Keeps.foldl3, Keeps.refl, implies_true, keeps_setHome, *]

theorem keeps_toL1 {b0 : State} {s : State} (r : MemReq) (bs : Map Byte) (code : Nat) (far : Bool) (hK : Keeps b0 s) :
    Keeps b0 (toL1 s r bs code far) := by
  unfold toL1; (repeat' split) <;> simp (maxDischargeDepth := 99) only [KIss.hold, KIss.done, KIss.fault, KIss.wait,
        Keeps.upd, Keeps.updId, Keeps.ite, Keeps.foldl, Keeps.foldl2, Keeps.foldl3, Keeps.refl, implies_true, *]

theorem keeps_answerRead {b0 : State} {s : State} (r : MemReq) (code : Nat) (data : List Byte) (hK : Keeps b0 s) :
    Keeps b0 (answerRead s r code data) := by
  unfold answerRead; (repeat' split) <;> simp (maxDischargeDepth := 99) only [KIss.hold, KIss.done, KIss.fault, KIss.wait,
        Keeps.upd, Keeps.updId, Keeps.ite, Keeps.foldl, Keeps.foldl2, Keeps.foldl3, Keeps.refl, implies_true, keeps_toL1, *]

theorem keeps_showReads {b0 : State} {s : State} (h : Nat) (hK : Keeps b0 s) :
    Keeps b0 (showReads s h) := by
  unfold showReads; simp (maxDischargeDepth := 99) only [KIss.hold, KIss.done, KIss.fault, KIss.wait, Keeps.upd, Keeps.updId,
         Keeps.ite, Keeps.foldl, Keeps.foldl2, Keeps.foldl3, Keeps.refl, implies_true, keeps_rfset, *]

theorem keeps_readArrives {b0 : State} {s : State} (h : Nat) (r : MemReq) (need : Nat) (hK : Keeps b0 s) :
    Keeps b0 (readArrives s h r need) := by
  unfold readArrives; simp (maxDischargeDepth := 99) only [KIss.hold, KIss.done, KIss.fault, KIss.wait, Keeps.upd,
        Keeps.updId, Keeps.ite, Keeps.foldl, Keeps.foldl2, Keeps.foldl3, Keeps.refl, implies_true, keeps_setHome,
        keeps_homeCount, keeps_eccData, keeps_readResult, keeps_answerRead, keeps_showReads, *]

theorem keeps_stackReturn {b0 : State} {s : State} (h : Nat) (n : Nat) (ecc : Ecc) (hK : Keeps b0 s) :
    Keeps b0 (stackReturn s h n ecc) := by
  unfold stackReturn
  repeat' first
    | with_reducible assumption
    | (extract_lets +onlyGivenNames z; first | ((first | refine Keeps.cut (p := Keeps b0 z) ?_ ?_ | refine Keeps.cut (p := Keeps b0 z.2) ?_ ?_ | refine Keeps.cut (p := Keeps b0 z.2.2) ?_ ?_ | refine Keeps.cut (p := Keeps b0 z.1) ?_ ?_ | refine Keeps.cut (p := Keeps b0 z.s) ?_ ?_ | refine Keeps.cut (p := Keeps b0 z.2.s) ?_ ?_ | refine Keeps.cut (p := Keeps b0 z.2.2.s) ?_ ?_); (focus (intros; dsimp only [z]; (repeat' first | (simp (maxDischargeDepth := 99) only [KIss.hold, KIss.done, KIss.fault, KIss.wait, Keeps.upd, Keeps.updId, Keeps.ite, Keeps.foldl, Keeps.foldl2, Keeps.foldl3, Keeps.refl, implies_true, keeps_setHome, keeps_wqGo, keeps_eccEffect, keeps_eccData, keeps_readResult, keeps_answerRead, keeps_showReads, *]; done) | with_reducible apply Keeps.fold1 | with_reducible apply Keeps.fold2 | with_reducible apply Keeps.fold3 | with_reducible apply Keeps.fold21 | intro _ | split | dsimp only))); intro hz; clear_value z) | clear_value z | skip)
    | (simp (maxDischargeDepth := 99) only [KIss.hold, KIss.done, KIss.fault, KIss.wait, Keeps.upd, Keeps.updId, Keeps.ite, Keeps.foldl, Keeps.foldl2, Keeps.foldl3, Keeps.refl, implies_true, keeps_setHome, keeps_wqGo, keeps_eccEffect, keeps_eccData, keeps_readResult, keeps_answerRead, keeps_showReads, *]; done)
    | with_reducible apply Keeps.fold1
    | with_reducible apply Keeps.fold2
    | with_reducible apply Keeps.fold3
    | with_reducible apply Keeps.fold21
    | intro _
    | (split <;> (try (rename_i heq; (first | refine Keeps.cut (Keeps.of_eq (b := b0) heq ?_) ?_ | refine Keeps.cut (Keeps.of_eq3 (b := b0) heq ?_) ?_ | refine Keeps.cut (Keeps.of_eq1 (b := b0) heq ?_) ?_ | refine Keeps.cut (Keeps.of_eq4 (b := b0) heq ?_) ?_); (focus (clear heq; (repeat' first | (simp (maxDischargeDepth := 99) only [KIss.hold, KIss.done, KIss.fault, KIss.wait, Keeps.upd, Keeps.updId, Keeps.ite, Keeps.foldl, Keeps.foldl2, Keeps.foldl3, Keeps.refl, implies_true, keeps_setHome, keeps_wqGo, keeps_eccEffect, keeps_eccData, keeps_readResult, keeps_answerRead, keeps_showReads, *]; done) | with_reducible apply Keeps.fold1 | with_reducible apply Keeps.fold2 | with_reducible apply Keeps.fold3 | with_reducible apply Keeps.fold21 | intro _ | split | dsimp only))); intro hz; (try dsimp only at hz); clear heq)))

theorem keeps_roomForRead {b0 : State} {s : State} (h : Nat) (hK : Keeps b0 s) :
    Keeps b0 (roomForRead s h) := by
  unfold roomForRead; simp (maxDischargeDepth := 99) only [KIss.hold, KIss.done, KIss.fault, KIss.wait, Keeps.upd,
        Keeps.updId, Keeps.ite, Keeps.foldl, Keeps.foldl2, Keeps.foldl3, Keeps.refl, implies_true, keeps_stackReturn, *]

theorem keeps_grant {b0 : State} {s : State} (h : Nat) (line : Nat) (req : Nat) (m : CohMsg) (hK : Keeps b0 s) :
    Keeps b0 (grant s h line req m) := by
  unfold grant; simp (maxDischargeDepth := 99) only [KIss.hold, KIss.done, KIss.fault, KIss.wait, Keeps.upd, Keeps.updId,
        Keeps.ite, Keeps.foldl, Keeps.foldl2, Keeps.foldl3, Keeps.refl, implies_true, keeps_sendMsg, keeps_markUse, *]

theorem keeps_grantMem {b0 : State} {s : State} (h : Nat) (line : Nat) (req : Nat) (ex : Bool) (st : DirState) (hs : Holders) (hK : Keeps b0 s) :
    Keeps b0 (grantMem s h line req ex st hs) := by
  unfold grantMem; simp (maxDischargeDepth := 99) only [KIss.hold, KIss.done, KIss.fault, KIss.wait, Keeps.upd, Keeps.updId,
        Keeps.ite, Keeps.foldl, Keeps.foldl2, Keeps.foldl3, Keeps.refl, implies_true, keeps_homeReadNow, keeps_sendMsg,
        keeps_setDir, keeps_delDir, keeps_roomForRead, keeps_grant, *]

theorem keeps_cohHandle {b0 : State} {s : State} (h : Nat) (line : Nat) (k : TxnKind) (req : Nat) (hK : Keeps b0 s) :
    Keeps b0 (cohHandle s h line k req) := by
  unfold cohHandle; (repeat' split) <;> simp (maxDischargeDepth := 99) only [KIss.hold, KIss.done, KIss.fault, KIss.wait,
        Keeps.upd, Keeps.updId, Keeps.ite, Keeps.foldl, Keeps.foldl2, Keeps.foldl3, Keeps.refl, implies_true, keeps_sendMsg,
        keeps_setDir, keeps_setTxn, keeps_snoopAll, keeps_grant, keeps_grantMem, *]

theorem keeps_startEvict {b0 : State} {s : State} (line : Nat) (hK : Keeps b0 s) :
    Keeps b0 (startEvict s line) := by
  unfold startEvict; (repeat' split) <;> simp (maxDischargeDepth := 99) only [KIss.hold, KIss.done, KIss.fault, KIss.wait,
        Keeps.upd, Keeps.updId, Keeps.ite, Keeps.foldl, Keeps.foldl2, Keeps.foldl3, Keeps.refl, implies_true, keeps_count,
        keeps_delDir, keeps_setTxn, keeps_snoopAll, *]

theorem keeps_cohRequest {b0 : State} {s : State} (h : Nat) (line : Nat) (k : TxnKind) (req : Nat) (hK : Keeps b0 s) :
    Keeps b0 (cohRequest s h line k req) := by
  unfold cohRequest
  repeat' first
    | with_reducible assumption
    | (extract_lets +onlyGivenNames z; first | ((first | refine Keeps.cut (p := Keeps b0 z) ?_ ?_ | refine Keeps.cut (p := Keeps b0 z.2) ?_ ?_ | refine Keeps.cut (p := Keeps b0 z.2.2) ?_ ?_ | refine Keeps.cut (p := Keeps b0 z.1) ?_ ?_ | refine Keeps.cut (p := Keeps b0 z.s) ?_ ?_ | refine Keeps.cut (p := Keeps b0 z.2.s) ?_ ?_ | refine Keeps.cut (p := Keeps b0 z.2.2.s) ?_ ?_); (focus (intros; dsimp only [z]; (repeat' first | (simp (maxDischargeDepth := 99) only [KIss.hold, KIss.done, KIss.fault, KIss.wait, Keeps.upd, Keeps.updId, Keeps.ite, Keeps.foldl, Keeps.foldl2, Keeps.foldl3, Keeps.refl, implies_true, keeps_setTxn, keeps_cohHandle, keeps_startEvict, *]; done) | with_reducible apply Keeps.fold1 | with_reducible apply Keeps.fold2 | with_reducible apply Keeps.fold3 | with_reducible apply Keeps.fold21 | intro _ | split | dsimp only))); intro hz; clear_value z) | clear_value z | skip)
    | (simp (maxDischargeDepth := 99) only [KIss.hold, KIss.done, KIss.fault, KIss.wait, Keeps.upd, Keeps.updId, Keeps.ite, Keeps.foldl, Keeps.foldl2, Keeps.foldl3, Keeps.refl, implies_true, keeps_setTxn, keeps_cohHandle, keeps_startEvict, *]; done)
    | with_reducible apply Keeps.fold1
    | with_reducible apply Keeps.fold2
    | with_reducible apply Keeps.fold3
    | with_reducible apply Keeps.fold21
    | intro _
    | (split <;> (try (rename_i heq; (first | refine Keeps.cut (Keeps.of_eq (b := b0) heq ?_) ?_ | refine Keeps.cut (Keeps.of_eq3 (b := b0) heq ?_) ?_ | refine Keeps.cut (Keeps.of_eq1 (b := b0) heq ?_) ?_ | refine Keeps.cut (Keeps.of_eq4 (b := b0) heq ?_) ?_); (focus (clear heq; (repeat' first | (simp (maxDischargeDepth := 99) only [KIss.hold, KIss.done, KIss.fault, KIss.wait, Keeps.upd, Keeps.updId, Keeps.ite, Keeps.foldl, Keeps.foldl2, Keeps.foldl3, Keeps.refl, implies_true, keeps_setTxn, keeps_cohHandle, keeps_startEvict, *]; done) | with_reducible apply Keeps.fold1 | with_reducible apply Keeps.fold2 | with_reducible apply Keeps.fold3 | with_reducible apply Keeps.fold21 | intro _ | split | dsimp only))); intro hz; (try dsimp only at hz); clear heq)))

theorem keeps_amuKeep {b0 : State} {s : State} (h : Nat) (line : Nat) (hK : Keeps b0 s) :
    Keeps b0 (amuKeep s h line) := by
  unfold amuKeep; simp (maxDischargeDepth := 99) only [KIss.hold, KIss.done, KIss.fault, KIss.wait, Keeps.upd, Keeps.updId,
        Keeps.ite, Keeps.foldl, Keeps.foldl2, Keeps.foldl3, Keeps.refl, implies_true, keeps_setHome, *]

theorem keeps_amuExec {b0 : State} {s : State} (h : Nat) (r : MemReq) (ecc : Ecc) (hK : Keeps b0 s) :
    Keeps b0 (amuExec s h r ecc).2.2 := by
  unfold amuExec
  repeat' first
    | with_reducible assumption
    | (extract_lets +onlyGivenNames z; first | ((first | refine Keeps.cut (p := Keeps b0 z) ?_ ?_ | refine Keeps.cut (p := Keeps b0 z.2) ?_ ?_ | refine Keeps.cut (p := Keeps b0 z.2.2) ?_ ?_ | refine Keeps.cut (p := Keeps b0 z.1) ?_ ?_ | refine Keeps.cut (p := Keeps b0 z.s) ?_ ?_ | refine Keeps.cut (p := Keeps b0 z.2.s) ?_ ?_ | refine Keeps.cut (p := Keeps b0 z.2.2.s) ?_ ?_); (focus (intros; dsimp only [z]; (repeat' first | (simp (maxDischargeDepth := 99) only [KIss.hold, KIss.done, KIss.fault, KIss.wait, Keeps.upd, Keeps.updId, Keeps.ite, Keeps.foldl, Keeps.foldl2, Keeps.foldl3, Keeps.refl, implies_true, keeps_count, keeps_homeCount, keeps_wqPush, keeps_healGood, keeps_eccEffect, keeps_eccData, keeps_sumpRmw, keeps_readResult, keeps_markUse, keeps_amuKeep, *]; done) | with_reducible apply Keeps.fold1 | with_reducible apply Keeps.fold2 | with_reducible apply Keeps.fold3 | with_reducible apply Keeps.fold21 | intro _ | split | dsimp only))); intro hz; clear_value z) | clear_value z | skip)
    | (simp (maxDischargeDepth := 99) only [KIss.hold, KIss.done, KIss.fault, KIss.wait, Keeps.upd, Keeps.updId, Keeps.ite, Keeps.foldl, Keeps.foldl2, Keeps.foldl3, Keeps.refl, implies_true, keeps_count, keeps_homeCount, keeps_wqPush, keeps_healGood, keeps_eccEffect, keeps_eccData, keeps_sumpRmw, keeps_readResult, keeps_markUse, keeps_amuKeep, *]; done)
    | with_reducible apply Keeps.fold1
    | with_reducible apply Keeps.fold2
    | with_reducible apply Keeps.fold3
    | with_reducible apply Keeps.fold21
    | intro _
    | (split <;> (try (rename_i heq; (first | refine Keeps.cut (Keeps.of_eq (b := b0) heq ?_) ?_ | refine Keeps.cut (Keeps.of_eq3 (b := b0) heq ?_) ?_ | refine Keeps.cut (Keeps.of_eq1 (b := b0) heq ?_) ?_ | refine Keeps.cut (Keeps.of_eq4 (b := b0) heq ?_) ?_); (focus (clear heq; (repeat' first | (simp (maxDischargeDepth := 99) only [KIss.hold, KIss.done, KIss.fault, KIss.wait, Keeps.upd, Keeps.updId, Keeps.ite, Keeps.foldl, Keeps.foldl2, Keeps.foldl3, Keeps.refl, implies_true, keeps_count, keeps_homeCount, keeps_wqPush, keeps_healGood, keeps_eccEffect, keeps_eccData, keeps_sumpRmw, keeps_readResult, keeps_markUse, keeps_amuKeep, *]; done) | with_reducible apply Keeps.fold1 | with_reducible apply Keeps.fold2 | with_reducible apply Keeps.fold3 | with_reducible apply Keeps.fold21 | intro _ | split | dsimp only))); intro hz; (try dsimp only at hz); clear heq)))

theorem keeps_amoFarExec {b0 : State} {s : State} (h : Nat) (r : MemReq) (hK : Keeps b0 s) :
    Keeps b0 (amoFarExec s h r) := by
  unfold amoFarExec
  repeat' first
    | with_reducible assumption
    | (simp (maxDischargeDepth := 99) only [KIss.hold, KIss.done, KIss.fault, KIss.wait, Keeps.upd, Keeps.updId, Keeps.ite, Keeps.foldl, Keeps.foldl2, Keeps.foldl3, Keeps.refl, implies_true, keeps_amuExec, *]; done)
    | (split <;> (try (rename_i heq; (first | refine Keeps.cut (Keeps.of_eq (b := b0) heq ?_) ?_ | refine Keeps.cut (Keeps.of_eq3 (b := b0) heq ?_) ?_ | refine Keeps.cut (Keeps.of_eq1 (b := b0) heq ?_) ?_ | refine Keeps.cut (Keeps.of_eq4 (b := b0) heq ?_) ?_); (focus (clear heq; (repeat' first | (simp (maxDischargeDepth := 99) only [KIss.hold, KIss.done, KIss.fault, KIss.wait, Keeps.upd, Keeps.updId, Keeps.ite, Keeps.foldl, Keeps.foldl2, Keeps.foldl3, Keeps.refl, implies_true, keeps_amuExec, *]; done) | with_reducible apply Keeps.fold1 | with_reducible apply Keeps.fold2 | with_reducible apply Keeps.fold3 | with_reducible apply Keeps.fold21 | intro _ | split | dsimp only))); intro hz; (try dsimp only at hz); clear heq)))

theorem keeps_loseReservation {b0 : State} {s : State} (a : Nat) (line : Nat) (hK : Keeps b0 s) :
    Keeps b0 (loseReservation s a line) := by
  unfold loseReservation; simp (maxDischargeDepth := 99) only [KIss.hold, KIss.done, KIss.fault, KIss.wait, Keeps.upd,
        Keeps.updId, Keeps.ite, Keeps.foldl, Keeps.foldl2, Keeps.foldl3, Keeps.refl, implies_true, *]

theorem keeps_answerSnoop {b0 : State} {s : State} (a : Nat) (line : Nat) (m : CohMsg) (hK : Keeps b0 s) :
    Keeps b0 (answerSnoop s a line m) := by
  unfold answerSnoop
  repeat' first
    | with_reducible assumption
    | (extract_lets +onlyGivenNames z; first | ((first | refine Keeps.cut (p := Keeps b0 z) ?_ ?_ | refine Keeps.cut (p := Keeps b0 z.2) ?_ ?_ | refine Keeps.cut (p := Keeps b0 z.2.2) ?_ ?_ | refine Keeps.cut (p := Keeps b0 z.1) ?_ ?_ | refine Keeps.cut (p := Keeps b0 z.s) ?_ ?_ | refine Keeps.cut (p := Keeps b0 z.2.s) ?_ ?_ | refine Keeps.cut (p := Keeps b0 z.2.2.s) ?_ ?_); (focus (intros; dsimp only [z]; (repeat' first | (simp (maxDischargeDepth := 99) only [KIss.hold, KIss.done, KIss.fault, KIss.wait, Keeps.upd, Keeps.updId, Keeps.ite, Keeps.foldl, Keeps.foldl2, Keeps.foldl3, Keeps.refl, implies_true, keeps_setCopy, keeps_dropCopy, keeps_sendMsg, keeps_loseReservation, *]; done) | with_reducible apply Keeps.fold1 | with_reducible apply Keeps.fold2 | with_reducible apply Keeps.fold3 | with_reducible apply Keeps.fold21 | intro _ | split | dsimp only))); intro hz; clear_value z) | clear_value z | skip)
    | (simp (maxDischargeDepth := 99) only [KIss.hold, KIss.done, KIss.fault, KIss.wait, Keeps.upd, Keeps.updId, Keeps.ite, Keeps.foldl, Keeps.foldl2, Keeps.foldl3, Keeps.refl, implies_true, keeps_setCopy, keeps_dropCopy, keeps_sendMsg, keeps_loseReservation, *]; done)
    | with_reducible apply Keeps.fold1
    | with_reducible apply Keeps.fold2
    | with_reducible apply Keeps.fold3
    | with_reducible apply Keeps.fold21
    | intro _
    | (split <;> (try (rename_i heq; (first | refine Keeps.cut (Keeps.of_eq (b := b0) heq ?_) ?_ | refine Keeps.cut (Keeps.of_eq3 (b := b0) heq ?_) ?_ | refine Keeps.cut (Keeps.of_eq1 (b := b0) heq ?_) ?_ | refine Keeps.cut (Keeps.of_eq4 (b := b0) heq ?_) ?_); (focus (clear heq; (repeat' first | (simp (maxDischargeDepth := 99) only [KIss.hold, KIss.done, KIss.fault, KIss.wait, Keeps.upd, Keeps.updId, Keeps.ite, Keeps.foldl, Keeps.foldl2, Keeps.foldl3, Keeps.refl, implies_true, keeps_setCopy, keeps_dropCopy, keeps_sendMsg, keeps_loseReservation, *]; done) | with_reducible apply Keeps.fold1 | with_reducible apply Keeps.fold2 | with_reducible apply Keeps.fold3 | with_reducible apply Keeps.fold21 | intro _ | split | dsimp only))); intro hz; (try dsimp only at hz); clear heq)))

theorem keeps_evictCopy {b0 : State} {s : State} (a : Nat) (line : Nat) (hK : Keeps b0 s) :
    Keeps b0 (evictCopy s a line) := by
  unfold evictCopy; (repeat' split) <;> simp (maxDischargeDepth := 99) only [KIss.hold, KIss.done, KIss.fault, KIss.wait,
        Keeps.upd, Keeps.updId, Keeps.ite, Keeps.foldl, Keeps.foldl2, Keeps.foldl3, Keeps.refl, implies_true, keeps_dropCopy,
         keeps_sendMsg, keeps_answerSnoop, *]

theorem keeps_recvSnoop {b0 : State} {s : State} (a : Nat) (line : Nat) (m : CohMsg) (hK : Keeps b0 s) :
    Keeps b0 (recvSnoop s a line m) := by
  unfold recvSnoop; (repeat' split) <;> simp (maxDischargeDepth := 99) only [KIss.hold, KIss.done, KIss.fault, KIss.wait,
        Keeps.upd, Keeps.updId, Keeps.ite, Keeps.foldl, Keeps.foldl2, Keeps.foldl3, Keeps.refl, implies_true, keeps_count,
        keeps_setCopy, keeps_answerSnoop, *]

theorem keeps_holdExpiry {b0 : State} {s : State} (a : Nat) (line : Nat) (hK : Keeps b0 s) :
    Keeps b0 (holdExpiry s a line) := by
  unfold holdExpiry; (repeat' split) <;> simp (maxDischargeDepth := 99) only [KIss.hold, KIss.done, KIss.fault, KIss.wait,
        Keeps.upd, Keeps.updId, Keeps.ite, Keeps.foldl, Keeps.foldl2, Keeps.foldl3, Keeps.refl, implies_true, keeps_setCopy,
        keeps_answerSnoop, *]

theorem keeps_predict {b0 : State} {s : State} (c : Nat) (addr : Nat) (up : Bool) (hK : Keeps b0 s) :
    Keeps b0 (predict s c addr up) := by
  unfold predict; simp (maxDischargeDepth := 99) only [KIss.hold, KIss.done, KIss.fault, KIss.wait, Keeps.upd, Keeps.updId,
        Keeps.ite, Keeps.foldl, Keeps.foldl2, Keeps.foldl3, Keeps.refl, implies_true, *]

theorem keeps_setCore {b0 : State} {s : State} (c : Nat) (v : CoreSt) (hK : Keeps b0 s) :
    Keeps b0 (setCore s c v) := by
  unfold setCore; simp (maxDischargeDepth := 99) only [KIss.hold, KIss.done, KIss.fault, KIss.wait, Keeps.upd, Keeps.updId,
        Keeps.ite, Keeps.foldl, Keeps.foldl2, Keeps.foldl3, Keeps.refl, implies_true, *]

theorem keeps_amoNear {b0 : State} {s : State} (c : Nat) (op : CoreAmo) (snooped : Bool) (hK : Keeps b0 s) :
    Keeps b0 (amoNear s c op snooped) := by
  unfold amoNear
  repeat' first
    | with_reducible assumption
    | (extract_lets +onlyGivenNames z; first | ((first | refine Keeps.cut (p := Keeps b0 z) ?_ ?_ | refine Keeps.cut (p := Keeps b0 z.2) ?_ ?_ | refine Keeps.cut (p := Keeps b0 z.2.2) ?_ ?_ | refine Keeps.cut (p := Keeps b0 z.1) ?_ ?_ | refine Keeps.cut (p := Keeps b0 z.s) ?_ ?_ | refine Keeps.cut (p := Keeps b0 z.2.s) ?_ ?_ | refine Keeps.cut (p := Keeps b0 z.2.2.s) ?_ ?_ | refine Keeps.cut (p := ∀ b y a, Keeps b y → Keeps b (z y a)) ?_ ?_ | refine Keeps.cut (p := ∀ b a y, Keeps b y → Keeps b (z a y)) ?_ ?_ | refine Keeps.cut (p := ∀ b y, Keeps b y → Keeps b (z y)) ?_ ?_ | refine Keeps.cut (p := ∀ b y a c, Keeps b y → Keeps b (z y a c)) ?_ ?_ | refine Keeps.cut (p := ∀ b y, Keeps b y → Keeps b (z y).2) ?_ ?_ | refine Keeps.cut (p := ∀ b y a, Keeps b y → Keeps b (z y a).2) ?_ ?_ | refine Keeps.cut (p := ∀ b y, Keeps b y → Keeps b (z y).2.2) ?_ ?_ | refine Keeps.cut (p := ∀ a, Keeps b0 (z a)) ?_ ?_ | refine Keeps.cut (p := ∀ a c, Keeps b0 (z a c)) ?_ ?_ | refine Keeps.cut (p := ∀ a, Keeps b0 (z a).2) ?_ ?_ | refine Keeps.cut (p := ∀ a c d, Keeps b0 (z a c d)) ?_ ?_ | refine Keeps.cut (p := ∀ a, Keeps b0 (z a).2.2) ?_ ?_); (focus (intros; dsimp only [z]; (repeat' first | (simp (maxDischargeDepth := 99) only [KIss.hold, KIss.done, KIss.fault, KIss.wait, Keeps.upd, Keeps.updId, Keeps.ite, Keeps.foldl, Keeps.foldl2, Keeps.foldl3, Keeps.refl, implies_true, keeps_count, keeps_setCopy, keeps_predict, keeps_setCore, *]; done) | with_reducible apply Keeps.fold1 | with_reducible apply Keeps.fold2 | with_reducible apply Keeps.fold3 | with_reducible apply Keeps.fold21 | intro _ | split | dsimp only))); intro hz; clear_value z) | clear_value z | skip)
    | (simp (maxDischargeDepth := 99) only [KIss.hold, KIss.done, KIss.fault, KIss.wait, Keeps.upd, Keeps.updId, Keeps.ite, Keeps.foldl, Keeps.foldl2, Keeps.foldl3, Keeps.refl, implies_true, keeps_count, keeps_setCopy, keeps_predict, keeps_setCore, *]; done)
    | with_reducible apply Keeps.fold1
    | with_reducible apply Keeps.fold2
    | with_reducible apply Keeps.fold3
    | with_reducible apply Keeps.fold21
    | intro _
    | (split <;> (try (rename_i heq; (first | refine Keeps.cut (Keeps.of_eq (b := b0) heq ?_) ?_ | refine Keeps.cut (Keeps.of_eq3 (b := b0) heq ?_) ?_ | refine Keeps.cut (Keeps.of_eq1 (b := b0) heq ?_) ?_ | refine Keeps.cut (Keeps.of_eq4 (b := b0) heq ?_) ?_); (focus (clear heq; (repeat' first | (simp (maxDischargeDepth := 99) only [KIss.hold, KIss.done, KIss.fault, KIss.wait, Keeps.upd, Keeps.updId, Keeps.ite, Keeps.foldl, Keeps.foldl2, Keeps.foldl3, Keeps.refl, implies_true, keeps_count, keeps_setCopy, keeps_predict, keeps_setCore, *]; done) | with_reducible apply Keeps.fold1 | with_reducible apply Keeps.fold2 | with_reducible apply Keeps.fold3 | with_reducible apply Keeps.fold21 | intro _ | split | dsimp only))); intro hz; (try dsimp only at hz); clear heq)))

theorem keeps_recvGrant {b0 : State} {s : State} (a : Nat) (line : Nat) (m : CohMsg) (hK : Keeps b0 s) :
    Keeps b0 (recvGrant s a line m) := by
  unfold recvGrant
  repeat' first
    | with_reducible assumption
    | (extract_lets +onlyGivenNames z; first | ((first | refine Keeps.cut (p := Keeps b0 z) ?_ ?_ | refine Keeps.cut (p := Keeps b0 z.2) ?_ ?_ | refine Keeps.cut (p := Keeps b0 z.2.2) ?_ ?_ | refine Keeps.cut (p := Keeps b0 z.1) ?_ ?_ | refine Keeps.cut (p := Keeps b0 z.s) ?_ ?_ | refine Keeps.cut (p := Keeps b0 z.2.s) ?_ ?_ | refine Keeps.cut (p := Keeps b0 z.2.2.s) ?_ ?_ | refine Keeps.cut (p := ∀ b y a, Keeps b y → Keeps b (z y a)) ?_ ?_ | refine Keeps.cut (p := ∀ b a y, Keeps b y → Keeps b (z a y)) ?_ ?_ | refine Keeps.cut (p := ∀ b y, Keeps b y → Keeps b (z y)) ?_ ?_ | refine Keeps.cut (p := ∀ b y a c, Keeps b y → Keeps b (z y a c)) ?_ ?_ | refine Keeps.cut (p := ∀ b y, Keeps b y → Keeps b (z y).2) ?_ ?_ | refine Keeps.cut (p := ∀ b y a, Keeps b y → Keeps b (z y a).2) ?_ ?_ | refine Keeps.cut (p := ∀ b y, Keeps b y → Keeps b (z y).2.2) ?_ ?_ | refine Keeps.cut (p := ∀ a, Keeps b0 (z a)) ?_ ?_ | refine Keeps.cut (p := ∀ a c, Keeps b0 (z a c)) ?_ ?_ | refine Keeps.cut (p := ∀ a, Keeps b0 (z a).2) ?_ ?_ | refine Keeps.cut (p := ∀ a c d, Keeps b0 (z a c d)) ?_ ?_ | refine Keeps.cut (p := ∀ a, Keeps b0 (z a).2.2) ?_ ?_); (focus (intros; dsimp only [z]; (repeat' first | (simp (maxDischargeDepth := 99) only [KIss.hold, KIss.done, KIss.fault, KIss.wait, Keeps.upd, Keeps.updId, Keeps.ite, Keeps.foldl, Keeps.foldl2, Keeps.foldl3, Keeps.refl, implies_true, keeps_setCopy, keeps_amoNear, *]; done) | with_reducible apply Keeps.fold1 | with_reducible apply Keeps.fold2 | with_reducible apply Keeps.fold3 | with_reducible apply Keeps.fold21 | intro _ | split | dsimp only))); intro hz; clear_value z) | clear_value z | skip)
    | (simp (maxDischargeDepth := 99) only [KIss.hold, KIss.done, KIss.fault, KIss.wait, Keeps.upd, Keeps.updId, Keeps.ite, Keeps.foldl, Keeps.foldl2, Keeps.foldl3, Keeps.refl, implies_true, keeps_setCopy, keeps_amoNear, *]; done)
    | with_reducible apply Keeps.fold1
    | with_reducible apply Keeps.fold2
    | with_reducible apply Keeps.fold3
    | with_reducible apply Keeps.fold21
    | intro _
    | (split <;> (try (rename_i heq; (first | refine Keeps.cut (Keeps.of_eq (b := b0) heq ?_) ?_ | refine Keeps.cut (Keeps.of_eq3 (b := b0) heq ?_) ?_ | refine Keeps.cut (Keeps.of_eq1 (b := b0) heq ?_) ?_ | refine Keeps.cut (Keeps.of_eq4 (b := b0) heq ?_) ?_); (focus (clear heq; (repeat' first | (simp (maxDischargeDepth := 99) only [KIss.hold, KIss.done, KIss.fault, KIss.wait, Keeps.upd, Keeps.updId, Keeps.ite, Keeps.foldl, Keeps.foldl2, Keeps.foldl3, Keeps.refl, implies_true, keeps_setCopy, keeps_amoNear, *]; done) | with_reducible apply Keeps.fold1 | with_reducible apply Keeps.fold2 | with_reducible apply Keeps.fold3 | with_reducible apply Keeps.fold21 | intro _ | split | dsimp only))); intro hz; (try dsimp only at hz); clear heq)))

theorem keeps_markSnooped {b0 : State} {s : State} (line : Nat) (t : Txn) (by_ : Nat) (hK : Keeps b0 s) :
    Keeps b0 (markSnooped s line t by_) := by
  unfold markSnooped; (repeat' split) <;> simp (maxDischargeDepth := 99) only [KIss.hold, KIss.done, KIss.fault, KIss.wait,
        Keeps.upd, Keeps.updId, Keeps.ite, Keeps.foldl, Keeps.foldl2, Keeps.foldl3, Keeps.refl, implies_true, keeps_setCore,
        *]

theorem keeps_dataHome {b0 : State} {s : State} (h : Nat) (line : Nat) (t : Txn) (hK : Keeps b0 s) :
    Keeps b0 (dataHome s h line t) := by
  unfold dataHome; (repeat' split) <;> simp (maxDischargeDepth := 99) only [KIss.hold, KIss.done, KIss.fault, KIss.wait,
        Keeps.upd, Keeps.updId, Keeps.ite, Keeps.foldl, Keeps.foldl2, Keeps.foldl3, Keeps.refl, implies_true,
        keeps_homeWrite, *]

theorem keeps_txnEnd {b0 : State} {s : State} (h : Nat) (line : Nat) (hK : Keeps b0 s) :
    Keeps b0 (txnEnd s h line) := by
  unfold txnEnd
  repeat' first
    | with_reducible assumption
    | (extract_lets +onlyGivenNames z; first | ((first | refine Keeps.cut (p := Keeps b0 z) ?_ ?_ | refine Keeps.cut (p := Keeps b0 z.2) ?_ ?_ | refine Keeps.cut (p := Keeps b0 z.2.2) ?_ ?_ | refine Keeps.cut (p := Keeps b0 z.1) ?_ ?_ | refine Keeps.cut (p := Keeps b0 z.s) ?_ ?_ | refine Keeps.cut (p := Keeps b0 z.2.s) ?_ ?_ | refine Keeps.cut (p := Keeps b0 z.2.2.s) ?_ ?_); (focus (intros; dsimp only [z]; (repeat' first | (simp (maxDischargeDepth := 99) only [KIss.hold, KIss.done, KIss.fault, KIss.wait, Keeps.upd, Keeps.updId, Keeps.ite, Keeps.foldl, Keeps.foldl2, Keeps.foldl3, Keeps.refl, implies_true, keeps_count, keeps_setHome, keeps_sendMsg, keeps_setDir, keeps_delDir, keeps_delTxn, keeps_grant, keeps_grantMem, keeps_cohHandle, keeps_amoFarExec, keeps_dataHome, *]; done) | with_reducible apply Keeps.fold1 | with_reducible apply Keeps.fold2 | with_reducible apply Keeps.fold3 | with_reducible apply Keeps.fold21 | intro _ | split | dsimp only))); intro hz; clear_value z) | clear_value z | skip)
    | (simp (maxDischargeDepth := 99) only [KIss.hold, KIss.done, KIss.fault, KIss.wait, Keeps.upd, Keeps.updId, Keeps.ite, Keeps.foldl, Keeps.foldl2, Keeps.foldl3, Keeps.refl, implies_true, keeps_count, keeps_setHome, keeps_sendMsg, keeps_setDir, keeps_delDir, keeps_delTxn, keeps_grant, keeps_grantMem, keeps_cohHandle, keeps_amoFarExec, keeps_dataHome, *]; done)
    | with_reducible apply Keeps.fold1
    | with_reducible apply Keeps.fold2
    | with_reducible apply Keeps.fold3
    | with_reducible apply Keeps.fold21
    | intro _
    | (split <;> (try (rename_i heq; (first | refine Keeps.cut (Keeps.of_eq (b := b0) heq ?_) ?_ | refine Keeps.cut (Keeps.of_eq3 (b := b0) heq ?_) ?_ | refine Keeps.cut (Keeps.of_eq1 (b := b0) heq ?_) ?_ | refine Keeps.cut (Keeps.of_eq4 (b := b0) heq ?_) ?_); (focus (clear heq; (repeat' first | (simp (maxDischargeDepth := 99) only [KIss.hold, KIss.done, KIss.fault, KIss.wait, Keeps.upd, Keeps.updId, Keeps.ite, Keeps.foldl, Keeps.foldl2, Keeps.foldl3, Keeps.refl, implies_true, keeps_count, keeps_setHome, keeps_sendMsg, keeps_setDir, keeps_delDir, keeps_delTxn, keeps_grant, keeps_grantMem, keeps_cohHandle, keeps_amoFarExec, keeps_dataHome, *]; done) | with_reducible apply Keeps.fold1 | with_reducible apply Keeps.fold2 | with_reducible apply Keeps.fold3 | with_reducible apply Keeps.fold21 | intro _ | split | dsimp only))); intro hz; (try dsimp only at hz); clear heq)))

theorem keeps_recvRsp {b0 : State} {s : State} (h : Nat) (a : Nat) (line : Nat) (m : CohMsg) (hK : Keeps b0 s) :
    Keeps b0 (recvRsp s h a line m) := by
  unfold recvRsp
  repeat' first
    | with_reducible assumption
    | (extract_lets +onlyGivenNames z; first | ((first | refine Keeps.cut (p := Keeps b0 z) ?_ ?_ | refine Keeps.cut (p := Keeps b0 z.2) ?_ ?_ | refine Keeps.cut (p := Keeps b0 z.2.2) ?_ ?_ | refine Keeps.cut (p := Keeps b0 z.1) ?_ ?_ | refine Keeps.cut (p := Keeps b0 z.s) ?_ ?_ | refine Keeps.cut (p := Keeps b0 z.2.s) ?_ ?_ | refine Keeps.cut (p := Keeps b0 z.2.2.s) ?_ ?_); (focus (intros; dsimp only [z]; (repeat' first | (simp (maxDischargeDepth := 99) only [KIss.hold, KIss.done, KIss.fault, KIss.wait, Keeps.upd, Keeps.updId, Keeps.ite, Keeps.foldl, Keeps.foldl2, Keeps.foldl3, Keeps.refl, implies_true, keeps_count, keeps_setTxn, keeps_markSnooped, keeps_txnEnd, *]; done) | with_reducible apply Keeps.fold1 | with_reducible apply Keeps.fold2 | with_reducible apply Keeps.fold3 | with_reducible apply Keeps.fold21 | intro _ | split | dsimp only))); intro hz; clear_value z) | clear_value z | skip)
    | (simp (maxDischargeDepth := 99) only [KIss.hold, KIss.done, KIss.fault, KIss.wait, Keeps.upd, Keeps.updId, Keeps.ite, Keeps.foldl, Keeps.foldl2, Keeps.foldl3, Keeps.refl, implies_true, keeps_count, keeps_setTxn, keeps_markSnooped, keeps_txnEnd, *]; done)
    | with_reducible apply Keeps.fold1
    | with_reducible apply Keeps.fold2
    | with_reducible apply Keeps.fold3
    | with_reducible apply Keeps.fold21
    | intro _
    | (split <;> (try (rename_i heq; (first | refine Keeps.cut (Keeps.of_eq (b := b0) heq ?_) ?_ | refine Keeps.cut (Keeps.of_eq3 (b := b0) heq ?_) ?_ | refine Keeps.cut (Keeps.of_eq1 (b := b0) heq ?_) ?_ | refine Keeps.cut (Keeps.of_eq4 (b := b0) heq ?_) ?_); (focus (clear heq; (repeat' first | (simp (maxDischargeDepth := 99) only [KIss.hold, KIss.done, KIss.fault, KIss.wait, Keeps.upd, Keeps.updId, Keeps.ite, Keeps.foldl, Keeps.foldl2, Keeps.foldl3, Keeps.refl, implies_true, keeps_count, keeps_setTxn, keeps_markSnooped, keeps_txnEnd, *]; done) | with_reducible apply Keeps.fold1 | with_reducible apply Keeps.fold2 | with_reducible apply Keeps.fold3 | with_reducible apply Keeps.fold21 | intro _ | split | dsimp only))); intro hz; (try dsimp only at hz); clear heq)))

theorem keeps_wbEntry {b0 : State} {s : State} (a : Nat) (line : Nat) (hK : Keeps b0 s) :
    Keeps b0 (wbEntry s a line) := by
  unfold wbEntry; (repeat' split) <;> simp (maxDischargeDepth := 99) only [KIss.hold, KIss.done, KIss.fault, KIss.wait,
        Keeps.upd, Keeps.updId, Keeps.ite, Keeps.foldl, Keeps.foldl2, Keeps.foldl3, Keeps.refl, implies_true, keeps_setDir,
        *]

theorem keeps_recvWbDirty {b0 : State} {s : State} (h : Nat) (a : Nat) (line : Nat) (bs : List Byte) (hK : Keeps b0 s) :
    Keeps b0 (recvWbDirty s h a line bs) := by
  unfold recvWbDirty; (repeat' split) <;> simp (maxDischargeDepth := 99) only [KIss.hold, KIss.done, KIss.fault, KIss.wait,
        Keeps.upd, Keeps.updId, Keeps.ite, Keeps.foldl, Keeps.foldl2, Keeps.foldl3, Keeps.refl, implies_true, keeps_count,
        keeps_homeWrite, keeps_sendMsg, keeps_setTxn, keeps_txnEnd, keeps_wbEntry, *]

theorem keeps_recvWbAck {b0 : State} {s : State} (a : Nat) (line : Nat) (hK : Keeps b0 s) :
    Keeps b0 (recvWbAck s a line) := by
  unfold recvWbAck; simp (maxDischargeDepth := 99) only [KIss.hold, KIss.done, KIss.fault, KIss.wait, Keeps.upd, Keeps.updId,
         Keeps.ite, Keeps.foldl, Keeps.foldl2, Keeps.foldl3, Keeps.refl, implies_true, *]

theorem keeps_takeMsg {b0 : State} {s : State} (a : Nat) (line : Nat) (p : CohMsg → Bool) (dir : CohMsg → Bool) (hK : Keeps b0 s) :
    ∀ u, takeMsg s a line p dir = some u → Keeps b0 u.2 := by
  unfold takeMsg
  repeat' first
    | with_reducible assumption
    | refine fun (y : State) (gr : Group) (hy : Keeps b0 y) => ?_
    | (extract_lets +onlyGivenNames z; first | ((first | refine Keeps.cut (p := Keeps b0 z) ?_ ?_ | refine Keeps.cut (p := Keeps b0 z.2) ?_ ?_ | refine Keeps.cut (p := Keeps b0 z.2.2) ?_ ?_ | refine Keeps.cut (p := Keeps b0 z.1) ?_ ?_ | refine Keeps.cut (p := Keeps b0 z.s) ?_ ?_ | refine Keeps.cut (p := Keeps b0 z.2.s) ?_ ?_ | refine Keeps.cut (p := Keeps b0 z.2.2.s) ?_ ?_); (focus (intros; dsimp only [z]; (repeat' first | (simp (maxDischargeDepth := 99) only [KIss.hold, KIss.done, KIss.fault, KIss.wait, Keeps.upd, Keeps.updId, Keeps.ite, Keeps.foldl, Keeps.foldl2, Keeps.foldl3, Keeps.refl, implies_true, *]; done) | with_reducible apply Keeps.fold1 | with_reducible apply Keeps.fold2 | with_reducible apply Keeps.fold3 | with_reducible apply Keeps.fold21 | intro _ | split | dsimp only))); intro hz; clear_value z) | clear_value z | skip)
    | (simp (maxDischargeDepth := 99) only [KIss.hold, KIss.done, KIss.fault, KIss.wait, Keeps.upd, Keeps.updId, Keeps.ite, Keeps.foldl, Keeps.foldl2, Keeps.foldl3, Keeps.refl, implies_true, *]; done)
    | (intro t ht; injection ht with ht; subst ht)
    | (intro t ht; contradiction)
    | with_reducible apply Keeps.fold1
    | with_reducible apply Keeps.fold2
    | with_reducible apply Keeps.fold3
    | with_reducible apply Keeps.fold21
    | (split <;> (try (rename_i heq; (first | refine Keeps.cut (Keeps.of_eq (b := b0) heq ?_) ?_ | refine Keeps.cut (Keeps.of_eq3 (b := b0) heq ?_) ?_ | refine Keeps.cut (Keeps.of_eq1 (b := b0) heq ?_) ?_ | refine Keeps.cut (Keeps.of_eq4 (b := b0) heq ?_) ?_); (focus (clear heq; (repeat' first | (simp (maxDischargeDepth := 99) only [KIss.hold, KIss.done, KIss.fault, KIss.wait, Keeps.upd, Keeps.updId, Keeps.ite, Keeps.foldl, Keeps.foldl2, Keeps.foldl3, Keeps.refl, implies_true, *]; done) | with_reducible apply Keeps.fold1 | with_reducible apply Keeps.fold2 | with_reducible apply Keeps.fold3 | with_reducible apply Keeps.fold21 | intro _ | split | dsimp only))); intro hz; (try dsimp only at hz); clear heq)))
    | intro _

theorem keeps_recvGrantErr {b0 : State} {s : State} (a : Nat) (line : Nat) (hK : Keeps b0 s) :
    Keeps b0 (recvGrantErr s a line) := by
  unfold recvGrantErr; (repeat' split) <;> simp (maxDischargeDepth := 99) only [KIss.hold, KIss.done, KIss.fault, KIss.wait,
        Keeps.upd, Keeps.updId, Keeps.ite, Keeps.foldl, Keeps.foldl2, Keeps.foldl3, Keeps.refl, implies_true, keeps_setCore,
        *]

theorem keeps_recvCmoAck {b0 : State} {s : State} (a : Nat) (line : Nat) (hK : Keeps b0 s) :
    Keeps b0 (recvCmoAck s a line) := by
  unfold recvCmoAck; simp (maxDischargeDepth := 99) only [KIss.hold, KIss.done, KIss.fault, KIss.wait, Keeps.upd,
        Keeps.updId, Keeps.ite, Keeps.foldl, Keeps.foldl2, Keeps.foldl3, Keeps.refl, implies_true, keeps_setCore, *]

theorem keeps_agentRecv {b0 : State} {s : State} (a : Nat) (line : Nat) (m : CohMsg) (hK : Keeps b0 s) :
    Keeps b0 (agentRecv s a line m) := by
  unfold agentRecv; (repeat' split) <;> simp (maxDischargeDepth := 99) only [KIss.hold, KIss.done, KIss.fault, KIss.wait,
        Keeps.upd, Keeps.updId, Keeps.ite, Keeps.foldl, Keeps.foldl2, Keeps.foldl3, Keeps.refl, implies_true,
        keeps_recvSnoop, keeps_recvGrant, keeps_recvWbAck, keeps_recvGrantErr, keeps_recvCmoAck, *]

theorem keeps_homeRecv {b0 : State} {s : State} (h : Nat) (a : Nat) (line : Nat) (m : CohMsg) (hK : Keeps b0 s) :
    Keeps b0 (homeRecv s h a line m) := by
  unfold homeRecv; (repeat' split) <;> simp (maxDischargeDepth := 99) only [KIss.hold, KIss.done, KIss.fault, KIss.wait,
        Keeps.upd, Keeps.updId, Keeps.ite, Keeps.foldl, Keeps.foldl2, Keeps.foldl3, Keeps.refl, implies_true, keeps_recvRsp,
        keeps_recvWbDirty, *]

theorem keeps_deliverOne {b0 : State} {s : State} (line : Nat) (hK : Keeps b0 s) :
    Keeps b0 (deliverOne s line) := by
  unfold deliverOne
  repeat' first
    | with_reducible assumption
    | (extract_lets +onlyGivenNames z; first | ((first | refine Keeps.cut (p := Keeps b0 z) ?_ ?_ | refine Keeps.cut (p := Keeps b0 z.2) ?_ ?_ | refine Keeps.cut (p := Keeps b0 z.2.2) ?_ ?_ | refine Keeps.cut (p := Keeps b0 z.1) ?_ ?_ | refine Keeps.cut (p := Keeps b0 z.s) ?_ ?_ | refine Keeps.cut (p := Keeps b0 z.2.s) ?_ ?_ | refine Keeps.cut (p := Keeps b0 z.2.2.s) ?_ ?_); (focus (intros; dsimp only [z]; (repeat' first | (simp (maxDischargeDepth := 99) only [KIss.hold, KIss.done, KIss.fault, KIss.wait, Keeps.upd, Keeps.updId, Keeps.ite, Keeps.foldl, Keeps.foldl2, Keeps.foldl3, Keeps.refl, implies_true, keeps_agentRecv, keeps_homeRecv, *]; done) | with_reducible apply Keeps.fold1 | with_reducible apply Keeps.fold2 | with_reducible apply Keeps.fold3 | with_reducible apply Keeps.fold21 | intro _ | split | dsimp only))); intro hz; clear_value z) | clear_value z | skip)
    | (simp (maxDischargeDepth := 99) only [KIss.hold, KIss.done, KIss.fault, KIss.wait, Keeps.upd, Keeps.updId, Keeps.ite, Keeps.foldl, Keeps.foldl2, Keeps.foldl3, Keeps.refl, implies_true, keeps_agentRecv, keeps_homeRecv, *]; done)
    | with_reducible apply Keeps.fold1
    | with_reducible apply Keeps.fold2
    | with_reducible apply Keeps.fold3
    | with_reducible apply Keeps.fold21
    | intro _
    | (split <;> (try (rename_i heq; (first | refine Keeps.cut (Keeps.of_eq (b := b0) heq ?_) ?_ | refine Keeps.cut (Keeps.of_eq3 (b := b0) heq ?_) ?_ | refine Keeps.cut (Keeps.of_eq1 (b := b0) heq ?_) ?_ | refine Keeps.cut (Keeps.of_eq4 (b := b0) heq ?_) ?_); (focus (clear heq; (repeat' first | (simp (maxDischargeDepth := 99) only [KIss.hold, KIss.done, KIss.fault, KIss.wait, Keeps.upd, Keeps.updId, Keeps.ite, Keeps.foldl, Keeps.foldl2, Keeps.foldl3, Keeps.refl, implies_true, keeps_agentRecv, keeps_homeRecv, *]; done) | with_reducible apply Keeps.fold1 | with_reducible apply Keeps.fold2 | with_reducible apply Keeps.fold3 | with_reducible apply Keeps.fold21 | intro _ | split | dsimp only))); intro hz; (try dsimp only at hz); clear heq)))

theorem keeps_ncWrite {b0 : State} {s : State} (h : Nat) (r : MemReq) (bs : Map Byte) (poison : List Nat) (hK : Keeps b0 s) :
    Keeps b0 (ncWrite s h r bs poison) := by
  unfold ncWrite
  repeat' first
    | with_reducible assumption
    | (extract_lets +onlyGivenNames z; first | ((first | refine Keeps.cut (p := Keeps b0 z) ?_ ?_ | refine Keeps.cut (p := Keeps b0 z.2) ?_ ?_ | refine Keeps.cut (p := Keeps b0 z.2.2) ?_ ?_ | refine Keeps.cut (p := Keeps b0 z.1) ?_ ?_ | refine Keeps.cut (p := Keeps b0 z.s) ?_ ?_ | refine Keeps.cut (p := Keeps b0 z.2.s) ?_ ?_ | refine Keeps.cut (p := Keeps b0 z.2.2.s) ?_ ?_); (focus (intros; dsimp only [z]; (repeat' first | (simp (maxDischargeDepth := 99) only [KIss.hold, KIss.done, KIss.fault, KIss.wait, Keeps.upd, Keeps.updId, Keeps.ite, Keeps.foldl, Keeps.foldl2, Keeps.foldl3, Keeps.refl, implies_true, keeps_count, keeps_homeWrite, keeps_setTxn, keeps_snoopAll, *]; done) | with_reducible apply Keeps.fold1 | with_reducible apply Keeps.fold2 | with_reducible apply Keeps.fold3 | with_reducible apply Keeps.fold21 | intro _ | split | dsimp only))); intro hz; clear_value z) | clear_value z | skip)
    | (simp (maxDischargeDepth := 99) only [KIss.hold, KIss.done, KIss.fault, KIss.wait, Keeps.upd, Keeps.updId, Keeps.ite, Keeps.foldl, Keeps.foldl2, Keeps.foldl3, Keeps.refl, implies_true, keeps_count, keeps_homeWrite, keeps_setTxn, keeps_snoopAll, *]; done)
    | with_reducible apply Keeps.fold1
    | with_reducible apply Keeps.fold2
    | with_reducible apply Keeps.fold3
    | with_reducible apply Keeps.fold21
    | intro _
    | (split <;> (try (rename_i heq; (first | refine Keeps.cut (Keeps.of_eq (b := b0) heq ?_) ?_ | refine Keeps.cut (Keeps.of_eq3 (b := b0) heq ?_) ?_ | refine Keeps.cut (Keeps.of_eq1 (b := b0) heq ?_) ?_ | refine Keeps.cut (Keeps.of_eq4 (b := b0) heq ?_) ?_); (focus (clear heq; (repeat' first | (simp (maxDischargeDepth := 99) only [KIss.hold, KIss.done, KIss.fault, KIss.wait, Keeps.upd, Keeps.updId, Keeps.ite, Keeps.foldl, Keeps.foldl2, Keeps.foldl3, Keeps.refl, implies_true, keeps_count, keeps_homeWrite, keeps_setTxn, keeps_snoopAll, *]; done) | with_reducible apply Keeps.fold1 | with_reducible apply Keeps.fold2 | with_reducible apply Keeps.fold3 | with_reducible apply Keeps.fold21 | intro _ | split | dsimp only))); intro hz; (try dsimp only at hz); clear heq)))

theorem keeps_atomicArrives {b0 : State} {s : State} (h : Nat) (r : MemReq) (hK : Keeps b0 s) :
    Keeps b0 (atomicArrives s h r) := by
  unfold atomicArrives; (repeat' split) <;> simp (maxDischargeDepth := 99) only [KIss.hold, KIss.done, KIss.fault, KIss.wait,
         Keeps.upd, Keeps.updId, Keeps.ite, Keeps.foldl, Keeps.foldl2, Keeps.foldl3, Keeps.refl, implies_true, keeps_setHome,
         keeps_setTxn, keeps_snoopAll, keeps_amoFarExec, *]

theorem keeps_amuRun {b0 : State} {s : State} (h : Nat) (r : MemReq) (ecc : Ecc) (hK : Keeps b0 s) :
    Keeps b0 (amuRun s h r ecc) := by
  unfold amuRun
  repeat' first
    | with_reducible assumption
    | (simp (maxDischargeDepth := 99) only [KIss.hold, KIss.done, KIss.fault, KIss.wait, Keeps.upd, Keeps.updId, Keeps.ite, Keeps.foldl, Keeps.foldl2, Keeps.foldl3, Keeps.refl, implies_true, keeps_amuExec, *]; done)
    | (split <;> (try (rename_i heq; (first | refine Keeps.cut (Keeps.of_eq (b := b0) heq ?_) ?_ | refine Keeps.cut (Keeps.of_eq3 (b := b0) heq ?_) ?_ | refine Keeps.cut (Keeps.of_eq1 (b := b0) heq ?_) ?_ | refine Keeps.cut (Keeps.of_eq4 (b := b0) heq ?_) ?_); (focus (clear heq; (repeat' first | (simp (maxDischargeDepth := 99) only [KIss.hold, KIss.done, KIss.fault, KIss.wait, Keeps.upd, Keeps.updId, Keeps.ite, Keeps.foldl, Keeps.foldl2, Keeps.foldl3, Keeps.refl, implies_true, keeps_amuExec, *]; done) | with_reducible apply Keeps.fold1 | with_reducible apply Keeps.fold2 | with_reducible apply Keeps.fold3 | with_reducible apply Keeps.fold21 | intro _ | split | dsimp only))); intro hz; (try dsimp only at hz); clear heq)))

theorem keeps_takeReq {b0 : State} {s : State} (h : Nat) (n : Nat) (p : MemReq → Bool) (hK : Keeps b0 s) :
    ∀ u, takeReq s h n p = some u → Keeps b0 u.2 := by
  unfold takeReq
  repeat' first
    | with_reducible assumption
    | refine fun (y : State) (gr : Group) (hy : Keeps b0 y) => ?_
    | (extract_lets +onlyGivenNames z; first | ((first | refine Keeps.cut (p := Keeps b0 z) ?_ ?_ | refine Keeps.cut (p := Keeps b0 z.2) ?_ ?_ | refine Keeps.cut (p := Keeps b0 z.2.2) ?_ ?_ | refine Keeps.cut (p := Keeps b0 z.1) ?_ ?_ | refine Keeps.cut (p := Keeps b0 z.s) ?_ ?_ | refine Keeps.cut (p := Keeps b0 z.2.s) ?_ ?_ | refine Keeps.cut (p := Keeps b0 z.2.2.s) ?_ ?_); (focus (intros; dsimp only [z]; (repeat' first | (simp (maxDischargeDepth := 99) only [KIss.hold, KIss.done, KIss.fault, KIss.wait, Keeps.upd, Keeps.updId, Keeps.ite, Keeps.foldl, Keeps.foldl2, Keeps.foldl3, Keeps.refl, implies_true, keeps_setHome, *]; done) | with_reducible apply Keeps.fold1 | with_reducible apply Keeps.fold2 | with_reducible apply Keeps.fold3 | with_reducible apply Keeps.fold21 | intro _ | split | dsimp only))); intro hz; clear_value z) | clear_value z | skip)
    | (simp (maxDischargeDepth := 99) only [KIss.hold, KIss.done, KIss.fault, KIss.wait, Keeps.upd, Keeps.updId, Keeps.ite, Keeps.foldl, Keeps.foldl2, Keeps.foldl3, Keeps.refl, implies_true, keeps_setHome, *]; done)
    | (intro t ht; injection ht with ht; subst ht)
    | (intro t ht; contradiction)
    | with_reducible apply Keeps.fold1
    | with_reducible apply Keeps.fold2
    | with_reducible apply Keeps.fold3
    | with_reducible apply Keeps.fold21
    | (split <;> (try (rename_i heq; (first | refine Keeps.cut (Keeps.of_eq (b := b0) heq ?_) ?_ | refine Keeps.cut (Keeps.of_eq3 (b := b0) heq ?_) ?_ | refine Keeps.cut (Keeps.of_eq1 (b := b0) heq ?_) ?_ | refine Keeps.cut (Keeps.of_eq4 (b := b0) heq ?_) ?_); (focus (clear heq; (repeat' first | (simp (maxDischargeDepth := 99) only [KIss.hold, KIss.done, KIss.fault, KIss.wait, Keeps.upd, Keeps.updId, Keeps.ite, Keeps.foldl, Keeps.foldl2, Keeps.foldl3, Keeps.refl, implies_true, keeps_setHome, *]; done) | with_reducible apply Keeps.fold1 | with_reducible apply Keeps.fold2 | with_reducible apply Keeps.fold3 | with_reducible apply Keeps.fold21 | intro _ | split | dsimp only))); intro hz; (try dsimp only at hz); clear heq)))
    | intro _

theorem keeps_perform {b0 : State} {s : State} (h : Nat) (r : MemReq) (hK : Keeps b0 s) :
    Keeps b0 (perform s h r) := by
  unfold perform; (repeat' split) <;> simp (maxDischargeDepth := 99) only [KIss.hold, KIss.done, KIss.fault, KIss.wait,
        Keeps.upd, Keeps.updId, Keeps.ite, Keeps.foldl, Keeps.foldl2, Keeps.foldl3, Keeps.refl, implies_true,
        keeps_readArrives, keeps_cohRequest, keeps_ncWrite, keeps_atomicArrives, *]

theorem keeps_cohPump {b0 : State} (n : Nat) {s : State} (h : Nat) (hK : Keeps b0 s) : Keeps b0 (cohPump n s h) := by
  induction n generalizing s with
  | zero => exact hK
  | succ n ih =>
    unfold cohPump
    split
    · rename_i r t ht
      obtain ⟨i, -, hi⟩ := List.exists_of_findSome?_eq_some ht
      exact ih (keeps_perform _ _ (keeps_takeReq _ _ _ hK _ hi))
    · exact hK

theorem keeps_pumpHome {b0 : State} {s : State} (h : Nat) (hK : Keeps b0 s) :
    Keeps b0 (pumpHome s h) := by
  unfold pumpHome; simp (maxDischargeDepth := 99) only [KIss.hold, KIss.done, KIss.fault, KIss.wait, Keeps.upd, Keeps.updId,
        Keeps.ite, Keeps.foldl, Keeps.foldl2, Keeps.foldl3, Keeps.refl, implies_true, keeps_cohPump, *]

theorem keeps_agentSends {b0 : State} {s : State} (h : Nat) (line : Nat) (k : ReqKind) (req : Nat) (hK : Keeps b0 s) :
    Keeps b0 (agentSends s h line k req) := by
  unfold agentSends; simp (maxDischargeDepth := 99) only [KIss.hold, KIss.done, KIss.fault, KIss.wait, Keeps.upd,
        Keeps.updId, Keeps.ite, Keeps.foldl, Keeps.foldl2, Keeps.foldl3, Keeps.refl, implies_true, keeps_setHome,
        keeps_pumpHome, *]

theorem keeps_cohArrives {b0 : State} {s : State} (h : Nat) (line : Nat) (k : TxnKind) (req : Nat) (hK : Keeps b0 s) :
    Keeps b0 (cohArrives s h line k req) := by
  unfold cohArrives; simp (maxDischargeDepth := 99) only [KIss.hold, KIss.done, KIss.fault, KIss.wait, Keeps.upd,
        Keeps.updId, Keeps.ite, Keeps.foldl, Keeps.foldl2, Keeps.foldl3, Keeps.refl, implies_true, keeps_agentSends, *]

theorem keeps_settleOne {b0 : State} {s : State} (h : Nat) (line : Nat) (hK : Keeps b0 s) :
    ∀ u, settleOne s h line = some u → Keeps b0 u := by
  unfold settleOne
  repeat' first
    | with_reducible assumption
    | refine fun (y : State) (gr : Group) (hy : Keeps b0 y) => ?_
    | (extract_lets +onlyGivenNames z; first | ((first | refine Keeps.cut (p := Keeps b0 z) ?_ ?_ | refine Keeps.cut (p := Keeps b0 z.2) ?_ ?_ | refine Keeps.cut (p := Keeps b0 z.2.2) ?_ ?_ | refine Keeps.cut (p := Keeps b0 z.1) ?_ ?_ | refine Keeps.cut (p := Keeps b0 z.s) ?_ ?_ | refine Keeps.cut (p := Keeps b0 z.2.s) ?_ ?_ | refine Keeps.cut (p := Keeps b0 z.2.2.s) ?_ ?_); (focus (intros; dsimp only [z]; (repeat' first | (simp (maxDischargeDepth := 99) only [KIss.hold, KIss.done, KIss.fault, KIss.wait, Keeps.upd, Keeps.updId, Keeps.ite, Keeps.foldl, Keeps.foldl2, Keeps.foldl3, Keeps.refl, implies_true, keeps_setHome, keeps_roomForRead, keeps_holdExpiry, keeps_deliverOne, keeps_amuRun, keeps_perform, *]; done) | with_reducible apply Keeps.fold1 | with_reducible apply Keeps.fold2 | with_reducible apply Keeps.fold3 | with_reducible apply Keeps.fold21 | intro _ | split | dsimp only))); intro hz; clear_value z) | clear_value z | skip)
    | (simp (maxDischargeDepth := 99) only [KIss.hold, KIss.done, KIss.fault, KIss.wait, Keeps.upd, Keeps.updId, Keeps.ite, Keeps.foldl, Keeps.foldl2, Keeps.foldl3, Keeps.refl, implies_true, keeps_setHome, keeps_roomForRead, keeps_holdExpiry, keeps_deliverOne, keeps_amuRun, keeps_perform, *]; done)
    | (intro t ht; injection ht with ht; subst ht)
    | (intro t ht; contradiction)
    | with_reducible apply Keeps.fold1
    | with_reducible apply Keeps.fold2
    | with_reducible apply Keeps.fold3
    | with_reducible apply Keeps.fold21
    | (split <;> (try (rename_i heq; (first | refine Keeps.cut (Keeps.of_eq (b := b0) heq ?_) ?_ | refine Keeps.cut (Keeps.of_eq3 (b := b0) heq ?_) ?_ | refine Keeps.cut (Keeps.of_eq1 (b := b0) heq ?_) ?_ | refine Keeps.cut (Keeps.of_eq4 (b := b0) heq ?_) ?_ | refine Keeps.cut (keeps_takeReq (b0 := b0) _ _ _ ?_ _ heq) ?_); (focus (clear heq; (repeat' first | (simp (maxDischargeDepth := 99) only [KIss.hold, KIss.done, KIss.fault, KIss.wait, Keeps.upd, Keeps.updId, Keeps.ite, Keeps.foldl, Keeps.foldl2, Keeps.foldl3, Keeps.refl, implies_true, keeps_setHome, keeps_roomForRead, keeps_holdExpiry, keeps_deliverOne, keeps_amuRun, keeps_perform, *]; done) | with_reducible apply Keeps.fold1 | with_reducible apply Keeps.fold2 | with_reducible apply Keeps.fold3 | with_reducible apply Keeps.fold21 | intro _ | split | dsimp only))); intro hz; (try dsimp only at hz); clear heq)))
    | intro _

theorem keeps_settleFor {b0 : State} (x0 : Nat) {x1 : State} (x2 : Nat) (x3 : Nat) (hK : Keeps b0 x1) :
    Keeps b0 (settleFor x0 x1 x2 x3) := by
  induction x0 generalizing b0 x1 x2 x3 with
  | zero => unfold settleFor; (repeat' split) <;> (simp (maxDischargeDepth := 99) only [KIss.hold, KIss.done, KIss.fault, KIss.wait, Keeps.upd, Keeps.updId, Keeps.ite, Keeps.foldl, Keeps.foldl2, Keeps.foldl3, Keeps.refl, implies_true, *]; done)
  | succ n ih =>
    unfold settleFor
    repeat' first
      | with_reducible assumption
      | (simp (maxDischargeDepth := 99) only [KIss.hold, KIss.done, KIss.fault, KIss.wait, Keeps.upd, Keeps.updId, Keeps.ite, Keeps.foldl, Keeps.foldl2, Keeps.foldl3, Keeps.refl, implies_true, *]; done)
      | (split <;> (try (rename_i heq; (first | refine Keeps.cut (Keeps.of_eq (b := b0) heq ?_) ?_ | refine Keeps.cut (Keeps.of_eq3 (b := b0) heq ?_) ?_ | refine Keeps.cut (Keeps.of_eq1 (b := b0) heq ?_) ?_ | refine Keeps.cut (Keeps.of_eq4 (b := b0) heq ?_) ?_ | refine Keeps.cut (keeps_settleOne (b0 := b0) _ _ ?_ _ heq) ?_); (focus (clear heq; (repeat' first | (simp (maxDischargeDepth := 99) only [KIss.hold, KIss.done, KIss.fault, KIss.wait, Keeps.upd, Keeps.updId, Keeps.ite, Keeps.foldl, Keeps.foldl2, Keeps.foldl3, Keeps.refl, implies_true, *]; done) | with_reducible apply Keeps.fold1 | with_reducible apply Keeps.fold2 | with_reducible apply Keeps.fold3 | with_reducible apply Keeps.fold21 | intro _ | split | dsimp only))); intro hz; (try dsimp only at hz); clear heq)))

theorem keeps_settle {b0 : State} {s : State} (h : Nat) (line : Nat) (hK : Keeps b0 s) :
    Keeps b0 (settle s h line) := by
  unfold settle; simp (maxDischargeDepth := 99) only [KIss.hold, KIss.done, KIss.fault, KIss.wait, Keeps.upd, Keeps.updId,
        Keeps.ite, Keeps.foldl, Keeps.foldl2, Keeps.foldl3, Keeps.refl, implies_true, keeps_stacksSwitch, keeps_settleFor,
        *]

theorem keeps_ncWriteNow {b0 : State} {s : State} (line : Nat) (bs : Map Byte) (poison : List Nat) (hK : Keeps b0 s) :
    Keeps b0 (ncWriteNow s line bs poison) := by
  unfold ncWriteNow; (repeat' split) <;> simp (maxDischargeDepth := 99) only [KIss.hold, KIss.done, KIss.fault, KIss.wait,
        Keeps.upd, Keeps.updId, Keeps.ite, Keeps.foldl, Keeps.foldl2, Keeps.foldl3, Keeps.refl, implies_true, keeps_ncWrite,
        keeps_settle, *]

theorem keeps_ncReadNow {b0 : State} {s : State} (line : Nat) (need : Nat) (hK : Keeps b0 s) :
    Keeps b0 (ncReadNow s line need).2.2 := by
  unfold ncReadNow; (repeat' split) <;> simp (maxDischargeDepth := 99) only [KIss.hold, KIss.done, KIss.fault, KIss.wait,
        Keeps.upd, Keeps.updId, Keeps.ite, Keeps.foldl, Keeps.foldl2, Keeps.foldl3, Keeps.refl, implies_true,
        keeps_homeReadNow, keeps_roomForRead, keeps_settle, *]

theorem keeps_ioTakes {b0 : State} {s : State} (h : Nat) (line : Nat) (k : TxnKind) (hK : Keeps b0 s) :
    Keeps b0 (ioTakes s h line k) := by
  unfold ioTakes; simp (maxDischargeDepth := 99) only [KIss.hold, KIss.done, KIss.fault, KIss.wait, Keeps.upd, Keeps.updId,
        Keeps.ite, Keeps.foldl, Keeps.foldl2, Keeps.foldl3, Keeps.refl, implies_true, keeps_cohArrives, keeps_settle, *]

theorem keeps_ioWriteNow {b0 : State} {s : State} (line : Nat) (bs : Map Byte) (hK : Keeps b0 s) :
    Keeps b0 (ioWriteNow s line bs).2 := by
  unfold ioWriteNow
  repeat' first
    | with_reducible assumption
    | (extract_lets +onlyGivenNames z; first | ((first | refine Keeps.cut (p := Keeps b0 z) ?_ ?_ | refine Keeps.cut (p := Keeps b0 z.2) ?_ ?_ | refine Keeps.cut (p := Keeps b0 z.2.2) ?_ ?_ | refine Keeps.cut (p := Keeps b0 z.1) ?_ ?_ | refine Keeps.cut (p := Keeps b0 z.s) ?_ ?_ | refine Keeps.cut (p := Keeps b0 z.2.s) ?_ ?_ | refine Keeps.cut (p := Keeps b0 z.2.2.s) ?_ ?_); (focus (intros; dsimp only [z]; (repeat' first | (simp (maxDischargeDepth := 99) only [KIss.hold, KIss.done, KIss.fault, KIss.wait, Keeps.upd, Keeps.updId, Keeps.ite, Keeps.foldl, Keeps.foldl2, Keeps.foldl3, Keeps.refl, implies_true, keeps_setCopy, keeps_evictCopy, keeps_settle, keeps_ncWriteNow, keeps_ioTakes, *]; done) | with_reducible apply Keeps.fold1 | with_reducible apply Keeps.fold2 | with_reducible apply Keeps.fold3 | with_reducible apply Keeps.fold21 | intro _ | split | dsimp only))); intro hz; clear_value z) | clear_value z | skip)
    | (simp (maxDischargeDepth := 99) only [KIss.hold, KIss.done, KIss.fault, KIss.wait, Keeps.upd, Keeps.updId, Keeps.ite, Keeps.foldl, Keeps.foldl2, Keeps.foldl3, Keeps.refl, implies_true, keeps_setCopy, keeps_evictCopy, keeps_settle, keeps_ncWriteNow, keeps_ioTakes, *]; done)
    | with_reducible apply Keeps.fold1
    | with_reducible apply Keeps.fold2
    | with_reducible apply Keeps.fold3
    | with_reducible apply Keeps.fold21
    | intro _
    | (split <;> (try (rename_i heq; (first | refine Keeps.cut (Keeps.of_eq (b := b0) heq ?_) ?_ | refine Keeps.cut (Keeps.of_eq3 (b := b0) heq ?_) ?_ | refine Keeps.cut (Keeps.of_eq1 (b := b0) heq ?_) ?_ | refine Keeps.cut (Keeps.of_eq4 (b := b0) heq ?_) ?_); (focus (clear heq; (repeat' first | (simp (maxDischargeDepth := 99) only [KIss.hold, KIss.done, KIss.fault, KIss.wait, Keeps.upd, Keeps.updId, Keeps.ite, Keeps.foldl, Keeps.foldl2, Keeps.foldl3, Keeps.refl, implies_true, keeps_setCopy, keeps_evictCopy, keeps_settle, keeps_ncWriteNow, keeps_ioTakes, *]; done) | with_reducible apply Keeps.fold1 | with_reducible apply Keeps.fold2 | with_reducible apply Keeps.fold3 | with_reducible apply Keeps.fold21 | intro _ | split | dsimp only))); intro hz; (try dsimp only at hz); clear heq)))

theorem keeps_ioReadNow {b0 : State} {s : State} (line : Nat) (need : Nat) (hK : Keeps b0 s) :
    Keeps b0 (ioReadNow s line need).2.2 := by
  unfold ioReadNow
  repeat' first
    | with_reducible assumption
    | (extract_lets +onlyGivenNames z; first | ((first | refine Keeps.cut (p := Keeps b0 z) ?_ ?_ | refine Keeps.cut (p := Keeps b0 z.2) ?_ ?_ | refine Keeps.cut (p := Keeps b0 z.2.2) ?_ ?_ | refine Keeps.cut (p := Keeps b0 z.1) ?_ ?_ | refine Keeps.cut (p := Keeps b0 z.s) ?_ ?_ | refine Keeps.cut (p := Keeps b0 z.2.s) ?_ ?_ | refine Keeps.cut (p := Keeps b0 z.2.2.s) ?_ ?_); (focus (intros; dsimp only [z]; (repeat' first | (simp (maxDischargeDepth := 99) only [KIss.hold, KIss.done, KIss.fault, KIss.wait, Keeps.upd, Keeps.updId, Keeps.ite, Keeps.foldl, Keeps.foldl2, Keeps.foldl3, Keeps.refl, implies_true, keeps_homeReadNow, keeps_dropCopy, keeps_roomForRead, keeps_settle, keeps_ioTakes, *]; done) | with_reducible apply Keeps.fold1 | with_reducible apply Keeps.fold2 | with_reducible apply Keeps.fold3 | with_reducible apply Keeps.fold21 | intro _ | split | dsimp only))); intro hz; clear_value z) | clear_value z | skip)
    | (simp (maxDischargeDepth := 99) only [KIss.hold, KIss.done, KIss.fault, KIss.wait, Keeps.upd, Keeps.updId, Keeps.ite, Keeps.foldl, Keeps.foldl2, Keeps.foldl3, Keeps.refl, implies_true, keeps_homeReadNow, keeps_dropCopy, keeps_roomForRead, keeps_settle, keeps_ioTakes, *]; done)
    | with_reducible apply Keeps.fold1
    | with_reducible apply Keeps.fold2
    | with_reducible apply Keeps.fold3
    | with_reducible apply Keeps.fold21
    | intro _
    | (split <;> (try (rename_i heq; (first | refine Keeps.cut (Keeps.of_eq (b := b0) heq ?_) ?_ | refine Keeps.cut (Keeps.of_eq3 (b := b0) heq ?_) ?_ | refine Keeps.cut (Keeps.of_eq1 (b := b0) heq ?_) ?_ | refine Keeps.cut (Keeps.of_eq4 (b := b0) heq ?_) ?_); (focus (clear heq; (repeat' first | (simp (maxDischargeDepth := 99) only [KIss.hold, KIss.done, KIss.fault, KIss.wait, Keeps.upd, Keeps.updId, Keeps.ite, Keeps.foldl, Keeps.foldl2, Keeps.foldl3, Keeps.refl, implies_true, keeps_homeReadNow, keeps_dropCopy, keeps_roomForRead, keeps_settle, keeps_ioTakes, *]; done) | with_reducible apply Keeps.fold1 | with_reducible apply Keeps.fold2 | with_reducible apply Keeps.fold3 | with_reducible apply Keeps.fold21 | intro _ | split | dsimp only))); intro hz; (try dsimp only at hz); clear heq)))

theorem keeps_atomicNow {b0 : State} {s : State} (who : Origin) (line : Nat) (off : Nat) (aop : Nat) (ty : Nat) (ops : List (W64 × W64)) (hK : Keeps b0 s) :
    Keeps b0 (atomicNow s who line off aop ty ops).2.2 := by
  unfold atomicNow; (repeat' split) <;> simp (maxDischargeDepth := 99) only [KIss.hold, KIss.done, KIss.fault, KIss.wait,
        Keeps.upd, Keeps.updId, Keeps.ite, Keeps.foldl, Keeps.foldl2, Keeps.foldl3, Keeps.refl, implies_true,
        keeps_cohRequest, keeps_amuExec, keeps_settle, *]

theorem keeps_setGrotto {b0 : State} {s : State} (k : Nat) (g : Grotto) (hK : Keeps b0 s) :
    Keeps b0 (setGrotto s k g) := by
  unfold setGrotto; simp (maxDischargeDepth := 99) only [KIss.hold, KIss.done, KIss.fault, KIss.wait, Keeps.upd, Keeps.updId,
         Keeps.ite, Keeps.foldl, Keeps.foldl2, Keeps.foldl3, Keeps.refl, implies_true, *]

theorem keeps_qsSet {b0 : State} {s : State} (c : QCfg) (hi : Nat) (lo : Nat) (v : Nat) (hK : Keeps b0 s) :
    Keeps b0 (qsSet s c hi lo v) := by
  unfold qsSet; simp (maxDischargeDepth := 99) only [KIss.hold, KIss.done, KIss.fault, KIss.wait, Keeps.upd, Keeps.updId,
        Keeps.ite, Keeps.foldl, Keeps.foldl2, Keeps.foldl3, Keeps.refl, implies_true, keeps_rfset, *]

theorem keeps_setQueue {b0 : State} {s : State} (k : Nat) (key : Nat) (q : Queue) (hK : Keeps b0 s) :
    Keeps b0 (setQueue s k key q) := by
  unfold setQueue; simp (maxDischargeDepth := 99) only [KIss.hold, KIss.done, KIss.fault, KIss.wait, Keeps.upd, Keeps.updId,
        Keeps.ite, Keeps.foldl, Keeps.foldl2, Keeps.foldl3, Keeps.refl, implies_true, keeps_setGrotto, *]

theorem keeps_takeSlots {b0 : State} (x0 : Nat) {x1 : State} (x2 : Nat) (x3 : Nat) (hK : Keeps b0 x1) :
    Keeps b0 (takeSlots x0 x1 x2 x3) := by
  induction x0 generalizing b0 x1 x2 x3 with
  | zero => unfold takeSlots; (repeat' split) <;> (simp (maxDischargeDepth := 99) only [KIss.hold, KIss.done, KIss.fault, KIss.wait, Keeps.upd, Keeps.updId, Keeps.ite, Keeps.foldl, Keeps.foldl2, Keeps.foldl3, Keeps.refl, implies_true, keeps_qsSet, keeps_setQueue, *]; done)
  | succ n ih =>
    unfold takeSlots
    repeat' first
      | with_reducible assumption
      | (simp (maxDischargeDepth := 99) only [KIss.hold, KIss.done, KIss.fault, KIss.wait, Keeps.upd, Keeps.updId, Keeps.ite, Keeps.foldl, Keeps.foldl2, Keeps.foldl3, Keeps.refl, implies_true, keeps_qsSet, keeps_setQueue, *]; done)
      | (split <;> (try (rename_i heq; (first | refine Keeps.cut (Keeps.of_eq (b := b0) heq ?_) ?_ | refine Keeps.cut (Keeps.of_eq3 (b := b0) heq ?_) ?_ | refine Keeps.cut (Keeps.of_eq1 (b := b0) heq ?_) ?_ | refine Keeps.cut (Keeps.of_eq4 (b := b0) heq ?_) ?_); (focus (clear heq; (repeat' first | (simp (maxDischargeDepth := 99) only [KIss.hold, KIss.done, KIss.fault, KIss.wait, Keeps.upd, Keeps.updId, Keeps.ite, Keeps.foldl, Keeps.foldl2, Keeps.foldl3, Keeps.refl, implies_true, keeps_qsSet, keeps_setQueue, *]; done) | with_reducible apply Keeps.fold1 | with_reducible apply Keeps.fold2 | with_reducible apply Keeps.fold3 | with_reducible apply Keeps.fold21 | intro _ | split | dsimp only))); intro hz; (try dsimp only at hz); clear heq)))

theorem keeps_ringBell {b0 : State} {s : State} (k : Nat) (key : Nat) (v : Nat) (hK : Keeps b0 s) :
    Keeps b0 (ringBell s k key v) := by
  unfold ringBell; (repeat' split) <;> simp (maxDischargeDepth := 99) only [KIss.hold, KIss.done, KIss.fault, KIss.wait,
        Keeps.upd, Keeps.updId, Keeps.ite, Keeps.foldl, Keeps.foldl2, Keeps.foldl3, Keeps.refl, implies_true,
        keeps_takeSlots, *]

theorem keeps_drpMark {b0 : State} {s : State} (k : Nat) (p : Taken → Bool) (hK : Keeps b0 s) :
    Keeps b0 (drpMark s k p) := by
  unfold drpMark; simp (maxDischargeDepth := 99) only [KIss.hold, KIss.done, KIss.fault, KIss.wait, Keeps.upd, Keeps.updId,
        Keeps.ite, Keeps.foldl, Keeps.foldl2, Keeps.foldl3, Keeps.refl, implies_true, keeps_setGrotto, *]

theorem keeps_drpSpoil {b0 : State} {s : State} (k : Nat) (place : Nat) (a : Nat) (n : Nat) (engine : Bool) (hK : Keeps b0 s) :
    Keeps b0 (drpSpoil s k place a n engine) := by
  unfold drpSpoil; simp (maxDischargeDepth := 99) only [KIss.hold, KIss.done, KIss.fault, KIss.wait, Keeps.upd, Keeps.updId,
        Keeps.ite, Keeps.foldl, Keeps.foldl2, Keeps.foldl3, Keeps.refl, implies_true, keeps_drpMark, *]

theorem keeps_drpSeen {b0 : State} {s : State} (k : Nat) (a : Nat) (n : Nat) (engine : Bool) (hK : Keeps b0 s) :
    Keeps b0 (drpSeen s k a n engine) := by
  unfold drpSeen; simp (maxDischargeDepth := 99) only [KIss.hold, KIss.done, KIss.fault, KIss.wait, Keeps.upd, Keeps.updId,
        Keeps.ite, Keeps.foldl, Keeps.foldl2, Keeps.foldl3, Keeps.refl, implies_true, keeps_drpMark, *]

theorem keeps_drpAccIssue {b0 : State} {s : State} (k : Nat) (site : Nat) (as : List Nat) (hK : Keeps b0 s) :
    Keeps b0 (drpAccIssue s k site as) := by
  unfold drpAccIssue; simp (maxDischargeDepth := 99) only [KIss.hold, KIss.done, KIss.fault, KIss.wait, Keeps.upd,
        Keeps.updId, Keeps.ite, Keeps.foldl, Keeps.foldl2, Keeps.foldl3, Keeps.refl, implies_true, keeps_drpMark, *]

theorem keeps_engineWrote {b0 : State} {s : State} (here : Nat → Bool) (space : Nat) (a : Nat) (n : Nat) (hK : Keeps b0 s) :
    Keeps b0 (engineWrote s here space a n) := by
  unfold engineWrote; simp (maxDischargeDepth := 99) only [KIss.hold, KIss.done, KIss.fault, KIss.wait, Keeps.upd,
        Keeps.updId, Keeps.ite, Keeps.foldl, Keeps.foldl2, Keeps.foldl3, Keeps.refl, implies_true, *]

theorem keeps_grtPut {b0 : State} {s : State} (k : Nat) (off : Nat) (data : List Byte) (engine : Bool) (hK : Keeps b0 s) :
    Keeps b0 (grtPut s k off data engine) := by
  unfold grtPut
  repeat' first
    | with_reducible assumption
    | (extract_lets +onlyGivenNames z; first | ((first | refine Keeps.cut (p := Keeps b0 z) ?_ ?_ | refine Keeps.cut (p := Keeps b0 z.2) ?_ ?_ | refine Keeps.cut (p := Keeps b0 z.2.2) ?_ ?_ | refine Keeps.cut (p := Keeps b0 z.1) ?_ ?_ | refine Keeps.cut (p := Keeps b0 z.s) ?_ ?_ | refine Keeps.cut (p := Keeps b0 z.2.s) ?_ ?_ | refine Keeps.cut (p := Keeps b0 z.2.2.s) ?_ ?_); (focus (intros; dsimp only [z]; (repeat' first | (simp (maxDischargeDepth := 99) only [KIss.hold, KIss.done, KIss.fault, KIss.wait, Keeps.upd, Keeps.updId, Keeps.ite, Keeps.foldl, Keeps.foldl2, Keeps.foldl3, Keeps.refl, implies_true, keeps_setGrotto, keeps_ringBell, keeps_drpSpoil, keeps_engineWrote, *]; done) | with_reducible apply Keeps.fold1 | with_reducible apply Keeps.fold2 | with_reducible apply Keeps.fold3 | with_reducible apply Keeps.fold21 | intro _ | split | dsimp only))); intro hz; clear_value z) | clear_value z | skip)
    | (simp (maxDischargeDepth := 99) only [KIss.hold, KIss.done, KIss.fault, KIss.wait, Keeps.upd, Keeps.updId, Keeps.ite, Keeps.foldl, Keeps.foldl2, Keeps.foldl3, Keeps.refl, implies_true, keeps_setGrotto, keeps_ringBell, keeps_drpSpoil, keeps_engineWrote, *]; done)
    | with_reducible apply Keeps.fold1
    | with_reducible apply Keeps.fold2
    | with_reducible apply Keeps.fold3
    | with_reducible apply Keeps.fold21
    | intro _
    | (split <;> (try (rename_i heq; (first | refine Keeps.cut (Keeps.of_eq (b := b0) heq ?_) ?_ | refine Keeps.cut (Keeps.of_eq3 (b := b0) heq ?_) ?_ | refine Keeps.cut (Keeps.of_eq1 (b := b0) heq ?_) ?_ | refine Keeps.cut (Keeps.of_eq4 (b := b0) heq ?_) ?_); (focus (clear heq; (repeat' first | (simp (maxDischargeDepth := 99) only [KIss.hold, KIss.done, KIss.fault, KIss.wait, Keeps.upd, Keeps.updId, Keeps.ite, Keeps.foldl, Keeps.foldl2, Keeps.foldl3, Keeps.refl, implies_true, keeps_setGrotto, keeps_ringBell, keeps_drpSpoil, keeps_engineWrote, *]; done) | with_reducible apply Keeps.fold1 | with_reducible apply Keeps.fold2 | with_reducible apply Keeps.fold3 | with_reducible apply Keeps.fold21 | intro _ | split | dsimp only))); intro hz; (try dsimp only at hz); clear heq)))

theorem keeps_grtWrite {b0 : State} {s : State} (k : Nat) (off : Nat) (data : List Byte) (hK : Keeps b0 s) :
    Keeps b0 (grtWrite s k off data) := by
  unfold grtWrite
  repeat' first
    | with_reducible assumption
    | (extract_lets +onlyGivenNames z; first | ((first | refine Keeps.cut (p := Keeps b0 z) ?_ ?_ | refine Keeps.cut (p := Keeps b0 z.2) ?_ ?_ | refine Keeps.cut (p := Keeps b0 z.2.2) ?_ ?_ | refine Keeps.cut (p := Keeps b0 z.1) ?_ ?_ | refine Keeps.cut (p := Keeps b0 z.s) ?_ ?_ | refine Keeps.cut (p := Keeps b0 z.2.s) ?_ ?_ | refine Keeps.cut (p := Keeps b0 z.2.2.s) ?_ ?_); (focus (intros; dsimp only [z]; (repeat' first | (simp (maxDischargeDepth := 99) only [KIss.hold, KIss.done, KIss.fault, KIss.wait, Keeps.upd, Keeps.updId, Keeps.ite, Keeps.foldl, Keeps.foldl2, Keeps.foldl3, Keeps.refl, implies_true, keeps_grtPut, *]; done) | with_reducible apply Keeps.fold1 | with_reducible apply Keeps.fold2 | with_reducible apply Keeps.fold3 | with_reducible apply Keeps.fold21 | intro _ | split | dsimp only))); intro hz; clear_value z) | clear_value z | skip)
    | (simp (maxDischargeDepth := 99) only [KIss.hold, KIss.done, KIss.fault, KIss.wait, Keeps.upd, Keeps.updId, Keeps.ite, Keeps.foldl, Keeps.foldl2, Keeps.foldl3, Keeps.refl, implies_true, keeps_grtPut, *]; done)
    | with_reducible apply Keeps.fold1
    | with_reducible apply Keeps.fold2
    | with_reducible apply Keeps.fold3
    | with_reducible apply Keeps.fold21
    | intro _
    | (split <;> (try (rename_i heq; (first | refine Keeps.cut (Keeps.of_eq (b := b0) heq ?_) ?_ | refine Keeps.cut (Keeps.of_eq3 (b := b0) heq ?_) ?_ | refine Keeps.cut (Keeps.of_eq1 (b := b0) heq ?_) ?_ | refine Keeps.cut (Keeps.of_eq4 (b := b0) heq ?_) ?_); (focus (clear heq; (repeat' first | (simp (maxDischargeDepth := 99) only [KIss.hold, KIss.done, KIss.fault, KIss.wait, Keeps.upd, Keeps.updId, Keeps.ite, Keeps.foldl, Keeps.foldl2, Keeps.foldl3, Keeps.refl, implies_true, keeps_grtPut, *]; done) | with_reducible apply Keeps.fold1 | with_reducible apply Keeps.fold2 | with_reducible apply Keeps.fold3 | with_reducible apply Keeps.fold21 | intro _ | split | dsimp only))); intro hz; (try dsimp only at hz); clear heq)))

theorem keeps_grtAtomic {b0 : State} {s : State} (k : Nat) (off : Nat) (aop : Nat) (ty : Nat) (ops : List (Nat × Nat)) (engine : Bool) (hK : Keeps b0 s) :
    Keeps b0 (grtAtomic s k off aop ty ops engine).2.2 := by
  unfold grtAtomic
  repeat' first
    | with_reducible assumption
    | (extract_lets +onlyGivenNames z; first | ((first | refine Keeps.cut (p := Keeps b0 z) ?_ ?_ | refine Keeps.cut (p := Keeps b0 z.2) ?_ ?_ | refine Keeps.cut (p := Keeps b0 z.2.2) ?_ ?_ | refine Keeps.cut (p := Keeps b0 z.1) ?_ ?_ | refine Keeps.cut (p := Keeps b0 z.s) ?_ ?_ | refine Keeps.cut (p := Keeps b0 z.2.s) ?_ ?_ | refine Keeps.cut (p := Keeps b0 z.2.2.s) ?_ ?_); (focus (intros; dsimp only [z]; (repeat' first | (simp (maxDischargeDepth := 99) only [KIss.hold, KIss.done, KIss.fault, KIss.wait, Keeps.upd, Keeps.updId, Keeps.ite, Keeps.foldl, Keeps.foldl2, Keeps.foldl3, Keeps.refl, implies_true, keeps_grtPut, *]; done) | with_reducible apply Keeps.fold1 | with_reducible apply Keeps.fold2 | with_reducible apply Keeps.fold3 | with_reducible apply Keeps.fold21 | intro _ | split | dsimp only))); intro hz; clear_value z) | clear_value z | skip)
    | (simp (maxDischargeDepth := 99) only [KIss.hold, KIss.done, KIss.fault, KIss.wait, Keeps.upd, Keeps.updId, Keeps.ite, Keeps.foldl, Keeps.foldl2, Keeps.foldl3, Keeps.refl, implies_true, keeps_grtPut, *]; done)
    | with_reducible apply Keeps.fold1
    | with_reducible apply Keeps.fold2
    | with_reducible apply Keeps.fold3
    | with_reducible apply Keeps.fold21
    | intro _
    | (split <;> (try (rename_i heq; (first | refine Keeps.cut (Keeps.of_eq (b := b0) heq ?_) ?_ | refine Keeps.cut (Keeps.of_eq3 (b := b0) heq ?_) ?_ | refine Keeps.cut (Keeps.of_eq1 (b := b0) heq ?_) ?_ | refine Keeps.cut (Keeps.of_eq4 (b := b0) heq ?_) ?_); (focus (clear heq; (repeat' first | (simp (maxDischargeDepth := 99) only [KIss.hold, KIss.done, KIss.fault, KIss.wait, Keeps.upd, Keeps.updId, Keeps.ite, Keeps.foldl, Keeps.foldl2, Keeps.foldl3, Keeps.refl, implies_true, keeps_grtPut, *]; done) | with_reducible apply Keeps.fold1 | with_reducible apply Keeps.fold2 | with_reducible apply Keeps.fold3 | with_reducible apply Keeps.fold21 | intro _ | split | dsimp only))); intro hz; (try dsimp only at hz); clear heq)))

theorem keeps_busRead {b0 : State} {s : State} (ctx : Option Nat) (coherent : Bool) (addr : Nat) (len : Nat) (hK : Keeps b0 s) :
    Keeps b0 (busRead s ctx coherent addr len).2.2 := by
  unfold busRead
  repeat' first
    | with_reducible assumption
    | (extract_lets +onlyGivenNames z; first | ((first | refine Keeps.cut (p := Keeps b0 z) ?_ ?_ | refine Keeps.cut (p := Keeps b0 z.2) ?_ ?_ | refine Keeps.cut (p := Keeps b0 z.2.2) ?_ ?_ | refine Keeps.cut (p := Keeps b0 z.1) ?_ ?_ | refine Keeps.cut (p := Keeps b0 z.s) ?_ ?_ | refine Keeps.cut (p := Keeps b0 z.2.s) ?_ ?_ | refine Keeps.cut (p := Keeps b0 z.2.2.s) ?_ ?_); (focus (intros; dsimp only [z]; (repeat' first | (simp (maxDischargeDepth := 99) only [KIss.hold, KIss.done, KIss.fault, KIss.wait, Keeps.upd, Keeps.updId, Keeps.ite, Keeps.foldl, Keeps.foldl2, Keeps.foldl3, Keeps.refl, implies_true, keeps_ncReadNow, keeps_ioReadNow, keeps_drpSeen, *]; done) | with_reducible apply Keeps.fold1 | with_reducible apply Keeps.fold2 | with_reducible apply Keeps.fold3 | with_reducible apply Keeps.fold21 | intro _ | split | dsimp only))); intro hz; clear_value z) | clear_value z | skip)
    | (simp (maxDischargeDepth := 99) only [KIss.hold, KIss.done, KIss.fault, KIss.wait, Keeps.upd, Keeps.updId, Keeps.ite, Keeps.foldl, Keeps.foldl2, Keeps.foldl3, Keeps.refl, implies_true, keeps_ncReadNow, keeps_ioReadNow, keeps_drpSeen, *]; done)
    | with_reducible apply Keeps.fold1
    | with_reducible apply Keeps.fold2
    | with_reducible apply Keeps.fold3
    | with_reducible apply Keeps.fold21
    | intro _
    | (split <;> (try (rename_i heq; (first | refine Keeps.cut (Keeps.of_eq (b := b0) heq ?_) ?_ | refine Keeps.cut (Keeps.of_eq3 (b := b0) heq ?_) ?_ | refine Keeps.cut (Keeps.of_eq1 (b := b0) heq ?_) ?_ | refine Keeps.cut (Keeps.of_eq4 (b := b0) heq ?_) ?_); (focus (clear heq; (repeat' first | (simp (maxDischargeDepth := 99) only [KIss.hold, KIss.done, KIss.fault, KIss.wait, Keeps.upd, Keeps.updId, Keeps.ite, Keeps.foldl, Keeps.foldl2, Keeps.foldl3, Keeps.refl, implies_true, keeps_ncReadNow, keeps_ioReadNow, keeps_drpSeen, *]; done) | with_reducible apply Keeps.fold1 | with_reducible apply Keeps.fold2 | with_reducible apply Keeps.fold3 | with_reducible apply Keeps.fold21 | intro _ | split | dsimp only))); intro hz; (try dsimp only at hz); clear heq)))

theorem keeps_busWrite {b0 : State} {s : State} (ctx : Option Nat) (coherent : Bool) (addr : Nat) (data : List Byte) (hK : Keeps b0 s) :
    Keeps b0 (busWrite s ctx coherent addr data).2 := by
  unfold busWrite
  repeat' first
    | with_reducible assumption
    | (extract_lets +onlyGivenNames z; first | ((first | refine Keeps.cut (p := Keeps b0 z) ?_ ?_ | refine Keeps.cut (p := Keeps b0 z.2) ?_ ?_ | refine Keeps.cut (p := Keeps b0 z.2.2) ?_ ?_ | refine Keeps.cut (p := Keeps b0 z.1) ?_ ?_ | refine Keeps.cut (p := Keeps b0 z.s) ?_ ?_ | refine Keeps.cut (p := Keeps b0 z.2.s) ?_ ?_ | refine Keeps.cut (p := Keeps b0 z.2.2.s) ?_ ?_); (focus (intros; dsimp only [z]; (repeat' first | (simp (maxDischargeDepth := 99) only [KIss.hold, KIss.done, KIss.fault, KIss.wait, Keeps.upd, Keeps.updId, Keeps.ite, Keeps.foldl, Keeps.foldl2, Keeps.foldl3, Keeps.refl, implies_true, keeps_ncWriteNow, keeps_ioWriteNow, keeps_grtWrite, *]; done) | with_reducible apply Keeps.fold1 | with_reducible apply Keeps.fold2 | with_reducible apply Keeps.fold3 | with_reducible apply Keeps.fold21 | intro _ | split | dsimp only))); intro hz; clear_value z) | clear_value z | skip)
    | (simp (maxDischargeDepth := 99) only [KIss.hold, KIss.done, KIss.fault, KIss.wait, Keeps.upd, Keeps.updId, Keeps.ite, Keeps.foldl, Keeps.foldl2, Keeps.foldl3, Keeps.refl, implies_true, keeps_ncWriteNow, keeps_ioWriteNow, keeps_grtWrite, *]; done)
    | with_reducible apply Keeps.fold1
    | with_reducible apply Keeps.fold2
    | with_reducible apply Keeps.fold3
    | with_reducible apply Keeps.fold21
    | intro _
    | (split <;> (try (rename_i heq; (first | refine Keeps.cut (Keeps.of_eq (b := b0) heq ?_) ?_ | refine Keeps.cut (Keeps.of_eq3 (b := b0) heq ?_) ?_ | refine Keeps.cut (Keeps.of_eq1 (b := b0) heq ?_) ?_ | refine Keeps.cut (Keeps.of_eq4 (b := b0) heq ?_) ?_); (focus (clear heq; (repeat' first | (simp (maxDischargeDepth := 99) only [KIss.hold, KIss.done, KIss.fault, KIss.wait, Keeps.upd, Keeps.updId, Keeps.ite, Keeps.foldl, Keeps.foldl2, Keeps.foldl3, Keeps.refl, implies_true, keeps_ncWriteNow, keeps_ioWriteNow, keeps_grtWrite, *]; done) | with_reducible apply Keeps.fold1 | with_reducible apply Keeps.fold2 | with_reducible apply Keeps.fold3 | with_reducible apply Keeps.fold21 | intro _ | split | dsimp only))); intro hz; (try dsimp only at hz); clear heq)))

theorem keeps_busAtomic {b0 : State} {s : State} (who : Origin) (ctx : Option Nat) (addr : Nat) (aop : Nat) (ty : Nat) (ops : List (W64 × W64)) (hK : Keeps b0 s) :
    Keeps b0 (busAtomic s who ctx addr aop ty ops).2.2 := by
  unfold busAtomic
  repeat' first
    | with_reducible assumption
    | (extract_lets +onlyGivenNames z; first | ((first | refine Keeps.cut (p := Keeps b0 z) ?_ ?_ | refine Keeps.cut (p := Keeps b0 z.2) ?_ ?_ | refine Keeps.cut (p := Keeps b0 z.2.2) ?_ ?_ | refine Keeps.cut (p := Keeps b0 z.1) ?_ ?_ | refine Keeps.cut (p := Keeps b0 z.s) ?_ ?_ | refine Keeps.cut (p := Keeps b0 z.2.s) ?_ ?_ | refine Keeps.cut (p := Keeps b0 z.2.2.s) ?_ ?_); (focus (intros; dsimp only [z]; (repeat' first | (simp (maxDischargeDepth := 99) only [KIss.hold, KIss.done, KIss.fault, KIss.wait, Keeps.upd, Keeps.updId, Keeps.ite, Keeps.foldl, Keeps.foldl2, Keeps.foldl3, Keeps.refl, implies_true, keeps_atomicNow, keeps_grtAtomic, *]; done) | with_reducible apply Keeps.fold1 | with_reducible apply Keeps.fold2 | with_reducible apply Keeps.fold3 | with_reducible apply Keeps.fold21 | intro _ | split | dsimp only))); intro hz; clear_value z) | clear_value z | skip)
    | (simp (maxDischargeDepth := 99) only [KIss.hold, KIss.done, KIss.fault, KIss.wait, Keeps.upd, Keeps.updId, Keeps.ite, Keeps.foldl, Keeps.foldl2, Keeps.foldl3, Keeps.refl, implies_true, keeps_atomicNow, keeps_grtAtomic, *]; done)
    | with_reducible apply Keeps.fold1
    | with_reducible apply Keeps.fold2
    | with_reducible apply Keeps.fold3
    | with_reducible apply Keeps.fold21
    | intro _
    | (split <;> (try (rename_i heq; (first | refine Keeps.cut (Keeps.of_eq (b := b0) heq ?_) ?_ | refine Keeps.cut (Keeps.of_eq3 (b := b0) heq ?_) ?_ | refine Keeps.cut (Keeps.of_eq1 (b := b0) heq ?_) ?_ | refine Keeps.cut (Keeps.of_eq4 (b := b0) heq ?_) ?_); (focus (clear heq; (repeat' first | (simp (maxDischargeDepth := 99) only [KIss.hold, KIss.done, KIss.fault, KIss.wait, Keeps.upd, Keeps.updId, Keeps.ite, Keeps.foldl, Keeps.foldl2, Keeps.foldl3, Keeps.refl, implies_true, keeps_atomicNow, keeps_grtAtomic, *]; done) | with_reducible apply Keeps.fold1 | with_reducible apply Keeps.fold2 | with_reducible apply Keeps.fold3 | with_reducible apply Keeps.fold21 | intro _ | split | dsimp only))); intro hz; (try dsimp only at hz); clear heq)))

theorem keeps_devRead {b0 : State} {s : State} (addr : Nat) (len : Nat) (coherent : Bool) (hK : Keeps b0 s) :
    Keeps b0 (devRead s addr len coherent).2.2 := by
  unfold devRead; simp (maxDischargeDepth := 99) only [KIss.hold, KIss.done, KIss.fault, KIss.wait, Keeps.upd, Keeps.updId,
        Keeps.ite, Keeps.foldl, Keeps.foldl2, Keeps.foldl3, Keeps.refl, implies_true, keeps_busRead, *]

theorem keeps_devWrite {b0 : State} {s : State} (addr : Nat) (data : List Byte) (hK : Keeps b0 s) :
    Keeps b0 (devWrite s addr data).2 := by
  unfold devWrite; simp (maxDischargeDepth := 99) only [KIss.hold, KIss.done, KIss.fault, KIss.wait, Keeps.upd, Keeps.updId,
        Keeps.ite, Keeps.foldl, Keeps.foldl2, Keeps.foldl3, Keeps.refl, implies_true, keeps_busWrite, *]

theorem keeps_devAtomic {b0 : State} {s : State} (addr : Nat) (aop : Nat) (ty : Nat) (c : W64) (d : W64) (hK : Keeps b0 s) :
    Keeps b0 (devAtomic s addr aop ty c d).2.2 := by
  unfold devAtomic; simp (maxDischargeDepth := 99) only [KIss.hold, KIss.done, KIss.fault, KIss.wait, Keeps.upd, Keeps.updId,
         Keeps.ite, Keeps.foldl, Keeps.foldl2, Keeps.foldl3, Keeps.refl, implies_true, keeps_busAtomic, *]

theorem keeps_readPte {b0 : State} {s : State} (a : Nat) (hK : Keeps b0 s) :
    Keeps b0 (readPte s a).2.2 := by
  unfold readPte
  repeat' first
    | with_reducible assumption
    | (extract_lets +onlyGivenNames z; first | ((first | refine Keeps.cut (p := Keeps b0 z) ?_ ?_ | refine Keeps.cut (p := Keeps b0 z.2) ?_ ?_ | refine Keeps.cut (p := Keeps b0 z.2.2) ?_ ?_ | refine Keeps.cut (p := Keeps b0 z.1) ?_ ?_ | refine Keeps.cut (p := Keeps b0 z.s) ?_ ?_ | refine Keeps.cut (p := Keeps b0 z.2.s) ?_ ?_ | refine Keeps.cut (p := Keeps b0 z.2.2.s) ?_ ?_); (focus (intros; dsimp only [z]; (repeat' first | (simp (maxDischargeDepth := 99) only [KIss.hold, KIss.done, KIss.fault, KIss.wait, Keeps.upd, Keeps.updId, Keeps.ite, Keeps.foldl, Keeps.foldl2, Keeps.foldl3, Keeps.refl, implies_true, keeps_ncReadNow, *]; done) | with_reducible apply Keeps.fold1 | with_reducible apply Keeps.fold2 | with_reducible apply Keeps.fold3 | with_reducible apply Keeps.fold21 | intro _ | split | dsimp only))); intro hz; clear_value z) | clear_value z | skip)
    | (simp (maxDischargeDepth := 99) only [KIss.hold, KIss.done, KIss.fault, KIss.wait, Keeps.upd, Keeps.updId, Keeps.ite, Keeps.foldl, Keeps.foldl2, Keeps.foldl3, Keeps.refl, implies_true, keeps_ncReadNow, *]; done)
    | with_reducible apply Keeps.fold1
    | with_reducible apply Keeps.fold2
    | with_reducible apply Keeps.fold3
    | with_reducible apply Keeps.fold21
    | intro _
    | (split <;> (try (rename_i heq; (first | refine Keeps.cut (Keeps.of_eq (b := b0) heq ?_) ?_ | refine Keeps.cut (Keeps.of_eq3 (b := b0) heq ?_) ?_ | refine Keeps.cut (Keeps.of_eq1 (b := b0) heq ?_) ?_ | refine Keeps.cut (Keeps.of_eq4 (b := b0) heq ?_) ?_); (focus (clear heq; (repeat' first | (simp (maxDischargeDepth := 99) only [KIss.hold, KIss.done, KIss.fault, KIss.wait, Keeps.upd, Keeps.updId, Keeps.ite, Keeps.foldl, Keeps.foldl2, Keeps.foldl3, Keeps.refl, implies_true, keeps_ncReadNow, *]; done) | with_reducible apply Keeps.fold1 | with_reducible apply Keeps.fold2 | with_reducible apply Keeps.fold3 | with_reducible apply Keeps.fold21 | intro _ | split | dsimp only))); intro hz; (try dsimp only at hz); clear heq)))

theorem keeps_walk {b0 : State} (x0 : Nat) {x1 : State} (x2 : Nat) (x3 : Nat) (hK : Keeps b0 x1) :
    Keeps b0 (walk x0 x1 x2 x3).2.2.2 := by
  induction x0 generalizing b0 x1 x2 x3 with
  | zero => unfold walk; (repeat' split) <;> (simp (maxDischargeDepth := 99) only [KIss.hold, KIss.done, KIss.fault, KIss.wait, Keeps.upd, Keeps.updId, Keeps.ite, Keeps.foldl, Keeps.foldl2, Keeps.foldl3, Keeps.refl, implies_true, keeps_readPte, *]; done)
  | succ n ih =>
    unfold walk
    repeat' first
      | with_reducible assumption
      | (extract_lets +onlyGivenNames z; first | ((first | refine Keeps.cut (p := Keeps b0 z) ?_ ?_ | refine Keeps.cut (p := Keeps b0 z.2) ?_ ?_ | refine Keeps.cut (p := Keeps b0 z.2.2) ?_ ?_ | refine Keeps.cut (p := Keeps b0 z.1) ?_ ?_ | refine Keeps.cut (p := Keeps b0 z.s) ?_ ?_ | refine Keeps.cut (p := Keeps b0 z.2.s) ?_ ?_ | refine Keeps.cut (p := Keeps b0 z.2.2.s) ?_ ?_); (focus (intros; dsimp only [z]; (repeat' first | (simp (maxDischargeDepth := 99) only [KIss.hold, KIss.done, KIss.fault, KIss.wait, Keeps.upd, Keeps.updId, Keeps.ite, Keeps.foldl, Keeps.foldl2, Keeps.foldl3, Keeps.refl, implies_true, keeps_readPte, *]; done) | with_reducible apply Keeps.fold1 | with_reducible apply Keeps.fold2 | with_reducible apply Keeps.fold3 | with_reducible apply Keeps.fold21 | intro _ | split | dsimp only))); intro hz; clear_value z) | clear_value z | skip)
      | (simp (maxDischargeDepth := 99) only [KIss.hold, KIss.done, KIss.fault, KIss.wait, Keeps.upd, Keeps.updId, Keeps.ite, Keeps.foldl, Keeps.foldl2, Keeps.foldl3, Keeps.refl, implies_true, keeps_readPte, *]; done)
      | with_reducible apply Keeps.fold1
      | with_reducible apply Keeps.fold2
      | with_reducible apply Keeps.fold3
      | with_reducible apply Keeps.fold21
      | intro _
      | (split <;> (try (rename_i heq; (first | refine Keeps.cut (Keeps.of_eq (b := b0) heq ?_) ?_ | refine Keeps.cut (Keeps.of_eq3 (b := b0) heq ?_) ?_ | refine Keeps.cut (Keeps.of_eq1 (b := b0) heq ?_) ?_ | refine Keeps.cut (Keeps.of_eq4 (b := b0) heq ?_) ?_); (focus (clear heq; (repeat' first | (simp (maxDischargeDepth := 99) only [KIss.hold, KIss.done, KIss.fault, KIss.wait, Keeps.upd, Keeps.updId, Keeps.ite, Keeps.foldl, Keeps.foldl2, Keeps.foldl3, Keeps.refl, implies_true, keeps_readPte, *]; done) | with_reducible apply Keeps.fold1 | with_reducible apply Keeps.fold2 | with_reducible apply Keeps.fold3 | with_reducible apply Keeps.fold21 | intro _ | split | dsimp only))); intro hz; (try dsimp only at hz); clear heq)))

theorem keeps_translate {b0 : State} {s : State} (holder : Nat) (ctx : Nat) (va : Nat) (n : Need) (hK : Keeps b0 s) :
    Keeps b0 (translate s holder ctx va n).2.2 := by
  unfold translate
  repeat' first
    | with_reducible assumption
    | (extract_lets +onlyGivenNames z; first | ((first | refine Keeps.cut (p := Keeps b0 z) ?_ ?_ | refine Keeps.cut (p := Keeps b0 z.2) ?_ ?_ | refine Keeps.cut (p := Keeps b0 z.2.2) ?_ ?_ | refine Keeps.cut (p := Keeps b0 z.1) ?_ ?_ | refine Keeps.cut (p := Keeps b0 z.s) ?_ ?_ | refine Keeps.cut (p := Keeps b0 z.2.s) ?_ ?_ | refine Keeps.cut (p := Keeps b0 z.2.2.s) ?_ ?_); (focus (intros; dsimp only [z]; (repeat' first | (simp (maxDischargeDepth := 99) only [KIss.hold, KIss.done, KIss.fault, KIss.wait, Keeps.upd, Keeps.updId, Keeps.ite, Keeps.foldl, Keeps.foldl2, Keeps.foldl3, Keeps.refl, implies_true, keeps_walk, *]; done) | with_reducible apply Keeps.fold1 | with_reducible apply Keeps.fold2 | with_reducible apply Keeps.fold3 | with_reducible apply Keeps.fold21 | intro _ | split | dsimp only))); intro hz; clear_value z) | clear_value z | skip)
    | (simp (maxDischargeDepth := 99) only [KIss.hold, KIss.done, KIss.fault, KIss.wait, Keeps.upd, Keeps.updId, Keeps.ite, Keeps.foldl, Keeps.foldl2, Keeps.foldl3, Keeps.refl, implies_true, keeps_walk, *]; done)
    | with_reducible apply Keeps.fold1
    | with_reducible apply Keeps.fold2
    | with_reducible apply Keeps.fold3
    | with_reducible apply Keeps.fold21
    | intro _
    | (split <;> (try (rename_i heq; (first | refine Keeps.cut (Keeps.of_eq (b := b0) heq ?_) ?_ | refine Keeps.cut (Keeps.of_eq3 (b := b0) heq ?_) ?_ | refine Keeps.cut (Keeps.of_eq1 (b := b0) heq ?_) ?_ | refine Keeps.cut (Keeps.of_eq4 (b := b0) heq ?_) ?_); (focus (clear heq; (repeat' first | (simp (maxDischargeDepth := 99) only [KIss.hold, KIss.done, KIss.fault, KIss.wait, Keeps.upd, Keeps.updId, Keeps.ite, Keeps.foldl, Keeps.foldl2, Keeps.foldl3, Keeps.refl, implies_true, keeps_walk, *]; done) | with_reducible apply Keeps.fold1 | with_reducible apply Keeps.fold2 | with_reducible apply Keeps.fold3 | with_reducible apply Keeps.fold21 | intro _ | split | dsimp only))); intro hz; (try dsimp only at hz); clear heq)))

theorem keeps_tlbDrop {b0 : State} {s : State} (p : Nat → Bool) (ctx : Nat) (hK : Keeps b0 s) :
    Keeps b0 (tlbDrop s p ctx) := by
  unfold tlbDrop; simp (maxDischargeDepth := 99) only [KIss.hold, KIss.done, KIss.fault, KIss.wait, Keeps.upd, Keeps.updId,
        Keeps.ite, Keeps.foldl, Keeps.foldl2, Keeps.foldl3, Keeps.refl, implies_true, *]

theorem keeps_setDcc {b0 : State} {s : State} (k : Nat) (c : DieCache) (hK : Keeps b0 s) :
    Keeps b0 (setDcc s k c) := by
  unfold setDcc; simp (maxDischargeDepth := 99) only [KIss.hold, KIss.done, KIss.fault, KIss.wait, Keeps.upd, Keeps.updId,
        Keeps.ite, Keeps.foldl, Keeps.foldl2, Keeps.foldl3, Keeps.refl, implies_true, *]

theorem keeps_dccSetLine {b0 : State} {s : State} (k : Nat) (key : Nat) (l : DccLine) (hK : Keeps b0 s) :
    Keeps b0 (dccSetLine s k key l) := by
  unfold dccSetLine; simp (maxDischargeDepth := 99) only [KIss.hold, KIss.done, KIss.fault, KIss.wait, Keeps.upd,
        Keeps.updId, Keeps.ite, Keeps.foldl, Keeps.foldl2, Keeps.foldl3, Keeps.refl, implies_true, keeps_setDcc, *]

theorem keeps_dccDrop {b0 : State} {s : State} (k : Nat) (key : Nat) (hK : Keeps b0 s) :
    Keeps b0 (dccDrop s k key) := by
  unfold dccDrop; simp (maxDischargeDepth := 99) only [KIss.hold, KIss.done, KIss.fault, KIss.wait, Keeps.upd, Keeps.updId,
        Keeps.ite, Keeps.foldl, Keeps.foldl2, Keeps.foldl3, Keeps.refl, implies_true, keeps_setDcc, *]

theorem keeps_dccTouch {b0 : State} {s : State} (k : Nat) (key : Nat) (hK : Keeps b0 s) :
    Keeps b0 (dccTouch s k key) := by
  unfold dccTouch; simp (maxDischargeDepth := 99) only [KIss.hold, KIss.done, KIss.fault, KIss.wait, Keeps.upd, Keeps.updId,
        Keeps.ite, Keeps.foldl, Keeps.foldl2, Keeps.foldl3, Keeps.refl, implies_true, keeps_setDcc, *]

theorem keeps_dccAim {b0 : State} {s : State} (k : Nat) (key : Nat) (hK : Keeps b0 s) :
    Keeps b0 (dccAim s k key) := by
  unfold dccAim; simp (maxDischargeDepth := 99) only [KIss.hold, KIss.done, KIss.fault, KIss.wait, Keeps.upd, Keeps.updId,
        Keeps.ite, Keeps.foldl, Keeps.foldl2, Keeps.foldl3, Keeps.refl, implies_true, keeps_setDcc, *]

theorem keeps_dccPlace {b0 : State} {s : State} (k : Nat) (key : Nat) (streaming : Bool) (hK : Keeps b0 s) :
    Keeps b0 (dccPlace s k key streaming) := by
  unfold dccPlace; simp (maxDischargeDepth := 99) only [KIss.hold, KIss.done, KIss.fault, KIss.wait, Keeps.upd, Keeps.updId,
        Keeps.ite, Keeps.foldl, Keeps.foldl2, Keeps.foldl3, Keeps.refl, implies_true, keeps_dccTouch, keeps_dccAim, *]

theorem keeps_dccWriteback {b0 : State} {s : State} (k : Nat) (key : Nat) (hK : Keeps b0 s) :
    Keeps b0 (dccWriteback s k key) := by
  unfold dccWriteback; (repeat' split) <;> simp (maxDischargeDepth := 99) only [KIss.hold, KIss.done, KIss.fault, KIss.wait,
        Keeps.upd, Keeps.updId, Keeps.ite, Keeps.foldl, Keeps.foldl2, Keeps.foldl3, Keeps.refl, implies_true, keeps_count,
        keeps_ncWriteNow, keeps_dccSetLine, *]

theorem keeps_dccAlloc {b0 : State} {s : State} (k : Nat) (line : Nat) (ways : Nat) (hK : Keeps b0 s) :
    ∀ u, dccAlloc s k line ways = some u → Keeps b0 u.2 := by
  unfold dccAlloc
  repeat' first
    | with_reducible assumption
    | refine fun (y : State) (gr : Group) (hy : Keeps b0 y) => ?_
    | (extract_lets +onlyGivenNames z; first | ((first | refine Keeps.cut (p := Keeps b0 z) ?_ ?_ | refine Keeps.cut (p := Keeps b0 z.2) ?_ ?_ | refine Keeps.cut (p := Keeps b0 z.2.2) ?_ ?_ | refine Keeps.cut (p := Keeps b0 z.1) ?_ ?_ | refine Keeps.cut (p := Keeps b0 z.s) ?_ ?_ | refine Keeps.cut (p := Keeps b0 z.2.s) ?_ ?_ | refine Keeps.cut (p := Keeps b0 z.2.2.s) ?_ ?_); (focus (intros; dsimp only [z]; (repeat' first | (simp (maxDischargeDepth := 99) only [KIss.hold, KIss.done, KIss.fault, KIss.wait, Keeps.upd, Keeps.updId, Keeps.ite, Keeps.foldl, Keeps.foldl2, Keeps.foldl3, Keeps.refl, implies_true, keeps_dccDrop, keeps_dccWriteback, *]; done) | with_reducible apply Keeps.fold1 | with_reducible apply Keeps.fold2 | with_reducible apply Keeps.fold3 | with_reducible apply Keeps.fold21 | intro _ | split | dsimp only))); intro hz; clear_value z) | clear_value z | skip)
    | (simp (maxDischargeDepth := 99) only [KIss.hold, KIss.done, KIss.fault, KIss.wait, Keeps.upd, Keeps.updId, Keeps.ite, Keeps.foldl, Keeps.foldl2, Keeps.foldl3, Keeps.refl, implies_true, keeps_dccDrop, keeps_dccWriteback, *]; done)
    | (intro t ht; injection ht with ht; subst ht)
    | (intro t ht; contradiction)
    | with_reducible apply Keeps.fold1
    | with_reducible apply Keeps.fold2
    | with_reducible apply Keeps.fold3
    | with_reducible apply Keeps.fold21
    | (split <;> (try (rename_i heq; (first | refine Keeps.cut (Keeps.of_eq (b := b0) heq ?_) ?_ | refine Keeps.cut (Keeps.of_eq3 (b := b0) heq ?_) ?_ | refine Keeps.cut (Keeps.of_eq1 (b := b0) heq ?_) ?_ | refine Keeps.cut (Keeps.of_eq4 (b := b0) heq ?_) ?_); (focus (clear heq; (repeat' first | (simp (maxDischargeDepth := 99) only [KIss.hold, KIss.done, KIss.fault, KIss.wait, Keeps.upd, Keeps.updId, Keeps.ite, Keeps.foldl, Keeps.foldl2, Keeps.foldl3, Keeps.refl, implies_true, keeps_dccDrop, keeps_dccWriteback, *]; done) | with_reducible apply Keeps.fold1 | with_reducible apply Keeps.fold2 | with_reducible apply Keeps.fold3 | with_reducible apply Keeps.fold21 | intro _ | split | dsimp only))); intro hz; (try dsimp only at hz); clear heq)))
    | intro _

theorem keeps_toHomeReq {b0 : State} {s : State} (r : MemReq) (hK : Keeps b0 s) :
    Keeps b0 (toHomeReq s r) := by
  unfold toHomeReq; (repeat' split) <;> simp (maxDischargeDepth := 99) only [KIss.hold, KIss.done, KIss.fault, KIss.wait,
        Keeps.upd, Keeps.updId, Keeps.ite, Keeps.foldl, Keeps.foldl2, Keeps.foldl3, Keeps.refl, implies_true, keeps_setHome,
        *]

theorem keeps_dccStartFill {b0 : State} {s : State} (k : Nat) (key : Nat) (line : Nat) (w : List (MemReq × Map Byte × Nat)) (pf : Bool) (hK : Keeps b0 s) :
    Keeps b0 (dccStartFill s k key line w pf) := by
  unfold dccStartFill; simp (maxDischargeDepth := 99) only [KIss.hold, KIss.done, KIss.fault, KIss.wait, Keeps.upd,
        Keeps.updId, Keeps.ite, Keeps.foldl, Keeps.foldl2, Keeps.foldl3, Keeps.refl, implies_true, keeps_setDcc,
        keeps_toHomeReq, *]

theorem keeps_prefetchLine {b0 : State} {s : State} (k : Nat) (line : Nat) (hK : Keeps b0 s) :
    Keeps b0 (prefetchLine s k line) := by
  unfold prefetchLine
  repeat' first
    | with_reducible assumption
    | (simp (maxDischargeDepth := 99) only [KIss.hold, KIss.done, KIss.fault, KIss.wait, Keeps.upd, Keeps.updId, Keeps.ite, Keeps.foldl, Keeps.foldl2, Keeps.foldl3, Keeps.refl, implies_true, keeps_count, keeps_dccAim, keeps_dccStartFill, *]; done)
    | (split <;> (try (rename_i heq; (first | refine Keeps.cut (Keeps.of_eq (b := b0) heq ?_) ?_ | refine Keeps.cut (Keeps.of_eq3 (b := b0) heq ?_) ?_ | refine Keeps.cut (Keeps.of_eq1 (b := b0) heq ?_) ?_ | refine Keeps.cut (Keeps.of_eq4 (b := b0) heq ?_) ?_ | refine Keeps.cut (keeps_dccAlloc (b0 := b0) _ _ _ ?_ _ heq) ?_); (focus (clear heq; (repeat' first | (simp (maxDischargeDepth := 99) only [KIss.hold, KIss.done, KIss.fault, KIss.wait, Keeps.upd, Keeps.updId, Keeps.ite, Keeps.foldl, Keeps.foldl2, Keeps.foldl3, Keeps.refl, implies_true, keeps_count, keeps_dccAim, keeps_dccStartFill, *]; done) | with_reducible apply Keeps.fold1 | with_reducible apply Keeps.fold2 | with_reducible apply Keeps.fold3 | with_reducible apply Keeps.fold21 | intro _ | split | dsimp only))); intro hz; (try dsimp only at hz); clear heq)))

theorem keeps_dccTrain {b0 : State} {s : State} (k : Nat) (requester : Nat) (line : Nat) (hK : Keeps b0 s) :
    Keeps b0 (dccTrain s k requester line) := by
  unfold dccTrain; simp (maxDischargeDepth := 99) only [KIss.hold, KIss.done, KIss.fault, KIss.wait, Keeps.upd, Keeps.updId,
        Keeps.ite, Keeps.foldl, Keeps.foldl2, Keeps.foldl3, Keeps.refl, implies_true, keeps_setDcc, keeps_prefetchLine, *]

theorem keeps_dccDiscard {b0 : State} {s : State} (k : Nat) (line : Nat) (hK : Keeps b0 s) :
    Keeps b0 (dccDiscard s k line) := by
  unfold dccDiscard; simp (maxDischargeDepth := 99) only [KIss.hold, KIss.done, KIss.fault, KIss.wait, Keeps.upd,
        Keeps.updId, Keeps.ite, Keeps.foldl, Keeps.foldl2, Keeps.foldl3, Keeps.refl, implies_true, keeps_setDcc, *]

theorem keeps_dccEvict {b0 : State} {s : State} (k : Nat) (line : Nat) (hK : Keeps b0 s) :
    Keeps b0 (dccEvict s k line) := by
  unfold dccEvict; (repeat' split) <;> simp (maxDischargeDepth := 99) only [KIss.hold, KIss.done, KIss.fault, KIss.wait,
        Keeps.upd, Keeps.updId, Keeps.ite, Keeps.foldl, Keeps.foldl2, Keeps.foldl3, Keeps.refl, implies_true, keeps_dccDrop,
        keeps_dccWriteback, keeps_dccDiscard, *]

theorem keeps_dccEcc {b0 : State} {s : State} (k : Nat) (line : Nat) (e : WordEcc) (hK : Keeps b0 s) :
    Keeps b0 (dccEcc s k line e) := by
  unfold dccEcc; (repeat' split) <;> simp (maxDischargeDepth := 99) only [KIss.hold, KIss.done, KIss.fault, KIss.wait,
        Keeps.upd, Keeps.updId, Keeps.ite, Keeps.foldl, Keeps.foldl2, Keeps.foldl3, Keeps.refl, implies_true,
        keeps_correctedBy, keeps_dccSetLine, keeps_dccDrop, *]

theorem keeps_dccHit {b0 : State} {s : State} (k : Nat) (key : Nat) (l : DccLine) (requester : Nat) (hK : Keeps b0 s) :
    Keeps b0 (dccHit s k key l requester) := by
  unfold dccHit; simp (maxDischargeDepth := 99) only [KIss.hold, KIss.done, KIss.fault, KIss.wait, Keeps.upd, Keeps.updId,
        Keeps.ite, Keeps.foldl, Keeps.foldl2, Keeps.foldl3, Keeps.refl, implies_true, keeps_count, keeps_dccSetLine,
        keeps_dccTrain, *]

theorem keeps_passStore {b0 : State} {s : State} (r : MemReq) (hK : Keeps b0 s) :
    Keeps b0 (passStore s r).2 := by
  unfold passStore; (repeat' split) <;> simp (maxDischargeDepth := 99) only [KIss.hold, KIss.done, KIss.fault, KIss.wait,
        Keeps.upd, Keeps.updId, Keeps.ite, Keeps.foldl, Keeps.foldl2, Keeps.foldl3, Keeps.refl, implies_true, *]

theorem keeps_sendStore {b0 : State} {s : State} (r : MemReq) (hK : Keeps b0 s) :
    Keeps b0 (sendStore s r) := by
  unfold sendStore; simp (maxDischargeDepth := 99) only [KIss.hold, KIss.done, KIss.fault, KIss.wait, Keeps.upd, Keeps.updId,
         Keeps.ite, Keeps.foldl, Keeps.foldl2, Keeps.foldl3, Keeps.refl, implies_true, keeps_toHomeReq, keeps_passStore, *]

theorem keeps_dccPerform {b0 : State} {s : State} (k : Nat) (r : MemReq) (hK : Keeps b0 s) :
    ∀ u, dccPerform s k r = some u → Keeps b0 u := by
  unfold dccPerform
  repeat' first
    | with_reducible assumption
    | refine fun (y : State) (gr : Group) (hy : Keeps b0 y) => ?_
    | (extract_lets +onlyGivenNames z; first | ((first | refine Keeps.cut (p := Keeps b0 z) ?_ ?_ | refine Keeps.cut (p := Keeps b0 z.2) ?_ ?_ | refine Keeps.cut (p := Keeps b0 z.2.2) ?_ ?_ | refine Keeps.cut (p := Keeps b0 z.1) ?_ ?_ | refine Keeps.cut (p := Keeps b0 z.s) ?_ ?_ | refine Keeps.cut (p := Keeps b0 z.2.s) ?_ ?_ | refine Keeps.cut (p := Keeps b0 z.2.2.s) ?_ ?_); (focus (intros; dsimp only [z]; (repeat' first | (simp (maxDischargeDepth := 99) only [KIss.hold, KIss.done, KIss.fault, KIss.wait, Keeps.upd, Keeps.updId, Keeps.ite, Keeps.foldl, Keeps.foldl2, Keeps.foldl3, Keeps.refl, implies_true, keeps_count, keeps_toL1, keeps_setDcc, keeps_dccSetLine, keeps_dccTouch, keeps_dccPlace, keeps_toHomeReq, keeps_dccStartFill, keeps_dccTrain, keeps_dccEvict, keeps_dccHit, keeps_sendStore, *]; done) | with_reducible apply Keeps.fold1 | with_reducible apply Keeps.fold2 | with_reducible apply Keeps.fold3 | with_reducible apply Keeps.fold21 | intro _ | split | dsimp only))); intro hz; clear_value z) | clear_value z | skip)
    | (simp (maxDischargeDepth := 99) only [KIss.hold, KIss.done, KIss.fault, KIss.wait, Keeps.upd, Keeps.updId, Keeps.ite, Keeps.foldl, Keeps.foldl2, Keeps.foldl3, Keeps.refl, implies_true, keeps_count, keeps_toL1, keeps_setDcc, keeps_dccSetLine, keeps_dccTouch, keeps_dccPlace, keeps_toHomeReq, keeps_dccStartFill, keeps_dccTrain, keeps_dccEvict, keeps_dccHit, keeps_sendStore, *]; done)
    | (intro t ht; injection ht with ht; subst ht)
    | (intro t ht; contradiction)
    | with_reducible apply Keeps.fold1
    | with_reducible apply Keeps.fold2
    | with_reducible apply Keeps.fold3
    | with_reducible apply Keeps.fold21
    | (split <;> (try (rename_i heq; (first | refine Keeps.cut (Keeps.of_eq (b := b0) heq ?_) ?_ | refine Keeps.cut (Keeps.of_eq3 (b := b0) heq ?_) ?_ | refine Keeps.cut (Keeps.of_eq1 (b := b0) heq ?_) ?_ | refine Keeps.cut (Keeps.of_eq4 (b := b0) heq ?_) ?_ | refine Keeps.cut (keeps_dccAlloc (b0 := b0) _ _ _ ?_ _ heq) ?_); (focus (clear heq; (repeat' first | (simp (maxDischargeDepth := 99) only [KIss.hold, KIss.done, KIss.fault, KIss.wait, Keeps.upd, Keeps.updId, Keeps.ite, Keeps.foldl, Keeps.foldl2, Keeps.foldl3, Keeps.refl, implies_true, keeps_count, keeps_toL1, keeps_setDcc, keeps_dccSetLine, keeps_dccTouch, keeps_dccPlace, keeps_toHomeReq, keeps_dccStartFill, keeps_dccTrain, keeps_dccEvict, keeps_dccHit, keeps_sendStore, *]; done) | with_reducible apply Keeps.fold1 | with_reducible apply Keeps.fold2 | with_reducible apply Keeps.fold3 | with_reducible apply Keeps.fold21 | intro _ | split | dsimp only))); intro hz; (try dsimp only at hz); clear heq)))
    | intro _

theorem keeps_dccAccess {b0 : State} {s : State} (k n : Nat) (w : WordEcc) (hK : Keeps b0 s) :
    Keeps b0 (dccAccess s k n w) := by
  unfold dccAccess
  extract_lets c
  split
  · exact hK
  · split
    · exact hK
    · refine Keeps.getD (fun t ht => keeps_dccPerform _ _ ?_ t ht) hK
      exact keeps_setDcc _ _ (keeps_dccEcc _ _ _ hK)

theorem keeps_maintLine {b0 : State} {s : State} (k : Nat) (op : Nat) (lo : Nat) (hi : Nat) (line : Nat) (hK : Keeps b0 s) :
    Keeps b0 (maintLine s k op lo hi line) := by
  unfold maintLine; (repeat' split) <;> simp (maxDischargeDepth := 99) only [KIss.hold, KIss.done, KIss.fault, KIss.wait,
        Keeps.upd, Keeps.updId, Keeps.ite, Keeps.foldl, Keeps.foldl2, Keeps.foldl3, Keeps.refl, implies_true, keeps_dccDrop,
        keeps_dccWriteback, *]

theorem keeps_zeroLine {b0 : State} {s : State} (k : Nat) (lo : Nat) (hi : Nat) (line : Nat) (hK : Keeps b0 s) :
    ∀ u, zeroLine s k lo hi line = some u → Keeps b0 u := by
  unfold zeroLine
  repeat' first
    | with_reducible assumption
    | refine fun (y : State) (gr : Group) (hy : Keeps b0 y) => ?_
    | (extract_lets +onlyGivenNames z; first | ((first | refine Keeps.cut (p := Keeps b0 z) ?_ ?_ | refine Keeps.cut (p := Keeps b0 z.2) ?_ ?_ | refine Keeps.cut (p := Keeps b0 z.2.2) ?_ ?_ | refine Keeps.cut (p := Keeps b0 z.1) ?_ ?_ | refine Keeps.cut (p := Keeps b0 z.s) ?_ ?_ | refine Keeps.cut (p := Keeps b0 z.2.s) ?_ ?_ | refine Keeps.cut (p := Keeps b0 z.2.2.s) ?_ ?_); (focus (intros; dsimp only [z]; (repeat' first | (simp (maxDischargeDepth := 99) only [KIss.hold, KIss.done, KIss.fault, KIss.wait, Keeps.upd, Keeps.updId, Keeps.ite, Keeps.foldl, Keeps.foldl2, Keeps.foldl3, Keeps.refl, implies_true, keeps_dccSetLine, keeps_dccTouch, *]; done) | with_reducible apply Keeps.fold1 | with_reducible apply Keeps.fold2 | with_reducible apply Keeps.fold3 | with_reducible apply Keeps.fold21 | intro _ | split | dsimp only))); intro hz; clear_value z) | clear_value z | skip)
    | (simp (maxDischargeDepth := 99) only [KIss.hold, KIss.done, KIss.fault, KIss.wait, Keeps.upd, Keeps.updId, Keeps.ite, Keeps.foldl, Keeps.foldl2, Keeps.foldl3, Keeps.refl, implies_true, keeps_dccSetLine, keeps_dccTouch, *]; done)
    | (intro t ht; injection ht with ht; subst ht)
    | (intro t ht; contradiction)
    | with_reducible apply Keeps.fold1
    | with_reducible apply Keeps.fold2
    | with_reducible apply Keeps.fold3
    | with_reducible apply Keeps.fold21
    | (split <;> (try (rename_i heq; (first | refine Keeps.cut (Keeps.of_eq (b := b0) heq ?_) ?_ | refine Keeps.cut (Keeps.of_eq3 (b := b0) heq ?_) ?_ | refine Keeps.cut (Keeps.of_eq1 (b := b0) heq ?_) ?_ | refine Keeps.cut (Keeps.of_eq4 (b := b0) heq ?_) ?_ | refine Keeps.cut (keeps_dccAlloc (b0 := b0) _ _ _ ?_ _ heq) ?_); (focus (clear heq; (repeat' first | (simp (maxDischargeDepth := 99) only [KIss.hold, KIss.done, KIss.fault, KIss.wait, Keeps.upd, Keeps.updId, Keeps.ite, Keeps.foldl, Keeps.foldl2, Keeps.foldl3, Keeps.refl, implies_true, keeps_dccSetLine, keeps_dccTouch, *]; done) | with_reducible apply Keeps.fold1 | with_reducible apply Keeps.fold2 | with_reducible apply Keeps.fold3 | with_reducible apply Keeps.fold21 | intro _ | split | dsimp only))); intro hz; (try dsimp only at hz); clear heq)))
    | intro _

theorem keeps_preloadLine {b0 : State} {s : State} (k : Nat) (line : Nat) (m : Maint) (hK : Keeps b0 s) :
    ∀ u, preloadLine s k line m = some u → Keeps b0 u.1 := by
  unfold preloadLine
  repeat' first
    | with_reducible assumption
    | refine fun (y : State) (gr : Group) (hy : Keeps b0 y) => ?_
    | (extract_lets +onlyGivenNames z; first | ((first | refine Keeps.cut (p := Keeps b0 z) ?_ ?_ | refine Keeps.cut (p := Keeps b0 z.2) ?_ ?_ | refine Keeps.cut (p := Keeps b0 z.2.2) ?_ ?_ | refine Keeps.cut (p := Keeps b0 z.1) ?_ ?_ | refine Keeps.cut (p := Keeps b0 z.s) ?_ ?_ | refine Keeps.cut (p := Keeps b0 z.2.s) ?_ ?_ | refine Keeps.cut (p := Keeps b0 z.2.2.s) ?_ ?_); (focus (intros; dsimp only [z]; (repeat' first | (simp (maxDischargeDepth := 99) only [KIss.hold, KIss.done, KIss.fault, KIss.wait, Keeps.upd, Keeps.updId, Keeps.ite, Keeps.foldl, Keeps.foldl2, Keeps.foldl3, Keeps.refl, implies_true, keeps_dccSetLine, keeps_dccDrop, keeps_dccTouch, keeps_dccWriteback, keeps_dccStartFill, *]; done) | with_reducible apply Keeps.fold1 | with_reducible apply Keeps.fold2 | with_reducible apply Keeps.fold3 | with_reducible apply Keeps.fold21 | intro _ | split | dsimp only))); intro hz; clear_value z) | clear_value z | skip)
    | (simp (maxDischargeDepth := 99) only [KIss.hold, KIss.done, KIss.fault, KIss.wait, Keeps.upd, Keeps.updId, Keeps.ite, Keeps.foldl, Keeps.foldl2, Keeps.foldl3, Keeps.refl, implies_true, keeps_dccSetLine, keeps_dccDrop, keeps_dccTouch, keeps_dccWriteback, keeps_dccStartFill, *]; done)
    | (intro t ht; injection ht with ht; subst ht)
    | (intro t ht; contradiction)
    | with_reducible apply Keeps.fold1
    | with_reducible apply Keeps.fold2
    | with_reducible apply Keeps.fold3
    | with_reducible apply Keeps.fold21
    | (split <;> (try (rename_i heq; (first | refine Keeps.cut (Keeps.of_eq (b := b0) heq ?_) ?_ | refine Keeps.cut (Keeps.of_eq3 (b := b0) heq ?_) ?_ | refine Keeps.cut (Keeps.of_eq1 (b := b0) heq ?_) ?_ | refine Keeps.cut (Keeps.of_eq4 (b := b0) heq ?_) ?_); (focus (clear heq; (repeat' first | (simp (maxDischargeDepth := 99) only [KIss.hold, KIss.done, KIss.fault, KIss.wait, Keeps.upd, Keeps.updId, Keeps.ite, Keeps.foldl, Keeps.foldl2, Keeps.foldl3, Keeps.refl, implies_true, keeps_dccSetLine, keeps_dccDrop, keeps_dccTouch, keeps_dccWriteback, keeps_dccStartFill, *]; done) | with_reducible apply Keeps.fold1 | with_reducible apply Keeps.fold2 | with_reducible apply Keeps.fold3 | with_reducible apply Keeps.fold21 | intro _ | split | dsimp only))); intro hz; (try dsimp only at hz); clear heq)))
    | intro _

theorem keeps_maintRun {b0 : State} (x0 : Nat) {x1 : State} (x2 : Nat) (x3 : Maint) (hK : Keeps b0 x1) :
    Keeps b0 (maintRun x0 x1 x2 x3).1 := by
  induction x0 generalizing b0 x1 x2 x3 with
  | zero => unfold maintRun; (repeat' split) <;> (simp (maxDischargeDepth := 99) only [KIss.hold, KIss.done, KIss.fault, KIss.wait, Keeps.upd, Keeps.updId, Keeps.ite, Keeps.foldl, Keeps.foldl2, Keeps.foldl3, Keeps.refl, implies_true, keeps_maintLine, *]; done)
  | succ n ih =>
    unfold maintRun
    repeat' first
      | with_reducible assumption
      | (extract_lets +onlyGivenNames z; first | ((first | refine Keeps.cut (p := Keeps b0 z) ?_ ?_ | refine Keeps.cut (p := Keeps b0 z.2) ?_ ?_ | refine Keeps.cut (p := Keeps b0 z.2.2) ?_ ?_ | refine Keeps.cut (p := Keeps b0 z.1) ?_ ?_ | refine Keeps.cut (p := Keeps b0 z.s) ?_ ?_ | refine Keeps.cut (p := Keeps b0 z.2.s) ?_ ?_ | refine Keeps.cut (p := Keeps b0 z.2.2.s) ?_ ?_); (focus (intros; dsimp only [z]; (repeat' first | (simp (maxDischargeDepth := 99) only [KIss.hold, KIss.done, KIss.fault, KIss.wait, Keeps.upd, Keeps.updId, Keeps.ite, Keeps.foldl, Keeps.foldl2, Keeps.foldl3, Keeps.refl, implies_true, keeps_maintLine, *]; done) | with_reducible apply Keeps.fold1 | with_reducible apply Keeps.fold2 | with_reducible apply Keeps.fold3 | with_reducible apply Keeps.fold21 | intro _ | split | dsimp only))); intro hz; clear_value z) | clear_value z | skip)
      | (simp (maxDischargeDepth := 99) only [KIss.hold, KIss.done, KIss.fault, KIss.wait, Keeps.upd, Keeps.updId, Keeps.ite, Keeps.foldl, Keeps.foldl2, Keeps.foldl3, Keeps.refl, implies_true, keeps_maintLine, *]; done)
      | with_reducible apply Keeps.fold1
      | with_reducible apply Keeps.fold2
      | with_reducible apply Keeps.fold3
      | with_reducible apply Keeps.fold21
      | intro _
      | (split <;> (try (rename_i heq; (first | refine Keeps.cut (Keeps.of_eq (b := b0) heq ?_) ?_ | refine Keeps.cut (Keeps.of_eq3 (b := b0) heq ?_) ?_ | refine Keeps.cut (Keeps.of_eq1 (b := b0) heq ?_) ?_ | refine Keeps.cut (Keeps.of_eq4 (b := b0) heq ?_) ?_); (focus (clear heq; (repeat' first | (simp (maxDischargeDepth := 99) only [KIss.hold, KIss.done, KIss.fault, KIss.wait, Keeps.upd, Keeps.updId, Keeps.ite, Keeps.foldl, Keeps.foldl2, Keeps.foldl3, Keeps.refl, implies_true, keeps_maintLine, *]; done) | with_reducible apply Keeps.fold1 | with_reducible apply Keeps.fold2 | with_reducible apply Keeps.fold3 | with_reducible apply Keeps.fold21 | intro _ | split | dsimp only))); intro hz; (try dsimp only at hz); clear heq)))

theorem keeps_maintEach {b0 : State} (n : Nat) {s : State} (k : Nat) (m : Maint) (hK : Keeps b0 s) :
    Keeps b0 (maintEach n s k m).1 := by
  induction n generalizing s m with
  | zero => exact hK
  | succ n ih =>
    unfold maintEach
    extract_lets hi
    split
    · exact hK
    · split
      · exact hK
      · rename_i t m' he
        refine ih _ ?_
        split at he
        · match hz : zeroLine s k m.addr hi m.pos, he with
          | some u, he =>
            cases he
            exact keeps_zeroLine _ _ _ _ hK _ hz
        · exact keeps_preloadLine _ _ _ hK _ he

theorem keeps_showMaint {b0 : State} {s : State} (k : Nat) (m : Maint) (hK : Keeps b0 s) :
    Keeps b0 (showMaint s k m) := by
  unfold showMaint; simp (maxDischargeDepth := 99) only [KIss.hold, KIss.done, KIss.fault, KIss.wait, Keeps.upd, Keeps.updId,
         Keeps.ite, Keeps.foldl, Keeps.foldl2, Keeps.foldl3, Keeps.refl, implies_true, keeps_rfset, *]

theorem keeps_maintGo {b0 : State} {s : State} (k : Nat) (hK : Keeps b0 s) :
    Keeps b0 (maintGo s k) := by
  unfold maintGo
  repeat' first
    | with_reducible assumption
    | (simp (maxDischargeDepth := 99) only [KIss.hold, KIss.done, KIss.fault, KIss.wait, Keeps.upd, Keeps.updId, Keeps.ite, Keeps.foldl, Keeps.foldl2, Keeps.foldl3, Keeps.refl, implies_true, keeps_setDcc, keeps_maintRun, keeps_maintEach, keeps_showMaint, *]; done)
    | (split <;> (try (rename_i heq; (first | refine Keeps.cut (Keeps.of_eq (b := b0) heq ?_) ?_ | refine Keeps.cut (Keeps.of_eq3 (b := b0) heq ?_) ?_ | refine Keeps.cut (Keeps.of_eq1 (b := b0) heq ?_) ?_ | refine Keeps.cut (Keeps.of_eq4 (b := b0) heq ?_) ?_); (focus (clear heq; (repeat' first | (simp (maxDischargeDepth := 99) only [KIss.hold, KIss.done, KIss.fault, KIss.wait, Keeps.upd, Keeps.updId, Keeps.ite, Keeps.foldl, Keeps.foldl2, Keeps.foldl3, Keeps.refl, implies_true, keeps_setDcc, keeps_maintRun, keeps_maintEach, keeps_showMaint, *]; done) | with_reducible apply Keeps.fold1 | with_reducible apply Keeps.fold2 | with_reducible apply Keeps.fold3 | with_reducible apply Keeps.fold21 | intro _ | split | dsimp only))); intro hz; (try dsimp only at hz); clear heq)))

theorem keeps_maintSetWay {b0 : State} {s : State} (k : Nat) (op : Nat) (first : Nat) (n : Nat) (ways : Nat) (hK : Keeps b0 s) :
    Keeps b0 (maintSetWay s k op first n ways).1 := by
  unfold maintSetWay
  repeat' first
    | with_reducible assumption
    | (extract_lets +onlyGivenNames z; first | ((first | refine Keeps.cut (p := Keeps b0 z) ?_ ?_ | refine Keeps.cut (p := Keeps b0 z.2) ?_ ?_ | refine Keeps.cut (p := Keeps b0 z.2.2) ?_ ?_ | refine Keeps.cut (p := Keeps b0 z.1) ?_ ?_ | refine Keeps.cut (p := Keeps b0 z.s) ?_ ?_ | refine Keeps.cut (p := Keeps b0 z.2.s) ?_ ?_ | refine Keeps.cut (p := Keeps b0 z.2.2.s) ?_ ?_); (focus (intros; dsimp only [z]; (repeat' first | (simp (maxDischargeDepth := 99) only [KIss.hold, KIss.done, KIss.fault, KIss.wait, Keeps.upd, Keeps.updId, Keeps.ite, Keeps.foldl, Keeps.foldl2, Keeps.foldl3, Keeps.refl, implies_true, keeps_dccDrop, keeps_dccWriteback, keeps_dccDiscard, *]; done) | with_reducible apply Keeps.fold1 | with_reducible apply Keeps.fold2 | with_reducible apply Keeps.fold3 | with_reducible apply Keeps.fold21 | intro _ | split | dsimp only))); intro hz; clear_value z) | clear_value z | skip)
    | (simp (maxDischargeDepth := 99) only [KIss.hold, KIss.done, KIss.fault, KIss.wait, Keeps.upd, Keeps.updId, Keeps.ite, Keeps.foldl, Keeps.foldl2, Keeps.foldl3, Keeps.refl, implies_true, keeps_dccDrop, keeps_dccWriteback, keeps_dccDiscard, *]; done)
    | with_reducible apply Keeps.fold1
    | with_reducible apply Keeps.fold2
    | with_reducible apply Keeps.fold3
    | with_reducible apply Keeps.fold21
    | intro _
    | (split <;> (try (rename_i heq; (first | refine Keeps.cut (Keeps.of_eq (b := b0) heq ?_) ?_ | refine Keeps.cut (Keeps.of_eq3 (b := b0) heq ?_) ?_ | refine Keeps.cut (Keeps.of_eq1 (b := b0) heq ?_) ?_ | refine Keeps.cut (Keeps.of_eq4 (b := b0) heq ?_) ?_); (focus (clear heq; (repeat' first | (simp (maxDischargeDepth := 99) only [KIss.hold, KIss.done, KIss.fault, KIss.wait, Keeps.upd, Keeps.updId, Keeps.ite, Keeps.foldl, Keeps.foldl2, Keeps.foldl3, Keeps.refl, implies_true, keeps_dccDrop, keeps_dccWriteback, keeps_dccDiscard, *]; done) | with_reducible apply Keeps.fold1 | with_reducible apply Keeps.fold2 | with_reducible apply Keeps.fold3 | with_reducible apply Keeps.fold21 | intro _ | split | dsimp only))); intro hz; (try dsimp only at hz); clear heq)))

theorem keeps_invAll {b0 : State} {s : State} (k : Nat) (hK : Keeps b0 s) :
    Keeps b0 (invAll s k) := by
  unfold invAll; simp (maxDischargeDepth := 99) only [KIss.hold, KIss.done, KIss.fault, KIss.wait, Keeps.upd, Keeps.updId,
        Keeps.ite, Keeps.foldl, Keeps.foldl2, Keeps.foldl3, Keeps.refl, implies_true, keeps_rset, keeps_setDcc, *]

theorem keeps_maintStart {b0 : State} {s : State} (k : Nat) (v : Nat) (hK : Keeps b0 s) :
    Keeps b0 (maintStart s k v) := by
  unfold maintStart; simp (maxDischargeDepth := 99) only [KIss.hold, KIss.done, KIss.fault, KIss.wait, Keeps.upd,
        Keeps.updId, Keeps.ite, Keeps.foldl, Keeps.foldl2, Keeps.foldl3, Keeps.refl, implies_true, keeps_rfset, keeps_setDcc,
         keeps_showMaint, keeps_maintGo, keeps_maintSetWay, keeps_invAll, *]

theorem keeps_maintComplete {b0 : State} {s : State} (k : Nat) (hK : Keeps b0 s) :
    Keeps b0 (maintComplete s k) := by
  unfold maintComplete; (repeat' split) <;> simp (maxDischargeDepth := 99) only [KIss.hold, KIss.done, KIss.fault, KIss.wait,
         Keeps.upd, Keeps.updId, Keeps.ite, Keeps.foldl, Keeps.foldl2, Keeps.foldl3, Keeps.refl, implies_true, keeps_rfset,
        keeps_setDcc, *]

theorem keeps_dccDisable {b0 : State} {s : State} (k : Nat) (hK : Keeps b0 s) :
    Keeps b0 (dccDisable s k) := by
  unfold dccDisable; simp (maxDischargeDepth := 99) only [KIss.hold, KIss.done, KIss.fault, KIss.wait, Keeps.upd,
        Keeps.updId, Keeps.ite, Keeps.foldl, Keeps.foldl2, Keeps.foldl3, Keeps.refl, implies_true, keeps_rfset,
        keeps_dccEvict, *]

theorem keeps_dccCtlWrite {b0 : State} {s : State} (k : Nat) (v : Nat) (hK : Keeps b0 s) :
    Keeps b0 (dccCtlWrite s k v) := by
  unfold dccCtlWrite; simp (maxDischargeDepth := 99) only [KIss.hold, KIss.done, KIss.fault, KIss.wait, Keeps.upd,
        Keeps.updId, Keeps.ite, Keeps.foldl, Keeps.foldl2, Keeps.foldl3, Keeps.refl, implies_true, keeps_rset, keeps_rfset,
        keeps_dccDisable, *]

theorem keeps_dccLockWrite {b0 : State} {s : State} (k : Nat) (v : Nat) (hK : Keeps b0 s) :
    Keeps b0 (dccLockWrite s k v) := by
  unfold dccLockWrite; simp (maxDischargeDepth := 99) only [KIss.hold, KIss.done, KIss.fault, KIss.wait, Keeps.upd,
        Keeps.updId, Keeps.ite, Keeps.foldl, Keeps.foldl2, Keeps.foldl3, Keeps.refl, implies_true, keeps_rfset, *]

theorem keeps_dccFillArrive {b0 : State} {s : State} (k : Nat) (line : Nat) (hK : Keeps b0 s) :
    Keeps b0 (dccFillArrive s k line) := by
  unfold dccFillArrive
  repeat' first
    | with_reducible assumption
    | (extract_lets +onlyGivenNames z; first | ((first | refine Keeps.cut (p := Keeps b0 z) ?_ ?_ | refine Keeps.cut (p := Keeps b0 z.2) ?_ ?_ | refine Keeps.cut (p := Keeps b0 z.2.2) ?_ ?_ | refine Keeps.cut (p := Keeps b0 z.1) ?_ ?_ | refine Keeps.cut (p := Keeps b0 z.s) ?_ ?_ | refine Keeps.cut (p := Keeps b0 z.2.s) ?_ ?_ | refine Keeps.cut (p := Keeps b0 z.2.2.s) ?_ ?_ | refine Keeps.cut (p := ∀ b y a, Keeps b y → Keeps b (z y a)) ?_ ?_ | refine Keeps.cut (p := ∀ b a y, Keeps b y → Keeps b (z a y)) ?_ ?_ | refine Keeps.cut (p := ∀ b y, Keeps b y → Keeps b (z y)) ?_ ?_ | refine Keeps.cut (p := ∀ b y a c, Keeps b y → Keeps b (z y a c)) ?_ ?_ | refine Keeps.cut (p := ∀ b y, Keeps b y → Keeps b (z y).2) ?_ ?_ | refine Keeps.cut (p := ∀ b y a, Keeps b y → Keeps b (z y a).2) ?_ ?_ | refine Keeps.cut (p := ∀ b y, Keeps b y → Keeps b (z y).2.2) ?_ ?_ | refine Keeps.cut (p := ∀ a, Keeps b0 (z a)) ?_ ?_ | refine Keeps.cut (p := ∀ a c, Keeps b0 (z a c)) ?_ ?_ | refine Keeps.cut (p := ∀ a, Keeps b0 (z a).2) ?_ ?_ | refine Keeps.cut (p := ∀ a c d, Keeps b0 (z a c d)) ?_ ?_ | refine Keeps.cut (p := ∀ a, Keeps b0 (z a).2.2) ?_ ?_); (focus (intros; dsimp only [z]; (repeat' first | (simp (maxDischargeDepth := 99) only [KIss.hold, KIss.done, KIss.fault, KIss.wait, Keeps.upd, Keeps.updId, Keeps.ite, Keeps.foldl, Keeps.foldl2, Keeps.foldl3, Keeps.refl, implies_true, keeps_toL1, keeps_setDcc, keeps_dccSetLine, keeps_dccDrop, keeps_maintGo, *]; done) | with_reducible apply Keeps.fold1 | with_reducible apply Keeps.fold2 | with_reducible apply Keeps.fold3 | with_reducible apply Keeps.fold21 | intro _ | split | dsimp only))); intro hz; clear_value z) | clear_value z | skip)
    | (simp (maxDischargeDepth := 99) only [KIss.hold, KIss.done, KIss.fault, KIss.wait, Keeps.upd, Keeps.updId, Keeps.ite, Keeps.foldl, Keeps.foldl2, Keeps.foldl3, Keeps.refl, implies_true, keeps_toL1, keeps_setDcc, keeps_dccSetLine, keeps_dccDrop, keeps_maintGo, *]; done)
    | with_reducible apply Keeps.fold1
    | with_reducible apply Keeps.fold2
    | with_reducible apply Keeps.fold3
    | with_reducible apply Keeps.fold21
    | intro _
    | (split <;> (try (rename_i heq; (first | refine Keeps.cut (Keeps.of_eq (b := b0) heq ?_) ?_ | refine Keeps.cut (Keeps.of_eq3 (b := b0) heq ?_) ?_ | refine Keeps.cut (Keeps.of_eq1 (b := b0) heq ?_) ?_ | refine Keeps.cut (Keeps.of_eq4 (b := b0) heq ?_) ?_); (focus (clear heq; (repeat' first | (simp (maxDischargeDepth := 99) only [KIss.hold, KIss.done, KIss.fault, KIss.wait, Keeps.upd, Keeps.updId, Keeps.ite, Keeps.foldl, Keeps.foldl2, Keeps.foldl3, Keeps.refl, implies_true, keeps_toL1, keeps_setDcc, keeps_dccSetLine, keeps_dccDrop, keeps_maintGo, *]; done) | with_reducible apply Keeps.fold1 | with_reducible apply Keeps.fold2 | with_reducible apply Keeps.fold3 | with_reducible apply Keeps.fold21 | intro _ | split | dsimp only))); intro hz; (try dsimp only at hz); clear heq)))

theorem keeps_landFill {b0 : State} {s : State} (k : Nat) (line : Nat) (hK : Keeps b0 s) :
    Keeps b0 (landFill s k line) := by
  unfold landFill; (repeat' split) <;> simp (maxDischargeDepth := 99) only [KIss.hold, KIss.done, KIss.fault, KIss.wait,
        Keeps.upd, Keeps.updId, Keeps.ite, Keeps.foldl, Keeps.foldl2, Keeps.foldl3, Keeps.refl, implies_true,
        keeps_stackReturn, keeps_settle, keeps_dccFillArrive, *]

theorem keeps_dccRoom {b0 : State} {s : State} (k : Nat) (hK : Keeps b0 s) :
    Keeps b0 (dccRoom s k) := by
  unfold dccRoom; (repeat' split) <;> simp (maxDischargeDepth := 99) only [KIss.hold, KIss.done, KIss.fault, KIss.wait,
        Keeps.upd, Keeps.updId, Keeps.ite, Keeps.foldl, Keeps.foldl2, Keeps.foldl3, Keeps.refl, implies_true, keeps_landFill,
         *]

theorem keeps_dccRangeNow {b0 : State} {s : State} (k : Nat) (op : Nat) (lo : Nat) (hi : Nat) (hK : Keeps b0 s) :
    Keeps b0 (dccRangeNow s k op lo hi) := by
  unfold dccRangeNow; simp (maxDischargeDepth := 99) only [KIss.hold, KIss.done, KIss.fault, KIss.wait, Keeps.upd,
        Keeps.updId, Keeps.ite, Keeps.foldl, Keeps.foldl2, Keeps.foldl3, Keeps.refl, implies_true, keeps_maintLine,
        keeps_landFill, *]

theorem keeps_dccReadNow {b0 : State} {s : State} (k : Nat) (requester : Nat) (line : Nat) (need : Nat) (direct : Bool) (hK : Keeps b0 s) :
    Keeps b0 (dccReadNow s k requester line need direct).2.2 := by
  unfold dccReadNow
  repeat' first
    | with_reducible assumption
    | (extract_lets +onlyGivenNames z; first | ((first | refine Keeps.cut (p := Keeps b0 z) ?_ ?_ | refine Keeps.cut (p := Keeps b0 z.2) ?_ ?_ | refine Keeps.cut (p := Keeps b0 z.2.2) ?_ ?_ | refine Keeps.cut (p := Keeps b0 z.1) ?_ ?_ | refine Keeps.cut (p := Keeps b0 z.s) ?_ ?_ | refine Keeps.cut (p := Keeps b0 z.2.s) ?_ ?_ | refine Keeps.cut (p := Keeps b0 z.2.2.s) ?_ ?_); (focus (intros; dsimp only [z]; (repeat' first | (simp (maxDischargeDepth := 99) only [KIss.hold, KIss.done, KIss.fault, KIss.wait, Keeps.upd, Keeps.updId, Keeps.ite, Keeps.foldl, Keeps.foldl2, Keeps.foldl3, Keeps.refl, implies_true, keeps_count, keeps_ncReadNow, keeps_dccSetLine, keeps_dccTouch, keeps_dccTrain, keeps_dccEvict, keeps_dccHit, keeps_landFill, keeps_dccRoom, *]; done) | with_reducible apply Keeps.fold1 | with_reducible apply Keeps.fold2 | with_reducible apply Keeps.fold3 | with_reducible apply Keeps.fold21 | intro _ | split | dsimp only))); intro hz; clear_value z) | clear_value z | skip)
    | (simp (maxDischargeDepth := 99) only [KIss.hold, KIss.done, KIss.fault, KIss.wait, Keeps.upd, Keeps.updId, Keeps.ite, Keeps.foldl, Keeps.foldl2, Keeps.foldl3, Keeps.refl, implies_true, keeps_count, keeps_ncReadNow, keeps_dccSetLine, keeps_dccTouch, keeps_dccTrain, keeps_dccEvict, keeps_dccHit, keeps_landFill, keeps_dccRoom, *]; done)
    | with_reducible apply Keeps.fold1
    | with_reducible apply Keeps.fold2
    | with_reducible apply Keeps.fold3
    | with_reducible apply Keeps.fold21
    | intro _
    | (split <;> (try (rename_i heq; (first | refine Keeps.cut (Keeps.of_eq (b := b0) heq ?_) ?_ | refine Keeps.cut (Keeps.of_eq3 (b := b0) heq ?_) ?_ | refine Keeps.cut (Keeps.of_eq1 (b := b0) heq ?_) ?_ | refine Keeps.cut (Keeps.of_eq4 (b := b0) heq ?_) ?_ | refine Keeps.cut (keeps_dccAlloc (b0 := b0) _ _ _ ?_ _ heq) ?_); (focus (clear heq; (repeat' first | (simp (maxDischargeDepth := 99) only [KIss.hold, KIss.done, KIss.fault, KIss.wait, Keeps.upd, Keeps.updId, Keeps.ite, Keeps.foldl, Keeps.foldl2, Keeps.foldl3, Keeps.refl, implies_true, keeps_count, keeps_ncReadNow, keeps_dccSetLine, keeps_dccTouch, keeps_dccTrain, keeps_dccEvict, keeps_dccHit, keeps_landFill, keeps_dccRoom, *]; done) | with_reducible apply Keeps.fold1 | with_reducible apply Keeps.fold2 | with_reducible apply Keeps.fold3 | with_reducible apply Keeps.fold21 | intro _ | split | dsimp only))); intro hz; (try dsimp only at hz); clear heq)))

theorem keeps_dccWriteNow {b0 : State} {s : State} (k : Nat) (requester : Nat) (line : Nat) (bs : Map Byte) (direct : Bool) (streaming : Bool) (hK : Keeps b0 s) :
    Keeps b0 (dccWriteNow s k requester line bs direct streaming) := by
  unfold dccWriteNow
  repeat' first
    | with_reducible assumption
    | (extract_lets +onlyGivenNames z; first | ((first | refine Keeps.cut (p := Keeps b0 z) ?_ ?_ | refine Keeps.cut (p := Keeps b0 z.2) ?_ ?_ | refine Keeps.cut (p := Keeps b0 z.2.2) ?_ ?_ | refine Keeps.cut (p := Keeps b0 z.1) ?_ ?_ | refine Keeps.cut (p := Keeps b0 z.s) ?_ ?_ | refine Keeps.cut (p := Keeps b0 z.2.s) ?_ ?_ | refine Keeps.cut (p := Keeps b0 z.2.2.s) ?_ ?_); (focus (intros; dsimp only [z]; (repeat' first | (simp (maxDischargeDepth := 99) only [KIss.hold, KIss.done, KIss.fault, KIss.wait, Keeps.upd, Keeps.updId, Keeps.ite, Keeps.foldl, Keeps.foldl2, Keeps.foldl3, Keeps.refl, implies_true, keeps_count, keeps_ncWriteNow, keeps_dccSetLine, keeps_dccTouch, keeps_dccPlace, keeps_dccWriteback, keeps_dccTrain, keeps_dccHit, *]; done) | with_reducible apply Keeps.fold1 | with_reducible apply Keeps.fold2 | with_reducible apply Keeps.fold3 | with_reducible apply Keeps.fold21 | intro _ | split | dsimp only))); intro hz; clear_value z) | clear_value z | skip)
    | (simp (maxDischargeDepth := 99) only [KIss.hold, KIss.done, KIss.fault, KIss.wait, Keeps.upd, Keeps.updId, Keeps.ite, Keeps.foldl, Keeps.foldl2, Keeps.foldl3, Keeps.refl, implies_true, keeps_count, keeps_ncWriteNow, keeps_dccSetLine, keeps_dccTouch, keeps_dccPlace, keeps_dccWriteback, keeps_dccTrain, keeps_dccHit, *]; done)
    | with_reducible apply Keeps.fold1
    | with_reducible apply Keeps.fold2
    | with_reducible apply Keeps.fold3
    | with_reducible apply Keeps.fold21
    | intro _
    | (split <;> (try (rename_i heq; (first | refine Keeps.cut (Keeps.of_eq (b := b0) heq ?_) ?_ | refine Keeps.cut (Keeps.of_eq3 (b := b0) heq ?_) ?_ | refine Keeps.cut (Keeps.of_eq1 (b := b0) heq ?_) ?_ | refine Keeps.cut (Keeps.of_eq4 (b := b0) heq ?_) ?_ | refine Keeps.cut (keeps_dccAlloc (b0 := b0) _ _ _ ?_ _ heq) ?_); (focus (clear heq; (repeat' first | (simp (maxDischargeDepth := 99) only [KIss.hold, KIss.done, KIss.fault, KIss.wait, Keeps.upd, Keeps.updId, Keeps.ite, Keeps.foldl, Keeps.foldl2, Keeps.foldl3, Keeps.refl, implies_true, keeps_count, keeps_ncWriteNow, keeps_dccSetLine, keeps_dccTouch, keeps_dccPlace, keeps_dccWriteback, keeps_dccTrain, keeps_dccHit, *]; done) | with_reducible apply Keeps.fold1 | with_reducible apply Keeps.fold2 | with_reducible apply Keeps.fold3 | with_reducible apply Keeps.fold21 | intro _ | split | dsimp only))); intro hz; (try dsimp only at hz); clear heq)))

theorem keeps_engXlate {b0 : State} {s : State} (by_ : EngBy) (va : Nat) (len : Nat) (n : Need) (hK : Keeps b0 s) :
    Keeps b0 (engXlate s by_ va len n).2.2 := by
  unfold engXlate
  repeat' first
    | with_reducible assumption
    | (extract_lets +onlyGivenNames z; first | ((first | refine Keeps.cut (p := Keeps b0 z) ?_ ?_ | refine Keeps.cut (p := Keeps b0 z.2) ?_ ?_ | refine Keeps.cut (p := Keeps b0 z.2.2) ?_ ?_ | refine Keeps.cut (p := Keeps b0 z.1) ?_ ?_ | refine Keeps.cut (p := Keeps b0 z.s) ?_ ?_ | refine Keeps.cut (p := Keeps b0 z.2.s) ?_ ?_ | refine Keeps.cut (p := Keeps b0 z.2.2.s) ?_ ?_); (focus (intros; dsimp only [z]; (repeat' first | (simp (maxDischargeDepth := 99) only [KIss.hold, KIss.done, KIss.fault, KIss.wait, Keeps.upd, Keeps.updId, Keeps.ite, Keeps.foldl, Keeps.foldl2, Keeps.foldl3, Keeps.refl, implies_true, keeps_translate, *]; done) | with_reducible apply Keeps.fold1 | with_reducible apply Keeps.fold2 | with_reducible apply Keeps.fold3 | with_reducible apply Keeps.fold21 | intro _ | split | dsimp only))); intro hz; clear_value z) | clear_value z | skip)
    | (simp (maxDischargeDepth := 99) only [KIss.hold, KIss.done, KIss.fault, KIss.wait, Keeps.upd, Keeps.updId, Keeps.ite, Keeps.foldl, Keeps.foldl2, Keeps.foldl3, Keeps.refl, implies_true, keeps_translate, *]; done)
    | with_reducible apply Keeps.fold1
    | with_reducible apply Keeps.fold2
    | with_reducible apply Keeps.fold3
    | with_reducible apply Keeps.fold21
    | intro _
    | (split <;> (try (rename_i heq; (first | refine Keeps.cut (Keeps.of_eq (b := b0) heq ?_) ?_ | refine Keeps.cut (Keeps.of_eq3 (b := b0) heq ?_) ?_ | refine Keeps.cut (Keeps.of_eq1 (b := b0) heq ?_) ?_ | refine Keeps.cut (Keeps.of_eq4 (b := b0) heq ?_) ?_); (focus (clear heq; (repeat' first | (simp (maxDischargeDepth := 99) only [KIss.hold, KIss.done, KIss.fault, KIss.wait, Keeps.upd, Keeps.updId, Keeps.ite, Keeps.foldl, Keeps.foldl2, Keeps.foldl3, Keeps.refl, implies_true, keeps_translate, *]; done) | with_reducible apply Keeps.fold1 | with_reducible apply Keeps.fold2 | with_reducible apply Keeps.fold3 | with_reducible apply Keeps.fold21 | intro _ | split | dsimp only))); intro hz; (try dsimp only at hz); clear heq)))

theorem keeps_engRead {b0 : State} {s : State} (by_ : EngBy) (va : Nat) (len : Nat) (hK : Keeps b0 s) :
    Keeps b0 (engRead s by_ va len).2.2 := by
  unfold engRead
  repeat' first
    | with_reducible assumption
    | (extract_lets +onlyGivenNames z; first | ((first | refine Keeps.cut (p := Keeps b0 z) ?_ ?_ | refine Keeps.cut (p := Keeps b0 z.2) ?_ ?_ | refine Keeps.cut (p := Keeps b0 z.2.2) ?_ ?_ | refine Keeps.cut (p := Keeps b0 z.1) ?_ ?_ | refine Keeps.cut (p := Keeps b0 z.s) ?_ ?_ | refine Keeps.cut (p := Keeps b0 z.2.s) ?_ ?_ | refine Keeps.cut (p := Keeps b0 z.2.2.s) ?_ ?_); (focus (intros; dsimp only [z]; (repeat' first | (simp (maxDischargeDepth := 99) only [KIss.hold, KIss.done, KIss.fault, KIss.wait, Keeps.upd, Keeps.updId, Keeps.ite, Keeps.foldl, Keeps.foldl2, Keeps.foldl3, Keeps.refl, implies_true, keeps_drpSeen, keeps_dccReadNow, keeps_engXlate, *]; done) | with_reducible apply Keeps.fold1 | with_reducible apply Keeps.fold2 | with_reducible apply Keeps.fold3 | with_reducible apply Keeps.fold21 | intro _ | split | dsimp only))); intro hz; clear_value z) | clear_value z | skip)
    | (simp (maxDischargeDepth := 99) only [KIss.hold, KIss.done, KIss.fault, KIss.wait, Keeps.upd, Keeps.updId, Keeps.ite, Keeps.foldl, Keeps.foldl2, Keeps.foldl3, Keeps.refl, implies_true, keeps_drpSeen, keeps_dccReadNow, keeps_engXlate, *]; done)
    | with_reducible apply Keeps.fold1
    | with_reducible apply Keeps.fold2
    | with_reducible apply Keeps.fold3
    | with_reducible apply Keeps.fold21
    | intro _
    | (split <;> (try (rename_i heq; (first | refine Keeps.cut (Keeps.of_eq (b := b0) heq ?_) ?_ | refine Keeps.cut (Keeps.of_eq3 (b := b0) heq ?_) ?_ | refine Keeps.cut (Keeps.of_eq1 (b := b0) heq ?_) ?_ | refine Keeps.cut (Keeps.of_eq4 (b := b0) heq ?_) ?_); (focus (clear heq; (repeat' first | (simp (maxDischargeDepth := 99) only [KIss.hold, KIss.done, KIss.fault, KIss.wait, Keeps.upd, Keeps.updId, Keeps.ite, Keeps.foldl, Keeps.foldl2, Keeps.foldl3, Keeps.refl, implies_true, keeps_drpSeen, keeps_dccReadNow, keeps_engXlate, *]; done) | with_reducible apply Keeps.fold1 | with_reducible apply Keeps.fold2 | with_reducible apply Keeps.fold3 | with_reducible apply Keeps.fold21 | intro _ | split | dsimp only))); intro hz; (try dsimp only at hz); clear heq)))

theorem keeps_engWrite {b0 : State} {s : State} (by_ : EngBy) (va : Nat) (data : List Byte) (hK : Keeps b0 s) :
    Keeps b0 (engWrite s by_ va data).2 := by
  unfold engWrite
  repeat' first
    | with_reducible assumption
    | (extract_lets +onlyGivenNames z; first | ((first | refine Keeps.cut (p := Keeps b0 z) ?_ ?_ | refine Keeps.cut (p := Keeps b0 z.2) ?_ ?_ | refine Keeps.cut (p := Keeps b0 z.2.2) ?_ ?_ | refine Keeps.cut (p := Keeps b0 z.1) ?_ ?_ | refine Keeps.cut (p := Keeps b0 z.s) ?_ ?_ | refine Keeps.cut (p := Keeps b0 z.2.s) ?_ ?_ | refine Keeps.cut (p := Keeps b0 z.2.2.s) ?_ ?_); (focus (intros; dsimp only [z]; (repeat' first | (simp (maxDischargeDepth := 99) only [KIss.hold, KIss.done, KIss.fault, KIss.wait, Keeps.upd, Keeps.updId, Keeps.ite, Keeps.foldl, Keeps.foldl2, Keeps.foldl3, Keeps.refl, implies_true, keeps_grtPut, keeps_dccWriteNow, keeps_engXlate, *]; done) | with_reducible apply Keeps.fold1 | with_reducible apply Keeps.fold2 | with_reducible apply Keeps.fold3 | with_reducible apply Keeps.fold21 | intro _ | split | dsimp only))); intro hz; clear_value z) | clear_value z | skip)
    | (simp (maxDischargeDepth := 99) only [KIss.hold, KIss.done, KIss.fault, KIss.wait, Keeps.upd, Keeps.updId, Keeps.ite, Keeps.foldl, Keeps.foldl2, Keeps.foldl3, Keeps.refl, implies_true, keeps_grtPut, keeps_dccWriteNow, keeps_engXlate, *]; done)
    | with_reducible apply Keeps.fold1
    | with_reducible apply Keeps.fold2
    | with_reducible apply Keeps.fold3
    | with_reducible apply Keeps.fold21
    | intro _
    | (split <;> (try (rename_i heq; (first | refine Keeps.cut (Keeps.of_eq (b := b0) heq ?_) ?_ | refine Keeps.cut (Keeps.of_eq3 (b := b0) heq ?_) ?_ | refine Keeps.cut (Keeps.of_eq1 (b := b0) heq ?_) ?_ | refine Keeps.cut (Keeps.of_eq4 (b := b0) heq ?_) ?_); (focus (clear heq; (repeat' first | (simp (maxDischargeDepth := 99) only [KIss.hold, KIss.done, KIss.fault, KIss.wait, Keeps.upd, Keeps.updId, Keeps.ite, Keeps.foldl, Keeps.foldl2, Keeps.foldl3, Keeps.refl, implies_true, keeps_grtPut, keeps_dccWriteNow, keeps_engXlate, *]; done) | with_reducible apply Keeps.fold1 | with_reducible apply Keeps.fold2 | with_reducible apply Keeps.fold3 | with_reducible apply Keeps.fold21 | intro _ | split | dsimp only))); intro hz; (try dsimp only at hz); clear heq)))

theorem keeps_engAdd {b0 : State} {s : State} (by_ : EngBy) (va : Nat) (v : Nat) (hK : Keeps b0 s) :
    Keeps b0 (engAdd s by_ va v).2 := by
  unfold engAdd
  repeat' first
    | with_reducible assumption
    | (simp (maxDischargeDepth := 99) only [KIss.hold, KIss.done, KIss.fault, KIss.wait, Keeps.upd, Keeps.updId, Keeps.ite, Keeps.foldl, Keeps.foldl2, Keeps.foldl3, Keeps.refl, implies_true, keeps_busAtomic, keeps_translate, keeps_dccEvict, *]; done)
    | (split <;> (try (rename_i heq; (first | refine Keeps.cut (Keeps.of_eq (b := b0) heq ?_) ?_ | refine Keeps.cut (Keeps.of_eq3 (b := b0) heq ?_) ?_ | refine Keeps.cut (Keeps.of_eq1 (b := b0) heq ?_) ?_ | refine Keeps.cut (Keeps.of_eq4 (b := b0) heq ?_) ?_); (focus (clear heq; (repeat' first | (simp (maxDischargeDepth := 99) only [KIss.hold, KIss.done, KIss.fault, KIss.wait, Keeps.upd, Keeps.updId, Keeps.ite, Keeps.foldl, Keeps.foldl2, Keeps.foldl3, Keeps.refl, implies_true, keeps_busAtomic, keeps_translate, keeps_dccEvict, *]; done) | with_reducible apply Keeps.fold1 | with_reducible apply Keeps.fold2 | with_reducible apply Keeps.fold3 | with_reducible apply Keeps.fold21 | intro _ | split | dsimp only))); intro hz; (try dsimp only at hz); clear heq)))

end Sys2Proof.Machine
end

