-- ==== Sys2Proof/Laws/KeepsUszon.lean ====
section
/-!
SUPPORT. `keeps_f`, for each operation f of the host queues, the mailboxes, jobs, start-up, Uszon and the sideband: what it answers keeps what `Keeps` says. A lemma about a meaning speaks of
every next state that it answers.
-/
set_option linter.unusedSimpArgs false
set_option linter.unusedVariables false
set_option linter.tactic.unusedName false
namespace Sys2Proof.Machine

theorem keeps_post {b0 : State} {s : State} (p : HostPost) (hK : Keeps b0 s) :
    Keeps b0 (post s p) := by
  unfold post; simp (maxDischargeDepth := 99) only [KIss.hold, KIss.done, KIss.fault, KIss.wait, Keeps.upd, Keeps.updId,
        Keeps.ite, Keeps.foldl, Keeps.foldl2, Keeps.foldl3, Keeps.refl, implies_true, *]

theorem keeps_postWrite {b0 : State} {s : State} (addr : Nat) (data : List Byte) (hK : Keeps b0 s) :
    Keeps b0 (postWrite s addr data) := by
  unfold postWrite; simp (maxDischargeDepth := 99) only [KIss.hold, KIss.done, KIss.fault, KIss.wait, Keeps.upd, Keeps.updId,
         Keeps.ite, Keeps.foldl, Keeps.foldl2, Keeps.foldl3, Keeps.refl, implies_true, keeps_count, keeps_post, *]

theorem keeps_msixSend {b0 : State} {s : State} (v : Nat) (hK : Keeps b0 s) :
    Keeps b0 (msixSend s v) := by
  unfold msixSend; simp (maxDischargeDepth := 99) only [KIss.hold, KIss.done, KIss.fault, KIss.wait, Keeps.upd, Keeps.updId,
        Keeps.ite, Keeps.foldl, Keeps.foldl2, Keeps.foldl3, Keeps.refl, implies_true, keeps_count, keeps_post, *]

theorem keeps_mctpSend {b0 : State} {s : State} (dst : Byte) (msg : List Byte) (hK : Keeps b0 s) :
    Keeps b0 (mctpSend s dst msg) := by
  unfold mctpSend; simp (maxDischargeDepth := 99) only [KIss.hold, KIss.done, KIss.fault, KIss.wait, Keeps.upd, Keeps.updId,
        Keeps.ite, Keeps.foldl, Keeps.foldl2, Keeps.foldl3, Keeps.refl, implies_true, keeps_count, keeps_post, *]

theorem keeps_msix {b0 : State} {s : State} (v : Nat) (hK : Keeps b0 s) :
    Keeps b0 (msix s v) := by
  unfold msix; simp (maxDischargeDepth := 99) only [KIss.hold, KIss.done, KIss.fault, KIss.wait, Keeps.upd, Keeps.updId,
        Keeps.ite, Keeps.foldl, Keeps.foldl2, Keeps.foldl3, Keeps.refl, implies_true, keeps_msixSend, *]

theorem keeps_msixFlush {b0 : State} {s : State} (hK : Keeps b0 s) :
    Keeps b0 (msixFlush s) := by
  unfold msixFlush; simp (maxDischargeDepth := 99) only [KIss.hold, KIss.done, KIss.fault, KIss.wait, Keeps.upd, Keeps.updId,
         Keeps.ite, Keeps.foldl, Keeps.foldl2, Keeps.foldl3, Keeps.refl, implies_true, keeps_msixSend, *]

theorem keeps_deepIdleExit {b0 : State} {s : State} (hK : Keeps b0 s) :
    Keeps b0 (deepIdleExit s) := by
  unfold deepIdleExit; simp (maxDischargeDepth := 99) only [KIss.hold, KIss.done, KIss.fault, KIss.wait, Keeps.upd,
        Keeps.updId, Keeps.ite, Keeps.foldl, Keeps.foldl2, Keeps.foldl3, Keeps.refl, implies_true, keeps_rfset, *]

theorem keeps_mbxSet {b0 : State} {s : State} (m : Nat) (hi : Nat) (lo : Nat) (v : Nat) (hK : Keeps b0 s) :
    Keeps b0 (mbxSet s m hi lo v) := by
  unfold mbxSet; simp (maxDischargeDepth := 99) only [KIss.hold, KIss.done, KIss.fault, KIss.wait, Keeps.upd, Keeps.updId,
        Keeps.ite, Keeps.foldl, Keeps.foldl2, Keeps.foldl3, Keeps.refl, implies_true, keeps_rfset, *]

theorem keeps_mbxPut {b0 : State} {s : State} (m : Nat) (bs : List Byte) (hK : Keeps b0 s) :
    Keeps b0 (mbxPut s m bs) := by
  unfold mbxPut; simp (maxDischargeDepth := 99) only [KIss.hold, KIss.done, KIss.fault, KIss.wait, Keeps.upd, Keeps.updId,
        Keeps.ite, Keeps.foldl, Keeps.foldl2, Keeps.foldl3, Keeps.refl, implies_true, keeps_rset, *]

theorem keeps_mctpRespond {b0 : State} {s : State} (hK : Keeps b0 s) :
    Keeps b0 (mctpRespond s) := by
  unfold mctpRespond; (repeat' split) <;> simp (maxDischargeDepth := 99) only [KIss.hold, KIss.done, KIss.fault, KIss.wait,
        Keeps.upd, Keeps.updId, Keeps.ite, Keeps.foldl, Keeps.foldl2, Keeps.foldl3, Keeps.refl, implies_true, keeps_mctpSend,
         *]

theorem keeps_mbxNotify {b0 : State} {s : State} (m : Nat) (hK : Keeps b0 s) :
    Keeps b0 (mbxNotify s m) := by
  unfold mbxNotify; simp (maxDischargeDepth := 99) only [KIss.hold, KIss.done, KIss.fault, KIss.wait, Keeps.upd, Keeps.updId,
         Keeps.ite, Keeps.foldl, Keeps.foldl2, Keeps.foldl3, Keeps.refl, implies_true, keeps_devWrite, keeps_msix,
        keeps_mctpRespond, *]

theorem keeps_mbxFinish {b0 : State} {s : State} (m : Nat) (code : Nat) (resp : List Byte) (hK : Keeps b0 s) :
    Keeps b0 (mbxFinish s m code resp) := by
  unfold mbxFinish; simp (maxDischargeDepth := 99) only [KIss.hold, KIss.done, KIss.fault, KIss.wait, Keeps.upd, Keeps.updId,
         Keeps.ite, Keeps.foldl, Keeps.foldl2, Keeps.foldl3, Keeps.refl, implies_true, keeps_rfset, keeps_mbxSet,
        keeps_mbxPut, keeps_mbxNotify, *]

theorem keeps_setHq {b0 : State} {s : State} (q : Nat) (h : HostQueue) (hK : Keeps b0 s) :
    Keeps b0 (setHq s q h) := by
  unfold setHq; simp (maxDischargeDepth := 99) only [KIss.hold, KIss.done, KIss.fault, KIss.wait, Keeps.upd, Keeps.updId,
        Keeps.ite, Keeps.foldl, Keeps.foldl2, Keeps.foldl3, Keeps.refl, implies_true, *]

theorem keeps_hqSignal {b0 : State} {s : State} (q : Nat) (hK : Keeps b0 s) :
    Keeps b0 (hqSignal s q) := by
  unfold hqSignal; simp (maxDischargeDepth := 99) only [KIss.hold, KIss.done, KIss.fault, KIss.wait, Keeps.upd, Keeps.updId,
        Keeps.ite, Keeps.foldl, Keeps.foldl2, Keeps.foldl3, Keeps.refl, implies_true, keeps_msix, keeps_setHq, *]

theorem keeps_hqEntry {b0 : State} {s : State} (q : Nat) (c : HostCmd) (code : Nat) (info : Nat) (hK : Keeps b0 s) :
    Keeps b0 (hqEntry s q c code info) := by
  unfold hqEntry; simp (maxDischargeDepth := 99) only [KIss.hold, KIss.done, KIss.fault, KIss.wait, Keeps.upd, Keeps.updId,
        Keeps.ite, Keeps.foldl, Keeps.foldl2, Keeps.foldl3, Keeps.refl, implies_true, keeps_rfset, keeps_postWrite,
        keeps_setHq, keeps_hqSignal, *]

theorem keeps_hqRetire {b0 : State} (x0 : Nat) {x1 : State} (x2 : Nat) (hK : Keeps b0 x1) :
    Keeps b0 (hqRetire x0 x1 x2) := by
  induction x0 generalizing b0 x1 x2 with
  | zero => unfold hqRetire; (repeat' split) <;> (simp (maxDischargeDepth := 99) only [KIss.hold, KIss.done, KIss.fault, KIss.wait, Keeps.upd, Keeps.updId, Keeps.ite, Keeps.foldl, Keeps.foldl2, Keeps.foldl3, Keeps.refl, implies_true, keeps_setHq, keeps_hqEntry, *]; done)
  | succ n ih =>
    unfold hqRetire
    repeat' first
      | with_reducible assumption
      | (extract_lets +onlyGivenNames z; first | ((first | refine Keeps.cut (p := Keeps b0 z) ?_ ?_ | refine Keeps.cut (p := Keeps b0 z.2) ?_ ?_ | refine Keeps.cut (p := Keeps b0 z.2.2) ?_ ?_ | refine Keeps.cut (p := Keeps b0 z.1) ?_ ?_ | refine Keeps.cut (p := Keeps b0 z.s) ?_ ?_ | refine Keeps.cut (p := Keeps b0 z.2.s) ?_ ?_ | refine Keeps.cut (p := Keeps b0 z.2.2.s) ?_ ?_); (focus (intros; dsimp only [z]; (repeat' first | (simp (maxDischargeDepth := 99) only [KIss.hold, KIss.done, KIss.fault, KIss.wait, Keeps.upd, Keeps.updId, Keeps.ite, Keeps.foldl, Keeps.foldl2, Keeps.foldl3, Keeps.refl, implies_true, keeps_setHq, keeps_hqEntry, *]; done) | with_reducible apply Keeps.fold1 | with_reducible apply Keeps.fold2 | with_reducible apply Keeps.fold3 | with_reducible apply Keeps.fold21 | intro _ | split | dsimp only))); intro hz; clear_value z) | clear_value z | skip)
      | (simp (maxDischargeDepth := 99) only [KIss.hold, KIss.done, KIss.fault, KIss.wait, Keeps.upd, Keeps.updId, Keeps.ite, Keeps.foldl, Keeps.foldl2, Keeps.foldl3, Keeps.refl, implies_true, keeps_setHq, keeps_hqEntry, *]; done)
      | with_reducible apply Keeps.fold1
      | with_reducible apply Keeps.fold2
      | with_reducible apply Keeps.fold3
      | with_reducible apply Keeps.fold21
      | intro _
      | (split <;> (try (rename_i heq; (first | refine Keeps.cut (Keeps.of_eq (b := b0) heq ?_) ?_ | refine Keeps.cut (Keeps.of_eq3 (b := b0) heq ?_) ?_ | refine Keeps.cut (Keeps.of_eq1 (b := b0) heq ?_) ?_ | refine Keeps.cut (Keeps.of_eq4 (b := b0) heq ?_) ?_); (focus (clear heq; (repeat' first | (simp (maxDischargeDepth := 99) only [KIss.hold, KIss.done, KIss.fault, KIss.wait, Keeps.upd, Keeps.updId, Keeps.ite, Keeps.foldl, Keeps.foldl2, Keeps.foldl3, Keeps.refl, implies_true, keeps_setHq, keeps_hqEntry, *]; done) | with_reducible apply Keeps.fold1 | with_reducible apply Keeps.fold2 | with_reducible apply Keeps.fold3 | with_reducible apply Keeps.fold21 | intro _ | split | dsimp only))); intro hz; (try dsimp only at hz); clear heq)))

theorem keeps_hqRetireAll {b0 : State} {s : State} (q : Nat) (hK : Keeps b0 s) :
    Keeps b0 (hqRetireAll s q) := by
  unfold hqRetireAll; simp (maxDischargeDepth := 99) only [KIss.hold, KIss.done, KIss.fault, KIss.wait, Keeps.upd,
        Keeps.updId, Keeps.ite, Keeps.foldl, Keeps.foldl2, Keeps.foldl3, Keeps.refl, implies_true, keeps_hqRetire, *]

theorem keeps_hqUpdate {b0 : State} {s : State} (q : Nat) (idx : Nat) (f : HostCmd → HostCmd) (hK : Keeps b0 s) :
    Keeps b0 (hqUpdate s q idx f) := by
  unfold hqUpdate; simp (maxDischargeDepth := 99) only [KIss.hold, KIss.done, KIss.fault, KIss.wait, Keeps.upd, Keeps.updId,
        Keeps.ite, Keeps.foldl, Keeps.foldl2, Keeps.foldl3, Keeps.refl, implies_true, keeps_setHq, *]

theorem keeps_hqFinish {b0 : State} {s : State} (q : Nat) (idx : Nat) (code : Nat) (info : Nat) (hK : Keeps b0 s) :
    Keeps b0 (hqFinish s q idx code info) := by
  unfold hqFinish; simp (maxDischargeDepth := 99) only [KIss.hold, KIss.done, KIss.fault, KIss.wait, Keeps.upd, Keeps.updId,
        Keeps.ite, Keeps.foldl, Keeps.foldl2, Keeps.foldl3, Keeps.refl, implies_true, keeps_hqRetireAll, keeps_hqUpdate, *]

theorem keeps_hqIssueReads {b0 : State} (n : Nat) {s : State} (q idx : Nat) (hK : Keeps b0 s) :
    Keeps b0 (hqIssueReads n s q idx) := by
  induction n generalizing s with
  | zero => exact hK
  | succ n ih =>
    unfold hqIssueReads
    split
    · exact hK
    · extract_lets len ha k tag s1 s2
      split
      · exact hK
      · refine ih (keeps_hqUpdate _ _ _ (keeps_post _ ?_))
        exact hK.updId

theorem keeps_hqReadsGoOn {b0 : State} {s : State} (hK : Keeps b0 s) :
    Keeps b0 (hqReadsGoOn s) := by
  unfold hqReadsGoOn; simp (maxDischargeDepth := 99) only [KIss.hold, KIss.done, KIss.fault, KIss.wait, Keeps.upd,
        Keeps.updId, Keeps.ite, Keeps.foldl, Keeps.foldl2, Keeps.foldl3, Keeps.refl, implies_true, keeps_hqIssueReads, *]

theorem keeps_hqD2H {b0 : State} (x0 : Nat) {x1 : State} (x2 : Nat) (x3 : Nat) (x4 : Nat) (x5 : Nat) (hK : Keeps b0 x1) :
    Keeps b0 (hqD2H x0 x1 x2 x3 x4 x5).2.2 := by
  induction x0 generalizing b0 x1 x2 x3 x4 x5 with
  | zero => unfold hqD2H; (repeat' split) <;> (simp (maxDischargeDepth := 99) only [KIss.hold, KIss.done, KIss.fault, KIss.wait, Keeps.upd, Keeps.updId, Keeps.ite, Keeps.foldl, Keeps.foldl2, Keeps.foldl3, Keeps.refl, implies_true, keeps_devRead, keeps_postWrite, *]; done)
  | succ n ih =>
    unfold hqD2H
    repeat' first
      | with_reducible assumption
      | (extract_lets +onlyGivenNames z; first | ((first | refine Keeps.cut (p := Keeps b0 z) ?_ ?_ | refine Keeps.cut (p := Keeps b0 z.2) ?_ ?_ | refine Keeps.cut (p := Keeps b0 z.2.2) ?_ ?_ | refine Keeps.cut (p := Keeps b0 z.1) ?_ ?_ | refine Keeps.cut (p := Keeps b0 z.s) ?_ ?_ | refine Keeps.cut (p := Keeps b0 z.2.s) ?_ ?_ | refine Keeps.cut (p := Keeps b0 z.2.2.s) ?_ ?_); (focus (intros; dsimp only [z]; (repeat' first | (simp (maxDischargeDepth := 99) only [KIss.hold, KIss.done, KIss.fault, KIss.wait, Keeps.upd, Keeps.updId, Keeps.ite, Keeps.foldl, Keeps.foldl2, Keeps.foldl3, Keeps.refl, implies_true, keeps_devRead, keeps_postWrite, *]; done) | with_reducible apply Keeps.fold1 | with_reducible apply Keeps.fold2 | with_reducible apply Keeps.fold3 | with_reducible apply Keeps.fold21 | intro _ | split | dsimp only))); intro hz; clear_value z) | clear_value z | skip)
      | (simp (maxDischargeDepth := 99) only [KIss.hold, KIss.done, KIss.fault, KIss.wait, Keeps.upd, Keeps.updId, Keeps.ite, Keeps.foldl, Keeps.foldl2, Keeps.foldl3, Keeps.refl, implies_true, keeps_devRead, keeps_postWrite, *]; done)
      | with_reducible apply Keeps.fold1
      | with_reducible apply Keeps.fold2
      | with_reducible apply Keeps.fold3
      | with_reducible apply Keeps.fold21
      | intro _
      | (split <;> (try (rename_i heq; (first | refine Keeps.cut (Keeps.of_eq (b := b0) heq ?_) ?_ | refine Keeps.cut (Keeps.of_eq3 (b := b0) heq ?_) ?_ | refine Keeps.cut (Keeps.of_eq1 (b := b0) heq ?_) ?_ | refine Keeps.cut (Keeps.of_eq4 (b := b0) heq ?_) ?_); (focus (clear heq; (repeat' first | (simp (maxDischargeDepth := 99) only [KIss.hold, KIss.done, KIss.fault, KIss.wait, Keeps.upd, Keeps.updId, Keeps.ite, Keeps.foldl, Keeps.foldl2, Keeps.foldl3, Keeps.refl, implies_true, keeps_devRead, keeps_postWrite, *]; done) | with_reducible apply Keeps.fold1 | with_reducible apply Keeps.fold2 | with_reducible apply Keeps.fold3 | with_reducible apply Keeps.fold21 | intro _ | split | dsimp only))); intro hz; (try dsimp only at hz); clear heq)))

theorem keeps_hqSubmit {b0 : State} {s : State} (q : Nat) (idx : Nat) (c : HostSlot) (hK : Keeps b0 s) :
    Keeps b0 (hqSubmit s q idx c) := by
  unfold hqSubmit; simp (maxDischargeDepth := 99) only [KIss.hold, KIss.done, KIss.fault, KIss.wait, Keeps.upd, Keeps.updId,
        Keeps.ite, Keeps.foldl, Keeps.foldl2, Keeps.foldl3, Keeps.refl, implies_true, keeps_rfset, keeps_devWrite,
        keeps_deepIdleExit, keeps_hqFinish, *]

theorem keeps_hqPerform {b0 : State} {s : State} (q : Nat) (idx : Nat) (c : HostSlot) (hK : Keeps b0 s) :
    Keeps b0 (hqPerform s q idx c) := by
  unfold hqPerform; (repeat' split) <;> simp (maxDischargeDepth := 99) only [KIss.hold, KIss.done, KIss.fault, KIss.wait,
        Keeps.upd, Keeps.updId, Keeps.ite, Keeps.foldl, Keeps.foldl2, Keeps.foldl3, Keeps.refl, implies_true, keeps_devWrite,
         keeps_postWrite, keeps_hqFinish, keeps_hqIssueReads, keeps_hqD2H, keeps_hqSubmit, *]

theorem keeps_hqStart {b0 : State} {s : State} (op : Nat) (q : Nat) (c : HostSlot) (hK : Keeps b0 s) :
    Keeps b0 (hqStart s op q c) := by
  unfold hqStart; simp (maxDischargeDepth := 99) only [KIss.hold, KIss.done, KIss.fault, KIss.wait, Keeps.upd, Keeps.updId,
        Keeps.ite, Keeps.foldl, Keeps.foldl2, Keeps.foldl3, Keeps.refl, implies_true, keeps_rfset, keeps_count, keeps_setHq,
        keeps_hqFinish, keeps_hqPerform, *]

theorem keeps_sqTailWrite {b0 : State} {s : State} (q : Nat) (v : Nat) (hK : Keeps b0 s) :
    Keeps b0 (sqTailWrite s q v) := by
  unfold sqTailWrite; simp (maxDischargeDepth := 99) only [KIss.hold, KIss.done, KIss.fault, KIss.wait, Keeps.upd,
        Keeps.updId, Keeps.ite, Keeps.foldl, Keeps.foldl2, Keeps.foldl3, Keeps.refl, implies_true, keeps_deepIdleExit,
        keeps_setHq, *]

theorem keeps_cqHeadWrite {b0 : State} {s : State} (q : Nat) (v : Nat) (hK : Keeps b0 s) :
    Keeps b0 (cqHeadWrite s q v) := by
  unfold cqHeadWrite; simp (maxDischargeDepth := 99) only [KIss.hold, KIss.done, KIss.fault, KIss.wait, Keeps.upd,
        Keeps.updId, Keeps.ite, Keeps.foldl, Keeps.foldl2, Keeps.foldl3, Keeps.refl, implies_true, keeps_setHq, *]

theorem keeps_execHqSqTail {b0 : State} (q : Fin 64) (v : W64) {s : State} (hK : Keeps b0 s) :
    ∀ u, execHqSqTail q v s = .next u → Keeps b0 u := by
  unfold execHqSqTail; intro t ht; injection ht with ht; subst ht; simp (maxDischargeDepth := 99) only [KIss.hold, KIss.done,
         KIss.fault, KIss.wait, Keeps.upd, Keeps.updId, Keeps.ite, Keeps.foldl, Keeps.foldl2, Keeps.foldl3, Keeps.refl,
        implies_true, keeps_sqTailWrite, *]

theorem keeps_execHqCqHead {b0 : State} (q : Fin 64) (v : W64) {s : State} (hK : Keeps b0 s) :
    ∀ u, execHqCqHead q v s = .next u → Keeps b0 u := by
  unfold execHqCqHead; intro t ht; injection ht with ht; subst ht; simp (maxDischargeDepth := 99) only [KIss.hold, KIss.done,
         KIss.fault, KIss.wait, Keeps.upd, Keeps.updId, Keeps.ite, Keeps.foldl, Keeps.foldl2, Keeps.foldl3, Keeps.refl,
        implies_true, keeps_cqHeadWrite, *]

theorem keeps_execHifNop {b0 : State} (q : Fin 64) (c : HostSlot) {s : State} (hK : Keeps b0 s) :
    ∀ u, execHifNop q c s = .next u → Keeps b0 u := by
  unfold execHifNop; intro t ht; injection ht with ht; subst ht; simp (maxDischargeDepth := 99) only [KIss.hold, KIss.done,
        KIss.fault, KIss.wait, Keeps.upd, Keeps.updId, Keeps.ite, Keeps.foldl, Keeps.foldl2, Keeps.foldl3, Keeps.refl,
        implies_true, keeps_hqStart, *]

theorem keeps_execHifSubmit {b0 : State} (q : Fin 64) (c : HostSlot) {s : State} (hK : Keeps b0 s) :
    ∀ u, execHifSubmit q c s = .next u → Keeps b0 u := by
  unfold execHifSubmit; intro t ht; injection ht with ht; subst ht; simp (maxDischargeDepth := 99) only [KIss.hold,
        KIss.done, KIss.fault, KIss.wait, Keeps.upd, Keeps.updId, Keeps.ite, Keeps.foldl, Keeps.foldl2, Keeps.foldl3,
        Keeps.refl, implies_true, keeps_hqStart, *]

theorem keeps_execWriteInline {b0 : State} (q : Fin 64) (c : HostSlot) {s : State} (hK : Keeps b0 s) :
    ∀ u, execWriteInline q c s = .next u → Keeps b0 u := by
  unfold execWriteInline; intro t ht; injection ht with ht; subst ht; simp (maxDischargeDepth := 99) only [KIss.hold,
        KIss.done, KIss.fault, KIss.wait, Keeps.upd, Keeps.updId, Keeps.ite, Keeps.foldl, Keeps.foldl2, Keeps.foldl3,
        Keeps.refl, implies_true, keeps_hqStart, *]

theorem keeps_execCopyH2D {b0 : State} (q : Fin 64) (c : HostSlot) {s : State} (hK : Keeps b0 s) :
    ∀ u, execCopyH2D q c s = .next u → Keeps b0 u := by
  unfold execCopyH2D; intro t ht; injection ht with ht; subst ht; simp (maxDischargeDepth := 99) only [KIss.hold, KIss.done,
        KIss.fault, KIss.wait, Keeps.upd, Keeps.updId, Keeps.ite, Keeps.foldl, Keeps.foldl2, Keeps.foldl3, Keeps.refl,
        implies_true, keeps_hqStart, *]

theorem keeps_execCopyD2H {b0 : State} (q : Fin 64) (c : HostSlot) {s : State} (hK : Keeps b0 s) :
    ∀ u, execCopyD2H q c s = .next u → Keeps b0 u := by
  unfold execCopyD2H; intro t ht; injection ht with ht; subst ht; simp (maxDischargeDepth := 99) only [KIss.hold, KIss.done,
        KIss.fault, KIss.wait, Keeps.upd, Keeps.updId, Keeps.ite, Keeps.foldl, Keeps.foldl2, Keeps.foldl3, Keeps.refl,
        implies_true, keeps_hqStart, *]

theorem keeps_execFlag {b0 : State} (q : Fin 64) (c : HostSlot) {s : State} (hK : Keeps b0 s) :
    ∀ u, execFlag q c s = .next u → Keeps b0 u := by
  unfold execFlag; intro t ht; injection ht with ht; subst ht; simp (maxDischargeDepth := 99) only [KIss.hold, KIss.done,
        KIss.fault, KIss.wait, Keeps.upd, Keeps.updId, Keeps.ite, Keeps.foldl, Keeps.foldl2, Keeps.foldl3, Keeps.refl,
        implies_true, keeps_hqStart, *]

theorem keeps_execHostReadCompletion {b0 : State} (q : Fin 64) (tag : Nat) (c : HostCpl) {s : State} (hK : Keeps b0 s) :
    ∀ u, execHostReadCompletion q tag c s = .next u → Keeps b0 u := by
  unfold execHostReadCompletion
  repeat' first
    | with_reducible assumption
    | refine fun (y : State) (gr : Group) (hy : Keeps b0 y) => ?_
    | (extract_lets +onlyGivenNames z; first | ((first | refine Keeps.cut (p := Keeps b0 z) ?_ ?_ | refine Keeps.cut (p := Keeps b0 z.2) ?_ ?_ | refine Keeps.cut (p := Keeps b0 z.2.2) ?_ ?_ | refine Keeps.cut (p := Keeps b0 z.1) ?_ ?_ | refine Keeps.cut (p := Keeps b0 z.s) ?_ ?_ | refine Keeps.cut (p := Keeps b0 z.2.s) ?_ ?_ | refine Keeps.cut (p := Keeps b0 z.2.2.s) ?_ ?_); (focus (intros; dsimp only [z]; (repeat' first | (simp (maxDischargeDepth := 99) only [KIss.hold, KIss.done, KIss.fault, KIss.wait, Keeps.upd, Keeps.updId, Keeps.ite, Keeps.foldl, Keeps.foldl2, Keeps.foldl3, Keeps.refl, implies_true, keeps_count, keeps_devWrite, keeps_hqUpdate, keeps_hqFinish, keeps_hqReadsGoOn, *]; done) | with_reducible apply Keeps.fold1 | with_reducible apply Keeps.fold2 | with_reducible apply Keeps.fold3 | with_reducible apply Keeps.fold21 | intro _ | split | dsimp only))); intro hz; clear_value z) | clear_value z | skip)
    | (simp (maxDischargeDepth := 99) only [KIss.hold, KIss.done, KIss.fault, KIss.wait, Keeps.upd, Keeps.updId, Keeps.ite, Keeps.foldl, Keeps.foldl2, Keeps.foldl3, Keeps.refl, implies_true, keeps_count, keeps_devWrite, keeps_hqUpdate, keeps_hqFinish, keeps_hqReadsGoOn, *]; done)
    | (intro t ht; injection ht with ht; subst ht)
    | (intro t ht; contradiction)
    | with_reducible apply Keeps.fold1
    | with_reducible apply Keeps.fold2
    | with_reducible apply Keeps.fold3
    | with_reducible apply Keeps.fold21
    | (split <;> (try (rename_i heq; (first | refine Keeps.cut (Keeps.of_eq (b := b0) heq ?_) ?_ | refine Keeps.cut (Keeps.of_eq3 (b := b0) heq ?_) ?_ | refine Keeps.cut (Keeps.of_eq1 (b := b0) heq ?_) ?_ | refine Keeps.cut (Keeps.of_eq4 (b := b0) heq ?_) ?_); (focus (clear heq; (repeat' first | (simp (maxDischargeDepth := 99) only [KIss.hold, KIss.done, KIss.fault, KIss.wait, Keeps.upd, Keeps.updId, Keeps.ite, Keeps.foldl, Keeps.foldl2, Keeps.foldl3, Keeps.refl, implies_true, keeps_count, keeps_devWrite, keeps_hqUpdate, keeps_hqFinish, keeps_hqReadsGoOn, *]; done) | with_reducible apply Keeps.fold1 | with_reducible apply Keeps.fold2 | with_reducible apply Keeps.fold3 | with_reducible apply Keeps.fold21 | intro _ | split | dsimp only))); intro hz; (try dsimp only at hz); clear heq)))
    | intro _

theorem keeps_execCompletionTimeout {b0 : State} (q : Fin 64) (tag : Nat) {s : State} (hK : Keeps b0 s) :
    ∀ u, execCompletionTimeout q tag s = .next u → Keeps b0 u := by
  unfold execCompletionTimeout
  repeat' first
    | with_reducible assumption
    | refine fun (y : State) (gr : Group) (hy : Keeps b0 y) => ?_
    | (extract_lets +onlyGivenNames z; first | ((first | refine Keeps.cut (p := Keeps b0 z) ?_ ?_ | refine Keeps.cut (p := Keeps b0 z.2) ?_ ?_ | refine Keeps.cut (p := Keeps b0 z.2.2) ?_ ?_ | refine Keeps.cut (p := Keeps b0 z.1) ?_ ?_ | refine Keeps.cut (p := Keeps b0 z.s) ?_ ?_ | refine Keeps.cut (p := Keeps b0 z.2.s) ?_ ?_ | refine Keeps.cut (p := Keeps b0 z.2.2.s) ?_ ?_); (focus (intros; dsimp only [z]; (repeat' first | (simp (maxDischargeDepth := 99) only [KIss.hold, KIss.done, KIss.fault, KIss.wait, Keeps.upd, Keeps.updId, Keeps.ite, Keeps.foldl, Keeps.foldl2, Keeps.foldl3, Keeps.refl, implies_true, keeps_hqFinish, keeps_hqReadsGoOn, *]; done) | with_reducible apply Keeps.fold1 | with_reducible apply Keeps.fold2 | with_reducible apply Keeps.fold3 | with_reducible apply Keeps.fold21 | intro _ | split | dsimp only))); intro hz; clear_value z) | clear_value z | skip)
    | (simp (maxDischargeDepth := 99) only [KIss.hold, KIss.done, KIss.fault, KIss.wait, Keeps.upd, Keeps.updId, Keeps.ite, Keeps.foldl, Keeps.foldl2, Keeps.foldl3, Keeps.refl, implies_true, keeps_hqFinish, keeps_hqReadsGoOn, *]; done)
    | (intro t ht; injection ht with ht; subst ht)
    | (intro t ht; contradiction)
    | with_reducible apply Keeps.fold1
    | with_reducible apply Keeps.fold2
    | with_reducible apply Keeps.fold3
    | with_reducible apply Keeps.fold21
    | (split <;> (try (rename_i heq; (first | refine Keeps.cut (Keeps.of_eq (b := b0) heq ?_) ?_ | refine Keeps.cut (Keeps.of_eq3 (b := b0) heq ?_) ?_ | refine Keeps.cut (Keeps.of_eq1 (b := b0) heq ?_) ?_ | refine Keeps.cut (Keeps.of_eq4 (b := b0) heq ?_) ?_); (focus (clear heq; (repeat' first | (simp (maxDischargeDepth := 99) only [KIss.hold, KIss.done, KIss.fault, KIss.wait, Keeps.upd, Keeps.updId, Keeps.ite, Keeps.foldl, Keeps.foldl2, Keeps.foldl3, Keeps.refl, implies_true, keeps_hqFinish, keeps_hqReadsGoOn, *]; done) | with_reducible apply Keeps.fold1 | with_reducible apply Keeps.fold2 | with_reducible apply Keeps.fold3 | with_reducible apply Keeps.fold21 | intro _ | split | dsimp only))); intro hz; (try dsimp only at hz); clear heq)))
    | intro _

theorem keeps_execHqInterruptTimer {b0 : State} (q : Fin 64) {s : State} (hK : Keeps b0 s) :
    ∀ u, execHqInterruptTimer q s = .next u → Keeps b0 u := by
  unfold execHqInterruptTimer; intro t ht; injection ht with ht; subst ht; simp (maxDischargeDepth := 99) only [KIss.hold,
        KIss.done, KIss.fault, KIss.wait, Keeps.upd, Keeps.updId, Keeps.ite, Keeps.foldl, Keeps.foldl2, Keeps.foldl3,
        Keeps.refl, implies_true, keeps_hqSignal, *]

theorem keeps_execHqStopped {b0 : State} (q : Fin 64) {s : State} (hK : Keeps b0 s) :
    ∀ u, execHqStopped q s = .next u → Keeps b0 u := by
  unfold execHqStopped; intro t ht; injection ht with ht; subst ht; simp (maxDischargeDepth := 99) only [KIss.hold,
        KIss.done, KIss.fault, KIss.wait, Keeps.upd, Keeps.updId, Keeps.ite, Keeps.foldl, Keeps.foldl2, Keeps.foldl3,
        Keeps.refl, implies_true, keeps_rfset, *]

theorem keeps_hqCfgWrite {b0 : State} {s : State} (q : Nat) (v : Nat) (hK : Keeps b0 s) :
    Keeps b0 (hqCfgWrite s q v) := by
  unfold hqCfgWrite; simp (maxDischargeDepth := 99) only [KIss.hold, KIss.done, KIss.fault, KIss.wait, Keeps.upd,
        Keeps.updId, Keeps.ite, Keeps.foldl, Keeps.foldl2, Keeps.foldl3, Keeps.refl, implies_true, keeps_rset, keeps_rfset,
        keeps_setHq, *]

theorem keeps_execHifHqCfgWrite {b0 : State} (a : Agent) (q : Fin 64) (v : W64) {s : State} (hK : Keeps b0 s) :
    ∀ u, execHifHqCfgWrite a q v s = .next u → Keeps b0 u := by
  unfold execHifHqCfgWrite
  repeat' first
    | with_reducible assumption
    | refine fun (y : State) (gr : Group) (hy : Keeps b0 y) => ?_
    | (extract_lets +onlyGivenNames z; first | ((first | refine Keeps.cut (p := Keeps b0 z) ?_ ?_ | refine Keeps.cut (p := Keeps b0 z.2) ?_ ?_ | refine Keeps.cut (p := Keeps b0 z.2.2) ?_ ?_ | refine Keeps.cut (p := Keeps b0 z.1) ?_ ?_ | refine Keeps.cut (p := Keeps b0 z.s) ?_ ?_ | refine Keeps.cut (p := Keeps b0 z.2.s) ?_ ?_ | refine Keeps.cut (p := Keeps b0 z.2.2.s) ?_ ?_); (focus (intros; dsimp only [z]; (repeat' first | (simp (maxDischargeDepth := 99) only [KIss.hold, KIss.done, KIss.fault, KIss.wait, Keeps.upd, Keeps.updId, Keeps.ite, Keeps.foldl, Keeps.foldl2, Keeps.foldl3, Keeps.refl, implies_true, keeps_hqCfgWrite, *]; done) | with_reducible apply Keeps.fold1 | with_reducible apply Keeps.fold2 | with_reducible apply Keeps.fold3 | with_reducible apply Keeps.fold21 | intro _ | split | dsimp only))); intro hz; clear_value z) | clear_value z | skip)
    | (simp (maxDischargeDepth := 99) only [KIss.hold, KIss.done, KIss.fault, KIss.wait, Keeps.upd, Keeps.updId, Keeps.ite, Keeps.foldl, Keeps.foldl2, Keeps.foldl3, Keeps.refl, implies_true, keeps_hqCfgWrite, *]; done)
    | (intro t ht; injection ht with ht; subst ht)
    | (intro t ht; contradiction)
    | with_reducible apply Keeps.fold1
    | with_reducible apply Keeps.fold2
    | with_reducible apply Keeps.fold3
    | with_reducible apply Keeps.fold21
    | (split <;> (try (rename_i heq; (first | refine Keeps.cut (Keeps.of_eq (b := b0) heq ?_) ?_ | refine Keeps.cut (Keeps.of_eq3 (b := b0) heq ?_) ?_ | refine Keeps.cut (Keeps.of_eq1 (b := b0) heq ?_) ?_ | refine Keeps.cut (Keeps.of_eq4 (b := b0) heq ?_) ?_); (focus (clear heq; (repeat' first | (simp (maxDischargeDepth := 99) only [KIss.hold, KIss.done, KIss.fault, KIss.wait, Keeps.upd, Keeps.updId, Keeps.ite, Keeps.foldl, Keeps.foldl2, Keeps.foldl3, Keeps.refl, implies_true, keeps_hqCfgWrite, *]; done) | with_reducible apply Keeps.fold1 | with_reducible apply Keeps.fold2 | with_reducible apply Keeps.fold3 | with_reducible apply Keeps.fold21 | intro _ | split | dsimp only))); intro hz; (try dsimp only at hz); clear heq)))
    | intro _

theorem keeps_winBaseWrite {b0 : State} {s : State} (v : Nat) (hK : Keeps b0 s) :
    Keeps b0 (winBaseWrite s v) := by
  unfold winBaseWrite; simp (maxDischargeDepth := 99) only [KIss.hold, KIss.done, KIss.fault, KIss.wait, Keeps.upd,
        Keeps.updId, Keeps.ite, Keeps.foldl, Keeps.foldl2, Keeps.foldl3, Keeps.refl, implies_true, keeps_rfset, *]

theorem keeps_execHifWinBaseWrite {b0 : State} (a : Agent) (v : W64) {s : State} (hK : Keeps b0 s) :
    ∀ u, execHifWinBaseWrite a v s = .next u → Keeps b0 u := by
  unfold execHifWinBaseWrite
  repeat' first
    | with_reducible assumption
    | refine fun (y : State) (gr : Group) (hy : Keeps b0 y) => ?_
    | (extract_lets +onlyGivenNames z; first | ((first | refine Keeps.cut (p := Keeps b0 z) ?_ ?_ | refine Keeps.cut (p := Keeps b0 z.2) ?_ ?_ | refine Keeps.cut (p := Keeps b0 z.2.2) ?_ ?_ | refine Keeps.cut (p := Keeps b0 z.1) ?_ ?_ | refine Keeps.cut (p := Keeps b0 z.s) ?_ ?_ | refine Keeps.cut (p := Keeps b0 z.2.s) ?_ ?_ | refine Keeps.cut (p := Keeps b0 z.2.2.s) ?_ ?_); (focus (intros; dsimp only [z]; (repeat' first | (simp (maxDischargeDepth := 99) only [KIss.hold, KIss.done, KIss.fault, KIss.wait, Keeps.upd, Keeps.updId, Keeps.ite, Keeps.foldl, Keeps.foldl2, Keeps.foldl3, Keeps.refl, implies_true, keeps_winBaseWrite, *]; done) | with_reducible apply Keeps.fold1 | with_reducible apply Keeps.fold2 | with_reducible apply Keeps.fold3 | with_reducible apply Keeps.fold21 | intro _ | split | dsimp only))); intro hz; clear_value z) | clear_value z | skip)
    | (simp (maxDischargeDepth := 99) only [KIss.hold, KIss.done, KIss.fault, KIss.wait, Keeps.upd, Keeps.updId, Keeps.ite, Keeps.foldl, Keeps.foldl2, Keeps.foldl3, Keeps.refl, implies_true, keeps_winBaseWrite, *]; done)
    | (intro t ht; injection ht with ht; subst ht)
    | (intro t ht; contradiction)
    | with_reducible apply Keeps.fold1
    | with_reducible apply Keeps.fold2
    | with_reducible apply Keeps.fold3
    | with_reducible apply Keeps.fold21
    | (split <;> (try (rename_i heq; (first | refine Keeps.cut (Keeps.of_eq (b := b0) heq ?_) ?_ | refine Keeps.cut (Keeps.of_eq3 (b := b0) heq ?_) ?_ | refine Keeps.cut (Keeps.of_eq1 (b := b0) heq ?_) ?_ | refine Keeps.cut (Keeps.of_eq4 (b := b0) heq ?_) ?_); (focus (clear heq; (repeat' first | (simp (maxDischargeDepth := 99) only [KIss.hold, KIss.done, KIss.fault, KIss.wait, Keeps.upd, Keeps.updId, Keeps.ite, Keeps.foldl, Keeps.foldl2, Keeps.foldl3, Keeps.refl, implies_true, keeps_winBaseWrite, *]; done) | with_reducible apply Keeps.fold1 | with_reducible apply Keeps.fold2 | with_reducible apply Keeps.fold3 | with_reducible apply Keeps.fold21 | intro _ | split | dsimp only))); intro hz; (try dsimp only at hz); clear heq)))
    | intro _

theorem keeps_hqLose {b0 : State} {s : State} (q : Nat) (hK : Keeps b0 s) :
    Keeps b0 (hqLose s q) := by
  unfold hqLose; simp (maxDischargeDepth := 99) only [KIss.hold, KIss.done, KIss.fault, KIss.wait, Keeps.upd, Keeps.updId,
        Keeps.ite, Keeps.foldl, Keeps.foldl2, Keeps.foldl3, Keeps.refl, implies_true, keeps_rfset, keeps_setHq, *]

theorem keeps_hostPortReset {b0 : State} {s : State} (compat : Bool) (hK : Keeps b0 s) : Keeps b0 (hostPortReset s compat) := by
  unfold hostPortReset
  refine keeps_rfset _ _ _ _ _ _ _ (keeps_rfset _ _ _ _ _ _ _ (Keeps.upd (Keeps.setRegs ?_ fun h => rising_filter h _)))
  exact Keeps.foldl (fun y a => keeps_hqLose a (Keeps.refl y)) hK

theorem keeps_portLost {b0 : State} {s : State} (compat : Bool) (hK : Keeps b0 s) :
    Keeps b0 (portLost s compat) := by
  unfold portLost; simp (maxDischargeDepth := 99) only [KIss.hold, KIss.done, KIss.fault, KIss.wait, Keeps.upd, Keeps.updId,
        Keeps.ite, Keeps.foldl, Keeps.foldl2, Keeps.foldl3, Keeps.refl, implies_true, keeps_count, keeps_hostPortReset, *]

theorem keeps_execPerstNAssert {b0 : State} (compat : Bool) {s : State} (hK : Keeps b0 s) :
    ∀ u, execPerstNAssert compat s = .next u → Keeps b0 u := by
  unfold execPerstNAssert; intro t ht; injection ht with ht; subst ht; simp (maxDischargeDepth := 99) only [KIss.hold,
        KIss.done, KIss.fault, KIss.wait, Keeps.upd, Keeps.updId, Keeps.ite, Keeps.foldl, Keeps.foldl2, Keeps.foldl3,
        Keeps.refl, implies_true, keeps_portLost, *]

theorem keeps_execPerstNDeassert {b0 : State} {s : State} (hK : Keeps b0 s) :
    ∀ u, execPerstNDeassert s = .next u → Keeps b0 u := by
  unfold execPerstNDeassert; intro t ht; injection ht with ht; subst ht; simp (maxDischargeDepth := 99) only [KIss.hold,
        KIss.done, KIss.fault, KIss.wait, Keeps.upd, Keeps.updId, Keeps.ite, Keeps.foldl, Keeps.foldl2, Keeps.foldl3,
        Keeps.refl, implies_true, *]

theorem keeps_execHostPortLost {b0 : State} (why : PortLoss) (compat : Bool) {s : State} (hK : Keeps b0 s) :
    ∀ u, execHostPortLost why compat s = .next u → Keeps b0 u := by
  unfold execHostPortLost; intro t ht; injection ht with ht; subst ht; simp (maxDischargeDepth := 99) only [KIss.hold,
        KIss.done, KIss.fault, KIss.wait, Keeps.upd, Keeps.updId, Keeps.ite, Keeps.foldl, Keeps.foldl2, Keeps.foldl3,
        Keeps.refl, implies_true, keeps_portLost, *]

theorem keeps_execHostLinkUp {b0 : State} {s : State} (hK : Keeps b0 s) :
    ∀ u, execHostLinkUp s = .next u → Keeps b0 u := by
  unfold execHostLinkUp; intro t ht; injection ht with ht; subst ht; simp (maxDischargeDepth := 99) only [KIss.hold,
        KIss.done, KIss.fault, KIss.wait, Keeps.upd, Keeps.updId, Keeps.ite, Keeps.foldl, Keeps.foldl2, Keeps.foldl3,
        Keeps.refl, implies_true, *]

theorem keeps_mbxCmdWrite {b0 : State} {s : State} (m : Nat) (v : Nat) (hK : Keeps b0 s) :
    Keeps b0 (mbxCmdWrite s m v) := by
  unfold mbxCmdWrite; simp (maxDischargeDepth := 99) only [KIss.hold, KIss.done, KIss.fault, KIss.wait, Keeps.upd,
        Keeps.updId, Keeps.ite, Keeps.foldl, Keeps.foldl2, Keeps.foldl3, Keeps.refl, implies_true, keeps_rset, keeps_mbxSet,
        keeps_mbxFinish, *]

theorem keeps_mbxRegWrite {b0 : State} {s : State} (m : Nat) (r : Reg) (i : Nat) (j : Nat) (v : Nat) (hK : Keeps b0 s) :
    Keeps b0 (mbxRegWrite s m r i j v) := by
  unfold mbxRegWrite; simp (maxDischargeDepth := 99) only [KIss.hold, KIss.done, KIss.fault, KIss.wait, Keeps.upd,
        Keeps.updId, Keeps.ite, Keeps.foldl, Keeps.foldl2, Keeps.foldl3, Keeps.refl, implies_true, keeps_rset, keeps_mbxSet,
        keeps_mbxCmdWrite, *]

theorem keeps_mbxAuth {b0 : State} {s : State} (m : Nat) (op : Nat) (len : Nat) (hK : Keeps b0 s) :
    Keeps b0 (mbxAuth s m op len).2 := by
  unfold mbxAuth
  repeat' first
    | with_reducible assumption
    | (extract_lets +onlyGivenNames z; first | ((first | refine Keeps.cut (p := Keeps b0 z) ?_ ?_ | refine Keeps.cut (p := Keeps b0 z.2) ?_ ?_ | refine Keeps.cut (p := Keeps b0 z.2.2) ?_ ?_ | refine Keeps.cut (p := Keeps b0 z.1) ?_ ?_ | refine Keeps.cut (p := Keeps b0 z.s) ?_ ?_ | refine Keeps.cut (p := Keeps b0 z.2.s) ?_ ?_ | refine Keeps.cut (p := Keeps b0 z.2.2.s) ?_ ?_); (focus (intros; dsimp only [z]; (repeat' first | (simp (maxDischargeDepth := 99) only [KIss.hold, KIss.done, KIss.fault, KIss.wait, Keeps.upd, Keeps.updId, Keeps.ite, Keeps.foldl, Keeps.foldl2, Keeps.foldl3, Keeps.refl, implies_true, keeps_rfset, keeps_mbxSet, *]; done) | with_reducible apply Keeps.fold1 | with_reducible apply Keeps.fold2 | with_reducible apply Keeps.fold3 | with_reducible apply Keeps.fold21 | intro _ | split | dsimp only))); intro hz; clear_value z) | clear_value z | skip)
    | (simp (maxDischargeDepth := 99) only [KIss.hold, KIss.done, KIss.fault, KIss.wait, Keeps.upd, Keeps.updId, Keeps.ite, Keeps.foldl, Keeps.foldl2, Keeps.foldl3, Keeps.refl, implies_true, keeps_rfset, keeps_mbxSet, *]; done)
    | with_reducible apply Keeps.fold1
    | with_reducible apply Keeps.fold2
    | with_reducible apply Keeps.fold3
    | with_reducible apply Keeps.fold21
    | intro _
    | (split <;> (try (rename_i heq; (first | refine Keeps.cut (Keeps.of_eq (b := b0) heq ?_) ?_ | refine Keeps.cut (Keeps.of_eq3 (b := b0) heq ?_) ?_ | refine Keeps.cut (Keeps.of_eq1 (b := b0) heq ?_) ?_ | refine Keeps.cut (Keeps.of_eq4 (b := b0) heq ?_) ?_); (focus (clear heq; (repeat' first | (simp (maxDischargeDepth := 99) only [KIss.hold, KIss.done, KIss.fault, KIss.wait, Keeps.upd, Keeps.updId, Keeps.ite, Keeps.foldl, Keeps.foldl2, Keeps.foldl3, Keeps.refl, implies_true, keeps_rfset, keeps_mbxSet, *]; done) | with_reducible apply Keeps.fold1 | with_reducible apply Keeps.fold2 | with_reducible apply Keeps.fold3 | with_reducible apply Keeps.fold21 | intro _ | split | dsimp only))); intro hz; (try dsimp only at hz); clear heq)))

theorem keeps_newNonce {b0 : State} {s : State} (n : W128) (hK : Keeps b0 s) :
    Keeps b0 (newNonce s n) := by
  unfold newNonce; simp (maxDischargeDepth := 99) only [KIss.hold, KIss.done, KIss.fault, KIss.wait, Keeps.upd, Keeps.updId,
        Keeps.ite, Keeps.foldl, Keeps.foldl2, Keeps.foldl3, Keeps.refl, implies_true, keeps_rfset, *]

theorem keeps_mbxSettle {b0 : State} {s : State} (m : Nat) (op : Nat) (r : MbxRes) (hK : Keeps b0 s) :
    Keeps b0 (mbxSettle s m op r) := by
  unfold mbxSettle; (repeat' split) <;> simp (maxDischargeDepth := 99) only [KIss.hold, KIss.done, KIss.fault, KIss.wait,
        Keeps.upd, Keeps.updId, Keeps.ite, Keeps.foldl, Keeps.foldl2, Keeps.foldl3, Keeps.refl, implies_true, keeps_mbxSet,
        keeps_mctpRespond, keeps_mbxFinish, *]

theorem keeps_mbxRun {b0 : State} {s : State} (m : Nat) (sp : MbxSpec) (run : State → List Byte → State × MbxRes)
    (hr : ∀ y l, Keeps y (run y l).1) (hK : Keeps b0 s) : Keeps b0 (mbxRun s m sp run) := by
  unfold mbxRun
  extract_lets len
  split
  · exact hK
  · split
    · exact keeps_mbxFinish _ _ _ hK
    · split
      · exact keeps_mbxFinish _ _ _ hK
      · split
        rename_i code t he
        have ht : Keeps b0 t := by
          refine Keeps.of_eq he ?_
          split
          · exact keeps_mbxAuth _ _ _ hK
          · exact hK
        split
        · exact keeps_mbxFinish _ _ _ ht
        · extract_lets req
          split
          · exact keeps_mbxFinish _ _ _ ht
          · split
            · exact keeps_mbxFinish _ _ _ ht
            · split
              rename_i u r hu
              exact keeps_mbxSettle _ _ _ (Keeps.of_eq1 hu (ht.trans (hr _ _)))

theorem keeps_lkSet {b0 : State} {s : State} (die : Nat) (l : Nat) (hi : Nat) (lo : Nat) (v : Nat) (hK : Keeps b0 s) :
    Keeps b0 (lkSet s die l hi lo v) := by
  unfold lkSet; simp (maxDischargeDepth := 99) only [KIss.hold, KIss.done, KIss.fault, KIss.wait, Keeps.upd, Keeps.updId,
        Keeps.ite, Keeps.foldl, Keeps.foldl2, Keeps.foldl3, Keeps.refl, implies_true, keeps_rfset, *]

theorem keeps_setLk {b0 : State} {s : State} (die : Nat) (l : Nat) (v : LinkSt) (hK : Keeps b0 s) :
    Keeps b0 (setLk s die l v) := by
  unfold setLk; simp (maxDischargeDepth := 99) only [KIss.hold, KIss.done, KIss.fault, KIss.wait, Keeps.upd, Keeps.updId,
        Keeps.ite, Keeps.foldl, Keeps.foldl2, Keeps.foldl3, Keeps.refl, implies_true, *]

theorem keeps_linkActive {b0 : State} {s : State} (die : Nat) (l : Nat) (mask : Nat) (hK : Keeps b0 s) :
    Keeps b0 (linkActive s die l mask) := by
  unfold linkActive; (repeat' split) <;> simp (maxDischargeDepth := 99) only [KIss.hold, KIss.done, KIss.fault, KIss.wait,
        Keeps.upd, Keeps.updId, Keeps.ite, Keeps.foldl, Keeps.foldl2, Keeps.foldl3, Keeps.refl, implies_true, keeps_lkSet,
        keeps_setLk, *]

theorem keeps_linkFull {b0 : State} {s : State} (die : Nat) (l : Nat) (hK : Keeps b0 s) :
    Keeps b0 (linkFull s die l) := by
  unfold linkFull; (repeat' split) <;> simp (maxDischargeDepth := 99) only [KIss.hold, KIss.done, KIss.fault, KIss.wait,
        Keeps.upd, Keeps.updId, Keeps.ite, Keeps.foldl, Keeps.foldl2, Keeps.foldl3, Keeps.refl, implies_true,
        keeps_linkActive, *]

theorem keeps_showHold {b0 : State} {s : State} (hK : Keeps b0 s) :
    Keeps b0 (showHold s) := by
  unfold showHold; (repeat' split) <;> simp (maxDischargeDepth := 99) only [KIss.hold, KIss.done, KIss.fault, KIss.wait,
        Keeps.upd, Keeps.updId, Keeps.ite, Keeps.foldl, Keeps.foldl2, Keeps.foldl3, Keeps.refl, implies_true, keeps_rfset,
        keeps_setPhase, *]

theorem keeps_addHold {b0 : State} {s : State} (c : Nat) (hK : Keeps b0 s) :
    Keeps b0 (addHold s c) := by
  unfold addHold; simp (maxDischargeDepth := 99) only [KIss.hold, KIss.done, KIss.fault, KIss.wait, Keeps.upd, Keeps.updId,
        Keeps.ite, Keeps.foldl, Keeps.foldl2, Keeps.foldl3, Keeps.refl, implies_true, keeps_showHold, *]

theorem keeps_dropHold {b0 : State} {s : State} (c : Nat) (hK : Keeps b0 s) :
    Keeps b0 (dropHold s c) := by
  unfold dropHold; simp (maxDischargeDepth := 99) only [KIss.hold, KIss.done, KIss.fault, KIss.wait, Keeps.upd, Keeps.updId,
        Keeps.ite, Keeps.foldl, Keeps.foldl2, Keeps.foldl3, Keeps.refl, implies_true, keeps_showHold, *]

theorem keeps_beginDies {b0 : State} {s : State} (hK : Keeps b0 s) :
    Keeps b0 (beginDies s) := by
  unfold beginDies; simp (maxDischargeDepth := 99) only [KIss.hold, KIss.done, KIss.fault, KIss.wait, Keeps.upd, Keeps.updId,
         Keeps.ite, Keeps.foldl, Keeps.foldl2, Keeps.foldl3, Keeps.refl, implies_true, keeps_rfset, keeps_setPhase, *]

theorem keeps_startIfFree {b0 : State} {s : State} (hK : Keeps b0 s) :
    Keeps b0 (startIfFree s) := by
  unfold startIfFree; simp (maxDischargeDepth := 99) only [KIss.hold, KIss.done, KIss.fault, KIss.wait, Keeps.upd,
        Keeps.updId, Keeps.ite, Keeps.foldl, Keeps.foldl2, Keeps.foldl3, Keeps.refl, implies_true, keeps_setPhase,
        keeps_addHold, keeps_beginDies, *]

theorem keeps_mbxMainReset {b0 : State} {s : State} (hK : Keeps b0 s) :
    Keeps b0 (mbxMainReset s) := by
  unfold mbxMainReset; simp (maxDischargeDepth := 99) only [KIss.hold, KIss.done, KIss.fault, KIss.wait, Keeps.upd,
        Keeps.updId, Keeps.ite, Keeps.foldl, Keeps.foldl2, Keeps.foldl3, Keeps.refl, implies_true, keeps_mbxFinish, *]

theorem keeps_mainReset {b0 : State} {s : State} (hK : Keeps b0 s) : Keeps b0 (mainReset s) := by
  unfold mainReset
  refine Keeps.foldl (fun y a => keeps_rfset _ _ _ _ _ _ _ (keeps_setDieSt _ _ (Keeps.refl y))) (keeps_rfset _ _ _ _ _ _ _ ?_)
  have h := keeps_mbxMainReset hK
  revert h
  generalize mbxMainReset s = u
  intro h
  exact (Keeps.setMem (m := []) (Keeps.setRegs h fun h => rising_filter h _) fun _ => rfl).upd

theorem keeps_setTileCounts {b0 : State} {s : State} (hK : Keeps b0 s) :
    Keeps b0 (setTileCounts s) := by
  unfold setTileCounts; simp (maxDischargeDepth := 99) only [KIss.hold, KIss.done, KIss.fault, KIss.wait, Keeps.upd,
        Keeps.updId, Keeps.ite, Keeps.foldl, Keeps.foldl2, Keeps.foldl3, Keeps.refl, implies_true, keeps_rfset, *]

theorem keeps_setFenced {b0 : State} {s : State} (t : Nat) (v : Bool) (hK : Keeps b0 s) :
    Keeps b0 (setFenced s t v) := by
  unfold setFenced; simp (maxDischargeDepth := 99) only [KIss.hold, KIss.done, KIss.fault, KIss.wait, Keeps.upd, Keeps.updId,
         Keeps.ite, Keeps.foldl, Keeps.foldl2, Keeps.foldl3, Keeps.refl, implies_true, keeps_rfset, *]

theorem keeps_lossFence {b0 : State} {s : State} (t : Nat) (hK : Keeps b0 s) :
    Keeps b0 (lossFence s t) := by
  unfold lossFence; simp (maxDischargeDepth := 99) only [KIss.hold, KIss.done, KIss.fault, KIss.wait, Keeps.upd, Keeps.updId,
         Keeps.ite, Keeps.foldl, Keeps.foldl2, Keeps.foldl3, Keeps.refl, implies_true, keeps_setFenced, *]

theorem keeps_fenceEnter {b0 : State} {s : State} (ts : List Nat) (hK : Keeps b0 s) :
    Keeps b0 (fenceEnter s ts) := by
  unfold fenceEnter; simp (maxDischargeDepth := 99) only [KIss.hold, KIss.done, KIss.fault, KIss.wait, Keeps.upd,
        Keeps.updId, Keeps.ite, Keeps.foldl, Keeps.foldl2, Keeps.foldl3, Keeps.refl, implies_true, *]

theorem keeps_mbxAll {b0 : State} {s : State} (v : Nat) (hK : Keeps b0 s) :
    Keeps b0 (mbxAll s v) := by
  unfold mbxAll; simp (maxDischargeDepth := 99) only [KIss.hold, KIss.done, KIss.fault, KIss.wait, Keeps.upd, Keeps.updId,
        Keeps.ite, Keeps.foldl, Keeps.foldl2, Keeps.foldl3, Keeps.refl, implies_true, keeps_mbxSet, *]

theorem keeps_romPrepare {b0 : State} {s : State} (nonce : W128) (hK : Keeps b0 s) :
    Keeps b0 (romPrepare s nonce) := by
  unfold romPrepare; simp (maxDischargeDepth := 99) only [KIss.hold, KIss.done, KIss.fault, KIss.wait, Keeps.upd,
        Keeps.updId, Keeps.ite, Keeps.foldl, Keeps.foldl2, Keeps.foldl3, Keeps.refl, implies_true, keeps_rfset,
        keeps_newNonce, keeps_mbxAll, *]

theorem keeps_romFirmware {b0 : State} {s : State} (hK : Keeps b0 s) :
    Keeps b0 (romFirmware s) := by
  unfold romFirmware; simp (maxDischargeDepth := 99) only [KIss.hold, KIss.done, KIss.fault, KIss.wait, Keeps.upd,
        Keeps.updId, Keeps.ite, Keeps.foldl, Keeps.foldl2, Keeps.foldl3, Keeps.refl, implies_true, keeps_rfset,
        keeps_setPhase, keeps_report, keeps_dropHold, *]

theorem keeps_romRecovery {b0 : State} {s : State} (compat : Bool) (hK : Keeps b0 s) :
    Keeps b0 (romRecovery s compat) := by
  unfold romRecovery; simp (maxDischargeDepth := 99) only [KIss.hold, KIss.done, KIss.fault, KIss.wait, Keeps.upd,
        Keeps.updId, Keeps.ite, Keeps.foldl, Keeps.foldl2, Keeps.foldl3, Keeps.refl, implies_true, keeps_rfset, keeps_report,
         keeps_hostPortReset, keeps_addHold, *]

theorem keeps_romBoot {b0 : State} {s : State} (nonce : W128) (compat : Bool) (hK : Keeps b0 s) :
    Keeps b0 (romBoot s nonce compat) := by
  unfold romBoot; simp (maxDischargeDepth := 99) only [KIss.hold, KIss.done, KIss.fault, KIss.wait, Keeps.upd, Keeps.updId,
        Keeps.ite, Keeps.foldl, Keeps.foldl2, Keeps.foldl3, Keeps.refl, implies_true, keeps_romPrepare, keeps_romFirmware,
        keeps_romRecovery, *]

theorem keeps_bothEnds {b0 : State} {s : State} (die l : Nat) (f : State → Nat → Nat → State)
    (hf : ∀ y a c, Keeps y (f y a c)) (hK : Keeps b0 s) : Keeps b0 (bothEnds s die l f) := by
  unfold bothEnds
  split
  · exact hK
  · exact (hK.trans (hf _ _ _)).trans (hf _ _ _)

theorem keeps_linkLog {b0 : State} {s : State} (die : Nat) (l : Nat) (code : Nat) (hK : Keeps b0 s) :
    Keeps b0 (linkLog s die l code) := by
  unfold linkLog; simp (maxDischargeDepth := 99) only [KIss.hold, KIss.done, KIss.fault, KIss.wait, Keeps.upd, Keeps.updId,
        Keeps.ite, Keeps.foldl, Keeps.foldl2, Keeps.foldl3, Keeps.refl, implies_true, keeps_report, keeps_lkSet, *]

theorem keeps_linkGoes {b0 : State} (st : Nat) {s : State} (die : Nat) (l : Nat) (hK : Keeps b0 s) :
    Keeps b0 (linkGoes st s die l) := by
  unfold linkGoes; simp (maxDischargeDepth := 99) only [KIss.hold, KIss.done, KIss.fault, KIss.wait, Keeps.upd, Keeps.updId,
        Keeps.ite, Keeps.foldl, Keeps.foldl2, Keeps.foldl3, Keeps.refl, implies_true, keeps_lkSet, *]

theorem keeps_linksFenced {b0 : State} {s : State} (d : Nat) (hK : Keeps b0 s) :
    Keeps b0 (linksFenced s d) := by
  unfold linksFenced
  repeat' first
    | with_reducible assumption
    | (extract_lets +onlyGivenNames z; first | ((first | refine Keeps.cut (p := Keeps b0 z) ?_ ?_ | refine Keeps.cut (p := Keeps b0 z.2) ?_ ?_ | refine Keeps.cut (p := Keeps b0 z.2.2) ?_ ?_ | refine Keeps.cut (p := Keeps b0 z.1) ?_ ?_ | refine Keeps.cut (p := Keeps b0 z.s) ?_ ?_ | refine Keeps.cut (p := Keeps b0 z.2.s) ?_ ?_ | refine Keeps.cut (p := Keeps b0 z.2.2.s) ?_ ?_); (focus (intros; dsimp only [z]; (repeat' first | (simp (maxDischargeDepth := 99) only [KIss.hold, KIss.done, KIss.fault, KIss.wait, Keeps.upd, Keeps.updId, Keeps.ite, Keeps.foldl, Keeps.foldl2, Keeps.foldl3, Keeps.refl, implies_true, keeps_setLk, keeps_bothEnds, keeps_linkGoes, *]; done) | with_reducible apply Keeps.fold1 | with_reducible apply Keeps.fold2 | with_reducible apply Keeps.fold3 | with_reducible apply Keeps.fold21 | intro _ | split | dsimp only))); intro hz; clear_value z) | clear_value z | skip)
    | (simp (maxDischargeDepth := 99) only [KIss.hold, KIss.done, KIss.fault, KIss.wait, Keeps.upd, Keeps.updId, Keeps.ite, Keeps.foldl, Keeps.foldl2, Keeps.foldl3, Keeps.refl, implies_true, keeps_setLk, keeps_bothEnds, keeps_linkGoes, *]; done)
    | with_reducible apply Keeps.fold1
    | with_reducible apply Keeps.fold2
    | with_reducible apply Keeps.fold3
    | with_reducible apply Keeps.fold21
    | intro _
    | (split <;> (try (rename_i heq; (first | refine Keeps.cut (Keeps.of_eq (b := b0) heq ?_) ?_ | refine Keeps.cut (Keeps.of_eq3 (b := b0) heq ?_) ?_ | refine Keeps.cut (Keeps.of_eq1 (b := b0) heq ?_) ?_ | refine Keeps.cut (Keeps.of_eq4 (b := b0) heq ?_) ?_); (focus (clear heq; (repeat' first | (simp (maxDischargeDepth := 99) only [KIss.hold, KIss.done, KIss.fault, KIss.wait, Keeps.upd, Keeps.updId, Keeps.ite, Keeps.foldl, Keeps.foldl2, Keeps.foldl3, Keeps.refl, implies_true, keeps_setLk, keeps_bothEnds, keeps_linkGoes, *]; done) | with_reducible apply Keeps.fold1 | with_reducible apply Keeps.fold2 | with_reducible apply Keeps.fold3 | with_reducible apply Keeps.fold21 | intro _ | split | dsimp only))); intro hz; (try dsimp only at hz); clear heq)))

theorem keeps_linkDown {b0 : State} {s : State} (die : Nat) (l : Nat) (hK : Keeps b0 s) :
    Keeps b0 (linkDown s die l) := by
  unfold linkDown; simp (maxDischargeDepth := 99) only [KIss.hold, KIss.done, KIss.fault, KIss.wait, Keeps.upd, Keeps.updId,
        Keeps.ite, Keeps.foldl, Keeps.foldl2, Keeps.foldl3, Keeps.refl, implies_true, keeps_setLk, keeps_bothEnds,
        keeps_linkLog, keeps_linkGoes, *]

theorem keeps_linkFail {b0 : State} {s : State} (die : Nat) (l : Nat) (hK : Keeps b0 s) :
    Keeps b0 (linkFail s die l) := by
  unfold linkFail; simp (maxDischargeDepth := 99) only [KIss.hold, KIss.done, KIss.fault, KIss.wait, Keeps.upd, Keeps.updId,
        Keeps.ite, Keeps.foldl, Keeps.foldl2, Keeps.foldl3, Keeps.refl, implies_true, keeps_setLk, keeps_bothEnds,
        keeps_linkDown, *]

theorem keeps_mismatchCounted {b0 : State} {s : State} (d : Nat) (i : Nat) (hK : Keeps b0 s) :
    Keeps b0 (mismatchCounted s d i) := by
  unfold mismatchCounted; simp (maxDischargeDepth := 99) only [KIss.hold, KIss.done, KIss.fault, KIss.wait, Keeps.upd,
        Keeps.updId, Keeps.ite, Keeps.foldl, Keeps.foldl2, Keeps.foldl3, Keeps.refl, implies_true, keeps_lkSet, keeps_setLk,
        *]

theorem keeps_linkMismatch {b0 : State} {s : State} (die : Nat) (l : Nat) (hK : Keeps b0 s) :
    Keeps b0 (linkMismatch s die l) := by
  unfold linkMismatch; simp (maxDischargeDepth := 99) only [KIss.hold, KIss.done, KIss.fault, KIss.wait, Keeps.upd,
        Keeps.updId, Keeps.ite, Keeps.foldl, Keeps.foldl2, Keeps.foldl3, Keeps.refl, implies_true, keeps_count, keeps_setLk,
        keeps_bothEnds, keeps_linkLog, keeps_linkGoes, keeps_mismatchCounted, *]

theorem keeps_linkAdopt {b0 : State} {s : State} (die : Nat) (l : Nat) (set : Nat) (hK : Keeps b0 s) :
    Keeps b0 (linkAdopt s die l set) := by
  unfold linkAdopt; simp (maxDischargeDepth := 99) only [KIss.hold, KIss.done, KIss.fault, KIss.wait, Keeps.upd, Keeps.updId,
         Keeps.ite, Keeps.foldl, Keeps.foldl2, Keeps.foldl3, Keeps.refl, implies_true, keeps_count, keeps_linkActive,
        keeps_bothEnds, keeps_linkLog, *]

theorem keeps_linkParam {b0 : State} {s : State} (die : Nat) (l : Nat) (hK : Keeps b0 s) :
    Keeps b0 (linkParam s die l) := by
  unfold linkParam; simp (maxDischargeDepth := 99) only [KIss.hold, KIss.done, KIss.fault, KIss.wait, Keeps.upd, Keeps.updId,
         Keeps.ite, Keeps.foldl, Keeps.foldl2, Keeps.foldl3, Keeps.refl, implies_true, keeps_setLk, keeps_bothEnds,
        keeps_linkLog, keeps_linkGoes, *]

theorem keeps_linkExchange {b0 : State} {s : State} (die : Nat) (l : Nat) (p : Nat) (pl : Nat) (own : Identity) (got : Identity) (full : Bool) (confirm : Bool) (hK : Keeps b0 s) :
    Keeps b0 (linkExchange s die l p pl own got full confirm) := by
  unfold linkExchange; simp (maxDischargeDepth := 99) only [KIss.hold, KIss.done, KIss.fault, KIss.wait, Keeps.upd,
        Keeps.updId, Keeps.ite, Keeps.foldl, Keeps.foldl2, Keeps.foldl3, Keeps.refl, implies_true, keeps_linkFail,
        keeps_linkMismatch, keeps_linkAdopt, keeps_linkParam, *]

theorem keeps_linkSends {b0 : State} {s : State} (die : Nat) (l : Nat) (m : Identity) (hK : Keeps b0 s) :
    Keeps b0 (linkSends s die l m) := by
  unfold linkSends; simp (maxDischargeDepth := 99) only [KIss.hold, KIss.done, KIss.fault, KIss.wait, Keeps.upd, Keeps.updId,
         Keeps.ite, Keeps.foldl, Keeps.foldl2, Keeps.foldl3, Keeps.refl, implies_true, keeps_setLk, *]

theorem keeps_linkAttempt {b0 : State} {s : State} (die : Nat) (l : Nat) (a : Attempt) (hK : Keeps b0 s) :
    Keeps b0 (linkAttempt s die l a) := by
  unfold linkAttempt; (repeat' split) <;> simp (maxDischargeDepth := 99) only [KIss.hold, KIss.done, KIss.fault, KIss.wait,
        Keeps.upd, Keeps.updId, Keeps.ite, Keeps.foldl, Keeps.foldl2, Keeps.foldl3, Keeps.refl, implies_true,
        keeps_linkExchange, keeps_linkSends, *]

theorem keeps_linkFinish {b0 : State} {s : State} (die : Nat) (l : Nat) (hK : Keeps b0 s) :
    Keeps b0 (linkFinish s die l) := by
  unfold linkFinish; simp (maxDischargeDepth := 99) only [KIss.hold, KIss.done, KIss.fault, KIss.wait, Keeps.upd,
        Keeps.updId, Keeps.ite, Keeps.foldl, Keeps.foldl2, Keeps.foldl3, Keeps.refl, implies_true, keeps_linkAttempt, *]

theorem keeps_slicesAdopt {b0 : State} {s : State} (die : Nat) (l : Nat) (slices : Nat) (hK : Keeps b0 s) :
    Keeps b0 (slicesAdopt s die l slices) := by
  unfold slicesAdopt; simp (maxDischargeDepth := 99) only [KIss.hold, KIss.done, KIss.fault, KIss.wait, Keeps.upd,
        Keeps.updId, Keeps.ite, Keeps.foldl, Keeps.foldl2, Keeps.foldl3, Keeps.refl, implies_true, keeps_linkActive,
        keeps_bothEnds, keeps_linkLog, keeps_linkGoes, *]

theorem keeps_stackPlaced {b0 : State} {s : State} (m : Nat) (hK : Keeps b0 s) :
    Keeps b0 (stackPlaced s m) := by
  unfold stackPlaced; simp (maxDischargeDepth := 99) only [KIss.hold, KIss.done, KIss.fault, KIss.wait, Keeps.upd,
        Keeps.updId, Keeps.ite, Keeps.foldl, Keeps.foldl2, Keeps.foldl3, Keeps.refl, implies_true, keeps_setSecondary, *]

theorem keeps_setTile {b0 : State} {s : State} (t : Nat) (v : Tile) (hK : Keeps b0 s) :
    Keeps b0 (setTile s t v) := by
  unfold setTile; simp (maxDischargeDepth := 99) only [KIss.hold, KIss.done, KIss.fault, KIss.wait, Keeps.upd, Keeps.updId,
        Keeps.ite, Keeps.foldl, Keeps.foldl2, Keeps.foldl3, Keeps.refl, implies_true, *]

theorem keeps_setGroup {b0 : State} {s : State} (t : Nat) (g : Nat) (v : Group) (hK : Keeps b0 s) :
    Keeps b0 (setGroup s t g v) := by
  unfold setGroup; simp (maxDischargeDepth := 99) only [KIss.hold, KIss.done, KIss.fault, KIss.wait, Keeps.upd, Keeps.updId,
        Keeps.ite, Keeps.foldl, Keeps.foldl2, Keeps.foldl3, Keeps.refl, implies_true, keeps_setTile, *]

theorem keeps_jobMod {b0 : State} {s : State} (r : JobRef) (f : Job → Job) (hK : Keeps b0 s) :
    Keeps b0 (jobMod s r f) := by
  unfold jobMod; simp (maxDischargeDepth := 99) only [KIss.hold, KIss.done, KIss.fault, KIss.wait, Keeps.upd, Keeps.updId,
        Keeps.ite, Keeps.foldl, Keeps.foldl2, Keeps.foldl3, Keeps.refl, implies_true, *]

theorem keeps_stopTile {b0 : State} {s : State} (t : Nat) (hK : Keeps b0 s) :
    Keeps b0 (stopTile s t) := by
  unfold stopTile; simp (maxDischargeDepth := 99) only [KIss.hold, KIss.done, KIss.fault, KIss.wait, Keeps.upd, Keeps.updId,
        Keeps.ite, Keeps.foldl, Keeps.foldl2, Keeps.foldl3, Keeps.refl, implies_true, keeps_setTile, *]

theorem keeps_jobEnd {b0 : State} {s : State} (r : JobRef) (code : Nat) (f : Job → Job) (hK : Keeps b0 s) :
    Keeps b0 (jobEnd s r code f) := by
  unfold jobEnd; (repeat' split) <;> simp (maxDischargeDepth := 99) only [KIss.hold, KIss.done, KIss.fault, KIss.wait,
        Keeps.upd, Keeps.updId, Keeps.ite, Keeps.foldl, Keeps.foldl2, Keeps.foldl3, Keeps.refl, implies_true, keeps_jobMod,
        keeps_stopTile, *]

theorem keeps_imprecise {b0 : State} {s : State} (t : Nat) (code : Nat) (hK : Keeps b0 s) :
    Keeps b0 (imprecise s t code) := by
  unfold imprecise; (repeat' split) <;> simp (maxDischargeDepth := 99) only [KIss.hold, KIss.done, KIss.fault, KIss.wait,
        Keeps.upd, Keeps.updId, Keeps.ite, Keeps.foldl, Keeps.foldl2, Keeps.foldl3, Keeps.refl, implies_true, keeps_jobEnd,
        *]

theorem keeps_jobStatus {b0 : State} {s : State} (r : JobRef) (code : Nat) (hK : Keeps b0 s) :
    Keeps b0 (jobStatus s r code) := by
  unfold jobStatus; simp (maxDischargeDepth := 99) only [KIss.hold, KIss.done, KIss.fault, KIss.wait, Keeps.upd, Keeps.updId,
         Keeps.ite, Keeps.foldl, Keeps.foldl2, Keeps.foldl3, Keeps.refl, implies_true, keeps_jobMod, *]

theorem keeps_preciseFaultAt {b0 : State} {s : State} (t : Nat) (g : Nat) (code : Nat) (info : Nat) (va : Nat) (hK : Keeps b0 s) :
    Keeps b0 (preciseFaultAt s t g code info va) := by
  unfold preciseFaultAt
  repeat' first
    | with_reducible assumption
    | (extract_lets +onlyGivenNames z; first | ((first | refine Keeps.cut (p := Keeps b0 z) ?_ ?_ | refine Keeps.cut (p := Keeps b0 z.2) ?_ ?_ | refine Keeps.cut (p := Keeps b0 z.2.2) ?_ ?_ | refine Keeps.cut (p := Keeps b0 z.1) ?_ ?_ | refine Keeps.cut (p := Keeps b0 z.s) ?_ ?_ | refine Keeps.cut (p := Keeps b0 z.2.s) ?_ ?_ | refine Keeps.cut (p := Keeps b0 z.2.2.s) ?_ ?_); (focus (intros; dsimp only [z]; (repeat' first | (simp (maxDischargeDepth := 99) only [KIss.hold, KIss.done, KIss.fault, KIss.wait, Keeps.upd, Keeps.updId, Keeps.ite, Keeps.foldl, Keeps.foldl2, Keeps.foldl3, Keeps.refl, implies_true, keeps_rset, keeps_setGroup, keeps_jobEnd, *]; done) | with_reducible apply Keeps.fold1 | with_reducible apply Keeps.fold2 | with_reducible apply Keeps.fold3 | with_reducible apply Keeps.fold21 | intro _ | split | dsimp only))); intro hz; clear_value z) | clear_value z | skip)
    | (simp (maxDischargeDepth := 99) only [KIss.hold, KIss.done, KIss.fault, KIss.wait, Keeps.upd, Keeps.updId, Keeps.ite, Keeps.foldl, Keeps.foldl2, Keeps.foldl3, Keeps.refl, implies_true, keeps_rset, keeps_setGroup, keeps_jobEnd, *]; done)
    | with_reducible apply Keeps.fold1
    | with_reducible apply Keeps.fold2
    | with_reducible apply Keeps.fold3
    | with_reducible apply Keeps.fold21
    | intro _
    | (split <;> (try (rename_i heq; (first | refine Keeps.cut (Keeps.of_eq (b := b0) heq ?_) ?_ | refine Keeps.cut (Keeps.of_eq3 (b := b0) heq ?_) ?_ | refine Keeps.cut (Keeps.of_eq1 (b := b0) heq ?_) ?_ | refine Keeps.cut (Keeps.of_eq4 (b := b0) heq ?_) ?_); (focus (clear heq; (repeat' first | (simp (maxDischargeDepth := 99) only [KIss.hold, KIss.done, KIss.fault, KIss.wait, Keeps.upd, Keeps.updId, Keeps.ite, Keeps.foldl, Keeps.foldl2, Keeps.foldl3, Keeps.refl, implies_true, keeps_rset, keeps_setGroup, keeps_jobEnd, *]; done) | with_reducible apply Keeps.fold1 | with_reducible apply Keeps.fold2 | with_reducible apply Keeps.fold3 | with_reducible apply Keeps.fold21 | intro _ | split | dsimp only))); intro hz; (try dsimp only at hz); clear heq)))

theorem keeps_preciseFault {b0 : State} {s : State} (t : Nat) (g : Nat) (code : Nat) (hK : Keeps b0 s) :
    Keeps b0 (preciseFault s t g code) := by
  unfold preciseFault; (repeat' split) <;> simp (maxDischargeDepth := 99) only [KIss.hold, KIss.done, KIss.fault, KIss.wait,
        Keeps.upd, Keeps.updId, Keeps.ite, Keeps.foldl, Keeps.foldl2, Keeps.foldl3, Keeps.refl, implies_true,
        keeps_preciseFaultAt, *]

theorem keeps_ready {b0 : State} {s : State} (t : Nat) (g : Nat) (hK : Keeps b0 s) :
    ∀ u, ready s t g = some u → Keeps b0 u.2 := by
  unfold ready
  repeat' first
    | with_reducible assumption
    | refine fun (y : State) (gr : Group) (hy : Keeps b0 y) => ?_
    | (extract_lets +onlyGivenNames z; first | ((first | refine Keeps.cut (p := Keeps b0 z) ?_ ?_ | refine Keeps.cut (p := Keeps b0 z.2) ?_ ?_ | refine Keeps.cut (p := Keeps b0 z.2.2) ?_ ?_ | refine Keeps.cut (p := Keeps b0 z.1) ?_ ?_ | refine Keeps.cut (p := Keeps b0 z.s) ?_ ?_ | refine Keeps.cut (p := Keeps b0 z.2.s) ?_ ?_ | refine Keeps.cut (p := Keeps b0 z.2.2.s) ?_ ?_); (focus (intros; dsimp only [z]; (repeat' first | (simp (maxDischargeDepth := 99) only [KIss.hold, KIss.done, KIss.fault, KIss.wait, Keeps.upd, Keeps.updId, Keeps.ite, Keeps.foldl, Keeps.foldl2, Keeps.foldl3, Keeps.refl, implies_true, keeps_setGroup, *]; done) | with_reducible apply Keeps.fold1 | with_reducible apply Keeps.fold2 | with_reducible apply Keeps.fold3 | with_reducible apply Keeps.fold21 | intro _ | split | dsimp only))); intro hz; clear_value z) | clear_value z | skip)
    | (simp (maxDischargeDepth := 99) only [KIss.hold, KIss.done, KIss.fault, KIss.wait, Keeps.upd, Keeps.updId, Keeps.ite, Keeps.foldl, Keeps.foldl2, Keeps.foldl3, Keeps.refl, implies_true, keeps_setGroup, *]; done)
    | (intro t ht; injection ht with ht; subst ht)
    | (intro t ht; contradiction)
    | with_reducible apply Keeps.fold1
    | with_reducible apply Keeps.fold2
    | with_reducible apply Keeps.fold3
    | with_reducible apply Keeps.fold21
    | (split <;> (try (rename_i heq; (first | refine Keeps.cut (Keeps.of_eq (b := b0) heq ?_) ?_ | refine Keeps.cut (Keeps.of_eq3 (b := b0) heq ?_) ?_ | refine Keeps.cut (Keeps.of_eq1 (b := b0) heq ?_) ?_ | refine Keeps.cut (Keeps.of_eq4 (b := b0) heq ?_) ?_); (focus (clear heq; (repeat' first | (simp (maxDischargeDepth := 99) only [KIss.hold, KIss.done, KIss.fault, KIss.wait, Keeps.upd, Keeps.updId, Keeps.ite, Keeps.foldl, Keeps.foldl2, Keeps.foldl3, Keeps.refl, implies_true, keeps_setGroup, *]; done) | with_reducible apply Keeps.fold1 | with_reducible apply Keeps.fold2 | with_reducible apply Keeps.fold3 | with_reducible apply Keeps.fold21 | intro _ | split | dsimp only))); intro hz; (try dsimp only at hz); clear heq)))
    | intro _

theorem keeps_retire {b0 : State} {s : State} (t : Nat) (g : Nat) (hK : Keeps b0 s) :
    Keeps b0 (retire s t g) := by
  unfold retire
  repeat' first
    | with_reducible assumption
    | (extract_lets +onlyGivenNames z; first | ((first | refine Keeps.cut (p := Keeps b0 z) ?_ ?_ | refine Keeps.cut (p := Keeps b0 z.2) ?_ ?_ | refine Keeps.cut (p := Keeps b0 z.2.2) ?_ ?_ | refine Keeps.cut (p := Keeps b0 z.1) ?_ ?_ | refine Keeps.cut (p := Keeps b0 z.s) ?_ ?_ | refine Keeps.cut (p := Keeps b0 z.2.s) ?_ ?_ | refine Keeps.cut (p := Keeps b0 z.2.2.s) ?_ ?_); (focus (intros; dsimp only [z]; (repeat' first | (simp (maxDischargeDepth := 99) only [KIss.hold, KIss.done, KIss.fault, KIss.wait, Keeps.upd, Keeps.updId, Keeps.ite, Keeps.foldl, Keeps.foldl2, Keeps.foldl3, Keeps.refl, implies_true, keeps_setTile, keeps_jobMod, *]; done) | with_reducible apply Keeps.fold1 | with_reducible apply Keeps.fold2 | with_reducible apply Keeps.fold3 | with_reducible apply Keeps.fold21 | intro _ | split | dsimp only))); intro hz; clear_value z) | clear_value z | skip)
    | (simp (maxDischargeDepth := 99) only [KIss.hold, KIss.done, KIss.fault, KIss.wait, Keeps.upd, Keeps.updId, Keeps.ite, Keeps.foldl, Keeps.foldl2, Keeps.foldl3, Keeps.refl, implies_true, keeps_setTile, keeps_jobMod, *]; done)
    | with_reducible apply Keeps.fold1
    | with_reducible apply Keeps.fold2
    | with_reducible apply Keeps.fold3
    | with_reducible apply Keeps.fold21
    | intro _
    | (split <;> (try (rename_i heq; (first | refine Keeps.cut (Keeps.of_eq (b := b0) heq ?_) ?_ | refine Keeps.cut (Keeps.of_eq3 (b := b0) heq ?_) ?_ | refine Keeps.cut (Keeps.of_eq1 (b := b0) heq ?_) ?_ | refine Keeps.cut (Keeps.of_eq4 (b := b0) heq ?_) ?_); (focus (clear heq; (repeat' first | (simp (maxDischargeDepth := 99) only [KIss.hold, KIss.done, KIss.fault, KIss.wait, Keeps.upd, Keeps.updId, Keeps.ite, Keeps.foldl, Keeps.foldl2, Keeps.foldl3, Keeps.refl, implies_true, keeps_setTile, keeps_jobMod, *]; done) | with_reducible apply Keeps.fold1 | with_reducible apply Keeps.fold2 | with_reducible apply Keeps.fold3 | with_reducible apply Keeps.fold21 | intro _ | split | dsimp only))); intro hz; (try dsimp only at hz); clear heq)))

theorem keeps_pendFail {b0 : State} {s : State} (t : Nat) (g : Nat) (id : Nat) (key : Nat) (code : Nat) (hK : Keeps b0 s) :
    Keeps b0 (pendFail s t g id key code) := by
  unfold pendFail; (repeat' split) <;> simp (maxDischargeDepth := 99) only [KIss.hold, KIss.done, KIss.fault, KIss.wait,
        Keeps.upd, Keeps.updId, Keeps.ite, Keeps.foldl, Keeps.foldl2, Keeps.foldl3, Keeps.refl, implies_true, keeps_setGroup,
         keeps_imprecise, *]

theorem keeps_pendLine {b0 : State} {s : State} (t : Nat) (g : Nat) (id : Nat) (line : Nat) (bytes : List Byte) (hK : Keeps b0 s) :
    Keeps b0 (pendLine s t g id line bytes) := by
  unfold pendLine; (repeat' split) <;> simp (maxDischargeDepth := 99) only [KIss.hold, KIss.done, KIss.fault, KIss.wait,
        Keeps.upd, Keeps.updId, Keeps.ite, Keeps.foldl, Keeps.foldl2, Keeps.foldl3, Keeps.refl, implies_true, keeps_setGroup,
         *]

theorem keeps_pendAtomic {b0 : State} {s : State} (t : Nat) (g : Nat) (id : Nat) (addr : Nat) (outs : List Nat) (hK : Keeps b0 s) :
    Keeps b0 (pendAtomic s t g id addr outs) := by
  unfold pendAtomic; (repeat' split) <;> simp (maxDischargeDepth := 99) only [KIss.hold, KIss.done, KIss.fault, KIss.wait,
        Keeps.upd, Keeps.updId, Keeps.ite, Keeps.foldl, Keeps.foldl2, Keeps.foldl3, Keeps.refl, implies_true, keeps_setGroup,
         *]

theorem keeps_slmPut {b0 : State} {s : State} (t : Nat) (a : Nat) (bs : List Byte) (engine : Bool) (hK : Keeps b0 s) :
    Keeps b0 (slmPut s t a bs engine) := by
  unfold slmPut; simp (maxDischargeDepth := 99) only [KIss.hold, KIss.done, KIss.fault, KIss.wait, Keeps.upd, Keeps.updId,
        Keeps.ite, Keeps.foldl, Keeps.foldl2, Keeps.foldl3, Keeps.refl, implies_true, keeps_drpSpoil, keeps_engineWrote,
        keeps_setTile, *]

theorem keeps_slmWrite {b0 : State} {s : State} (t : Nat) (a : Nat) (bs : List Byte) (hK : Keeps b0 s) :
    Keeps b0 (slmWrite s t a bs) := by
  unfold slmWrite; simp (maxDischargeDepth := 99) only [KIss.hold, KIss.done, KIss.fault, KIss.wait, Keeps.upd, Keeps.updId,
        Keeps.ite, Keeps.foldl, Keeps.foldl2, Keeps.foldl3, Keeps.refl, implies_true, keeps_slmPut, *]

theorem keeps_queueStop {b0 : State} {s : State} (k : Nat) (key : Nat) (hK : Keeps b0 s) :
    Keeps b0 (queueStop s k key) := by
  unfold queueStop; simp (maxDischargeDepth := 99) only [KIss.hold, KIss.done, KIss.fault, KIss.wait, Keeps.upd, Keeps.updId,
         Keeps.ite, Keeps.foldl, Keeps.foldl2, Keeps.foldl3, Keeps.refl, implies_true, keeps_setQueue, *]

theorem keeps_grtQcfgWrite {b0 : State} {s : State} (k : Nat) (n : Nat) (v : Nat) (hK : Keeps b0 s) :
    Keeps b0 (grtQcfgWrite s k n v) := by
  unfold grtQcfgWrite; simp (maxDischargeDepth := 99) only [KIss.hold, KIss.done, KIss.fault, KIss.wait, Keeps.upd,
        Keeps.updId, Keeps.ite, Keeps.foldl, Keeps.foldl2, Keeps.foldl3, Keeps.refl, implies_true, keeps_rset, keeps_rfset,
        keeps_queueStop, *]

theorem keeps_jobQcfgWrite {b0 : State} {s : State} (k : Nat) (q : Nat) (v : Nat) (hK : Keeps b0 s) :
    Keeps b0 (jobQcfgWrite s k q v) := by
  unfold jobQcfgWrite; simp (maxDischargeDepth := 99) only [KIss.hold, KIss.done, KIss.fault, KIss.wait, Keeps.upd,
        Keeps.updId, Keeps.ite, Keeps.foldl, Keeps.foldl2, Keeps.foldl3, Keeps.refl, implies_true, keeps_rset, keeps_rfset,
        *]

theorem keeps_jobTailWrite {b0 : State} {s : State} (k : Nat) (q : Nat) (v : Nat) (hK : Keeps b0 s) :
    Keeps b0 (jobTailWrite s k q v) := by
  unfold jobTailWrite; simp (maxDischargeDepth := 99) only [KIss.hold, KIss.done, KIss.fault, KIss.wait, Keeps.upd,
        Keeps.updId, Keeps.ite, Keeps.foldl, Keeps.foldl2, Keeps.foldl3, Keeps.refl, implies_true, keeps_rfset,
        keeps_deepIdleExit, *]

theorem keeps_jobFinish {b0 : State} {s : State} (r : JobRef) (hK : Keeps b0 s) :
    Keeps b0 (jobFinish s r) := by
  unfold jobFinish
  repeat' first
    | with_reducible assumption
    | (extract_lets +onlyGivenNames z; first | ((first | refine Keeps.cut (p := Keeps b0 z) ?_ ?_ | refine Keeps.cut (p := Keeps b0 z.2) ?_ ?_ | refine Keeps.cut (p := Keeps b0 z.2.2) ?_ ?_ | refine Keeps.cut (p := Keeps b0 z.1) ?_ ?_ | refine Keeps.cut (p := Keeps b0 z.s) ?_ ?_ | refine Keeps.cut (p := Keeps b0 z.2.s) ?_ ?_ | refine Keeps.cut (p := Keeps b0 z.2.2.s) ?_ ?_); (focus (intros; dsimp only [z]; (repeat' first | (simp (maxDischargeDepth := 99) only [KIss.hold, KIss.done, KIss.fault, KIss.wait, Keeps.upd, Keeps.updId, Keeps.ite, Keeps.foldl, Keeps.foldl2, Keeps.foldl3, Keeps.refl, implies_true, keeps_rfset, keeps_count, keeps_report, keeps_busWrite, keeps_translate, keeps_postWrite, keeps_msix, *]; done) | with_reducible apply Keeps.fold1 | with_reducible apply Keeps.fold2 | with_reducible apply Keeps.fold3 | with_reducible apply Keeps.fold21 | intro _ | split | dsimp only))); intro hz; clear_value z) | clear_value z | skip)
    | (simp (maxDischargeDepth := 99) only [KIss.hold, KIss.done, KIss.fault, KIss.wait, Keeps.upd, Keeps.updId, Keeps.ite, Keeps.foldl, Keeps.foldl2, Keeps.foldl3, Keeps.refl, implies_true, keeps_rfset, keeps_count, keeps_report, keeps_busWrite, keeps_translate, keeps_postWrite, keeps_msix, *]; done)
    | with_reducible apply Keeps.fold1
    | with_reducible apply Keeps.fold2
    | with_reducible apply Keeps.fold3
    | with_reducible apply Keeps.fold21
    | intro _
    | (split <;> (try (rename_i heq; (first | refine Keeps.cut (Keeps.of_eq (b := b0) heq ?_) ?_ | refine Keeps.cut (Keeps.of_eq3 (b := b0) heq ?_) ?_ | refine Keeps.cut (Keeps.of_eq1 (b := b0) heq ?_) ?_ | refine Keeps.cut (Keeps.of_eq4 (b := b0) heq ?_) ?_); (focus (clear heq; (repeat' first | (simp (maxDischargeDepth := 99) only [KIss.hold, KIss.done, KIss.fault, KIss.wait, Keeps.upd, Keeps.updId, Keeps.ite, Keeps.foldl, Keeps.foldl2, Keeps.foldl3, Keeps.refl, implies_true, keeps_rfset, keeps_count, keeps_report, keeps_busWrite, keeps_translate, keeps_postWrite, keeps_msix, *]; done) | with_reducible apply Keeps.fold1 | with_reducible apply Keeps.fold2 | with_reducible apply Keeps.fold3 | with_reducible apply Keeps.fold21 | intro _ | split | dsimp only))); intro hz; (try dsimp only at hz); clear heq)))

theorem keeps_imageCheck {b0 : State} {s : State} (j : Job) (hK : Keeps b0 s) :
    Keeps b0 (imageCheck s j).2 := by
  unfold imageCheck
  repeat' first
    | with_reducible assumption
    | (extract_lets +onlyGivenNames z; first | ((first | refine Keeps.cut (p := Keeps b0 z) ?_ ?_ | refine Keeps.cut (p := Keeps b0 z.2) ?_ ?_ | refine Keeps.cut (p := Keeps b0 z.2.2) ?_ ?_ | refine Keeps.cut (p := Keeps b0 z.1) ?_ ?_ | refine Keeps.cut (p := Keeps b0 z.s) ?_ ?_ | refine Keeps.cut (p := Keeps b0 z.2.s) ?_ ?_ | refine Keeps.cut (p := Keeps b0 z.2.2.s) ?_ ?_); (focus (intros; dsimp only [z]; (repeat' first | (simp (maxDischargeDepth := 99) only [KIss.hold, KIss.done, KIss.fault, KIss.wait, Keeps.upd, Keeps.updId, Keeps.ite, Keeps.foldl, Keeps.foldl2, Keeps.foldl3, Keeps.refl, implies_true, keeps_engRead, *]; done) | with_reducible apply Keeps.fold1 | with_reducible apply Keeps.fold2 | with_reducible apply Keeps.fold3 | with_reducible apply Keeps.fold21 | intro _ | split | dsimp only))); intro hz; clear_value z) | clear_value z | skip)
    | (simp (maxDischargeDepth := 99) only [KIss.hold, KIss.done, KIss.fault, KIss.wait, Keeps.upd, Keeps.updId, Keeps.ite, Keeps.foldl, Keeps.foldl2, Keeps.foldl3, Keeps.refl, implies_true, keeps_engRead, *]; done)
    | with_reducible apply Keeps.fold1
    | with_reducible apply Keeps.fold2
    | with_reducible apply Keeps.fold3
    | with_reducible apply Keeps.fold21
    | intro _
    | (split <;> (try (rename_i heq; (first | refine Keeps.cut (Keeps.of_eq (b := b0) heq ?_) ?_ | refine Keeps.cut (Keeps.of_eq3 (b := b0) heq ?_) ?_ | refine Keeps.cut (Keeps.of_eq1 (b := b0) heq ?_) ?_ | refine Keeps.cut (Keeps.of_eq4 (b := b0) heq ?_) ?_); (focus (clear heq; (repeat' first | (simp (maxDischargeDepth := 99) only [KIss.hold, KIss.done, KIss.fault, KIss.wait, Keeps.upd, Keeps.updId, Keeps.ite, Keeps.foldl, Keeps.foldl2, Keeps.foldl3, Keeps.refl, implies_true, keeps_engRead, *]; done) | with_reducible apply Keeps.fold1 | with_reducible apply Keeps.fold2 | with_reducible apply Keeps.fold3 | with_reducible apply Keeps.fold21 | intro _ | split | dsimp only))); intro hz; (try dsimp only at hz); clear heq)))

theorem keeps_noteStale {b0 : State} {s : State} (ctx : Nat) (hK : Keeps b0 s) :
    Keeps b0 (noteStale s ctx) := by
  unfold noteStale; simp (maxDischargeDepth := 99) only [KIss.hold, KIss.done, KIss.fault, KIss.wait, Keeps.upd, Keeps.updId,
         Keeps.ite, Keeps.foldl, Keeps.foldl2, Keeps.foldl3, Keeps.refl, implies_true, keeps_rset, *]

theorem keeps_jobFail {b0 : State} {s : State} (r : JobRef) (code : Nat) (hK : Keeps b0 s) :
    Keeps b0 (jobFail s r code) := by
  unfold jobFail; simp (maxDischargeDepth := 99) only [KIss.hold, KIss.done, KIss.fault, KIss.wait, Keeps.upd, Keeps.updId,
        Keeps.ite, Keeps.foldl, Keeps.foldl2, Keeps.foldl3, Keeps.refl, implies_true, keeps_jobEnd, keeps_jobFinish, *]

theorem keeps_jobAccept {b0 : State} {s : State} (r : JobRef) (ws : List W64) (hK : Keeps b0 s) :
    Keeps b0 (jobAccept s r ws) := by
  unfold jobAccept; simp (maxDischargeDepth := 99) only [KIss.hold, KIss.done, KIss.fault, KIss.wait, Keeps.upd, Keeps.updId,
         Keeps.ite, Keeps.foldl, Keeps.foldl2, Keeps.foldl3, Keeps.refl, implies_true, keeps_imageCheck, keeps_noteStale,
        keeps_jobFail, *]

theorem keeps_jobTake {b0 : State} {s : State} (k : Nat) (hK : Keeps b0 s) :
    Keeps b0 (jobTake s k) := by
  unfold jobTake
  repeat' first
    | with_reducible assumption
    | (extract_lets +onlyGivenNames z; first | ((first | refine Keeps.cut (p := Keeps b0 z) ?_ ?_ | refine Keeps.cut (p := Keeps b0 z.2) ?_ ?_ | refine Keeps.cut (p := Keeps b0 z.2.2) ?_ ?_ | refine Keeps.cut (p := Keeps b0 z.1) ?_ ?_ | refine Keeps.cut (p := Keeps b0 z.s) ?_ ?_ | refine Keeps.cut (p := Keeps b0 z.2.s) ?_ ?_ | refine Keeps.cut (p := Keeps b0 z.2.2.s) ?_ ?_); (focus (intros; dsimp only [z]; (repeat' first | (simp (maxDischargeDepth := 99) only [KIss.hold, KIss.done, KIss.fault, KIss.wait, Keeps.upd, Keeps.updId, Keeps.ite, Keeps.foldl, Keeps.foldl2, Keeps.foldl3, Keeps.refl, implies_true, keeps_rfset, keeps_report, keeps_busRead, keeps_jobAccept, *]; done) | with_reducible apply Keeps.fold1 | with_reducible apply Keeps.fold2 | with_reducible apply Keeps.fold3 | with_reducible apply Keeps.fold21 | intro _ | split | dsimp only))); intro hz; clear_value z) | clear_value z | skip)
    | (simp (maxDischargeDepth := 99) only [KIss.hold, KIss.done, KIss.fault, KIss.wait, Keeps.upd, Keeps.updId, Keeps.ite, Keeps.foldl, Keeps.foldl2, Keeps.foldl3, Keeps.refl, implies_true, keeps_rfset, keeps_report, keeps_busRead, keeps_jobAccept, *]; done)
    | with_reducible apply Keeps.fold1
    | with_reducible apply Keeps.fold2
    | with_reducible apply Keeps.fold3
    | with_reducible apply Keeps.fold21
    | intro _
    | (split <;> (try (rename_i heq; (first | refine Keeps.cut (Keeps.of_eq (b := b0) heq ?_) ?_ | refine Keeps.cut (Keeps.of_eq3 (b := b0) heq ?_) ?_ | refine Keeps.cut (Keeps.of_eq1 (b := b0) heq ?_) ?_ | refine Keeps.cut (Keeps.of_eq4 (b := b0) heq ?_) ?_); (focus (clear heq; (repeat' first | (simp (maxDischargeDepth := 99) only [KIss.hold, KIss.done, KIss.fault, KIss.wait, Keeps.upd, Keeps.updId, Keeps.ite, Keeps.foldl, Keeps.foldl2, Keeps.foldl3, Keeps.refl, implies_true, keeps_rfset, keeps_report, keeps_busRead, keeps_jobAccept, *]; done) | with_reducible apply Keeps.fold1 | with_reducible apply Keeps.fold2 | with_reducible apply Keeps.fold3 | with_reducible apply Keeps.fold21 | intro _ | split | dsimp only))); intro hz; (try dsimp only at hz); clear heq)))

theorem keeps_rangePages {b0 : State} (x0 : Nat) {x1 : State} (x2 : Nat) (x3 : Nat) (x4 : Nat) (x5 : Nat) (x6 : Need) (hK : Keeps b0 x1) :
    Keeps b0 (rangePages x0 x1 x2 x3 x4 x5 x6).2.2.2 := by
  induction x0 generalizing b0 x1 x2 x3 x4 x5 x6 with
  | zero => unfold rangePages; (repeat' split) <;> (simp (maxDischargeDepth := 99) only [KIss.hold, KIss.done, KIss.fault, KIss.wait, Keeps.upd, Keeps.updId, Keeps.ite, Keeps.foldl, Keeps.foldl2, Keeps.foldl3, Keeps.refl, implies_true, keeps_translate, *]; done)
  | succ n ih =>
    unfold rangePages
    repeat' first
      | with_reducible assumption
      | (simp (maxDischargeDepth := 99) only [KIss.hold, KIss.done, KIss.fault, KIss.wait, Keeps.upd, Keeps.updId, Keeps.ite, Keeps.foldl, Keeps.foldl2, Keeps.foldl3, Keeps.refl, implies_true, keeps_translate, *]; done)
      | (split <;> (try (rename_i heq; (first | refine Keeps.cut (Keeps.of_eq (b := b0) heq ?_) ?_ | refine Keeps.cut (Keeps.of_eq3 (b := b0) heq ?_) ?_ | refine Keeps.cut (Keeps.of_eq1 (b := b0) heq ?_) ?_ | refine Keeps.cut (Keeps.of_eq4 (b := b0) heq ?_) ?_); (focus (clear heq; (repeat' first | (simp (maxDischargeDepth := 99) only [KIss.hold, KIss.done, KIss.fault, KIss.wait, Keeps.upd, Keeps.updId, Keeps.ite, Keeps.foldl, Keeps.foldl2, Keeps.foldl3, Keeps.refl, implies_true, keeps_translate, *]; done) | with_reducible apply Keeps.fold1 | with_reducible apply Keeps.fold2 | with_reducible apply Keeps.fold3 | with_reducible apply Keeps.fold21 | intro _ | split | dsimp only))); intro hz; (try dsimp only at hz); clear heq)))

theorem keeps_regionList {b0 : State} (x0 : Nat) {x1 : State} (x2 : Job) (x3 : Nat) (hK : Keeps b0 x1) :
    Keeps b0 (regionList x0 x1 x2 x3).2.2.2.2 := by
  induction x0 generalizing b0 x1 x2 x3 with
  | zero => unfold regionList; (repeat' split) <;> (simp (maxDischargeDepth := 99) only [KIss.hold, KIss.done, KIss.fault, KIss.wait, Keeps.upd, Keeps.updId, Keeps.ite, Keeps.foldl, Keeps.foldl2, Keeps.foldl3, Keeps.refl, implies_true, keeps_engRead, keeps_rangePages, *]; done)
  | succ n ih =>
    unfold regionList
    repeat' first
      | with_reducible assumption
      | (extract_lets +onlyGivenNames z; first | ((first | refine Keeps.cut (p := Keeps b0 z) ?_ ?_ | refine Keeps.cut (p := Keeps b0 z.2) ?_ ?_ | refine Keeps.cut (p := Keeps b0 z.2.2) ?_ ?_ | refine Keeps.cut (p := Keeps b0 z.1) ?_ ?_ | refine Keeps.cut (p := Keeps b0 z.s) ?_ ?_ | refine Keeps.cut (p := Keeps b0 z.2.s) ?_ ?_ | refine Keeps.cut (p := Keeps b0 z.2.2.s) ?_ ?_); (focus (intros; dsimp only [z]; (repeat' first | (simp (maxDischargeDepth := 99) only [KIss.hold, KIss.done, KIss.fault, KIss.wait, Keeps.upd, Keeps.updId, Keeps.ite, Keeps.foldl, Keeps.foldl2, Keeps.foldl3, Keeps.refl, implies_true, keeps_engRead, keeps_rangePages, *]; done) | with_reducible apply Keeps.fold1 | with_reducible apply Keeps.fold2 | with_reducible apply Keeps.fold3 | with_reducible apply Keeps.fold21 | intro _ | split | dsimp only))); intro hz; clear_value z) | clear_value z | skip)
      | (simp (maxDischargeDepth := 99) only [KIss.hold, KIss.done, KIss.fault, KIss.wait, Keeps.upd, Keeps.updId, Keeps.ite, Keeps.foldl, Keeps.foldl2, Keeps.foldl3, Keeps.refl, implies_true, keeps_engRead, keeps_rangePages, *]; done)
      | with_reducible apply Keeps.fold1
      | with_reducible apply Keeps.fold2
      | with_reducible apply Keeps.fold3
      | with_reducible apply Keeps.fold21
      | intro _
      | (split <;> (try (rename_i heq; (first | refine Keeps.cut (Keeps.of_eq (b := b0) heq ?_) ?_ | refine Keeps.cut (Keeps.of_eq3 (b := b0) heq ?_) ?_ | refine Keeps.cut (Keeps.of_eq1 (b := b0) heq ?_) ?_ | refine Keeps.cut (Keeps.of_eq4 (b := b0) heq ?_) ?_); (focus (clear heq; (repeat' first | (simp (maxDischargeDepth := 99) only [KIss.hold, KIss.done, KIss.fault, KIss.wait, Keeps.upd, Keeps.updId, Keeps.ite, Keeps.foldl, Keeps.foldl2, Keeps.foldl3, Keeps.refl, implies_true, keeps_engRead, keeps_rangePages, *]; done) | with_reducible apply Keeps.fold1 | with_reducible apply Keeps.fold2 | with_reducible apply Keeps.fold3 | with_reducible apply Keeps.fold21 | intro _ | split | dsimp only))); intro hz; (try dsimp only at hz); clear heq)))

theorem keeps_tileForJob {b0 : State} {s : State} (t : Nat) (rank : Nat) (j : Job) (hK : Keeps b0 s) :
    Keeps b0 (tileForJob s t rank j) := by
  unfold tileForJob; simp (maxDischargeDepth := 99) only [KIss.hold, KIss.done, KIss.fault, KIss.wait, Keeps.upd,
        Keeps.updId, Keeps.ite, Keeps.foldl, Keeps.foldl2, Keeps.foldl3, Keeps.refl, implies_true, keeps_tlbDrop,
        keeps_setTile, *]

theorem keeps_jobQueuesOn {b0 : State} {s : State} (j : Job) (hK : Keeps b0 s) :
    Keeps b0 (jobQueuesOn s j).2 := by
  unfold jobQueuesOn
  repeat' first
    | with_reducible assumption
    | (extract_lets +onlyGivenNames z; first | ((first | refine Keeps.cut (p := Keeps b0 z) ?_ ?_ | refine Keeps.cut (p := Keeps b0 z.2) ?_ ?_ | refine Keeps.cut (p := Keeps b0 z.2.2) ?_ ?_ | refine Keeps.cut (p := Keeps b0 z.1) ?_ ?_ | refine Keeps.cut (p := Keeps b0 z.s) ?_ ?_ | refine Keeps.cut (p := Keeps b0 z.2.s) ?_ ?_ | refine Keeps.cut (p := Keeps b0 z.2.2.s) ?_ ?_); (focus (intros; dsimp only [z]; (repeat' first | (simp (maxDischargeDepth := 99) only [KIss.hold, KIss.done, KIss.fault, KIss.wait, Keeps.upd, Keeps.updId, Keeps.ite, Keeps.foldl, Keeps.foldl2, Keeps.foldl3, Keeps.refl, implies_true, keeps_grtQcfgWrite, *]; done) | with_reducible apply Keeps.fold1 | with_reducible apply Keeps.fold2 | with_reducible apply Keeps.fold3 | with_reducible apply Keeps.fold21 | intro _ | split | dsimp only))); intro hz; clear_value z) | clear_value z | skip)
    | (simp (maxDischargeDepth := 99) only [KIss.hold, KIss.done, KIss.fault, KIss.wait, Keeps.upd, Keeps.updId, Keeps.ite, Keeps.foldl, Keeps.foldl2, Keeps.foldl3, Keeps.refl, implies_true, keeps_grtQcfgWrite, *]; done)
    | with_reducible apply Keeps.fold1
    | with_reducible apply Keeps.fold2
    | with_reducible apply Keeps.fold3
    | with_reducible apply Keeps.fold21
    | intro _
    | (split <;> (try (rename_i heq; (first | refine Keeps.cut (Keeps.of_eq (b := b0) heq ?_) ?_ | refine Keeps.cut (Keeps.of_eq3 (b := b0) heq ?_) ?_ | refine Keeps.cut (Keeps.of_eq1 (b := b0) heq ?_) ?_ | refine Keeps.cut (Keeps.of_eq4 (b := b0) heq ?_) ?_); (focus (clear heq; (repeat' first | (simp (maxDischargeDepth := 99) only [KIss.hold, KIss.done, KIss.fault, KIss.wait, Keeps.upd, Keeps.updId, Keeps.ite, Keeps.foldl, Keeps.foldl2, Keeps.foldl3, Keeps.refl, implies_true, keeps_grtQcfgWrite, *]; done) | with_reducible apply Keeps.fold1 | with_reducible apply Keeps.fold2 | with_reducible apply Keeps.fold3 | with_reducible apply Keeps.fold21 | intro _ | split | dsimp only))); intro hz; (try dsimp only at hz); clear heq)))

theorem keeps_jobQueuesOff {b0 : State} {s : State} (j : Job) (hK : Keeps b0 s) :
    Keeps b0 (jobQueuesOff s j) := by
  unfold jobQueuesOff; simp (maxDischargeDepth := 99) only [KIss.hold, KIss.done, KIss.fault, KIss.wait, Keeps.upd,
        Keeps.updId, Keeps.ite, Keeps.foldl, Keeps.foldl2, Keeps.foldl3, Keeps.refl, implies_true, keeps_grtQcfgWrite, *]

theorem keeps_releaseTiles {b0 : State} {s : State} (j : Job) (hK : Keeps b0 s) :
    Keeps b0 (releaseTiles s j) := by
  unfold releaseTiles; simp (maxDischargeDepth := 99) only [KIss.hold, KIss.done, KIss.fault, KIss.wait, Keeps.upd,
        Keeps.updId, Keeps.ite, Keeps.foldl, Keeps.foldl2, Keeps.foldl3, Keeps.refl, implies_true, keeps_setGrotto,
        keeps_setTile, *]

theorem keeps_restoreParts {b0 : State} {s : State} (j : Job) (t base n1 n2 n3 n4 : Nat) (hK : Keeps b0 s) :
    Keeps b0 (restoreParts s j t base n1 n2 n3 n4).2 := by
  unfold restoreParts
  split
  rename_i c1 regs s1 h1
  have k1 := Keeps.of_eq3 h1 (keeps_engRead _ _ _ hK)
  split
  rename_i c2 slm s2 h2
  have k2 := Keeps.of_eq3 h2 (keeps_engRead _ _ _ k1)
  split
  rename_i c3 acc s3 h3
  have k3 := Keeps.of_eq3 h3 (keeps_engRead _ _ _ k2)
  split
  rename_i c4 oc s4 h4
  have k4 := Keeps.of_eq3 h4 (keeps_engRead _ _ _ k3)
  split
  rename_i c5 gs s5 h5
  have k5 := Keeps.of_eq3 h5 (keeps_engRead _ _ _ k4)
  split
  rename_i c6 misc s6 h6
  have k6 := Keeps.of_eq3 h6 (keeps_engRead _ _ _ k5)
  clear h1 h2 h3 h4 h5 h6
  extract_lets +onlyGivenNames code
  split
  · exact k6
  · with_reducible exact Keeps.foldl (fun y g => keeps_rset (Keeps.refl y) _ _ _ _ _) (keeps_setTile _ _ k6)

theorem keeps_restoreBlock {b0 : State} {s : State} (j : Job) (t : Nat) (b : Nat) (hK : Keeps b0 s) :
    Keeps b0 (restoreBlock s j t b).2 := by
  unfold restoreBlock; simp (maxDischargeDepth := 99) only [KIss.hold, KIss.done, KIss.fault, KIss.wait, Keeps.upd,
        Keeps.updId, Keeps.ite, Keeps.foldl, Keeps.foldl2, Keeps.foldl3, Keeps.refl, implies_true, keeps_restoreParts, *]

theorem keeps_restoreJob {b0 : State} {s : State} (r : JobRef) (hK : Keeps b0 s) :
    Keeps b0 (restoreJob s r).2 := by
  unfold restoreJob
  repeat' first
    | with_reducible assumption
    | (extract_lets +onlyGivenNames z; first | ((first | refine Keeps.cut (p := Keeps b0 z) ?_ ?_ | refine Keeps.cut (p := Keeps b0 z.2) ?_ ?_ | refine Keeps.cut (p := Keeps b0 z.2.2) ?_ ?_ | refine Keeps.cut (p := Keeps b0 z.1) ?_ ?_ | refine Keeps.cut (p := Keeps b0 z.s) ?_ ?_ | refine Keeps.cut (p := Keeps b0 z.2.s) ?_ ?_ | refine Keeps.cut (p := Keeps b0 z.2.2.s) ?_ ?_); (focus (intros; dsimp only [z]; (repeat' first | (simp (maxDischargeDepth := 99) only [KIss.hold, KIss.done, KIss.fault, KIss.wait, Keeps.upd, Keeps.updId, Keeps.ite, Keeps.foldl, Keeps.foldl2, Keeps.foldl3, Keeps.refl, implies_true, keeps_engRead, keeps_jobMod, keeps_restoreBlock, *]; done) | with_reducible apply Keeps.fold1 | with_reducible apply Keeps.fold2 | with_reducible apply Keeps.fold3 | with_reducible apply Keeps.fold21 | intro _ | split | dsimp only))); intro hz; clear_value z) | clear_value z | skip)
    | (simp (maxDischargeDepth := 99) only [KIss.hold, KIss.done, KIss.fault, KIss.wait, Keeps.upd, Keeps.updId, Keeps.ite, Keeps.foldl, Keeps.foldl2, Keeps.foldl3, Keeps.refl, implies_true, keeps_engRead, keeps_jobMod, keeps_restoreBlock, *]; done)
    | with_reducible apply Keeps.fold1
    | with_reducible apply Keeps.fold2
    | with_reducible apply Keeps.fold3
    | with_reducible apply Keeps.fold21
    | intro _
    | (split <;> (try (rename_i heq; (first | refine Keeps.cut (Keeps.of_eq (b := b0) heq ?_) ?_ | refine Keeps.cut (Keeps.of_eq3 (b := b0) heq ?_) ?_ | refine Keeps.cut (Keeps.of_eq1 (b := b0) heq ?_) ?_ | refine Keeps.cut (Keeps.of_eq4 (b := b0) heq ?_) ?_); (focus (clear heq; (repeat' first | (simp (maxDischargeDepth := 99) only [KIss.hold, KIss.done, KIss.fault, KIss.wait, Keeps.upd, Keeps.updId, Keeps.ite, Keeps.foldl, Keeps.foldl2, Keeps.foldl3, Keeps.refl, implies_true, keeps_engRead, keeps_jobMod, keeps_restoreBlock, *]; done) | with_reducible apply Keeps.fold1 | with_reducible apply Keeps.fold2 | with_reducible apply Keeps.fold3 | with_reducible apply Keeps.fold21 | intro _ | split | dsimp only))); intro hz; (try dsimp only at hz); clear heq)))

theorem keeps_launchFail {b0 : State} {s : State} (r : JobRef) (code : Nat) (va : Nat) (hK : Keeps b0 s) :
    Keeps b0 (launchFail s r code va) := by
  unfold launchFail; (repeat' split) <;> simp (maxDischargeDepth := 99) only [KIss.hold, KIss.done, KIss.fault, KIss.wait,
        Keeps.upd, Keeps.updId, Keeps.ite, Keeps.foldl, Keeps.foldl2, Keeps.foldl3, Keeps.refl, implies_true, keeps_jobMod,
        keeps_jobFinish, keeps_releaseTiles, *]

theorem keeps_jobReserve {b0 : State} {s : State} (r : JobRef) (hK : Keeps b0 s) :
    Keeps b0 (jobReserve s r) := by
  unfold jobReserve; (repeat' split) <;> simp (maxDischargeDepth := 99) only [KIss.hold, KIss.done, KIss.fault, KIss.wait,
        Keeps.upd, Keeps.updId, Keeps.ite, Keeps.foldl, Keeps.foldl2, Keeps.foldl3, Keeps.refl, implies_true, keeps_report,
        keeps_translate, keeps_dccRangeNow, keeps_jobMod, keeps_jobFail, keeps_regionList, keeps_tileForJob,
        keeps_jobQueuesOn, keeps_jobQueuesOff, keeps_releaseTiles, keeps_restoreJob, keeps_launchFail, *]

theorem keeps_launchInto {b0 : State} {s : State} (r : JobRef) (j : Job) (t : Nat) (rank : Nat) (slot : Nat) (g : Nat) (attempt : Nat) (hK : Keeps b0 s) :
    Keeps b0 (launchInto s r j t rank slot g attempt) := by
  unfold launchInto; simp (maxDischargeDepth := 99) only [KIss.hold, KIss.done, KIss.fault, KIss.wait, Keeps.upd,
        Keeps.updId, Keeps.ite, Keeps.foldl, Keeps.foldl2, Keeps.foldl3, Keeps.refl, implies_true, keeps_rset,
        keeps_setGroup, keeps_jobMod, *]

theorem keeps_groupLaunch {b0 : State} {s : State} (r : JobRef) (rank : Nat) (hK : Keeps b0 s) : Keeps b0 (groupLaunch s r rank) := by
  unfold groupLaunch
  split
  · exact hK
  · extract_lets +onlyGivenNames t
    split
    · exact hK
    · extract_lets +onlyGivenNames first
      rename_i j _ _
      have hb : ∀ b, Keeps b0 (restoreBlock s j t b).2 := fun b => keeps_restoreBlock _ _ _ hK
      revert hb
      generalize restoreBlock s j t = rb
      intro hb
      split
      · split
        · split
          rename_i code u hu
          have hz : Keeps b0 u := Keeps.of_eq hu (hb _)
          split
          · exact keeps_jobEnd _ _ _ hz
          · exact keeps_jobMod _ _ hz
        · exact hK
      · split
        · exact hK
        · split
          · split
            · exact keeps_launchInto _ _ _ _ _ _ _ (keeps_jobMod _ _ hK)
            · exact hK
          · extract_lets n g
            split
            · exact keeps_launchInto _ _ _ _ _ _ _ (keeps_jobMod _ _ hK)
            · exact hK

theorem keeps_jobLosesTile {b0 : State} {s : State} (r : JobRef) (t : Nat) (hK : Keeps b0 s) :
    Keeps b0 (jobLosesTile s r t) := by
  unfold jobLosesTile; (repeat' split) <;> simp (maxDischargeDepth := 99) only [KIss.hold, KIss.done, KIss.fault, KIss.wait,
        Keeps.upd, Keeps.updId, Keeps.ite, Keeps.foldl, Keeps.foldl2, Keeps.foldl3, Keeps.refl, implies_true, keeps_jobMod,
        keeps_jobEnd, *]

theorem keeps_jobsRecheck {b0 : State} {s : State} (hK : Keeps b0 s) :
    Keeps b0 (jobsRecheck s) := by
  unfold jobsRecheck
  repeat' first
    | with_reducible assumption
    | (extract_lets +onlyGivenNames z; first | ((first | refine Keeps.cut (p := Keeps b0 z) ?_ ?_ | refine Keeps.cut (p := Keeps b0 z.2) ?_ ?_ | refine Keeps.cut (p := Keeps b0 z.2.2) ?_ ?_ | refine Keeps.cut (p := Keeps b0 z.1) ?_ ?_ | refine Keeps.cut (p := Keeps b0 z.s) ?_ ?_ | refine Keeps.cut (p := Keeps b0 z.2.s) ?_ ?_ | refine Keeps.cut (p := Keeps b0 z.2.2.s) ?_ ?_); (focus (intros; dsimp only [z]; (repeat' first | (simp (maxDischargeDepth := 99) only [KIss.hold, KIss.done, KIss.fault, KIss.wait, Keeps.upd, Keeps.updId, Keeps.ite, Keeps.foldl, Keeps.foldl2, Keeps.foldl3, Keeps.refl, implies_true, keeps_jobFail, *]; done) | with_reducible apply Keeps.fold1 | with_reducible apply Keeps.fold2 | with_reducible apply Keeps.fold3 | with_reducible apply Keeps.fold21 | intro _ | split | dsimp only))); intro hz; clear_value z) | clear_value z | skip)
    | (simp (maxDischargeDepth := 99) only [KIss.hold, KIss.done, KIss.fault, KIss.wait, Keeps.upd, Keeps.updId, Keeps.ite, Keeps.foldl, Keeps.foldl2, Keeps.foldl3, Keeps.refl, implies_true, keeps_jobFail, *]; done)
    | with_reducible apply Keeps.fold1
    | with_reducible apply Keeps.fold2
    | with_reducible apply Keeps.fold3
    | with_reducible apply Keeps.fold21
    | intro _
    | (split <;> (try (rename_i heq; (first | refine Keeps.cut (Keeps.of_eq (b := b0) heq ?_) ?_ | refine Keeps.cut (Keeps.of_eq3 (b := b0) heq ?_) ?_ | refine Keeps.cut (Keeps.of_eq1 (b := b0) heq ?_) ?_ | refine Keeps.cut (Keeps.of_eq4 (b := b0) heq ?_) ?_); (focus (clear heq; (repeat' first | (simp (maxDischargeDepth := 99) only [KIss.hold, KIss.done, KIss.fault, KIss.wait, Keeps.upd, Keeps.updId, Keeps.ite, Keeps.foldl, Keeps.foldl2, Keeps.foldl3, Keeps.refl, implies_true, keeps_jobFail, *]; done) | with_reducible apply Keeps.fold1 | with_reducible apply Keeps.fold2 | with_reducible apply Keeps.fold3 | with_reducible apply Keeps.fold21 | intro _ | split | dsimp only))); intro hz; (try dsimp only at hz); clear heq)))

theorem keeps_siteLost {b0 : State} {s : State} (t : Nat) (hK : Keeps b0 s) :
    Keeps b0 (siteLost s t) := by
  unfold siteLost; simp (maxDischargeDepth := 99) only [KIss.hold, KIss.done, KIss.fault, KIss.wait, Keeps.upd, Keeps.updId,
        Keeps.ite, Keeps.foldl, Keeps.foldl2, Keeps.foldl3, Keeps.refl, implies_true, keeps_setGrotto, *]

theorem keeps_fenceTile {b0 : State} {s : State} (t : Nat) (record : Bool) (hK : Keeps b0 s) :
    Keeps b0 (fenceTile s t record) := by
  unfold fenceTile; (repeat' split) <;> simp (maxDischargeDepth := 99) only [KIss.hold, KIss.done, KIss.fault, KIss.wait,
        Keeps.upd, Keeps.updId, Keeps.ite, Keeps.foldl, Keeps.foldl2, Keeps.foldl3, Keeps.refl, implies_true,
        keeps_setTileCounts, keeps_setFenced, keeps_fenceEnter, keeps_setTile, keeps_jobLosesTile, keeps_jobsRecheck,
        keeps_siteLost, *]

theorem keeps_imageTile {b0 : State} {s : State} (j : Job) (t : Nat) (b : Nat) (hK : Keeps b0 s) :
    Keeps b0 (imageTile s j t b).2 := by
  unfold imageTile; simp (maxDischargeDepth := 99) only [KIss.hold, KIss.done, KIss.fault, KIss.wait, Keeps.upd, Keeps.updId,
         Keeps.ite, Keeps.foldl, Keeps.foldl2, Keeps.foldl3, Keeps.refl, implies_true, keeps_engWrite, *]

theorem keeps_imageNext {b0 : State} {s : State} (j : Job) (r : Nat) (hK : Keeps b0 s) :
    Keeps b0 (imageNext s j r).2 := by
  unfold imageNext
  repeat' first
    | with_reducible assumption
    | (extract_lets +onlyGivenNames z; first | ((first | refine Keeps.cut (p := Keeps b0 z) ?_ ?_ | refine Keeps.cut (p := Keeps b0 z.2) ?_ ?_ | refine Keeps.cut (p := Keeps b0 z.2.2) ?_ ?_ | refine Keeps.cut (p := Keeps b0 z.1) ?_ ?_ | refine Keeps.cut (p := Keeps b0 z.s) ?_ ?_ | refine Keeps.cut (p := Keeps b0 z.2.s) ?_ ?_ | refine Keeps.cut (p := Keeps b0 z.2.2.s) ?_ ?_); (focus (intros; dsimp only [z]; (repeat' first | (simp (maxDischargeDepth := 99) only [KIss.hold, KIss.done, KIss.fault, KIss.wait, Keeps.upd, Keeps.updId, Keeps.ite, Keeps.foldl, Keeps.foldl2, Keeps.foldl3, Keeps.refl, implies_true, keeps_drawFree, *]; done) | with_reducible apply Keeps.fold1 | with_reducible apply Keeps.fold2 | with_reducible apply Keeps.fold3 | with_reducible apply Keeps.fold21 | intro _ | split | dsimp only))); intro hz; clear_value z) | clear_value z | skip)
    | (simp (maxDischargeDepth := 99) only [KIss.hold, KIss.done, KIss.fault, KIss.wait, Keeps.upd, Keeps.updId, Keeps.ite, Keeps.foldl, Keeps.foldl2, Keeps.foldl3, Keeps.refl, implies_true, keeps_drawFree, *]; done)
    | with_reducible apply Keeps.fold1
    | with_reducible apply Keeps.fold2
    | with_reducible apply Keeps.fold3
    | with_reducible apply Keeps.fold21
    | intro _
    | (split <;> (try (rename_i heq; (first | refine Keeps.cut (Keeps.of_eq (b := b0) heq ?_) ?_ | refine Keeps.cut (Keeps.of_eq3 (b := b0) heq ?_) ?_ | refine Keeps.cut (Keeps.of_eq1 (b := b0) heq ?_) ?_ | refine Keeps.cut (Keeps.of_eq4 (b := b0) heq ?_) ?_); (focus (clear heq; (repeat' first | (simp (maxDischargeDepth := 99) only [KIss.hold, KIss.done, KIss.fault, KIss.wait, Keeps.upd, Keeps.updId, Keeps.ite, Keeps.foldl, Keeps.foldl2, Keeps.foldl3, Keeps.refl, implies_true, keeps_drawFree, *]; done) | with_reducible apply Keeps.fold1 | with_reducible apply Keeps.fold2 | with_reducible apply Keeps.fold3 | with_reducible apply Keeps.fold21 | intro _ | split | dsimp only))); intro hz; (try dsimp only at hz); clear heq)))

theorem keeps_firstCode {b0 : State} (code : Nat) {r : Nat × State} (hK : Keeps b0 r.2) : Keeps b0 (firstCode code r).2 := by
  exact hK

theorem keeps_blockGone {b0 : State} {s : State} (j : Job) (b : Nat) (hK : Keeps b0 s) :
    Keeps b0 (blockGone s j b).2 := by
  unfold blockGone; simp (maxDischargeDepth := 99) only [KIss.hold, KIss.done, KIss.fault, KIss.wait, Keeps.upd, Keeps.updId,
         Keeps.ite, Keeps.foldl, Keeps.foldl2, Keeps.foldl3, Keeps.refl, implies_true, keeps_engWrite, *]

theorem keeps_imageRest {b0 : State} {s : State} (j : Job) (hK : Keeps b0 s) : Keeps b0 (imageRest s j).2 := by
  unfold imageRest
  exact Keeps.fold2 (fun c y b hy => keeps_firstCode _ (keeps_blockGone _ _ hy)) hK

theorem keeps_saveImage {b0 : State} {s : State} (j : Job) (hK : Keeps b0 s) :
    Keeps b0 (saveImage s j).2 := by
  unfold saveImage
  repeat' first
    | with_reducible assumption
    | (simp (maxDischargeDepth := 99) only [KIss.hold, KIss.done, KIss.fault, KIss.wait, Keeps.upd, Keeps.updId, Keeps.ite, Keeps.foldl, Keeps.foldl2, Keeps.foldl3, Keeps.refl, implies_true, keeps_engWrite, keeps_imageTile, keeps_imageNext, keeps_imageRest, *]; done)
    | (split <;> (try (rename_i heq; (first | refine Keeps.cut (Keeps.of_eq (b := b0) heq ?_) ?_ | refine Keeps.cut (Keeps.of_eq3 (b := b0) heq ?_) ?_ | refine Keeps.cut (Keeps.of_eq1 (b := b0) heq ?_) ?_ | refine Keeps.cut (Keeps.of_eq4 (b := b0) heq ?_) ?_); (focus (clear heq; (repeat' first | (simp (maxDischargeDepth := 99) only [KIss.hold, KIss.done, KIss.fault, KIss.wait, Keeps.upd, Keeps.updId, Keeps.ite, Keeps.foldl, Keeps.foldl2, Keeps.foldl3, Keeps.refl, implies_true, keeps_engWrite, keeps_imageTile, keeps_imageNext, keeps_imageRest, *]; done) | with_reducible apply Keeps.fold1 | with_reducible apply Keeps.fold2 | with_reducible apply Keeps.fold3 | with_reducible apply Keeps.fold21 | intro _ | split | dsimp only))); intro hz; (try dsimp only at hz); clear heq)))

theorem keeps_drainTile {b0 : State} {s : State} (t : Nat) (hK : Keeps b0 s) :
    Keeps b0 (drainTile s t) := by
  unfold drainTile; simp (maxDischargeDepth := 99) only [KIss.hold, KIss.done, KIss.fault, KIss.wait, Keeps.upd, Keeps.updId,
         Keeps.ite, Keeps.foldl, Keeps.foldl2, Keeps.foldl3, Keeps.refl, implies_true, keeps_dccWriteNow, keeps_setTile, *]

theorem keeps_jobComplete {b0 : State} {s : State} (r : JobRef) (hK : Keeps b0 s) :
    Keeps b0 (jobComplete s r) := by
  unfold jobComplete; (repeat' split) <;> simp (maxDischargeDepth := 99) only [KIss.hold, KIss.done, KIss.fault, KIss.wait,
        Keeps.upd, Keeps.updId, Keeps.ite, Keeps.foldl, Keeps.foldl2, Keeps.foldl3, Keeps.refl, implies_true, keeps_drainAll,
         keeps_dccRangeNow, keeps_jobMod, keeps_jobStatus, keeps_jobFinish, keeps_jobQueuesOff, keeps_releaseTiles,
        keeps_saveImage, keeps_drainTile, *]

theorem keeps_jobCtlCode {b0 : State} {s : State} (k : Nat) (code : Nat) (hK : Keeps b0 s) :
    Keeps b0 (jobCtlCode s k code) := by
  unfold jobCtlCode; simp (maxDischargeDepth := 99) only [KIss.hold, KIss.done, KIss.fault, KIss.wait, Keeps.upd,
        Keeps.updId, Keeps.ite, Keeps.foldl, Keeps.foldl2, Keeps.foldl3, Keeps.refl, implies_true, keeps_rfset, *]

theorem keeps_jobAbort {b0 : State} {s : State} (k : Nat) (v : Nat) (hK : Keeps b0 s) :
    Keeps b0 (jobAbort s k v) := by
  unfold jobAbort; (repeat' split) <;> simp (maxDischargeDepth := 99) only [KIss.hold, KIss.done, KIss.fault, KIss.wait,
        Keeps.upd, Keeps.updId, Keeps.ite, Keeps.foldl, Keeps.foldl2, Keeps.foldl3, Keeps.refl, implies_true, keeps_rfset,
        keeps_jobMod, keeps_jobEnd, keeps_jobCtlCode, *]

theorem keeps_jobPreempt {b0 : State} {s : State} (k : Nat) (v : Nat) (hK : Keeps b0 s) :
    Keeps b0 (jobPreempt s k v) := by
  unfold jobPreempt; (repeat' split) <;> simp (maxDischargeDepth := 99) only [KIss.hold, KIss.done, KIss.fault, KIss.wait,
        Keeps.upd, Keeps.updId, Keeps.ite, Keeps.foldl, Keeps.foldl2, Keeps.foldl3, Keeps.refl, implies_true, keeps_rfset,
        keeps_jobMod, keeps_jobEnd, keeps_jobCtlCode, *]

theorem keeps_jobTlbInv {b0 : State} {s : State} (k : Nat) (v : Nat) (hK : Keeps b0 s) :
    Keeps b0 (jobTlbInv s k v) := by
  unfold jobTlbInv; simp (maxDischargeDepth := 99) only [KIss.hold, KIss.done, KIss.fault, KIss.wait, Keeps.upd, Keeps.updId,
         Keeps.ite, Keeps.foldl, Keeps.foldl2, Keeps.foldl3, Keeps.refl, implies_true, keeps_tlbDrop, keeps_jobCtlCode, *]

theorem keeps_execJobSubmit {b0 : State} (a : Agent) (k : CDie) (q : Fin 16) (v : W64) {s : State} (hK : Keeps b0 s) :
    ∀ u, execJobSubmit a k q v s = .next u → Keeps b0 u := by
  unfold execJobSubmit; intro t ht; injection ht with ht; subst ht; simp (maxDischargeDepth := 99) only [KIss.hold,
        KIss.done, KIss.fault, KIss.wait, Keeps.upd, Keeps.updId, Keeps.ite, Keeps.foldl, Keeps.foldl2, Keeps.foldl3,
        Keeps.refl, implies_true, keeps_jobTailWrite, *]

theorem keeps_execJobTake {b0 : State} (k : CDie) {s : State} (hK : Keeps b0 s) :
    ∀ u, execJobTake k s = .next u → Keeps b0 u := by
  unfold execJobTake; intro t ht; injection ht with ht; subst ht; simp (maxDischargeDepth := 99) only [KIss.hold, KIss.done,
        KIss.fault, KIss.wait, Keeps.upd, Keeps.updId, Keeps.ite, Keeps.foldl, Keeps.foldl2, Keeps.foldl3, Keeps.refl,
        implies_true, keeps_jobTake, *]

theorem keeps_execJobTilesReserved {b0 : State} (j : JobRef) {s : State} (hK : Keeps b0 s) :
    ∀ u, execJobTilesReserved j s = .next u → Keeps b0 u := by
  unfold execJobTilesReserved; intro t ht; injection ht with ht; subst ht; simp (maxDischargeDepth := 99) only [KIss.hold,
        KIss.done, KIss.fault, KIss.wait, Keeps.upd, Keeps.updId, Keeps.ite, Keeps.foldl, Keeps.foldl2, Keeps.foldl3,
        Keeps.refl, implies_true, keeps_jobReserve, *]

theorem keeps_execJobWaitPriority {b0 : State} (j : JobRef) {s : State} (hK : Keeps b0 s) :
    ∀ u, execJobWaitPriority j s = .next u → Keeps b0 u := by
  unfold execJobWaitPriority; intro t ht; injection ht with ht; subst ht; simp (maxDischargeDepth := 99) only [KIss.hold,
        KIss.done, KIss.fault, KIss.wait, Keeps.upd, Keeps.updId, Keeps.ite, Keeps.foldl, Keeps.foldl2, Keeps.foldl3,
        Keeps.refl, implies_true, keeps_jobMod, *]

theorem keeps_execGroupLaunch {b0 : State} (j : JobRef) (rank : Nat) {s : State} (hK : Keeps b0 s) :
    ∀ u, execGroupLaunch j rank s = .next u → Keeps b0 u := by
  unfold execGroupLaunch; intro t ht; injection ht with ht; subst ht; simp (maxDischargeDepth := 99) only [KIss.hold,
        KIss.done, KIss.fault, KIss.wait, Keeps.upd, Keeps.updId, Keeps.ite, Keeps.foldl, Keeps.foldl2, Keeps.foldl3,
        Keeps.refl, implies_true, keeps_groupLaunch, *]

theorem keeps_execJobComplete {b0 : State} (j : JobRef) {s : State} (hK : Keeps b0 s) :
    ∀ u, execJobComplete j s = .next u → Keeps b0 u := by
  unfold execJobComplete; intro t ht; injection ht with ht; subst ht; simp (maxDischargeDepth := 99) only [KIss.hold,
        KIss.done, KIss.fault, KIss.wait, Keeps.upd, Keeps.updId, Keeps.ite, Keeps.foldl, Keeps.foldl2, Keeps.foldl3,
        Keeps.refl, implies_true, keeps_jobComplete, *]

theorem keeps_execJobQcfgWrite {b0 : State} (a : Agent) (k : CDie) (q : Fin 16) (v : W64) {s : State} (hK : Keeps b0 s) :
    ∀ u, execJobQcfgWrite a k q v s = .next u → Keeps b0 u := by
  unfold execJobQcfgWrite; intro t ht; injection ht with ht; subst ht; simp (maxDischargeDepth := 99) only [KIss.hold,
        KIss.done, KIss.fault, KIss.wait, Keeps.upd, Keeps.updId, Keeps.ite, Keeps.foldl, Keeps.foldl2, Keeps.foldl3,
        Keeps.refl, implies_true, keeps_jobQcfgWrite, *]

theorem keeps_execJobAbort {b0 : State} (a : Agent) (k : CDie) (v : BitVec 60) {s : State} (hK : Keeps b0 s) :
    ∀ u, execJobAbort a k v s = .next u → Keeps b0 u := by
  unfold execJobAbort; intro t ht; injection ht with ht; subst ht; simp (maxDischargeDepth := 99) only [KIss.hold, KIss.done,
         KIss.fault, KIss.wait, Keeps.upd, Keeps.updId, Keeps.ite, Keeps.foldl, Keeps.foldl2, Keeps.foldl3, Keeps.refl,
        implies_true, keeps_jobAbort, *]

theorem keeps_execJobPreempt {b0 : State} (a : Agent) (k : CDie) (v : BitVec 60) {s : State} (hK : Keeps b0 s) :
    ∀ u, execJobPreempt a k v s = .next u → Keeps b0 u := by
  unfold execJobPreempt; intro t ht; injection ht with ht; subst ht; simp (maxDischargeDepth := 99) only [KIss.hold,
        KIss.done, KIss.fault, KIss.wait, Keeps.upd, Keeps.updId, Keeps.ite, Keeps.foldl, Keeps.foldl2, Keeps.foldl3,
        Keeps.refl, implies_true, keeps_jobPreempt, *]

theorem keeps_execTlbInv {b0 : State} (a : Agent) (k : CDie) (v : BitVec 60) {s : State} (hK : Keeps b0 s) :
    ∀ u, execTlbInv a k v s = .next u → Keeps b0 u := by
  unfold execTlbInv; intro t ht; injection ht with ht; subst ht; simp (maxDischargeDepth := 99) only [KIss.hold, KIss.done,
        KIss.fault, KIss.wait, Keeps.upd, Keeps.updId, Keeps.ite, Keeps.foldl, Keeps.foldl2, Keeps.foldl3, Keeps.refl,
        implies_true, keeps_jobTlbInv, *]

theorem keeps_execTileFence {b0 : State} (t : TileId) {s : State} (hK : Keeps b0 s) :
    ∀ u, execTileFence t s = .next u → Keeps b0 u := by
  unfold execTileFence; intro t ht; injection ht with ht; subst ht; simp (maxDischargeDepth := 99) only [KIss.hold,
        KIss.done, KIss.fault, KIss.wait, Keeps.upd, Keeps.updId, Keeps.ite, Keeps.foldl, Keeps.foldl2, Keeps.foldl3,
        Keeps.refl, implies_true, keeps_fenceTile, *]

theorem keeps_execGrtQcfgWrite {b0 : State} (a : Agent) (k : CDie) (n : Fin 32) (v : W64) {s : State} (hK : Keeps b0 s) :
    ∀ u, execGrtQcfgWrite a k n v s = .next u → Keeps b0 u := by
  unfold execGrtQcfgWrite; intro t ht; injection ht with ht; subst ht; simp (maxDischargeDepth := 99) only [KIss.hold,
        KIss.done, KIss.fault, KIss.wait, Keeps.upd, Keeps.updId, Keeps.ite, Keeps.foldl, Keeps.foldl2, Keeps.foldl3,
        Keeps.refl, implies_true, keeps_grtQcfgWrite, *]

theorem keeps_coldState {b0 : State} {s : State} (hK : Keeps b0 s) : Keeps b0 (coldState s) :=
  (Keeps.setMem (m := []) (Keeps.setRegs (m := []) hK fun _ => List.Pairwise.nil) fun _ => rfl).upd

theorem keeps_execAuxPowerApply {b0 : State} (nonce : W128) (pwrEn : Bool) (modResetN : Bool) {s : State} (hK : Keeps b0 s) :
    ∀ u, execAuxPowerApply nonce pwrEn modResetN s = .next u → Keeps b0 u := by
  unfold execAuxPowerApply; intro t ht; injection ht with ht; subst ht; simp (maxDischargeDepth := 99) only [KIss.hold,
        KIss.done, KIss.fault, KIss.wait, Keeps.upd, Keeps.updId, Keeps.ite, Keeps.foldl, Keeps.foldl2, Keeps.foldl3,
        Keeps.refl, implies_true, keeps_coldState, *]

theorem keeps_execAuxResetRelease {b0 : State} (straps : AuxStraps) (sa : BitVec 3) {s : State} (hK : Keeps b0 s) :
    ∀ u, execAuxResetRelease straps sa s = .next u → Keeps b0 u := by
  unfold execAuxResetRelease; intro t ht; injection ht with ht; subst ht; simp (maxDischargeDepth := 99) only [KIss.hold,
        KIss.done, KIss.fault, KIss.wait, Keeps.upd, Keeps.updId, Keeps.ite, Keeps.foldl, Keeps.foldl2, Keeps.foldl3,
        Keeps.refl, implies_true, keeps_rfset, keeps_startIfFree, keeps_romBoot, *]

theorem keeps_execAuxPowerRemove {b0 : State} {s : State} (hK : Keeps b0 s) :
    ∀ u, execAuxPowerRemove s = .next u → Keeps b0 u := by
  unfold execAuxPowerRemove; intro t ht; injection ht with ht; subst ht; simp (maxDischargeDepth := 99) only [KIss.hold,
        KIss.done, KIss.fault, KIss.wait, Keeps.upd, Keeps.updId, Keeps.ite, Keeps.foldl, Keeps.foldl2, Keeps.foldl3,
        Keeps.refl, implies_true, keeps_coldState, *]

theorem keeps_execPwrEnAssert {b0 : State} {s : State} (hK : Keeps b0 s) :
    ∀ u, execPwrEnAssert s = .next u → Keeps b0 u := by
  unfold execPwrEnAssert; intro t ht; injection ht with ht; subst ht; simp (maxDischargeDepth := 99) only [KIss.hold,
        KIss.done, KIss.fault, KIss.wait, Keeps.upd, Keeps.updId, Keeps.ite, Keeps.foldl, Keeps.foldl2, Keeps.foldl3,
        Keeps.refl, implies_true, keeps_dropHold, keeps_startIfFree, *]

theorem keeps_execRailsGood {b0 : State} (compat : Bool) {s : State} (hK : Keeps b0 s) :
    ∀ u, execRailsGood compat s = .next u → Keeps b0 u := by
  unfold execRailsGood; intro t ht; injection ht with ht; subst ht; simp (maxDischargeDepth := 99) only [KIss.hold,
        KIss.done, KIss.fault, KIss.wait, Keeps.upd, Keeps.updId, Keeps.ite, Keeps.foldl, Keeps.foldl2, Keeps.foldl3,
        Keeps.refl, implies_true, keeps_hostPortReset, keeps_startIfFree, *]

theorem keeps_startFail {b0 : State} {s : State} (die : Nat) (ph : Nat) (hK : Keeps b0 s) :
    Keeps b0 (startFail s die ph) := by
  unfold startFail; simp (maxDischargeDepth := 99) only [KIss.hold, KIss.done, KIss.fault, KIss.wait, Keeps.upd, Keeps.updId,
         Keeps.ite, Keeps.foldl, Keeps.foldl2, Keeps.foldl3, Keeps.refl, implies_true, keeps_rfset, keeps_setPhase,
        keeps_report, keeps_mainReset, *]

theorem keeps_dieGoesActive {b0 : State} {s : State} (n : Nat) (hK : Keeps b0 s) :
    Keeps b0 (dieGoesActive s n) := by
  unfold dieGoesActive; simp (maxDischargeDepth := 99) only [KIss.hold, KIss.done, KIss.fault, KIss.wait, Keeps.upd,
        Keeps.updId, Keeps.ite, Keeps.foldl, Keeps.foldl2, Keeps.foldl3, Keeps.refl, implies_true, keeps_rfset,
        keeps_setDieSt, *]

theorem keeps_dieLeftLost {b0 : State} {s : State} (n cause : Nat) (hK : Keeps b0 s) : Keeps b0 (dieLeftLost s n cause) := by
  unfold dieLeftLost
  extract_lets +onlyGivenNames s1 c
  have h1 : Keeps b0 s1 := Keeps.upd (Keeps.setRegs hK fun h => rising_filter h _)
  exact keeps_linksFenced _ (keeps_rfset _ _ _ _ _ _ _ (keeps_rfset _ _ _ _ _ _ _ (keeps_setDieSt _ _ h1)))

theorem keeps_enableCaches {b0 : State} {s : State} (k : Nat) (hK : Keeps b0 s) :
    Keeps b0 (enableCaches s k) := by
  unfold enableCaches; simp (maxDischargeDepth := 99) only [KIss.hold, KIss.done, KIss.fault, KIss.wait, Keeps.upd,
        Keeps.updId, Keeps.ite, Keeps.foldl, Keeps.foldl2, Keeps.foldl3, Keeps.refl, implies_true, keeps_rset, keeps_rfset,
        *]

theorem keeps_rimLog {b0 : State} {s : State} (d : Nat) (code : Nat) (info : Nat) (hK : Keeps b0 s) :
    Keeps b0 (rimLog s d code info) := by
  unfold rimLog; simp (maxDischargeDepth := 99) only [KIss.hold, KIss.done, KIss.fault, KIss.wait, Keeps.upd, Keeps.updId,
        Keeps.ite, Keeps.foldl, Keeps.foldl2, Keeps.foldl3, Keeps.refl, implies_true, keeps_rfset, keeps_report, *]

theorem keeps_setIsl {b0 : State} {s : State} (d : Nat) (n : Nat) (hi : Nat) (lo : Nat) (v : Nat) (hK : Keeps b0 s) :
    Keeps b0 (setIsl s d n hi lo v) := by
  unfold setIsl; simp (maxDischargeDepth := 99) only [KIss.hold, KIss.done, KIss.fault, KIss.wait, Keeps.upd, Keeps.updId,
        Keeps.ite, Keeps.foldl, Keeps.foldl2, Keeps.foldl3, Keeps.refl, implies_true, keeps_rfset, *]

theorem keeps_retarget {b0 : State} {s : State} (d : Nat) (n : Nat) (hK : Keeps b0 s) :
    Keeps b0 (retarget s d n) := by
  unfold retarget; simp (maxDischargeDepth := 99) only [KIss.hold, KIss.done, KIss.fault, KIss.wait, Keeps.upd, Keeps.updId,
        Keeps.ite, Keeps.foldl, Keeps.foldl2, Keeps.foldl3, Keeps.refl, implies_true, keeps_setIsl, *]

theorem keeps_retargetAll {b0 : State} {s : State} (d : Nat) (hK : Keeps b0 s) :
    Keeps b0 (retargetAll s d) := by
  unfold retargetAll; simp (maxDischargeDepth := 99) only [KIss.hold, KIss.done, KIss.fault, KIss.wait, Keeps.upd,
        Keeps.updId, Keeps.ite, Keeps.foldl, Keeps.foldl2, Keeps.foldl3, Keeps.refl, implies_true, keeps_retarget, *]

theorem keeps_loadTrims {b0 : State} {s : State} (k : Nat) (hK : Keeps b0 s) :
    Keeps b0 (loadTrims s k) := by
  unfold loadTrims; simp (maxDischargeDepth := 99) only [KIss.hold, KIss.done, KIss.fault, KIss.wait, Keeps.upd, Keeps.updId,
         Keeps.ite, Keeps.foldl, Keeps.foldl2, Keeps.foldl3, Keeps.refl, implies_true, keeps_rfset, keeps_retargetAll, *]

theorem keeps_generatorTest {b0 : State} {s : State} (k : Nat) (dripBad : Bool) (hK : Keeps b0 s) :
    Keeps b0 (generatorTest s k dripBad) := by
  unfold generatorTest; simp (maxDischargeDepth := 99) only [KIss.hold, KIss.done, KIss.fault, KIss.wait, Keeps.upd,
        Keeps.updId, Keeps.ite, Keeps.foldl, Keeps.foldl2, Keeps.foldl3, Keeps.refl, implies_true, keeps_rfset, *]

theorem keeps_applyFlash {b0 : State} {s : State} (hK : Keeps b0 s) :
    Keeps b0 (applyFlash s) := by
  unfold applyFlash
  repeat' first
    | with_reducible assumption
    | (extract_lets +onlyGivenNames z; first | ((first | refine Keeps.cut (p := Keeps b0 z) ?_ ?_ | refine Keeps.cut (p := Keeps b0 z.2) ?_ ?_ | refine Keeps.cut (p := Keeps b0 z.2.2) ?_ ?_ | refine Keeps.cut (p := Keeps b0 z.1) ?_ ?_ | refine Keeps.cut (p := Keeps b0 z.s) ?_ ?_ | refine Keeps.cut (p := Keeps b0 z.2.s) ?_ ?_ | refine Keeps.cut (p := Keeps b0 z.2.2.s) ?_ ?_); (focus (intros; dsimp only [z]; (repeat' first | (simp (maxDischargeDepth := 99) only [KIss.hold, KIss.done, KIss.fault, KIss.wait, Keeps.upd, Keeps.updId, Keeps.ite, Keeps.foldl, Keeps.foldl2, Keeps.foldl3, Keeps.refl, implies_true, keeps_rfset, *]; done) | with_reducible apply Keeps.fold1 | with_reducible apply Keeps.fold2 | with_reducible apply Keeps.fold3 | with_reducible apply Keeps.fold21 | intro _ | split | dsimp only))); intro hz; clear_value z) | clear_value z | skip)
    | (simp (maxDischargeDepth := 99) only [KIss.hold, KIss.done, KIss.fault, KIss.wait, Keeps.upd, Keeps.updId, Keeps.ite, Keeps.foldl, Keeps.foldl2, Keeps.foldl3, Keeps.refl, implies_true, keeps_rfset, *]; done)
    | with_reducible apply Keeps.fold1
    | with_reducible apply Keeps.fold2
    | with_reducible apply Keeps.fold3
    | with_reducible apply Keeps.fold21
    | intro _
    | (split <;> (try (rename_i heq; (first | refine Keeps.cut (Keeps.of_eq (b := b0) heq ?_) ?_ | refine Keeps.cut (Keeps.of_eq3 (b := b0) heq ?_) ?_ | refine Keeps.cut (Keeps.of_eq1 (b := b0) heq ?_) ?_ | refine Keeps.cut (Keeps.of_eq4 (b := b0) heq ?_) ?_); (focus (clear heq; (repeat' first | (simp (maxDischargeDepth := 99) only [KIss.hold, KIss.done, KIss.fault, KIss.wait, Keeps.upd, Keeps.updId, Keeps.ite, Keeps.foldl, Keeps.foldl2, Keeps.foldl3, Keeps.refl, implies_true, keeps_rfset, *]; done) | with_reducible apply Keeps.fold1 | with_reducible apply Keeps.fold2 | with_reducible apply Keeps.fold3 | with_reducible apply Keeps.fold21 | intro _ | split | dsimp only))); intro hz; (try dsimp only at hz); clear heq)))

theorem keeps_releaseCore {b0 : State} {s : State} (a : Nat) (vec : Nat) (hK : Keeps b0 s) :
    Keeps b0 (releaseCore s a vec) := by
  unfold releaseCore; simp (maxDischargeDepth := 99) only [KIss.hold, KIss.done, KIss.fault, KIss.wait, Keeps.upd,
        Keeps.updId, Keeps.ite, Keeps.foldl, Keeps.foldl2, Keeps.foldl3, Keeps.refl, implies_true, *]

theorem keeps_linkBringUp {b0 : State} {s : State} (die : Nat) (l : Nat) (as_ : List Attempt) (hK : Keeps b0 s) :
    Keeps b0 (linkBringUp s die l as_) := by
  unfold linkBringUp; simp (maxDischargeDepth := 99) only [KIss.hold, KIss.done, KIss.fault, KIss.wait, Keeps.upd,
        Keeps.updId, Keeps.ite, Keeps.foldl, Keeps.foldl2, Keeps.foldl3, Keeps.refl, implies_true, keeps_bothEnds,
        keeps_linkGoes, keeps_linkAttempt, keeps_linkFinish, *]

theorem keeps_linksBringUp {b0 : State} {s : State} (r : StartupResult) (hK : Keeps b0 s) :
    Keeps b0 (linksBringUp s r) := by
  unfold linksBringUp
  repeat' first
    | with_reducible assumption
    | (extract_lets +onlyGivenNames z; first | ((first | refine Keeps.cut (p := Keeps b0 z) ?_ ?_ | refine Keeps.cut (p := Keeps b0 z.2) ?_ ?_ | refine Keeps.cut (p := Keeps b0 z.2.2) ?_ ?_ | refine Keeps.cut (p := Keeps b0 z.1) ?_ ?_ | refine Keeps.cut (p := Keeps b0 z.s) ?_ ?_ | refine Keeps.cut (p := Keeps b0 z.2.s) ?_ ?_ | refine Keeps.cut (p := Keeps b0 z.2.2.s) ?_ ?_); (focus (intros; dsimp only [z]; (repeat' first | (simp (maxDischargeDepth := 99) only [KIss.hold, KIss.done, KIss.fault, KIss.wait, Keeps.upd, Keeps.updId, Keeps.ite, Keeps.foldl, Keeps.foldl2, Keeps.foldl3, Keeps.refl, implies_true, keeps_slicesAdopt, keeps_linkBringUp, *]; done) | with_reducible apply Keeps.fold1 | with_reducible apply Keeps.fold2 | with_reducible apply Keeps.fold3 | with_reducible apply Keeps.fold21 | intro _ | split | dsimp only))); intro hz; clear_value z) | clear_value z | skip)
    | (simp (maxDischargeDepth := 99) only [KIss.hold, KIss.done, KIss.fault, KIss.wait, Keeps.upd, Keeps.updId, Keeps.ite, Keeps.foldl, Keeps.foldl2, Keeps.foldl3, Keeps.refl, implies_true, keeps_slicesAdopt, keeps_linkBringUp, *]; done)
    | with_reducible apply Keeps.fold1
    | with_reducible apply Keeps.fold2
    | with_reducible apply Keeps.fold3
    | with_reducible apply Keeps.fold21
    | intro _
    | (split <;> (try (rename_i heq; (first | refine Keeps.cut (Keeps.of_eq (b := b0) heq ?_) ?_ | refine Keeps.cut (Keeps.of_eq3 (b := b0) heq ?_) ?_ | refine Keeps.cut (Keeps.of_eq1 (b := b0) heq ?_) ?_ | refine Keeps.cut (Keeps.of_eq4 (b := b0) heq ?_) ?_); (focus (clear heq; (repeat' first | (simp (maxDischargeDepth := 99) only [KIss.hold, KIss.done, KIss.fault, KIss.wait, Keeps.upd, Keeps.updId, Keeps.ite, Keeps.foldl, Keeps.foldl2, Keeps.foldl3, Keeps.refl, implies_true, keeps_slicesAdopt, keeps_linkBringUp, *]; done) | with_reducible apply Keeps.fold1 | with_reducible apply Keeps.fold2 | with_reducible apply Keeps.fold3 | with_reducible apply Keeps.fold21 | intro _ | split | dsimp only))); intro hz; (try dsimp only at hz); clear heq)))

theorem keeps_startLeaves {b0 : State} {s : State} (hK : Keeps b0 s) :
    Keeps b0 (startLeaves s) := by
  unfold startLeaves; simp (maxDischargeDepth := 99) only [KIss.hold, KIss.done, KIss.fault, KIss.wait, Keeps.upd,
        Keeps.updId, Keeps.ite, Keeps.foldl, Keeps.foldl2, Keeps.foldl3, Keeps.refl, implies_true, keeps_dieLeftLost, *]

theorem keeps_startDies {b0 : State} {s : State} (r : StartupResult) (hK : Keeps b0 s) :
    Keeps b0 (startDies s r) := by
  unfold startDies
  repeat' first
    | with_reducible assumption
    | (extract_lets +onlyGivenNames z; first | ((first | refine Keeps.cut (p := Keeps b0 z) ?_ ?_ | refine Keeps.cut (p := Keeps b0 z.2) ?_ ?_ | refine Keeps.cut (p := Keeps b0 z.2.2) ?_ ?_ | refine Keeps.cut (p := Keeps b0 z.1) ?_ ?_ | refine Keeps.cut (p := Keeps b0 z.s) ?_ ?_ | refine Keeps.cut (p := Keeps b0 z.2.s) ?_ ?_ | refine Keeps.cut (p := Keeps b0 z.2.2.s) ?_ ?_); (focus (intros; dsimp only [z]; (repeat' first | (simp (maxDischargeDepth := 99) only [KIss.hold, KIss.done, KIss.fault, KIss.wait, Keeps.upd, Keeps.updId, Keeps.ite, Keeps.foldl, Keeps.foldl2, Keeps.foldl3, Keeps.refl, implies_true, keeps_dieGoesActive, keeps_linksBringUp, keeps_startLeaves, *]; done) | with_reducible apply Keeps.fold1 | with_reducible apply Keeps.fold2 | with_reducible apply Keeps.fold3 | with_reducible apply Keeps.fold21 | intro _ | split | dsimp only))); intro hz; clear_value z) | clear_value z | skip)
    | (simp (maxDischargeDepth := 99) only [KIss.hold, KIss.done, KIss.fault, KIss.wait, Keeps.upd, Keeps.updId, Keeps.ite, Keeps.foldl, Keeps.foldl2, Keeps.foldl3, Keeps.refl, implies_true, keeps_dieGoesActive, keeps_linksBringUp, keeps_startLeaves, *]; done)
    | with_reducible apply Keeps.fold1
    | with_reducible apply Keeps.fold2
    | with_reducible apply Keeps.fold3
    | with_reducible apply Keeps.fold21
    | intro _
    | (split <;> (try (rename_i heq; (first | refine Keeps.cut (Keeps.of_eq (b := b0) heq ?_) ?_ | refine Keeps.cut (Keeps.of_eq3 (b := b0) heq ?_) ?_ | refine Keeps.cut (Keeps.of_eq1 (b := b0) heq ?_) ?_ | refine Keeps.cut (Keeps.of_eq4 (b := b0) heq ?_) ?_); (focus (clear heq; (repeat' first | (simp (maxDischargeDepth := 99) only [KIss.hold, KIss.done, KIss.fault, KIss.wait, Keeps.upd, Keeps.updId, Keeps.ite, Keeps.foldl, Keeps.foldl2, Keeps.foldl3, Keeps.refl, implies_true, keeps_dieGoesActive, keeps_linksBringUp, keeps_startLeaves, *]; done) | with_reducible apply Keeps.fold1 | with_reducible apply Keeps.fold2 | with_reducible apply Keeps.fold3 | with_reducible apply Keeps.fold21 | intro _ | split | dsimp only))); intro hz; (try dsimp only at hz); clear heq)))

theorem keeps_startMemory {b0 : State} {s : State} (r : StartupResult) (hK : Keeps b0 s) :
    Keeps b0 (startMemory s r) := by
  unfold startMemory; simp (maxDischargeDepth := 99) only [KIss.hold, KIss.done, KIss.fault, KIss.wait, Keeps.upd,
        Keeps.updId, Keeps.ite, Keeps.foldl, Keeps.foldl2, Keeps.foldl3, Keeps.refl, implies_true, keeps_rfset,
        keeps_setSecondary, keeps_stackPlaced, *]

theorem keeps_startTests {b0 : State} {s : State} (r : StartupResult) (lost : List Nat) (hK : Keeps b0 s) :
    Keeps b0 (startTests s r lost) := by
  unfold startTests; simp (maxDischargeDepth := 99) only [KIss.hold, KIss.done, KIss.fault, KIss.wait, Keeps.upd,
        Keeps.updId, Keeps.ite, Keeps.foldl, Keeps.foldl2, Keeps.foldl3, Keeps.refl, implies_true, keeps_rset,
        keeps_setTileCounts, keeps_setFenced, keeps_lossFence, keeps_fenceEnter, keeps_enableCaches, keeps_loadTrims,
        keeps_generatorTest, keeps_applyFlash, *]

theorem keeps_execMainStartup {b0 : State} (r : StartupResult) {s : State} (hK : Keeps b0 s) :
    ∀ u, execMainStartup r s = .next u → Keeps b0 u := by
  unfold execMainStartup
  intro u hu
  injection hu with hu
  subst hu
  split
  · exact hK
  · extract_lets +onlyGivenNames s1
    have h1 : Keeps b0 s1 := keeps_rfset _ _ _ _ _ _ _ hK
    clear_value s1
    split
    · exact keeps_startFail _ _ h1
    · extract_lets +onlyGivenNames s2
      have h2 : Keeps b0 s2 := keeps_startDies _ h1
      clear_value s2
      split
      · exact keeps_startFail _ _ h2
      · extract_lets +onlyGivenNames s3
        have h3 : Keeps b0 s3 := keeps_startTests _ _ (keeps_startMemory _ h2)
        clear_value s3
        split
        · exact keeps_startFail _ _ h3
        · extract_lets +onlyGivenNames s4 s5 stage s6 s7
          have h5 : Keeps b0 s5 := keeps_releaseCore _ _ (keeps_rfset _ _ _ _ _ _ _ h3)
          have h6 : Keeps b0 s6 := by
            refine h5.setMem fun hm => ?_
            have key : ∀ (l : List Nat) (m : Map Byte), Map.wf 0 m = true →
                Map.wf 0 (l.foldl (fun m i => mput 0 m i (stage.getD i 0)) m) = true := by
              intro l
              induction l with
              | nil => exact fun _ h => h
              | cons i l ih => exact fun m h => ih _ (wf_mput h _ _)
            exact key _ _ hm
          exact Keeps.upd (keeps_rfset _ _ _ _ _ _ _ (keeps_setPhase _ h6))

theorem keeps_execPwrEnDeassert {b0 : State} {s : State} (hK : Keeps b0 s) :
    ∀ u, execPwrEnDeassert s = .next u → Keeps b0 u := by
  unfold execPwrEnDeassert; intro t ht; injection ht with ht; subst ht; simp (maxDischargeDepth := 99) only [KIss.hold,
        KIss.done, KIss.fault, KIss.wait, Keeps.upd, Keeps.updId, Keeps.ite, Keeps.foldl, Keeps.foldl2, Keeps.foldl3,
        Keeps.refl, implies_true, keeps_addHold, keeps_mainReset, *]

theorem keeps_execModResetNAssert {b0 : State} {s : State} (hK : Keeps b0 s) :
    ∀ u, execModResetNAssert s = .next u → Keeps b0 u := by
  unfold execModResetNAssert; intro t ht; injection ht with ht; subst ht; simp (maxDischargeDepth := 99) only [KIss.hold,
        KIss.done, KIss.fault, KIss.wait, Keeps.upd, Keeps.updId, Keeps.ite, Keeps.foldl, Keeps.foldl2, Keeps.foldl3,
        Keeps.refl, implies_true, keeps_addHold, keeps_mainReset, *]

theorem keeps_execModResetNDeassert {b0 : State} {s : State} (hK : Keeps b0 s) :
    ∀ u, execModResetNDeassert s = .next u → Keeps b0 u := by
  unfold execModResetNDeassert; intro t ht; injection ht with ht; subst ht; simp (maxDischargeDepth := 99) only [KIss.hold,
        KIss.done, KIss.fault, KIss.wait, Keeps.upd, Keeps.updId, Keeps.ite, Keeps.foldl, Keeps.foldl2, Keeps.foldl3,
        Keeps.refl, implies_true, keeps_dropHold, keeps_startIfFree, *]

theorem keeps_coreReleaseWrite {b0 : State} {s : State} (p : Nat) (v : Nat) (hK : Keeps b0 s) :
    Keeps b0 (coreReleaseWrite s p v) := by
  unfold coreReleaseWrite; simp (maxDischargeDepth := 99) only [KIss.hold, KIss.done, KIss.fault, KIss.wait, Keeps.upd,
        Keeps.updId, Keeps.ite, Keeps.foldl, Keeps.foldl2, Keeps.foldl3, Keeps.refl, implies_true, keeps_rset,
        keeps_releaseCore, *]

theorem keeps_execDlkCoreReleaseWrite {b0 : State} (a : Agent) (p : PDie) (v : W64) {s : State} (hK : Keeps b0 s) :
    ∀ u, execDlkCoreReleaseWrite a p v s = .next u → Keeps b0 u := by
  unfold execDlkCoreReleaseWrite; intro t ht; injection ht with ht; subst ht; simp (maxDischargeDepth := 99) only [KIss.hold,
         KIss.done, KIss.fault, KIss.wait, Keeps.upd, Keeps.updId, Keeps.ite, Keeps.foldl, Keeps.foldl2, Keeps.foldl3,
        Keeps.refl, implies_true, keeps_coreReleaseWrite, *]

theorem keeps_jtagCapture {b0 : State} {s : State} (hK : Keeps b0 s) :
    Keeps b0 (jtagCapture s) := by
  unfold jtagCapture; simp (maxDischargeDepth := 99) only [KIss.hold, KIss.done, KIss.fault, KIss.wait, Keeps.upd,
        Keeps.updId, Keeps.ite, Keeps.foldl, Keeps.foldl2, Keeps.foldl3, Keeps.refl, implies_true, *]

theorem keeps_execJtagInstruction {b0 : State} (op : JtagOp) {s : State} (hK : Keeps b0 s) :
    ∀ u, execJtagInstruction op s = .next u → Keeps b0 u := by
  unfold execJtagInstruction
  repeat' first
    | with_reducible assumption
    | refine fun (y : State) (gr : Group) (hy : Keeps b0 y) => ?_
    | (extract_lets +onlyGivenNames z; first | ((first | refine Keeps.cut (p := Keeps b0 z) ?_ ?_ | refine Keeps.cut (p := Keeps b0 z.2) ?_ ?_ | refine Keeps.cut (p := Keeps b0 z.2.2) ?_ ?_ | refine Keeps.cut (p := Keeps b0 z.1) ?_ ?_ | refine Keeps.cut (p := Keeps b0 z.s) ?_ ?_ | refine Keeps.cut (p := Keeps b0 z.2.s) ?_ ?_ | refine Keeps.cut (p := Keeps b0 z.2.2.s) ?_ ?_); (focus (intros; dsimp only [z]; (repeat' first | (simp (maxDischargeDepth := 99) only [KIss.hold, KIss.done, KIss.fault, KIss.wait, Keeps.upd, Keeps.updId, Keeps.ite, Keeps.foldl, Keeps.foldl2, Keeps.foldl3, Keeps.refl, implies_true, keeps_jtagCapture, *]; done) | with_reducible apply Keeps.fold1 | with_reducible apply Keeps.fold2 | with_reducible apply Keeps.fold3 | with_reducible apply Keeps.fold21 | intro _ | split | dsimp only))); intro hz; clear_value z) | clear_value z | skip)
    | (simp (maxDischargeDepth := 99) only [KIss.hold, KIss.done, KIss.fault, KIss.wait, Keeps.upd, Keeps.updId, Keeps.ite, Keeps.foldl, Keeps.foldl2, Keeps.foldl3, Keeps.refl, implies_true, keeps_jtagCapture, *]; done)
    | (intro t ht; injection ht with ht; subst ht)
    | (intro t ht; contradiction)
    | with_reducible apply Keeps.fold1
    | with_reducible apply Keeps.fold2
    | with_reducible apply Keeps.fold3
    | with_reducible apply Keeps.fold21
    | (split <;> (try (rename_i heq; (first | refine Keeps.cut (Keeps.of_eq (b := b0) heq ?_) ?_ | refine Keeps.cut (Keeps.of_eq3 (b := b0) heq ?_) ?_ | refine Keeps.cut (Keeps.of_eq1 (b := b0) heq ?_) ?_ | refine Keeps.cut (Keeps.of_eq4 (b := b0) heq ?_) ?_); (focus (clear heq; (repeat' first | (simp (maxDischargeDepth := 99) only [KIss.hold, KIss.done, KIss.fault, KIss.wait, Keeps.upd, Keeps.updId, Keeps.ite, Keeps.foldl, Keeps.foldl2, Keeps.foldl3, Keeps.refl, implies_true, keeps_jtagCapture, *]; done) | with_reducible apply Keeps.fold1 | with_reducible apply Keeps.fold2 | with_reducible apply Keeps.fold3 | with_reducible apply Keeps.fold21 | intro _ | split | dsimp only))); intro hz; (try dsimp only at hz); clear heq)))
    | intro _

theorem keeps_execJtagTapReset {b0 : State} {s : State} (hK : Keeps b0 s) :
    ∀ u, execJtagTapReset s = .next u → Keeps b0 u := by
  unfold execJtagTapReset; intro t ht; injection ht with ht; subst ht; simp (maxDischargeDepth := 99) only [KIss.hold,
        KIss.done, KIss.fault, KIss.wait, Keeps.upd, Keeps.updId, Keeps.ite, Keeps.foldl, Keeps.foldl2, Keeps.foldl3,
        Keeps.refl, implies_true, *]

theorem keeps_syncCopy {b0 : State} {s : State} (n : Nat) (hK : Keeps b0 s) :
    Keeps b0 (syncCopy s n) := by
  unfold syncCopy; simp (maxDischargeDepth := 99) only [KIss.hold, KIss.done, KIss.fault, KIss.wait, Keeps.upd, Keeps.updId,
        Keeps.ite, Keeps.foldl, Keeps.foldl2, Keeps.foldl3, Keeps.refl, implies_true, *]

theorem keeps_execTimebaseSync {b0 : State} (d : Die) {s : State} (hK : Keeps b0 s) :
    ∀ u, execTimebaseSync d s = .next u → Keeps b0 u := by
  unfold execTimebaseSync; intro t ht; injection ht with ht; subst ht; simp (maxDischargeDepth := 99) only [KIss.hold,
        KIss.done, KIss.fault, KIss.wait, Keeps.upd, Keeps.updId, Keeps.ite, Keeps.foldl, Keeps.foldl2, Keeps.foldl3,
        Keeps.refl, implies_true, keeps_syncCopy, *]

theorem keeps_recordFault {b0 : State} {s : State} (e : FaultEvent) (hK : Keeps b0 s) :
    Keeps b0 (recordFault s e) := by
  unfold recordFault
  repeat' first
    | with_reducible assumption
    | (extract_lets +onlyGivenNames z; first | ((first | refine Keeps.cut (p := Keeps b0 z) ?_ ?_ | refine Keeps.cut (p := Keeps b0 z.2) ?_ ?_ | refine Keeps.cut (p := Keeps b0 z.2.2) ?_ ?_ | refine Keeps.cut (p := Keeps b0 z.1) ?_ ?_ | refine Keeps.cut (p := Keeps b0 z.s) ?_ ?_ | refine Keeps.cut (p := Keeps b0 z.2.s) ?_ ?_ | refine Keeps.cut (p := Keeps b0 z.2.2.s) ?_ ?_); (focus (intros; dsimp only [z]; (repeat' first | (simp (maxDischargeDepth := 99) only [KIss.hold, KIss.done, KIss.fault, KIss.wait, Keeps.upd, Keeps.updId, Keeps.ite, Keeps.foldl, Keeps.foldl2, Keeps.foldl3, Keeps.refl, implies_true, keeps_rset, keeps_rfset, keeps_mctpSend, keeps_msix, *]; done) | with_reducible apply Keeps.fold1 | with_reducible apply Keeps.fold2 | with_reducible apply Keeps.fold3 | with_reducible apply Keeps.fold21 | intro _ | split | dsimp only))); intro hz; clear_value z) | clear_value z | skip)
    | (simp (maxDischargeDepth := 99) only [KIss.hold, KIss.done, KIss.fault, KIss.wait, Keeps.upd, Keeps.updId, Keeps.ite, Keeps.foldl, Keeps.foldl2, Keeps.foldl3, Keeps.refl, implies_true, keeps_rset, keeps_rfset, keeps_mctpSend, keeps_msix, *]; done)
    | with_reducible apply Keeps.fold1
    | with_reducible apply Keeps.fold2
    | with_reducible apply Keeps.fold3
    | with_reducible apply Keeps.fold21
    | intro _
    | (split <;> (try (rename_i heq; (first | refine Keeps.cut (Keeps.of_eq (b := b0) heq ?_) ?_ | refine Keeps.cut (Keeps.of_eq3 (b := b0) heq ?_) ?_ | refine Keeps.cut (Keeps.of_eq1 (b := b0) heq ?_) ?_ | refine Keeps.cut (Keeps.of_eq4 (b := b0) heq ?_) ?_); (focus (clear heq; (repeat' first | (simp (maxDischargeDepth := 99) only [KIss.hold, KIss.done, KIss.fault, KIss.wait, Keeps.upd, Keeps.updId, Keeps.ite, Keeps.foldl, Keeps.foldl2, Keeps.foldl3, Keeps.refl, implies_true, keeps_rset, keeps_rfset, keeps_mctpSend, keeps_msix, *]; done) | with_reducible apply Keeps.fold1 | with_reducible apply Keeps.fold2 | with_reducible apply Keeps.fold3 | with_reducible apply Keeps.fold21 | intro _ | split | dsimp only))); intro hz; (try dsimp only at hz); clear heq)))

theorem keeps_execFaultRecord {b0 : State} {s : State} (hK : Keeps b0 s) :
    ∀ u, execFaultRecord s = .next u → Keeps b0 u := by
  unfold execFaultRecord
  repeat' first
    | with_reducible assumption
    | refine fun (y : State) (gr : Group) (hy : Keeps b0 y) => ?_
    | (extract_lets +onlyGivenNames z; first | ((first | refine Keeps.cut (p := Keeps b0 z) ?_ ?_ | refine Keeps.cut (p := Keeps b0 z.2) ?_ ?_ | refine Keeps.cut (p := Keeps b0 z.2.2) ?_ ?_ | refine Keeps.cut (p := Keeps b0 z.1) ?_ ?_ | refine Keeps.cut (p := Keeps b0 z.s) ?_ ?_ | refine Keeps.cut (p := Keeps b0 z.2.s) ?_ ?_ | refine Keeps.cut (p := Keeps b0 z.2.2.s) ?_ ?_); (focus (intros; dsimp only [z]; (repeat' first | (simp (maxDischargeDepth := 99) only [KIss.hold, KIss.done, KIss.fault, KIss.wait, Keeps.upd, Keeps.updId, Keeps.ite, Keeps.foldl, Keeps.foldl2, Keeps.foldl3, Keeps.refl, implies_true, keeps_recordFault, *]; done) | with_reducible apply Keeps.fold1 | with_reducible apply Keeps.fold2 | with_reducible apply Keeps.fold3 | with_reducible apply Keeps.fold21 | intro _ | split | dsimp only))); intro hz; clear_value z) | clear_value z | skip)
    | (simp (maxDischargeDepth := 99) only [KIss.hold, KIss.done, KIss.fault, KIss.wait, Keeps.upd, Keeps.updId, Keeps.ite, Keeps.foldl, Keeps.foldl2, Keeps.foldl3, Keeps.refl, implies_true, keeps_recordFault, *]; done)
    | (intro t ht; injection ht with ht; subst ht)
    | (intro t ht; contradiction)
    | with_reducible apply Keeps.fold1
    | with_reducible apply Keeps.fold2
    | with_reducible apply Keeps.fold3
    | with_reducible apply Keeps.fold21
    | (split <;> (try (rename_i heq; (first | refine Keeps.cut (Keeps.of_eq (b := b0) heq ?_) ?_ | refine Keeps.cut (Keeps.of_eq3 (b := b0) heq ?_) ?_ | refine Keeps.cut (Keeps.of_eq1 (b := b0) heq ?_) ?_ | refine Keeps.cut (Keeps.of_eq4 (b := b0) heq ?_) ?_); (focus (clear heq; (repeat' first | (simp (maxDischargeDepth := 99) only [KIss.hold, KIss.done, KIss.fault, KIss.wait, Keeps.upd, Keeps.updId, Keeps.ite, Keeps.foldl, Keeps.foldl2, Keeps.foldl3, Keeps.refl, implies_true, keeps_recordFault, *]; done) | with_reducible apply Keeps.fold1 | with_reducible apply Keeps.fold2 | with_reducible apply Keeps.fold3 | with_reducible apply Keeps.fold21 | intro _ | split | dsimp only))); intro hz; (try dsimp only at hz); clear heq)))
    | intro _

theorem keeps_faultSoftWrite {b0 : State} {s : State} (v : Nat) (hK : Keeps b0 s) :
    Keeps b0 (faultSoftWrite s v) := by
  unfold faultSoftWrite; simp (maxDischargeDepth := 99) only [KIss.hold, KIss.done, KIss.fault, KIss.wait, Keeps.upd,
        Keeps.updId, Keeps.ite, Keeps.foldl, Keeps.foldl2, Keeps.foldl3, Keeps.refl, implies_true, keeps_report, *]

theorem keeps_execMbxFaultSoftWrite {b0 : State} (a : Agent) (v : W64) {s : State} (hK : Keeps b0 s) :
    ∀ u, execMbxFaultSoftWrite a v s = .next u → Keeps b0 u := by
  unfold execMbxFaultSoftWrite; intro t ht; injection ht with ht; subst ht; simp (maxDischargeDepth := 99) only [KIss.hold,
        KIss.done, KIss.fault, KIss.wait, Keeps.upd, Keeps.updId, Keeps.ite, Keeps.foldl, Keeps.foldl2, Keeps.foldl3,
        Keeps.refl, implies_true, keeps_faultSoftWrite, *]

theorem keeps_execGetInfo {b0 : State} (m : Mbx) {s : State} (hK : Keeps b0 s) :
    ∀ u, execGetInfo m s = .next u → Keeps b0 u := by
  unfold execGetInfo; intro u hu; injection hu with hu; subst hu
  refine keeps_mbxRun _ _ _ (fun b0 l => ?_) hK
  have hK := Keeps.refl b0
  repeat' first
    | with_reducible assumption
    | (simp (maxDischargeDepth := 99) only [KIss.hold, KIss.done, KIss.fault, KIss.wait, Keeps.upd, Keeps.updId, Keeps.ite, Keeps.foldl, Keeps.foldl2, Keeps.foldl3, Keeps.refl, implies_true, keeps_mbxRun, *]; done)
    | (split <;> (try (rename_i heq; (first | refine Keeps.cut (Keeps.of_eq (b := b0) heq ?_) ?_ | refine Keeps.cut (Keeps.of_eq3 (b := b0) heq ?_) ?_ | refine Keeps.cut (Keeps.of_eq1 (b := b0) heq ?_) ?_ | refine Keeps.cut (Keeps.of_eq4 (b := b0) heq ?_) ?_); (focus (clear heq; (repeat' first | (simp (maxDischargeDepth := 99) only [KIss.hold, KIss.done, KIss.fault, KIss.wait, Keeps.upd, Keeps.updId, Keeps.ite, Keeps.foldl, Keeps.foldl2, Keeps.foldl3, Keeps.refl, implies_true, keeps_mbxRun, *]; done) | with_reducible apply Keeps.fold1 | with_reducible apply Keeps.fold2 | with_reducible apply Keeps.fold3 | with_reducible apply Keeps.fold21 | intro _ | split | dsimp only))); intro hz; (try dsimp only at hz); clear heq)))

theorem keeps_execGetNonce {b0 : State} (m : Mbx) {s : State} (hK : Keeps b0 s) :
    ∀ u, execGetNonce m s = .next u → Keeps b0 u := by
  unfold execGetNonce; intro u hu; injection hu with hu; subst hu
  refine keeps_mbxRun _ _ _ (fun b0 l => ?_) hK
  have hK := Keeps.refl b0
  repeat' first
    | with_reducible assumption
    | (simp (maxDischargeDepth := 99) only [KIss.hold, KIss.done, KIss.fault, KIss.wait, Keeps.upd, Keeps.updId, Keeps.ite, Keeps.foldl, Keeps.foldl2, Keeps.foldl3, Keeps.refl, implies_true, keeps_mbxRun, *]; done)
    | (split <;> (try (rename_i heq; (first | refine Keeps.cut (Keeps.of_eq (b := b0) heq ?_) ?_ | refine Keeps.cut (Keeps.of_eq3 (b := b0) heq ?_) ?_ | refine Keeps.cut (Keeps.of_eq1 (b := b0) heq ?_) ?_ | refine Keeps.cut (Keeps.of_eq4 (b := b0) heq ?_) ?_); (focus (clear heq; (repeat' first | (simp (maxDischargeDepth := 99) only [KIss.hold, KIss.done, KIss.fault, KIss.wait, Keeps.upd, Keeps.updId, Keeps.ite, Keeps.foldl, Keeps.foldl2, Keeps.foldl3, Keeps.refl, implies_true, keeps_mbxRun, *]; done) | with_reducible apply Keeps.fold1 | with_reducible apply Keeps.fold2 | with_reducible apply Keeps.fold3 | with_reducible apply Keeps.fold21 | intro _ | split | dsimp only))); intro hz; (try dsimp only at hz); clear heq)))

theorem keeps_execGetSensors {b0 : State} (m : Mbx) {s : State} (hK : Keeps b0 s) :
    ∀ u, execGetSensors m s = .next u → Keeps b0 u := by
  unfold execGetSensors; intro u hu; injection hu with hu; subst hu
  refine keeps_mbxRun _ _ _ (fun b0 l => ?_) hK
  have hK := Keeps.refl b0
  repeat' first
    | with_reducible assumption
    | (simp (maxDischargeDepth := 99) only [KIss.hold, KIss.done, KIss.fault, KIss.wait, Keeps.upd, Keeps.updId, Keeps.ite, Keeps.foldl, Keeps.foldl2, Keeps.foldl3, Keeps.refl, implies_true, keeps_mbxRun, *]; done)
    | (split <;> (try (rename_i heq; (first | refine Keeps.cut (Keeps.of_eq (b := b0) heq ?_) ?_ | refine Keeps.cut (Keeps.of_eq3 (b := b0) heq ?_) ?_ | refine Keeps.cut (Keeps.of_eq1 (b := b0) heq ?_) ?_ | refine Keeps.cut (Keeps.of_eq4 (b := b0) heq ?_) ?_); (focus (clear heq; (repeat' first | (simp (maxDischargeDepth := 99) only [KIss.hold, KIss.done, KIss.fault, KIss.wait, Keeps.upd, Keeps.updId, Keeps.ite, Keeps.foldl, Keeps.foldl2, Keeps.foldl3, Keeps.refl, implies_true, keeps_mbxRun, *]; done) | with_reducible apply Keeps.fold1 | with_reducible apply Keeps.fold2 | with_reducible apply Keeps.fold3 | with_reducible apply Keeps.fold21 | intro _ | split | dsimp only))); intro hz; (try dsimp only at hz); clear heq)))

theorem keeps_latchDie {b0 : State} {s : State} (n epoch tick : Nat) (hK : Keeps b0 s) : Keeps b0 (latchDie s n epoch tick) := by
  unfold latchDie
  extract_lets live rest regs t
  have ht : Keeps b0 t := by
    refine hK.setRegs fun hr => ?_
    have h0 : Map.rising rest := rising_filter hr _
    have h1 : ∀ (l m : Map W64), m.rising → Map.rising (l.foldl (fun m e => mput 0 m (e.1 + 0x8000) e.2) m) := by
      intro l
      induction l with
      | nil => exact fun _ h => h
      | cons e l ih => exact fun m h => ih _ (rising_mput h _ _ _)
    exact h1 _ _ h0
  clear_value t
  exact keeps_rset (keeps_rset ht _ _ _ _ _) _ _ _ _ _

theorem keeps_copyMoves {b0 : State} {s : State} (m : W64) (n : Nat) (hK : Keeps b0 s) :
    Keeps b0 (copyMoves s m n) := by
  unfold copyMoves; simp (maxDischargeDepth := 99) only [KIss.hold, KIss.done, KIss.fault, KIss.wait, Keeps.upd, Keeps.updId,
         Keeps.ite, Keeps.foldl, Keeps.foldl2, Keeps.foldl3, Keeps.refl, implies_true, *]

theorem keeps_timeRuns {b0 : State} {s : State} (m : W64) (hK : Keeps b0 s) :
    Keeps b0 (timeRuns s m) := by
  unfold timeRuns; simp (maxDischargeDepth := 99) only [KIss.hold, KIss.done, KIss.fault, KIss.wait, Keeps.upd, Keeps.updId,
        Keeps.ite, Keeps.foldl, Keeps.foldl2, Keeps.foldl3, Keeps.refl, implies_true, keeps_copyMoves, *]

theorem keeps_execEpochLatch {b0 : State} (tick : W64) {s : State} (hK : Keeps b0 s) :
    ∀ u, execEpochLatch tick s = .next u → Keeps b0 u := by
  unfold execEpochLatch; intro t ht; injection ht with ht; subst ht; simp (maxDischargeDepth := 99) only [KIss.hold,
        KIss.done, KIss.fault, KIss.wait, Keeps.upd, Keeps.updId, Keeps.ite, Keeps.foldl, Keeps.foldl2, Keeps.foldl3,
        Keeps.refl, implies_true, keeps_latchDie, keeps_timeRuns, *]

theorem keeps_execTelRead {b0 : State} (m : Mbx) {s : State} (hK : Keeps b0 s) :
    ∀ u, execTelRead m s = .next u → Keeps b0 u := by
  unfold execTelRead; intro u hu; injection hu with hu; subst hu
  refine keeps_mbxRun _ _ _ (fun b0 l => ?_) hK
  have hK := Keeps.refl b0
  repeat' first
    | with_reducible assumption
    | (extract_lets +onlyGivenNames z; first | ((first | refine Keeps.cut (p := Keeps b0 z) ?_ ?_ | refine Keeps.cut (p := Keeps b0 z.2) ?_ ?_ | refine Keeps.cut (p := Keeps b0 z.2.2) ?_ ?_ | refine Keeps.cut (p := Keeps b0 z.1) ?_ ?_ | refine Keeps.cut (p := Keeps b0 z.s) ?_ ?_ | refine Keeps.cut (p := Keeps b0 z.2.s) ?_ ?_ | refine Keeps.cut (p := Keeps b0 z.2.2.s) ?_ ?_); (focus (intros; dsimp only [z]; (repeat' first | (simp (maxDischargeDepth := 99) only [KIss.hold, KIss.done, KIss.fault, KIss.wait, Keeps.upd, Keeps.updId, Keeps.ite, Keeps.foldl, Keeps.foldl2, Keeps.foldl3, Keeps.refl, implies_true, keeps_mbxRun, *]; done) | with_reducible apply Keeps.fold1 | with_reducible apply Keeps.fold2 | with_reducible apply Keeps.fold3 | with_reducible apply Keeps.fold21 | intro _ | split | dsimp only))); intro hz; clear_value z) | clear_value z | skip)
    | (simp (maxDischargeDepth := 99) only [KIss.hold, KIss.done, KIss.fault, KIss.wait, Keeps.upd, Keeps.updId, Keeps.ite, Keeps.foldl, Keeps.foldl2, Keeps.foldl3, Keeps.refl, implies_true, keeps_mbxRun, *]; done)
    | with_reducible apply Keeps.fold1
    | with_reducible apply Keeps.fold2
    | with_reducible apply Keeps.fold3
    | with_reducible apply Keeps.fold21
    | intro _
    | (split <;> (try (rename_i heq; (first | refine Keeps.cut (Keeps.of_eq (b := b0) heq ?_) ?_ | refine Keeps.cut (Keeps.of_eq3 (b := b0) heq ?_) ?_ | refine Keeps.cut (Keeps.of_eq1 (b := b0) heq ?_) ?_ | refine Keeps.cut (Keeps.of_eq4 (b := b0) heq ?_) ?_); (focus (clear heq; (repeat' first | (simp (maxDischargeDepth := 99) only [KIss.hold, KIss.done, KIss.fault, KIss.wait, Keeps.upd, Keeps.updId, Keeps.ite, Keeps.foldl, Keeps.foldl2, Keeps.foldl3, Keeps.refl, implies_true, keeps_mbxRun, *]; done) | with_reducible apply Keeps.fold1 | with_reducible apply Keeps.fold2 | with_reducible apply Keeps.fold3 | with_reducible apply Keeps.fold21 | intro _ | split | dsimp only))); intro hz; (try dsimp only at hz); clear heq)))

theorem keeps_telPeriodWrite {b0 : State} {s : State} (us : Nat) (hK : Keeps b0 s) :
    Keeps b0 (telPeriodWrite s us) := by
  unfold telPeriodWrite; simp (maxDischargeDepth := 99) only [KIss.hold, KIss.done, KIss.fault, KIss.wait, Keeps.upd,
        Keeps.updId, Keeps.ite, Keeps.foldl, Keeps.foldl2, Keeps.foldl3, Keeps.refl, implies_true, keeps_rset, *]

theorem keeps_execTelPeriod {b0 : State} (m : Mbx) {s : State} (hK : Keeps b0 s) :
    ∀ u, execTelPeriod m s = .next u → Keeps b0 u := by
  unfold execTelPeriod; intro u hu; injection hu with hu; subst hu
  refine keeps_mbxRun _ _ _ (fun b0 l => ?_) hK
  have hK := Keeps.refl b0
  repeat' first
    | with_reducible assumption
    | (simp (maxDischargeDepth := 99) only [KIss.hold, KIss.done, KIss.fault, KIss.wait, Keeps.upd, Keeps.updId, Keeps.ite, Keeps.foldl, Keeps.foldl2, Keeps.foldl3, Keeps.refl, implies_true, keeps_mbxRun, keeps_telPeriodWrite, *]; done)
    | (split <;> (try (rename_i heq; (first | refine Keeps.cut (Keeps.of_eq (b := b0) heq ?_) ?_ | refine Keeps.cut (Keeps.of_eq3 (b := b0) heq ?_) ?_ | refine Keeps.cut (Keeps.of_eq1 (b := b0) heq ?_) ?_ | refine Keeps.cut (Keeps.of_eq4 (b := b0) heq ?_) ?_); (focus (clear heq; (repeat' first | (simp (maxDischargeDepth := 99) only [KIss.hold, KIss.done, KIss.fault, KIss.wait, Keeps.upd, Keeps.updId, Keeps.ite, Keeps.foldl, Keeps.foldl2, Keeps.foldl3, Keeps.refl, implies_true, keeps_mbxRun, keeps_telPeriodWrite, *]; done) | with_reducible apply Keeps.fold1 | with_reducible apply Keeps.fold2 | with_reducible apply Keeps.fold3 | with_reducible apply Keeps.fold21 | intro _ | split | dsimp only))); intro hz; (try dsimp only at hz); clear heq)))

theorem keeps_execTimebaseSet {b0 : State} (m : Mbx) {s : State} (hK : Keeps b0 s) :
    ∀ u, execTimebaseSet m s = .next u → Keeps b0 u := by
  unfold execTimebaseSet
  intro u hu
  injection hu with hu
  subst hu
  split
  · exact hK
  · refine keeps_mbxRun _ _ _ (fun y l => ?_) hK
    split
    rename_i f v hv
    have h1 : Keeps y v := Keeps.of_eq hv (keeps_drawFree (Keeps.refl y))
    extract_lets +onlyGivenNames t
    split
    · exact h1
    · exact Keeps.upd h1

theorem keeps_execFenceClear {b0 : State} (m : Mbx) {s : State} (hK : Keeps b0 s) :
    ∀ u, execFenceClear m s = .next u → Keeps b0 u := by
  unfold execFenceClear; intro u hu; injection hu with hu; subst hu
  refine keeps_mbxRun _ _ _ (fun b0 l => ?_) hK
  have hK := Keeps.refl b0
  repeat' first
    | with_reducible assumption
    | (simp (maxDischargeDepth := 99) only [KIss.hold, KIss.done, KIss.fault, KIss.wait, Keeps.upd, Keeps.updId, Keeps.ite, Keeps.foldl, Keeps.foldl2, Keeps.foldl3, Keeps.refl, implies_true, keeps_mbxRun, *]; done)
    | (split <;> (try (rename_i heq; (first | refine Keeps.cut (Keeps.of_eq (b := b0) heq ?_) ?_ | refine Keeps.cut (Keeps.of_eq3 (b := b0) heq ?_) ?_ | refine Keeps.cut (Keeps.of_eq1 (b := b0) heq ?_) ?_ | refine Keeps.cut (Keeps.of_eq4 (b := b0) heq ?_) ?_); (focus (clear heq; (repeat' first | (simp (maxDischargeDepth := 99) only [KIss.hold, KIss.done, KIss.fault, KIss.wait, Keeps.upd, Keeps.updId, Keeps.ite, Keeps.foldl, Keeps.foldl2, Keeps.foldl3, Keeps.refl, implies_true, keeps_mbxRun, *]; done) | with_reducible apply Keeps.fold1 | with_reducible apply Keeps.fold2 | with_reducible apply Keeps.fold3 | with_reducible apply Keeps.fold21 | intro _ | split | dsimp only))); intro hz; (try dsimp only at hz); clear heq)))

theorem keeps_execSetBudget {b0 : State} (m : Mbx) {s : State} (hK : Keeps b0 s) :
    ∀ u, execSetBudget m s = .next u → Keeps b0 u := by
  unfold execSetBudget; intro u hu; injection hu with hu; subst hu
  refine keeps_mbxRun _ _ _ (fun b0 l => ?_) hK
  have hK := Keeps.refl b0
  repeat' first
    | with_reducible assumption
    | (extract_lets +onlyGivenNames z; first | ((first | refine Keeps.cut (p := Keeps b0 z) ?_ ?_ | refine Keeps.cut (p := Keeps b0 z.2) ?_ ?_ | refine Keeps.cut (p := Keeps b0 z.2.2) ?_ ?_ | refine Keeps.cut (p := Keeps b0 z.1) ?_ ?_ | refine Keeps.cut (p := Keeps b0 z.s) ?_ ?_ | refine Keeps.cut (p := Keeps b0 z.2.s) ?_ ?_ | refine Keeps.cut (p := Keeps b0 z.2.2.s) ?_ ?_); (focus (intros; dsimp only [z]; (repeat' first | (simp (maxDischargeDepth := 99) only [KIss.hold, KIss.done, KIss.fault, KIss.wait, Keeps.upd, Keeps.updId, Keeps.ite, Keeps.foldl, Keeps.foldl2, Keeps.foldl3, Keeps.refl, implies_true, keeps_rfset, keeps_mbxRun, *]; done) | with_reducible apply Keeps.fold1 | with_reducible apply Keeps.fold2 | with_reducible apply Keeps.fold3 | with_reducible apply Keeps.fold21 | intro _ | split | dsimp only))); intro hz; clear_value z) | clear_value z | skip)
    | (simp (maxDischargeDepth := 99) only [KIss.hold, KIss.done, KIss.fault, KIss.wait, Keeps.upd, Keeps.updId, Keeps.ite, Keeps.foldl, Keeps.foldl2, Keeps.foldl3, Keeps.refl, implies_true, keeps_rfset, keeps_mbxRun, *]; done)
    | with_reducible apply Keeps.fold1
    | with_reducible apply Keeps.fold2
    | with_reducible apply Keeps.fold3
    | with_reducible apply Keeps.fold21
    | intro _
    | (split <;> (try (rename_i heq; (first | refine Keeps.cut (Keeps.of_eq (b := b0) heq ?_) ?_ | refine Keeps.cut (Keeps.of_eq3 (b := b0) heq ?_) ?_ | refine Keeps.cut (Keeps.of_eq1 (b := b0) heq ?_) ?_ | refine Keeps.cut (Keeps.of_eq4 (b := b0) heq ?_) ?_); (focus (clear heq; (repeat' first | (simp (maxDischargeDepth := 99) only [KIss.hold, KIss.done, KIss.fault, KIss.wait, Keeps.upd, Keeps.updId, Keeps.ite, Keeps.foldl, Keeps.foldl2, Keeps.foldl3, Keeps.refl, implies_true, keeps_rfset, keeps_mbxRun, *]; done) | with_reducible apply Keeps.fold1 | with_reducible apply Keeps.fold2 | with_reducible apply Keeps.fold3 | with_reducible apply Keeps.fold21 | intro _ | split | dsimp only))); intro hz; (try dsimp only at hz); clear heq)))

theorem keeps_execSetGroup {b0 : State} (m : Mbx) {s : State} (hK : Keeps b0 s) :
    ∀ u, execSetGroup m s = .next u → Keeps b0 u := by
  unfold execSetGroup; intro u hu; injection hu with hu; subst hu
  refine keeps_mbxRun _ _ _ (fun b0 l => ?_) hK
  have hK := Keeps.refl b0
  repeat' first
    | with_reducible assumption
    | (simp (maxDischargeDepth := 99) only [KIss.hold, KIss.done, KIss.fault, KIss.wait, Keeps.upd, Keeps.updId, Keeps.ite, Keeps.foldl, Keeps.foldl2, Keeps.foldl3, Keeps.refl, implies_true, keeps_mbxRun, *]; done)
    | (split <;> (try (rename_i heq; (first | refine Keeps.cut (Keeps.of_eq (b := b0) heq ?_) ?_ | refine Keeps.cut (Keeps.of_eq3 (b := b0) heq ?_) ?_ | refine Keeps.cut (Keeps.of_eq1 (b := b0) heq ?_) ?_ | refine Keeps.cut (Keeps.of_eq4 (b := b0) heq ?_) ?_); (focus (clear heq; (repeat' first | (simp (maxDischargeDepth := 99) only [KIss.hold, KIss.done, KIss.fault, KIss.wait, Keeps.upd, Keeps.updId, Keeps.ite, Keeps.foldl, Keeps.foldl2, Keeps.foldl3, Keeps.refl, implies_true, keeps_mbxRun, *]; done) | with_reducible apply Keeps.fold1 | with_reducible apply Keeps.fold2 | with_reducible apply Keeps.fold3 | with_reducible apply Keeps.fold21 | intro _ | split | dsimp only))); intro hz; (try dsimp only at hz); clear heq)))

theorem keeps_execSetIdle {b0 : State} (m : Mbx) {s : State} (hK : Keeps b0 s) :
    ∀ u, execSetIdle m s = .next u → Keeps b0 u := by
  unfold execSetIdle; intro u hu; injection hu with hu; subst hu
  refine keeps_mbxRun _ _ _ (fun b0 l => ?_) hK
  have hK := Keeps.refl b0
  repeat' first
    | with_reducible assumption
    | (simp (maxDischargeDepth := 99) only [KIss.hold, KIss.done, KIss.fault, KIss.wait, Keeps.upd, Keeps.updId, Keeps.ite, Keeps.foldl, Keeps.foldl2, Keeps.foldl3, Keeps.refl, implies_true, keeps_deepIdleExit, keeps_mbxRun, *]; done)
    | (split <;> (try (rename_i heq; (first | refine Keeps.cut (Keeps.of_eq (b := b0) heq ?_) ?_ | refine Keeps.cut (Keeps.of_eq3 (b := b0) heq ?_) ?_ | refine Keeps.cut (Keeps.of_eq1 (b := b0) heq ?_) ?_ | refine Keeps.cut (Keeps.of_eq4 (b := b0) heq ?_) ?_); (focus (clear heq; (repeat' first | (simp (maxDischargeDepth := 99) only [KIss.hold, KIss.done, KIss.fault, KIss.wait, Keeps.upd, Keeps.updId, Keeps.ite, Keeps.foldl, Keeps.foldl2, Keeps.foldl3, Keeps.refl, implies_true, keeps_deepIdleExit, keeps_mbxRun, *]; done) | with_reducible apply Keeps.fold1 | with_reducible apply Keeps.fold2 | with_reducible apply Keeps.fold3 | with_reducible apply Keeps.fold21 | intro _ | split | dsimp only))); intro hz; (try dsimp only at hz); clear heq)))

theorem keeps_paceWrite {b0 : State} {s : State} (k : Nat) (v : Nat) (hK : Keeps b0 s) :
    Keeps b0 (paceWrite s k v) := by
  unfold paceWrite; simp (maxDischargeDepth := 99) only [KIss.hold, KIss.done, KIss.fault, KIss.wait, Keeps.upd, Keeps.updId,
         Keeps.ite, Keeps.foldl, Keeps.foldl2, Keeps.foldl3, Keeps.refl, implies_true, keeps_rset, keeps_rfset, *]

theorem keeps_execRimPaceCtlWrite {b0 : State} (a : Agent) (k : CDie) (v : W64) {s : State} (hK : Keeps b0 s) :
    ∀ u, execRimPaceCtlWrite a k v s = .next u → Keeps b0 u := by
  unfold execRimPaceCtlWrite; intro t ht; injection ht with ht; subst ht; simp (maxDischargeDepth := 99) only [KIss.hold,
        KIss.done, KIss.fault, KIss.wait, Keeps.upd, Keeps.updId, Keeps.ite, Keeps.foldl, Keeps.foldl2, Keeps.foldl3,
        Keeps.refl, implies_true, keeps_paceWrite, *]

theorem keeps_execSetPace {b0 : State} (m : Mbx) {s : State} (hK : Keeps b0 s) :
    ∀ u, execSetPace m s = .next u → Keeps b0 u := by
  unfold execSetPace; intro u hu; injection hu with hu; subst hu
  refine keeps_mbxRun _ _ _ (fun b0 l => ?_) hK
  have hK := Keeps.refl b0
  repeat' first
    | with_reducible assumption
    | (extract_lets +onlyGivenNames z; first | ((first | refine Keeps.cut (p := Keeps b0 z) ?_ ?_ | refine Keeps.cut (p := Keeps b0 z.2) ?_ ?_ | refine Keeps.cut (p := Keeps b0 z.2.2) ?_ ?_ | refine Keeps.cut (p := Keeps b0 z.1) ?_ ?_ | refine Keeps.cut (p := Keeps b0 z.s) ?_ ?_ | refine Keeps.cut (p := Keeps b0 z.2.s) ?_ ?_ | refine Keeps.cut (p := Keeps b0 z.2.2.s) ?_ ?_); (focus (intros; dsimp only [z]; (repeat' first | (simp (maxDischargeDepth := 99) only [KIss.hold, KIss.done, KIss.fault, KIss.wait, Keeps.upd, Keeps.updId, Keeps.ite, Keeps.foldl, Keeps.foldl2, Keeps.foldl3, Keeps.refl, implies_true, keeps_rfset, keeps_mbxRun, keeps_paceWrite, *]; done) | with_reducible apply Keeps.fold1 | with_reducible apply Keeps.fold2 | with_reducible apply Keeps.fold3 | with_reducible apply Keeps.fold21 | intro _ | split | dsimp only))); intro hz; clear_value z) | clear_value z | skip)
    | (simp (maxDischargeDepth := 99) only [KIss.hold, KIss.done, KIss.fault, KIss.wait, Keeps.upd, Keeps.updId, Keeps.ite, Keeps.foldl, Keeps.foldl2, Keeps.foldl3, Keeps.refl, implies_true, keeps_rfset, keeps_mbxRun, keeps_paceWrite, *]; done)
    | with_reducible apply Keeps.fold1
    | with_reducible apply Keeps.fold2
    | with_reducible apply Keeps.fold3
    | with_reducible apply Keeps.fold21
    | intro _
    | (split <;> (try (rename_i heq; (first | refine Keeps.cut (Keeps.of_eq (b := b0) heq ?_) ?_ | refine Keeps.cut (Keeps.of_eq3 (b := b0) heq ?_) ?_ | refine Keeps.cut (Keeps.of_eq1 (b := b0) heq ?_) ?_ | refine Keeps.cut (Keeps.of_eq4 (b := b0) heq ?_) ?_); (focus (clear heq; (repeat' first | (simp (maxDischargeDepth := 99) only [KIss.hold, KIss.done, KIss.fault, KIss.wait, Keeps.upd, Keeps.updId, Keeps.ite, Keeps.foldl, Keeps.foldl2, Keeps.foldl3, Keeps.refl, implies_true, keeps_rfset, keeps_mbxRun, keeps_paceWrite, *]; done) | with_reducible apply Keeps.fold1 | with_reducible apply Keeps.fold2 | with_reducible apply Keeps.fold3 | with_reducible apply Keeps.fold21 | intro _ | split | dsimp only))); intro hz; (try dsimp only at hz); clear heq)))

theorem keeps_rngCfgWrite {b0 : State} {s : State} (k : Nat) (table : Bool) (hK : Keeps b0 s) :
    Keeps b0 (rngCfgWrite s k table) := by
  unfold rngCfgWrite; simp (maxDischargeDepth := 99) only [KIss.hold, KIss.done, KIss.fault, KIss.wait, Keeps.upd,
        Keeps.updId, Keeps.ite, Keeps.foldl, Keeps.foldl2, Keeps.foldl3, Keeps.refl, implies_true, keeps_rfset, *]

theorem keeps_execDrpRngCfgWrite {b0 : State} (a : Agent) (k : CDie) (v : W64) {s : State} (hK : Keeps b0 s) :
    ∀ u, execDrpRngCfgWrite a k v s = .next u → Keeps b0 u := by
  unfold execDrpRngCfgWrite; intro t ht; injection ht with ht; subst ht; simp (maxDischargeDepth := 99) only [KIss.hold,
        KIss.done, KIss.fault, KIss.wait, Keeps.upd, Keeps.updId, Keeps.ite, Keeps.foldl, Keeps.foldl2, Keeps.foldl3,
        Keeps.refl, implies_true, keeps_rngCfgWrite, *]

theorem keeps_execDrpTableApply {b0 : State} (k : CDie) {s : State} (hK : Keeps b0 s) :
    ∀ u, execDrpTableApply k s = .next u → Keeps b0 u := by
  unfold execDrpTableApply
  repeat' first
    | with_reducible assumption
    | refine fun (y : State) (gr : Group) (hy : Keeps b0 y) => ?_
    | (extract_lets +onlyGivenNames z; first | ((first | refine Keeps.cut (p := Keeps b0 z) ?_ ?_ | refine Keeps.cut (p := Keeps b0 z.2) ?_ ?_ | refine Keeps.cut (p := Keeps b0 z.2.2) ?_ ?_ | refine Keeps.cut (p := Keeps b0 z.1) ?_ ?_ | refine Keeps.cut (p := Keeps b0 z.s) ?_ ?_ | refine Keeps.cut (p := Keeps b0 z.2.s) ?_ ?_ | refine Keeps.cut (p := Keeps b0 z.2.2.s) ?_ ?_); (focus (intros; dsimp only [z]; (repeat' first | (simp (maxDischargeDepth := 99) only [KIss.hold, KIss.done, KIss.fault, KIss.wait, Keeps.upd, Keeps.updId, Keeps.ite, Keeps.foldl, Keeps.foldl2, Keeps.foldl3, Keeps.refl, implies_true, keeps_rfset, *]; done) | with_reducible apply Keeps.fold1 | with_reducible apply Keeps.fold2 | with_reducible apply Keeps.fold3 | with_reducible apply Keeps.fold21 | intro _ | split | dsimp only))); intro hz; clear_value z) | clear_value z | skip)
    | (simp (maxDischargeDepth := 99) only [KIss.hold, KIss.done, KIss.fault, KIss.wait, Keeps.upd, Keeps.updId, Keeps.ite, Keeps.foldl, Keeps.foldl2, Keeps.foldl3, Keeps.refl, implies_true, keeps_rfset, *]; done)
    | (intro t ht; injection ht with ht; subst ht)
    | (intro t ht; contradiction)
    | with_reducible apply Keeps.fold1
    | with_reducible apply Keeps.fold2
    | with_reducible apply Keeps.fold3
    | with_reducible apply Keeps.fold21
    | (split <;> (try (rename_i heq; (first | refine Keeps.cut (Keeps.of_eq (b := b0) heq ?_) ?_ | refine Keeps.cut (Keeps.of_eq3 (b := b0) heq ?_) ?_ | refine Keeps.cut (Keeps.of_eq1 (b := b0) heq ?_) ?_ | refine Keeps.cut (Keeps.of_eq4 (b := b0) heq ?_) ?_); (focus (clear heq; (repeat' first | (simp (maxDischargeDepth := 99) only [KIss.hold, KIss.done, KIss.fault, KIss.wait, Keeps.upd, Keeps.updId, Keeps.ite, Keeps.foldl, Keeps.foldl2, Keeps.foldl3, Keeps.refl, implies_true, keeps_rfset, *]; done) | with_reducible apply Keeps.fold1 | with_reducible apply Keeps.fold2 | with_reducible apply Keeps.fold3 | with_reducible apply Keeps.fold21 | intro _ | split | dsimp only))); intro hz; (try dsimp only at hz); clear heq)))
    | intro _

theorem keeps_execRngTable {b0 : State} (m : Mbx) {s : State} (hK : Keeps b0 s) :
    ∀ u, execRngTable m s = .next u → Keeps b0 u := by
  unfold execRngTable; intro u hu; injection hu with hu; subst hu
  refine keeps_mbxRun _ _ _ (fun b0 l => ?_) hK
  have hK := Keeps.refl b0
  repeat' first
    | with_reducible assumption
    | (simp (maxDischargeDepth := 99) only [KIss.hold, KIss.done, KIss.fault, KIss.wait, Keeps.upd, Keeps.updId, Keeps.ite, Keeps.foldl, Keeps.foldl2, Keeps.foldl3, Keeps.refl, implies_true, keeps_mbxRun, keeps_rngCfgWrite, *]; done)
    | (split <;> (try (rename_i heq; (first | refine Keeps.cut (Keeps.of_eq (b := b0) heq ?_) ?_ | refine Keeps.cut (Keeps.of_eq3 (b := b0) heq ?_) ?_ | refine Keeps.cut (Keeps.of_eq1 (b := b0) heq ?_) ?_ | refine Keeps.cut (Keeps.of_eq4 (b := b0) heq ?_) ?_); (focus (clear heq; (repeat' first | (simp (maxDischargeDepth := 99) only [KIss.hold, KIss.done, KIss.fault, KIss.wait, Keeps.upd, Keeps.updId, Keeps.ite, Keeps.foldl, Keeps.foldl2, Keeps.foldl3, Keeps.refl, implies_true, keeps_mbxRun, keeps_rngCfgWrite, *]; done) | with_reducible apply Keeps.fold1 | with_reducible apply Keeps.fold2 | with_reducible apply Keeps.fold3 | with_reducible apply Keeps.fold21 | intro _ | split | dsimp only))); intro hz; (try dsimp only at hz); clear heq)))

theorem keeps_keyStore {b0 : State} {s : State} (key : Option (BitVec 256)) (nonce : W128) (flashOk : Bool) (hK : Keeps b0 s) :
    Keeps b0 (keyStore s key nonce flashOk).1 := by
  unfold keyStore; (repeat' split) <;> simp (maxDischargeDepth := 99) only [KIss.hold, KIss.done, KIss.fault, KIss.wait,
        Keeps.upd, Keeps.updId, Keeps.ite, Keeps.foldl, Keeps.foldl2, Keeps.foldl3, Keeps.refl, implies_true, keeps_rfset,
        keeps_newNonce, *]

theorem keeps_execOwnerInstall {b0 : State} (m : Mbx) (nonce : W128) (flashOk : Bool) {s : State} (hK : Keeps b0 s) :
    ∀ u, execOwnerInstall m nonce flashOk s = .next u → Keeps b0 u := by
  unfold execOwnerInstall; intro u hu; injection hu with hu; subst hu
  refine keeps_mbxRun _ _ _ (fun b0 l => ?_) hK
  have hK := Keeps.refl b0
  repeat' first
    | with_reducible assumption
    | (simp (maxDischargeDepth := 99) only [KIss.hold, KIss.done, KIss.fault, KIss.wait, Keeps.upd, Keeps.updId, Keeps.ite, Keeps.foldl, Keeps.foldl2, Keeps.foldl3, Keeps.refl, implies_true, keeps_mbxRun, keeps_keyStore, *]; done)
    | (split <;> (try (rename_i heq; (first | refine Keeps.cut (Keeps.of_eq (b := b0) heq ?_) ?_ | refine Keeps.cut (Keeps.of_eq3 (b := b0) heq ?_) ?_ | refine Keeps.cut (Keeps.of_eq1 (b := b0) heq ?_) ?_ | refine Keeps.cut (Keeps.of_eq4 (b := b0) heq ?_) ?_); (focus (clear heq; (repeat' first | (simp (maxDischargeDepth := 99) only [KIss.hold, KIss.done, KIss.fault, KIss.wait, Keeps.upd, Keeps.updId, Keeps.ite, Keeps.foldl, Keeps.foldl2, Keeps.foldl3, Keeps.refl, implies_true, keeps_mbxRun, keeps_keyStore, *]; done) | with_reducible apply Keeps.fold1 | with_reducible apply Keeps.fold2 | with_reducible apply Keeps.fold3 | with_reducible apply Keeps.fold21 | intro _ | split | dsimp only))); intro hz; (try dsimp only at hz); clear heq)))

theorem keeps_execKeyRoll {b0 : State} (m : Mbx) (nonce : W128) (flashOk : Bool) {s : State} (hK : Keeps b0 s) :
    ∀ u, execKeyRoll m nonce flashOk s = .next u → Keeps b0 u := by
  unfold execKeyRoll; intro u hu; injection hu with hu; subst hu
  refine keeps_mbxRun _ _ _ (fun b0 l => ?_) hK
  have hK := Keeps.refl b0
  repeat' first
    | with_reducible assumption
    | (simp (maxDischargeDepth := 99) only [KIss.hold, KIss.done, KIss.fault, KIss.wait, Keeps.upd, Keeps.updId, Keeps.ite, Keeps.foldl, Keeps.foldl2, Keeps.foldl3, Keeps.refl, implies_true, keeps_mbxRun, keeps_keyStore, *]; done)
    | (split <;> (try (rename_i heq; (first | refine Keeps.cut (Keeps.of_eq (b := b0) heq ?_) ?_ | refine Keeps.cut (Keeps.of_eq3 (b := b0) heq ?_) ?_ | refine Keeps.cut (Keeps.of_eq1 (b := b0) heq ?_) ?_ | refine Keeps.cut (Keeps.of_eq4 (b := b0) heq ?_) ?_); (focus (clear heq; (repeat' first | (simp (maxDischargeDepth := 99) only [KIss.hold, KIss.done, KIss.fault, KIss.wait, Keeps.upd, Keeps.updId, Keeps.ite, Keeps.foldl, Keeps.foldl2, Keeps.foldl3, Keeps.refl, implies_true, keeps_mbxRun, keeps_keyStore, *]; done) | with_reducible apply Keeps.fold1 | with_reducible apply Keeps.fold2 | with_reducible apply Keeps.fold3 | with_reducible apply Keeps.fold21 | intro _ | split | dsimp only))); intro hz; (try dsimp only at hz); clear heq)))

theorem keeps_execOwnerClear {b0 : State} (m : Mbx) (nonce : W128) (flashOk : Bool) {s : State} (hK : Keeps b0 s) :
    ∀ u, execOwnerClear m nonce flashOk s = .next u → Keeps b0 u := by
  unfold execOwnerClear; intro u hu; injection hu with hu; subst hu
  refine keeps_mbxRun _ _ _ (fun b0 l => ?_) hK
  have hK := Keeps.refl b0
  repeat' first
    | with_reducible assumption
    | (simp (maxDischargeDepth := 99) only [KIss.hold, KIss.done, KIss.fault, KIss.wait, Keeps.upd, Keeps.updId, Keeps.ite, Keeps.foldl, Keeps.foldl2, Keeps.foldl3, Keeps.refl, implies_true, keeps_mbxRun, keeps_keyStore, *]; done)
    | (split <;> (try (rename_i heq; (first | refine Keeps.cut (Keeps.of_eq (b := b0) heq ?_) ?_ | refine Keeps.cut (Keeps.of_eq3 (b := b0) heq ?_) ?_ | refine Keeps.cut (Keeps.of_eq1 (b := b0) heq ?_) ?_ | refine Keeps.cut (Keeps.of_eq4 (b := b0) heq ?_) ?_); (focus (clear heq; (repeat' first | (simp (maxDischargeDepth := 99) only [KIss.hold, KIss.done, KIss.fault, KIss.wait, Keeps.upd, Keeps.updId, Keeps.ite, Keeps.foldl, Keeps.foldl2, Keeps.foldl3, Keeps.refl, implies_true, keeps_mbxRun, keeps_keyStore, *]; done) | with_reducible apply Keeps.fold1 | with_reducible apply Keeps.fold2 | with_reducible apply Keeps.fold3 | with_reducible apply Keeps.fold21 | intro _ | split | dsimp only))); intro hz; (try dsimp only at hz); clear heq)))

theorem keeps_commitStore {b0 : State} {s : State} (res : Nat) (svnMin : Nat) (hK : Keeps b0 s) :
    Keeps b0 (commitStore s res svnMin) := by
  unfold commitStore; simp (maxDischargeDepth := 99) only [KIss.hold, KIss.done, KIss.fault, KIss.wait, Keeps.upd,
        Keeps.updId, Keeps.ite, Keeps.foldl, Keeps.foldl2, Keeps.foldl3, Keeps.refl, implies_true, *]

theorem keeps_execAttest {b0 : State} (m : Mbx) (flashOk : Bool) {s : State} (hK : Keeps b0 s) :
    ∀ u, execAttest m flashOk s = .next u → Keeps b0 u := by
  unfold execAttest; intro u hu; injection hu with hu; subst hu
  refine keeps_mbxRun _ _ _ (fun b0 l => ?_) hK
  have hK := Keeps.refl b0
  repeat' first
    | with_reducible assumption
    | (extract_lets +onlyGivenNames z; first | ((first | refine Keeps.cut (p := Keeps b0 z) ?_ ?_ | refine Keeps.cut (p := Keeps b0 z.2) ?_ ?_ | refine Keeps.cut (p := Keeps b0 z.2.2) ?_ ?_ | refine Keeps.cut (p := Keeps b0 z.1) ?_ ?_ | refine Keeps.cut (p := Keeps b0 z.s) ?_ ?_ | refine Keeps.cut (p := Keeps b0 z.2.s) ?_ ?_ | refine Keeps.cut (p := Keeps b0 z.2.2.s) ?_ ?_); (focus (intros; dsimp only [z]; (repeat' first | (simp (maxDischargeDepth := 99) only [KIss.hold, KIss.done, KIss.fault, KIss.wait, Keeps.upd, Keeps.updId, Keeps.ite, Keeps.foldl, Keeps.foldl2, Keeps.foldl3, Keeps.refl, implies_true, keeps_report, keeps_mbxRun, keeps_commitStore, *]; done) | with_reducible apply Keeps.fold1 | with_reducible apply Keeps.fold2 | with_reducible apply Keeps.fold3 | with_reducible apply Keeps.fold21 | intro _ | split | dsimp only))); intro hz; clear_value z) | clear_value z | skip)
    | (simp (maxDischargeDepth := 99) only [KIss.hold, KIss.done, KIss.fault, KIss.wait, Keeps.upd, Keeps.updId, Keeps.ite, Keeps.foldl, Keeps.foldl2, Keeps.foldl3, Keeps.refl, implies_true, keeps_report, keeps_mbxRun, keeps_commitStore, *]; done)
    | with_reducible apply Keeps.fold1
    | with_reducible apply Keeps.fold2
    | with_reducible apply Keeps.fold3
    | with_reducible apply Keeps.fold21
    | intro _
    | (split <;> (try (rename_i heq; (first | refine Keeps.cut (Keeps.of_eq (b := b0) heq ?_) ?_ | refine Keeps.cut (Keeps.of_eq3 (b := b0) heq ?_) ?_ | refine Keeps.cut (Keeps.of_eq1 (b := b0) heq ?_) ?_ | refine Keeps.cut (Keeps.of_eq4 (b := b0) heq ?_) ?_); (focus (clear heq; (repeat' first | (simp (maxDischargeDepth := 99) only [KIss.hold, KIss.done, KIss.fault, KIss.wait, Keeps.upd, Keeps.updId, Keeps.ite, Keeps.foldl, Keeps.foldl2, Keeps.foldl3, Keeps.refl, implies_true, keeps_report, keeps_mbxRun, keeps_commitStore, *]; done) | with_reducible apply Keeps.fold1 | with_reducible apply Keeps.fold2 | with_reducible apply Keeps.fold3 | with_reducible apply Keeps.fold21 | intro _ | split | dsimp only))); intro hz; (try dsimp only at hz); clear heq)))

theorem keeps_execAttestRead {b0 : State} (m : Mbx) {s : State} (hK : Keeps b0 s) :
    ∀ u, execAttestRead m s = .next u → Keeps b0 u := by
  unfold execAttestRead; intro u hu; injection hu with hu; subst hu
  refine keeps_mbxRun _ _ _ (fun b0 l => ?_) hK
  have hK := Keeps.refl b0
  repeat' first
    | with_reducible assumption
    | (simp (maxDischargeDepth := 99) only [KIss.hold, KIss.done, KIss.fault, KIss.wait, Keeps.upd, Keeps.updId, Keeps.ite, Keeps.foldl, Keeps.foldl2, Keeps.foldl3, Keeps.refl, implies_true, keeps_mbxRun, *]; done)
    | (split <;> (try (rename_i heq; (first | refine Keeps.cut (Keeps.of_eq (b := b0) heq ?_) ?_ | refine Keeps.cut (Keeps.of_eq3 (b := b0) heq ?_) ?_ | refine Keeps.cut (Keeps.of_eq1 (b := b0) heq ?_) ?_ | refine Keeps.cut (Keeps.of_eq4 (b := b0) heq ?_) ?_); (focus (clear heq; (repeat' first | (simp (maxDischargeDepth := 99) only [KIss.hold, KIss.done, KIss.fault, KIss.wait, Keeps.upd, Keeps.updId, Keeps.ite, Keeps.foldl, Keeps.foldl2, Keeps.foldl3, Keeps.refl, implies_true, keeps_mbxRun, *]; done) | with_reducible apply Keeps.fold1 | with_reducible apply Keeps.fold2 | with_reducible apply Keeps.fold3 | with_reducible apply Keeps.fold21 | intro _ | split | dsimp only))); intro hz; (try dsimp only at hz); clear heq)))

theorem keeps_execGetIdentity {b0 : State} (m : Mbx) {s : State} (hK : Keeps b0 s) :
    ∀ u, execGetIdentity m s = .next u → Keeps b0 u := by
  unfold execGetIdentity; intro u hu; injection hu with hu; subst hu
  refine keeps_mbxRun _ _ _ (fun b0 l => ?_) hK
  have hK := Keeps.refl b0
  repeat' first
    | with_reducible assumption
    | (simp (maxDischargeDepth := 99) only [KIss.hold, KIss.done, KIss.fault, KIss.wait, Keeps.upd, Keeps.updId, Keeps.ite, Keeps.foldl, Keeps.foldl2, Keeps.foldl3, Keeps.refl, implies_true, keeps_mbxRun, *]; done)
    | (split <;> (try (rename_i heq; (first | refine Keeps.cut (Keeps.of_eq (b := b0) heq ?_) ?_ | refine Keeps.cut (Keeps.of_eq3 (b := b0) heq ?_) ?_ | refine Keeps.cut (Keeps.of_eq1 (b := b0) heq ?_) ?_ | refine Keeps.cut (Keeps.of_eq4 (b := b0) heq ?_) ?_); (focus (clear heq; (repeat' first | (simp (maxDischargeDepth := 99) only [KIss.hold, KIss.done, KIss.fault, KIss.wait, Keeps.upd, Keeps.updId, Keeps.ite, Keeps.foldl, Keeps.foldl2, Keeps.foldl3, Keeps.refl, implies_true, keeps_mbxRun, *]; done) | with_reducible apply Keeps.fold1 | with_reducible apply Keeps.fold2 | with_reducible apply Keeps.fold3 | with_reducible apply Keeps.fold21 | intro _ | split | dsimp only))); intro hz; (try dsimp only at hz); clear heq)))

theorem keeps_execFwBegin {b0 : State} (m : Mbx) (flashOk : Bool) {s : State} (hK : Keeps b0 s) :
    ∀ u, execFwBegin m flashOk s = .next u → Keeps b0 u := by
  unfold execFwBegin; intro u hu; injection hu with hu; subst hu
  refine keeps_mbxRun _ _ _ (fun b0 l => ?_) hK
  have hK := Keeps.refl b0
  repeat' first
    | with_reducible assumption
    | (simp (maxDischargeDepth := 99) only [KIss.hold, KIss.done, KIss.fault, KIss.wait, Keeps.upd, Keeps.updId, Keeps.ite, Keeps.foldl, Keeps.foldl2, Keeps.foldl3, Keeps.refl, implies_true, keeps_mbxRun, *]; done)
    | (split <;> (try (rename_i heq; (first | refine Keeps.cut (Keeps.of_eq (b := b0) heq ?_) ?_ | refine Keeps.cut (Keeps.of_eq3 (b := b0) heq ?_) ?_ | refine Keeps.cut (Keeps.of_eq1 (b := b0) heq ?_) ?_ | refine Keeps.cut (Keeps.of_eq4 (b := b0) heq ?_) ?_); (focus (clear heq; (repeat' first | (simp (maxDischargeDepth := 99) only [KIss.hold, KIss.done, KIss.fault, KIss.wait, Keeps.upd, Keeps.updId, Keeps.ite, Keeps.foldl, Keeps.foldl2, Keeps.foldl3, Keeps.refl, implies_true, keeps_mbxRun, *]; done) | with_reducible apply Keeps.fold1 | with_reducible apply Keeps.fold2 | with_reducible apply Keeps.fold3 | with_reducible apply Keeps.fold21 | intro _ | split | dsimp only))); intro hz; (try dsimp only at hz); clear heq)))

theorem keeps_execFwChunk {b0 : State} (m : Mbx) (flashOk : Bool) {s : State} (hK : Keeps b0 s) :
    ∀ u, execFwChunk m flashOk s = .next u → Keeps b0 u := by
  unfold execFwChunk; intro u hu; injection hu with hu; subst hu
  refine keeps_mbxRun _ _ _ (fun b0 l => ?_) hK
  have hK := Keeps.refl b0
  repeat' first
    | with_reducible assumption
    | (extract_lets +onlyGivenNames z; first | ((first | refine Keeps.cut (p := Keeps b0 z) ?_ ?_ | refine Keeps.cut (p := Keeps b0 z.2) ?_ ?_ | refine Keeps.cut (p := Keeps b0 z.2.2) ?_ ?_ | refine Keeps.cut (p := Keeps b0 z.1) ?_ ?_ | refine Keeps.cut (p := Keeps b0 z.s) ?_ ?_ | refine Keeps.cut (p := Keeps b0 z.2.s) ?_ ?_ | refine Keeps.cut (p := Keeps b0 z.2.2.s) ?_ ?_); (focus (intros; dsimp only [z]; (repeat' first | (simp (maxDischargeDepth := 99) only [KIss.hold, KIss.done, KIss.fault, KIss.wait, Keeps.upd, Keeps.updId, Keeps.ite, Keeps.foldl, Keeps.foldl2, Keeps.foldl3, Keeps.refl, implies_true, keeps_mbxRun, *]; done) | with_reducible apply Keeps.fold1 | with_reducible apply Keeps.fold2 | with_reducible apply Keeps.fold3 | with_reducible apply Keeps.fold21 | intro _ | split | dsimp only))); intro hz; clear_value z) | clear_value z | skip)
    | (simp (maxDischargeDepth := 99) only [KIss.hold, KIss.done, KIss.fault, KIss.wait, Keeps.upd, Keeps.updId, Keeps.ite, Keeps.foldl, Keeps.foldl2, Keeps.foldl3, Keeps.refl, implies_true, keeps_mbxRun, *]; done)
    | with_reducible apply Keeps.fold1
    | with_reducible apply Keeps.fold2
    | with_reducible apply Keeps.fold3
    | with_reducible apply Keeps.fold21
    | intro _
    | (split <;> (try (rename_i heq; (first | refine Keeps.cut (Keeps.of_eq (b := b0) heq ?_) ?_ | refine Keeps.cut (Keeps.of_eq3 (b := b0) heq ?_) ?_ | refine Keeps.cut (Keeps.of_eq1 (b := b0) heq ?_) ?_ | refine Keeps.cut (Keeps.of_eq4 (b := b0) heq ?_) ?_); (focus (clear heq; (repeat' first | (simp (maxDischargeDepth := 99) only [KIss.hold, KIss.done, KIss.fault, KIss.wait, Keeps.upd, Keeps.updId, Keeps.ite, Keeps.foldl, Keeps.foldl2, Keeps.foldl3, Keeps.refl, implies_true, keeps_mbxRun, *]; done) | with_reducible apply Keeps.fold1 | with_reducible apply Keeps.fold2 | with_reducible apply Keeps.fold3 | with_reducible apply Keeps.fold21 | intro _ | split | dsimp only))); intro hz; (try dsimp only at hz); clear heq)))

theorem keeps_execFwCommit {b0 : State} (m : Mbx) (flashOk : Bool) {s : State} (hK : Keeps b0 s) :
    ∀ u, execFwCommit m flashOk s = .next u → Keeps b0 u := by
  unfold execFwCommit; intro u hu; injection hu with hu; subst hu
  refine keeps_mbxRun _ _ _ (fun b0 l => ?_) hK
  have hK := Keeps.refl b0
  repeat' first
    | with_reducible assumption
    | (extract_lets +onlyGivenNames z; first | ((first | refine Keeps.cut (p := Keeps b0 z) ?_ ?_ | refine Keeps.cut (p := Keeps b0 z.2) ?_ ?_ | refine Keeps.cut (p := Keeps b0 z.2.2) ?_ ?_ | refine Keeps.cut (p := Keeps b0 z.1) ?_ ?_ | refine Keeps.cut (p := Keeps b0 z.s) ?_ ?_ | refine Keeps.cut (p := Keeps b0 z.2.s) ?_ ?_ | refine Keeps.cut (p := Keeps b0 z.2.2.s) ?_ ?_); (focus (intros; dsimp only [z]; (repeat' first | (simp (maxDischargeDepth := 99) only [KIss.hold, KIss.done, KIss.fault, KIss.wait, Keeps.upd, Keeps.updId, Keeps.ite, Keeps.foldl, Keeps.foldl2, Keeps.foldl3, Keeps.refl, implies_true, keeps_rfset, keeps_mbxRun, keeps_commitStore, *]; done) | with_reducible apply Keeps.fold1 | with_reducible apply Keeps.fold2 | with_reducible apply Keeps.fold3 | with_reducible apply Keeps.fold21 | intro _ | split | dsimp only))); intro hz; clear_value z) | clear_value z | skip)
    | (simp (maxDischargeDepth := 99) only [KIss.hold, KIss.done, KIss.fault, KIss.wait, Keeps.upd, Keeps.updId, Keeps.ite, Keeps.foldl, Keeps.foldl2, Keeps.foldl3, Keeps.refl, implies_true, keeps_rfset, keeps_mbxRun, keeps_commitStore, *]; done)
    | with_reducible apply Keeps.fold1
    | with_reducible apply Keeps.fold2
    | with_reducible apply Keeps.fold3
    | with_reducible apply Keeps.fold21
    | intro _
    | (split <;> (try (rename_i heq; (first | refine Keeps.cut (Keeps.of_eq (b := b0) heq ?_) ?_ | refine Keeps.cut (Keeps.of_eq3 (b := b0) heq ?_) ?_ | refine Keeps.cut (Keeps.of_eq1 (b := b0) heq ?_) ?_ | refine Keeps.cut (Keeps.of_eq4 (b := b0) heq ?_) ?_); (focus (clear heq; (repeat' first | (simp (maxDischargeDepth := 99) only [KIss.hold, KIss.done, KIss.fault, KIss.wait, Keeps.upd, Keeps.updId, Keeps.ite, Keeps.foldl, Keeps.foldl2, Keeps.foldl3, Keeps.refl, implies_true, keeps_rfset, keeps_mbxRun, keeps_commitStore, *]; done) | with_reducible apply Keeps.fold1 | with_reducible apply Keeps.fold2 | with_reducible apply Keeps.fold3 | with_reducible apply Keeps.fold21 | intro _ | split | dsimp only))); intro hz; (try dsimp only at hz); clear heq)))

theorem keeps_execFwActivate {b0 : State} (m : Mbx) (nonce : W128) {s : State} (hK : Keeps b0 s) :
    ∀ u, execFwActivate m nonce s = .next u → Keeps b0 u := by
  unfold execFwActivate; intro u hu; injection hu with hu; subst hu
  refine keeps_mbxRun _ _ _ (fun b0 l => ?_) hK
  have hK := Keeps.refl b0
  repeat' first
    | with_reducible assumption
    | (simp (maxDischargeDepth := 99) only [KIss.hold, KIss.done, KIss.fault, KIss.wait, Keeps.upd, Keeps.updId, Keeps.ite, Keeps.foldl, Keeps.foldl2, Keeps.foldl3, Keeps.refl, implies_true, keeps_mbxRun, keeps_addHold, keeps_dropHold, keeps_startIfFree, keeps_mainReset, keeps_romBoot, *]; done)
    | (split <;> (try (rename_i heq; (first | refine Keeps.cut (Keeps.of_eq (b := b0) heq ?_) ?_ | refine Keeps.cut (Keeps.of_eq3 (b := b0) heq ?_) ?_ | refine Keeps.cut (Keeps.of_eq1 (b := b0) heq ?_) ?_ | refine Keeps.cut (Keeps.of_eq4 (b := b0) heq ?_) ?_); (focus (clear heq; (repeat' first | (simp (maxDischargeDepth := 99) only [KIss.hold, KIss.done, KIss.fault, KIss.wait, Keeps.upd, Keeps.updId, Keeps.ite, Keeps.foldl, Keeps.foldl2, Keeps.foldl3, Keeps.refl, implies_true, keeps_mbxRun, keeps_addHold, keeps_dropHold, keeps_startIfFree, keeps_mainReset, keeps_romBoot, *]; done) | with_reducible apply Keeps.fold1 | with_reducible apply Keeps.fold2 | with_reducible apply Keeps.fold3 | with_reducible apply Keeps.fold21 | intro _ | split | dsimp only))); intro hz; (try dsimp only at hz); clear heq)))

theorem keeps_execModuleReset {b0 : State} (m : Mbx) {s : State} (hK : Keeps b0 s) :
    ∀ u, execModuleReset m s = .next u → Keeps b0 u := by
  unfold execModuleReset; intro u hu; injection hu with hu; subst hu
  refine keeps_mbxRun _ _ _ (fun b0 l => ?_) hK
  have hK := Keeps.refl b0
  repeat' first
    | with_reducible assumption
    | (simp (maxDischargeDepth := 99) only [KIss.hold, KIss.done, KIss.fault, KIss.wait, Keeps.upd, Keeps.updId, Keeps.ite, Keeps.foldl, Keeps.foldl2, Keeps.foldl3, Keeps.refl, implies_true, keeps_mbxRun, keeps_dropHold, keeps_startIfFree, keeps_mainReset, *]; done)
    | (split <;> (try (rename_i heq; (first | refine Keeps.cut (Keeps.of_eq (b := b0) heq ?_) ?_ | refine Keeps.cut (Keeps.of_eq3 (b := b0) heq ?_) ?_ | refine Keeps.cut (Keeps.of_eq1 (b := b0) heq ?_) ?_ | refine Keeps.cut (Keeps.of_eq4 (b := b0) heq ?_) ?_); (focus (clear heq; (repeat' first | (simp (maxDischargeDepth := 99) only [KIss.hold, KIss.done, KIss.fault, KIss.wait, Keeps.upd, Keeps.updId, Keeps.ite, Keeps.foldl, Keeps.foldl2, Keeps.foldl3, Keeps.refl, implies_true, keeps_mbxRun, keeps_dropHold, keeps_startIfFree, keeps_mainReset, *]; done) | with_reducible apply Keeps.fold1 | with_reducible apply Keeps.fold2 | with_reducible apply Keeps.fold3 | with_reducible apply Keeps.fold21 | intro _ | split | dsimp only))); intro hz; (try dsimp only at hz); clear heq)))

theorem keeps_i3cPut {b0 : State} {s : State} (o : Nat) (b : Byte) (hK : Keeps b0 s) :
    Keeps b0 (i3cPut s o b) := by
  unfold i3cPut
  repeat' first
    | with_reducible assumption
    | (extract_lets +onlyGivenNames z; first | ((first | refine Keeps.cut (p := Keeps b0 z) ?_ ?_ | refine Keeps.cut (p := Keeps b0 z.2) ?_ ?_ | refine Keeps.cut (p := Keeps b0 z.2.2) ?_ ?_ | refine Keeps.cut (p := Keeps b0 z.1) ?_ ?_ | refine Keeps.cut (p := Keeps b0 z.s) ?_ ?_ | refine Keeps.cut (p := Keeps b0 z.2.s) ?_ ?_ | refine Keeps.cut (p := Keeps b0 z.2.2.s) ?_ ?_); (focus (intros; dsimp only [z]; (repeat' first | (simp (maxDischargeDepth := 99) only [KIss.hold, KIss.done, KIss.fault, KIss.wait, Keeps.upd, Keeps.updId, Keeps.ite, Keeps.foldl, Keeps.foldl2, Keeps.foldl3, Keeps.refl, implies_true, keeps_mbxRegWrite, *]; done) | with_reducible apply Keeps.fold1 | with_reducible apply Keeps.fold2 | with_reducible apply Keeps.fold3 | with_reducible apply Keeps.fold21 | intro _ | split | dsimp only))); intro hz; clear_value z) | clear_value z | skip)
    | (simp (maxDischargeDepth := 99) only [KIss.hold, KIss.done, KIss.fault, KIss.wait, Keeps.upd, Keeps.updId, Keeps.ite, Keeps.foldl, Keeps.foldl2, Keeps.foldl3, Keeps.refl, implies_true, keeps_mbxRegWrite, *]; done)
    | with_reducible apply Keeps.fold1
    | with_reducible apply Keeps.fold2
    | with_reducible apply Keeps.fold3
    | with_reducible apply Keeps.fold21
    | intro _
    | (split <;> (try (rename_i heq; (first | refine Keeps.cut (Keeps.of_eq (b := b0) heq ?_) ?_ | refine Keeps.cut (Keeps.of_eq3 (b := b0) heq ?_) ?_ | refine Keeps.cut (Keeps.of_eq1 (b := b0) heq ?_) ?_ | refine Keeps.cut (Keeps.of_eq4 (b := b0) heq ?_) ?_); (focus (clear heq; (repeat' first | (simp (maxDischargeDepth := 99) only [KIss.hold, KIss.done, KIss.fault, KIss.wait, Keeps.upd, Keeps.updId, Keeps.ite, Keeps.foldl, Keeps.foldl2, Keeps.foldl3, Keeps.refl, implies_true, keeps_mbxRegWrite, *]; done) | with_reducible apply Keeps.fold1 | with_reducible apply Keeps.fold2 | with_reducible apply Keeps.fold3 | with_reducible apply Keeps.fold21 | intro _ | split | dsimp only))); intro hz; (try dsimp only at hz); clear heq)))

theorem keeps_execI3cPrivateWrite {b0 : State} (offset : BitVec 16) (data : List Byte) {s : State} (hK : Keeps b0 s) :
    ∀ u, execI3cPrivateWrite offset data s = .next u → Keeps b0 u := by
  unfold execI3cPrivateWrite; intro t ht; injection ht with ht; subst ht; simp (maxDischargeDepth := 99) only [KIss.hold,
        KIss.done, KIss.fault, KIss.wait, Keeps.upd, Keeps.updId, Keeps.ite, Keeps.foldl, Keeps.foldl2, Keeps.foldl3,
        Keeps.refl, implies_true, keeps_i3cPut, *]

theorem keeps_execI3cPrivateRead {b0 : State} (len : Nat) {s : State} (hK : Keeps b0 s) :
    ∀ u, execI3cPrivateRead len s = .next u → Keeps b0 u := by
  unfold execI3cPrivateRead; intro t ht; injection ht with ht; subst ht; simp (maxDischargeDepth := 99) only [KIss.hold,
        KIss.done, KIss.fault, KIss.wait, Keeps.upd, Keeps.updId, Keeps.ite, Keeps.foldl, Keeps.foldl2, Keeps.foldl3,
        Keeps.refl, implies_true, *]

theorem keeps_execI3cDynamicAddress {b0 : State} (setdasa : Option (BitVec 7)) (addr : BitVec 7) {s : State} (hK : Keeps b0 s) :
    ∀ u, execI3cDynamicAddress setdasa addr s = .next u → Keeps b0 u := by
  unfold execI3cDynamicAddress; intro t ht; injection ht with ht; subst ht; simp (maxDischargeDepth := 99) only [KIss.hold,
        KIss.done, KIss.fault, KIss.wait, Keeps.upd, Keeps.updId, Keeps.ite, Keeps.foldl, Keeps.foldl2, Keeps.foldl3,
        Keeps.refl, implies_true, *]

theorem keeps_execMctpRequest {b0 : State} (src : Byte) (body : List Byte) {s : State} (hK : Keeps b0 s) :
    ∀ u, execMctpRequest src body s = .next u → Keeps b0 u := by
  unfold execMctpRequest; intro t ht; injection ht with ht; subst ht; simp (maxDischargeDepth := 99) only [KIss.hold,
        KIss.done, KIss.fault, KIss.wait, Keeps.upd, Keeps.updId, Keeps.ite, Keeps.foldl, Keeps.foldl2, Keeps.foldl3,
        Keeps.refl, implies_true, keeps_rset, keeps_count, keeps_mctpSend, keeps_mbxPut, keeps_mbxCmdWrite, *]

theorem keeps_mctpControl {b0 : State} {s : State} (src : Byte) (command : Byte) (data : List Byte) (hK : Keeps b0 s) :
    Keeps b0 (mctpControl s src command data) := by
  unfold mctpControl; simp (maxDischargeDepth := 99) only [KIss.hold, KIss.done, KIss.fault, KIss.wait, Keeps.upd,
        Keeps.updId, Keeps.ite, Keeps.foldl, Keeps.foldl2, Keeps.foldl3, Keeps.refl, implies_true, keeps_mctpSend, *]

theorem keeps_mctpReceived {b0 : State} {s : State} (n : Nat) (hK : Keeps b0 s) :
    Keeps b0 (mctpReceived s n) := by
  unfold mctpReceived; simp (maxDischargeDepth := 99) only [KIss.hold, KIss.done, KIss.fault, KIss.wait, Keeps.upd,
        Keeps.updId, Keeps.ite, Keeps.foldl, Keeps.foldl2, Keeps.foldl3, Keeps.refl, implies_true, keeps_count, *]

theorem keeps_execMctpSetEndpointId {b0 : State} (src : Byte) (eid : Byte) {s : State} (hK : Keeps b0 s) :
    ∀ u, execMctpSetEndpointId src eid s = .next u → Keeps b0 u := by
  unfold execMctpSetEndpointId; intro t ht; injection ht with ht; subst ht; simp (maxDischargeDepth := 99) only [KIss.hold,
        KIss.done, KIss.fault, KIss.wait, Keeps.upd, Keeps.updId, Keeps.ite, Keeps.foldl, Keeps.foldl2, Keeps.foldl3,
        Keeps.refl, implies_true, keeps_mctpSend, keeps_mctpControl, keeps_mctpReceived, *]

theorem keeps_execMctpGetEndpointId {b0 : State} (src : Byte) {s : State} (hK : Keeps b0 s) :
    ∀ u, execMctpGetEndpointId src s = .next u → Keeps b0 u := by
  unfold execMctpGetEndpointId; intro t ht; injection ht with ht; subst ht; simp (maxDischargeDepth := 99) only [KIss.hold,
        KIss.done, KIss.fault, KIss.wait, Keeps.upd, Keeps.updId, Keeps.ite, Keeps.foldl, Keeps.foldl2, Keeps.foldl3,
        Keeps.refl, implies_true, keeps_mctpControl, keeps_mctpReceived, *]

theorem keeps_execMctpGetVersionSupport {b0 : State} (src : Byte) (mtype : Byte) {s : State} (hK : Keeps b0 s) :
    ∀ u, execMctpGetVersionSupport src mtype s = .next u → Keeps b0 u := by
  unfold execMctpGetVersionSupport; intro t ht; injection ht with ht; subst ht; simp (maxDischargeDepth := 99) only [KIss.hold,
         KIss.done, KIss.fault, KIss.wait, Keeps.upd, Keeps.updId, Keeps.ite, Keeps.foldl, Keeps.foldl2, Keeps.foldl3,
        Keeps.refl, implies_true, keeps_mctpSend, keeps_mctpControl, keeps_mctpReceived, *]

theorem keeps_execMctpGetMessageTypeSupport {b0 : State} (src : Byte) {s : State} (hK : Keeps b0 s) :
    ∀ u, execMctpGetMessageTypeSupport src s = .next u → Keeps b0 u := by
  unfold execMctpGetMessageTypeSupport; intro t ht; injection ht with ht; subst ht; simp (maxDischargeDepth := 99) only [KIss.hold,
         KIss.done, KIss.fault, KIss.wait, Keeps.upd, Keeps.updId, Keeps.ite, Keeps.foldl, Keeps.foldl2, Keeps.foldl3,
        Keeps.refl, implies_true, keeps_mctpControl, keeps_mctpReceived, *]

theorem keeps_timeStep {b0 : State} {s : State} (v : Nat) (hK : Keeps b0 s) :
    Keeps b0 (timeStep s v) := by
  unfold timeStep; simp (maxDischargeDepth := 99) only [KIss.hold, KIss.done, KIss.fault, KIss.wait, Keeps.upd, Keeps.updId,
        Keeps.ite, Keeps.foldl, Keeps.foldl2, Keeps.foldl3, Keeps.refl, implies_true, *]

theorem keeps_tick {b0 : State} {s : State} (hK : Keeps b0 s) :
    Keeps b0 (tick s) := by
  unfold tick
  repeat' first
    | with_reducible assumption
    | (extract_lets +onlyGivenNames z; first | ((first | refine Keeps.cut (p := Keeps b0 z) ?_ ?_ | refine Keeps.cut (p := Keeps b0 z.2) ?_ ?_ | refine Keeps.cut (p := Keeps b0 z.2.2) ?_ ?_ | refine Keeps.cut (p := Keeps b0 z.1) ?_ ?_ | refine Keeps.cut (p := Keeps b0 z.s) ?_ ?_ | refine Keeps.cut (p := Keeps b0 z.2.s) ?_ ?_ | refine Keeps.cut (p := Keeps b0 z.2.2.s) ?_ ?_); (focus (intros; dsimp only [z]; (repeat' first | (simp (maxDischargeDepth := 99) only [KIss.hold, KIss.done, KIss.fault, KIss.wait, Keeps.upd, Keeps.updId, Keeps.ite, Keeps.foldl, Keeps.foldl2, Keeps.foldl3, Keeps.refl, implies_true, keeps_timeRuns, keeps_timeStep, *]; done) | with_reducible apply Keeps.fold1 | with_reducible apply Keeps.fold2 | with_reducible apply Keeps.fold3 | with_reducible apply Keeps.fold21 | intro _ | split | dsimp only))); intro hz; clear_value z) | clear_value z | skip)
    | (simp (maxDischargeDepth := 99) only [KIss.hold, KIss.done, KIss.fault, KIss.wait, Keeps.upd, Keeps.updId, Keeps.ite, Keeps.foldl, Keeps.foldl2, Keeps.foldl3, Keeps.refl, implies_true, keeps_timeRuns, keeps_timeStep, *]; done)
    | with_reducible apply Keeps.fold1
    | with_reducible apply Keeps.fold2
    | with_reducible apply Keeps.fold3
    | with_reducible apply Keeps.fold21
    | intro _
    | (split <;> (try (rename_i heq; (first | refine Keeps.cut (Keeps.of_eq (b := b0) heq ?_) ?_ | refine Keeps.cut (Keeps.of_eq3 (b := b0) heq ?_) ?_ | refine Keeps.cut (Keeps.of_eq1 (b := b0) heq ?_) ?_ | refine Keeps.cut (Keeps.of_eq4 (b := b0) heq ?_) ?_); (focus (clear heq; (repeat' first | (simp (maxDischargeDepth := 99) only [KIss.hold, KIss.done, KIss.fault, KIss.wait, Keeps.upd, Keeps.updId, Keeps.ite, Keeps.foldl, Keeps.foldl2, Keeps.foldl3, Keeps.refl, implies_true, keeps_timeRuns, keeps_timeStep, *]; done) | with_reducible apply Keeps.fold1 | with_reducible apply Keeps.fold2 | with_reducible apply Keeps.fold3 | with_reducible apply Keeps.fold21 | intro _ | split | dsimp only))); intro hz; (try dsimp only at hz); clear heq)))

end Sys2Proof.Machine
end

