-- ==== Sys2Proof/Laws/KeepsTile.lean ====
section
/-!
SUPPORT. `keeps_f`, for each operation f of the commands of homes and caches, the tile: its instructions, the matrix engines and Flowstone: what it answers keeps what `Keeps` says. A lemma about a meaning speaks of
every next state that it answers.
-/
set_option linter.unusedSimpArgs false
set_option linter.unusedVariables false
set_option linter.tactic.unusedName false
namespace Sys2Proof.Machine

theorem keeps_deliverTiles {b0 : State} {s : State} (hK : Keeps b0 s) :
    Keeps b0 (deliverTiles s) := by
  unfold deliverTiles
  repeat' first
    | with_reducible assumption
    | (extract_lets +onlyGivenNames z; first | ((first | refine Keeps.cut (p := Keeps b0 z) ?_ ?_ | refine Keeps.cut (p := Keeps b0 z.2) ?_ ?_ | refine Keeps.cut (p := Keeps b0 z.2.2) ?_ ?_ | refine Keeps.cut (p := Keeps b0 z.1) ?_ ?_ | refine Keeps.cut (p := Keeps b0 z.s) ?_ ?_ | refine Keeps.cut (p := Keeps b0 z.2.s) ?_ ?_ | refine Keeps.cut (p := Keeps b0 z.2.2.s) ?_ ?_); (focus (intros; dsimp only [z]; (repeat' first | (simp (maxDischargeDepth := 99) only [KIss.hold, KIss.done, KIss.fault, KIss.wait, Keeps.upd, Keeps.updId, Keeps.ite, Keeps.foldl, Keeps.foldl2, Keeps.foldl3, Keeps.refl, implies_true, keeps_pendFail, keeps_pendLine, keeps_pendAtomic, *]; done) | with_reducible apply Keeps.fold1 | with_reducible apply Keeps.fold2 | with_reducible apply Keeps.fold3 | with_reducible apply Keeps.fold21 | intro _ | split | dsimp only))); intro hz; clear_value z) | clear_value z | skip)
    | (simp (maxDischargeDepth := 99) only [KIss.hold, KIss.done, KIss.fault, KIss.wait, Keeps.upd, Keeps.updId, Keeps.ite, Keeps.foldl, Keeps.foldl2, Keeps.foldl3, Keeps.refl, implies_true, keeps_pendFail, keeps_pendLine, keeps_pendAtomic, *]; done)
    | with_reducible apply Keeps.fold1
    | with_reducible apply Keeps.fold2
    | with_reducible apply Keeps.fold3
    | with_reducible apply Keeps.fold21
    | intro _
    | (split <;> (try (rename_i heq; (first | refine Keeps.cut (Keeps.of_eq (b := b0) heq ?_) ?_ | refine Keeps.cut (Keeps.of_eq3 (b := b0) heq ?_) ?_ | refine Keeps.cut (Keeps.of_eq1 (b := b0) heq ?_) ?_ | refine Keeps.cut (Keeps.of_eq4 (b := b0) heq ?_) ?_); (focus (clear heq; (repeat' first | (simp (maxDischargeDepth := 99) only [KIss.hold, KIss.done, KIss.fault, KIss.wait, Keeps.upd, Keeps.updId, Keeps.ite, Keeps.foldl, Keeps.foldl2, Keeps.foldl3, Keeps.refl, implies_true, keeps_pendFail, keeps_pendLine, keeps_pendAtomic, *]; done) | with_reducible apply Keeps.fold1 | with_reducible apply Keeps.fold2 | with_reducible apply Keeps.fold3 | with_reducible apply Keeps.fold21 | intro _ | split | dsimp only))); intro hz; (try dsimp only at hz); clear heq)))

theorem keeps_homeGoes {b0 : State} {s : State} (h : Nat) (hK : Keeps b0 s) :
    Keeps b0 (homeGoes s h) := by
  unfold homeGoes; simp (maxDischargeDepth := 99) only [KIss.hold, KIss.done, KIss.fault, KIss.wait, Keeps.upd, Keeps.updId,
        Keeps.ite, Keeps.foldl, Keeps.foldl2, Keeps.foldl3, Keeps.refl, implies_true, keeps_pumpHome, keeps_deliverTiles, *]

theorem keeps_doReq {b0 : State} {s : State} (h : Nat) (n : Nat) (p : MemReq → Bool) (hK : Keeps b0 s) :
    Keeps b0 (doReq s h n p) := by
  unfold doReq
  repeat' first
    | with_reducible assumption
    | (simp (maxDischargeDepth := 99) only [KIss.hold, KIss.done, KIss.fault, KIss.wait, Keeps.upd, Keeps.updId, Keeps.ite, Keeps.foldl, Keeps.foldl2, Keeps.foldl3, Keeps.refl, implies_true, keeps_perform, keeps_homeGoes, *]; done)
    | (split <;> (try (rename_i heq; (first | refine Keeps.cut (Keeps.of_eq (b := b0) heq ?_) ?_ | refine Keeps.cut (Keeps.of_eq3 (b := b0) heq ?_) ?_ | refine Keeps.cut (Keeps.of_eq1 (b := b0) heq ?_) ?_ | refine Keeps.cut (Keeps.of_eq4 (b := b0) heq ?_) ?_ | refine Keeps.cut (keeps_takeReq (b0 := b0) _ _ _ ?_ _ heq) ?_); (focus (clear heq; (repeat' first | (simp (maxDischargeDepth := 99) only [KIss.hold, KIss.done, KIss.fault, KIss.wait, Keeps.upd, Keeps.updId, Keeps.ite, Keeps.foldl, Keeps.foldl2, Keeps.foldl3, Keeps.refl, implies_true, keeps_perform, keeps_homeGoes, *]; done) | with_reducible apply Keeps.fold1 | with_reducible apply Keeps.fold2 | with_reducible apply Keeps.fold3 | with_reducible apply Keeps.fold21 | intro _ | split | dsimp only))); intro hz; (try dsimp only at hz); clear heq)))

theorem keeps_homeTurn {b0 : State} {s : State} (h : Nat) (n : HomeTurn) (p : MemReq → Bool) (hK : Keeps b0 s) :
    Keeps b0 (homeTurn s h n p) := by
  unfold homeTurn; simp (maxDischargeDepth := 99) only [KIss.hold, KIss.done, KIss.fault, KIss.wait, Keeps.upd, Keeps.updId,
        Keeps.ite, Keeps.foldl, Keeps.foldl2, Keeps.foldl3, Keeps.refl, implies_true, keeps_correctedBy, keeps_wearCells,
        keeps_doReq, *]

theorem keeps_execHomeRead {b0 : State} (h : Home) (n : HomeTurn) {s : State} (hK : Keeps b0 s) :
    ∀ u, execHomeRead h n s = .next u → Keeps b0 u := by
  unfold execHomeRead; intro t ht; injection ht with ht; subst ht; simp (maxDischargeDepth := 99) only [KIss.hold, KIss.done,
         KIss.fault, KIss.wait, Keeps.upd, Keeps.updId, Keeps.ite, Keeps.foldl, Keeps.foldl2, Keeps.foldl3, Keeps.refl,
        implies_true, keeps_homeTurn, *]

theorem keeps_execHomeWrite {b0 : State} (h : Home) (n : HomeTurn) {s : State} (hK : Keeps b0 s) :
    ∀ u, execHomeWrite h n s = .next u → Keeps b0 u := by
  unfold execHomeWrite; intro t ht; injection ht with ht; subst ht; simp (maxDischargeDepth := 99) only [KIss.hold,
        KIss.done, KIss.fault, KIss.wait, Keeps.upd, Keeps.updId, Keeps.ite, Keeps.foldl, Keeps.foldl2, Keeps.foldl3,
        Keeps.refl, implies_true, keeps_homeTurn, *]

theorem keeps_atLine {b0 : State} {s : State} (line : Nat) (n : Nat) (p : MemReq → Bool) (hK : Keeps b0 s) :
    Keeps b0 (atLine s line n p) := by
  unfold atLine; (repeat' split) <;> simp (maxDischargeDepth := 99) only [KIss.hold, KIss.done, KIss.fault, KIss.wait,
        Keeps.upd, Keeps.updId, Keeps.ite, Keeps.foldl, Keeps.foldl2, Keeps.foldl3, Keeps.refl, implies_true, keeps_doReq,
        *]

theorem keeps_execNcRead {b0 : State} (line : Nat) (n : Nat) {s : State} (hK : Keeps b0 s) :
    ∀ u, execNcRead line n s = .next u → Keeps b0 u := by
  unfold execNcRead; intro t ht; injection ht with ht; subst ht; simp (maxDischargeDepth := 99) only [KIss.hold, KIss.done,
        KIss.fault, KIss.wait, Keeps.upd, Keeps.updId, Keeps.ite, Keeps.foldl, Keeps.foldl2, Keeps.foldl3, Keeps.refl,
        implies_true, keeps_atLine, *]

theorem keeps_execNcWrite {b0 : State} (line : Nat) (n : Nat) {s : State} (hK : Keeps b0 s) :
    ∀ u, execNcWrite line n s = .next u → Keeps b0 u := by
  unfold execNcWrite; intro t ht; injection ht with ht; subst ht; simp (maxDischargeDepth := 99) only [KIss.hold, KIss.done,
        KIss.fault, KIss.wait, Keeps.upd, Keeps.updId, Keeps.ite, Keeps.foldl, Keeps.foldl2, Keeps.foldl3, Keeps.refl,
        implies_true, keeps_atLine, *]

theorem keeps_execNcAtomic {b0 : State} (line : Nat) (n : Nat) {s : State} (hK : Keeps b0 s) :
    ∀ u, execNcAtomic line n s = .next u → Keeps b0 u := by
  unfold execNcAtomic; intro t ht; injection ht with ht; subst ht; simp (maxDischargeDepth := 99) only [KIss.hold, KIss.done,
         KIss.fault, KIss.wait, Keeps.upd, Keeps.updId, Keeps.ite, Keeps.foldl, Keeps.foldl2, Keeps.foldl3, Keeps.refl,
        implies_true, keeps_atLine, *]

theorem keeps_execStackReadReturn {b0 : State} (h : Home) (n : Nat) (e : Ecc) {s : State} (hK : Keeps b0 s) :
    ∀ u, execStackReadReturn h n e s = .next u → Keeps b0 u := by
  unfold execStackReadReturn; intro t ht; injection ht with ht; subst ht; simp (maxDischargeDepth := 99) only [KIss.hold,
        KIss.done, KIss.fault, KIss.wait, Keeps.upd, Keeps.updId, Keeps.ite, Keeps.foldl, Keeps.foldl2, Keeps.foldl3,
        Keeps.refl, implies_true, keeps_stackReturn, keeps_homeGoes, *]

theorem keeps_execSumpIdleWriteback {b0 : State} (h : Home) (line : Nat) (e : Ecc) {s : State} (hK : Keeps b0 s) :
    ∀ u, execSumpIdleWriteback h line e s = .next u → Keeps b0 u := by
  unfold execSumpIdleWriteback
  repeat' first
    | with_reducible assumption
    | refine fun (y : State) (gr : Group) (hy : Keeps b0 y) => ?_
    | (extract_lets +onlyGivenNames z; first | ((first | refine Keeps.cut (p := Keeps b0 z) ?_ ?_ | refine Keeps.cut (p := Keeps b0 z.2) ?_ ?_ | refine Keeps.cut (p := Keeps b0 z.2.2) ?_ ?_ | refine Keeps.cut (p := Keeps b0 z.1) ?_ ?_ | refine Keeps.cut (p := Keeps b0 z.s) ?_ ?_ | refine Keeps.cut (p := Keeps b0 z.2.s) ?_ ?_ | refine Keeps.cut (p := Keeps b0 z.2.2.s) ?_ ?_); (focus (intros; dsimp only [z]; (repeat' first | (simp (maxDischargeDepth := 99) only [KIss.hold, KIss.done, KIss.fault, KIss.wait, Keeps.upd, Keeps.updId, Keeps.ite, Keeps.foldl, Keeps.foldl2, Keeps.foldl3, Keeps.refl, implies_true, keeps_sumpRmw, *]; done) | with_reducible apply Keeps.fold1 | with_reducible apply Keeps.fold2 | with_reducible apply Keeps.fold3 | with_reducible apply Keeps.fold21 | intro _ | split | dsimp only))); intro hz; clear_value z) | clear_value z | skip)
    | (simp (maxDischargeDepth := 99) only [KIss.hold, KIss.done, KIss.fault, KIss.wait, Keeps.upd, Keeps.updId, Keeps.ite, Keeps.foldl, Keeps.foldl2, Keeps.foldl3, Keeps.refl, implies_true, keeps_sumpRmw, *]; done)
    | (intro t ht; injection ht with ht; subst ht)
    | (intro t ht; contradiction)
    | with_reducible apply Keeps.fold1
    | with_reducible apply Keeps.fold2
    | with_reducible apply Keeps.fold3
    | with_reducible apply Keeps.fold21
    | (split <;> (try (rename_i heq; (first | refine Keeps.cut (Keeps.of_eq (b := b0) heq ?_) ?_ | refine Keeps.cut (Keeps.of_eq3 (b := b0) heq ?_) ?_ | refine Keeps.cut (Keeps.of_eq1 (b := b0) heq ?_) ?_ | refine Keeps.cut (Keeps.of_eq4 (b := b0) heq ?_) ?_); (focus (clear heq; (repeat' first | (simp (maxDischargeDepth := 99) only [KIss.hold, KIss.done, KIss.fault, KIss.wait, Keeps.upd, Keeps.updId, Keeps.ite, Keeps.foldl, Keeps.foldl2, Keeps.foldl3, Keeps.refl, implies_true, keeps_sumpRmw, *]; done) | with_reducible apply Keeps.fold1 | with_reducible apply Keeps.fold2 | with_reducible apply Keeps.fold3 | with_reducible apply Keeps.fold21 | intro _ | split | dsimp only))); intro hz; (try dsimp only at hz); clear heq)))
    | intro _

theorem keeps_drainCmd {b0 : State} {s : State} (h : Nat) (go : Bool) (all : Bool) (hK : Keeps b0 s) :
    Keeps b0 (drainCmd s h go all) := by
  unfold drainCmd
  repeat' first
    | with_reducible assumption
    | (simp (maxDischargeDepth := 99) only [KIss.hold, KIss.done, KIss.fault, KIss.wait, Keeps.upd, Keeps.updId, Keeps.ite, Keeps.foldl, Keeps.foldl2, Keeps.foldl3, Keeps.refl, implies_true, keeps_rfset, keeps_setHome, keeps_drainHome, keeps_drainHomeAll, *]; done)
    | (split <;> (try (rename_i heq; (first | refine Keeps.cut (Keeps.of_eq (b := b0) heq ?_) ?_ | refine Keeps.cut (Keeps.of_eq3 (b := b0) heq ?_) ?_ | refine Keeps.cut (Keeps.of_eq1 (b := b0) heq ?_) ?_ | refine Keeps.cut (Keeps.of_eq4 (b := b0) heq ?_) ?_); (focus (clear heq; (repeat' first | (simp (maxDischargeDepth := 99) only [KIss.hold, KIss.done, KIss.fault, KIss.wait, Keeps.upd, Keeps.updId, Keeps.ite, Keeps.foldl, Keeps.foldl2, Keeps.foldl3, Keeps.refl, implies_true, keeps_rfset, keeps_setHome, keeps_drainHome, keeps_drainHomeAll, *]; done) | with_reducible apply Keeps.fold1 | with_reducible apply Keeps.fold2 | with_reducible apply Keeps.fold3 | with_reducible apply Keeps.fold21 | intro _ | split | dsimp only))); intro hz; (try dsimp only at hz); clear heq)))

theorem keeps_execSumpDrainRange {b0 : State} (h : Home) (a : Agent) (v : W64) {s : State} (hK : Keeps b0 s) :
    ∀ u, execSumpDrainRange h a v s = .next u → Keeps b0 u := by
  unfold execSumpDrainRange; intro t ht; injection ht with ht; subst ht; simp (maxDischargeDepth := 99) only [KIss.hold,
        KIss.done, KIss.fault, KIss.wait, Keeps.upd, Keeps.updId, Keeps.ite, Keeps.foldl, Keeps.foldl2, Keeps.foldl3,
        Keeps.refl, implies_true, keeps_drainCmd, *]

theorem keeps_execSumpDrainAll {b0 : State} (h : Home) (a : Agent) (v : W64) {s : State} (hK : Keeps b0 s) :
    ∀ u, execSumpDrainAll h a v s = .next u → Keeps b0 u := by
  unfold execSumpDrainAll; intro t ht; injection ht with ht; subst ht; simp (maxDischargeDepth := 99) only [KIss.hold,
        KIss.done, KIss.fault, KIss.wait, Keeps.upd, Keeps.updId, Keeps.ite, Keeps.foldl, Keeps.foldl2, Keeps.foldl3,
        Keeps.refl, implies_true, keeps_drainCmd, *]

theorem keeps_execSumpDrainComplete {b0 : State} (h : Home) {s : State} (hK : Keeps b0 s) :
    ∀ u, execSumpDrainComplete h s = .next u → Keeps b0 u := by
  unfold execSumpDrainComplete
  repeat' first
    | with_reducible assumption
    | refine fun (y : State) (gr : Group) (hy : Keeps b0 y) => ?_
    | (extract_lets +onlyGivenNames z; first | ((first | refine Keeps.cut (p := Keeps b0 z) ?_ ?_ | refine Keeps.cut (p := Keeps b0 z.2) ?_ ?_ | refine Keeps.cut (p := Keeps b0 z.2.2) ?_ ?_ | refine Keeps.cut (p := Keeps b0 z.1) ?_ ?_ | refine Keeps.cut (p := Keeps b0 z.s) ?_ ?_ | refine Keeps.cut (p := Keeps b0 z.2.s) ?_ ?_ | refine Keeps.cut (p := Keeps b0 z.2.2.s) ?_ ?_); (focus (intros; dsimp only [z]; (repeat' first | (simp (maxDischargeDepth := 99) only [KIss.hold, KIss.done, KIss.fault, KIss.wait, Keeps.upd, Keeps.updId, Keeps.ite, Keeps.foldl, Keeps.foldl2, Keeps.foldl3, Keeps.refl, implies_true, keeps_rfset, keeps_setHome, *]; done) | with_reducible apply Keeps.fold1 | with_reducible apply Keeps.fold2 | with_reducible apply Keeps.fold3 | with_reducible apply Keeps.fold21 | intro _ | split | dsimp only))); intro hz; clear_value z) | clear_value z | skip)
    | (simp (maxDischargeDepth := 99) only [KIss.hold, KIss.done, KIss.fault, KIss.wait, Keeps.upd, Keeps.updId, Keeps.ite, Keeps.foldl, Keeps.foldl2, Keeps.foldl3, Keeps.refl, implies_true, keeps_rfset, keeps_setHome, *]; done)
    | (intro t ht; injection ht with ht; subst ht)
    | (intro t ht; contradiction)
    | with_reducible apply Keeps.fold1
    | with_reducible apply Keeps.fold2
    | with_reducible apply Keeps.fold3
    | with_reducible apply Keeps.fold21
    | (split <;> (try (rename_i heq; (first | refine Keeps.cut (Keeps.of_eq (b := b0) heq ?_) ?_ | refine Keeps.cut (Keeps.of_eq3 (b := b0) heq ?_) ?_ | refine Keeps.cut (Keeps.of_eq1 (b := b0) heq ?_) ?_ | refine Keeps.cut (Keeps.of_eq4 (b := b0) heq ?_) ?_); (focus (clear heq; (repeat' first | (simp (maxDischargeDepth := 99) only [KIss.hold, KIss.done, KIss.fault, KIss.wait, Keeps.upd, Keeps.updId, Keeps.ite, Keeps.foldl, Keeps.foldl2, Keeps.foldl3, Keeps.refl, implies_true, keeps_rfset, keeps_setHome, *]; done) | with_reducible apply Keeps.fold1 | with_reducible apply Keeps.fold2 | with_reducible apply Keeps.fold3 | with_reducible apply Keeps.fold21 | intro _ | split | dsimp only))); intro hz; (try dsimp only at hz); clear heq)))
    | intro _

theorem keeps_amuAtomic {b0 : State} {s : State} (h : Nat) (n : Nat) (ecc : Ecc) (hK : Keeps b0 s) :
    Keeps b0 (amuAtomic s h n ecc) := by
  unfold amuAtomic
  repeat' first
    | with_reducible assumption
    | (extract_lets +onlyGivenNames z; first | ((first | refine Keeps.cut (p := Keeps b0 z) ?_ ?_ | refine Keeps.cut (p := Keeps b0 z.2) ?_ ?_ | refine Keeps.cut (p := Keeps b0 z.2.2) ?_ ?_ | refine Keeps.cut (p := Keeps b0 z.1) ?_ ?_ | refine Keeps.cut (p := Keeps b0 z.s) ?_ ?_ | refine Keeps.cut (p := Keeps b0 z.2.s) ?_ ?_ | refine Keeps.cut (p := Keeps b0 z.2.2.s) ?_ ?_); (focus (intros; dsimp only [z]; (repeat' first | (simp (maxDischargeDepth := 99) only [KIss.hold, KIss.done, KIss.fault, KIss.wait, Keeps.upd, Keeps.updId, Keeps.ite, Keeps.foldl, Keeps.foldl2, Keeps.foldl3, Keeps.refl, implies_true, keeps_setHome, keeps_amuRun, keeps_homeGoes, *]; done) | with_reducible apply Keeps.fold1 | with_reducible apply Keeps.fold2 | with_reducible apply Keeps.fold3 | with_reducible apply Keeps.fold21 | intro _ | split | dsimp only))); intro hz; clear_value z) | clear_value z | skip)
    | (simp (maxDischargeDepth := 99) only [KIss.hold, KIss.done, KIss.fault, KIss.wait, Keeps.upd, Keeps.updId, Keeps.ite, Keeps.foldl, Keeps.foldl2, Keeps.foldl3, Keeps.refl, implies_true, keeps_setHome, keeps_amuRun, keeps_homeGoes, *]; done)
    | with_reducible apply Keeps.fold1
    | with_reducible apply Keeps.fold2
    | with_reducible apply Keeps.fold3
    | with_reducible apply Keeps.fold21
    | intro _
    | (split <;> (try (rename_i heq; (first | refine Keeps.cut (Keeps.of_eq (b := b0) heq ?_) ?_ | refine Keeps.cut (Keeps.of_eq3 (b := b0) heq ?_) ?_ | refine Keeps.cut (Keeps.of_eq1 (b := b0) heq ?_) ?_ | refine Keeps.cut (Keeps.of_eq4 (b := b0) heq ?_) ?_); (focus (clear heq; (repeat' first | (simp (maxDischargeDepth := 99) only [KIss.hold, KIss.done, KIss.fault, KIss.wait, Keeps.upd, Keeps.updId, Keeps.ite, Keeps.foldl, Keeps.foldl2, Keeps.foldl3, Keeps.refl, implies_true, keeps_setHome, keeps_amuRun, keeps_homeGoes, *]; done) | with_reducible apply Keeps.fold1 | with_reducible apply Keeps.fold2 | with_reducible apply Keeps.fold3 | with_reducible apply Keeps.fold21 | intro _ | split | dsimp only))); intro hz; (try dsimp only at hz); clear heq)))

theorem keeps_execAmuAtomic {b0 : State} (h : Home) (n : Nat) (e : Ecc) {s : State} (hK : Keeps b0 s) :
    ∀ u, execAmuAtomic h n e s = .next u → Keeps b0 u := by
  unfold execAmuAtomic; intro t ht; injection ht with ht; subst ht; simp (maxDischargeDepth := 99) only [KIss.hold,
        KIss.done, KIss.fault, KIss.wait, Keeps.upd, Keeps.updId, Keeps.ite, Keeps.foldl, Keeps.foldl2, Keeps.foldl3,
        Keeps.refl, implies_true, keeps_amuAtomic, *]

theorem keeps_memScrub {b0 : State} {s : State} (h : Nat) (corrected : List Nat) (bad : List Nat) (hK : Keeps b0 s) :
    Keeps b0 (memScrub s h corrected bad) := by
  unfold memScrub; simp (maxDischargeDepth := 99) only [KIss.hold, KIss.done, KIss.fault, KIss.wait, Keeps.upd, Keeps.updId,
        Keeps.ite, Keeps.foldl, Keeps.foldl2, Keeps.foldl3, Keeps.refl, implies_true, keeps_homeCount, keeps_memLog,
        keeps_poisonHalf, *]

theorem keeps_execMemScrub {b0 : State} (h : Home) (corrected : List Nat) (bad : List Nat) {s : State} (hK : Keeps b0 s) :
    ∀ u, execMemScrub h corrected bad s = .next u → Keeps b0 u := by
  unfold execMemScrub; intro t ht; injection ht with ht; subst ht; simp (maxDischargeDepth := 99) only [KIss.hold, KIss.done,
         KIss.fault, KIss.wait, Keeps.upd, Keeps.updId, Keeps.ite, Keeps.foldl, Keeps.foldl2, Keeps.foldl3, Keeps.refl,
        implies_true, keeps_memScrub, *]

theorem keeps_execMemPeriodicRetrain {b0 : State} (_h : Home) {s : State} (hK : Keeps b0 s) :
    ∀ u, execMemPeriodicRetrain _h s = .next u → Keeps b0 u := by
  unfold execMemPeriodicRetrain; intro t ht; injection ht with ht; subst ht; simp (maxDischargeDepth := 99) only [KIss.hold,
        KIss.done, KIss.fault, KIss.wait, Keeps.upd, Keeps.updId, Keeps.ite, Keeps.foldl, Keeps.foldl2, Keeps.foldl3,
        Keeps.refl, implies_true, *]

theorem keeps_execMemCfgWrite {b0 : State} (h : Home) (a : Agent) (v : W64) {s : State} (hK : Keeps b0 s) :
    ∀ u, execMemCfgWrite h a v s = .next u → Keeps b0 u := by
  unfold execMemCfgWrite; intro t ht; injection ht with ht; subst ht; simp (maxDischargeDepth := 99) only [KIss.hold,
        KIss.done, KIss.fault, KIss.wait, Keeps.upd, Keeps.updId, Keeps.ite, Keeps.foldl, Keeps.foldl2, Keeps.foldl3,
        Keeps.refl, implies_true, keeps_rset, *]

theorem keeps_cohRow {b0 : State} {s : State} (req : Nat) (line : Nat) (k : TxnKind) (hK : Keeps b0 s) :
    Keeps b0 (cohRow s req line k) := by
  unfold cohRow; (repeat' split) <;> simp (maxDischargeDepth := 99) only [KIss.hold, KIss.done, KIss.fault, KIss.wait,
        Keeps.upd, Keeps.updId, Keeps.ite, Keeps.foldl, Keeps.foldl2, Keeps.foldl3, Keeps.refl, implies_true,
        keeps_cohArrives, keeps_deliverTiles, *]

theorem keeps_cmoBegins {b0 : State} {s : State} (req : Nat) (line : Nat) (hK : Keeps b0 s) :
    Keeps b0 (cmoBegins s req line) := by
  unfold cmoBegins; simp (maxDischargeDepth := 99) only [KIss.hold, KIss.done, KIss.fault, KIss.wait, Keeps.upd, Keeps.updId,
         Keeps.ite, Keeps.foldl, Keeps.foldl2, Keeps.foldl3, Keeps.refl, implies_true, keeps_setCore, *]

theorem keeps_execRdShared {b0 : State} (req : AgentId) (line : Nat) {s : State} (hK : Keeps b0 s) :
    ∀ u, execRdShared req line s = .next u → Keeps b0 u := by
  unfold execRdShared; intro t ht; injection ht with ht; subst ht; simp (maxDischargeDepth := 99) only [KIss.hold, KIss.done,
         KIss.fault, KIss.wait, Keeps.upd, Keeps.updId, Keeps.ite, Keeps.foldl, Keeps.foldl2, Keeps.foldl3, Keeps.refl,
        implies_true, keeps_cohRow, *]

theorem keeps_execRdUnique {b0 : State} (req : AgentId) (line : Nat) {s : State} (hK : Keeps b0 s) :
    ∀ u, execRdUnique req line s = .next u → Keeps b0 u := by
  unfold execRdUnique; intro t ht; injection ht with ht; subst ht; simp (maxDischargeDepth := 99) only [KIss.hold, KIss.done,
         KIss.fault, KIss.wait, Keeps.upd, Keeps.updId, Keeps.ite, Keeps.foldl, Keeps.foldl2, Keeps.foldl3, Keeps.refl,
        implies_true, keeps_cohRow, *]

theorem keeps_execUpgrade {b0 : State} (req : AgentId) (line : Nat) {s : State} (hK : Keeps b0 s) :
    ∀ u, execUpgrade req line s = .next u → Keeps b0 u := by
  unfold execUpgrade; intro t ht; injection ht with ht; subst ht; simp (maxDischargeDepth := 99) only [KIss.hold, KIss.done,
        KIss.fault, KIss.wait, Keeps.upd, Keeps.updId, Keeps.ite, Keeps.foldl, Keeps.foldl2, Keeps.foldl3, Keeps.refl,
        implies_true, keeps_cohRow, *]

theorem keeps_execCleanToHome {b0 : State} (req : AgentId) (line : Nat) {s : State} (hK : Keeps b0 s) :
    ∀ u, execCleanToHome req line s = .next u → Keeps b0 u := by
  unfold execCleanToHome; intro t ht; injection ht with ht; subst ht; simp (maxDischargeDepth := 99) only [KIss.hold,
        KIss.done, KIss.fault, KIss.wait, Keeps.upd, Keeps.updId, Keeps.ite, Keeps.foldl, Keeps.foldl2, Keeps.foldl3,
        Keeps.refl, implies_true, keeps_cohRow, keeps_cmoBegins, *]

theorem keeps_execFlushToHome {b0 : State} (req : AgentId) (line : Nat) {s : State} (hK : Keeps b0 s) :
    ∀ u, execFlushToHome req line s = .next u → Keeps b0 u := by
  unfold execFlushToHome; intro t ht; injection ht with ht; subst ht; simp (maxDischargeDepth := 99) only [KIss.hold,
        KIss.done, KIss.fault, KIss.wait, Keeps.upd, Keeps.updId, Keeps.ite, Keeps.foldl, Keeps.foldl2, Keeps.foldl3,
        Keeps.refl, implies_true, keeps_cohRow, keeps_cmoBegins, *]

theorem keeps_dirtyLeaves {b0 : State} {s : State} (a : Nat) (line : Nat) (hK : Keeps b0 s) :
    Keeps b0 (dirtyLeaves s a line) := by
  unfold dirtyLeaves; (repeat' split) <;> simp (maxDischargeDepth := 99) only [KIss.hold, KIss.done, KIss.fault, KIss.wait,
        Keeps.upd, Keeps.updId, Keeps.ite, Keeps.foldl, Keeps.foldl2, Keeps.foldl3, Keeps.refl, implies_true,
        keeps_evictCopy, *]

theorem keeps_execWbDirty {b0 : State} (req : AgentId) (line : Nat) (stores : List (Fin 128 × Byte)) {s : State} (hK : Keeps b0 s) :
    ∀ u, execWbDirty req line stores s = .next u → Keeps b0 u := by
  unfold execWbDirty
  repeat' first
    | with_reducible assumption
    | refine fun (y : State) (gr : Group) (hy : Keeps b0 y) => ?_
    | (extract_lets +onlyGivenNames z; first | ((first | refine Keeps.cut (p := Keeps b0 z) ?_ ?_ | refine Keeps.cut (p := Keeps b0 z.2) ?_ ?_ | refine Keeps.cut (p := Keeps b0 z.2.2) ?_ ?_ | refine Keeps.cut (p := Keeps b0 z.1) ?_ ?_ | refine Keeps.cut (p := Keeps b0 z.s) ?_ ?_ | refine Keeps.cut (p := Keeps b0 z.2.s) ?_ ?_ | refine Keeps.cut (p := Keeps b0 z.2.2.s) ?_ ?_); (focus (intros; dsimp only [z]; (repeat' first | (simp (maxDischargeDepth := 99) only [KIss.hold, KIss.done, KIss.fault, KIss.wait, Keeps.upd, Keeps.updId, Keeps.ite, Keeps.foldl, Keeps.foldl2, Keeps.foldl3, Keeps.refl, implies_true, keeps_coreStores, keeps_homeRecv, keeps_homeGoes, keeps_dirtyLeaves, *]; done) | with_reducible apply Keeps.fold1 | with_reducible apply Keeps.fold2 | with_reducible apply Keeps.fold3 | with_reducible apply Keeps.fold21 | intro _ | split | dsimp only))); intro hz; clear_value z) | clear_value z | skip)
    | (simp (maxDischargeDepth := 99) only [KIss.hold, KIss.done, KIss.fault, KIss.wait, Keeps.upd, Keeps.updId, Keeps.ite, Keeps.foldl, Keeps.foldl2, Keeps.foldl3, Keeps.refl, implies_true, keeps_coreStores, keeps_homeRecv, keeps_homeGoes, keeps_dirtyLeaves, *]; done)
    | (intro t ht; injection ht with ht; subst ht)
    | (intro t ht; contradiction)
    | with_reducible apply Keeps.fold1
    | with_reducible apply Keeps.fold2
    | with_reducible apply Keeps.fold3
    | with_reducible apply Keeps.fold21
    | (split <;> (try (rename_i heq; (first | refine Keeps.cut (Keeps.of_eq (b := b0) heq ?_) ?_ | refine Keeps.cut (Keeps.of_eq3 (b := b0) heq ?_) ?_ | refine Keeps.cut (Keeps.of_eq1 (b := b0) heq ?_) ?_ | refine Keeps.cut (Keeps.of_eq4 (b := b0) heq ?_) ?_); (focus (clear heq; (repeat' first | (simp (maxDischargeDepth := 99) only [KIss.hold, KIss.done, KIss.fault, KIss.wait, Keeps.upd, Keeps.updId, Keeps.ite, Keeps.foldl, Keeps.foldl2, Keeps.foldl3, Keeps.refl, implies_true, keeps_coreStores, keeps_homeRecv, keeps_homeGoes, keeps_dirtyLeaves, *]; done) | with_reducible apply Keeps.fold1 | with_reducible apply Keeps.fold2 | with_reducible apply Keeps.fold3 | with_reducible apply Keeps.fold21 | intro _ | split | dsimp only))); intro hz; (try dsimp only at hz); clear heq)))
    | intro _

theorem keeps_amoFar {b0 : State} {s : State} (a : Nat) (line : Nat) (hK : Keeps b0 s) :
    Keeps b0 (amoFar s a line) := by
  unfold amoFar; (repeat' split) <;> simp (maxDischargeDepth := 99) only [KIss.hold, KIss.done, KIss.fault, KIss.wait,
        Keeps.upd, Keeps.updId, Keeps.ite, Keeps.foldl, Keeps.foldl2, Keeps.foldl3, Keeps.refl, implies_true,
        keeps_agentSends, *]

theorem keeps_execAmoFar {b0 : State} (req : AgentId) (line : Nat) {s : State} (hK : Keeps b0 s) :
    ∀ u, execAmoFar req line s = .next u → Keeps b0 u := by
  unfold execAmoFar; intro t ht; injection ht with ht; subst ht; simp (maxDischargeDepth := 99) only [KIss.hold, KIss.done,
        KIss.fault, KIss.wait, Keeps.upd, Keeps.updId, Keeps.ite, Keeps.foldl, Keeps.foldl2, Keeps.foldl3, Keeps.refl,
        implies_true, keeps_amoFar, *]

theorem keeps_snoopRow {b0 : State} {s : State} (a : Nat) (line : Nat) (p : CohMsg → Bool) (stores : List (Fin 128 × Byte)) (evicting : Bool) (hK : Keeps b0 s) :
    Keeps b0 (snoopRow s a line p stores evicting) := by
  unfold snoopRow
  repeat' first
    | with_reducible assumption
    | (simp (maxDischargeDepth := 99) only [KIss.hold, KIss.done, KIss.fault, KIss.wait, Keeps.upd, Keeps.updId, Keeps.ite, Keeps.foldl, Keeps.foldl2, Keeps.foldl3, Keeps.refl, implies_true, keeps_coreStores, keeps_evictCopy, keeps_recvSnoop, *]; done)
    | (split <;> (try (rename_i heq; (first | refine Keeps.cut (Keeps.of_eq (b := b0) heq ?_) ?_ | refine Keeps.cut (Keeps.of_eq3 (b := b0) heq ?_) ?_ | refine Keeps.cut (Keeps.of_eq1 (b := b0) heq ?_) ?_ | refine Keeps.cut (Keeps.of_eq4 (b := b0) heq ?_) ?_ | refine Keeps.cut (keeps_takeMsg (b0 := b0) _ _ _ _ ?_ _ heq) ?_); (focus (clear heq; (repeat' first | (simp (maxDischargeDepth := 99) only [KIss.hold, KIss.done, KIss.fault, KIss.wait, Keeps.upd, Keeps.updId, Keeps.ite, Keeps.foldl, Keeps.foldl2, Keeps.foldl3, Keeps.refl, implies_true, keeps_coreStores, keeps_evictCopy, keeps_recvSnoop, *]; done) | with_reducible apply Keeps.fold1 | with_reducible apply Keeps.fold2 | with_reducible apply Keeps.fold3 | with_reducible apply Keeps.fold21 | intro _ | split | dsimp only))); intro hz; (try dsimp only at hz); clear heq)))

theorem keeps_execSnpShared {b0 : State} (ag : AgentId) (line : Nat) (stores : List (Fin 128 × Byte)) (evicting : Bool) {s : State} (hK : Keeps b0 s) :
    ∀ u, execSnpShared ag line stores evicting s = .next u → Keeps b0 u := by
  unfold execSnpShared; intro t ht; injection ht with ht; subst ht; simp (maxDischargeDepth := 99) only [KIss.hold,
        KIss.done, KIss.fault, KIss.wait, Keeps.upd, Keeps.updId, Keeps.ite, Keeps.foldl, Keeps.foldl2, Keeps.foldl3,
        Keeps.refl, implies_true, keeps_snoopRow, *]

theorem keeps_execSnpUnique {b0 : State} (ag : AgentId) (line : Nat) (stores : List (Fin 128 × Byte)) (evicting : Bool) {s : State} (hK : Keeps b0 s) :
    ∀ u, execSnpUnique ag line stores evicting s = .next u → Keeps b0 u := by
  unfold execSnpUnique; intro t ht; injection ht with ht; subst ht; simp (maxDischargeDepth := 99) only [KIss.hold,
        KIss.done, KIss.fault, KIss.wait, Keeps.upd, Keeps.updId, Keeps.ite, Keeps.foldl, Keeps.foldl2, Keeps.foldl3,
        Keeps.refl, implies_true, keeps_snoopRow, *]

theorem keeps_execSnpInv {b0 : State} (ag : AgentId) (line : Nat) (stores : List (Fin 128 × Byte)) (evicting : Bool) {s : State} (hK : Keeps b0 s) :
    ∀ u, execSnpInv ag line stores evicting s = .next u → Keeps b0 u := by
  unfold execSnpInv; intro t ht; injection ht with ht; subst ht; simp (maxDischargeDepth := 99) only [KIss.hold, KIss.done,
        KIss.fault, KIss.wait, Keeps.upd, Keeps.updId, Keeps.ite, Keeps.foldl, Keeps.foldl2, Keeps.foldl3, Keeps.refl,
        implies_true, keeps_snoopRow, *]

theorem keeps_execSnpClean {b0 : State} (ag : AgentId) (line : Nat) (stores : List (Fin 128 × Byte)) (evicting : Bool) {s : State} (hK : Keeps b0 s) :
    ∀ u, execSnpClean ag line stores evicting s = .next u → Keeps b0 u := by
  unfold execSnpClean; intro t ht; injection ht with ht; subst ht; simp (maxDischargeDepth := 99) only [KIss.hold, KIss.done,
         KIss.fault, KIss.wait, Keeps.upd, Keeps.updId, Keeps.ite, Keeps.foldl, Keeps.foldl2, Keeps.foldl3, Keeps.refl,
        implies_true, keeps_snoopRow, *]

theorem keeps_execSnoopHoldExpiry {b0 : State} (at_ : AgentId) (line : Nat) (stores : List (Fin 128 × Byte)) {s : State} (hK : Keeps b0 s) :
    ∀ u, execSnoopHoldExpiry at_ line stores s = .next u → Keeps b0 u := by
  unfold execSnoopHoldExpiry; intro t ht; injection ht with ht; subst ht; simp (maxDischargeDepth := 99) only [KIss.hold,
        KIss.done, KIss.fault, KIss.wait, Keeps.upd, Keeps.updId, Keeps.ite, Keeps.foldl, Keeps.foldl2, Keeps.foldl3,
        Keeps.refl, implies_true, keeps_coreStores, keeps_holdExpiry, *]

theorem keeps_rspRow {b0 : State} {s : State} (a : Nat) (line : Nat) (p : CohMsg → Bool) (hK : Keeps b0 s) :
    Keeps b0 (rspRow s a line p) := by
  unfold rspRow; (repeat' split) <;> simp (maxDischargeDepth := 99) only [KIss.hold, KIss.done, KIss.fault, KIss.wait,
        Keeps.upd, Keeps.updId, Keeps.ite, Keeps.foldl, Keeps.foldl2, Keeps.foldl3, Keeps.refl, implies_true, keeps_homeRecv,
         keeps_homeGoes, *]

theorem keeps_execRspAbsent {b0 : State} (by_ : AgentId) (line : Nat) {s : State} (hK : Keeps b0 s) :
    ∀ u, execRspAbsent by_ line s = .next u → Keeps b0 u := by
  unfold execRspAbsent; intro t ht; injection ht with ht; subst ht; simp (maxDischargeDepth := 99) only [KIss.hold,
        KIss.done, KIss.fault, KIss.wait, Keeps.upd, Keeps.updId, Keeps.ite, Keeps.foldl, Keeps.foldl2, Keeps.foldl3,
        Keeps.refl, implies_true, keeps_rspRow, *]

theorem keeps_execRspClean {b0 : State} (by_ : AgentId) (line : Nat) {s : State} (hK : Keeps b0 s) :
    ∀ u, execRspClean by_ line s = .next u → Keeps b0 u := by
  unfold execRspClean; intro t ht; injection ht with ht; subst ht; simp (maxDischargeDepth := 99) only [KIss.hold, KIss.done,
         KIss.fault, KIss.wait, Keeps.upd, Keeps.updId, Keeps.ite, Keeps.foldl, Keeps.foldl2, Keeps.foldl3, Keeps.refl,
        implies_true, keeps_rspRow, *]

theorem keeps_execRspData {b0 : State} (by_ : AgentId) (line : Nat) {s : State} (hK : Keeps b0 s) :
    ∀ u, execRspData by_ line s = .next u → Keeps b0 u := by
  unfold execRspData; intro t ht; injection ht with ht; subst ht; simp (maxDischargeDepth := 99) only [KIss.hold, KIss.done,
        KIss.fault, KIss.wait, Keeps.upd, Keeps.updId, Keeps.ite, Keeps.foldl, Keeps.foldl2, Keeps.foldl3, Keeps.refl,
        implies_true, keeps_rspRow, *]

theorem keeps_execRspWbInFlight {b0 : State} (by_ : AgentId) (line : Nat) {s : State} (hK : Keeps b0 s) :
    ∀ u, execRspWbInFlight by_ line s = .next u → Keeps b0 u := by
  unfold execRspWbInFlight; intro t ht; injection ht with ht; subst ht; simp (maxDischargeDepth := 99) only [KIss.hold,
        KIss.done, KIss.fault, KIss.wait, Keeps.upd, Keeps.updId, Keeps.ite, Keeps.foldl, Keeps.foldl2, Keeps.foldl3,
        Keeps.refl, implies_true, keeps_rspRow, *]

theorem keeps_ackRow {b0 : State} {s : State} (a : Nat) (line : Nat) (p : CohMsg → Bool) (hK : Keeps b0 s) :
    Keeps b0 (ackRow s a line p) := by
  unfold ackRow
  repeat' first
    | with_reducible assumption
    | (simp (maxDischargeDepth := 99) only [KIss.hold, KIss.done, KIss.fault, KIss.wait, Keeps.upd, Keeps.updId, Keeps.ite, Keeps.foldl, Keeps.foldl2, Keeps.foldl3, Keeps.refl, implies_true, keeps_agentRecv, *]; done)
    | (split <;> (try (rename_i heq; (first | refine Keeps.cut (Keeps.of_eq (b := b0) heq ?_) ?_ | refine Keeps.cut (Keeps.of_eq3 (b := b0) heq ?_) ?_ | refine Keeps.cut (Keeps.of_eq1 (b := b0) heq ?_) ?_ | refine Keeps.cut (Keeps.of_eq4 (b := b0) heq ?_) ?_ | refine Keeps.cut (keeps_takeMsg (b0 := b0) _ _ _ _ ?_ _ heq) ?_); (focus (clear heq; (repeat' first | (simp (maxDischargeDepth := 99) only [KIss.hold, KIss.done, KIss.fault, KIss.wait, Keeps.upd, Keeps.updId, Keeps.ite, Keeps.foldl, Keeps.foldl2, Keeps.foldl3, Keeps.refl, implies_true, keeps_agentRecv, *]; done) | with_reducible apply Keeps.fold1 | with_reducible apply Keeps.fold2 | with_reducible apply Keeps.fold3 | with_reducible apply Keeps.fold21 | intro _ | split | dsimp only))); intro hz; (try dsimp only at hz); clear heq)))

theorem keeps_execGrant {b0 : State} (ag : AgentId) (line : Nat) {s : State} (hK : Keeps b0 s) :
    ∀ u, execGrant ag line s = .next u → Keeps b0 u := by
  unfold execGrant; intro t ht; injection ht with ht; subst ht; simp (maxDischargeDepth := 99) only [KIss.hold, KIss.done,
        KIss.fault, KIss.wait, Keeps.upd, Keeps.updId, Keeps.ite, Keeps.foldl, Keeps.foldl2, Keeps.foldl3, Keeps.refl,
        implies_true, keeps_ackRow, *]

theorem keeps_execWbAck {b0 : State} (ag : AgentId) (line : Nat) {s : State} (hK : Keeps b0 s) :
    ∀ u, execWbAck ag line s = .next u → Keeps b0 u := by
  unfold execWbAck; intro t ht; injection ht with ht; subst ht; simp (maxDischargeDepth := 99) only [KIss.hold, KIss.done,
        KIss.fault, KIss.wait, Keeps.upd, Keeps.updId, Keeps.ite, Keeps.foldl, Keeps.foldl2, Keeps.foldl3, Keeps.refl,
        implies_true, keeps_ackRow, *]

theorem keeps_execCmoAck {b0 : State} (ag : AgentId) (line : Nat) {s : State} (hK : Keeps b0 s) :
    ∀ u, execCmoAck ag line s = .next u → Keeps b0 u := by
  unfold execCmoAck; intro t ht; injection ht with ht; subst ht; simp (maxDischargeDepth := 99) only [KIss.hold, KIss.done,
        KIss.fault, KIss.wait, Keeps.upd, Keeps.updId, Keeps.ite, Keeps.foldl, Keeps.foldl2, Keeps.foldl3, Keeps.refl,
        implies_true, keeps_ackRow, *]

theorem keeps_performedVisible {b0 : State} {s : State} (n : Nat) (hK : Keeps b0 s) :
    Keeps b0 (performedVisible s n) := by
  unfold performedVisible
  repeat' first
    | with_reducible assumption
    | (extract_lets +onlyGivenNames z; first | ((first | refine Keeps.cut (p := Keeps b0 z) ?_ ?_ | refine Keeps.cut (p := Keeps b0 z.2) ?_ ?_ | refine Keeps.cut (p := Keeps b0 z.2.2) ?_ ?_ | refine Keeps.cut (p := Keeps b0 z.1) ?_ ?_ | refine Keeps.cut (p := Keeps b0 z.s) ?_ ?_ | refine Keeps.cut (p := Keeps b0 z.2.s) ?_ ?_ | refine Keeps.cut (p := Keeps b0 z.2.2.s) ?_ ?_); (focus (intros; dsimp only [z]; (repeat' first | (simp (maxDischargeDepth := 99) only [KIss.hold, KIss.done, KIss.fault, KIss.wait, Keeps.upd, Keeps.updId, Keeps.ite, Keeps.foldl, Keeps.foldl2, Keeps.foldl3, Keeps.refl, implies_true, keeps_setTile, keeps_setGroup, keeps_imprecise, *]; done) | with_reducible apply Keeps.fold1 | with_reducible apply Keeps.fold2 | with_reducible apply Keeps.fold3 | with_reducible apply Keeps.fold21 | intro _ | split | dsimp only))); intro hz; clear_value z) | clear_value z | skip)
    | (simp (maxDischargeDepth := 99) only [KIss.hold, KIss.done, KIss.fault, KIss.wait, Keeps.upd, Keeps.updId, Keeps.ite, Keeps.foldl, Keeps.foldl2, Keeps.foldl3, Keeps.refl, implies_true, keeps_setTile, keeps_setGroup, keeps_imprecise, *]; done)
    | with_reducible apply Keeps.fold1
    | with_reducible apply Keeps.fold2
    | with_reducible apply Keeps.fold3
    | with_reducible apply Keeps.fold21
    | intro _
    | (split <;> (try (rename_i heq; (first | refine Keeps.cut (Keeps.of_eq (b := b0) heq ?_) ?_ | refine Keeps.cut (Keeps.of_eq3 (b := b0) heq ?_) ?_ | refine Keeps.cut (Keeps.of_eq1 (b := b0) heq ?_) ?_ | refine Keeps.cut (Keeps.of_eq4 (b := b0) heq ?_) ?_); (focus (clear heq; (repeat' first | (simp (maxDischargeDepth := 99) only [KIss.hold, KIss.done, KIss.fault, KIss.wait, Keeps.upd, Keeps.updId, Keeps.ite, Keeps.foldl, Keeps.foldl2, Keeps.foldl3, Keeps.refl, implies_true, keeps_setTile, keeps_setGroup, keeps_imprecise, *]; done) | with_reducible apply Keeps.fold1 | with_reducible apply Keeps.fold2 | with_reducible apply Keeps.fold3 | with_reducible apply Keeps.fold21 | intro _ | split | dsimp only))); intro hz; (try dsimp only at hz); clear heq)))

theorem keeps_execPerformedVisible {b0 : State} (n : Nat) {s : State} (hK : Keeps b0 s) :
    ∀ u, execPerformedVisible n s = .next u → Keeps b0 u := by
  unfold execPerformedVisible; intro t ht; injection ht with ht; subst ht; simp (maxDischargeDepth := 99) only [KIss.hold,
        KIss.done, KIss.fault, KIss.wait, Keeps.upd, Keeps.updId, Keeps.ite, Keeps.foldl, Keeps.foldl2, Keeps.foldl3,
        Keeps.refl, implies_true, keeps_performedVisible, *]

theorem keeps_amoResult {b0 : State} {s : State} (c : Nat) (hK : Keeps b0 s) :
    Keeps b0 (amoResult s c) := by
  unfold amoResult
  repeat' first
    | with_reducible assumption
    | (extract_lets +onlyGivenNames z; first | ((first | refine Keeps.cut (p := Keeps b0 z) ?_ ?_ | refine Keeps.cut (p := Keeps b0 z.2) ?_ ?_ | refine Keeps.cut (p := Keeps b0 z.2.2) ?_ ?_ | refine Keeps.cut (p := Keeps b0 z.1) ?_ ?_ | refine Keeps.cut (p := Keeps b0 z.s) ?_ ?_ | refine Keeps.cut (p := Keeps b0 z.2.s) ?_ ?_ | refine Keeps.cut (p := Keeps b0 z.2.2.s) ?_ ?_); (focus (intros; dsimp only [z]; (repeat' first | (simp (maxDischargeDepth := 99) only [KIss.hold, KIss.done, KIss.fault, KIss.wait, Keeps.upd, Keeps.updId, Keeps.ite, Keeps.foldl, Keeps.foldl2, Keeps.foldl3, Keeps.refl, implies_true, keeps_count, keeps_predict, keeps_setCore, *]; done) | with_reducible apply Keeps.fold1 | with_reducible apply Keeps.fold2 | with_reducible apply Keeps.fold3 | with_reducible apply Keeps.fold21 | intro _ | split | dsimp only))); intro hz; clear_value z) | clear_value z | skip)
    | (simp (maxDischargeDepth := 99) only [KIss.hold, KIss.done, KIss.fault, KIss.wait, Keeps.upd, Keeps.updId, Keeps.ite, Keeps.foldl, Keeps.foldl2, Keeps.foldl3, Keeps.refl, implies_true, keeps_count, keeps_predict, keeps_setCore, *]; done)
    | with_reducible apply Keeps.fold1
    | with_reducible apply Keeps.fold2
    | with_reducible apply Keeps.fold3
    | with_reducible apply Keeps.fold21
    | intro _
    | (split <;> (try (rename_i heq; (first | refine Keeps.cut (Keeps.of_eq (b := b0) heq ?_) ?_ | refine Keeps.cut (Keeps.of_eq3 (b := b0) heq ?_) ?_ | refine Keeps.cut (Keeps.of_eq1 (b := b0) heq ?_) ?_ | refine Keeps.cut (Keeps.of_eq4 (b := b0) heq ?_) ?_); (focus (clear heq; (repeat' first | (simp (maxDischargeDepth := 99) only [KIss.hold, KIss.done, KIss.fault, KIss.wait, Keeps.upd, Keeps.updId, Keeps.ite, Keeps.foldl, Keeps.foldl2, Keeps.foldl3, Keeps.refl, implies_true, keeps_count, keeps_predict, keeps_setCore, *]; done) | with_reducible apply Keeps.fold1 | with_reducible apply Keeps.fold2 | with_reducible apply Keeps.fold3 | with_reducible apply Keeps.fold21 | intro _ | split | dsimp only))); intro hz; (try dsimp only at hz); clear heq)))

theorem keeps_execAmoResult {b0 : State} (c : Fin 128) {s : State} (hK : Keeps b0 s) :
    ∀ u, execAmoResult c s = .next u → Keeps b0 u := by
  unfold execAmoResult; intro t ht; injection ht with ht; subst ht; simp (maxDischargeDepth := 99) only [KIss.hold,
        KIss.done, KIss.fault, KIss.wait, Keeps.upd, Keeps.updId, Keeps.ite, Keeps.foldl, Keeps.foldl2, Keeps.foldl3,
        Keeps.refl, implies_true, keeps_amoResult, *]

theorem keeps_coreAmo {b0 : State} {s : State} (c : Nat) (op : CoreAmo) (hK : Keeps b0 s) :
    Keeps b0 (coreAmo s c op) := by
  unfold coreAmo
  repeat' first
    | with_reducible assumption
    | (extract_lets +onlyGivenNames z; first | ((first | refine Keeps.cut (p := Keeps b0 z) ?_ ?_ | refine Keeps.cut (p := Keeps b0 z.2) ?_ ?_ | refine Keeps.cut (p := Keeps b0 z.2.2) ?_ ?_ | refine Keeps.cut (p := Keeps b0 z.1) ?_ ?_ | refine Keeps.cut (p := Keeps b0 z.s) ?_ ?_ | refine Keeps.cut (p := Keeps b0 z.2.s) ?_ ?_ | refine Keeps.cut (p := Keeps b0 z.2.2.s) ?_ ?_); (focus (intros; dsimp only [z]; (repeat' first | (simp (maxDischargeDepth := 99) only [KIss.hold, KIss.done, KIss.fault, KIss.wait, Keeps.upd, Keeps.updId, Keeps.ite, Keeps.foldl, Keeps.foldl2, Keeps.foldl3, Keeps.refl, implies_true, keeps_setCore, keeps_amoNear, keeps_busAtomic, *]; done) | with_reducible apply Keeps.fold1 | with_reducible apply Keeps.fold2 | with_reducible apply Keeps.fold3 | with_reducible apply Keeps.fold21 | intro _ | split | dsimp only))); intro hz; clear_value z) | clear_value z | skip)
    | (simp (maxDischargeDepth := 99) only [KIss.hold, KIss.done, KIss.fault, KIss.wait, Keeps.upd, Keeps.updId, Keeps.ite, Keeps.foldl, Keeps.foldl2, Keeps.foldl3, Keeps.refl, implies_true, keeps_setCore, keeps_amoNear, keeps_busAtomic, *]; done)
    | with_reducible apply Keeps.fold1
    | with_reducible apply Keeps.fold2
    | with_reducible apply Keeps.fold3
    | with_reducible apply Keeps.fold21
    | intro _
    | (split <;> (try (rename_i heq; (first | refine Keeps.cut (Keeps.of_eq (b := b0) heq ?_) ?_ | refine Keeps.cut (Keeps.of_eq3 (b := b0) heq ?_) ?_ | refine Keeps.cut (Keeps.of_eq1 (b := b0) heq ?_) ?_ | refine Keeps.cut (Keeps.of_eq4 (b := b0) heq ?_) ?_); (focus (clear heq; (repeat' first | (simp (maxDischargeDepth := 99) only [KIss.hold, KIss.done, KIss.fault, KIss.wait, Keeps.upd, Keeps.updId, Keeps.ite, Keeps.foldl, Keeps.foldl2, Keeps.foldl3, Keeps.refl, implies_true, keeps_setCore, keeps_amoNear, keeps_busAtomic, *]; done) | with_reducible apply Keeps.fold1 | with_reducible apply Keeps.fold2 | with_reducible apply Keeps.fold3 | with_reducible apply Keeps.fold21 | intro _ | split | dsimp only))); intro hz; (try dsimp only at hz); clear heq)))

theorem keeps_execCoreAmo {b0 : State} (c : Fin 128) (op : CoreAmo) {s : State} (hK : Keeps b0 s) :
    ∀ u, execCoreAmo c op s = .next u → Keeps b0 u := by
  unfold execCoreAmo; intro t ht; injection ht with ht; subst ht; simp (maxDischargeDepth := 99) only [KIss.hold, KIss.done,
        KIss.fault, KIss.wait, Keeps.upd, Keeps.updId, Keeps.ite, Keeps.foldl, Keeps.foldl2, Keeps.foldl3, Keeps.refl,
        implies_true, keeps_coreAmo, *]

theorem keeps_cohAmoCtlWrite {b0 : State} {s : State} (p : Nat) (v : Nat) (hK : Keeps b0 s) :
    Keeps b0 (cohAmoCtlWrite s p v) := by
  unfold cohAmoCtlWrite; simp (maxDischargeDepth := 99) only [KIss.hold, KIss.done, KIss.fault, KIss.wait, Keeps.upd,
        Keeps.updId, Keeps.ite, Keeps.foldl, Keeps.foldl2, Keeps.foldl3, Keeps.refl, implies_true, keeps_rset, *]

theorem keeps_execCohAmoClear {b0 : State} (a : Agent) (p : PDie) (v : W64) {s : State} (hK : Keeps b0 s) :
    ∀ u, execCohAmoClear a p v s = .next u → Keeps b0 u := by
  unfold execCohAmoClear; intro t ht; injection ht with ht; subst ht; simp (maxDischargeDepth := 99) only [KIss.hold,
        KIss.done, KIss.fault, KIss.wait, Keeps.upd, Keeps.updId, Keeps.ite, Keeps.foldl, Keeps.foldl2, Keeps.foldl3,
        Keeps.refl, implies_true, keeps_cohAmoCtlWrite, *]

theorem keeps_execDccAccess {b0 : State} (k : CDie) (n : Nat) (ecc : WordEcc) {s : State} (hK : Keeps b0 s) :
    ∀ u, execDccAccess k n ecc s = .next u → Keeps b0 u := by
  unfold execDccAccess; intro t ht; injection ht with ht; subst ht; simp (maxDischargeDepth := 99) only [KIss.hold,
        KIss.done, KIss.fault, KIss.wait, Keeps.upd, Keeps.updId, Keeps.ite, Keeps.foldl, Keeps.foldl2, Keeps.foldl3,
        Keeps.refl, implies_true, keeps_dccAccess, *]

theorem keeps_execDccFillArrive {b0 : State} (k : CDie) (line : Nat) {s : State} (hK : Keeps b0 s) :
    ∀ u, execDccFillArrive k line s = .next u → Keeps b0 u := by
  unfold execDccFillArrive; intro t ht; injection ht with ht; subst ht; simp (maxDischargeDepth := 99) only [KIss.hold,
        KIss.done, KIss.fault, KIss.wait, Keeps.upd, Keeps.updId, Keeps.ite, Keeps.foldl, Keeps.foldl2, Keeps.foldl3,
        Keeps.refl, implies_true, keeps_dccFillArrive, *]

theorem keeps_maintRow {b0 : State} {s : State} (a : Agent) (k : CDie) (v : BitVec 56) (op : Nat) (hK : Keeps b0 s) :
    Keeps b0 (maintRow s a k v op) := by
  unfold maintRow; simp (maxDischargeDepth := 99) only [KIss.hold, KIss.done, KIss.fault, KIss.wait, Keeps.upd, Keeps.updId,
        Keeps.ite, Keeps.foldl, Keeps.foldl2, Keeps.foldl3, Keeps.refl, implies_true, keeps_maintStart, *]

theorem keeps_execDccInv {b0 : State} (a : Agent) (k : CDie) (v : BitVec 56) {s : State} (hK : Keeps b0 s) :
    ∀ u, execDccInv a k v s = .next u → Keeps b0 u := by
  unfold execDccInv; intro t ht; injection ht with ht; subst ht; simp (maxDischargeDepth := 99) only [KIss.hold, KIss.done,
        KIss.fault, KIss.wait, Keeps.upd, Keeps.updId, Keeps.ite, Keeps.foldl, Keeps.foldl2, Keeps.foldl3, Keeps.refl,
        implies_true, keeps_maintRow, *]

theorem keeps_execDccClean {b0 : State} (a : Agent) (k : CDie) (v : BitVec 56) {s : State} (hK : Keeps b0 s) :
    ∀ u, execDccClean a k v s = .next u → Keeps b0 u := by
  unfold execDccClean; intro t ht; injection ht with ht; subst ht; simp (maxDischargeDepth := 99) only [KIss.hold, KIss.done,
         KIss.fault, KIss.wait, Keeps.upd, Keeps.updId, Keeps.ite, Keeps.foldl, Keeps.foldl2, Keeps.foldl3, Keeps.refl,
        implies_true, keeps_maintRow, *]

theorem keeps_execDccCleanInv {b0 : State} (a : Agent) (k : CDie) (v : BitVec 56) {s : State} (hK : Keeps b0 s) :
    ∀ u, execDccCleanInv a k v s = .next u → Keeps b0 u := by
  unfold execDccCleanInv; intro t ht; injection ht with ht; subst ht; simp (maxDischargeDepth := 99) only [KIss.hold,
        KIss.done, KIss.fault, KIss.wait, Keeps.upd, Keeps.updId, Keeps.ite, Keeps.foldl, Keeps.foldl2, Keeps.foldl3,
        Keeps.refl, implies_true, keeps_maintRow, *]

theorem keeps_execDccPreload {b0 : State} (a : Agent) (k : CDie) (v : BitVec 56) {s : State} (hK : Keeps b0 s) :
    ∀ u, execDccPreload a k v s = .next u → Keeps b0 u := by
  unfold execDccPreload; intro t ht; injection ht with ht; subst ht; simp (maxDischargeDepth := 99) only [KIss.hold,
        KIss.done, KIss.fault, KIss.wait, Keeps.upd, Keeps.updId, Keeps.ite, Keeps.foldl, Keeps.foldl2, Keeps.foldl3,
        Keeps.refl, implies_true, keeps_maintRow, *]

theorem keeps_execDccZero {b0 : State} (a : Agent) (k : CDie) (v : BitVec 56) {s : State} (hK : Keeps b0 s) :
    ∀ u, execDccZero a k v s = .next u → Keeps b0 u := by
  unfold execDccZero; intro t ht; injection ht with ht; subst ht; simp (maxDischargeDepth := 99) only [KIss.hold, KIss.done,
        KIss.fault, KIss.wait, Keeps.upd, Keeps.updId, Keeps.ite, Keeps.foldl, Keeps.foldl2, Keeps.foldl3, Keeps.refl,
        implies_true, keeps_maintRow, *]

theorem keeps_execDccInvSw {b0 : State} (a : Agent) (k : CDie) (v : BitVec 56) {s : State} (hK : Keeps b0 s) :
    ∀ u, execDccInvSw a k v s = .next u → Keeps b0 u := by
  unfold execDccInvSw; intro t ht; injection ht with ht; subst ht; simp (maxDischargeDepth := 99) only [KIss.hold, KIss.done,
         KIss.fault, KIss.wait, Keeps.upd, Keeps.updId, Keeps.ite, Keeps.foldl, Keeps.foldl2, Keeps.foldl3, Keeps.refl,
        implies_true, keeps_maintRow, *]

theorem keeps_execDccCleanSw {b0 : State} (a : Agent) (k : CDie) (v : BitVec 56) {s : State} (hK : Keeps b0 s) :
    ∀ u, execDccCleanSw a k v s = .next u → Keeps b0 u := by
  unfold execDccCleanSw; intro t ht; injection ht with ht; subst ht; simp (maxDischargeDepth := 99) only [KIss.hold,
        KIss.done, KIss.fault, KIss.wait, Keeps.upd, Keeps.updId, Keeps.ite, Keeps.foldl, Keeps.foldl2, Keeps.foldl3,
        Keeps.refl, implies_true, keeps_maintRow, *]

theorem keeps_execDccCleanInvSw {b0 : State} (a : Agent) (k : CDie) (v : BitVec 56) {s : State} (hK : Keeps b0 s) :
    ∀ u, execDccCleanInvSw a k v s = .next u → Keeps b0 u := by
  unfold execDccCleanInvSw; intro t ht; injection ht with ht; subst ht; simp (maxDischargeDepth := 99) only [KIss.hold,
        KIss.done, KIss.fault, KIss.wait, Keeps.upd, Keeps.updId, Keeps.ite, Keeps.foldl, Keeps.foldl2, Keeps.foldl3,
        Keeps.refl, implies_true, keeps_maintRow, *]

theorem keeps_execDccInvAll {b0 : State} (a : Agent) (k : CDie) (v : BitVec 56) {s : State} (hK : Keeps b0 s) :
    ∀ u, execDccInvAll a k v s = .next u → Keeps b0 u := by
  unfold execDccInvAll; intro t ht; injection ht with ht; subst ht; simp (maxDischargeDepth := 99) only [KIss.hold,
        KIss.done, KIss.fault, KIss.wait, Keeps.upd, Keeps.updId, Keeps.ite, Keeps.foldl, Keeps.foldl2, Keeps.foldl3,
        Keeps.refl, implies_true, keeps_maintRow, *]

theorem keeps_execDccMaintComplete {b0 : State} (k : CDie) {s : State} (hK : Keeps b0 s) :
    ∀ u, execDccMaintComplete k s = .next u → Keeps b0 u := by
  unfold execDccMaintComplete; intro t ht; injection ht with ht; subst ht; simp (maxDischargeDepth := 99) only [KIss.hold,
        KIss.done, KIss.fault, KIss.wait, Keeps.upd, Keeps.updId, Keeps.ite, Keeps.foldl, Keeps.foldl2, Keeps.foldl3,
        Keeps.refl, implies_true, keeps_maintComplete, *]

theorem keeps_execDccCtlWrite {b0 : State} (a : Agent) (k : CDie) (v : W64) {s : State} (hK : Keeps b0 s) :
    ∀ u, execDccCtlWrite a k v s = .next u → Keeps b0 u := by
  unfold execDccCtlWrite; intro t ht; injection ht with ht; subst ht; simp (maxDischargeDepth := 99) only [KIss.hold,
        KIss.done, KIss.fault, KIss.wait, Keeps.upd, Keeps.updId, Keeps.ite, Keeps.foldl, Keeps.foldl2, Keeps.foldl3,
        Keeps.refl, implies_true, keeps_dccCtlWrite, *]

theorem keeps_execDccLockWrite {b0 : State} (a : Agent) (k : CDie) (v : W64) {s : State} (hK : Keeps b0 s) :
    ∀ u, execDccLockWrite a k v s = .next u → Keeps b0 u := by
  unfold execDccLockWrite; intro t ht; injection ht with ht; subst ht; simp (maxDischargeDepth := 99) only [KIss.hold,
        KIss.done, KIss.fault, KIss.wait, Keeps.upd, Keeps.updId, Keeps.ite, Keeps.foldl, Keeps.foldl2, Keeps.foldl3,
        Keeps.refl, implies_true, keeps_dccLockWrite, *]

theorem keeps_l1Count {b0 : State} {s : State} (t : Nat) (r : Reg) (n : Nat) (hK : Keeps b0 s) :
    Keeps b0 (l1Count s t r n) := by
  unfold l1Count; simp (maxDischargeDepth := 99) only [KIss.hold, KIss.done, KIss.fault, KIss.wait, Keeps.upd, Keeps.updId,
        Keeps.ite, Keeps.foldl, Keeps.foldl2, Keeps.foldl3, Keeps.refl, implies_true, keeps_count, *]

theorem keeps_l1Drop {b0 : State} {s : State} (t : Nat) (line : Nat) (hK : Keeps b0 s) :
    Keeps b0 (l1Drop s t line) := by
  unfold l1Drop
  repeat' first
    | with_reducible assumption
    | (extract_lets +onlyGivenNames z; first | ((first | refine Keeps.cut (p := Keeps b0 z) ?_ ?_ | refine Keeps.cut (p := Keeps b0 z.2) ?_ ?_ | refine Keeps.cut (p := Keeps b0 z.2.2) ?_ ?_ | refine Keeps.cut (p := Keeps b0 z.1) ?_ ?_ | refine Keeps.cut (p := Keeps b0 z.s) ?_ ?_ | refine Keeps.cut (p := Keeps b0 z.2.s) ?_ ?_ | refine Keeps.cut (p := Keeps b0 z.2.2.s) ?_ ?_); (focus (intros; dsimp only [z]; (repeat' first | (simp (maxDischargeDepth := 99) only [KIss.hold, KIss.done, KIss.fault, KIss.wait, Keeps.upd, Keeps.updId, Keeps.ite, Keeps.foldl, Keeps.foldl2, Keeps.foldl3, Keeps.refl, implies_true, keeps_setTile, *]; done) | with_reducible apply Keeps.fold1 | with_reducible apply Keeps.fold2 | with_reducible apply Keeps.fold3 | with_reducible apply Keeps.fold21 | intro _ | split | dsimp only))); intro hz; clear_value z) | clear_value z | skip)
    | (simp (maxDischargeDepth := 99) only [KIss.hold, KIss.done, KIss.fault, KIss.wait, Keeps.upd, Keeps.updId, Keeps.ite, Keeps.foldl, Keeps.foldl2, Keeps.foldl3, Keeps.refl, implies_true, keeps_setTile, *]; done)
    | with_reducible apply Keeps.fold1
    | with_reducible apply Keeps.fold2
    | with_reducible apply Keeps.fold3
    | with_reducible apply Keeps.fold21
    | intro _
    | (split <;> (try (rename_i heq; (first | refine Keeps.cut (Keeps.of_eq (b := b0) heq ?_) ?_ | refine Keeps.cut (Keeps.of_eq3 (b := b0) heq ?_) ?_ | refine Keeps.cut (Keeps.of_eq1 (b := b0) heq ?_) ?_ | refine Keeps.cut (Keeps.of_eq4 (b := b0) heq ?_) ?_); (focus (clear heq; (repeat' first | (simp (maxDischargeDepth := 99) only [KIss.hold, KIss.done, KIss.fault, KIss.wait, Keeps.upd, Keeps.updId, Keeps.ite, Keeps.foldl, Keeps.foldl2, Keeps.foldl3, Keeps.refl, implies_true, keeps_setTile, *]; done) | with_reducible apply Keeps.fold1 | with_reducible apply Keeps.fold2 | with_reducible apply Keeps.fold3 | with_reducible apply Keeps.fold21 | intro _ | split | dsimp only))); intro hz; (try dsimp only at hz); clear heq)))

theorem keeps_toDcc {b0 : State} {s : State} (t : Nat) (r : MemReq) (hK : Keeps b0 s) :
    Keeps b0 (toDcc s t r) := by
  unfold toDcc; simp (maxDischargeDepth := 99) only [KIss.hold, KIss.done, KIss.fault, KIss.wait, Keeps.upd, Keeps.updId,
        Keeps.ite, Keeps.foldl, Keeps.foldl2, Keeps.foldl3, Keeps.refl, implies_true, keeps_setDcc, *]

theorem keeps_freshId {b0 : State} {s : State} (hK : Keeps b0 s) :
    Keeps b0 (freshId s).2 := by
  unfold freshId; simp (maxDischargeDepth := 99) only [KIss.hold, KIss.done, KIss.fault, KIss.wait, Keeps.upd, Keeps.updId,
        Keeps.ite, Keeps.foldl, Keeps.foldl2, Keeps.foldl3, Keeps.refl, implies_true, *]

theorem keeps_drainEntry {b0 : State} {s : State} (t : Nat) (line : Nat) (hK : Keeps b0 s) :
    Keeps b0 (drainEntry s t line) := by
  unfold drainEntry
  repeat' first
    | with_reducible assumption
    | (extract_lets +onlyGivenNames z; first | ((first | refine Keeps.cut (p := Keeps b0 z) ?_ ?_ | refine Keeps.cut (p := Keeps b0 z.2) ?_ ?_ | refine Keeps.cut (p := Keeps b0 z.2.2) ?_ ?_ | refine Keeps.cut (p := Keeps b0 z.1) ?_ ?_ | refine Keeps.cut (p := Keeps b0 z.s) ?_ ?_ | refine Keeps.cut (p := Keeps b0 z.2.s) ?_ ?_ | refine Keeps.cut (p := Keeps b0 z.2.2.s) ?_ ?_); (focus (intros; dsimp only [z]; (repeat' first | (simp (maxDischargeDepth := 99) only [KIss.hold, KIss.done, KIss.fault, KIss.wait, Keeps.upd, Keeps.updId, Keeps.ite, Keeps.foldl, Keeps.foldl2, Keeps.foldl3, Keeps.refl, implies_true, keeps_setTile, keeps_toDcc, *]; done) | with_reducible apply Keeps.fold1 | with_reducible apply Keeps.fold2 | with_reducible apply Keeps.fold3 | with_reducible apply Keeps.fold21 | intro _ | split | dsimp only))); intro hz; clear_value z) | clear_value z | skip)
    | (simp (maxDischargeDepth := 99) only [KIss.hold, KIss.done, KIss.fault, KIss.wait, Keeps.upd, Keeps.updId, Keeps.ite, Keeps.foldl, Keeps.foldl2, Keeps.foldl3, Keeps.refl, implies_true, keeps_setTile, keeps_toDcc, *]; done)
    | with_reducible apply Keeps.fold1
    | with_reducible apply Keeps.fold2
    | with_reducible apply Keeps.fold3
    | with_reducible apply Keeps.fold21
    | intro _
    | (split <;> (try (rename_i heq; (first | refine Keeps.cut (Keeps.of_eq (b := b0) heq ?_) ?_ | refine Keeps.cut (Keeps.of_eq3 (b := b0) heq ?_) ?_ | refine Keeps.cut (Keeps.of_eq1 (b := b0) heq ?_) ?_ | refine Keeps.cut (Keeps.of_eq4 (b := b0) heq ?_) ?_); (focus (clear heq; (repeat' first | (simp (maxDischargeDepth := 99) only [KIss.hold, KIss.done, KIss.fault, KIss.wait, Keeps.upd, Keeps.updId, Keeps.ite, Keeps.foldl, Keeps.foldl2, Keeps.foldl3, Keeps.refl, implies_true, keeps_setTile, keeps_toDcc, *]; done) | with_reducible apply Keeps.fold1 | with_reducible apply Keeps.fold2 | with_reducible apply Keeps.fold3 | with_reducible apply Keeps.fold21 | intro _ | split | dsimp only))); intro hz; (try dsimp only at hz); clear heq)))

theorem keeps_l1Drain {b0 : State} {s : State} (t : Nat) (hK : Keeps b0 s) :
    Keeps b0 (l1Drain s t) := by
  unfold l1Drain; simp (maxDischargeDepth := 99) only [KIss.hold, KIss.done, KIss.fault, KIss.wait, Keeps.upd, Keeps.updId,
        Keeps.ite, Keeps.foldl, Keeps.foldl2, Keeps.foldl3, Keeps.refl, implies_true, keeps_drainEntry, *]

theorem keeps_mergeStore {b0 : State} {s : State} (t : Nat) (line : Nat) (bs : Map Byte) (streaming : Bool) (hK : Keeps b0 s) :
    Keeps b0 (mergeStore s t line bs streaming) := by
  unfold mergeStore
  repeat' first
    | with_reducible assumption
    | (extract_lets +onlyGivenNames z; first | ((first | refine Keeps.cut (p := Keeps b0 z) ?_ ?_ | refine Keeps.cut (p := Keeps b0 z.2) ?_ ?_ | refine Keeps.cut (p := Keeps b0 z.2.2) ?_ ?_ | refine Keeps.cut (p := Keeps b0 z.1) ?_ ?_ | refine Keeps.cut (p := Keeps b0 z.s) ?_ ?_ | refine Keeps.cut (p := Keeps b0 z.2.s) ?_ ?_ | refine Keeps.cut (p := Keeps b0 z.2.2.s) ?_ ?_); (focus (intros; dsimp only [z]; (repeat' first | (simp (maxDischargeDepth := 99) only [KIss.hold, KIss.done, KIss.fault, KIss.wait, Keeps.upd, Keeps.updId, Keeps.ite, Keeps.foldl, Keeps.foldl2, Keeps.foldl3, Keeps.refl, implies_true, keeps_setTile, keeps_l1Count, keeps_drainEntry, *]; done) | with_reducible apply Keeps.fold1 | with_reducible apply Keeps.fold2 | with_reducible apply Keeps.fold3 | with_reducible apply Keeps.fold21 | intro _ | split | dsimp only))); intro hz; clear_value z) | clear_value z | skip)
    | (simp (maxDischargeDepth := 99) only [KIss.hold, KIss.done, KIss.fault, KIss.wait, Keeps.upd, Keeps.updId, Keeps.ite, Keeps.foldl, Keeps.foldl2, Keeps.foldl3, Keeps.refl, implies_true, keeps_setTile, keeps_l1Count, keeps_drainEntry, *]; done)
    | with_reducible apply Keeps.fold1
    | with_reducible apply Keeps.fold2
    | with_reducible apply Keeps.fold3
    | with_reducible apply Keeps.fold21
    | intro _
    | (split <;> (try (rename_i heq; (first | refine Keeps.cut (Keeps.of_eq (b := b0) heq ?_) ?_ | refine Keeps.cut (Keeps.of_eq3 (b := b0) heq ?_) ?_ | refine Keeps.cut (Keeps.of_eq1 (b := b0) heq ?_) ?_ | refine Keeps.cut (Keeps.of_eq4 (b := b0) heq ?_) ?_); (focus (clear heq; (repeat' first | (simp (maxDischargeDepth := 99) only [KIss.hold, KIss.done, KIss.fault, KIss.wait, Keeps.upd, Keeps.updId, Keeps.ite, Keeps.foldl, Keeps.foldl2, Keeps.foldl3, Keeps.refl, implies_true, keeps_setTile, keeps_l1Count, keeps_drainEntry, *]; done) | with_reducible apply Keeps.fold1 | with_reducible apply Keeps.fold2 | with_reducible apply Keeps.fold3 | with_reducible apply Keeps.fold21 | intro _ | split | dsimp only))); intro hz; (try dsimp only at hz); clear heq)))

theorem keeps_l1InvAll {b0 : State} {s : State} (t : Nat) (hK : Keeps b0 s) :
    Keeps b0 (l1InvAll s t) := by
  unfold l1InvAll; simp (maxDischargeDepth := 99) only [KIss.hold, KIss.done, KIss.fault, KIss.wait, Keeps.upd, Keeps.updId,
        Keeps.ite, Keeps.foldl, Keeps.foldl2, Keeps.foldl3, Keeps.refl, implies_true, keeps_setTile, *]

theorem keeps_l1cCtlWrite {b0 : State} {s : State} (t : Nat) (v : Nat) (hK : Keeps b0 s) :
    Keeps b0 (l1cCtlWrite s t v) := by
  unfold l1cCtlWrite; simp (maxDischargeDepth := 99) only [KIss.hold, KIss.done, KIss.fault, KIss.wait, Keeps.upd,
        Keeps.updId, Keeps.ite, Keeps.foldl, Keeps.foldl2, Keeps.foldl3, Keeps.refl, implies_true, keeps_rfset,
        keeps_l1InvAll, *]

theorem keeps_l1Install {b0 : State} {s : State} (t : Nat) (line : Nat) (bs : Map Byte) (hK : Keeps b0 s) :
    Keeps b0 (l1Install s t line bs) := by
  unfold l1Install; simp (maxDischargeDepth := 99) only [KIss.hold, KIss.done, KIss.fault, KIss.wait, Keeps.upd, Keeps.updId,
         Keeps.ite, Keeps.foldl, Keeps.foldl2, Keeps.foldl3, Keeps.refl, implies_true, keeps_setTile, *]

theorem keeps_l1Touch {b0 : State} {s : State} (t : Nat) (key : Nat) (hK : Keeps b0 s) :
    Keeps b0 (l1Touch s t key) := by
  unfold l1Touch; simp (maxDischargeDepth := 99) only [KIss.hold, KIss.done, KIss.fault, KIss.wait, Keeps.upd, Keeps.updId,
        Keeps.ite, Keeps.foldl, Keeps.foldl2, Keeps.foldl3, Keeps.refl, implies_true, keeps_setTile, *]

theorem keeps_l1FillArrive {b0 : State} {s : State} (t : Nat) (line : Nat) (hK : Keeps b0 s) :
    Keeps b0 (l1FillArrive s t line) := by
  unfold l1FillArrive
  repeat' first
    | with_reducible assumption
    | (extract_lets +onlyGivenNames z; first | ((first | refine Keeps.cut (p := Keeps b0 z) ?_ ?_ | refine Keeps.cut (p := Keeps b0 z.2) ?_ ?_ | refine Keeps.cut (p := Keeps b0 z.2.2) ?_ ?_ | refine Keeps.cut (p := Keeps b0 z.1) ?_ ?_ | refine Keeps.cut (p := Keeps b0 z.s) ?_ ?_ | refine Keeps.cut (p := Keeps b0 z.2.s) ?_ ?_ | refine Keeps.cut (p := Keeps b0 z.2.2.s) ?_ ?_); (focus (intros; dsimp only [z]; (repeat' first | (simp (maxDischargeDepth := 99) only [KIss.hold, KIss.done, KIss.fault, KIss.wait, Keeps.upd, Keeps.updId, Keeps.ite, Keeps.foldl, Keeps.foldl2, Keeps.foldl3, Keeps.refl, implies_true, keeps_setTile, keeps_pendFail, keeps_pendLine, keeps_l1Install, *]; done) | with_reducible apply Keeps.fold1 | with_reducible apply Keeps.fold2 | with_reducible apply Keeps.fold3 | with_reducible apply Keeps.fold21 | intro _ | split | dsimp only))); intro hz; clear_value z) | clear_value z | skip)
    | (simp (maxDischargeDepth := 99) only [KIss.hold, KIss.done, KIss.fault, KIss.wait, Keeps.upd, Keeps.updId, Keeps.ite, Keeps.foldl, Keeps.foldl2, Keeps.foldl3, Keeps.refl, implies_true, keeps_setTile, keeps_pendFail, keeps_pendLine, keeps_l1Install, *]; done)
    | with_reducible apply Keeps.fold1
    | with_reducible apply Keeps.fold2
    | with_reducible apply Keeps.fold3
    | with_reducible apply Keeps.fold21
    | intro _
    | (split <;> (try (rename_i heq; (first | refine Keeps.cut (Keeps.of_eq (b := b0) heq ?_) ?_ | refine Keeps.cut (Keeps.of_eq3 (b := b0) heq ?_) ?_ | refine Keeps.cut (Keeps.of_eq1 (b := b0) heq ?_) ?_ | refine Keeps.cut (Keeps.of_eq4 (b := b0) heq ?_) ?_); (focus (clear heq; (repeat' first | (simp (maxDischargeDepth := 99) only [KIss.hold, KIss.done, KIss.fault, KIss.wait, Keeps.upd, Keeps.updId, Keeps.ite, Keeps.foldl, Keeps.foldl2, Keeps.foldl3, Keeps.refl, implies_true, keeps_setTile, keeps_pendFail, keeps_pendLine, keeps_l1Install, *]; done) | with_reducible apply Keeps.fold1 | with_reducible apply Keeps.fold2 | with_reducible apply Keeps.fold3 | with_reducible apply Keeps.fold21 | intro _ | split | dsimp only))); intro hz; (try dsimp only at hz); clear heq)))

theorem keeps_l1Miss {b0 : State} {s : State} (t : Nat) (g : Nat) (id : Nat) (line : Nat) (cache : Nat) (hK : Keeps b0 s) :
    Keeps b0 (l1Miss s t g id line cache) := by
  unfold l1Miss
  repeat' first
    | with_reducible assumption
    | (extract_lets +onlyGivenNames z; first | ((first | refine Keeps.cut (p := Keeps b0 z) ?_ ?_ | refine Keeps.cut (p := Keeps b0 z.2) ?_ ?_ | refine Keeps.cut (p := Keeps b0 z.2.2) ?_ ?_ | refine Keeps.cut (p := Keeps b0 z.1) ?_ ?_ | refine Keeps.cut (p := Keeps b0 z.s) ?_ ?_ | refine Keeps.cut (p := Keeps b0 z.2.s) ?_ ?_ | refine Keeps.cut (p := Keeps b0 z.2.2.s) ?_ ?_); (focus (intros; dsimp only [z]; (repeat' first | (simp (maxDischargeDepth := 99) only [KIss.hold, KIss.done, KIss.fault, KIss.wait, Keeps.upd, Keeps.updId, Keeps.ite, Keeps.foldl, Keeps.foldl2, Keeps.foldl3, Keeps.refl, implies_true, keeps_setTile, keeps_toDcc, *]; done) | with_reducible apply Keeps.fold1 | with_reducible apply Keeps.fold2 | with_reducible apply Keeps.fold3 | with_reducible apply Keeps.fold21 | intro _ | split | dsimp only))); intro hz; clear_value z) | clear_value z | skip)
    | (simp (maxDischargeDepth := 99) only [KIss.hold, KIss.done, KIss.fault, KIss.wait, Keeps.upd, Keeps.updId, Keeps.ite, Keeps.foldl, Keeps.foldl2, Keeps.foldl3, Keeps.refl, implies_true, keeps_setTile, keeps_toDcc, *]; done)
    | with_reducible apply Keeps.fold1
    | with_reducible apply Keeps.fold2
    | with_reducible apply Keeps.fold3
    | with_reducible apply Keeps.fold21
    | intro _
    | (split <;> (try (rename_i heq; (first | refine Keeps.cut (Keeps.of_eq (b := b0) heq ?_) ?_ | refine Keeps.cut (Keeps.of_eq3 (b := b0) heq ?_) ?_ | refine Keeps.cut (Keeps.of_eq1 (b := b0) heq ?_) ?_ | refine Keeps.cut (Keeps.of_eq4 (b := b0) heq ?_) ?_); (focus (clear heq; (repeat' first | (simp (maxDischargeDepth := 99) only [KIss.hold, KIss.done, KIss.fault, KIss.wait, Keeps.upd, Keeps.updId, Keeps.ite, Keeps.foldl, Keeps.foldl2, Keeps.foldl3, Keeps.refl, implies_true, keeps_setTile, keeps_toDcc, *]; done) | with_reducible apply Keeps.fold1 | with_reducible apply Keeps.fold2 | with_reducible apply Keeps.fold3 | with_reducible apply Keeps.fold21 | intro _ | split | dsimp only))); intro hz; (try dsimp only at hz); clear heq)))

theorem keeps_loadGlobal {b0 : State} {s : State} (t : Nat) (g : Nat) (scalar : Bool) (dst : Nat) (width : Nat) (all : List (Nat × Nat)) (cache : Nat) (parity : List Nat) (hK : Keeps b0 s) :
    ∀ u, loadGlobal s t g scalar dst width all cache parity = some u → Keeps b0 u := by
  unfold loadGlobal
  repeat' first
    | with_reducible assumption
    | refine fun (y : State) (gr : Group) (hy : Keeps b0 y) => ?_
    | (extract_lets +onlyGivenNames z; first | ((first | refine Keeps.cut (p := Keeps b0 z) ?_ ?_ | refine Keeps.cut (p := Keeps b0 z.2) ?_ ?_ | refine Keeps.cut (p := Keeps b0 z.2.2) ?_ ?_ | refine Keeps.cut (p := Keeps b0 z.1) ?_ ?_ | refine Keeps.cut (p := Keeps b0 z.s) ?_ ?_ | refine Keeps.cut (p := Keeps b0 z.2.s) ?_ ?_ | refine Keeps.cut (p := Keeps b0 z.2.2.s) ?_ ?_); (focus (intros; dsimp only [z]; (repeat' first | (simp (maxDischargeDepth := 99) only [KIss.hold, KIss.done, KIss.fault, KIss.wait, Keeps.upd, Keeps.updId, Keeps.ite, Keeps.foldl, Keeps.foldl2, Keeps.foldl3, Keeps.refl, implies_true, keeps_drawFree128, keeps_drpSeen, keeps_setGroup, keeps_imprecise, keeps_l1Count, keeps_l1Drop, keeps_toDcc, keeps_freshId, keeps_l1Touch, keeps_l1Miss, *]; done) | with_reducible apply Keeps.fold1 | with_reducible apply Keeps.fold2 | with_reducible apply Keeps.fold3 | with_reducible apply Keeps.fold21 | intro _ | split | dsimp only))); intro hz; clear_value z) | clear_value z | skip)
    | (simp (maxDischargeDepth := 99) only [KIss.hold, KIss.done, KIss.fault, KIss.wait, Keeps.upd, Keeps.updId, Keeps.ite, Keeps.foldl, Keeps.foldl2, Keeps.foldl3, Keeps.refl, implies_true, keeps_drawFree128, keeps_drpSeen, keeps_setGroup, keeps_imprecise, keeps_l1Count, keeps_l1Drop, keeps_toDcc, keeps_freshId, keeps_l1Touch, keeps_l1Miss, *]; done)
    | (intro t ht; injection ht with ht; subst ht)
    | (intro t ht; contradiction)
    | with_reducible apply Keeps.fold1
    | with_reducible apply Keeps.fold2
    | with_reducible apply Keeps.fold3
    | with_reducible apply Keeps.fold21
    | (split <;> (try (rename_i heq; (first | refine Keeps.cut (Keeps.of_eq (b := b0) heq ?_) ?_ | refine Keeps.cut (Keeps.of_eq3 (b := b0) heq ?_) ?_ | refine Keeps.cut (Keeps.of_eq1 (b := b0) heq ?_) ?_ | refine Keeps.cut (Keeps.of_eq4 (b := b0) heq ?_) ?_); (focus (clear heq; (repeat' first | (simp (maxDischargeDepth := 99) only [KIss.hold, KIss.done, KIss.fault, KIss.wait, Keeps.upd, Keeps.updId, Keeps.ite, Keeps.foldl, Keeps.foldl2, Keeps.foldl3, Keeps.refl, implies_true, keeps_drawFree128, keeps_drpSeen, keeps_setGroup, keeps_imprecise, keeps_l1Count, keeps_l1Drop, keeps_toDcc, keeps_freshId, keeps_l1Touch, keeps_l1Miss, *]; done) | with_reducible apply Keeps.fold1 | with_reducible apply Keeps.fold2 | with_reducible apply Keeps.fold3 | with_reducible apply Keeps.fold21 | intro _ | split | dsimp only))); intro hz; (try dsimp only at hz); clear heq)))
    | intro _

theorem keeps_storeGlobal {b0 : State} {s : State} (t : Nat) (g : Nat) (all : List (Nat × Nat × List Byte)) (cache : Nat) (hK : Keeps b0 s) :
    Keeps b0 (storeGlobal s t g all cache) := by
  unfold storeGlobal
  repeat' first
    | with_reducible assumption
    | (extract_lets +onlyGivenNames z; first | ((first | refine Keeps.cut (p := Keeps b0 z) ?_ ?_ | refine Keeps.cut (p := Keeps b0 z.2) ?_ ?_ | refine Keeps.cut (p := Keeps b0 z.2.2) ?_ ?_ | refine Keeps.cut (p := Keeps b0 z.1) ?_ ?_ | refine Keeps.cut (p := Keeps b0 z.s) ?_ ?_ | refine Keeps.cut (p := Keeps b0 z.2.s) ?_ ?_ | refine Keeps.cut (p := Keeps b0 z.2.2.s) ?_ ?_); (focus (intros; dsimp only [z]; (repeat' first | (simp (maxDischargeDepth := 99) only [KIss.hold, KIss.done, KIss.fault, KIss.wait, Keeps.upd, Keeps.updId, Keeps.ite, Keeps.foldl, Keeps.foldl2, Keeps.foldl3, Keeps.refl, implies_true, keeps_grtWrite, keeps_setTile, keeps_setGroup, keeps_imprecise, keeps_toDcc, keeps_freshId, keeps_drainEntry, keeps_mergeStore, keeps_l1Miss, *]; done) | with_reducible apply Keeps.fold1 | with_reducible apply Keeps.fold2 | with_reducible apply Keeps.fold3 | with_reducible apply Keeps.fold21 | intro _ | split | dsimp only))); intro hz; clear_value z) | clear_value z | skip)
    | (simp (maxDischargeDepth := 99) only [KIss.hold, KIss.done, KIss.fault, KIss.wait, Keeps.upd, Keeps.updId, Keeps.ite, Keeps.foldl, Keeps.foldl2, Keeps.foldl3, Keeps.refl, implies_true, keeps_grtWrite, keeps_setTile, keeps_setGroup, keeps_imprecise, keeps_toDcc, keeps_freshId, keeps_drainEntry, keeps_mergeStore, keeps_l1Miss, *]; done)
    | with_reducible apply Keeps.fold1
    | with_reducible apply Keeps.fold2
    | with_reducible apply Keeps.fold3
    | with_reducible apply Keeps.fold21
    | intro _
    | (split <;> (try (rename_i heq; (first | refine Keeps.cut (Keeps.of_eq (b := b0) heq ?_) ?_ | refine Keeps.cut (Keeps.of_eq3 (b := b0) heq ?_) ?_ | refine Keeps.cut (Keeps.of_eq1 (b := b0) heq ?_) ?_ | refine Keeps.cut (Keeps.of_eq4 (b := b0) heq ?_) ?_); (focus (clear heq; (repeat' first | (simp (maxDischargeDepth := 99) only [KIss.hold, KIss.done, KIss.fault, KIss.wait, Keeps.upd, Keeps.updId, Keeps.ite, Keeps.foldl, Keeps.foldl2, Keeps.foldl3, Keeps.refl, implies_true, keeps_grtWrite, keeps_setTile, keeps_setGroup, keeps_imprecise, keeps_toDcc, keeps_freshId, keeps_drainEntry, keeps_mergeStore, keeps_l1Miss, *]; done) | with_reducible apply Keeps.fold1 | with_reducible apply Keeps.fold2 | with_reducible apply Keeps.fold3 | with_reducible apply Keeps.fold21 | intro _ | split | dsimp only))); intro hz; (try dsimp only at hz); clear heq)))

theorem keeps_atomGlobal {b0 : State} {s : State} (t : Nat) (g : Nat) (dst : Nat) (aop : Nat) (ty : Nat) (all : List (Nat × Nat × W64 × W64)) (hK : Keeps b0 s) :
    Keeps b0 (atomGlobal s t g dst aop ty all) := by
  unfold atomGlobal
  repeat' first
    | with_reducible assumption
    | (extract_lets +onlyGivenNames z; first | ((first | refine Keeps.cut (p := Keeps b0 z) ?_ ?_ | refine Keeps.cut (p := Keeps b0 z.2) ?_ ?_ | refine Keeps.cut (p := Keeps b0 z.2.2) ?_ ?_ | refine Keeps.cut (p := Keeps b0 z.1) ?_ ?_ | refine Keeps.cut (p := Keeps b0 z.s) ?_ ?_ | refine Keeps.cut (p := Keeps b0 z.2.s) ?_ ?_ | refine Keeps.cut (p := Keeps b0 z.2.2.s) ?_ ?_); (focus (intros; dsimp only [z]; (repeat' first | (simp (maxDischargeDepth := 99) only [KIss.hold, KIss.done, KIss.fault, KIss.wait, Keeps.upd, Keeps.updId, Keeps.ite, Keeps.foldl, Keeps.foldl2, Keeps.foldl3, Keeps.refl, implies_true, keeps_drawList, keeps_grtAtomic, keeps_setTile, keeps_setGroup, keeps_imprecise, keeps_pendFail, keeps_pendAtomic, keeps_l1Drop, keeps_toDcc, keeps_freshId, keeps_drainEntry, keeps_l1Miss, *]; done) | with_reducible apply Keeps.fold1 | with_reducible apply Keeps.fold2 | with_reducible apply Keeps.fold3 | with_reducible apply Keeps.fold21 | intro _ | split | dsimp only))); intro hz; clear_value z) | clear_value z | skip)
    | (simp (maxDischargeDepth := 99) only [KIss.hold, KIss.done, KIss.fault, KIss.wait, Keeps.upd, Keeps.updId, Keeps.ite, Keeps.foldl, Keeps.foldl2, Keeps.foldl3, Keeps.refl, implies_true, keeps_drawList, keeps_grtAtomic, keeps_setTile, keeps_setGroup, keeps_imprecise, keeps_pendFail, keeps_pendAtomic, keeps_l1Drop, keeps_toDcc, keeps_freshId, keeps_drainEntry, keeps_l1Miss, *]; done)
    | with_reducible apply Keeps.fold1
    | with_reducible apply Keeps.fold2
    | with_reducible apply Keeps.fold3
    | with_reducible apply Keeps.fold21
    | intro _
    | (split <;> (try (rename_i heq; (first | refine Keeps.cut (Keeps.of_eq (b := b0) heq ?_) ?_ | refine Keeps.cut (Keeps.of_eq3 (b := b0) heq ?_) ?_ | refine Keeps.cut (Keeps.of_eq1 (b := b0) heq ?_) ?_ | refine Keeps.cut (Keeps.of_eq4 (b := b0) heq ?_) ?_); (focus (clear heq; (repeat' first | (simp (maxDischargeDepth := 99) only [KIss.hold, KIss.done, KIss.fault, KIss.wait, Keeps.upd, Keeps.updId, Keeps.ite, Keeps.foldl, Keeps.foldl2, Keeps.foldl3, Keeps.refl, implies_true, keeps_drawList, keeps_grtAtomic, keeps_setTile, keeps_setGroup, keeps_imprecise, keeps_pendFail, keeps_pendAtomic, keeps_l1Drop, keeps_toDcc, keeps_freshId, keeps_drainEntry, keeps_l1Miss, *]; done) | with_reducible apply Keeps.fold1 | with_reducible apply Keeps.fold2 | with_reducible apply Keeps.fold3 | with_reducible apply Keeps.fold21 | intro _ | split | dsimp only))); intro hz; (try dsimp only at hz); clear heq)))

theorem keeps_prefetchGlobal {b0 : State} {s : State} (t : Nat) (g : Nat) (line : Nat) (cache : Nat) (hK : Keeps b0 s) :
    Keeps b0 (prefetchGlobal s t g line cache) := by
  unfold prefetchGlobal; simp (maxDischargeDepth := 99) only [KIss.hold, KIss.done, KIss.fault, KIss.wait, Keeps.upd,
        Keeps.updId, Keeps.ite, Keeps.foldl, Keeps.foldl2, Keeps.foldl3, Keeps.refl, implies_true, keeps_setTile,
        keeps_toDcc, keeps_l1Miss, *]

theorem keeps_execMergeEntryIdleDrain {b0 : State} (t : TileId) (line : Nat) {s : State} (hK : Keeps b0 s) :
    ∀ u, execMergeEntryIdleDrain t line s = .next u → Keeps b0 u := by
  unfold execMergeEntryIdleDrain; intro t ht; injection ht with ht; subst ht; simp (maxDischargeDepth := 99) only [KIss.hold,
         KIss.done, KIss.fault, KIss.wait, Keeps.upd, Keeps.updId, Keeps.ite, Keeps.foldl, Keeps.foldl2, Keeps.foldl3,
        Keeps.refl, implies_true, keeps_drainEntry, *]

theorem keeps_execL1Inv {b0 : State} (a : Agent) (t : TileId) (v : W64) {s : State} (hK : Keeps b0 s) :
    ∀ u, execL1Inv a t v s = .next u → Keeps b0 u := by
  unfold execL1Inv; intro t ht; injection ht with ht; subst ht; simp (maxDischargeDepth := 99) only [KIss.hold, KIss.done,
        KIss.fault, KIss.wait, Keeps.upd, Keeps.updId, Keeps.ite, Keeps.foldl, Keeps.foldl2, Keeps.foldl3, Keeps.refl,
        implies_true, keeps_l1cCtlWrite, *]

theorem keeps_execL1cCtlEnableWrite {b0 : State} (a : Agent) (t : TileId) (v : W64) {s : State} (hK : Keeps b0 s) :
    ∀ u, execL1cCtlEnableWrite a t v s = .next u → Keeps b0 u := by
  unfold execL1cCtlEnableWrite; intro t ht; injection ht with ht; subst ht; simp (maxDischargeDepth := 99) only [KIss.hold,
        KIss.done, KIss.fault, KIss.wait, Keeps.upd, Keeps.updId, Keeps.ite, Keeps.foldl, Keeps.foldl2, Keeps.foldl3,
        Keeps.refl, implies_true, keeps_l1cCtlWrite, *]

theorem keeps_execL1FillArrive {b0 : State} (t : TileId) (line : Nat) {s : State} (hK : Keeps b0 s) :
    ∀ u, execL1FillArrive t line s = .next u → Keeps b0 u := by
  unfold execL1FillArrive; intro t ht; injection ht with ht; subst ht; simp (maxDischargeDepth := 99) only [KIss.hold,
        KIss.done, KIss.fault, KIss.wait, Keeps.upd, Keeps.updId, Keeps.ite, Keeps.foldl, Keeps.foldl2, Keeps.foldl3,
        Keeps.refl, implies_true, keeps_l1FillArrive, *]

theorem keeps_issue {b0 : State} {s : State} (t g : Nat) (check : Nat → Nat) (touch : List Nat × List Nat)
    (f : State → Group → Issue) (hf : ∀ y gr, Keeps b0 y → KIss b0 (f y gr)) (hK : Keeps b0 s) :
    ∀ u, issue s t g check touch f = .next u → Keeps b0 u := by
  unfold issue
  intro u hu
  injection hu with hu
  subst hu
  split
  · exact hK
  · rename_i gr s' he
    have hs : Keeps b0 s' := keeps_ready _ _ hK _ he
    extract_lets code
    split
    · exact keeps_preciseFault _ _ _ hs
    · split
      · exact hK
      · have h := hf s' gr hs
        split <;> rename_i hq <;> rw [hq] at h
        · exact keeps_preciseFault _ _ _ hs
        · exact hK
        · exact h
        · exact keeps_setGroup _ _ _ h

theorem keeps_laneOp {b0 : State} (f : Form) (iform : Bool) (bad : Bool) (op : Nat → Nat → Nat → Nat → Nat → Nat) (t : Nat) (g : Nat) (w : Nat) {s : State} (hK : Keeps b0 s) :
    ∀ u, laneOp f iform bad op t g w s = .next u → Keeps b0 u := by
  unfold laneOp
  repeat' first
    | with_reducible assumption
    | with_reducible apply keeps_issue
    | refine fun (y : State) (gr : Group) (hy : Keeps b0 y) => ?_
    | (simp (maxDischargeDepth := 99) only [KIss.hold, KIss.done, KIss.fault, KIss.wait, Keeps.upd, Keeps.updId, Keeps.ite, Keeps.foldl, Keeps.foldl2, Keeps.foldl3, Keeps.refl, implies_true, *]; done)
    | (intro t ht; injection ht with ht; subst ht)
    | (intro t ht; contradiction)
    | (split <;> (try (rename_i heq; (first | refine Keeps.cut (Keeps.of_eq (b := b0) heq ?_) ?_ | refine Keeps.cut (Keeps.of_eq3 (b := b0) heq ?_) ?_ | refine Keeps.cut (Keeps.of_eq1 (b := b0) heq ?_) ?_ | refine Keeps.cut (Keeps.of_eq4 (b := b0) heq ?_) ?_); (focus (clear heq; (repeat' first | (simp (maxDischargeDepth := 99) only [KIss.hold, KIss.done, KIss.fault, KIss.wait, Keeps.upd, Keeps.updId, Keeps.ite, Keeps.foldl, Keeps.foldl2, Keeps.foldl3, Keeps.refl, implies_true, *]; done) | with_reducible apply Keeps.fold1 | with_reducible apply Keeps.fold2 | with_reducible apply Keeps.fold3 | with_reducible apply Keeps.fold21 | intro _ | split | dsimp only))); intro hz; (try dsimp only at hz); clear heq)))
    | intro _

theorem keeps_execNop {b0 : State} (t : TileId) (g : Slot) (w : BitVec 56) {s : State} (hK : Keeps b0 s) :
    ∀ u, execNop t g w s = .next u → Keeps b0 u := by
  unfold execNop
  repeat' first
    | with_reducible assumption
    | with_reducible apply keeps_issue
    | refine fun (y : State) (gr : Group) (hy : Keeps b0 y) => ?_
    | (simp (maxDischargeDepth := 99) only [KIss.hold, KIss.done, KIss.fault, KIss.wait, Keeps.upd, Keeps.updId, Keeps.ite, Keeps.foldl, Keeps.foldl2, Keeps.foldl3, Keeps.refl, implies_true, *]; done)
    | (intro t ht; injection ht with ht; subst ht)
    | (intro t ht; contradiction)
    | (split <;> (try (rename_i heq; (first | refine Keeps.cut (Keeps.of_eq (b := b0) heq ?_) ?_ | refine Keeps.cut (Keeps.of_eq3 (b := b0) heq ?_) ?_ | refine Keeps.cut (Keeps.of_eq1 (b := b0) heq ?_) ?_ | refine Keeps.cut (Keeps.of_eq4 (b := b0) heq ?_) ?_); (focus (clear heq; (repeat' first | (simp (maxDischargeDepth := 99) only [KIss.hold, KIss.done, KIss.fault, KIss.wait, Keeps.upd, Keeps.updId, Keeps.ite, Keeps.foldl, Keeps.foldl2, Keeps.foldl3, Keeps.refl, implies_true, *]; done) | with_reducible apply Keeps.fold1 | with_reducible apply Keeps.fold2 | with_reducible apply Keeps.fold3 | with_reducible apply Keeps.fold21 | intro _ | split | dsimp only))); intro hz; (try dsimp only at hz); clear heq)))
    | intro _

theorem keeps_execMov {b0 : State} (t : TileId) (g : Slot) (w : BitVec 56) {s : State} (hK : Keeps b0 s) :
    ∀ u, execMov t g w s = .next u → Keeps b0 u := by
  unfold execMov; exact keeps_laneOp _ _ _ _ _ _ _ hK

theorem keeps_execMovi {b0 : State} (t : TileId) (g : Slot) (w : BitVec 56) {s : State} (hK : Keeps b0 s) :
    ∀ u, execMovi t g w s = .next u → Keeps b0 u := by
  unfold execMovi; exact keeps_laneOp _ _ _ _ _ _ _ hK

theorem keeps_execMovl {b0 : State} (t : TileId) (g : Slot) (w : BitVec 56) {s : State} (hK : Keeps b0 s) :
    ∀ u, execMovl t g w s = .next u → Keeps b0 u := by
  unfold execMovl; exact keeps_laneOp _ _ _ _ _ _ _ hK

theorem keeps_execAdd {b0 : State} (iform : Bool) (t : TileId) (g : Slot) (w : BitVec 56) {s : State} (hK : Keeps b0 s) :
    ∀ u, execAdd iform t g w s = .next u → Keeps b0 u := by
  unfold execAdd; exact keeps_laneOp _ _ _ _ _ _ _ hK

theorem keeps_execSub {b0 : State} (iform : Bool) (t : TileId) (g : Slot) (w : BitVec 56) {s : State} (hK : Keeps b0 s) :
    ∀ u, execSub iform t g w s = .next u → Keeps b0 u := by
  unfold execSub; exact keeps_laneOp _ _ _ _ _ _ _ hK

theorem keeps_execMulLo {b0 : State} (iform : Bool) (t : TileId) (g : Slot) (w : BitVec 56) {s : State} (hK : Keeps b0 s) :
    ∀ u, execMulLo iform t g w s = .next u → Keeps b0 u := by
  unfold execMulLo; exact keeps_laneOp _ _ _ _ _ _ _ hK

theorem keeps_execMulHi {b0 : State} (t : TileId) (g : Slot) (w : BitVec 56) {s : State} (hK : Keeps b0 s) :
    ∀ u, execMulHi t g w s = .next u → Keeps b0 u := by
  unfold execMulHi; exact keeps_laneOp _ _ _ _ _ _ _ hK

theorem keeps_execMad {b0 : State} (t : TileId) (g : Slot) (w : BitVec 56) {s : State} (hK : Keeps b0 s) :
    ∀ u, execMad t g w s = .next u → Keeps b0 u := by
  unfold execMad; exact keeps_laneOp _ _ _ _ _ _ _ hK

theorem keeps_execMin {b0 : State} (iform : Bool) (t : TileId) (g : Slot) (w : BitVec 56) {s : State} (hK : Keeps b0 s) :
    ∀ u, execMin iform t g w s = .next u → Keeps b0 u := by
  unfold execMin; exact keeps_laneOp _ _ _ _ _ _ _ hK

theorem keeps_execMax {b0 : State} (iform : Bool) (t : TileId) (g : Slot) (w : BitVec 56) {s : State} (hK : Keeps b0 s) :
    ∀ u, execMax iform t g w s = .next u → Keeps b0 u := by
  unfold execMax; exact keeps_laneOp _ _ _ _ _ _ _ hK

theorem keeps_execAnd {b0 : State} (iform : Bool) (t : TileId) (g : Slot) (w : BitVec 56) {s : State} (hK : Keeps b0 s) :
    ∀ u, execAnd iform t g w s = .next u → Keeps b0 u := by
  unfold execAnd; exact keeps_laneOp _ _ _ _ _ _ _ hK

theorem keeps_execOr {b0 : State} (iform : Bool) (t : TileId) (g : Slot) (w : BitVec 56) {s : State} (hK : Keeps b0 s) :
    ∀ u, execOr iform t g w s = .next u → Keeps b0 u := by
  unfold execOr; exact keeps_laneOp _ _ _ _ _ _ _ hK

theorem keeps_execXor {b0 : State} (iform : Bool) (t : TileId) (g : Slot) (w : BitVec 56) {s : State} (hK : Keeps b0 s) :
    ∀ u, execXor iform t g w s = .next u → Keeps b0 u := by
  unfold execXor; exact keeps_laneOp _ _ _ _ _ _ _ hK

theorem keeps_execNot {b0 : State} (iform : Bool) (t : TileId) (g : Slot) (w : BitVec 56) {s : State} (hK : Keeps b0 s) :
    ∀ u, execNot iform t g w s = .next u → Keeps b0 u := by
  unfold execNot
  repeat' first
    | with_reducible assumption
    | with_reducible apply keeps_laneOp
    | (extract_lets +onlyGivenNames z; first | ((first | refine Keeps.cut (p := Keeps b0 z) ?_ ?_ | refine Keeps.cut (p := Keeps b0 z.2) ?_ ?_ | refine Keeps.cut (p := Keeps b0 z.2.2) ?_ ?_ | refine Keeps.cut (p := Keeps b0 z.1) ?_ ?_ | refine Keeps.cut (p := Keeps b0 z.s) ?_ ?_ | refine Keeps.cut (p := Keeps b0 z.2.s) ?_ ?_ | refine Keeps.cut (p := Keeps b0 z.2.2.s) ?_ ?_ | refine Keeps.cut (p := ∀ b y a, Keeps b y → Keeps b (z y a)) ?_ ?_ | refine Keeps.cut (p := ∀ b a y, Keeps b y → Keeps b (z a y)) ?_ ?_ | refine Keeps.cut (p := ∀ b y, Keeps b y → Keeps b (z y)) ?_ ?_ | refine Keeps.cut (p := ∀ b y a c, Keeps b y → Keeps b (z y a c)) ?_ ?_ | refine Keeps.cut (p := ∀ b y, Keeps b y → Keeps b (z y).2) ?_ ?_ | refine Keeps.cut (p := ∀ b y a, Keeps b y → Keeps b (z y a).2) ?_ ?_ | refine Keeps.cut (p := ∀ b y, Keeps b y → Keeps b (z y).2.2) ?_ ?_ | refine Keeps.cut (p := ∀ a, Keeps b0 (z a)) ?_ ?_ | refine Keeps.cut (p := ∀ a c, Keeps b0 (z a c)) ?_ ?_ | refine Keeps.cut (p := ∀ a, Keeps b0 (z a).2) ?_ ?_ | refine Keeps.cut (p := ∀ a c d, Keeps b0 (z a c d)) ?_ ?_ | refine Keeps.cut (p := ∀ a, Keeps b0 (z a).2.2) ?_ ?_); (focus (intros; dsimp only [z]; (repeat' first | (simp (maxDischargeDepth := 99) only [KIss.hold, KIss.done, KIss.fault, KIss.wait, Keeps.upd, Keeps.updId, Keeps.ite, Keeps.foldl, Keeps.foldl2, Keeps.foldl3, Keeps.refl, implies_true, *]; done) | with_reducible apply Keeps.fold1 | with_reducible apply Keeps.fold2 | with_reducible apply Keeps.fold3 | with_reducible apply Keeps.fold21 | intro _ | split | dsimp only))); intro hz; clear_value z) | clear_value z | skip)
    | (simp (maxDischargeDepth := 99) only [KIss.hold, KIss.done, KIss.fault, KIss.wait, Keeps.upd, Keeps.updId, Keeps.ite, Keeps.foldl, Keeps.foldl2, Keeps.foldl3, Keeps.refl, implies_true, *]; done)
    | (intro t ht; injection ht with ht; subst ht)
    | (intro t ht; contradiction)
    | with_reducible apply Keeps.fold1
    | with_reducible apply Keeps.fold2
    | with_reducible apply Keeps.fold3
    | with_reducible apply Keeps.fold21
    | (split <;> (try (rename_i heq; (first | refine Keeps.cut (Keeps.of_eq (b := b0) heq ?_) ?_ | refine Keeps.cut (Keeps.of_eq3 (b := b0) heq ?_) ?_ | refine Keeps.cut (Keeps.of_eq1 (b := b0) heq ?_) ?_ | refine Keeps.cut (Keeps.of_eq4 (b := b0) heq ?_) ?_); (focus (clear heq; (repeat' first | (simp (maxDischargeDepth := 99) only [KIss.hold, KIss.done, KIss.fault, KIss.wait, Keeps.upd, Keeps.updId, Keeps.ite, Keeps.foldl, Keeps.foldl2, Keeps.foldl3, Keeps.refl, implies_true, *]; done) | with_reducible apply Keeps.fold1 | with_reducible apply Keeps.fold2 | with_reducible apply Keeps.fold3 | with_reducible apply Keeps.fold21 | intro _ | split | dsimp only))); intro hz; (try dsimp only at hz); clear heq)))
    | intro _

theorem keeps_execShl {b0 : State} (iform : Bool) (t : TileId) (g : Slot) (w : BitVec 56) {s : State} (hK : Keeps b0 s) :
    ∀ u, execShl iform t g w s = .next u → Keeps b0 u := by
  unfold execShl; exact keeps_laneOp _ _ _ _ _ _ _ hK

theorem keeps_execShr {b0 : State} (iform : Bool) (t : TileId) (g : Slot) (w : BitVec 56) {s : State} (hK : Keeps b0 s) :
    ∀ u, execShr iform t g w s = .next u → Keeps b0 u := by
  unfold execShr; exact keeps_laneOp _ _ _ _ _ _ _ hK

theorem keeps_execSra {b0 : State} (iform : Bool) (t : TileId) (g : Slot) (w : BitVec 56) {s : State} (hK : Keeps b0 s) :
    ∀ u, execSra iform t g w s = .next u → Keeps b0 u := by
  unfold execSra; exact keeps_laneOp _ _ _ _ _ _ _ hK

theorem keeps_execPopc {b0 : State} (t : TileId) (g : Slot) (w : BitVec 56) {s : State} (hK : Keeps b0 s) :
    ∀ u, execPopc t g w s = .next u → Keeps b0 u := by
  unfold execPopc; exact keeps_laneOp _ _ _ _ _ _ _ hK

theorem keeps_execClz {b0 : State} (t : TileId) (g : Slot) (w : BitVec 56) {s : State} (hK : Keeps b0 s) :
    ∀ u, execClz t g w s = .next u → Keeps b0 u := by
  unfold execClz; exact keeps_laneOp _ _ _ _ _ _ _ hK

theorem keeps_execBrev {b0 : State} (t : TileId) (g : Slot) (w : BitVec 56) {s : State} (hK : Keeps b0 s) :
    ∀ u, execBrev t g w s = .next u → Keeps b0 u := by
  unfold execBrev; exact keeps_laneOp _ _ _ _ _ _ _ hK

theorem keeps_execBfe {b0 : State} (t : TileId) (g : Slot) (w : BitVec 56) {s : State} (hK : Keeps b0 s) :
    ∀ u, execBfe t g w s = .next u → Keeps b0 u := by
  unfold execBfe; exact keeps_laneOp _ _ _ _ _ _ _ hK

theorem keeps_execBfi {b0 : State} (t : TileId) (g : Slot) (w : BitVec 56) {s : State} (hK : Keeps b0 s) :
    ∀ u, execBfi t g w s = .next u → Keeps b0 u := by
  unfold execBfi; exact keeps_laneOp _ _ _ _ _ _ _ hK

theorem keeps_execPcmp {b0 : State} (rel : Option (Fin 8)) (t : TileId) (g : Slot) (w : BitVec 56) {s : State} (hK : Keeps b0 s) :
    ∀ u, execPcmp rel t g w s = .next u → Keeps b0 u := by
  unfold execPcmp; exact keeps_laneOp _ _ _ _ _ _ _ hK

theorem keeps_execSel {b0 : State} (t : TileId) (g : Slot) (w : BitVec 56) {s : State} (hK : Keeps b0 s) :
    ∀ u, execSel t g w s = .next u → Keeps b0 u := by
  unfold execSel; exact keeps_laneOp _ _ _ _ _ _ _ hK

theorem keeps_execPlog {b0 : State} (t : TileId) (g : Slot) (w : BitVec 56) {s : State} (hK : Keeps b0 s) :
    ∀ u, execPlog t g w s = .next u → Keeps b0 u := by
  unfold execPlog; exact keeps_laneOp _ _ _ _ _ _ _ hK

theorem keeps_execFadd {b0 : State} (iform : Bool) (t : TileId) (g : Slot) (w : BitVec 56) {s : State} (hK : Keeps b0 s) :
    ∀ u, execFadd iform t g w s = .next u → Keeps b0 u := by
  unfold execFadd; exact keeps_laneOp _ _ _ _ _ _ _ hK

theorem keeps_execFsub {b0 : State} (iform : Bool) (t : TileId) (g : Slot) (w : BitVec 56) {s : State} (hK : Keeps b0 s) :
    ∀ u, execFsub iform t g w s = .next u → Keeps b0 u := by
  unfold execFsub; exact keeps_laneOp _ _ _ _ _ _ _ hK

theorem keeps_execFmul {b0 : State} (iform : Bool) (t : TileId) (g : Slot) (w : BitVec 56) {s : State} (hK : Keeps b0 s) :
    ∀ u, execFmul iform t g w s = .next u → Keeps b0 u := by
  unfold execFmul; exact keeps_laneOp _ _ _ _ _ _ _ hK

theorem keeps_execFma {b0 : State} (iform : Bool) (t : TileId) (g : Slot) (w : BitVec 56) {s : State} (hK : Keeps b0 s) :
    ∀ u, execFma iform t g w s = .next u → Keeps b0 u := by
  unfold execFma; exact keeps_laneOp _ _ _ _ _ _ _ hK

theorem keeps_execFmin {b0 : State} (t : TileId) (g : Slot) (w : BitVec 56) {s : State} (hK : Keeps b0 s) :
    ∀ u, execFmin t g w s = .next u → Keeps b0 u := by
  unfold execFmin; exact keeps_laneOp _ _ _ _ _ _ _ hK

theorem keeps_execFmax {b0 : State} (t : TileId) (g : Slot) (w : BitVec 56) {s : State} (hK : Keeps b0 s) :
    ∀ u, execFmax t g w s = .next u → Keeps b0 u := by
  unfold execFmax; exact keeps_laneOp _ _ _ _ _ _ _ hK

theorem keeps_execRcp {b0 : State} (t : TileId) (g : Slot) (w : BitVec 56) {s : State} (hK : Keeps b0 s) :
    ∀ u, execRcp t g w s = .next u → Keeps b0 u := by
  unfold execRcp; exact keeps_laneOp _ _ _ _ _ _ _ hK

theorem keeps_execRsqrt {b0 : State} (t : TileId) (g : Slot) (w : BitVec 56) {s : State} (hK : Keeps b0 s) :
    ∀ u, execRsqrt t g w s = .next u → Keeps b0 u := by
  unfold execRsqrt; exact keeps_laneOp _ _ _ _ _ _ _ hK

theorem keeps_execSqrt {b0 : State} (t : TileId) (g : Slot) (w : BitVec 56) {s : State} (hK : Keeps b0 s) :
    ∀ u, execSqrt t g w s = .next u → Keeps b0 u := by
  unfold execSqrt; exact keeps_laneOp _ _ _ _ _ _ _ hK

theorem keeps_execExp2 {b0 : State} (t : TileId) (g : Slot) (w : BitVec 56) {s : State} (hK : Keeps b0 s) :
    ∀ u, execExp2 t g w s = .next u → Keeps b0 u := by
  unfold execExp2; exact keeps_laneOp _ _ _ _ _ _ _ hK

theorem keeps_execLog2 {b0 : State} (t : TileId) (g : Slot) (w : BitVec 56) {s : State} (hK : Keeps b0 s) :
    ∀ u, execLog2 t g w s = .next u → Keeps b0 u := by
  unfold execLog2; exact keeps_laneOp _ _ _ _ _ _ _ hK

theorem keeps_execSin {b0 : State} (t : TileId) (g : Slot) (w : BitVec 56) {s : State} (hK : Keeps b0 s) :
    ∀ u, execSin t g w s = .next u → Keeps b0 u := by
  unfold execSin; exact keeps_laneOp _ _ _ _ _ _ _ hK

theorem keeps_execCos {b0 : State} (t : TileId) (g : Slot) (w : BitVec 56) {s : State} (hK : Keeps b0 s) :
    ∀ u, execCos t g w s = .next u → Keeps b0 u := by
  unfold execCos; exact keeps_laneOp _ _ _ _ _ _ _ hK

theorem keeps_execCvt {b0 : State} (t : TileId) (g : Slot) (w : BitVec 56) {s : State} (hK : Keeps b0 s) :
    ∀ u, execCvt t g w s = .next u → Keeps b0 u := by
  unfold execCvt; exact keeps_laneOp _ _ _ _ _ _ _ hK

theorem keeps_execVote {b0 : State} (t : TileId) (g : Slot) (w : BitVec 56) {s : State} (hK : Keeps b0 s) :
    ∀ u, execVote t g w s = .next u → Keeps b0 u := by
  unfold execVote
  repeat' first
    | with_reducible assumption
    | with_reducible apply keeps_issue
    | refine fun (y : State) (gr : Group) (hy : Keeps b0 y) => ?_
    | (simp (maxDischargeDepth := 99) only [KIss.hold, KIss.done, KIss.fault, KIss.wait, Keeps.upd, Keeps.updId, Keeps.ite, Keeps.foldl, Keeps.foldl2, Keeps.foldl3, Keeps.refl, implies_true, *]; done)
    | (intro t ht; injection ht with ht; subst ht)
    | (intro t ht; contradiction)
    | (split <;> (try (rename_i heq; (first | refine Keeps.cut (Keeps.of_eq (b := b0) heq ?_) ?_ | refine Keeps.cut (Keeps.of_eq3 (b := b0) heq ?_) ?_ | refine Keeps.cut (Keeps.of_eq1 (b := b0) heq ?_) ?_ | refine Keeps.cut (Keeps.of_eq4 (b := b0) heq ?_) ?_); (focus (clear heq; (repeat' first | (simp (maxDischargeDepth := 99) only [KIss.hold, KIss.done, KIss.fault, KIss.wait, Keeps.upd, Keeps.updId, Keeps.ite, Keeps.foldl, Keeps.foldl2, Keeps.foldl3, Keeps.refl, implies_true, *]; done) | with_reducible apply Keeps.fold1 | with_reducible apply Keeps.fold2 | with_reducible apply Keeps.fold3 | with_reducible apply Keeps.fold21 | intro _ | split | dsimp only))); intro hz; (try dsimp only at hz); clear heq)))
    | intro _

theorem keeps_execShfl {b0 : State} (iform : Bool) (t : TileId) (g : Slot) (w : BitVec 56) {s : State} (hK : Keeps b0 s) :
    ∀ u, execShfl iform t g w s = .next u → Keeps b0 u := by
  unfold execShfl
  repeat' first
    | with_reducible assumption
    | with_reducible apply keeps_issue
    | refine fun (y : State) (gr : Group) (hy : Keeps b0 y) => ?_
    | (simp (maxDischargeDepth := 99) only [KIss.hold, KIss.done, KIss.fault, KIss.wait, Keeps.upd, Keeps.updId, Keeps.ite, Keeps.foldl, Keeps.foldl2, Keeps.foldl3, Keeps.refl, implies_true, *]; done)
    | (intro t ht; injection ht with ht; subst ht)
    | (intro t ht; contradiction)
    | (split <;> (try (rename_i heq; (first | refine Keeps.cut (Keeps.of_eq (b := b0) heq ?_) ?_ | refine Keeps.cut (Keeps.of_eq3 (b := b0) heq ?_) ?_ | refine Keeps.cut (Keeps.of_eq1 (b := b0) heq ?_) ?_ | refine Keeps.cut (Keeps.of_eq4 (b := b0) heq ?_) ?_); (focus (clear heq; (repeat' first | (simp (maxDischargeDepth := 99) only [KIss.hold, KIss.done, KIss.fault, KIss.wait, Keeps.upd, Keeps.updId, Keeps.ite, Keeps.foldl, Keeps.foldl2, Keeps.foldl3, Keeps.refl, implies_true, *]; done) | with_reducible apply Keeps.fold1 | with_reducible apply Keeps.fold2 | with_reducible apply Keeps.fold3 | with_reducible apply Keeps.fold21 | intro _ | split | dsimp only))); intro hz; (try dsimp only at hz); clear heq)))
    | intro _

theorem keeps_execRdlane {b0 : State} (iform : Bool) (t : TileId) (g : Slot) (w : BitVec 56) {s : State} (hK : Keeps b0 s) :
    ∀ u, execRdlane iform t g w s = .next u → Keeps b0 u := by
  unfold execRdlane
  repeat' first
    | with_reducible assumption
    | with_reducible apply keeps_issue
    | refine fun (y : State) (gr : Group) (hy : Keeps b0 y) => ?_
    | (simp (maxDischargeDepth := 99) only [KIss.hold, KIss.done, KIss.fault, KIss.wait, Keeps.upd, Keeps.updId, Keeps.ite, Keeps.foldl, Keeps.foldl2, Keeps.foldl3, Keeps.refl, implies_true, *]; done)
    | (intro t ht; injection ht with ht; subst ht)
    | (intro t ht; contradiction)
    | (split <;> (try (rename_i heq; (first | refine Keeps.cut (Keeps.of_eq (b := b0) heq ?_) ?_ | refine Keeps.cut (Keeps.of_eq3 (b := b0) heq ?_) ?_ | refine Keeps.cut (Keeps.of_eq1 (b := b0) heq ?_) ?_ | refine Keeps.cut (Keeps.of_eq4 (b := b0) heq ?_) ?_); (focus (clear heq; (repeat' first | (simp (maxDischargeDepth := 99) only [KIss.hold, KIss.done, KIss.fault, KIss.wait, Keeps.upd, Keeps.updId, Keeps.ite, Keeps.foldl, Keeps.foldl2, Keeps.foldl3, Keeps.refl, implies_true, *]; done) | with_reducible apply Keeps.fold1 | with_reducible apply Keeps.fold2 | with_reducible apply Keeps.fold3 | with_reducible apply Keeps.fold21 | intro _ | split | dsimp only))); intro hz; (try dsimp only at hz); clear heq)))
    | intro _

theorem keeps_tileClock {b0 : State} {s : State} (t : Nat) (hK : Keeps b0 s) :
    Keeps b0 (tileClock s t).2 := by
  unfold tileClock; simp (maxDischargeDepth := 99) only [KIss.hold, KIss.done, KIss.fault, KIss.wait, Keeps.upd, Keeps.updId,
         Keeps.ite, Keeps.foldl, Keeps.foldl2, Keeps.foldl3, Keeps.refl, implies_true, keeps_drawFree, *]

theorem keeps_execRdsr {b0 : State} (t : TileId) (g : Slot) (w : BitVec 56) {s : State} (hK : Keeps b0 s) :
    ∀ u, execRdsr t g w s = .next u → Keeps b0 u := by
  unfold execRdsr
  repeat' first
    | with_reducible assumption
    | with_reducible apply keeps_issue
    | refine fun (y : State) (gr : Group) (hy : Keeps b0 y) => ?_
    | (simp (maxDischargeDepth := 99) only [KIss.hold, KIss.done, KIss.fault, KIss.wait, Keeps.upd, Keeps.updId, Keeps.ite, Keeps.foldl, Keeps.foldl2, Keeps.foldl3, Keeps.refl, implies_true, keeps_tileClock, *]; done)
    | (intro t ht; injection ht with ht; subst ht)
    | (intro t ht; contradiction)
    | (split <;> (try (rename_i heq; (first | refine Keeps.cut (Keeps.of_eq (b := b0) heq ?_) ?_ | refine Keeps.cut (Keeps.of_eq3 (b := b0) heq ?_) ?_ | refine Keeps.cut (Keeps.of_eq1 (b := b0) heq ?_) ?_ | refine Keeps.cut (Keeps.of_eq4 (b := b0) heq ?_) ?_); (focus (clear heq; (repeat' first | (simp (maxDischargeDepth := 99) only [KIss.hold, KIss.done, KIss.fault, KIss.wait, Keeps.upd, Keeps.updId, Keeps.ite, Keeps.foldl, Keeps.foldl2, Keeps.foldl3, Keeps.refl, implies_true, keeps_tileClock, *]; done) | with_reducible apply Keeps.fold1 | with_reducible apply Keeps.fold2 | with_reducible apply Keeps.fold3 | with_reducible apply Keeps.fold21 | intro _ | split | dsimp only))); intro hz; (try dsimp only at hz); clear heq)))
    | intro _

theorem keeps_mtxFault {b0 : State} {s : State} (t : Nat) (opc : Nat) (w : Nat) (hK : Keeps b0 s) :
    Keeps b0 (mtxFault s t opc w) := by
  unfold mtxFault; simp (maxDischargeDepth := 99) only [KIss.hold, KIss.done, KIss.fault, KIss.wait, Keeps.upd, Keeps.updId,
        Keeps.ite, Keeps.foldl, Keeps.foldl2, Keeps.foldl3, Keeps.refl, implies_true, keeps_rset, *]

theorem keeps_mtxIssue {b0 : State} (t g opc w : Nat) (check : Nat → Nat) (touch : List Nat × List Nat) {s : State}
    (f : State → Group → Issue) (hf : ∀ y gr, Keeps b0 y → KIss b0 (f y gr)) (hK : Keeps b0 s) :
    ∀ u, mtxIssue t g opc w check touch s f = .next u → Keeps b0 u := by
  unfold mtxIssue
  intro u hu
  injection hu with hu
  subst hu
  split
  · exact hK
  · rename_i gr s' he
    have hs : Keeps b0 s' := keeps_ready _ _ hK _ he
    extract_lets fail code
    have hfail : ∀ c, Keeps b0 (fail c) := fun c => keeps_preciseFault _ _ _ (keeps_mtxFault _ _ _ hs)
    split
    · exact hfail _
    · split
      · exact hK
      · have h := hf s' gr hs
        split <;> rename_i hq <;> rw [hq] at h
        · exact hfail _
        · exact hK
        · exact h
        · exact keeps_setGroup _ _ _ h

theorem keeps_mtxPut {b0 : State} {s : State} (t : Nat) (o : MtxOp) (hK : Keeps b0 s) :
    Keeps b0 (mtxPut s t o) := by
  unfold mtxPut; simp (maxDischargeDepth := 99) only [KIss.hold, KIss.done, KIss.fault, KIss.wait, Keeps.upd, Keeps.updId,
        Keeps.ite, Keeps.foldl, Keeps.foldl2, Keeps.foldl3, Keeps.refl, implies_true, keeps_drpAccIssue, keeps_setTile, *]

theorem keeps_execMma {b0 : State} (t : TileId) (g : Slot) (w : BitVec 56) {s : State} (hK : Keeps b0 s) :
    ∀ u, execMma t g w s = .next u → Keeps b0 u := by
  unfold execMma
  repeat' first
    | with_reducible assumption
    | with_reducible apply keeps_mtxIssue
    | refine fun (y : State) (gr : Group) (hy : Keeps b0 y) => ?_
    | (simp (maxDischargeDepth := 99) only [KIss.hold, KIss.done, KIss.fault, KIss.wait, Keeps.upd, Keeps.updId, Keeps.ite, Keeps.foldl, Keeps.foldl2, Keeps.foldl3, Keeps.refl, implies_true, keeps_mtxPut, *]; done)
    | (intro t ht; injection ht with ht; subst ht)
    | (intro t ht; contradiction)
    | (split <;> (try (rename_i heq; (first | refine Keeps.cut (Keeps.of_eq (b := b0) heq ?_) ?_ | refine Keeps.cut (Keeps.of_eq3 (b := b0) heq ?_) ?_ | refine Keeps.cut (Keeps.of_eq1 (b := b0) heq ?_) ?_ | refine Keeps.cut (Keeps.of_eq4 (b := b0) heq ?_) ?_); (focus (clear heq; (repeat' first | (simp (maxDischargeDepth := 99) only [KIss.hold, KIss.done, KIss.fault, KIss.wait, Keeps.upd, Keeps.updId, Keeps.ite, Keeps.foldl, Keeps.foldl2, Keeps.foldl3, Keeps.refl, implies_true, keeps_mtxPut, *]; done) | with_reducible apply Keeps.fold1 | with_reducible apply Keeps.fold2 | with_reducible apply Keeps.fold3 | with_reducible apply Keeps.fold21 | intro _ | split | dsimp only))); intro hz; (try dsimp only at hz); clear heq)))
    | intro _

theorem keeps_execMmas {b0 : State} (t : TileId) (g : Slot) (w : BitVec 56) {s : State} (hK : Keeps b0 s) :
    ∀ u, execMmas t g w s = .next u → Keeps b0 u := by
  unfold execMmas
  repeat' first
    | with_reducible assumption
    | with_reducible apply keeps_mtxIssue
    | refine fun (y : State) (gr : Group) (hy : Keeps b0 y) => ?_
    | (extract_lets +onlyGivenNames z; first | ((first | refine Keeps.cut (p := Keeps b0 z) ?_ ?_ | refine Keeps.cut (p := Keeps b0 z.2) ?_ ?_ | refine Keeps.cut (p := Keeps b0 z.2.2) ?_ ?_ | refine Keeps.cut (p := Keeps b0 z.1) ?_ ?_ | refine Keeps.cut (p := Keeps b0 z.s) ?_ ?_ | refine Keeps.cut (p := Keeps b0 z.2.s) ?_ ?_ | refine Keeps.cut (p := Keeps b0 z.2.2.s) ?_ ?_); (focus (intros; dsimp only [z]; (repeat' first | (simp (maxDischargeDepth := 99) only [KIss.hold, KIss.done, KIss.fault, KIss.wait, Keeps.upd, Keeps.updId, Keeps.ite, Keeps.foldl, Keeps.foldl2, Keeps.foldl3, Keeps.refl, implies_true, keeps_mtxPut, *]; done) | with_reducible apply Keeps.fold1 | with_reducible apply Keeps.fold2 | with_reducible apply Keeps.fold3 | with_reducible apply Keeps.fold21 | intro _ | split | dsimp only))); intro hz; clear_value z) | clear_value z | skip)
    | (simp (maxDischargeDepth := 99) only [KIss.hold, KIss.done, KIss.fault, KIss.wait, Keeps.upd, Keeps.updId, Keeps.ite, Keeps.foldl, Keeps.foldl2, Keeps.foldl3, Keeps.refl, implies_true, keeps_mtxPut, *]; done)
    | (intro t ht; injection ht with ht; subst ht)
    | (intro t ht; contradiction)
    | with_reducible apply Keeps.fold1
    | with_reducible apply Keeps.fold2
    | with_reducible apply Keeps.fold3
    | with_reducible apply Keeps.fold21
    | (split <;> (try (rename_i heq; (first | refine Keeps.cut (Keeps.of_eq (b := b0) heq ?_) ?_ | refine Keeps.cut (Keeps.of_eq3 (b := b0) heq ?_) ?_ | refine Keeps.cut (Keeps.of_eq1 (b := b0) heq ?_) ?_ | refine Keeps.cut (Keeps.of_eq4 (b := b0) heq ?_) ?_); (focus (clear heq; (repeat' first | (simp (maxDischargeDepth := 99) only [KIss.hold, KIss.done, KIss.fault, KIss.wait, Keeps.upd, Keeps.updId, Keeps.ite, Keeps.foldl, Keeps.foldl2, Keeps.foldl3, Keeps.refl, implies_true, keeps_mtxPut, *]; done) | with_reducible apply Keeps.fold1 | with_reducible apply Keeps.fold2 | with_reducible apply Keeps.fold3 | with_reducible apply Keeps.fold21 | intro _ | split | dsimp only))); intro hz; (try dsimp only at hz); clear heq)))
    | intro _

theorem keeps_mvIssue {b0 : State} (opc t g : Nat) (w : BitVec 56) {s : State} (f : State → Group → State)
    (hf : ∀ y gr, Keeps b0 y → Keeps b0 (f y gr)) (hK : Keeps b0 s) : ∀ u, mvIssue opc t g w s f = .next u → Keeps b0 u := by
  unfold mvIssue
  extract_lets n
  refine keeps_mtxIssue _ _ _ _ _ _ _ (fun y gr hy => ?_) hK
  split
  · exact KIss.wait
  · split
    · exact KIss.fault
    · split
      · exact KIss.fault
      · split
        · exact KIss.wait
        split
        · exact KIss.fault
        · extract_lets v
          have hz : Keeps b0 v := hf _ _ hy
          split
          · exact KIss.wait
          · exact KIss.done hz

theorem keeps_execMtxZero {b0 : State} (t : TileId) (g : Slot) (w : BitVec 56) {s : State} (hK : Keeps b0 s) :
    ∀ u, execMtxZero t g w s = .next u → Keeps b0 u :=
  keeps_mvIssue _ _ _ _ _ (fun _ _ h => keeps_mtxPut _ _ h) hK

theorem keeps_execMtxRd {b0 : State} (t : TileId) (g : Slot) (w : BitVec 56) {s : State} (hK : Keeps b0 s) :
    ∀ u, execMtxRd t g w s = .next u → Keeps b0 u := by
  unfold execMtxRd
  refine keeps_mvIssue _ _ _ _ _ (fun y gr hy => ?_) hK
  split
  rename_i id v hv
  have h1 := Keeps.of_eq hv (keeps_freshId hy)
  exact keeps_mtxPut _ _ (keeps_setGroup _ _ _ h1)

theorem keeps_execMtxWr {b0 : State} (t : TileId) (g : Slot) (w : BitVec 56) {s : State} (hK : Keeps b0 s) :
    ∀ u, execMtxWr t g w s = .next u → Keeps b0 u :=
  keeps_mvIssue _ _ _ _ _ (fun _ _ h => keeps_mtxPut _ _ h) hK

theorem keeps_execMtxWait {b0 : State} (t : TileId) (g : Slot) (w : BitVec 56) {s : State} (hK : Keeps b0 s) :
    ∀ u, execMtxWait t g w s = .next u → Keeps b0 u := by
  unfold execMtxWait
  repeat' first
    | with_reducible assumption
    | with_reducible apply keeps_mtxIssue
    | refine fun (y : State) (gr : Group) (hy : Keeps b0 y) => ?_
    | (extract_lets +onlyGivenNames z; first | ((first | refine Keeps.cut (p := Keeps b0 z) ?_ ?_ | refine Keeps.cut (p := Keeps b0 z.2) ?_ ?_ | refine Keeps.cut (p := Keeps b0 z.2.2) ?_ ?_ | refine Keeps.cut (p := Keeps b0 z.1) ?_ ?_ | refine Keeps.cut (p := Keeps b0 z.s) ?_ ?_ | refine Keeps.cut (p := Keeps b0 z.2.s) ?_ ?_ | refine Keeps.cut (p := Keeps b0 z.2.2.s) ?_ ?_); (focus (intros; dsimp only [z]; (repeat' first | (simp (maxDischargeDepth := 99) only [KIss.hold, KIss.done, KIss.fault, KIss.wait, Keeps.upd, Keeps.updId, Keeps.ite, Keeps.foldl, Keeps.foldl2, Keeps.foldl3, Keeps.refl, implies_true, keeps_setTile, *]; done) | with_reducible apply Keeps.fold1 | with_reducible apply Keeps.fold2 | with_reducible apply Keeps.fold3 | with_reducible apply Keeps.fold21 | intro _ | split | dsimp only))); intro hz; clear_value z) | clear_value z | skip)
    | (simp (maxDischargeDepth := 99) only [KIss.hold, KIss.done, KIss.fault, KIss.wait, Keeps.upd, Keeps.updId, Keeps.ite, Keeps.foldl, Keeps.foldl2, Keeps.foldl3, Keeps.refl, implies_true, keeps_setTile, *]; done)
    | (intro t ht; injection ht with ht; subst ht)
    | (intro t ht; contradiction)
    | with_reducible apply Keeps.fold1
    | with_reducible apply Keeps.fold2
    | with_reducible apply Keeps.fold3
    | with_reducible apply Keeps.fold21
    | (split <;> (try (rename_i heq; (first | refine Keeps.cut (Keeps.of_eq (b := b0) heq ?_) ?_ | refine Keeps.cut (Keeps.of_eq3 (b := b0) heq ?_) ?_ | refine Keeps.cut (Keeps.of_eq1 (b := b0) heq ?_) ?_ | refine Keeps.cut (Keeps.of_eq4 (b := b0) heq ?_) ?_); (focus (clear heq; (repeat' first | (simp (maxDischargeDepth := 99) only [KIss.hold, KIss.done, KIss.fault, KIss.wait, Keeps.upd, Keeps.updId, Keeps.ite, Keeps.foldl, Keeps.foldl2, Keeps.foldl3, Keeps.refl, implies_true, keeps_setTile, *]; done) | with_reducible apply Keeps.fold1 | with_reducible apply Keeps.fold2 | with_reducible apply Keeps.fold3 | with_reducible apply Keeps.fold21 | intro _ | split | dsimp only))); intro hz; (try dsimp only at hz); clear heq)))
    | intro _

theorem keeps_engStart {b0 : State} {s : State} (t : Nat) (e : Nat) (hK : Keeps b0 s) :
    Keeps b0 (engStart s t e) := by
  unfold engStart; simp (maxDischargeDepth := 99) only [KIss.hold, KIss.done, KIss.fault, KIss.wait, Keeps.upd, Keeps.updId,
        Keeps.ite, Keeps.foldl, Keeps.foldl2, Keeps.foldl3, Keeps.refl, implies_true, keeps_count, keeps_setTile, *]

theorem keeps_execMatrixEngineStart {b0 : State} (t : TileId) (e : Fin 4) {s : State} (hK : Keeps b0 s) :
    ∀ u, execMatrixEngineStart t e s = .next u → Keeps b0 u := by
  unfold execMatrixEngineStart; intro t ht; injection ht with ht; subst ht; simp (maxDischargeDepth := 99) only [KIss.hold,
        KIss.done, KIss.fault, KIss.wait, Keeps.upd, Keeps.updId, Keeps.ite, Keeps.foldl, Keeps.foldl2, Keeps.foldl3,
        Keeps.refl, implies_true, keeps_engStart, *]

theorem keeps_execPacedStart {b0 : State} (t : TileId) (e : Fin 4) {s : State} (hK : Keeps b0 s) :
    ∀ u, execPacedStart t e s = .next u → Keeps b0 u := by
  unfold execPacedStart; intro t ht; injection ht with ht; subst ht; simp (maxDischargeDepth := 99) only [KIss.hold,
        KIss.done, KIss.fault, KIss.wait, Keeps.upd, Keeps.updId, Keeps.ite, Keeps.foldl, Keeps.foldl2, Keeps.foldl3,
        Keeps.refl, implies_true, keeps_engStart, *]

theorem keeps_execEngineCold {b0 : State} (t : TileId) (e : Fin 4) {s : State} (hK : Keeps b0 s) :
    ∀ u, execEngineCold t e s = .next u → Keeps b0 u := by
  unfold execEngineCold; intro t ht; injection ht with ht; subst ht; simp (maxDischargeDepth := 99) only [KIss.hold,
        KIss.done, KIss.fault, KIss.wait, Keeps.upd, Keeps.updId, Keeps.ite, Keeps.foldl, Keeps.foldl2, Keeps.foldl3,
        Keeps.refl, implies_true, keeps_setTile, *]

theorem keeps_mtxFree {b0 : State} {s : State} (t : Nat) (ts : List Nat) (hK : Keeps b0 s) :
    Keeps b0 (mtxFree s t ts) := by
  unfold mtxFree; simp (maxDischargeDepth := 99) only [KIss.hold, KIss.done, KIss.fault, KIss.wait, Keeps.upd, Keeps.updId,
        Keeps.ite, Keeps.foldl, Keeps.foldl2, Keeps.foldl3, Keeps.refl, implies_true, keeps_drawFree, keeps_setTile, *]

theorem keeps_mmRun {b0 : State} {s : State} (t : Nat) (o : MtxOp) (hK : Keeps b0 s) :
    Keeps b0 (mmRun s t o) := by
  unfold mmRun; simp (maxDischargeDepth := 99) only [KIss.hold, KIss.done, KIss.fault, KIss.wait, Keeps.upd, Keeps.updId,
        Keeps.ite, Keeps.foldl, Keeps.foldl2, Keeps.foldl3, Keeps.refl, implies_true, keeps_setTile, *]

theorem keeps_mtxRun {b0 : State} {s : State} (t : Nat) (o : MtxOp) (hK : Keeps b0 s) :
    Keeps b0 (mtxRun s t o).2 := by
  unfold mtxRun
  repeat' first
    | with_reducible assumption
    | (extract_lets +onlyGivenNames z; first | ((first | refine Keeps.cut (p := Keeps b0 z) ?_ ?_ | refine Keeps.cut (p := Keeps b0 z.2) ?_ ?_ | refine Keeps.cut (p := Keeps b0 z.2.2) ?_ ?_ | refine Keeps.cut (p := Keeps b0 z.1) ?_ ?_ | refine Keeps.cut (p := Keeps b0 z.s) ?_ ?_ | refine Keeps.cut (p := Keeps b0 z.2.s) ?_ ?_ | refine Keeps.cut (p := Keeps b0 z.2.2.s) ?_ ?_); (focus (intros; dsimp only [z]; (repeat' first | (simp (maxDischargeDepth := 99) only [KIss.hold, KIss.done, KIss.fault, KIss.wait, Keeps.upd, Keeps.updId, Keeps.ite, Keeps.foldl, Keeps.foldl2, Keeps.foldl3, Keeps.refl, implies_true, keeps_count, keeps_setTile, keeps_setGroup, keeps_imprecise, keeps_mtxFree, keeps_mmRun, *]; done) | with_reducible apply Keeps.fold1 | with_reducible apply Keeps.fold2 | with_reducible apply Keeps.fold3 | with_reducible apply Keeps.fold21 | intro _ | split | dsimp only))); intro hz; clear_value z) | clear_value z | skip)
    | (simp (maxDischargeDepth := 99) only [KIss.hold, KIss.done, KIss.fault, KIss.wait, Keeps.upd, Keeps.updId, Keeps.ite, Keeps.foldl, Keeps.foldl2, Keeps.foldl3, Keeps.refl, implies_true, keeps_count, keeps_setTile, keeps_setGroup, keeps_imprecise, keeps_mtxFree, keeps_mmRun, *]; done)
    | with_reducible apply Keeps.fold1
    | with_reducible apply Keeps.fold2
    | with_reducible apply Keeps.fold3
    | with_reducible apply Keeps.fold21
    | intro _
    | (split <;> (try (rename_i heq; (first | refine Keeps.cut (Keeps.of_eq (b := b0) heq ?_) ?_ | refine Keeps.cut (Keeps.of_eq3 (b := b0) heq ?_) ?_ | refine Keeps.cut (Keeps.of_eq1 (b := b0) heq ?_) ?_ | refine Keeps.cut (Keeps.of_eq4 (b := b0) heq ?_) ?_); (focus (clear heq; (repeat' first | (simp (maxDischargeDepth := 99) only [KIss.hold, KIss.done, KIss.fault, KIss.wait, Keeps.upd, Keeps.updId, Keeps.ite, Keeps.foldl, Keeps.foldl2, Keeps.foldl3, Keeps.refl, implies_true, keeps_count, keeps_setTile, keeps_setGroup, keeps_imprecise, keeps_mtxFree, keeps_mmRun, *]; done) | with_reducible apply Keeps.fold1 | with_reducible apply Keeps.fold2 | with_reducible apply Keeps.fold3 | with_reducible apply Keeps.fold21 | intro _ | split | dsimp only))); intro hz; (try dsimp only at hz); clear heq)))

theorem keeps_execMatrixInstrComplete {b0 : State} (t : TileId) (e : Fin 4) {s : State} (hK : Keeps b0 s) :
    ∀ u, execMatrixInstrComplete t e s = .next u → Keeps b0 u := by
  unfold execMatrixInstrComplete
  repeat' first
    | with_reducible assumption
    | refine fun (y : State) (gr : Group) (hy : Keeps b0 y) => ?_
    | (extract_lets +onlyGivenNames z; first | ((first | refine Keeps.cut (p := Keeps b0 z) ?_ ?_ | refine Keeps.cut (p := Keeps b0 z.2) ?_ ?_ | refine Keeps.cut (p := Keeps b0 z.2.2) ?_ ?_ | refine Keeps.cut (p := Keeps b0 z.1) ?_ ?_ | refine Keeps.cut (p := Keeps b0 z.s) ?_ ?_ | refine Keeps.cut (p := Keeps b0 z.2.s) ?_ ?_ | refine Keeps.cut (p := Keeps b0 z.2.2.s) ?_ ?_); (focus (intros; dsimp only [z]; (repeat' first | (simp (maxDischargeDepth := 99) only [KIss.hold, KIss.done, KIss.fault, KIss.wait, Keeps.upd, Keeps.updId, Keeps.ite, Keeps.foldl, Keeps.foldl2, Keeps.foldl3, Keeps.refl, implies_true, keeps_count, keeps_setTile, keeps_mtxRun, *]; done) | with_reducible apply Keeps.fold1 | with_reducible apply Keeps.fold2 | with_reducible apply Keeps.fold3 | with_reducible apply Keeps.fold21 | intro _ | split | dsimp only))); intro hz; clear_value z) | clear_value z | skip)
    | (simp (maxDischargeDepth := 99) only [KIss.hold, KIss.done, KIss.fault, KIss.wait, Keeps.upd, Keeps.updId, Keeps.ite, Keeps.foldl, Keeps.foldl2, Keeps.foldl3, Keeps.refl, implies_true, keeps_count, keeps_setTile, keeps_mtxRun, *]; done)
    | (intro t ht; injection ht with ht; subst ht)
    | (intro t ht; contradiction)
    | with_reducible apply Keeps.fold1
    | with_reducible apply Keeps.fold2
    | with_reducible apply Keeps.fold3
    | with_reducible apply Keeps.fold21
    | (split <;> (try (rename_i heq; (first | refine Keeps.cut (Keeps.of_eq (b := b0) heq ?_) ?_ | refine Keeps.cut (Keeps.of_eq3 (b := b0) heq ?_) ?_ | refine Keeps.cut (Keeps.of_eq1 (b := b0) heq ?_) ?_ | refine Keeps.cut (Keeps.of_eq4 (b := b0) heq ?_) ?_); (focus (clear heq; (repeat' first | (simp (maxDischargeDepth := 99) only [KIss.hold, KIss.done, KIss.fault, KIss.wait, Keeps.upd, Keeps.updId, Keeps.ite, Keeps.foldl, Keeps.foldl2, Keeps.foldl3, Keeps.refl, implies_true, keeps_count, keeps_setTile, keeps_mtxRun, *]; done) | with_reducible apply Keeps.fold1 | with_reducible apply Keeps.fold2 | with_reducible apply Keeps.fold3 | with_reducible apply Keeps.fold21 | intro _ | split | dsimp only))); intro hz; (try dsimp only at hz); clear heq)))
    | intro _

theorem keeps_FlsRun_flag {b0 : State} {r : FlsRun} (i : Nat) (code : Nat) (hK : Keeps b0 r.s) :
    Keeps b0 (FlsRun.flag r i code).s := by
  unfold FlsRun.flag; simp (maxDischargeDepth := 99) only [KIss.hold, KIss.done, KIss.fault, KIss.wait, Keeps.upd,
        Keeps.updId, Keeps.ite, Keeps.foldl, Keeps.foldl2, Keeps.foldl3, Keeps.refl, implies_true, *]

theorem keeps_FlsRun_refused {b0 : State} {r : FlsRun} (code : Nat) (hK : Keeps b0 r.s) :
    Keeps b0 (FlsRun.refused r code).s := by
  unfold FlsRun.refused; simp (maxDischargeDepth := 99) only [KIss.hold, KIss.done, KIss.fault, KIss.wait, Keeps.upd,
        Keeps.updId, Keeps.ite, Keeps.foldl, Keeps.foldl2, Keeps.foldl3, Keeps.refl, implies_true, *]

theorem keeps_FlsRun_failed {b0 : State} {r : FlsRun} (code : Nat) (hK : Keeps b0 r.s) :
    Keeps b0 (FlsRun.failed r code).s := by
  unfold FlsRun.failed; simp (maxDischargeDepth := 99) only [KIss.hold, KIss.done, KIss.fault, KIss.wait, Keeps.upd,
        Keeps.updId, Keeps.ite, Keeps.foldl, Keeps.foldl2, Keeps.foldl3, Keeps.refl, implies_true, keeps_FlsRun_refused, *]

theorem keeps_FlsRun_point {b0 : State} {r : FlsRun} (hK : Keeps b0 r.s) :
    Keeps b0 (FlsRun.point r).s := by
  unfold FlsRun.point; simp (maxDischargeDepth := 99) only [KIss.hold, KIss.done, KIss.fault, KIss.wait, Keeps.upd,
        Keeps.updId, Keeps.ite, Keeps.foldl, Keeps.foldl2, Keeps.foldl3, Keeps.refl, implies_true, *]

theorem keeps_spaceWrite {b0 : State} {s : State} (t : Nat) (space : Nat) (a : Nat) (bs : List Byte) (hK : Keeps b0 s) :
    Keeps b0 (spaceWrite s t space a bs).2 := by
  unfold spaceWrite
  repeat' first
    | with_reducible assumption
    | (extract_lets +onlyGivenNames z; first | ((first | refine Keeps.cut (p := Keeps b0 z) ?_ ?_ | refine Keeps.cut (p := Keeps b0 z.2) ?_ ?_ | refine Keeps.cut (p := Keeps b0 z.2.2) ?_ ?_ | refine Keeps.cut (p := Keeps b0 z.1) ?_ ?_ | refine Keeps.cut (p := Keeps b0 z.s) ?_ ?_ | refine Keeps.cut (p := Keeps b0 z.2.s) ?_ ?_ | refine Keeps.cut (p := Keeps b0 z.2.2.s) ?_ ?_); (focus (intros; dsimp only [z]; (repeat' first | (simp (maxDischargeDepth := 99) only [KIss.hold, KIss.done, KIss.fault, KIss.wait, Keeps.upd, Keeps.updId, Keeps.ite, Keeps.foldl, Keeps.foldl2, Keeps.foldl3, Keeps.refl, implies_true, keeps_engineWrote, keeps_grtWrite, keeps_setTile, keeps_slmWrite, *]; done) | with_reducible apply Keeps.fold1 | with_reducible apply Keeps.fold2 | with_reducible apply Keeps.fold3 | with_reducible apply Keeps.fold21 | with_reducible apply Keeps.foldR | with_reducible apply Keeps.foldR2 | intro _ | split | dsimp only))); intro hz; clear_value z) | clear_value z | skip)
    | (simp (maxDischargeDepth := 99) only [KIss.hold, KIss.done, KIss.fault, KIss.wait, Keeps.upd, Keeps.updId, Keeps.ite, Keeps.foldl, Keeps.foldl2, Keeps.foldl3, Keeps.refl, implies_true, keeps_engineWrote, keeps_grtWrite, keeps_setTile, keeps_slmWrite, *]; done)
    | with_reducible apply Keeps.fold1
    | with_reducible apply Keeps.fold2
    | with_reducible apply Keeps.fold3
    | with_reducible apply Keeps.fold21
    | with_reducible apply Keeps.foldR
    | with_reducible apply Keeps.foldR2
    | intro _
    | (split <;> (try (rename_i heq; (first | refine Keeps.cut (Keeps.of_eq (b := b0) heq ?_) ?_ | refine Keeps.cut (Keeps.of_eq3 (b := b0) heq ?_) ?_ | refine Keeps.cut (Keeps.of_eq1 (b := b0) heq ?_) ?_ | refine Keeps.cut (Keeps.of_eq4 (b := b0) heq ?_) ?_ | refine Keeps.cut (Keeps.of_eqR (b := b0) heq ?_) ?_); (focus (clear heq; (repeat' first | (simp (maxDischargeDepth := 99) only [KIss.hold, KIss.done, KIss.fault, KIss.wait, Keeps.upd, Keeps.updId, Keeps.ite, Keeps.foldl, Keeps.foldl2, Keeps.foldl3, Keeps.refl, implies_true, keeps_engineWrote, keeps_grtWrite, keeps_setTile, keeps_slmWrite, *]; done) | with_reducible apply Keeps.fold1 | with_reducible apply Keeps.fold2 | with_reducible apply Keeps.fold3 | with_reducible apply Keeps.fold21 | with_reducible apply Keeps.foldR | with_reducible apply Keeps.foldR2 | intro _ | split | dsimp only))); intro hz; (try dsimp only at hz); clear heq)))

theorem keeps_FlsRun_freeRead {b0 : State} {r : FlsRun} (d : FlsDesc) (hK : Keeps b0 r.s) :
    Keeps b0 (FlsRun.freeRead r d).2.s := by
  unfold FlsRun.freeRead; simp (maxDischargeDepth := 99) only [KIss.hold, KIss.done, KIss.fault, KIss.wait, Keeps.upd,
        Keeps.updId, Keeps.ite, Keeps.foldl, Keeps.foldl2, Keeps.foldl3, Keeps.refl, implies_true, keeps_drawFree128, *]

theorem keeps_FlsRun_read {b0 : State} {r : FlsRun} (i : Nat) (x : Int) (hK : Keeps b0 r.s) : Keeps b0 (r.read i x).2.s := by
  unfold FlsRun.read
  extract_lets d out
  have ho : ∀ v (r' : FlsRun), Keeps b0 r'.s → Keeps b0 (out v r').2.s := by
    intro v r' h
    dsimp only [out]
    split
    · exact keeps_FlsRun_freeRead _ h
    · exact h
  clear_value out
  split
  · rename_i q ti wide v r' acc _
    refine ho _ _ ?_
    refine keeps_setTile _ _ ?_
    dsimp only [r']
    split
    · exact hK
    · exact hK
  · split
    split
    extract_lets +onlyGivenNames r'
    have h' : Keeps b0 r'.s := by
      dsimp only [r']
      split
      · exact keeps_drpSeen _ _ _ _ hK
      · exact hK
    clear_value r'
    split
    · exact keeps_FlsRun_freeRead _ h'
    · exact ho _ _ h'

theorem keeps_FlsRun_write {b0 : State} {r : FlsRun} (i : Nat) (x : Int) (v : Nat) (hK : Keeps b0 r.s) :
    Keeps b0 (FlsRun.write r i x v).s := by
  unfold FlsRun.write
  repeat' first
    | with_reducible assumption
    | (extract_lets +onlyGivenNames z; first | ((first | refine Keeps.cut (p := Keeps b0 z) ?_ ?_ | refine Keeps.cut (p := Keeps b0 z.2) ?_ ?_ | refine Keeps.cut (p := Keeps b0 z.2.2) ?_ ?_ | refine Keeps.cut (p := Keeps b0 z.1) ?_ ?_ | refine Keeps.cut (p := Keeps b0 z.s) ?_ ?_ | refine Keeps.cut (p := Keeps b0 z.2.s) ?_ ?_ | refine Keeps.cut (p := Keeps b0 z.2.2.s) ?_ ?_); (focus (intros; dsimp only [z]; (repeat' first | (simp (maxDischargeDepth := 99) only [KIss.hold, KIss.done, KIss.fault, KIss.wait, Keeps.upd, Keeps.updId, Keeps.ite, Keeps.foldl, Keeps.foldl2, Keeps.foldl3, Keeps.refl, implies_true, keeps_drawFree128, keeps_setTile, keeps_FlsRun_refused, keeps_spaceWrite, *]; done) | with_reducible apply Keeps.fold1 | with_reducible apply Keeps.fold2 | with_reducible apply Keeps.fold3 | with_reducible apply Keeps.fold21 | with_reducible apply Keeps.foldR | with_reducible apply Keeps.foldR2 | intro _ | split | dsimp only))); intro hz; clear_value z) | clear_value z | skip)
    | (simp (maxDischargeDepth := 99) only [KIss.hold, KIss.done, KIss.fault, KIss.wait, Keeps.upd, Keeps.updId, Keeps.ite, Keeps.foldl, Keeps.foldl2, Keeps.foldl3, Keeps.refl, implies_true, keeps_drawFree128, keeps_setTile, keeps_FlsRun_refused, keeps_spaceWrite, *]; done)
    | with_reducible apply Keeps.fold1
    | with_reducible apply Keeps.fold2
    | with_reducible apply Keeps.fold3
    | with_reducible apply Keeps.fold21
    | with_reducible apply Keeps.foldR
    | with_reducible apply Keeps.foldR2
    | intro _
    | (split <;> (try (rename_i heq; (first | refine Keeps.cut (Keeps.of_eq (b := b0) heq ?_) ?_ | refine Keeps.cut (Keeps.of_eq3 (b := b0) heq ?_) ?_ | refine Keeps.cut (Keeps.of_eq1 (b := b0) heq ?_) ?_ | refine Keeps.cut (Keeps.of_eq4 (b := b0) heq ?_) ?_ | refine Keeps.cut (Keeps.of_eqR (b := b0) heq ?_) ?_); (focus (clear heq; (repeat' first | (simp (maxDischargeDepth := 99) only [KIss.hold, KIss.done, KIss.fault, KIss.wait, Keeps.upd, Keeps.updId, Keeps.ite, Keeps.foldl, Keeps.foldl2, Keeps.foldl3, Keeps.refl, implies_true, keeps_drawFree128, keeps_setTile, keeps_FlsRun_refused, keeps_spaceWrite, *]; done) | with_reducible apply Keeps.fold1 | with_reducible apply Keeps.fold2 | with_reducible apply Keeps.fold3 | with_reducible apply Keeps.fold21 | with_reducible apply Keeps.foldR | with_reducible apply Keeps.foldR2 | intro _ | split | dsimp only))); intro hz; (try dsimp only at hz); clear heq)))

theorem keeps_FlsRun_at_ {b0 : State} {r : FlsRun} (i : Nat) (p : List Nat) (hK : Keeps b0 r.s) :
    Keeps b0 (FlsRun.at_ r i p).2.s := by
  unfold FlsRun.at_; simp (maxDischargeDepth := 99) only [KIss.hold, KIss.done, KIss.fault, KIss.wait, Keeps.upd,
        Keeps.updId, Keeps.ite, Keeps.foldl, Keeps.foldl2, Keeps.foldl3, Keeps.refl, implies_true, keeps_FlsRun_read, *]

theorem keeps_FlsRun_put {b0 : State} {r : FlsRun} (i : Nat) (p : List Nat) (v : Nat) (hK : Keeps b0 r.s) :
    Keeps b0 (FlsRun.put r i p v).s := by
  unfold FlsRun.put; simp (maxDischargeDepth := 99) only [KIss.hold, KIss.done, KIss.fault, KIss.wait, Keeps.upd,
        Keeps.updId, Keeps.ite, Keeps.foldl, Keeps.foldl2, Keeps.foldl3, Keeps.refl, implies_true, keeps_FlsRun_write, *]

theorem keeps_FlsRun_on {b0 : State} {r : FlsRun} (p : List Nat) (hK : Keeps b0 r.s) :
    Keeps b0 (FlsRun.on r p).2.s := by
  unfold FlsRun.on
  repeat' first
    | with_reducible assumption
    | (simp (maxDischargeDepth := 99) only [KIss.hold, KIss.done, KIss.fault, KIss.wait, Keeps.upd, Keeps.updId, Keeps.ite, Keeps.foldl, Keeps.foldl2, Keeps.foldl3, Keeps.refl, implies_true, keeps_FlsRun_at_, *]; done)
    | (split <;> (try (rename_i heq; (first | refine Keeps.cut (Keeps.of_eq (b := b0) heq ?_) ?_ | refine Keeps.cut (Keeps.of_eq3 (b := b0) heq ?_) ?_ | refine Keeps.cut (Keeps.of_eq1 (b := b0) heq ?_) ?_ | refine Keeps.cut (Keeps.of_eq4 (b := b0) heq ?_) ?_ | refine Keeps.cut (Keeps.of_eqR (b := b0) heq ?_) ?_); (focus (clear heq; (repeat' first | (simp (maxDischargeDepth := 99) only [KIss.hold, KIss.done, KIss.fault, KIss.wait, Keeps.upd, Keeps.updId, Keeps.ite, Keeps.foldl, Keeps.foldl2, Keeps.foldl3, Keeps.refl, implies_true, keeps_FlsRun_at_, *]; done) | with_reducible apply Keeps.fold1 | with_reducible apply Keeps.fold2 | with_reducible apply Keeps.fold3 | with_reducible apply Keeps.fold21 | with_reducible apply Keeps.foldR | with_reducible apply Keeps.foldR2 | intro _ | split | dsimp only))); intro hz; (try dsimp only at hz); clear heq)))

theorem keeps_FlsRun_draw {b0 : State} {r : FlsRun} (n : Nat) (hK : Keeps b0 r.s) :
    Keeps b0 (FlsRun.draw r n).2.s := by
  unfold FlsRun.draw; (repeat' split) <;> simp (maxDischargeDepth := 99) only [KIss.hold, KIss.done, KIss.fault, KIss.wait,
        Keeps.upd, Keeps.updId, Keeps.ite, Keeps.foldl, Keeps.foldl2, Keeps.foldl3, Keeps.refl, implies_true, keeps_rset, *]

theorem keeps_FlsRun_rnd {b0 : State} {r : FlsRun} (n : Nat) (hK : Keeps b0 r.s) :
    Keeps b0 (FlsRun.rnd r n).2.s := by
  unfold FlsRun.rnd
  repeat' first
    | with_reducible assumption
    | (simp (maxDischargeDepth := 99) only [KIss.hold, KIss.done, KIss.fault, KIss.wait, Keeps.upd, Keeps.updId, Keeps.ite, Keeps.foldl, Keeps.foldl2, Keeps.foldl3, Keeps.refl, implies_true, keeps_FlsRun_draw, *]; done)
    | (split <;> (try (rename_i heq; (first | refine Keeps.cut (Keeps.of_eq (b := b0) heq ?_) ?_ | refine Keeps.cut (Keeps.of_eq3 (b := b0) heq ?_) ?_ | refine Keeps.cut (Keeps.of_eq1 (b := b0) heq ?_) ?_ | refine Keeps.cut (Keeps.of_eq4 (b := b0) heq ?_) ?_ | refine Keeps.cut (Keeps.of_eqR (b := b0) heq ?_) ?_); (focus (clear heq; (repeat' first | (simp (maxDischargeDepth := 99) only [KIss.hold, KIss.done, KIss.fault, KIss.wait, Keeps.upd, Keeps.updId, Keeps.ite, Keeps.foldl, Keeps.foldl2, Keeps.foldl3, Keeps.refl, implies_true, keeps_FlsRun_draw, *]; done) | with_reducible apply Keeps.fold1 | with_reducible apply Keeps.fold2 | with_reducible apply Keeps.fold3 | with_reducible apply Keeps.fold21 | with_reducible apply Keeps.foldR | with_reducible apply Keeps.foldR2 | intro _ | split | dsimp only))); intro hz; (try dsimp only at hz); clear heq)))

theorem keeps_flsPoint {b0 : State} {r : FlsRun} (pn : List Nat × Nat) (hK : Keeps b0 r.s) :
    Keeps b0 (flsPoint r pn).s := by
  unfold flsPoint
  repeat' first
    | with_reducible assumption
    | (simp (maxDischargeDepth := 99) only [KIss.hold, KIss.done, KIss.fault, KIss.wait, Keeps.upd, Keeps.updId, Keeps.ite, Keeps.foldl, Keeps.foldl2, Keeps.foldl3, Keeps.refl, implies_true, keeps_FlsRun_flag, keeps_FlsRun_point, keeps_FlsRun_at_, keeps_FlsRun_put, keeps_FlsRun_on, keeps_FlsRun_draw, keeps_FlsRun_rnd, *]; done)
    | (split <;> (try (rename_i heq; (first | refine Keeps.cut (Keeps.of_eq (b := b0) heq ?_) ?_ | refine Keeps.cut (Keeps.of_eq3 (b := b0) heq ?_) ?_ | refine Keeps.cut (Keeps.of_eq1 (b := b0) heq ?_) ?_ | refine Keeps.cut (Keeps.of_eq4 (b := b0) heq ?_) ?_ | refine Keeps.cut (Keeps.of_eqR (b := b0) heq ?_) ?_); (focus (clear heq; (repeat' first | (simp (maxDischargeDepth := 99) only [KIss.hold, KIss.done, KIss.fault, KIss.wait, Keeps.upd, Keeps.updId, Keeps.ite, Keeps.foldl, Keeps.foldl2, Keeps.foldl3, Keeps.refl, implies_true, keeps_FlsRun_flag, keeps_FlsRun_point, keeps_FlsRun_at_, keeps_FlsRun_put, keeps_FlsRun_on, keeps_FlsRun_draw, keeps_FlsRun_rnd, *]; done) | with_reducible apply Keeps.fold1 | with_reducible apply Keeps.fold2 | with_reducible apply Keeps.fold3 | with_reducible apply Keeps.fold21 | with_reducible apply Keeps.foldR | with_reducible apply Keeps.foldR2 | intro _ | split | dsimp only))); intro hz; (try dsimp only at hz); clear heq)))

theorem keeps_flsPermute {b0 : State} {r : FlsRun} (pn : List Nat × Nat) (hK : Keeps b0 r.s) :
    Keeps b0 (flsPermute r pn).s := by
  unfold flsPermute
  repeat' first
    | with_reducible assumption
    | (extract_lets +onlyGivenNames z; first | ((first | refine Keeps.cut (p := Keeps b0 z) ?_ ?_ | refine Keeps.cut (p := Keeps b0 z.2) ?_ ?_ | refine Keeps.cut (p := Keeps b0 z.2.2) ?_ ?_ | refine Keeps.cut (p := Keeps b0 z.1) ?_ ?_ | refine Keeps.cut (p := Keeps b0 z.s) ?_ ?_ | refine Keeps.cut (p := Keeps b0 z.2.s) ?_ ?_ | refine Keeps.cut (p := Keeps b0 z.2.2.s) ?_ ?_); (focus (intros; dsimp only [z]; (repeat' first | (simp (maxDischargeDepth := 99) only [KIss.hold, KIss.done, KIss.fault, KIss.wait, Keeps.upd, Keeps.updId, Keeps.ite, Keeps.foldl, Keeps.foldl2, Keeps.foldl3, Keeps.refl, implies_true, keeps_FlsRun_flag, keeps_FlsRun_point, keeps_FlsRun_read, keeps_FlsRun_write, keeps_FlsRun_at_, keeps_FlsRun_put, *]; done) | with_reducible apply Keeps.fold1 | with_reducible apply Keeps.fold2 | with_reducible apply Keeps.fold3 | with_reducible apply Keeps.fold21 | with_reducible apply Keeps.foldR | with_reducible apply Keeps.foldR2 | intro _ | split | dsimp only))); intro hz; clear_value z) | clear_value z | skip)
    | (simp (maxDischargeDepth := 99) only [KIss.hold, KIss.done, KIss.fault, KIss.wait, Keeps.upd, Keeps.updId, Keeps.ite, Keeps.foldl, Keeps.foldl2, Keeps.foldl3, Keeps.refl, implies_true, keeps_FlsRun_flag, keeps_FlsRun_point, keeps_FlsRun_read, keeps_FlsRun_write, keeps_FlsRun_at_, keeps_FlsRun_put, *]; done)
    | with_reducible apply Keeps.fold1
    | with_reducible apply Keeps.fold2
    | with_reducible apply Keeps.fold3
    | with_reducible apply Keeps.fold21
    | with_reducible apply Keeps.foldR
    | with_reducible apply Keeps.foldR2
    | intro _
    | (split <;> (try (rename_i heq; (first | refine Keeps.cut (Keeps.of_eq (b := b0) heq ?_) ?_ | refine Keeps.cut (Keeps.of_eq3 (b := b0) heq ?_) ?_ | refine Keeps.cut (Keeps.of_eq1 (b := b0) heq ?_) ?_ | refine Keeps.cut (Keeps.of_eq4 (b := b0) heq ?_) ?_ | refine Keeps.cut (Keeps.of_eqR (b := b0) heq ?_) ?_); (focus (clear heq; (repeat' first | (simp (maxDischargeDepth := 99) only [KIss.hold, KIss.done, KIss.fault, KIss.wait, Keeps.upd, Keeps.updId, Keeps.ite, Keeps.foldl, Keeps.foldl2, Keeps.foldl3, Keeps.refl, implies_true, keeps_FlsRun_flag, keeps_FlsRun_point, keeps_FlsRun_read, keeps_FlsRun_write, keeps_FlsRun_at_, keeps_FlsRun_put, *]; done) | with_reducible apply Keeps.fold1 | with_reducible apply Keeps.fold2 | with_reducible apply Keeps.fold3 | with_reducible apply Keeps.fold21 | with_reducible apply Keeps.foldR | with_reducible apply Keeps.foldR2 | intro _ | split | dsimp only))); intro hz; (try dsimp only at hz); clear heq)))

theorem keeps_redPoint {b0 : State} {r : FlsRun} (o : List Nat) (hK : Keeps b0 r.s) :
    Keeps b0 (redPoint r o).s := by
  unfold redPoint
  repeat' first
    | with_reducible assumption
    | (extract_lets +onlyGivenNames z; first | ((first | refine Keeps.cut (p := Keeps b0 z) ?_ ?_ | refine Keeps.cut (p := Keeps b0 z.2) ?_ ?_ | refine Keeps.cut (p := Keeps b0 z.2.2) ?_ ?_ | refine Keeps.cut (p := Keeps b0 z.1) ?_ ?_ | refine Keeps.cut (p := Keeps b0 z.s) ?_ ?_ | refine Keeps.cut (p := Keeps b0 z.2.s) ?_ ?_ | refine Keeps.cut (p := Keeps b0 z.2.2.s) ?_ ?_); (focus (intros; dsimp only [z]; (repeat' first | (simp (maxDischargeDepth := 99) only [KIss.hold, KIss.done, KIss.fault, KIss.wait, Keeps.upd, Keeps.updId, Keeps.ite, Keeps.foldl, Keeps.foldl2, Keeps.foldl3, Keeps.refl, implies_true, keeps_FlsRun_flag, keeps_FlsRun_point, keeps_FlsRun_at_, keeps_FlsRun_put, keeps_FlsRun_on, *]; done) | with_reducible apply Keeps.fold1 | with_reducible apply Keeps.fold2 | with_reducible apply Keeps.fold3 | with_reducible apply Keeps.fold21 | with_reducible apply Keeps.foldR | with_reducible apply Keeps.foldR2 | intro _ | split | dsimp only))); intro hz; clear_value z) | clear_value z | skip)
    | (simp (maxDischargeDepth := 99) only [KIss.hold, KIss.done, KIss.fault, KIss.wait, Keeps.upd, Keeps.updId, Keeps.ite, Keeps.foldl, Keeps.foldl2, Keeps.foldl3, Keeps.refl, implies_true, keeps_FlsRun_flag, keeps_FlsRun_point, keeps_FlsRun_at_, keeps_FlsRun_put, keeps_FlsRun_on, *]; done)
    | with_reducible apply Keeps.fold1
    | with_reducible apply Keeps.fold2
    | with_reducible apply Keeps.fold3
    | with_reducible apply Keeps.fold21
    | with_reducible apply Keeps.foldR
    | with_reducible apply Keeps.foldR2
    | intro _
    | (split <;> (try (rename_i heq; (first | refine Keeps.cut (Keeps.of_eq (b := b0) heq ?_) ?_ | refine Keeps.cut (Keeps.of_eq3 (b := b0) heq ?_) ?_ | refine Keeps.cut (Keeps.of_eq1 (b := b0) heq ?_) ?_ | refine Keeps.cut (Keeps.of_eq4 (b := b0) heq ?_) ?_ | refine Keeps.cut (Keeps.of_eqR (b := b0) heq ?_) ?_); (focus (clear heq; (repeat' first | (simp (maxDischargeDepth := 99) only [KIss.hold, KIss.done, KIss.fault, KIss.wait, Keeps.upd, Keeps.updId, Keeps.ite, Keeps.foldl, Keeps.foldl2, Keeps.foldl3, Keeps.refl, implies_true, keeps_FlsRun_flag, keeps_FlsRun_point, keeps_FlsRun_at_, keeps_FlsRun_put, keeps_FlsRun_on, *]; done) | with_reducible apply Keeps.fold1 | with_reducible apply Keeps.fold2 | with_reducible apply Keeps.fold3 | with_reducible apply Keeps.fold21 | with_reducible apply Keeps.foldR | with_reducible apply Keeps.foldR2 | intro _ | split | dsimp only))); intro hz; (try dsimp only at hz); clear heq)))

theorem keeps_mxQuantBlock {b0 : State} {r : FlsRun} (bp : List Nat) (ps : List (List Nat × Nat)) (hK : Keeps b0 r.s) :
    Keeps b0 (mxQuantBlock r bp ps).s := by
  unfold mxQuantBlock
  repeat' first
    | with_reducible assumption
    | (extract_lets +onlyGivenNames z; first | ((first | refine Keeps.cut (p := Keeps b0 z) ?_ ?_ | refine Keeps.cut (p := Keeps b0 z.2) ?_ ?_ | refine Keeps.cut (p := Keeps b0 z.2.2) ?_ ?_ | refine Keeps.cut (p := Keeps b0 z.1) ?_ ?_ | refine Keeps.cut (p := Keeps b0 z.s) ?_ ?_ | refine Keeps.cut (p := Keeps b0 z.2.s) ?_ ?_ | refine Keeps.cut (p := Keeps b0 z.2.2.s) ?_ ?_); (focus (intros; dsimp only [z]; (repeat' first | (simp (maxDischargeDepth := 99) only [KIss.hold, KIss.done, KIss.fault, KIss.wait, Keeps.upd, Keeps.updId, Keeps.ite, Keeps.foldl, Keeps.foldl2, Keeps.foldl3, Keeps.refl, implies_true, keeps_FlsRun_flag, keeps_FlsRun_point, keeps_FlsRun_at_, keeps_FlsRun_put, keeps_FlsRun_rnd, *]; done) | with_reducible apply Keeps.fold1 | with_reducible apply Keeps.fold2 | with_reducible apply Keeps.fold3 | with_reducible apply Keeps.fold21 | with_reducible apply Keeps.foldR | with_reducible apply Keeps.foldR2 | intro _ | split | dsimp only))); intro hz; clear_value z) | clear_value z | skip)
    | (simp (maxDischargeDepth := 99) only [KIss.hold, KIss.done, KIss.fault, KIss.wait, Keeps.upd, Keeps.updId, Keeps.ite, Keeps.foldl, Keeps.foldl2, Keeps.foldl3, Keeps.refl, implies_true, keeps_FlsRun_flag, keeps_FlsRun_point, keeps_FlsRun_at_, keeps_FlsRun_put, keeps_FlsRun_rnd, *]; done)
    | with_reducible apply Keeps.fold1
    | with_reducible apply Keeps.fold2
    | with_reducible apply Keeps.fold3
    | with_reducible apply Keeps.fold21
    | with_reducible apply Keeps.foldR
    | with_reducible apply Keeps.foldR2
    | intro _
    | (split <;> (try (rename_i heq; (first | refine Keeps.cut (Keeps.of_eq (b := b0) heq ?_) ?_ | refine Keeps.cut (Keeps.of_eq3 (b := b0) heq ?_) ?_ | refine Keeps.cut (Keeps.of_eq1 (b := b0) heq ?_) ?_ | refine Keeps.cut (Keeps.of_eq4 (b := b0) heq ?_) ?_ | refine Keeps.cut (Keeps.of_eqR (b := b0) heq ?_) ?_); (focus (clear heq; (repeat' first | (simp (maxDischargeDepth := 99) only [KIss.hold, KIss.done, KIss.fault, KIss.wait, Keeps.upd, Keeps.updId, Keeps.ite, Keeps.foldl, Keeps.foldl2, Keeps.foldl3, Keeps.refl, implies_true, keeps_FlsRun_flag, keeps_FlsRun_point, keeps_FlsRun_at_, keeps_FlsRun_put, keeps_FlsRun_rnd, *]; done) | with_reducible apply Keeps.fold1 | with_reducible apply Keeps.fold2 | with_reducible apply Keeps.fold3 | with_reducible apply Keeps.fold21 | with_reducible apply Keeps.foldR | with_reducible apply Keeps.foldR2 | intro _ | split | dsimp only))); intro hz; (try dsimp only at hz); clear heq)))

theorem keeps_mxQuant {b0 : State} {r : FlsRun} (hK : Keeps b0 r.s) :
    Keeps b0 (mxQuant r).s := by
  unfold mxQuant
  repeat' first
    | with_reducible assumption
    | (extract_lets +onlyGivenNames z; first | ((first | refine Keeps.cut (p := Keeps b0 z) ?_ ?_ | refine Keeps.cut (p := Keeps b0 z.2) ?_ ?_ | refine Keeps.cut (p := Keeps b0 z.2.2) ?_ ?_ | refine Keeps.cut (p := Keeps b0 z.1) ?_ ?_ | refine Keeps.cut (p := Keeps b0 z.s) ?_ ?_ | refine Keeps.cut (p := Keeps b0 z.2.s) ?_ ?_ | refine Keeps.cut (p := Keeps b0 z.2.2.s) ?_ ?_); (focus (intros; dsimp only [z]; (repeat' first | (simp (maxDischargeDepth := 99) only [KIss.hold, KIss.done, KIss.fault, KIss.wait, Keeps.upd, Keeps.updId, Keeps.ite, Keeps.foldl, Keeps.foldl2, Keeps.foldl3, Keeps.refl, implies_true, keeps_mxQuantBlock, *]; done) | with_reducible apply Keeps.fold1 | with_reducible apply Keeps.fold2 | with_reducible apply Keeps.fold3 | with_reducible apply Keeps.fold21 | with_reducible apply Keeps.foldR | with_reducible apply Keeps.foldR2 | intro _ | split | dsimp only))); intro hz; clear_value z) | clear_value z | skip)
    | (simp (maxDischargeDepth := 99) only [KIss.hold, KIss.done, KIss.fault, KIss.wait, Keeps.upd, Keeps.updId, Keeps.ite, Keeps.foldl, Keeps.foldl2, Keeps.foldl3, Keeps.refl, implies_true, keeps_mxQuantBlock, *]; done)
    | with_reducible apply Keeps.fold1
    | with_reducible apply Keeps.fold2
    | with_reducible apply Keeps.fold3
    | with_reducible apply Keeps.fold21
    | with_reducible apply Keeps.foldR
    | with_reducible apply Keeps.foldR2
    | intro _
    | (split <;> (try (rename_i heq; (first | refine Keeps.cut (Keeps.of_eq (b := b0) heq ?_) ?_ | refine Keeps.cut (Keeps.of_eq3 (b := b0) heq ?_) ?_ | refine Keeps.cut (Keeps.of_eq1 (b := b0) heq ?_) ?_ | refine Keeps.cut (Keeps.of_eq4 (b := b0) heq ?_) ?_ | refine Keeps.cut (Keeps.of_eqR (b := b0) heq ?_) ?_); (focus (clear heq; (repeat' first | (simp (maxDischargeDepth := 99) only [KIss.hold, KIss.done, KIss.fault, KIss.wait, Keeps.upd, Keeps.updId, Keeps.ite, Keeps.foldl, Keeps.foldl2, Keeps.foldl3, Keeps.refl, implies_true, keeps_mxQuantBlock, *]; done) | with_reducible apply Keeps.fold1 | with_reducible apply Keeps.fold2 | with_reducible apply Keeps.fold3 | with_reducible apply Keeps.fold21 | with_reducible apply Keeps.foldR | with_reducible apply Keeps.foldR2 | intro _ | split | dsimp only))); intro hz; (try dsimp only at hz); clear heq)))

theorem keeps_mxDequantPoint {b0 : State} {r : FlsRun} (pn : List Nat × Nat) (hK : Keeps b0 r.s) :
    Keeps b0 (mxDequantPoint r pn).s := by
  unfold mxDequantPoint
  repeat' first
    | with_reducible assumption
    | (extract_lets +onlyGivenNames z; first | ((first | refine Keeps.cut (p := Keeps b0 z) ?_ ?_ | refine Keeps.cut (p := Keeps b0 z.2) ?_ ?_ | refine Keeps.cut (p := Keeps b0 z.2.2) ?_ ?_ | refine Keeps.cut (p := Keeps b0 z.1) ?_ ?_ | refine Keeps.cut (p := Keeps b0 z.s) ?_ ?_ | refine Keeps.cut (p := Keeps b0 z.2.s) ?_ ?_ | refine Keeps.cut (p := Keeps b0 z.2.2.s) ?_ ?_); (focus (intros; dsimp only [z]; (repeat' first | (simp (maxDischargeDepth := 99) only [KIss.hold, KIss.done, KIss.fault, KIss.wait, Keeps.upd, Keeps.updId, Keeps.ite, Keeps.foldl, Keeps.foldl2, Keeps.foldl3, Keeps.refl, implies_true, keeps_FlsRun_flag, keeps_FlsRun_point, keeps_FlsRun_at_, keeps_FlsRun_put, keeps_FlsRun_rnd, *]; done) | with_reducible apply Keeps.fold1 | with_reducible apply Keeps.fold2 | with_reducible apply Keeps.fold3 | with_reducible apply Keeps.fold21 | with_reducible apply Keeps.foldR | with_reducible apply Keeps.foldR2 | intro _ | split | dsimp only))); intro hz; clear_value z) | clear_value z | skip)
    | (simp (maxDischargeDepth := 99) only [KIss.hold, KIss.done, KIss.fault, KIss.wait, Keeps.upd, Keeps.updId, Keeps.ite, Keeps.foldl, Keeps.foldl2, Keeps.foldl3, Keeps.refl, implies_true, keeps_FlsRun_flag, keeps_FlsRun_point, keeps_FlsRun_at_, keeps_FlsRun_put, keeps_FlsRun_rnd, *]; done)
    | with_reducible apply Keeps.fold1
    | with_reducible apply Keeps.fold2
    | with_reducible apply Keeps.fold3
    | with_reducible apply Keeps.fold21
    | with_reducible apply Keeps.foldR
    | with_reducible apply Keeps.foldR2
    | intro _
    | (split <;> (try (rename_i heq; (first | refine Keeps.cut (Keeps.of_eq (b := b0) heq ?_) ?_ | refine Keeps.cut (Keeps.of_eq3 (b := b0) heq ?_) ?_ | refine Keeps.cut (Keeps.of_eq1 (b := b0) heq ?_) ?_ | refine Keeps.cut (Keeps.of_eq4 (b := b0) heq ?_) ?_ | refine Keeps.cut (Keeps.of_eqR (b := b0) heq ?_) ?_); (focus (clear heq; (repeat' first | (simp (maxDischargeDepth := 99) only [KIss.hold, KIss.done, KIss.fault, KIss.wait, Keeps.upd, Keeps.updId, Keeps.ite, Keeps.foldl, Keeps.foldl2, Keeps.foldl3, Keeps.refl, implies_true, keeps_FlsRun_flag, keeps_FlsRun_point, keeps_FlsRun_at_, keeps_FlsRun_put, keeps_FlsRun_rnd, *]; done) | with_reducible apply Keeps.fold1 | with_reducible apply Keeps.fold2 | with_reducible apply Keeps.fold3 | with_reducible apply Keeps.fold21 | with_reducible apply Keeps.foldR | with_reducible apply Keeps.foldR2 | intro _ | split | dsimp only))); intro hz; (try dsimp only at hz); clear heq)))

theorem keeps_elSplitRow {b0 : State} {r : FlsRun} (i1 : Nat) (hK : Keeps b0 r.s) :
    Keeps b0 (elSplitRow r i1).s := by
  unfold elSplitRow
  repeat' first
    | with_reducible assumption
    | (extract_lets +onlyGivenNames z; first | ((first | refine Keeps.cut (p := Keeps b0 z) ?_ ?_ | refine Keeps.cut (p := Keeps b0 z.2) ?_ ?_ | refine Keeps.cut (p := Keeps b0 z.2.2) ?_ ?_ | refine Keeps.cut (p := Keeps b0 z.1) ?_ ?_ | refine Keeps.cut (p := Keeps b0 z.s) ?_ ?_ | refine Keeps.cut (p := Keeps b0 z.2.s) ?_ ?_ | refine Keeps.cut (p := Keeps b0 z.2.2.s) ?_ ?_); (focus (intros; dsimp only [z]; (repeat' first | (simp (maxDischargeDepth := 99) only [KIss.hold, KIss.done, KIss.fault, KIss.wait, Keeps.upd, Keeps.updId, Keeps.ite, Keeps.foldl, Keeps.foldl2, Keeps.foldl3, Keeps.refl, implies_true, keeps_FlsRun_flag, keeps_FlsRun_point, keeps_FlsRun_at_, keeps_FlsRun_put, *]; done) | with_reducible apply Keeps.fold1 | with_reducible apply Keeps.fold2 | with_reducible apply Keeps.fold3 | with_reducible apply Keeps.fold21 | with_reducible apply Keeps.foldR | with_reducible apply Keeps.foldR2 | intro _ | split | dsimp only))); intro hz; clear_value z) | clear_value z | skip)
    | (simp (maxDischargeDepth := 99) only [KIss.hold, KIss.done, KIss.fault, KIss.wait, Keeps.upd, Keeps.updId, Keeps.ite, Keeps.foldl, Keeps.foldl2, Keeps.foldl3, Keeps.refl, implies_true, keeps_FlsRun_flag, keeps_FlsRun_point, keeps_FlsRun_at_, keeps_FlsRun_put, *]; done)
    | with_reducible apply Keeps.fold1
    | with_reducible apply Keeps.fold2
    | with_reducible apply Keeps.fold3
    | with_reducible apply Keeps.fold21
    | with_reducible apply Keeps.foldR
    | with_reducible apply Keeps.foldR2
    | intro _
    | (split <;> (try (rename_i heq; (first | refine Keeps.cut (Keeps.of_eq (b := b0) heq ?_) ?_ | refine Keeps.cut (Keeps.of_eq3 (b := b0) heq ?_) ?_ | refine Keeps.cut (Keeps.of_eq1 (b := b0) heq ?_) ?_ | refine Keeps.cut (Keeps.of_eq4 (b := b0) heq ?_) ?_ | refine Keeps.cut (Keeps.of_eqR (b := b0) heq ?_) ?_); (focus (clear heq; (repeat' first | (simp (maxDischargeDepth := 99) only [KIss.hold, KIss.done, KIss.fault, KIss.wait, Keeps.upd, Keeps.updId, Keeps.ite, Keeps.foldl, Keeps.foldl2, Keeps.foldl3, Keeps.refl, implies_true, keeps_FlsRun_flag, keeps_FlsRun_point, keeps_FlsRun_at_, keeps_FlsRun_put, *]; done) | with_reducible apply Keeps.fold1 | with_reducible apply Keeps.fold2 | with_reducible apply Keeps.fold3 | with_reducible apply Keeps.fold21 | with_reducible apply Keeps.foldR | with_reducible apply Keeps.foldR2 | intro _ | split | dsimp only))); intro hz; (try dsimp only at hz); clear heq)))

theorem keeps_elAccPoint {b0 : State} {r : FlsRun} (pn : List Nat × Nat) (hK : Keeps b0 r.s) :
    Keeps b0 (elAccPoint r pn).s := by
  unfold elAccPoint
  repeat' first
    | with_reducible assumption
    | (simp (maxDischargeDepth := 99) only [KIss.hold, KIss.done, KIss.fault, KIss.wait, Keeps.upd, Keeps.updId, Keeps.ite, Keeps.foldl, Keeps.foldl2, Keeps.foldl3, Keeps.refl, implies_true, keeps_FlsRun_point, keeps_FlsRun_at_, keeps_FlsRun_put, *]; done)
    | (split <;> (try (rename_i heq; (first | refine Keeps.cut (Keeps.of_eq (b := b0) heq ?_) ?_ | refine Keeps.cut (Keeps.of_eq3 (b := b0) heq ?_) ?_ | refine Keeps.cut (Keeps.of_eq1 (b := b0) heq ?_) ?_ | refine Keeps.cut (Keeps.of_eq4 (b := b0) heq ?_) ?_ | refine Keeps.cut (Keeps.of_eqR (b := b0) heq ?_) ?_); (focus (clear heq; (repeat' first | (simp (maxDischargeDepth := 99) only [KIss.hold, KIss.done, KIss.fault, KIss.wait, Keeps.upd, Keeps.updId, Keeps.ite, Keeps.foldl, Keeps.foldl2, Keeps.foldl3, Keeps.refl, implies_true, keeps_FlsRun_point, keeps_FlsRun_at_, keeps_FlsRun_put, *]; done) | with_reducible apply Keeps.fold1 | with_reducible apply Keeps.fold2 | with_reducible apply Keeps.fold3 | with_reducible apply Keeps.fold21 | with_reducible apply Keeps.foldR | with_reducible apply Keeps.foldR2 | intro _ | split | dsimp only))); intro hz; (try dsimp only at hz); clear heq)))

theorem keeps_elFinPoint {b0 : State} {r : FlsRun} (pn : List Nat × Nat) (hK : Keeps b0 r.s) :
    Keeps b0 (elFinPoint r pn).s := by
  unfold elFinPoint
  repeat' first
    | with_reducible assumption
    | (extract_lets +onlyGivenNames z; first | ((first | refine Keeps.cut (p := Keeps b0 z) ?_ ?_ | refine Keeps.cut (p := Keeps b0 z.2) ?_ ?_ | refine Keeps.cut (p := Keeps b0 z.2.2) ?_ ?_ | refine Keeps.cut (p := Keeps b0 z.1) ?_ ?_ | refine Keeps.cut (p := Keeps b0 z.s) ?_ ?_ | refine Keeps.cut (p := Keeps b0 z.2.s) ?_ ?_ | refine Keeps.cut (p := Keeps b0 z.2.2.s) ?_ ?_); (focus (intros; dsimp only [z]; (repeat' first | (simp (maxDischargeDepth := 99) only [KIss.hold, KIss.done, KIss.fault, KIss.wait, Keeps.upd, Keeps.updId, Keeps.ite, Keeps.foldl, Keeps.foldl2, Keeps.foldl3, Keeps.refl, implies_true, keeps_FlsRun_flag, keeps_FlsRun_point, keeps_FlsRun_at_, keeps_FlsRun_put, *]; done) | with_reducible apply Keeps.fold1 | with_reducible apply Keeps.fold2 | with_reducible apply Keeps.fold3 | with_reducible apply Keeps.fold21 | with_reducible apply Keeps.foldR | with_reducible apply Keeps.foldR2 | intro _ | split | dsimp only))); intro hz; clear_value z) | clear_value z | skip)
    | (simp (maxDischargeDepth := 99) only [KIss.hold, KIss.done, KIss.fault, KIss.wait, Keeps.upd, Keeps.updId, Keeps.ite, Keeps.foldl, Keeps.foldl2, Keeps.foldl3, Keeps.refl, implies_true, keeps_FlsRun_flag, keeps_FlsRun_point, keeps_FlsRun_at_, keeps_FlsRun_put, *]; done)
    | with_reducible apply Keeps.fold1
    | with_reducible apply Keeps.fold2
    | with_reducible apply Keeps.fold3
    | with_reducible apply Keeps.fold21
    | with_reducible apply Keeps.foldR
    | with_reducible apply Keeps.foldR2
    | intro _
    | (split <;> (try (rename_i heq; (first | refine Keeps.cut (Keeps.of_eq (b := b0) heq ?_) ?_ | refine Keeps.cut (Keeps.of_eq3 (b := b0) heq ?_) ?_ | refine Keeps.cut (Keeps.of_eq1 (b := b0) heq ?_) ?_ | refine Keeps.cut (Keeps.of_eq4 (b := b0) heq ?_) ?_ | refine Keeps.cut (Keeps.of_eqR (b := b0) heq ?_) ?_); (focus (clear heq; (repeat' first | (simp (maxDischargeDepth := 99) only [KIss.hold, KIss.done, KIss.fault, KIss.wait, Keeps.upd, Keeps.updId, Keeps.ite, Keeps.foldl, Keeps.foldl2, Keeps.foldl3, Keeps.refl, implies_true, keeps_FlsRun_flag, keeps_FlsRun_point, keeps_FlsRun_at_, keeps_FlsRun_put, *]; done) | with_reducible apply Keeps.fold1 | with_reducible apply Keeps.fold2 | with_reducible apply Keeps.fold3 | with_reducible apply Keeps.fold21 | with_reducible apply Keeps.foldR | with_reducible apply Keeps.foldR2 | intro _ | split | dsimp only))); intro hz; (try dsimp only at hz); clear heq)))

theorem keeps_flsExec {b0 : State} {r : FlsRun} (hK : Keeps b0 r.s) :
    Keeps b0 (flsExec r).s := by
  unfold flsExec
  repeat' first
    | with_reducible assumption
    | (extract_lets +onlyGivenNames z; first | ((first | refine Keeps.cut (p := Keeps b0 z) ?_ ?_ | refine Keeps.cut (p := Keeps b0 z.2) ?_ ?_ | refine Keeps.cut (p := Keeps b0 z.2.2) ?_ ?_ | refine Keeps.cut (p := Keeps b0 z.1) ?_ ?_ | refine Keeps.cut (p := Keeps b0 z.s) ?_ ?_ | refine Keeps.cut (p := Keeps b0 z.2.s) ?_ ?_ | refine Keeps.cut (p := Keeps b0 z.2.2.s) ?_ ?_); (focus (intros; dsimp only [z]; (repeat' first | (simp (maxDischargeDepth := 99) only [KIss.hold, KIss.done, KIss.fault, KIss.wait, Keeps.upd, Keeps.updId, Keeps.ite, Keeps.foldl, Keeps.foldl2, Keeps.foldl3, Keeps.refl, implies_true, keeps_flsPoint, keeps_flsPermute, keeps_redPoint, keeps_mxQuant, keeps_mxDequantPoint, keeps_elSplitRow, keeps_elAccPoint, keeps_elFinPoint, *]; done) | with_reducible apply Keeps.fold1 | with_reducible apply Keeps.fold2 | with_reducible apply Keeps.fold3 | with_reducible apply Keeps.fold21 | with_reducible apply Keeps.foldR | with_reducible apply Keeps.foldR2 | intro _ | split | dsimp only))); intro hz; clear_value z) | clear_value z | skip)
    | (simp (maxDischargeDepth := 99) only [KIss.hold, KIss.done, KIss.fault, KIss.wait, Keeps.upd, Keeps.updId, Keeps.ite, Keeps.foldl, Keeps.foldl2, Keeps.foldl3, Keeps.refl, implies_true, keeps_flsPoint, keeps_flsPermute, keeps_redPoint, keeps_mxQuant, keeps_mxDequantPoint, keeps_elSplitRow, keeps_elAccPoint, keeps_elFinPoint, *]; done)
    | with_reducible apply Keeps.fold1
    | with_reducible apply Keeps.fold2
    | with_reducible apply Keeps.fold3
    | with_reducible apply Keeps.fold21
    | with_reducible apply Keeps.foldR
    | with_reducible apply Keeps.foldR2
    | intro _
    | (split <;> (try (rename_i heq; (first | refine Keeps.cut (Keeps.of_eq (b := b0) heq ?_) ?_ | refine Keeps.cut (Keeps.of_eq3 (b := b0) heq ?_) ?_ | refine Keeps.cut (Keeps.of_eq1 (b := b0) heq ?_) ?_ | refine Keeps.cut (Keeps.of_eq4 (b := b0) heq ?_) ?_ | refine Keeps.cut (Keeps.of_eqR (b := b0) heq ?_) ?_); (focus (clear heq; (repeat' first | (simp (maxDischargeDepth := 99) only [KIss.hold, KIss.done, KIss.fault, KIss.wait, Keeps.upd, Keeps.updId, Keeps.ite, Keeps.foldl, Keeps.foldl2, Keeps.foldl3, Keeps.refl, implies_true, keeps_flsPoint, keeps_flsPermute, keeps_redPoint, keeps_mxQuant, keeps_mxDequantPoint, keeps_elSplitRow, keeps_elAccPoint, keeps_elFinPoint, *]; done) | with_reducible apply Keeps.fold1 | with_reducible apply Keeps.fold2 | with_reducible apply Keeps.fold3 | with_reducible apply Keeps.fold21 | with_reducible apply Keeps.foldR | with_reducible apply Keeps.foldR2 | intro _ | split | dsimp only))); intro hz; (try dsimp only at hz); clear heq)))

theorem keeps_flsFree {b0 : State} {s : State} (t : Nat) (space : Nat) (as : List Nat) (hK : Keeps b0 s) :
    Keeps b0 (flsFree s t space as) := by
  unfold flsFree; simp (maxDischargeDepth := 99) only [KIss.hold, KIss.done, KIss.fault, KIss.wait, Keeps.upd, Keeps.updId,
        Keeps.ite, Keeps.foldl, Keeps.foldl2, Keeps.foldl3, Keeps.refl, implies_true, keeps_drawFree, keeps_spaceWrite, *]

theorem keeps_flsTaint {b0 : State} {s : State} (t : Nat) (b : Block) (space : Nat) (a : Nat) (n : Nat) (hK : Keeps b0 s) :
    Keeps b0 (flsTaint s t b space a n) := by
  unfold flsTaint; simp (maxDischargeDepth := 99) only [KIss.hold, KIss.done, KIss.fault, KIss.wait, Keeps.upd, Keeps.updId,
        Keeps.ite, Keeps.foldl, Keeps.foldl2, Keeps.foldl3, Keeps.refl, implies_true, keeps_flsExec, *]

theorem keeps_keepOut {b0 : State} {s : State} (u : Nat) (me : Option Nat) (space : Nat) (a : Nat) (n : Nat) (hK : Keeps b0 s) :
    Keeps b0 (keepOut s u me space a n) := by
  unfold keepOut; simp (maxDischargeDepth := 99) only [KIss.hold, KIss.done, KIss.fault, KIss.wait, Keeps.upd, Keeps.updId,
        Keeps.ite, Keeps.foldl, Keeps.foldl2, Keeps.foldl3, Keeps.refl, implies_true, keeps_setTile, keeps_mtxFree,
        keeps_flsFree, keeps_flsTaint, *]

theorem keeps_keepOutGrotto {b0 : State} {s : State} (t : Nat) (g : Nat) (k : Nat) (off : Nat) (n : Nat) (hK : Keeps b0 s) :
    Keeps b0 (keepOutGrotto s t g k off n) := by
  unfold keepOutGrotto; simp (maxDischargeDepth := 99) only [KIss.hold, KIss.done, KIss.fault, KIss.wait, Keeps.upd,
        Keeps.updId, Keeps.ite, Keeps.foldl, Keeps.foldl2, Keeps.foldl3, Keeps.refl, implies_true, keeps_keepOut, *]

theorem keeps_lanesXlate {b0 : State} (t : Nat) (ctx : Nat) (need : Need) (x0 : List (Nat × Nat)) {x1 : State} (hK : Keeps b0 x1) :
    Keeps b0 (lanesXlate t ctx need x0 x1).2.2.2 := by
  induction x0 generalizing b0 x1 with
  | nil => unfold lanesXlate; (repeat' split) <;> (simp (maxDischargeDepth := 99) only [KIss.hold, KIss.done, KIss.fault, KIss.wait, Keeps.upd, Keeps.updId, Keeps.ite, Keeps.foldl, Keeps.foldl2, Keeps.foldl3, Keeps.refl, implies_true, keeps_translate, *]; done)
  | cons y l ih =>
    unfold lanesXlate
    repeat' first
      | with_reducible assumption
      | (simp (maxDischargeDepth := 99) only [KIss.hold, KIss.done, KIss.fault, KIss.wait, Keeps.upd, Keeps.updId, Keeps.ite, Keeps.foldl, Keeps.foldl2, Keeps.foldl3, Keeps.refl, implies_true, keeps_translate, *]; done)
      | (split <;> (try (rename_i heq; (first | refine Keeps.cut (Keeps.of_eq (b := b0) heq ?_) ?_ | refine Keeps.cut (Keeps.of_eq3 (b := b0) heq ?_) ?_ | refine Keeps.cut (Keeps.of_eq1 (b := b0) heq ?_) ?_ | refine Keeps.cut (Keeps.of_eq4 (b := b0) heq ?_) ?_); (focus (clear heq; (repeat' first | (simp (maxDischargeDepth := 99) only [KIss.hold, KIss.done, KIss.fault, KIss.wait, Keeps.upd, Keeps.updId, Keeps.ite, Keeps.foldl, Keeps.foldl2, Keeps.foldl3, Keeps.refl, implies_true, keeps_translate, *]; done) | with_reducible apply Keeps.fold1 | with_reducible apply Keeps.fold2 | with_reducible apply Keeps.fold3 | with_reducible apply Keeps.fold21 | intro _ | split | dsimp only))); intro hz; (try dsimp only at hz); clear heq)))

theorem keeps_setHeld {b0 : State} {s : State} (t : Nat) (h : Option Nat) (hK : Keeps b0 s) :
    Keeps b0 (setHeld s t h) := by
  unfold setHeld; simp (maxDischargeDepth := 99) only [KIss.hold, KIss.done, KIss.fault, KIss.wait, Keeps.upd, Keeps.updId,
        Keeps.ite, Keeps.foldl, Keeps.foldl2, Keeps.foldl3, Keeps.refl, implies_true, keeps_setTile, *]

theorem keeps_memIssue {b0 : State} (types : List Nat) (hasDst hasData isAtom scalarOk : Bool) (need : Need) (t g w : Nat)
    {s : State} (f : State → Group → List (Nat × Nat) → Option State)
    (hf : ∀ y gr l u, Keeps b0 y → f y gr l = some u → Keeps b0 u) (hK : Keeps b0 s) :
    ∀ u, memIssue types hasDst hasData isAtom scalarOk need t g w s f = .next u → Keeps b0 u := by
  unfold memIssue
  refine keeps_issue _ _ _ _ _ (fun y gr hy => ?_) hK
  extract_lets +onlyGivenNames las bad
  split
  · exact KIss.fault
  · split
    rename_i code va l v hv
    have hz : Keeps b0 v := by
      refine Keeps.of_eq4 hv ?_
      split
      · exact keeps_lanesXlate _ _ _ _ hy
      · exact hy
    split
    · exact keeps_preciseFaultAt _ _ _ _ _ hz
    · extract_lets +onlyGivenNames v'
      have hv' : Keeps b0 v' := by
        dsimp only [v']
        split
        · exact keeps_count _ _ _ _ _ hz
        · exact hz
      clear_value v'
      split
      · exact KIss.wait
      split
      · exact KIss.hold (keeps_setHeld _ _ hv')
      · rename_i u hu
        have h := hf _ _ _ _ hv' hu
        extract_lets +onlyGivenNames u'
        have h' : Keeps b0 u' := by
          dsimp only [u']
          split
          · exact keeps_setHeld _ _ h
          · exact h
        clear_value u'
        split
        · exact KIss.done h'
        · exact KIss.hold h'

theorem keeps_grtFault {b0 : State} {s : State} (t : Nat) (code : Nat) (hK : Keeps b0 s) :
    Keeps b0 (grtFault s t code) := by
  unfold grtFault; simp (maxDischargeDepth := 99) only [KIss.hold, KIss.done, KIss.fault, KIss.wait, Keeps.upd, Keeps.updId,
        Keeps.ite, Keeps.foldl, Keeps.foldl2, Keeps.foldl3, Keeps.refl, implies_true, keeps_imprecise, *]

theorem keeps_loadLocal {b0 : State} {s : State} (t : Nat) (g : Nat) (w : Nat) (gr : Group) (las : List (Nat × Nat)) (rd : State → Nat → Nat → Nat × List Byte) (hK : Keeps b0 s) :
    Keeps b0 (loadLocal s t g w gr las rd).2.2 := by
  unfold loadLocal
  repeat' first
    | with_reducible assumption
    | (extract_lets +onlyGivenNames z; first | ((first | refine Keeps.cut (p := Keeps b0 z) ?_ ?_ | refine Keeps.cut (p := Keeps b0 z.2) ?_ ?_ | refine Keeps.cut (p := Keeps b0 z.2.2) ?_ ?_ | refine Keeps.cut (p := Keeps b0 z.1) ?_ ?_ | refine Keeps.cut (p := Keeps b0 z.s) ?_ ?_ | refine Keeps.cut (p := Keeps b0 z.2.s) ?_ ?_ | refine Keeps.cut (p := Keeps b0 z.2.2.s) ?_ ?_); (focus (intros; dsimp only [z]; (repeat' first | (simp (maxDischargeDepth := 99) only [KIss.hold, KIss.done, KIss.fault, KIss.wait, Keeps.upd, Keeps.updId, Keeps.ite, Keeps.foldl, Keeps.foldl2, Keeps.foldl3, Keeps.refl, implies_true, keeps_drawFree128, *]; done) | with_reducible apply Keeps.fold1 | with_reducible apply Keeps.fold2 | with_reducible apply Keeps.fold3 | with_reducible apply Keeps.fold21 | intro _ | split | dsimp only))); intro hz; clear_value z) | clear_value z | skip)
    | (simp (maxDischargeDepth := 99) only [KIss.hold, KIss.done, KIss.fault, KIss.wait, Keeps.upd, Keeps.updId, Keeps.ite, Keeps.foldl, Keeps.foldl2, Keeps.foldl3, Keeps.refl, implies_true, keeps_drawFree128, *]; done)
    | with_reducible apply Keeps.fold1
    | with_reducible apply Keeps.fold2
    | with_reducible apply Keeps.fold3
    | with_reducible apply Keeps.fold21
    | intro _
    | (split <;> (try (rename_i heq; (first | refine Keeps.cut (Keeps.of_eq (b := b0) heq ?_) ?_ | refine Keeps.cut (Keeps.of_eq3 (b := b0) heq ?_) ?_ | refine Keeps.cut (Keeps.of_eq1 (b := b0) heq ?_) ?_ | refine Keeps.cut (Keeps.of_eq4 (b := b0) heq ?_) ?_); (focus (clear heq; (repeat' first | (simp (maxDischargeDepth := 99) only [KIss.hold, KIss.done, KIss.fault, KIss.wait, Keeps.upd, Keeps.updId, Keeps.ite, Keeps.foldl, Keeps.foldl2, Keeps.foldl3, Keeps.refl, implies_true, keeps_drawFree128, *]; done) | with_reducible apply Keeps.fold1 | with_reducible apply Keeps.fold2 | with_reducible apply Keeps.fold3 | with_reducible apply Keeps.fold21 | intro _ | split | dsimp only))); intro hz; (try dsimp only at hz); clear heq)))

theorem keeps_execLd {b0 : State} (t : TileId) (g : Slot) (w : LoadWord) {s : State} (hK : Keeps b0 s) :
    ∀ u, execLd t g w s = .next u → Keeps b0 u := by
  unfold execLd
  refine keeps_memIssue _ _ _ _ _ _ _ _ _ _ (fun y0 gr l u hy0 hu => ?_) hK
  extract_lets +onlyGivenNames y put at hu
  have hy : Keeps b0 y := keeps_correctedBy _ _ hy0
  clear_value y
  have hp : ∀ (r : Nat × Group × State) v, Keeps b0 r.2.2 → put r = some v → Keeps b0 v := by
    intro r v hr hv
    cases hv
    exact keeps_grtFault _ _ (keeps_setGroup _ _ _ hr)
  clear_value put
  split at hu
  · exact keeps_loadGlobal _ _ _ _ _ _ _ _ hy _ hu
  · exact hp _ _ (keeps_loadLocal _ _ _ _ _ _ hy) hu
  · extract_lets +onlyGivenNames v at hu
    have hv : Keeps b0 v := Keeps.fold1 (fun y a hy => keeps_drpSeen _ _ _ _ hy) hy
    clear_value v
    exact hp _ _ (keeps_loadLocal _ _ _ _ _ _ hv) hu

theorem keeps_storeMarks {b0 : State} {s : State} (t : Nat) (g : Nat) (space : Nat) (a : Nat) (n : Nat) (hK : Keeps b0 s) :
    Keeps b0 (storeMarks s t g space a n) := by
  unfold storeMarks; (repeat' split) <;> simp (maxDischargeDepth := 99) only [KIss.hold, KIss.done, KIss.fault, KIss.wait,
        Keeps.upd, Keeps.updId, Keeps.ite, Keeps.foldl, Keeps.foldl2, Keeps.foldl3, Keeps.refl, implies_true, keeps_keepOut,
        keeps_keepOutGrotto, *]

theorem keeps_execSt {b0 : State} (t : TileId) (g : Slot) (w : BitVec 56) {s : State} (hK : Keeps b0 s) :
    ∀ u, execSt t g w s = .next u → Keeps b0 u := by
  unfold execSt
  refine keeps_memIssue _ _ _ _ _ _ _ _ _ _ (fun y gr l u hy hu => ?_) hK
  extract_lets +onlyGivenNames len data v at hu
  have hv : Keeps b0 v := by
    dsimp only [v]
    split
    · exact keeps_storeGlobal _ _ _ _ hy
    · exact Keeps.fold1 (fun y a hy => keeps_slmWrite _ _ _ hy) hy
    · exact Keeps.fold1 (fun y a hy => keeps_grtWrite _ _ _ hy) hy
  clear_value v
  cases hu
  exact Keeps.fold1 (fun y a hy => keeps_storeMarks _ _ _ _ _ hy) hv

theorem keeps_atomLocal {b0 : State} {s : State} (t g w : Nat) (gr : Group) (las : List (Nat × Nat))
    (f : State → Nat → List (Nat × Nat) → Nat × List Nat × State) (hf : ∀ y a l, Keeps b0 y → Keeps b0 (f y a l).2.2)
    (hK : Keeps b0 s) : Keeps b0 (atomLocal s t g w gr las f) := by
  unfold atomLocal
  extract_lets n
  split
  rename_i code res v hv
  have hz : Keeps b0 v := by
    refine Keeps.of_eq3 hv ?_
    clear hv
    refine Keeps.fold3 (fun c d y a hy => ?_) hK
    extract_lets +onlyGivenNames mine hazard
    split
    rename_i c outs v' h1
    have k1 := Keeps.of_eq3 h1 (hf _ _ _ hy)
    split
    rename_i outs' v'' h2
    have k2 : Keeps b0 v'' := by
      refine Keeps.of_eq h2 ?_
      split
      · exact keeps_drawList _ k1
      · exact k1
    exact keeps_storeMarks _ _ _ _ _ k2
  split
  · exact hz
  · exact keeps_grtFault _ _ (keeps_setGroup _ _ _ hz)

theorem keeps_execAtom {b0 : State} (t : TileId) (g : Slot) (w : BitVec 56) {s : State} (hK : Keeps b0 s) :
    ∀ u, execAtom t g w s = .next u → Keeps b0 u := by
  unfold execAtom
  refine keeps_memIssue _ _ _ _ _ _ _ _ _ _ (fun y gr l u hy hu => ?_) hK
  extract_lets +onlyGivenNames ty at hu
  split at hu
  · extract_lets v at hu
    have hv : Keeps b0 v := keeps_atomGlobal _ _ _ _ _ _ hy
    clear_value v
    cases hu
    exact Keeps.fold1 (fun y a hy => keeps_storeMarks _ _ _ _ _ hy) hv
  · cases hu
    refine keeps_atomLocal _ _ _ _ _ _ (fun v a ops hv => ?_) hy
    split
    exact keeps_slmWrite _ _ _ hv
  · cases hu
    exact keeps_atomLocal _ _ _ _ _ _ (fun v a ops hv => keeps_grtAtomic _ _ _ _ _ _ hv) hy

theorem keeps_execPf {b0 : State} (t : TileId) (g : Slot) (w : BitVec 56) {s : State} (hK : Keeps b0 s) :
    ∀ u, execPf t g w s = .next u → Keeps b0 u := by
  unfold execPf
  repeat' first
    | with_reducible assumption
    | with_reducible apply keeps_issue
    | refine fun (y : State) (gr : Group) (hy : Keeps b0 y) => ?_
    | (simp (maxDischargeDepth := 99) only [KIss.hold, KIss.done, KIss.fault, KIss.wait, Keeps.upd, Keeps.updId, Keeps.ite, Keeps.foldl, Keeps.foldl2, Keeps.foldl3, Keeps.refl, implies_true, keeps_translate, keeps_prefetchGlobal, *]; done)
    | (intro t ht; injection ht with ht; subst ht)
    | (intro t ht; contradiction)
    | (split <;> (try (rename_i heq; (first | refine Keeps.cut (Keeps.of_eq (b := b0) heq ?_) ?_ | refine Keeps.cut (Keeps.of_eq3 (b := b0) heq ?_) ?_ | refine Keeps.cut (Keeps.of_eq1 (b := b0) heq ?_) ?_ | refine Keeps.cut (Keeps.of_eq4 (b := b0) heq ?_) ?_); (focus (clear heq; (repeat' first | (simp (maxDischargeDepth := 99) only [KIss.hold, KIss.done, KIss.fault, KIss.wait, Keeps.upd, Keeps.updId, Keeps.ite, Keeps.foldl, Keeps.foldl2, Keeps.foldl3, Keeps.refl, implies_true, keeps_translate, keeps_prefetchGlobal, *]; done) | with_reducible apply Keeps.fold1 | with_reducible apply Keeps.fold2 | with_reducible apply Keeps.fold3 | with_reducible apply Keeps.fold21 | intro _ | split | dsimp only))); intro hz; (try dsimp only at hz); clear heq)))
    | intro _

theorem keeps_goTo {b0 : State} (t : Nat) (g : Nat) (gr : Group) {s : State} (hK : Keeps b0 s) :
    KIss b0 (goTo t g gr s) := by
  unfold goTo; simp (maxDischargeDepth := 99) only [KIss.hold, KIss.done, KIss.fault, KIss.wait, Keeps.upd, Keeps.updId,
        Keeps.ite, Keeps.foldl, Keeps.foldl2, Keeps.foldl3, Keeps.refl, implies_true, keeps_setGroup, *]

theorem keeps_execBr {b0 : State} (t : TileId) (g : Slot) (w : BitVec 56) {s : State} (hK : Keeps b0 s) :
    ∀ u, execBr t g w s = .next u → Keeps b0 u := by
  unfold execBr
  repeat' first
    | with_reducible assumption
    | with_reducible apply keeps_issue
    | refine fun (y : State) (gr : Group) (hy : Keeps b0 y) => ?_
    | (extract_lets +onlyGivenNames z; first | ((first | refine Keeps.cut (p := Keeps b0 z) ?_ ?_ | refine Keeps.cut (p := Keeps b0 z.2) ?_ ?_ | refine Keeps.cut (p := Keeps b0 z.2.2) ?_ ?_ | refine Keeps.cut (p := Keeps b0 z.1) ?_ ?_ | refine Keeps.cut (p := Keeps b0 z.s) ?_ ?_ | refine Keeps.cut (p := Keeps b0 z.2.s) ?_ ?_ | refine Keeps.cut (p := Keeps b0 z.2.2.s) ?_ ?_); (focus (intros; dsimp only [z]; (repeat' first | (simp (maxDischargeDepth := 99) only [KIss.hold, KIss.done, KIss.fault, KIss.wait, Keeps.upd, Keeps.updId, Keeps.ite, Keeps.foldl, Keeps.foldl2, Keeps.foldl3, Keeps.refl, implies_true, keeps_goTo, *]; done) | with_reducible apply Keeps.fold1 | with_reducible apply Keeps.fold2 | with_reducible apply Keeps.fold3 | with_reducible apply Keeps.fold21 | intro _ | split | dsimp only))); intro hz; clear_value z) | clear_value z | skip)
    | (simp (maxDischargeDepth := 99) only [KIss.hold, KIss.done, KIss.fault, KIss.wait, Keeps.upd, Keeps.updId, Keeps.ite, Keeps.foldl, Keeps.foldl2, Keeps.foldl3, Keeps.refl, implies_true, keeps_goTo, *]; done)
    | (intro t ht; injection ht with ht; subst ht)
    | (intro t ht; contradiction)
    | with_reducible apply Keeps.fold1
    | with_reducible apply Keeps.fold2
    | with_reducible apply Keeps.fold3
    | with_reducible apply Keeps.fold21
    | (split <;> (try (rename_i heq; (first | refine Keeps.cut (Keeps.of_eq (b := b0) heq ?_) ?_ | refine Keeps.cut (Keeps.of_eq3 (b := b0) heq ?_) ?_ | refine Keeps.cut (Keeps.of_eq1 (b := b0) heq ?_) ?_ | refine Keeps.cut (Keeps.of_eq4 (b := b0) heq ?_) ?_); (focus (clear heq; (repeat' first | (simp (maxDischargeDepth := 99) only [KIss.hold, KIss.done, KIss.fault, KIss.wait, Keeps.upd, Keeps.updId, Keeps.ite, Keeps.foldl, Keeps.foldl2, Keeps.foldl3, Keeps.refl, implies_true, keeps_goTo, *]; done) | with_reducible apply Keeps.fold1 | with_reducible apply Keeps.fold2 | with_reducible apply Keeps.fold3 | with_reducible apply Keeps.fold21 | intro _ | split | dsimp only))); intro hz; (try dsimp only at hz); clear heq)))
    | intro _

theorem keeps_jumpTo {b0 : State} (t : Nat) (g : Nat) (w : Nat) {s : State} (hK : Keeps b0 s) :
    ∀ u, jumpTo t g w s = .next u → Keeps b0 u := by
  unfold jumpTo
  repeat' first
    | with_reducible assumption
    | with_reducible apply keeps_issue
    | refine fun (y : State) (gr : Group) (hy : Keeps b0 y) => ?_
    | (extract_lets +onlyGivenNames z; first | ((first | refine Keeps.cut (p := Keeps b0 z) ?_ ?_ | refine Keeps.cut (p := Keeps b0 z.2) ?_ ?_ | refine Keeps.cut (p := Keeps b0 z.2.2) ?_ ?_ | refine Keeps.cut (p := Keeps b0 z.1) ?_ ?_ | refine Keeps.cut (p := Keeps b0 z.s) ?_ ?_ | refine Keeps.cut (p := Keeps b0 z.2.s) ?_ ?_ | refine Keeps.cut (p := Keeps b0 z.2.2.s) ?_ ?_); (focus (intros; dsimp only [z]; (repeat' first | (simp (maxDischargeDepth := 99) only [KIss.hold, KIss.done, KIss.fault, KIss.wait, Keeps.upd, Keeps.updId, Keeps.ite, Keeps.foldl, Keeps.foldl2, Keeps.foldl3, Keeps.refl, implies_true, keeps_goTo, *]; done) | with_reducible apply Keeps.fold1 | with_reducible apply Keeps.fold2 | with_reducible apply Keeps.fold3 | with_reducible apply Keeps.fold21 | intro _ | split | dsimp only))); intro hz; clear_value z) | clear_value z | skip)
    | (simp (maxDischargeDepth := 99) only [KIss.hold, KIss.done, KIss.fault, KIss.wait, Keeps.upd, Keeps.updId, Keeps.ite, Keeps.foldl, Keeps.foldl2, Keeps.foldl3, Keeps.refl, implies_true, keeps_goTo, *]; done)
    | (intro t ht; injection ht with ht; subst ht)
    | (intro t ht; contradiction)
    | with_reducible apply Keeps.fold1
    | with_reducible apply Keeps.fold2
    | with_reducible apply Keeps.fold3
    | with_reducible apply Keeps.fold21
    | (split <;> (try (rename_i heq; (first | refine Keeps.cut (Keeps.of_eq (b := b0) heq ?_) ?_ | refine Keeps.cut (Keeps.of_eq3 (b := b0) heq ?_) ?_ | refine Keeps.cut (Keeps.of_eq1 (b := b0) heq ?_) ?_ | refine Keeps.cut (Keeps.of_eq4 (b := b0) heq ?_) ?_); (focus (clear heq; (repeat' first | (simp (maxDischargeDepth := 99) only [KIss.hold, KIss.done, KIss.fault, KIss.wait, Keeps.upd, Keeps.updId, Keeps.ite, Keeps.foldl, Keeps.foldl2, Keeps.foldl3, Keeps.refl, implies_true, keeps_goTo, *]; done) | with_reducible apply Keeps.fold1 | with_reducible apply Keeps.fold2 | with_reducible apply Keeps.fold3 | with_reducible apply Keeps.fold21 | intro _ | split | dsimp only))); intro hz; (try dsimp only at hz); clear heq)))
    | intro _

theorem keeps_execJmp {b0 : State} (t : TileId) (g : Slot) (w : BitVec 56) {s : State} (hK : Keeps b0 s) :
    ∀ u, execJmp t g w s = .next u → Keeps b0 u := by
  unfold execJmp; exact keeps_jumpTo _ _ _ hK

theorem keeps_execRet {b0 : State} (t : TileId) (g : Slot) (w : BitVec 56) {s : State} (hK : Keeps b0 s) :
    ∀ u, execRet t g w s = .next u → Keeps b0 u := by
  unfold execRet; exact keeps_jumpTo _ _ _ hK

theorem keeps_execCall {b0 : State} (t : TileId) (g : Slot) (w : BitVec 56) {s : State} (hK : Keeps b0 s) :
    ∀ u, execCall t g w s = .next u → Keeps b0 u := by
  unfold execCall
  repeat' first
    | with_reducible assumption
    | with_reducible apply keeps_issue
    | refine fun (y : State) (gr : Group) (hy : Keeps b0 y) => ?_
    | (extract_lets +onlyGivenNames z; first | ((first | refine Keeps.cut (p := Keeps b0 z) ?_ ?_ | refine Keeps.cut (p := Keeps b0 z.2) ?_ ?_ | refine Keeps.cut (p := Keeps b0 z.2.2) ?_ ?_ | refine Keeps.cut (p := Keeps b0 z.1) ?_ ?_ | refine Keeps.cut (p := Keeps b0 z.s) ?_ ?_ | refine Keeps.cut (p := Keeps b0 z.2.s) ?_ ?_ | refine Keeps.cut (p := Keeps b0 z.2.2.s) ?_ ?_); (focus (intros; dsimp only [z]; (repeat' first | (simp (maxDischargeDepth := 99) only [KIss.hold, KIss.done, KIss.fault, KIss.wait, Keeps.upd, Keeps.updId, Keeps.ite, Keeps.foldl, Keeps.foldl2, Keeps.foldl3, Keeps.refl, implies_true, keeps_goTo, *]; done) | with_reducible apply Keeps.fold1 | with_reducible apply Keeps.fold2 | with_reducible apply Keeps.fold3 | with_reducible apply Keeps.fold21 | intro _ | split | dsimp only))); intro hz; clear_value z) | clear_value z | skip)
    | (simp (maxDischargeDepth := 99) only [KIss.hold, KIss.done, KIss.fault, KIss.wait, Keeps.upd, Keeps.updId, Keeps.ite, Keeps.foldl, Keeps.foldl2, Keeps.foldl3, Keeps.refl, implies_true, keeps_goTo, *]; done)
    | (intro t ht; injection ht with ht; subst ht)
    | (intro t ht; contradiction)
    | with_reducible apply Keeps.fold1
    | with_reducible apply Keeps.fold2
    | with_reducible apply Keeps.fold3
    | with_reducible apply Keeps.fold21
    | (split <;> (try (rename_i heq; (first | refine Keeps.cut (Keeps.of_eq (b := b0) heq ?_) ?_ | refine Keeps.cut (Keeps.of_eq3 (b := b0) heq ?_) ?_ | refine Keeps.cut (Keeps.of_eq1 (b := b0) heq ?_) ?_ | refine Keeps.cut (Keeps.of_eq4 (b := b0) heq ?_) ?_); (focus (clear heq; (repeat' first | (simp (maxDischargeDepth := 99) only [KIss.hold, KIss.done, KIss.fault, KIss.wait, Keeps.upd, Keeps.updId, Keeps.ite, Keeps.foldl, Keeps.foldl2, Keeps.foldl3, Keeps.refl, implies_true, keeps_goTo, *]; done) | with_reducible apply Keeps.fold1 | with_reducible apply Keeps.fold2 | with_reducible apply Keeps.fold3 | with_reducible apply Keeps.fold21 | intro _ | split | dsimp only))); intro hz; (try dsimp only at hz); clear heq)))
    | intro _

theorem keeps_execExit {b0 : State} (t : TileId) (g : Slot) (w : BitVec 56) {s : State} (hK : Keeps b0 s) :
    ∀ u, execExit t g w s = .next u → Keeps b0 u := by
  unfold execExit
  repeat' first
    | with_reducible assumption
    | with_reducible apply keeps_issue
    | refine fun (y : State) (gr : Group) (hy : Keeps b0 y) => ?_
    | (extract_lets +onlyGivenNames z; first | ((first | refine Keeps.cut (p := Keeps b0 z) ?_ ?_ | refine Keeps.cut (p := Keeps b0 z.2) ?_ ?_ | refine Keeps.cut (p := Keeps b0 z.2.2) ?_ ?_ | refine Keeps.cut (p := Keeps b0 z.1) ?_ ?_ | refine Keeps.cut (p := Keeps b0 z.s) ?_ ?_ | refine Keeps.cut (p := Keeps b0 z.2.s) ?_ ?_ | refine Keeps.cut (p := Keeps b0 z.2.2.s) ?_ ?_); (focus (intros; dsimp only [z]; (repeat' first | (simp (maxDischargeDepth := 99) only [KIss.hold, KIss.done, KIss.fault, KIss.wait, Keeps.upd, Keeps.updId, Keeps.ite, Keeps.foldl, Keeps.foldl2, Keeps.foldl3, Keeps.refl, implies_true, keeps_setGroup, keeps_retire, *]; done) | with_reducible apply Keeps.fold1 | with_reducible apply Keeps.fold2 | with_reducible apply Keeps.fold3 | with_reducible apply Keeps.fold21 | intro _ | split | dsimp only))); intro hz; clear_value z) | clear_value z | skip)
    | (simp (maxDischargeDepth := 99) only [KIss.hold, KIss.done, KIss.fault, KIss.wait, Keeps.upd, Keeps.updId, Keeps.ite, Keeps.foldl, Keeps.foldl2, Keeps.foldl3, Keeps.refl, implies_true, keeps_setGroup, keeps_retire, *]; done)
    | (intro t ht; injection ht with ht; subst ht)
    | (intro t ht; contradiction)
    | with_reducible apply Keeps.fold1
    | with_reducible apply Keeps.fold2
    | with_reducible apply Keeps.fold3
    | with_reducible apply Keeps.fold21
    | (split <;> (try (rename_i heq; (first | refine Keeps.cut (Keeps.of_eq (b := b0) heq ?_) ?_ | refine Keeps.cut (Keeps.of_eq3 (b := b0) heq ?_) ?_ | refine Keeps.cut (Keeps.of_eq1 (b := b0) heq ?_) ?_ | refine Keeps.cut (Keeps.of_eq4 (b := b0) heq ?_) ?_); (focus (clear heq; (repeat' first | (simp (maxDischargeDepth := 99) only [KIss.hold, KIss.done, KIss.fault, KIss.wait, Keeps.upd, Keeps.updId, Keeps.ite, Keeps.foldl, Keeps.foldl2, Keeps.foldl3, Keeps.refl, implies_true, keeps_setGroup, keeps_retire, *]; done) | with_reducible apply Keeps.fold1 | with_reducible apply Keeps.fold2 | with_reducible apply Keeps.fold3 | with_reducible apply Keeps.fold21 | intro _ | split | dsimp only))); intro hz; (try dsimp only at hz); clear heq)))
    | intro _

theorem keeps_execTrap {b0 : State} (t : TileId) (g : Slot) (w : BitVec 56) {s : State} (hK : Keeps b0 s) :
    ∀ u, execTrap t g w s = .next u → Keeps b0 u := by
  unfold execTrap
  repeat' first
    | with_reducible assumption
    | with_reducible apply keeps_issue
    | refine fun (y : State) (gr : Group) (hy : Keeps b0 y) => ?_
    | (simp (maxDischargeDepth := 99) only [KIss.hold, KIss.done, KIss.fault, KIss.wait, Keeps.upd, Keeps.updId, Keeps.ite, Keeps.foldl, Keeps.foldl2, Keeps.foldl3, Keeps.refl, implies_true, keeps_preciseFaultAt, *]; done)
    | (intro t ht; injection ht with ht; subst ht)
    | (intro t ht; contradiction)
    | (split <;> (try (rename_i heq; (first | refine Keeps.cut (Keeps.of_eq (b := b0) heq ?_) ?_ | refine Keeps.cut (Keeps.of_eq3 (b := b0) heq ?_) ?_ | refine Keeps.cut (Keeps.of_eq1 (b := b0) heq ?_) ?_ | refine Keeps.cut (Keeps.of_eq4 (b := b0) heq ?_) ?_); (focus (clear heq; (repeat' first | (simp (maxDischargeDepth := 99) only [KIss.hold, KIss.done, KIss.fault, KIss.wait, Keeps.upd, Keeps.updId, Keeps.ite, Keeps.foldl, Keeps.foldl2, Keeps.foldl3, Keeps.refl, implies_true, keeps_preciseFaultAt, *]; done) | with_reducible apply Keeps.fold1 | with_reducible apply Keeps.fold2 | with_reducible apply Keeps.fold3 | with_reducible apply Keeps.fold21 | intro _ | split | dsimp only))); intro hz; (try dsimp only at hz); clear heq)))
    | intro _

theorem keeps_phaseDone {b0 : State} {s : State} (t : Nat) (b : Nat) (hK : Keeps b0 s) :
    Keeps b0 (phaseDone s t b) := by
  unfold phaseDone
  repeat' first
    | with_reducible assumption
    | (extract_lets +onlyGivenNames z; first | ((first | refine Keeps.cut (p := Keeps b0 z) ?_ ?_ | refine Keeps.cut (p := Keeps b0 z.2) ?_ ?_ | refine Keeps.cut (p := Keeps b0 z.2.2) ?_ ?_ | refine Keeps.cut (p := Keeps b0 z.1) ?_ ?_ | refine Keeps.cut (p := Keeps b0 z.s) ?_ ?_ | refine Keeps.cut (p := Keeps b0 z.2.s) ?_ ?_ | refine Keeps.cut (p := Keeps b0 z.2.2.s) ?_ ?_); (focus (intros; dsimp only [z]; (repeat' first | (simp (maxDischargeDepth := 99) only [KIss.hold, KIss.done, KIss.fault, KIss.wait, Keeps.upd, Keeps.updId, Keeps.ite, Keeps.foldl, Keeps.foldl2, Keeps.foldl3, Keeps.refl, implies_true, keeps_setTile, keeps_setGroup, *]; done) | with_reducible apply Keeps.fold1 | with_reducible apply Keeps.fold2 | with_reducible apply Keeps.fold3 | with_reducible apply Keeps.fold21 | intro _ | split | dsimp only))); intro hz; clear_value z) | clear_value z | skip)
    | (simp (maxDischargeDepth := 99) only [KIss.hold, KIss.done, KIss.fault, KIss.wait, Keeps.upd, Keeps.updId, Keeps.ite, Keeps.foldl, Keeps.foldl2, Keeps.foldl3, Keeps.refl, implies_true, keeps_setTile, keeps_setGroup, *]; done)
    | with_reducible apply Keeps.fold1
    | with_reducible apply Keeps.fold2
    | with_reducible apply Keeps.fold3
    | with_reducible apply Keeps.fold21
    | intro _
    | (split <;> (try (rename_i heq; (first | refine Keeps.cut (Keeps.of_eq (b := b0) heq ?_) ?_ | refine Keeps.cut (Keeps.of_eq3 (b := b0) heq ?_) ?_ | refine Keeps.cut (Keeps.of_eq1 (b := b0) heq ?_) ?_ | refine Keeps.cut (Keeps.of_eq4 (b := b0) heq ?_) ?_ | refine Keeps.cut (keeps_ready (b0 := b0) _ _ ?_ _ heq) ?_); (focus (clear heq; (repeat' first | (simp (maxDischargeDepth := 99) only [KIss.hold, KIss.done, KIss.fault, KIss.wait, Keeps.upd, Keeps.updId, Keeps.ite, Keeps.foldl, Keeps.foldl2, Keeps.foldl3, Keeps.refl, implies_true, keeps_setTile, keeps_setGroup, *]; done) | with_reducible apply Keeps.fold1 | with_reducible apply Keeps.fold2 | with_reducible apply Keeps.fold3 | with_reducible apply Keeps.fold21 | intro _ | split | dsimp only))); intro hz; (try dsimp only at hz); clear heq)))

theorem keeps_arrive {b0 : State} {s : State} (t : Nat) (b : Nat) (n : Nat) (g : Nat) (waits : Bool) (hK : Keeps b0 s) :
    Keeps b0 (arrive s t b n g waits) := by
  unfold arrive; simp (maxDischargeDepth := 99) only [KIss.hold, KIss.done, KIss.fault, KIss.wait, Keeps.upd, Keeps.updId,
        Keeps.ite, Keeps.foldl, Keeps.foldl2, Keeps.foldl3, Keeps.refl, implies_true, keeps_setTile, keeps_phaseDone, *]

theorem keeps_execBar {b0 : State} (t : TileId) (g : Slot) (w : BitVec 56) {s : State} (hK : Keeps b0 s) :
    ∀ u, execBar t g w s = .next u → Keeps b0 u := by
  unfold execBar
  repeat' first
    | with_reducible assumption
    | with_reducible apply keeps_issue
    | refine fun (y : State) (gr : Group) (hy : Keeps b0 y) => ?_
    | (extract_lets +onlyGivenNames z; first | ((first | refine Keeps.cut (p := Keeps b0 z) ?_ ?_ | refine Keeps.cut (p := Keeps b0 z.2) ?_ ?_ | refine Keeps.cut (p := Keeps b0 z.2.2) ?_ ?_ | refine Keeps.cut (p := Keeps b0 z.1) ?_ ?_ | refine Keeps.cut (p := Keeps b0 z.s) ?_ ?_ | refine Keeps.cut (p := Keeps b0 z.2.s) ?_ ?_ | refine Keeps.cut (p := Keeps b0 z.2.2.s) ?_ ?_ | refine Keeps.cut (p := ∀ b y a, Keeps b y → Keeps b (z y a)) ?_ ?_ | refine Keeps.cut (p := ∀ b a y, Keeps b y → Keeps b (z a y)) ?_ ?_ | refine Keeps.cut (p := ∀ b y, Keeps b y → Keeps b (z y)) ?_ ?_ | refine Keeps.cut (p := ∀ b y a c, Keeps b y → Keeps b (z y a c)) ?_ ?_ | refine Keeps.cut (p := ∀ b y, Keeps b y → Keeps b (z y).2) ?_ ?_ | refine Keeps.cut (p := ∀ b y a, Keeps b y → Keeps b (z y a).2) ?_ ?_ | refine Keeps.cut (p := ∀ b y, Keeps b y → Keeps b (z y).2.2) ?_ ?_ | refine Keeps.cut (p := ∀ a, Keeps b0 (z a)) ?_ ?_ | refine Keeps.cut (p := ∀ a c, Keeps b0 (z a c)) ?_ ?_ | refine Keeps.cut (p := ∀ a, Keeps b0 (z a).2) ?_ ?_ | refine Keeps.cut (p := ∀ a c d, Keeps b0 (z a c d)) ?_ ?_ | refine Keeps.cut (p := ∀ a, Keeps b0 (z a).2.2) ?_ ?_); (focus (intros; dsimp only [z]; (repeat' first | (simp (maxDischargeDepth := 99) only [KIss.hold, KIss.done, KIss.fault, KIss.wait, Keeps.upd, Keeps.updId, Keeps.ite, Keeps.foldl, Keeps.foldl2, Keeps.foldl3, Keeps.refl, implies_true, keeps_setTile, keeps_setGroup, keeps_arrive, *]; done) | with_reducible apply Keeps.fold1 | with_reducible apply Keeps.fold2 | with_reducible apply Keeps.fold3 | with_reducible apply Keeps.fold21 | intro _ | split | dsimp only))); intro hz; clear_value z) | clear_value z | skip)
    | (simp (maxDischargeDepth := 99) only [KIss.hold, KIss.done, KIss.fault, KIss.wait, Keeps.upd, Keeps.updId, Keeps.ite, Keeps.foldl, Keeps.foldl2, Keeps.foldl3, Keeps.refl, implies_true, keeps_setTile, keeps_setGroup, keeps_arrive, *]; done)
    | (intro t ht; injection ht with ht; subst ht)
    | (intro t ht; contradiction)
    | with_reducible apply Keeps.fold1
    | with_reducible apply Keeps.fold2
    | with_reducible apply Keeps.fold3
    | with_reducible apply Keeps.fold21
    | (split <;> (try (rename_i heq; (first | refine Keeps.cut (Keeps.of_eq (b := b0) heq ?_) ?_ | refine Keeps.cut (Keeps.of_eq3 (b := b0) heq ?_) ?_ | refine Keeps.cut (Keeps.of_eq1 (b := b0) heq ?_) ?_ | refine Keeps.cut (Keeps.of_eq4 (b := b0) heq ?_) ?_); (focus (clear heq; (repeat' first | (simp (maxDischargeDepth := 99) only [KIss.hold, KIss.done, KIss.fault, KIss.wait, Keeps.upd, Keeps.updId, Keeps.ite, Keeps.foldl, Keeps.foldl2, Keeps.foldl3, Keeps.refl, implies_true, keeps_setTile, keeps_setGroup, keeps_arrive, *]; done) | with_reducible apply Keeps.fold1 | with_reducible apply Keeps.fold2 | with_reducible apply Keeps.fold3 | with_reducible apply Keeps.fold21 | intro _ | split | dsimp only))); intro hz; (try dsimp only at hz); clear heq)))
    | intro _

theorem keeps_barDeadlock {b0 : State} {s : State} (t : Nat) (hK : Keeps b0 s) :
    Keeps b0 (barDeadlock s t) := by
  unfold barDeadlock
  repeat' first
    | with_reducible assumption
    | (extract_lets +onlyGivenNames z; first | ((first | refine Keeps.cut (p := Keeps b0 z) ?_ ?_ | refine Keeps.cut (p := Keeps b0 z.2) ?_ ?_ | refine Keeps.cut (p := Keeps b0 z.2.2) ?_ ?_ | refine Keeps.cut (p := Keeps b0 z.1) ?_ ?_ | refine Keeps.cut (p := Keeps b0 z.s) ?_ ?_ | refine Keeps.cut (p := Keeps b0 z.2.s) ?_ ?_ | refine Keeps.cut (p := Keeps b0 z.2.2.s) ?_ ?_); (focus (intros; dsimp only [z]; (repeat' first | (simp (maxDischargeDepth := 99) only [KIss.hold, KIss.done, KIss.fault, KIss.wait, Keeps.upd, Keeps.updId, Keeps.ite, Keeps.foldl, Keeps.foldl2, Keeps.foldl3, Keeps.refl, implies_true, keeps_preciseFault, *]; done) | with_reducible apply Keeps.fold1 | with_reducible apply Keeps.fold2 | with_reducible apply Keeps.fold3 | with_reducible apply Keeps.fold21 | intro _ | split | dsimp only))); intro hz; clear_value z) | clear_value z | skip)
    | (simp (maxDischargeDepth := 99) only [KIss.hold, KIss.done, KIss.fault, KIss.wait, Keeps.upd, Keeps.updId, Keeps.ite, Keeps.foldl, Keeps.foldl2, Keeps.foldl3, Keeps.refl, implies_true, keeps_preciseFault, *]; done)
    | with_reducible apply Keeps.fold1
    | with_reducible apply Keeps.fold2
    | with_reducible apply Keeps.fold3
    | with_reducible apply Keeps.fold21
    | intro _
    | (split <;> (try (rename_i heq; (first | refine Keeps.cut (Keeps.of_eq (b := b0) heq ?_) ?_ | refine Keeps.cut (Keeps.of_eq3 (b := b0) heq ?_) ?_ | refine Keeps.cut (Keeps.of_eq1 (b := b0) heq ?_) ?_ | refine Keeps.cut (Keeps.of_eq4 (b := b0) heq ?_) ?_); (focus (clear heq; (repeat' first | (simp (maxDischargeDepth := 99) only [KIss.hold, KIss.done, KIss.fault, KIss.wait, Keeps.upd, Keeps.updId, Keeps.ite, Keeps.foldl, Keeps.foldl2, Keeps.foldl3, Keeps.refl, implies_true, keeps_preciseFault, *]; done) | with_reducible apply Keeps.fold1 | with_reducible apply Keeps.fold2 | with_reducible apply Keeps.fold3 | with_reducible apply Keeps.fold21 | intro _ | split | dsimp only))); intro hz; (try dsimp only at hz); clear heq)))

theorem keeps_execBarDeadlock {b0 : State} (t : TileId) {s : State} (hK : Keeps b0 s) :
    ∀ u, execBarDeadlock t s = .next u → Keeps b0 u := by
  unfold execBarDeadlock; intro t ht; injection ht with ht; subst ht; simp (maxDischargeDepth := 99) only [KIss.hold,
        KIss.done, KIss.fault, KIss.wait, Keeps.upd, Keeps.updId, Keeps.ite, Keeps.foldl, Keeps.foldl2, Keeps.foldl3,
        Keeps.refl, implies_true, keeps_barDeadlock, *]

theorem keeps_fence {b0 : State} (scope : Nat) (first last : State → State) (quiet : State → Group → Bool) (t g w : Nat)
    {s : State} (h1 : ∀ y, Keeps b0 y → Keeps b0 (first y)) (h2 : ∀ y, Keeps b0 y → Keeps b0 (last y)) (hK : Keeps b0 s) :
    ∀ u, fence scope first last quiet t g w s = .next u → Keeps b0 u := by
  unfold fence
  extract_lets sc
  split
  · intro u hu
    injection hu with hu
    exact hu ▸ hK
  · refine keeps_issue _ _ _ _ _ (fun y gr hy => ?_) hK
    extract_lets v
    split
    · exact h2 _ (h1 _ hy)
    · exact h1 _ hy

theorem keeps_streamsFenced {b0 : State} (t : Nat) (g : Nat) {s : State} (hK : Keeps b0 s) :
    Keeps b0 (streamsFenced t g s) := by
  unfold streamsFenced; (repeat' split) <;> simp (maxDischargeDepth := 99) only [KIss.hold, KIss.done, KIss.fault, KIss.wait,
         Keeps.upd, Keeps.updId, Keeps.ite, Keeps.foldl, Keeps.foldl2, Keeps.foldl3, Keeps.refl, implies_true, keeps_setTile,
         *]

theorem keeps_execFenceGroup {b0 : State} (t : TileId) (g : Slot) (w : BitVec 56) {s : State} (hK : Keeps b0 s) :
    ∀ u, execFenceGroup t g w s = .next u → Keeps b0 u :=
  keeps_fence _ _ _ _ _ _ _ (fun _ h => h) (fun _ h => h) hK

theorem keeps_execFenceTile {b0 : State} (t : TileId) (g : Slot) (w : BitVec 56) {s : State} (hK : Keeps b0 s) :
    ∀ u, execFenceTile t g w s = .next u → Keeps b0 u :=
  keeps_fence _ _ _ _ _ _ _ (fun _ h => h) (fun _ h => keeps_streamsFenced _ _ h) hK

theorem keeps_execFenceDie {b0 : State} (t : TileId) (g : Slot) (w : BitVec 56) {s : State} (hK : Keeps b0 s) :
    ∀ u, execFenceDie t g w s = .next u → Keeps b0 u :=
  keeps_fence _ _ _ _ _ _ _ (fun _ h => keeps_l1Drain _ h) (fun _ h => keeps_l1InvAll _ h) hK

theorem keeps_execFenceDevice {b0 : State} (t : TileId) (g : Slot) (w : BitVec 56) {s : State} (hK : Keeps b0 s) :
    ∀ u, execFenceDevice t g w s = .next u → Keeps b0 u :=
  keeps_fence _ _ _ _ _ _ _ (fun _ h => keeps_l1Drain _ h) (fun _ h => keeps_l1InvAll _ h) hK

theorem keeps_execFenceSys {b0 : State} (t : TileId) (g : Slot) (w : BitVec 56) {s : State} (hK : Keeps b0 s) :
    ∀ u, execFenceSys t g w s = .next u → Keeps b0 u :=
  keeps_fence _ _ _ _ _ _ _ (fun _ h => keeps_l1Drain _ h) (fun _ h => keeps_l1InvAll _ h) hK

theorem keeps_execTileWatchdogExpiry {b0 : State} (t : TileId) {s : State} (hK : Keeps b0 s) :
    ∀ u, execTileWatchdogExpiry t s = .next u → Keeps b0 u := by
  unfold execTileWatchdogExpiry; intro t ht; injection ht with ht; subst ht; simp (maxDischargeDepth := 99) only [KIss.hold,
        KIss.done, KIss.fault, KIss.wait, Keeps.upd, Keeps.updId, Keeps.ite, Keeps.foldl, Keeps.foldl2, Keeps.foldl3,
        Keeps.refl, implies_true, keeps_report, keeps_fenceTile, *]

theorem keeps_execTileUncorrectable {b0 : State} (t : TileId) {s : State} (hK : Keeps b0 s) :
    ∀ u, execTileUncorrectable t s = .next u → Keeps b0 u := by
  unfold execTileUncorrectable; intro t ht; injection ht with ht; subst ht; simp (maxDischargeDepth := 99) only [KIss.hold,
        KIss.done, KIss.fault, KIss.wait, Keeps.upd, Keeps.updId, Keeps.ite, Keeps.foldl, Keeps.foldl2, Keeps.foldl3,
        Keeps.refl, implies_true, keeps_report, keeps_imprecise, keeps_fenceTile, *]

theorem keeps_execTilePreciseFault {b0 : State} (t : TileId) (g : Slot) (w : W64) {s : State} (hK : Keeps b0 s) :
    ∀ u, execTilePreciseFault t g w s = .next u → Keeps b0 u := by
  unfold execTilePreciseFault
  repeat' first
    | with_reducible assumption
    | refine fun (y : State) (gr : Group) (hy : Keeps b0 y) => ?_
    | (extract_lets +onlyGivenNames z; first | ((first | refine Keeps.cut (p := Keeps b0 z) ?_ ?_ | refine Keeps.cut (p := Keeps b0 z.2) ?_ ?_ | refine Keeps.cut (p := Keeps b0 z.2.2) ?_ ?_ | refine Keeps.cut (p := Keeps b0 z.1) ?_ ?_ | refine Keeps.cut (p := Keeps b0 z.s) ?_ ?_ | refine Keeps.cut (p := Keeps b0 z.2.s) ?_ ?_ | refine Keeps.cut (p := Keeps b0 z.2.2.s) ?_ ?_); (focus (intros; dsimp only [z]; (repeat' first | (simp (maxDischargeDepth := 99) only [KIss.hold, KIss.done, KIss.fault, KIss.wait, Keeps.upd, Keeps.updId, Keeps.ite, Keeps.foldl, Keeps.foldl2, Keeps.foldl3, Keeps.refl, implies_true, keeps_translate, keeps_imprecise, keeps_preciseFaultAt, *]; done) | with_reducible apply Keeps.fold1 | with_reducible apply Keeps.fold2 | with_reducible apply Keeps.fold3 | with_reducible apply Keeps.fold21 | intro _ | split | dsimp only))); intro hz; clear_value z) | clear_value z | skip)
    | (simp (maxDischargeDepth := 99) only [KIss.hold, KIss.done, KIss.fault, KIss.wait, Keeps.upd, Keeps.updId, Keeps.ite, Keeps.foldl, Keeps.foldl2, Keeps.foldl3, Keeps.refl, implies_true, keeps_translate, keeps_imprecise, keeps_preciseFaultAt, *]; done)
    | (intro t ht; injection ht with ht; subst ht)
    | (intro t ht; contradiction)
    | with_reducible apply Keeps.fold1
    | with_reducible apply Keeps.fold2
    | with_reducible apply Keeps.fold3
    | with_reducible apply Keeps.fold21
    | (split <;> (try (rename_i heq; (first | refine Keeps.cut (Keeps.of_eq (b := b0) heq ?_) ?_ | refine Keeps.cut (Keeps.of_eq3 (b := b0) heq ?_) ?_ | refine Keeps.cut (Keeps.of_eq1 (b := b0) heq ?_) ?_ | refine Keeps.cut (Keeps.of_eq4 (b := b0) heq ?_) ?_ | refine Keeps.cut (keeps_ready (b0 := b0) _ _ ?_ _ heq) ?_); (focus (clear heq; (repeat' first | (simp (maxDischargeDepth := 99) only [KIss.hold, KIss.done, KIss.fault, KIss.wait, Keeps.upd, Keeps.updId, Keeps.ite, Keeps.foldl, Keeps.foldl2, Keeps.foldl3, Keeps.refl, implies_true, keeps_translate, keeps_imprecise, keeps_preciseFaultAt, *]; done) | with_reducible apply Keeps.fold1 | with_reducible apply Keeps.fold2 | with_reducible apply Keeps.fold3 | with_reducible apply Keeps.fold21 | intro _ | split | dsimp only))); intro hz; (try dsimp only at hz); clear heq)))
    | intro _

theorem keeps_flsFault {b0 : State} {s : State} (t : Nat) (op : Nat) (slot : Nat) (block : Nat) (hK : Keeps b0 s) :
    Keeps b0 (flsFault s t op slot block) := by
  unfold flsFault; simp (maxDischargeDepth := 99) only [KIss.hold, KIss.done, KIss.fault, KIss.wait, Keeps.upd, Keeps.updId,
        Keeps.ite, Keeps.foldl, Keeps.foldl2, Keeps.foldl3, Keeps.refl, implies_true, keeps_rset, *]

theorem keeps_blockCopy {b0 : State} {s : State} (t : Nat) (g : Nat) (off : Nat) (hK : Keeps b0 s) :
    Keeps b0 (blockCopy s t g off).2 := by
  unfold blockCopy
  repeat' first
    | with_reducible assumption
    | (simp (maxDischargeDepth := 99) only [KIss.hold, KIss.done, KIss.fault, KIss.wait, Keeps.upd, Keeps.updId, Keeps.ite, Keeps.foldl, Keeps.foldl2, Keeps.foldl3, Keeps.refl, implies_true, keeps_drawFree, *]; done)
    | (split <;> (try (rename_i heq; (first | refine Keeps.cut (Keeps.of_eq (b := b0) heq ?_) ?_ | refine Keeps.cut (Keeps.of_eq3 (b := b0) heq ?_) ?_ | refine Keeps.cut (Keeps.of_eq1 (b := b0) heq ?_) ?_ | refine Keeps.cut (Keeps.of_eq4 (b := b0) heq ?_) ?_); (focus (clear heq; (repeat' first | (simp (maxDischargeDepth := 99) only [KIss.hold, KIss.done, KIss.fault, KIss.wait, Keeps.upd, Keeps.updId, Keeps.ite, Keeps.foldl, Keeps.foldl2, Keeps.foldl3, Keeps.refl, implies_true, keeps_drawFree, *]; done) | with_reducible apply Keeps.fold1 | with_reducible apply Keeps.fold2 | with_reducible apply Keeps.fold3 | with_reducible apply Keeps.fold21 | intro _ | split | dsimp only))); intro hz; (try dsimp only at hz); clear heq)))

theorem keeps_execFlsIssue {b0 : State} (t : TileId) (g : Slot) (w : BitVec 56) {s : State} (hK : Keeps b0 s) :
    ∀ u, execFlsIssue t g w s = .next u → Keeps b0 u := by
  unfold execFlsIssue
  extract_lets n
  refine keeps_issue _ _ _ _ _ (fun y gr hy => ?_) hK
  extract_lets +onlyGivenNames x off fail
  have hf : ∀ v o l c, Keeps b0 v → KIss b0 (fail v o l c) := fun v o l c hv => keeps_preciseFault _ _ _ (keeps_flsFault _ _ _ _ hv)
  clear_value fail
  split
  · exact KIss.wait
  · split
    · exact hf _ _ _ _ hy
    · split
      · exact hf _ _ _ _ hy
      · split
        rename_i bb y1 h1
        have k1 := Keeps.of_eq h1 (keeps_blockCopy _ _ _ hy)
        split
        split
        · exact hf _ _ _ _ k1
        · exact keeps_setTile _ _ (keeps_drpAccIssue _ _ _ k1)

theorem keeps_execFlsWait {b0 : State} (t : TileId) (g : Slot) (w : BitVec 56) {s : State} (hK : Keeps b0 s) :
    ∀ u, execFlsWait t g w s = .next u → Keeps b0 u := by
  unfold execFlsWait
  repeat' first
    | with_reducible assumption
    | with_reducible apply keeps_issue
    | refine fun (y : State) (gr : Group) (hy : Keeps b0 y) => ?_
    | (extract_lets +onlyGivenNames z; first | ((first | refine Keeps.cut (p := Keeps b0 z) ?_ ?_ | refine Keeps.cut (p := Keeps b0 z.2) ?_ ?_ | refine Keeps.cut (p := Keeps b0 z.2.2) ?_ ?_ | refine Keeps.cut (p := Keeps b0 z.1) ?_ ?_ | refine Keeps.cut (p := Keeps b0 z.s) ?_ ?_ | refine Keeps.cut (p := Keeps b0 z.2.s) ?_ ?_ | refine Keeps.cut (p := Keeps b0 z.2.2.s) ?_ ?_); (focus (intros; dsimp only [z]; (repeat' first | (simp (maxDischargeDepth := 99) only [KIss.hold, KIss.done, KIss.fault, KIss.wait, Keeps.upd, Keeps.updId, Keeps.ite, Keeps.foldl, Keeps.foldl2, Keeps.foldl3, Keeps.refl, implies_true, keeps_setTile, *]; done) | with_reducible apply Keeps.fold1 | with_reducible apply Keeps.fold2 | with_reducible apply Keeps.fold3 | with_reducible apply Keeps.fold21 | intro _ | split | dsimp only))); intro hz; clear_value z) | clear_value z | skip)
    | (simp (maxDischargeDepth := 99) only [KIss.hold, KIss.done, KIss.fault, KIss.wait, Keeps.upd, Keeps.updId, Keeps.ite, Keeps.foldl, Keeps.foldl2, Keeps.foldl3, Keeps.refl, implies_true, keeps_setTile, *]; done)
    | (intro t ht; injection ht with ht; subst ht)
    | (intro t ht; contradiction)
    | with_reducible apply Keeps.fold1
    | with_reducible apply Keeps.fold2
    | with_reducible apply Keeps.fold3
    | with_reducible apply Keeps.fold21
    | (split <;> (try (rename_i heq; (first | refine Keeps.cut (Keeps.of_eq (b := b0) heq ?_) ?_ | refine Keeps.cut (Keeps.of_eq3 (b := b0) heq ?_) ?_ | refine Keeps.cut (Keeps.of_eq1 (b := b0) heq ?_) ?_ | refine Keeps.cut (Keeps.of_eq4 (b := b0) heq ?_) ?_); (focus (clear heq; (repeat' first | (simp (maxDischargeDepth := 99) only [KIss.hold, KIss.done, KIss.fault, KIss.wait, Keeps.upd, Keeps.updId, Keeps.ite, Keeps.foldl, Keeps.foldl2, Keeps.foldl3, Keeps.refl, implies_true, keeps_setTile, *]; done) | with_reducible apply Keeps.fold1 | with_reducible apply Keeps.fold2 | with_reducible apply Keeps.fold3 | with_reducible apply Keeps.fold21 | intro _ | split | dsimp only))); intro hz; (try dsimp only at hz); clear heq)))
    | intro _

theorem keeps_execFlsStat {b0 : State} (t : TileId) (g : Slot) (w : BitVec 56) {s : State} (hK : Keeps b0 s) :
    ∀ u, execFlsStat t g w s = .next u → Keeps b0 u := by
  unfold execFlsStat
  repeat' first
    | with_reducible assumption
    | with_reducible apply keeps_issue
    | refine fun (y : State) (gr : Group) (hy : Keeps b0 y) => ?_
    | (simp (maxDischargeDepth := 99) only [KIss.hold, KIss.done, KIss.fault, KIss.wait, Keeps.upd, Keeps.updId, Keeps.ite, Keeps.foldl, Keeps.foldl2, Keeps.foldl3, Keeps.refl, implies_true, keeps_rset, *]; done)
    | (intro t ht; injection ht with ht; subst ht)
    | (intro t ht; contradiction)
    | (split <;> (try (rename_i heq; (first | refine Keeps.cut (Keeps.of_eq (b := b0) heq ?_) ?_ | refine Keeps.cut (Keeps.of_eq3 (b := b0) heq ?_) ?_ | refine Keeps.cut (Keeps.of_eq1 (b := b0) heq ?_) ?_ | refine Keeps.cut (Keeps.of_eq4 (b := b0) heq ?_) ?_); (focus (clear heq; (repeat' first | (simp (maxDischargeDepth := 99) only [KIss.hold, KIss.done, KIss.fault, KIss.wait, Keeps.upd, Keeps.updId, Keeps.ite, Keeps.foldl, Keeps.foldl2, Keeps.foldl3, Keeps.refl, implies_true, keeps_rset, *]; done) | with_reducible apply Keeps.fold1 | with_reducible apply Keeps.fold2 | with_reducible apply Keeps.fold3 | with_reducible apply Keeps.fold21 | intro _ | split | dsimp only))); intro hz; (try dsimp only at hz); clear heq)))
    | intro _

theorem keeps_engsReleased {b0 : State} {s : State} (x : Tile) (t : Nat) (hK : Keeps b0 s) :
    Keeps b0 (engsReleased s x t) := by
  unfold engsReleased; simp (maxDischargeDepth := 99) only [KIss.hold, KIss.done, KIss.fault, KIss.wait, Keeps.upd,
        Keeps.updId, Keeps.ite, Keeps.foldl, Keeps.foldl2, Keeps.foldl3, Keeps.refl, implies_true, keeps_setTile, *]

theorem keeps_execFlsCommandStart {b0 : State} (t : TileId) {s : State} (hK : Keeps b0 s) :
    ∀ u, execFlsCommandStart t s = .next u → Keeps b0 u := by
  unfold execFlsCommandStart
  repeat' first
    | with_reducible assumption
    | refine fun (y : State) (gr : Group) (hy : Keeps b0 y) => ?_
    | (extract_lets +onlyGivenNames z; first | ((first | refine Keeps.cut (p := Keeps b0 z) ?_ ?_ | refine Keeps.cut (p := Keeps b0 z.2) ?_ ?_ | refine Keeps.cut (p := Keeps b0 z.2.2) ?_ ?_ | refine Keeps.cut (p := Keeps b0 z.1) ?_ ?_ | refine Keeps.cut (p := Keeps b0 z.s) ?_ ?_ | refine Keeps.cut (p := Keeps b0 z.2.s) ?_ ?_ | refine Keeps.cut (p := Keeps b0 z.2.2.s) ?_ ?_); (focus (intros; dsimp only [z]; (repeat' first | (simp (maxDischargeDepth := 99) only [KIss.hold, KIss.done, KIss.fault, KIss.wait, Keeps.upd, Keeps.updId, Keeps.ite, Keeps.foldl, Keeps.foldl2, Keeps.foldl3, Keeps.refl, implies_true, keeps_setTile, keeps_flsExec, keeps_engsReleased, *]; done) | with_reducible apply Keeps.fold1 | with_reducible apply Keeps.fold2 | with_reducible apply Keeps.fold3 | with_reducible apply Keeps.fold21 | intro _ | split | dsimp only))); intro hz; clear_value z) | clear_value z | skip)
    | (simp (maxDischargeDepth := 99) only [KIss.hold, KIss.done, KIss.fault, KIss.wait, Keeps.upd, Keeps.updId, Keeps.ite, Keeps.foldl, Keeps.foldl2, Keeps.foldl3, Keeps.refl, implies_true, keeps_setTile, keeps_flsExec, keeps_engsReleased, *]; done)
    | (intro t ht; injection ht with ht; subst ht)
    | (intro t ht; contradiction)
    | with_reducible apply Keeps.fold1
    | with_reducible apply Keeps.fold2
    | with_reducible apply Keeps.fold3
    | with_reducible apply Keeps.fold21
    | (split <;> (try (rename_i heq; (first | refine Keeps.cut (Keeps.of_eq (b := b0) heq ?_) ?_ | refine Keeps.cut (Keeps.of_eq3 (b := b0) heq ?_) ?_ | refine Keeps.cut (Keeps.of_eq1 (b := b0) heq ?_) ?_ | refine Keeps.cut (Keeps.of_eq4 (b := b0) heq ?_) ?_); (focus (clear heq; (repeat' first | (simp (maxDischargeDepth := 99) only [KIss.hold, KIss.done, KIss.fault, KIss.wait, Keeps.upd, Keeps.updId, Keeps.ite, Keeps.foldl, Keeps.foldl2, Keeps.foldl3, Keeps.refl, implies_true, keeps_setTile, keeps_flsExec, keeps_engsReleased, *]; done) | with_reducible apply Keeps.fold1 | with_reducible apply Keeps.fold2 | with_reducible apply Keeps.fold3 | with_reducible apply Keeps.fold21 | intro _ | split | dsimp only))); intro hz; (try dsimp only at hz); clear heq)))
    | intro _

theorem keeps_flsUndefined {b0 : State} {s : State} (t : Nat) (c : FlsCmd) (hK : Keeps b0 s) :
    Keeps b0 (flsUndefined s t c) := by
  unfold flsUndefined; simp (maxDischargeDepth := 99) only [KIss.hold, KIss.done, KIss.fault, KIss.wait, Keeps.upd,
        Keeps.updId, Keeps.ite, Keeps.foldl, Keeps.foldl2, Keeps.foldl3, Keeps.refl, implies_true, keeps_flsFree, *]

theorem keeps_execFlsCommandComplete {b0 : State} (t : TileId) {s : State} (hK : Keeps b0 s) :
    ∀ u, execFlsCommandComplete t s = .next u → Keeps b0 u := by
  unfold execFlsCommandComplete
  repeat' first
    | with_reducible assumption
    | refine fun (y : State) (gr : Group) (hy : Keeps b0 y) => ?_
    | (extract_lets +onlyGivenNames z; first | ((first | refine Keeps.cut (p := Keeps b0 z) ?_ ?_ | refine Keeps.cut (p := Keeps b0 z.2) ?_ ?_ | refine Keeps.cut (p := Keeps b0 z.2.2) ?_ ?_ | refine Keeps.cut (p := Keeps b0 z.1) ?_ ?_ | refine Keeps.cut (p := Keeps b0 z.s) ?_ ?_ | refine Keeps.cut (p := Keeps b0 z.2.s) ?_ ?_ | refine Keeps.cut (p := Keeps b0 z.2.2.s) ?_ ?_); (focus (intros; dsimp only [z]; (repeat' first | (simp (maxDischargeDepth := 99) only [KIss.hold, KIss.done, KIss.fault, KIss.wait, Keeps.upd, Keeps.updId, Keeps.ite, Keeps.foldl, Keeps.foldl2, Keeps.foldl3, Keeps.refl, implies_true, keeps_drawFree, keeps_rset, keeps_count, keeps_setTile, keeps_jobMod, keeps_imprecise, keeps_jobStatus, keeps_flsUndefined, *]; done) | with_reducible apply Keeps.fold1 | with_reducible apply Keeps.fold2 | with_reducible apply Keeps.fold3 | with_reducible apply Keeps.fold21 | intro _ | split | dsimp only))); intro hz; clear_value z) | clear_value z | skip)
    | (simp (maxDischargeDepth := 99) only [KIss.hold, KIss.done, KIss.fault, KIss.wait, Keeps.upd, Keeps.updId, Keeps.ite, Keeps.foldl, Keeps.foldl2, Keeps.foldl3, Keeps.refl, implies_true, keeps_drawFree, keeps_rset, keeps_count, keeps_setTile, keeps_jobMod, keeps_imprecise, keeps_jobStatus, keeps_flsUndefined, *]; done)
    | (intro t ht; injection ht with ht; subst ht)
    | (intro t ht; contradiction)
    | with_reducible apply Keeps.fold1
    | with_reducible apply Keeps.fold2
    | with_reducible apply Keeps.fold3
    | with_reducible apply Keeps.fold21
    | (split <;> (try (rename_i heq; (first | refine Keeps.cut (Keeps.of_eq (b := b0) heq ?_) ?_ | refine Keeps.cut (Keeps.of_eq3 (b := b0) heq ?_) ?_ | refine Keeps.cut (Keeps.of_eq1 (b := b0) heq ?_) ?_ | refine Keeps.cut (Keeps.of_eq4 (b := b0) heq ?_) ?_); (focus (clear heq; (repeat' first | (simp (maxDischargeDepth := 99) only [KIss.hold, KIss.done, KIss.fault, KIss.wait, Keeps.upd, Keeps.updId, Keeps.ite, Keeps.foldl, Keeps.foldl2, Keeps.foldl3, Keeps.refl, implies_true, keeps_drawFree, keeps_rset, keeps_count, keeps_setTile, keeps_jobMod, keeps_imprecise, keeps_jobStatus, keeps_flsUndefined, *]; done) | with_reducible apply Keeps.fold1 | with_reducible apply Keeps.fold2 | with_reducible apply Keeps.fold3 | with_reducible apply Keeps.fold21 | intro _ | split | dsimp only))); intro hz; (try dsimp only at hz); clear heq)))
    | intro _

theorem keeps_execFlsStatWrite {b0 : State} (a : Agent) (t : TileId) (g : Slot) (_v : W64) {s : State} (hK : Keeps b0 s) :
    ∀ u, execFlsStatWrite a t g _v s = .next u → Keeps b0 u := by
  unfold execFlsStatWrite; intro t ht; injection ht with ht; subst ht; simp (maxDischargeDepth := 99) only [KIss.hold,
        KIss.done, KIss.fault, KIss.wait, Keeps.upd, Keeps.updId, Keeps.ite, Keeps.foldl, Keeps.foldl2, Keeps.foldl3,
        Keeps.refl, implies_true, keeps_rset, *]

end Sys2Proof.Machine
end

