-- ==== Sys2Proof/Laws/KeepsEngines.lean ====
section
/-!
SUPPORT. `keeps_f`, for each operation f of the die engines and the network side of the fabric: what it answers keeps what `Keeps` says. A lemma about a meaning speaks of
every next state that it answers.
-/
set_option linter.unusedSimpArgs false
set_option linter.unusedVariables false
set_option linter.tactic.unusedName false
namespace Sys2Proof.Machine

theorem keeps_Eng_fail {b0 : State} {e : Eng} (c : Nat) (va : Nat) (hK : Keeps b0 e.s) :
    Keeps b0 (Eng.fail e c va).s := by
  unfold Eng.fail; (repeat' split) <;> simp (maxDischargeDepth := 99) only [KIss.hold, KIss.done, KIss.fault, KIss.wait,
        Keeps.upd, Keeps.updId, Keeps.ite, Keeps.foldl, Keeps.foldl2, Keeps.foldl3, Keeps.refl, implies_true, *]

theorem keeps_Eng_read {b0 : State} {e : Eng} (sp : Nat) (site : Nat) (a : Nat) (n : Nat) (hK : Keeps b0 e.s) :
    Keeps b0 (Eng.read e sp site a n).2.s := by
  unfold Eng.read
  repeat' first
    | with_reducible assumption
    | (extract_lets +onlyGivenNames z; first | ((first | refine Keeps.cut (p := Keeps b0 z) ?_ ?_ | refine Keeps.cut (p := Keeps b0 z.2) ?_ ?_ | refine Keeps.cut (p := Keeps b0 z.2.2) ?_ ?_ | refine Keeps.cut (p := Keeps b0 z.1) ?_ ?_ | refine Keeps.cut (p := Keeps b0 z.s) ?_ ?_ | refine Keeps.cut (p := Keeps b0 z.2.s) ?_ ?_ | refine Keeps.cut (p := Keeps b0 z.2.2.s) ?_ ?_); (focus (intros; dsimp only [z]; (repeat' first | (simp (maxDischargeDepth := 99) only [KIss.hold, KIss.done, KIss.fault, KIss.wait, Keeps.upd, Keeps.updId, Keeps.ite, Keeps.foldl, Keeps.foldl2, Keeps.foldl3, Keeps.refl, implies_true, keeps_drpSeen, keeps_engRead, keeps_Eng_fail, *]; done) | with_reducible apply Keeps.fold1 | with_reducible apply Keeps.fold2 | with_reducible apply Keeps.fold3 | with_reducible apply Keeps.fold21 | with_reducible apply Keeps.foldE | with_reducible apply Keeps.foldE2 | with_reducible apply Keeps.foldE3 | intro _ | split | dsimp only))); intro hz; clear_value z) | clear_value z | skip)
    | (simp (maxDischargeDepth := 99) only [KIss.hold, KIss.done, KIss.fault, KIss.wait, Keeps.upd, Keeps.updId, Keeps.ite, Keeps.foldl, Keeps.foldl2, Keeps.foldl3, Keeps.refl, implies_true, keeps_drpSeen, keeps_engRead, keeps_Eng_fail, *]; done)
    | with_reducible apply Keeps.fold1
    | with_reducible apply Keeps.fold2
    | with_reducible apply Keeps.fold3
    | with_reducible apply Keeps.fold21
    | with_reducible apply Keeps.foldE
    | with_reducible apply Keeps.foldE2
    | with_reducible apply Keeps.foldE3
    | intro _
    | (split <;> (try (rename_i heq; (first | refine Keeps.cut (Keeps.of_eq (b := b0) heq ?_) ?_ | refine Keeps.cut (Keeps.of_eq3 (b := b0) heq ?_) ?_ | refine Keeps.cut (Keeps.of_eq1 (b := b0) heq ?_) ?_ | refine Keeps.cut (Keeps.of_eq4 (b := b0) heq ?_) ?_ | refine Keeps.cut (Keeps.of_eqE (b := b0) heq ?_) ?_ | refine Keeps.cut (Keeps.of_eqE3 (b := b0) heq ?_) ?_); (focus (clear heq; (repeat' first | (simp (maxDischargeDepth := 99) only [KIss.hold, KIss.done, KIss.fault, KIss.wait, Keeps.upd, Keeps.updId, Keeps.ite, Keeps.foldl, Keeps.foldl2, Keeps.foldl3, Keeps.refl, implies_true, keeps_drpSeen, keeps_engRead, keeps_Eng_fail, *]; done) | with_reducible apply Keeps.fold1 | with_reducible apply Keeps.fold2 | with_reducible apply Keeps.fold3 | with_reducible apply Keeps.fold21 | with_reducible apply Keeps.foldE | with_reducible apply Keeps.foldE2 | with_reducible apply Keeps.foldE3 | intro _ | split | dsimp only))); intro hz; (try dsimp only at hz); clear heq)))

theorem keeps_Eng_num {b0 : State} {e : Eng} (sp : Nat) (site : Nat) (a : Nat) (n : Nat) (hK : Keeps b0 e.s) :
    Keeps b0 (Eng.num e sp site a n).2.s := by
  unfold Eng.num; simp (maxDischargeDepth := 99) only [KIss.hold, KIss.done, KIss.fault, KIss.wait, Keeps.upd, Keeps.updId,
        Keeps.ite, Keeps.foldl, Keeps.foldl2, Keeps.foldl3, Keeps.refl, implies_true, keeps_FlsRun_read, keeps_Eng_read, *]

theorem keeps_freeBytes {b0 : State} (n : Nat) {s : State} (hK : Keeps b0 s) :
    Keeps b0 (freeBytes n s).2 := by
  unfold freeBytes; simp (maxDischargeDepth := 99) only [KIss.hold, KIss.done, KIss.fault, KIss.wait, Keeps.upd, Keeps.updId,
         Keeps.ite, Keeps.foldl, Keeps.foldl2, Keeps.foldl3, Keeps.refl, implies_true, keeps_drawList, *]

theorem keeps_Eng_write {b0 : State} {e : Eng} (sp : Nat) (site : Nat) (a : Nat) (bs : List Byte) (hK : Keeps b0 e.s) :
    Keeps b0 (Eng.write e sp site a bs).s := by
  unfold Eng.write
  repeat' first
    | with_reducible assumption
    | (extract_lets +onlyGivenNames z; first | ((first | refine Keeps.cut (p := Keeps b0 z) ?_ ?_ | refine Keeps.cut (p := Keeps b0 z.2) ?_ ?_ | refine Keeps.cut (p := Keeps b0 z.2.2) ?_ ?_ | refine Keeps.cut (p := Keeps b0 z.1) ?_ ?_ | refine Keeps.cut (p := Keeps b0 z.s) ?_ ?_ | refine Keeps.cut (p := Keeps b0 z.2.s) ?_ ?_ | refine Keeps.cut (p := Keeps b0 z.2.2.s) ?_ ?_); (focus (intros; dsimp only [z]; (repeat' first | (simp (maxDischargeDepth := 99) only [KIss.hold, KIss.done, KIss.fault, KIss.wait, Keeps.upd, Keeps.updId, Keeps.ite, Keeps.foldl, Keeps.foldl2, Keeps.foldl3, Keeps.refl, implies_true, keeps_grtPut, keeps_engWrite, keeps_slmPut, keeps_Eng_fail, keeps_freeBytes, *]; done) | with_reducible apply Keeps.fold1 | with_reducible apply Keeps.fold2 | with_reducible apply Keeps.fold3 | with_reducible apply Keeps.fold21 | with_reducible apply Keeps.foldE | with_reducible apply Keeps.foldE2 | with_reducible apply Keeps.foldE3 | intro _ | split | dsimp only))); intro hz; clear_value z) | clear_value z | skip)
    | (simp (maxDischargeDepth := 99) only [KIss.hold, KIss.done, KIss.fault, KIss.wait, Keeps.upd, Keeps.updId, Keeps.ite, Keeps.foldl, Keeps.foldl2, Keeps.foldl3, Keeps.refl, implies_true, keeps_grtPut, keeps_engWrite, keeps_slmPut, keeps_Eng_fail, keeps_freeBytes, *]; done)
    | with_reducible apply Keeps.fold1
    | with_reducible apply Keeps.fold2
    | with_reducible apply Keeps.fold3
    | with_reducible apply Keeps.fold21
    | with_reducible apply Keeps.foldE
    | with_reducible apply Keeps.foldE2
    | with_reducible apply Keeps.foldE3
    | intro _
    | (split <;> (try (rename_i heq; (first | refine Keeps.cut (Keeps.of_eq (b := b0) heq ?_) ?_ | refine Keeps.cut (Keeps.of_eq3 (b := b0) heq ?_) ?_ | refine Keeps.cut (Keeps.of_eq1 (b := b0) heq ?_) ?_ | refine Keeps.cut (Keeps.of_eq4 (b := b0) heq ?_) ?_ | refine Keeps.cut (Keeps.of_eqE (b := b0) heq ?_) ?_ | refine Keeps.cut (Keeps.of_eqE3 (b := b0) heq ?_) ?_); (focus (clear heq; (repeat' first | (simp (maxDischargeDepth := 99) only [KIss.hold, KIss.done, KIss.fault, KIss.wait, Keeps.upd, Keeps.updId, Keeps.ite, Keeps.foldl, Keeps.foldl2, Keeps.foldl3, Keeps.refl, implies_true, keeps_grtPut, keeps_engWrite, keeps_slmPut, keeps_Eng_fail, keeps_freeBytes, *]; done) | with_reducible apply Keeps.fold1 | with_reducible apply Keeps.fold2 | with_reducible apply Keeps.fold3 | with_reducible apply Keeps.fold21 | with_reducible apply Keeps.foldE | with_reducible apply Keeps.foldE2 | with_reducible apply Keeps.foldE3 | intro _ | split | dsimp only))); intro hz; (try dsimp only at hz); clear heq)))

theorem keeps_Eng_free {b0 : State} {e : Eng} (sp : Nat) (site : Nat) (a : Nat) (n : Nat) (hK : Keeps b0 e.s) :
    Keeps b0 (Eng.free e sp site a n).s := by
  unfold Eng.free; simp (maxDischargeDepth := 99) only [KIss.hold, KIss.done, KIss.fault, KIss.wait, Keeps.upd, Keeps.updId,
        Keeps.ite, Keeps.foldl, Keeps.foldl2, Keeps.foldl3, Keeps.refl, implies_true, keeps_FlsRun_write, keeps_Eng_write,
        *]

theorem keeps_spoilRuns {b0 : State} {s : State} (by_ : EngBy) (rs : List (Nat × Nat × Nat)) (hK : Keeps b0 s) :
    Keeps b0 (spoilRuns s by_ rs) := by
  unfold spoilRuns
  repeat' first
    | with_reducible assumption
    | (extract_lets +onlyGivenNames z; first | ((first | refine Keeps.cut (p := Keeps b0 z) ?_ ?_ | refine Keeps.cut (p := Keeps b0 z.2) ?_ ?_ | refine Keeps.cut (p := Keeps b0 z.2.2) ?_ ?_ | refine Keeps.cut (p := Keeps b0 z.1) ?_ ?_ | refine Keeps.cut (p := Keeps b0 z.s) ?_ ?_ | refine Keeps.cut (p := Keeps b0 z.2.s) ?_ ?_ | refine Keeps.cut (p := Keeps b0 z.2.2.s) ?_ ?_); (focus (intros; dsimp only [z]; (repeat' first | (simp (maxDischargeDepth := 99) only [KIss.hold, KIss.done, KIss.fault, KIss.wait, Keeps.upd, Keeps.updId, Keeps.ite, Keeps.foldl, Keeps.foldl2, Keeps.foldl3, Keeps.refl, implies_true, keeps_grtPut, keeps_dccWriteNow, keeps_slmPut, keeps_freeBytes, *]; done) | with_reducible apply Keeps.fold1 | with_reducible apply Keeps.fold2 | with_reducible apply Keeps.fold3 | with_reducible apply Keeps.fold21 | with_reducible apply Keeps.foldE | with_reducible apply Keeps.foldE2 | with_reducible apply Keeps.foldE3 | intro _ | split | dsimp only))); intro hz; clear_value z) | clear_value z | skip)
    | (simp (maxDischargeDepth := 99) only [KIss.hold, KIss.done, KIss.fault, KIss.wait, Keeps.upd, Keeps.updId, Keeps.ite, Keeps.foldl, Keeps.foldl2, Keeps.foldl3, Keeps.refl, implies_true, keeps_grtPut, keeps_dccWriteNow, keeps_slmPut, keeps_freeBytes, *]; done)
    | with_reducible apply Keeps.fold1
    | with_reducible apply Keeps.fold2
    | with_reducible apply Keeps.fold3
    | with_reducible apply Keeps.fold21
    | with_reducible apply Keeps.foldE
    | with_reducible apply Keeps.foldE2
    | with_reducible apply Keeps.foldE3
    | intro _
    | (split <;> (try (rename_i heq; (first | refine Keeps.cut (Keeps.of_eq (b := b0) heq ?_) ?_ | refine Keeps.cut (Keeps.of_eq3 (b := b0) heq ?_) ?_ | refine Keeps.cut (Keeps.of_eq1 (b := b0) heq ?_) ?_ | refine Keeps.cut (Keeps.of_eq4 (b := b0) heq ?_) ?_ | refine Keeps.cut (Keeps.of_eqE (b := b0) heq ?_) ?_ | refine Keeps.cut (Keeps.of_eqE3 (b := b0) heq ?_) ?_); (focus (clear heq; (repeat' first | (simp (maxDischargeDepth := 99) only [KIss.hold, KIss.done, KIss.fault, KIss.wait, Keeps.upd, Keeps.updId, Keeps.ite, Keeps.foldl, Keeps.foldl2, Keeps.foldl3, Keeps.refl, implies_true, keeps_grtPut, keeps_dccWriteNow, keeps_slmPut, keeps_freeBytes, *]; done) | with_reducible apply Keeps.fold1 | with_reducible apply Keeps.fold2 | with_reducible apply Keeps.fold3 | with_reducible apply Keeps.fold21 | with_reducible apply Keeps.foldE | with_reducible apply Keeps.foldE2 | with_reducible apply Keeps.foldE3 | intro _ | split | dsimp only))); intro hz; (try dsimp only at hz); clear heq)))

theorem keeps_Eng_putData {b0 : State} {e : Eng} (w : List W64) (hK : Keeps b0 e.s) :
    Keeps b0 (Eng.putData e w).2.s := by
  unfold Eng.putData
  repeat' first
    | with_reducible assumption
    | (extract_lets +onlyGivenNames z; first | ((first | refine Keeps.cut (p := Keeps b0 z) ?_ ?_ | refine Keeps.cut (p := Keeps b0 z.2) ?_ ?_ | refine Keeps.cut (p := Keeps b0 z.2.2) ?_ ?_ | refine Keeps.cut (p := Keeps b0 z.1) ?_ ?_ | refine Keeps.cut (p := Keeps b0 z.s) ?_ ?_ | refine Keeps.cut (p := Keeps b0 z.2.s) ?_ ?_ | refine Keeps.cut (p := Keeps b0 z.2.2.s) ?_ ?_); (focus (intros; dsimp only [z]; (repeat' first | (simp (maxDischargeDepth := 99) only [KIss.hold, KIss.done, KIss.fault, KIss.wait, Keeps.upd, Keeps.updId, Keeps.ite, Keeps.foldl, Keeps.foldl2, Keeps.foldl3, Keeps.refl, implies_true, keeps_FlsRun_read, keeps_FlsRun_at_, keeps_Eng_read, *]; done) | with_reducible apply Keeps.fold1 | with_reducible apply Keeps.fold2 | with_reducible apply Keeps.fold3 | with_reducible apply Keeps.fold21 | with_reducible apply Keeps.foldE | with_reducible apply Keeps.foldE2 | with_reducible apply Keeps.foldE3 | intro _ | split | dsimp only))); intro hz; clear_value z) | clear_value z | skip)
    | (simp (maxDischargeDepth := 99) only [KIss.hold, KIss.done, KIss.fault, KIss.wait, Keeps.upd, Keeps.updId, Keeps.ite, Keeps.foldl, Keeps.foldl2, Keeps.foldl3, Keeps.refl, implies_true, keeps_FlsRun_read, keeps_FlsRun_at_, keeps_Eng_read, *]; done)
    | with_reducible apply Keeps.fold1
    | with_reducible apply Keeps.fold2
    | with_reducible apply Keeps.fold3
    | with_reducible apply Keeps.fold21
    | with_reducible apply Keeps.foldE
    | with_reducible apply Keeps.foldE2
    | with_reducible apply Keeps.foldE3
    | intro _
    | (split <;> (try (rename_i heq; (first | refine Keeps.cut (Keeps.of_eq (b := b0) heq ?_) ?_ | refine Keeps.cut (Keeps.of_eq3 (b := b0) heq ?_) ?_ | refine Keeps.cut (Keeps.of_eq1 (b := b0) heq ?_) ?_ | refine Keeps.cut (Keeps.of_eq4 (b := b0) heq ?_) ?_ | refine Keeps.cut (Keeps.of_eqE (b := b0) heq ?_) ?_ | refine Keeps.cut (Keeps.of_eqE3 (b := b0) heq ?_) ?_); (focus (clear heq; (repeat' first | (simp (maxDischargeDepth := 99) only [KIss.hold, KIss.done, KIss.fault, KIss.wait, Keeps.upd, Keeps.updId, Keeps.ite, Keeps.foldl, Keeps.foldl2, Keeps.foldl3, Keeps.refl, implies_true, keeps_FlsRun_read, keeps_FlsRun_at_, keeps_Eng_read, *]; done) | with_reducible apply Keeps.fold1 | with_reducible apply Keeps.fold2 | with_reducible apply Keeps.fold3 | with_reducible apply Keeps.fold21 | with_reducible apply Keeps.foldE | with_reducible apply Keeps.foldE2 | with_reducible apply Keeps.foldE3 | intro _ | split | dsimp only))); intro hz; (try dsimp only at hz); clear heq)))

theorem keeps_takenMod {b0 : State} {s : State} (k : Nat) (key : Nat) (slot : Nat) (f : Taken → Taken) (hK : Keeps b0 s) :
    Keeps b0 (takenMod s k key slot f) := by
  unfold takenMod; simp (maxDischargeDepth := 99) only [KIss.hold, KIss.done, KIss.fault, KIss.wait, Keeps.upd, Keeps.updId,
        Keeps.ite, Keeps.foldl, Keeps.foldl2, Keeps.foldl3, Keeps.refl, implies_true, keeps_setQueue, *]

theorem keeps_expect {b0 : State} {s : State} (k : Nat) (key : Nat) (slot : Nat) (ps : List Nat) (hK : Keeps b0 s) :
    Keeps b0 (expect s k key slot ps) := by
  unfold expect; simp (maxDischargeDepth := 99) only [KIss.hold, KIss.done, KIss.fault, KIss.wait, Keeps.upd, Keeps.updId,
        Keeps.ite, Keeps.foldl, Keeps.foldl2, Keeps.foldl3, Keeps.refl, implies_true, keeps_takenMod, *]

theorem keeps_destMod {b0 : State} {s : State} (k : Nat) (key : Nat) (slot : Nat) (dest : Nat) (f : SendDest → SendDest) (hK : Keeps b0 s) :
    Keeps b0 (destMod s k key slot dest f) := by
  unfold destMod; simp (maxDischargeDepth := 99) only [KIss.hold, KIss.done, KIss.fault, KIss.wait, Keeps.upd, Keeps.updId,
        Keeps.ite, Keeps.foldl, Keeps.foldl2, Keeps.foldl3, Keeps.refl, implies_true, keeps_setQueue, *]

theorem keeps_settleDesc {b0 : State} {s : State} (k : Nat) (key : Nat) (slot : Nat) (hK : Keeps b0 s) :
    Keeps b0 (settleDesc s k key slot) := by
  unfold settleDesc; (repeat' split) <;> simp (maxDischargeDepth := 99) only [KIss.hold, KIss.done, KIss.fault, KIss.wait,
        Keeps.upd, Keeps.updId, Keeps.ite, Keeps.foldl, Keeps.foldl2, Keeps.foldl3, Keeps.refl, implies_true, keeps_setQueue,
         keeps_FlsRun_failed, keeps_takenMod, *]

theorem keeps_partAnswer {b0 : State} {s : State} (w : Part) (code : Nat) (hK : Keeps b0 s) :
    Keeps b0 (partAnswer s w code) := by
  unfold partAnswer
  repeat' first
    | with_reducible assumption
    | (extract_lets +onlyGivenNames z; first | ((first | refine Keeps.cut (p := Keeps b0 z) ?_ ?_ | refine Keeps.cut (p := Keeps b0 z.2) ?_ ?_ | refine Keeps.cut (p := Keeps b0 z.2.2) ?_ ?_ | refine Keeps.cut (p := Keeps b0 z.1) ?_ ?_ | refine Keeps.cut (p := Keeps b0 z.s) ?_ ?_ | refine Keeps.cut (p := Keeps b0 z.2.s) ?_ ?_ | refine Keeps.cut (p := Keeps b0 z.2.2.s) ?_ ?_); (focus (intros; dsimp only [z]; (repeat' first | (simp (maxDischargeDepth := 99) only [KIss.hold, KIss.done, KIss.fault, KIss.wait, Keeps.upd, Keeps.updId, Keeps.ite, Keeps.foldl, Keeps.foldl2, Keeps.foldl3, Keeps.refl, implies_true, keeps_count, keeps_FlsRun_failed, keeps_takenMod, keeps_destMod, keeps_settleDesc, *]; done) | with_reducible apply Keeps.fold1 | with_reducible apply Keeps.fold2 | with_reducible apply Keeps.fold3 | with_reducible apply Keeps.fold21 | with_reducible apply Keeps.foldE | with_reducible apply Keeps.foldE2 | with_reducible apply Keeps.foldE3 | intro _ | split | dsimp only))); intro hz; clear_value z) | clear_value z | skip)
    | (simp (maxDischargeDepth := 99) only [KIss.hold, KIss.done, KIss.fault, KIss.wait, Keeps.upd, Keeps.updId, Keeps.ite, Keeps.foldl, Keeps.foldl2, Keeps.foldl3, Keeps.refl, implies_true, keeps_count, keeps_FlsRun_failed, keeps_takenMod, keeps_destMod, keeps_settleDesc, *]; done)
    | with_reducible apply Keeps.fold1
    | with_reducible apply Keeps.fold2
    | with_reducible apply Keeps.fold3
    | with_reducible apply Keeps.fold21
    | with_reducible apply Keeps.foldE
    | with_reducible apply Keeps.foldE2
    | with_reducible apply Keeps.foldE3
    | intro _
    | (split <;> (try (rename_i heq; (first | refine Keeps.cut (Keeps.of_eq (b := b0) heq ?_) ?_ | refine Keeps.cut (Keeps.of_eq3 (b := b0) heq ?_) ?_ | refine Keeps.cut (Keeps.of_eq1 (b := b0) heq ?_) ?_ | refine Keeps.cut (Keeps.of_eq4 (b := b0) heq ?_) ?_ | refine Keeps.cut (Keeps.of_eqE (b := b0) heq ?_) ?_ | refine Keeps.cut (Keeps.of_eqE3 (b := b0) heq ?_) ?_); (focus (clear heq; (repeat' first | (simp (maxDischargeDepth := 99) only [KIss.hold, KIss.done, KIss.fault, KIss.wait, Keeps.upd, Keeps.updId, Keeps.ite, Keeps.foldl, Keeps.foldl2, Keeps.foldl3, Keeps.refl, implies_true, keeps_count, keeps_FlsRun_failed, keeps_takenMod, keeps_destMod, keeps_settleDesc, *]; done) | with_reducible apply Keeps.fold1 | with_reducible apply Keeps.fold2 | with_reducible apply Keeps.fold3 | with_reducible apply Keeps.fold21 | with_reducible apply Keeps.foldE | with_reducible apply Keeps.foldE2 | with_reducible apply Keeps.foldE3 | intro _ | split | dsimp only))); intro hz; (try dsimp only at hz); clear heq)))

theorem keeps_setPort {b0 : State} {s : State} (p : Nat) (v : PortSt) (hK : Keeps b0 s) :
    Keeps b0 (setPort s p v) := by
  unfold setPort; simp (maxDischargeDepth := 99) only [KIss.hold, KIss.done, KIss.fault, KIss.wait, Keeps.upd, Keeps.updId,
        Keeps.ite, Keeps.foldl, Keeps.foldl2, Keeps.foldl3, Keeps.refl, implies_true, *]

theorem keeps_setPortF {b0 : State} {s : State} (p : Nat) (hi : Nat) (lo : Nat) (v : Nat) (hK : Keeps b0 s) :
    Keeps b0 (setPortF s p hi lo v) := by
  unfold setPortF; simp (maxDischargeDepth := 99) only [KIss.hold, KIss.done, KIss.fault, KIss.wait, Keeps.upd, Keeps.updId,
        Keeps.ite, Keeps.foldl, Keeps.foldl2, Keeps.foldl3, Keeps.refl, implies_true, keeps_rfset, *]

theorem keeps_portCount {b0 : State} {s : State} (r : Reg) (p : Nat) (n : Nat) (hK : Keeps b0 s) :
    Keeps b0 (portCount s r p n) := by
  unfold portCount; simp (maxDischargeDepth := 99) only [KIss.hold, KIss.done, KIss.fault, KIss.wait, Keeps.upd, Keeps.updId,
         Keeps.ite, Keeps.foldl, Keeps.foldl2, Keeps.foldl3, Keeps.refl, implies_true, keeps_count, *]

theorem keeps_pumpPort {b0 : State} (x0 : Nat) {x1 : State} (x2 : Nat) (hK : Keeps b0 x1) :
    Keeps b0 (pumpPort x0 x1 x2) := by
  induction x0 generalizing b0 x1 x2 with
  | zero => unfold pumpPort; (repeat' split) <;> (simp (maxDischargeDepth := 99) only [KIss.hold, KIss.done, KIss.fault, KIss.wait, Keeps.upd, Keeps.updId, Keeps.ite, Keeps.foldl, Keeps.foldl2, Keeps.foldl3, Keeps.refl, implies_true, keeps_setPort, keeps_portCount, *]; done)
  | succ n ih =>
    unfold pumpPort
    repeat' first
      | with_reducible assumption
      | (extract_lets +onlyGivenNames z; first | ((first | refine Keeps.cut (p := Keeps b0 z) ?_ ?_ | refine Keeps.cut (p := Keeps b0 z.2) ?_ ?_ | refine Keeps.cut (p := Keeps b0 z.2.2) ?_ ?_ | refine Keeps.cut (p := Keeps b0 z.1) ?_ ?_ | refine Keeps.cut (p := Keeps b0 z.s) ?_ ?_ | refine Keeps.cut (p := Keeps b0 z.2.s) ?_ ?_ | refine Keeps.cut (p := Keeps b0 z.2.2.s) ?_ ?_); (focus (intros; dsimp only [z]; (repeat' first | (simp (maxDischargeDepth := 99) only [KIss.hold, KIss.done, KIss.fault, KIss.wait, Keeps.upd, Keeps.updId, Keeps.ite, Keeps.foldl, Keeps.foldl2, Keeps.foldl3, Keeps.refl, implies_true, keeps_setPort, keeps_portCount, *]; done) | with_reducible apply Keeps.fold1 | with_reducible apply Keeps.fold2 | with_reducible apply Keeps.fold3 | with_reducible apply Keeps.fold21 | with_reducible apply Keeps.foldE | with_reducible apply Keeps.foldE2 | with_reducible apply Keeps.foldE3 | intro _ | split | dsimp only))); intro hz; clear_value z) | clear_value z | skip)
      | (simp (maxDischargeDepth := 99) only [KIss.hold, KIss.done, KIss.fault, KIss.wait, Keeps.upd, Keeps.updId, Keeps.ite, Keeps.foldl, Keeps.foldl2, Keeps.foldl3, Keeps.refl, implies_true, keeps_setPort, keeps_portCount, *]; done)
      | with_reducible apply Keeps.fold1
      | with_reducible apply Keeps.fold2
      | with_reducible apply Keeps.fold3
      | with_reducible apply Keeps.fold21
      | with_reducible apply Keeps.foldE
      | with_reducible apply Keeps.foldE2
      | with_reducible apply Keeps.foldE3
      | intro _
      | (split <;> (try (rename_i heq; (first | refine Keeps.cut (Keeps.of_eq (b := b0) heq ?_) ?_ | refine Keeps.cut (Keeps.of_eq3 (b := b0) heq ?_) ?_ | refine Keeps.cut (Keeps.of_eq1 (b := b0) heq ?_) ?_ | refine Keeps.cut (Keeps.of_eq4 (b := b0) heq ?_) ?_ | refine Keeps.cut (Keeps.of_eqE (b := b0) heq ?_) ?_ | refine Keeps.cut (Keeps.of_eqE3 (b := b0) heq ?_) ?_); (focus (clear heq; (repeat' first | (simp (maxDischargeDepth := 99) only [KIss.hold, KIss.done, KIss.fault, KIss.wait, Keeps.upd, Keeps.updId, Keeps.ite, Keeps.foldl, Keeps.foldl2, Keeps.foldl3, Keeps.refl, implies_true, keeps_setPort, keeps_portCount, *]; done) | with_reducible apply Keeps.fold1 | with_reducible apply Keeps.fold2 | with_reducible apply Keeps.fold3 | with_reducible apply Keeps.fold21 | with_reducible apply Keeps.foldE | with_reducible apply Keeps.foldE2 | with_reducible apply Keeps.foldE3 | intro _ | split | dsimp only))); intro hz; (try dsimp only at hz); clear heq)))

theorem keeps_pumpPortAll {b0 : State} {s : State} (p : Nat) (hK : Keeps b0 s) :
    Keeps b0 (pumpPortAll s p) := by
  unfold pumpPortAll; simp (maxDischargeDepth := 99) only [KIss.hold, KIss.done, KIss.fault, KIss.wait, Keeps.upd,
        Keeps.updId, Keeps.ite, Keeps.foldl, Keeps.foldl2, Keeps.foldl3, Keeps.refl, implies_true, keeps_pumpPort, *]

theorem keeps_portAccept {b0 : State} {s : State} (p : Nat) (q : Queued) (hK : Keeps b0 s) :
    Keeps b0 (portAccept s p q) := by
  unfold portAccept; simp (maxDischargeDepth := 99) only [KIss.hold, KIss.done, KIss.fault, KIss.wait, Keeps.upd,
        Keeps.updId, Keeps.ite, Keeps.foldl, Keeps.foldl2, Keeps.foldl3, Keeps.refl, implies_true, keeps_setPort,
        keeps_setPortF, keeps_pumpPortAll, *]

theorem keeps_deliver {b0 : State} {s : State} (inPort : Nat) (p : Packet) (hK : Keeps b0 s) :
    Keeps b0 (deliver s inPort p) := by
  unfold deliver; simp (maxDischargeDepth := 99) only [KIss.hold, KIss.done, KIss.fault, KIss.wait, Keeps.upd, Keeps.updId,
        Keeps.ite, Keeps.foldl, Keeps.foldl2, Keeps.foldl3, Keeps.refl, implies_true, keeps_deepIdleExit, *]

theorem keeps_forwardFrom {b0 : State} {s : State} (die : Nat) (inPort : Nat) (seen : Nat) (p : Packet) (hK : Keeps b0 s) :
    Keeps b0 (forwardFrom s die inPort seen p).2 := by
  unfold forwardFrom; (repeat' split) <;> simp (maxDischargeDepth := 99) only [KIss.hold, KIss.done, KIss.fault, KIss.wait,
        Keeps.upd, Keeps.updId, Keeps.ite, Keeps.foldl, Keeps.foldl2, Keeps.foldl3, Keeps.refl, implies_true, keeps_report,
        keeps_portCount, keeps_portAccept, keeps_deliver, *]

theorem keeps_forward {b0 : State} {s : State} (die : Nat) (inPort : Nat) (p : Packet) (hK : Keeps b0 s) :
    Keeps b0 (forward s die inPort p).2 := by
  unfold forward; (repeat' split) <;> simp (maxDischargeDepth := 99) only [KIss.hold, KIss.done, KIss.fault, KIss.wait,
        Keeps.upd, Keeps.updId, Keeps.ite, Keeps.foldl, Keeps.foldl2, Keeps.foldl3, Keeps.refl, implies_true,
        keeps_forwardFrom, *]

theorem keeps_setConnF {b0 : State} {s : State} (c : Nat) (hi : Nat) (lo : Nat) (v : Nat) (hK : Keeps b0 s) :
    Keeps b0 (setConnF s c hi lo v) := by
  unfold setConnF; simp (maxDischargeDepth := 99) only [KIss.hold, KIss.done, KIss.fault, KIss.wait, Keeps.upd, Keeps.updId,
        Keeps.ite, Keeps.foldl, Keeps.foldl2, Keeps.foldl3, Keeps.refl, implies_true, keeps_rfset, *]

theorem keeps_setConn {b0 : State} {s : State} (c : Nat) (v : Conn) (hK : Keeps b0 s) :
    Keeps b0 (setConn s c v) := by
  unfold setConn; simp (maxDischargeDepth := 99) only [KIss.hold, KIss.done, KIss.fault, KIss.wait, Keeps.upd, Keeps.updId,
        Keeps.ite, Keeps.foldl, Keeps.foldl2, Keeps.foldl3, Keeps.refl, implies_true, *]

theorem keeps_setConnSeqF {b0 : State} {s : State} (c : Nat) (hi : Nat) (lo : Nat) (v : Nat) (hK : Keeps b0 s) :
    Keeps b0 (setConnSeqF s c hi lo v) := by
  unfold setConnSeqF; simp (maxDischargeDepth := 99) only [KIss.hold, KIss.done, KIss.fault, KIss.wait, Keeps.upd,
        Keeps.updId, Keeps.ite, Keeps.foldl, Keeps.foldl2, Keeps.foldl3, Keeps.refl, implies_true, keeps_rfset, *]

theorem keeps_readSource {b0 : State} {s : State} (c : Nat) (r : OutReq) (hK : Keeps b0 s) :
    Keeps b0 (readSource s c r).2.2 := by
  unfold readSource
  repeat' first
    | with_reducible assumption
    | (extract_lets +onlyGivenNames z; first | ((first | refine Keeps.cut (p := Keeps b0 z) ?_ ?_ | refine Keeps.cut (p := Keeps b0 z.2) ?_ ?_ | refine Keeps.cut (p := Keeps b0 z.2.2) ?_ ?_ | refine Keeps.cut (p := Keeps b0 z.1) ?_ ?_ | refine Keeps.cut (p := Keeps b0 z.s) ?_ ?_ | refine Keeps.cut (p := Keeps b0 z.2.s) ?_ ?_ | refine Keeps.cut (p := Keeps b0 z.2.2.s) ?_ ?_); (focus (intros; dsimp only [z]; (repeat' first | (simp (maxDischargeDepth := 99) only [KIss.hold, KIss.done, KIss.fault, KIss.wait, Keeps.upd, Keeps.updId, Keeps.ite, Keeps.foldl, Keeps.foldl2, Keeps.foldl3, Keeps.refl, implies_true, keeps_drpSeen, keeps_engRead, keeps_Eng_putData, *]; done) | with_reducible apply Keeps.fold1 | with_reducible apply Keeps.fold2 | with_reducible apply Keeps.fold3 | with_reducible apply Keeps.fold21 | with_reducible apply Keeps.foldE | with_reducible apply Keeps.foldE2 | with_reducible apply Keeps.foldE3 | intro _ | split | dsimp only))); intro hz; clear_value z) | clear_value z | skip)
    | (simp (maxDischargeDepth := 99) only [KIss.hold, KIss.done, KIss.fault, KIss.wait, Keeps.upd, Keeps.updId, Keeps.ite, Keeps.foldl, Keeps.foldl2, Keeps.foldl3, Keeps.refl, implies_true, keeps_drpSeen, keeps_engRead, keeps_Eng_putData, *]; done)
    | with_reducible apply Keeps.fold1
    | with_reducible apply Keeps.fold2
    | with_reducible apply Keeps.fold3
    | with_reducible apply Keeps.fold21
    | with_reducible apply Keeps.foldE
    | with_reducible apply Keeps.foldE2
    | with_reducible apply Keeps.foldE3
    | intro _
    | (split <;> (try (rename_i heq; (first | refine Keeps.cut (Keeps.of_eq (b := b0) heq ?_) ?_ | refine Keeps.cut (Keeps.of_eq3 (b := b0) heq ?_) ?_ | refine Keeps.cut (Keeps.of_eq1 (b := b0) heq ?_) ?_ | refine Keeps.cut (Keeps.of_eq4 (b := b0) heq ?_) ?_ | refine Keeps.cut (Keeps.of_eqE (b := b0) heq ?_) ?_ | refine Keeps.cut (Keeps.of_eqE3 (b := b0) heq ?_) ?_); (focus (clear heq; (repeat' first | (simp (maxDischargeDepth := 99) only [KIss.hold, KIss.done, KIss.fault, KIss.wait, Keeps.upd, Keeps.updId, Keeps.ite, Keeps.foldl, Keeps.foldl2, Keeps.foldl3, Keeps.refl, implies_true, keeps_drpSeen, keeps_engRead, keeps_Eng_putData, *]; done) | with_reducible apply Keeps.fold1 | with_reducible apply Keeps.fold2 | with_reducible apply Keeps.fold3 | with_reducible apply Keeps.fold21 | with_reducible apply Keeps.foldE | with_reducible apply Keeps.foldE2 | with_reducible apply Keeps.foldE3 | intro _ | split | dsimp only))); intro hz; (try dsimp only at hz); clear heq)))

theorem keeps_dropUnsent {b0 : State} {s : State} (c : Nat) (w : Part) (code : Nat) (hK : Keeps b0 s) :
    Keeps b0 (dropUnsent s c w code) := by
  unfold dropUnsent
  repeat' first
    | with_reducible assumption
    | (extract_lets +onlyGivenNames z; first | ((first | refine Keeps.cut (p := Keeps b0 z) ?_ ?_ | refine Keeps.cut (p := Keeps b0 z.2) ?_ ?_ | refine Keeps.cut (p := Keeps b0 z.2.2) ?_ ?_ | refine Keeps.cut (p := Keeps b0 z.1) ?_ ?_ | refine Keeps.cut (p := Keeps b0 z.s) ?_ ?_ | refine Keeps.cut (p := Keeps b0 z.2.s) ?_ ?_ | refine Keeps.cut (p := Keeps b0 z.2.2.s) ?_ ?_); (focus (intros; dsimp only [z]; (repeat' first | (simp (maxDischargeDepth := 99) only [KIss.hold, KIss.done, KIss.fault, KIss.wait, Keeps.upd, Keeps.updId, Keeps.ite, Keeps.foldl, Keeps.foldl2, Keeps.foldl3, Keeps.refl, implies_true, keeps_partAnswer, keeps_setConn, *]; done) | with_reducible apply Keeps.fold1 | with_reducible apply Keeps.fold2 | with_reducible apply Keeps.fold3 | with_reducible apply Keeps.fold21 | with_reducible apply Keeps.foldE | with_reducible apply Keeps.foldE2 | with_reducible apply Keeps.foldE3 | intro _ | split | dsimp only))); intro hz; clear_value z) | clear_value z | skip)
    | (simp (maxDischargeDepth := 99) only [KIss.hold, KIss.done, KIss.fault, KIss.wait, Keeps.upd, Keeps.updId, Keeps.ite, Keeps.foldl, Keeps.foldl2, Keeps.foldl3, Keeps.refl, implies_true, keeps_partAnswer, keeps_setConn, *]; done)
    | with_reducible apply Keeps.fold1
    | with_reducible apply Keeps.fold2
    | with_reducible apply Keeps.fold3
    | with_reducible apply Keeps.fold21
    | with_reducible apply Keeps.foldE
    | with_reducible apply Keeps.foldE2
    | with_reducible apply Keeps.foldE3
    | intro _
    | (split <;> (try (rename_i heq; (first | refine Keeps.cut (Keeps.of_eq (b := b0) heq ?_) ?_ | refine Keeps.cut (Keeps.of_eq3 (b := b0) heq ?_) ?_ | refine Keeps.cut (Keeps.of_eq1 (b := b0) heq ?_) ?_ | refine Keeps.cut (Keeps.of_eq4 (b := b0) heq ?_) ?_ | refine Keeps.cut (Keeps.of_eqE (b := b0) heq ?_) ?_ | refine Keeps.cut (Keeps.of_eqE3 (b := b0) heq ?_) ?_); (focus (clear heq; (repeat' first | (simp (maxDischargeDepth := 99) only [KIss.hold, KIss.done, KIss.fault, KIss.wait, Keeps.upd, Keeps.updId, Keeps.ite, Keeps.foldl, Keeps.foldl2, Keeps.foldl3, Keeps.refl, implies_true, keeps_partAnswer, keeps_setConn, *]; done) | with_reducible apply Keeps.fold1 | with_reducible apply Keeps.fold2 | with_reducible apply Keeps.fold3 | with_reducible apply Keeps.fold21 | with_reducible apply Keeps.foldE | with_reducible apply Keeps.foldE2 | with_reducible apply Keeps.foldE3 | intro _ | split | dsimp only))); intro hz; (try dsimp only at hz); clear heq)))

theorem keeps_opEnds {b0 : State} {s : State} (w : Part) (code : Nat) (hK : Keeps b0 s) :
    Keeps b0 (opEnds s w code) := by
  unfold opEnds; simp (maxDischargeDepth := 99) only [KIss.hold, KIss.done, KIss.fault, KIss.wait, Keeps.upd, Keeps.updId,
        Keeps.ite, Keeps.foldl, Keeps.foldl2, Keeps.foldl3, Keeps.refl, implies_true, keeps_takenMod, keeps_setConn, *]

theorem keeps_requestLost {b0 : State} {s : State} (c : Nat) (w : Part) (code : Nat) (hK : Keeps b0 s) :
    Keeps b0 (requestLost s c w code) := by
  unfold requestLost; (repeat' split) <;> simp (maxDischargeDepth := 99) only [KIss.hold, KIss.done, KIss.fault, KIss.wait,
        Keeps.upd, Keeps.updId, Keeps.ite, Keeps.foldl, Keeps.foldl2, Keeps.foldl3, Keeps.refl, implies_true,
        keeps_partAnswer, keeps_dropUnsent, keeps_opEnds, *]

theorem keeps_launch {b0 : State} {s : State} (c : Nat) (r : OutReq) (hK : Keeps b0 s) :
    Keeps b0 (launch s c r).2.2 := by
  unfold launch; simp (maxDischargeDepth := 99) only [KIss.hold, KIss.done, KIss.fault, KIss.wait, Keeps.upd, Keeps.updId,
        Keeps.ite, Keeps.foldl, Keeps.foldl2, Keeps.foldl3, Keeps.refl, implies_true, keeps_forward, *]

theorem keeps_launched {b0 : State} {s : State} (c : Nat) (old : OutReq) (new : OutReq) (code : Nat) (hK : Keeps b0 s) :
    Keeps b0 (launched s c old new code) := by
  unfold launched; (repeat' split) <;> simp (maxDischargeDepth := 99) only [KIss.hold, KIss.done, KIss.fault, KIss.wait,
        Keeps.upd, Keeps.updId, Keeps.ite, Keeps.foldl, Keeps.foldl2, Keeps.foldl3, Keeps.refl, implies_true, keeps_setConn,
        keeps_requestLost, *]

theorem keeps_discardOwn {b0 : State} {s : State} (pk : Packet) (code : Nat) (hK : Keeps b0 s) :
    Keeps b0 (discardOwn s pk code) := by
  unfold discardOwn; (repeat' split) <;> simp (maxDischargeDepth := 99) only [KIss.hold, KIss.done, KIss.fault, KIss.wait,
        Keeps.upd, Keeps.updId, Keeps.ite, Keeps.foldl, Keeps.foldl2, Keeps.foldl3, Keeps.refl, implies_true, keeps_launched,
         *]

theorem keeps_portGoesDown {b0 : State} {s : State} (p : Nat) (code : Nat) (hK : Keeps b0 s) :
    Keeps b0 (portGoesDown s p code) := by
  unfold portGoesDown; simp (maxDischargeDepth := 99) only [KIss.hold, KIss.done, KIss.fault, KIss.wait, Keeps.upd,
        Keeps.updId, Keeps.ite, Keeps.foldl, Keeps.foldl2, Keeps.foldl3, Keeps.refl, implies_true, keeps_report,
        keeps_setPort, keeps_setPortF, keeps_forwardFrom, keeps_discardOwn, *]

theorem keeps_pumpConns {b0 : State} (n : Nat) {s : State} (hK : Keeps b0 s) : Keeps b0 (pumpConns n s) := by
  induction n generalizing s with
  | zero => exact hK
  | succ n ih =>
    unfold pumpConns
    split
    · exact hK
    · rename_i c r _
      split
      rename_i code bs s1 h1
      have k1 := Keeps.of_eq3 h1 (keeps_readSource _ _ hK)
      split
      · split
        · exact k1
        · exact ih (keeps_dropUnsent _ _ _ k1)
      · extract_lets psn s2
        split
        rename_i r2 code2 s3 h3
        exact ih (keeps_launched _ _ _ _ (Keeps.of_eq3 h3 (keeps_launch _ _ (keeps_setConnSeqF _ _ _ _ k1))))

theorem keeps_pumpAll {b0 : State} {s : State} (hK : Keeps b0 s) :
    Keeps b0 (pumpAll s) := by
  unfold pumpAll; simp (maxDischargeDepth := 99) only [KIss.hold, KIss.done, KIss.fault, KIss.wait, Keeps.upd, Keeps.updId,
        Keeps.ite, Keeps.foldl, Keeps.foldl2, Keeps.foldl3, Keeps.refl, implies_true, keeps_pumpConns, *]

theorem keeps_sendAll {b0 : State} {s : State} (c : Nat) (rs : List OutReq) (hK : Keeps b0 s) :
    Keeps b0 (sendAll s c rs) := by
  unfold sendAll; simp (maxDischargeDepth := 99) only [KIss.hold, KIss.done, KIss.fault, KIss.wait, Keeps.upd, Keeps.updId,
        Keeps.ite, Keeps.foldl, Keeps.foldl2, Keeps.foldl3, Keeps.refl, implies_true, keeps_setConn, keeps_pumpAll, *]

theorem keeps_connError {b0 : State} {s : State} (c : Nat) (which : Option (BitVec 32)) (cause : Nat) (rest : Nat) (hK : Keeps b0 s) :
    Keeps b0 (connError s c which cause rest) := by
  unfold connError
  repeat' first
    | with_reducible assumption
    | (extract_lets +onlyGivenNames z; first | ((first | refine Keeps.cut (p := Keeps b0 z) ?_ ?_ | refine Keeps.cut (p := Keeps b0 z.2) ?_ ?_ | refine Keeps.cut (p := Keeps b0 z.2.2) ?_ ?_ | refine Keeps.cut (p := Keeps b0 z.1) ?_ ?_ | refine Keeps.cut (p := Keeps b0 z.s) ?_ ?_ | refine Keeps.cut (p := Keeps b0 z.2.s) ?_ ?_ | refine Keeps.cut (p := Keeps b0 z.2.2.s) ?_ ?_); (focus (intros; dsimp only [z]; (repeat' first | (simp (maxDischargeDepth := 99) only [KIss.hold, KIss.done, KIss.fault, KIss.wait, Keeps.upd, Keeps.updId, Keeps.ite, Keeps.foldl, Keeps.foldl2, Keeps.foldl3, Keeps.refl, implies_true, keeps_partAnswer, keeps_setConnF, keeps_setConn, *]; done) | with_reducible apply Keeps.fold1 | with_reducible apply Keeps.fold2 | with_reducible apply Keeps.fold3 | with_reducible apply Keeps.fold21 | with_reducible apply Keeps.foldE | with_reducible apply Keeps.foldE2 | with_reducible apply Keeps.foldE3 | intro _ | split | dsimp only))); intro hz; clear_value z) | clear_value z | skip)
    | (simp (maxDischargeDepth := 99) only [KIss.hold, KIss.done, KIss.fault, KIss.wait, Keeps.upd, Keeps.updId, Keeps.ite, Keeps.foldl, Keeps.foldl2, Keeps.foldl3, Keeps.refl, implies_true, keeps_partAnswer, keeps_setConnF, keeps_setConn, *]; done)
    | with_reducible apply Keeps.fold1
    | with_reducible apply Keeps.fold2
    | with_reducible apply Keeps.fold3
    | with_reducible apply Keeps.fold21
    | with_reducible apply Keeps.foldE
    | with_reducible apply Keeps.foldE2
    | with_reducible apply Keeps.foldE3
    | intro _
    | (split <;> (try (rename_i heq; (first | refine Keeps.cut (Keeps.of_eq (b := b0) heq ?_) ?_ | refine Keeps.cut (Keeps.of_eq3 (b := b0) heq ?_) ?_ | refine Keeps.cut (Keeps.of_eq1 (b := b0) heq ?_) ?_ | refine Keeps.cut (Keeps.of_eq4 (b := b0) heq ?_) ?_ | refine Keeps.cut (Keeps.of_eqE (b := b0) heq ?_) ?_ | refine Keeps.cut (Keeps.of_eqE3 (b := b0) heq ?_) ?_); (focus (clear heq; (repeat' first | (simp (maxDischargeDepth := 99) only [KIss.hold, KIss.done, KIss.fault, KIss.wait, Keeps.upd, Keeps.updId, Keeps.ite, Keeps.foldl, Keeps.foldl2, Keeps.foldl3, Keeps.refl, implies_true, keeps_partAnswer, keeps_setConnF, keeps_setConn, *]; done) | with_reducible apply Keeps.fold1 | with_reducible apply Keeps.fold2 | with_reducible apply Keeps.fold3 | with_reducible apply Keeps.fold21 | with_reducible apply Keeps.foldE | with_reducible apply Keeps.foldE2 | with_reducible apply Keeps.foldE3 | intro _ | split | dsimp only))); intro hz; (try dsimp only at hz); clear heq)))

theorem keeps_resendFrom {b0 : State} {s : State} (c : Nat) (p : OutReq → Bool) (hK : Keeps b0 s) :
    Keeps b0 (resendFrom s c p) := by
  unfold resendFrom
  repeat' first
    | with_reducible assumption
    | (extract_lets +onlyGivenNames z; first | ((first | refine Keeps.cut (p := Keeps b0 z) ?_ ?_ | refine Keeps.cut (p := Keeps b0 z.2) ?_ ?_ | refine Keeps.cut (p := Keeps b0 z.2.2) ?_ ?_ | refine Keeps.cut (p := Keeps b0 z.1) ?_ ?_ | refine Keeps.cut (p := Keeps b0 z.s) ?_ ?_ | refine Keeps.cut (p := Keeps b0 z.2.s) ?_ ?_ | refine Keeps.cut (p := Keeps b0 z.2.2.s) ?_ ?_); (focus (intros; dsimp only [z]; (repeat' first | (simp (maxDischargeDepth := 99) only [KIss.hold, KIss.done, KIss.fault, KIss.wait, Keeps.upd, Keeps.updId, Keeps.ite, Keeps.foldl, Keeps.foldl2, Keeps.foldl3, Keeps.refl, implies_true, keeps_partAnswer, keeps_readSource, keeps_dropUnsent, keeps_launch, keeps_launched, *]; done) | with_reducible apply Keeps.fold1 | with_reducible apply Keeps.fold2 | with_reducible apply Keeps.fold3 | with_reducible apply Keeps.fold21 | with_reducible apply Keeps.foldE | with_reducible apply Keeps.foldE2 | with_reducible apply Keeps.foldE3 | intro _ | split | dsimp only))); intro hz; clear_value z) | clear_value z | skip)
    | (simp (maxDischargeDepth := 99) only [KIss.hold, KIss.done, KIss.fault, KIss.wait, Keeps.upd, Keeps.updId, Keeps.ite, Keeps.foldl, Keeps.foldl2, Keeps.foldl3, Keeps.refl, implies_true, keeps_partAnswer, keeps_readSource, keeps_dropUnsent, keeps_launch, keeps_launched, *]; done)
    | with_reducible apply Keeps.fold1
    | with_reducible apply Keeps.fold2
    | with_reducible apply Keeps.fold3
    | with_reducible apply Keeps.fold21
    | with_reducible apply Keeps.foldE
    | with_reducible apply Keeps.foldE2
    | with_reducible apply Keeps.foldE3
    | intro _
    | (split <;> (try (rename_i heq; (first | refine Keeps.cut (Keeps.of_eq (b := b0) heq ?_) ?_ | refine Keeps.cut (Keeps.of_eq3 (b := b0) heq ?_) ?_ | refine Keeps.cut (Keeps.of_eq1 (b := b0) heq ?_) ?_ | refine Keeps.cut (Keeps.of_eq4 (b := b0) heq ?_) ?_ | refine Keeps.cut (Keeps.of_eqE (b := b0) heq ?_) ?_ | refine Keeps.cut (Keeps.of_eqE3 (b := b0) heq ?_) ?_); (focus (clear heq; (repeat' first | (simp (maxDischargeDepth := 99) only [KIss.hold, KIss.done, KIss.fault, KIss.wait, Keeps.upd, Keeps.updId, Keeps.ite, Keeps.foldl, Keeps.foldl2, Keeps.foldl3, Keeps.refl, implies_true, keeps_partAnswer, keeps_readSource, keeps_dropUnsent, keeps_launch, keeps_launched, *]; done) | with_reducible apply Keeps.fold1 | with_reducible apply Keeps.fold2 | with_reducible apply Keeps.fold3 | with_reducible apply Keeps.fold21 | with_reducible apply Keeps.foldE | with_reducible apply Keeps.foldE2 | with_reducible apply Keeps.foldE3 | intro _ | split | dsimp only))); intro hz; (try dsimp only at hz); clear heq)))

theorem keeps_answered {b0 : State} {s : State} (c : Nat) (r : OutReq) (code : Nat) (hK : Keeps b0 s) :
    Keeps b0 (answered s c r code) := by
  unfold answered; (repeat' split) <;> simp (maxDischargeDepth := 99) only [KIss.hold, KIss.done, KIss.fault, KIss.wait,
        Keeps.upd, Keeps.updId, Keeps.ite, Keeps.foldl, Keeps.foldl2, Keeps.foldl3, Keeps.refl, implies_true,
        keeps_partAnswer, keeps_setConn, keeps_dropUnsent, *]

theorem keeps_descStatus {b0 : State} {s : State} (k : Nat) (key : Nat) (ctx : Nat) (code : Nat) (hK : Keeps b0 s) :
    Keeps b0 (descStatus s k key ctx code) := by
  unfold descStatus; (repeat' split) <;> simp (maxDischargeDepth := 99) only [KIss.hold, KIss.done, KIss.fault, KIss.wait,
        Keeps.upd, Keeps.updId, Keeps.ite, Keeps.foldl, Keeps.foldl2, Keeps.foldl3, Keeps.refl, implies_true,
        keeps_jobStatus, *]

theorem keeps_collDel {b0 : State} {s : State} (k : Nat) (slot : Nat) (hK : Keeps b0 s) :
    Keeps b0 (collDel s k slot) := by
  unfold collDel; simp (maxDischargeDepth := 99) only [KIss.hold, KIss.done, KIss.fault, KIss.wait, Keeps.upd, Keeps.updId,
        Keeps.ite, Keeps.foldl, Keeps.foldl2, Keeps.foldl3, Keeps.refl, implies_true, keeps_setGrotto, *]

theorem keeps_collDone {b0 : State} {s : State} (k : Nat) (slot : Nat) (c : CollSlot) (code : Nat) (info : Nat) (hK : Keeps b0 s) :
    Keeps b0 (collDone s k slot c code info) := by
  unfold collDone; simp (maxDischargeDepth := 99) only [KIss.hold, KIss.done, KIss.fault, KIss.wait, Keeps.upd, Keeps.updId,
        Keeps.ite, Keeps.foldl, Keeps.foldl2, Keeps.foldl3, Keeps.refl, implies_true, keeps_takenMod, keeps_collDel, *]

theorem keeps_collPlace {b0 : State} {s : State} (k : Nat) (c : CollSlot) (rank : Nat) (off : Nat) (bs : List Byte) (hK : Keeps b0 s) :
    Keeps b0 (collPlace s k c rank off bs).2 := by
  unfold collPlace
  repeat' first
    | with_reducible assumption
    | (extract_lets +onlyGivenNames z; first | ((first | refine Keeps.cut (p := Keeps b0 z) ?_ ?_ | refine Keeps.cut (p := Keeps b0 z.2) ?_ ?_ | refine Keeps.cut (p := Keeps b0 z.2.2) ?_ ?_ | refine Keeps.cut (p := Keeps b0 z.1) ?_ ?_ | refine Keeps.cut (p := Keeps b0 z.s) ?_ ?_ | refine Keeps.cut (p := Keeps b0 z.2.s) ?_ ?_ | refine Keeps.cut (p := Keeps b0 z.2.2.s) ?_ ?_); (focus (intros; dsimp only [z]; (repeat' first | (simp (maxDischargeDepth := 99) only [KIss.hold, KIss.done, KIss.fault, KIss.wait, Keeps.upd, Keeps.updId, Keeps.ite, Keeps.foldl, Keeps.foldl2, Keeps.foldl3, Keeps.refl, implies_true, keeps_grtPut, *]; done) | with_reducible apply Keeps.fold1 | with_reducible apply Keeps.fold2 | with_reducible apply Keeps.fold3 | with_reducible apply Keeps.fold21 | with_reducible apply Keeps.foldE | with_reducible apply Keeps.foldE2 | with_reducible apply Keeps.foldE3 | intro _ | split | dsimp only))); intro hz; clear_value z) | clear_value z | skip)
    | (simp (maxDischargeDepth := 99) only [KIss.hold, KIss.done, KIss.fault, KIss.wait, Keeps.upd, Keeps.updId, Keeps.ite, Keeps.foldl, Keeps.foldl2, Keeps.foldl3, Keeps.refl, implies_true, keeps_grtPut, *]; done)
    | with_reducible apply Keeps.fold1
    | with_reducible apply Keeps.fold2
    | with_reducible apply Keeps.fold3
    | with_reducible apply Keeps.fold21
    | with_reducible apply Keeps.foldE
    | with_reducible apply Keeps.foldE2
    | with_reducible apply Keeps.foldE3
    | intro _
    | (split <;> (try (rename_i heq; (first | refine Keeps.cut (Keeps.of_eq (b := b0) heq ?_) ?_ | refine Keeps.cut (Keeps.of_eq3 (b := b0) heq ?_) ?_ | refine Keeps.cut (Keeps.of_eq1 (b := b0) heq ?_) ?_ | refine Keeps.cut (Keeps.of_eq4 (b := b0) heq ?_) ?_ | refine Keeps.cut (Keeps.of_eqE (b := b0) heq ?_) ?_ | refine Keeps.cut (Keeps.of_eqE3 (b := b0) heq ?_) ?_); (focus (clear heq; (repeat' first | (simp (maxDischargeDepth := 99) only [KIss.hold, KIss.done, KIss.fault, KIss.wait, Keeps.upd, Keeps.updId, Keeps.ite, Keeps.foldl, Keeps.foldl2, Keeps.foldl3, Keeps.refl, implies_true, keeps_grtPut, *]; done) | with_reducible apply Keeps.fold1 | with_reducible apply Keeps.fold2 | with_reducible apply Keeps.fold3 | with_reducible apply Keeps.fold21 | with_reducible apply Keeps.foldE | with_reducible apply Keeps.foldE2 | with_reducible apply Keeps.foldE3 | intro _ | split | dsimp only))); intro hz; (try dsimp only at hz); clear heq)))

theorem keeps_collOrdered {b0 : State} {s : State} (k : Nat) (c : CollSlot) (hK : Keeps b0 s) :
    Keeps b0 (collOrdered s k c).2 := by
  unfold collOrdered
  repeat' first
    | with_reducible assumption
    | (extract_lets +onlyGivenNames z; first | ((first | refine Keeps.cut (p := Keeps b0 z) ?_ ?_ | refine Keeps.cut (p := Keeps b0 z.2) ?_ ?_ | refine Keeps.cut (p := Keeps b0 z.2.2) ?_ ?_ | refine Keeps.cut (p := Keeps b0 z.1) ?_ ?_ | refine Keeps.cut (p := Keeps b0 z.s) ?_ ?_ | refine Keeps.cut (p := Keeps b0 z.2.s) ?_ ?_ | refine Keeps.cut (p := Keeps b0 z.2.2.s) ?_ ?_); (focus (intros; dsimp only [z]; (repeat' first | (simp (maxDischargeDepth := 99) only [KIss.hold, KIss.done, KIss.fault, KIss.wait, Keeps.upd, Keeps.updId, Keeps.ite, Keeps.foldl, Keeps.foldl2, Keeps.foldl3, Keeps.refl, implies_true, keeps_grtPut, keeps_freeBytes, *]; done) | with_reducible apply Keeps.fold1 | with_reducible apply Keeps.fold2 | with_reducible apply Keeps.fold3 | with_reducible apply Keeps.fold21 | with_reducible apply Keeps.foldE | with_reducible apply Keeps.foldE2 | with_reducible apply Keeps.foldE3 | intro _ | split | dsimp only))); intro hz; clear_value z) | clear_value z | skip)
    | (simp (maxDischargeDepth := 99) only [KIss.hold, KIss.done, KIss.fault, KIss.wait, Keeps.upd, Keeps.updId, Keeps.ite, Keeps.foldl, Keeps.foldl2, Keeps.foldl3, Keeps.refl, implies_true, keeps_grtPut, keeps_freeBytes, *]; done)
    | with_reducible apply Keeps.fold1
    | with_reducible apply Keeps.fold2
    | with_reducible apply Keeps.fold3
    | with_reducible apply Keeps.fold21
    | with_reducible apply Keeps.foldE
    | with_reducible apply Keeps.foldE2
    | with_reducible apply Keeps.foldE3
    | intro _
    | (split <;> (try (rename_i heq; (first | refine Keeps.cut (Keeps.of_eq (b := b0) heq ?_) ?_ | refine Keeps.cut (Keeps.of_eq3 (b := b0) heq ?_) ?_ | refine Keeps.cut (Keeps.of_eq1 (b := b0) heq ?_) ?_ | refine Keeps.cut (Keeps.of_eq4 (b := b0) heq ?_) ?_ | refine Keeps.cut (Keeps.of_eqE (b := b0) heq ?_) ?_ | refine Keeps.cut (Keeps.of_eqE3 (b := b0) heq ?_) ?_); (focus (clear heq; (repeat' first | (simp (maxDischargeDepth := 99) only [KIss.hold, KIss.done, KIss.fault, KIss.wait, Keeps.upd, Keeps.updId, Keeps.ite, Keeps.foldl, Keeps.foldl2, Keeps.foldl3, Keeps.refl, implies_true, keeps_grtPut, keeps_freeBytes, *]; done) | with_reducible apply Keeps.fold1 | with_reducible apply Keeps.fold2 | with_reducible apply Keeps.fold3 | with_reducible apply Keeps.fold21 | with_reducible apply Keeps.foldE | with_reducible apply Keeps.foldE2 | with_reducible apply Keeps.foldE3 | intro _ | split | dsimp only))); intro hz; (try dsimp only at hz); clear heq)))

theorem keeps_collArrive {b0 : State} {s : State} (k : Nat) (slot : Nat) (rank : Nat) (hK : Keeps b0 s) :
    Keeps b0 (collArrive s k slot rank) := by
  unfold collArrive
  repeat' first
    | with_reducible assumption
    | (extract_lets +onlyGivenNames z; first | ((first | refine Keeps.cut (p := Keeps b0 z) ?_ ?_ | refine Keeps.cut (p := Keeps b0 z.2) ?_ ?_ | refine Keeps.cut (p := Keeps b0 z.2.2) ?_ ?_ | refine Keeps.cut (p := Keeps b0 z.1) ?_ ?_ | refine Keeps.cut (p := Keeps b0 z.s) ?_ ?_ | refine Keeps.cut (p := Keeps b0 z.2.s) ?_ ?_ | refine Keeps.cut (p := Keeps b0 z.2.2.s) ?_ ?_); (focus (intros; dsimp only [z]; (repeat' first | (simp (maxDischargeDepth := 99) only [KIss.hold, KIss.done, KIss.fault, KIss.wait, Keeps.upd, Keeps.updId, Keeps.ite, Keeps.foldl, Keeps.foldl2, Keeps.foldl3, Keeps.refl, implies_true, keeps_setGrotto, keeps_collDone, keeps_collOrdered, *]; done) | with_reducible apply Keeps.fold1 | with_reducible apply Keeps.fold2 | with_reducible apply Keeps.fold3 | with_reducible apply Keeps.fold21 | with_reducible apply Keeps.foldE | with_reducible apply Keeps.foldE2 | with_reducible apply Keeps.foldE3 | intro _ | split | dsimp only))); intro hz; clear_value z) | clear_value z | skip)
    | (simp (maxDischargeDepth := 99) only [KIss.hold, KIss.done, KIss.fault, KIss.wait, Keeps.upd, Keeps.updId, Keeps.ite, Keeps.foldl, Keeps.foldl2, Keeps.foldl3, Keeps.refl, implies_true, keeps_setGrotto, keeps_collDone, keeps_collOrdered, *]; done)
    | with_reducible apply Keeps.fold1
    | with_reducible apply Keeps.fold2
    | with_reducible apply Keeps.fold3
    | with_reducible apply Keeps.fold21
    | with_reducible apply Keeps.foldE
    | with_reducible apply Keeps.foldE2
    | with_reducible apply Keeps.foldE3
    | intro _
    | (split <;> (try (rename_i heq; (first | refine Keeps.cut (Keeps.of_eq (b := b0) heq ?_) ?_ | refine Keeps.cut (Keeps.of_eq3 (b := b0) heq ?_) ?_ | refine Keeps.cut (Keeps.of_eq1 (b := b0) heq ?_) ?_ | refine Keeps.cut (Keeps.of_eq4 (b := b0) heq ?_) ?_ | refine Keeps.cut (Keeps.of_eqE (b := b0) heq ?_) ?_ | refine Keeps.cut (Keeps.of_eqE3 (b := b0) heq ?_) ?_); (focus (clear heq; (repeat' first | (simp (maxDischargeDepth := 99) only [KIss.hold, KIss.done, KIss.fault, KIss.wait, Keeps.upd, Keeps.updId, Keeps.ite, Keeps.foldl, Keeps.foldl2, Keeps.foldl3, Keeps.refl, implies_true, keeps_setGrotto, keeps_collDone, keeps_collOrdered, *]; done) | with_reducible apply Keeps.fold1 | with_reducible apply Keeps.fold2 | with_reducible apply Keeps.fold3 | with_reducible apply Keeps.fold21 | with_reducible apply Keeps.foldE | with_reducible apply Keeps.foldE2 | with_reducible apply Keeps.foldE3 | intro _ | split | dsimp only))); intro hz; (try dsimp only at hz); clear heq)))

theorem keeps_collAccept {b0 : State} {s : State} (k : Nat) (ctx : Nat) (slot : Nat) (rank : Nat) (data : List Byte) (hK : Keeps b0 s) :
    Keeps b0 (collAccept s k ctx slot rank data).2 := by
  unfold collAccept
  repeat' first
    | with_reducible assumption
    | (extract_lets +onlyGivenNames z; first | ((first | refine Keeps.cut (p := Keeps b0 z) ?_ ?_ | refine Keeps.cut (p := Keeps b0 z.2) ?_ ?_ | refine Keeps.cut (p := Keeps b0 z.2.2) ?_ ?_ | refine Keeps.cut (p := Keeps b0 z.1) ?_ ?_ | refine Keeps.cut (p := Keeps b0 z.s) ?_ ?_ | refine Keeps.cut (p := Keeps b0 z.2.s) ?_ ?_ | refine Keeps.cut (p := Keeps b0 z.2.2.s) ?_ ?_); (focus (intros; dsimp only [z]; (repeat' first | (simp (maxDischargeDepth := 99) only [KIss.hold, KIss.done, KIss.fault, KIss.wait, Keeps.upd, Keeps.updId, Keeps.ite, Keeps.foldl, Keeps.foldl2, Keeps.foldl3, Keeps.refl, implies_true, keeps_collPlace, keeps_collArrive, *]; done) | with_reducible apply Keeps.fold1 | with_reducible apply Keeps.fold2 | with_reducible apply Keeps.fold3 | with_reducible apply Keeps.fold21 | with_reducible apply Keeps.foldE | with_reducible apply Keeps.foldE2 | with_reducible apply Keeps.foldE3 | intro _ | split | dsimp only))); intro hz; clear_value z) | clear_value z | skip)
    | (simp (maxDischargeDepth := 99) only [KIss.hold, KIss.done, KIss.fault, KIss.wait, Keeps.upd, Keeps.updId, Keeps.ite, Keeps.foldl, Keeps.foldl2, Keeps.foldl3, Keeps.refl, implies_true, keeps_collPlace, keeps_collArrive, *]; done)
    | with_reducible apply Keeps.fold1
    | with_reducible apply Keeps.fold2
    | with_reducible apply Keeps.fold3
    | with_reducible apply Keeps.fold21
    | with_reducible apply Keeps.foldE
    | with_reducible apply Keeps.foldE2
    | with_reducible apply Keeps.foldE3
    | intro _
    | (split <;> (try (rename_i heq; (first | refine Keeps.cut (Keeps.of_eq (b := b0) heq ?_) ?_ | refine Keeps.cut (Keeps.of_eq3 (b := b0) heq ?_) ?_ | refine Keeps.cut (Keeps.of_eq1 (b := b0) heq ?_) ?_ | refine Keeps.cut (Keeps.of_eq4 (b := b0) heq ?_) ?_ | refine Keeps.cut (Keeps.of_eqE (b := b0) heq ?_) ?_ | refine Keeps.cut (Keeps.of_eqE3 (b := b0) heq ?_) ?_); (focus (clear heq; (repeat' first | (simp (maxDischargeDepth := 99) only [KIss.hold, KIss.done, KIss.fault, KIss.wait, Keeps.upd, Keeps.updId, Keeps.ite, Keeps.foldl, Keeps.foldl2, Keeps.foldl3, Keeps.refl, implies_true, keeps_collPlace, keeps_collArrive, *]; done) | with_reducible apply Keeps.fold1 | with_reducible apply Keeps.fold2 | with_reducible apply Keeps.fold3 | with_reducible apply Keeps.fold21 | with_reducible apply Keeps.foldE | with_reducible apply Keeps.foldE2 | with_reducible apply Keeps.foldE3 | intro _ | split | dsimp only))); intro hz; (try dsimp only at hz); clear heq)))

theorem keeps_collContribution {b0 : State} {s : State} (k : Nat) (n : Nat) (hK : Keeps b0 s) :
    Keeps b0 (collContribution s k n) := by
  unfold collContribution
  repeat' first
    | with_reducible assumption
    | (simp (maxDischargeDepth := 99) only [KIss.hold, KIss.done, KIss.fault, KIss.wait, Keeps.upd, Keeps.updId, Keeps.ite, Keeps.foldl, Keeps.foldl2, Keeps.foldl3, Keeps.refl, implies_true, keeps_setGrotto, keeps_partAnswer, keeps_collAccept, *]; done)
    | (split <;> (try (rename_i heq; (first | refine Keeps.cut (Keeps.of_eq (b := b0) heq ?_) ?_ | refine Keeps.cut (Keeps.of_eq3 (b := b0) heq ?_) ?_ | refine Keeps.cut (Keeps.of_eq1 (b := b0) heq ?_) ?_ | refine Keeps.cut (Keeps.of_eq4 (b := b0) heq ?_) ?_ | refine Keeps.cut (Keeps.of_eqE (b := b0) heq ?_) ?_ | refine Keeps.cut (Keeps.of_eqE3 (b := b0) heq ?_) ?_); (focus (clear heq; (repeat' first | (simp (maxDischargeDepth := 99) only [KIss.hold, KIss.done, KIss.fault, KIss.wait, Keeps.upd, Keeps.updId, Keeps.ite, Keeps.foldl, Keeps.foldl2, Keeps.foldl3, Keeps.refl, implies_true, keeps_setGrotto, keeps_partAnswer, keeps_collAccept, *]; done) | with_reducible apply Keeps.fold1 | with_reducible apply Keeps.fold2 | with_reducible apply Keeps.fold3 | with_reducible apply Keeps.fold21 | with_reducible apply Keeps.foldE | with_reducible apply Keeps.foldE2 | with_reducible apply Keeps.foldE3 | intro _ | split | dsimp only))); intro hz; (try dsimp only at hz); clear heq)))

theorem keeps_collTimeout {b0 : State} {s : State} (k : Nat) (slot : Nat) (hK : Keeps b0 s) :
    Keeps b0 (collTimeout s k slot) := by
  unfold collTimeout; (repeat' split) <;> simp (maxDischargeDepth := 99) only [KIss.hold, KIss.done, KIss.fault, KIss.wait,
        Keeps.upd, Keeps.updId, Keeps.ite, Keeps.foldl, Keeps.foldl2, Keeps.foldl3, Keeps.refl, implies_true, keeps_collDone,
         *]

theorem keeps_contribute {b0 : State} {s : State} (k : Nat) (ctx : Nat) (slot : Nat) (rank : Nat) (data : List Byte) (owner : Part) (hK : Keeps b0 s) :
    Keeps b0 (contribute s k ctx slot rank data owner) := by
  unfold contribute; simp (maxDischargeDepth := 99) only [KIss.hold, KIss.done, KIss.fault, KIss.wait, Keeps.upd,
        Keeps.updId, Keeps.ite, Keeps.foldl, Keeps.foldl2, Keeps.foldl3, Keeps.refl, implies_true, keeps_setGrotto,
        keeps_partAnswer, *]

theorem keeps_collOpen {b0 : State} {e : Eng} (key : Nat) (dslot : Nat) (w : List W64) (hK : Keeps b0 e.s) :
    Keeps b0 (collOpen e key dslot w).2.s := by
  unfold collOpen
  repeat' first
    | with_reducible assumption
    | (extract_lets +onlyGivenNames z; first | ((first | refine Keeps.cut (p := Keeps b0 z) ?_ ?_ | refine Keeps.cut (p := Keeps b0 z.2) ?_ ?_ | refine Keeps.cut (p := Keeps b0 z.2.2) ?_ ?_ | refine Keeps.cut (p := Keeps b0 z.1) ?_ ?_ | refine Keeps.cut (p := Keeps b0 z.s) ?_ ?_ | refine Keeps.cut (p := Keeps b0 z.2.s) ?_ ?_ | refine Keeps.cut (p := Keeps b0 z.2.2.s) ?_ ?_); (focus (intros; dsimp only [z]; (repeat' first | (simp (maxDischargeDepth := 99) only [KIss.hold, KIss.done, KIss.fault, KIss.wait, Keeps.upd, Keeps.updId, Keeps.ite, Keeps.foldl, Keeps.foldl2, Keeps.foldl3, Keeps.refl, implies_true, keeps_setGrotto, keeps_engAdd, keeps_FlsRun_read, keeps_FlsRun_write, keeps_Eng_read, keeps_Eng_write, keeps_expect, keeps_descStatus, keeps_collAccept, *]; done) | with_reducible apply Keeps.fold1 | with_reducible apply Keeps.fold2 | with_reducible apply Keeps.fold3 | with_reducible apply Keeps.fold21 | with_reducible apply Keeps.foldE | with_reducible apply Keeps.foldE2 | with_reducible apply Keeps.foldE3 | intro _ | split | dsimp only))); intro hz; clear_value z) | clear_value z | skip)
    | (simp (maxDischargeDepth := 99) only [KIss.hold, KIss.done, KIss.fault, KIss.wait, Keeps.upd, Keeps.updId, Keeps.ite, Keeps.foldl, Keeps.foldl2, Keeps.foldl3, Keeps.refl, implies_true, keeps_setGrotto, keeps_engAdd, keeps_FlsRun_read, keeps_FlsRun_write, keeps_Eng_read, keeps_Eng_write, keeps_expect, keeps_descStatus, keeps_collAccept, *]; done)
    | with_reducible apply Keeps.fold1
    | with_reducible apply Keeps.fold2
    | with_reducible apply Keeps.fold3
    | with_reducible apply Keeps.fold21
    | with_reducible apply Keeps.foldE
    | with_reducible apply Keeps.foldE2
    | with_reducible apply Keeps.foldE3
    | intro _
    | (split <;> (try (rename_i heq; (first | refine Keeps.cut (Keeps.of_eq (b := b0) heq ?_) ?_ | refine Keeps.cut (Keeps.of_eq3 (b := b0) heq ?_) ?_ | refine Keeps.cut (Keeps.of_eq1 (b := b0) heq ?_) ?_ | refine Keeps.cut (Keeps.of_eq4 (b := b0) heq ?_) ?_ | refine Keeps.cut (Keeps.of_eqE (b := b0) heq ?_) ?_ | refine Keeps.cut (Keeps.of_eqE3 (b := b0) heq ?_) ?_); (focus (clear heq; (repeat' first | (simp (maxDischargeDepth := 99) only [KIss.hold, KIss.done, KIss.fault, KIss.wait, Keeps.upd, Keeps.updId, Keeps.ite, Keeps.foldl, Keeps.foldl2, Keeps.foldl3, Keeps.refl, implies_true, keeps_setGrotto, keeps_engAdd, keeps_FlsRun_read, keeps_FlsRun_write, keeps_Eng_read, keeps_Eng_write, keeps_expect, keeps_descStatus, keeps_collAccept, *]; done) | with_reducible apply Keeps.fold1 | with_reducible apply Keeps.fold2 | with_reducible apply Keeps.fold3 | with_reducible apply Keeps.fold21 | with_reducible apply Keeps.foldE | with_reducible apply Keeps.foldE2 | with_reducible apply Keeps.foldE3 | intro _ | split | dsimp only))); intro hz; (try dsimp only at hz); clear heq)))

theorem keeps_xferRun {b0 : State} {e : Eng} (src : Option Side) (pat : List Byte) (d : Side) (es : Nat) (ps : List (List Nat)) (hK : Keeps b0 e.s) :
    Keeps b0 (xferRun e src pat d es ps).s := by
  unfold xferRun
  repeat' first
    | with_reducible assumption
    | (extract_lets +onlyGivenNames z; first | ((first | refine Keeps.cut (p := Keeps b0 z) ?_ ?_ | refine Keeps.cut (p := Keeps b0 z.2) ?_ ?_ | refine Keeps.cut (p := Keeps b0 z.2.2) ?_ ?_ | refine Keeps.cut (p := Keeps b0 z.1) ?_ ?_ | refine Keeps.cut (p := Keeps b0 z.s) ?_ ?_ | refine Keeps.cut (p := Keeps b0 z.2.s) ?_ ?_ | refine Keeps.cut (p := Keeps b0 z.2.2.s) ?_ ?_); (focus (intros; dsimp only [z]; (repeat' first | (simp (maxDischargeDepth := 99) only [KIss.hold, KIss.done, KIss.fault, KIss.wait, Keeps.upd, Keeps.updId, Keeps.ite, Keeps.foldl, Keeps.foldl2, Keeps.foldl3, Keeps.refl, implies_true, keeps_FlsRun_read, keeps_FlsRun_write, keeps_FlsRun_at_, keeps_Eng_read, keeps_Eng_write, keeps_Eng_free, *]; done) | with_reducible apply Keeps.fold1 | with_reducible apply Keeps.fold2 | with_reducible apply Keeps.fold3 | with_reducible apply Keeps.fold21 | with_reducible apply Keeps.foldE | with_reducible apply Keeps.foldE2 | with_reducible apply Keeps.foldE3 | intro _ | split | dsimp only))); intro hz; clear_value z) | clear_value z | skip)
    | (simp (maxDischargeDepth := 99) only [KIss.hold, KIss.done, KIss.fault, KIss.wait, Keeps.upd, Keeps.updId, Keeps.ite, Keeps.foldl, Keeps.foldl2, Keeps.foldl3, Keeps.refl, implies_true, keeps_FlsRun_read, keeps_FlsRun_write, keeps_FlsRun_at_, keeps_Eng_read, keeps_Eng_write, keeps_Eng_free, *]; done)
    | with_reducible apply Keeps.fold1
    | with_reducible apply Keeps.fold2
    | with_reducible apply Keeps.fold3
    | with_reducible apply Keeps.fold21
    | with_reducible apply Keeps.foldE
    | with_reducible apply Keeps.foldE2
    | with_reducible apply Keeps.foldE3
    | intro _
    | (split <;> (try (rename_i heq; (first | refine Keeps.cut (Keeps.of_eq (b := b0) heq ?_) ?_ | refine Keeps.cut (Keeps.of_eq3 (b := b0) heq ?_) ?_ | refine Keeps.cut (Keeps.of_eq1 (b := b0) heq ?_) ?_ | refine Keeps.cut (Keeps.of_eq4 (b := b0) heq ?_) ?_ | refine Keeps.cut (Keeps.of_eqE (b := b0) heq ?_) ?_ | refine Keeps.cut (Keeps.of_eqE3 (b := b0) heq ?_) ?_); (focus (clear heq; (repeat' first | (simp (maxDischargeDepth := 99) only [KIss.hold, KIss.done, KIss.fault, KIss.wait, Keeps.upd, Keeps.updId, Keeps.ite, Keeps.foldl, Keeps.foldl2, Keeps.foldl3, Keeps.refl, implies_true, keeps_FlsRun_read, keeps_FlsRun_write, keeps_FlsRun_at_, keeps_Eng_read, keeps_Eng_write, keeps_Eng_free, *]; done) | with_reducible apply Keeps.fold1 | with_reducible apply Keeps.fold2 | with_reducible apply Keeps.fold3 | with_reducible apply Keeps.fold21 | with_reducible apply Keeps.foldE | with_reducible apply Keeps.foldE2 | with_reducible apply Keeps.foldE3 | intro _ | split | dsimp only))); intro hz; (try dsimp only at hz); clear heq)))

theorem keeps_xferStart {b0 : State} {e : Eng} (key : Nat) (dslot : Nat) (w : List W64) (hK : Keeps b0 e.s) :
    Keeps b0 (xferStart e key dslot w).2.s := by
  unfold xferStart
  repeat' first
    | with_reducible assumption
    | (extract_lets +onlyGivenNames z; first | ((first | refine Keeps.cut (p := Keeps b0 z) ?_ ?_ | refine Keeps.cut (p := Keeps b0 z.2) ?_ ?_ | refine Keeps.cut (p := Keeps b0 z.2.2) ?_ ?_ | refine Keeps.cut (p := Keeps b0 z.1) ?_ ?_ | refine Keeps.cut (p := Keeps b0 z.s) ?_ ?_ | refine Keeps.cut (p := Keeps b0 z.2.s) ?_ ?_ | refine Keeps.cut (p := Keeps b0 z.2.2.s) ?_ ?_); (focus (intros; dsimp only [z]; (repeat' first | (simp (maxDischargeDepth := 99) only [KIss.hold, KIss.done, KIss.fault, KIss.wait, Keeps.upd, Keeps.updId, Keeps.ite, Keeps.foldl, Keeps.foldl2, Keeps.foldl3, Keeps.refl, implies_true, keeps_freeBytes, keeps_Eng_putData, keeps_expect, keeps_sendAll, keeps_contribute, keeps_xferRun, *]; done) | with_reducible apply Keeps.fold1 | with_reducible apply Keeps.fold2 | with_reducible apply Keeps.fold3 | with_reducible apply Keeps.fold21 | with_reducible apply Keeps.foldE | with_reducible apply Keeps.foldE2 | with_reducible apply Keeps.foldE3 | intro _ | split | dsimp only))); intro hz; clear_value z) | clear_value z | skip)
    | (simp (maxDischargeDepth := 99) only [KIss.hold, KIss.done, KIss.fault, KIss.wait, Keeps.upd, Keeps.updId, Keeps.ite, Keeps.foldl, Keeps.foldl2, Keeps.foldl3, Keeps.refl, implies_true, keeps_freeBytes, keeps_Eng_putData, keeps_expect, keeps_sendAll, keeps_contribute, keeps_xferRun, *]; done)
    | with_reducible apply Keeps.fold1
    | with_reducible apply Keeps.fold2
    | with_reducible apply Keeps.fold3
    | with_reducible apply Keeps.fold21
    | with_reducible apply Keeps.foldE
    | with_reducible apply Keeps.foldE2
    | with_reducible apply Keeps.foldE3
    | intro _
    | (split <;> (try (rename_i heq; (first | refine Keeps.cut (Keeps.of_eq (b := b0) heq ?_) ?_ | refine Keeps.cut (Keeps.of_eq3 (b := b0) heq ?_) ?_ | refine Keeps.cut (Keeps.of_eq1 (b := b0) heq ?_) ?_ | refine Keeps.cut (Keeps.of_eq4 (b := b0) heq ?_) ?_ | refine Keeps.cut (Keeps.of_eqE (b := b0) heq ?_) ?_ | refine Keeps.cut (Keeps.of_eqE3 (b := b0) heq ?_) ?_); (focus (clear heq; (repeat' first | (simp (maxDischargeDepth := 99) only [KIss.hold, KIss.done, KIss.fault, KIss.wait, Keeps.upd, Keeps.updId, Keeps.ite, Keeps.foldl, Keeps.foldl2, Keeps.foldl3, Keeps.refl, implies_true, keeps_freeBytes, keeps_Eng_putData, keeps_expect, keeps_sendAll, keeps_contribute, keeps_xferRun, *]; done) | with_reducible apply Keeps.fold1 | with_reducible apply Keeps.fold2 | with_reducible apply Keeps.fold3 | with_reducible apply Keeps.fold21 | with_reducible apply Keeps.foldE | with_reducible apply Keeps.foldE2 | with_reducible apply Keeps.foldE3 | intro _ | split | dsimp only))); intro hz; (try dsimp only at hz); clear heq)))

theorem keeps_Eng_bytesOf {b0 : State} {e : Eng} (d : Side) (off : Nat) (n : Nat) (hK : Keeps b0 e.s) :
    Keeps b0 (Eng.bytesOf e d off n).2.s := by
  unfold Eng.bytesOf; simp (maxDischargeDepth := 99) only [KIss.hold, KIss.done, KIss.fault, KIss.wait, Keeps.upd,
        Keeps.updId, Keeps.ite, Keeps.foldl, Keeps.foldl2, Keeps.foldl3, Keeps.refl, implies_true, keeps_FlsRun_read,
        keeps_Eng_read, *]

theorem keeps_Eng_part {b0 : State} {e : Eng} (d : Side) (off : Nat) (n : Nat) (hK : Keeps b0 e.s) :
    Keeps b0 (Eng.part e d off n).2.s := by
  unfold Eng.part
  repeat' first
    | with_reducible assumption
    | (extract_lets +onlyGivenNames z; first | ((first | refine Keeps.cut (p := Keeps b0 z) ?_ ?_ | refine Keeps.cut (p := Keeps b0 z.2) ?_ ?_ | refine Keeps.cut (p := Keeps b0 z.2.2) ?_ ?_ | refine Keeps.cut (p := Keeps b0 z.1) ?_ ?_ | refine Keeps.cut (p := Keeps b0 z.s) ?_ ?_ | refine Keeps.cut (p := Keeps b0 z.2.s) ?_ ?_ | refine Keeps.cut (p := Keeps b0 z.2.2.s) ?_ ?_); (focus (intros; dsimp only [z]; (repeat' first | (simp (maxDischargeDepth := 99) only [KIss.hold, KIss.done, KIss.fault, KIss.wait, Keeps.upd, Keeps.updId, Keeps.ite, Keeps.foldl, Keeps.foldl2, Keeps.foldl3, Keeps.refl, implies_true, keeps_Eng_fail, keeps_Eng_bytesOf, *]; done) | with_reducible apply Keeps.fold1 | with_reducible apply Keeps.fold2 | with_reducible apply Keeps.fold3 | with_reducible apply Keeps.fold21 | with_reducible apply Keeps.foldE | with_reducible apply Keeps.foldE2 | with_reducible apply Keeps.foldE3 | intro _ | split | dsimp only))); intro hz; clear_value z) | clear_value z | skip)
    | (simp (maxDischargeDepth := 99) only [KIss.hold, KIss.done, KIss.fault, KIss.wait, Keeps.upd, Keeps.updId, Keeps.ite, Keeps.foldl, Keeps.foldl2, Keeps.foldl3, Keeps.refl, implies_true, keeps_Eng_fail, keeps_Eng_bytesOf, *]; done)
    | with_reducible apply Keeps.fold1
    | with_reducible apply Keeps.fold2
    | with_reducible apply Keeps.fold3
    | with_reducible apply Keeps.fold21
    | with_reducible apply Keeps.foldE
    | with_reducible apply Keeps.foldE2
    | with_reducible apply Keeps.foldE3
    | intro _
    | (split <;> (try (rename_i heq; (first | refine Keeps.cut (Keeps.of_eq (b := b0) heq ?_) ?_ | refine Keeps.cut (Keeps.of_eq3 (b := b0) heq ?_) ?_ | refine Keeps.cut (Keeps.of_eq1 (b := b0) heq ?_) ?_ | refine Keeps.cut (Keeps.of_eq4 (b := b0) heq ?_) ?_ | refine Keeps.cut (Keeps.of_eqE (b := b0) heq ?_) ?_ | refine Keeps.cut (Keeps.of_eqE3 (b := b0) heq ?_) ?_); (focus (clear heq; (repeat' first | (simp (maxDischargeDepth := 99) only [KIss.hold, KIss.done, KIss.fault, KIss.wait, Keeps.upd, Keeps.updId, Keeps.ite, Keeps.foldl, Keeps.foldl2, Keeps.foldl3, Keeps.refl, implies_true, keeps_Eng_fail, keeps_Eng_bytesOf, *]; done) | with_reducible apply Keeps.fold1 | with_reducible apply Keeps.fold2 | with_reducible apply Keeps.fold3 | with_reducible apply Keeps.fold21 | with_reducible apply Keeps.foldE | with_reducible apply Keeps.foldE2 | with_reducible apply Keeps.foldE3 | intro _ | split | dsimp only))); intro hz; (try dsimp only at hz); clear heq)))

theorem keeps_Eng_stream {b0 : State} {e : Eng} (d : Side) (h : BsHdr) (hK : Keeps b0 e.s) : Keeps b0 (e.stream d h).2.s := by
  unfold Eng.stream
  extract_lets parts look check
  have hp : ∀ a m (e : Eng), Keeps b0 e.s → Keeps b0 (parts a m e).2.s := fun a m e he =>
    Keeps.foldE2 (fun c y a hy => keeps_Eng_part _ _ _ hy) he
  have hc : ∀ ok (e : Eng), Keeps b0 e.s → Keeps b0 (check ok e).s := by
    intro ok e he
    dsimp only [check]
    split
    · exact he
    · exact keeps_Eng_fail _ _ he
  clear_value parts check
  split
  rename_i m e1 h1
  have k1 := hc (rdNum (look m) 0 8 == h.word && headOk (look m) h) _ (Keeps.of_eqE h1 (keeps_Eng_part _ _ _ hK))
  extract_lets +onlyGivenNames e1'
  have k1' : Keeps b0 e1'.s := k1
  clear_value e1'
  split
  rename_i dir e2 h2
  have k2 := Keeps.of_eqE h2 (keeps_Eng_part _ _ _ k1')
  extract_lets +onlyGivenNames m2 e2' panel
  have k2' : Keeps b0 e2'.s := hc _ _ k2
  clear_value e2'
  split
  rename_i m3 e3 h3
  have k3 := Keeps.of_eqE h3 (hp _ _ _ k2')
  exact hp _ _ _ (hc _ _ k3)

theorem keeps_bsPack {b0 : State} {e : Eng} (s : Side) (d : Side) (h : BsHdr) (stride : Nat) (scale : Nat) (cap : Nat) (hK : Keeps b0 e.s) :
    Keeps b0 (bsPack e s d h stride scale cap).2.s := by
  unfold bsPack
  repeat' first
    | with_reducible assumption
    | (extract_lets +onlyGivenNames z; first | ((first | refine Keeps.cut (p := Keeps b0 z) ?_ ?_ | refine Keeps.cut (p := Keeps b0 z.2) ?_ ?_ | refine Keeps.cut (p := Keeps b0 z.2.2) ?_ ?_ | refine Keeps.cut (p := Keeps b0 z.1) ?_ ?_ | refine Keeps.cut (p := Keeps b0 z.s) ?_ ?_ | refine Keeps.cut (p := Keeps b0 z.2.s) ?_ ?_ | refine Keeps.cut (p := Keeps b0 z.2.2.s) ?_ ?_ | refine Keeps.cut (p := ∀ b y a, Keeps b y → Keeps b (z y a)) ?_ ?_ | refine Keeps.cut (p := ∀ b a y, Keeps b y → Keeps b (z a y)) ?_ ?_ | refine Keeps.cut (p := ∀ b y, Keeps b y → Keeps b (z y)) ?_ ?_ | refine Keeps.cut (p := ∀ b y a c, Keeps b y → Keeps b (z y a c)) ?_ ?_ | refine Keeps.cut (p := ∀ b y, Keeps b y → Keeps b (z y).2) ?_ ?_ | refine Keeps.cut (p := ∀ b y a, Keeps b y → Keeps b (z y a).2) ?_ ?_ | refine Keeps.cut (p := ∀ b y, Keeps b y → Keeps b (z y).2.2) ?_ ?_ | refine Keeps.cut (p := ∀ a, Keeps b0 (z a)) ?_ ?_ | refine Keeps.cut (p := ∀ a c, Keeps b0 (z a c)) ?_ ?_ | refine Keeps.cut (p := ∀ a, Keeps b0 (z a).2) ?_ ?_ | refine Keeps.cut (p := ∀ a c d, Keeps b0 (z a c d)) ?_ ?_ | refine Keeps.cut (p := ∀ a, Keeps b0 (z a).2.2) ?_ ?_ | refine Keeps.cut (p := ∀ y, Keeps b0 y.s → Keeps b0 (z y).s) ?_ ?_ | refine Keeps.cut (p := ∀ y a c, Keeps b0 y.s → Keeps b0 (z y a c).s) ?_ ?_ | refine Keeps.cut (p := ∀ c y, Keeps b0 y.s → Keeps b0 (z c y).2.s) ?_ ?_ | refine Keeps.cut (p := ∀ a, Keeps b0 (z a).2.s) ?_ ?_ | refine Keeps.cut (p := ∀ a c y, Keeps b0 y.s → Keeps b0 (z a c y).2.s) ?_ ?_ | refine Keeps.cut (p := ∀ y a, Keeps b0 y → Keeps b0 (z y a).2.s) ?_ ?_); (focus (intros; dsimp only [z]; (repeat' first | (simp (maxDischargeDepth := 99) only [KIss.hold, KIss.done, KIss.fault, KIss.wait, Keeps.upd, Keeps.updId, Keeps.ite, Keeps.foldl, Keeps.foldl2, Keeps.foldl3, Keeps.refl, implies_true, keeps_FlsRun_read, keeps_FlsRun_write, keeps_Eng_fail, keeps_Eng_read, keeps_Eng_write, keeps_Eng_free, *]; done) | with_reducible apply Keeps.fold1 | with_reducible apply Keeps.fold2 | with_reducible apply Keeps.fold3 | with_reducible apply Keeps.fold21 | with_reducible apply Keeps.foldE | with_reducible apply Keeps.foldE2 | with_reducible apply Keeps.foldE3 | intro _ | split | dsimp only))); intro hz; clear_value z) | clear_value z | skip)
    | (simp (maxDischargeDepth := 99) only [KIss.hold, KIss.done, KIss.fault, KIss.wait, Keeps.upd, Keeps.updId, Keeps.ite, Keeps.foldl, Keeps.foldl2, Keeps.foldl3, Keeps.refl, implies_true, keeps_FlsRun_read, keeps_FlsRun_write, keeps_Eng_fail, keeps_Eng_read, keeps_Eng_write, keeps_Eng_free, *]; done)
    | with_reducible apply Keeps.fold1
    | with_reducible apply Keeps.fold2
    | with_reducible apply Keeps.fold3
    | with_reducible apply Keeps.fold21
    | with_reducible apply Keeps.foldE
    | with_reducible apply Keeps.foldE2
    | with_reducible apply Keeps.foldE3
    | intro _
    | (split <;> (try (rename_i heq; (first | refine Keeps.cut (Keeps.of_eq (b := b0) heq ?_) ?_ | refine Keeps.cut (Keeps.of_eq3 (b := b0) heq ?_) ?_ | refine Keeps.cut (Keeps.of_eq1 (b := b0) heq ?_) ?_ | refine Keeps.cut (Keeps.of_eq4 (b := b0) heq ?_) ?_ | refine Keeps.cut (Keeps.of_eqE (b := b0) heq ?_) ?_ | refine Keeps.cut (Keeps.of_eqE3 (b := b0) heq ?_) ?_); (focus (clear heq; (repeat' first | (simp (maxDischargeDepth := 99) only [KIss.hold, KIss.done, KIss.fault, KIss.wait, Keeps.upd, Keeps.updId, Keeps.ite, Keeps.foldl, Keeps.foldl2, Keeps.foldl3, Keeps.refl, implies_true, keeps_FlsRun_read, keeps_FlsRun_write, keeps_Eng_fail, keeps_Eng_read, keeps_Eng_write, keeps_Eng_free, *]; done) | with_reducible apply Keeps.fold1 | with_reducible apply Keeps.fold2 | with_reducible apply Keeps.fold3 | with_reducible apply Keeps.fold21 | with_reducible apply Keeps.foldE | with_reducible apply Keeps.foldE2 | with_reducible apply Keeps.foldE3 | intro _ | split | dsimp only))); intro hz; (try dsimp only at hz); clear heq)))

theorem keeps_bsUnpack {b0 : State} {e : Eng} (s d : Side) (h : BsHdr) (stride scale : Nat) (hK : Keeps b0 e.s) :
    Keeps b0 (bsUnpack e s d h stride scale).2.s := by
  unfold bsUnpack
  split
  rename_i m e1 h1
  have k1 := Keeps.of_eqE h1 (keeps_Eng_stream _ _ hK)
  extract_lets +onlyGivenNames rd nibbles e2 e3
  have k2 : Keeps b0 e2.s := by
    dsimp only [e2]
    split
    · exact keeps_Eng_fail _ _ k1
    · exact k1
  clear_value e2
  have k3 : Keeps b0 e3.s := by
    dsimp only [e3]
    split
    · exact k2
    · refine Keeps.foldE (fun y a hy => ?_) k2
      split
      · exact keeps_Eng_write _ _ _ _ (keeps_Eng_write _ _ _ _ hy)
      · exact keeps_Eng_write _ _ _ _ hy
  clear_value e3
  split
  · exact Keeps.foldE (fun y a hy => keeps_Eng_free _ _ _ _ hy) k3
  · exact k3

theorem keeps_zePack {b0 : State} {e : Eng} (s : Side) (d : Side) (esize : Nat) (n : Nat) (cnt : Nat) (cap : Nat) (hK : Keeps b0 e.s) :
    Keeps b0 (zePack e s d esize n cnt cap).2.s := by
  unfold zePack
  repeat' first
    | with_reducible assumption
    | (extract_lets +onlyGivenNames z; first | ((first | refine Keeps.cut (p := Keeps b0 z) ?_ ?_ | refine Keeps.cut (p := Keeps b0 z.2) ?_ ?_ | refine Keeps.cut (p := Keeps b0 z.2.2) ?_ ?_ | refine Keeps.cut (p := Keeps b0 z.1) ?_ ?_ | refine Keeps.cut (p := Keeps b0 z.s) ?_ ?_ | refine Keeps.cut (p := Keeps b0 z.2.s) ?_ ?_ | refine Keeps.cut (p := Keeps b0 z.2.2.s) ?_ ?_ | refine Keeps.cut (p := ∀ b y a, Keeps b y → Keeps b (z y a)) ?_ ?_ | refine Keeps.cut (p := ∀ b a y, Keeps b y → Keeps b (z a y)) ?_ ?_ | refine Keeps.cut (p := ∀ b y, Keeps b y → Keeps b (z y)) ?_ ?_ | refine Keeps.cut (p := ∀ b y a c, Keeps b y → Keeps b (z y a c)) ?_ ?_ | refine Keeps.cut (p := ∀ b y, Keeps b y → Keeps b (z y).2) ?_ ?_ | refine Keeps.cut (p := ∀ b y a, Keeps b y → Keeps b (z y a).2) ?_ ?_ | refine Keeps.cut (p := ∀ b y, Keeps b y → Keeps b (z y).2.2) ?_ ?_ | refine Keeps.cut (p := ∀ a, Keeps b0 (z a)) ?_ ?_ | refine Keeps.cut (p := ∀ a c, Keeps b0 (z a c)) ?_ ?_ | refine Keeps.cut (p := ∀ a, Keeps b0 (z a).2) ?_ ?_ | refine Keeps.cut (p := ∀ a c d, Keeps b0 (z a c d)) ?_ ?_ | refine Keeps.cut (p := ∀ a, Keeps b0 (z a).2.2) ?_ ?_ | refine Keeps.cut (p := ∀ y, Keeps b0 y.s → Keeps b0 (z y).s) ?_ ?_ | refine Keeps.cut (p := ∀ y a c, Keeps b0 y.s → Keeps b0 (z y a c).s) ?_ ?_ | refine Keeps.cut (p := ∀ c y, Keeps b0 y.s → Keeps b0 (z c y).2.s) ?_ ?_ | refine Keeps.cut (p := ∀ a, Keeps b0 (z a).2.s) ?_ ?_ | refine Keeps.cut (p := ∀ a c y, Keeps b0 y.s → Keeps b0 (z a c y).2.s) ?_ ?_ | refine Keeps.cut (p := ∀ y a, Keeps b0 y → Keeps b0 (z y a).2.s) ?_ ?_); (focus (intros; dsimp only [z]; (repeat' first | (simp (maxDischargeDepth := 99) only [KIss.hold, KIss.done, KIss.fault, KIss.wait, Keeps.upd, Keeps.updId, Keeps.ite, Keeps.foldl, Keeps.foldl2, Keeps.foldl3, Keeps.refl, implies_true, keeps_FlsRun_read, keeps_FlsRun_write, keeps_Eng_fail, keeps_Eng_read, keeps_Eng_write, keeps_Eng_free, *]; done) | with_reducible apply Keeps.fold1 | with_reducible apply Keeps.fold2 | with_reducible apply Keeps.fold3 | with_reducible apply Keeps.fold21 | with_reducible apply Keeps.foldE | with_reducible apply Keeps.foldE2 | with_reducible apply Keeps.foldE3 | intro _ | split | dsimp only))); intro hz; clear_value z) | clear_value z | skip)
    | (simp (maxDischargeDepth := 99) only [KIss.hold, KIss.done, KIss.fault, KIss.wait, Keeps.upd, Keeps.updId, Keeps.ite, Keeps.foldl, Keeps.foldl2, Keeps.foldl3, Keeps.refl, implies_true, keeps_FlsRun_read, keeps_FlsRun_write, keeps_Eng_fail, keeps_Eng_read, keeps_Eng_write, keeps_Eng_free, *]; done)
    | with_reducible apply Keeps.fold1
    | with_reducible apply Keeps.fold2
    | with_reducible apply Keeps.fold3
    | with_reducible apply Keeps.fold21
    | with_reducible apply Keeps.foldE
    | with_reducible apply Keeps.foldE2
    | with_reducible apply Keeps.foldE3
    | intro _
    | (split <;> (try (rename_i heq; (first | refine Keeps.cut (Keeps.of_eq (b := b0) heq ?_) ?_ | refine Keeps.cut (Keeps.of_eq3 (b := b0) heq ?_) ?_ | refine Keeps.cut (Keeps.of_eq1 (b := b0) heq ?_) ?_ | refine Keeps.cut (Keeps.of_eq4 (b := b0) heq ?_) ?_ | refine Keeps.cut (Keeps.of_eqE (b := b0) heq ?_) ?_ | refine Keeps.cut (Keeps.of_eqE3 (b := b0) heq ?_) ?_); (focus (clear heq; (repeat' first | (simp (maxDischargeDepth := 99) only [KIss.hold, KIss.done, KIss.fault, KIss.wait, Keeps.upd, Keeps.updId, Keeps.ite, Keeps.foldl, Keeps.foldl2, Keeps.foldl3, Keeps.refl, implies_true, keeps_FlsRun_read, keeps_FlsRun_write, keeps_Eng_fail, keeps_Eng_read, keeps_Eng_write, keeps_Eng_free, *]; done) | with_reducible apply Keeps.fold1 | with_reducible apply Keeps.fold2 | with_reducible apply Keeps.fold3 | with_reducible apply Keeps.fold21 | with_reducible apply Keeps.foldE | with_reducible apply Keeps.foldE2 | with_reducible apply Keeps.foldE3 | intro _ | split | dsimp only))); intro hz; (try dsimp only at hz); clear heq)))

theorem keeps_zeRun {b0 : State} (n : Nat) (d : Side) (x0 : Nat) (x1 : Nat) (x2 : Nat) {x3 : Eng} (hK : Keeps b0 x3.s) :
    Keeps b0 (zeRun n d x0 x1 x2 x3).2.s := by
  induction x0 generalizing b0 x1 x2 x3 with
  | zero => unfold zeRun; (repeat' split) <;> (simp (maxDischargeDepth := 99) only [KIss.hold, KIss.done, KIss.fault, KIss.wait, Keeps.upd, Keeps.updId, Keeps.ite, Keeps.foldl, Keeps.foldl2, Keeps.foldl3, Keeps.refl, implies_true, keeps_Eng_part, *]; done)
  | succ n ih =>
    unfold zeRun
    repeat' first
      | with_reducible assumption
      | (simp (maxDischargeDepth := 99) only [KIss.hold, KIss.done, KIss.fault, KIss.wait, Keeps.upd, Keeps.updId, Keeps.ite, Keeps.foldl, Keeps.foldl2, Keeps.foldl3, Keeps.refl, implies_true, keeps_Eng_part, *]; done)
      | (split <;> (try (rename_i heq; (first | refine Keeps.cut (Keeps.of_eq (b := b0) heq ?_) ?_ | refine Keeps.cut (Keeps.of_eq3 (b := b0) heq ?_) ?_ | refine Keeps.cut (Keeps.of_eq1 (b := b0) heq ?_) ?_ | refine Keeps.cut (Keeps.of_eq4 (b := b0) heq ?_) ?_ | refine Keeps.cut (Keeps.of_eqE (b := b0) heq ?_) ?_ | refine Keeps.cut (Keeps.of_eqE3 (b := b0) heq ?_) ?_); (focus (clear heq; (repeat' first | (simp (maxDischargeDepth := 99) only [KIss.hold, KIss.done, KIss.fault, KIss.wait, Keeps.upd, Keeps.updId, Keeps.ite, Keeps.foldl, Keeps.foldl2, Keeps.foldl3, Keeps.refl, implies_true, keeps_Eng_part, *]; done) | with_reducible apply Keeps.fold1 | with_reducible apply Keeps.fold2 | with_reducible apply Keeps.fold3 | with_reducible apply Keeps.fold21 | with_reducible apply Keeps.foldE | with_reducible apply Keeps.foldE2 | with_reducible apply Keeps.foldE3 | intro _ | split | dsimp only))); intro hz; (try dsimp only at hz); clear heq)))

theorem keeps_zeUnpack {b0 : State} {e : Eng} (s : Side) (d : Side) (esize : Nat) (n : Nat) (cnt : Nat) (hK : Keeps b0 e.s) :
    Keeps b0 (zeUnpack e s d esize n cnt).2.s := by
  unfold zeUnpack
  repeat' first
    | with_reducible assumption
    | (extract_lets +onlyGivenNames z; first | ((first | refine Keeps.cut (p := Keeps b0 z) ?_ ?_ | refine Keeps.cut (p := Keeps b0 z.2) ?_ ?_ | refine Keeps.cut (p := Keeps b0 z.2.2) ?_ ?_ | refine Keeps.cut (p := Keeps b0 z.1) ?_ ?_ | refine Keeps.cut (p := Keeps b0 z.s) ?_ ?_ | refine Keeps.cut (p := Keeps b0 z.2.s) ?_ ?_ | refine Keeps.cut (p := Keeps b0 z.2.2.s) ?_ ?_); (focus (intros; dsimp only [z]; (repeat' first | (simp (maxDischargeDepth := 99) only [KIss.hold, KIss.done, KIss.fault, KIss.wait, Keeps.upd, Keeps.updId, Keeps.ite, Keeps.foldl, Keeps.foldl2, Keeps.foldl3, Keeps.refl, implies_true, keeps_FlsRun_write, keeps_Eng_fail, keeps_Eng_write, keeps_Eng_free, keeps_Eng_part, keeps_zeRun, *]; done) | with_reducible apply Keeps.fold1 | with_reducible apply Keeps.fold2 | with_reducible apply Keeps.fold3 | with_reducible apply Keeps.fold21 | with_reducible apply Keeps.foldE | with_reducible apply Keeps.foldE2 | with_reducible apply Keeps.foldE3 | intro _ | split | dsimp only))); intro hz; clear_value z) | clear_value z | skip)
    | (simp (maxDischargeDepth := 99) only [KIss.hold, KIss.done, KIss.fault, KIss.wait, Keeps.upd, Keeps.updId, Keeps.ite, Keeps.foldl, Keeps.foldl2, Keeps.foldl3, Keeps.refl, implies_true, keeps_FlsRun_write, keeps_Eng_fail, keeps_Eng_write, keeps_Eng_free, keeps_Eng_part, keeps_zeRun, *]; done)
    | with_reducible apply Keeps.fold1
    | with_reducible apply Keeps.fold2
    | with_reducible apply Keeps.fold3
    | with_reducible apply Keeps.fold21
    | with_reducible apply Keeps.foldE
    | with_reducible apply Keeps.foldE2
    | with_reducible apply Keeps.foldE3
    | intro _
    | (split <;> (try (rename_i heq; (first | refine Keeps.cut (Keeps.of_eq (b := b0) heq ?_) ?_ | refine Keeps.cut (Keeps.of_eq3 (b := b0) heq ?_) ?_ | refine Keeps.cut (Keeps.of_eq1 (b := b0) heq ?_) ?_ | refine Keeps.cut (Keeps.of_eq4 (b := b0) heq ?_) ?_ | refine Keeps.cut (Keeps.of_eqE (b := b0) heq ?_) ?_ | refine Keeps.cut (Keeps.of_eqE3 (b := b0) heq ?_) ?_); (focus (clear heq; (repeat' first | (simp (maxDischargeDepth := 99) only [KIss.hold, KIss.done, KIss.fault, KIss.wait, Keeps.upd, Keeps.updId, Keeps.ite, Keeps.foldl, Keeps.foldl2, Keeps.foldl3, Keeps.refl, implies_true, keeps_FlsRun_write, keeps_Eng_fail, keeps_Eng_write, keeps_Eng_free, keeps_Eng_part, keeps_zeRun, *]; done) | with_reducible apply Keeps.fold1 | with_reducible apply Keeps.fold2 | with_reducible apply Keeps.fold3 | with_reducible apply Keeps.fold21 | with_reducible apply Keeps.foldE | with_reducible apply Keeps.foldE2 | with_reducible apply Keeps.foldE3 | intro _ | split | dsimp only))); intro hz; (try dsimp only at hz); clear heq)))

theorem keeps_cmpRun {b0 : State} {e : Eng} (f : Eng → Nat × Eng) (hf : ∀ y, Keeps y.s (f y).2.s)
    (hK : Keeps b0 e.s) : Keeps b0 (cmpRun e f).2.s := by
  unfold cmpRun
  extract_lets r
  split
  · exact Keeps.trans (b := e.s) hK (hf { e with spoil := true })
  · exact hK.trans (hf e)

theorem keeps_cmpStart {b0 : State} {e : Eng} (w : List W64) (hK : Keeps b0 e.s) :
    Keeps b0 (cmpStart e w).2.s := by
  unfold cmpStart
  repeat' first
    | with_reducible assumption
    | (extract_lets +onlyGivenNames z; first | ((first | refine Keeps.cut (p := Keeps b0 z) ?_ ?_ | refine Keeps.cut (p := Keeps b0 z.2) ?_ ?_ | refine Keeps.cut (p := Keeps b0 z.2.2) ?_ ?_ | refine Keeps.cut (p := Keeps b0 z.1) ?_ ?_ | refine Keeps.cut (p := Keeps b0 z.s) ?_ ?_ | refine Keeps.cut (p := Keeps b0 z.2.s) ?_ ?_ | refine Keeps.cut (p := Keeps b0 z.2.2.s) ?_ ?_); (focus (intros; dsimp only [z]; (repeat' first | (simp (maxDischargeDepth := 99) only [KIss.hold, KIss.done, KIss.fault, KIss.wait, Keeps.upd, Keeps.updId, Keeps.ite, Keeps.foldl, Keeps.foldl2, Keeps.foldl3, Keeps.refl, implies_true, keeps_translate, keeps_Eng_fail, keeps_Eng_free, keeps_bsPack, keeps_bsUnpack, keeps_zePack, keeps_zeUnpack, keeps_cmpRun, *]; done) | with_reducible apply Keeps.fold1 | with_reducible apply Keeps.fold2 | with_reducible apply Keeps.fold3 | with_reducible apply Keeps.fold21 | with_reducible apply Keeps.foldE | with_reducible apply Keeps.foldE2 | with_reducible apply Keeps.foldE3 | intro _ | split | dsimp only))); intro hz; clear_value z) | clear_value z | skip)
    | (simp (maxDischargeDepth := 99) only [KIss.hold, KIss.done, KIss.fault, KIss.wait, Keeps.upd, Keeps.updId, Keeps.ite, Keeps.foldl, Keeps.foldl2, Keeps.foldl3, Keeps.refl, implies_true, keeps_translate, keeps_Eng_fail, keeps_Eng_free, keeps_bsPack, keeps_bsUnpack, keeps_zePack, keeps_zeUnpack, keeps_cmpRun, *]; done)
    | with_reducible apply Keeps.fold1
    | with_reducible apply Keeps.fold2
    | with_reducible apply Keeps.fold3
    | with_reducible apply Keeps.fold21
    | with_reducible apply Keeps.foldE
    | with_reducible apply Keeps.foldE2
    | with_reducible apply Keeps.foldE3
    | intro _
    | (split <;> (try (rename_i heq; (first | refine Keeps.cut (Keeps.of_eq (b := b0) heq ?_) ?_ | refine Keeps.cut (Keeps.of_eq3 (b := b0) heq ?_) ?_ | refine Keeps.cut (Keeps.of_eq1 (b := b0) heq ?_) ?_ | refine Keeps.cut (Keeps.of_eq4 (b := b0) heq ?_) ?_ | refine Keeps.cut (Keeps.of_eqE (b := b0) heq ?_) ?_ | refine Keeps.cut (Keeps.of_eqE3 (b := b0) heq ?_) ?_); (focus (clear heq; (repeat' first | (simp (maxDischargeDepth := 99) only [KIss.hold, KIss.done, KIss.fault, KIss.wait, Keeps.upd, Keeps.updId, Keeps.ite, Keeps.foldl, Keeps.foldl2, Keeps.foldl3, Keeps.refl, implies_true, keeps_translate, keeps_Eng_fail, keeps_Eng_free, keeps_bsPack, keeps_bsUnpack, keeps_zePack, keeps_zeUnpack, keeps_cmpRun, *]; done) | with_reducible apply Keeps.fold1 | with_reducible apply Keeps.fold2 | with_reducible apply Keeps.fold3 | with_reducible apply Keeps.fold21 | with_reducible apply Keeps.foldE | with_reducible apply Keeps.foldE2 | with_reducible apply Keeps.foldE3 | intro _ | split | dsimp only))); intro hz; (try dsimp only at hz); clear heq)))

theorem keeps_Eng_nums {b0 : State} {e : Eng} (a : Nat) (size : Nat) (n : Nat) (hK : Keeps b0 e.s) :
    Keeps b0 (Eng.nums e a size n).2.s := by
  unfold Eng.nums; simp (maxDischargeDepth := 99) only [KIss.hold, KIss.done, KIss.fault, KIss.wait, Keeps.upd, Keeps.updId,
        Keeps.ite, Keeps.foldl, Keeps.foldl2, Keeps.foldl3, Keeps.refl, implies_true, keeps_FlsRun_read, keeps_Eng_read, *]

theorem keeps_gateRun {b0 : State} {e : Eng} (w : List W64) (hK : Keeps b0 e.s) :
    Keeps b0 (gateRun e w).2.s := by
  unfold gateRun
  repeat' first
    | with_reducible assumption
    | (extract_lets +onlyGivenNames z; first | ((first | refine Keeps.cut (p := Keeps b0 z) ?_ ?_ | refine Keeps.cut (p := Keeps b0 z.2) ?_ ?_ | refine Keeps.cut (p := Keeps b0 z.2.2) ?_ ?_ | refine Keeps.cut (p := Keeps b0 z.1) ?_ ?_ | refine Keeps.cut (p := Keeps b0 z.s) ?_ ?_ | refine Keeps.cut (p := Keeps b0 z.2.s) ?_ ?_ | refine Keeps.cut (p := Keeps b0 z.2.2.s) ?_ ?_ | refine Keeps.cut (p := ∀ b y a, Keeps b y → Keeps b (z y a)) ?_ ?_ | refine Keeps.cut (p := ∀ b a y, Keeps b y → Keeps b (z a y)) ?_ ?_ | refine Keeps.cut (p := ∀ b y, Keeps b y → Keeps b (z y)) ?_ ?_ | refine Keeps.cut (p := ∀ b y a c, Keeps b y → Keeps b (z y a c)) ?_ ?_ | refine Keeps.cut (p := ∀ b y, Keeps b y → Keeps b (z y).2) ?_ ?_ | refine Keeps.cut (p := ∀ b y a, Keeps b y → Keeps b (z y a).2) ?_ ?_ | refine Keeps.cut (p := ∀ b y, Keeps b y → Keeps b (z y).2.2) ?_ ?_ | refine Keeps.cut (p := ∀ a, Keeps b0 (z a)) ?_ ?_ | refine Keeps.cut (p := ∀ a c, Keeps b0 (z a c)) ?_ ?_ | refine Keeps.cut (p := ∀ a, Keeps b0 (z a).2) ?_ ?_ | refine Keeps.cut (p := ∀ a c d, Keeps b0 (z a c d)) ?_ ?_ | refine Keeps.cut (p := ∀ a, Keeps b0 (z a).2.2) ?_ ?_ | refine Keeps.cut (p := ∀ y, Keeps b0 y.s → Keeps b0 (z y).s) ?_ ?_ | refine Keeps.cut (p := ∀ y a c, Keeps b0 y.s → Keeps b0 (z y a c).s) ?_ ?_ | refine Keeps.cut (p := ∀ c y, Keeps b0 y.s → Keeps b0 (z c y).2.s) ?_ ?_ | refine Keeps.cut (p := ∀ a, Keeps b0 (z a).2.s) ?_ ?_ | refine Keeps.cut (p := ∀ a c y, Keeps b0 y.s → Keeps b0 (z a c y).2.s) ?_ ?_ | refine Keeps.cut (p := ∀ y a, Keeps b0 y → Keeps b0 (z y a).2.s) ?_ ?_); (focus (intros; dsimp only [z]; (repeat' first | (simp (maxDischargeDepth := 99) only [KIss.hold, KIss.done, KIss.fault, KIss.wait, Keeps.upd, Keeps.updId, Keeps.ite, Keeps.foldl, Keeps.foldl2, Keeps.foldl3, Keeps.refl, implies_true, keeps_count, keeps_FlsRun_write, keeps_Eng_write, keeps_Eng_free, keeps_Eng_nums, *]; done) | with_reducible apply Keeps.fold1 | with_reducible apply Keeps.fold2 | with_reducible apply Keeps.fold3 | with_reducible apply Keeps.fold21 | with_reducible apply Keeps.foldE | with_reducible apply Keeps.foldE2 | with_reducible apply Keeps.foldE3 | intro _ | split | dsimp only))); intro hz; clear_value z) | clear_value z | skip)
    | (simp (maxDischargeDepth := 99) only [KIss.hold, KIss.done, KIss.fault, KIss.wait, Keeps.upd, Keeps.updId, Keeps.ite, Keeps.foldl, Keeps.foldl2, Keeps.foldl3, Keeps.refl, implies_true, keeps_count, keeps_FlsRun_write, keeps_Eng_write, keeps_Eng_free, keeps_Eng_nums, *]; done)
    | with_reducible apply Keeps.fold1
    | with_reducible apply Keeps.fold2
    | with_reducible apply Keeps.fold3
    | with_reducible apply Keeps.fold21
    | with_reducible apply Keeps.foldE
    | with_reducible apply Keeps.foldE2
    | with_reducible apply Keeps.foldE3
    | intro _
    | (split <;> (try (rename_i heq; (first | refine Keeps.cut (Keeps.of_eq (b := b0) heq ?_) ?_ | refine Keeps.cut (Keeps.of_eq3 (b := b0) heq ?_) ?_ | refine Keeps.cut (Keeps.of_eq1 (b := b0) heq ?_) ?_ | refine Keeps.cut (Keeps.of_eq4 (b := b0) heq ?_) ?_ | refine Keeps.cut (Keeps.of_eqE (b := b0) heq ?_) ?_ | refine Keeps.cut (Keeps.of_eqE3 (b := b0) heq ?_) ?_); (focus (clear heq; (repeat' first | (simp (maxDischargeDepth := 99) only [KIss.hold, KIss.done, KIss.fault, KIss.wait, Keeps.upd, Keeps.updId, Keeps.ite, Keeps.foldl, Keeps.foldl2, Keeps.foldl3, Keeps.refl, implies_true, keeps_count, keeps_FlsRun_write, keeps_Eng_write, keeps_Eng_free, keeps_Eng_nums, *]; done) | with_reducible apply Keeps.fold1 | with_reducible apply Keeps.fold2 | with_reducible apply Keeps.fold3 | with_reducible apply Keeps.fold21 | with_reducible apply Keeps.foldE | with_reducible apply Keeps.foldE2 | with_reducible apply Keeps.foldE3 | intro _ | split | dsimp only))); intro hz; (try dsimp only at hz); clear heq)))

theorem keeps_gateStart {b0 : State} {e : Eng} (w : List W64) (hK : Keeps b0 e.s) :
    Keeps b0 (gateStart e w).2.s := by
  unfold gateStart
  repeat' first
    | with_reducible assumption
    | (extract_lets +onlyGivenNames z; first | ((first | refine Keeps.cut (p := Keeps b0 z) ?_ ?_ | refine Keeps.cut (p := Keeps b0 z.2) ?_ ?_ | refine Keeps.cut (p := Keeps b0 z.2.2) ?_ ?_ | refine Keeps.cut (p := Keeps b0 z.1) ?_ ?_ | refine Keeps.cut (p := Keeps b0 z.s) ?_ ?_ | refine Keeps.cut (p := Keeps b0 z.2.s) ?_ ?_ | refine Keeps.cut (p := Keeps b0 z.2.2.s) ?_ ?_); (focus (intros; dsimp only [z]; (repeat' first | (simp (maxDischargeDepth := 99) only [KIss.hold, KIss.done, KIss.fault, KIss.wait, Keeps.upd, Keeps.updId, Keeps.ite, Keeps.foldl, Keeps.foldl2, Keeps.foldl3, Keeps.refl, implies_true, keeps_cmpRun, keeps_gateRun, *]; done) | with_reducible apply Keeps.fold1 | with_reducible apply Keeps.fold2 | with_reducible apply Keeps.fold3 | with_reducible apply Keeps.fold21 | with_reducible apply Keeps.foldE | with_reducible apply Keeps.foldE2 | with_reducible apply Keeps.foldE3 | intro _ | split | dsimp only))); intro hz; clear_value z) | clear_value z | skip)
    | (simp (maxDischargeDepth := 99) only [KIss.hold, KIss.done, KIss.fault, KIss.wait, Keeps.upd, Keeps.updId, Keeps.ite, Keeps.foldl, Keeps.foldl2, Keeps.foldl3, Keeps.refl, implies_true, keeps_cmpRun, keeps_gateRun, *]; done)
    | with_reducible apply Keeps.fold1
    | with_reducible apply Keeps.fold2
    | with_reducible apply Keeps.fold3
    | with_reducible apply Keeps.fold21
    | with_reducible apply Keeps.foldE
    | with_reducible apply Keeps.foldE2
    | with_reducible apply Keeps.foldE3
    | intro _
    | (split <;> (try (rename_i heq; (first | refine Keeps.cut (Keeps.of_eq (b := b0) heq ?_) ?_ | refine Keeps.cut (Keeps.of_eq3 (b := b0) heq ?_) ?_ | refine Keeps.cut (Keeps.of_eq1 (b := b0) heq ?_) ?_ | refine Keeps.cut (Keeps.of_eq4 (b := b0) heq ?_) ?_ | refine Keeps.cut (Keeps.of_eqE (b := b0) heq ?_) ?_ | refine Keeps.cut (Keeps.of_eqE3 (b := b0) heq ?_) ?_); (focus (clear heq; (repeat' first | (simp (maxDischargeDepth := 99) only [KIss.hold, KIss.done, KIss.fault, KIss.wait, Keeps.upd, Keeps.updId, Keeps.ite, Keeps.foldl, Keeps.foldl2, Keeps.foldl3, Keeps.refl, implies_true, keeps_cmpRun, keeps_gateRun, *]; done) | with_reducible apply Keeps.fold1 | with_reducible apply Keeps.fold2 | with_reducible apply Keeps.fold3 | with_reducible apply Keeps.fold21 | with_reducible apply Keeps.foldE | with_reducible apply Keeps.foldE2 | with_reducible apply Keeps.foldE3 | intro _ | split | dsimp only))); intro hz; (try dsimp only at hz); clear heq)))

theorem keeps_Eng_tables {b0 : State} {e : Eng} (dtab : Nat) (ndest : Nat) (emap : Nat) (E : Nat) (hK : Keeps b0 e.s) :
    Keeps b0 (Eng.tables e dtab ndest emap E).2.2.s := by
  unfold Eng.tables; simp (maxDischargeDepth := 99) only [KIss.hold, KIss.done, KIss.fault, KIss.wait, Keeps.upd,
        Keeps.updId, Keeps.ite, Keeps.foldl, Keeps.foldl2, Keeps.foldl3, Keeps.refl, implies_true, keeps_FlsRun_read,
        keeps_Eng_read, keeps_Eng_nums, *]

theorem keeps_sendLocal {b0 : State} {e : Eng} (d : Dest) (rowb : Nat) (x0 : List Row) (x1 : Nat) (hK : Keeps b0 e.s) :
    Keeps b0 (sendLocal e d rowb x0 x1).2.2.s := by
  induction x0 generalizing b0 x1 e with
  | nil => unfold sendLocal; (repeat' split) <;> (simp (maxDischargeDepth := 99) only [KIss.hold, KIss.done, KIss.fault, KIss.wait, Keeps.upd, Keeps.updId, Keeps.ite, Keeps.foldl, Keeps.foldl2, Keeps.foldl3, Keeps.refl, implies_true, keeps_grtPut, keeps_FlsRun_read, keeps_Eng_read, keeps_freeBytes, *]; done)
  | cons y l ih =>
    unfold sendLocal
    repeat' first
      | with_reducible assumption
      | (extract_lets +onlyGivenNames z; first | ((first | refine Keeps.cut (p := Keeps b0 z) ?_ ?_ | refine Keeps.cut (p := Keeps b0 z.2) ?_ ?_ | refine Keeps.cut (p := Keeps b0 z.2.2) ?_ ?_ | refine Keeps.cut (p := Keeps b0 z.1) ?_ ?_ | refine Keeps.cut (p := Keeps b0 z.s) ?_ ?_ | refine Keeps.cut (p := Keeps b0 z.2.s) ?_ ?_ | refine Keeps.cut (p := Keeps b0 z.2.2.s) ?_ ?_); (focus (intros; dsimp only [z]; (repeat' first | (simp (maxDischargeDepth := 99) only [KIss.hold, KIss.done, KIss.fault, KIss.wait, Keeps.upd, Keeps.updId, Keeps.ite, Keeps.foldl, Keeps.foldl2, Keeps.foldl3, Keeps.refl, implies_true, keeps_grtPut, keeps_FlsRun_read, keeps_Eng_read, keeps_freeBytes, *]; done) | with_reducible apply Keeps.fold1 | with_reducible apply Keeps.fold2 | with_reducible apply Keeps.fold3 | with_reducible apply Keeps.fold21 | with_reducible apply Keeps.foldE | with_reducible apply Keeps.foldE2 | with_reducible apply Keeps.foldE3 | intro _ | split | dsimp only))); intro hz; clear_value z) | clear_value z | skip)
      | (simp (maxDischargeDepth := 99) only [KIss.hold, KIss.done, KIss.fault, KIss.wait, Keeps.upd, Keeps.updId, Keeps.ite, Keeps.foldl, Keeps.foldl2, Keeps.foldl3, Keeps.refl, implies_true, keeps_grtPut, keeps_FlsRun_read, keeps_Eng_read, keeps_freeBytes, *]; done)
      | with_reducible apply Keeps.fold1
      | with_reducible apply Keeps.fold2
      | with_reducible apply Keeps.fold3
      | with_reducible apply Keeps.fold21
      | with_reducible apply Keeps.foldE
      | with_reducible apply Keeps.foldE2
      | with_reducible apply Keeps.foldE3
      | intro _
      | (split <;> (try (rename_i heq; (first | refine Keeps.cut (Keeps.of_eq (b := b0) heq ?_) ?_ | refine Keeps.cut (Keeps.of_eq3 (b := b0) heq ?_) ?_ | refine Keeps.cut (Keeps.of_eq1 (b := b0) heq ?_) ?_ | refine Keeps.cut (Keeps.of_eq4 (b := b0) heq ?_) ?_ | refine Keeps.cut (Keeps.of_eqE (b := b0) heq ?_) ?_ | refine Keeps.cut (Keeps.of_eqE3 (b := b0) heq ?_) ?_); (focus (clear heq; (repeat' first | (simp (maxDischargeDepth := 99) only [KIss.hold, KIss.done, KIss.fault, KIss.wait, Keeps.upd, Keeps.updId, Keeps.ite, Keeps.foldl, Keeps.foldl2, Keeps.foldl3, Keeps.refl, implies_true, keeps_grtPut, keeps_FlsRun_read, keeps_Eng_read, keeps_freeBytes, *]; done) | with_reducible apply Keeps.fold1 | with_reducible apply Keeps.fold2 | with_reducible apply Keeps.fold3 | with_reducible apply Keeps.fold21 | with_reducible apply Keeps.foldE | with_reducible apply Keeps.foldE2 | with_reducible apply Keeps.foldE3 | intro _ | split | dsimp only))); intro hz; (try dsimp only at hz); clear heq)))

theorem keeps_sendRun {b0 : State} {e : Eng} (key : Nat) (dslot : Nat) (rowb : Nat) (sv : List Service) (hK : Keeps b0 e.s) :
    Keeps b0 (sendRun e key dslot rowb sv).s := by
  unfold sendRun
  repeat' first
    | with_reducible assumption
    | (extract_lets +onlyGivenNames z; first | ((first | refine Keeps.cut (p := Keeps b0 z) ?_ ?_ | refine Keeps.cut (p := Keeps b0 z.2) ?_ ?_ | refine Keeps.cut (p := Keeps b0 z.2.2) ?_ ?_ | refine Keeps.cut (p := Keeps b0 z.1) ?_ ?_ | refine Keeps.cut (p := Keeps b0 z.s) ?_ ?_ | refine Keeps.cut (p := Keeps b0 z.2.s) ?_ ?_ | refine Keeps.cut (p := Keeps b0 z.2.2.s) ?_ ?_ | refine Keeps.cut (p := ∀ b y a, Keeps b y → Keeps b (z y a)) ?_ ?_ | refine Keeps.cut (p := ∀ b a y, Keeps b y → Keeps b (z a y)) ?_ ?_ | refine Keeps.cut (p := ∀ b y, Keeps b y → Keeps b (z y)) ?_ ?_ | refine Keeps.cut (p := ∀ b y a c, Keeps b y → Keeps b (z y a c)) ?_ ?_ | refine Keeps.cut (p := ∀ b y, Keeps b y → Keeps b (z y).2) ?_ ?_ | refine Keeps.cut (p := ∀ b y a, Keeps b y → Keeps b (z y a).2) ?_ ?_ | refine Keeps.cut (p := ∀ b y, Keeps b y → Keeps b (z y).2.2) ?_ ?_ | refine Keeps.cut (p := ∀ a, Keeps b0 (z a)) ?_ ?_ | refine Keeps.cut (p := ∀ a c, Keeps b0 (z a c)) ?_ ?_ | refine Keeps.cut (p := ∀ a, Keeps b0 (z a).2) ?_ ?_ | refine Keeps.cut (p := ∀ a c d, Keeps b0 (z a c d)) ?_ ?_ | refine Keeps.cut (p := ∀ a, Keeps b0 (z a).2.2) ?_ ?_ | refine Keeps.cut (p := ∀ y, Keeps b0 y.s → Keeps b0 (z y).s) ?_ ?_ | refine Keeps.cut (p := ∀ y a c, Keeps b0 y.s → Keeps b0 (z y a c).s) ?_ ?_ | refine Keeps.cut (p := ∀ c y, Keeps b0 y.s → Keeps b0 (z c y).2.s) ?_ ?_ | refine Keeps.cut (p := ∀ a, Keeps b0 (z a).2.s) ?_ ?_ | refine Keeps.cut (p := ∀ a c y, Keeps b0 y.s → Keeps b0 (z a c y).2.s) ?_ ?_ | refine Keeps.cut (p := ∀ y a, Keeps b0 y → Keeps b0 (z y a).2.s) ?_ ?_); (focus (intros; dsimp only [z]; (repeat' first | (simp (maxDischargeDepth := 99) only [KIss.hold, KIss.done, KIss.fault, KIss.wait, Keeps.upd, Keeps.updId, Keeps.ite, Keeps.foldl, Keeps.foldl2, Keeps.foldl3, Keeps.refl, implies_true, keeps_count, keeps_setQueue, keeps_sendAll, keeps_Eng_part, keeps_sendLocal, *]; done) | with_reducible apply Keeps.fold1 | with_reducible apply Keeps.fold2 | with_reducible apply Keeps.fold3 | with_reducible apply Keeps.fold21 | with_reducible apply Keeps.foldE | with_reducible apply Keeps.foldE2 | with_reducible apply Keeps.foldE3 | intro _ | split | dsimp only))); intro hz; clear_value z) | clear_value z | skip)
    | (simp (maxDischargeDepth := 99) only [KIss.hold, KIss.done, KIss.fault, KIss.wait, Keeps.upd, Keeps.updId, Keeps.ite, Keeps.foldl, Keeps.foldl2, Keeps.foldl3, Keeps.refl, implies_true, keeps_count, keeps_setQueue, keeps_sendAll, keeps_Eng_part, keeps_sendLocal, *]; done)
    | with_reducible apply Keeps.fold1
    | with_reducible apply Keeps.fold2
    | with_reducible apply Keeps.fold3
    | with_reducible apply Keeps.fold21
    | with_reducible apply Keeps.foldE
    | with_reducible apply Keeps.foldE2
    | with_reducible apply Keeps.foldE3
    | intro _
    | (split <;> (try (rename_i heq; (first | refine Keeps.cut (Keeps.of_eq (b := b0) heq ?_) ?_ | refine Keeps.cut (Keeps.of_eq3 (b := b0) heq ?_) ?_ | refine Keeps.cut (Keeps.of_eq1 (b := b0) heq ?_) ?_ | refine Keeps.cut (Keeps.of_eq4 (b := b0) heq ?_) ?_ | refine Keeps.cut (Keeps.of_eqE (b := b0) heq ?_) ?_ | refine Keeps.cut (Keeps.of_eqE3 (b := b0) heq ?_) ?_); (focus (clear heq; (repeat' first | (simp (maxDischargeDepth := 99) only [KIss.hold, KIss.done, KIss.fault, KIss.wait, Keeps.upd, Keeps.updId, Keeps.ite, Keeps.foldl, Keeps.foldl2, Keeps.foldl3, Keeps.refl, implies_true, keeps_count, keeps_setQueue, keeps_sendAll, keeps_Eng_part, keeps_sendLocal, *]; done) | with_reducible apply Keeps.fold1 | with_reducible apply Keeps.fold2 | with_reducible apply Keeps.fold3 | with_reducible apply Keeps.fold21 | with_reducible apply Keeps.foldE | with_reducible apply Keeps.foldE2 | with_reducible apply Keeps.foldE3 | intro _ | split | dsimp only))); intro hz; (try dsimp only at hz); clear heq)))

theorem keeps_stopEng {b0 : State} (c : Nat) {e : Eng} (hK : Keeps b0 e.s) :
    Keeps b0 (stopEng c e).2.s := by
  unfold stopEng; simp (maxDischargeDepth := 99) only [KIss.hold, KIss.done, KIss.fault, KIss.wait, Keeps.upd, Keeps.updId,
        Keeps.ite, Keeps.foldl, Keeps.foldl2, Keeps.foldl3, Keeps.refl, implies_true, *]

theorem keeps_sendTake {b0 : State} {e : Eng} (key : Nat) (dslot : Nat) (ret : Bool) (E : Nat) (w : List W64) (ds : List Dest) (es : List (Nat × Nat × Nat)) (cnt : List Nat) (hK : Keeps b0 e.s) :
    Keeps b0 (sendTake e key dslot ret E w ds es cnt).2.s := by
  unfold sendTake
  repeat' first
    | with_reducible assumption
    | (extract_lets +onlyGivenNames z; first | ((first | refine Keeps.cut (p := Keeps b0 z) ?_ ?_ | refine Keeps.cut (p := Keeps b0 z.2) ?_ ?_ | refine Keeps.cut (p := Keeps b0 z.2.2) ?_ ?_ | refine Keeps.cut (p := Keeps b0 z.1) ?_ ?_ | refine Keeps.cut (p := Keeps b0 z.s) ?_ ?_ | refine Keeps.cut (p := Keeps b0 z.2.s) ?_ ?_ | refine Keeps.cut (p := Keeps b0 z.2.2.s) ?_ ?_); (focus (intros; dsimp only [z]; (repeat' first | (simp (maxDischargeDepth := 99) only [KIss.hold, KIss.done, KIss.fault, KIss.wait, Keeps.upd, Keeps.updId, Keeps.ite, Keeps.foldl, Keeps.foldl2, Keeps.foldl3, Keeps.refl, implies_true, keeps_Eng_nums, keeps_sendRun, keeps_stopEng, *]; done) | with_reducible apply Keeps.fold1 | with_reducible apply Keeps.fold2 | with_reducible apply Keeps.fold3 | with_reducible apply Keeps.fold21 | with_reducible apply Keeps.foldE | with_reducible apply Keeps.foldE2 | with_reducible apply Keeps.foldE3 | intro _ | split | dsimp only))); intro hz; clear_value z) | clear_value z | skip)
    | (simp (maxDischargeDepth := 99) only [KIss.hold, KIss.done, KIss.fault, KIss.wait, Keeps.upd, Keeps.updId, Keeps.ite, Keeps.foldl, Keeps.foldl2, Keeps.foldl3, Keeps.refl, implies_true, keeps_Eng_nums, keeps_sendRun, keeps_stopEng, *]; done)
    | with_reducible apply Keeps.fold1
    | with_reducible apply Keeps.fold2
    | with_reducible apply Keeps.fold3
    | with_reducible apply Keeps.fold21
    | with_reducible apply Keeps.foldE
    | with_reducible apply Keeps.foldE2
    | with_reducible apply Keeps.foldE3
    | intro _
    | (split <;> (try (rename_i heq; (first | refine Keeps.cut (Keeps.of_eq (b := b0) heq ?_) ?_ | refine Keeps.cut (Keeps.of_eq3 (b := b0) heq ?_) ?_ | refine Keeps.cut (Keeps.of_eq1 (b := b0) heq ?_) ?_ | refine Keeps.cut (Keeps.of_eq4 (b := b0) heq ?_) ?_ | refine Keeps.cut (Keeps.of_eqE (b := b0) heq ?_) ?_ | refine Keeps.cut (Keeps.of_eqE3 (b := b0) heq ?_) ?_); (focus (clear heq; (repeat' first | (simp (maxDischargeDepth := 99) only [KIss.hold, KIss.done, KIss.fault, KIss.wait, Keeps.upd, Keeps.updId, Keeps.ite, Keeps.foldl, Keeps.foldl2, Keeps.foldl3, Keeps.refl, implies_true, keeps_Eng_nums, keeps_sendRun, keeps_stopEng, *]; done) | with_reducible apply Keeps.fold1 | with_reducible apply Keeps.fold2 | with_reducible apply Keeps.fold3 | with_reducible apply Keeps.fold21 | with_reducible apply Keeps.foldE | with_reducible apply Keeps.foldE2 | with_reducible apply Keeps.foldE3 | intro _ | split | dsimp only))); intro hz; (try dsimp only at hz); clear heq)))

theorem keeps_sendRecord {b0 : State} {s : State} (k : Nat) (key : Nat) (d : SendDest) (hK : Keeps b0 s) :
    Keeps b0 (sendRecord s k key d) := by
  unfold sendRecord
  repeat' first
    | with_reducible assumption
    | (extract_lets +onlyGivenNames z; first | ((first | refine Keeps.cut (p := Keeps b0 z) ?_ ?_ | refine Keeps.cut (p := Keeps b0 z.2) ?_ ?_ | refine Keeps.cut (p := Keeps b0 z.2.2) ?_ ?_ | refine Keeps.cut (p := Keeps b0 z.1) ?_ ?_ | refine Keeps.cut (p := Keeps b0 z.s) ?_ ?_ | refine Keeps.cut (p := Keeps b0 z.2.s) ?_ ?_ | refine Keeps.cut (p := Keeps b0 z.2.2.s) ?_ ?_); (focus (intros; dsimp only [z]; (repeat' first | (simp (maxDischargeDepth := 99) only [KIss.hold, KIss.done, KIss.fault, KIss.wait, Keeps.upd, Keeps.updId, Keeps.ite, Keeps.foldl, Keeps.foldl2, Keeps.foldl3, Keeps.refl, implies_true, keeps_destMod, keeps_sendAll, keeps_contribute, *]; done) | with_reducible apply Keeps.fold1 | with_reducible apply Keeps.fold2 | with_reducible apply Keeps.fold3 | with_reducible apply Keeps.fold21 | with_reducible apply Keeps.foldE | with_reducible apply Keeps.foldE2 | with_reducible apply Keeps.foldE3 | intro _ | split | dsimp only))); intro hz; clear_value z) | clear_value z | skip)
    | (simp (maxDischargeDepth := 99) only [KIss.hold, KIss.done, KIss.fault, KIss.wait, Keeps.upd, Keeps.updId, Keeps.ite, Keeps.foldl, Keeps.foldl2, Keeps.foldl3, Keeps.refl, implies_true, keeps_destMod, keeps_sendAll, keeps_contribute, *]; done)
    | with_reducible apply Keeps.fold1
    | with_reducible apply Keeps.fold2
    | with_reducible apply Keeps.fold3
    | with_reducible apply Keeps.fold21
    | with_reducible apply Keeps.foldE
    | with_reducible apply Keeps.foldE2
    | with_reducible apply Keeps.foldE3
    | intro _
    | (split <;> (try (rename_i heq; (first | refine Keeps.cut (Keeps.of_eq (b := b0) heq ?_) ?_ | refine Keeps.cut (Keeps.of_eq3 (b := b0) heq ?_) ?_ | refine Keeps.cut (Keeps.of_eq1 (b := b0) heq ?_) ?_ | refine Keeps.cut (Keeps.of_eq4 (b := b0) heq ?_) ?_ | refine Keeps.cut (Keeps.of_eqE (b := b0) heq ?_) ?_ | refine Keeps.cut (Keeps.of_eqE3 (b := b0) heq ?_) ?_); (focus (clear heq; (repeat' first | (simp (maxDischargeDepth := 99) only [KIss.hold, KIss.done, KIss.fault, KIss.wait, Keeps.upd, Keeps.updId, Keeps.ite, Keeps.foldl, Keeps.foldl2, Keeps.foldl3, Keeps.refl, implies_true, keeps_destMod, keeps_sendAll, keeps_contribute, *]; done) | with_reducible apply Keeps.fold1 | with_reducible apply Keeps.fold2 | with_reducible apply Keeps.fold3 | with_reducible apply Keeps.fold21 | with_reducible apply Keeps.foldE | with_reducible apply Keeps.foldE2 | with_reducible apply Keeps.foldE3 | intro _ | split | dsimp only))); intro hz; (try dsimp only at hz); clear heq)))

theorem keeps_sendStart {b0 : State} {e : Eng} (key : Nat) (dslot : Nat) (w : List W64) (hK : Keeps b0 e.s) :
    Keeps b0 (sendStart e key dslot w).2.s := by
  unfold sendStart
  repeat' first
    | with_reducible assumption
    | (extract_lets +onlyGivenNames z; first | ((first | refine Keeps.cut (p := Keeps b0 z) ?_ ?_ | refine Keeps.cut (p := Keeps b0 z.2) ?_ ?_ | refine Keeps.cut (p := Keeps b0 z.2.2) ?_ ?_ | refine Keeps.cut (p := Keeps b0 z.1) ?_ ?_ | refine Keeps.cut (p := Keeps b0 z.s) ?_ ?_ | refine Keeps.cut (p := Keeps b0 z.2.s) ?_ ?_ | refine Keeps.cut (p := Keeps b0 z.2.2.s) ?_ ?_); (focus (intros; dsimp only [z]; (repeat' first | (simp (maxDischargeDepth := 99) only [KIss.hold, KIss.done, KIss.fault, KIss.wait, Keeps.upd, Keeps.updId, Keeps.ite, Keeps.foldl, Keeps.foldl2, Keeps.foldl3, Keeps.refl, implies_true, keeps_Eng_nums, keeps_Eng_tables, keeps_stopEng, keeps_sendTake, *]; done) | with_reducible apply Keeps.fold1 | with_reducible apply Keeps.fold2 | with_reducible apply Keeps.fold3 | with_reducible apply Keeps.fold21 | with_reducible apply Keeps.foldE | with_reducible apply Keeps.foldE2 | with_reducible apply Keeps.foldE3 | intro _ | split | dsimp only))); intro hz; clear_value z) | clear_value z | skip)
    | (simp (maxDischargeDepth := 99) only [KIss.hold, KIss.done, KIss.fault, KIss.wait, Keeps.upd, Keeps.updId, Keeps.ite, Keeps.foldl, Keeps.foldl2, Keeps.foldl3, Keeps.refl, implies_true, keeps_Eng_nums, keeps_Eng_tables, keeps_stopEng, keeps_sendTake, *]; done)
    | with_reducible apply Keeps.fold1
    | with_reducible apply Keeps.fold2
    | with_reducible apply Keeps.fold3
    | with_reducible apply Keeps.fold21
    | with_reducible apply Keeps.foldE
    | with_reducible apply Keeps.foldE2
    | with_reducible apply Keeps.foldE3
    | intro _
    | (split <;> (try (rename_i heq; (first | refine Keeps.cut (Keeps.of_eq (b := b0) heq ?_) ?_ | refine Keeps.cut (Keeps.of_eq3 (b := b0) heq ?_) ?_ | refine Keeps.cut (Keeps.of_eq1 (b := b0) heq ?_) ?_ | refine Keeps.cut (Keeps.of_eq4 (b := b0) heq ?_) ?_ | refine Keeps.cut (Keeps.of_eqE (b := b0) heq ?_) ?_ | refine Keeps.cut (Keeps.of_eqE3 (b := b0) heq ?_) ?_); (focus (clear heq; (repeat' first | (simp (maxDischargeDepth := 99) only [KIss.hold, KIss.done, KIss.fault, KIss.wait, Keeps.upd, Keeps.updId, Keeps.ite, Keeps.foldl, Keeps.foldl2, Keeps.foldl3, Keeps.refl, implies_true, keeps_Eng_nums, keeps_Eng_tables, keeps_stopEng, keeps_sendTake, *]; done) | with_reducible apply Keeps.fold1 | with_reducible apply Keeps.fold2 | with_reducible apply Keeps.fold3 | with_reducible apply Keeps.fold21 | with_reducible apply Keeps.foldE | with_reducible apply Keeps.foldE2 | with_reducible apply Keeps.foldE3 | intro _ | split | dsimp only))); intro hz; (try dsimp only at hz); clear heq)))

theorem keeps_combineRow {b0 : State} (w : List W64) (ds : List Dest) (es : List (Nat × Nat × Nat)) (route : List Nat) {r : Nat × Eng}
    (t : Nat) (hK : Keeps b0 r.2.s) : Keeps b0 (combineRow w ds es route r t).2.s := by
  unfold combineRow
  extract_lets +onlyGivenNames f ty oty n K rowb out
  split
  · exact hK
  · extract_lets +onlyGivenNames kc
    split
    · split
      rename_i xs e1 h1
      have k1 : Keeps b0 e1.s := by
        refine Keeps.of_eqE h1 ?_
        clear h1
        split
        · exact keeps_Eng_nums _ _ _ hK
        · exact hK
      extract_lets bs
      dsimp only
      split
      · exact k1
      · exact keeps_Eng_write _ _ _ _ k1
    · extract_lets +onlyGivenNames ws sw ws'
      split
      rename_i rows e1 h1
      have k1 : Keeps b0 e1.s := by
        refine Keeps.of_eqE h1 ?_
        clear h1
        refine Keeps.foldE2 (fun c y t hy => ?_) hK
        dsimp only
        split
        · exact hy
        · exact keeps_Eng_nums _ _ _ hy
      extract_lets bs
      dsimp only
      split
      · exact k1
      · exact keeps_Eng_write _ _ _ _ k1

theorem keeps_combineRun {b0 : State} {e : Eng} (w : List W64) (ds : List Dest) (es : List (Nat × Nat × Nat)) (route : List Nat)
    (hK : Keeps b0 e.s) : Keeps b0 (combineRun e w ds es route).2.s := by
  unfold combineRun
  extract_lets f r
  have hr : Keeps b0 r.2.s := Keeps.foldE2 (fun c y t hy => keeps_combineRow _ _ _ _ _ hy) hK
  clear_value r
  split
  · exact Keeps.foldE (fun y a hy => keeps_Eng_free _ _ _ _ hy) hr
  · exact hr

theorem keeps_combineStart {b0 : State} {e : Eng} (w : List W64) (hK : Keeps b0 e.s) :
    Keeps b0 (combineStart e w).2.s := by
  unfold combineStart
  repeat' first
    | with_reducible assumption
    | (extract_lets +onlyGivenNames z; first | ((first | refine Keeps.cut (p := Keeps b0 z) ?_ ?_ | refine Keeps.cut (p := Keeps b0 z.2) ?_ ?_ | refine Keeps.cut (p := Keeps b0 z.2.2) ?_ ?_ | refine Keeps.cut (p := Keeps b0 z.1) ?_ ?_ | refine Keeps.cut (p := Keeps b0 z.s) ?_ ?_ | refine Keeps.cut (p := Keeps b0 z.2.s) ?_ ?_ | refine Keeps.cut (p := Keeps b0 z.2.2.s) ?_ ?_); (focus (intros; dsimp only [z]; (repeat' first | (simp (maxDischargeDepth := 99) only [KIss.hold, KIss.done, KIss.fault, KIss.wait, Keeps.upd, Keeps.updId, Keeps.ite, Keeps.foldl, Keeps.foldl2, Keeps.foldl3, Keeps.refl, implies_true, keeps_cmpRun, keeps_Eng_nums, keeps_Eng_tables, keeps_stopEng, keeps_combineRun, *]; done) | with_reducible apply Keeps.fold1 | with_reducible apply Keeps.fold2 | with_reducible apply Keeps.fold3 | with_reducible apply Keeps.fold21 | with_reducible apply Keeps.foldE | with_reducible apply Keeps.foldE2 | with_reducible apply Keeps.foldE3 | intro _ | split | dsimp only))); intro hz; clear_value z) | clear_value z | skip)
    | (simp (maxDischargeDepth := 99) only [KIss.hold, KIss.done, KIss.fault, KIss.wait, Keeps.upd, Keeps.updId, Keeps.ite, Keeps.foldl, Keeps.foldl2, Keeps.foldl3, Keeps.refl, implies_true, keeps_cmpRun, keeps_Eng_nums, keeps_Eng_tables, keeps_stopEng, keeps_combineRun, *]; done)
    | with_reducible apply Keeps.fold1
    | with_reducible apply Keeps.fold2
    | with_reducible apply Keeps.fold3
    | with_reducible apply Keeps.fold21
    | with_reducible apply Keeps.foldE
    | with_reducible apply Keeps.foldE2
    | with_reducible apply Keeps.foldE3
    | intro _
    | (split <;> (try (rename_i heq; (first | refine Keeps.cut (Keeps.of_eq (b := b0) heq ?_) ?_ | refine Keeps.cut (Keeps.of_eq3 (b := b0) heq ?_) ?_ | refine Keeps.cut (Keeps.of_eq1 (b := b0) heq ?_) ?_ | refine Keeps.cut (Keeps.of_eq4 (b := b0) heq ?_) ?_ | refine Keeps.cut (Keeps.of_eqE (b := b0) heq ?_) ?_ | refine Keeps.cut (Keeps.of_eqE3 (b := b0) heq ?_) ?_); (focus (clear heq; (repeat' first | (simp (maxDischargeDepth := 99) only [KIss.hold, KIss.done, KIss.fault, KIss.wait, Keeps.upd, Keeps.updId, Keeps.ite, Keeps.foldl, Keeps.foldl2, Keeps.foldl3, Keeps.refl, implies_true, keeps_cmpRun, keeps_Eng_nums, keeps_Eng_tables, keeps_stopEng, keeps_combineRun, *]; done) | with_reducible apply Keeps.fold1 | with_reducible apply Keeps.fold2 | with_reducible apply Keeps.fold3 | with_reducible apply Keeps.fold21 | with_reducible apply Keeps.foldE | with_reducible apply Keeps.foldE2 | with_reducible apply Keeps.foldE3 | intro _ | split | dsimp only))); intro hz; (try dsimp only at hz); clear heq)))

theorem keeps_setDecoder {b0 : State} {s : State} (k : Nat) (key : Nat) (d : DecStream) (hK : Keeps b0 s) :
    Keeps b0 (setDecoder s k key d) := by
  unfold setDecoder; simp (maxDischargeDepth := 99) only [KIss.hold, KIss.done, KIss.fault, KIss.wait, Keeps.upd,
        Keeps.updId, Keeps.ite, Keeps.foldl, Keeps.foldl2, Keeps.foldl3, Keeps.refl, implies_true, keeps_setGrotto, *]

theorem keeps_rebind {b0 : State} {s : State} (k : Nat) (key : Nat) (dslot : Nat) (dk : Nat) (b : Option Binding) (info : Nat) (keeps : Bool) (hK : Keeps b0 s) :
    Keeps b0 (rebind s k key dslot dk b info keeps) := by
  unfold rebind; simp (maxDischargeDepth := 99) only [KIss.hold, KIss.done, KIss.fault, KIss.wait, Keeps.upd, Keeps.updId,
        Keeps.ite, Keeps.foldl, Keeps.foldl2, Keeps.foldl3, Keeps.refl, implies_true, keeps_expect, keeps_setDecoder, *]

theorem keeps_bindTake {b0 : State} {e : Eng} (key : Nat) (dslot : Nat) (dk : Nat) (w : List W64) (hK : Keeps b0 e.s) :
    Keeps b0 (bindTake e key dslot dk w).2.s := by
  unfold bindTake
  repeat' first
    | with_reducible assumption
    | (extract_lets +onlyGivenNames z; first | ((first | refine Keeps.cut (p := Keeps b0 z) ?_ ?_ | refine Keeps.cut (p := Keeps b0 z.2) ?_ ?_ | refine Keeps.cut (p := Keeps b0 z.2.2) ?_ ?_ | refine Keeps.cut (p := Keeps b0 z.1) ?_ ?_ | refine Keeps.cut (p := Keeps b0 z.s) ?_ ?_ | refine Keeps.cut (p := Keeps b0 z.2.s) ?_ ?_ | refine Keeps.cut (p := Keeps b0 z.2.2.s) ?_ ?_); (focus (intros; dsimp only [z]; (repeat' first | (simp (maxDischargeDepth := 99) only [KIss.hold, KIss.done, KIss.fault, KIss.wait, Keeps.upd, Keeps.updId, Keeps.ite, Keeps.foldl, Keeps.foldl2, Keeps.foldl3, Keeps.refl, implies_true, keeps_FlsRun_read, keeps_Eng_read, keeps_Eng_nums, keeps_rebind, *]; done) | with_reducible apply Keeps.fold1 | with_reducible apply Keeps.fold2 | with_reducible apply Keeps.fold3 | with_reducible apply Keeps.fold21 | with_reducible apply Keeps.foldE | with_reducible apply Keeps.foldE2 | with_reducible apply Keeps.foldE3 | intro _ | split | dsimp only))); intro hz; clear_value z) | clear_value z | skip)
    | (simp (maxDischargeDepth := 99) only [KIss.hold, KIss.done, KIss.fault, KIss.wait, Keeps.upd, Keeps.updId, Keeps.ite, Keeps.foldl, Keeps.foldl2, Keeps.foldl3, Keeps.refl, implies_true, keeps_FlsRun_read, keeps_Eng_read, keeps_Eng_nums, keeps_rebind, *]; done)
    | with_reducible apply Keeps.fold1
    | with_reducible apply Keeps.fold2
    | with_reducible apply Keeps.fold3
    | with_reducible apply Keeps.fold21
    | with_reducible apply Keeps.foldE
    | with_reducible apply Keeps.foldE2
    | with_reducible apply Keeps.foldE3
    | intro _
    | (split <;> (try (rename_i heq; (first | refine Keeps.cut (Keeps.of_eq (b := b0) heq ?_) ?_ | refine Keeps.cut (Keeps.of_eq3 (b := b0) heq ?_) ?_ | refine Keeps.cut (Keeps.of_eq1 (b := b0) heq ?_) ?_ | refine Keeps.cut (Keeps.of_eq4 (b := b0) heq ?_) ?_ | refine Keeps.cut (Keeps.of_eqE (b := b0) heq ?_) ?_ | refine Keeps.cut (Keeps.of_eqE3 (b := b0) heq ?_) ?_); (focus (clear heq; (repeat' first | (simp (maxDischargeDepth := 99) only [KIss.hold, KIss.done, KIss.fault, KIss.wait, Keeps.upd, Keeps.updId, Keeps.ite, Keeps.foldl, Keeps.foldl2, Keeps.foldl3, Keeps.refl, implies_true, keeps_FlsRun_read, keeps_Eng_read, keeps_Eng_nums, keeps_rebind, *]; done) | with_reducible apply Keeps.fold1 | with_reducible apply Keeps.fold2 | with_reducible apply Keeps.fold3 | with_reducible apply Keeps.fold21 | with_reducible apply Keeps.foldE | with_reducible apply Keeps.foldE2 | with_reducible apply Keeps.foldE3 | intro _ | split | dsimp only))); intro hz; (try dsimp only at hz); clear heq)))

theorem keeps_bindStart {b0 : State} {e : Eng} (key : Nat) (dslot : Nat) (w : List W64) (hK : Keeps b0 e.s) :
    Keeps b0 (bindStart e key dslot w).2.s := by
  unfold bindStart
  repeat' first
    | with_reducible assumption
    | (extract_lets +onlyGivenNames z; first | ((first | refine Keeps.cut (p := Keeps b0 z) ?_ ?_ | refine Keeps.cut (p := Keeps b0 z.2) ?_ ?_ | refine Keeps.cut (p := Keeps b0 z.2.2) ?_ ?_ | refine Keeps.cut (p := Keeps b0 z.1) ?_ ?_ | refine Keeps.cut (p := Keeps b0 z.s) ?_ ?_ | refine Keeps.cut (p := Keeps b0 z.2.s) ?_ ?_ | refine Keeps.cut (p := Keeps b0 z.2.2.s) ?_ ?_); (focus (intros; dsimp only [z]; (repeat' first | (simp (maxDischargeDepth := 99) only [KIss.hold, KIss.done, KIss.fault, KIss.wait, Keeps.upd, Keeps.updId, Keeps.ite, Keeps.foldl, Keeps.foldl2, Keeps.foldl3, Keeps.refl, implies_true, keeps_rebind, keeps_bindTake, *]; done) | with_reducible apply Keeps.fold1 | with_reducible apply Keeps.fold2 | with_reducible apply Keeps.fold3 | with_reducible apply Keeps.fold21 | with_reducible apply Keeps.foldE | with_reducible apply Keeps.foldE2 | with_reducible apply Keeps.foldE3 | intro _ | split | dsimp only))); intro hz; clear_value z) | clear_value z | skip)
    | (simp (maxDischargeDepth := 99) only [KIss.hold, KIss.done, KIss.fault, KIss.wait, Keeps.upd, Keeps.updId, Keeps.ite, Keeps.foldl, Keeps.foldl2, Keeps.foldl3, Keeps.refl, implies_true, keeps_rebind, keeps_bindTake, *]; done)
    | with_reducible apply Keeps.fold1
    | with_reducible apply Keeps.fold2
    | with_reducible apply Keeps.fold3
    | with_reducible apply Keeps.fold21
    | with_reducible apply Keeps.foldE
    | with_reducible apply Keeps.foldE2
    | with_reducible apply Keeps.foldE3
    | intro _
    | (split <;> (try (rename_i heq; (first | refine Keeps.cut (Keeps.of_eq (b := b0) heq ?_) ?_ | refine Keeps.cut (Keeps.of_eq3 (b := b0) heq ?_) ?_ | refine Keeps.cut (Keeps.of_eq1 (b := b0) heq ?_) ?_ | refine Keeps.cut (Keeps.of_eq4 (b := b0) heq ?_) ?_ | refine Keeps.cut (Keeps.of_eqE (b := b0) heq ?_) ?_ | refine Keeps.cut (Keeps.of_eqE3 (b := b0) heq ?_) ?_); (focus (clear heq; (repeat' first | (simp (maxDischargeDepth := 99) only [KIss.hold, KIss.done, KIss.fault, KIss.wait, Keeps.upd, Keeps.updId, Keeps.ite, Keeps.foldl, Keeps.foldl2, Keeps.foldl3, Keeps.refl, implies_true, keeps_rebind, keeps_bindTake, *]; done) | with_reducible apply Keeps.fold1 | with_reducible apply Keeps.fold2 | with_reducible apply Keeps.fold3 | with_reducible apply Keeps.fold21 | with_reducible apply Keeps.foldE | with_reducible apply Keeps.foldE2 | with_reducible apply Keeps.foldE3 | intro _ | split | dsimp only))); intro hz; (try dsimp only at hz); clear heq)))

theorem keeps_decoderEffect {b0 : State} {s : State} (k : Nat) (quad : Nat) (st : Nat) (hK : Keeps b0 s) :
    Keeps b0 (decoderEffect s k quad st) := by
  unfold decoderEffect
  repeat' first
    | with_reducible assumption
    | (extract_lets +onlyGivenNames z; first | ((first | refine Keeps.cut (p := Keeps b0 z) ?_ ?_ | refine Keeps.cut (p := Keeps b0 z.2) ?_ ?_ | refine Keeps.cut (p := Keeps b0 z.2.2) ?_ ?_ | refine Keeps.cut (p := Keeps b0 z.1) ?_ ?_ | refine Keeps.cut (p := Keeps b0 z.s) ?_ ?_ | refine Keeps.cut (p := Keeps b0 z.2.s) ?_ ?_ | refine Keeps.cut (p := Keeps b0 z.2.2.s) ?_ ?_); (focus (intros; dsimp only [z]; (repeat' first | (simp (maxDischargeDepth := 99) only [KIss.hold, KIss.done, KIss.fault, KIss.wait, Keeps.upd, Keeps.updId, Keeps.ite, Keeps.foldl, Keeps.foldl2, Keeps.foldl3, Keeps.refl, implies_true, keeps_takenMod, keeps_setDecoder, *]; done) | with_reducible apply Keeps.fold1 | with_reducible apply Keeps.fold2 | with_reducible apply Keeps.fold3 | with_reducible apply Keeps.fold21 | with_reducible apply Keeps.foldE | with_reducible apply Keeps.foldE2 | with_reducible apply Keeps.foldE3 | intro _ | split | dsimp only))); intro hz; clear_value z) | clear_value z | skip)
    | (simp (maxDischargeDepth := 99) only [KIss.hold, KIss.done, KIss.fault, KIss.wait, Keeps.upd, Keeps.updId, Keeps.ite, Keeps.foldl, Keeps.foldl2, Keeps.foldl3, Keeps.refl, implies_true, keeps_takenMod, keeps_setDecoder, *]; done)
    | with_reducible apply Keeps.fold1
    | with_reducible apply Keeps.fold2
    | with_reducible apply Keeps.fold3
    | with_reducible apply Keeps.fold21
    | with_reducible apply Keeps.foldE
    | with_reducible apply Keeps.foldE2
    | with_reducible apply Keeps.foldE3
    | intro _
    | (split <;> (try (rename_i heq; (first | refine Keeps.cut (Keeps.of_eq (b := b0) heq ?_) ?_ | refine Keeps.cut (Keeps.of_eq3 (b := b0) heq ?_) ?_ | refine Keeps.cut (Keeps.of_eq1 (b := b0) heq ?_) ?_ | refine Keeps.cut (Keeps.of_eq4 (b := b0) heq ?_) ?_ | refine Keeps.cut (Keeps.of_eqE (b := b0) heq ?_) ?_ | refine Keeps.cut (Keeps.of_eqE3 (b := b0) heq ?_) ?_); (focus (clear heq; (repeat' first | (simp (maxDischargeDepth := 99) only [KIss.hold, KIss.done, KIss.fault, KIss.wait, Keeps.upd, Keeps.updId, Keeps.ite, Keeps.foldl, Keeps.foldl2, Keeps.foldl3, Keeps.refl, implies_true, keeps_takenMod, keeps_setDecoder, *]; done) | with_reducible apply Keeps.fold1 | with_reducible apply Keeps.fold2 | with_reducible apply Keeps.fold3 | with_reducible apply Keeps.fold21 | with_reducible apply Keeps.foldE | with_reducible apply Keeps.foldE2 | with_reducible apply Keeps.foldE3 | intro _ | split | dsimp only))); intro hz; (try dsimp only at hz); clear heq)))

theorem keeps_hlxStart {b0 : State} {e : Eng} (key : Nat) (dslot : Nat) (w : List W64) (hK : Keeps b0 e.s) :
    Keeps b0 (hlxStart e key dslot w).2.s := by
  unfold hlxStart; (repeat' split) <;> simp (maxDischargeDepth := 99) only [KIss.hold, KIss.done, KIss.fault, KIss.wait,
        Keeps.upd, Keeps.updId, Keeps.ite, Keeps.foldl, Keeps.foldl2, Keeps.foldl3, Keeps.refl, implies_true,
        keeps_gateStart, keeps_sendStart, keeps_combineStart, keeps_bindStart, *]

theorem keeps_Eng_scores {b0 : State} {e : Eng} (d : Drp) (r : Nat) (hK : Keeps b0 e.s) :
    Keeps b0 (Eng.scores e d r).2.s := by
  unfold Eng.scores; (repeat' split) <;> simp (maxDischargeDepth := 99) only [KIss.hold, KIss.done, KIss.fault, KIss.wait,
        Keeps.upd, Keeps.updId, Keeps.ite, Keeps.foldl, Keeps.foldl2, Keeps.foldl3, Keeps.refl, implies_true,
        keeps_FlsRun_read, keeps_Eng_read, *]

theorem keeps_drpBlock {b0 : State} {e : Eng} (d : Drp) (key : Nat) (ctr : Nat) (hK : Keeps b0 e.s) :
    Keeps b0 (drpBlock e d key ctr).2.s := by
  unfold drpBlock; (repeat' split) <;> simp (maxDischargeDepth := 99) only [KIss.hold, KIss.done, KIss.fault, KIss.wait,
        Keeps.upd, Keeps.updId, Keeps.ite, Keeps.foldl, Keeps.foldl2, Keeps.foldl3, Keeps.refl, implies_true, keeps_rset,
        keeps_Eng_stream, *]

theorem keeps_drpRow {b0 : State} {e : Eng} (d : Drp) (s : List Nat) (key : Nat) (ctr : Nat) (invt : Nat) (p : Nat) (K : Nat) (hK : Keeps b0 e.s) :
    Keeps b0 (drpRow e d s key ctr invt p K).2.s := by
  unfold drpRow
  repeat' first
    | with_reducible assumption
    | (extract_lets +onlyGivenNames z; first | ((first | refine Keeps.cut (p := Keeps b0 z) ?_ ?_ | refine Keeps.cut (p := Keeps b0 z.2) ?_ ?_ | refine Keeps.cut (p := Keeps b0 z.2.2) ?_ ?_ | refine Keeps.cut (p := Keeps b0 z.1) ?_ ?_ | refine Keeps.cut (p := Keeps b0 z.s) ?_ ?_ | refine Keeps.cut (p := Keeps b0 z.2.s) ?_ ?_ | refine Keeps.cut (p := Keeps b0 z.2.2.s) ?_ ?_ | refine Keeps.cut (p := ∀ b y a, Keeps b y → Keeps b (z y a)) ?_ ?_ | refine Keeps.cut (p := ∀ b a y, Keeps b y → Keeps b (z a y)) ?_ ?_ | refine Keeps.cut (p := ∀ b y, Keeps b y → Keeps b (z y)) ?_ ?_ | refine Keeps.cut (p := ∀ b y a c, Keeps b y → Keeps b (z y a c)) ?_ ?_ | refine Keeps.cut (p := ∀ b y, Keeps b y → Keeps b (z y).2) ?_ ?_ | refine Keeps.cut (p := ∀ b y a, Keeps b y → Keeps b (z y a).2) ?_ ?_ | refine Keeps.cut (p := ∀ b y, Keeps b y → Keeps b (z y).2.2) ?_ ?_ | refine Keeps.cut (p := ∀ a, Keeps b0 (z a)) ?_ ?_ | refine Keeps.cut (p := ∀ a c, Keeps b0 (z a c)) ?_ ?_ | refine Keeps.cut (p := ∀ a, Keeps b0 (z a).2) ?_ ?_ | refine Keeps.cut (p := ∀ a c d, Keeps b0 (z a c d)) ?_ ?_ | refine Keeps.cut (p := ∀ a, Keeps b0 (z a).2.2) ?_ ?_ | refine Keeps.cut (p := ∀ y, Keeps b0 y.s → Keeps b0 (z y).s) ?_ ?_ | refine Keeps.cut (p := ∀ y a c, Keeps b0 y.s → Keeps b0 (z y a c).s) ?_ ?_ | refine Keeps.cut (p := ∀ c y, Keeps b0 y.s → Keeps b0 (z c y).2.s) ?_ ?_ | refine Keeps.cut (p := ∀ a, Keeps b0 (z a).2.s) ?_ ?_ | refine Keeps.cut (p := ∀ a c y, Keeps b0 y.s → Keeps b0 (z a c y).2.s) ?_ ?_ | refine Keeps.cut (p := ∀ y a, Keeps b0 y → Keeps b0 (z y a).2.s) ?_ ?_); (focus (intros; dsimp only [z]; (repeat' first | (simp (maxDischargeDepth := 99) only [KIss.hold, KIss.done, KIss.fault, KIss.wait, Keeps.upd, Keeps.updId, Keeps.ite, Keeps.foldl, Keeps.foldl2, Keeps.foldl3, Keeps.refl, implies_true, keeps_FlsRun_draw, keeps_drpBlock, *]; done) | with_reducible apply Keeps.fold1 | with_reducible apply Keeps.fold2 | with_reducible apply Keeps.fold3 | with_reducible apply Keeps.fold21 | with_reducible apply Keeps.foldE | with_reducible apply Keeps.foldE2 | with_reducible apply Keeps.foldE3 | intro _ | split | dsimp only))); intro hz; clear_value z) | clear_value z | skip)
    | (simp (maxDischargeDepth := 99) only [KIss.hold, KIss.done, KIss.fault, KIss.wait, Keeps.upd, Keeps.updId, Keeps.ite, Keeps.foldl, Keeps.foldl2, Keeps.foldl3, Keeps.refl, implies_true, keeps_FlsRun_draw, keeps_drpBlock, *]; done)
    | with_reducible apply Keeps.fold1
    | with_reducible apply Keeps.fold2
    | with_reducible apply Keeps.fold3
    | with_reducible apply Keeps.fold21
    | with_reducible apply Keeps.foldE
    | with_reducible apply Keeps.foldE2
    | with_reducible apply Keeps.foldE3
    | intro _
    | (split <;> (try (rename_i heq; (first | refine Keeps.cut (Keeps.of_eq (b := b0) heq ?_) ?_ | refine Keeps.cut (Keeps.of_eq3 (b := b0) heq ?_) ?_ | refine Keeps.cut (Keeps.of_eq1 (b := b0) heq ?_) ?_ | refine Keeps.cut (Keeps.of_eq4 (b := b0) heq ?_) ?_ | refine Keeps.cut (Keeps.of_eqE (b := b0) heq ?_) ?_ | refine Keeps.cut (Keeps.of_eqE3 (b := b0) heq ?_) ?_); (focus (clear heq; (repeat' first | (simp (maxDischargeDepth := 99) only [KIss.hold, KIss.done, KIss.fault, KIss.wait, Keeps.upd, Keeps.updId, Keeps.ite, Keeps.foldl, Keeps.foldl2, Keeps.foldl3, Keeps.refl, implies_true, keeps_FlsRun_draw, keeps_drpBlock, *]; done) | with_reducible apply Keeps.fold1 | with_reducible apply Keeps.fold2 | with_reducible apply Keeps.fold3 | with_reducible apply Keeps.fold21 | with_reducible apply Keeps.foldE | with_reducible apply Keeps.foldE2 | with_reducible apply Keeps.foldE3 | intro _ | split | dsimp only))); intro hz; (try dsimp only at hz); clear heq)))

theorem keeps_drpEntry {b0 : State} {e : Eng} (d : Drp) (r : Nat) (hK : Keeps b0 e.s) :
    Keeps b0 (drpEntry e d r).2.s := by
  unfold drpEntry
  repeat' first
    | with_reducible assumption
    | (simp (maxDischargeDepth := 99) only [KIss.hold, KIss.done, KIss.fault, KIss.wait, Keeps.upd, Keeps.updId, Keeps.ite, Keeps.foldl, Keeps.foldl2, Keeps.foldl3, Keeps.refl, implies_true, keeps_FlsRun_read, keeps_FlsRun_draw, keeps_Eng_read, *]; done)
    | (split <;> (try (rename_i heq; (first | refine Keeps.cut (Keeps.of_eq (b := b0) heq ?_) ?_ | refine Keeps.cut (Keeps.of_eq3 (b := b0) heq ?_) ?_ | refine Keeps.cut (Keeps.of_eq1 (b := b0) heq ?_) ?_ | refine Keeps.cut (Keeps.of_eq4 (b := b0) heq ?_) ?_ | refine Keeps.cut (Keeps.of_eqE (b := b0) heq ?_) ?_ | refine Keeps.cut (Keeps.of_eqE3 (b := b0) heq ?_) ?_); (focus (clear heq; (repeat' first | (simp (maxDischargeDepth := 99) only [KIss.hold, KIss.done, KIss.fault, KIss.wait, Keeps.upd, Keeps.updId, Keeps.ite, Keeps.foldl, Keeps.foldl2, Keeps.foldl3, Keeps.refl, implies_true, keeps_FlsRun_read, keeps_FlsRun_draw, keeps_Eng_read, *]; done) | with_reducible apply Keeps.fold1 | with_reducible apply Keeps.fold2 | with_reducible apply Keeps.fold3 | with_reducible apply Keeps.fold21 | with_reducible apply Keeps.foldE | with_reducible apply Keeps.foldE2 | with_reducible apply Keeps.foldE3 | intro _ | split | dsimp only))); intro hz; (try dsimp only at hz); clear heq)))

theorem keeps_drpRows {b0 : State} (d : Drp) (x0 : Nat) (x1 : Nat) (x2 : Nat) (x3 : Nat) {x4 : Eng} (hK : Keeps b0 x4.s) :
    Keeps b0 (drpRows d x0 x1 x2 x3 x4).2.2.s := by
  induction x0 generalizing b0 x1 x2 x3 x4 with
  | zero => unfold drpRows; (repeat' split) <;> (simp (maxDischargeDepth := 99) only [KIss.hold, KIss.done, KIss.fault, KIss.wait, Keeps.upd, Keeps.updId, Keeps.ite, Keeps.foldl, Keeps.foldl2, Keeps.foldl3, Keeps.refl, implies_true, keeps_count, keeps_FlsRun_write, keeps_Eng_write, keeps_Eng_scores, keeps_drpRow, keeps_drpEntry, *]; done)
  | succ n ih =>
    unfold drpRows
    repeat' first
      | with_reducible assumption
      | (extract_lets +onlyGivenNames z; first | ((first | refine Keeps.cut (p := Keeps b0 z) ?_ ?_ | refine Keeps.cut (p := Keeps b0 z.2) ?_ ?_ | refine Keeps.cut (p := Keeps b0 z.2.2) ?_ ?_ | refine Keeps.cut (p := Keeps b0 z.1) ?_ ?_ | refine Keeps.cut (p := Keeps b0 z.s) ?_ ?_ | refine Keeps.cut (p := Keeps b0 z.2.s) ?_ ?_ | refine Keeps.cut (p := Keeps b0 z.2.2.s) ?_ ?_); (focus (intros; dsimp only [z]; (repeat' first | (simp (maxDischargeDepth := 99) only [KIss.hold, KIss.done, KIss.fault, KIss.wait, Keeps.upd, Keeps.updId, Keeps.ite, Keeps.foldl, Keeps.foldl2, Keeps.foldl3, Keeps.refl, implies_true, keeps_count, keeps_FlsRun_write, keeps_Eng_write, keeps_Eng_scores, keeps_drpRow, keeps_drpEntry, *]; done) | with_reducible apply Keeps.fold1 | with_reducible apply Keeps.fold2 | with_reducible apply Keeps.fold3 | with_reducible apply Keeps.fold21 | with_reducible apply Keeps.foldE | with_reducible apply Keeps.foldE2 | with_reducible apply Keeps.foldE3 | intro _ | split | dsimp only))); intro hz; clear_value z) | clear_value z | skip)
      | (simp (maxDischargeDepth := 99) only [KIss.hold, KIss.done, KIss.fault, KIss.wait, Keeps.upd, Keeps.updId, Keeps.ite, Keeps.foldl, Keeps.foldl2, Keeps.foldl3, Keeps.refl, implies_true, keeps_count, keeps_FlsRun_write, keeps_Eng_write, keeps_Eng_scores, keeps_drpRow, keeps_drpEntry, *]; done)
      | with_reducible apply Keeps.fold1
      | with_reducible apply Keeps.fold2
      | with_reducible apply Keeps.fold3
      | with_reducible apply Keeps.fold21
      | with_reducible apply Keeps.foldE
      | with_reducible apply Keeps.foldE2
      | with_reducible apply Keeps.foldE3
      | intro _
      | (split <;> (try (rename_i heq; (first | refine Keeps.cut (Keeps.of_eq (b := b0) heq ?_) ?_ | refine Keeps.cut (Keeps.of_eq3 (b := b0) heq ?_) ?_ | refine Keeps.cut (Keeps.of_eq1 (b := b0) heq ?_) ?_ | refine Keeps.cut (Keeps.of_eq4 (b := b0) heq ?_) ?_ | refine Keeps.cut (Keeps.of_eqE (b := b0) heq ?_) ?_ | refine Keeps.cut (Keeps.of_eqE3 (b := b0) heq ?_) ?_); (focus (clear heq; (repeat' first | (simp (maxDischargeDepth := 99) only [KIss.hold, KIss.done, KIss.fault, KIss.wait, Keeps.upd, Keeps.updId, Keeps.ite, Keeps.foldl, Keeps.foldl2, Keeps.foldl3, Keeps.refl, implies_true, keeps_count, keeps_FlsRun_write, keeps_Eng_write, keeps_Eng_scores, keeps_drpRow, keeps_drpEntry, *]; done) | with_reducible apply Keeps.fold1 | with_reducible apply Keeps.fold2 | with_reducible apply Keeps.fold3 | with_reducible apply Keeps.fold21 | with_reducible apply Keeps.foldE | with_reducible apply Keeps.foldE2 | with_reducible apply Keeps.foldE3 | intro _ | split | dsimp only))); intro hz; (try dsimp only at hz); clear heq)))

theorem keeps_drpWork {b0 : State} (w : List W64) {e : Eng} (hK : Keeps b0 e.s) :
    Keeps b0 (drpWork w e).2.2.s := by
  unfold drpWork
  repeat' first
    | with_reducible assumption
    | (extract_lets +onlyGivenNames z; first | ((first | refine Keeps.cut (p := Keeps b0 z) ?_ ?_ | refine Keeps.cut (p := Keeps b0 z.2) ?_ ?_ | refine Keeps.cut (p := Keeps b0 z.2.2) ?_ ?_ | refine Keeps.cut (p := Keeps b0 z.1) ?_ ?_ | refine Keeps.cut (p := Keeps b0 z.s) ?_ ?_ | refine Keeps.cut (p := Keeps b0 z.2.s) ?_ ?_ | refine Keeps.cut (p := Keeps b0 z.2.2.s) ?_ ?_); (focus (intros; dsimp only [z]; (repeat' first | (simp (maxDischargeDepth := 99) only [KIss.hold, KIss.done, KIss.fault, KIss.wait, Keeps.upd, Keeps.updId, Keeps.ite, Keeps.foldl, Keeps.foldl2, Keeps.foldl3, Keeps.refl, implies_true, keeps_drpRows, *]; done) | with_reducible apply Keeps.fold1 | with_reducible apply Keeps.fold2 | with_reducible apply Keeps.fold3 | with_reducible apply Keeps.fold21 | with_reducible apply Keeps.foldE | with_reducible apply Keeps.foldE2 | with_reducible apply Keeps.foldE3 | intro _ | split | dsimp only))); intro hz; clear_value z) | clear_value z | skip)
    | (simp (maxDischargeDepth := 99) only [KIss.hold, KIss.done, KIss.fault, KIss.wait, Keeps.upd, Keeps.updId, Keeps.ite, Keeps.foldl, Keeps.foldl2, Keeps.foldl3, Keeps.refl, implies_true, keeps_drpRows, *]; done)
    | with_reducible apply Keeps.fold1
    | with_reducible apply Keeps.fold2
    | with_reducible apply Keeps.fold3
    | with_reducible apply Keeps.fold21
    | with_reducible apply Keeps.foldE
    | with_reducible apply Keeps.foldE2
    | with_reducible apply Keeps.foldE3
    | intro _
    | (split <;> (try (rename_i heq; (first | refine Keeps.cut (Keeps.of_eq (b := b0) heq ?_) ?_ | refine Keeps.cut (Keeps.of_eq3 (b := b0) heq ?_) ?_ | refine Keeps.cut (Keeps.of_eq1 (b := b0) heq ?_) ?_ | refine Keeps.cut (Keeps.of_eq4 (b := b0) heq ?_) ?_ | refine Keeps.cut (Keeps.of_eqE (b := b0) heq ?_) ?_ | refine Keeps.cut (Keeps.of_eqE3 (b := b0) heq ?_) ?_); (focus (clear heq; (repeat' first | (simp (maxDischargeDepth := 99) only [KIss.hold, KIss.done, KIss.fault, KIss.wait, Keeps.upd, Keeps.updId, Keeps.ite, Keeps.foldl, Keeps.foldl2, Keeps.foldl3, Keeps.refl, implies_true, keeps_drpRows, *]; done) | with_reducible apply Keeps.fold1 | with_reducible apply Keeps.fold2 | with_reducible apply Keeps.fold3 | with_reducible apply Keeps.fold21 | with_reducible apply Keeps.foldE | with_reducible apply Keeps.foldE2 | with_reducible apply Keeps.foldE3 | intro _ | split | dsimp only))); intro hz; (try dsimp only at hz); clear heq)))

theorem keeps_drpStart {b0 : State} {e : Eng} (w : List W64) (hK : Keeps b0 e.s) :
    Keeps b0 (drpStart e w).2.s := by
  unfold drpStart
  repeat' first
    | with_reducible assumption
    | (extract_lets +onlyGivenNames z; first | ((first | refine Keeps.cut (p := Keeps b0 z) ?_ ?_ | refine Keeps.cut (p := Keeps b0 z.2) ?_ ?_ | refine Keeps.cut (p := Keeps b0 z.2.2) ?_ ?_ | refine Keeps.cut (p := Keeps b0 z.1) ?_ ?_ | refine Keeps.cut (p := Keeps b0 z.s) ?_ ?_ | refine Keeps.cut (p := Keeps b0 z.2.s) ?_ ?_ | refine Keeps.cut (p := Keeps b0 z.2.2.s) ?_ ?_); (focus (intros; dsimp only [z]; (repeat' first | (simp (maxDischargeDepth := 99) only [KIss.hold, KIss.done, KIss.fault, KIss.wait, Keeps.upd, Keeps.updId, Keeps.ite, Keeps.foldl, Keeps.foldl2, Keeps.foldl3, Keeps.refl, implies_true, *]; done) | with_reducible apply Keeps.fold1 | with_reducible apply Keeps.fold2 | with_reducible apply Keeps.fold3 | with_reducible apply Keeps.fold21 | with_reducible apply Keeps.foldE | with_reducible apply Keeps.foldE2 | with_reducible apply Keeps.foldE3 | intro _ | split | dsimp only))); intro hz; clear_value z) | clear_value z | skip)
    | (simp (maxDischargeDepth := 99) only [KIss.hold, KIss.done, KIss.fault, KIss.wait, Keeps.upd, Keeps.updId, Keeps.ite, Keeps.foldl, Keeps.foldl2, Keeps.foldl3, Keeps.refl, implies_true, *]; done)
    | with_reducible apply Keeps.fold1
    | with_reducible apply Keeps.fold2
    | with_reducible apply Keeps.fold3
    | with_reducible apply Keeps.fold21
    | with_reducible apply Keeps.foldE
    | with_reducible apply Keeps.foldE2
    | with_reducible apply Keeps.foldE3
    | intro _
    | (split <;> (try (rename_i heq; (first | refine Keeps.cut (Keeps.of_eq (b := b0) heq ?_) ?_ | refine Keeps.cut (Keeps.of_eq3 (b := b0) heq ?_) ?_ | refine Keeps.cut (Keeps.of_eq1 (b := b0) heq ?_) ?_ | refine Keeps.cut (Keeps.of_eq4 (b := b0) heq ?_) ?_ | refine Keeps.cut (Keeps.of_eqE (b := b0) heq ?_) ?_ | refine Keeps.cut (Keeps.of_eqE3 (b := b0) heq ?_) ?_); (focus (clear heq; (repeat' first | (simp (maxDischargeDepth := 99) only [KIss.hold, KIss.done, KIss.fault, KIss.wait, Keeps.upd, Keeps.updId, Keeps.ite, Keeps.foldl, Keeps.foldl2, Keeps.foldl3, Keeps.refl, implies_true, *]; done) | with_reducible apply Keeps.fold1 | with_reducible apply Keeps.fold2 | with_reducible apply Keeps.fold3 | with_reducible apply Keeps.fold21 | with_reducible apply Keeps.foldE | with_reducible apply Keeps.foldE2 | with_reducible apply Keeps.foldE3 | intro _ | split | dsimp only))); intro hz; (try dsimp only at hz); clear heq)))

theorem keeps_Eng_uses {b0 : State} {e : Eng} (writes : Bool) (ctx : Nat) (lspace : Nat) (ldie : Nat) (a : Nat) (n : Nat) (hK : Keeps b0 e.s) :
    Keeps b0 (Eng.uses e writes ctx lspace ldie a n).s := by
  unfold Eng.uses; (repeat' split) <;> simp (maxDischargeDepth := 99) only [KIss.hold, KIss.done, KIss.fault, KIss.wait,
        Keeps.upd, Keeps.updId, Keeps.ite, Keeps.foldl, Keeps.foldl2, Keeps.foldl3, Keeps.refl, implies_true, keeps_engXlate,
         *]

theorem keeps_spoiledReqs {b0 : State} (spoil : Bool) (rs : List OutReq) {s : State} (hK : Keeps b0 s) :
    Keeps b0 (spoiledReqs spoil rs s).2 := by
  unfold spoiledReqs
  repeat' first
    | with_reducible assumption
    | (extract_lets +onlyGivenNames z; first | ((first | refine Keeps.cut (p := Keeps b0 z) ?_ ?_ | refine Keeps.cut (p := Keeps b0 z.2) ?_ ?_ | refine Keeps.cut (p := Keeps b0 z.2.2) ?_ ?_ | refine Keeps.cut (p := Keeps b0 z.1) ?_ ?_ | refine Keeps.cut (p := Keeps b0 z.s) ?_ ?_ | refine Keeps.cut (p := Keeps b0 z.2.s) ?_ ?_ | refine Keeps.cut (p := Keeps b0 z.2.2.s) ?_ ?_); (focus (intros; dsimp only [z]; (repeat' first | (simp (maxDischargeDepth := 99) only [KIss.hold, KIss.done, KIss.fault, KIss.wait, Keeps.upd, Keeps.updId, Keeps.ite, Keeps.foldl, Keeps.foldl2, Keeps.foldl3, Keeps.refl, implies_true, keeps_freeBytes, *]; done) | with_reducible apply Keeps.fold1 | with_reducible apply Keeps.fold2 | with_reducible apply Keeps.fold3 | with_reducible apply Keeps.fold21 | with_reducible apply Keeps.foldE | with_reducible apply Keeps.foldE2 | with_reducible apply Keeps.foldE3 | intro _ | split | dsimp only))); intro hz; clear_value z) | clear_value z | skip)
    | (simp (maxDischargeDepth := 99) only [KIss.hold, KIss.done, KIss.fault, KIss.wait, Keeps.upd, Keeps.updId, Keeps.ite, Keeps.foldl, Keeps.foldl2, Keeps.foldl3, Keeps.refl, implies_true, keeps_freeBytes, *]; done)
    | with_reducible apply Keeps.fold1
    | with_reducible apply Keeps.fold2
    | with_reducible apply Keeps.fold3
    | with_reducible apply Keeps.fold21
    | with_reducible apply Keeps.foldE
    | with_reducible apply Keeps.foldE2
    | with_reducible apply Keeps.foldE3
    | intro _
    | (split <;> (try (rename_i heq; (first | refine Keeps.cut (Keeps.of_eq (b := b0) heq ?_) ?_ | refine Keeps.cut (Keeps.of_eq3 (b := b0) heq ?_) ?_ | refine Keeps.cut (Keeps.of_eq1 (b := b0) heq ?_) ?_ | refine Keeps.cut (Keeps.of_eq4 (b := b0) heq ?_) ?_ | refine Keeps.cut (Keeps.of_eqE (b := b0) heq ?_) ?_ | refine Keeps.cut (Keeps.of_eqE3 (b := b0) heq ?_) ?_); (focus (clear heq; (repeat' first | (simp (maxDischargeDepth := 99) only [KIss.hold, KIss.done, KIss.fault, KIss.wait, Keeps.upd, Keeps.updId, Keeps.ite, Keeps.foldl, Keeps.foldl2, Keeps.foldl3, Keeps.refl, implies_true, keeps_freeBytes, *]; done) | with_reducible apply Keeps.fold1 | with_reducible apply Keeps.fold2 | with_reducible apply Keeps.fold3 | with_reducible apply Keeps.fold21 | with_reducible apply Keeps.foldE | with_reducible apply Keeps.foldE2 | with_reducible apply Keeps.foldE3 | intro _ | split | dsimp only))); intro hz; (try dsimp only at hz); clear heq)))

theorem keeps_a2aRecords {b0 : State} {s : State} (hK : Keeps b0 s) :
    Keeps b0 (a2aRecords s) := by
  unfold a2aRecords; simp (maxDischargeDepth := 99) only [KIss.hold, KIss.done, KIss.fault, KIss.wait, Keeps.upd,
        Keeps.updId, Keeps.ite, Keeps.foldl, Keeps.foldl2, Keeps.foldl3, Keeps.refl, implies_true, keeps_sendRecord, *]

theorem keeps_a2aStart {b0 : State} {e : Eng} (key : Nat) (dslot : Nat) (w : List W64) (hK : Keeps b0 e.s) :
    Keeps b0 (a2aStart e key dslot w).2.s := by
  unfold a2aStart
  repeat' first
    | with_reducible assumption
    | (extract_lets +onlyGivenNames z; first | ((first | refine Keeps.cut (p := Keeps b0 z) ?_ ?_ | refine Keeps.cut (p := Keeps b0 z.2) ?_ ?_ | refine Keeps.cut (p := Keeps b0 z.2.2) ?_ ?_ | refine Keeps.cut (p := Keeps b0 z.1) ?_ ?_ | refine Keeps.cut (p := Keeps b0 z.s) ?_ ?_ | refine Keeps.cut (p := Keeps b0 z.2.s) ?_ ?_ | refine Keeps.cut (p := Keeps b0 z.2.2.s) ?_ ?_); (focus (intros; dsimp only [z]; (repeat' first | (simp (maxDischargeDepth := 99) only [KIss.hold, KIss.done, KIss.fault, KIss.wait, Keeps.upd, Keeps.updId, Keeps.ite, Keeps.foldl, Keeps.foldl2, Keeps.foldl3, Keeps.refl, implies_true, keeps_setQueue, keeps_drpSeen, keeps_FlsRun_read, keeps_Eng_read, keeps_sendAll, keeps_Eng_part, keeps_Eng_uses, keeps_spoiledReqs, keeps_a2aRecords, *]; done) | with_reducible apply Keeps.fold1 | with_reducible apply Keeps.fold2 | with_reducible apply Keeps.fold3 | with_reducible apply Keeps.fold21 | with_reducible apply Keeps.foldE | with_reducible apply Keeps.foldE2 | with_reducible apply Keeps.foldE3 | intro _ | split | dsimp only))); intro hz; clear_value z) | clear_value z | skip)
    | (simp (maxDischargeDepth := 99) only [KIss.hold, KIss.done, KIss.fault, KIss.wait, Keeps.upd, Keeps.updId, Keeps.ite, Keeps.foldl, Keeps.foldl2, Keeps.foldl3, Keeps.refl, implies_true, keeps_setQueue, keeps_drpSeen, keeps_FlsRun_read, keeps_Eng_read, keeps_sendAll, keeps_Eng_part, keeps_Eng_uses, keeps_spoiledReqs, keeps_a2aRecords, *]; done)
    | with_reducible apply Keeps.fold1
    | with_reducible apply Keeps.fold2
    | with_reducible apply Keeps.fold3
    | with_reducible apply Keeps.fold21
    | with_reducible apply Keeps.foldE
    | with_reducible apply Keeps.foldE2
    | with_reducible apply Keeps.foldE3
    | intro _
    | (split <;> (try (rename_i heq; (first | refine Keeps.cut (Keeps.of_eq (b := b0) heq ?_) ?_ | refine Keeps.cut (Keeps.of_eq3 (b := b0) heq ?_) ?_ | refine Keeps.cut (Keeps.of_eq1 (b := b0) heq ?_) ?_ | refine Keeps.cut (Keeps.of_eq4 (b := b0) heq ?_) ?_ | refine Keeps.cut (Keeps.of_eqE (b := b0) heq ?_) ?_ | refine Keeps.cut (Keeps.of_eqE3 (b := b0) heq ?_) ?_); (focus (clear heq; (repeat' first | (simp (maxDischargeDepth := 99) only [KIss.hold, KIss.done, KIss.fault, KIss.wait, Keeps.upd, Keeps.updId, Keeps.ite, Keeps.foldl, Keeps.foldl2, Keeps.foldl3, Keeps.refl, implies_true, keeps_setQueue, keeps_drpSeen, keeps_FlsRun_read, keeps_Eng_read, keeps_sendAll, keeps_Eng_part, keeps_Eng_uses, keeps_spoiledReqs, keeps_a2aRecords, *]; done) | with_reducible apply Keeps.fold1 | with_reducible apply Keeps.fold2 | with_reducible apply Keeps.fold3 | with_reducible apply Keeps.fold21 | with_reducible apply Keeps.foldE | with_reducible apply Keeps.foldE2 | with_reducible apply Keeps.foldE3 | intro _ | split | dsimp only))); intro hz; (try dsimp only at hz); clear heq)))

theorem keeps_fabStart {b0 : State} {e : Eng} (key : Nat) (dslot : Nat) (w : List W64) (hK : Keeps b0 e.s) :
    Keeps b0 (fabStart e key dslot w).2.s := by
  unfold fabStart
  repeat' first
    | with_reducible assumption
    | (extract_lets +onlyGivenNames z; first | ((first | refine Keeps.cut (p := Keeps b0 z) ?_ ?_ | refine Keeps.cut (p := Keeps b0 z.2) ?_ ?_ | refine Keeps.cut (p := Keeps b0 z.2.2) ?_ ?_ | refine Keeps.cut (p := Keeps b0 z.1) ?_ ?_ | refine Keeps.cut (p := Keeps b0 z.s) ?_ ?_ | refine Keeps.cut (p := Keeps b0 z.2.s) ?_ ?_ | refine Keeps.cut (p := Keeps b0 z.2.2.s) ?_ ?_); (focus (intros; dsimp only [z]; (repeat' first | (simp (maxDischargeDepth := 99) only [KIss.hold, KIss.done, KIss.fault, KIss.wait, Keeps.upd, Keeps.updId, Keeps.ite, Keeps.foldl, Keeps.foldl2, Keeps.foldl3, Keeps.refl, implies_true, keeps_expect, keeps_sendAll, keeps_Eng_part, keeps_Eng_uses, keeps_spoiledReqs, keeps_a2aStart, *]; done) | with_reducible apply Keeps.fold1 | with_reducible apply Keeps.fold2 | with_reducible apply Keeps.fold3 | with_reducible apply Keeps.fold21 | with_reducible apply Keeps.foldE | with_reducible apply Keeps.foldE2 | with_reducible apply Keeps.foldE3 | intro _ | split | dsimp only))); intro hz; clear_value z) | clear_value z | skip)
    | (simp (maxDischargeDepth := 99) only [KIss.hold, KIss.done, KIss.fault, KIss.wait, Keeps.upd, Keeps.updId, Keeps.ite, Keeps.foldl, Keeps.foldl2, Keeps.foldl3, Keeps.refl, implies_true, keeps_expect, keeps_sendAll, keeps_Eng_part, keeps_Eng_uses, keeps_spoiledReqs, keeps_a2aStart, *]; done)
    | with_reducible apply Keeps.fold1
    | with_reducible apply Keeps.fold2
    | with_reducible apply Keeps.fold3
    | with_reducible apply Keeps.fold21
    | with_reducible apply Keeps.foldE
    | with_reducible apply Keeps.foldE2
    | with_reducible apply Keeps.foldE3
    | intro _
    | (split <;> (try (rename_i heq; (first | refine Keeps.cut (Keeps.of_eq (b := b0) heq ?_) ?_ | refine Keeps.cut (Keeps.of_eq3 (b := b0) heq ?_) ?_ | refine Keeps.cut (Keeps.of_eq1 (b := b0) heq ?_) ?_ | refine Keeps.cut (Keeps.of_eq4 (b := b0) heq ?_) ?_ | refine Keeps.cut (Keeps.of_eqE (b := b0) heq ?_) ?_ | refine Keeps.cut (Keeps.of_eqE3 (b := b0) heq ?_) ?_); (focus (clear heq; (repeat' first | (simp (maxDischargeDepth := 99) only [KIss.hold, KIss.done, KIss.fault, KIss.wait, Keeps.upd, Keeps.updId, Keeps.ite, Keeps.foldl, Keeps.foldl2, Keeps.foldl3, Keeps.refl, implies_true, keeps_expect, keeps_sendAll, keeps_Eng_part, keeps_Eng_uses, keeps_spoiledReqs, keeps_a2aStart, *]; done) | with_reducible apply Keeps.fold1 | with_reducible apply Keeps.fold2 | with_reducible apply Keeps.fold3 | with_reducible apply Keeps.fold21 | with_reducible apply Keeps.foldE | with_reducible apply Keeps.foldE2 | with_reducible apply Keeps.foldE3 | intro _ | split | dsimp only))); intro hz; (try dsimp only at hz); clear heq)))

theorem keeps_takePacket {b0 : State} {s : State} (n : Nat) (ty : Nat) (hK : Keeps b0 s) :
    ∀ u, takePacket s n ty = some u → Keeps b0 u.2.2 := by
  unfold takePacket
  repeat' first
    | with_reducible assumption
    | refine fun (y : State) (gr : Group) (hy : Keeps b0 y) => ?_
    | (extract_lets +onlyGivenNames z; first | ((first | refine Keeps.cut (p := Keeps b0 z) ?_ ?_ | refine Keeps.cut (p := Keeps b0 z.2) ?_ ?_ | refine Keeps.cut (p := Keeps b0 z.2.2) ?_ ?_ | refine Keeps.cut (p := Keeps b0 z.1) ?_ ?_ | refine Keeps.cut (p := Keeps b0 z.s) ?_ ?_ | refine Keeps.cut (p := Keeps b0 z.2.s) ?_ ?_ | refine Keeps.cut (p := Keeps b0 z.2.2.s) ?_ ?_); (focus (intros; dsimp only [z]; (repeat' first | (simp (maxDischargeDepth := 99) only [KIss.hold, KIss.done, KIss.fault, KIss.wait, Keeps.upd, Keeps.updId, Keeps.ite, Keeps.foldl, Keeps.foldl2, Keeps.foldl3, Keeps.refl, implies_true, *]; done) | with_reducible apply Keeps.fold1 | with_reducible apply Keeps.fold2 | with_reducible apply Keeps.fold3 | with_reducible apply Keeps.fold21 | with_reducible apply Keeps.foldE | with_reducible apply Keeps.foldE2 | with_reducible apply Keeps.foldE3 | intro _ | split | dsimp only))); intro hz; clear_value z) | clear_value z | skip)
    | (simp (maxDischargeDepth := 99) only [KIss.hold, KIss.done, KIss.fault, KIss.wait, Keeps.upd, Keeps.updId, Keeps.ite, Keeps.foldl, Keeps.foldl2, Keeps.foldl3, Keeps.refl, implies_true, *]; done)
    | (intro t ht; injection ht with ht; subst ht)
    | (intro t ht; contradiction)
    | with_reducible apply Keeps.fold1
    | with_reducible apply Keeps.fold2
    | with_reducible apply Keeps.fold3
    | with_reducible apply Keeps.fold21
    | with_reducible apply Keeps.foldE
    | with_reducible apply Keeps.foldE2
    | with_reducible apply Keeps.foldE3
    | (split <;> (try (rename_i heq; (first | refine Keeps.cut (Keeps.of_eq (b := b0) heq ?_) ?_ | refine Keeps.cut (Keeps.of_eq3 (b := b0) heq ?_) ?_ | refine Keeps.cut (Keeps.of_eq1 (b := b0) heq ?_) ?_ | refine Keeps.cut (Keeps.of_eq4 (b := b0) heq ?_) ?_ | refine Keeps.cut (Keeps.of_eqE (b := b0) heq ?_) ?_ | refine Keeps.cut (Keeps.of_eqE3 (b := b0) heq ?_) ?_); (focus (clear heq; (repeat' first | (simp (maxDischargeDepth := 99) only [KIss.hold, KIss.done, KIss.fault, KIss.wait, Keeps.upd, Keeps.updId, Keeps.ite, Keeps.foldl, Keeps.foldl2, Keeps.foldl3, Keeps.refl, implies_true, *]; done) | with_reducible apply Keeps.fold1 | with_reducible apply Keeps.fold2 | with_reducible apply Keeps.fold3 | with_reducible apply Keeps.fold21 | with_reducible apply Keeps.foldE | with_reducible apply Keeps.foldE2 | with_reducible apply Keeps.foldE3 | intro _ | split | dsimp only))); intro hz; (try dsimp only at hz); clear heq)))
    | intro _

theorem keeps_discard {b0 : State} {s : State} (inPort : Nat) (hK : Keeps b0 s) :
    Keeps b0 (discard s inPort) := by
  unfold discard; simp (maxDischargeDepth := 99) only [KIss.hold, KIss.done, KIss.fault, KIss.wait, Keeps.upd, Keeps.updId,
        Keeps.ite, Keeps.foldl, Keeps.foldl2, Keeps.foldl3, Keeps.refl, implies_true, keeps_portCount, *]

theorem keeps_respond {b0 : State} {s : State} (c : Nat) (p : Packet) (ty : Nat) (status : Nat) (psn : BitVec 32) (data : List Byte) (hK : Keeps b0 s) :
    Keeps b0 (respond s c p ty status psn data) := by
  unfold respond; simp (maxDischargeDepth := 99) only [KIss.hold, KIss.done, KIss.fault, KIss.wait, Keeps.upd, Keeps.updId,
        Keeps.ite, Keeps.foldl, Keeps.foldl2, Keeps.foldl3, Keeps.refl, implies_true, keeps_forward, *]

theorem keeps_onRequest {b0 : State} {s : State} (n ty : Nat) (perform : State → Nat → Packet → Nat × List Byte × State)
    (hf : ∀ y c p, Keeps y (perform y c p).2.2) (hK : Keeps b0 s) : Keeps b0 (onRequest s n ty perform) := by
  unfold onRequest
  split
  · exact hK
  · rename_i inPort p s1 h1
    have k1 : Keeps b0 s1 := keeps_takePacket _ _ hK _ h1
    split
    · exact keeps_discard _ k1
    · rename_i c _
      extract_lets +onlyGivenNames rpsn d allowed run
      have hrun : ∀ y, Keeps b0 y → Keeps b0 (run y).2.2 := by
        intro y hy
        dsimp only [run]
        split
        · exact hy.trans (hf _ _ _)
        · exact hy
      clear_value run
      split
      · split
        rename_i st data s2 h2
        have k2 := Keeps.of_eq3 h2 (hrun _ k1)
        split
        · exact keeps_respond _ _ _ _ _ _ k2
        · exact keeps_respond _ _ _ _ _ _ (keeps_setConnSeqF _ _ _ _ k2)
      · split
        · extract_lets now x
          split
          · split
            · exact k1
            · exact keeps_respond _ _ _ _ _ _ (keeps_setConn _ _ k1)
          · split
            · exact k1
            · exact keeps_respond _ _ _ _ _ _ (keeps_setConn _ _ k1)
        · split
          · split
            rename_i st data s2 h2
            exact keeps_respond _ _ _ _ _ _ (Keeps.of_eq3 h2 (hrun _ k1))
          · exact keeps_respond _ _ _ _ _ _ k1
          · exact keeps_respond _ _ _ _ _ _ k1

theorem keeps_remoteParts {b0 : State} {s : State} (c : Nat) (p : Packet) (n : Nat) (need : Need) (hK : Keeps b0 s) :
    Keeps b0 (remoteParts s c p n need).2.2 := by
  unfold remoteParts
  repeat' first
    | with_reducible assumption
    | (extract_lets +onlyGivenNames z; first | ((first | refine Keeps.cut (p := Keeps b0 z) ?_ ?_ | refine Keeps.cut (p := Keeps b0 z.2) ?_ ?_ | refine Keeps.cut (p := Keeps b0 z.2.2) ?_ ?_ | refine Keeps.cut (p := Keeps b0 z.1) ?_ ?_ | refine Keeps.cut (p := Keeps b0 z.s) ?_ ?_ | refine Keeps.cut (p := Keeps b0 z.2.s) ?_ ?_ | refine Keeps.cut (p := Keeps b0 z.2.2.s) ?_ ?_); (focus (intros; dsimp only [z]; (repeat' first | (simp (maxDischargeDepth := 99) only [KIss.hold, KIss.done, KIss.fault, KIss.wait, Keeps.upd, Keeps.updId, Keeps.ite, Keeps.foldl, Keeps.foldl2, Keeps.foldl3, Keeps.refl, implies_true, keeps_engXlate, *]; done) | with_reducible apply Keeps.fold1 | with_reducible apply Keeps.fold2 | with_reducible apply Keeps.fold3 | with_reducible apply Keeps.fold21 | with_reducible apply Keeps.foldE | with_reducible apply Keeps.foldE2 | with_reducible apply Keeps.foldE3 | intro _ | split | dsimp only))); intro hz; clear_value z) | clear_value z | skip)
    | (simp (maxDischargeDepth := 99) only [KIss.hold, KIss.done, KIss.fault, KIss.wait, Keeps.upd, Keeps.updId, Keeps.ite, Keeps.foldl, Keeps.foldl2, Keeps.foldl3, Keeps.refl, implies_true, keeps_engXlate, *]; done)
    | with_reducible apply Keeps.fold1
    | with_reducible apply Keeps.fold2
    | with_reducible apply Keeps.fold3
    | with_reducible apply Keeps.fold21
    | with_reducible apply Keeps.foldE
    | with_reducible apply Keeps.foldE2
    | with_reducible apply Keeps.foldE3
    | intro _
    | (split <;> (try (rename_i heq; (first | refine Keeps.cut (Keeps.of_eq (b := b0) heq ?_) ?_ | refine Keeps.cut (Keeps.of_eq3 (b := b0) heq ?_) ?_ | refine Keeps.cut (Keeps.of_eq1 (b := b0) heq ?_) ?_ | refine Keeps.cut (Keeps.of_eq4 (b := b0) heq ?_) ?_ | refine Keeps.cut (Keeps.of_eqE (b := b0) heq ?_) ?_ | refine Keeps.cut (Keeps.of_eqE3 (b := b0) heq ?_) ?_); (focus (clear heq; (repeat' first | (simp (maxDischargeDepth := 99) only [KIss.hold, KIss.done, KIss.fault, KIss.wait, Keeps.upd, Keeps.updId, Keeps.ite, Keeps.foldl, Keeps.foldl2, Keeps.foldl3, Keeps.refl, implies_true, keeps_engXlate, *]; done) | with_reducible apply Keeps.fold1 | with_reducible apply Keeps.fold2 | with_reducible apply Keeps.fold3 | with_reducible apply Keeps.fold21 | with_reducible apply Keeps.foldE | with_reducible apply Keeps.foldE2 | with_reducible apply Keeps.foldE3 | intro _ | split | dsimp only))); intro hz; (try dsimp only at hz); clear heq)))

theorem keeps_performWrite {b0 : State} {s : State} (c : Nat) (p : Packet) (hK : Keeps b0 s) :
    Keeps b0 (performWrite s c p).2.2 := by
  unfold performWrite
  repeat' first
    | with_reducible assumption
    | (simp (maxDischargeDepth := 99) only [KIss.hold, KIss.done, KIss.fault, KIss.wait, Keeps.upd, Keeps.updId, Keeps.ite, Keeps.foldl, Keeps.foldl2, Keeps.foldl3, Keeps.refl, implies_true, keeps_busWrite, keeps_remoteParts, *]; done)
    | (split <;> (try (rename_i heq; (first | refine Keeps.cut (Keeps.of_eq (b := b0) heq ?_) ?_ | refine Keeps.cut (Keeps.of_eq3 (b := b0) heq ?_) ?_ | refine Keeps.cut (Keeps.of_eq1 (b := b0) heq ?_) ?_ | refine Keeps.cut (Keeps.of_eq4 (b := b0) heq ?_) ?_ | refine Keeps.cut (Keeps.of_eqE (b := b0) heq ?_) ?_ | refine Keeps.cut (Keeps.of_eqE3 (b := b0) heq ?_) ?_); (focus (clear heq; (repeat' first | (simp (maxDischargeDepth := 99) only [KIss.hold, KIss.done, KIss.fault, KIss.wait, Keeps.upd, Keeps.updId, Keeps.ite, Keeps.foldl, Keeps.foldl2, Keeps.foldl3, Keeps.refl, implies_true, keeps_busWrite, keeps_remoteParts, *]; done) | with_reducible apply Keeps.fold1 | with_reducible apply Keeps.fold2 | with_reducible apply Keeps.fold3 | with_reducible apply Keeps.fold21 | with_reducible apply Keeps.foldE | with_reducible apply Keeps.foldE2 | with_reducible apply Keeps.foldE3 | intro _ | split | dsimp only))); intro hz; (try dsimp only at hz); clear heq)))

theorem keeps_performRead {b0 : State} {s : State} (c : Nat) (p : Packet) (hK : Keeps b0 s) :
    Keeps b0 (performRead s c p).2.2 := by
  unfold performRead
  repeat' first
    | with_reducible assumption
    | (simp (maxDischargeDepth := 99) only [KIss.hold, KIss.done, KIss.fault, KIss.wait, Keeps.upd, Keeps.updId, Keeps.ite, Keeps.foldl, Keeps.foldl2, Keeps.foldl3, Keeps.refl, implies_true, keeps_busRead, keeps_remoteParts, *]; done)
    | (split <;> (try (rename_i heq; (first | refine Keeps.cut (Keeps.of_eq (b := b0) heq ?_) ?_ | refine Keeps.cut (Keeps.of_eq3 (b := b0) heq ?_) ?_ | refine Keeps.cut (Keeps.of_eq1 (b := b0) heq ?_) ?_ | refine Keeps.cut (Keeps.of_eq4 (b := b0) heq ?_) ?_ | refine Keeps.cut (Keeps.of_eqE (b := b0) heq ?_) ?_ | refine Keeps.cut (Keeps.of_eqE3 (b := b0) heq ?_) ?_); (focus (clear heq; (repeat' first | (simp (maxDischargeDepth := 99) only [KIss.hold, KIss.done, KIss.fault, KIss.wait, Keeps.upd, Keeps.updId, Keeps.ite, Keeps.foldl, Keeps.foldl2, Keeps.foldl3, Keeps.refl, implies_true, keeps_busRead, keeps_remoteParts, *]; done) | with_reducible apply Keeps.fold1 | with_reducible apply Keeps.fold2 | with_reducible apply Keeps.fold3 | with_reducible apply Keeps.fold21 | with_reducible apply Keeps.foldE | with_reducible apply Keeps.foldE2 | with_reducible apply Keeps.foldE3 | intro _ | split | dsimp only))); intro hz; (try dsimp only at hz); clear heq)))

theorem keeps_performAtomic {b0 : State} {s : State} (c : Nat) (p : Packet) (hK : Keeps b0 s) :
    Keeps b0 (performAtomic s c p).2.2 := by
  unfold performAtomic
  repeat' first
    | with_reducible assumption
    | (extract_lets +onlyGivenNames z; first | ((first | refine Keeps.cut (p := Keeps b0 z) ?_ ?_ | refine Keeps.cut (p := Keeps b0 z.2) ?_ ?_ | refine Keeps.cut (p := Keeps b0 z.2.2) ?_ ?_ | refine Keeps.cut (p := Keeps b0 z.1) ?_ ?_ | refine Keeps.cut (p := Keeps b0 z.s) ?_ ?_ | refine Keeps.cut (p := Keeps b0 z.2.s) ?_ ?_ | refine Keeps.cut (p := Keeps b0 z.2.2.s) ?_ ?_); (focus (intros; dsimp only [z]; (repeat' first | (simp (maxDischargeDepth := 99) only [KIss.hold, KIss.done, KIss.fault, KIss.wait, Keeps.upd, Keeps.updId, Keeps.ite, Keeps.foldl, Keeps.foldl2, Keeps.foldl3, Keeps.refl, implies_true, keeps_busAtomic, keeps_remoteParts, *]; done) | with_reducible apply Keeps.fold1 | with_reducible apply Keeps.fold2 | with_reducible apply Keeps.fold3 | with_reducible apply Keeps.fold21 | with_reducible apply Keeps.foldE | with_reducible apply Keeps.foldE2 | with_reducible apply Keeps.foldE3 | intro _ | split | dsimp only))); intro hz; clear_value z) | clear_value z | skip)
    | (simp (maxDischargeDepth := 99) only [KIss.hold, KIss.done, KIss.fault, KIss.wait, Keeps.upd, Keeps.updId, Keeps.ite, Keeps.foldl, Keeps.foldl2, Keeps.foldl3, Keeps.refl, implies_true, keeps_busAtomic, keeps_remoteParts, *]; done)
    | with_reducible apply Keeps.fold1
    | with_reducible apply Keeps.fold2
    | with_reducible apply Keeps.fold3
    | with_reducible apply Keeps.fold21
    | with_reducible apply Keeps.foldE
    | with_reducible apply Keeps.foldE2
    | with_reducible apply Keeps.foldE3
    | intro _
    | (split <;> (try (rename_i heq; (first | refine Keeps.cut (Keeps.of_eq (b := b0) heq ?_) ?_ | refine Keeps.cut (Keeps.of_eq3 (b := b0) heq ?_) ?_ | refine Keeps.cut (Keeps.of_eq1 (b := b0) heq ?_) ?_ | refine Keeps.cut (Keeps.of_eq4 (b := b0) heq ?_) ?_ | refine Keeps.cut (Keeps.of_eqE (b := b0) heq ?_) ?_ | refine Keeps.cut (Keeps.of_eqE3 (b := b0) heq ?_) ?_); (focus (clear heq; (repeat' first | (simp (maxDischargeDepth := 99) only [KIss.hold, KIss.done, KIss.fault, KIss.wait, Keeps.upd, Keeps.updId, Keeps.ite, Keeps.foldl, Keeps.foldl2, Keeps.foldl3, Keeps.refl, implies_true, keeps_busAtomic, keeps_remoteParts, *]; done) | with_reducible apply Keeps.fold1 | with_reducible apply Keeps.fold2 | with_reducible apply Keeps.fold3 | with_reducible apply Keeps.fold21 | with_reducible apply Keeps.foldE | with_reducible apply Keeps.foldE2 | with_reducible apply Keeps.foldE3 | intro _ | split | dsimp only))); intro hz; (try dsimp only at hz); clear heq)))

theorem keeps_performMessage {b0 : State} {s : State} (c : Nat) (p : Packet) (hK : Keeps b0 s) :
    Keeps b0 (performMessage s c p).2.2 := by
  unfold performMessage
  repeat' first
    | with_reducible assumption
    | (extract_lets +onlyGivenNames z; first | ((first | refine Keeps.cut (p := Keeps b0 z) ?_ ?_ | refine Keeps.cut (p := Keeps b0 z.2) ?_ ?_ | refine Keeps.cut (p := Keeps b0 z.2.2) ?_ ?_ | refine Keeps.cut (p := Keeps b0 z.1) ?_ ?_ | refine Keeps.cut (p := Keeps b0 z.s) ?_ ?_ | refine Keeps.cut (p := Keeps b0 z.2.s) ?_ ?_ | refine Keeps.cut (p := Keeps b0 z.2.2.s) ?_ ?_); (focus (intros; dsimp only [z]; (repeat' first | (simp (maxDischargeDepth := 99) only [KIss.hold, KIss.done, KIss.fault, KIss.wait, Keeps.upd, Keeps.updId, Keeps.ite, Keeps.foldl, Keeps.foldl2, Keeps.foldl3, Keeps.refl, implies_true, keeps_qsSet, keeps_grtPut, *]; done) | with_reducible apply Keeps.fold1 | with_reducible apply Keeps.fold2 | with_reducible apply Keeps.fold3 | with_reducible apply Keeps.fold21 | with_reducible apply Keeps.foldE | with_reducible apply Keeps.foldE2 | with_reducible apply Keeps.foldE3 | intro _ | split | dsimp only))); intro hz; clear_value z) | clear_value z | skip)
    | (simp (maxDischargeDepth := 99) only [KIss.hold, KIss.done, KIss.fault, KIss.wait, Keeps.upd, Keeps.updId, Keeps.ite, Keeps.foldl, Keeps.foldl2, Keeps.foldl3, Keeps.refl, implies_true, keeps_qsSet, keeps_grtPut, *]; done)
    | with_reducible apply Keeps.fold1
    | with_reducible apply Keeps.fold2
    | with_reducible apply Keeps.fold3
    | with_reducible apply Keeps.fold21
    | with_reducible apply Keeps.foldE
    | with_reducible apply Keeps.foldE2
    | with_reducible apply Keeps.foldE3
    | intro _
    | (split <;> (try (rename_i heq; (first | refine Keeps.cut (Keeps.of_eq (b := b0) heq ?_) ?_ | refine Keeps.cut (Keeps.of_eq3 (b := b0) heq ?_) ?_ | refine Keeps.cut (Keeps.of_eq1 (b := b0) heq ?_) ?_ | refine Keeps.cut (Keeps.of_eq4 (b := b0) heq ?_) ?_ | refine Keeps.cut (Keeps.of_eqE (b := b0) heq ?_) ?_ | refine Keeps.cut (Keeps.of_eqE3 (b := b0) heq ?_) ?_); (focus (clear heq; (repeat' first | (simp (maxDischargeDepth := 99) only [KIss.hold, KIss.done, KIss.fault, KIss.wait, Keeps.upd, Keeps.updId, Keeps.ite, Keeps.foldl, Keeps.foldl2, Keeps.foldl3, Keeps.refl, implies_true, keeps_qsSet, keeps_grtPut, *]; done) | with_reducible apply Keeps.fold1 | with_reducible apply Keeps.fold2 | with_reducible apply Keeps.fold3 | with_reducible apply Keeps.fold21 | with_reducible apply Keeps.foldE | with_reducible apply Keeps.foldE2 | with_reducible apply Keeps.foldE3 | intro _ | split | dsimp only))); intro hz; (try dsimp only at hz); clear heq)))

theorem keeps_performContrib {b0 : State} {s : State} (c : Nat) (p : Packet) (hK : Keeps b0 s) :
    Keeps b0 (performContrib s c p).2.2 := by
  unfold performContrib
  repeat' first
    | with_reducible assumption
    | (extract_lets +onlyGivenNames z; first | ((first | refine Keeps.cut (p := Keeps b0 z) ?_ ?_ | refine Keeps.cut (p := Keeps b0 z.2) ?_ ?_ | refine Keeps.cut (p := Keeps b0 z.2.2) ?_ ?_ | refine Keeps.cut (p := Keeps b0 z.1) ?_ ?_ | refine Keeps.cut (p := Keeps b0 z.s) ?_ ?_ | refine Keeps.cut (p := Keeps b0 z.2.s) ?_ ?_ | refine Keeps.cut (p := Keeps b0 z.2.2.s) ?_ ?_ | refine Keeps.cut (p := ∀ b y a, Keeps b y → Keeps b (z y a)) ?_ ?_ | refine Keeps.cut (p := ∀ b a y, Keeps b y → Keeps b (z a y)) ?_ ?_ | refine Keeps.cut (p := ∀ b y, Keeps b y → Keeps b (z y)) ?_ ?_ | refine Keeps.cut (p := ∀ b y a c, Keeps b y → Keeps b (z y a c)) ?_ ?_ | refine Keeps.cut (p := ∀ b y, Keeps b y → Keeps b (z y).2) ?_ ?_ | refine Keeps.cut (p := ∀ b y a, Keeps b y → Keeps b (z y a).2) ?_ ?_ | refine Keeps.cut (p := ∀ b y, Keeps b y → Keeps b (z y).2.2) ?_ ?_ | refine Keeps.cut (p := ∀ a, Keeps b0 (z a)) ?_ ?_ | refine Keeps.cut (p := ∀ a c, Keeps b0 (z a c)) ?_ ?_ | refine Keeps.cut (p := ∀ a, Keeps b0 (z a).2) ?_ ?_ | refine Keeps.cut (p := ∀ a c d, Keeps b0 (z a c d)) ?_ ?_ | refine Keeps.cut (p := ∀ a, Keeps b0 (z a).2.2) ?_ ?_ | refine Keeps.cut (p := ∀ y, Keeps b0 y.s → Keeps b0 (z y).s) ?_ ?_ | refine Keeps.cut (p := ∀ y a c, Keeps b0 y.s → Keeps b0 (z y a c).s) ?_ ?_ | refine Keeps.cut (p := ∀ c y, Keeps b0 y.s → Keeps b0 (z c y).2.s) ?_ ?_ | refine Keeps.cut (p := ∀ a, Keeps b0 (z a).2.s) ?_ ?_ | refine Keeps.cut (p := ∀ a c y, Keeps b0 y.s → Keeps b0 (z a c y).2.s) ?_ ?_ | refine Keeps.cut (p := ∀ y a, Keeps b0 y → Keeps b0 (z y a).2.s) ?_ ?_); (focus (intros; dsimp only [z]; (repeat' first | (simp (maxDischargeDepth := 99) only [KIss.hold, KIss.done, KIss.fault, KIss.wait, Keeps.upd, Keeps.updId, Keeps.ite, Keeps.foldl, Keeps.foldl2, Keeps.foldl3, Keeps.refl, implies_true, keeps_setConn, keeps_collPlace, keeps_collArrive, *]; done) | with_reducible apply Keeps.fold1 | with_reducible apply Keeps.fold2 | with_reducible apply Keeps.fold3 | with_reducible apply Keeps.fold21 | with_reducible apply Keeps.foldE | with_reducible apply Keeps.foldE2 | with_reducible apply Keeps.foldE3 | intro _ | split | dsimp only))); intro hz; clear_value z) | clear_value z | skip)
    | (simp (maxDischargeDepth := 99) only [KIss.hold, KIss.done, KIss.fault, KIss.wait, Keeps.upd, Keeps.updId, Keeps.ite, Keeps.foldl, Keeps.foldl2, Keeps.foldl3, Keeps.refl, implies_true, keeps_setConn, keeps_collPlace, keeps_collArrive, *]; done)
    | with_reducible apply Keeps.fold1
    | with_reducible apply Keeps.fold2
    | with_reducible apply Keeps.fold3
    | with_reducible apply Keeps.fold21
    | with_reducible apply Keeps.foldE
    | with_reducible apply Keeps.foldE2
    | with_reducible apply Keeps.foldE3
    | intro _
    | (split <;> (try (rename_i heq; (first | refine Keeps.cut (Keeps.of_eq (b := b0) heq ?_) ?_ | refine Keeps.cut (Keeps.of_eq3 (b := b0) heq ?_) ?_ | refine Keeps.cut (Keeps.of_eq1 (b := b0) heq ?_) ?_ | refine Keeps.cut (Keeps.of_eq4 (b := b0) heq ?_) ?_ | refine Keeps.cut (Keeps.of_eqE (b := b0) heq ?_) ?_ | refine Keeps.cut (Keeps.of_eqE3 (b := b0) heq ?_) ?_); (focus (clear heq; (repeat' first | (simp (maxDischargeDepth := 99) only [KIss.hold, KIss.done, KIss.fault, KIss.wait, Keeps.upd, Keeps.updId, Keeps.ite, Keeps.foldl, Keeps.foldl2, Keeps.foldl3, Keeps.refl, implies_true, keeps_setConn, keeps_collPlace, keeps_collArrive, *]; done) | with_reducible apply Keeps.fold1 | with_reducible apply Keeps.fold2 | with_reducible apply Keeps.fold3 | with_reducible apply Keeps.fold21 | with_reducible apply Keeps.foldE | with_reducible apply Keeps.foldE2 | with_reducible apply Keeps.foldE3 | intro _ | split | dsimp only))); intro hz; (try dsimp only at hz); clear heq)))

theorem keeps_localWrite {b0 : State} {s : State} (c : Nat) (r : OutReq) (data : List Byte) (hK : Keeps b0 s) :
    Keeps b0 (localWrite s c r data).2 := by
  unfold localWrite
  repeat' first
    | with_reducible assumption
    | (extract_lets +onlyGivenNames z; first | ((first | refine Keeps.cut (p := Keeps b0 z) ?_ ?_ | refine Keeps.cut (p := Keeps b0 z.2) ?_ ?_ | refine Keeps.cut (p := Keeps b0 z.2.2) ?_ ?_ | refine Keeps.cut (p := Keeps b0 z.1) ?_ ?_ | refine Keeps.cut (p := Keeps b0 z.s) ?_ ?_ | refine Keeps.cut (p := Keeps b0 z.2.s) ?_ ?_ | refine Keeps.cut (p := Keeps b0 z.2.2.s) ?_ ?_); (focus (intros; dsimp only [z]; (repeat' first | (simp (maxDischargeDepth := 99) only [KIss.hold, KIss.done, KIss.fault, KIss.wait, Keeps.upd, Keeps.updId, Keeps.ite, Keeps.foldl, Keeps.foldl2, Keeps.foldl3, Keeps.refl, implies_true, keeps_grtPut, keeps_engWrite, *]; done) | with_reducible apply Keeps.fold1 | with_reducible apply Keeps.fold2 | with_reducible apply Keeps.fold3 | with_reducible apply Keeps.fold21 | with_reducible apply Keeps.foldE | with_reducible apply Keeps.foldE2 | with_reducible apply Keeps.foldE3 | intro _ | split | dsimp only))); intro hz; clear_value z) | clear_value z | skip)
    | (simp (maxDischargeDepth := 99) only [KIss.hold, KIss.done, KIss.fault, KIss.wait, Keeps.upd, Keeps.updId, Keeps.ite, Keeps.foldl, Keeps.foldl2, Keeps.foldl3, Keeps.refl, implies_true, keeps_grtPut, keeps_engWrite, *]; done)
    | with_reducible apply Keeps.fold1
    | with_reducible apply Keeps.fold2
    | with_reducible apply Keeps.fold3
    | with_reducible apply Keeps.fold21
    | with_reducible apply Keeps.foldE
    | with_reducible apply Keeps.foldE2
    | with_reducible apply Keeps.foldE3
    | intro _
    | (split <;> (try (rename_i heq; (first | refine Keeps.cut (Keeps.of_eq (b := b0) heq ?_) ?_ | refine Keeps.cut (Keeps.of_eq3 (b := b0) heq ?_) ?_ | refine Keeps.cut (Keeps.of_eq1 (b := b0) heq ?_) ?_ | refine Keeps.cut (Keeps.of_eq4 (b := b0) heq ?_) ?_ | refine Keeps.cut (Keeps.of_eqE (b := b0) heq ?_) ?_ | refine Keeps.cut (Keeps.of_eqE3 (b := b0) heq ?_) ?_); (focus (clear heq; (repeat' first | (simp (maxDischargeDepth := 99) only [KIss.hold, KIss.done, KIss.fault, KIss.wait, Keeps.upd, Keeps.updId, Keeps.ite, Keeps.foldl, Keeps.foldl2, Keeps.foldl3, Keeps.refl, implies_true, keeps_grtPut, keeps_engWrite, *]; done) | with_reducible apply Keeps.fold1 | with_reducible apply Keeps.fold2 | with_reducible apply Keeps.fold3 | with_reducible apply Keeps.fold21 | with_reducible apply Keeps.foldE | with_reducible apply Keeps.foldE2 | with_reducible apply Keeps.foldE3 | intro _ | split | dsimp only))); intro hz; (try dsimp only at hz); clear heq)))

theorem keeps_onAnswer {b0 : State} {s : State} (n : Nat) (ty : Nat) (hK : Keeps b0 s) :
    Keeps b0 (onAnswer s n ty) := by
  unfold onAnswer
  repeat' first
    | with_reducible assumption
    | (simp (maxDischargeDepth := 99) only [KIss.hold, KIss.done, KIss.fault, KIss.wait, Keeps.upd, Keeps.updId, Keeps.ite, Keeps.foldl, Keeps.foldl2, Keeps.foldl3, Keeps.refl, implies_true, keeps_pumpAll, keeps_answered, keeps_a2aRecords, keeps_discard, keeps_localWrite, *]; done)
    | (split <;> (try (rename_i heq; (first | refine Keeps.cut (Keeps.of_eq (b := b0) heq ?_) ?_ | refine Keeps.cut (Keeps.of_eq3 (b := b0) heq ?_) ?_ | refine Keeps.cut (Keeps.of_eq1 (b := b0) heq ?_) ?_ | refine Keeps.cut (Keeps.of_eq4 (b := b0) heq ?_) ?_ | refine Keeps.cut (Keeps.of_eqE (b := b0) heq ?_) ?_ | refine Keeps.cut (Keeps.of_eqE3 (b := b0) heq ?_) ?_ | refine Keeps.cut (keeps_takePacket (b0 := b0) _ _ ?_ _ heq) ?_); (focus (clear heq; (repeat' first | (simp (maxDischargeDepth := 99) only [KIss.hold, KIss.done, KIss.fault, KIss.wait, Keeps.upd, Keeps.updId, Keeps.ite, Keeps.foldl, Keeps.foldl2, Keeps.foldl3, Keeps.refl, implies_true, keeps_pumpAll, keeps_answered, keeps_a2aRecords, keeps_discard, keeps_localWrite, *]; done) | with_reducible apply Keeps.fold1 | with_reducible apply Keeps.fold2 | with_reducible apply Keeps.fold3 | with_reducible apply Keeps.fold21 | with_reducible apply Keeps.foldE | with_reducible apply Keeps.foldE2 | with_reducible apply Keeps.foldE3 | intro _ | split | dsimp only))); intro hz; (try dsimp only at hz); clear heq)))

theorem keeps_onNak {b0 : State} {s : State} (n : Nat) (hK : Keeps b0 s) :
    Keeps b0 (onNak s n) := by
  unfold onNak
  repeat' first
    | with_reducible assumption
    | (simp (maxDischargeDepth := 99) only [KIss.hold, KIss.done, KIss.fault, KIss.wait, Keeps.upd, Keeps.updId, Keeps.ite, Keeps.foldl, Keeps.foldl2, Keeps.foldl3, Keeps.refl, implies_true, keeps_setConn, keeps_connError, keeps_resendFrom, keeps_a2aRecords, keeps_discard, *]; done)
    | (split <;> (try (rename_i heq; (first | refine Keeps.cut (Keeps.of_eq (b := b0) heq ?_) ?_ | refine Keeps.cut (Keeps.of_eq3 (b := b0) heq ?_) ?_ | refine Keeps.cut (Keeps.of_eq1 (b := b0) heq ?_) ?_ | refine Keeps.cut (Keeps.of_eq4 (b := b0) heq ?_) ?_ | refine Keeps.cut (Keeps.of_eqE (b := b0) heq ?_) ?_ | refine Keeps.cut (Keeps.of_eqE3 (b := b0) heq ?_) ?_ | refine Keeps.cut (keeps_takePacket (b0 := b0) _ _ ?_ _ heq) ?_); (focus (clear heq; (repeat' first | (simp (maxDischargeDepth := 99) only [KIss.hold, KIss.done, KIss.fault, KIss.wait, Keeps.upd, Keeps.updId, Keeps.ite, Keeps.foldl, Keeps.foldl2, Keeps.foldl3, Keeps.refl, implies_true, keeps_setConn, keeps_connError, keeps_resendFrom, keeps_a2aRecords, keeps_discard, *]; done) | with_reducible apply Keeps.fold1 | with_reducible apply Keeps.fold2 | with_reducible apply Keeps.fold3 | with_reducible apply Keeps.fold21 | with_reducible apply Keeps.foldE | with_reducible apply Keeps.foldE2 | with_reducible apply Keeps.foldE3 | intro _ | split | dsimp only))); intro hz; (try dsimp only at hz); clear heq)))

theorem keeps_rxFullRetry {b0 : State} {s : State} (c : Nat) (hK : Keeps b0 s) :
    Keeps b0 (rxFullRetry s c) := by
  unfold rxFullRetry
  repeat' first
    | with_reducible assumption
    | (extract_lets +onlyGivenNames z; first | ((first | refine Keeps.cut (p := Keeps b0 z) ?_ ?_ | refine Keeps.cut (p := Keeps b0 z.2) ?_ ?_ | refine Keeps.cut (p := Keeps b0 z.2.2) ?_ ?_ | refine Keeps.cut (p := Keeps b0 z.1) ?_ ?_ | refine Keeps.cut (p := Keeps b0 z.s) ?_ ?_ | refine Keeps.cut (p := Keeps b0 z.2.s) ?_ ?_ | refine Keeps.cut (p := Keeps b0 z.2.2.s) ?_ ?_); (focus (intros; dsimp only [z]; (repeat' first | (simp (maxDischargeDepth := 99) only [KIss.hold, KIss.done, KIss.fault, KIss.wait, Keeps.upd, Keeps.updId, Keeps.ite, Keeps.foldl, Keeps.foldl2, Keeps.foldl3, Keeps.refl, implies_true, keeps_setConn, keeps_pumpAll, keeps_resendFrom, keeps_a2aRecords, *]; done) | with_reducible apply Keeps.fold1 | with_reducible apply Keeps.fold2 | with_reducible apply Keeps.fold3 | with_reducible apply Keeps.fold21 | with_reducible apply Keeps.foldE | with_reducible apply Keeps.foldE2 | with_reducible apply Keeps.foldE3 | intro _ | split | dsimp only))); intro hz; clear_value z) | clear_value z | skip)
    | (simp (maxDischargeDepth := 99) only [KIss.hold, KIss.done, KIss.fault, KIss.wait, Keeps.upd, Keeps.updId, Keeps.ite, Keeps.foldl, Keeps.foldl2, Keeps.foldl3, Keeps.refl, implies_true, keeps_setConn, keeps_pumpAll, keeps_resendFrom, keeps_a2aRecords, *]; done)
    | with_reducible apply Keeps.fold1
    | with_reducible apply Keeps.fold2
    | with_reducible apply Keeps.fold3
    | with_reducible apply Keeps.fold21
    | with_reducible apply Keeps.foldE
    | with_reducible apply Keeps.foldE2
    | with_reducible apply Keeps.foldE3
    | intro _
    | (split <;> (try (rename_i heq; (first | refine Keeps.cut (Keeps.of_eq (b := b0) heq ?_) ?_ | refine Keeps.cut (Keeps.of_eq3 (b := b0) heq ?_) ?_ | refine Keeps.cut (Keeps.of_eq1 (b := b0) heq ?_) ?_ | refine Keeps.cut (Keeps.of_eq4 (b := b0) heq ?_) ?_ | refine Keeps.cut (Keeps.of_eqE (b := b0) heq ?_) ?_ | refine Keeps.cut (Keeps.of_eqE3 (b := b0) heq ?_) ?_); (focus (clear heq; (repeat' first | (simp (maxDischargeDepth := 99) only [KIss.hold, KIss.done, KIss.fault, KIss.wait, Keeps.upd, Keeps.updId, Keeps.ite, Keeps.foldl, Keeps.foldl2, Keeps.foldl3, Keeps.refl, implies_true, keeps_setConn, keeps_pumpAll, keeps_resendFrom, keeps_a2aRecords, *]; done) | with_reducible apply Keeps.fold1 | with_reducible apply Keeps.fold2 | with_reducible apply Keeps.fold3 | with_reducible apply Keeps.fold21 | with_reducible apply Keeps.foldE | with_reducible apply Keeps.foldE2 | with_reducible apply Keeps.foldE3 | intro _ | split | dsimp only))); intro hz; (try dsimp only at hz); clear heq)))

theorem keeps_rtoExpiry {b0 : State} {s : State} (c : Nat) (hK : Keeps b0 s) :
    Keeps b0 (rtoExpiry s c) := by
  unfold rtoExpiry
  repeat' first
    | with_reducible assumption
    | (extract_lets +onlyGivenNames z; first | ((first | refine Keeps.cut (p := Keeps b0 z) ?_ ?_ | refine Keeps.cut (p := Keeps b0 z.2) ?_ ?_ | refine Keeps.cut (p := Keeps b0 z.2.2) ?_ ?_ | refine Keeps.cut (p := Keeps b0 z.1) ?_ ?_ | refine Keeps.cut (p := Keeps b0 z.s) ?_ ?_ | refine Keeps.cut (p := Keeps b0 z.2.s) ?_ ?_ | refine Keeps.cut (p := Keeps b0 z.2.2.s) ?_ ?_); (focus (intros; dsimp only [z]; (repeat' first | (simp (maxDischargeDepth := 99) only [KIss.hold, KIss.done, KIss.fault, KIss.wait, Keeps.upd, Keeps.updId, Keeps.ite, Keeps.foldl, Keeps.foldl2, Keeps.foldl3, Keeps.refl, implies_true, keeps_connError, keeps_resendFrom, keeps_a2aRecords, *]; done) | with_reducible apply Keeps.fold1 | with_reducible apply Keeps.fold2 | with_reducible apply Keeps.fold3 | with_reducible apply Keeps.fold21 | with_reducible apply Keeps.foldE | with_reducible apply Keeps.foldE2 | with_reducible apply Keeps.foldE3 | intro _ | split | dsimp only))); intro hz; clear_value z) | clear_value z | skip)
    | (simp (maxDischargeDepth := 99) only [KIss.hold, KIss.done, KIss.fault, KIss.wait, Keeps.upd, Keeps.updId, Keeps.ite, Keeps.foldl, Keeps.foldl2, Keeps.foldl3, Keeps.refl, implies_true, keeps_connError, keeps_resendFrom, keeps_a2aRecords, *]; done)
    | with_reducible apply Keeps.fold1
    | with_reducible apply Keeps.fold2
    | with_reducible apply Keeps.fold3
    | with_reducible apply Keeps.fold21
    | with_reducible apply Keeps.foldE
    | with_reducible apply Keeps.foldE2
    | with_reducible apply Keeps.foldE3
    | intro _
    | (split <;> (try (rename_i heq; (first | refine Keeps.cut (Keeps.of_eq (b := b0) heq ?_) ?_ | refine Keeps.cut (Keeps.of_eq3 (b := b0) heq ?_) ?_ | refine Keeps.cut (Keeps.of_eq1 (b := b0) heq ?_) ?_ | refine Keeps.cut (Keeps.of_eq4 (b := b0) heq ?_) ?_ | refine Keeps.cut (Keeps.of_eqE (b := b0) heq ?_) ?_ | refine Keeps.cut (Keeps.of_eqE3 (b := b0) heq ?_) ?_); (focus (clear heq; (repeat' first | (simp (maxDischargeDepth := 99) only [KIss.hold, KIss.done, KIss.fault, KIss.wait, Keeps.upd, Keeps.updId, Keeps.ite, Keeps.foldl, Keeps.foldl2, Keeps.foldl3, Keeps.refl, implies_true, keeps_connError, keeps_resendFrom, keeps_a2aRecords, *]; done) | with_reducible apply Keeps.fold1 | with_reducible apply Keeps.fold2 | with_reducible apply Keeps.fold3 | with_reducible apply Keeps.fold21 | with_reducible apply Keeps.foldE | with_reducible apply Keeps.foldE2 | with_reducible apply Keeps.foldE3 | intro _ | split | dsimp only))); intro hz; (try dsimp only at hz); clear heq)))

theorem keeps_connsLost {b0 : State} {s : State} (die : Nat) (hK : Keeps b0 s) :
    Keeps b0 (connsLost s die) := by
  unfold connsLost; simp (maxDischargeDepth := 99) only [KIss.hold, KIss.done, KIss.fault, KIss.wait, Keeps.upd, Keeps.updId,
         Keeps.ite, Keeps.foldl, Keeps.foldl2, Keeps.foldl3, Keeps.refl, implies_true, keeps_connError, keeps_a2aRecords, *]

theorem keeps_fabQcfgWrite {b0 : State} {s : State} (l : Nat) (n : Nat) (v : Nat) (hK : Keeps b0 s) :
    Keeps b0 (fabQcfgWrite s l n v) := by
  unfold fabQcfgWrite; simp (maxDischargeDepth := 99) only [KIss.hold, KIss.done, KIss.fault, KIss.wait, Keeps.upd,
        Keeps.updId, Keeps.ite, Keeps.foldl, Keeps.foldl2, Keeps.foldl3, Keeps.refl, implies_true, keeps_rset, keeps_rfset,
        keeps_queueStop, keeps_FlsRun_write, keeps_Eng_write, *]

theorem keeps_ownerPend {b0 : State} {s : State} (k : Nat) (m : Nat) (mask : Nat) (v : Nat) (hK : Keeps b0 s) :
    Keeps b0 (ownerPend s k m mask v) := by
  unfold ownerPend; simp (maxDischargeDepth := 99) only [KIss.hold, KIss.done, KIss.fault, KIss.wait, Keeps.upd, Keeps.updId,
         Keeps.ite, Keeps.foldl, Keeps.foldl2, Keeps.foldl3, Keeps.refl, implies_true, keeps_setGrotto, *]

theorem keeps_ownerWrite {b0 : State} {s : State} (k : Nat) (m : Nat) (v : Nat) (hK : Keeps b0 s) :
    Keeps b0 (ownerWrite s k m v) := by
  unfold ownerWrite; simp (maxDischargeDepth := 99) only [KIss.hold, KIss.done, KIss.fault, KIss.wait, Keeps.upd,
        Keeps.updId, Keeps.ite, Keeps.foldl, Keeps.foldl2, Keeps.foldl3, Keeps.refl, implies_true, keeps_ownerPend, *]

theorem keeps_granuleGets {b0 : State} {s : State} (k : Nat) (gr : Nat) (new : Nat) (hK : Keeps b0 s) :
    Keeps b0 (granuleGets s k gr new) := by
  unfold granuleGets; simp (maxDischargeDepth := 99) only [KIss.hold, KIss.done, KIss.fault, KIss.wait, Keeps.upd,
        Keeps.updId, Keeps.ite, Keeps.foldl, Keeps.foldl2, Keeps.foldl3, Keeps.refl, implies_true, keeps_rfset,
        keeps_setGrotto, *]

theorem keeps_ownerSet {b0 : State} {s : State} (k : Nat) (w : Nat × Nat × Nat) (hK : Keeps b0 s) :
    Keeps b0 (ownerSet s k w) := by
  unfold ownerSet; simp (maxDischargeDepth := 99) only [KIss.hold, KIss.done, KIss.fault, KIss.wait, Keeps.upd, Keeps.updId,
        Keeps.ite, Keeps.foldl, Keeps.foldl2, Keeps.foldl3, Keeps.refl, implies_true, keeps_granuleGets, *]

theorem keeps_ownerEffect {b0 : State} {s : State} (k : Nat) (gr : Nat) (hK : Keeps b0 s) :
    Keeps b0 (ownerEffect s k gr) := by
  unfold ownerEffect
  repeat' first
    | with_reducible assumption
    | (extract_lets +onlyGivenNames z; first | ((first | refine Keeps.cut (p := Keeps b0 z) ?_ ?_ | refine Keeps.cut (p := Keeps b0 z.2) ?_ ?_ | refine Keeps.cut (p := Keeps b0 z.2.2) ?_ ?_ | refine Keeps.cut (p := Keeps b0 z.1) ?_ ?_ | refine Keeps.cut (p := Keeps b0 z.s) ?_ ?_ | refine Keeps.cut (p := Keeps b0 z.2.s) ?_ ?_ | refine Keeps.cut (p := Keeps b0 z.2.2.s) ?_ ?_); (focus (intros; dsimp only [z]; (repeat' first | (simp (maxDischargeDepth := 99) only [KIss.hold, KIss.done, KIss.fault, KIss.wait, Keeps.upd, Keeps.updId, Keeps.ite, Keeps.foldl, Keeps.foldl2, Keeps.foldl3, Keeps.refl, implies_true, keeps_setGrotto, keeps_ownerSet, *]; done) | with_reducible apply Keeps.fold1 | with_reducible apply Keeps.fold2 | with_reducible apply Keeps.fold3 | with_reducible apply Keeps.fold21 | with_reducible apply Keeps.foldE | with_reducible apply Keeps.foldE2 | with_reducible apply Keeps.foldE3 | intro _ | split | dsimp only))); intro hz; clear_value z) | clear_value z | skip)
    | (simp (maxDischargeDepth := 99) only [KIss.hold, KIss.done, KIss.fault, KIss.wait, Keeps.upd, Keeps.updId, Keeps.ite, Keeps.foldl, Keeps.foldl2, Keeps.foldl3, Keeps.refl, implies_true, keeps_setGrotto, keeps_ownerSet, *]; done)
    | with_reducible apply Keeps.fold1
    | with_reducible apply Keeps.fold2
    | with_reducible apply Keeps.fold3
    | with_reducible apply Keeps.fold21
    | with_reducible apply Keeps.foldE
    | with_reducible apply Keeps.foldE2
    | with_reducible apply Keeps.foldE3
    | intro _
    | (split <;> (try (rename_i heq; (first | refine Keeps.cut (Keeps.of_eq (b := b0) heq ?_) ?_ | refine Keeps.cut (Keeps.of_eq3 (b := b0) heq ?_) ?_ | refine Keeps.cut (Keeps.of_eq1 (b := b0) heq ?_) ?_ | refine Keeps.cut (Keeps.of_eq4 (b := b0) heq ?_) ?_ | refine Keeps.cut (Keeps.of_eqE (b := b0) heq ?_) ?_ | refine Keeps.cut (Keeps.of_eqE3 (b := b0) heq ?_) ?_); (focus (clear heq; (repeat' first | (simp (maxDischargeDepth := 99) only [KIss.hold, KIss.done, KIss.fault, KIss.wait, Keeps.upd, Keeps.updId, Keeps.ite, Keeps.foldl, Keeps.foldl2, Keeps.foldl3, Keeps.refl, implies_true, keeps_setGrotto, keeps_ownerSet, *]; done) | with_reducible apply Keeps.fold1 | with_reducible apply Keeps.fold2 | with_reducible apply Keeps.fold3 | with_reducible apply Keeps.fold21 | with_reducible apply Keeps.foldE | with_reducible apply Keeps.foldE2 | with_reducible apply Keeps.foldE3 | intro _ | split | dsimp only))); intro hz; (try dsimp only at hz); clear heq)))

theorem keeps_apertureFail {b0 : State} {s : State} (who : ApertureAgent) (code : Nat) (hK : Keeps b0 s) :
    Keeps b0 (apertureFail s who code) := by
  unfold apertureFail; (repeat' split) <;> simp (maxDischargeDepth := 99) only [KIss.hold, KIss.done, KIss.fault, KIss.wait,
        Keeps.upd, Keeps.updId, Keeps.ite, Keeps.foldl, Keeps.foldl2, Keeps.foldl3, Keeps.refl, implies_true,
        keeps_imprecise, *]

theorem keeps_grtEcc {b0 : State} {s : State} (k : Nat) (off : Nat) (n : Nat) (x0 : WordEcc) (hK : Keeps b0 s) :
    Keeps b0 (grtEcc s k off n x0) := by
  unfold grtEcc; (repeat' split) <;> simp (maxDischargeDepth := 99) only [KIss.hold, KIss.done, KIss.fault, KIss.wait,
        Keeps.upd, Keeps.updId, Keeps.ite, Keeps.foldl, Keeps.foldl2, Keeps.foldl3, Keeps.refl, implies_true,
        keeps_correctedBy, keeps_setGrotto, *]

theorem keeps_apertureMark {b0 : State} {s : State} (who : ApertureAgent) (k : Nat) (off : Nat) (n : Nat) (hK : Keeps b0 s) :
    Keeps b0 (apertureMark s who k off n) := by
  unfold apertureMark; (repeat' split) <;> simp (maxDischargeDepth := 99) only [KIss.hold, KIss.done, KIss.fault, KIss.wait,
        Keeps.upd, Keeps.updId, Keeps.ite, Keeps.foldl, Keeps.foldl2, Keeps.foldl3, Keeps.refl, implies_true,
        keeps_keepOutGrotto, *]

theorem keeps_apertureWrite {b0 : State} {s : State} (who : ApertureAgent) (k : Nat) (off : Nat) (bs : List Byte) (hK : Keeps b0 s) :
    Keeps b0 (apertureWrite s who k off bs) := by
  unfold apertureWrite; simp (maxDischargeDepth := 99) only [KIss.hold, KIss.done, KIss.fault, KIss.wait, Keeps.upd,
        Keeps.updId, Keeps.ite, Keeps.foldl, Keeps.foldl2, Keeps.foldl3, Keeps.refl, implies_true, keeps_grtPut,
        keeps_apertureFail, keeps_apertureMark, *]

theorem keeps_apertureAccess {b0 : State} {s : State} (who : ApertureAgent) (k : Nat) (off : Nat) (acc : Access) (ecc : WordEcc) (hK : Keeps b0 s) :
    Keeps b0 (apertureAccess s who k off acc ecc) := by
  unfold apertureAccess; (repeat' split) <;> simp (maxDischargeDepth := 99) only [KIss.hold, KIss.done, KIss.fault,
        KIss.wait, Keeps.upd, Keeps.updId, Keeps.ite, Keeps.foldl, Keeps.foldl2, Keeps.foldl3, Keeps.refl, implies_true,
        keeps_drpSeen, keeps_grtAtomic, keeps_FlsRun_read, keeps_FlsRun_write, keeps_Eng_read, keeps_Eng_write,
        keeps_apertureFail, keeps_grtEcc, keeps_apertureMark, keeps_apertureWrite, *]

theorem keeps_engineRun {b0 : State} (engine : Nat) (key : Nat) (dslot : Nat) (w : List W64) {e : Eng} (hK : Keeps b0 e.s) :
    Keeps b0 (engineRun engine key dslot w e).2.s := by
  unfold engineRun; (repeat' split) <;> simp (maxDischargeDepth := 99) only [KIss.hold, KIss.done, KIss.fault, KIss.wait,
        Keeps.upd, Keeps.updId, Keeps.ite, Keeps.foldl, Keeps.foldl2, Keeps.foldl3, Keeps.refl, implies_true, keeps_collOpen,
         keeps_xferStart, keeps_cmpStart, keeps_hlxStart, keeps_drpStart, keeps_fabStart, *]

theorem keeps_headMod {b0 : State} {s : State} (k : Nat) (key : Nat) (t : Taken) (f : Taken → Taken) (hK : Keeps b0 s) :
    Keeps b0 (headMod s k key t f) := by
  unfold headMod; simp (maxDischargeDepth := 99) only [KIss.hold, KIss.done, KIss.fault, KIss.wait, Keeps.upd, Keeps.updId,
        Keeps.ite, Keeps.foldl, Keeps.foldl2, Keeps.foldl3, Keeps.refl, implies_true, keeps_setQueue, *]

theorem keeps_drpBusy {b0 : State} {s : State} (k : Nat) (hK : Keeps b0 s) :
    Keeps b0 (drpBusy s k) := by
  unfold drpBusy; simp (maxDischargeDepth := 99) only [KIss.hold, KIss.done, KIss.fault, KIss.wait, Keeps.upd, Keeps.updId,
        Keeps.ite, Keeps.foldl, Keeps.foldl2, Keeps.foldl3, Keeps.refl, implies_true, keeps_rfset, *]

theorem keeps_runDesc {b0 : State} {s : State} (k key : Nat) (t : Taken) (hK : Keeps b0 s) : Keeps b0 (runDesc s k key t) := by
  unfold runDesc
  extract_lets +onlyGivenNames earlier s1 by_ go r clash again r2 e s2 g s3
  have h1 : Keeps b0 s1 := keeps_headMod _ _ _ _ hK
  have hgo : ∀ y b, Keeps b0 y → Keeps b0 (go y b).2.s := fun y b hy => keeps_engineRun _ _ _ _ hy
  have ha : ∀ y x, Keeps b0 y → Keeps b0 (again y x) := fun y x hy => keeps_takenMod _ _ _ _ (keeps_spoilRuns _ _ hy)
  clear_value s1 again
  have h2 : Keeps b0 e.s := by
    dsimp only [e, r2]
    split
    · exact hgo _ _ h1
    · exact hgo _ _ (Keeps.fold1 (fun y a hy => ha _ _ hy) h1)
  have h3 : Keeps b0 s2 := keeps_takenMod _ _ _ _ h2
  clear_value s2
  have h4 : Keeps b0 s3 := by
    dsimp only [s3]
    split
    · exact keeps_setGrotto _ _ h3
    · exact keeps_drpBusy _ (keeps_setGrotto _ _ h3)
    · exact h3
  clear_value s3
  split
  · exact h4
  · split
    · exact h4
    · exact keeps_settleDesc _ _ _ h4

theorem keeps_descStart {b0 : State} {s : State} (k : Nat) (key : Nat) (hK : Keeps b0 s) :
    Keeps b0 (descStart s k key) := by
  unfold descStart; (repeat' split) <;> simp (maxDischargeDepth := 99) only [KIss.hold, KIss.done, KIss.fault, KIss.wait,
        Keeps.upd, Keeps.updId, Keeps.ite, Keeps.foldl, Keeps.foldl2, Keeps.foldl3, Keeps.refl, implies_true, keeps_headMod,
        keeps_runDesc, *]

theorem keeps_signalAdd {b0 : State} {s : State} (k : Nat) (key : Nat) (t : Taken) (hK : Keeps b0 s) :
    Keeps b0 (signalAdd s k key t).2 := by
  unfold signalAdd
  repeat' first
    | with_reducible assumption
    | (extract_lets +onlyGivenNames z; first | ((first | refine Keeps.cut (p := Keeps b0 z) ?_ ?_ | refine Keeps.cut (p := Keeps b0 z.2) ?_ ?_ | refine Keeps.cut (p := Keeps b0 z.2.2) ?_ ?_ | refine Keeps.cut (p := Keeps b0 z.1) ?_ ?_ | refine Keeps.cut (p := Keeps b0 z.s) ?_ ?_ | refine Keeps.cut (p := Keeps b0 z.2.s) ?_ ?_ | refine Keeps.cut (p := Keeps b0 z.2.2.s) ?_ ?_); (focus (intros; dsimp only [z]; (repeat' first | (simp (maxDischargeDepth := 99) only [KIss.hold, KIss.done, KIss.fault, KIss.wait, Keeps.upd, Keeps.updId, Keeps.ite, Keeps.foldl, Keeps.foldl2, Keeps.foldl3, Keeps.refl, implies_true, keeps_grtAtomic, keeps_engAdd, *]; done) | with_reducible apply Keeps.fold1 | with_reducible apply Keeps.fold2 | with_reducible apply Keeps.fold3 | with_reducible apply Keeps.fold21 | with_reducible apply Keeps.foldE | with_reducible apply Keeps.foldE2 | with_reducible apply Keeps.foldE3 | intro _ | split | dsimp only))); intro hz; clear_value z) | clear_value z | skip)
    | (simp (maxDischargeDepth := 99) only [KIss.hold, KIss.done, KIss.fault, KIss.wait, Keeps.upd, Keeps.updId, Keeps.ite, Keeps.foldl, Keeps.foldl2, Keeps.foldl3, Keeps.refl, implies_true, keeps_grtAtomic, keeps_engAdd, *]; done)
    | with_reducible apply Keeps.fold1
    | with_reducible apply Keeps.fold2
    | with_reducible apply Keeps.fold3
    | with_reducible apply Keeps.fold21
    | with_reducible apply Keeps.foldE
    | with_reducible apply Keeps.foldE2
    | with_reducible apply Keeps.foldE3
    | intro _
    | (split <;> (try (rename_i heq; (first | refine Keeps.cut (Keeps.of_eq (b := b0) heq ?_) ?_ | refine Keeps.cut (Keeps.of_eq3 (b := b0) heq ?_) ?_ | refine Keeps.cut (Keeps.of_eq1 (b := b0) heq ?_) ?_ | refine Keeps.cut (Keeps.of_eq4 (b := b0) heq ?_) ?_ | refine Keeps.cut (Keeps.of_eqE (b := b0) heq ?_) ?_ | refine Keeps.cut (Keeps.of_eqE3 (b := b0) heq ?_) ?_); (focus (clear heq; (repeat' first | (simp (maxDischargeDepth := 99) only [KIss.hold, KIss.done, KIss.fault, KIss.wait, Keeps.upd, Keeps.updId, Keeps.ite, Keeps.foldl, Keeps.foldl2, Keeps.foldl3, Keeps.refl, implies_true, keeps_grtAtomic, keeps_engAdd, *]; done) | with_reducible apply Keeps.fold1 | with_reducible apply Keeps.fold2 | with_reducible apply Keeps.fold3 | with_reducible apply Keeps.fold21 | with_reducible apply Keeps.foldE | with_reducible apply Keeps.foldE2 | with_reducible apply Keeps.foldE3 | intro _ | split | dsimp only))); intro hz; (try dsimp only at hz); clear heq)))

theorem keeps_descVa {b0 : State} {s : State} (k : Nat) (key : Nat) (t : Taken) (code : Nat) (hK : Keeps b0 s) :
    Keeps b0 (descVa s k key t code) := by
  unfold descVa; (repeat' split) <;> simp (maxDischargeDepth := 99) only [KIss.hold, KIss.done, KIss.fault, KIss.wait,
        Keeps.upd, Keeps.updId, Keeps.ite, Keeps.foldl, Keeps.foldl2, Keeps.foldl3, Keeps.refl, implies_true, keeps_jobMod,
        *]

theorem keeps_drpRun {b0 : State} {s : State} (k : Nat) (key : Nat) (t : Taken) (hK : Keeps b0 s) :
    Keeps b0 (drpRun s k key t).2 := by
  unfold drpRun; (repeat' split) <;> simp (maxDischargeDepth := 99) only [KIss.hold, KIss.done, KIss.fault, KIss.wait,
        Keeps.upd, Keeps.updId, Keeps.ite, Keeps.foldl, Keeps.foldl2, Keeps.foldl3, Keeps.refl, implies_true, keeps_drpWork,
        *]

theorem keeps_descComplete {b0 : State} {s : State} (k : Nat) (key : Nat) (hK : Keeps b0 s) :
    Keeps b0 (descComplete s k key) := by
  unfold descComplete
  repeat' first
    | with_reducible assumption
    | (extract_lets +onlyGivenNames z; first | ((first | refine Keeps.cut (p := Keeps b0 z) ?_ ?_ | refine Keeps.cut (p := Keeps b0 z.2) ?_ ?_ | refine Keeps.cut (p := Keeps b0 z.2.2) ?_ ?_ | refine Keeps.cut (p := Keeps b0 z.1) ?_ ?_ | refine Keeps.cut (p := Keeps b0 z.s) ?_ ?_ | refine Keeps.cut (p := Keeps b0 z.2.s) ?_ ?_ | refine Keeps.cut (p := Keeps b0 z.2.2.s) ?_ ?_); (focus (intros; dsimp only [z]; (repeat' first | (simp (maxDischargeDepth := 99) only [KIss.hold, KIss.done, KIss.fault, KIss.wait, Keeps.upd, Keeps.updId, Keeps.ite, Keeps.foldl, Keeps.foldl2, Keeps.foldl3, Keeps.refl, implies_true, keeps_setQueue, keeps_grtPut, keeps_spoilRuns, keeps_descStatus, keeps_drpBusy, keeps_signalAdd, keeps_descVa, keeps_drpRun, *]; done) | with_reducible apply Keeps.fold1 | with_reducible apply Keeps.fold2 | with_reducible apply Keeps.fold3 | with_reducible apply Keeps.fold21 | with_reducible apply Keeps.foldE | with_reducible apply Keeps.foldE2 | with_reducible apply Keeps.foldE3 | intro _ | split | dsimp only))); intro hz; clear_value z) | clear_value z | skip)
    | (simp (maxDischargeDepth := 99) only [KIss.hold, KIss.done, KIss.fault, KIss.wait, Keeps.upd, Keeps.updId, Keeps.ite, Keeps.foldl, Keeps.foldl2, Keeps.foldl3, Keeps.refl, implies_true, keeps_setQueue, keeps_grtPut, keeps_spoilRuns, keeps_descStatus, keeps_drpBusy, keeps_signalAdd, keeps_descVa, keeps_drpRun, *]; done)
    | with_reducible apply Keeps.fold1
    | with_reducible apply Keeps.fold2
    | with_reducible apply Keeps.fold3
    | with_reducible apply Keeps.fold21
    | with_reducible apply Keeps.foldE
    | with_reducible apply Keeps.foldE2
    | with_reducible apply Keeps.foldE3
    | intro _
    | (split <;> (try (rename_i heq; (first | refine Keeps.cut (Keeps.of_eq (b := b0) heq ?_) ?_ | refine Keeps.cut (Keeps.of_eq3 (b := b0) heq ?_) ?_ | refine Keeps.cut (Keeps.of_eq1 (b := b0) heq ?_) ?_ | refine Keeps.cut (Keeps.of_eq4 (b := b0) heq ?_) ?_ | refine Keeps.cut (Keeps.of_eqE (b := b0) heq ?_) ?_ | refine Keeps.cut (Keeps.of_eqE3 (b := b0) heq ?_) ?_); (focus (clear heq; (repeat' first | (simp (maxDischargeDepth := 99) only [KIss.hold, KIss.done, KIss.fault, KIss.wait, Keeps.upd, Keeps.updId, Keeps.ite, Keeps.foldl, Keeps.foldl2, Keeps.foldl3, Keeps.refl, implies_true, keeps_setQueue, keeps_grtPut, keeps_spoilRuns, keeps_descStatus, keeps_drpBusy, keeps_signalAdd, keeps_descVa, keeps_drpRun, *]; done) | with_reducible apply Keeps.fold1 | with_reducible apply Keeps.fold2 | with_reducible apply Keeps.fold3 | with_reducible apply Keeps.fold21 | with_reducible apply Keeps.foldE | with_reducible apply Keeps.foldE2 | with_reducible apply Keeps.foldE3 | intro _ | split | dsimp only))); intro hz; (try dsimp only at hz); clear heq)))

theorem keeps_execGrtOwnerWrite {b0 : State} (a : Agent) (k : CDie) (m : Fin 12) (v : W64) {s : State} (hK : Keeps b0 s) :
    ∀ u, execGrtOwnerWrite a k m v s = .next u → Keeps b0 u := by
  unfold execGrtOwnerWrite; intro t ht; injection ht with ht; subst ht; simp (maxDischargeDepth := 99) only [KIss.hold,
        KIss.done, KIss.fault, KIss.wait, Keeps.upd, Keeps.updId, Keeps.ite, Keeps.foldl, Keeps.foldl2, Keeps.foldl3,
        Keeps.refl, implies_true, keeps_ownerWrite, *]

theorem keeps_execGranuleOwnerEffect {b0 : State} (k : CDie) (gr : Fin 96) {s : State} (hK : Keeps b0 s) :
    ∀ u, execGranuleOwnerEffect k gr s = .next u → Keeps b0 u := by
  unfold execGranuleOwnerEffect; intro t ht; injection ht with ht; subst ht; simp (maxDischargeDepth := 99) only [KIss.hold,
        KIss.done, KIss.fault, KIss.wait, Keeps.upd, Keeps.updId, Keeps.ite, Keeps.foldl, Keeps.foldl2, Keeps.foldl3,
        Keeps.refl, implies_true, keeps_ownerEffect, *]

theorem keeps_execGrottoApertureAccess {b0 : State} (who : ApertureAgent) (k : CDie) (off : BitVec 32) (acc : GrottoAccess) {s : State} (hK : Keeps b0 s) :
    ∀ u, execGrottoApertureAccess who k off acc s = .next u → Keeps b0 u := by
  unfold execGrottoApertureAccess; intro t ht; injection ht with ht; subst ht; simp (maxDischargeDepth := 99) only [KIss.hold,
         KIss.done, KIss.fault, KIss.wait, Keeps.upd, Keeps.updId, Keeps.ite, Keeps.foldl, Keeps.foldl2, Keeps.foldl3,
        Keeps.refl, implies_true, keeps_apertureAccess, *]

theorem keeps_execGrtDoorbell {b0 : State} (q : QueueRef) {s : State} (hK : Keeps b0 s) :
    ∀ u, execGrtDoorbell q s = .next u → Keeps b0 u := by
  unfold execGrtDoorbell
  repeat' first
    | with_reducible assumption
    | refine fun (y : State) (gr : Group) (hy : Keeps b0 y) => ?_
    | (extract_lets +onlyGivenNames z; first | ((first | refine Keeps.cut (p := Keeps b0 z) ?_ ?_ | refine Keeps.cut (p := Keeps b0 z.2) ?_ ?_ | refine Keeps.cut (p := Keeps b0 z.2.2) ?_ ?_ | refine Keeps.cut (p := Keeps b0 z.1) ?_ ?_ | refine Keeps.cut (p := Keeps b0 z.s) ?_ ?_ | refine Keeps.cut (p := Keeps b0 z.2.s) ?_ ?_ | refine Keeps.cut (p := Keeps b0 z.2.2.s) ?_ ?_); (focus (intros; dsimp only [z]; (repeat' first | (simp (maxDischargeDepth := 99) only [KIss.hold, KIss.done, KIss.fault, KIss.wait, Keeps.upd, Keeps.updId, Keeps.ite, Keeps.foldl, Keeps.foldl2, Keeps.foldl3, Keeps.refl, implies_true, keeps_ringBell, *]; done) | with_reducible apply Keeps.fold1 | with_reducible apply Keeps.fold2 | with_reducible apply Keeps.fold3 | with_reducible apply Keeps.fold21 | with_reducible apply Keeps.foldE | with_reducible apply Keeps.foldE2 | with_reducible apply Keeps.foldE3 | intro _ | split | dsimp only))); intro hz; clear_value z) | clear_value z | skip)
    | (simp (maxDischargeDepth := 99) only [KIss.hold, KIss.done, KIss.fault, KIss.wait, Keeps.upd, Keeps.updId, Keeps.ite, Keeps.foldl, Keeps.foldl2, Keeps.foldl3, Keeps.refl, implies_true, keeps_ringBell, *]; done)
    | (intro t ht; injection ht with ht; subst ht)
    | (intro t ht; contradiction)
    | with_reducible apply Keeps.fold1
    | with_reducible apply Keeps.fold2
    | with_reducible apply Keeps.fold3
    | with_reducible apply Keeps.fold21
    | with_reducible apply Keeps.foldE
    | with_reducible apply Keeps.foldE2
    | with_reducible apply Keeps.foldE3
    | (split <;> (try (rename_i heq; (first | refine Keeps.cut (Keeps.of_eq (b := b0) heq ?_) ?_ | refine Keeps.cut (Keeps.of_eq3 (b := b0) heq ?_) ?_ | refine Keeps.cut (Keeps.of_eq1 (b := b0) heq ?_) ?_ | refine Keeps.cut (Keeps.of_eq4 (b := b0) heq ?_) ?_ | refine Keeps.cut (Keeps.of_eqE (b := b0) heq ?_) ?_ | refine Keeps.cut (Keeps.of_eqE3 (b := b0) heq ?_) ?_); (focus (clear heq; (repeat' first | (simp (maxDischargeDepth := 99) only [KIss.hold, KIss.done, KIss.fault, KIss.wait, Keeps.upd, Keeps.updId, Keeps.ite, Keeps.foldl, Keeps.foldl2, Keeps.foldl3, Keeps.refl, implies_true, keeps_ringBell, *]; done) | with_reducible apply Keeps.fold1 | with_reducible apply Keeps.fold2 | with_reducible apply Keeps.fold3 | with_reducible apply Keeps.fold21 | with_reducible apply Keeps.foldE | with_reducible apply Keeps.foldE2 | with_reducible apply Keeps.foldE3 | intro _ | split | dsimp only))); intro hz; (try dsimp only at hz); clear heq)))
    | intro _

theorem keeps_execDescriptorStart {b0 : State} (q : QueueRef) {s : State} (hK : Keeps b0 s) :
    ∀ u, execDescriptorStart q s = .next u → Keeps b0 u := by
  unfold execDescriptorStart; intro t ht; injection ht with ht; subst ht; simp (maxDischargeDepth := 99) only [KIss.hold,
        KIss.done, KIss.fault, KIss.wait, Keeps.upd, Keeps.updId, Keeps.ite, Keeps.foldl, Keeps.foldl2, Keeps.foldl3,
        Keeps.refl, implies_true, keeps_descStart, *]

theorem keeps_execWaitReevaluate {b0 : State} (q : QueueRef) {s : State} (hK : Keeps b0 s) :
    ∀ u, execWaitReevaluate q s = .next u → Keeps b0 u := by
  unfold execWaitReevaluate
  repeat' first
    | with_reducible assumption
    | refine fun (y : State) (gr : Group) (hy : Keeps b0 y) => ?_
    | (extract_lets +onlyGivenNames z; first | ((first | refine Keeps.cut (p := Keeps b0 z) ?_ ?_ | refine Keeps.cut (p := Keeps b0 z.2) ?_ ?_ | refine Keeps.cut (p := Keeps b0 z.2.2) ?_ ?_ | refine Keeps.cut (p := Keeps b0 z.1) ?_ ?_ | refine Keeps.cut (p := Keeps b0 z.s) ?_ ?_ | refine Keeps.cut (p := Keeps b0 z.2.s) ?_ ?_ | refine Keeps.cut (p := Keeps b0 z.2.2.s) ?_ ?_); (focus (intros; dsimp only [z]; (repeat' first | (simp (maxDischargeDepth := 99) only [KIss.hold, KIss.done, KIss.fault, KIss.wait, Keeps.upd, Keeps.updId, Keeps.ite, Keeps.foldl, Keeps.foldl2, Keeps.foldl3, Keeps.refl, implies_true, keeps_descStart, *]; done) | with_reducible apply Keeps.fold1 | with_reducible apply Keeps.fold2 | with_reducible apply Keeps.fold3 | with_reducible apply Keeps.fold21 | with_reducible apply Keeps.foldE | with_reducible apply Keeps.foldE2 | with_reducible apply Keeps.foldE3 | intro _ | split | dsimp only))); intro hz; clear_value z) | clear_value z | skip)
    | (simp (maxDischargeDepth := 99) only [KIss.hold, KIss.done, KIss.fault, KIss.wait, Keeps.upd, Keeps.updId, Keeps.ite, Keeps.foldl, Keeps.foldl2, Keeps.foldl3, Keeps.refl, implies_true, keeps_descStart, *]; done)
    | (intro t ht; injection ht with ht; subst ht)
    | (intro t ht; contradiction)
    | with_reducible apply Keeps.fold1
    | with_reducible apply Keeps.fold2
    | with_reducible apply Keeps.fold3
    | with_reducible apply Keeps.fold21
    | with_reducible apply Keeps.foldE
    | with_reducible apply Keeps.foldE2
    | with_reducible apply Keeps.foldE3
    | (split <;> (try (rename_i heq; (first | refine Keeps.cut (Keeps.of_eq (b := b0) heq ?_) ?_ | refine Keeps.cut (Keeps.of_eq3 (b := b0) heq ?_) ?_ | refine Keeps.cut (Keeps.of_eq1 (b := b0) heq ?_) ?_ | refine Keeps.cut (Keeps.of_eq4 (b := b0) heq ?_) ?_ | refine Keeps.cut (Keeps.of_eqE (b := b0) heq ?_) ?_ | refine Keeps.cut (Keeps.of_eqE3 (b := b0) heq ?_) ?_); (focus (clear heq; (repeat' first | (simp (maxDischargeDepth := 99) only [KIss.hold, KIss.done, KIss.fault, KIss.wait, Keeps.upd, Keeps.updId, Keeps.ite, Keeps.foldl, Keeps.foldl2, Keeps.foldl3, Keeps.refl, implies_true, keeps_descStart, *]; done) | with_reducible apply Keeps.fold1 | with_reducible apply Keeps.fold2 | with_reducible apply Keeps.fold3 | with_reducible apply Keeps.fold21 | with_reducible apply Keeps.foldE | with_reducible apply Keeps.foldE2 | with_reducible apply Keeps.foldE3 | intro _ | split | dsimp only))); intro hz; (try dsimp only at hz); clear heq)))
    | intro _

theorem keeps_execDescriptorComplete {b0 : State} (q : QueueRef) {s : State} (hK : Keeps b0 s) :
    ∀ u, execDescriptorComplete q s = .next u → Keeps b0 u := by
  unfold execDescriptorComplete; intro t ht; injection ht with ht; subst ht; simp (maxDischargeDepth := 99) only [KIss.hold,
        KIss.done, KIss.fault, KIss.wait, Keeps.upd, Keeps.updId, Keeps.ite, Keeps.foldl, Keeps.foldl2, Keeps.foldl3,
        Keeps.refl, implies_true, keeps_descComplete, *]

theorem keeps_execCollContribution {b0 : State} (k : CDie) (n : Nat) {s : State} (hK : Keeps b0 s) :
    ∀ u, execCollContribution k n s = .next u → Keeps b0 u := by
  unfold execCollContribution; intro t ht; injection ht with ht; subst ht; simp (maxDischargeDepth := 99) only [KIss.hold,
        KIss.done, KIss.fault, KIss.wait, Keeps.upd, Keeps.updId, Keeps.ite, Keeps.foldl, Keeps.foldl2, Keeps.foldl3,
        Keeps.refl, implies_true, keeps_collContribution, *]

theorem keeps_execCollTimeout {b0 : State} (k : CDie) (slot : Fin 64) {s : State} (hK : Keeps b0 s) :
    ∀ u, execCollTimeout k slot s = .next u → Keeps b0 u := by
  unfold execCollTimeout; intro t ht; injection ht with ht; subst ht; simp (maxDischargeDepth := 99) only [KIss.hold,
        KIss.done, KIss.fault, KIss.wait, Keeps.upd, Keeps.updId, Keeps.ite, Keeps.foldl, Keeps.foldl2, Keeps.foldl3,
        Keeps.refl, implies_true, keeps_collTimeout, *]

theorem keeps_execHlxSendRecord {b0 : State} (k : CDie) (n : Fin 32) {s : State} (hK : Keeps b0 s) :
    ∀ u, execHlxSendRecord k n s = .next u → Keeps b0 u := by
  unfold execHlxSendRecord
  repeat' first
    | with_reducible assumption
    | refine fun (y : State) (gr : Group) (hy : Keeps b0 y) => ?_
    | (extract_lets +onlyGivenNames z; first | ((first | refine Keeps.cut (p := Keeps b0 z) ?_ ?_ | refine Keeps.cut (p := Keeps b0 z.2) ?_ ?_ | refine Keeps.cut (p := Keeps b0 z.2.2) ?_ ?_ | refine Keeps.cut (p := Keeps b0 z.1) ?_ ?_ | refine Keeps.cut (p := Keeps b0 z.s) ?_ ?_ | refine Keeps.cut (p := Keeps b0 z.2.s) ?_ ?_ | refine Keeps.cut (p := Keeps b0 z.2.2.s) ?_ ?_); (focus (intros; dsimp only [z]; (repeat' first | (simp (maxDischargeDepth := 99) only [KIss.hold, KIss.done, KIss.fault, KIss.wait, Keeps.upd, Keeps.updId, Keeps.ite, Keeps.foldl, Keeps.foldl2, Keeps.foldl3, Keeps.refl, implies_true, keeps_sendRecord, *]; done) | with_reducible apply Keeps.fold1 | with_reducible apply Keeps.fold2 | with_reducible apply Keeps.fold3 | with_reducible apply Keeps.fold21 | with_reducible apply Keeps.foldE | with_reducible apply Keeps.foldE2 | with_reducible apply Keeps.foldE3 | intro _ | split | dsimp only))); intro hz; clear_value z) | clear_value z | skip)
    | (simp (maxDischargeDepth := 99) only [KIss.hold, KIss.done, KIss.fault, KIss.wait, Keeps.upd, Keeps.updId, Keeps.ite, Keeps.foldl, Keeps.foldl2, Keeps.foldl3, Keeps.refl, implies_true, keeps_sendRecord, *]; done)
    | (intro t ht; injection ht with ht; subst ht)
    | (intro t ht; contradiction)
    | with_reducible apply Keeps.fold1
    | with_reducible apply Keeps.fold2
    | with_reducible apply Keeps.fold3
    | with_reducible apply Keeps.fold21
    | with_reducible apply Keeps.foldE
    | with_reducible apply Keeps.foldE2
    | with_reducible apply Keeps.foldE3
    | (split <;> (try (rename_i heq; (first | refine Keeps.cut (Keeps.of_eq (b := b0) heq ?_) ?_ | refine Keeps.cut (Keeps.of_eq3 (b := b0) heq ?_) ?_ | refine Keeps.cut (Keeps.of_eq1 (b := b0) heq ?_) ?_ | refine Keeps.cut (Keeps.of_eq4 (b := b0) heq ?_) ?_ | refine Keeps.cut (Keeps.of_eqE (b := b0) heq ?_) ?_ | refine Keeps.cut (Keeps.of_eqE3 (b := b0) heq ?_) ?_); (focus (clear heq; (repeat' first | (simp (maxDischargeDepth := 99) only [KIss.hold, KIss.done, KIss.fault, KIss.wait, Keeps.upd, Keeps.updId, Keeps.ite, Keeps.foldl, Keeps.foldl2, Keeps.foldl3, Keeps.refl, implies_true, keeps_sendRecord, *]; done) | with_reducible apply Keeps.fold1 | with_reducible apply Keeps.fold2 | with_reducible apply Keeps.fold3 | with_reducible apply Keeps.fold21 | with_reducible apply Keeps.foldE | with_reducible apply Keeps.foldE2 | with_reducible apply Keeps.foldE3 | intro _ | split | dsimp only))); intro hz; (try dsimp only at hz); clear heq)))
    | intro _

theorem keeps_execDecoderBindingEffect {b0 : State} (k : CDie) (quad : Fin 32) (stream : Fin 8) {s : State} (hK : Keeps b0 s) :
    ∀ u, execDecoderBindingEffect k quad stream s = .next u → Keeps b0 u := by
  unfold execDecoderBindingEffect; intro t ht; injection ht with ht; subst ht; simp (maxDischargeDepth := 99) only [KIss.hold,
         KIss.done, KIss.fault, KIss.wait, Keeps.upd, Keeps.updId, Keeps.ite, Keeps.foldl, Keeps.foldl2, Keeps.foldl3,
        Keeps.refl, implies_true, keeps_decoderEffect, *]

end Sys2Proof.Machine
end

