-- ==== Sys2Proof/Laws/KeepsModule.lean ====
section
/-!
SUPPORT. `keeps_f`, for each operation f of the fabric commands, die loss, links, Rimstone, mailbox objects, registers and the host port: what it answers keeps what `Keeps` says. A lemma about a meaning speaks of
every next state that it answers.
-/
set_option linter.unusedSimpArgs false
set_option linter.unusedVariables false
set_option linter.tactic.unusedName false
namespace Sys2Proof.Machine

theorem keeps_portActivate {b0 : State} {s : State} (p : Nat) (full : Bool) (node : Nat) (pport : Nat) (hK : Keeps b0 s) :
    Keeps b0 (portActivate s p full node pport) := by
  unfold portActivate; simp (maxDischargeDepth := 99) only [KIss.hold, KIss.done, KIss.fault, KIss.wait, Keeps.upd,
        Keeps.updId, Keeps.ite, Keeps.foldl, Keeps.foldl2, Keeps.foldl3, Keeps.refl, implies_true, keeps_setPort,
        keeps_setPortF, keeps_pumpPortAll, *]

theorem keeps_portTrain {b0 : State} {s : State} (p : Nat) (r : TrainResult) (hK : Keeps b0 s) :
    Keeps b0 (portTrain s p r) := by
  unfold portTrain; simp (maxDischargeDepth := 99) only [KIss.hold, KIss.done, KIss.fault, KIss.wait, Keeps.upd, Keeps.updId,
         Keeps.ite, Keeps.foldl, Keeps.foldl2, Keeps.foldl3, Keeps.refl, implies_true, keeps_report, keeps_setPort,
        keeps_setPortF, keeps_portActivate, *]

theorem keeps_trainTimeout {b0 : State} {s : State} (p : Nat) (hK : Keeps b0 s) :
    Keeps b0 (trainTimeout s p) := by
  unfold trainTimeout; simp (maxDischargeDepth := 99) only [KIss.hold, KIss.done, KIss.fault, KIss.wait, Keeps.upd,
        Keeps.updId, Keeps.ite, Keeps.foldl, Keeps.foldl2, Keeps.foldl3, Keeps.refl, implies_true, keeps_setPortF, *]

theorem keeps_trainRetry {b0 : State} {s : State} (p : Nat) (hK : Keeps b0 s) :
    Keeps b0 (trainRetry s p) := by
  unfold trainRetry; simp (maxDischargeDepth := 99) only [KIss.hold, KIss.done, KIss.fault, KIss.wait, Keeps.upd,
        Keeps.updId, Keeps.ite, Keeps.foldl, Keeps.foldl2, Keeps.foldl3, Keeps.refl, implies_true, keeps_setPortF, *]

theorem keeps_portWakes {b0 : State} {s : State} (p : Nat) (hK : Keeps b0 s) :
    Keeps b0 (portWakes s p) := by
  unfold portWakes; simp (maxDischargeDepth := 99) only [KIss.hold, KIss.done, KIss.fault, KIss.wait, Keeps.upd, Keeps.updId,
         Keeps.ite, Keeps.foldl, Keeps.foldl2, Keeps.foldl3, Keeps.refl, implies_true, keeps_setPortF, *]

theorem keeps_portCtlWrite {b0 : State} {s : State} (p : Nat) (v : Nat) (hK : Keeps b0 s) :
    Keeps b0 (portCtlWrite s p v) := by
  unfold portCtlWrite; simp (maxDischargeDepth := 99) only [KIss.hold, KIss.done, KIss.fault, KIss.wait, Keeps.upd,
        Keeps.updId, Keeps.ite, Keeps.foldl, Keeps.foldl2, Keeps.foldl3, Keeps.refl, implies_true, keeps_rset,
        keeps_FlsRun_write, keeps_Eng_write, keeps_setPortF, keeps_portGoesDown, keeps_portWakes, *]

theorem keeps_correctedCount {b0 : State} {s : State} (p : Nat) (errors : Nat) (hK : Keeps b0 s) :
    Keeps b0 (correctedCount s p errors) := by
  unfold correctedCount; simp (maxDischargeDepth := 99) only [KIss.hold, KIss.done, KIss.fault, KIss.wait, Keeps.upd,
        Keeps.updId, Keeps.ite, Keeps.foldl, Keeps.foldl2, Keeps.foldl3, Keeps.refl, implies_true, keeps_portCount, *]

theorem keeps_dataFrame {b0 : State} {s : State} (p : Nat) (f : DataFrame) (hK : Keeps b0 s) :
    Keeps b0 (dataFrame s p f) := by
  unfold dataFrame; simp (maxDischargeDepth := 99) only [KIss.hold, KIss.done, KIss.fault, KIss.wait, Keeps.upd, Keeps.updId,
         Keeps.ite, Keeps.foldl, Keeps.foldl2, Keeps.foldl3, Keeps.refl, implies_true, keeps_setPort, keeps_portCount,
        keeps_correctedCount, *]

theorem keeps_controlFrame {b0 : State} {s : State} (p : Nat) (errors : Nat) (f : Option ControlFrame) (hK : Keeps b0 s) :
    Keeps b0 (controlFrame s p errors f) := by
  unfold controlFrame; (repeat' split) <;> simp (maxDischargeDepth := 99) only [KIss.hold, KIss.done, KIss.fault, KIss.wait,
        Keeps.upd, Keeps.updId, Keeps.ite, Keeps.foldl, Keeps.foldl2, Keeps.foldl3, Keeps.refl, implies_true, keeps_setPort,
        keeps_portCount, keeps_pumpPortAll, keeps_portWakes, keeps_correctedCount, *]

theorem keeps_portDownNow {b0 : State} {s : State} (p : Nat) (why : DownCause) (hK : Keeps b0 s) :
    Keeps b0 (portDownNow s p why) := by
  unfold portDownNow; simp (maxDischargeDepth := 99) only [KIss.hold, KIss.done, KIss.fault, KIss.wait, Keeps.upd,
        Keeps.updId, Keeps.ite, Keeps.foldl, Keeps.foldl2, Keeps.foldl3, Keeps.refl, implies_true, keeps_portGoesDown, *]

theorem keeps_keepalive {b0 : State} {s : State} (p : Nat) (hK : Keeps b0 s) :
    Keeps b0 (keepalive s p) := by
  unfold keepalive; simp (maxDischargeDepth := 99) only [KIss.hold, KIss.done, KIss.fault, KIss.wait, Keeps.upd, Keeps.updId,
         Keeps.ite, Keeps.foldl, Keeps.foldl2, Keeps.foldl3, Keeps.refl, implies_true, keeps_setPortF, *]

theorem keeps_portWoken {b0 : State} {s : State} (p : Nat) (hK : Keeps b0 s) :
    Keeps b0 (portWoken s p) := by
  unfold portWoken; simp (maxDischargeDepth := 99) only [KIss.hold, KIss.done, KIss.fault, KIss.wait, Keeps.upd, Keeps.updId,
         Keeps.ite, Keeps.foldl, Keeps.foldl2, Keeps.foldl3, Keeps.refl, implies_true, keeps_setPortF, keeps_pumpPortAll, *]

theorem keeps_routeNext {b0 : State} {s : State} (p : Nat) (trailer : W64) (hK : Keeps b0 s) :
    Keeps b0 (routeNext s p trailer) := by
  unfold routeNext
  repeat' first
    | with_reducible assumption
    | (extract_lets +onlyGivenNames z; first | ((first | refine Keeps.cut (p := Keeps b0 z) ?_ ?_ | refine Keeps.cut (p := Keeps b0 z.2) ?_ ?_ | refine Keeps.cut (p := Keeps b0 z.2.2) ?_ ?_ | refine Keeps.cut (p := Keeps b0 z.1) ?_ ?_ | refine Keeps.cut (p := Keeps b0 z.s) ?_ ?_ | refine Keeps.cut (p := Keeps b0 z.2.s) ?_ ?_ | refine Keeps.cut (p := Keeps b0 z.2.2.s) ?_ ?_); (focus (intros; dsimp only [z]; (repeat' first | (simp (maxDischargeDepth := 99) only [KIss.hold, KIss.done, KIss.fault, KIss.wait, Keeps.upd, Keeps.updId, Keeps.ite, Keeps.foldl, Keeps.foldl2, Keeps.foldl3, Keeps.refl, implies_true, keeps_report, keeps_setPort, keeps_portCount, keeps_forward, *]; done) | with_reducible apply Keeps.fold1 | with_reducible apply Keeps.fold2 | with_reducible apply Keeps.fold3 | with_reducible apply Keeps.fold21 | with_reducible apply Keeps.foldE | with_reducible apply Keeps.foldE2 | with_reducible apply Keeps.foldE3 | intro _ | split | dsimp only))); intro hz; clear_value z) | clear_value z | skip)
    | (simp (maxDischargeDepth := 99) only [KIss.hold, KIss.done, KIss.fault, KIss.wait, Keeps.upd, Keeps.updId, Keeps.ite, Keeps.foldl, Keeps.foldl2, Keeps.foldl3, Keeps.refl, implies_true, keeps_report, keeps_setPort, keeps_portCount, keeps_forward, *]; done)
    | with_reducible apply Keeps.fold1
    | with_reducible apply Keeps.fold2
    | with_reducible apply Keeps.fold3
    | with_reducible apply Keeps.fold21
    | with_reducible apply Keeps.foldE
    | with_reducible apply Keeps.foldE2
    | with_reducible apply Keeps.foldE3
    | intro _
    | (split <;> (try (rename_i heq; (first | refine Keeps.cut (Keeps.of_eq (b := b0) heq ?_) ?_ | refine Keeps.cut (Keeps.of_eq3 (b := b0) heq ?_) ?_ | refine Keeps.cut (Keeps.of_eq1 (b := b0) heq ?_) ?_ | refine Keeps.cut (Keeps.of_eq4 (b := b0) heq ?_) ?_ | refine Keeps.cut (Keeps.of_eqE (b := b0) heq ?_) ?_ | refine Keeps.cut (Keeps.of_eqE3 (b := b0) heq ?_) ?_); (focus (clear heq; (repeat' first | (simp (maxDischargeDepth := 99) only [KIss.hold, KIss.done, KIss.fault, KIss.wait, Keeps.upd, Keeps.updId, Keeps.ite, Keeps.foldl, Keeps.foldl2, Keeps.foldl3, Keeps.refl, implies_true, keeps_report, keeps_setPort, keeps_portCount, keeps_forward, *]; done) | with_reducible apply Keeps.fold1 | with_reducible apply Keeps.fold2 | with_reducible apply Keeps.fold3 | with_reducible apply Keeps.fold21 | with_reducible apply Keeps.foldE | with_reducible apply Keeps.foldE2 | with_reducible apply Keeps.foldE3 | intro _ | split | dsimp only))); intro hz; (try dsimp only at hz); clear heq)))

theorem keeps_execPortTrain {b0 : State} (p : Port) (r : TrainResult) {s : State} (hK : Keeps b0 s) :
    ∀ u, execPortTrain p r s = .next u → Keeps b0 u := by
  unfold execPortTrain; intro t ht; injection ht with ht; subst ht; simp (maxDischargeDepth := 99) only [KIss.hold,
        KIss.done, KIss.fault, KIss.wait, Keeps.upd, Keeps.updId, Keeps.ite, Keeps.foldl, Keeps.foldl2, Keeps.foldl3,
        Keeps.refl, implies_true, keeps_portTrain, *]

theorem keeps_execPortTrainTimeout {b0 : State} (p : Port) {s : State} (hK : Keeps b0 s) :
    ∀ u, execPortTrainTimeout p s = .next u → Keeps b0 u := by
  unfold execPortTrainTimeout; intro t ht; injection ht with ht; subst ht; simp (maxDischargeDepth := 99) only [KIss.hold,
        KIss.done, KIss.fault, KIss.wait, Keeps.upd, Keeps.updId, Keeps.ite, Keeps.foldl, Keeps.foldl2, Keeps.foldl3,
        Keeps.refl, implies_true, keeps_trainTimeout, *]

theorem keeps_execPortTrainRetry {b0 : State} (p : Port) {s : State} (hK : Keeps b0 s) :
    ∀ u, execPortTrainRetry p s = .next u → Keeps b0 u := by
  unfold execPortTrainRetry; intro t ht; injection ht with ht; subst ht; simp (maxDischargeDepth := 99) only [KIss.hold,
        KIss.done, KIss.fault, KIss.wait, Keeps.upd, Keeps.updId, Keeps.ite, Keeps.foldl, Keeps.foldl2, Keeps.foldl3,
        Keeps.refl, implies_true, keeps_trainRetry, *]

theorem keeps_execFabPortCtlWrite {b0 : State} (a : Agent) (p : Port) (v : W64) {s : State} (hK : Keeps b0 s) :
    ∀ u, execFabPortCtlWrite a p v s = .next u → Keeps b0 u := by
  unfold execFabPortCtlWrite; intro t ht; injection ht with ht; subst ht; simp (maxDischargeDepth := 99) only [KIss.hold,
        KIss.done, KIss.fault, KIss.wait, Keeps.upd, Keeps.updId, Keeps.ite, Keeps.foldl, Keeps.foldl2, Keeps.foldl3,
        Keeps.refl, implies_true, keeps_portCtlWrite, *]

theorem keeps_execDataFrameReceive {b0 : State} (p : Port) (f : DataFrame) {s : State} (hK : Keeps b0 s) :
    ∀ u, execDataFrameReceive p f s = .next u → Keeps b0 u := by
  unfold execDataFrameReceive; intro t ht; injection ht with ht; subst ht; simp (maxDischargeDepth := 99) only [KIss.hold,
        KIss.done, KIss.fault, KIss.wait, Keeps.upd, Keeps.updId, Keeps.ite, Keeps.foldl, Keeps.foldl2, Keeps.foldl3,
        Keeps.refl, implies_true, keeps_dataFrame, *]

theorem keeps_execControlFrameReceive {b0 : State} (p : Port) (f : ControlCodeword) {s : State} (hK : Keeps b0 s) :
    ∀ u, execControlFrameReceive p f s = .next u → Keeps b0 u := by
  unfold execControlFrameReceive; intro t ht; injection ht with ht; subst ht; simp (maxDischargeDepth := 99) only [KIss.hold,
         KIss.done, KIss.fault, KIss.wait, Keeps.upd, Keeps.updId, Keeps.ite, Keeps.foldl, Keeps.foldl2, Keeps.foldl3,
        Keeps.refl, implies_true, keeps_controlFrame, *]

theorem keeps_execPortDown {b0 : State} (p : Port) (why : DownCause) {s : State} (hK : Keeps b0 s) :
    ∀ u, execPortDown p why s = .next u → Keeps b0 u := by
  unfold execPortDown; intro t ht; injection ht with ht; subst ht; simp (maxDischargeDepth := 99) only [KIss.hold, KIss.done,
         KIss.fault, KIss.wait, Keeps.upd, Keeps.updId, Keeps.ite, Keeps.foldl, Keeps.foldl2, Keeps.foldl3, Keeps.refl,
        implies_true, keeps_portDownNow, *]

theorem keeps_execKeepaliveEnter {b0 : State} (p : Port) {s : State} (hK : Keeps b0 s) :
    ∀ u, execKeepaliveEnter p s = .next u → Keeps b0 u := by
  unfold execKeepaliveEnter; intro t ht; injection ht with ht; subst ht; simp (maxDischargeDepth := 99) only [KIss.hold,
        KIss.done, KIss.fault, KIss.wait, Keeps.upd, Keeps.updId, Keeps.ite, Keeps.foldl, Keeps.foldl2, Keeps.foldl3,
        Keeps.refl, implies_true, keeps_keepalive, *]

theorem keeps_execPortWake {b0 : State} (p : Port) {s : State} (hK : Keeps b0 s) :
    ∀ u, execPortWake p s = .next u → Keeps b0 u := by
  unfold execPortWake; intro t ht; injection ht with ht; subst ht; simp (maxDischargeDepth := 99) only [KIss.hold, KIss.done,
         KIss.fault, KIss.wait, Keeps.upd, Keeps.updId, Keeps.ite, Keeps.foldl, Keeps.foldl2, Keeps.foldl3, Keeps.refl,
        implies_true, keeps_portWoken, *]

theorem keeps_execPortWakeTimeout {b0 : State} (p : Port) {s : State} (hK : Keeps b0 s) :
    ∀ u, execPortWakeTimeout p s = .next u → Keeps b0 u := by
  unfold execPortWakeTimeout; intro t ht; injection ht with ht; subst ht; simp (maxDischargeDepth := 99) only [KIss.hold,
        KIss.done, KIss.fault, KIss.wait, Keeps.upd, Keeps.updId, Keeps.ite, Keeps.foldl, Keeps.foldl2, Keeps.foldl3,
        Keeps.refl, implies_true, keeps_portGoesDown, *]

theorem keeps_execPacketRoute {b0 : State} (p : Port) (trailer : W64) {s : State} (hK : Keeps b0 s) :
    ∀ u, execPacketRoute p trailer s = .next u → Keeps b0 u := by
  unfold execPacketRoute; intro t ht; injection ht with ht; subst ht; simp (maxDischargeDepth := 99) only [KIss.hold,
        KIss.done, KIss.fault, KIss.wait, Keeps.upd, Keeps.updId, Keeps.ite, Keeps.foldl, Keeps.foldl2, Keeps.foldl3,
        Keeps.refl, implies_true, keeps_routeNext, *]

theorem keeps_execWritePacket {b0 : State} (n : Nat) {s : State} (hK : Keeps b0 s) :
    ∀ u, execWritePacket n s = .next u → Keeps b0 u := by
  unfold execWritePacket; intro t ht; injection ht with ht; subst ht; simp (maxDischargeDepth := 99) only [KIss.hold,
        KIss.done, KIss.fault, KIss.wait, Keeps.upd, Keeps.updId, Keeps.ite, Keeps.foldl, Keeps.foldl2, Keeps.foldl3,
        Keeps.refl, implies_true, keeps_onRequest, keeps_performWrite, *]

theorem keeps_execReadPacket {b0 : State} (n : Nat) {s : State} (hK : Keeps b0 s) :
    ∀ u, execReadPacket n s = .next u → Keeps b0 u := by
  unfold execReadPacket; intro t ht; injection ht with ht; subst ht; simp (maxDischargeDepth := 99) only [KIss.hold,
        KIss.done, KIss.fault, KIss.wait, Keeps.upd, Keeps.updId, Keeps.ite, Keeps.foldl, Keeps.foldl2, Keeps.foldl3,
        Keeps.refl, implies_true, keeps_onRequest, keeps_performRead, *]

theorem keeps_execAtomicPacket {b0 : State} (n : Nat) {s : State} (hK : Keeps b0 s) :
    ∀ u, execAtomicPacket n s = .next u → Keeps b0 u := by
  unfold execAtomicPacket; intro t ht; injection ht with ht; subst ht; simp (maxDischargeDepth := 99) only [KIss.hold,
        KIss.done, KIss.fault, KIss.wait, Keeps.upd, Keeps.updId, Keeps.ite, Keeps.foldl, Keeps.foldl2, Keeps.foldl3,
        Keeps.refl, implies_true, keeps_onRequest, keeps_performAtomic, *]

theorem keeps_execMessagePacket {b0 : State} (n : Nat) {s : State} (hK : Keeps b0 s) :
    ∀ u, execMessagePacket n s = .next u → Keeps b0 u := by
  unfold execMessagePacket; intro t ht; injection ht with ht; subst ht; simp (maxDischargeDepth := 99) only [KIss.hold,
        KIss.done, KIss.fault, KIss.wait, Keeps.upd, Keeps.updId, Keeps.ite, Keeps.foldl, Keeps.foldl2, Keeps.foldl3,
        Keeps.refl, implies_true, keeps_onRequest, keeps_performMessage, *]

theorem keeps_execContribPacket {b0 : State} (n : Nat) {s : State} (hK : Keeps b0 s) :
    ∀ u, execContribPacket n s = .next u → Keeps b0 u := by
  unfold execContribPacket; intro t ht; injection ht with ht; subst ht; simp (maxDischargeDepth := 99) only [KIss.hold,
        KIss.done, KIss.fault, KIss.wait, Keeps.upd, Keeps.updId, Keeps.ite, Keeps.foldl, Keeps.foldl2, Keeps.foldl3,
        Keeps.refl, implies_true, keeps_onRequest, keeps_performContrib, *]

theorem keeps_execAckPacket {b0 : State} (n : Nat) {s : State} (hK : Keeps b0 s) :
    ∀ u, execAckPacket n s = .next u → Keeps b0 u := by
  unfold execAckPacket; intro t ht; injection ht with ht; subst ht; simp (maxDischargeDepth := 99) only [KIss.hold,
        KIss.done, KIss.fault, KIss.wait, Keeps.upd, Keeps.updId, Keeps.ite, Keeps.foldl, Keeps.foldl2, Keeps.foldl3,
        Keeps.refl, implies_true, keeps_onAnswer, *]

theorem keeps_execReadDataPacket {b0 : State} (n : Nat) {s : State} (hK : Keeps b0 s) :
    ∀ u, execReadDataPacket n s = .next u → Keeps b0 u := by
  unfold execReadDataPacket; intro t ht; injection ht with ht; subst ht; simp (maxDischargeDepth := 99) only [KIss.hold,
        KIss.done, KIss.fault, KIss.wait, Keeps.upd, Keeps.updId, Keeps.ite, Keeps.foldl, Keeps.foldl2, Keeps.foldl3,
        Keeps.refl, implies_true, keeps_onAnswer, *]

theorem keeps_execAtomicResultPacket {b0 : State} (n : Nat) {s : State} (hK : Keeps b0 s) :
    ∀ u, execAtomicResultPacket n s = .next u → Keeps b0 u := by
  unfold execAtomicResultPacket; intro t ht; injection ht with ht; subst ht; simp (maxDischargeDepth := 99) only [KIss.hold,
        KIss.done, KIss.fault, KIss.wait, Keeps.upd, Keeps.updId, Keeps.ite, Keeps.foldl, Keeps.foldl2, Keeps.foldl3,
        Keeps.refl, implies_true, keeps_onAnswer, *]

theorem keeps_execNakPacket {b0 : State} (n : Nat) {s : State} (hK : Keeps b0 s) :
    ∀ u, execNakPacket n s = .next u → Keeps b0 u := by
  unfold execNakPacket; intro t ht; injection ht with ht; subst ht; simp (maxDischargeDepth := 99) only [KIss.hold,
        KIss.done, KIss.fault, KIss.wait, Keeps.upd, Keeps.updId, Keeps.ite, Keeps.foldl, Keeps.foldl2, Keeps.foldl3,
        Keeps.refl, implies_true, keeps_onNak, *]

theorem keeps_execFabRxFullRetry {b0 : State} (c : Fin 8192) {s : State} (hK : Keeps b0 s) :
    ∀ u, execFabRxFullRetry c s = .next u → Keeps b0 u := by
  unfold execFabRxFullRetry; intro t ht; injection ht with ht; subst ht; simp (maxDischargeDepth := 99) only [KIss.hold,
        KIss.done, KIss.fault, KIss.wait, Keeps.upd, Keeps.updId, Keeps.ite, Keeps.foldl, Keeps.foldl2, Keeps.foldl3,
        Keeps.refl, implies_true, keeps_rxFullRetry, *]

theorem keeps_execFabRtoExpiry {b0 : State} (c : Fin 8192) {s : State} (hK : Keeps b0 s) :
    ∀ u, execFabRtoExpiry c s = .next u → Keeps b0 u := by
  unfold execFabRtoExpiry; intro t ht; injection ht with ht; subst ht; simp (maxDischargeDepth := 99) only [KIss.hold,
        KIss.done, KIss.fault, KIss.wait, Keeps.upd, Keeps.updId, Keeps.ite, Keeps.foldl, Keeps.foldl2, Keeps.foldl3,
        Keeps.refl, implies_true, keeps_rtoExpiry, *]

theorem keeps_execFabQcfgWrite {b0 : State} (a : Agent) (l : LDie) (n : Fin 64) (v : W64) {s : State} (hK : Keeps b0 s) :
    ∀ u, execFabQcfgWrite a l n v s = .next u → Keeps b0 u := by
  unfold execFabQcfgWrite; intro t ht; injection ht with ht; subst ht; simp (maxDischargeDepth := 99) only [KIss.hold,
        KIss.done, KIss.fault, KIss.wait, Keeps.upd, Keeps.updId, Keeps.ite, Keeps.foldl, Keeps.foldl2, Keeps.foldl3,
        Keeps.refl, implies_true, keeps_fabQcfgWrite, *]

theorem keeps_execFabRxqDoorbell {b0 : State} (l : LDie) (n : Fin 64) (v : W64) {s : State} (hK : Keeps b0 s) :
    ∀ u, execFabRxqDoorbell l n v s = .next u → Keeps b0 u := by
  unfold execFabRxqDoorbell
  repeat' first
    | with_reducible assumption
    | refine fun (y : State) (gr : Group) (hy : Keeps b0 y) => ?_
    | (extract_lets +onlyGivenNames z; first | ((first | refine Keeps.cut (p := Keeps b0 z) ?_ ?_ | refine Keeps.cut (p := Keeps b0 z.2) ?_ ?_ | refine Keeps.cut (p := Keeps b0 z.2.2) ?_ ?_ | refine Keeps.cut (p := Keeps b0 z.1) ?_ ?_ | refine Keeps.cut (p := Keeps b0 z.s) ?_ ?_ | refine Keeps.cut (p := Keeps b0 z.2.s) ?_ ?_ | refine Keeps.cut (p := Keeps b0 z.2.2.s) ?_ ?_); (focus (intros; dsimp only [z]; (repeat' first | (simp (maxDischargeDepth := 99) only [KIss.hold, KIss.done, KIss.fault, KIss.wait, Keeps.upd, Keeps.updId, Keeps.ite, Keeps.foldl, Keeps.foldl2, Keeps.foldl3, Keeps.refl, implies_true, keeps_grtWrite, *]; done) | with_reducible apply Keeps.fold1 | with_reducible apply Keeps.fold2 | with_reducible apply Keeps.fold3 | with_reducible apply Keeps.fold21 | with_reducible apply Keeps.foldE | with_reducible apply Keeps.foldE2 | with_reducible apply Keeps.foldE3 | intro _ | split | dsimp only))); intro hz; clear_value z) | clear_value z | skip)
    | (simp (maxDischargeDepth := 99) only [KIss.hold, KIss.done, KIss.fault, KIss.wait, Keeps.upd, Keeps.updId, Keeps.ite, Keeps.foldl, Keeps.foldl2, Keeps.foldl3, Keeps.refl, implies_true, keeps_grtWrite, *]; done)
    | (intro t ht; injection ht with ht; subst ht)
    | (intro t ht; contradiction)
    | with_reducible apply Keeps.fold1
    | with_reducible apply Keeps.fold2
    | with_reducible apply Keeps.fold3
    | with_reducible apply Keeps.fold21
    | with_reducible apply Keeps.foldE
    | with_reducible apply Keeps.foldE2
    | with_reducible apply Keeps.foldE3
    | (split <;> (try (rename_i heq; (first | refine Keeps.cut (Keeps.of_eq (b := b0) heq ?_) ?_ | refine Keeps.cut (Keeps.of_eq3 (b := b0) heq ?_) ?_ | refine Keeps.cut (Keeps.of_eq1 (b := b0) heq ?_) ?_ | refine Keeps.cut (Keeps.of_eq4 (b := b0) heq ?_) ?_ | refine Keeps.cut (Keeps.of_eqE (b := b0) heq ?_) ?_ | refine Keeps.cut (Keeps.of_eqE3 (b := b0) heq ?_) ?_); (focus (clear heq; (repeat' first | (simp (maxDischargeDepth := 99) only [KIss.hold, KIss.done, KIss.fault, KIss.wait, Keeps.upd, Keeps.updId, Keeps.ite, Keeps.foldl, Keeps.foldl2, Keeps.foldl3, Keeps.refl, implies_true, keeps_grtWrite, *]; done) | with_reducible apply Keeps.fold1 | with_reducible apply Keeps.fold2 | with_reducible apply Keeps.fold3 | with_reducible apply Keeps.fold21 | with_reducible apply Keeps.foldE | with_reducible apply Keeps.foldE2 | with_reducible apply Keeps.foldE3 | intro _ | split | dsimp only))); intro hz; (try dsimp only at hz); clear heq)))
    | intro _

theorem keeps_lossRecord {b0 : State} {s : State} (d : Nat) (cause : Nat) (hK : Keeps b0 s) :
    Keeps b0 (lossRecord s d cause) := by
  unfold lossRecord; simp (maxDischargeDepth := 99) only [KIss.hold, KIss.done, KIss.fault, KIss.wait, Keeps.upd,
        Keeps.updId, Keeps.ite, Keeps.foldl, Keeps.foldl2, Keeps.foldl3, Keeps.refl, implies_true, keeps_rfset, *]

theorem keeps_fatalLoss {b0 : State} {s : State} (d : Nat) (cause : Nat) (hK : Keeps b0 s) :
    Keeps b0 (fatalLoss s d cause) := by
  unfold fatalLoss; simp (maxDischargeDepth := 99) only [KIss.hold, KIss.done, KIss.fault, KIss.wait, Keeps.upd, Keeps.updId,
         Keeps.ite, Keeps.foldl, Keeps.foldl2, Keeps.foldl3, Keeps.refl, implies_true, keeps_setDieSt, keeps_report,
        keeps_addHold, keeps_mbxMainReset, keeps_releaseTiles, keeps_lossRecord, *]

theorem keeps_linksTrain {b0 : State} {s : State} (d : Nat) (hK : Keeps b0 s) :
    Keeps b0 (linksTrain s d) := by
  unfold linksTrain
  repeat' first
    | with_reducible assumption
    | (extract_lets +onlyGivenNames z; first | ((first | refine Keeps.cut (p := Keeps b0 z) ?_ ?_ | refine Keeps.cut (p := Keeps b0 z.2) ?_ ?_ | refine Keeps.cut (p := Keeps b0 z.2.2) ?_ ?_ | refine Keeps.cut (p := Keeps b0 z.1) ?_ ?_ | refine Keeps.cut (p := Keeps b0 z.s) ?_ ?_ | refine Keeps.cut (p := Keeps b0 z.2.s) ?_ ?_ | refine Keeps.cut (p := Keeps b0 z.2.2.s) ?_ ?_); (focus (intros; dsimp only [z]; (repeat' first | (simp (maxDischargeDepth := 99) only [KIss.hold, KIss.done, KIss.fault, KIss.wait, Keeps.upd, Keeps.updId, Keeps.ite, Keeps.foldl, Keeps.foldl2, Keeps.foldl3, Keeps.refl, implies_true, keeps_lkSet, keeps_setLk, keeps_bothEnds, keeps_linkGoes, *]; done) | with_reducible apply Keeps.fold1 | with_reducible apply Keeps.fold2 | with_reducible apply Keeps.fold3 | with_reducible apply Keeps.fold21 | with_reducible apply Keeps.foldE | with_reducible apply Keeps.foldE2 | with_reducible apply Keeps.foldE3 | intro _ | split | dsimp only))); intro hz; clear_value z) | clear_value z | skip)
    | (simp (maxDischargeDepth := 99) only [KIss.hold, KIss.done, KIss.fault, KIss.wait, Keeps.upd, Keeps.updId, Keeps.ite, Keeps.foldl, Keeps.foldl2, Keeps.foldl3, Keeps.refl, implies_true, keeps_lkSet, keeps_setLk, keeps_bothEnds, keeps_linkGoes, *]; done)
    | with_reducible apply Keeps.fold1
    | with_reducible apply Keeps.fold2
    | with_reducible apply Keeps.fold3
    | with_reducible apply Keeps.fold21
    | with_reducible apply Keeps.foldE
    | with_reducible apply Keeps.foldE2
    | with_reducible apply Keeps.foldE3
    | intro _
    | (split <;> (try (rename_i heq; (first | refine Keeps.cut (Keeps.of_eq (b := b0) heq ?_) ?_ | refine Keeps.cut (Keeps.of_eq3 (b := b0) heq ?_) ?_ | refine Keeps.cut (Keeps.of_eq1 (b := b0) heq ?_) ?_ | refine Keeps.cut (Keeps.of_eq4 (b := b0) heq ?_) ?_ | refine Keeps.cut (Keeps.of_eqE (b := b0) heq ?_) ?_ | refine Keeps.cut (Keeps.of_eqE3 (b := b0) heq ?_) ?_); (focus (clear heq; (repeat' first | (simp (maxDischargeDepth := 99) only [KIss.hold, KIss.done, KIss.fault, KIss.wait, Keeps.upd, Keeps.updId, Keeps.ite, Keeps.foldl, Keeps.foldl2, Keeps.foldl3, Keeps.refl, implies_true, keeps_lkSet, keeps_setLk, keeps_bothEnds, keeps_linkGoes, *]; done) | with_reducible apply Keeps.fold1 | with_reducible apply Keeps.fold2 | with_reducible apply Keeps.fold3 | with_reducible apply Keeps.fold21 | with_reducible apply Keeps.foldE | with_reducible apply Keeps.foldE2 | with_reducible apply Keeps.foldE3 | intro _ | split | dsimp only))); intro hz; (try dsimp only at hz); clear heq)))

theorem keeps_beginRejoin {b0 : State} {s : State} (d : Nat) (hK : Keeps b0 s) :
    Keeps b0 (beginRejoin s d) := by
  unfold beginRejoin; simp (maxDischargeDepth := 99) only [KIss.hold, KIss.done, KIss.fault, KIss.wait, Keeps.upd,
        Keeps.updId, Keeps.ite, Keeps.foldl, Keeps.foldl2, Keeps.foldl3, Keeps.refl, implies_true, keeps_setDieSt,
        keeps_linksTrain, *]

theorem keeps_rejoinFails {b0 : State} {s : State} (d : Nat) (hK : Keeps b0 s) :
    Keeps b0 (rejoinFails s d) := by
  unfold rejoinFails; simp (maxDischargeDepth := 99) only [KIss.hold, KIss.done, KIss.fault, KIss.wait, Keeps.upd,
        Keeps.updId, Keeps.ite, Keeps.foldl, Keeps.foldl2, Keeps.foldl3, Keeps.refl, implies_true, keeps_rfset,
        keeps_setDieSt, keeps_report, keeps_linksFenced, keeps_linksTrain, *]

theorem keeps_dieRegsReset {b0 : State} {s : State} (d : Nat) (hK : Keeps b0 s) : Keeps b0 (dieRegsReset s d) := by
  unfold dieRegsReset
  exact (Keeps.setRegs hK fun h => rising_filter h _).upd

theorem keeps_lossSettled {b0 : State} {s : State} (d : Nat) (hK : Keeps b0 s) :
    Keeps b0 (lossSettled s d) := by
  unfold lossSettled; simp (maxDischargeDepth := 99) only [KIss.hold, KIss.done, KIss.fault, KIss.wait, Keeps.upd,
        Keeps.updId, Keeps.ite, Keeps.foldl, Keeps.foldl2, Keeps.foldl3, Keeps.refl, implies_true, keeps_setDieSt,
        keeps_beginRejoin, *]

theorem keeps_fabDescsLost {b0 : State} {s : State} (l : Nat) (hK : Keeps b0 s) :
    Keeps b0 (fabDescsLost s l) := by
  unfold fabDescsLost; simp (maxDischargeDepth := 99) only [KIss.hold, KIss.done, KIss.fault, KIss.wait, Keeps.upd,
        Keeps.updId, Keeps.ite, Keeps.foldl, Keeps.foldl2, Keeps.foldl3, Keeps.refl, implies_true, keeps_setQueue,
        keeps_descComplete, *]

theorem keeps_lDieContents {b0 : State} {s : State} (l : Nat) (hK : Keeps b0 s) :
    Keeps b0 (lDieContents s l) := by
  unfold lDieContents; simp (maxDischargeDepth := 99) only [KIss.hold, KIss.done, KIss.fault, KIss.wait, Keeps.upd,
        Keeps.updId, Keeps.ite, Keeps.foldl, Keeps.foldl2, Keeps.foldl3, Keeps.refl, implies_true, keeps_linksFenced,
        keeps_setPort, keeps_setPortF, keeps_connsLost, keeps_dieRegsReset, keeps_fabDescsLost, *]

theorem keeps_lDieLost {b0 : State} {s : State} (l : Nat) (cause : Nat) (hK : Keeps b0 s) :
    Keeps b0 (lDieLost s l cause) := by
  unfold lDieLost; simp (maxDischargeDepth := 99) only [KIss.hold, KIss.done, KIss.fault, KIss.wait, Keeps.upd, Keeps.updId,
        Keeps.ite, Keeps.foldl, Keeps.foldl2, Keeps.foldl3, Keeps.refl, implies_true, keeps_setDieSt, keeps_report,
        keeps_lossRecord, keeps_lossSettled, keeps_lDieContents, *]

theorem keeps_lDieWithC {b0 : State} {s : State} (l : Nat) (hK : Keeps b0 s) :
    Keeps b0 (lDieWithC s l) := by
  unfold lDieWithC; simp (maxDischargeDepth := 99) only [KIss.hold, KIss.done, KIss.fault, KIss.wait, Keeps.upd, Keeps.updId,
         Keeps.ite, Keeps.foldl, Keeps.foldl2, Keeps.foldl3, Keeps.refl, implies_true, keeps_setDieSt, keeps_linksFenced,
        keeps_lossRecord, keeps_rejoinFails, keeps_lDieLost, *]

theorem keeps_jobsOfLost {b0 : State} {s : State} (k : Nat) (hK : Keeps b0 s) :
    Keeps b0 (jobsOfLost s k) := by
  unfold jobsOfLost; simp (maxDischargeDepth := 99) only [KIss.hold, KIss.done, KIss.fault, KIss.wait, Keeps.upd,
        Keeps.updId, Keeps.ite, Keeps.foldl, Keeps.foldl2, Keeps.foldl3, Keeps.refl, implies_true, keeps_jobEnd, *]

theorem keeps_cDieContents {b0 : State} {s : State} (k : Nat) (hK : Keeps b0 s) :
    Keeps b0 (cDieContents s k) := by
  unfold cDieContents; simp (maxDischargeDepth := 99) only [KIss.hold, KIss.done, KIss.fault, KIss.wait, Keeps.upd,
        Keeps.updId, Keeps.ite, Keeps.foldl, Keeps.foldl2, Keeps.foldl3, Keeps.refl, implies_true, keeps_linksFenced,
        keeps_partAnswer, keeps_ownerSet, keeps_dieRegsReset, *]

theorem keeps_inFlightLost {b0 : State} {s : State} (k : Nat) (hK : Keeps b0 s) :
    Keeps b0 (inFlightLost s k) := by
  unfold inFlightLost; simp (maxDischargeDepth := 99) only [KIss.hold, KIss.done, KIss.fault, KIss.wait, Keeps.upd,
        Keeps.updId, Keeps.ite, Keeps.foldl, Keeps.foldl2, Keeps.foldl3, Keeps.refl, implies_true, *]

theorem keeps_cDieLost {b0 : State} {s : State} (k : Nat) (cause : Nat) (hK : Keeps b0 s) :
    Keeps b0 (cDieLost s k cause) := by
  unfold cDieLost; (repeat' split) <;> simp (maxDischargeDepth := 99) only [KIss.hold, KIss.done, KIss.fault, KIss.wait,
        Keeps.upd, Keeps.updId, Keeps.ite, Keeps.foldl, Keeps.foldl2, Keeps.foldl3, Keeps.refl, implies_true, keeps_setDieSt,
         keeps_report, keeps_lossRecord, keeps_lDieWithC, keeps_jobsOfLost, keeps_cDieContents, keeps_inFlightLost, *]

theorem keeps_lossChain {b0 : State} (x0 : Nat) {x1 : State} (x2 : Nat) (x3 : Nat) (hK : Keeps b0 x1) :
    Keeps b0 (lossChain x0 x1 x2 x3) := by
  induction x0 generalizing b0 x1 x2 x3 with
  | zero => unfold lossChain; (repeat' split) <;> (simp (maxDischargeDepth := 99) only [KIss.hold, KIss.done, KIss.fault, KIss.wait, Keeps.upd, Keeps.updId, Keeps.ite, Keeps.foldl, Keeps.foldl2, Keeps.foldl3, Keeps.refl, implies_true, keeps_lossRecord, keeps_fatalLoss, keeps_rejoinFails, keeps_lDieLost, keeps_cDieLost, *]; done)
  | succ n ih =>
    unfold lossChain
    repeat' first
      | with_reducible assumption
      | (simp (maxDischargeDepth := 99) only [KIss.hold, KIss.done, KIss.fault, KIss.wait, Keeps.upd, Keeps.updId, Keeps.ite, Keeps.foldl, Keeps.foldl2, Keeps.foldl3, Keeps.refl, implies_true, keeps_lossRecord, keeps_fatalLoss, keeps_rejoinFails, keeps_lDieLost, keeps_cDieLost, *]; done)
      | (split <;> (try (rename_i heq; (first | refine Keeps.cut (Keeps.of_eq (b := b0) heq ?_) ?_ | refine Keeps.cut (Keeps.of_eq3 (b := b0) heq ?_) ?_ | refine Keeps.cut (Keeps.of_eq1 (b := b0) heq ?_) ?_ | refine Keeps.cut (Keeps.of_eq4 (b := b0) heq ?_) ?_ | refine Keeps.cut (Keeps.of_eqE (b := b0) heq ?_) ?_ | refine Keeps.cut (Keeps.of_eqE3 (b := b0) heq ?_) ?_); (focus (clear heq; (repeat' first | (simp (maxDischargeDepth := 99) only [KIss.hold, KIss.done, KIss.fault, KIss.wait, Keeps.upd, Keeps.updId, Keeps.ite, Keeps.foldl, Keeps.foldl2, Keeps.foldl3, Keeps.refl, implies_true, keeps_lossRecord, keeps_fatalLoss, keeps_rejoinFails, keeps_lDieLost, keeps_cDieLost, *]; done) | with_reducible apply Keeps.fold1 | with_reducible apply Keeps.fold2 | with_reducible apply Keeps.fold3 | with_reducible apply Keeps.fold21 | with_reducible apply Keeps.foldE | with_reducible apply Keeps.foldE2 | with_reducible apply Keeps.foldE3 | intro _ | split | dsimp only))); intro hz; (try dsimp only at hz); clear heq)))

theorem keeps_dieLossEvent {b0 : State} {s : State} (d : Nat) (cause : Nat) (hK : Keeps b0 s) :
    Keeps b0 (dieLossEvent s d cause) := by
  unfold dieLossEvent; simp (maxDischargeDepth := 99) only [KIss.hold, KIss.done, KIss.fault, KIss.wait, Keeps.upd,
        Keeps.updId, Keeps.ite, Keeps.foldl, Keeps.foldl2, Keeps.foldl3, Keeps.refl, implies_true, keeps_lossChain, *]

theorem keeps_cLossDone {b0 : State} {s : State} (k : Nat) (hK : Keeps b0 s) :
    Keeps b0 (cLossDone s k) := by
  unfold cLossDone; simp (maxDischargeDepth := 99) only [KIss.hold, KIss.done, KIss.fault, KIss.wait, Keeps.upd, Keeps.updId,
         Keeps.ite, Keeps.foldl, Keeps.foldl2, Keeps.foldl3, Keeps.refl, implies_true, keeps_lossSettled, *]

theorem keeps_linkSwitch {b0 : State} {s : State} (k : Nat) (hK : Keeps b0 s) :
    Keeps b0 (linkSwitch s k) := by
  unfold linkSwitch; simp (maxDischargeDepth := 99) only [KIss.hold, KIss.done, KIss.fault, KIss.wait, Keeps.upd,
        Keeps.updId, Keeps.ite, Keeps.foldl, Keeps.foldl2, Keeps.foldl3, Keeps.refl, implies_true, keeps_stacksSwitch,
        keeps_cLossDone, *]

theorem keeps_lostTilesFenced {b0 : State} {s : State} (k : Nat) (hK : Keeps b0 s) :
    Keeps b0 (lostTilesFenced s k) := by
  unfold lostTilesFenced; simp (maxDischargeDepth := 99) only [KIss.hold, KIss.done, KIss.fault, KIss.wait, Keeps.upd,
        Keeps.updId, Keeps.ite, Keeps.foldl, Keeps.foldl2, Keeps.foldl3, Keeps.refl, implies_true, keeps_fenceTile,
        keeps_cLossDone, *]

theorem keeps_mLinksUp {b0 : State} {s : State} (k : Nat) (r : RejoinResult) (hK : Keeps b0 s) :
    Keeps b0 (mLinksUp s k r) := by
  unfold mLinksUp
  repeat' first
    | with_reducible assumption
    | (extract_lets +onlyGivenNames z; first | ((first | refine Keeps.cut (p := Keeps b0 z) ?_ ?_ | refine Keeps.cut (p := Keeps b0 z.2) ?_ ?_ | refine Keeps.cut (p := Keeps b0 z.2.2) ?_ ?_ | refine Keeps.cut (p := Keeps b0 z.1) ?_ ?_ | refine Keeps.cut (p := Keeps b0 z.s) ?_ ?_ | refine Keeps.cut (p := Keeps b0 z.2.s) ?_ ?_ | refine Keeps.cut (p := Keeps b0 z.2.2.s) ?_ ?_); (focus (intros; dsimp only [z]; (repeat' first | (simp (maxDischargeDepth := 99) only [KIss.hold, KIss.done, KIss.fault, KIss.wait, Keeps.upd, Keeps.updId, Keeps.ite, Keeps.foldl, Keeps.foldl2, Keeps.foldl3, Keeps.refl, implies_true, keeps_slicesAdopt, *]; done) | with_reducible apply Keeps.fold1 | with_reducible apply Keeps.fold2 | with_reducible apply Keeps.fold3 | with_reducible apply Keeps.fold21 | with_reducible apply Keeps.foldE | with_reducible apply Keeps.foldE2 | with_reducible apply Keeps.foldE3 | intro _ | split | dsimp only))); intro hz; clear_value z) | clear_value z | skip)
    | (simp (maxDischargeDepth := 99) only [KIss.hold, KIss.done, KIss.fault, KIss.wait, Keeps.upd, Keeps.updId, Keeps.ite, Keeps.foldl, Keeps.foldl2, Keeps.foldl3, Keeps.refl, implies_true, keeps_slicesAdopt, *]; done)
    | with_reducible apply Keeps.fold1
    | with_reducible apply Keeps.fold2
    | with_reducible apply Keeps.fold3
    | with_reducible apply Keeps.fold21
    | with_reducible apply Keeps.foldE
    | with_reducible apply Keeps.foldE2
    | with_reducible apply Keeps.foldE3
    | intro _
    | (split <;> (try (rename_i heq; (first | refine Keeps.cut (Keeps.of_eq (b := b0) heq ?_) ?_ | refine Keeps.cut (Keeps.of_eq3 (b := b0) heq ?_) ?_ | refine Keeps.cut (Keeps.of_eq1 (b := b0) heq ?_) ?_ | refine Keeps.cut (Keeps.of_eq4 (b := b0) heq ?_) ?_ | refine Keeps.cut (Keeps.of_eqE (b := b0) heq ?_) ?_ | refine Keeps.cut (Keeps.of_eqE3 (b := b0) heq ?_) ?_); (focus (clear heq; (repeat' first | (simp (maxDischargeDepth := 99) only [KIss.hold, KIss.done, KIss.fault, KIss.wait, Keeps.upd, Keeps.updId, Keeps.ite, Keeps.foldl, Keeps.foldl2, Keeps.foldl3, Keeps.refl, implies_true, keeps_slicesAdopt, *]; done) | with_reducible apply Keeps.fold1 | with_reducible apply Keeps.fold2 | with_reducible apply Keeps.fold3 | with_reducible apply Keeps.fold21 | with_reducible apply Keeps.foldE | with_reducible apply Keeps.foldE2 | with_reducible apply Keeps.foldE3 | intro _ | split | dsimp only))); intro hz; (try dsimp only at hz); clear heq)))

theorem keeps_stackBack {b0 : State} {s : State} (m : Nat) (hK : Keeps b0 s) :
    Keeps b0 (stackBack s m) := by
  unfold stackBack; simp (maxDischargeDepth := 99) only [KIss.hold, KIss.done, KIss.fault, KIss.wait, Keeps.upd, Keeps.updId,
         Keeps.ite, Keeps.foldl, Keeps.foldl2, Keeps.foldl3, Keeps.refl, implies_true, keeps_setSecondary, *]

theorem keeps_idleShown {b0 : State} {s : State} (d : Nat) (hK : Keeps b0 s) :
    Keeps b0 (idleShown s d) := by
  unfold idleShown; simp (maxDischargeDepth := 99) only [KIss.hold, KIss.done, KIss.fault, KIss.wait, Keeps.upd, Keeps.updId,
         Keeps.ite, Keeps.foldl, Keeps.foldl2, Keeps.foldl3, Keeps.refl, implies_true, keeps_rfset, *]

theorem keeps_cRejoin {b0 : State} {s : State} (k : Nat) (r : RejoinResult) (hK : Keeps b0 s) :
    Keeps b0 (cRejoin s k r) := by
  unfold cRejoin
  repeat' first
    | with_reducible assumption
    | (extract_lets +onlyGivenNames z; first | ((first | refine Keeps.cut (p := Keeps b0 z) ?_ ?_ | refine Keeps.cut (p := Keeps b0 z.2) ?_ ?_ | refine Keeps.cut (p := Keeps b0 z.2.2) ?_ ?_ | refine Keeps.cut (p := Keeps b0 z.1) ?_ ?_ | refine Keeps.cut (p := Keeps b0 z.s) ?_ ?_ | refine Keeps.cut (p := Keeps b0 z.2.s) ?_ ?_ | refine Keeps.cut (p := Keeps b0 z.2.2.s) ?_ ?_); (focus (intros; dsimp only [z]; (repeat' first | (simp (maxDischargeDepth := 99) only [KIss.hold, KIss.done, KIss.fault, KIss.wait, Keeps.upd, Keeps.updId, Keeps.ite, Keeps.foldl, Keeps.foldl2, Keeps.foldl3, Keeps.refl, implies_true, keeps_rfset, keeps_setTileCounts, keeps_setFenced, keeps_fenceEnter, keeps_stackPlaced, keeps_dieGoesActive, keeps_enableCaches, keeps_loadTrims, keeps_generatorTest, keeps_mLinksUp, keeps_stackBack, keeps_idleShown, *]; done) | with_reducible apply Keeps.fold1 | with_reducible apply Keeps.fold2 | with_reducible apply Keeps.fold3 | with_reducible apply Keeps.fold21 | with_reducible apply Keeps.foldE | with_reducible apply Keeps.foldE2 | with_reducible apply Keeps.foldE3 | intro _ | split | dsimp only))); intro hz; clear_value z) | clear_value z | skip)
    | (simp (maxDischargeDepth := 99) only [KIss.hold, KIss.done, KIss.fault, KIss.wait, Keeps.upd, Keeps.updId, Keeps.ite, Keeps.foldl, Keeps.foldl2, Keeps.foldl3, Keeps.refl, implies_true, keeps_rfset, keeps_setTileCounts, keeps_setFenced, keeps_fenceEnter, keeps_stackPlaced, keeps_dieGoesActive, keeps_enableCaches, keeps_loadTrims, keeps_generatorTest, keeps_mLinksUp, keeps_stackBack, keeps_idleShown, *]; done)
    | with_reducible apply Keeps.fold1
    | with_reducible apply Keeps.fold2
    | with_reducible apply Keeps.fold3
    | with_reducible apply Keeps.fold21
    | with_reducible apply Keeps.foldE
    | with_reducible apply Keeps.foldE2
    | with_reducible apply Keeps.foldE3
    | intro _
    | (split <;> (try (rename_i heq; (first | refine Keeps.cut (Keeps.of_eq (b := b0) heq ?_) ?_ | refine Keeps.cut (Keeps.of_eq3 (b := b0) heq ?_) ?_ | refine Keeps.cut (Keeps.of_eq1 (b := b0) heq ?_) ?_ | refine Keeps.cut (Keeps.of_eq4 (b := b0) heq ?_) ?_ | refine Keeps.cut (Keeps.of_eqE (b := b0) heq ?_) ?_ | refine Keeps.cut (Keeps.of_eqE3 (b := b0) heq ?_) ?_); (focus (clear heq; (repeat' first | (simp (maxDischargeDepth := 99) only [KIss.hold, KIss.done, KIss.fault, KIss.wait, Keeps.upd, Keeps.updId, Keeps.ite, Keeps.foldl, Keeps.foldl2, Keeps.foldl3, Keeps.refl, implies_true, keeps_rfset, keeps_setTileCounts, keeps_setFenced, keeps_fenceEnter, keeps_stackPlaced, keeps_dieGoesActive, keeps_enableCaches, keeps_loadTrims, keeps_generatorTest, keeps_mLinksUp, keeps_stackBack, keeps_idleShown, *]; done) | with_reducible apply Keeps.fold1 | with_reducible apply Keeps.fold2 | with_reducible apply Keeps.fold3 | with_reducible apply Keeps.fold21 | with_reducible apply Keeps.foldE | with_reducible apply Keeps.foldE2 | with_reducible apply Keeps.foldE3 | intro _ | split | dsimp only))); intro hz; (try dsimp only at hz); clear heq)))

theorem keeps_lRejoin {b0 : State} {s : State} (l : Nat) (hK : Keeps b0 s) :
    Keeps b0 (lRejoin s l) := by
  unfold lRejoin; simp (maxDischargeDepth := 99) only [KIss.hold, KIss.done, KIss.fault, KIss.wait, Keeps.upd, Keeps.updId,
        Keeps.ite, Keeps.foldl, Keeps.foldl2, Keeps.foldl3, Keeps.refl, implies_true, keeps_dieGoesActive, keeps_setPortF,
        keeps_idleShown, *]

theorem keeps_dieAction {b0 : State} {s : State} (action : Nat) (d : Nat) (hK : Keeps b0 s) :
    Keeps b0 (dieAction s action d).2 := by
  unfold dieAction
  repeat' first
    | with_reducible assumption
    | (extract_lets +onlyGivenNames z; first | ((first | refine Keeps.cut (p := Keeps b0 z) ?_ ?_ | refine Keeps.cut (p := Keeps b0 z.2) ?_ ?_ | refine Keeps.cut (p := Keeps b0 z.2.2) ?_ ?_ | refine Keeps.cut (p := Keeps b0 z.1) ?_ ?_ | refine Keeps.cut (p := Keeps b0 z.s) ?_ ?_ | refine Keeps.cut (p := Keeps b0 z.2.s) ?_ ?_ | refine Keeps.cut (p := Keeps b0 z.2.2.s) ?_ ?_); (focus (intros; dsimp only [z]; (repeat' first | (simp (maxDischargeDepth := 99) only [KIss.hold, KIss.done, KIss.fault, KIss.wait, Keeps.upd, Keeps.updId, Keeps.ite, Keeps.foldl, Keeps.foldl2, Keeps.foldl3, Keeps.refl, implies_true, keeps_beginRejoin, keeps_dieLossEvent, *]; done) | with_reducible apply Keeps.fold1 | with_reducible apply Keeps.fold2 | with_reducible apply Keeps.fold3 | with_reducible apply Keeps.fold21 | with_reducible apply Keeps.foldE | with_reducible apply Keeps.foldE2 | with_reducible apply Keeps.foldE3 | intro _ | split | dsimp only))); intro hz; clear_value z) | clear_value z | skip)
    | (simp (maxDischargeDepth := 99) only [KIss.hold, KIss.done, KIss.fault, KIss.wait, Keeps.upd, Keeps.updId, Keeps.ite, Keeps.foldl, Keeps.foldl2, Keeps.foldl3, Keeps.refl, implies_true, keeps_beginRejoin, keeps_dieLossEvent, *]; done)
    | with_reducible apply Keeps.fold1
    | with_reducible apply Keeps.fold2
    | with_reducible apply Keeps.fold3
    | with_reducible apply Keeps.fold21
    | with_reducible apply Keeps.foldE
    | with_reducible apply Keeps.foldE2
    | with_reducible apply Keeps.foldE3
    | intro _
    | (split <;> (try (rename_i heq; (first | refine Keeps.cut (Keeps.of_eq (b := b0) heq ?_) ?_ | refine Keeps.cut (Keeps.of_eq3 (b := b0) heq ?_) ?_ | refine Keeps.cut (Keeps.of_eq1 (b := b0) heq ?_) ?_ | refine Keeps.cut (Keeps.of_eq4 (b := b0) heq ?_) ?_ | refine Keeps.cut (Keeps.of_eqE (b := b0) heq ?_) ?_ | refine Keeps.cut (Keeps.of_eqE3 (b := b0) heq ?_) ?_); (focus (clear heq; (repeat' first | (simp (maxDischargeDepth := 99) only [KIss.hold, KIss.done, KIss.fault, KIss.wait, Keeps.upd, Keeps.updId, Keeps.ite, Keeps.foldl, Keeps.foldl2, Keeps.foldl3, Keeps.refl, implies_true, keeps_beginRejoin, keeps_dieLossEvent, *]; done) | with_reducible apply Keeps.fold1 | with_reducible apply Keeps.fold2 | with_reducible apply Keeps.fold3 | with_reducible apply Keeps.fold21 | with_reducible apply Keeps.foldE | with_reducible apply Keeps.foldE2 | with_reducible apply Keeps.foldE3 | intro _ | split | dsimp only))); intro hz; (try dsimp only at hz); clear heq)))

theorem keeps_dieResetWrite {b0 : State} {s : State} (a : Agent) (action : Nat) (d : Nat) (hK : Keeps b0 s) :
    Keeps b0 (dieResetWrite s a action d) := by
  unfold dieResetWrite; simp (maxDischargeDepth := 99) only [KIss.hold, KIss.done, KIss.fault, KIss.wait, Keeps.upd,
        Keeps.updId, Keeps.ite, Keeps.foldl, Keeps.foldl2, Keeps.foldl3, Keeps.refl, implies_true, keeps_report,
        keeps_dieAction, *]

theorem keeps_sagGroup {b0 : State} {s : State} (t : Nat) (g : Nat) (hK : Keeps b0 s) :
    Keeps b0 (sagGroup s t g) := by
  unfold sagGroup
  repeat' first
    | with_reducible assumption
    | (simp (maxDischargeDepth := 99) only [KIss.hold, KIss.done, KIss.fault, KIss.wait, Keeps.upd, Keeps.updId, Keeps.ite, Keeps.foldl, Keeps.foldl2, Keeps.foldl3, Keeps.refl, implies_true, keeps_drawFree, keeps_setGroup, *]; done)
    | (split <;> (try (rename_i heq; (first | refine Keeps.cut (Keeps.of_eq (b := b0) heq ?_) ?_ | refine Keeps.cut (Keeps.of_eq3 (b := b0) heq ?_) ?_ | refine Keeps.cut (Keeps.of_eq1 (b := b0) heq ?_) ?_ | refine Keeps.cut (Keeps.of_eq4 (b := b0) heq ?_) ?_ | refine Keeps.cut (Keeps.of_eqE (b := b0) heq ?_) ?_ | refine Keeps.cut (Keeps.of_eqE3 (b := b0) heq ?_) ?_); (focus (clear heq; (repeat' first | (simp (maxDischargeDepth := 99) only [KIss.hold, KIss.done, KIss.fault, KIss.wait, Keeps.upd, Keeps.updId, Keeps.ite, Keeps.foldl, Keeps.foldl2, Keeps.foldl3, Keeps.refl, implies_true, keeps_drawFree, keeps_setGroup, *]; done) | with_reducible apply Keeps.fold1 | with_reducible apply Keeps.fold2 | with_reducible apply Keeps.fold3 | with_reducible apply Keeps.fold21 | with_reducible apply Keeps.foldE | with_reducible apply Keeps.foldE2 | with_reducible apply Keeps.foldE3 | intro _ | split | dsimp only))); intro hz; (try dsimp only at hz); clear heq)))

theorem keeps_sagTile {b0 : State} {s : State} (t : Nat) (hK : Keeps b0 s) :
    Keeps b0 (sagTile s t) := by
  unfold sagTile; simp (maxDischargeDepth := 99) only [KIss.hold, KIss.done, KIss.fault, KIss.wait, Keeps.upd, Keeps.updId,
        Keeps.ite, Keeps.foldl, Keeps.foldl2, Keeps.foldl3, Keeps.refl, implies_true, keeps_setTile, keeps_mtxFree,
        keeps_flsFree, keeps_sagGroup, *]

theorem keeps_execInputBelowRating {b0 : State} (_aux : Bool) {s : State} (hK : Keeps b0 s) :
    ∀ u, execInputBelowRating _aux s = .next u → Keeps b0 u := by
  unfold execInputBelowRating; intro t ht; injection ht with ht; subst ht; simp (maxDischargeDepth := 99) only [KIss.hold,
        KIss.done, KIss.fault, KIss.wait, Keeps.upd, Keeps.updId, Keeps.ite, Keeps.foldl, Keeps.foldl2, Keeps.foldl3,
        Keeps.refl, implies_true, keeps_sagTile, *]

theorem keeps_execIslandClockLoss {b0 : State} (d : Die) (i : Island) {s : State} (hK : Keeps b0 s) :
    ∀ u, execIslandClockLoss d i s = .next u → Keeps b0 u := by
  unfold execIslandClockLoss
  repeat' first
    | with_reducible assumption
    | refine fun (y : State) (gr : Group) (hy : Keeps b0 y) => ?_
    | (extract_lets +onlyGivenNames z; first | ((first | refine Keeps.cut (p := Keeps b0 z) ?_ ?_ | refine Keeps.cut (p := Keeps b0 z.2) ?_ ?_ | refine Keeps.cut (p := Keeps b0 z.2.2) ?_ ?_ | refine Keeps.cut (p := Keeps b0 z.1) ?_ ?_ | refine Keeps.cut (p := Keeps b0 z.s) ?_ ?_ | refine Keeps.cut (p := Keeps b0 z.2.s) ?_ ?_ | refine Keeps.cut (p := Keeps b0 z.2.2.s) ?_ ?_); (focus (intros; dsimp only [z]; (repeat' first | (simp (maxDischargeDepth := 99) only [KIss.hold, KIss.done, KIss.fault, KIss.wait, Keeps.upd, Keeps.updId, Keeps.ite, Keeps.foldl, Keeps.foldl2, Keeps.foldl3, Keeps.refl, implies_true, keeps_fenceTile, keeps_dieLossEvent, *]; done) | with_reducible apply Keeps.fold1 | with_reducible apply Keeps.fold2 | with_reducible apply Keeps.fold3 | with_reducible apply Keeps.fold21 | with_reducible apply Keeps.foldE | with_reducible apply Keeps.foldE2 | with_reducible apply Keeps.foldE3 | intro _ | split | dsimp only))); intro hz; clear_value z) | clear_value z | skip)
    | (simp (maxDischargeDepth := 99) only [KIss.hold, KIss.done, KIss.fault, KIss.wait, Keeps.upd, Keeps.updId, Keeps.ite, Keeps.foldl, Keeps.foldl2, Keeps.foldl3, Keeps.refl, implies_true, keeps_fenceTile, keeps_dieLossEvent, *]; done)
    | (intro t ht; injection ht with ht; subst ht)
    | (intro t ht; contradiction)
    | with_reducible apply Keeps.fold1
    | with_reducible apply Keeps.fold2
    | with_reducible apply Keeps.fold3
    | with_reducible apply Keeps.fold21
    | with_reducible apply Keeps.foldE
    | with_reducible apply Keeps.foldE2
    | with_reducible apply Keeps.foldE3
    | (split <;> (try (rename_i heq; (first | refine Keeps.cut (Keeps.of_eq (b := b0) heq ?_) ?_ | refine Keeps.cut (Keeps.of_eq3 (b := b0) heq ?_) ?_ | refine Keeps.cut (Keeps.of_eq1 (b := b0) heq ?_) ?_ | refine Keeps.cut (Keeps.of_eq4 (b := b0) heq ?_) ?_ | refine Keeps.cut (Keeps.of_eqE (b := b0) heq ?_) ?_ | refine Keeps.cut (Keeps.of_eqE3 (b := b0) heq ?_) ?_); (focus (clear heq; (repeat' first | (simp (maxDischargeDepth := 99) only [KIss.hold, KIss.done, KIss.fault, KIss.wait, Keeps.upd, Keeps.updId, Keeps.ite, Keeps.foldl, Keeps.foldl2, Keeps.foldl3, Keeps.refl, implies_true, keeps_fenceTile, keeps_dieLossEvent, *]; done) | with_reducible apply Keeps.fold1 | with_reducible apply Keeps.fold2 | with_reducible apply Keeps.fold3 | with_reducible apply Keeps.fold21 | with_reducible apply Keeps.foldE | with_reducible apply Keeps.foldE2 | with_reducible apply Keeps.foldE3 | intro _ | split | dsimp only))); intro hz; (try dsimp only at hz); clear heq)))
    | intro _

theorem keeps_execHeartbeatMissed {b0 : State} (d : Die) {s : State} (hK : Keeps b0 s) :
    ∀ u, execHeartbeatMissed d s = .next u → Keeps b0 u := by
  unfold execHeartbeatMissed; intro t ht; injection ht with ht; subst ht; simp (maxDischargeDepth := 99) only [KIss.hold,
        KIss.done, KIss.fault, KIss.wait, Keeps.upd, Keeps.updId, Keeps.ite, Keeps.foldl, Keeps.foldl2, Keeps.foldl3,
        Keeps.refl, implies_true, keeps_dieLossEvent, *]

theorem keeps_execCDieLoss {b0 : State} (k : CDie) (why : LossCause) {s : State} (hK : Keeps b0 s) :
    ∀ u, execCDieLoss k why s = .next u → Keeps b0 u := by
  unfold execCDieLoss; intro t ht; injection ht with ht; subst ht; simp (maxDischargeDepth := 99) only [KIss.hold, KIss.done,
         KIss.fault, KIss.wait, Keeps.upd, Keeps.updId, Keeps.ite, Keeps.foldl, Keeps.foldl2, Keeps.foldl3, Keeps.refl,
        implies_true, keeps_dieLossEvent, *]

theorem keeps_execMLinkSwitch {b0 : State} (k : CDie) {s : State} (hK : Keeps b0 s) :
    ∀ u, execMLinkSwitch k s = .next u → Keeps b0 u := by
  unfold execMLinkSwitch; intro t ht; injection ht with ht; subst ht; simp (maxDischargeDepth := 99) only [KIss.hold,
        KIss.done, KIss.fault, KIss.wait, Keeps.upd, Keeps.updId, Keeps.ite, Keeps.foldl, Keeps.foldl2, Keeps.foldl3,
        Keeps.refl, implies_true, keeps_linkSwitch, *]

theorem keeps_execLostDieTilesFenced {b0 : State} (k : CDie) {s : State} (hK : Keeps b0 s) :
    ∀ u, execLostDieTilesFenced k s = .next u → Keeps b0 u := by
  unfold execLostDieTilesFenced; intro t ht; injection ht with ht; subst ht; simp (maxDischargeDepth := 99) only [KIss.hold,
        KIss.done, KIss.fault, KIss.wait, Keeps.upd, Keeps.updId, Keeps.ite, Keeps.foldl, Keeps.foldl2, Keeps.foldl3,
        Keeps.refl, implies_true, keeps_lostTilesFenced, *]

theorem keeps_execLDieLoss {b0 : State} (l : LDie) (why : LossCause) {s : State} (hK : Keeps b0 s) :
    ∀ u, execLDieLoss l why s = .next u → Keeps b0 u := by
  unfold execLDieLoss; intro t ht; injection ht with ht; subst ht; simp (maxDischargeDepth := 99) only [KIss.hold, KIss.done,
         KIss.fault, KIss.wait, Keeps.upd, Keeps.updId, Keeps.ite, Keeps.foldl, Keeps.foldl2, Keeps.foldl3, Keeps.refl,
        implies_true, keeps_dieLossEvent, *]

theorem keeps_execFatalLoss {b0 : State} (d : Die) (why : LossCause) {s : State} (hK : Keeps b0 s) :
    ∀ u, execFatalLoss d why s = .next u → Keeps b0 u := by
  unfold execFatalLoss; intro t ht; injection ht with ht; subst ht; simp (maxDischargeDepth := 99) only [KIss.hold,
        KIss.done, KIss.fault, KIss.wait, Keeps.upd, Keeps.updId, Keeps.ite, Keeps.foldl, Keeps.foldl2, Keeps.foldl3,
        Keeps.refl, implies_true, keeps_dieLossEvent, *]

theorem keeps_execDieRejoinFailed {b0 : State} (d : RDie) {s : State} (hK : Keeps b0 s) :
    ∀ u, execDieRejoinFailed d s = .next u → Keeps b0 u := by
  unfold execDieRejoinFailed; intro t ht; injection ht with ht; subst ht; simp (maxDischargeDepth := 99) only [KIss.hold,
        KIss.done, KIss.fault, KIss.wait, Keeps.upd, Keeps.updId, Keeps.ite, Keeps.foldl, Keeps.foldl2, Keeps.foldl3,
        Keeps.refl, implies_true, keeps_rejoinFails, *]

theorem keeps_execLDieRejoinOnCActive {b0 : State} (l : LDie) {s : State} (hK : Keeps b0 s) :
    ∀ u, execLDieRejoinOnCActive l s = .next u → Keeps b0 u := by
  unfold execLDieRejoinOnCActive; intro t ht; injection ht with ht; subst ht; simp (maxDischargeDepth := 99) only [KIss.hold,
         KIss.done, KIss.fault, KIss.wait, Keeps.upd, Keeps.updId, Keeps.ite, Keeps.foldl, Keeps.foldl2, Keeps.foldl3,
        Keeps.refl, implies_true, keeps_lossSettled, *]

theorem keeps_execDieActionResetHold {b0 : State} (a : Agent) (index : BitVec 8) {s : State} (hK : Keeps b0 s) :
    ∀ u, execDieActionResetHold a index s = .next u → Keeps b0 u := by
  unfold execDieActionResetHold; intro t ht; injection ht with ht; subst ht; simp (maxDischargeDepth := 99) only [KIss.hold,
        KIss.done, KIss.fault, KIss.wait, Keeps.upd, Keeps.updId, Keeps.ite, Keeps.foldl, Keeps.foldl2, Keeps.foldl3,
        Keeps.refl, implies_true, keeps_dieResetWrite, *]

theorem keeps_execDieActionRejoin {b0 : State} (a : Agent) (index : BitVec 8) {s : State} (hK : Keeps b0 s) :
    ∀ u, execDieActionRejoin a index s = .next u → Keeps b0 u := by
  unfold execDieActionRejoin; intro t ht; injection ht with ht; subst ht; simp (maxDischargeDepth := 99) only [KIss.hold,
        KIss.done, KIss.fault, KIss.wait, Keeps.upd, Keeps.updId, Keeps.ite, Keeps.foldl, Keeps.foldl2, Keeps.foldl3,
        Keeps.refl, implies_true, keeps_dieResetWrite, *]

theorem keeps_execDieActionResetRejoin {b0 : State} (a : Agent) (index : BitVec 8) {s : State} (hK : Keeps b0 s) :
    ∀ u, execDieActionResetRejoin a index s = .next u → Keeps b0 u := by
  unfold execDieActionResetRejoin; intro t ht; injection ht with ht; subst ht; simp (maxDischargeDepth := 99) only [KIss.hold,
         KIss.done, KIss.fault, KIss.wait, Keeps.upd, Keeps.updId, Keeps.ite, Keeps.foldl, Keeps.foldl2, Keeps.foldl3,
        Keeps.refl, implies_true, keeps_dieResetWrite, *]

theorem keeps_execDieReset {b0 : State} (m : Mbx) {s : State} (hK : Keeps b0 s) :
    ∀ u, execDieReset m s = .next u → Keeps b0 u := by
  unfold execDieReset; intro u hu; injection hu with hu; subst hu
  refine keeps_mbxRun _ _ _ (fun b0 l => ?_) hK
  have hK := Keeps.refl b0
  repeat' first
    | with_reducible assumption
    | (extract_lets +onlyGivenNames z; first | ((first | refine Keeps.cut (p := Keeps b0 z) ?_ ?_ | refine Keeps.cut (p := Keeps b0 z.2) ?_ ?_ | refine Keeps.cut (p := Keeps b0 z.2.2) ?_ ?_ | refine Keeps.cut (p := Keeps b0 z.1) ?_ ?_ | refine Keeps.cut (p := Keeps b0 z.s) ?_ ?_ | refine Keeps.cut (p := Keeps b0 z.2.s) ?_ ?_ | refine Keeps.cut (p := Keeps b0 z.2.2.s) ?_ ?_); (focus (intros; dsimp only [z]; (repeat' first | (simp (maxDischargeDepth := 99) only [KIss.hold, KIss.done, KIss.fault, KIss.wait, Keeps.upd, Keeps.updId, Keeps.ite, Keeps.foldl, Keeps.foldl2, Keeps.foldl3, Keeps.refl, implies_true, keeps_mbxRun, keeps_dieAction, *]; done) | with_reducible apply Keeps.fold1 | with_reducible apply Keeps.fold2 | with_reducible apply Keeps.fold3 | with_reducible apply Keeps.fold21 | with_reducible apply Keeps.foldE | with_reducible apply Keeps.foldE2 | with_reducible apply Keeps.foldE3 | intro _ | split | dsimp only))); intro hz; clear_value z) | clear_value z | skip)
    | (simp (maxDischargeDepth := 99) only [KIss.hold, KIss.done, KIss.fault, KIss.wait, Keeps.upd, Keeps.updId, Keeps.ite, Keeps.foldl, Keeps.foldl2, Keeps.foldl3, Keeps.refl, implies_true, keeps_mbxRun, keeps_dieAction, *]; done)
    | with_reducible apply Keeps.fold1
    | with_reducible apply Keeps.fold2
    | with_reducible apply Keeps.fold3
    | with_reducible apply Keeps.fold21
    | with_reducible apply Keeps.foldE
    | with_reducible apply Keeps.foldE2
    | with_reducible apply Keeps.foldE3
    | intro _
    | (split <;> (try (rename_i heq; (first | refine Keeps.cut (Keeps.of_eq (b := b0) heq ?_) ?_ | refine Keeps.cut (Keeps.of_eq3 (b := b0) heq ?_) ?_ | refine Keeps.cut (Keeps.of_eq1 (b := b0) heq ?_) ?_ | refine Keeps.cut (Keeps.of_eq4 (b := b0) heq ?_) ?_ | refine Keeps.cut (Keeps.of_eqE (b := b0) heq ?_) ?_ | refine Keeps.cut (Keeps.of_eqE3 (b := b0) heq ?_) ?_); (focus (clear heq; (repeat' first | (simp (maxDischargeDepth := 99) only [KIss.hold, KIss.done, KIss.fault, KIss.wait, Keeps.upd, Keeps.updId, Keeps.ite, Keeps.foldl, Keeps.foldl2, Keeps.foldl3, Keeps.refl, implies_true, keeps_mbxRun, keeps_dieAction, *]; done) | with_reducible apply Keeps.fold1 | with_reducible apply Keeps.fold2 | with_reducible apply Keeps.fold3 | with_reducible apply Keeps.fold21 | with_reducible apply Keeps.foldE | with_reducible apply Keeps.foldE2 | with_reducible apply Keeps.foldE3 | intro _ | split | dsimp only))); intro hz; (try dsimp only at hz); clear heq)))

theorem keeps_execSnoopTimeout {b0 : State} (agent : AgentId) (line : Nat) {s : State} (hK : Keeps b0 s) :
    ∀ u, execSnoopTimeout agent line s = .next u → Keeps b0 u := by
  unfold execSnoopTimeout
  repeat' first
    | with_reducible assumption
    | refine fun (y : State) (gr : Group) (hy : Keeps b0 y) => ?_
    | (extract_lets +onlyGivenNames z; first | ((first | refine Keeps.cut (p := Keeps b0 z) ?_ ?_ | refine Keeps.cut (p := Keeps b0 z.2) ?_ ?_ | refine Keeps.cut (p := Keeps b0 z.2.2) ?_ ?_ | refine Keeps.cut (p := Keeps b0 z.1) ?_ ?_ | refine Keeps.cut (p := Keeps b0 z.s) ?_ ?_ | refine Keeps.cut (p := Keeps b0 z.2.s) ?_ ?_ | refine Keeps.cut (p := Keeps b0 z.2.2.s) ?_ ?_); (focus (intros; dsimp only [z]; (repeat' first | (simp (maxDischargeDepth := 99) only [KIss.hold, KIss.done, KIss.fault, KIss.wait, Keeps.upd, Keeps.updId, Keeps.ite, Keeps.foldl, Keeps.foldl2, Keeps.foldl3, Keeps.refl, implies_true, keeps_report, keeps_dieLossEvent, *]; done) | with_reducible apply Keeps.fold1 | with_reducible apply Keeps.fold2 | with_reducible apply Keeps.fold3 | with_reducible apply Keeps.fold21 | with_reducible apply Keeps.foldE | with_reducible apply Keeps.foldE2 | with_reducible apply Keeps.foldE3 | intro _ | split | dsimp only))); intro hz; clear_value z) | clear_value z | skip)
    | (simp (maxDischargeDepth := 99) only [KIss.hold, KIss.done, KIss.fault, KIss.wait, Keeps.upd, Keeps.updId, Keeps.ite, Keeps.foldl, Keeps.foldl2, Keeps.foldl3, Keeps.refl, implies_true, keeps_report, keeps_dieLossEvent, *]; done)
    | (intro t ht; injection ht with ht; subst ht)
    | (intro t ht; contradiction)
    | with_reducible apply Keeps.fold1
    | with_reducible apply Keeps.fold2
    | with_reducible apply Keeps.fold3
    | with_reducible apply Keeps.fold21
    | with_reducible apply Keeps.foldE
    | with_reducible apply Keeps.foldE2
    | with_reducible apply Keeps.foldE3
    | (split <;> (try (rename_i heq; (first | refine Keeps.cut (Keeps.of_eq (b := b0) heq ?_) ?_ | refine Keeps.cut (Keeps.of_eq3 (b := b0) heq ?_) ?_ | refine Keeps.cut (Keeps.of_eq1 (b := b0) heq ?_) ?_ | refine Keeps.cut (Keeps.of_eq4 (b := b0) heq ?_) ?_ | refine Keeps.cut (Keeps.of_eqE (b := b0) heq ?_) ?_ | refine Keeps.cut (Keeps.of_eqE3 (b := b0) heq ?_) ?_); (focus (clear heq; (repeat' first | (simp (maxDischargeDepth := 99) only [KIss.hold, KIss.done, KIss.fault, KIss.wait, Keeps.upd, Keeps.updId, Keeps.ite, Keeps.foldl, Keeps.foldl2, Keeps.foldl3, Keeps.refl, implies_true, keeps_report, keeps_dieLossEvent, *]; done) | with_reducible apply Keeps.fold1 | with_reducible apply Keeps.fold2 | with_reducible apply Keeps.fold3 | with_reducible apply Keeps.fold21 | with_reducible apply Keeps.foldE | with_reducible apply Keeps.foldE2 | with_reducible apply Keeps.foldE3 | intro _ | split | dsimp only))); intro hz; (try dsimp only at hz); clear heq)))
    | intro _

theorem keeps_execDirUncorrectable {b0 : State} (h : Home) (line : Nat) {s : State} (hK : Keeps b0 s) :
    ∀ u, execDirUncorrectable h line s = .next u → Keeps b0 u := by
  unfold execDirUncorrectable; intro t ht; injection ht with ht; subst ht; simp (maxDischargeDepth := 99) only [KIss.hold,
        KIss.done, KIss.fault, KIss.wait, Keeps.upd, Keeps.updId, Keeps.ite, Keeps.foldl, Keeps.foldl2, Keeps.foldl3,
        Keeps.refl, implies_true, keeps_report, keeps_dieLossEvent, *]

theorem keeps_linkDownEffect {b0 : State} {s : State} (die : Nat) (l : Nat) (hK : Keeps b0 s) :
    Keeps b0 (linkDownEffect s die l) := by
  unfold linkDownEffect; (repeat' split) <;> simp (maxDischargeDepth := 99) only [KIss.hold, KIss.done, KIss.fault,
        KIss.wait, Keeps.upd, Keeps.updId, Keeps.ite, Keeps.foldl, Keeps.foldl2, Keeps.foldl3, Keeps.refl, implies_true,
        keeps_dieLossEvent, *]

theorem keeps_linkSettled {b0 : State} {s : State} (die : Nat) (l : Nat) (hK : Keeps b0 s) :
    Keeps b0 (linkSettled s die l) := by
  unfold linkSettled; simp (maxDischargeDepth := 99) only [KIss.hold, KIss.done, KIss.fault, KIss.wait, Keeps.upd,
        Keeps.updId, Keeps.ite, Keeps.foldl, Keeps.foldl2, Keeps.foldl3, Keeps.refl, implies_true, keeps_linkDownEffect, *]

theorem keeps_linkTrain {b0 : State} {s : State} (die : Nat) (l : Nat) (a : Attempt) (hK : Keeps b0 s) :
    Keeps b0 (linkTrain s die l a) := by
  unfold linkTrain; (repeat' split) <;> simp (maxDischargeDepth := 99) only [KIss.hold, KIss.done, KIss.fault, KIss.wait,
        Keeps.upd, Keeps.updId, Keeps.ite, Keeps.foldl, Keeps.foldl2, Keeps.foldl3, Keeps.refl, implies_true,
        keeps_linkAttempt, keeps_linkSettled, *]

theorem keeps_execLinkTrain {b0 : State} (l : LinkRef) (mask : BitVec 16) (partnerMask : BitVec 16) (confirm : Bool) {s : State} (hK : Keeps b0 s) :
    ∀ u, execLinkTrain l mask partnerMask confirm s = .next u → Keeps b0 u := by
  unfold execLinkTrain; intro t ht; injection ht with ht; subst ht; simp (maxDischargeDepth := 99) only [KIss.hold,
        KIss.done, KIss.fault, KIss.wait, Keeps.upd, Keeps.updId, Keeps.ite, Keeps.foldl, Keeps.foldl2, Keeps.foldl3,
        Keeps.refl, implies_true, keeps_linkTrain, *]

theorem keeps_execLinkIdentity {b0 : State} (l : LinkRef) (x : Exchange) {s : State} (hK : Keeps b0 s) :
    ∀ u, execLinkIdentity l x s = .next u → Keeps b0 u := by
  unfold execLinkIdentity
  repeat' first
    | with_reducible assumption
    | refine fun (y : State) (gr : Group) (hy : Keeps b0 y) => ?_
    | (extract_lets +onlyGivenNames z; first | ((first | refine Keeps.cut (p := Keeps b0 z) ?_ ?_ | refine Keeps.cut (p := Keeps b0 z.2) ?_ ?_ | refine Keeps.cut (p := Keeps b0 z.2.2) ?_ ?_ | refine Keeps.cut (p := Keeps b0 z.1) ?_ ?_ | refine Keeps.cut (p := Keeps b0 z.s) ?_ ?_ | refine Keeps.cut (p := Keeps b0 z.2.s) ?_ ?_ | refine Keeps.cut (p := Keeps b0 z.2.2.s) ?_ ?_); (focus (intros; dsimp only [z]; (repeat' first | (simp (maxDischargeDepth := 99) only [KIss.hold, KIss.done, KIss.fault, KIss.wait, Keeps.upd, Keeps.updId, Keeps.ite, Keeps.foldl, Keeps.foldl2, Keeps.foldl3, Keeps.refl, implies_true, keeps_linkExchange, keeps_linkSends, keeps_linkSettled, *]; done) | with_reducible apply Keeps.fold1 | with_reducible apply Keeps.fold2 | with_reducible apply Keeps.fold3 | with_reducible apply Keeps.fold21 | with_reducible apply Keeps.foldE | with_reducible apply Keeps.foldE2 | with_reducible apply Keeps.foldE3 | intro _ | split | dsimp only))); intro hz; clear_value z) | clear_value z | skip)
    | (simp (maxDischargeDepth := 99) only [KIss.hold, KIss.done, KIss.fault, KIss.wait, Keeps.upd, Keeps.updId, Keeps.ite, Keeps.foldl, Keeps.foldl2, Keeps.foldl3, Keeps.refl, implies_true, keeps_linkExchange, keeps_linkSends, keeps_linkSettled, *]; done)
    | (intro t ht; injection ht with ht; subst ht)
    | (intro t ht; contradiction)
    | with_reducible apply Keeps.fold1
    | with_reducible apply Keeps.fold2
    | with_reducible apply Keeps.fold3
    | with_reducible apply Keeps.fold21
    | with_reducible apply Keeps.foldE
    | with_reducible apply Keeps.foldE2
    | with_reducible apply Keeps.foldE3
    | (split <;> (try (rename_i heq; (first | refine Keeps.cut (Keeps.of_eq (b := b0) heq ?_) ?_ | refine Keeps.cut (Keeps.of_eq3 (b := b0) heq ?_) ?_ | refine Keeps.cut (Keeps.of_eq1 (b := b0) heq ?_) ?_ | refine Keeps.cut (Keeps.of_eq4 (b := b0) heq ?_) ?_ | refine Keeps.cut (Keeps.of_eqE (b := b0) heq ?_) ?_ | refine Keeps.cut (Keeps.of_eqE3 (b := b0) heq ?_) ?_); (focus (clear heq; (repeat' first | (simp (maxDischargeDepth := 99) only [KIss.hold, KIss.done, KIss.fault, KIss.wait, Keeps.upd, Keeps.updId, Keeps.ite, Keeps.foldl, Keeps.foldl2, Keeps.foldl3, Keeps.refl, implies_true, keeps_linkExchange, keeps_linkSends, keeps_linkSettled, *]; done) | with_reducible apply Keeps.fold1 | with_reducible apply Keeps.fold2 | with_reducible apply Keeps.fold3 | with_reducible apply Keeps.fold21 | with_reducible apply Keeps.foldE | with_reducible apply Keeps.foldE2 | with_reducible apply Keeps.foldE3 | intro _ | split | dsimp only))); intro hz; (try dsimp only at hz); clear heq)))
    | intro _

theorem keeps_execLinkCrcRetrain {b0 : State} (l : LinkRef) (crcFails : Nat) (replayed : Nat) (a : Option Attempt) {s : State} (hK : Keeps b0 s) :
    ∀ u, execLinkCrcRetrain l crcFails replayed a s = .next u → Keeps b0 u := by
  unfold execLinkCrcRetrain; intro t ht; injection ht with ht; subst ht; simp (maxDischargeDepth := 99) only [KIss.hold,
        KIss.done, KIss.fault, KIss.wait, Keeps.upd, Keeps.updId, Keeps.ite, Keeps.foldl, Keeps.foldl2, Keeps.foldl3,
        Keeps.refl, implies_true, keeps_count, keeps_setLk, keeps_bothEnds, keeps_linkGoes, keeps_linkTrain, *]

theorem keeps_execLinkTrainFailed {b0 : State} (l : LinkRef) {s : State} (hK : Keeps b0 s) :
    ∀ u, execLinkTrainFailed l s = .next u → Keeps b0 u := by
  unfold execLinkTrainFailed; intro t ht; injection ht with ht; subst ht; simp (maxDischargeDepth := 99) only [KIss.hold,
        KIss.done, KIss.fault, KIss.wait, Keeps.upd, Keeps.updId, Keeps.ite, Keeps.foldl, Keeps.foldl2, Keeps.foldl3,
        Keeps.refl, implies_true, keeps_linkDown, keeps_linkDownEffect, *]

theorem keeps_linkRetrain {b0 : State} {s : State} (die : Nat) (l : Nat) (hK : Keeps b0 s) :
    Keeps b0 (linkRetrain s die l) := by
  unfold linkRetrain; simp (maxDischargeDepth := 99) only [KIss.hold, KIss.done, KIss.fault, KIss.wait, Keeps.upd,
        Keeps.updId, Keeps.ite, Keeps.foldl, Keeps.foldl2, Keeps.foldl3, Keeps.refl, implies_true, keeps_count, keeps_setLk,
        keeps_bothEnds, keeps_linkGoes, *]

theorem keeps_execLinkRetrain {b0 : State} (a : Agent) (l : LinkRef) {s : State} (hK : Keeps b0 s) :
    ∀ u, execLinkRetrain a l s = .next u → Keeps b0 u := by
  unfold execLinkRetrain; intro t ht; injection ht with ht; subst ht; simp (maxDischargeDepth := 99) only [KIss.hold,
        KIss.done, KIss.fault, KIss.wait, Keeps.upd, Keeps.updId, Keeps.ite, Keeps.foldl, Keeps.foldl2, Keeps.foldl3,
        Keeps.refl, implies_true, keeps_linkRetrain, *]

theorem keeps_linkUnfence {b0 : State} {s : State} (die : Nat) (l : Nat) (hK : Keeps b0 s) :
    Keeps b0 (linkUnfence s die l) := by
  unfold linkUnfence; (repeat' split) <;> simp (maxDischargeDepth := 99) only [KIss.hold, KIss.done, KIss.fault, KIss.wait,
        Keeps.upd, Keeps.updId, Keeps.ite, Keeps.foldl, Keeps.foldl2, Keeps.foldl3, Keeps.refl, implies_true, keeps_lkSet,
        keeps_setLk, keeps_bothEnds, keeps_linkGoes, *]

theorem keeps_execLinkUnfence {b0 : State} (a : Agent) (l : LinkRef) {s : State} (hK : Keeps b0 s) :
    ∀ u, execLinkUnfence a l s = .next u → Keeps b0 u := by
  unfold execLinkUnfence; intro t ht; injection ht with ht; subst ht; simp (maxDischargeDepth := 99) only [KIss.hold,
        KIss.done, KIss.fault, KIss.wait, Keeps.upd, Keeps.updId, Keeps.ite, Keeps.foldl, Keeps.foldl2, Keeps.foldl3,
        Keeps.refl, implies_true, keeps_linkUnfence, *]

theorem keeps_execMlinkSliceRetrain {b0 : State} (m : MBase) (secondary : Bool) (slice : Fin 32) (pass : Bool) {s : State} (hK : Keeps b0 s) :
    ∀ u, execMlinkSliceRetrain m secondary slice pass s = .next u → Keeps b0 u := by
  unfold execMlinkSliceRetrain
  repeat' first
    | with_reducible assumption
    | refine fun (y : State) (gr : Group) (hy : Keeps b0 y) => ?_
    | (extract_lets +onlyGivenNames z; first | ((first | refine Keeps.cut (p := Keeps b0 z) ?_ ?_ | refine Keeps.cut (p := Keeps b0 z.2) ?_ ?_ | refine Keeps.cut (p := Keeps b0 z.2.2) ?_ ?_ | refine Keeps.cut (p := Keeps b0 z.1) ?_ ?_ | refine Keeps.cut (p := Keeps b0 z.s) ?_ ?_ | refine Keeps.cut (p := Keeps b0 z.2.s) ?_ ?_ | refine Keeps.cut (p := Keeps b0 z.2.2.s) ?_ ?_); (focus (intros; dsimp only [z]; (repeat' first | (simp (maxDischargeDepth := 99) only [KIss.hold, KIss.done, KIss.fault, KIss.wait, Keeps.upd, Keeps.updId, Keeps.ite, Keeps.foldl, Keeps.foldl2, Keeps.foldl3, Keeps.refl, implies_true, keeps_setSecondary, keeps_lkSet, keeps_setLk, keeps_bothEnds, keeps_linkLog, keeps_linkGoes, keeps_stackPlaced, keeps_dieLossEvent, *]; done) | with_reducible apply Keeps.fold1 | with_reducible apply Keeps.fold2 | with_reducible apply Keeps.fold3 | with_reducible apply Keeps.fold21 | with_reducible apply Keeps.foldE | with_reducible apply Keeps.foldE2 | with_reducible apply Keeps.foldE3 | intro _ | split | dsimp only))); intro hz; clear_value z) | clear_value z | skip)
    | (simp (maxDischargeDepth := 99) only [KIss.hold, KIss.done, KIss.fault, KIss.wait, Keeps.upd, Keeps.updId, Keeps.ite, Keeps.foldl, Keeps.foldl2, Keeps.foldl3, Keeps.refl, implies_true, keeps_setSecondary, keeps_lkSet, keeps_setLk, keeps_bothEnds, keeps_linkLog, keeps_linkGoes, keeps_stackPlaced, keeps_dieLossEvent, *]; done)
    | (intro t ht; injection ht with ht; subst ht)
    | (intro t ht; contradiction)
    | with_reducible apply Keeps.fold1
    | with_reducible apply Keeps.fold2
    | with_reducible apply Keeps.fold3
    | with_reducible apply Keeps.fold21
    | with_reducible apply Keeps.foldE
    | with_reducible apply Keeps.foldE2
    | with_reducible apply Keeps.foldE3
    | (split <;> (try (rename_i heq; (first | refine Keeps.cut (Keeps.of_eq (b := b0) heq ?_) ?_ | refine Keeps.cut (Keeps.of_eq3 (b := b0) heq ?_) ?_ | refine Keeps.cut (Keeps.of_eq1 (b := b0) heq ?_) ?_ | refine Keeps.cut (Keeps.of_eq4 (b := b0) heq ?_) ?_ | refine Keeps.cut (Keeps.of_eqE (b := b0) heq ?_) ?_ | refine Keeps.cut (Keeps.of_eqE3 (b := b0) heq ?_) ?_); (focus (clear heq; (repeat' first | (simp (maxDischargeDepth := 99) only [KIss.hold, KIss.done, KIss.fault, KIss.wait, Keeps.upd, Keeps.updId, Keeps.ite, Keeps.foldl, Keeps.foldl2, Keeps.foldl3, Keeps.refl, implies_true, keeps_setSecondary, keeps_lkSet, keeps_setLk, keeps_bothEnds, keeps_linkLog, keeps_linkGoes, keeps_stackPlaced, keeps_dieLossEvent, *]; done) | with_reducible apply Keeps.fold1 | with_reducible apply Keeps.fold2 | with_reducible apply Keeps.fold3 | with_reducible apply Keeps.fold21 | with_reducible apply Keeps.foldE | with_reducible apply Keeps.foldE2 | with_reducible apply Keeps.foldE3 | intro _ | split | dsimp only))); intro hz; (try dsimp only at hz); clear heq)))
    | intro _

theorem keeps_execMlinkTestFlit {b0 : State} (m : MBase) {s : State} (hK : Keeps b0 s) :
    ∀ u, execMlinkTestFlit m s = .next u → Keeps b0 u := by
  unfold execMlinkTestFlit; intro t ht; injection ht with ht; subst ht; simp (maxDischargeDepth := 99) only [KIss.hold,
        KIss.done, KIss.fault, KIss.wait, Keeps.upd, Keeps.updId, Keeps.ite, Keeps.foldl, Keeps.foldl2, Keeps.foldl3,
        Keeps.refl, implies_true, *]

theorem keeps_linksFinish {b0 : State} {s : State} (d : Nat) (hK : Keeps b0 s) :
    Keeps b0 (linksFinish s d) := by
  unfold linksFinish; simp (maxDischargeDepth := 99) only [KIss.hold, KIss.done, KIss.fault, KIss.wait, Keeps.upd,
        Keeps.updId, Keeps.ite, Keeps.foldl, Keeps.foldl2, Keeps.foldl3, Keeps.refl, implies_true, keeps_linkTrain, *]

theorem keeps_dieRejoin {b0 : State} {s : State} (d : Nat) (r : RejoinResult) (hK : Keeps b0 s) :
    Keeps b0 (dieRejoin s d r) := by
  unfold dieRejoin; simp (maxDischargeDepth := 99) only [KIss.hold, KIss.done, KIss.fault, KIss.wait, Keeps.upd, Keeps.updId,
         Keeps.ite, Keeps.foldl, Keeps.foldl2, Keeps.foldl3, Keeps.refl, implies_true, keeps_rejoinFails, keeps_cRejoin,
        keeps_lRejoin, keeps_linksFinish, *]

theorem keeps_execDieRejoin {b0 : State} (d : RDie) (r : RejoinResult) {s : State} (hK : Keeps b0 s) :
    ∀ u, execDieRejoin d r s = .next u → Keeps b0 u := by
  unfold execDieRejoin; intro t ht; injection ht with ht; subst ht; simp (maxDischargeDepth := 99) only [KIss.hold,
        KIss.done, KIss.fault, KIss.wait, Keeps.upd, Keeps.updId, Keeps.ite, Keeps.foldl, Keeps.foldl2, Keeps.foldl3,
        Keeps.refl, implies_true, keeps_dieRejoin, *]

theorem keeps_freqStep {b0 : State} {s : State} (d : Nat) (n : Nat) (hK : Keeps b0 s) :
    Keeps b0 (freqStep s d n) := by
  unfold freqStep; simp (maxDischargeDepth := 99) only [KIss.hold, KIss.done, KIss.fault, KIss.wait, Keeps.upd, Keeps.updId,
        Keeps.ite, Keeps.foldl, Keeps.foldl2, Keeps.foldl3, Keeps.refl, implies_true, keeps_setIsl, *]

theorem keeps_droopTrip {b0 : State} {s : State} (die : Die) (i : Island) (hK : Keeps b0 s) :
    Keeps b0 (droopTrip s die i) := by
  unfold droopTrip; simp (maxDischargeDepth := 99) only [KIss.hold, KIss.done, KIss.fault, KIss.wait, Keeps.upd, Keeps.updId,
         Keeps.ite, Keeps.foldl, Keeps.foldl2, Keeps.foldl3, Keeps.refl, implies_true, keeps_setIsl, *]

theorem keeps_droopEnd {b0 : State} {s : State} (die : Die) (i : Island) (hK : Keeps b0 s) :
    Keeps b0 (droopEnd s die i) := by
  unfold droopEnd; simp (maxDischargeDepth := 99) only [KIss.hold, KIss.done, KIss.fault, KIss.wait, Keeps.upd, Keeps.updId,
        Keeps.ite, Keeps.foldl, Keeps.foldl2, Keeps.foldl3, Keeps.refl, implies_true, keeps_drawFree, keeps_count,
        keeps_setIsl, *]

theorem keeps_setThrottle {b0 : State} {s : State} (v : Nat) (hK : Keeps b0 s) :
    Keeps b0 (setThrottle s v) := by
  unfold setThrottle; simp (maxDischargeDepth := 99) only [KIss.hold, KIss.done, KIss.fault, KIss.wait, Keeps.upd,
        Keeps.updId, Keeps.ite, Keeps.foldl, Keeps.foldl2, Keeps.foldl3, Keeps.refl, implies_true, keeps_rfset, *]

theorem keeps_matrixThrottle {b0 : State} {s : State} (hK : Keeps b0 s) :
    Keeps b0 (matrixThrottle s) := by
  unfold matrixThrottle; simp (maxDischargeDepth := 99) only [KIss.hold, KIss.done, KIss.fault, KIss.wait, Keeps.upd,
        Keeps.updId, Keeps.ite, Keeps.foldl, Keeps.foldl2, Keeps.foldl3, Keeps.refl, implies_true, keeps_rimLog,
        keeps_setThrottle, *]

theorem keeps_chargeJobs {b0 : State} {s : State} (e : EnergySample) (hK : Keeps b0 s) :
    Keeps b0 (chargeJobs s e) := by
  unfold chargeJobs; simp (maxDischargeDepth := 99) only [KIss.hold, KIss.done, KIss.fault, KIss.wait, Keeps.upd,
        Keeps.updId, Keeps.ite, Keeps.foldl, Keeps.foldl2, Keeps.foldl3, Keeps.refl, implies_true, *]

theorem keeps_powerSample {b0 : State} {s : State} (watts : Nat) (e : EnergySample) (hK : Keeps b0 s) :
    Keeps b0 (powerSample s watts e) := by
  unfold powerSample; simp (maxDischargeDepth := 99) only [KIss.hold, KIss.done, KIss.fault, KIss.wait, Keeps.upd,
        Keeps.updId, Keeps.ite, Keeps.foldl, Keeps.foldl2, Keeps.foldl3, Keeps.refl, implies_true, keeps_rset, keeps_count,
        keeps_matrixThrottle, keeps_chargeJobs, *]

theorem keeps_setBudgetNow {b0 : State} {s : State} (hK : Keeps b0 s) :
    Keeps b0 (setBudgetNow s) := by
  unfold setBudgetNow; simp (maxDischargeDepth := 99) only [KIss.hold, KIss.done, KIss.fault, KIss.wait, Keeps.upd,
        Keeps.updId, Keeps.ite, Keeps.foldl, Keeps.foldl2, Keeps.foldl3, Keeps.refl, implies_true, keeps_rfset, *]

theorem keeps_coordinatorTick {b0 : State} {s : State} (hK : Keeps b0 s) :
    Keeps b0 (coordinatorTick s) := by
  unfold coordinatorTick; simp (maxDischargeDepth := 99) only [KIss.hold, KIss.done, KIss.fault, KIss.wait, Keeps.upd,
        Keeps.updId, Keeps.ite, Keeps.foldl, Keeps.foldl2, Keeps.foldl3, Keeps.refl, implies_true, keeps_FlsRun_draw,
        keeps_setBudgetNow, *]

theorem keeps_budgetCheck {b0 : State} {s : State} (d : Nat) (watts : Nat) (hK : Keeps b0 s) :
    Keeps b0 (budgetCheck s d watts) := by
  unfold budgetCheck
  repeat' first
    | with_reducible assumption
    | (extract_lets +onlyGivenNames z; first | ((first | refine Keeps.cut (p := Keeps b0 z) ?_ ?_ | refine Keeps.cut (p := Keeps b0 z.2) ?_ ?_ | refine Keeps.cut (p := Keeps b0 z.2.2) ?_ ?_ | refine Keeps.cut (p := Keeps b0 z.1) ?_ ?_ | refine Keeps.cut (p := Keeps b0 z.s) ?_ ?_ | refine Keeps.cut (p := Keeps b0 z.2.s) ?_ ?_ | refine Keeps.cut (p := Keeps b0 z.2.2.s) ?_ ?_ | refine Keeps.cut (p := ∀ b y a, Keeps b y → Keeps b (z y a)) ?_ ?_ | refine Keeps.cut (p := ∀ b a y, Keeps b y → Keeps b (z a y)) ?_ ?_ | refine Keeps.cut (p := ∀ b y, Keeps b y → Keeps b (z y)) ?_ ?_ | refine Keeps.cut (p := ∀ b y a c, Keeps b y → Keeps b (z y a c)) ?_ ?_ | refine Keeps.cut (p := ∀ b y, Keeps b y → Keeps b (z y).2) ?_ ?_ | refine Keeps.cut (p := ∀ b y a, Keeps b y → Keeps b (z y a).2) ?_ ?_ | refine Keeps.cut (p := ∀ b y, Keeps b y → Keeps b (z y).2.2) ?_ ?_ | refine Keeps.cut (p := ∀ a, Keeps b0 (z a)) ?_ ?_ | refine Keeps.cut (p := ∀ a c, Keeps b0 (z a c)) ?_ ?_ | refine Keeps.cut (p := ∀ a, Keeps b0 (z a).2) ?_ ?_ | refine Keeps.cut (p := ∀ a c d, Keeps b0 (z a c d)) ?_ ?_ | refine Keeps.cut (p := ∀ a, Keeps b0 (z a).2.2) ?_ ?_ | refine Keeps.cut (p := ∀ y, Keeps b0 y.s → Keeps b0 (z y).s) ?_ ?_ | refine Keeps.cut (p := ∀ y a c, Keeps b0 y.s → Keeps b0 (z y a c).s) ?_ ?_ | refine Keeps.cut (p := ∀ c y, Keeps b0 y.s → Keeps b0 (z c y).2.s) ?_ ?_ | refine Keeps.cut (p := ∀ a, Keeps b0 (z a).2.s) ?_ ?_ | refine Keeps.cut (p := ∀ a c y, Keeps b0 y.s → Keeps b0 (z a c y).2.s) ?_ ?_ | refine Keeps.cut (p := ∀ y a, Keeps b0 y → Keeps b0 (z y a).2.s) ?_ ?_); (focus (intros; dsimp only [z]; (repeat' first | (simp (maxDischargeDepth := 99) only [KIss.hold, KIss.done, KIss.fault, KIss.wait, Keeps.upd, Keeps.updId, Keeps.ite, Keeps.foldl, Keeps.foldl2, Keeps.foldl3, Keeps.refl, implies_true, keeps_setIsl, keeps_retargetAll, keeps_FlsRun_draw, *]; done) | with_reducible apply Keeps.fold1 | with_reducible apply Keeps.fold2 | with_reducible apply Keeps.fold3 | with_reducible apply Keeps.fold21 | with_reducible apply Keeps.foldE | with_reducible apply Keeps.foldE2 | with_reducible apply Keeps.foldE3 | intro _ | split | dsimp only))); intro hz; clear_value z) | clear_value z | skip)
    | (simp (maxDischargeDepth := 99) only [KIss.hold, KIss.done, KIss.fault, KIss.wait, Keeps.upd, Keeps.updId, Keeps.ite, Keeps.foldl, Keeps.foldl2, Keeps.foldl3, Keeps.refl, implies_true, keeps_setIsl, keeps_retargetAll, keeps_FlsRun_draw, *]; done)
    | with_reducible apply Keeps.fold1
    | with_reducible apply Keeps.fold2
    | with_reducible apply Keeps.fold3
    | with_reducible apply Keeps.fold21
    | with_reducible apply Keeps.foldE
    | with_reducible apply Keeps.foldE2
    | with_reducible apply Keeps.foldE3
    | intro _
    | (split <;> (try (rename_i heq; (first | refine Keeps.cut (Keeps.of_eq (b := b0) heq ?_) ?_ | refine Keeps.cut (Keeps.of_eq3 (b := b0) heq ?_) ?_ | refine Keeps.cut (Keeps.of_eq1 (b := b0) heq ?_) ?_ | refine Keeps.cut (Keeps.of_eq4 (b := b0) heq ?_) ?_ | refine Keeps.cut (Keeps.of_eqE (b := b0) heq ?_) ?_ | refine Keeps.cut (Keeps.of_eqE3 (b := b0) heq ?_) ?_); (focus (clear heq; (repeat' first | (simp (maxDischargeDepth := 99) only [KIss.hold, KIss.done, KIss.fault, KIss.wait, Keeps.upd, Keeps.updId, Keeps.ite, Keeps.foldl, Keeps.foldl2, Keeps.foldl3, Keeps.refl, implies_true, keeps_setIsl, keeps_retargetAll, keeps_FlsRun_draw, *]; done) | with_reducible apply Keeps.fold1 | with_reducible apply Keeps.fold2 | with_reducible apply Keeps.fold3 | with_reducible apply Keeps.fold21 | with_reducible apply Keeps.foldE | with_reducible apply Keeps.foldE2 | with_reducible apply Keeps.foldE3 | intro _ | split | dsimp only))); intro hz; (try dsimp only at hz); clear heq)))

theorem keeps_reportSend {b0 : State} {s : State} (via : Nat) (hK : Keeps b0 s) :
    Keeps b0 (reportSend s via) := by
  unfold reportSend
  repeat' first
    | with_reducible assumption
    | (extract_lets +onlyGivenNames z; first | ((first | refine Keeps.cut (p := Keeps b0 z) ?_ ?_ | refine Keeps.cut (p := Keeps b0 z.2) ?_ ?_ | refine Keeps.cut (p := Keeps b0 z.2.2) ?_ ?_ | refine Keeps.cut (p := Keeps b0 z.1) ?_ ?_ | refine Keeps.cut (p := Keeps b0 z.s) ?_ ?_ | refine Keeps.cut (p := Keeps b0 z.2.s) ?_ ?_ | refine Keeps.cut (p := Keeps b0 z.2.2.s) ?_ ?_); (focus (intros; dsimp only [z]; (repeat' first | (simp (maxDischargeDepth := 99) only [KIss.hold, KIss.done, KIss.fault, KIss.wait, Keeps.upd, Keeps.updId, Keeps.ite, Keeps.foldl, Keeps.foldl2, Keeps.foldl3, Keeps.refl, implies_true, keeps_forward, keeps_setBudgetNow, *]; done) | with_reducible apply Keeps.fold1 | with_reducible apply Keeps.fold2 | with_reducible apply Keeps.fold3 | with_reducible apply Keeps.fold21 | with_reducible apply Keeps.foldE | with_reducible apply Keeps.foldE2 | with_reducible apply Keeps.foldE3 | intro _ | split | dsimp only))); intro hz; clear_value z) | clear_value z | skip)
    | (simp (maxDischargeDepth := 99) only [KIss.hold, KIss.done, KIss.fault, KIss.wait, Keeps.upd, Keeps.updId, Keeps.ite, Keeps.foldl, Keeps.foldl2, Keeps.foldl3, Keeps.refl, implies_true, keeps_forward, keeps_setBudgetNow, *]; done)
    | with_reducible apply Keeps.fold1
    | with_reducible apply Keeps.fold2
    | with_reducible apply Keeps.fold3
    | with_reducible apply Keeps.fold21
    | with_reducible apply Keeps.foldE
    | with_reducible apply Keeps.foldE2
    | with_reducible apply Keeps.foldE3
    | intro _
    | (split <;> (try (rename_i heq; (first | refine Keeps.cut (Keeps.of_eq (b := b0) heq ?_) ?_ | refine Keeps.cut (Keeps.of_eq3 (b := b0) heq ?_) ?_ | refine Keeps.cut (Keeps.of_eq1 (b := b0) heq ?_) ?_ | refine Keeps.cut (Keeps.of_eq4 (b := b0) heq ?_) ?_ | refine Keeps.cut (Keeps.of_eqE (b := b0) heq ?_) ?_ | refine Keeps.cut (Keeps.of_eqE3 (b := b0) heq ?_) ?_); (focus (clear heq; (repeat' first | (simp (maxDischargeDepth := 99) only [KIss.hold, KIss.done, KIss.fault, KIss.wait, Keeps.upd, Keeps.updId, Keeps.ite, Keeps.foldl, Keeps.foldl2, Keeps.foldl3, Keeps.refl, implies_true, keeps_forward, keeps_setBudgetNow, *]; done) | with_reducible apply Keeps.fold1 | with_reducible apply Keeps.fold2 | with_reducible apply Keeps.fold3 | with_reducible apply Keeps.fold21 | with_reducible apply Keeps.foldE | with_reducible apply Keeps.foldE2 | with_reducible apply Keeps.foldE3 | intro _ | split | dsimp only))); intro hz; (try dsimp only at hz); clear heq)))

theorem keeps_powerPacket {b0 : State} {s : State} (n : Nat) (hK : Keeps b0 s) :
    Keeps b0 (powerPacket s n) := by
  unfold powerPacket
  repeat' first
    | with_reducible assumption
    | (simp (maxDischargeDepth := 99) only [KIss.hold, KIss.done, KIss.fault, KIss.wait, Keeps.upd, Keeps.updId, Keeps.ite, Keeps.foldl, Keeps.foldl2, Keeps.foldl3, Keeps.refl, implies_true, keeps_setBudgetNow, *]; done)
    | (split <;> (try (rename_i heq; (first | refine Keeps.cut (Keeps.of_eq (b := b0) heq ?_) ?_ | refine Keeps.cut (Keeps.of_eq3 (b := b0) heq ?_) ?_ | refine Keeps.cut (Keeps.of_eq1 (b := b0) heq ?_) ?_ | refine Keeps.cut (Keeps.of_eq4 (b := b0) heq ?_) ?_ | refine Keeps.cut (Keeps.of_eqE (b := b0) heq ?_) ?_ | refine Keeps.cut (Keeps.of_eqE3 (b := b0) heq ?_) ?_ | refine Keeps.cut (keeps_takePacket (b0 := b0) _ _ ?_ _ heq) ?_); (focus (clear heq; (repeat' first | (simp (maxDischargeDepth := 99) only [KIss.hold, KIss.done, KIss.fault, KIss.wait, Keeps.upd, Keeps.updId, Keeps.ite, Keeps.foldl, Keeps.foldl2, Keeps.foldl3, Keeps.refl, implies_true, keeps_setBudgetNow, *]; done) | with_reducible apply Keeps.fold1 | with_reducible apply Keeps.fold2 | with_reducible apply Keeps.fold3 | with_reducible apply Keeps.fold21 | with_reducible apply Keeps.foldE | with_reducible apply Keeps.foldE2 | with_reducible apply Keeps.foldE3 | intro _ | split | dsimp only))); intro hz; (try dsimp only at hz); clear heq)))

theorem keeps_partnerStale {b0 : State} {s : State} (node : Nat) (hK : Keeps b0 s) :
    Keeps b0 (partnerStale s node) := by
  unfold partnerStale; (repeat' split) <;> simp (maxDischargeDepth := 99) only [KIss.hold, KIss.done, KIss.fault, KIss.wait,
        Keeps.upd, Keeps.updId, Keeps.ite, Keeps.foldl, Keeps.foldl2, Keeps.foldl3, Keeps.refl, implies_true, keeps_rimLog,
        *]

theorem keeps_thermalStep {b0 : State} {s : State} (d : Nat) (step : Bool) (hK : Keeps b0 s) :
    Keeps b0 (thermalStep s d step) := by
  unfold thermalStep; simp (maxDischargeDepth := 99) only [KIss.hold, KIss.done, KIss.fault, KIss.wait, Keeps.upd,
        Keeps.updId, Keeps.ite, Keeps.foldl, Keeps.foldl2, Keeps.foldl3, Keeps.refl, implies_true, keeps_rfset,
        keeps_retargetAll, *]

theorem keeps_clearFail {b0 : State} {s : State} (d : Nat) (hK : Keeps b0 s) :
    Keeps b0 (clearFail s d) := by
  unfold clearFail; simp (maxDischargeDepth := 99) only [KIss.hold, KIss.done, KIss.fault, KIss.wait, Keeps.upd, Keeps.updId,
         Keeps.ite, Keeps.foldl, Keeps.foldl2, Keeps.foldl3, Keeps.refl, implies_true, keeps_rfset, keeps_FlsRun_failed, *]

theorem keeps_sensorFails {b0 : State} {s : State} (x : Sensor) (hK : Keeps b0 s) :
    Keeps b0 (sensorFails s x) := by
  unfold sensorFails; simp (maxDischargeDepth := 99) only [KIss.hold, KIss.done, KIss.fault, KIss.wait, Keeps.upd,
        Keeps.updId, Keeps.ite, Keeps.foldl, Keeps.foldl2, Keeps.foldl3, Keeps.refl, implies_true, keeps_rfset, keeps_rimLog,
         keeps_FlsRun_failed, *]

theorem keeps_thermalTrip {b0 : State} {s : State} (d : Nat) (no : Nat) (hK : Keeps b0 s) :
    Keeps b0 (thermalTrip s d no) := by
  unfold thermalTrip; simp (maxDischargeDepth := 99) only [KIss.hold, KIss.done, KIss.fault, KIss.wait, Keeps.upd,
        Keeps.updId, Keeps.ite, Keeps.foldl, Keeps.foldl2, Keeps.foldl3, Keeps.refl, implies_true, keeps_report,
        keeps_addHold, keeps_mainReset, *]

theorem keeps_memTemp {b0 : State} {s : State} (x : Sensor) (before : Option Int) (t : Int) (hK : Keeps b0 s) :
    Keeps b0 (memTemp s x before t) := by
  unfold memTemp; (repeat' split) <;> simp (maxDischargeDepth := 99) only [KIss.hold, KIss.done, KIss.fault, KIss.wait,
        Keeps.upd, Keeps.updId, Keeps.ite, Keeps.foldl, Keeps.foldl2, Keeps.foldl3, Keeps.refl, implies_true, keeps_rfset,
        *]

theorem keeps_reading {b0 : State} {s : State} (x : Sensor) (c : Option Int) (hK : Keeps b0 s) :
    Keeps b0 (reading s x c) := by
  unfold reading; (repeat' split) <;> simp (maxDischargeDepth := 99) only [KIss.hold, KIss.done, KIss.fault, KIss.wait,
        Keeps.upd, Keeps.updId, Keeps.ite, Keeps.foldl, Keeps.foldl2, Keeps.foldl3, Keeps.refl, implies_true, keeps_rfset,
        keeps_FlsRun_failed, keeps_thermalStep, keeps_clearFail, keeps_sensorFails, keeps_thermalTrip, keeps_memTemp, *]

theorem keeps_setTrim {b0 : State} {s : State} (d : Nat) (n : Nat) (v : Nat) (hK : Keeps b0 s) :
    Keeps b0 (setTrim s d n v) := by
  unfold setTrim; simp (maxDischargeDepth := 99) only [KIss.hold, KIss.done, KIss.fault, KIss.wait, Keeps.upd, Keeps.updId,
        Keeps.ite, Keeps.foldl, Keeps.foldl2, Keeps.foldl3, Keeps.refl, implies_true, keeps_setIsl, *]

theorem keeps_agingTrim {b0 : State} {s : State} (d : Nat) (n : Nat) (margin : Int) (hK : Keeps b0 s) :
    Keeps b0 (agingTrim s d n margin) := by
  unfold agingTrim; simp (maxDischargeDepth := 99) only [KIss.hold, KIss.done, KIss.fault, KIss.wait, Keeps.upd, Keeps.updId,
         Keeps.ite, Keeps.foldl, Keeps.foldl2, Keeps.foldl3, Keeps.refl, implies_true, keeps_report, keeps_setIsl,
        keeps_retarget, keeps_setTrim, *]

theorem keeps_deepIdle {b0 : State} {s : State} (hK : Keeps b0 s) :
    Keeps b0 (deepIdle s) := by
  unfold deepIdle; simp (maxDischargeDepth := 99) only [KIss.hold, KIss.done, KIss.fault, KIss.wait, Keeps.upd, Keeps.updId,
        Keeps.ite, Keeps.foldl, Keeps.foldl2, Keeps.foldl3, Keeps.refl, implies_true, keeps_rfset, *]

theorem keeps_execRimPowerSample {b0 : State} (watts : BitVec 16) (energy : EnergySample) {s : State} (hK : Keeps b0 s) :
    ∀ u, execRimPowerSample watts energy s = .next u → Keeps b0 u := by
  unfold execRimPowerSample; intro t ht; injection ht with ht; subst ht; simp (maxDischargeDepth := 99) only [KIss.hold,
        KIss.done, KIss.fault, KIss.wait, Keeps.upd, Keeps.updId, Keeps.ite, Keeps.foldl, Keeps.foldl2, Keeps.foldl3,
        Keeps.refl, implies_true, keeps_powerSample, *]

theorem keeps_execRimCoordinatorTick {b0 : State} {s : State} (hK : Keeps b0 s) :
    ∀ u, execRimCoordinatorTick s = .next u → Keeps b0 u := by
  unfold execRimCoordinatorTick; intro t ht; injection ht with ht; subst ht; simp (maxDischargeDepth := 99) only [KIss.hold,
        KIss.done, KIss.fault, KIss.wait, Keeps.upd, Keeps.updId, Keeps.ite, Keeps.foldl, Keeps.foldl2, Keeps.foldl3,
        Keeps.refl, implies_true, keeps_coordinatorTick, *]

theorem keeps_execRimBudgetCheck {b0 : State} (d : Die) (watts : Nat) {s : State} (hK : Keeps b0 s) :
    ∀ u, execRimBudgetCheck d watts s = .next u → Keeps b0 u := by
  unfold execRimBudgetCheck; intro t ht; injection ht with ht; subst ht; simp (maxDischargeDepth := 99) only [KIss.hold,
        KIss.done, KIss.fault, KIss.wait, Keeps.upd, Keeps.updId, Keeps.ite, Keeps.foldl, Keeps.foldl2, Keeps.foldl3,
        Keeps.refl, implies_true, keeps_budgetCheck, *]

theorem keeps_execRimFreqStep {b0 : State} (d : Die) (n : Fin 32) {s : State} (hK : Keeps b0 s) :
    ∀ u, execRimFreqStep d n s = .next u → Keeps b0 u := by
  unfold execRimFreqStep; intro t ht; injection ht with ht; subst ht; simp (maxDischargeDepth := 99) only [KIss.hold,
        KIss.done, KIss.fault, KIss.wait, Keeps.upd, Keeps.updId, Keeps.ite, Keeps.foldl, Keeps.foldl2, Keeps.foldl3,
        Keeps.refl, implies_true, keeps_freqStep, *]

theorem keeps_execDroopTrip {b0 : State} (d : Die) (n : Island) {s : State} (hK : Keeps b0 s) :
    ∀ u, execDroopTrip d n s = .next u → Keeps b0 u := by
  unfold execDroopTrip; intro t ht; injection ht with ht; subst ht; simp (maxDischargeDepth := 99) only [KIss.hold,
        KIss.done, KIss.fault, KIss.wait, Keeps.upd, Keeps.updId, Keeps.ite, Keeps.foldl, Keeps.foldl2, Keeps.foldl3,
        Keeps.refl, implies_true, keeps_droopTrip, *]

theorem keeps_execDroopEnd {b0 : State} (d : Die) (n : Island) {s : State} (hK : Keeps b0 s) :
    ∀ u, execDroopEnd d n s = .next u → Keeps b0 u := by
  unfold execDroopEnd; intro t ht; injection ht with ht; subst ht; simp (maxDischargeDepth := 99) only [KIss.hold, KIss.done,
         KIss.fault, KIss.wait, Keeps.upd, Keeps.updId, Keeps.ite, Keeps.foldl, Keeps.foldl2, Keeps.foldl3, Keeps.refl,
        implies_true, keeps_droopEnd, *]

theorem keeps_execThermalRead {b0 : State} (x : Sensor) (celsius : Option Int) {s : State} (hK : Keeps b0 s) :
    ∀ u, execThermalRead x celsius s = .next u → Keeps b0 u := by
  unfold execThermalRead; intro t ht; injection ht with ht; subst ht; simp (maxDischargeDepth := 99) only [KIss.hold,
        KIss.done, KIss.fault, KIss.wait, Keeps.upd, Keeps.updId, Keeps.ite, Keeps.foldl, Keeps.foldl2, Keeps.foldl3,
        Keeps.refl, implies_true, keeps_reading, *]

theorem keeps_execSensorTimeout {b0 : State} (x : Sensor) {s : State} (hK : Keeps b0 s) :
    ∀ u, execSensorTimeout x s = .next u → Keeps b0 u := by
  unfold execSensorTimeout; intro t ht; injection ht with ht; subst ht; simp (maxDischargeDepth := 99) only [KIss.hold,
        KIss.done, KIss.fault, KIss.wait, Keeps.upd, Keeps.updId, Keeps.ite, Keeps.foldl, Keeps.foldl2, Keeps.foldl3,
        Keeps.refl, implies_true, keeps_thermalStep, keeps_sensorFails, *]

theorem keeps_execAgingTrim {b0 : State} (d : Die) (n : Fin 32) (margin : Int) {s : State} (hK : Keeps b0 s) :
    ∀ u, execAgingTrim d n margin s = .next u → Keeps b0 u := by
  unfold execAgingTrim; intro t ht; injection ht with ht; subst ht; simp (maxDischargeDepth := 99) only [KIss.hold,
        KIss.done, KIss.fault, KIss.wait, Keeps.upd, Keeps.updId, Keeps.ite, Keeps.foldl, Keeps.foldl2, Keeps.foldl3,
        Keeps.refl, implies_true, keeps_agingTrim, *]

theorem keeps_execPowerReportSend {b0 : State} (via : LDie) {s : State} (hK : Keeps b0 s) :
    ∀ u, execPowerReportSend via s = .next u → Keeps b0 u := by
  unfold execPowerReportSend; intro t ht; injection ht with ht; subst ht; simp (maxDischargeDepth := 99) only [KIss.hold,
        KIss.done, KIss.fault, KIss.wait, Keeps.upd, Keeps.updId, Keeps.ite, Keeps.foldl, Keeps.foldl2, Keeps.foldl3,
        Keeps.refl, implies_true, keeps_reportSend, *]

theorem keeps_execPowerPacket {b0 : State} (n : Nat) {s : State} (hK : Keeps b0 s) :
    ∀ u, execPowerPacket n s = .next u → Keeps b0 u := by
  unfold execPowerPacket; intro t ht; injection ht with ht; subst ht; simp (maxDischargeDepth := 99) only [KIss.hold,
        KIss.done, KIss.fault, KIss.wait, Keeps.upd, Keeps.updId, Keeps.ite, Keeps.foldl, Keeps.foldl2, Keeps.foldl3,
        Keeps.refl, implies_true, keeps_powerPacket, *]

theorem keeps_execGroupPartnerStale {b0 : State} (node : BitVec 18) {s : State} (hK : Keeps b0 s) :
    ∀ u, execGroupPartnerStale node s = .next u → Keeps b0 u := by
  unfold execGroupPartnerStale; intro t ht; injection ht with ht; subst ht; simp (maxDischargeDepth := 99) only [KIss.hold,
        KIss.done, KIss.fault, KIss.wait, Keeps.upd, Keeps.updId, Keeps.ite, Keeps.foldl, Keeps.foldl2, Keeps.foldl3,
        Keeps.refl, implies_true, keeps_partnerStale, *]

theorem keeps_execDeepIdleEnter {b0 : State} {s : State} (hK : Keeps b0 s) :
    ∀ u, execDeepIdleEnter s = .next u → Keeps b0 u := by
  unfold execDeepIdleEnter; intro t ht; injection ht with ht; subst ht; simp (maxDischargeDepth := 99) only [KIss.hold,
        KIss.done, KIss.fault, KIss.wait, Keeps.upd, Keeps.updId, Keeps.ite, Keeps.foldl, Keeps.foldl2, Keeps.foldl3,
        Keeps.refl, implies_true, keeps_deepIdle, *]

theorem keeps_execMemTempRead {b0 : State} (h : Home) (celsius : Option Int) {s : State} (hK : Keeps b0 s) :
    ∀ u, execMemTempRead h celsius s = .next u → Keeps b0 u := by
  unfold execMemTempRead; intro t ht; injection ht with ht; subst ht; simp (maxDischargeDepth := 99) only [KIss.hold,
        KIss.done, KIss.fault, KIss.wait, Keeps.upd, Keeps.updId, Keeps.ite, Keeps.foldl, Keeps.foldl2, Keeps.foldl3,
        Keeps.refl, implies_true, keeps_reading, *]

theorem keeps_ctxPut {b0 : State} {s : State} (n : Nat) (v : Nat) (hK : Keeps b0 s) :
    Keeps b0 (ctxPut s n v) := by
  unfold ctxPut; simp (maxDischargeDepth := 99) only [KIss.hold, KIss.done, KIss.fault, KIss.wait, Keeps.upd, Keeps.updId,
        Keeps.ite, Keeps.foldl, Keeps.foldl2, Keeps.foldl3, Keeps.refl, implies_true, keeps_rset, *]

theorem keeps_execCtxCreate {b0 : State} (m : Mbx) {s : State} (hK : Keeps b0 s) :
    ∀ u, execCtxCreate m s = .next u → Keeps b0 u := by
  unfold execCtxCreate; intro u hu; injection hu with hu; subst hu
  refine keeps_mbxRun _ _ _ (fun b0 l => ?_) hK
  have hK := Keeps.refl b0
  repeat' first
    | with_reducible assumption
    | (simp (maxDischargeDepth := 99) only [KIss.hold, KIss.done, KIss.fault, KIss.wait, Keeps.upd, Keeps.updId, Keeps.ite, Keeps.foldl, Keeps.foldl2, Keeps.foldl3, Keeps.refl, implies_true, keeps_mbxRun, keeps_ctxPut, *]; done)
    | (split <;> (try (rename_i heq; (first | refine Keeps.cut (Keeps.of_eq (b := b0) heq ?_) ?_ | refine Keeps.cut (Keeps.of_eq3 (b := b0) heq ?_) ?_ | refine Keeps.cut (Keeps.of_eq1 (b := b0) heq ?_) ?_ | refine Keeps.cut (Keeps.of_eq4 (b := b0) heq ?_) ?_ | refine Keeps.cut (Keeps.of_eqE (b := b0) heq ?_) ?_ | refine Keeps.cut (Keeps.of_eqE3 (b := b0) heq ?_) ?_); (focus (clear heq; (repeat' first | (simp (maxDischargeDepth := 99) only [KIss.hold, KIss.done, KIss.fault, KIss.wait, Keeps.upd, Keeps.updId, Keeps.ite, Keeps.foldl, Keeps.foldl2, Keeps.foldl3, Keeps.refl, implies_true, keeps_mbxRun, keeps_ctxPut, *]; done) | with_reducible apply Keeps.fold1 | with_reducible apply Keeps.fold2 | with_reducible apply Keeps.fold3 | with_reducible apply Keeps.fold21 | with_reducible apply Keeps.foldE | with_reducible apply Keeps.foldE2 | with_reducible apply Keeps.foldE3 | intro _ | split | dsimp only))); intro hz; (try dsimp only at hz); clear heq)))

theorem keeps_ctxJobsEnd {b0 : State} {s : State} (ctx : Nat) (hK : Keeps b0 s) :
    Keeps b0 (ctxJobsEnd s ctx) := by
  unfold ctxJobsEnd
  repeat' first
    | with_reducible assumption
    | (extract_lets +onlyGivenNames z; first | ((first | refine Keeps.cut (p := Keeps b0 z) ?_ ?_ | refine Keeps.cut (p := Keeps b0 z.2) ?_ ?_ | refine Keeps.cut (p := Keeps b0 z.2.2) ?_ ?_ | refine Keeps.cut (p := Keeps b0 z.1) ?_ ?_ | refine Keeps.cut (p := Keeps b0 z.s) ?_ ?_ | refine Keeps.cut (p := Keeps b0 z.2.s) ?_ ?_ | refine Keeps.cut (p := Keeps b0 z.2.2.s) ?_ ?_); (focus (intros; dsimp only [z]; (repeat' first | (simp (maxDischargeDepth := 99) only [KIss.hold, KIss.done, KIss.fault, KIss.wait, Keeps.upd, Keeps.updId, Keeps.ite, Keeps.foldl, Keeps.foldl2, Keeps.foldl3, Keeps.refl, implies_true, keeps_jobEnd, keeps_jobFail, *]; done) | with_reducible apply Keeps.fold1 | with_reducible apply Keeps.fold2 | with_reducible apply Keeps.fold3 | with_reducible apply Keeps.fold21 | with_reducible apply Keeps.foldE | with_reducible apply Keeps.foldE2 | with_reducible apply Keeps.foldE3 | intro _ | split | dsimp only))); intro hz; clear_value z) | clear_value z | skip)
    | (simp (maxDischargeDepth := 99) only [KIss.hold, KIss.done, KIss.fault, KIss.wait, Keeps.upd, Keeps.updId, Keeps.ite, Keeps.foldl, Keeps.foldl2, Keeps.foldl3, Keeps.refl, implies_true, keeps_jobEnd, keeps_jobFail, *]; done)
    | with_reducible apply Keeps.fold1
    | with_reducible apply Keeps.fold2
    | with_reducible apply Keeps.fold3
    | with_reducible apply Keeps.fold21
    | with_reducible apply Keeps.foldE
    | with_reducible apply Keeps.foldE2
    | with_reducible apply Keeps.foldE3
    | intro _
    | (split <;> (try (rename_i heq; (first | refine Keeps.cut (Keeps.of_eq (b := b0) heq ?_) ?_ | refine Keeps.cut (Keeps.of_eq3 (b := b0) heq ?_) ?_ | refine Keeps.cut (Keeps.of_eq1 (b := b0) heq ?_) ?_ | refine Keeps.cut (Keeps.of_eq4 (b := b0) heq ?_) ?_ | refine Keeps.cut (Keeps.of_eqE (b := b0) heq ?_) ?_ | refine Keeps.cut (Keeps.of_eqE3 (b := b0) heq ?_) ?_); (focus (clear heq; (repeat' first | (simp (maxDischargeDepth := 99) only [KIss.hold, KIss.done, KIss.fault, KIss.wait, Keeps.upd, Keeps.updId, Keeps.ite, Keeps.foldl, Keeps.foldl2, Keeps.foldl3, Keeps.refl, implies_true, keeps_jobEnd, keeps_jobFail, *]; done) | with_reducible apply Keeps.fold1 | with_reducible apply Keeps.fold2 | with_reducible apply Keeps.fold3 | with_reducible apply Keeps.fold21 | with_reducible apply Keeps.foldE | with_reducible apply Keeps.foldE2 | with_reducible apply Keeps.foldE3 | intro _ | split | dsimp only))); intro hz; (try dsimp only at hz); clear heq)))

theorem keeps_ctxQueuesOff {b0 : State} {s : State} (ctx : Nat) (hK : Keeps b0 s) :
    Keeps b0 (ctxQueuesOff s ctx) := by
  unfold ctxQueuesOff; simp (maxDischargeDepth := 99) only [KIss.hold, KIss.done, KIss.fault, KIss.wait, Keeps.upd,
        Keeps.updId, Keeps.ite, Keeps.foldl, Keeps.foldl2, Keeps.foldl3, Keeps.refl, implies_true, keeps_rfset,
        keeps_grtQcfgWrite, *]

theorem keeps_ctxFabQueuesHalt {b0 : State} {s : State} (ctx : Nat) (hK : Keeps b0 s) :
    Keeps b0 (ctxFabQueuesHalt s ctx) := by
  unfold ctxFabQueuesHalt; simp (maxDischargeDepth := 99) only [KIss.hold, KIss.done, KIss.fault, KIss.wait, Keeps.upd,
        Keeps.updId, Keeps.ite, Keeps.foldl, Keeps.foldl2, Keeps.foldl3, Keeps.refl, implies_true, keeps_rfset, *]

theorem keeps_ctxGranulesOff {b0 : State} {s : State} (ctx : Nat) (hK : Keeps b0 s) :
    Keeps b0 (ctxGranulesOff s ctx) := by
  unfold ctxGranulesOff; simp (maxDischargeDepth := 99) only [KIss.hold, KIss.done, KIss.fault, KIss.wait, Keeps.upd,
        Keeps.updId, Keeps.ite, Keeps.foldl, Keeps.foldl2, Keeps.foldl3, Keeps.refl, implies_true, keeps_setGrotto,
        keeps_granuleGets, *]

theorem keeps_ctxFree {b0 : State} {s : State} (ctx : Nat) (hK : Keeps b0 s) :
    Keeps b0 (ctxFree s ctx) := by
  unfold ctxFree; simp (maxDischargeDepth := 99) only [KIss.hold, KIss.done, KIss.fault, KIss.wait, Keeps.upd, Keeps.updId,
        Keeps.ite, Keeps.foldl, Keeps.foldl2, Keeps.foldl3, Keeps.refl, implies_true, keeps_tlbDrop, keeps_ctxPut,
        keeps_ctxQueuesOff, keeps_ctxFabQueuesHalt, keeps_ctxGranulesOff, *]

theorem keeps_execCtxDestroy {b0 : State} (m : Mbx) {s : State} (hK : Keeps b0 s) :
    ∀ u, execCtxDestroy m s = .next u → Keeps b0 u := by
  unfold execCtxDestroy; intro u hu; injection hu with hu; subst hu
  refine keeps_mbxRun _ _ _ (fun b0 l => ?_) hK
  have hK := Keeps.refl b0
  repeat' first
    | with_reducible assumption
    | (simp (maxDischargeDepth := 99) only [KIss.hold, KIss.done, KIss.fault, KIss.wait, Keeps.upd, Keeps.updId, Keeps.ite, Keeps.foldl, Keeps.foldl2, Keeps.foldl3, Keeps.refl, implies_true, keeps_mbxRun, keeps_ctxJobsEnd, *]; done)
    | (split <;> (try (rename_i heq; (first | refine Keeps.cut (Keeps.of_eq (b := b0) heq ?_) ?_ | refine Keeps.cut (Keeps.of_eq3 (b := b0) heq ?_) ?_ | refine Keeps.cut (Keeps.of_eq1 (b := b0) heq ?_) ?_ | refine Keeps.cut (Keeps.of_eq4 (b := b0) heq ?_) ?_ | refine Keeps.cut (Keeps.of_eqE (b := b0) heq ?_) ?_ | refine Keeps.cut (Keeps.of_eqE3 (b := b0) heq ?_) ?_); (focus (clear heq; (repeat' first | (simp (maxDischargeDepth := 99) only [KIss.hold, KIss.done, KIss.fault, KIss.wait, Keeps.upd, Keeps.updId, Keeps.ite, Keeps.foldl, Keeps.foldl2, Keeps.foldl3, Keeps.refl, implies_true, keeps_mbxRun, keeps_ctxJobsEnd, *]; done) | with_reducible apply Keeps.fold1 | with_reducible apply Keeps.fold2 | with_reducible apply Keeps.fold3 | with_reducible apply Keeps.fold21 | with_reducible apply Keeps.foldE | with_reducible apply Keeps.foldE2 | with_reducible apply Keeps.foldE3 | intro _ | split | dsimp only))); intro hz; (try dsimp only at hz); clear heq)))

theorem keeps_execGrtAssign {b0 : State} (m : Mbx) {s : State} (hK : Keeps b0 s) :
    ∀ u, execGrtAssign m s = .next u → Keeps b0 u := by
  unfold execGrtAssign; intro u hu; injection hu with hu; subst hu
  refine keeps_mbxRun _ _ _ (fun b0 l => ?_) hK
  have hK := Keeps.refl b0
  repeat' first
    | with_reducible assumption
    | (extract_lets +onlyGivenNames z; first | ((first | refine Keeps.cut (p := Keeps b0 z) ?_ ?_ | refine Keeps.cut (p := Keeps b0 z.2) ?_ ?_ | refine Keeps.cut (p := Keeps b0 z.2.2) ?_ ?_ | refine Keeps.cut (p := Keeps b0 z.1) ?_ ?_ | refine Keeps.cut (p := Keeps b0 z.s) ?_ ?_ | refine Keeps.cut (p := Keeps b0 z.2.s) ?_ ?_ | refine Keeps.cut (p := Keeps b0 z.2.2.s) ?_ ?_); (focus (intros; dsimp only [z]; (repeat' first | (simp (maxDischargeDepth := 99) only [KIss.hold, KIss.done, KIss.fault, KIss.wait, Keeps.upd, Keeps.updId, Keeps.ite, Keeps.foldl, Keeps.foldl2, Keeps.foldl3, Keeps.refl, implies_true, keeps_mbxRun, keeps_ownerPend, *]; done) | with_reducible apply Keeps.fold1 | with_reducible apply Keeps.fold2 | with_reducible apply Keeps.fold3 | with_reducible apply Keeps.fold21 | with_reducible apply Keeps.foldE | with_reducible apply Keeps.foldE2 | with_reducible apply Keeps.foldE3 | intro _ | split | dsimp only))); intro hz; clear_value z) | clear_value z | skip)
    | (simp (maxDischargeDepth := 99) only [KIss.hold, KIss.done, KIss.fault, KIss.wait, Keeps.upd, Keeps.updId, Keeps.ite, Keeps.foldl, Keeps.foldl2, Keeps.foldl3, Keeps.refl, implies_true, keeps_mbxRun, keeps_ownerPend, *]; done)
    | with_reducible apply Keeps.fold1
    | with_reducible apply Keeps.fold2
    | with_reducible apply Keeps.fold3
    | with_reducible apply Keeps.fold21
    | with_reducible apply Keeps.foldE
    | with_reducible apply Keeps.foldE2
    | with_reducible apply Keeps.foldE3
    | intro _
    | (split <;> (try (rename_i heq; (first | refine Keeps.cut (Keeps.of_eq (b := b0) heq ?_) ?_ | refine Keeps.cut (Keeps.of_eq3 (b := b0) heq ?_) ?_ | refine Keeps.cut (Keeps.of_eq1 (b := b0) heq ?_) ?_ | refine Keeps.cut (Keeps.of_eq4 (b := b0) heq ?_) ?_ | refine Keeps.cut (Keeps.of_eqE (b := b0) heq ?_) ?_ | refine Keeps.cut (Keeps.of_eqE3 (b := b0) heq ?_) ?_); (focus (clear heq; (repeat' first | (simp (maxDischargeDepth := 99) only [KIss.hold, KIss.done, KIss.fault, KIss.wait, Keeps.upd, Keeps.updId, Keeps.ite, Keeps.foldl, Keeps.foldl2, Keeps.foldl3, Keeps.refl, implies_true, keeps_mbxRun, keeps_ownerPend, *]; done) | with_reducible apply Keeps.fold1 | with_reducible apply Keeps.fold2 | with_reducible apply Keeps.fold3 | with_reducible apply Keeps.fold21 | with_reducible apply Keeps.foldE | with_reducible apply Keeps.foldE2 | with_reducible apply Keeps.foldE3 | intro _ | split | dsimp only))); intro hz; (try dsimp only at hz); clear heq)))

theorem keeps_execConnCreate {b0 : State} (m : Mbx) {s : State} (hK : Keeps b0 s) :
    ∀ u, execConnCreate m s = .next u → Keeps b0 u := by
  unfold execConnCreate; intro u hu; injection hu with hu; subst hu
  refine keeps_mbxRun _ _ _ (fun b0 l => ?_) hK
  have hK := Keeps.refl b0
  repeat' first
    | with_reducible assumption
    | (extract_lets +onlyGivenNames z; first | ((first | refine Keeps.cut (p := Keeps b0 z) ?_ ?_ | refine Keeps.cut (p := Keeps b0 z.2) ?_ ?_ | refine Keeps.cut (p := Keeps b0 z.2.2) ?_ ?_ | refine Keeps.cut (p := Keeps b0 z.1) ?_ ?_ | refine Keeps.cut (p := Keeps b0 z.s) ?_ ?_ | refine Keeps.cut (p := Keeps b0 z.2.s) ?_ ?_ | refine Keeps.cut (p := Keeps b0 z.2.2.s) ?_ ?_); (focus (intros; dsimp only [z]; (repeat' first | (simp (maxDischargeDepth := 99) only [KIss.hold, KIss.done, KIss.fault, KIss.wait, Keeps.upd, Keeps.updId, Keeps.ite, Keeps.foldl, Keeps.foldl2, Keeps.foldl3, Keeps.refl, implies_true, keeps_rset, keeps_mbxRun, keeps_setConn, *]; done) | with_reducible apply Keeps.fold1 | with_reducible apply Keeps.fold2 | with_reducible apply Keeps.fold3 | with_reducible apply Keeps.fold21 | with_reducible apply Keeps.foldE | with_reducible apply Keeps.foldE2 | with_reducible apply Keeps.foldE3 | intro _ | split | dsimp only))); intro hz; clear_value z) | clear_value z | skip)
    | (simp (maxDischargeDepth := 99) only [KIss.hold, KIss.done, KIss.fault, KIss.wait, Keeps.upd, Keeps.updId, Keeps.ite, Keeps.foldl, Keeps.foldl2, Keeps.foldl3, Keeps.refl, implies_true, keeps_rset, keeps_mbxRun, keeps_setConn, *]; done)
    | with_reducible apply Keeps.fold1
    | with_reducible apply Keeps.fold2
    | with_reducible apply Keeps.fold3
    | with_reducible apply Keeps.fold21
    | with_reducible apply Keeps.foldE
    | with_reducible apply Keeps.foldE2
    | with_reducible apply Keeps.foldE3
    | intro _
    | (split <;> (try (rename_i heq; (first | refine Keeps.cut (Keeps.of_eq (b := b0) heq ?_) ?_ | refine Keeps.cut (Keeps.of_eq3 (b := b0) heq ?_) ?_ | refine Keeps.cut (Keeps.of_eq1 (b := b0) heq ?_) ?_ | refine Keeps.cut (Keeps.of_eq4 (b := b0) heq ?_) ?_ | refine Keeps.cut (Keeps.of_eqE (b := b0) heq ?_) ?_ | refine Keeps.cut (Keeps.of_eqE3 (b := b0) heq ?_) ?_); (focus (clear heq; (repeat' first | (simp (maxDischargeDepth := 99) only [KIss.hold, KIss.done, KIss.fault, KIss.wait, Keeps.upd, Keeps.updId, Keeps.ite, Keeps.foldl, Keeps.foldl2, Keeps.foldl3, Keeps.refl, implies_true, keeps_rset, keeps_mbxRun, keeps_setConn, *]; done) | with_reducible apply Keeps.fold1 | with_reducible apply Keeps.fold2 | with_reducible apply Keeps.fold3 | with_reducible apply Keeps.fold21 | with_reducible apply Keeps.foldE | with_reducible apply Keeps.foldE2 | with_reducible apply Keeps.foldE3 | intro _ | split | dsimp only))); intro hz; (try dsimp only at hz); clear heq)))

theorem keeps_execConnDestroy {b0 : State} (m : Mbx) {s : State} (hK : Keeps b0 s) :
    ∀ u, execConnDestroy m s = .next u → Keeps b0 u := by
  unfold execConnDestroy; intro u hu; injection hu with hu; subst hu
  refine keeps_mbxRun _ _ _ (fun b0 l => ?_) hK
  have hK := Keeps.refl b0
  repeat' first
    | with_reducible assumption
    | (extract_lets +onlyGivenNames z; first | ((first | refine Keeps.cut (p := Keeps b0 z) ?_ ?_ | refine Keeps.cut (p := Keeps b0 z.2) ?_ ?_ | refine Keeps.cut (p := Keeps b0 z.2.2) ?_ ?_ | refine Keeps.cut (p := Keeps b0 z.1) ?_ ?_ | refine Keeps.cut (p := Keeps b0 z.s) ?_ ?_ | refine Keeps.cut (p := Keeps b0 z.2.s) ?_ ?_ | refine Keeps.cut (p := Keeps b0 z.2.2.s) ?_ ?_); (focus (intros; dsimp only [z]; (repeat' first | (simp (maxDischargeDepth := 99) only [KIss.hold, KIss.done, KIss.fault, KIss.wait, Keeps.upd, Keeps.updId, Keeps.ite, Keeps.foldl, Keeps.foldl2, Keeps.foldl3, Keeps.refl, implies_true, keeps_mbxRun, keeps_setConnF, keeps_setConn, keeps_connError, keeps_a2aRecords, *]; done) | with_reducible apply Keeps.fold1 | with_reducible apply Keeps.fold2 | with_reducible apply Keeps.fold3 | with_reducible apply Keeps.fold21 | with_reducible apply Keeps.foldE | with_reducible apply Keeps.foldE2 | with_reducible apply Keeps.foldE3 | intro _ | split | dsimp only))); intro hz; clear_value z) | clear_value z | skip)
    | (simp (maxDischargeDepth := 99) only [KIss.hold, KIss.done, KIss.fault, KIss.wait, Keeps.upd, Keeps.updId, Keeps.ite, Keeps.foldl, Keeps.foldl2, Keeps.foldl3, Keeps.refl, implies_true, keeps_mbxRun, keeps_setConnF, keeps_setConn, keeps_connError, keeps_a2aRecords, *]; done)
    | with_reducible apply Keeps.fold1
    | with_reducible apply Keeps.fold2
    | with_reducible apply Keeps.fold3
    | with_reducible apply Keeps.fold21
    | with_reducible apply Keeps.foldE
    | with_reducible apply Keeps.foldE2
    | with_reducible apply Keeps.foldE3
    | intro _
    | (split <;> (try (rename_i heq; (first | refine Keeps.cut (Keeps.of_eq (b := b0) heq ?_) ?_ | refine Keeps.cut (Keeps.of_eq3 (b := b0) heq ?_) ?_ | refine Keeps.cut (Keeps.of_eq1 (b := b0) heq ?_) ?_ | refine Keeps.cut (Keeps.of_eq4 (b := b0) heq ?_) ?_ | refine Keeps.cut (Keeps.of_eqE (b := b0) heq ?_) ?_ | refine Keeps.cut (Keeps.of_eqE3 (b := b0) heq ?_) ?_); (focus (clear heq; (repeat' first | (simp (maxDischargeDepth := 99) only [KIss.hold, KIss.done, KIss.fault, KIss.wait, Keeps.upd, Keeps.updId, Keeps.ite, Keeps.foldl, Keeps.foldl2, Keeps.foldl3, Keeps.refl, implies_true, keeps_mbxRun, keeps_setConnF, keeps_setConn, keeps_connError, keeps_a2aRecords, *]; done) | with_reducible apply Keeps.fold1 | with_reducible apply Keeps.fold2 | with_reducible apply Keeps.fold3 | with_reducible apply Keeps.fold21 | with_reducible apply Keeps.foldE | with_reducible apply Keeps.foldE2 | with_reducible apply Keeps.foldE3 | intro _ | split | dsimp only))); intro hz; (try dsimp only at hz); clear heq)))

theorem keeps_execNodeSet {b0 : State} (m : Mbx) {s : State} (hK : Keeps b0 s) :
    ∀ u, execNodeSet m s = .next u → Keeps b0 u := by
  unfold execNodeSet; intro u hu; injection hu with hu; subst hu
  refine keeps_mbxRun _ _ _ (fun b0 l => ?_) hK
  have hK := Keeps.refl b0
  repeat' first
    | with_reducible assumption
    | (simp (maxDischargeDepth := 99) only [KIss.hold, KIss.done, KIss.fault, KIss.wait, Keeps.upd, Keeps.updId, Keeps.ite, Keeps.foldl, Keeps.foldl2, Keeps.foldl3, Keeps.refl, implies_true, keeps_rset, keeps_mbxRun, *]; done)
    | (split <;> (try (rename_i heq; (first | refine Keeps.cut (Keeps.of_eq (b := b0) heq ?_) ?_ | refine Keeps.cut (Keeps.of_eq3 (b := b0) heq ?_) ?_ | refine Keeps.cut (Keeps.of_eq1 (b := b0) heq ?_) ?_ | refine Keeps.cut (Keeps.of_eq4 (b := b0) heq ?_) ?_ | refine Keeps.cut (Keeps.of_eqE (b := b0) heq ?_) ?_ | refine Keeps.cut (Keeps.of_eqE3 (b := b0) heq ?_) ?_); (focus (clear heq; (repeat' first | (simp (maxDischargeDepth := 99) only [KIss.hold, KIss.done, KIss.fault, KIss.wait, Keeps.upd, Keeps.updId, Keeps.ite, Keeps.foldl, Keeps.foldl2, Keeps.foldl3, Keeps.refl, implies_true, keeps_rset, keeps_mbxRun, *]; done) | with_reducible apply Keeps.fold1 | with_reducible apply Keeps.fold2 | with_reducible apply Keeps.fold3 | with_reducible apply Keeps.fold21 | with_reducible apply Keeps.foldE | with_reducible apply Keeps.foldE2 | with_reducible apply Keeps.foldE3 | intro _ | split | dsimp only))); intro hz; (try dsimp only at hz); clear heq)))

theorem keeps_execRouteSet {b0 : State} (m : Mbx) {s : State} (hK : Keeps b0 s) :
    ∀ u, execRouteSet m s = .next u → Keeps b0 u := by
  unfold execRouteSet; intro u hu; injection hu with hu; subst hu
  refine keeps_mbxRun _ _ _ (fun b0 l => ?_) hK
  have hK := Keeps.refl b0
  repeat' first
    | with_reducible assumption
    | (simp (maxDischargeDepth := 99) only [KIss.hold, KIss.done, KIss.fault, KIss.wait, Keeps.upd, Keeps.updId, Keeps.ite, Keeps.foldl, Keeps.foldl2, Keeps.foldl3, Keeps.refl, implies_true, keeps_rset, keeps_mbxRun, keeps_FlsRun_write, keeps_Eng_write, *]; done)
    | (split <;> (try (rename_i heq; (first | refine Keeps.cut (Keeps.of_eq (b := b0) heq ?_) ?_ | refine Keeps.cut (Keeps.of_eq3 (b := b0) heq ?_) ?_ | refine Keeps.cut (Keeps.of_eq1 (b := b0) heq ?_) ?_ | refine Keeps.cut (Keeps.of_eq4 (b := b0) heq ?_) ?_ | refine Keeps.cut (Keeps.of_eqE (b := b0) heq ?_) ?_ | refine Keeps.cut (Keeps.of_eqE3 (b := b0) heq ?_) ?_); (focus (clear heq; (repeat' first | (simp (maxDischargeDepth := 99) only [KIss.hold, KIss.done, KIss.fault, KIss.wait, Keeps.upd, Keeps.updId, Keeps.ite, Keeps.foldl, Keeps.foldl2, Keeps.foldl3, Keeps.refl, implies_true, keeps_rset, keeps_mbxRun, keeps_FlsRun_write, keeps_Eng_write, *]; done) | with_reducible apply Keeps.fold1 | with_reducible apply Keeps.fold2 | with_reducible apply Keeps.fold3 | with_reducible apply Keeps.fold21 | with_reducible apply Keeps.foldE | with_reducible apply Keeps.foldE2 | with_reducible apply Keeps.foldE3 | intro _ | split | dsimp only))); intro hz; (try dsimp only at hz); clear heq)))

theorem keeps_execMbxClassBComplete {b0 : State} (m : Mbx) {s : State} (hK : Keeps b0 s) :
    ∀ u, execMbxClassBComplete m s = .next u → Keeps b0 u := by
  unfold execMbxClassBComplete
  repeat' first
    | with_reducible assumption
    | refine fun (y : State) (gr : Group) (hy : Keeps b0 y) => ?_
    | (extract_lets +onlyGivenNames z; first | ((first | refine Keeps.cut (p := Keeps b0 z) ?_ ?_ | refine Keeps.cut (p := Keeps b0 z.2) ?_ ?_ | refine Keeps.cut (p := Keeps b0 z.2.2) ?_ ?_ | refine Keeps.cut (p := Keeps b0 z.1) ?_ ?_ | refine Keeps.cut (p := Keeps b0 z.s) ?_ ?_ | refine Keeps.cut (p := Keeps b0 z.2.s) ?_ ?_ | refine Keeps.cut (p := Keeps b0 z.2.2.s) ?_ ?_); (focus (intros; dsimp only [z]; (repeat' first | (simp (maxDischargeDepth := 99) only [KIss.hold, KIss.done, KIss.fault, KIss.wait, Keeps.upd, Keeps.updId, Keeps.ite, Keeps.foldl, Keeps.foldl2, Keeps.foldl3, Keeps.refl, implies_true, keeps_mbxFinish, keeps_ctxJobsEnd, keeps_ctxFree, *]; done) | with_reducible apply Keeps.fold1 | with_reducible apply Keeps.fold2 | with_reducible apply Keeps.fold3 | with_reducible apply Keeps.fold21 | with_reducible apply Keeps.foldE | with_reducible apply Keeps.foldE2 | with_reducible apply Keeps.foldE3 | intro _ | split | dsimp only))); intro hz; clear_value z) | clear_value z | skip)
    | (simp (maxDischargeDepth := 99) only [KIss.hold, KIss.done, KIss.fault, KIss.wait, Keeps.upd, Keeps.updId, Keeps.ite, Keeps.foldl, Keeps.foldl2, Keeps.foldl3, Keeps.refl, implies_true, keeps_mbxFinish, keeps_ctxJobsEnd, keeps_ctxFree, *]; done)
    | (intro t ht; injection ht with ht; subst ht)
    | (intro t ht; contradiction)
    | with_reducible apply Keeps.fold1
    | with_reducible apply Keeps.fold2
    | with_reducible apply Keeps.fold3
    | with_reducible apply Keeps.fold21
    | with_reducible apply Keeps.foldE
    | with_reducible apply Keeps.foldE2
    | with_reducible apply Keeps.foldE3
    | (split <;> (try (rename_i heq; (first | refine Keeps.cut (Keeps.of_eq (b := b0) heq ?_) ?_ | refine Keeps.cut (Keeps.of_eq3 (b := b0) heq ?_) ?_ | refine Keeps.cut (Keeps.of_eq1 (b := b0) heq ?_) ?_ | refine Keeps.cut (Keeps.of_eq4 (b := b0) heq ?_) ?_ | refine Keeps.cut (Keeps.of_eqE (b := b0) heq ?_) ?_ | refine Keeps.cut (Keeps.of_eqE3 (b := b0) heq ?_) ?_); (focus (clear heq; (repeat' first | (simp (maxDischargeDepth := 99) only [KIss.hold, KIss.done, KIss.fault, KIss.wait, Keeps.upd, Keeps.updId, Keeps.ite, Keeps.foldl, Keeps.foldl2, Keeps.foldl3, Keeps.refl, implies_true, keeps_mbxFinish, keeps_ctxJobsEnd, keeps_ctxFree, *]; done) | with_reducible apply Keeps.fold1 | with_reducible apply Keeps.fold2 | with_reducible apply Keeps.fold3 | with_reducible apply Keeps.fold21 | with_reducible apply Keeps.foldE | with_reducible apply Keeps.foldE2 | with_reducible apply Keeps.foldE3 | intro _ | split | dsimp only))); intro hz; (try dsimp only at hz); clear heq)))
    | intro _

theorem keeps_regPut {b0 : State} {s : State} (r : Reg) (die : Nat) (i : Nat) (j : Nat) (v : Nat) (hK : Keeps b0 s) :
    Keeps b0 (regPut s r die i j v) := by
  unfold regPut; simp (maxDischargeDepth := 99) only [KIss.hold, KIss.done, KIss.fault, KIss.wait, Keeps.upd, Keeps.updId,
        Keeps.ite, Keeps.foldl, Keeps.foldl2, Keeps.foldl3, Keeps.refl, implies_true, keeps_rset, keeps_FlsRun_write,
        keeps_Eng_write, *]

theorem keeps_errLogWrite {b0 : State} {s : State} (r : Reg) (die : Nat) (i : Nat) (v : Nat) (hK : Keeps b0 s) :
    Keeps b0 (errLogWrite s r die i v) := by
  unfold errLogWrite; simp (maxDischargeDepth := 99) only [KIss.hold, KIss.done, KIss.fault, KIss.wait, Keeps.upd,
        Keeps.updId, Keeps.ite, Keeps.foldl, Keeps.foldl2, Keeps.foldl3, Keeps.refl, implies_true, keeps_rset, *]

theorem keeps_drainWrite {b0 : State} {s : State} (h : Nat) (v : Nat) (hK : Keeps b0 s) :
    Keeps b0 (drainWrite s h v) := by
  unfold drainWrite; simp (maxDischargeDepth := 99) only [KIss.hold, KIss.done, KIss.fault, KIss.wait, Keeps.upd,
        Keeps.updId, Keeps.ite, Keeps.foldl, Keeps.foldl2, Keeps.foldl3, Keeps.refl, implies_true, keeps_drainCmd, *]

theorem keeps_jobCtlWrite {b0 : State} {s : State} (k : Nat) (v : Nat) (hK : Keeps b0 s) :
    Keeps b0 (jobCtlWrite s k v) := by
  unfold jobCtlWrite; (repeat' split) <;> simp (maxDischargeDepth := 99) only [KIss.hold, KIss.done, KIss.fault, KIss.wait,
        Keeps.upd, Keeps.updId, Keeps.ite, Keeps.foldl, Keeps.foldl2, Keeps.foldl3, Keeps.refl, implies_true, keeps_jobAbort,
         keeps_jobPreempt, keeps_jobTlbInv, *]

theorem keeps_linkCtlWrite {b0 : State} {s : State} (die : Nat) (l : Nat) (v : Nat) (hK : Keeps b0 s) :
    Keeps b0 (linkCtlWrite s die l v) := by
  unfold linkCtlWrite; simp (maxDischargeDepth := 99) only [KIss.hold, KIss.done, KIss.fault, KIss.wait, Keeps.upd,
        Keeps.updId, Keeps.ite, Keeps.foldl, Keeps.foldl2, Keeps.foldl3, Keeps.refl, implies_true, keeps_linkRetrain,
        keeps_linkUnfence, *]

theorem keeps_budgetWrite {b0 : State} {s : State} (v : Nat) (hK : Keeps b0 s) :
    Keeps b0 (budgetWrite s v) := by
  unfold budgetWrite; simp (maxDischargeDepth := 99) only [KIss.hold, KIss.done, KIss.fault, KIss.wait, Keeps.upd,
        Keeps.updId, Keeps.ite, Keeps.foldl, Keeps.foldl2, Keeps.foldl3, Keeps.refl, implies_true, keeps_regPut, *]

theorem keeps_regAct {b0 : State} {s : State} (a : Agent) (r : Reg) (die : Nat) (i : Nat) (j : Nat) (v : Nat) (hK : Keeps b0 s) :
    Keeps b0 (regAct s a r die i j v) := by
  unfold regAct; (repeat' split) <;> simp (maxDischargeDepth := 99) only [KIss.hold, KIss.done, KIss.fault, KIss.wait,
        Keeps.upd, Keeps.updId, Keeps.ite, Keeps.foldl, Keeps.foldl2, Keeps.foldl3, Keeps.refl, implies_true, keeps_rset,
        keeps_maintStart, keeps_dccCtlWrite, keeps_dccLockWrite, keeps_hqCfgWrite, keeps_winBaseWrite, keeps_grtQcfgWrite,
        keeps_jobQcfgWrite, keeps_jobTailWrite, keeps_coreReleaseWrite, keeps_faultSoftWrite, keeps_telPeriodWrite,
        keeps_paceWrite, keeps_rngCfgWrite, keeps_cohAmoCtlWrite, keeps_l1cCtlWrite, keeps_fabQcfgWrite, keeps_ownerWrite,
        keeps_portCtlWrite, keeps_dieResetWrite, keeps_regPut, keeps_errLogWrite, keeps_drainWrite, keeps_jobCtlWrite,
        keeps_linkCtlWrite, keeps_budgetWrite, *]

theorem keeps_regWrite {b0 : State} {s : State} (a : Agent) (addr : Nat) (v : Nat) (hK : Keeps b0 s) :
    Keeps b0 (regWrite s a addr v) := by
  unfold regWrite
  repeat' first
    | with_reducible assumption
    | (extract_lets +onlyGivenNames z; first | ((first | refine Keeps.cut (p := Keeps b0 z) ?_ ?_ | refine Keeps.cut (p := Keeps b0 z.2) ?_ ?_ | refine Keeps.cut (p := Keeps b0 z.2.2) ?_ ?_ | refine Keeps.cut (p := Keeps b0 z.1) ?_ ?_ | refine Keeps.cut (p := Keeps b0 z.s) ?_ ?_ | refine Keeps.cut (p := Keeps b0 z.2.s) ?_ ?_ | refine Keeps.cut (p := Keeps b0 z.2.2.s) ?_ ?_); (focus (intros; dsimp only [z]; (repeat' first | (simp (maxDischargeDepth := 99) only [KIss.hold, KIss.done, KIss.fault, KIss.wait, Keeps.upd, Keeps.updId, Keeps.ite, Keeps.foldl, Keeps.foldl2, Keeps.foldl3, Keeps.refl, implies_true, keeps_mbxRegWrite, keeps_regAct, *]; done) | with_reducible apply Keeps.fold1 | with_reducible apply Keeps.fold2 | with_reducible apply Keeps.fold3 | with_reducible apply Keeps.fold21 | with_reducible apply Keeps.foldE | with_reducible apply Keeps.foldE2 | with_reducible apply Keeps.foldE3 | intro _ | split | dsimp only))); intro hz; clear_value z) | clear_value z | skip)
    | (simp (maxDischargeDepth := 99) only [KIss.hold, KIss.done, KIss.fault, KIss.wait, Keeps.upd, Keeps.updId, Keeps.ite, Keeps.foldl, Keeps.foldl2, Keeps.foldl3, Keeps.refl, implies_true, keeps_mbxRegWrite, keeps_regAct, *]; done)
    | with_reducible apply Keeps.fold1
    | with_reducible apply Keeps.fold2
    | with_reducible apply Keeps.fold3
    | with_reducible apply Keeps.fold21
    | with_reducible apply Keeps.foldE
    | with_reducible apply Keeps.foldE2
    | with_reducible apply Keeps.foldE3
    | intro _
    | (split <;> (try (rename_i heq; (first | refine Keeps.cut (Keeps.of_eq (b := b0) heq ?_) ?_ | refine Keeps.cut (Keeps.of_eq3 (b := b0) heq ?_) ?_ | refine Keeps.cut (Keeps.of_eq1 (b := b0) heq ?_) ?_ | refine Keeps.cut (Keeps.of_eq4 (b := b0) heq ?_) ?_ | refine Keeps.cut (Keeps.of_eqE (b := b0) heq ?_) ?_ | refine Keeps.cut (Keeps.of_eqE3 (b := b0) heq ?_) ?_); (focus (clear heq; (repeat' first | (simp (maxDischargeDepth := 99) only [KIss.hold, KIss.done, KIss.fault, KIss.wait, Keeps.upd, Keeps.updId, Keeps.ite, Keeps.foldl, Keeps.foldl2, Keeps.foldl3, Keeps.refl, implies_true, keeps_mbxRegWrite, keeps_regAct, *]; done) | with_reducible apply Keeps.fold1 | with_reducible apply Keeps.fold2 | with_reducible apply Keeps.fold3 | with_reducible apply Keeps.fold21 | with_reducible apply Keeps.foldE | with_reducible apply Keeps.foldE2 | with_reducible apply Keeps.foldE3 | intro _ | split | dsimp only))); intro hz; (try dsimp only at hz); clear heq)))

theorem keeps_execRegisterWrite {b0 : State} (a : Agent) (addr : BitVec 48) (size : Nat) (v : W64) {s : State} (hK : Keeps b0 s) :
    ∀ u, execRegisterWrite a addr size v s = .next u → Keeps b0 u := by
  unfold execRegisterWrite; intro t ht; injection ht with ht; subst ht; simp (maxDischargeDepth := 99) only [KIss.hold,
        KIss.done, KIss.fault, KIss.wait, Keeps.upd, Keeps.updId, Keeps.ite, Keeps.foldl, Keeps.foldl2, Keeps.foldl3,
        Keeps.refl, implies_true, keeps_regWrite, *]

theorem keeps_complete {b0 : State} {s : State} (data : List Byte) (poisoned : Bool) (hK : Keeps b0 s) :
    Keeps b0 (complete s data poisoned) := by
  unfold complete; simp (maxDischargeDepth := 99) only [KIss.hold, KIss.done, KIss.fault, KIss.wait, Keeps.upd, Keeps.updId,
        Keeps.ite, Keeps.foldl, Keeps.foldl2, Keeps.foldl3, Keeps.refl, implies_true, keeps_count, keeps_post, *]

theorem keeps_completeUR {b0 : State} {s : State} (hK : Keeps b0 s) :
    Keeps b0 (completeUR s) := by
  unfold completeUR; simp (maxDischargeDepth := 99) only [KIss.hold, KIss.done, KIss.fault, KIss.wait, Keeps.upd,
        Keeps.updId, Keeps.ite, Keeps.foldl, Keeps.foldl2, Keeps.foldl3, Keeps.refl, implies_true, keeps_post, *]

theorem keeps_aerLog {b0 : State} {s : State} (code : Nat) (hK : Keeps b0 s) :
    Keeps b0 (aerLog s code) := by
  unfold aerLog; simp (maxDischargeDepth := 99) only [KIss.hold, KIss.done, KIss.fault, KIss.wait, Keeps.upd, Keeps.updId,
        Keeps.ite, Keeps.foldl, Keeps.foldl2, Keeps.foldl3, Keeps.refl, implies_true, *]

theorem keeps_msixPut {b0 : State} {s : State} (i : Nat) (v : Nat) (hK : Keeps b0 s) :
    Keeps b0 (msixPut s i v) := by
  unfold msixPut; simp (maxDischargeDepth := 99) only [KIss.hold, KIss.done, KIss.fault, KIss.wait, Keeps.upd, Keeps.updId,
        Keeps.ite, Keeps.foldl, Keeps.foldl2, Keeps.foldl3, Keeps.refl, implies_true, *]

theorem keeps_bar0Write {b0 : State} {s : State} (off : Nat) (size : Nat) (v : Nat) (hK : Keeps b0 s) :
    Keeps b0 (bar0Write s off size v) := by
  unfold bar0Write; (repeat' split) <;> simp (maxDischargeDepth := 99) only [KIss.hold, KIss.done, KIss.fault, KIss.wait,
        Keeps.upd, Keeps.updId, Keeps.ite, Keeps.foldl, Keeps.foldl2, Keeps.foldl3, Keeps.refl, implies_true,
        keeps_msixFlush, keeps_sqTailWrite, keeps_cqHeadWrite, keeps_regWrite, keeps_msixPut, *]

theorem keeps_execBar0Access {b0 : State} (off : BitVec 24) (size : Nat) (w : Option W64) {s : State} (hK : Keeps b0 s) :
    ∀ u, execBar0Access off size w s = .next u → Keeps b0 u := by
  unfold execBar0Access
  repeat' first
    | with_reducible assumption
    | refine fun (y : State) (gr : Group) (hy : Keeps b0 y) => ?_
    | (extract_lets +onlyGivenNames z; first | ((first | refine Keeps.cut (p := Keeps b0 z) ?_ ?_ | refine Keeps.cut (p := Keeps b0 z.2) ?_ ?_ | refine Keeps.cut (p := Keeps b0 z.2.2) ?_ ?_ | refine Keeps.cut (p := Keeps b0 z.1) ?_ ?_ | refine Keeps.cut (p := Keeps b0 z.s) ?_ ?_ | refine Keeps.cut (p := Keeps b0 z.2.s) ?_ ?_ | refine Keeps.cut (p := Keeps b0 z.2.2.s) ?_ ?_); (focus (intros; dsimp only [z]; (repeat' first | (simp (maxDischargeDepth := 99) only [KIss.hold, KIss.done, KIss.fault, KIss.wait, Keeps.upd, Keeps.updId, Keeps.ite, Keeps.foldl, Keeps.foldl2, Keeps.foldl3, Keeps.refl, implies_true, keeps_count, keeps_complete, keeps_completeUR, keeps_bar0Write, *]; done) | with_reducible apply Keeps.fold1 | with_reducible apply Keeps.fold2 | with_reducible apply Keeps.fold3 | with_reducible apply Keeps.fold21 | with_reducible apply Keeps.foldE | with_reducible apply Keeps.foldE2 | with_reducible apply Keeps.foldE3 | intro _ | split | dsimp only))); intro hz; clear_value z) | clear_value z | skip)
    | (simp (maxDischargeDepth := 99) only [KIss.hold, KIss.done, KIss.fault, KIss.wait, Keeps.upd, Keeps.updId, Keeps.ite, Keeps.foldl, Keeps.foldl2, Keeps.foldl3, Keeps.refl, implies_true, keeps_count, keeps_complete, keeps_completeUR, keeps_bar0Write, *]; done)
    | (intro t ht; injection ht with ht; subst ht)
    | (intro t ht; contradiction)
    | with_reducible apply Keeps.fold1
    | with_reducible apply Keeps.fold2
    | with_reducible apply Keeps.fold3
    | with_reducible apply Keeps.fold21
    | with_reducible apply Keeps.foldE
    | with_reducible apply Keeps.foldE2
    | with_reducible apply Keeps.foldE3
    | (split <;> (try (rename_i heq; (first | refine Keeps.cut (Keeps.of_eq (b := b0) heq ?_) ?_ | refine Keeps.cut (Keeps.of_eq3 (b := b0) heq ?_) ?_ | refine Keeps.cut (Keeps.of_eq1 (b := b0) heq ?_) ?_ | refine Keeps.cut (Keeps.of_eq4 (b := b0) heq ?_) ?_ | refine Keeps.cut (Keeps.of_eqE (b := b0) heq ?_) ?_ | refine Keeps.cut (Keeps.of_eqE3 (b := b0) heq ?_) ?_); (focus (clear heq; (repeat' first | (simp (maxDischargeDepth := 99) only [KIss.hold, KIss.done, KIss.fault, KIss.wait, Keeps.upd, Keeps.updId, Keeps.ite, Keeps.foldl, Keeps.foldl2, Keeps.foldl3, Keeps.refl, implies_true, keeps_count, keeps_complete, keeps_completeUR, keeps_bar0Write, *]; done) | with_reducible apply Keeps.fold1 | with_reducible apply Keeps.fold2 | with_reducible apply Keeps.fold3 | with_reducible apply Keeps.fold21 | with_reducible apply Keeps.foldE | with_reducible apply Keeps.foldE2 | with_reducible apply Keeps.foldE3 | intro _ | split | dsimp only))); intro hz; (try dsimp only at hz); clear heq)))
    | intro _

theorem keeps_readFailed {b0 : State} {s : State} (code : Nat) (n : Nat) (hK : Keeps b0 s) :
    Keeps b0 (readFailed s code n) := by
  unfold readFailed; simp (maxDischargeDepth := 99) only [KIss.hold, KIss.done, KIss.fault, KIss.wait, Keeps.upd,
        Keeps.updId, Keeps.ite, Keeps.foldl, Keeps.foldl2, Keeps.foldl3, Keeps.refl, implies_true, keeps_drawList,
        keeps_complete, keeps_completeUR, keeps_aerLog, *]

theorem keeps_hostRead {b0 : State} {s : State} (coherent : Bool) (addr : Nat) (len : Nat) (hK : Keeps b0 s) :
    Keeps b0 (hostRead s coherent addr len) := by
  unfold hostRead; simp (maxDischargeDepth := 99) only [KIss.hold, KIss.done, KIss.fault, KIss.wait, Keeps.upd, Keeps.updId,
        Keeps.ite, Keeps.foldl, Keeps.foldl2, Keeps.foldl3, Keeps.refl, implies_true, keeps_busRead, keeps_complete,
        keeps_readFailed, *]

theorem keeps_hostWrite {b0 : State} {s : State} (coherent : Bool) (addr : Nat) (data : List Byte) (hK : Keeps b0 s) :
    Keeps b0 (hostWrite s coherent addr data) := by
  unfold hostWrite; simp (maxDischargeDepth := 99) only [KIss.hold, KIss.done, KIss.fault, KIss.wait, Keeps.upd, Keeps.updId,
         Keeps.ite, Keeps.foldl, Keeps.foldl2, Keeps.foldl3, Keeps.refl, implies_true, keeps_busWrite, keeps_aerLog, *]

theorem keeps_hostAtomic {b0 : State} {s : State} (addr : Nat) (aop : Nat) (dword : Bool) (c : W64) (d : W64) (hK : Keeps b0 s) :
    Keeps b0 (hostAtomic s addr aop dword c d) := by
  unfold hostAtomic; simp (maxDischargeDepth := 99) only [KIss.hold, KIss.done, KIss.fault, KIss.wait, Keeps.upd,
        Keeps.updId, Keeps.ite, Keeps.foldl, Keeps.foldl2, Keeps.foldl3, Keeps.refl, implies_true, keeps_devAtomic,
        keeps_complete, keeps_completeUR, keeps_readFailed, *]

theorem keeps_hostReceived {b0 : State} {s : State} (acc : HostAccess) (hK : Keeps b0 s) :
    Keeps b0 (hostReceived s acc) := by
  unfold hostReceived; (repeat' split) <;> simp (maxDischargeDepth := 99) only [KIss.hold, KIss.done, KIss.fault, KIss.wait,
        Keeps.upd, Keeps.updId, Keeps.ite, Keeps.foldl, Keeps.foldl2, Keeps.foldl3, Keeps.refl, implies_true, keeps_count,
        keeps_FlsRun_read, keeps_FlsRun_write, keeps_Eng_read, keeps_Eng_write, *]

theorem keeps_execHostWindowAccess {b0 : State} (off : BitVec 32) (acc : HostAccess) {s : State} (hK : Keeps b0 s) :
    ∀ u, execHostWindowAccess off acc s = .next u → Keeps b0 u := by
  unfold execHostWindowAccess
  repeat' first
    | with_reducible assumption
    | refine fun (y : State) (gr : Group) (hy : Keeps b0 y) => ?_
    | (extract_lets +onlyGivenNames z; first | ((first | refine Keeps.cut (p := Keeps b0 z) ?_ ?_ | refine Keeps.cut (p := Keeps b0 z.2) ?_ ?_ | refine Keeps.cut (p := Keeps b0 z.2.2) ?_ ?_ | refine Keeps.cut (p := Keeps b0 z.1) ?_ ?_ | refine Keeps.cut (p := Keeps b0 z.s) ?_ ?_ | refine Keeps.cut (p := Keeps b0 z.2.s) ?_ ?_ | refine Keeps.cut (p := Keeps b0 z.2.2.s) ?_ ?_); (focus (intros; dsimp only [z]; (repeat' first | (simp (maxDischargeDepth := 99) only [KIss.hold, KIss.done, KIss.fault, KIss.wait, Keeps.upd, Keeps.updId, Keeps.ite, Keeps.foldl, Keeps.foldl2, Keeps.foldl3, Keeps.refl, implies_true, keeps_FlsRun_read, keeps_FlsRun_write, keeps_Eng_read, keeps_Eng_write, keeps_completeUR, keeps_hostRead, keeps_hostWrite, keeps_hostAtomic, keeps_hostReceived, *]; done) | with_reducible apply Keeps.fold1 | with_reducible apply Keeps.fold2 | with_reducible apply Keeps.fold3 | with_reducible apply Keeps.fold21 | with_reducible apply Keeps.foldE | with_reducible apply Keeps.foldE2 | with_reducible apply Keeps.foldE3 | intro _ | split | dsimp only))); intro hz; clear_value z) | clear_value z | skip)
    | (simp (maxDischargeDepth := 99) only [KIss.hold, KIss.done, KIss.fault, KIss.wait, Keeps.upd, Keeps.updId, Keeps.ite, Keeps.foldl, Keeps.foldl2, Keeps.foldl3, Keeps.refl, implies_true, keeps_FlsRun_read, keeps_FlsRun_write, keeps_Eng_read, keeps_Eng_write, keeps_completeUR, keeps_hostRead, keeps_hostWrite, keeps_hostAtomic, keeps_hostReceived, *]; done)
    | (intro t ht; injection ht with ht; subst ht)
    | (intro t ht; contradiction)
    | with_reducible apply Keeps.fold1
    | with_reducible apply Keeps.fold2
    | with_reducible apply Keeps.fold3
    | with_reducible apply Keeps.fold21
    | with_reducible apply Keeps.foldE
    | with_reducible apply Keeps.foldE2
    | with_reducible apply Keeps.foldE3
    | (split <;> (try (rename_i heq; (first | refine Keeps.cut (Keeps.of_eq (b := b0) heq ?_) ?_ | refine Keeps.cut (Keeps.of_eq3 (b := b0) heq ?_) ?_ | refine Keeps.cut (Keeps.of_eq1 (b := b0) heq ?_) ?_ | refine Keeps.cut (Keeps.of_eq4 (b := b0) heq ?_) ?_ | refine Keeps.cut (Keeps.of_eqE (b := b0) heq ?_) ?_ | refine Keeps.cut (Keeps.of_eqE3 (b := b0) heq ?_) ?_); (focus (clear heq; (repeat' first | (simp (maxDischargeDepth := 99) only [KIss.hold, KIss.done, KIss.fault, KIss.wait, Keeps.upd, Keeps.updId, Keeps.ite, Keeps.foldl, Keeps.foldl2, Keeps.foldl3, Keeps.refl, implies_true, keeps_FlsRun_read, keeps_FlsRun_write, keeps_Eng_read, keeps_Eng_write, keeps_completeUR, keeps_hostRead, keeps_hostWrite, keeps_hostAtomic, keeps_hostReceived, *]; done) | with_reducible apply Keeps.fold1 | with_reducible apply Keeps.fold2 | with_reducible apply Keeps.fold3 | with_reducible apply Keeps.fold21 | with_reducible apply Keeps.foldE | with_reducible apply Keeps.foldE2 | with_reducible apply Keeps.foldE3 | intro _ | split | dsimp only))); intro hz; (try dsimp only at hz); clear heq)))
    | intro _

theorem keeps_execCompatBarAccess {b0 : State} (off : BitVec 42) (acc : HostAccess) {s : State} (hK : Keeps b0 s) :
    ∀ u, execCompatBarAccess off acc s = .next u → Keeps b0 u := by
  unfold execCompatBarAccess
  repeat' first
    | with_reducible assumption
    | refine fun (y : State) (gr : Group) (hy : Keeps b0 y) => ?_
    | (extract_lets +onlyGivenNames z; first | ((first | refine Keeps.cut (p := Keeps b0 z) ?_ ?_ | refine Keeps.cut (p := Keeps b0 z.2) ?_ ?_ | refine Keeps.cut (p := Keeps b0 z.2.2) ?_ ?_ | refine Keeps.cut (p := Keeps b0 z.1) ?_ ?_ | refine Keeps.cut (p := Keeps b0 z.s) ?_ ?_ | refine Keeps.cut (p := Keeps b0 z.2.s) ?_ ?_ | refine Keeps.cut (p := Keeps b0 z.2.2.s) ?_ ?_); (focus (intros; dsimp only [z]; (repeat' first | (simp (maxDischargeDepth := 99) only [KIss.hold, KIss.done, KIss.fault, KIss.wait, Keeps.upd, Keeps.updId, Keeps.ite, Keeps.foldl, Keeps.foldl2, Keeps.foldl3, Keeps.refl, implies_true, keeps_FlsRun_read, keeps_FlsRun_write, keeps_Eng_read, keeps_Eng_write, keeps_completeUR, keeps_hostRead, keeps_hostWrite, keeps_hostReceived, *]; done) | with_reducible apply Keeps.fold1 | with_reducible apply Keeps.fold2 | with_reducible apply Keeps.fold3 | with_reducible apply Keeps.fold21 | with_reducible apply Keeps.foldE | with_reducible apply Keeps.foldE2 | with_reducible apply Keeps.foldE3 | intro _ | split | dsimp only))); intro hz; clear_value z) | clear_value z | skip)
    | (simp (maxDischargeDepth := 99) only [KIss.hold, KIss.done, KIss.fault, KIss.wait, Keeps.upd, Keeps.updId, Keeps.ite, Keeps.foldl, Keeps.foldl2, Keeps.foldl3, Keeps.refl, implies_true, keeps_FlsRun_read, keeps_FlsRun_write, keeps_Eng_read, keeps_Eng_write, keeps_completeUR, keeps_hostRead, keeps_hostWrite, keeps_hostReceived, *]; done)
    | (intro t ht; injection ht with ht; subst ht)
    | (intro t ht; contradiction)
    | with_reducible apply Keeps.fold1
    | with_reducible apply Keeps.fold2
    | with_reducible apply Keeps.fold3
    | with_reducible apply Keeps.fold21
    | with_reducible apply Keeps.foldE
    | with_reducible apply Keeps.foldE2
    | with_reducible apply Keeps.foldE3
    | (split <;> (try (rename_i heq; (first | refine Keeps.cut (Keeps.of_eq (b := b0) heq ?_) ?_ | refine Keeps.cut (Keeps.of_eq3 (b := b0) heq ?_) ?_ | refine Keeps.cut (Keeps.of_eq1 (b := b0) heq ?_) ?_ | refine Keeps.cut (Keeps.of_eq4 (b := b0) heq ?_) ?_ | refine Keeps.cut (Keeps.of_eqE (b := b0) heq ?_) ?_ | refine Keeps.cut (Keeps.of_eqE3 (b := b0) heq ?_) ?_); (focus (clear heq; (repeat' first | (simp (maxDischargeDepth := 99) only [KIss.hold, KIss.done, KIss.fault, KIss.wait, Keeps.upd, Keeps.updId, Keeps.ite, Keeps.foldl, Keeps.foldl2, Keeps.foldl3, Keeps.refl, implies_true, keeps_FlsRun_read, keeps_FlsRun_write, keeps_Eng_read, keeps_Eng_write, keeps_completeUR, keeps_hostRead, keeps_hostWrite, keeps_hostReceived, *]; done) | with_reducible apply Keeps.fold1 | with_reducible apply Keeps.fold2 | with_reducible apply Keeps.fold3 | with_reducible apply Keeps.fold21 | with_reducible apply Keeps.foldE | with_reducible apply Keeps.foldE2 | with_reducible apply Keeps.foldE3 | intro _ | split | dsimp only))); intro hz; (try dsimp only at hz); clear heq)))
    | intro _

theorem keeps_configRead {b0 : State} {s : State} (off : Nat) (hK : Keeps b0 s) :
    Keeps b0 (configRead s off).2 := by
  unfold configRead
  repeat' first
    | with_reducible assumption
    | (extract_lets +onlyGivenNames z; first | ((first | refine Keeps.cut (p := Keeps b0 z) ?_ ?_ | refine Keeps.cut (p := Keeps b0 z.2) ?_ ?_ | refine Keeps.cut (p := Keeps b0 z.2.2) ?_ ?_ | refine Keeps.cut (p := Keeps b0 z.1) ?_ ?_ | refine Keeps.cut (p := Keeps b0 z.s) ?_ ?_ | refine Keeps.cut (p := Keeps b0 z.2.s) ?_ ?_ | refine Keeps.cut (p := Keeps b0 z.2.2.s) ?_ ?_); (focus (intros; dsimp only [z]; (repeat' first | (simp (maxDischargeDepth := 99) only [KIss.hold, KIss.done, KIss.fault, KIss.wait, Keeps.upd, Keeps.updId, Keeps.ite, Keeps.foldl, Keeps.foldl2, Keeps.foldl3, Keeps.refl, implies_true, keeps_drawFree, *]; done) | with_reducible apply Keeps.fold1 | with_reducible apply Keeps.fold2 | with_reducible apply Keeps.fold3 | with_reducible apply Keeps.fold21 | with_reducible apply Keeps.foldE | with_reducible apply Keeps.foldE2 | with_reducible apply Keeps.foldE3 | intro _ | split | dsimp only))); intro hz; clear_value z) | clear_value z | skip)
    | (simp (maxDischargeDepth := 99) only [KIss.hold, KIss.done, KIss.fault, KIss.wait, Keeps.upd, Keeps.updId, Keeps.ite, Keeps.foldl, Keeps.foldl2, Keeps.foldl3, Keeps.refl, implies_true, keeps_drawFree, *]; done)
    | with_reducible apply Keeps.fold1
    | with_reducible apply Keeps.fold2
    | with_reducible apply Keeps.fold3
    | with_reducible apply Keeps.fold21
    | with_reducible apply Keeps.foldE
    | with_reducible apply Keeps.foldE2
    | with_reducible apply Keeps.foldE3
    | intro _
    | (split <;> (try (rename_i heq; (first | refine Keeps.cut (Keeps.of_eq (b := b0) heq ?_) ?_ | refine Keeps.cut (Keeps.of_eq3 (b := b0) heq ?_) ?_ | refine Keeps.cut (Keeps.of_eq1 (b := b0) heq ?_) ?_ | refine Keeps.cut (Keeps.of_eq4 (b := b0) heq ?_) ?_ | refine Keeps.cut (Keeps.of_eqE (b := b0) heq ?_) ?_ | refine Keeps.cut (Keeps.of_eqE3 (b := b0) heq ?_) ?_); (focus (clear heq; (repeat' first | (simp (maxDischargeDepth := 99) only [KIss.hold, KIss.done, KIss.fault, KIss.wait, Keeps.upd, Keeps.updId, Keeps.ite, Keeps.foldl, Keeps.foldl2, Keeps.foldl3, Keeps.refl, implies_true, keeps_drawFree, *]; done) | with_reducible apply Keeps.fold1 | with_reducible apply Keeps.fold2 | with_reducible apply Keeps.fold3 | with_reducible apply Keeps.fold21 | with_reducible apply Keeps.foldE | with_reducible apply Keeps.foldE2 | with_reducible apply Keeps.foldE3 | intro _ | split | dsimp only))); intro hz; (try dsimp only at hz); clear heq)))

theorem keeps_configWritten {b0 : State} {s : State} (hK : Keeps b0 s) :
    Keeps b0 (configWritten s) := by
  unfold configWritten; simp (maxDischargeDepth := 99) only [KIss.hold, KIss.done, KIss.fault, KIss.wait, Keeps.upd,
        Keeps.updId, Keeps.ite, Keeps.foldl, Keeps.foldl2, Keeps.foldl3, Keeps.refl, implies_true, keeps_count, *]

theorem keeps_leaveD3hot {b0 : State} {s : State} (compat : Bool) (hK : Keeps b0 s) :
    Keeps b0 (leaveD3hot s compat) := by
  unfold leaveD3hot; simp (maxDischargeDepth := 99) only [KIss.hold, KIss.done, KIss.fault, KIss.wait, Keeps.upd,
        Keeps.updId, Keeps.ite, Keeps.foldl, Keeps.foldl2, Keeps.foldl3, Keeps.refl, implies_true, keeps_portLost, *]

theorem keeps_configRequest {b0 : State} {s : State} (r : CfgReq) (hK : Keeps b0 s) :
    Keeps b0 (configRequest s r) := by
  unfold configRequest
  repeat' first
    | with_reducible assumption
    | (simp (maxDischargeDepth := 99) only [KIss.hold, KIss.done, KIss.fault, KIss.wait, Keeps.upd, Keeps.updId, Keeps.ite, Keeps.foldl, Keeps.foldl2, Keeps.foldl3, Keeps.refl, implies_true, keeps_msixFlush, keeps_FlsRun_read, keeps_Eng_read, keeps_complete, keeps_configRead, keeps_configWritten, keeps_leaveD3hot, *]; done)
    | (split <;> (try (rename_i heq; (first | refine Keeps.cut (Keeps.of_eq (b := b0) heq ?_) ?_ | refine Keeps.cut (Keeps.of_eq3 (b := b0) heq ?_) ?_ | refine Keeps.cut (Keeps.of_eq1 (b := b0) heq ?_) ?_ | refine Keeps.cut (Keeps.of_eq4 (b := b0) heq ?_) ?_ | refine Keeps.cut (Keeps.of_eqE (b := b0) heq ?_) ?_ | refine Keeps.cut (Keeps.of_eqE3 (b := b0) heq ?_) ?_); (focus (clear heq; (repeat' first | (simp (maxDischargeDepth := 99) only [KIss.hold, KIss.done, KIss.fault, KIss.wait, Keeps.upd, Keeps.updId, Keeps.ite, Keeps.foldl, Keeps.foldl2, Keeps.foldl3, Keeps.refl, implies_true, keeps_msixFlush, keeps_FlsRun_read, keeps_Eng_read, keeps_complete, keeps_configRead, keeps_configWritten, keeps_leaveD3hot, *]; done) | with_reducible apply Keeps.fold1 | with_reducible apply Keeps.fold2 | with_reducible apply Keeps.fold3 | with_reducible apply Keeps.fold21 | with_reducible apply Keeps.foldE | with_reducible apply Keeps.foldE2 | with_reducible apply Keeps.foldE3 | intro _ | split | dsimp only))); intro hz; (try dsimp only at hz); clear heq)))

theorem keeps_execConfigRequest {b0 : State} (r : CfgReq) {s : State} (hK : Keeps b0 s) :
    ∀ u, execConfigRequest r s = .next u → Keeps b0 u := by
  unfold execConfigRequest; intro t ht; injection ht with ht; subst ht; simp (maxDischargeDepth := 99) only [KIss.hold,
        KIss.done, KIss.fault, KIss.wait, Keeps.upd, Keeps.updId, Keeps.ite, Keeps.foldl, Keeps.foldl2, Keeps.foldl3,
        Keeps.refl, implies_true, keeps_configRequest, *]

end Sys2Proof.Machine
end

