-- ==== Sys2Proof/Laws/Registers.lean ====
section
/-!
SUPPORT. Laws of the registers and their fields: what a field reads as after a field or a register is written. The register map
must list each address once (`Map.rising`), which every operation keeps (`Keeps`).
-/
namespace Sys2Proof.Machine

theorem mfind_mins_self {α : Type} (m : Map α) (a : Nat) (v : α) : mfind (mins m a v) a = some v := by
  induction m with
  | nil => simp [mins, mfind]
  | cons e m ih =>
    obtain ⟨k, w⟩ := e
    simp only [mins]
    split
    · simp [mfind]
    · split
      · simp [mfind]
      · next h1 h2 =>
        simp only [mfind]
        rw [if_neg h1, if_neg h2]
        exact ih

theorem mfind_mins_ne {α : Type} (m : Map α) {a b : Nat} (v : α) (h : b ≠ a) : mfind (mins m a v) b = mfind m b := by
  induction m with
  | nil =>
    simp only [mins, mfind]
    split
    · contradiction
    · split <;> rfl
  | cons e m ih =>
    obtain ⟨k, w⟩ := e
    simp only [mins]
    split
    · next hk =>
      subst hk
      simp only [mfind]
      split
      · contradiction
      · rfl
    · split
      · next hk hlt =>
        simp only [mfind]
        split
        · contradiction
        · split
          · rw [if_neg (by omega), if_pos (by omega)]
          · rfl
      · simp only [mfind, ih]

theorem mfind_below {α : Type} {m : Map α} {a : Nat} (h : ∀ x ∈ m, a < x.1) : mfind m a = none := by
  cases m with
  | nil => rfl
  | cons e m =>
    obtain ⟨k, w⟩ := e
    have hk : a < k := h _ List.mem_cons_self
    simp only [mfind]
    rw [if_neg (by omega), if_pos hk]

theorem mfind_mdel_self {α : Type} {m : Map α} (hr : m.rising) (a : Nat) : mfind (mdel m a) a = none := by
  induction m with
  | nil => rfl
  | cons e m ih =>
    obtain ⟨k, w⟩ := e
    have hc := rising_cons.1 hr
    simp only [mdel]
    split
    · next hk => exact mfind_below (hk ▸ hc.1)
    · split
      · next hk hlt =>
        simp only [mfind]
        rw [if_neg hk, if_pos hlt]
      · next hk hlt =>
        simp only [mfind]
        rw [if_neg hk, if_neg hlt, ih hc.2]

theorem mfind_mdel_ne {α : Type} {m : Map α} (hr : m.rising) {a b : Nat} (h : b ≠ a) : mfind (mdel m a) b = mfind m b := by
  induction m with
  | nil => rfl
  | cons e m ih =>
    obtain ⟨k, w⟩ := e
    have hc := rising_cons.1 hr
    simp only [mdel]
    split
    · next hk =>
      subst hk
      simp only [mfind]
      rw [if_neg h]
      split
      · next hlt => exact mfind_below fun x hx => Nat.lt_trans hlt (hc.1 x hx)
      · rfl
    · split
      · rfl
      · simp only [mfind, ih hc.2]

theorem mget_mput_self {α : Type} [DecidableEq α] {m : Map α} (hr : m.rising) (d : α) (a : Nat) (v : α) :
    mget d (mput d m a v) a = v := by
  unfold mget mput
  split
  · next h => rw [mfind_mdel_self hr, h]; rfl
  · rw [mfind_mins_self]; rfl

theorem mget_mput_ne {α : Type} [DecidableEq α] {m : Map α} (hr : m.rising) (d e : α) {a b : Nat} (v : α) (h : b ≠ a) :
    mget e (mput d m a v) b = mget e m b := by
  unfold mget mput
  split
  · rw [mfind_mdel_ne hr h]
  · rw [mfind_mins_ne _ _ h]

/-! ### Bit fields -/

theorem fset_lt {v hi lo x n : Nat} (hv : v < 2 ^ n) (hl : lo ≤ hi) (hn : hi < n) : fset v hi lo x < 2 ^ n := by
  unfold fset
  have h1 : (v >>> (hi + 1)) < 2 ^ (n - (hi + 1)) := by
    rw [Nat.shiftRight_eq_div_pow]
    refine Nat.div_lt_of_lt_mul ?_
    rw [← Nat.pow_add]
    rwa [show hi + 1 + (n - (hi + 1)) = n by omega]
  have h2 : x % 2 ^ (hi + 1 - lo) < 2 ^ (hi + 1 - lo) := Nat.mod_lt _ (Nat.two_pow_pos _)
  have h3 : v % 2 ^ lo < 2 ^ lo := Nat.mod_lt _ (Nat.two_pow_pos _)
  rw [Nat.shiftLeft_eq, Nat.shiftLeft_eq]
  have h4 : (x % 2 ^ (hi + 1 - lo)) * 2 ^ lo + v % 2 ^ lo < 2 ^ (hi + 1) := by
    have : (x % 2 ^ (hi + 1 - lo) + 1) * 2 ^ lo ≤ 2 ^ (hi + 1 - lo) * 2 ^ lo := Nat.mul_le_mul_right _ h2
    rw [← Nat.pow_add, show hi + 1 - lo + lo = hi + 1 by omega] at this
    rw [Nat.add_mul] at this
    omega
  have h5 : (v >>> (hi + 1) + 1) * 2 ^ (hi + 1) ≤ 2 ^ (n - (hi + 1)) * 2 ^ (hi + 1) := Nat.mul_le_mul_right _ h1
  rw [← Nat.pow_add, show n - (hi + 1) + (hi + 1) = n by omega, Nat.add_mul] at h5
  omega

theorem fset_testBit (v hi lo x i : Nat) (hl : lo ≤ hi) :
    (fset v hi lo x).testBit i = if lo ≤ i ∧ i ≤ hi then x.testBit (i - lo) else v.testBit i := by
  unfold fset
  have h3 : v % 2 ^ lo < 2 ^ lo := Nat.mod_lt _ (Nat.two_pow_pos _)
  have h2 : x % 2 ^ (hi + 1 - lo) < 2 ^ (hi + 1 - lo) := Nat.mod_lt _ (Nat.two_pow_pos _)
  have h4 : (x % 2 ^ (hi + 1 - lo)) <<< lo + v % 2 ^ lo < 2 ^ (hi + 1) := by
    rw [Nat.shiftLeft_eq]
    have : (x % 2 ^ (hi + 1 - lo) + 1) * 2 ^ lo ≤ 2 ^ (hi + 1 - lo) * 2 ^ lo := Nat.mul_le_mul_right _ h2
    rw [← Nat.pow_add, show hi + 1 - lo + lo = hi + 1 by omega, Nat.add_mul] at this
    omega
  rw [Nat.add_assoc, Nat.shiftLeft_add_eq_or_of_lt h4, Nat.shiftLeft_add_eq_or_of_lt h3]
  simp only [Nat.testBit_or, Nat.testBit_shiftLeft, Nat.testBit_mod_two_pow, Nat.testBit_shiftRight]
  by_cases a : lo ≤ i
  · by_cases b : i ≤ hi
    · have e1 : ¬ (hi + 1 ≤ i) := by omega
      have e2 : ¬ (i < lo) := by omega
      have e3 : i - lo < hi + 1 - lo := by omega
      simp [a, b, e1, e2, e3]
    · have e1 : hi + 1 ≤ i := by omega
      have e2 : ¬ (i < lo) := by omega
      have e3 : ¬ (i - lo < hi + 1 - lo) := by omega
      have e4 : hi + 1 + (i - (hi + 1)) = i := by omega
      simp [b, e1, e2, e3, e4]
  · have e1 : ¬ (hi + 1 ≤ i) := by omega
    have e2 : i < lo := by omega
    simp [a, e1, e2]

theorem bits_testBit (v hi lo i : Nat) : (bits v hi lo).testBit i = (decide (i < hi + 1 - lo) && v.testBit (lo + i)) := by
  simp only [bits, Nat.testBit_mod_two_pow, Nat.testBit_shiftRight]

/-- A field reads as it was set. -/
theorem bits_fset_same {v hi lo x : Nat} (hl : lo ≤ hi) : bits (fset v hi lo x) hi lo = x % 2 ^ (hi + 1 - lo) := by
  refine Nat.eq_of_testBit_eq fun i => ?_
  rw [bits_testBit, fset_testBit _ _ _ _ _ hl, Nat.testBit_mod_two_pow]
  by_cases h : i < hi + 1 - lo
  · have e : lo + i ≤ hi := by omega
    simp [h, e]
  · simp [h]

/-- Setting a field leaves the others. -/
theorem bits_fset_other {v hi lo x h2 l2 : Nat} (hl : lo ≤ hi) (hd : h2 < lo ∨ hi < l2) :
    bits (fset v hi lo x) h2 l2 = bits v h2 l2 := by
  refine Nat.eq_of_testBit_eq fun i => ?_
  rw [bits_testBit, bits_testBit, fset_testBit _ _ _ _ _ hl]
  by_cases h : i < h2 + 1 - l2
  · have e : ¬ (lo ≤ l2 + i ∧ l2 + i ≤ hi) := by omega
    rw [if_neg e]
  · simp [h]

/-! ### Registers -/

theorem rget_lt (s : State) (r : Reg) (d i j : Nat) : rget s r d i j < 2 ^ 64 := BitVec.isLt _

theorem rising_rset {s : State} (h : s.regs.rising) (r : Reg) (d i j v : Nat) : (rset s r d i j v).regs.rising := by
  rw [rset]
  generalize w64 r.spec.reset = z
  exact rising_mput h z _ _

theorem rising_rfset {s : State} (h : s.regs.rising) (r : Reg) (d i j hi lo v : Nat) : (rfset s r d i j hi lo v).regs.rising :=
  rising_rset h _ _ _ _ _

/-- A register reads as it was written. -/
theorem rget_rset_same {s : State} (h : s.regs.rising) (r : Reg) (d i j : Nat) {v : Nat} (hv : v < 2 ^ 64) :
    rget (rset s r d i j v) r d i j = v := by
  unfold rget rset
  dsimp only
  generalize w64 r.spec.reset = z
  rw [mget_mput_self h]
  simp only [w64, BitVec.toNat_ofNat]
  exact Nat.mod_eq_of_lt hv

/-- Writing a register leaves every register at another address. -/
theorem rget_rset_other {s : State} (h : s.regs.rising) {r q : Reg} {d i j e a b : Nat} (v : Nat)
    (hne : regAddr q e a b ≠ regAddr r d i j) : rget (rset s r d i j v) q e a b = rget s q e a b := by
  unfold rget rset
  dsimp only
  generalize w64 r.spec.reset = z
  generalize w64 q.spec.reset = y
  rw [mget_mput_ne h _ _ _ hne]

/-- A field reads as it was written. -/
theorem rf_rfset_same {s : State} (h : s.regs.rising) (r : Reg) (d i j : Nat) {hi lo : Nat} (v : Nat) (hl : lo ≤ hi) (hi64 : hi < 64) :
    rf (rfset s r d i j hi lo v) r d i j hi lo = v % 2 ^ (hi + 1 - lo) := by
  unfold rf rfset
  rw [rget_rset_same h _ _ _ _ (fset_lt (rget_lt _ _ _ _ _) hl hi64), bits_fset_same hl]

/-- Writing a field leaves the other fields of its register. -/
theorem rf_rfset_field {s : State} (h : s.regs.rising) (r : Reg) (d i j : Nat) {hi lo h2 l2 : Nat} (v : Nat) (hl : lo ≤ hi)
    (hi64 : hi < 64) (hd : h2 < lo ∨ hi < l2) : rf (rfset s r d i j hi lo v) r d i j h2 l2 = rf s r d i j h2 l2 := by
  unfold rf rfset
  rw [rget_rset_same h _ _ _ _ (fset_lt (rget_lt _ _ _ _ _) hl hi64), bits_fset_other hl hd]

/-- Writing a field leaves every register at another address. -/
theorem rf_rfset_other {s : State} (h : s.regs.rising) {r q : Reg} {d i j e a b : Nat} (hi lo v h2 l2 : Nat)
    (hne : regAddr q e a b ≠ regAddr r d i j) : rf (rfset s r d i j hi lo v) q e a b h2 l2 = rf s q e a b h2 l2 := by
  unfold rf rfset
  rw [rget_rset_other h _ hne]

/-- Writing a register leaves the fields of every register at another address. -/
theorem rf_rset_other {s : State} (h : s.regs.rising) {r q : Reg} {d i j e a b : Nat} (v h2 l2 : Nat)
    (hne : regAddr q e a b ≠ regAddr r d i j) : rf (rset s r d i j v) q e a b h2 l2 = rf s q e a b h2 l2 := by
  unfold rf
  rw [rget_rset_other h _ hne]

/-- Writing registers changes nothing but registers. -/
theorem rset_frame (s : State) (r : Reg) (d i j v : Nat) : { rset s r d i j v with regs := s.regs } = s := rfl

theorem rfset_frame (s : State) (r : Reg) (d i j hi lo v : Nat) : { rfset s r d i j hi lo v with regs := s.regs } = s := rfl

end Sys2Proof.Machine
end

