-- ==== Sys2Proof/Laws/State.lean ====
section
/-!
SUPPORT. What each update of the state leaves: one lemma per field of `State` for each of the setters that the meanings share, so
that no proof unfolds a record update.
-/
namespace Sys2Proof.Machine

@[simp] theorem rset_master (s : State) (r : Reg) (d i j v : Nat) : (rset s r d i j v).master = s.master := rfl
@[simp] theorem rset_copies (s : State) (r : Reg) (d i j v : Nat) : (rset s r d i j v).copies = s.copies := rfl
@[simp] theorem rset_copyHeld (s : State) (r : Reg) (d i j v : Nat) : (rset s r d i j v).copyHeld = s.copyHeld := rfl
@[simp] theorem rset_pins (s : State) (r : Reg) (d i j v : Nat) : (rset s r d i j v).pins = s.pins := rfl
@[simp] theorem rset_holds (s : State) (r : Reg) (d i j v : Nat) : (rset s r d i j v).holds = s.holds := rfl
@[simp] theorem rset_tiles (s : State) (r : Reg) (d i j v : Nat) : (rset s r d i j v).tiles = s.tiles := rfl
@[simp] theorem rset_tileClocks (s : State) (r : Reg) (d i j v : Nat) : (rset s r d i j v).tileClocks = s.tileClocks := rfl
@[simp] theorem rset_dcc (s : State) (r : Reg) (d i j v : Nat) : (rset s r d i j v).dcc = s.dcc := rfl
@[simp] theorem rset_l1Fills (s : State) (r : Reg) (d i j v : Nat) : (rset s r d i j v).l1Fills = s.l1Fills := rfl
@[simp] theorem rset_dccFills (s : State) (r : Reg) (d i j v : Nat) : (rset s r d i j v).dccFills = s.dccFills := rfl
@[simp] theorem rset_grottos (s : State) (r : Reg) (d i j v : Nat) : (rset s r d i j v).grottos = s.grottos := rfl
@[simp] theorem rset_mem (s : State) (r : Reg) (d i j v : Nat) : (rset s r d i j v).mem = s.mem := rfl
@[simp] theorem rset_memPoison (s : State) (r : Reg) (d i j v : Nat) : (rset s r d i j v).memPoison = s.memPoison := rfl
@[simp] theorem rset_memErrs (s : State) (r : Reg) (d i j v : Nat) : (rset s r d i j v).memErrs = s.memErrs := rfl
@[simp] theorem rset_homes (s : State) (r : Reg) (d i j v : Nat) : (rset s r d i j v).homes = s.homes := rfl
@[simp] theorem rset_answers (s : State) (r : Reg) (d i j v : Nat) : (rset s r d i j v).answers = s.answers := rfl
@[simp] theorem rset_tileAnswers (s : State) (r : Reg) (d i j v : Nat) : (rset s r d i j v).tileAnswers = s.tileAnswers := rfl
@[simp] theorem rset_eccCorrected (s : State) (r : Reg) (d i j v : Nat) : (rset s r d i j v).eccCorrected = s.eccCorrected := rfl
@[simp] theorem rset_dir (s : State) (r : Reg) (d i j v : Nat) : (rset s r d i j v).dir = s.dir := rfl
@[simp] theorem rset_txns (s : State) (r : Reg) (d i j v : Nat) : (rset s r d i j v).txns = s.txns := rfl
@[simp] theorem rset_cohNet (s : State) (r : Reg) (d i j v : Nat) : (rset s r d i j v).cohNet = s.cohNet := rfl
@[simp] theorem rset_caches (s : State) (r : Reg) (d i j v : Nat) : (rset s r d i j v).caches = s.caches := rfl
@[simp] theorem rset_wbBuf (s : State) (r : Reg) (d i j v : Nat) : (rset s r d i j v).wbBuf = s.wbBuf := rfl
@[simp] theorem rset_predictor (s : State) (r : Reg) (d i j v : Nat) : (rset s r d i j v).predictor = s.predictor := rfl
@[simp] theorem rset_amoResults (s : State) (r : Reg) (d i j v : Nat) : (rset s r d i j v).amoResults = s.amoResults := rfl
@[simp] theorem rset_cores (s : State) (r : Reg) (d i j v : Nat) : (rset s r d i j v).cores = s.cores := rfl
@[simp] theorem rset_heldStacks (s : State) (r : Reg) (d i j v : Nat) : (rset s r d i j v).heldStacks = s.heldStacks := rfl
@[simp] theorem rset_lossFenced (s : State) (r : Reg) (d i j v : Nat) : (rset s r d i j v).lossFenced = s.lossFenced := rfl
@[simp] theorem rset_holdDies (s : State) (r : Reg) (d i j v : Nat) : (rset s r d i j v).holdDies = s.holdDies := rfl
@[simp] theorem rset_gatedQuads (s : State) (r : Reg) (d i j v : Nat) : (rset s r d i j v).gatedQuads = s.gatedQuads := rfl
@[simp] theorem rset_jobs (s : State) (r : Reg) (d i j v : Nat) : (rset s r d i j v).jobs = s.jobs := rfl
@[simp] theorem rset_rrNext (s : State) (r : Reg) (d i j v : Nat) : (rset s r d i j v).rrNext = s.rrNext := rfl
@[simp] theorem rset_hostSubmits (s : State) (r : Reg) (d i j v : Nat) : (rset s r d i j v).hostSubmits = s.hostSubmits := rfl
@[simp] theorem rset_tlb (s : State) (r : Reg) (d i j v : Nat) : (rset s r d i j v).tlb = s.tlb := rfl
@[simp] theorem rset_ports (s : State) (r : Reg) (d i j v : Nat) : (rset s r d i j v).ports = s.ports := rfl
@[simp] theorem rset_conns (s : State) (r : Reg) (d i j v : Nat) : (rset s r d i j v).conns = s.conns := rfl
@[simp] theorem rset_delivered (s : State) (r : Reg) (d i j v : Nat) : (rset s r d i j v).delivered = s.delivered := rfl
@[simp] theorem rset_rxConsumed (s : State) (r : Reg) (d i j v : Nat) : (rset s r d i j v).rxConsumed = s.rxConsumed := rfl
@[simp] theorem rset_rxProduced (s : State) (r : Reg) (d i j v : Nat) : (rset s r d i j v).rxProduced = s.rxProduced := rfl
@[simp] theorem rset_host (s : State) (r : Reg) (d i j v : Nat) : (rset s r d i j v).host = s.host := rfl
@[simp] theorem rset_links (s : State) (r : Reg) (d i j v : Nat) : (rset s r d i j v).links = s.links := rfl
@[simp] theorem rset_rim (s : State) (r : Reg) (d i j v : Nat) : (rset s r d i j v).rim = s.rim := rfl
@[simp] theorem rset_uszon (s : State) (r : Reg) (d i j v : Nat) : (rset s r d i j v).uszon = s.uszon := rfl
@[simp] theorem rset_flash (s : State) (r : Reg) (d i j v : Nat) : (rset s r d i j v).flash = s.flash := rfl
@[simp] theorem rset_side (s : State) (r : Reg) (d i j v : Nat) : (rset s r d i j v).side = s.side := rfl
@[simp] theorem rset_jtag (s : State) (r : Reg) (d i j v : Nat) : (rset s r d i j v).jtag = s.jtag := rfl
@[simp] theorem rset_nextId (s : State) (r : Reg) (d i j v : Nat) : (rset s r d i j v).nextId = s.nextId := rfl
@[simp] theorem rset_freeCount (s : State) (r : Reg) (d i j v : Nat) : (rset s r d i j v).freeCount = s.freeCount := rfl
@[simp] theorem rset_pending (s : State) (r : Reg) (d i j v : Nat) : (rset s r d i j v).pending = s.pending := rfl

@[simp] theorem rfset_master (s : State) (r : Reg) (d i j hi lo v : Nat) : (rfset s r d i j hi lo v).master = s.master := rfl
@[simp] theorem rfset_copies (s : State) (r : Reg) (d i j hi lo v : Nat) : (rfset s r d i j hi lo v).copies = s.copies := rfl
@[simp] theorem rfset_copyHeld (s : State) (r : Reg) (d i j hi lo v : Nat) : (rfset s r d i j hi lo v).copyHeld = s.copyHeld := rfl
@[simp] theorem rfset_pins (s : State) (r : Reg) (d i j hi lo v : Nat) : (rfset s r d i j hi lo v).pins = s.pins := rfl
@[simp] theorem rfset_holds (s : State) (r : Reg) (d i j hi lo v : Nat) : (rfset s r d i j hi lo v).holds = s.holds := rfl
@[simp] theorem rfset_tiles (s : State) (r : Reg) (d i j hi lo v : Nat) : (rfset s r d i j hi lo v).tiles = s.tiles := rfl
@[simp] theorem rfset_tileClocks (s : State) (r : Reg) (d i j hi lo v : Nat) : (rfset s r d i j hi lo v).tileClocks = s.tileClocks := rfl
@[simp] theorem rfset_dcc (s : State) (r : Reg) (d i j hi lo v : Nat) : (rfset s r d i j hi lo v).dcc = s.dcc := rfl
@[simp] theorem rfset_l1Fills (s : State) (r : Reg) (d i j hi lo v : Nat) : (rfset s r d i j hi lo v).l1Fills = s.l1Fills := rfl
@[simp] theorem rfset_dccFills (s : State) (r : Reg) (d i j hi lo v : Nat) : (rfset s r d i j hi lo v).dccFills = s.dccFills := rfl
@[simp] theorem rfset_grottos (s : State) (r : Reg) (d i j hi lo v : Nat) : (rfset s r d i j hi lo v).grottos = s.grottos := rfl
@[simp] theorem rfset_mem (s : State) (r : Reg) (d i j hi lo v : Nat) : (rfset s r d i j hi lo v).mem = s.mem := rfl
@[simp] theorem rfset_memPoison (s : State) (r : Reg) (d i j hi lo v : Nat) : (rfset s r d i j hi lo v).memPoison = s.memPoison := rfl
@[simp] theorem rfset_memErrs (s : State) (r : Reg) (d i j hi lo v : Nat) : (rfset s r d i j hi lo v).memErrs = s.memErrs := rfl
@[simp] theorem rfset_homes (s : State) (r : Reg) (d i j hi lo v : Nat) : (rfset s r d i j hi lo v).homes = s.homes := rfl
@[simp] theorem rfset_answers (s : State) (r : Reg) (d i j hi lo v : Nat) : (rfset s r d i j hi lo v).answers = s.answers := rfl
@[simp] theorem rfset_tileAnswers (s : State) (r : Reg) (d i j hi lo v : Nat) : (rfset s r d i j hi lo v).tileAnswers = s.tileAnswers := rfl
@[simp] theorem rfset_eccCorrected (s : State) (r : Reg) (d i j hi lo v : Nat) : (rfset s r d i j hi lo v).eccCorrected = s.eccCorrected := rfl
@[simp] theorem rfset_dir (s : State) (r : Reg) (d i j hi lo v : Nat) : (rfset s r d i j hi lo v).dir = s.dir := rfl
@[simp] theorem rfset_txns (s : State) (r : Reg) (d i j hi lo v : Nat) : (rfset s r d i j hi lo v).txns = s.txns := rfl
@[simp] theorem rfset_cohNet (s : State) (r : Reg) (d i j hi lo v : Nat) : (rfset s r d i j hi lo v).cohNet = s.cohNet := rfl
@[simp] theorem rfset_caches (s : State) (r : Reg) (d i j hi lo v : Nat) : (rfset s r d i j hi lo v).caches = s.caches := rfl
@[simp] theorem rfset_wbBuf (s : State) (r : Reg) (d i j hi lo v : Nat) : (rfset s r d i j hi lo v).wbBuf = s.wbBuf := rfl
@[simp] theorem rfset_predictor (s : State) (r : Reg) (d i j hi lo v : Nat) : (rfset s r d i j hi lo v).predictor = s.predictor := rfl
@[simp] theorem rfset_amoResults (s : State) (r : Reg) (d i j hi lo v : Nat) : (rfset s r d i j hi lo v).amoResults = s.amoResults := rfl
@[simp] theorem rfset_cores (s : State) (r : Reg) (d i j hi lo v : Nat) : (rfset s r d i j hi lo v).cores = s.cores := rfl
@[simp] theorem rfset_heldStacks (s : State) (r : Reg) (d i j hi lo v : Nat) : (rfset s r d i j hi lo v).heldStacks = s.heldStacks := rfl
@[simp] theorem rfset_lossFenced (s : State) (r : Reg) (d i j hi lo v : Nat) : (rfset s r d i j hi lo v).lossFenced = s.lossFenced := rfl
@[simp] theorem rfset_holdDies (s : State) (r : Reg) (d i j hi lo v : Nat) : (rfset s r d i j hi lo v).holdDies = s.holdDies := rfl
@[simp] theorem rfset_gatedQuads (s : State) (r : Reg) (d i j hi lo v : Nat) : (rfset s r d i j hi lo v).gatedQuads = s.gatedQuads := rfl
@[simp] theorem rfset_jobs (s : State) (r : Reg) (d i j hi lo v : Nat) : (rfset s r d i j hi lo v).jobs = s.jobs := rfl
@[simp] theorem rfset_rrNext (s : State) (r : Reg) (d i j hi lo v : Nat) : (rfset s r d i j hi lo v).rrNext = s.rrNext := rfl
@[simp] theorem rfset_hostSubmits (s : State) (r : Reg) (d i j hi lo v : Nat) : (rfset s r d i j hi lo v).hostSubmits = s.hostSubmits := rfl
@[simp] theorem rfset_tlb (s : State) (r : Reg) (d i j hi lo v : Nat) : (rfset s r d i j hi lo v).tlb = s.tlb := rfl
@[simp] theorem rfset_ports (s : State) (r : Reg) (d i j hi lo v : Nat) : (rfset s r d i j hi lo v).ports = s.ports := rfl
@[simp] theorem rfset_conns (s : State) (r : Reg) (d i j hi lo v : Nat) : (rfset s r d i j hi lo v).conns = s.conns := rfl
@[simp] theorem rfset_delivered (s : State) (r : Reg) (d i j hi lo v : Nat) : (rfset s r d i j hi lo v).delivered = s.delivered := rfl
@[simp] theorem rfset_rxConsumed (s : State) (r : Reg) (d i j hi lo v : Nat) : (rfset s r d i j hi lo v).rxConsumed = s.rxConsumed := rfl
@[simp] theorem rfset_rxProduced (s : State) (r : Reg) (d i j hi lo v : Nat) : (rfset s r d i j hi lo v).rxProduced = s.rxProduced := rfl
@[simp] theorem rfset_host (s : State) (r : Reg) (d i j hi lo v : Nat) : (rfset s r d i j hi lo v).host = s.host := rfl
@[simp] theorem rfset_links (s : State) (r : Reg) (d i j hi lo v : Nat) : (rfset s r d i j hi lo v).links = s.links := rfl
@[simp] theorem rfset_rim (s : State) (r : Reg) (d i j hi lo v : Nat) : (rfset s r d i j hi lo v).rim = s.rim := rfl
@[simp] theorem rfset_uszon (s : State) (r : Reg) (d i j hi lo v : Nat) : (rfset s r d i j hi lo v).uszon = s.uszon := rfl
@[simp] theorem rfset_flash (s : State) (r : Reg) (d i j hi lo v : Nat) : (rfset s r d i j hi lo v).flash = s.flash := rfl
@[simp] theorem rfset_side (s : State) (r : Reg) (d i j hi lo v : Nat) : (rfset s r d i j hi lo v).side = s.side := rfl
@[simp] theorem rfset_jtag (s : State) (r : Reg) (d i j hi lo v : Nat) : (rfset s r d i j hi lo v).jtag = s.jtag := rfl
@[simp] theorem rfset_nextId (s : State) (r : Reg) (d i j hi lo v : Nat) : (rfset s r d i j hi lo v).nextId = s.nextId := rfl
@[simp] theorem rfset_freeCount (s : State) (r : Reg) (d i j hi lo v : Nat) : (rfset s r d i j hi lo v).freeCount = s.freeCount := rfl
@[simp] theorem rfset_pending (s : State) (r : Reg) (d i j hi lo v : Nat) : (rfset s r d i j hi lo v).pending = s.pending := rfl

@[simp] theorem count_master (s : State) (r : Reg) (d i j n : Nat) : (count s r d i j n).master = s.master := rfl
@[simp] theorem count_copies (s : State) (r : Reg) (d i j n : Nat) : (count s r d i j n).copies = s.copies := rfl
@[simp] theorem count_copyHeld (s : State) (r : Reg) (d i j n : Nat) : (count s r d i j n).copyHeld = s.copyHeld := rfl
@[simp] theorem count_pins (s : State) (r : Reg) (d i j n : Nat) : (count s r d i j n).pins = s.pins := rfl
@[simp] theorem count_holds (s : State) (r : Reg) (d i j n : Nat) : (count s r d i j n).holds = s.holds := rfl
@[simp] theorem count_tiles (s : State) (r : Reg) (d i j n : Nat) : (count s r d i j n).tiles = s.tiles := rfl
@[simp] theorem count_tileClocks (s : State) (r : Reg) (d i j n : Nat) : (count s r d i j n).tileClocks = s.tileClocks := rfl
@[simp] theorem count_dcc (s : State) (r : Reg) (d i j n : Nat) : (count s r d i j n).dcc = s.dcc := rfl
@[simp] theorem count_l1Fills (s : State) (r : Reg) (d i j n : Nat) : (count s r d i j n).l1Fills = s.l1Fills := rfl
@[simp] theorem count_dccFills (s : State) (r : Reg) (d i j n : Nat) : (count s r d i j n).dccFills = s.dccFills := rfl
@[simp] theorem count_grottos (s : State) (r : Reg) (d i j n : Nat) : (count s r d i j n).grottos = s.grottos := rfl
@[simp] theorem count_mem (s : State) (r : Reg) (d i j n : Nat) : (count s r d i j n).mem = s.mem := rfl
@[simp] theorem count_memPoison (s : State) (r : Reg) (d i j n : Nat) : (count s r d i j n).memPoison = s.memPoison := rfl
@[simp] theorem count_memErrs (s : State) (r : Reg) (d i j n : Nat) : (count s r d i j n).memErrs = s.memErrs := rfl
@[simp] theorem count_homes (s : State) (r : Reg) (d i j n : Nat) : (count s r d i j n).homes = s.homes := rfl
@[simp] theorem count_answers (s : State) (r : Reg) (d i j n : Nat) : (count s r d i j n).answers = s.answers := rfl
@[simp] theorem count_tileAnswers (s : State) (r : Reg) (d i j n : Nat) : (count s r d i j n).tileAnswers = s.tileAnswers := rfl
@[simp] theorem count_eccCorrected (s : State) (r : Reg) (d i j n : Nat) : (count s r d i j n).eccCorrected = s.eccCorrected := rfl
@[simp] theorem count_dir (s : State) (r : Reg) (d i j n : Nat) : (count s r d i j n).dir = s.dir := rfl
@[simp] theorem count_txns (s : State) (r : Reg) (d i j n : Nat) : (count s r d i j n).txns = s.txns := rfl
@[simp] theorem count_cohNet (s : State) (r : Reg) (d i j n : Nat) : (count s r d i j n).cohNet = s.cohNet := rfl
@[simp] theorem count_caches (s : State) (r : Reg) (d i j n : Nat) : (count s r d i j n).caches = s.caches := rfl
@[simp] theorem count_wbBuf (s : State) (r : Reg) (d i j n : Nat) : (count s r d i j n).wbBuf = s.wbBuf := rfl
@[simp] theorem count_predictor (s : State) (r : Reg) (d i j n : Nat) : (count s r d i j n).predictor = s.predictor := rfl
@[simp] theorem count_amoResults (s : State) (r : Reg) (d i j n : Nat) : (count s r d i j n).amoResults = s.amoResults := rfl
@[simp] theorem count_cores (s : State) (r : Reg) (d i j n : Nat) : (count s r d i j n).cores = s.cores := rfl
@[simp] theorem count_heldStacks (s : State) (r : Reg) (d i j n : Nat) : (count s r d i j n).heldStacks = s.heldStacks := rfl
@[simp] theorem count_lossFenced (s : State) (r : Reg) (d i j n : Nat) : (count s r d i j n).lossFenced = s.lossFenced := rfl
@[simp] theorem count_holdDies (s : State) (r : Reg) (d i j n : Nat) : (count s r d i j n).holdDies = s.holdDies := rfl
@[simp] theorem count_gatedQuads (s : State) (r : Reg) (d i j n : Nat) : (count s r d i j n).gatedQuads = s.gatedQuads := rfl
@[simp] theorem count_jobs (s : State) (r : Reg) (d i j n : Nat) : (count s r d i j n).jobs = s.jobs := rfl
@[simp] theorem count_rrNext (s : State) (r : Reg) (d i j n : Nat) : (count s r d i j n).rrNext = s.rrNext := rfl
@[simp] theorem count_hostSubmits (s : State) (r : Reg) (d i j n : Nat) : (count s r d i j n).hostSubmits = s.hostSubmits := rfl
@[simp] theorem count_tlb (s : State) (r : Reg) (d i j n : Nat) : (count s r d i j n).tlb = s.tlb := rfl
@[simp] theorem count_ports (s : State) (r : Reg) (d i j n : Nat) : (count s r d i j n).ports = s.ports := rfl
@[simp] theorem count_conns (s : State) (r : Reg) (d i j n : Nat) : (count s r d i j n).conns = s.conns := rfl
@[simp] theorem count_delivered (s : State) (r : Reg) (d i j n : Nat) : (count s r d i j n).delivered = s.delivered := rfl
@[simp] theorem count_rxConsumed (s : State) (r : Reg) (d i j n : Nat) : (count s r d i j n).rxConsumed = s.rxConsumed := rfl
@[simp] theorem count_rxProduced (s : State) (r : Reg) (d i j n : Nat) : (count s r d i j n).rxProduced = s.rxProduced := rfl
@[simp] theorem count_host (s : State) (r : Reg) (d i j n : Nat) : (count s r d i j n).host = s.host := rfl
@[simp] theorem count_links (s : State) (r : Reg) (d i j n : Nat) : (count s r d i j n).links = s.links := rfl
@[simp] theorem count_rim (s : State) (r : Reg) (d i j n : Nat) : (count s r d i j n).rim = s.rim := rfl
@[simp] theorem count_uszon (s : State) (r : Reg) (d i j n : Nat) : (count s r d i j n).uszon = s.uszon := rfl
@[simp] theorem count_flash (s : State) (r : Reg) (d i j n : Nat) : (count s r d i j n).flash = s.flash := rfl
@[simp] theorem count_side (s : State) (r : Reg) (d i j n : Nat) : (count s r d i j n).side = s.side := rfl
@[simp] theorem count_jtag (s : State) (r : Reg) (d i j n : Nat) : (count s r d i j n).jtag = s.jtag := rfl
@[simp] theorem count_nextId (s : State) (r : Reg) (d i j n : Nat) : (count s r d i j n).nextId = s.nextId := rfl
@[simp] theorem count_freeCount (s : State) (r : Reg) (d i j n : Nat) : (count s r d i j n).freeCount = s.freeCount := rfl
@[simp] theorem count_pending (s : State) (r : Reg) (d i j n : Nat) : (count s r d i j n).pending = s.pending := rfl

@[simp] theorem report_regs (s : State) (c d v a b : Nat) : (report s c d v a b).regs = s.regs := rfl
@[simp] theorem report_master (s : State) (c d v a b : Nat) : (report s c d v a b).master = s.master := rfl
@[simp] theorem report_copies (s : State) (c d v a b : Nat) : (report s c d v a b).copies = s.copies := rfl
@[simp] theorem report_copyHeld (s : State) (c d v a b : Nat) : (report s c d v a b).copyHeld = s.copyHeld := rfl
@[simp] theorem report_pins (s : State) (c d v a b : Nat) : (report s c d v a b).pins = s.pins := rfl
@[simp] theorem report_holds (s : State) (c d v a b : Nat) : (report s c d v a b).holds = s.holds := rfl
@[simp] theorem report_tiles (s : State) (c d v a b : Nat) : (report s c d v a b).tiles = s.tiles := rfl
@[simp] theorem report_tileClocks (s : State) (c d v a b : Nat) : (report s c d v a b).tileClocks = s.tileClocks := rfl
@[simp] theorem report_dcc (s : State) (c d v a b : Nat) : (report s c d v a b).dcc = s.dcc := rfl
@[simp] theorem report_l1Fills (s : State) (c d v a b : Nat) : (report s c d v a b).l1Fills = s.l1Fills := rfl
@[simp] theorem report_dccFills (s : State) (c d v a b : Nat) : (report s c d v a b).dccFills = s.dccFills := rfl
@[simp] theorem report_grottos (s : State) (c d v a b : Nat) : (report s c d v a b).grottos = s.grottos := rfl
@[simp] theorem report_mem (s : State) (c d v a b : Nat) : (report s c d v a b).mem = s.mem := rfl
@[simp] theorem report_memPoison (s : State) (c d v a b : Nat) : (report s c d v a b).memPoison = s.memPoison := rfl
@[simp] theorem report_memErrs (s : State) (c d v a b : Nat) : (report s c d v a b).memErrs = s.memErrs := rfl
@[simp] theorem report_homes (s : State) (c d v a b : Nat) : (report s c d v a b).homes = s.homes := rfl
@[simp] theorem report_answers (s : State) (c d v a b : Nat) : (report s c d v a b).answers = s.answers := rfl
@[simp] theorem report_tileAnswers (s : State) (c d v a b : Nat) : (report s c d v a b).tileAnswers = s.tileAnswers := rfl
@[simp] theorem report_eccCorrected (s : State) (c d v a b : Nat) : (report s c d v a b).eccCorrected = s.eccCorrected := rfl
@[simp] theorem report_dir (s : State) (c d v a b : Nat) : (report s c d v a b).dir = s.dir := rfl
@[simp] theorem report_txns (s : State) (c d v a b : Nat) : (report s c d v a b).txns = s.txns := rfl
@[simp] theorem report_cohNet (s : State) (c d v a b : Nat) : (report s c d v a b).cohNet = s.cohNet := rfl
@[simp] theorem report_caches (s : State) (c d v a b : Nat) : (report s c d v a b).caches = s.caches := rfl
@[simp] theorem report_wbBuf (s : State) (c d v a b : Nat) : (report s c d v a b).wbBuf = s.wbBuf := rfl
@[simp] theorem report_predictor (s : State) (c d v a b : Nat) : (report s c d v a b).predictor = s.predictor := rfl
@[simp] theorem report_amoResults (s : State) (c d v a b : Nat) : (report s c d v a b).amoResults = s.amoResults := rfl
@[simp] theorem report_cores (s : State) (c d v a b : Nat) : (report s c d v a b).cores = s.cores := rfl
@[simp] theorem report_heldStacks (s : State) (c d v a b : Nat) : (report s c d v a b).heldStacks = s.heldStacks := rfl
@[simp] theorem report_lossFenced (s : State) (c d v a b : Nat) : (report s c d v a b).lossFenced = s.lossFenced := rfl
@[simp] theorem report_holdDies (s : State) (c d v a b : Nat) : (report s c d v a b).holdDies = s.holdDies := rfl
@[simp] theorem report_gatedQuads (s : State) (c d v a b : Nat) : (report s c d v a b).gatedQuads = s.gatedQuads := rfl
@[simp] theorem report_jobs (s : State) (c d v a b : Nat) : (report s c d v a b).jobs = s.jobs := rfl
@[simp] theorem report_rrNext (s : State) (c d v a b : Nat) : (report s c d v a b).rrNext = s.rrNext := rfl
@[simp] theorem report_hostSubmits (s : State) (c d v a b : Nat) : (report s c d v a b).hostSubmits = s.hostSubmits := rfl
@[simp] theorem report_tlb (s : State) (c d v a b : Nat) : (report s c d v a b).tlb = s.tlb := rfl
@[simp] theorem report_ports (s : State) (c d v a b : Nat) : (report s c d v a b).ports = s.ports := rfl
@[simp] theorem report_conns (s : State) (c d v a b : Nat) : (report s c d v a b).conns = s.conns := rfl
@[simp] theorem report_delivered (s : State) (c d v a b : Nat) : (report s c d v a b).delivered = s.delivered := rfl
@[simp] theorem report_rxConsumed (s : State) (c d v a b : Nat) : (report s c d v a b).rxConsumed = s.rxConsumed := rfl
@[simp] theorem report_rxProduced (s : State) (c d v a b : Nat) : (report s c d v a b).rxProduced = s.rxProduced := rfl
@[simp] theorem report_host (s : State) (c d v a b : Nat) : (report s c d v a b).host = s.host := rfl
@[simp] theorem report_links (s : State) (c d v a b : Nat) : (report s c d v a b).links = s.links := rfl
@[simp] theorem report_rim (s : State) (c d v a b : Nat) : (report s c d v a b).rim = s.rim := rfl
@[simp] theorem report_flash (s : State) (c d v a b : Nat) : (report s c d v a b).flash = s.flash := rfl
@[simp] theorem report_side (s : State) (c d v a b : Nat) : (report s c d v a b).side = s.side := rfl
@[simp] theorem report_jtag (s : State) (c d v a b : Nat) : (report s c d v a b).jtag = s.jtag := rfl
@[simp] theorem report_nextId (s : State) (c d v a b : Nat) : (report s c d v a b).nextId = s.nextId := rfl
@[simp] theorem report_freeCount (s : State) (c d v a b : Nat) : (report s c d v a b).freeCount = s.freeCount := rfl
@[simp] theorem report_pending (s : State) (c d v a b : Nat) : (report s c d v a b).pending = s.pending := rfl

@[simp] theorem post_regs (s : State) (p : HostPost) : (post s p).regs = s.regs := rfl
@[simp] theorem post_master (s : State) (p : HostPost) : (post s p).master = s.master := rfl
@[simp] theorem post_copies (s : State) (p : HostPost) : (post s p).copies = s.copies := rfl
@[simp] theorem post_copyHeld (s : State) (p : HostPost) : (post s p).copyHeld = s.copyHeld := rfl
@[simp] theorem post_pins (s : State) (p : HostPost) : (post s p).pins = s.pins := rfl
@[simp] theorem post_holds (s : State) (p : HostPost) : (post s p).holds = s.holds := rfl
@[simp] theorem post_tiles (s : State) (p : HostPost) : (post s p).tiles = s.tiles := rfl
@[simp] theorem post_tileClocks (s : State) (p : HostPost) : (post s p).tileClocks = s.tileClocks := rfl
@[simp] theorem post_dcc (s : State) (p : HostPost) : (post s p).dcc = s.dcc := rfl
@[simp] theorem post_l1Fills (s : State) (p : HostPost) : (post s p).l1Fills = s.l1Fills := rfl
@[simp] theorem post_dccFills (s : State) (p : HostPost) : (post s p).dccFills = s.dccFills := rfl
@[simp] theorem post_grottos (s : State) (p : HostPost) : (post s p).grottos = s.grottos := rfl
@[simp] theorem post_mem (s : State) (p : HostPost) : (post s p).mem = s.mem := rfl
@[simp] theorem post_memPoison (s : State) (p : HostPost) : (post s p).memPoison = s.memPoison := rfl
@[simp] theorem post_memErrs (s : State) (p : HostPost) : (post s p).memErrs = s.memErrs := rfl
@[simp] theorem post_homes (s : State) (p : HostPost) : (post s p).homes = s.homes := rfl
@[simp] theorem post_answers (s : State) (p : HostPost) : (post s p).answers = s.answers := rfl
@[simp] theorem post_tileAnswers (s : State) (p : HostPost) : (post s p).tileAnswers = s.tileAnswers := rfl
@[simp] theorem post_eccCorrected (s : State) (p : HostPost) : (post s p).eccCorrected = s.eccCorrected := rfl
@[simp] theorem post_dir (s : State) (p : HostPost) : (post s p).dir = s.dir := rfl
@[simp] theorem post_txns (s : State) (p : HostPost) : (post s p).txns = s.txns := rfl
@[simp] theorem post_cohNet (s : State) (p : HostPost) : (post s p).cohNet = s.cohNet := rfl
@[simp] theorem post_caches (s : State) (p : HostPost) : (post s p).caches = s.caches := rfl
@[simp] theorem post_wbBuf (s : State) (p : HostPost) : (post s p).wbBuf = s.wbBuf := rfl
@[simp] theorem post_predictor (s : State) (p : HostPost) : (post s p).predictor = s.predictor := rfl
@[simp] theorem post_amoResults (s : State) (p : HostPost) : (post s p).amoResults = s.amoResults := rfl
@[simp] theorem post_cores (s : State) (p : HostPost) : (post s p).cores = s.cores := rfl
@[simp] theorem post_heldStacks (s : State) (p : HostPost) : (post s p).heldStacks = s.heldStacks := rfl
@[simp] theorem post_lossFenced (s : State) (p : HostPost) : (post s p).lossFenced = s.lossFenced := rfl
@[simp] theorem post_holdDies (s : State) (p : HostPost) : (post s p).holdDies = s.holdDies := rfl
@[simp] theorem post_gatedQuads (s : State) (p : HostPost) : (post s p).gatedQuads = s.gatedQuads := rfl
@[simp] theorem post_jobs (s : State) (p : HostPost) : (post s p).jobs = s.jobs := rfl
@[simp] theorem post_rrNext (s : State) (p : HostPost) : (post s p).rrNext = s.rrNext := rfl
@[simp] theorem post_hostSubmits (s : State) (p : HostPost) : (post s p).hostSubmits = s.hostSubmits := rfl
@[simp] theorem post_tlb (s : State) (p : HostPost) : (post s p).tlb = s.tlb := rfl
@[simp] theorem post_ports (s : State) (p : HostPost) : (post s p).ports = s.ports := rfl
@[simp] theorem post_conns (s : State) (p : HostPost) : (post s p).conns = s.conns := rfl
@[simp] theorem post_delivered (s : State) (p : HostPost) : (post s p).delivered = s.delivered := rfl
@[simp] theorem post_rxConsumed (s : State) (p : HostPost) : (post s p).rxConsumed = s.rxConsumed := rfl
@[simp] theorem post_rxProduced (s : State) (p : HostPost) : (post s p).rxProduced = s.rxProduced := rfl
@[simp] theorem post_links (s : State) (p : HostPost) : (post s p).links = s.links := rfl
@[simp] theorem post_rim (s : State) (p : HostPost) : (post s p).rim = s.rim := rfl
@[simp] theorem post_uszon (s : State) (p : HostPost) : (post s p).uszon = s.uszon := rfl
@[simp] theorem post_flash (s : State) (p : HostPost) : (post s p).flash = s.flash := rfl
@[simp] theorem post_side (s : State) (p : HostPost) : (post s p).side = s.side := rfl
@[simp] theorem post_jtag (s : State) (p : HostPost) : (post s p).jtag = s.jtag := rfl
@[simp] theorem post_nextId (s : State) (p : HostPost) : (post s p).nextId = s.nextId := rfl
@[simp] theorem post_freeCount (s : State) (p : HostPost) : (post s p).freeCount = s.freeCount := rfl
@[simp] theorem post_pending (s : State) (p : HostPost) : (post s p).pending = s.pending := rfl

@[simp] theorem setTile_regs (s : State) (t : Nat) (x : Tile) : (setTile s t x).regs = s.regs := rfl
@[simp] theorem setTile_master (s : State) (t : Nat) (x : Tile) : (setTile s t x).master = s.master := rfl
@[simp] theorem setTile_copies (s : State) (t : Nat) (x : Tile) : (setTile s t x).copies = s.copies := rfl
@[simp] theorem setTile_copyHeld (s : State) (t : Nat) (x : Tile) : (setTile s t x).copyHeld = s.copyHeld := rfl
@[simp] theorem setTile_pins (s : State) (t : Nat) (x : Tile) : (setTile s t x).pins = s.pins := rfl
@[simp] theorem setTile_holds (s : State) (t : Nat) (x : Tile) : (setTile s t x).holds = s.holds := rfl
@[simp] theorem setTile_tileClocks (s : State) (t : Nat) (x : Tile) : (setTile s t x).tileClocks = s.tileClocks := rfl
@[simp] theorem setTile_dcc (s : State) (t : Nat) (x : Tile) : (setTile s t x).dcc = s.dcc := rfl
@[simp] theorem setTile_l1Fills (s : State) (t : Nat) (x : Tile) : (setTile s t x).l1Fills = s.l1Fills := rfl
@[simp] theorem setTile_dccFills (s : State) (t : Nat) (x : Tile) : (setTile s t x).dccFills = s.dccFills := rfl
@[simp] theorem setTile_grottos (s : State) (t : Nat) (x : Tile) : (setTile s t x).grottos = s.grottos := rfl
@[simp] theorem setTile_mem (s : State) (t : Nat) (x : Tile) : (setTile s t x).mem = s.mem := rfl
@[simp] theorem setTile_memPoison (s : State) (t : Nat) (x : Tile) : (setTile s t x).memPoison = s.memPoison := rfl
@[simp] theorem setTile_memErrs (s : State) (t : Nat) (x : Tile) : (setTile s t x).memErrs = s.memErrs := rfl
@[simp] theorem setTile_homes (s : State) (t : Nat) (x : Tile) : (setTile s t x).homes = s.homes := rfl
@[simp] theorem setTile_answers (s : State) (t : Nat) (x : Tile) : (setTile s t x).answers = s.answers := rfl
@[simp] theorem setTile_tileAnswers (s : State) (t : Nat) (x : Tile) : (setTile s t x).tileAnswers = s.tileAnswers := rfl
@[simp] theorem setTile_eccCorrected (s : State) (t : Nat) (x : Tile) : (setTile s t x).eccCorrected = s.eccCorrected := rfl
@[simp] theorem setTile_dir (s : State) (t : Nat) (x : Tile) : (setTile s t x).dir = s.dir := rfl
@[simp] theorem setTile_txns (s : State) (t : Nat) (x : Tile) : (setTile s t x).txns = s.txns := rfl
@[simp] theorem setTile_cohNet (s : State) (t : Nat) (x : Tile) : (setTile s t x).cohNet = s.cohNet := rfl
@[simp] theorem setTile_caches (s : State) (t : Nat) (x : Tile) : (setTile s t x).caches = s.caches := rfl
@[simp] theorem setTile_wbBuf (s : State) (t : Nat) (x : Tile) : (setTile s t x).wbBuf = s.wbBuf := rfl
@[simp] theorem setTile_predictor (s : State) (t : Nat) (x : Tile) : (setTile s t x).predictor = s.predictor := rfl
@[simp] theorem setTile_amoResults (s : State) (t : Nat) (x : Tile) : (setTile s t x).amoResults = s.amoResults := rfl
@[simp] theorem setTile_cores (s : State) (t : Nat) (x : Tile) : (setTile s t x).cores = s.cores := rfl
@[simp] theorem setTile_heldStacks (s : State) (t : Nat) (x : Tile) : (setTile s t x).heldStacks = s.heldStacks := rfl
@[simp] theorem setTile_lossFenced (s : State) (t : Nat) (x : Tile) : (setTile s t x).lossFenced = s.lossFenced := rfl
@[simp] theorem setTile_holdDies (s : State) (t : Nat) (x : Tile) : (setTile s t x).holdDies = s.holdDies := rfl
@[simp] theorem setTile_gatedQuads (s : State) (t : Nat) (x : Tile) : (setTile s t x).gatedQuads = s.gatedQuads := rfl
@[simp] theorem setTile_jobs (s : State) (t : Nat) (x : Tile) : (setTile s t x).jobs = s.jobs := rfl
@[simp] theorem setTile_rrNext (s : State) (t : Nat) (x : Tile) : (setTile s t x).rrNext = s.rrNext := rfl
@[simp] theorem setTile_hostSubmits (s : State) (t : Nat) (x : Tile) : (setTile s t x).hostSubmits = s.hostSubmits := rfl
@[simp] theorem setTile_tlb (s : State) (t : Nat) (x : Tile) : (setTile s t x).tlb = s.tlb := rfl
@[simp] theorem setTile_ports (s : State) (t : Nat) (x : Tile) : (setTile s t x).ports = s.ports := rfl
@[simp] theorem setTile_conns (s : State) (t : Nat) (x : Tile) : (setTile s t x).conns = s.conns := rfl
@[simp] theorem setTile_delivered (s : State) (t : Nat) (x : Tile) : (setTile s t x).delivered = s.delivered := rfl
@[simp] theorem setTile_rxConsumed (s : State) (t : Nat) (x : Tile) : (setTile s t x).rxConsumed = s.rxConsumed := rfl
@[simp] theorem setTile_rxProduced (s : State) (t : Nat) (x : Tile) : (setTile s t x).rxProduced = s.rxProduced := rfl
@[simp] theorem setTile_host (s : State) (t : Nat) (x : Tile) : (setTile s t x).host = s.host := rfl
@[simp] theorem setTile_links (s : State) (t : Nat) (x : Tile) : (setTile s t x).links = s.links := rfl
@[simp] theorem setTile_rim (s : State) (t : Nat) (x : Tile) : (setTile s t x).rim = s.rim := rfl
@[simp] theorem setTile_uszon (s : State) (t : Nat) (x : Tile) : (setTile s t x).uszon = s.uszon := rfl
@[simp] theorem setTile_flash (s : State) (t : Nat) (x : Tile) : (setTile s t x).flash = s.flash := rfl
@[simp] theorem setTile_side (s : State) (t : Nat) (x : Tile) : (setTile s t x).side = s.side := rfl
@[simp] theorem setTile_jtag (s : State) (t : Nat) (x : Tile) : (setTile s t x).jtag = s.jtag := rfl
@[simp] theorem setTile_nextId (s : State) (t : Nat) (x : Tile) : (setTile s t x).nextId = s.nextId := rfl
@[simp] theorem setTile_freeCount (s : State) (t : Nat) (x : Tile) : (setTile s t x).freeCount = s.freeCount := rfl
@[simp] theorem setTile_pending (s : State) (t : Nat) (x : Tile) : (setTile s t x).pending = s.pending := rfl

@[simp] theorem setGroup_regs (s : State) (t g : Nat) (x : Group) : (setGroup s t g x).regs = s.regs := rfl
@[simp] theorem setGroup_master (s : State) (t g : Nat) (x : Group) : (setGroup s t g x).master = s.master := rfl
@[simp] theorem setGroup_copies (s : State) (t g : Nat) (x : Group) : (setGroup s t g x).copies = s.copies := rfl
@[simp] theorem setGroup_copyHeld (s : State) (t g : Nat) (x : Group) : (setGroup s t g x).copyHeld = s.copyHeld := rfl
@[simp] theorem setGroup_pins (s : State) (t g : Nat) (x : Group) : (setGroup s t g x).pins = s.pins := rfl
@[simp] theorem setGroup_holds (s : State) (t g : Nat) (x : Group) : (setGroup s t g x).holds = s.holds := rfl
@[simp] theorem setGroup_tileClocks (s : State) (t g : Nat) (x : Group) : (setGroup s t g x).tileClocks = s.tileClocks := rfl
@[simp] theorem setGroup_dcc (s : State) (t g : Nat) (x : Group) : (setGroup s t g x).dcc = s.dcc := rfl
@[simp] theorem setGroup_l1Fills (s : State) (t g : Nat) (x : Group) : (setGroup s t g x).l1Fills = s.l1Fills := rfl
@[simp] theorem setGroup_dccFills (s : State) (t g : Nat) (x : Group) : (setGroup s t g x).dccFills = s.dccFills := rfl
@[simp] theorem setGroup_grottos (s : State) (t g : Nat) (x : Group) : (setGroup s t g x).grottos = s.grottos := rfl
@[simp] theorem setGroup_mem (s : State) (t g : Nat) (x : Group) : (setGroup s t g x).mem = s.mem := rfl
@[simp] theorem setGroup_memPoison (s : State) (t g : Nat) (x : Group) : (setGroup s t g x).memPoison = s.memPoison := rfl
@[simp] theorem setGroup_memErrs (s : State) (t g : Nat) (x : Group) : (setGroup s t g x).memErrs = s.memErrs := rfl
@[simp] theorem setGroup_homes (s : State) (t g : Nat) (x : Group) : (setGroup s t g x).homes = s.homes := rfl
@[simp] theorem setGroup_answers (s : State) (t g : Nat) (x : Group) : (setGroup s t g x).answers = s.answers := rfl
@[simp] theorem setGroup_tileAnswers (s : State) (t g : Nat) (x : Group) : (setGroup s t g x).tileAnswers = s.tileAnswers := rfl
@[simp] theorem setGroup_eccCorrected (s : State) (t g : Nat) (x : Group) : (setGroup s t g x).eccCorrected = s.eccCorrected := rfl
@[simp] theorem setGroup_dir (s : State) (t g : Nat) (x : Group) : (setGroup s t g x).dir = s.dir := rfl
@[simp] theorem setGroup_txns (s : State) (t g : Nat) (x : Group) : (setGroup s t g x).txns = s.txns := rfl
@[simp] theorem setGroup_cohNet (s : State) (t g : Nat) (x : Group) : (setGroup s t g x).cohNet = s.cohNet := rfl
@[simp] theorem setGroup_caches (s : State) (t g : Nat) (x : Group) : (setGroup s t g x).caches = s.caches := rfl
@[simp] theorem setGroup_wbBuf (s : State) (t g : Nat) (x : Group) : (setGroup s t g x).wbBuf = s.wbBuf := rfl
@[simp] theorem setGroup_predictor (s : State) (t g : Nat) (x : Group) : (setGroup s t g x).predictor = s.predictor := rfl
@[simp] theorem setGroup_amoResults (s : State) (t g : Nat) (x : Group) : (setGroup s t g x).amoResults = s.amoResults := rfl
@[simp] theorem setGroup_cores (s : State) (t g : Nat) (x : Group) : (setGroup s t g x).cores = s.cores := rfl
@[simp] theorem setGroup_heldStacks (s : State) (t g : Nat) (x : Group) : (setGroup s t g x).heldStacks = s.heldStacks := rfl
@[simp] theorem setGroup_lossFenced (s : State) (t g : Nat) (x : Group) : (setGroup s t g x).lossFenced = s.lossFenced := rfl
@[simp] theorem setGroup_holdDies (s : State) (t g : Nat) (x : Group) : (setGroup s t g x).holdDies = s.holdDies := rfl
@[simp] theorem setGroup_gatedQuads (s : State) (t g : Nat) (x : Group) : (setGroup s t g x).gatedQuads = s.gatedQuads := rfl
@[simp] theorem setGroup_jobs (s : State) (t g : Nat) (x : Group) : (setGroup s t g x).jobs = s.jobs := rfl
@[simp] theorem setGroup_rrNext (s : State) (t g : Nat) (x : Group) : (setGroup s t g x).rrNext = s.rrNext := rfl
@[simp] theorem setGroup_hostSubmits (s : State) (t g : Nat) (x : Group) : (setGroup s t g x).hostSubmits = s.hostSubmits := rfl
@[simp] theorem setGroup_tlb (s : State) (t g : Nat) (x : Group) : (setGroup s t g x).tlb = s.tlb := rfl
@[simp] theorem setGroup_ports (s : State) (t g : Nat) (x : Group) : (setGroup s t g x).ports = s.ports := rfl
@[simp] theorem setGroup_conns (s : State) (t g : Nat) (x : Group) : (setGroup s t g x).conns = s.conns := rfl
@[simp] theorem setGroup_delivered (s : State) (t g : Nat) (x : Group) : (setGroup s t g x).delivered = s.delivered := rfl
@[simp] theorem setGroup_rxConsumed (s : State) (t g : Nat) (x : Group) : (setGroup s t g x).rxConsumed = s.rxConsumed := rfl
@[simp] theorem setGroup_rxProduced (s : State) (t g : Nat) (x : Group) : (setGroup s t g x).rxProduced = s.rxProduced := rfl
@[simp] theorem setGroup_host (s : State) (t g : Nat) (x : Group) : (setGroup s t g x).host = s.host := rfl
@[simp] theorem setGroup_links (s : State) (t g : Nat) (x : Group) : (setGroup s t g x).links = s.links := rfl
@[simp] theorem setGroup_rim (s : State) (t g : Nat) (x : Group) : (setGroup s t g x).rim = s.rim := rfl
@[simp] theorem setGroup_uszon (s : State) (t g : Nat) (x : Group) : (setGroup s t g x).uszon = s.uszon := rfl
@[simp] theorem setGroup_flash (s : State) (t g : Nat) (x : Group) : (setGroup s t g x).flash = s.flash := rfl
@[simp] theorem setGroup_side (s : State) (t g : Nat) (x : Group) : (setGroup s t g x).side = s.side := rfl
@[simp] theorem setGroup_jtag (s : State) (t g : Nat) (x : Group) : (setGroup s t g x).jtag = s.jtag := rfl
@[simp] theorem setGroup_nextId (s : State) (t g : Nat) (x : Group) : (setGroup s t g x).nextId = s.nextId := rfl
@[simp] theorem setGroup_freeCount (s : State) (t g : Nat) (x : Group) : (setGroup s t g x).freeCount = s.freeCount := rfl
@[simp] theorem setGroup_pending (s : State) (t g : Nat) (x : Group) : (setGroup s t g x).pending = s.pending := rfl

@[simp] theorem setDcc_regs (s : State) (k : Nat) (x : DieCache) : (setDcc s k x).regs = s.regs := rfl
@[simp] theorem setDcc_master (s : State) (k : Nat) (x : DieCache) : (setDcc s k x).master = s.master := rfl
@[simp] theorem setDcc_copies (s : State) (k : Nat) (x : DieCache) : (setDcc s k x).copies = s.copies := rfl
@[simp] theorem setDcc_copyHeld (s : State) (k : Nat) (x : DieCache) : (setDcc s k x).copyHeld = s.copyHeld := rfl
@[simp] theorem setDcc_pins (s : State) (k : Nat) (x : DieCache) : (setDcc s k x).pins = s.pins := rfl
@[simp] theorem setDcc_holds (s : State) (k : Nat) (x : DieCache) : (setDcc s k x).holds = s.holds := rfl
@[simp] theorem setDcc_tiles (s : State) (k : Nat) (x : DieCache) : (setDcc s k x).tiles = s.tiles := rfl
@[simp] theorem setDcc_tileClocks (s : State) (k : Nat) (x : DieCache) : (setDcc s k x).tileClocks = s.tileClocks := rfl
@[simp] theorem setDcc_l1Fills (s : State) (k : Nat) (x : DieCache) : (setDcc s k x).l1Fills = s.l1Fills := rfl
@[simp] theorem setDcc_dccFills (s : State) (k : Nat) (x : DieCache) : (setDcc s k x).dccFills = s.dccFills := rfl
@[simp] theorem setDcc_grottos (s : State) (k : Nat) (x : DieCache) : (setDcc s k x).grottos = s.grottos := rfl
@[simp] theorem setDcc_mem (s : State) (k : Nat) (x : DieCache) : (setDcc s k x).mem = s.mem := rfl
@[simp] theorem setDcc_memPoison (s : State) (k : Nat) (x : DieCache) : (setDcc s k x).memPoison = s.memPoison := rfl
@[simp] theorem setDcc_memErrs (s : State) (k : Nat) (x : DieCache) : (setDcc s k x).memErrs = s.memErrs := rfl
@[simp] theorem setDcc_homes (s : State) (k : Nat) (x : DieCache) : (setDcc s k x).homes = s.homes := rfl
@[simp] theorem setDcc_answers (s : State) (k : Nat) (x : DieCache) : (setDcc s k x).answers = s.answers := rfl
@[simp] theorem setDcc_tileAnswers (s : State) (k : Nat) (x : DieCache) : (setDcc s k x).tileAnswers = s.tileAnswers := rfl
@[simp] theorem setDcc_eccCorrected (s : State) (k : Nat) (x : DieCache) : (setDcc s k x).eccCorrected = s.eccCorrected := rfl
@[simp] theorem setDcc_dir (s : State) (k : Nat) (x : DieCache) : (setDcc s k x).dir = s.dir := rfl
@[simp] theorem setDcc_txns (s : State) (k : Nat) (x : DieCache) : (setDcc s k x).txns = s.txns := rfl
@[simp] theorem setDcc_cohNet (s : State) (k : Nat) (x : DieCache) : (setDcc s k x).cohNet = s.cohNet := rfl
@[simp] theorem setDcc_caches (s : State) (k : Nat) (x : DieCache) : (setDcc s k x).caches = s.caches := rfl
@[simp] theorem setDcc_wbBuf (s : State) (k : Nat) (x : DieCache) : (setDcc s k x).wbBuf = s.wbBuf := rfl
@[simp] theorem setDcc_predictor (s : State) (k : Nat) (x : DieCache) : (setDcc s k x).predictor = s.predictor := rfl
@[simp] theorem setDcc_amoResults (s : State) (k : Nat) (x : DieCache) : (setDcc s k x).amoResults = s.amoResults := rfl
@[simp] theorem setDcc_cores (s : State) (k : Nat) (x : DieCache) : (setDcc s k x).cores = s.cores := rfl
@[simp] theorem setDcc_heldStacks (s : State) (k : Nat) (x : DieCache) : (setDcc s k x).heldStacks = s.heldStacks := rfl
@[simp] theorem setDcc_lossFenced (s : State) (k : Nat) (x : DieCache) : (setDcc s k x).lossFenced = s.lossFenced := rfl
@[simp] theorem setDcc_holdDies (s : State) (k : Nat) (x : DieCache) : (setDcc s k x).holdDies = s.holdDies := rfl
@[simp] theorem setDcc_gatedQuads (s : State) (k : Nat) (x : DieCache) : (setDcc s k x).gatedQuads = s.gatedQuads := rfl
@[simp] theorem setDcc_jobs (s : State) (k : Nat) (x : DieCache) : (setDcc s k x).jobs = s.jobs := rfl
@[simp] theorem setDcc_rrNext (s : State) (k : Nat) (x : DieCache) : (setDcc s k x).rrNext = s.rrNext := rfl
@[simp] theorem setDcc_hostSubmits (s : State) (k : Nat) (x : DieCache) : (setDcc s k x).hostSubmits = s.hostSubmits := rfl
@[simp] theorem setDcc_tlb (s : State) (k : Nat) (x : DieCache) : (setDcc s k x).tlb = s.tlb := rfl
@[simp] theorem setDcc_ports (s : State) (k : Nat) (x : DieCache) : (setDcc s k x).ports = s.ports := rfl
@[simp] theorem setDcc_conns (s : State) (k : Nat) (x : DieCache) : (setDcc s k x).conns = s.conns := rfl
@[simp] theorem setDcc_delivered (s : State) (k : Nat) (x : DieCache) : (setDcc s k x).delivered = s.delivered := rfl
@[simp] theorem setDcc_rxConsumed (s : State) (k : Nat) (x : DieCache) : (setDcc s k x).rxConsumed = s.rxConsumed := rfl
@[simp] theorem setDcc_rxProduced (s : State) (k : Nat) (x : DieCache) : (setDcc s k x).rxProduced = s.rxProduced := rfl
@[simp] theorem setDcc_host (s : State) (k : Nat) (x : DieCache) : (setDcc s k x).host = s.host := rfl
@[simp] theorem setDcc_links (s : State) (k : Nat) (x : DieCache) : (setDcc s k x).links = s.links := rfl
@[simp] theorem setDcc_rim (s : State) (k : Nat) (x : DieCache) : (setDcc s k x).rim = s.rim := rfl
@[simp] theorem setDcc_uszon (s : State) (k : Nat) (x : DieCache) : (setDcc s k x).uszon = s.uszon := rfl
@[simp] theorem setDcc_flash (s : State) (k : Nat) (x : DieCache) : (setDcc s k x).flash = s.flash := rfl
@[simp] theorem setDcc_side (s : State) (k : Nat) (x : DieCache) : (setDcc s k x).side = s.side := rfl
@[simp] theorem setDcc_jtag (s : State) (k : Nat) (x : DieCache) : (setDcc s k x).jtag = s.jtag := rfl
@[simp] theorem setDcc_nextId (s : State) (k : Nat) (x : DieCache) : (setDcc s k x).nextId = s.nextId := rfl
@[simp] theorem setDcc_freeCount (s : State) (k : Nat) (x : DieCache) : (setDcc s k x).freeCount = s.freeCount := rfl
@[simp] theorem setDcc_pending (s : State) (k : Nat) (x : DieCache) : (setDcc s k x).pending = s.pending := rfl

@[simp] theorem setGrotto_regs (s : State) (k : Nat) (x : Grotto) : (setGrotto s k x).regs = s.regs := rfl
@[simp] theorem setGrotto_master (s : State) (k : Nat) (x : Grotto) : (setGrotto s k x).master = s.master := rfl
@[simp] theorem setGrotto_copies (s : State) (k : Nat) (x : Grotto) : (setGrotto s k x).copies = s.copies := rfl
@[simp] theorem setGrotto_copyHeld (s : State) (k : Nat) (x : Grotto) : (setGrotto s k x).copyHeld = s.copyHeld := rfl
@[simp] theorem setGrotto_pins (s : State) (k : Nat) (x : Grotto) : (setGrotto s k x).pins = s.pins := rfl
@[simp] theorem setGrotto_holds (s : State) (k : Nat) (x : Grotto) : (setGrotto s k x).holds = s.holds := rfl
@[simp] theorem setGrotto_tiles (s : State) (k : Nat) (x : Grotto) : (setGrotto s k x).tiles = s.tiles := rfl
@[simp] theorem setGrotto_tileClocks (s : State) (k : Nat) (x : Grotto) : (setGrotto s k x).tileClocks = s.tileClocks := rfl
@[simp] theorem setGrotto_dcc (s : State) (k : Nat) (x : Grotto) : (setGrotto s k x).dcc = s.dcc := rfl
@[simp] theorem setGrotto_l1Fills (s : State) (k : Nat) (x : Grotto) : (setGrotto s k x).l1Fills = s.l1Fills := rfl
@[simp] theorem setGrotto_dccFills (s : State) (k : Nat) (x : Grotto) : (setGrotto s k x).dccFills = s.dccFills := rfl
@[simp] theorem setGrotto_mem (s : State) (k : Nat) (x : Grotto) : (setGrotto s k x).mem = s.mem := rfl
@[simp] theorem setGrotto_memPoison (s : State) (k : Nat) (x : Grotto) : (setGrotto s k x).memPoison = s.memPoison := rfl
@[simp] theorem setGrotto_memErrs (s : State) (k : Nat) (x : Grotto) : (setGrotto s k x).memErrs = s.memErrs := rfl
@[simp] theorem setGrotto_homes (s : State) (k : Nat) (x : Grotto) : (setGrotto s k x).homes = s.homes := rfl
@[simp] theorem setGrotto_answers (s : State) (k : Nat) (x : Grotto) : (setGrotto s k x).answers = s.answers := rfl
@[simp] theorem setGrotto_tileAnswers (s : State) (k : Nat) (x : Grotto) : (setGrotto s k x).tileAnswers = s.tileAnswers := rfl
@[simp] theorem setGrotto_eccCorrected (s : State) (k : Nat) (x : Grotto) : (setGrotto s k x).eccCorrected = s.eccCorrected := rfl
@[simp] theorem setGrotto_dir (s : State) (k : Nat) (x : Grotto) : (setGrotto s k x).dir = s.dir := rfl
@[simp] theorem setGrotto_txns (s : State) (k : Nat) (x : Grotto) : (setGrotto s k x).txns = s.txns := rfl
@[simp] theorem setGrotto_cohNet (s : State) (k : Nat) (x : Grotto) : (setGrotto s k x).cohNet = s.cohNet := rfl
@[simp] theorem setGrotto_caches (s : State) (k : Nat) (x : Grotto) : (setGrotto s k x).caches = s.caches := rfl
@[simp] theorem setGrotto_wbBuf (s : State) (k : Nat) (x : Grotto) : (setGrotto s k x).wbBuf = s.wbBuf := rfl
@[simp] theorem setGrotto_predictor (s : State) (k : Nat) (x : Grotto) : (setGrotto s k x).predictor = s.predictor := rfl
@[simp] theorem setGrotto_amoResults (s : State) (k : Nat) (x : Grotto) : (setGrotto s k x).amoResults = s.amoResults := rfl
@[simp] theorem setGrotto_cores (s : State) (k : Nat) (x : Grotto) : (setGrotto s k x).cores = s.cores := rfl
@[simp] theorem setGrotto_heldStacks (s : State) (k : Nat) (x : Grotto) : (setGrotto s k x).heldStacks = s.heldStacks := rfl
@[simp] theorem setGrotto_lossFenced (s : State) (k : Nat) (x : Grotto) : (setGrotto s k x).lossFenced = s.lossFenced := rfl
@[simp] theorem setGrotto_holdDies (s : State) (k : Nat) (x : Grotto) : (setGrotto s k x).holdDies = s.holdDies := rfl
@[simp] theorem setGrotto_gatedQuads (s : State) (k : Nat) (x : Grotto) : (setGrotto s k x).gatedQuads = s.gatedQuads := rfl
@[simp] theorem setGrotto_jobs (s : State) (k : Nat) (x : Grotto) : (setGrotto s k x).jobs = s.jobs := rfl
@[simp] theorem setGrotto_rrNext (s : State) (k : Nat) (x : Grotto) : (setGrotto s k x).rrNext = s.rrNext := rfl
@[simp] theorem setGrotto_hostSubmits (s : State) (k : Nat) (x : Grotto) : (setGrotto s k x).hostSubmits = s.hostSubmits := rfl
@[simp] theorem setGrotto_tlb (s : State) (k : Nat) (x : Grotto) : (setGrotto s k x).tlb = s.tlb := rfl
@[simp] theorem setGrotto_ports (s : State) (k : Nat) (x : Grotto) : (setGrotto s k x).ports = s.ports := rfl
@[simp] theorem setGrotto_conns (s : State) (k : Nat) (x : Grotto) : (setGrotto s k x).conns = s.conns := rfl
@[simp] theorem setGrotto_delivered (s : State) (k : Nat) (x : Grotto) : (setGrotto s k x).delivered = s.delivered := rfl
@[simp] theorem setGrotto_rxConsumed (s : State) (k : Nat) (x : Grotto) : (setGrotto s k x).rxConsumed = s.rxConsumed := rfl
@[simp] theorem setGrotto_rxProduced (s : State) (k : Nat) (x : Grotto) : (setGrotto s k x).rxProduced = s.rxProduced := rfl
@[simp] theorem setGrotto_host (s : State) (k : Nat) (x : Grotto) : (setGrotto s k x).host = s.host := rfl
@[simp] theorem setGrotto_links (s : State) (k : Nat) (x : Grotto) : (setGrotto s k x).links = s.links := rfl
@[simp] theorem setGrotto_rim (s : State) (k : Nat) (x : Grotto) : (setGrotto s k x).rim = s.rim := rfl
@[simp] theorem setGrotto_uszon (s : State) (k : Nat) (x : Grotto) : (setGrotto s k x).uszon = s.uszon := rfl
@[simp] theorem setGrotto_flash (s : State) (k : Nat) (x : Grotto) : (setGrotto s k x).flash = s.flash := rfl
@[simp] theorem setGrotto_side (s : State) (k : Nat) (x : Grotto) : (setGrotto s k x).side = s.side := rfl
@[simp] theorem setGrotto_jtag (s : State) (k : Nat) (x : Grotto) : (setGrotto s k x).jtag = s.jtag := rfl
@[simp] theorem setGrotto_nextId (s : State) (k : Nat) (x : Grotto) : (setGrotto s k x).nextId = s.nextId := rfl
@[simp] theorem setGrotto_freeCount (s : State) (k : Nat) (x : Grotto) : (setGrotto s k x).freeCount = s.freeCount := rfl
@[simp] theorem setGrotto_pending (s : State) (k : Nat) (x : Grotto) : (setGrotto s k x).pending = s.pending := rfl

@[simp] theorem setQueue_regs (s : State) (k n : Nat) (x : Queue) : (setQueue s k n x).regs = s.regs := rfl
@[simp] theorem setQueue_master (s : State) (k n : Nat) (x : Queue) : (setQueue s k n x).master = s.master := rfl
@[simp] theorem setQueue_copies (s : State) (k n : Nat) (x : Queue) : (setQueue s k n x).copies = s.copies := rfl
@[simp] theorem setQueue_copyHeld (s : State) (k n : Nat) (x : Queue) : (setQueue s k n x).copyHeld = s.copyHeld := rfl
@[simp] theorem setQueue_pins (s : State) (k n : Nat) (x : Queue) : (setQueue s k n x).pins = s.pins := rfl
@[simp] theorem setQueue_holds (s : State) (k n : Nat) (x : Queue) : (setQueue s k n x).holds = s.holds := rfl
@[simp] theorem setQueue_tiles (s : State) (k n : Nat) (x : Queue) : (setQueue s k n x).tiles = s.tiles := rfl
@[simp] theorem setQueue_tileClocks (s : State) (k n : Nat) (x : Queue) : (setQueue s k n x).tileClocks = s.tileClocks := rfl
@[simp] theorem setQueue_dcc (s : State) (k n : Nat) (x : Queue) : (setQueue s k n x).dcc = s.dcc := rfl
@[simp] theorem setQueue_l1Fills (s : State) (k n : Nat) (x : Queue) : (setQueue s k n x).l1Fills = s.l1Fills := rfl
@[simp] theorem setQueue_dccFills (s : State) (k n : Nat) (x : Queue) : (setQueue s k n x).dccFills = s.dccFills := rfl
@[simp] theorem setQueue_mem (s : State) (k n : Nat) (x : Queue) : (setQueue s k n x).mem = s.mem := rfl
@[simp] theorem setQueue_memPoison (s : State) (k n : Nat) (x : Queue) : (setQueue s k n x).memPoison = s.memPoison := rfl
@[simp] theorem setQueue_memErrs (s : State) (k n : Nat) (x : Queue) : (setQueue s k n x).memErrs = s.memErrs := rfl
@[simp] theorem setQueue_homes (s : State) (k n : Nat) (x : Queue) : (setQueue s k n x).homes = s.homes := rfl
@[simp] theorem setQueue_answers (s : State) (k n : Nat) (x : Queue) : (setQueue s k n x).answers = s.answers := rfl
@[simp] theorem setQueue_tileAnswers (s : State) (k n : Nat) (x : Queue) : (setQueue s k n x).tileAnswers = s.tileAnswers := rfl
@[simp] theorem setQueue_eccCorrected (s : State) (k n : Nat) (x : Queue) : (setQueue s k n x).eccCorrected = s.eccCorrected := rfl
@[simp] theorem setQueue_dir (s : State) (k n : Nat) (x : Queue) : (setQueue s k n x).dir = s.dir := rfl
@[simp] theorem setQueue_txns (s : State) (k n : Nat) (x : Queue) : (setQueue s k n x).txns = s.txns := rfl
@[simp] theorem setQueue_cohNet (s : State) (k n : Nat) (x : Queue) : (setQueue s k n x).cohNet = s.cohNet := rfl
@[simp] theorem setQueue_caches (s : State) (k n : Nat) (x : Queue) : (setQueue s k n x).caches = s.caches := rfl
@[simp] theorem setQueue_wbBuf (s : State) (k n : Nat) (x : Queue) : (setQueue s k n x).wbBuf = s.wbBuf := rfl
@[simp] theorem setQueue_predictor (s : State) (k n : Nat) (x : Queue) : (setQueue s k n x).predictor = s.predictor := rfl
@[simp] theorem setQueue_amoResults (s : State) (k n : Nat) (x : Queue) : (setQueue s k n x).amoResults = s.amoResults := rfl
@[simp] theorem setQueue_cores (s : State) (k n : Nat) (x : Queue) : (setQueue s k n x).cores = s.cores := rfl
@[simp] theorem setQueue_heldStacks (s : State) (k n : Nat) (x : Queue) : (setQueue s k n x).heldStacks = s.heldStacks := rfl
@[simp] theorem setQueue_lossFenced (s : State) (k n : Nat) (x : Queue) : (setQueue s k n x).lossFenced = s.lossFenced := rfl
@[simp] theorem setQueue_holdDies (s : State) (k n : Nat) (x : Queue) : (setQueue s k n x).holdDies = s.holdDies := rfl
@[simp] theorem setQueue_gatedQuads (s : State) (k n : Nat) (x : Queue) : (setQueue s k n x).gatedQuads = s.gatedQuads := rfl
@[simp] theorem setQueue_jobs (s : State) (k n : Nat) (x : Queue) : (setQueue s k n x).jobs = s.jobs := rfl
@[simp] theorem setQueue_rrNext (s : State) (k n : Nat) (x : Queue) : (setQueue s k n x).rrNext = s.rrNext := rfl
@[simp] theorem setQueue_hostSubmits (s : State) (k n : Nat) (x : Queue) : (setQueue s k n x).hostSubmits = s.hostSubmits := rfl
@[simp] theorem setQueue_tlb (s : State) (k n : Nat) (x : Queue) : (setQueue s k n x).tlb = s.tlb := rfl
@[simp] theorem setQueue_ports (s : State) (k n : Nat) (x : Queue) : (setQueue s k n x).ports = s.ports := rfl
@[simp] theorem setQueue_conns (s : State) (k n : Nat) (x : Queue) : (setQueue s k n x).conns = s.conns := rfl
@[simp] theorem setQueue_delivered (s : State) (k n : Nat) (x : Queue) : (setQueue s k n x).delivered = s.delivered := rfl
@[simp] theorem setQueue_rxConsumed (s : State) (k n : Nat) (x : Queue) : (setQueue s k n x).rxConsumed = s.rxConsumed := rfl
@[simp] theorem setQueue_rxProduced (s : State) (k n : Nat) (x : Queue) : (setQueue s k n x).rxProduced = s.rxProduced := rfl
@[simp] theorem setQueue_host (s : State) (k n : Nat) (x : Queue) : (setQueue s k n x).host = s.host := rfl
@[simp] theorem setQueue_links (s : State) (k n : Nat) (x : Queue) : (setQueue s k n x).links = s.links := rfl
@[simp] theorem setQueue_rim (s : State) (k n : Nat) (x : Queue) : (setQueue s k n x).rim = s.rim := rfl
@[simp] theorem setQueue_uszon (s : State) (k n : Nat) (x : Queue) : (setQueue s k n x).uszon = s.uszon := rfl
@[simp] theorem setQueue_flash (s : State) (k n : Nat) (x : Queue) : (setQueue s k n x).flash = s.flash := rfl
@[simp] theorem setQueue_side (s : State) (k n : Nat) (x : Queue) : (setQueue s k n x).side = s.side := rfl
@[simp] theorem setQueue_jtag (s : State) (k n : Nat) (x : Queue) : (setQueue s k n x).jtag = s.jtag := rfl
@[simp] theorem setQueue_nextId (s : State) (k n : Nat) (x : Queue) : (setQueue s k n x).nextId = s.nextId := rfl
@[simp] theorem setQueue_freeCount (s : State) (k n : Nat) (x : Queue) : (setQueue s k n x).freeCount = s.freeCount := rfl
@[simp] theorem setQueue_pending (s : State) (k n : Nat) (x : Queue) : (setQueue s k n x).pending = s.pending := rfl

@[simp] theorem setHome_regs (s : State) (h : Nat) (x : HomeSt) : (setHome s h x).regs = s.regs := rfl
@[simp] theorem setHome_master (s : State) (h : Nat) (x : HomeSt) : (setHome s h x).master = s.master := rfl
@[simp] theorem setHome_copies (s : State) (h : Nat) (x : HomeSt) : (setHome s h x).copies = s.copies := rfl
@[simp] theorem setHome_copyHeld (s : State) (h : Nat) (x : HomeSt) : (setHome s h x).copyHeld = s.copyHeld := rfl
@[simp] theorem setHome_pins (s : State) (h : Nat) (x : HomeSt) : (setHome s h x).pins = s.pins := rfl
@[simp] theorem setHome_holds (s : State) (h : Nat) (x : HomeSt) : (setHome s h x).holds = s.holds := rfl
@[simp] theorem setHome_tiles (s : State) (h : Nat) (x : HomeSt) : (setHome s h x).tiles = s.tiles := rfl
@[simp] theorem setHome_tileClocks (s : State) (h : Nat) (x : HomeSt) : (setHome s h x).tileClocks = s.tileClocks := rfl
@[simp] theorem setHome_dcc (s : State) (h : Nat) (x : HomeSt) : (setHome s h x).dcc = s.dcc := rfl
@[simp] theorem setHome_l1Fills (s : State) (h : Nat) (x : HomeSt) : (setHome s h x).l1Fills = s.l1Fills := rfl
@[simp] theorem setHome_dccFills (s : State) (h : Nat) (x : HomeSt) : (setHome s h x).dccFills = s.dccFills := rfl
@[simp] theorem setHome_grottos (s : State) (h : Nat) (x : HomeSt) : (setHome s h x).grottos = s.grottos := rfl
@[simp] theorem setHome_mem (s : State) (h : Nat) (x : HomeSt) : (setHome s h x).mem = s.mem := rfl
@[simp] theorem setHome_memPoison (s : State) (h : Nat) (x : HomeSt) : (setHome s h x).memPoison = s.memPoison := rfl
@[simp] theorem setHome_memErrs (s : State) (h : Nat) (x : HomeSt) : (setHome s h x).memErrs = s.memErrs := rfl
@[simp] theorem setHome_answers (s : State) (h : Nat) (x : HomeSt) : (setHome s h x).answers = s.answers := rfl
@[simp] theorem setHome_tileAnswers (s : State) (h : Nat) (x : HomeSt) : (setHome s h x).tileAnswers = s.tileAnswers := rfl
@[simp] theorem setHome_eccCorrected (s : State) (h : Nat) (x : HomeSt) : (setHome s h x).eccCorrected = s.eccCorrected := rfl
@[simp] theorem setHome_dir (s : State) (h : Nat) (x : HomeSt) : (setHome s h x).dir = s.dir := rfl
@[simp] theorem setHome_txns (s : State) (h : Nat) (x : HomeSt) : (setHome s h x).txns = s.txns := rfl
@[simp] theorem setHome_cohNet (s : State) (h : Nat) (x : HomeSt) : (setHome s h x).cohNet = s.cohNet := rfl
@[simp] theorem setHome_caches (s : State) (h : Nat) (x : HomeSt) : (setHome s h x).caches = s.caches := rfl
@[simp] theorem setHome_wbBuf (s : State) (h : Nat) (x : HomeSt) : (setHome s h x).wbBuf = s.wbBuf := rfl
@[simp] theorem setHome_predictor (s : State) (h : Nat) (x : HomeSt) : (setHome s h x).predictor = s.predictor := rfl
@[simp] theorem setHome_amoResults (s : State) (h : Nat) (x : HomeSt) : (setHome s h x).amoResults = s.amoResults := rfl
@[simp] theorem setHome_cores (s : State) (h : Nat) (x : HomeSt) : (setHome s h x).cores = s.cores := rfl
@[simp] theorem setHome_heldStacks (s : State) (h : Nat) (x : HomeSt) : (setHome s h x).heldStacks = s.heldStacks := rfl
@[simp] theorem setHome_lossFenced (s : State) (h : Nat) (x : HomeSt) : (setHome s h x).lossFenced = s.lossFenced := rfl
@[simp] theorem setHome_holdDies (s : State) (h : Nat) (x : HomeSt) : (setHome s h x).holdDies = s.holdDies := rfl
@[simp] theorem setHome_gatedQuads (s : State) (h : Nat) (x : HomeSt) : (setHome s h x).gatedQuads = s.gatedQuads := rfl
@[simp] theorem setHome_jobs (s : State) (h : Nat) (x : HomeSt) : (setHome s h x).jobs = s.jobs := rfl
@[simp] theorem setHome_rrNext (s : State) (h : Nat) (x : HomeSt) : (setHome s h x).rrNext = s.rrNext := rfl
@[simp] theorem setHome_hostSubmits (s : State) (h : Nat) (x : HomeSt) : (setHome s h x).hostSubmits = s.hostSubmits := rfl
@[simp] theorem setHome_tlb (s : State) (h : Nat) (x : HomeSt) : (setHome s h x).tlb = s.tlb := rfl
@[simp] theorem setHome_ports (s : State) (h : Nat) (x : HomeSt) : (setHome s h x).ports = s.ports := rfl
@[simp] theorem setHome_conns (s : State) (h : Nat) (x : HomeSt) : (setHome s h x).conns = s.conns := rfl
@[simp] theorem setHome_delivered (s : State) (h : Nat) (x : HomeSt) : (setHome s h x).delivered = s.delivered := rfl
@[simp] theorem setHome_rxConsumed (s : State) (h : Nat) (x : HomeSt) : (setHome s h x).rxConsumed = s.rxConsumed := rfl
@[simp] theorem setHome_rxProduced (s : State) (h : Nat) (x : HomeSt) : (setHome s h x).rxProduced = s.rxProduced := rfl
@[simp] theorem setHome_host (s : State) (h : Nat) (x : HomeSt) : (setHome s h x).host = s.host := rfl
@[simp] theorem setHome_links (s : State) (h : Nat) (x : HomeSt) : (setHome s h x).links = s.links := rfl
@[simp] theorem setHome_rim (s : State) (h : Nat) (x : HomeSt) : (setHome s h x).rim = s.rim := rfl
@[simp] theorem setHome_uszon (s : State) (h : Nat) (x : HomeSt) : (setHome s h x).uszon = s.uszon := rfl
@[simp] theorem setHome_flash (s : State) (h : Nat) (x : HomeSt) : (setHome s h x).flash = s.flash := rfl
@[simp] theorem setHome_side (s : State) (h : Nat) (x : HomeSt) : (setHome s h x).side = s.side := rfl
@[simp] theorem setHome_jtag (s : State) (h : Nat) (x : HomeSt) : (setHome s h x).jtag = s.jtag := rfl
@[simp] theorem setHome_nextId (s : State) (h : Nat) (x : HomeSt) : (setHome s h x).nextId = s.nextId := rfl
@[simp] theorem setHome_freeCount (s : State) (h : Nat) (x : HomeSt) : (setHome s h x).freeCount = s.freeCount := rfl
@[simp] theorem setHome_pending (s : State) (h : Nat) (x : HomeSt) : (setHome s h x).pending = s.pending := rfl

@[simp] theorem setCopy_regs (s : State) (a l : Nat) (x : CacheLine) : (setCopy s a l x).regs = s.regs := rfl
@[simp] theorem setCopy_master (s : State) (a l : Nat) (x : CacheLine) : (setCopy s a l x).master = s.master := rfl
@[simp] theorem setCopy_copies (s : State) (a l : Nat) (x : CacheLine) : (setCopy s a l x).copies = s.copies := rfl
@[simp] theorem setCopy_copyHeld (s : State) (a l : Nat) (x : CacheLine) : (setCopy s a l x).copyHeld = s.copyHeld := rfl
@[simp] theorem setCopy_pins (s : State) (a l : Nat) (x : CacheLine) : (setCopy s a l x).pins = s.pins := rfl
@[simp] theorem setCopy_holds (s : State) (a l : Nat) (x : CacheLine) : (setCopy s a l x).holds = s.holds := rfl
@[simp] theorem setCopy_tiles (s : State) (a l : Nat) (x : CacheLine) : (setCopy s a l x).tiles = s.tiles := rfl
@[simp] theorem setCopy_tileClocks (s : State) (a l : Nat) (x : CacheLine) : (setCopy s a l x).tileClocks = s.tileClocks := rfl
@[simp] theorem setCopy_dcc (s : State) (a l : Nat) (x : CacheLine) : (setCopy s a l x).dcc = s.dcc := rfl
@[simp] theorem setCopy_l1Fills (s : State) (a l : Nat) (x : CacheLine) : (setCopy s a l x).l1Fills = s.l1Fills := rfl
@[simp] theorem setCopy_dccFills (s : State) (a l : Nat) (x : CacheLine) : (setCopy s a l x).dccFills = s.dccFills := rfl
@[simp] theorem setCopy_grottos (s : State) (a l : Nat) (x : CacheLine) : (setCopy s a l x).grottos = s.grottos := rfl
@[simp] theorem setCopy_mem (s : State) (a l : Nat) (x : CacheLine) : (setCopy s a l x).mem = s.mem := rfl
@[simp] theorem setCopy_memPoison (s : State) (a l : Nat) (x : CacheLine) : (setCopy s a l x).memPoison = s.memPoison := rfl
@[simp] theorem setCopy_memErrs (s : State) (a l : Nat) (x : CacheLine) : (setCopy s a l x).memErrs = s.memErrs := rfl
@[simp] theorem setCopy_homes (s : State) (a l : Nat) (x : CacheLine) : (setCopy s a l x).homes = s.homes := rfl
@[simp] theorem setCopy_answers (s : State) (a l : Nat) (x : CacheLine) : (setCopy s a l x).answers = s.answers := rfl
@[simp] theorem setCopy_tileAnswers (s : State) (a l : Nat) (x : CacheLine) : (setCopy s a l x).tileAnswers = s.tileAnswers := rfl
@[simp] theorem setCopy_eccCorrected (s : State) (a l : Nat) (x : CacheLine) : (setCopy s a l x).eccCorrected = s.eccCorrected := rfl
@[simp] theorem setCopy_dir (s : State) (a l : Nat) (x : CacheLine) : (setCopy s a l x).dir = s.dir := rfl
@[simp] theorem setCopy_txns (s : State) (a l : Nat) (x : CacheLine) : (setCopy s a l x).txns = s.txns := rfl
@[simp] theorem setCopy_cohNet (s : State) (a l : Nat) (x : CacheLine) : (setCopy s a l x).cohNet = s.cohNet := rfl
@[simp] theorem setCopy_wbBuf (s : State) (a l : Nat) (x : CacheLine) : (setCopy s a l x).wbBuf = s.wbBuf := rfl
@[simp] theorem setCopy_predictor (s : State) (a l : Nat) (x : CacheLine) : (setCopy s a l x).predictor = s.predictor := rfl
@[simp] theorem setCopy_amoResults (s : State) (a l : Nat) (x : CacheLine) : (setCopy s a l x).amoResults = s.amoResults := rfl
@[simp] theorem setCopy_cores (s : State) (a l : Nat) (x : CacheLine) : (setCopy s a l x).cores = s.cores := rfl
@[simp] theorem setCopy_heldStacks (s : State) (a l : Nat) (x : CacheLine) : (setCopy s a l x).heldStacks = s.heldStacks := rfl
@[simp] theorem setCopy_lossFenced (s : State) (a l : Nat) (x : CacheLine) : (setCopy s a l x).lossFenced = s.lossFenced := rfl
@[simp] theorem setCopy_holdDies (s : State) (a l : Nat) (x : CacheLine) : (setCopy s a l x).holdDies = s.holdDies := rfl
@[simp] theorem setCopy_gatedQuads (s : State) (a l : Nat) (x : CacheLine) : (setCopy s a l x).gatedQuads = s.gatedQuads := rfl
@[simp] theorem setCopy_jobs (s : State) (a l : Nat) (x : CacheLine) : (setCopy s a l x).jobs = s.jobs := rfl
@[simp] theorem setCopy_rrNext (s : State) (a l : Nat) (x : CacheLine) : (setCopy s a l x).rrNext = s.rrNext := rfl
@[simp] theorem setCopy_hostSubmits (s : State) (a l : Nat) (x : CacheLine) : (setCopy s a l x).hostSubmits = s.hostSubmits := rfl
@[simp] theorem setCopy_tlb (s : State) (a l : Nat) (x : CacheLine) : (setCopy s a l x).tlb = s.tlb := rfl
@[simp] theorem setCopy_ports (s : State) (a l : Nat) (x : CacheLine) : (setCopy s a l x).ports = s.ports := rfl
@[simp] theorem setCopy_conns (s : State) (a l : Nat) (x : CacheLine) : (setCopy s a l x).conns = s.conns := rfl
@[simp] theorem setCopy_delivered (s : State) (a l : Nat) (x : CacheLine) : (setCopy s a l x).delivered = s.delivered := rfl
@[simp] theorem setCopy_rxConsumed (s : State) (a l : Nat) (x : CacheLine) : (setCopy s a l x).rxConsumed = s.rxConsumed := rfl
@[simp] theorem setCopy_rxProduced (s : State) (a l : Nat) (x : CacheLine) : (setCopy s a l x).rxProduced = s.rxProduced := rfl
@[simp] theorem setCopy_host (s : State) (a l : Nat) (x : CacheLine) : (setCopy s a l x).host = s.host := rfl
@[simp] theorem setCopy_links (s : State) (a l : Nat) (x : CacheLine) : (setCopy s a l x).links = s.links := rfl
@[simp] theorem setCopy_rim (s : State) (a l : Nat) (x : CacheLine) : (setCopy s a l x).rim = s.rim := rfl
@[simp] theorem setCopy_uszon (s : State) (a l : Nat) (x : CacheLine) : (setCopy s a l x).uszon = s.uszon := rfl
@[simp] theorem setCopy_flash (s : State) (a l : Nat) (x : CacheLine) : (setCopy s a l x).flash = s.flash := rfl
@[simp] theorem setCopy_side (s : State) (a l : Nat) (x : CacheLine) : (setCopy s a l x).side = s.side := rfl
@[simp] theorem setCopy_jtag (s : State) (a l : Nat) (x : CacheLine) : (setCopy s a l x).jtag = s.jtag := rfl
@[simp] theorem setCopy_nextId (s : State) (a l : Nat) (x : CacheLine) : (setCopy s a l x).nextId = s.nextId := rfl
@[simp] theorem setCopy_freeCount (s : State) (a l : Nat) (x : CacheLine) : (setCopy s a l x).freeCount = s.freeCount := rfl
@[simp] theorem setCopy_pending (s : State) (a l : Nat) (x : CacheLine) : (setCopy s a l x).pending = s.pending := rfl

@[simp] theorem setTxn_regs (s : State) (l : Nat) (x : Txn) : (setTxn s l x).regs = s.regs := rfl
@[simp] theorem setTxn_master (s : State) (l : Nat) (x : Txn) : (setTxn s l x).master = s.master := rfl
@[simp] theorem setTxn_copies (s : State) (l : Nat) (x : Txn) : (setTxn s l x).copies = s.copies := rfl
@[simp] theorem setTxn_copyHeld (s : State) (l : Nat) (x : Txn) : (setTxn s l x).copyHeld = s.copyHeld := rfl
@[simp] theorem setTxn_pins (s : State) (l : Nat) (x : Txn) : (setTxn s l x).pins = s.pins := rfl
@[simp] theorem setTxn_holds (s : State) (l : Nat) (x : Txn) : (setTxn s l x).holds = s.holds := rfl
@[simp] theorem setTxn_tiles (s : State) (l : Nat) (x : Txn) : (setTxn s l x).tiles = s.tiles := rfl
@[simp] theorem setTxn_tileClocks (s : State) (l : Nat) (x : Txn) : (setTxn s l x).tileClocks = s.tileClocks := rfl
@[simp] theorem setTxn_dcc (s : State) (l : Nat) (x : Txn) : (setTxn s l x).dcc = s.dcc := rfl
@[simp] theorem setTxn_l1Fills (s : State) (l : Nat) (x : Txn) : (setTxn s l x).l1Fills = s.l1Fills := rfl
@[simp] theorem setTxn_dccFills (s : State) (l : Nat) (x : Txn) : (setTxn s l x).dccFills = s.dccFills := rfl
@[simp] theorem setTxn_grottos (s : State) (l : Nat) (x : Txn) : (setTxn s l x).grottos = s.grottos := rfl
@[simp] theorem setTxn_mem (s : State) (l : Nat) (x : Txn) : (setTxn s l x).mem = s.mem := rfl
@[simp] theorem setTxn_memPoison (s : State) (l : Nat) (x : Txn) : (setTxn s l x).memPoison = s.memPoison := rfl
@[simp] theorem setTxn_memErrs (s : State) (l : Nat) (x : Txn) : (setTxn s l x).memErrs = s.memErrs := rfl
@[simp] theorem setTxn_homes (s : State) (l : Nat) (x : Txn) : (setTxn s l x).homes = s.homes := rfl
@[simp] theorem setTxn_answers (s : State) (l : Nat) (x : Txn) : (setTxn s l x).answers = s.answers := rfl
@[simp] theorem setTxn_tileAnswers (s : State) (l : Nat) (x : Txn) : (setTxn s l x).tileAnswers = s.tileAnswers := rfl
@[simp] theorem setTxn_eccCorrected (s : State) (l : Nat) (x : Txn) : (setTxn s l x).eccCorrected = s.eccCorrected := rfl
@[simp] theorem setTxn_dir (s : State) (l : Nat) (x : Txn) : (setTxn s l x).dir = s.dir := rfl
@[simp] theorem setTxn_cohNet (s : State) (l : Nat) (x : Txn) : (setTxn s l x).cohNet = s.cohNet := rfl
@[simp] theorem setTxn_caches (s : State) (l : Nat) (x : Txn) : (setTxn s l x).caches = s.caches := rfl
@[simp] theorem setTxn_wbBuf (s : State) (l : Nat) (x : Txn) : (setTxn s l x).wbBuf = s.wbBuf := rfl
@[simp] theorem setTxn_predictor (s : State) (l : Nat) (x : Txn) : (setTxn s l x).predictor = s.predictor := rfl
@[simp] theorem setTxn_amoResults (s : State) (l : Nat) (x : Txn) : (setTxn s l x).amoResults = s.amoResults := rfl
@[simp] theorem setTxn_cores (s : State) (l : Nat) (x : Txn) : (setTxn s l x).cores = s.cores := rfl
@[simp] theorem setTxn_heldStacks (s : State) (l : Nat) (x : Txn) : (setTxn s l x).heldStacks = s.heldStacks := rfl
@[simp] theorem setTxn_lossFenced (s : State) (l : Nat) (x : Txn) : (setTxn s l x).lossFenced = s.lossFenced := rfl
@[simp] theorem setTxn_holdDies (s : State) (l : Nat) (x : Txn) : (setTxn s l x).holdDies = s.holdDies := rfl
@[simp] theorem setTxn_gatedQuads (s : State) (l : Nat) (x : Txn) : (setTxn s l x).gatedQuads = s.gatedQuads := rfl
@[simp] theorem setTxn_jobs (s : State) (l : Nat) (x : Txn) : (setTxn s l x).jobs = s.jobs := rfl
@[simp] theorem setTxn_rrNext (s : State) (l : Nat) (x : Txn) : (setTxn s l x).rrNext = s.rrNext := rfl
@[simp] theorem setTxn_hostSubmits (s : State) (l : Nat) (x : Txn) : (setTxn s l x).hostSubmits = s.hostSubmits := rfl
@[simp] theorem setTxn_tlb (s : State) (l : Nat) (x : Txn) : (setTxn s l x).tlb = s.tlb := rfl
@[simp] theorem setTxn_ports (s : State) (l : Nat) (x : Txn) : (setTxn s l x).ports = s.ports := rfl
@[simp] theorem setTxn_conns (s : State) (l : Nat) (x : Txn) : (setTxn s l x).conns = s.conns := rfl
@[simp] theorem setTxn_delivered (s : State) (l : Nat) (x : Txn) : (setTxn s l x).delivered = s.delivered := rfl
@[simp] theorem setTxn_rxConsumed (s : State) (l : Nat) (x : Txn) : (setTxn s l x).rxConsumed = s.rxConsumed := rfl
@[simp] theorem setTxn_rxProduced (s : State) (l : Nat) (x : Txn) : (setTxn s l x).rxProduced = s.rxProduced := rfl
@[simp] theorem setTxn_host (s : State) (l : Nat) (x : Txn) : (setTxn s l x).host = s.host := rfl
@[simp] theorem setTxn_links (s : State) (l : Nat) (x : Txn) : (setTxn s l x).links = s.links := rfl
@[simp] theorem setTxn_rim (s : State) (l : Nat) (x : Txn) : (setTxn s l x).rim = s.rim := rfl
@[simp] theorem setTxn_uszon (s : State) (l : Nat) (x : Txn) : (setTxn s l x).uszon = s.uszon := rfl
@[simp] theorem setTxn_flash (s : State) (l : Nat) (x : Txn) : (setTxn s l x).flash = s.flash := rfl
@[simp] theorem setTxn_side (s : State) (l : Nat) (x : Txn) : (setTxn s l x).side = s.side := rfl
@[simp] theorem setTxn_jtag (s : State) (l : Nat) (x : Txn) : (setTxn s l x).jtag = s.jtag := rfl
@[simp] theorem setTxn_nextId (s : State) (l : Nat) (x : Txn) : (setTxn s l x).nextId = s.nextId := rfl
@[simp] theorem setTxn_freeCount (s : State) (l : Nat) (x : Txn) : (setTxn s l x).freeCount = s.freeCount := rfl
@[simp] theorem setTxn_pending (s : State) (l : Nat) (x : Txn) : (setTxn s l x).pending = s.pending := rfl

@[simp] theorem setCore_regs (s : State) (c : Nat) (x : CoreSt) : (setCore s c x).regs = s.regs := rfl
@[simp] theorem setCore_master (s : State) (c : Nat) (x : CoreSt) : (setCore s c x).master = s.master := rfl
@[simp] theorem setCore_copies (s : State) (c : Nat) (x : CoreSt) : (setCore s c x).copies = s.copies := rfl
@[simp] theorem setCore_copyHeld (s : State) (c : Nat) (x : CoreSt) : (setCore s c x).copyHeld = s.copyHeld := rfl
@[simp] theorem setCore_pins (s : State) (c : Nat) (x : CoreSt) : (setCore s c x).pins = s.pins := rfl
@[simp] theorem setCore_holds (s : State) (c : Nat) (x : CoreSt) : (setCore s c x).holds = s.holds := rfl
@[simp] theorem setCore_tiles (s : State) (c : Nat) (x : CoreSt) : (setCore s c x).tiles = s.tiles := rfl
@[simp] theorem setCore_tileClocks (s : State) (c : Nat) (x : CoreSt) : (setCore s c x).tileClocks = s.tileClocks := rfl
@[simp] theorem setCore_dcc (s : State) (c : Nat) (x : CoreSt) : (setCore s c x).dcc = s.dcc := rfl
@[simp] theorem setCore_l1Fills (s : State) (c : Nat) (x : CoreSt) : (setCore s c x).l1Fills = s.l1Fills := rfl
@[simp] theorem setCore_dccFills (s : State) (c : Nat) (x : CoreSt) : (setCore s c x).dccFills = s.dccFills := rfl
@[simp] theorem setCore_grottos (s : State) (c : Nat) (x : CoreSt) : (setCore s c x).grottos = s.grottos := rfl
@[simp] theorem setCore_mem (s : State) (c : Nat) (x : CoreSt) : (setCore s c x).mem = s.mem := rfl
@[simp] theorem setCore_memPoison (s : State) (c : Nat) (x : CoreSt) : (setCore s c x).memPoison = s.memPoison := rfl
@[simp] theorem setCore_memErrs (s : State) (c : Nat) (x : CoreSt) : (setCore s c x).memErrs = s.memErrs := rfl
@[simp] theorem setCore_homes (s : State) (c : Nat) (x : CoreSt) : (setCore s c x).homes = s.homes := rfl
@[simp] theorem setCore_answers (s : State) (c : Nat) (x : CoreSt) : (setCore s c x).answers = s.answers := rfl
@[simp] theorem setCore_tileAnswers (s : State) (c : Nat) (x : CoreSt) : (setCore s c x).tileAnswers = s.tileAnswers := rfl
@[simp] theorem setCore_eccCorrected (s : State) (c : Nat) (x : CoreSt) : (setCore s c x).eccCorrected = s.eccCorrected := rfl
@[simp] theorem setCore_dir (s : State) (c : Nat) (x : CoreSt) : (setCore s c x).dir = s.dir := rfl
@[simp] theorem setCore_txns (s : State) (c : Nat) (x : CoreSt) : (setCore s c x).txns = s.txns := rfl
@[simp] theorem setCore_cohNet (s : State) (c : Nat) (x : CoreSt) : (setCore s c x).cohNet = s.cohNet := rfl
@[simp] theorem setCore_caches (s : State) (c : Nat) (x : CoreSt) : (setCore s c x).caches = s.caches := rfl
@[simp] theorem setCore_wbBuf (s : State) (c : Nat) (x : CoreSt) : (setCore s c x).wbBuf = s.wbBuf := rfl
@[simp] theorem setCore_predictor (s : State) (c : Nat) (x : CoreSt) : (setCore s c x).predictor = s.predictor := rfl
@[simp] theorem setCore_amoResults (s : State) (c : Nat) (x : CoreSt) : (setCore s c x).amoResults = s.amoResults := rfl
@[simp] theorem setCore_heldStacks (s : State) (c : Nat) (x : CoreSt) : (setCore s c x).heldStacks = s.heldStacks := rfl
@[simp] theorem setCore_lossFenced (s : State) (c : Nat) (x : CoreSt) : (setCore s c x).lossFenced = s.lossFenced := rfl
@[simp] theorem setCore_holdDies (s : State) (c : Nat) (x : CoreSt) : (setCore s c x).holdDies = s.holdDies := rfl
@[simp] theorem setCore_gatedQuads (s : State) (c : Nat) (x : CoreSt) : (setCore s c x).gatedQuads = s.gatedQuads := rfl
@[simp] theorem setCore_jobs (s : State) (c : Nat) (x : CoreSt) : (setCore s c x).jobs = s.jobs := rfl
@[simp] theorem setCore_rrNext (s : State) (c : Nat) (x : CoreSt) : (setCore s c x).rrNext = s.rrNext := rfl
@[simp] theorem setCore_hostSubmits (s : State) (c : Nat) (x : CoreSt) : (setCore s c x).hostSubmits = s.hostSubmits := rfl
@[simp] theorem setCore_tlb (s : State) (c : Nat) (x : CoreSt) : (setCore s c x).tlb = s.tlb := rfl
@[simp] theorem setCore_ports (s : State) (c : Nat) (x : CoreSt) : (setCore s c x).ports = s.ports := rfl
@[simp] theorem setCore_conns (s : State) (c : Nat) (x : CoreSt) : (setCore s c x).conns = s.conns := rfl
@[simp] theorem setCore_delivered (s : State) (c : Nat) (x : CoreSt) : (setCore s c x).delivered = s.delivered := rfl
@[simp] theorem setCore_rxConsumed (s : State) (c : Nat) (x : CoreSt) : (setCore s c x).rxConsumed = s.rxConsumed := rfl
@[simp] theorem setCore_rxProduced (s : State) (c : Nat) (x : CoreSt) : (setCore s c x).rxProduced = s.rxProduced := rfl
@[simp] theorem setCore_host (s : State) (c : Nat) (x : CoreSt) : (setCore s c x).host = s.host := rfl
@[simp] theorem setCore_links (s : State) (c : Nat) (x : CoreSt) : (setCore s c x).links = s.links := rfl
@[simp] theorem setCore_rim (s : State) (c : Nat) (x : CoreSt) : (setCore s c x).rim = s.rim := rfl
@[simp] theorem setCore_uszon (s : State) (c : Nat) (x : CoreSt) : (setCore s c x).uszon = s.uszon := rfl
@[simp] theorem setCore_flash (s : State) (c : Nat) (x : CoreSt) : (setCore s c x).flash = s.flash := rfl
@[simp] theorem setCore_side (s : State) (c : Nat) (x : CoreSt) : (setCore s c x).side = s.side := rfl
@[simp] theorem setCore_jtag (s : State) (c : Nat) (x : CoreSt) : (setCore s c x).jtag = s.jtag := rfl
@[simp] theorem setCore_nextId (s : State) (c : Nat) (x : CoreSt) : (setCore s c x).nextId = s.nextId := rfl
@[simp] theorem setCore_freeCount (s : State) (c : Nat) (x : CoreSt) : (setCore s c x).freeCount = s.freeCount := rfl
@[simp] theorem setCore_pending (s : State) (c : Nat) (x : CoreSt) : (setCore s c x).pending = s.pending := rfl

@[simp] theorem setPort_regs (s : State) (p : Nat) (x : PortSt) : (setPort s p x).regs = s.regs := rfl
@[simp] theorem setPort_master (s : State) (p : Nat) (x : PortSt) : (setPort s p x).master = s.master := rfl
@[simp] theorem setPort_copies (s : State) (p : Nat) (x : PortSt) : (setPort s p x).copies = s.copies := rfl
@[simp] theorem setPort_copyHeld (s : State) (p : Nat) (x : PortSt) : (setPort s p x).copyHeld = s.copyHeld := rfl
@[simp] theorem setPort_pins (s : State) (p : Nat) (x : PortSt) : (setPort s p x).pins = s.pins := rfl
@[simp] theorem setPort_holds (s : State) (p : Nat) (x : PortSt) : (setPort s p x).holds = s.holds := rfl
@[simp] theorem setPort_tiles (s : State) (p : Nat) (x : PortSt) : (setPort s p x).tiles = s.tiles := rfl
@[simp] theorem setPort_tileClocks (s : State) (p : Nat) (x : PortSt) : (setPort s p x).tileClocks = s.tileClocks := rfl
@[simp] theorem setPort_dcc (s : State) (p : Nat) (x : PortSt) : (setPort s p x).dcc = s.dcc := rfl
@[simp] theorem setPort_l1Fills (s : State) (p : Nat) (x : PortSt) : (setPort s p x).l1Fills = s.l1Fills := rfl
@[simp] theorem setPort_dccFills (s : State) (p : Nat) (x : PortSt) : (setPort s p x).dccFills = s.dccFills := rfl
@[simp] theorem setPort_grottos (s : State) (p : Nat) (x : PortSt) : (setPort s p x).grottos = s.grottos := rfl
@[simp] theorem setPort_mem (s : State) (p : Nat) (x : PortSt) : (setPort s p x).mem = s.mem := rfl
@[simp] theorem setPort_memPoison (s : State) (p : Nat) (x : PortSt) : (setPort s p x).memPoison = s.memPoison := rfl
@[simp] theorem setPort_memErrs (s : State) (p : Nat) (x : PortSt) : (setPort s p x).memErrs = s.memErrs := rfl
@[simp] theorem setPort_homes (s : State) (p : Nat) (x : PortSt) : (setPort s p x).homes = s.homes := rfl
@[simp] theorem setPort_answers (s : State) (p : Nat) (x : PortSt) : (setPort s p x).answers = s.answers := rfl
@[simp] theorem setPort_tileAnswers (s : State) (p : Nat) (x : PortSt) : (setPort s p x).tileAnswers = s.tileAnswers := rfl
@[simp] theorem setPort_eccCorrected (s : State) (p : Nat) (x : PortSt) : (setPort s p x).eccCorrected = s.eccCorrected := rfl
@[simp] theorem setPort_dir (s : State) (p : Nat) (x : PortSt) : (setPort s p x).dir = s.dir := rfl
@[simp] theorem setPort_txns (s : State) (p : Nat) (x : PortSt) : (setPort s p x).txns = s.txns := rfl
@[simp] theorem setPort_cohNet (s : State) (p : Nat) (x : PortSt) : (setPort s p x).cohNet = s.cohNet := rfl
@[simp] theorem setPort_caches (s : State) (p : Nat) (x : PortSt) : (setPort s p x).caches = s.caches := rfl
@[simp] theorem setPort_wbBuf (s : State) (p : Nat) (x : PortSt) : (setPort s p x).wbBuf = s.wbBuf := rfl
@[simp] theorem setPort_predictor (s : State) (p : Nat) (x : PortSt) : (setPort s p x).predictor = s.predictor := rfl
@[simp] theorem setPort_amoResults (s : State) (p : Nat) (x : PortSt) : (setPort s p x).amoResults = s.amoResults := rfl
@[simp] theorem setPort_cores (s : State) (p : Nat) (x : PortSt) : (setPort s p x).cores = s.cores := rfl
@[simp] theorem setPort_heldStacks (s : State) (p : Nat) (x : PortSt) : (setPort s p x).heldStacks = s.heldStacks := rfl
@[simp] theorem setPort_lossFenced (s : State) (p : Nat) (x : PortSt) : (setPort s p x).lossFenced = s.lossFenced := rfl
@[simp] theorem setPort_holdDies (s : State) (p : Nat) (x : PortSt) : (setPort s p x).holdDies = s.holdDies := rfl
@[simp] theorem setPort_gatedQuads (s : State) (p : Nat) (x : PortSt) : (setPort s p x).gatedQuads = s.gatedQuads := rfl
@[simp] theorem setPort_jobs (s : State) (p : Nat) (x : PortSt) : (setPort s p x).jobs = s.jobs := rfl
@[simp] theorem setPort_rrNext (s : State) (p : Nat) (x : PortSt) : (setPort s p x).rrNext = s.rrNext := rfl
@[simp] theorem setPort_hostSubmits (s : State) (p : Nat) (x : PortSt) : (setPort s p x).hostSubmits = s.hostSubmits := rfl
@[simp] theorem setPort_tlb (s : State) (p : Nat) (x : PortSt) : (setPort s p x).tlb = s.tlb := rfl
@[simp] theorem setPort_conns (s : State) (p : Nat) (x : PortSt) : (setPort s p x).conns = s.conns := rfl
@[simp] theorem setPort_delivered (s : State) (p : Nat) (x : PortSt) : (setPort s p x).delivered = s.delivered := rfl
@[simp] theorem setPort_rxConsumed (s : State) (p : Nat) (x : PortSt) : (setPort s p x).rxConsumed = s.rxConsumed := rfl
@[simp] theorem setPort_rxProduced (s : State) (p : Nat) (x : PortSt) : (setPort s p x).rxProduced = s.rxProduced := rfl
@[simp] theorem setPort_host (s : State) (p : Nat) (x : PortSt) : (setPort s p x).host = s.host := rfl
@[simp] theorem setPort_links (s : State) (p : Nat) (x : PortSt) : (setPort s p x).links = s.links := rfl
@[simp] theorem setPort_rim (s : State) (p : Nat) (x : PortSt) : (setPort s p x).rim = s.rim := rfl
@[simp] theorem setPort_uszon (s : State) (p : Nat) (x : PortSt) : (setPort s p x).uszon = s.uszon := rfl
@[simp] theorem setPort_flash (s : State) (p : Nat) (x : PortSt) : (setPort s p x).flash = s.flash := rfl
@[simp] theorem setPort_side (s : State) (p : Nat) (x : PortSt) : (setPort s p x).side = s.side := rfl
@[simp] theorem setPort_jtag (s : State) (p : Nat) (x : PortSt) : (setPort s p x).jtag = s.jtag := rfl
@[simp] theorem setPort_nextId (s : State) (p : Nat) (x : PortSt) : (setPort s p x).nextId = s.nextId := rfl
@[simp] theorem setPort_freeCount (s : State) (p : Nat) (x : PortSt) : (setPort s p x).freeCount = s.freeCount := rfl
@[simp] theorem setPort_pending (s : State) (p : Nat) (x : PortSt) : (setPort s p x).pending = s.pending := rfl

@[simp] theorem setConn_regs (s : State) (c : Nat) (x : Conn) : (setConn s c x).regs = s.regs := rfl
@[simp] theorem setConn_master (s : State) (c : Nat) (x : Conn) : (setConn s c x).master = s.master := rfl
@[simp] theorem setConn_copies (s : State) (c : Nat) (x : Conn) : (setConn s c x).copies = s.copies := rfl
@[simp] theorem setConn_copyHeld (s : State) (c : Nat) (x : Conn) : (setConn s c x).copyHeld = s.copyHeld := rfl
@[simp] theorem setConn_pins (s : State) (c : Nat) (x : Conn) : (setConn s c x).pins = s.pins := rfl
@[simp] theorem setConn_holds (s : State) (c : Nat) (x : Conn) : (setConn s c x).holds = s.holds := rfl
@[simp] theorem setConn_tiles (s : State) (c : Nat) (x : Conn) : (setConn s c x).tiles = s.tiles := rfl
@[simp] theorem setConn_tileClocks (s : State) (c : Nat) (x : Conn) : (setConn s c x).tileClocks = s.tileClocks := rfl
@[simp] theorem setConn_dcc (s : State) (c : Nat) (x : Conn) : (setConn s c x).dcc = s.dcc := rfl
@[simp] theorem setConn_l1Fills (s : State) (c : Nat) (x : Conn) : (setConn s c x).l1Fills = s.l1Fills := rfl
@[simp] theorem setConn_dccFills (s : State) (c : Nat) (x : Conn) : (setConn s c x).dccFills = s.dccFills := rfl
@[simp] theorem setConn_grottos (s : State) (c : Nat) (x : Conn) : (setConn s c x).grottos = s.grottos := rfl
@[simp] theorem setConn_mem (s : State) (c : Nat) (x : Conn) : (setConn s c x).mem = s.mem := rfl
@[simp] theorem setConn_memPoison (s : State) (c : Nat) (x : Conn) : (setConn s c x).memPoison = s.memPoison := rfl
@[simp] theorem setConn_memErrs (s : State) (c : Nat) (x : Conn) : (setConn s c x).memErrs = s.memErrs := rfl
@[simp] theorem setConn_homes (s : State) (c : Nat) (x : Conn) : (setConn s c x).homes = s.homes := rfl
@[simp] theorem setConn_answers (s : State) (c : Nat) (x : Conn) : (setConn s c x).answers = s.answers := rfl
@[simp] theorem setConn_tileAnswers (s : State) (c : Nat) (x : Conn) : (setConn s c x).tileAnswers = s.tileAnswers := rfl
@[simp] theorem setConn_eccCorrected (s : State) (c : Nat) (x : Conn) : (setConn s c x).eccCorrected = s.eccCorrected := rfl
@[simp] theorem setConn_dir (s : State) (c : Nat) (x : Conn) : (setConn s c x).dir = s.dir := rfl
@[simp] theorem setConn_txns (s : State) (c : Nat) (x : Conn) : (setConn s c x).txns = s.txns := rfl
@[simp] theorem setConn_cohNet (s : State) (c : Nat) (x : Conn) : (setConn s c x).cohNet = s.cohNet := rfl
@[simp] theorem setConn_caches (s : State) (c : Nat) (x : Conn) : (setConn s c x).caches = s.caches := rfl
@[simp] theorem setConn_wbBuf (s : State) (c : Nat) (x : Conn) : (setConn s c x).wbBuf = s.wbBuf := rfl
@[simp] theorem setConn_predictor (s : State) (c : Nat) (x : Conn) : (setConn s c x).predictor = s.predictor := rfl
@[simp] theorem setConn_amoResults (s : State) (c : Nat) (x : Conn) : (setConn s c x).amoResults = s.amoResults := rfl
@[simp] theorem setConn_cores (s : State) (c : Nat) (x : Conn) : (setConn s c x).cores = s.cores := rfl
@[simp] theorem setConn_heldStacks (s : State) (c : Nat) (x : Conn) : (setConn s c x).heldStacks = s.heldStacks := rfl
@[simp] theorem setConn_lossFenced (s : State) (c : Nat) (x : Conn) : (setConn s c x).lossFenced = s.lossFenced := rfl
@[simp] theorem setConn_holdDies (s : State) (c : Nat) (x : Conn) : (setConn s c x).holdDies = s.holdDies := rfl
@[simp] theorem setConn_gatedQuads (s : State) (c : Nat) (x : Conn) : (setConn s c x).gatedQuads = s.gatedQuads := rfl
@[simp] theorem setConn_jobs (s : State) (c : Nat) (x : Conn) : (setConn s c x).jobs = s.jobs := rfl
@[simp] theorem setConn_rrNext (s : State) (c : Nat) (x : Conn) : (setConn s c x).rrNext = s.rrNext := rfl
@[simp] theorem setConn_hostSubmits (s : State) (c : Nat) (x : Conn) : (setConn s c x).hostSubmits = s.hostSubmits := rfl
@[simp] theorem setConn_tlb (s : State) (c : Nat) (x : Conn) : (setConn s c x).tlb = s.tlb := rfl
@[simp] theorem setConn_ports (s : State) (c : Nat) (x : Conn) : (setConn s c x).ports = s.ports := rfl
@[simp] theorem setConn_delivered (s : State) (c : Nat) (x : Conn) : (setConn s c x).delivered = s.delivered := rfl
@[simp] theorem setConn_rxConsumed (s : State) (c : Nat) (x : Conn) : (setConn s c x).rxConsumed = s.rxConsumed := rfl
@[simp] theorem setConn_rxProduced (s : State) (c : Nat) (x : Conn) : (setConn s c x).rxProduced = s.rxProduced := rfl
@[simp] theorem setConn_host (s : State) (c : Nat) (x : Conn) : (setConn s c x).host = s.host := rfl
@[simp] theorem setConn_links (s : State) (c : Nat) (x : Conn) : (setConn s c x).links = s.links := rfl
@[simp] theorem setConn_rim (s : State) (c : Nat) (x : Conn) : (setConn s c x).rim = s.rim := rfl
@[simp] theorem setConn_uszon (s : State) (c : Nat) (x : Conn) : (setConn s c x).uszon = s.uszon := rfl
@[simp] theorem setConn_flash (s : State) (c : Nat) (x : Conn) : (setConn s c x).flash = s.flash := rfl
@[simp] theorem setConn_side (s : State) (c : Nat) (x : Conn) : (setConn s c x).side = s.side := rfl
@[simp] theorem setConn_jtag (s : State) (c : Nat) (x : Conn) : (setConn s c x).jtag = s.jtag := rfl
@[simp] theorem setConn_nextId (s : State) (c : Nat) (x : Conn) : (setConn s c x).nextId = s.nextId := rfl
@[simp] theorem setConn_freeCount (s : State) (c : Nat) (x : Conn) : (setConn s c x).freeCount = s.freeCount := rfl
@[simp] theorem setConn_pending (s : State) (c : Nat) (x : Conn) : (setConn s c x).pending = s.pending := rfl

@[simp] theorem setHq_regs (s : State) (q : Nat) (x : HostQueue) : (setHq s q x).regs = s.regs := rfl
@[simp] theorem setHq_master (s : State) (q : Nat) (x : HostQueue) : (setHq s q x).master = s.master := rfl
@[simp] theorem setHq_copies (s : State) (q : Nat) (x : HostQueue) : (setHq s q x).copies = s.copies := rfl
@[simp] theorem setHq_copyHeld (s : State) (q : Nat) (x : HostQueue) : (setHq s q x).copyHeld = s.copyHeld := rfl
@[simp] theorem setHq_pins (s : State) (q : Nat) (x : HostQueue) : (setHq s q x).pins = s.pins := rfl
@[simp] theorem setHq_holds (s : State) (q : Nat) (x : HostQueue) : (setHq s q x).holds = s.holds := rfl
@[simp] theorem setHq_tiles (s : State) (q : Nat) (x : HostQueue) : (setHq s q x).tiles = s.tiles := rfl
@[simp] theorem setHq_tileClocks (s : State) (q : Nat) (x : HostQueue) : (setHq s q x).tileClocks = s.tileClocks := rfl
@[simp] theorem setHq_dcc (s : State) (q : Nat) (x : HostQueue) : (setHq s q x).dcc = s.dcc := rfl
@[simp] theorem setHq_l1Fills (s : State) (q : Nat) (x : HostQueue) : (setHq s q x).l1Fills = s.l1Fills := rfl
@[simp] theorem setHq_dccFills (s : State) (q : Nat) (x : HostQueue) : (setHq s q x).dccFills = s.dccFills := rfl
@[simp] theorem setHq_grottos (s : State) (q : Nat) (x : HostQueue) : (setHq s q x).grottos = s.grottos := rfl
@[simp] theorem setHq_mem (s : State) (q : Nat) (x : HostQueue) : (setHq s q x).mem = s.mem := rfl
@[simp] theorem setHq_memPoison (s : State) (q : Nat) (x : HostQueue) : (setHq s q x).memPoison = s.memPoison := rfl
@[simp] theorem setHq_memErrs (s : State) (q : Nat) (x : HostQueue) : (setHq s q x).memErrs = s.memErrs := rfl
@[simp] theorem setHq_homes (s : State) (q : Nat) (x : HostQueue) : (setHq s q x).homes = s.homes := rfl
@[simp] theorem setHq_answers (s : State) (q : Nat) (x : HostQueue) : (setHq s q x).answers = s.answers := rfl
@[simp] theorem setHq_tileAnswers (s : State) (q : Nat) (x : HostQueue) : (setHq s q x).tileAnswers = s.tileAnswers := rfl
@[simp] theorem setHq_eccCorrected (s : State) (q : Nat) (x : HostQueue) : (setHq s q x).eccCorrected = s.eccCorrected := rfl
@[simp] theorem setHq_dir (s : State) (q : Nat) (x : HostQueue) : (setHq s q x).dir = s.dir := rfl
@[simp] theorem setHq_txns (s : State) (q : Nat) (x : HostQueue) : (setHq s q x).txns = s.txns := rfl
@[simp] theorem setHq_cohNet (s : State) (q : Nat) (x : HostQueue) : (setHq s q x).cohNet = s.cohNet := rfl
@[simp] theorem setHq_caches (s : State) (q : Nat) (x : HostQueue) : (setHq s q x).caches = s.caches := rfl
@[simp] theorem setHq_wbBuf (s : State) (q : Nat) (x : HostQueue) : (setHq s q x).wbBuf = s.wbBuf := rfl
@[simp] theorem setHq_predictor (s : State) (q : Nat) (x : HostQueue) : (setHq s q x).predictor = s.predictor := rfl
@[simp] theorem setHq_amoResults (s : State) (q : Nat) (x : HostQueue) : (setHq s q x).amoResults = s.amoResults := rfl
@[simp] theorem setHq_cores (s : State) (q : Nat) (x : HostQueue) : (setHq s q x).cores = s.cores := rfl
@[simp] theorem setHq_heldStacks (s : State) (q : Nat) (x : HostQueue) : (setHq s q x).heldStacks = s.heldStacks := rfl
@[simp] theorem setHq_lossFenced (s : State) (q : Nat) (x : HostQueue) : (setHq s q x).lossFenced = s.lossFenced := rfl
@[simp] theorem setHq_holdDies (s : State) (q : Nat) (x : HostQueue) : (setHq s q x).holdDies = s.holdDies := rfl
@[simp] theorem setHq_gatedQuads (s : State) (q : Nat) (x : HostQueue) : (setHq s q x).gatedQuads = s.gatedQuads := rfl
@[simp] theorem setHq_jobs (s : State) (q : Nat) (x : HostQueue) : (setHq s q x).jobs = s.jobs := rfl
@[simp] theorem setHq_rrNext (s : State) (q : Nat) (x : HostQueue) : (setHq s q x).rrNext = s.rrNext := rfl
@[simp] theorem setHq_hostSubmits (s : State) (q : Nat) (x : HostQueue) : (setHq s q x).hostSubmits = s.hostSubmits := rfl
@[simp] theorem setHq_tlb (s : State) (q : Nat) (x : HostQueue) : (setHq s q x).tlb = s.tlb := rfl
@[simp] theorem setHq_ports (s : State) (q : Nat) (x : HostQueue) : (setHq s q x).ports = s.ports := rfl
@[simp] theorem setHq_conns (s : State) (q : Nat) (x : HostQueue) : (setHq s q x).conns = s.conns := rfl
@[simp] theorem setHq_delivered (s : State) (q : Nat) (x : HostQueue) : (setHq s q x).delivered = s.delivered := rfl
@[simp] theorem setHq_rxConsumed (s : State) (q : Nat) (x : HostQueue) : (setHq s q x).rxConsumed = s.rxConsumed := rfl
@[simp] theorem setHq_rxProduced (s : State) (q : Nat) (x : HostQueue) : (setHq s q x).rxProduced = s.rxProduced := rfl
@[simp] theorem setHq_links (s : State) (q : Nat) (x : HostQueue) : (setHq s q x).links = s.links := rfl
@[simp] theorem setHq_rim (s : State) (q : Nat) (x : HostQueue) : (setHq s q x).rim = s.rim := rfl
@[simp] theorem setHq_uszon (s : State) (q : Nat) (x : HostQueue) : (setHq s q x).uszon = s.uszon := rfl
@[simp] theorem setHq_flash (s : State) (q : Nat) (x : HostQueue) : (setHq s q x).flash = s.flash := rfl
@[simp] theorem setHq_side (s : State) (q : Nat) (x : HostQueue) : (setHq s q x).side = s.side := rfl
@[simp] theorem setHq_jtag (s : State) (q : Nat) (x : HostQueue) : (setHq s q x).jtag = s.jtag := rfl
@[simp] theorem setHq_nextId (s : State) (q : Nat) (x : HostQueue) : (setHq s q x).nextId = s.nextId := rfl
@[simp] theorem setHq_freeCount (s : State) (q : Nat) (x : HostQueue) : (setHq s q x).freeCount = s.freeCount := rfl
@[simp] theorem setHq_pending (s : State) (q : Nat) (x : HostQueue) : (setHq s q x).pending = s.pending := rfl

@[simp] theorem setLk_regs (s : State) (d l : Nat) (x : LinkSt) : (setLk s d l x).regs = s.regs := rfl
@[simp] theorem setLk_master (s : State) (d l : Nat) (x : LinkSt) : (setLk s d l x).master = s.master := rfl
@[simp] theorem setLk_copies (s : State) (d l : Nat) (x : LinkSt) : (setLk s d l x).copies = s.copies := rfl
@[simp] theorem setLk_copyHeld (s : State) (d l : Nat) (x : LinkSt) : (setLk s d l x).copyHeld = s.copyHeld := rfl
@[simp] theorem setLk_pins (s : State) (d l : Nat) (x : LinkSt) : (setLk s d l x).pins = s.pins := rfl
@[simp] theorem setLk_holds (s : State) (d l : Nat) (x : LinkSt) : (setLk s d l x).holds = s.holds := rfl
@[simp] theorem setLk_tiles (s : State) (d l : Nat) (x : LinkSt) : (setLk s d l x).tiles = s.tiles := rfl
@[simp] theorem setLk_tileClocks (s : State) (d l : Nat) (x : LinkSt) : (setLk s d l x).tileClocks = s.tileClocks := rfl
@[simp] theorem setLk_dcc (s : State) (d l : Nat) (x : LinkSt) : (setLk s d l x).dcc = s.dcc := rfl
@[simp] theorem setLk_l1Fills (s : State) (d l : Nat) (x : LinkSt) : (setLk s d l x).l1Fills = s.l1Fills := rfl
@[simp] theorem setLk_dccFills (s : State) (d l : Nat) (x : LinkSt) : (setLk s d l x).dccFills = s.dccFills := rfl
@[simp] theorem setLk_grottos (s : State) (d l : Nat) (x : LinkSt) : (setLk s d l x).grottos = s.grottos := rfl
@[simp] theorem setLk_mem (s : State) (d l : Nat) (x : LinkSt) : (setLk s d l x).mem = s.mem := rfl
@[simp] theorem setLk_memPoison (s : State) (d l : Nat) (x : LinkSt) : (setLk s d l x).memPoison = s.memPoison := rfl
@[simp] theorem setLk_memErrs (s : State) (d l : Nat) (x : LinkSt) : (setLk s d l x).memErrs = s.memErrs := rfl
@[simp] theorem setLk_homes (s : State) (d l : Nat) (x : LinkSt) : (setLk s d l x).homes = s.homes := rfl
@[simp] theorem setLk_answers (s : State) (d l : Nat) (x : LinkSt) : (setLk s d l x).answers = s.answers := rfl
@[simp] theorem setLk_tileAnswers (s : State) (d l : Nat) (x : LinkSt) : (setLk s d l x).tileAnswers = s.tileAnswers := rfl
@[simp] theorem setLk_eccCorrected (s : State) (d l : Nat) (x : LinkSt) : (setLk s d l x).eccCorrected = s.eccCorrected := rfl
@[simp] theorem setLk_dir (s : State) (d l : Nat) (x : LinkSt) : (setLk s d l x).dir = s.dir := rfl
@[simp] theorem setLk_txns (s : State) (d l : Nat) (x : LinkSt) : (setLk s d l x).txns = s.txns := rfl
@[simp] theorem setLk_cohNet (s : State) (d l : Nat) (x : LinkSt) : (setLk s d l x).cohNet = s.cohNet := rfl
@[simp] theorem setLk_caches (s : State) (d l : Nat) (x : LinkSt) : (setLk s d l x).caches = s.caches := rfl
@[simp] theorem setLk_wbBuf (s : State) (d l : Nat) (x : LinkSt) : (setLk s d l x).wbBuf = s.wbBuf := rfl
@[simp] theorem setLk_predictor (s : State) (d l : Nat) (x : LinkSt) : (setLk s d l x).predictor = s.predictor := rfl
@[simp] theorem setLk_amoResults (s : State) (d l : Nat) (x : LinkSt) : (setLk s d l x).amoResults = s.amoResults := rfl
@[simp] theorem setLk_cores (s : State) (d l : Nat) (x : LinkSt) : (setLk s d l x).cores = s.cores := rfl
@[simp] theorem setLk_heldStacks (s : State) (d l : Nat) (x : LinkSt) : (setLk s d l x).heldStacks = s.heldStacks := rfl
@[simp] theorem setLk_lossFenced (s : State) (d l : Nat) (x : LinkSt) : (setLk s d l x).lossFenced = s.lossFenced := rfl
@[simp] theorem setLk_holdDies (s : State) (d l : Nat) (x : LinkSt) : (setLk s d l x).holdDies = s.holdDies := rfl
@[simp] theorem setLk_gatedQuads (s : State) (d l : Nat) (x : LinkSt) : (setLk s d l x).gatedQuads = s.gatedQuads := rfl
@[simp] theorem setLk_jobs (s : State) (d l : Nat) (x : LinkSt) : (setLk s d l x).jobs = s.jobs := rfl
@[simp] theorem setLk_rrNext (s : State) (d l : Nat) (x : LinkSt) : (setLk s d l x).rrNext = s.rrNext := rfl
@[simp] theorem setLk_hostSubmits (s : State) (d l : Nat) (x : LinkSt) : (setLk s d l x).hostSubmits = s.hostSubmits := rfl
@[simp] theorem setLk_tlb (s : State) (d l : Nat) (x : LinkSt) : (setLk s d l x).tlb = s.tlb := rfl
@[simp] theorem setLk_ports (s : State) (d l : Nat) (x : LinkSt) : (setLk s d l x).ports = s.ports := rfl
@[simp] theorem setLk_conns (s : State) (d l : Nat) (x : LinkSt) : (setLk s d l x).conns = s.conns := rfl
@[simp] theorem setLk_delivered (s : State) (d l : Nat) (x : LinkSt) : (setLk s d l x).delivered = s.delivered := rfl
@[simp] theorem setLk_rxConsumed (s : State) (d l : Nat) (x : LinkSt) : (setLk s d l x).rxConsumed = s.rxConsumed := rfl
@[simp] theorem setLk_rxProduced (s : State) (d l : Nat) (x : LinkSt) : (setLk s d l x).rxProduced = s.rxProduced := rfl
@[simp] theorem setLk_host (s : State) (d l : Nat) (x : LinkSt) : (setLk s d l x).host = s.host := rfl
@[simp] theorem setLk_rim (s : State) (d l : Nat) (x : LinkSt) : (setLk s d l x).rim = s.rim := rfl
@[simp] theorem setLk_uszon (s : State) (d l : Nat) (x : LinkSt) : (setLk s d l x).uszon = s.uszon := rfl
@[simp] theorem setLk_flash (s : State) (d l : Nat) (x : LinkSt) : (setLk s d l x).flash = s.flash := rfl
@[simp] theorem setLk_side (s : State) (d l : Nat) (x : LinkSt) : (setLk s d l x).side = s.side := rfl
@[simp] theorem setLk_jtag (s : State) (d l : Nat) (x : LinkSt) : (setLk s d l x).jtag = s.jtag := rfl
@[simp] theorem setLk_nextId (s : State) (d l : Nat) (x : LinkSt) : (setLk s d l x).nextId = s.nextId := rfl
@[simp] theorem setLk_freeCount (s : State) (d l : Nat) (x : LinkSt) : (setLk s d l x).freeCount = s.freeCount := rfl
@[simp] theorem setLk_pending (s : State) (d l : Nat) (x : LinkSt) : (setLk s d l x).pending = s.pending := rfl

@[simp] theorem drawFree_regs (s : State) : (drawFree s).2.regs = s.regs := rfl
@[simp] theorem drawFree_master (s : State) : (drawFree s).2.master = s.master := rfl
@[simp] theorem drawFree_copies (s : State) : (drawFree s).2.copies = s.copies := rfl
@[simp] theorem drawFree_copyHeld (s : State) : (drawFree s).2.copyHeld = s.copyHeld := rfl
@[simp] theorem drawFree_pins (s : State) : (drawFree s).2.pins = s.pins := rfl
@[simp] theorem drawFree_holds (s : State) : (drawFree s).2.holds = s.holds := rfl
@[simp] theorem drawFree_tiles (s : State) : (drawFree s).2.tiles = s.tiles := rfl
@[simp] theorem drawFree_tileClocks (s : State) : (drawFree s).2.tileClocks = s.tileClocks := rfl
@[simp] theorem drawFree_dcc (s : State) : (drawFree s).2.dcc = s.dcc := rfl
@[simp] theorem drawFree_l1Fills (s : State) : (drawFree s).2.l1Fills = s.l1Fills := rfl
@[simp] theorem drawFree_dccFills (s : State) : (drawFree s).2.dccFills = s.dccFills := rfl
@[simp] theorem drawFree_grottos (s : State) : (drawFree s).2.grottos = s.grottos := rfl
@[simp] theorem drawFree_mem (s : State) : (drawFree s).2.mem = s.mem := rfl
@[simp] theorem drawFree_memPoison (s : State) : (drawFree s).2.memPoison = s.memPoison := rfl
@[simp] theorem drawFree_memErrs (s : State) : (drawFree s).2.memErrs = s.memErrs := rfl
@[simp] theorem drawFree_homes (s : State) : (drawFree s).2.homes = s.homes := rfl
@[simp] theorem drawFree_answers (s : State) : (drawFree s).2.answers = s.answers := rfl
@[simp] theorem drawFree_tileAnswers (s : State) : (drawFree s).2.tileAnswers = s.tileAnswers := rfl
@[simp] theorem drawFree_eccCorrected (s : State) : (drawFree s).2.eccCorrected = s.eccCorrected := rfl
@[simp] theorem drawFree_dir (s : State) : (drawFree s).2.dir = s.dir := rfl
@[simp] theorem drawFree_txns (s : State) : (drawFree s).2.txns = s.txns := rfl
@[simp] theorem drawFree_cohNet (s : State) : (drawFree s).2.cohNet = s.cohNet := rfl
@[simp] theorem drawFree_caches (s : State) : (drawFree s).2.caches = s.caches := rfl
@[simp] theorem drawFree_wbBuf (s : State) : (drawFree s).2.wbBuf = s.wbBuf := rfl
@[simp] theorem drawFree_predictor (s : State) : (drawFree s).2.predictor = s.predictor := rfl
@[simp] theorem drawFree_amoResults (s : State) : (drawFree s).2.amoResults = s.amoResults := rfl
@[simp] theorem drawFree_cores (s : State) : (drawFree s).2.cores = s.cores := rfl
@[simp] theorem drawFree_heldStacks (s : State) : (drawFree s).2.heldStacks = s.heldStacks := rfl
@[simp] theorem drawFree_lossFenced (s : State) : (drawFree s).2.lossFenced = s.lossFenced := rfl
@[simp] theorem drawFree_holdDies (s : State) : (drawFree s).2.holdDies = s.holdDies := rfl
@[simp] theorem drawFree_gatedQuads (s : State) : (drawFree s).2.gatedQuads = s.gatedQuads := rfl
@[simp] theorem drawFree_jobs (s : State) : (drawFree s).2.jobs = s.jobs := rfl
@[simp] theorem drawFree_rrNext (s : State) : (drawFree s).2.rrNext = s.rrNext := rfl
@[simp] theorem drawFree_hostSubmits (s : State) : (drawFree s).2.hostSubmits = s.hostSubmits := rfl
@[simp] theorem drawFree_tlb (s : State) : (drawFree s).2.tlb = s.tlb := rfl
@[simp] theorem drawFree_ports (s : State) : (drawFree s).2.ports = s.ports := rfl
@[simp] theorem drawFree_conns (s : State) : (drawFree s).2.conns = s.conns := rfl
@[simp] theorem drawFree_delivered (s : State) : (drawFree s).2.delivered = s.delivered := rfl
@[simp] theorem drawFree_rxConsumed (s : State) : (drawFree s).2.rxConsumed = s.rxConsumed := rfl
@[simp] theorem drawFree_rxProduced (s : State) : (drawFree s).2.rxProduced = s.rxProduced := rfl
@[simp] theorem drawFree_host (s : State) : (drawFree s).2.host = s.host := rfl
@[simp] theorem drawFree_links (s : State) : (drawFree s).2.links = s.links := rfl
@[simp] theorem drawFree_rim (s : State) : (drawFree s).2.rim = s.rim := rfl
@[simp] theorem drawFree_uszon (s : State) : (drawFree s).2.uszon = s.uszon := rfl
@[simp] theorem drawFree_flash (s : State) : (drawFree s).2.flash = s.flash := rfl
@[simp] theorem drawFree_side (s : State) : (drawFree s).2.side = s.side := rfl
@[simp] theorem drawFree_jtag (s : State) : (drawFree s).2.jtag = s.jtag := rfl
@[simp] theorem drawFree_nextId (s : State) : (drawFree s).2.nextId = s.nextId := rfl
@[simp] theorem drawFree_pending (s : State) : (drawFree s).2.pending = s.pending := rfl

end Sys2Proof.Machine
end

