-- ==== Sys2Proof/WellFormed.lean ====
section
/-!
DEFINITION. The relations between operands of a command that the surroundings keep and types do not say.
-/
namespace Sys2Proof

/-- A register access has a size of 1, 2, 4 or 8 bytes. -/
def sizeOk (n : Nat) : Bool := n == 1 || n == 2 || n == 4 || n == 8

/-- A host slot is 256 bytes: eight words of header and 192 bytes of body (R452). -/
def HostSlot.ok (h : HostSlot) : Bool := h.hdr.length == 8 && h.body.length == 192

/-- Whether a command's operands fit together. -/
def Instr.wf : Instr → Bool
  | .registerWrite _ _ n _ => sizeOk n
  | .bar0Access _ n _ => sizeOk n
  | .hifNop _ h => h.ok
  | .hifSubmit _ h => h.ok
  | .writeInline _ h => h.ok
  | .copyH2D _ h => h.ok
  | .copyD2H _ h => h.ok
  | .flag _ h => h.ok
  | _ => true

end Sys2Proof
end

