-- ==== Sys2Proof/Tests/Slice0.lean ====
section
/-!
SUPPORT. Tests of the model: worked examples of the spec, ill-formed commands that WellFormed refuses, and for every statement
with hypotheses one theorem `witness_<Name>` that shows states and operands which meet them, clause by clause.
-/
set_option linter.unusedVariables false
open Sys2Proof Sys2Proof.Machine
namespace Sys2Proof.Tests
set_option Elab.async false

/-! ### Ill-formed commands -/

def slotOf (h b : Nat) : HostSlot := ⟨List.replicate h 0, List.replicate b 0⟩
theorem test_wf_register_write_size : Instr.wf (.registerWrite .host 0 3 0) = false ∧ Instr.wf (.registerWrite .host 0 8 0) = true := by decide
theorem test_wf_bar0_size : Instr.wf (.bar0Access 0 16 none) = false ∧ Instr.wf (.bar0Access 0 4 none) = true := by decide
theorem test_wf_nop_header : Instr.wf (.hifNop 0 (slotOf 7 192)) = false ∧ Instr.wf (.hifNop 0 (slotOf 8 192)) = true := by decide +kernel
theorem test_wf_submit_body : Instr.wf (.hifSubmit 0 (slotOf 8 191)) = false := by decide +kernel
theorem test_wf_inline_body : Instr.wf (.writeInline 0 (slotOf 8 193)) = false := by decide +kernel
theorem test_wf_h2d_header : Instr.wf (.copyH2D 0 (slotOf 9 192)) = false := by decide +kernel
theorem test_wf_d2h_header : Instr.wf (.copyD2H 0 (slotOf 0 192)) = false := by decide +kernel
theorem test_wf_flag_body : Instr.wf (.flag 0 (slotOf 8 0)) = false := by decide +kernel

/-! ### Worked examples of the spec -/

/-- R8: the window of M11, at the first register of its Doorlink block. -/
theorem test_r8_m11_window : regAddr .dlkDieState 27 0 0 / 2 ^ 32 = 0xF01B := by decide +kernel
/-- R29: Flowstone of C4, tile row 9, column 5. -/
theorem test_r29_flowstone_of_tile_589 : regAddr .flsBusy 4 77 0 / 2 ^ 16 = 0xF00414D2 := by decide +kernel
/-- R70: replays at row strides of 1, 2, 32 and 33 words, and of a u64 load. -/
theorem test_r70_replays :
    slmReplays ((List.range 32).map (4 * ·)) 4 = 0 ∧ slmReplays ((List.range 32).map (8 * ·)) 4 = 1 ∧
    slmReplays ((List.range 32).map (128 * ·)) 4 = 31 ∧ slmReplays ((List.range 32).map (132 * ·)) 4 = 0 ∧
    slmReplays ((List.range 32).map (8 * ·)) 8 = 0 := by decide +kernel
/-- R74: four lanes add 2^-24 to 1.0. -/
theorem test_r74_combined_fadd :
    atomApply 8 4 0x3F800000 (List.replicate 4 (0x33800000, 0)) =
      (0x3F800002, [0x3F800000, 0x3F800000, 0x3F800001, 0x3F800002]) := by decide +kernel
/-- R130: the group sum of three products, and the accumulator. -/
theorem test_r130_group_sum :
    groupSum 28 [.fin false 200704 0, .fin false 9 (-12), .fin true 9 (-12)] = .fin false (200704 * 2 ^ 11 - 1) (-11) ∧
    accAdd 0 (.fin false (200704 * 2 ^ 11 - 1) (-11)) = 0x48440000 := by decide +kernel
/-- R137: the scale of a block whose largest magnitude is 7.0, quantised to FP4. -/
theorem test_r137_scale : mxScale 9 [.fin false 7 0, .fin true 11744051 (-24), .fin false 3 (-2), .fin false 13421773 (-26)] = (0x7F, false) := by
  decide +kernel
/-- R147: the block exponents and the slices. -/
theorem test_r147_slices :
    elExponent [.fin false (3 * 2 ^ 45 + 1) (-45), .fin true 3 (-1)] = 2 ∧ elExponent [.fin false (2 ^ 31 + 1) (-30), .fin false 5 0] = 3 ∧
    elSlices false (.fin false (3 * 2 ^ 45 + 1) (-45)) 2 = [98304, 0, 64] ∧ elSlices false (.fin true 3 (-1)) 2 = [-49152, 0, 0] ∧
    elSlices false (.fin false (2 ^ 31 + 1) (-30)) 3 = [32768, 4, 0] ∧ elSlices false (.fin false 5 0) 3 = [81920, 0, 0] := by
  decide +kernel
/-- R223: the choices of four tokens. -/
def choices : List (List (Nat × Nat)) :=
  [[0x3F000000, 0x3E800000, 0x3E000000, 0x3E000000], [0x3EC00000, 0x3E800000, 0x3E800000, 0x3E000000],
   [0x3E000000, 0x3F000000, 0x3E000000, 0x3E800000], [0x3D800000, 0x3D800000, 0x3EC00000, 0x3F000000]].map (gateToken 0 2 · [])
def dropped (dropord : Bool) : List (Nat × Nat × Nat) :=
  ((gatePlace 2 (gateOrder dropord 2 choices) []).1.filter fun p => !p.kept).map fun p => (p.t, p.c, p.slot)
theorem test_r223_selection : choices.map (·.map (·.1)) = [[0, 1], [0, 1], [1, 3], [3, 2]] := by decide +kernel
theorem test_r223_drops : dropped false = [(2, 0, 2)] ∧ dropped true = [(1, 1, 2)] := by decide +kernel
/-- R296: the set of the line at 0x0012_3456_7880. -/
theorem test_r296_set : dccSet (0x1234567880 / 128) = 0x3D53 := by decide +kernel
/-- R317: the home and stack line of physical address 0x0012_3456_7880, wide and die-local. -/
theorem test_r317_home :
    homeOf State.reset 0x1234567880 = some (3, 1590728) ∧
    homeOf (rfset State.reset .memCfg 16 0 0 8 8 1) 0x1234567880 = some (1, 0x91A2B3) := by decide +kernel
/-- R395: the groups of ranks 431, 432 and 735. -/
theorem test_r395_groups : placed 10000 736 431 = 14 ∧ placed 10000 736 432 = 13 ∧ placed 10000 736 735 = 13 := by decide +kernel
/-- A link of C4 that was retrained afresh, with its partner's kept mask (R477). -/
def link41 : State :=
  let s := linkFull (linkFull ([0, 1, 3, 4].foldl (fun s n => setDieSt s n dsActive) (setPhase State.reset 7)) 1 0) 4 0
  { lkSet (lkSet s 4 2 3 0 lkRetraining) 1 2 3 0 lkRetraining with
    links := [(lkKey 1 2, { LinkSt.reset with mask := 0xFFFF, fresh := false })]
    pins := { s.pins with aux := true, auxReset := false, rails := true, modResetN := true, pwrEn := true, pwrGood := true }
    uszon := { s.uszon with running := true } }
def after (o : Host.Outcome State Fault Refusal) : State := match o with | .next s => s | _ => State.reset
def mismatched : State := after (exec (.linkTrain ⟨.c 4, 2⟩ 0xF7FF 0xFFFF true) link41)
/-- R477: C4's fresh mask 0xF7FF against C1's kept 0xFFFF is mismatch 1, and both retrain. -/
theorem test_r477_mismatch :
    lkF mismatched 4 2 17 16 = 1 ∧ lkF mismatched 1 2 17 16 = 1 ∧ lkState mismatched 4 2 = lkRetraining ∧ lkState mismatched 1 2 = lkRetraining := by
  decide +kernel
/-- R477: the fresh masks of both sides agree on 0xF7FF, and the link is ACTIVE on 15 modules. -/
def retrained : State := after (exec (.linkTrain ⟨.c 4, 2⟩ 0xF7FF 0xFFFF true) { mismatched with links := [] })
theorem test_r477_adopted : lkF retrained 4 2 47 32 = 0xF7FF ∧ lkF retrained 1 2 47 32 = 0xF7FF ∧ lkState retrained 4 2 = lkActive := by
  decide +kernel

/-- The check value of CRC-32C: that of the nine digits (R416). -/
theorem test_r416_crc32c : crc32c [0x31, 0x32, 0x33, 0x34, 0x35, 0x36, 0x37, 0x38, 0x39] = 0xE3069283 := by decide +kernel

/-! ### Witnesses -/

theorem rising_of {α : Type} {m : Map α} (h : decide ((m.map (·.1)).Pairwise (· < ·)) = true) : m.rising :=
  (of_decide_eq_true h : List.Pairwise _ _)
theorem canonical_of {s : State} (h : (Memory.wf s.mem && decide ((s.regs.map (·.1)).Pairwise (· < ·))) = true) : Canonical s :=
  have h := (Bool.and_eq_true _ _).mp h
  ⟨h.1, (of_decide_eq_true h.2 : List.Pairwise _ _)⟩

/-- The module after its first start-up, with every die ACTIVE, the host link up and Uszon running. -/
def up : State :=
  let s := setPhase (dieList.foldl (fun s n => setDieSt s n dsActive) State.reset) 7
  { s with
    pins := { s.pins with aux := true, auxReset := false, rails := true, modResetN := true, pwrEn := true, pwrGood := true,
                          modReady := true, perstN := true }
    uszon := { s.uszon with running := true }
    host := { s.host with linkUp := true, busMaster := true, msixOn := true } }

/-- The auxiliary domain in its reset. -/
def inReset : State := { State.reset with pins := { State.reset.pins with aux := true } }

/-- Uszon runs, the main domain is off. -/
def off : State := { setPhase inReset 2 with
  pins := { inReset.pins with auxReset := false, modResetN := true }
  uszon := { inReset.uszon with running := true } }

/-- The converter runs, and its rails are not good yet. -/
def converting : State := { setPhase off 3 with pins := { off.pins with pwrEn := true } }

/-- The dies leave reset. -/
def starting : State := { setPhase off 4 with pins := { off.pins with pwrEn := true, rails := true, pwrGood := true } }

/-- Dies C1, C2, C5 and L13 are ACTIVE, and the links from C2 to both others. -/
def few : State :=
  { linkFull (linkFull ([1, 2, 5, 13].foldl (fun s n => setDieSt s n dsActive) (setPhase State.reset 7)) 2 0) 2 2 with
    pins := up.pins, uszon := up.uszon }

/-- L13 rejoins: its link trains. -/
def rejoining : State := beginRejoin (setDieSt few 13 dsLost) 13

/-- A start-up that meets no failure. -/
def goodStart : StartupResult :=
  { memMode := false, failure := none, links := [], slices := [], badTiles := [], badQuads := [], badFlowstone := [], badDripstone := [],
    elapsedMs := 100 }

/-- A start-up in which neither C0 nor C3 gets a link to the next column. -/
def lostColumn : StartupResult :=
  { goodStart with links := [(⟨.c 0, 1⟩, List.replicate 3 ⟨0xFFFF, 0xFFFF, false⟩), (⟨.c 3, 1⟩, List.replicate 3 ⟨0xFFFF, 0xFFFF, false⟩)] }

/-- What a loss leaves with a path is decided link by link. -/
theorem staysLocal_of {s : State} {k : Nat}
    (h : (linkList.all fun l => match linkPartner k l with
      | none => true
      | some q => lDieOf k == some q.1 || !dieActive s q.1 || hasPath (linksFenced (setDieSt s k dsLost) k) q.1) = true) : LossStaysLocal s k := by
  intro l hl p pl hp hn ha
  have h1 := List.all_eq_true.mp h l hl
  rw [hp] at h1
  simp only [ha, Bool.or_eq_true, beq_iff_eq, Bool.not_true, Bool.false_eq_true, or_false] at h1
  exact h1.resolve_left hn

theorem got {α β : Type} {o : Option (α × β)} (d : α × β) (h : o.isSome = true) : o = some ((o.getD d).1, (o.getD d).2) := by
  cases o with
  | none => cases h
  | some p => rfl
theorem some_getD {α : Type} {o : Option α} (d : α) (h : o.isSome = true) : o = some (o.getD d) := by
  cases o with
  | none => cases h
  | some p => rfl
theorem pair_of {α β : Type} {p : α × β} {c : α} (h : p.1 = c) : p = (c, p.2) := by subst h; rfl
theorem triple_of {α β γ : Type} {p : α × β × γ} {c : α} (h : p.1 = c) : p = (c, p.2.1, p.2.2) := by subst h; rfl
theorem quad_of {α β γ δ : Type} {p : α × β × γ × δ} {c : α} (h : p.1 = c) : p = (c, p.2.1, p.2.2.1, p.2.2.2) := by subst h; rfl

/-- A job of one tile, 767, that runs 1 group. -/
def job0 : Job :=
  { ref := ⟨5, 15, 4095, 0⟩, words := [], stage := .running, tiles := [767], ntiles := 1, next := [], rerun := [], exited := [], lost := [],
    ins := [], outs := [], cplPa := 0, shape := none, endCode := none, faulted := false, firstStatus := 0, fls := 0, tileLost := false, nonrepro := false, saved := false,
    silent := false, startTb := 0, faultPc := 0, faultVa := 0, faultTile := 0, faultSlot := 0, faultGroup := 0, host := none, energy := (0, 1),
    blocks := [], takenAt := 0, ctl := false }

/-- A group at 0x1000 with lanes `mask`, and addresses in its scalar registers: 1 in SLM, 2 in Grotto or global memory. -/
def grp (mask : W32) : Group :=
  { groupId := 0, attempt := 0, stack := [⟨0x1000, mask, none⟩], exited := 0, vregs := [], sregs := [(1, 0xFFFC), (2, 0x1FF8)], preds := [],
    wait := .ready, pend := [], unperformed := [], invisible := [] }

/-- Tile 767 runs `job0` with one group in slot 15. -/
def tile0 (gr : Group) : Tile :=
  { Tile.reset with mode := .running, job := some job0.ref, alloc := 16, slmBytes := 0x10000, groups := [(15, gr)] }
def onTile (gr : Group) : State :=
  setTile { rset (rset up .jobTiles 5 0 1 (2 ^ 63)) .grtOwner 5 0 0 0x80 with
    jobs := [job0], tlb := [⟨767, 0, 1, 1, 0xFE⟩] } 767 (tile0 gr)
def lane31 : State := onTile (grp 0x80000000)
def whole : State := onTile (grp 0xFFFFFFFF)
def readyGr (s : State) : Group := ((ready s 767 15).getD (grp 0, s)).1
def readySt (s : State) : State := ((ready s 767 15).getD (grp 0, s)).2
theorem ready_of {s : State} (h : (ready s 767 15).isSome = true) : ready s 767 15 = some (readyGr s, readySt s) := got _ h

/-- A word of the V, the I and the M form (R55). -/
def vWord (ty dk dst ak a bk b ck c md : Nat) : BitVec 56 :=
  BitVec.ofNat 56 (ty <<< 52 + dk <<< 44 + dst <<< 36 + ak <<< 34 + a <<< 26 + bk <<< 24 + b <<< 16 + ck <<< 14 + c <<< 6 + md)
def iWord (ty dk dst ak a imm md : Nat) : BitVec 56 :=
  BitVec.ofNat 56 (ty <<< 52 + dk <<< 44 + dst <<< 36 + ak <<< 34 + a <<< 26 + imm <<< 2 + md)
def mWord (ty dk dst ak a mb space aop : Nat) : BitVec 56 :=
  BitVec.ofNat 56 (ty <<< 52 + dk <<< 44 + dst <<< 36 + ak <<< 34 + a <<< 26 + mb <<< 18 + space <<< 15 + aop <<< 9)

/-- A row whose word issues in `lane31`, whose other word is illegal there, and which waits on a tile that does not run. -/
def RowMet (r : AluRow) (w bad : BitVec 56) : Prop :=
  issues (r.form w.toNat) r.iform (r.bad w.toNat) 767 15 w.toNat lane31 (readySt lane31) (readyGr lane31) ∧
  (r.form bad.toNat).check r.iform (tile lane31 767).alloc bad.toNat (r.bad bad.toNat) ≠ 0 ∧ ready up 767 15 = none

theorem witness_IntegerInstructionsComputeTheirRows : ∃ r ∈ integerRows, RowMet r (vWord 0 0 15 0 14 0 0 0 0 0) (vWord 13 0 0 0 0 0 0 0 0 0) :=
  ⟨_, List.mem_cons_self, ⟨ready_of (by decide +kernel), by decide +kernel, by decide +kernel⟩, by decide +kernel, by decide +kernel⟩
theorem witness_FloatingInstructionsComputeTheirRows : ∃ r ∈ floatRows, RowMet r (vWord 4 0 15 0 14 0 13 0 12 0) (vWord 13 0 0 0 0 0 0 0 0 0) :=
  ⟨_, List.mem_cons_self, ⟨ready_of (by decide +kernel), by decide +kernel, by decide +kernel⟩, by decide +kernel, by decide +kernel⟩
theorem witness_PredicateInstructionsComputeTheirRows :
    ∃ r ∈ predicateRows, RowMet r (vWord 0 2 15 0 14 0 13 0 0 0) (vWord 13 0 0 0 0 0 0 0 0 0) :=
  ⟨_, List.mem_cons_self, ⟨ready_of (by decide +kernel), by decide +kernel, by decide +kernel⟩, by decide +kernel, by decide +kernel⟩

/-- The translations of a global access by all lanes, and its state. -/
def xl (s : State) (n : Need) (w : BitVec 56) (d : Bool) : Nat × Nat × List (Nat × Nat) × State :=
  lanesXlate 767 (tile (readySt s) 767).ctx n (laneAddrs (readyGr s) w.toNat d) (readySt s)
def stWord : BitVec 56 := mWord 0 0 0 1 2 15 0 0
def ldWord : BitVec 56 := mWord 0 0 15 1 2 0 0 0
def atWord : BitVec 56 := mWord 0 0 15 1 2 14 0 0
def stX := xl lane31 .store stWord false
def ldX := xl lane31 .load ldWord true
def atX := xl lane31 .atomic atWord true
def unmapped : State := { lane31 with tlb := [] }
def noX := xl unmapped .load ldWord true
/-- A full set of miss registers, and a path that another group holds. -/
def full : State := setTile lane31 767 { tile0 (grp 0x80000000) with l1Miss := List.replicate 64 ⟨0, [], false, true, []⟩ }
def held : State := setTile lane31 767 { tile0 (grp 0x80000000) with groups := [(14, grp 1), (15, grp 0x80000000)], heldBy := some 14 }
def fullX := xl full .load ldWord true
def heldX := xl held .load ldWord true
def heldSt := xl held .store stWord false
def heldAt := xl held .atomic atWord true
def noSt := xl unmapped .store stWord false
def noAt := xl unmapped .atomic atWord true
theorem none_of {α : Type} {o : Option α} (h : o.isNone = true) : o = none := by cases o with | none => rfl | some a => cases h
/-- A group whose address lies at the end of the tile's SLM. -/
def beyond : State := onTile { grp 0x80000000 with sregs := [(1, 0x10000)] }
def loaded : State := (loadGlobal (correctedBy ldX.2.2.2 (eccTile 767) 1) 767 15 false 15 4 ldX.2.2.1 0 []).getD up
/-- Lane 31 apart from lanes 0 to 30, and a join where the upper entry stands. -/
def parted : Group := { grp 0x80000001 with preds := [(1, 1)] }
def joining : Group := { parted with stack := [⟨0x1000, 0x80000001, some 0x1010⟩, ⟨0x1010, 0xFFFFFFFF, none⟩] }
/-- A word of the B form with guard predicate 1. -/
def bWord (reconv target : Nat) (neg : Bool) : BitVec 56 :=
  BitVec.ofNat 56 (1 <<< 51 + b2n neg <<< 50 + 1 <<< 46 + reconv <<< 32 + target)
def loading : State := onTile { grp 0x80000000 with pend := [⟨1, false, 9, 4, [], [0], []⟩] }
/-- A job whose tile has barrier 15 with one arrival of two. -/
def waiting1 (gr : Group) (b : Barrier) : State := setTile whole 767 { tile0 gr with barriers := [(15, b)] }
def pending : State := onTile { grp 0xFFFFFFFF with pend := [⟨1, false, 9, 4, [], [0], []⟩] }
/-- A group at the end of the lower half of the address space, and one whose stack holds 31 entries. -/
def lastPc : Group := { parted with stack := [⟨0x7FFFFFFFFFF8, 0x80000001, none⟩] }
def deep : Group := { parted with stack := ⟨0x1000, 0x80000001, none⟩ :: List.replicate 30 ⟨0x2000, 0xFFFFFFFF, none⟩ }
def bar1 : Barrier := { count := 2, need := 2, arrived := 1, waiters := [], early := [], passed := [], named := true }
def allWait : State := onTile { grp 0xFFFFFFFF with wait := .barrier 15 }
def invisible1 : State := onTile { grp 0xFFFFFFFF with invisible := [1] }

/-- An mma of s8, with CLR, on accumulator tile 31, engine 3. -/
def mmaWord : BitVec 56 := BitVec.ofNat 56 (5 <<< 52 + 31 <<< 40 + 0 <<< 32 + 8 <<< 24 + 5 <<< 3 + 1)
def mmaOp : MtxOp := ⟨128, mmaWord, ⟨15, 0, 0⟩, [], [], 0, 0, [], false⟩
def withEngine (e : Engine) : State :=
  { setTile whole 767 { tile0 (grp 0xFFFFFFFF) with engines := [(3, e)] } with copies := [(5, 1984)] }

/-- A Flowstone block: a copy of one f32 element in SLM. -/
def flsWords : List W64 :=
  [0x0100000000000000, 0x0001000100010001, 0, 0, 0, 0, 0, 0, 0, 0, 0, 0, 0x2000000000000000, 0, 0, 0, 0x2000000000000100] ++
    List.replicate 15 0
def flsCmd (started : Bool) : FlsCmd := ⟨flsWords, ⟨15, 0, 0⟩, 0, started, [], [], 0, 0, 0⟩
def withFls (cs : List FlsCmd) : State :=
  setTile whole 767 { tile0 { grp 0xFFFFFFFF with sregs := [(63, 0xFF00)] } with fls := cs, slm := memPut [] 0xFF00 (wordBytes flsWords) }
def mmasState : State := onTile { grp 0xFFFFFFFF with sregs := [(60, 0x40000000000), (61, 0x2000200020)] }
def zeroTag : State := whole
def fetchX := translate (readySt lane31) 767 (tile (readySt lane31) 767).ctx ((readyGr lane31).top.pc.toNat % 2 ^ 48) .fetch

theorem got_eq {α β : Type} {o : Option (α × β)} {a : α} (d : α × β) (h : o.map Prod.fst = some a) : o = some (a, (o.getD d).2) := by
  cases o with
  | none => cases h
  | some p => cases p; injection h with h; subst h; rfl

/-- Die C5 with its die cache in state `c`, and a read of line 352 behind another request. -/
def withDcc (en : Bool) (c : DieCache) : State := setDcc (rfset up .dccStatus 5 0 0 1 1 (b2n en)) 5 c
def req0 (k : ReqKind) : MemReq := ⟨7, 352, k, .l1Fill 767, false, false, 0, false⟩
def other : MemReq := ⟨6, 99, .write [(127, 1)] [], .none, false, false, 0, false⟩
def rdTop : ReqKind := .read (BitVec.ofNat 128 (2 ^ 127))
def wrTop : ReqKind := .write [(127, 0xAB)] []
def atTop : ReqKind := .atomic 0 0 124 [(1, 0)]
def line1 : DccLine := ⟨352, BitVec.ofNat 128 (2 ^ 127), BitVec.ofNat 128 (2 ^ 127), 0, [(127, 0xAB)], false, false, false⟩
def dc (ls : List (Nat × DccLine)) (k : ReqKind) : DieCache := { DieCache.reset with lines := ls, inq := [other, req0 k] }
def popped (s : State) : State := setDcc s 5 { dcc s 5 with inq := [other] }
def missing : State := withDcc true (dc [] rdTop)
def allocX : Nat × State :=
  (dccAlloc (popped missing) 5 352 (openWays (popped missing) 5)).getD (0, up)
def writtenX : Nat × State :=
  (dccAlloc (popped (withDcc true (dc [] wrTop))) 5 352 (openWays (popped (withDcc true (dc [] wrTop))) 5)).getD (0, up)
def filling (f : FillMsg) : State :=
  { withDcc true { DieCache.reset with lines := [(5647, line1)], misses := [⟨352, 15, [], false⟩] } with dccFills := [(5, f)] }
def maintReg (addr len busy : Nat) : State :=
  rfset (rfset (rfset up .dccMaintAddr 5 0 0 47 0 addr) .dccMaintLen 5 0 0 48 0 len) .dccMaintStatus 5 0 0 63 63 busy

/-- A home with a line in its write queue, and one request behind another. -/
def atHome (h : Nat) (k : ReqKind) (e : HomeSt) : State := setHome up h { e with reqs := [other, req0 k] }
def sump1 : HomeSt := { HomeSt.reset with sump := [⟨352, [(127, 0xAB)], [], false⟩], writeQ := [(353, List.replicate 128 0xCD)] }
def rdFirst : State := atHome 35 rdTop HomeSt.reset
def rdSump : State := atHome 35 rdTop sump1
def wrHome : State := atHome 11 wrTop HomeSt.reset
def atHome1 : State := atHome 11 atTop HomeSt.reset
def xRdFirst : State := ((takeReq (correctedBy rdFirst (eccDir 15) 1) (homeKey (.deep 1 11)) 1 MemReq.isRead).getD (other, up)).2
def xRdSump : State := ((takeReq (correctedBy rdSump (eccDir 15) 1) (homeKey (.deep 1 11)) 1 MemReq.isRead).getD (other, up)).2
def xWr : State := ((takeReq (correctedBy wrHome (eccDir 27) 1) (homeKey (.fast 11)) 1 MemReq.isWrite).getD (other, up)).2
def xAt : State := ((takeReq atHome1 (homeKey (.fast 11)) 1 MemReq.isAtomic).getD (other, up)).2
def stackRead (o : Origin) : StackRead := ⟨{ req0 rdTop with from_ := o }, List.replicate 128 0x5A, BitVec.ofNat 128 (2 ^ 127), 0⟩
def reading (o : Origin) : State := setHome up 11 { HomeSt.reset with reads := [stackRead o] }
def amuReq : MemReq := { req0 atTop with from_ := .atomic 767 15 9 }
def amuSt : State := setHome up 11 { HomeSt.reset with amuQ := [other, amuReq] }
def amuX : Nat × List Nat × State :=
  amuExec (setHome amuSt (homeKey (.fast 11)) { home amuSt (homeKey (.fast 11)) with amuQ := [other] }) (homeKey (.fast 11)) amuReq .good
def drainReg (addr len busy : Nat) : State :=
  rfset (rfset (rfset up .lpdDrainAddr 15 11 0 47 0 addr) .lpdDrainLen 15 11 0 48 0 len) .lpdMergeStatus 15 11 0 63 63 busy
def trained : State := rfset up .lpdCfg 15 11 0 7 0 255

/-- Line 383 is one of home 11. -/
def byte128 : List Byte := List.replicate 128 0x77
def sharedBy (ids : List Nat) : DirEntry := ⟨.shared, .ptr ids, 9⟩
def withDir (e : DirEntry) : State := { up with dir := [(383, e)] }
def amo1 (op : Nat) : CoreAmo := ⟨BitVec.ofNat 5 op, true, BitVec.ofNat 48 (383 * 128 + 124), 1⟩
def withCore (amo : Option AmoWait) : State := { up with cores := [(127, { CoreSt.reset with released := true, amo := amo })] }
def farCore : State := withCore (some ⟨amo1 0, true, false⟩)
def msgTo (a : Nat) (m : CohMsg) : State := { up with cohNet := [⟨a, 382, .wbAck⟩, ⟨a, 383, m⟩] }
def copySt (a : Nat) (st : MoesiState) (hold : Bool) (d : Option CohMsg) : CacheLine := ⟨st, byte128, hold, d⟩
def snooped (c : List (Nat × CacheLine)) : State := { msgTo 131 .snpShared with caches := c }
def snpX (s : State) : State := ((takeMsg s 131 383 (fun (x : CohMsg) => x == .snpShared) toAgent).getD (.wbAck, up)).2
def sn1 : State := snooped [(copyKey 131 383, copySt 131 .m false none)]
def sn2 : State := snooped []
def sn3 : State := snooped [(copyKey 131 383, copySt 131 .m true none)]
def txn1 (k : TxnKind) (w : List Nat) : Txn :=
  { kind := k, req := 5, waiting := w, data := none, wbFrom := [], gotClean := false, gotData := false, request := none, written := [],
    stalled := none }
def arriving (m : CohMsg) (t : Txn) (e : DirEntry) : State := { msgTo 127 m with txns := [(383, t)], dir := [(383, e)] }
def gone (s : State) (m : CohMsg) : State := { s with cohNet := s.cohNet.erase ⟨127, 383, m⟩ }
def grantTo : State := msgTo 131 (.grantE byte128 true)
def grantX : State := ((takeMsg grantTo 131 383 (fun (m : CohMsg) =>
  match m with | .grantS _ => true | .grantE _ _ => true | .grantUpgrade => true | .grantErr _ => true | _ => false) toAgent).getD (.wbAck, up)).2
def errTo : State := msgTo 131 (.grantErr 0x841)
def errX : State := ((takeMsg errTo 131 383 (fun (m : CohMsg) =>
  match m with | .grantS _ => true | .grantE _ _ => true | .grantUpgrade => true | .grantErr _ => true | _ => false) toAgent).getD (.wbAck, up)).2
def wbAckTo : State := msgTo 131 .wbAck
def wbAckX : State := ((takeMsg wbAckTo 131 383 (fun (x : CohMsg) => x == .wbAck) toAgent).getD (.wbAck, up)).2
def cmoAckTo : State := msgTo 131 .cmoAck
def cmoAckX : State := ((takeMsg cmoAckTo 131 383 (fun (x : CohMsg) => x == .cmoAck) toAgent).getD (.wbAck, up)).2
/-- What lets a home take a coherent request at once. -/
theorem takes_of {s : State} {a line h : Nat}
    (now : homeNo s line = some h ∧ homeOpen s h = true ∧ dieActive s (agentDie a) = true ∧ a ≤ 130 ∧ lineBusy s h line = false ∧
      (∀ r ∈ (home s h).reqs, r.line ≠ line) ∧ (home s h).sent = 0)
    (sorted : s.homes.rising) (quiet : HomesQuiet s h) : cohTakes s a line h :=
  let ⟨a1, a2, a3, a4, a5, a6, a7⟩ := now
  ⟨a1, a2, a3, a4, a5, a6, a7, sorted, quiet⟩
def coreCopy (st : MoesiState) : State := { withCore none with caches := [(copyKey 127 383, copySt 127 st false none)] }

theorem none_all {α : Type} {o : Option α} {p : α → Prop} (h : o.isNone = true) : ∀ x, o = some x → p x := by
  intro x e
  subst e
  cases h

/-- A queue of Grotto C5 with one descriptor. -/
def withQ (key : Nat) (q : Queue) : State := setGrotto whole 5 { Grotto.reset with queues := [(key, q)] }
def taken1 (least : W64) (started : Bool) (r : Option (Nat × Nat)) : Taken :=
  { slot := 4095, off := 0, engine := 6, ctx := 0, words := [2 ^ 44, 0, 0, least], started := started, result := r, signal := false,
    waiting := [], fails := [], fva := 0, reads := [], writes := [], spoiled := false }
/-- A descriptor that waits on a word which its context does not own. -/
def unowned1 : Taken := { taken1 0 false none with words := [2 ^ 44, 0, 0x100000, 0] }
def contrib1 : Contribution := ⟨0, 63, 63, [1], ⟨5, 31, 4095, 0⟩⟩
def coll1 : CollSlot :=
  { ctx := 0, mode := 0, op := 0, ty := 0, dst := 0x100000 - 512, stage := 0, len := 8, n := 64, arrived := [0], key := 31, dslot := 4095,
    timeoutUs := 1 }
def withColl (c : List (Nat × CollSlot)) (cs : List Contribution) : State :=
  setGrotto whole 5 { Grotto.reset with coll := c, contribs := cs }
def send1 : SendDest :=
  { desc := 4095, dest := 31, kind := 0, die := 5, conn := 0, slot := 63, rank := 0, record := some [1, 2], left := [], rowsOk := 0, failed := 0,
    recordFailed := false, sent := false }
def sending : State := withQ 31 ⟨[taken1 0 true none], [send1]⟩
def rebind1 : Rebind := ⟨31, 4095, none, 0, false⟩

def fabUp : State := rset up .fabQcfg 13 0 63 (2 ^ 63)
def fabCfg : QCfg := (qcfg fabUp (queueOf (.fab 3 63)).1 (queueOf (.fab 3 63)).2).getD ⟨false, 0, 0, false, false, 0, 0, 0, 0, 0⟩

/-- Job queue 15 of C5 holds one descriptor, at slot 1. -/
def jobWaits : State := rset (rset up .jobQcfg 5 0 15 (2 ^ 63)) .jobQptr 5 0 15 (2 ^ 32 + 2)
def rrAt (s : State) (k : CDie) (q : Fin 16) : State := { s with rrNext := mput 0 s.rrNext k.val ((q.val + 1) % 16) }
def busX : Nat × List Byte × State :=
  busRead (rrAt jobWaits 5 15) none false
    (rf jobWaits .jobQcfg (5 : CDie).val 0 (15 : Fin 16).val 47 8 * 256 + 256 * rf jobWaits .jobQptr (5 : CDie).val 0 (15 : Fin 16).val 43 32) 256
theorem busX_code : busX.1 = 0 := by decide +kernel
theorem busX_eq : busX = (0, busX.2.1, busX.2.2) := triple_of busX_code
def jw (dies : Nat) (img : W64) : List W64 :=
  [BitVec.ofNat 64 (2 ^ 56 + dies * 2 ^ 24 + 8), 0, BitVec.ofNat 64 (2 ^ 47 + 2 ^ 16), 0, 0, 0, 0, 0, 0, 0, 0, 0, 0, 0, 0, 0, 0, 0, 0, img]
def ref1 : JobRef := ⟨5, 15, 4094, 0⟩
def inCtx : State := rset whole .jobCtx 5 0 0 (2 ^ 63)
def jobAt (st : JobStage) : Job := { job0 with words := jw 32 0, stage := st, next := [(0, 15)] }
def waitingJob : Job := { jobAt (.waiting true) with ref := ref1 }
def freeTile : State := setTile { whole with jobs := [waitingJob] } 767 Tile.reset
def fullTile : State := { whole with jobs := [job0, waitingJob] }
def oneSlotLeft : State := setTile { whole with jobs := [jobAt .running] } 767
  { tile0 (grp 1) with groups := (List.range 15).map fun i => (i, grp 1) }
def ending : State := { whole with jobs := [{ job0 with endCode := some 1 }] }
def saveJob : Job := { job0 with words := jw 32 4096 }

/-- Port 15, of L13, in state `st`. -/
def portIn (st : Nat) : State := rfset up .fabPortStatus 13 3 0 3 0 st
def withPort (st : Nat) (p : PortSt) : State := setPort (portIn st) 15 p
def frame (seq errors : Nat) : DataFrame := ⟨BitVec.ofNat 20 (seq <<< 6), Fin.ofNat 545 errors, []⟩
def ackFrame (ack : Nat) : ControlFrame := ⟨BitVec.ofNat 12 ack, none, [], 0, false, false, false, false, none⟩
def pkt (ty dst psn status : Nat) (data : List Byte) : Packet :=
  { ptype := BitVec.ofNat 4 ty, vc := 0, dst := BitVec.ofNat 18 dst, src := 0, dconn := 8191, hops := 62, psn := BitVec.ofNat 32 psn, cgen := 255,
    len := 0, ord := false, space := 0, die := 0, aop := 0, atype := 0, addr := 0, status := BitVec.ofNat 16 status, tag := 0, slot := 0,
    rank := 0, payload := data }
def gotPkt (p : Packet) : State := withPort 3 { PortSt.reset with rx := [p] }
def outOf : Routed → Option (Nat × Packet)
  | .out q pk => some (q, pk)
  | _ => none
theorem out_of {r : Routed} (h : (outOf r).isSome = true) : r = .out ((outOf r).getD (0, pkt 0 0 0 0 [])).1 ((outOf r).getD (0, pkt 0 0 0 0 [])).2 := by
  cases r with
  | out q pk => rfl
  | _ => cases h
def dropCode : Routed → Option Nat
  | .drop c => some c
  | _ => none
theorem drop_of {r : Routed} {c : Nat} (h : dropCode r = some c) : r = .drop c := by
  cases r with
  | drop d => injection h with h; rw [h]
  | _ => cases h
def routed : State := rset (setPort (portIn 3) 15 { PortSt.reset with rx := [pkt 1 511 0 0 []] }) .fabMemberRt 13 0 511 (2 ^ 63 + 2 ^ 60 + 15)

def routedTo : Routed := routeOf routed 13 false (pkt 1 511 0 0 [])
def routedOut : Nat × Packet := (outOf routedTo).getD (0, pkt 0 0 0 0 [])
def conn1 (perms : Nat) : State :=
  rfset (rset up .fabConn 13 0 2047 (2 ^ 63 + 255 * 2 ^ 47 + perms)) .fabE2eCfg 13 0 0 7 0 3
def inbox (s : State) (p : Packet) : State := { s with delivered := [(0, pkt 9 0 0 0 []), (1, p)] }
def outbox (s : State) : State := { s with delivered := [(0, pkt 9 0 0 0 [])] }
def allPerms : Nat := 31 * 2 ^ 42
def writeIn : State := inbox (conn1 allPerms) (pkt 1 0 0 0 [])
def messageIn : State := inbox (conn1 allPerms) (pkt 4 0 0 0 [])
def denied : State := inbox (conn1 0) (pkt 1 0 0 0 [])
def ahead : State := inbox (conn1 allPerms) (pkt 1 0 (2 ^ 31 - 1) 0 [])
def behindAtomic : State := inbox (conn1 allPerms) (pkt 3 0 (2 ^ 31) 0 [])
def behindRead : State := inbox (conn1 allPerms) (pkt 2 0 (2 ^ 32 - 1) 0 [])
def rdDone := performRead (outbox behindRead) 8191 (pkt 2 0 (2 ^ 32 - 1) 0 [])
def behindWrite : State := inbox (conn1 allPerms) (pkt 1 0 (2 ^ 32 - 1) 0 [])
def strange : State := inbox up (pkt 1 0 0 0 [])
def wrDone := performWrite (outbox writeIn) 8191 (pkt 1 0 0 0 [])
def msgDone := performMessage (outbox messageIn) 8191 (pkt 4 0 0 0 [])
def rxOff : State := rset (conn1 0) .fabQcfg 13 0 0 0
def rxCfg : QCfg := (qcfg rxOff (cDieOf (connDie 8191)) (32 + connF rxOff 8191 41 36)).getD ⟨false, 0, 0, false, false, 0, 0, 0, 0, 0⟩
def sent (psn sends full : Nat) (wait : Bool) : OutReq := ⟨pkt 1 0 psn 0 [], none, sends, full, wait, 0, 0, 0⟩
def sentSt (r : OutReq) (p : Packet) : State :=
  { inbox (conn1 allPerms) p with conns := [(8191, { Conn.reset with out := [r] })] }
def topPsn : Nat := 2 ^ 32 - 1
def recvOn : State := rset up .fabQcfg 13 0 63 (3 * 2 ^ 62)
def recvCfg : QCfg := (qcfg recvOn (cDieOf (10 + (3 : LDie).val)) (32 + (63 : Fin 64).val)).getD ⟨false, 0, 0, false, false, 0, 0, 0, 0, 0⟩
def report : Packet := pkt 6 0 0 0 (toBytes 8 (2 ^ 56 + 0xFFFF * 2 ^ 40))
def inGroup (g : Nat) : State := { up with rim := { up.rim with group := some g } }
def reported : State := inbox (inGroup 0xFFFF) report
def partner1 : Partner := ⟨2 ^ 18 - 1, none, 0, 0, 0, 0, 0, 0, 0, 0, false⟩

/-- Link 4 of C5, to link 1 of X15, with other links of both dies up. -/
def linkIn (st : Nat) (ls : List (Nat × LinkSt)) : State :=
  { rfset (rfset (linkFull (linkFull up 5 2) 15 0) .dlkLinkStatus 5 4 0 3 0 st) .dlkLinkStatus 15 1 0 3 0 st with links := ls }
def keptLink : LinkSt := { LinkSt.reset with mask := 15, fresh := false }
/-- That a link can be missed is decided at its two dies. -/
theorem linkSpare_of {s : State} {die l : Nat}
    (h : (match linkPartner die l with
      | none => true
      | some q => [die, q.1].all fun d => !linkDie s d || hasPath (bothEnds s die l (linkGoes lkDown)) d) = true) : LinkSpare s die l := by
  intro p pl hp d hd hu
  rw [hp] at h
  have h1 := List.all_eq_true.mp h d (by rcases hd with rfl | rfl <;> simp)
  simpa [hu] using h1
def link1 : LinkRef := ⟨.c 5, 4⟩
def identity1 (ty : Nat) : Identity := ⟨1, BitVec.ofNat 4 ty, 15, 1, 4, 3, 15, false⟩

/-- Host queue 63 in state `st`, of 4096 slots, under generation 255. -/
def hqIn (st : Nat) (h : HostQueue) : State := setHq (rfset up .hifHqStatus 14 0 63 3 0 st) 63 h
def hq1 : HostQueue := { HostQueue.reset with cfg := 2 ^ 63 + 255 * 2 ^ 48 + 8 * 2 ^ 44 + 2 ^ 16, sqTail := 1 }
def slot (op : Nat) (w : List W64) (body : List Byte) : HostSlot := ⟨BitVec.ofNat 64 (op * 2 ^ 56 + 255 * 2 ^ 48) :: w, body⟩
def slotW (op ilen : Nat) (w : List W64) : HostSlot :=
  ⟨BitVec.ofNat 64 (op * 2 ^ 56 + 255 * 2 ^ 48 + ilen * 2 ^ 32) :: w, List.replicate 192 0xEE⟩
def submit1 : HostSlot := slot 1 [0, 0, 0, BitVec.ofNat 64 (5 * 2 ^ 48 + 15 * 2 ^ 44)] []
def inline1 : HostSlot := slotW 2 192 [BitVec.ofNat 64 (0xC000000000 - 192)]
def up1 : HostSlot := slot 3 [BitVec.ofNat 64 (0xC000000000 - 4), 0x1000, 4] []
def down1 : HostSlot := slot 4 [BitVec.ofNat 64 (0xC000000000 - 4), 0x1000, 4] []
def hqOn : State := rfset (hqIn hqActive hq1) .jobQcfg 5 0 15 63 63 1
def hqHdr (c : HostSlot) (i : Nat) : Nat := wd c.hdr i
def submitX : Nat × State :=
  devWrite (slotFetched hqOn 63 submit1)
    (rf (slotFetched hqOn 63 submit1) .jobQcfg 5 0 15 47 8 * 256 + 256 * rf (slotFetched hqOn 63 submit1) .jobQptr 5 0 15 11 0)
    (submit1.body.take 160 ++ List.replicate 96 0)
def inlineX : Nat × State := devWrite (slotFetched hqOn 63 inline1) (wd inline1.hdr 1) (inline1.body.take 192)
def downX : Nat × Nat × State :=
  hqD2H (2 * cdiv (wd down1.hdr 3) 128 + 2) (slotFetched hqOn 63 down1) (wd down1.hdr 2) (wd down1.hdr 1) (wd down1.hdr 3) 0
def cmd1 (da : Nat) : HostCmd := ⟨4095, up1, none, [(1023, 0x1000, da, 4)], 4, 0⟩
def reading1 (da : Nat) : State := hqIn hqActive { hq1 with started := [cmd1 da] }
def readX (da : Nat) : Nat × State := devWrite (count (reading1 da) .hifRxBytes 14 0 0 4) da [1, 2, 3, 4]
def hqCfgOn : State := rfset hqOn .hifHqCfg 14 0 63 63 63 1

def winAt (b : Nat) : State := rfset up .hifWinBase 14 0 0 47 32 b
def winAddr (b : Nat) : Nat := rf (winAt b) .hifWinBase 14 0 0 47 32 <<< 32 + 0xFFFFFFFC
def winRead (b : Nat) := busRead (winAt b) none true (winAddr b) 4
def winWrite := busWrite (count (winAt 0xBF) .hifRxBytes 14 0 0 4) none true (winAddr 0xBF) [1, 2, 3, 4]
def winAtomic := devAtomic (count (winAt 0xBF) .hifRxBytes 14 0 0 4) (winAddr 0xBF) 0 0 1 0
def compatOn : State := rfset up .hifCap 14 0 0 0 0 1
def compatRead := busRead compatOn none false 0xBFFFFFFFFC 4
def compatWrite := busWrite (count compatOn .hifRxBytes 14 0 0 4) none false 0xBFFFFFFFFC [1, 2, 3, 4]

/-- Mailbox `m` holds a command. -/
def mb (m op : Nat) (b : List Byte) (s : State) : State :=
  mbxSet (rset (mbxPut s m b) .mbxCmd 14 (m - 1) 0 (b.length * 65536 + op)) m 3 0 mbBusy
def le (n v : Nat) : List Byte := toBytes n v
def spent : State := mb 31 0x0203 [0, 0, 0, 0]
  { up with flash := { up.flash with keys := { up.flash.keys with ownerKey := some 5 } }, uszon := { up.uszon with floors := [(31, 0xFFFFFFFFFFFFFFFE)] } }
def spentX : Nat × State := mbxAuth spent 31 0x0203 4
def counterAddr : Nat := regAddr .hifRxBytes 14 0 0
def capture : List Byte := le 2 2 ++ [0, 0, 0, 0, 0, 0] ++ le 8 counterAddr ++ le 8 counterAddr
def group1 : List Byte := le 2 0xFFFF ++ le 2 0 ++ [31, 0, 0, 0] ++ (List.replicate 31 (le 4 (2 ^ 18 - 1))).flatten
def key32 : List Byte := List.replicate 32 7
/-- A command of mailbox 15 with the tag of the owner key. -/
def untagged (op : Nat) (b : List Byte) : State :=
  rset (mb 15 op b { up with flash := { up.flash with keys := { up.flash.keys with ownerKey := some 5 } } }) .mbxAuthCtr 14 14 0 1
def tagged (op : Nat) (b : List Byte) (t0 t1 : Nat) : State :=
  rset (rset (untagged op b) .mbxAuthTag0 14 14 0 t0) .mbxAuthTag1 14 14 0 t1
/-- The KMAC256 tags of the two commands. -/
def keyRoll1 : State := tagged 1794 key32 3518003805884314589 8694073660485733745
def ownerClear1 : State := tagged 1795 [] 8355113623079929080 18104914959690456050
def accepted (s : State) : State := mbxSet { s with uszon := { s.uszon with floors := [(15, 1)] } } 15 4 4 1
def chunk (off : Nat) : List Byte := le 4 off ++ le 2 8 ++ [0, 0] ++ le 8 7
def loading1 : State :=
  { up with uszon := { up.uszon with fwOpen := true, fwReceived := 1048568, fwSize := some 1048576 } }
def image1 : List Byte := le 8 0x15746344B ++ le 8 4096
def imaged : State := { up with flash := { up.flash with image := some image1 } }

/-- Mailbox 31 holds a command, over `s`. -/
def at31 (op : Nat) (b : List Byte) (s : State) : State := mb 31 op b s
def ctxs (n : Nat) : State := (List.range n).foldl (fun s i => rset s .jobCtx 0 0 i (2 ^ 63)) up
def inCtx63 : State := rset up .jobCtx 0 0 63 (2 ^ 63 + 0xFFFF * 2 ^ 44)
def connReq : List Byte := le 2 8191 ++ [63, 0] ++ le 2 0xFFFF ++ [31, 31, 63, 1, 0, 0] ++ le 4 (2 ^ 18 - 1) ++ le 2 8191
def routesReq : List Byte := [1, 0] ++ le 2 448 ++ le 2 64 ++ [0, 0] ++ (List.replicate 64 (le 8 (2 ^ 63))).flatten
def heldDie : State := setDieSt few 13 dsHeld
def resetX : Nat × State := dieAction (at31 769 [13, 1] heldDie) (fld [13, 1] 1 1) (fld [13, 1] 0 1)
def pendingSt (p : PendB) : State := { up with uszon := { up.uszon with pendingB := [(31, p)] } }
def destroying : State := { inCtx63 with uszon := { up.uszon with pendingB := [(31, ⟨258, 63 + 256 * 0xFFFF, none⟩)] } }
def i3cOn : State := { up with side := { up.side with i3cAddr := some 9 } }
def mctpBody (op : Nat) : List Byte := le 2 op ++ List.replicate 30 0


theorem witness_IdleStepTicksTimebase :
    (∃ (s : Machine.State), s.pending = [] ∧ s.pins.aux = false) ∧
    (∃ (s : Machine.State), s.pending = [] ∧ s.pins.aux = true ∧ s.pins.auxReset = false ∧ s.uszon.timeSet = none ∧ BitVec.toNat s.master + 1 < 2 ^ 64) :=
  ⟨⟨State.reset, by decide +kernel⟩,
   ⟨up, by decide +kernel⟩⟩

theorem witness_StepKeepsCanonicalForm :
    ∃ (s : Machine.State) (t : Machine.State), Canonical s ∧ step s = Host.Outcome.next t :=
  ⟨State.reset, State.reset, canonical_of (by decide +kernel), rfl⟩

theorem witness_CommandsAnswerAndLeaveTheQueueAlone :
    (∃ (c : Instr) (s : Machine.State) (t : Machine.State), exec c s = Host.Outcome.next t) ∧
    (∃ (c : Instr), (∀ (op : W32), c ≠ Instr.jtagInstruction (JtagOp.debug op))) ∧
    (∃ (s : Machine.State), rf s Reg.secStatus 14 0 0 0 0 ≠ 1) :=
  ⟨⟨.mctpGetEndpointId 0, State.reset, State.reset, rfl⟩,
   ⟨.exit 0 0 0, fun _ h => Instr.noConfusion h⟩,
   ⟨State.reset, by decide +kernel⟩⟩

theorem witness_AuxiliaryPowerStartsUszon :
    (∃ (s : Machine.State), s.pins.aux = false) ∧
    (∃ (s : Machine.State), Canonical s ∧ s.pins.aux = true ∧ s.pins.auxReset = true ∧ s.holds = [] ∧ s.pins.rails = false ∧ s.pins.pwrGood = false ∧ s.uszon.startFailed = false ∧ s.uszon.recovery = false) :=
  ⟨⟨State.reset, by decide +kernel⟩,
   ⟨inReset, canonical_of (by decide +kernel), by decide +kernel⟩⟩

theorem witness_RailsAndModResetHoldTheMainDomain :
    (∃ (s : Machine.State), Canonical s ∧ s.uszon.running = true ∧ s.uszon.startFailed = false ∧ (s.holds = [1] ∨ s.holds = [] ∧ phase s = 2) ∧ s.pins.rails = false) ∧
    (∃ (s : Machine.State), Canonical s ∧ phase s = 3 ∧ s.pins.pwrEn = true ∧ s.pins.modResetN = true ∧ s.holds = [] ∧ s.uszon.startFailed = false) ∧
    (∃ (s : Machine.State), Canonical s ∧ phase s = 3 ∧ s.pins.pwrEn = true ∧ s.pins.modResetN = false ∧ s.holds = [] ∧ s.uszon.startFailed = false) ∧
    (∃ (s : Machine.State), Canonical s ∧ s.holds = [2] ∧ s.uszon.startFailed = false ∧ s.pins.rails = true) ∧
    (∃ (s : Machine.State), Canonical s ∧ s.holds = [2] ∧ s.uszon.startFailed = false ∧ s.pins.rails = false ∧ s.pins.pwrEn = true ∧ s.uszon.running = true) :=
  ⟨⟨{ off with holds := [1] }, canonical_of (by decide +kernel), by decide +kernel⟩,
   ⟨converting, canonical_of (by decide +kernel), by decide +kernel⟩,
   ⟨{ converting with pins := { converting.pins with modResetN := false } }, canonical_of (by decide +kernel), by decide +kernel⟩,
   ⟨{ starting with holds := [2] }, canonical_of (by decide +kernel), by decide +kernel⟩,
   ⟨{ off with pins := { off.pins with pwrEn := true }, holds := [2] }, canonical_of (by decide +kernel), by decide +kernel⟩⟩

theorem witness_HostPortPinsAndTap :
    (∃ (s : Machine.State), s.pins.perstN = true) ∧
    (∃ (s : Machine.State), s.pins.perstN = false ∧ s.pins.pwrGood = true) ∧
    (∃ (why : PortLoss) (s : Machine.State), s.host.linkUp = true ∧ (why = PortLoss.d3hotToD0 → s.host.d3hot = true)) ∧
    (∃ (s : Machine.State), s.host.training = true ∧ s.pins.perstN = true) ∧
    (∃ (s : Machine.State), rf s Reg.secStatus 14 0 0 0 0 = 1) :=
  ⟨⟨up, by decide +kernel⟩,
   ⟨{ up with pins := { up.pins with perstN := false } }, by decide +kernel⟩,
   ⟨.d3hotToD0, { up with host := { up.host with d3hot := true } }, by decide +kernel⟩,
   ⟨{ up with host := { up.host with training := true } }, by decide +kernel⟩,
   ⟨rfset up .secStatus 14 0 0 0 0 1, by decide +kernel⟩⟩

theorem witness_MainStartupEndsReadyOrFailed_1 :
    ∃ (r : StartupResult) (s : Machine.State), let x : Machine.State := (startDies (rfset s Reg.dlkStraps 14 0 0 8 8 (b2n r.memMode)) r); Canonical s ∧ phase s = 4 ∧ s.pins.rails = true ∧ s.pins.modResetN = true ∧ s.holds = [] ∧ r.failure = none ∧ cutOff x = none ∧ 736 ≤ goodTiles r :=
  ⟨goodStart, starting, canonical_of (by decide +kernel), by decide +kernel, by decide +kernel, by decide +kernel, by decide +kernel, by decide +kernel, by decide +kernel, by decide +kernel⟩

theorem witness_MainStartupEndsReadyOrFailed_2 :
    ∃ (r : StartupResult) (s : Machine.State) (d : Die) (ph : BitVec 4), Canonical s ∧ phase s = 4 ∧ s.pins.rails = true ∧ s.pins.modResetN = true ∧ s.holds = [] ∧ r.failure = some (d, ph) :=
  ⟨{ goodStart with failure := some (.m 11, 6) }, starting, .m 11, 6, canonical_of (by decide +kernel), by decide +kernel⟩

theorem witness_MainStartupEndsReadyOrFailed_3 :
    ∃ (r : StartupResult) (s : Machine.State) (d : Nat), let x : Machine.State := (startDies (rfset s Reg.dlkStraps 14 0 0 8 8 (b2n r.memMode)) r); Canonical s ∧ phase s = 4 ∧ s.pins.rails = true ∧ s.pins.modResetN = true ∧ s.holds = [] ∧ r.failure = none ∧ cutOff x = some d :=
  ⟨lostColumn, starting, 8, canonical_of (by decide +kernel), by decide +kernel, by decide +kernel, by decide +kernel, by decide +kernel, by decide +kernel, by decide +kernel⟩

theorem witness_MainStartupEndsReadyOrFailed_4 :
    ∃ (r : StartupResult) (s : Machine.State), let x : Machine.State := (startDies (rfset s Reg.dlkStraps 14 0 0 8 8 (b2n r.memMode)) r); Canonical s ∧ phase s = 4 ∧ s.pins.rails = true ∧ s.pins.modResetN = true ∧ s.holds = [] ∧ (∃ (k : Nat), k < 3 ∧ dieActive x k = false ∧ dieActive x (k + 3) = false) :=
  ⟨lostColumn, starting, canonical_of (by decide +kernel), by decide +kernel, by decide +kernel, by decide +kernel, by decide +kernel, by decide +kernel⟩

theorem witness_MainStartupEndsReadyOrFailed_5 :
    ∃ (r : StartupResult) (s : Machine.State), let x : Machine.State := (startDies (rfset s Reg.dlkStraps 14 0 0 8 8 (b2n r.memMode)) r); Canonical s ∧ phase s = 4 ∧ s.pins.rails = true ∧ s.pins.modResetN = true ∧ s.holds = [] ∧ r.failure = none ∧ cutOff x = none ∧ goodTiles r < 736 :=
  ⟨{ goodStart with badTiles := (List.finRange 768).take 33 }, starting, canonical_of (by decide +kernel), by decide +kernel, by decide +kernel, by decide +kernel, by decide +kernel, by decide +kernel, by decide +kernel, by decide +kernel⟩

theorem witness_RegisterFieldsFollowTheirAccessCodes :
    ∃ (r : Reg) (f : Field) (old : Nat) (new : Nat), r ∈ Reg.all ∧ f ∈ r.spec.fields ∧ old < 2 ^ 64 ∧ new < 2 ^ 64 :=
  ⟨.dlkDieState, ⟨3, 0, .ro, 1⟩, 0, 2 ^ 64 - 1, by decide +kernel⟩

theorem witness_RegisterAddressesHoldDieAndOffset :
    ∃ (die : Nat) (off : Nat) (r : Reg) (i : Nat) (j : Nat), die < 256 ∧ off < 2 ^ 32 ∧ regAt die off = some (r, i, j) :=
  ⟨255 - 255 + 14, 0x1000 + 8 * 27, .dlkDieState, 0, 27, by decide +kernel⟩

theorem witness_UnusedDieIndicesReadOnes :
    ∃ (die : Nat) (off : Nat), (die = 6 ∨ die = 7 ∨ 28 ≤ die ∧ die ≤ 255) ∧ off < 2 ^ 32 :=
  ⟨255, 2 ^ 32 - 1, by decide +kernel⟩

theorem witness_RegisterWritesActOnTheirRegisterAlone :
    (∃ (a : Agent) (addr : BitVec 48) (s : Machine.State) (r : Reg) (i : Nat) (j : Nat), Canonical s ∧ regAligned addr.toNat 8 = true ∧ regAt (bits addr.toNat 39 32) (bits addr.toNat 31 0) = some (r, i, j) ∧ regUp s r (bits addr.toNat 39 32) i = true ∧ mailboxOf r i = none ∧ agentMay a r.spec.writers = true ∧ (¬r ∈ ruledRegs)) ∧
    (∃ (addr : BitVec 48) (n : Nat), (n ≠ 8 ∨ addr.toNat % 8 ≠ 0)) ∧
    (∃ (a : Agent) (addr : BitVec 48) (s : Machine.State) (r : Reg) (i : Nat) (j : Nat), regAt (bits addr.toNat 39 32) (bits addr.toNat 31 0) = some (r, i, j) ∧ (regUp s r (bits addr.toNat 39 32) i = false ∨ mailboxOf r i = none ∧ agentMay a r.spec.writers = false)) ∧
    (∃ (a : Agent) (addr : BitVec 48) (s : Machine.State) (r : Reg) (i : Nat) (j : Nat), Canonical s ∧ regAligned addr.toNat 8 = true ∧ regAt (bits addr.toNat 39 32) (bits addr.toNat 31 0) = some (r, i, j) ∧ regUp s r (bits addr.toNat 39 32) i = true ∧ mailboxOf r i = none ∧ agentMay a r.spec.writers = true ∧ (r = Reg.memErrLog0 ∨ r = Reg.lpdErrLog0)) ∧
    (∃ (a : Agent) (addr : BitVec 48) (s : Machine.State) (r : Reg) (i : Nat) (j : Nat), Canonical s ∧ regAligned addr.toNat 8 = true ∧ regAt (bits addr.toNat 39 32) (bits addr.toNat 31 0) = some (r, i, j) ∧ regUp s r (bits addr.toNat 39 32) i = true ∧ mailboxOf r i = none ∧ agentMay a r.spec.writers = true ∧ (r = Reg.hifHqSqbase ∨ r = Reg.hifHqCqbase)) ∧
    (∃ (a : Agent) (addr : BitVec 48) (s : Machine.State) (r : Reg) (i : Nat) (j : Nat), Canonical s ∧ regAligned addr.toNat 8 = true ∧ regAt (bits addr.toNat 39 32) (bits addr.toNat 31 0) = some (r, i, j) ∧ regUp s r (bits addr.toNat 39 32) i = true ∧ mailboxOf r i = none ∧ agentMay a r.spec.writers = true ∧ r = Reg.rimModBudget) ∧
    (∃ (a : Agent) (addr : BitVec 48) (s : Machine.State) (r : Reg) (i : Nat) (j : Nat), Canonical s ∧ regAligned addr.toNat 8 = true ∧ regAt (bits addr.toNat 39 32) (bits addr.toNat 31 0) = some (r, i, j) ∧ regUp s r (bits addr.toNat 39 32) i = true ∧ mailboxOf r i = none ∧ agentMay a r.spec.writers = true ∧ r = Reg.fabNode) ∧
    (∃ (a : Agent) (addr : BitVec 48) (s : Machine.State) (r : Reg) (i : Nat) (j : Nat), Canonical s ∧ regAligned addr.toNat 8 = true ∧ regAt (bits addr.toNat 39 32) (bits addr.toNat 31 0) = some (r, i, j) ∧ regUp s r (bits addr.toNat 39 32) i = true ∧ mailboxOf r i = none ∧ agentMay a r.spec.writers = true ∧ r = Reg.telEpochCtl) ∧
    (∃ (a : Agent) (addr : BitVec 48) (s : Machine.State) (r : Reg) (i : Nat) (j : Nat) (m : Nat), Canonical s ∧ regAligned addr.toNat 8 = true ∧ regAt (bits addr.toNat 39 32) (bits addr.toNat 31 0) = some (r, i, j) ∧ regUp s r (bits addr.toNat 39 32) i = true ∧ mailboxOf r i = some m ∧ mbxOwns a m = false) ∧
    (∃ (a : Agent) (addr : BitVec 48) (s : Machine.State) (r : Reg) (i : Nat) (j : Nat) (m : Nat), Canonical s ∧ regAligned addr.toNat 8 = true ∧ regAt (bits addr.toNat 39 32) (bits addr.toNat 31 0) = some (r, i, j) ∧ regUp s r (bits addr.toNat 39 32) i = true ∧ mailboxOf r i = some m ∧ mbxOwns a m = true ∧ (r = Reg.mbxAuthCtr ∨ r = Reg.mbxAuthTag0 ∨ r = Reg.mbxAuthTag1 ∨ r = Reg.mbxBuf)) ∧
    (∃ (a : Agent) (addr : BitVec 48) (v : W64) (s : Machine.State) (r : Reg) (i : Nat) (j : Nat) (m : Nat), Canonical s ∧ regAligned addr.toNat 8 = true ∧ regAt (bits addr.toNat 39 32) (bits addr.toNat 31 0) = some (r, i, j) ∧ regUp s r (bits addr.toNat 39 32) i = true ∧ mailboxOf r i = some m ∧ mbxOwns a m = true ∧ r = Reg.mbxCmd ∧ (mbxState s m = mbIdle ∨ mbxState s m = mbDone) ∧ mbxOpcodes.contains (bits (BitVec.toNat v) 15 0) = true) ∧
    (∃ (addr : BitVec 48), regAt (bits addr.toNat 39 32) (bits addr.toNat 31 0) = none ∧ isShadow addr.toNat = false) :=
  ⟨⟨.uszon, BitVec.ofNat 48 (regAddr .dlkCoreVec 9 0 0), up, .dlkCoreVec, 0, 0, canonical_of (by decide +kernel), by decide +kernel⟩,
   ⟨0xF00000000004, 8, by decide +kernel⟩,
   ⟨.i3c, BitVec.ofNat 48 (regAddr .dlkDieState 14 0 27), up, .dlkDieState, 0, 27, by decide +kernel⟩,
   ⟨.uszon, BitVec.ofNat 48 (regAddr .lpdErrLog0 15 11 0), up, .lpdErrLog0, 11, 0, canonical_of (by decide +kernel), by decide +kernel⟩,
   ⟨.host, BitVec.ofNat 48 (regAddr .hifHqCqbase 14 0 63), up, .hifHqCqbase, 0, 63, canonical_of (by decide +kernel), by decide +kernel⟩,
   ⟨.uszon, BitVec.ofNat 48 (regAddr .rimModBudget 14 0 0), up, .rimModBudget, 0, 0, canonical_of (by decide +kernel), by decide +kernel⟩,
   ⟨.uszon, BitVec.ofNat 48 (regAddr .fabNode 13 0 0), up, .fabNode, 0, 0, canonical_of (by decide +kernel), by decide +kernel⟩,
   ⟨.uszon, BitVec.ofNat 48 (regAddr .telEpochCtl 14 0 0), up, .telEpochCtl, 0, 0, canonical_of (by decide +kernel), by decide +kernel⟩,
   ⟨.host, BitVec.ofNat 48 (regAddr .mbxBuf 14 30 127), up, .mbxBuf, 30, 127, 31, canonical_of (by decide +kernel), by decide +kernel⟩,
   ⟨.i3c, BitVec.ofNat 48 (regAddr .mbxBuf 14 30 127), up, .mbxBuf, 30, 127, 31, canonical_of (by decide +kernel), by decide +kernel⟩,
   ⟨.i3c, BitVec.ofNat 48 (regAddr .mbxCmd 14 30 0), 0x0001, mbxSet up 31 3 0 mbIdle, .mbxCmd, 30, 0, 31, canonical_of (by decide +kernel), by decide +kernel⟩,
   ⟨0xF0FFFFFFFFF8, by decide +kernel⟩⟩

theorem witness_CoreReleaseStartsCoresAtTheVector :
    (∃ (a : Agent) (p : PDie) (s : Machine.State), Canonical s ∧ agentMay a Writers.uszonCore = true ∧ dieActive s (8 + p.val) = true) ∧
    (∃ (a : Agent), agentMay a Writers.uszonCore = false) :=
  ⟨⟨.core 127, 1, up, canonical_of (by decide +kernel), by decide +kernel⟩,
   ⟨.host, by decide +kernel⟩⟩

theorem witness_TimebaseSyncNeverMovesBack :
    ∃ (d : Die) (s : Machine.State), s.copies.rising ∧ dieIdx d ≠ 14 ∧ dieActive s (dieIdx d) = true :=
  ⟨.m 11, up, rising_of (by decide +kernel), by decide +kernel⟩

theorem witness_LostCDieHoldsItsStacks :
    ∃ (k : CDie) (s : Machine.State), Canonical s ∧ LossStaysLocal s k.val ∧ dieActive s k.val = true ∧ dieActive s (colPartner k.val) = true :=
  ⟨5, few, canonical_of (by decide +kernel), staysLocal_of (by decide +kernel), by decide +kernel⟩

theorem witness_FatalLossStopsTheMainDomain :
    (∃ (d : Die) (s : Machine.State), Canonical s ∧ s.jobs = [] ∧ dieActive s (dieIdx d) = true ∧ lossFatal s (dieIdx d) = true) ∧
    (∃ (k : CDie) (s : Machine.State), Canonical s ∧ dieActive s k.val = true ∧ dieActive s (colPartner k.val) = false) :=
  ⟨⟨.m 11, up, canonical_of (by decide +kernel), by decide +kernel⟩,
   ⟨0, setDieSt up 3 dsLost, canonical_of (by decide +kernel), by decide +kernel⟩⟩

theorem witness_LossSequencesComplete :
    (∃ (l : LDie) (why : LossCause) (s : Machine.State), Canonical s ∧ (dieActive s (cDieOf (10 + l.val)) = true → hasPath s (cDieOf (10 + l.val)) = true) ∧ dieActive s (10 + l.val) = true ∧ why ≠ LossCause.carrier) ∧
    (∃ (k : CDie) (s : Machine.State), Canonical s ∧ 2 * k.val ∈ s.heldStacks ∧ dieSt s k.val = dsLost ∧ (∀ (t : Nat), t ∈ dieTiles k.val → tilePresent s t = false)) ∧
    (∃ (k : CDie) (s : Machine.State), Canonical s ∧ dieSt s k.val = dsLost ∧ anyFatal s = false ∧ s.jobs = []) ∧
    (∃ (l : LDie) (s : Machine.State), Canonical s ∧ dieSt s (10 + l.val) = dsLost ∧ dieActive s (cDieOf (10 + l.val)) = true ∧ s.holdDies.contains (10 + l.val) = false) ∧
    (∃ (l : LDie) (s : Machine.State), Canonical s ∧ dieSt s (10 + l.val) = dsLost ∧ dieActive s (cDieOf (10 + l.val)) = false) :=
  ⟨⟨3, .command, few, canonical_of (by decide +kernel), fun _ => by decide +kernel, by decide +kernel⟩,
   ⟨5, { setDieSt up 5 dsLost with heldStacks := [10, 11] }, canonical_of (by decide +kernel), by decide +kernel⟩,
   ⟨5, setDieSt up 5 dsLost, canonical_of (by decide +kernel), by decide +kernel⟩,
   ⟨3, rfset (setDieSt up 13 dsLost) .dlkDieState 14 0 13 23 20 6, canonical_of (by decide +kernel), by decide +kernel⟩,
   ⟨3, setDieSt (setDieSt up 13 dsLost) 5 dsRejoining, canonical_of (by decide +kernel), by decide +kernel⟩⟩

theorem witness_RejoinsAndDieActions :
    (∃ (d : RDie) (s : Machine.State), let x : Machine.State := (linksFinish s (rdieIdx d)); Canonical s ∧ Canonical x ∧ dieSt s (rdieIdx d) = dsRejoining ∧ anyFatal s = false ∧ (isL (rdieIdx d) = true → dieActive s (cDieOf (rdieIdx d)) = true) ∧ dieSt x (rdieIdx d) = dsRejoining ∧ anyFatal x = false ∧ hasPath x (rdieIdx d) = true) ∧
    (∃ (d : RDie) (s : Machine.State), Canonical s ∧ dieSt s (rdieIdx d) = dsRejoining ∧ anyFatal s = false ∧ rf s Reg.dlkDieState 14 0 (rdieIdx d) 15 8 < 255) ∧
    (∃ (x : BitVec 8) (s : Machine.State), Canonical s ∧ s.pins.aux = true ∧ s.pins.auxReset = false ∧ (isC x.toNat = true ∨ isL x.toNat = true) ∧ anyFatal s = false ∧ dieSt s x.toNat = dsHeld) ∧
    (∃ (x : BitVec 8) (s : Machine.State), Canonical s ∧ s.pins.aux = true ∧ s.pins.auxReset = false ∧ (isC x.toNat = true ∨ isL x.toNat = true) ∧ anyFatal s = false ∧ dieSt s x.toNat = dsActive) ∧
    (∃ (x : BitVec 8) (s : Machine.State), s.pins.aux = true ∧ s.pins.auxReset = false ∧ isC x.toNat = false ∧ isL x.toNat = false) ∧
    (∃ (a : Agent), a ≠ Agent.uszon) :=
  ⟨⟨.l 3, rejoining, canonical_of (by decide +kernel), canonical_of (by decide +kernel), by decide +kernel⟩,
   ⟨.c 5, setDieSt up 5 dsRejoining, canonical_of (by decide +kernel), by decide +kernel⟩,
   ⟨13, setDieSt up 13 dsHeld, canonical_of (by decide +kernel), by decide +kernel⟩,
   ⟨0, up, canonical_of (by decide +kernel), by decide +kernel⟩,
   ⟨27, up, by decide +kernel⟩,
   ⟨.host, by decide +kernel⟩⟩

theorem witness_IntegerOperationsAreTwosComplement :
    ∃ (ty : Nat), ty ∈ tyInt :=
  ⟨3, by decide +kernel⟩

theorem witness_LaneExchangesReadOtherLanes :
    (∃ (t : TileId) (g : Slot) (w : BitVec 56) (s : Machine.State) (s' : Machine.State) (gr : Group), ready s t.val g.val = some (gr, s') ∧ (form0 tyAny).check false (tile s t.val).alloc w.toNat (modNone false w.toNat) = 0 ∧ loadsTouch gr [] [] = false) ∧
    (∃ (t : TileId) (g : Slot) (w : BitVec 56) (s : Machine.State) (s' : Machine.State) (gr : Group), issues { types := [0, 4], dst := Dst.value true, a := Src.none, b := Src.none, c := Src.none, any := false } true (bits w.toNat 35 32 != 0) (t.val) (g.val) (fset w.toNat 35 34 0) s s' gr) ∧
    (∃ (t : TileId) (g : Slot) (w : BitVec 56) (s : Machine.State) (s' : Machine.State) (gr : Group), issues { types := tyAny, dst := Dst.pred, a := Src.pred, b := Src.none, c := Src.none, any := true } false (fMod w.toNat % 4 != 0) (t.val) (g.val) w.toNat s s' gr ∧ fMod w.toNat / 4 < 2) ∧
    (∃ (t : TileId) (g : Slot) (w : BitVec 56) (s : Machine.State) (s' : Machine.State) (gr : Group), issues { types := tyAny, dst := Dst.scalar, a := Src.pred, b := Src.none, c := Src.none, any := true } false (fMod w.toNat % 4 != 0) (t.val) (g.val) w.toNat s s' gr ∧ fMod w.toNat / 4 = 2 ∧ gr.active ≠ []) ∧
    (∃ (i : Bool) (t : TileId) (g : Slot) (w : BitVec 56) (s : Machine.State) (s' : Machine.State) (gr : Group), issues { types := [0], dst := Dst.value false, a := Src.typed, b := Src.code 0, c := Src.none, any := false } i (!i && (fMod w.toNat % 4 != 0 || decide (4 ≤ fMod w.toNat / 4))) (t.val) (g.val) w.toNat s s' gr) ∧
    (∃ (i : Bool) (t : TileId) (g : Slot) (w : BitVec 56) (s : Machine.State) (s' : Machine.State) (gr : Group), issues { types := tyU, dst := Dst.scalar, a := Src.typed, b := Src.code 0, c := Src.none, any := true } i (modNone i w.toNat) (t.val) (g.val) w.toNat s s' gr ∧ gr.active ≠ []) ∧
    (∃ (t : TileId) (g : Slot) (w : BitVec 56) (s : Machine.State) (s' : Machine.State) (gr : Group), let c : Nat × Machine.State := (if fImm24 w.toNat = 8 then tileClock s' t.val else (0, s')); issues { types := tyU, dst := Dst.value true, a := Src.none, b := Src.none, c := Src.none, any := false } true (modNone true w.toNat) (t.val) (g.val) w.toNat s s' gr ∧ srKnown (fImm24 w.toNat) = true ∧ fDk w.toNat = 0) ∧
    (∃ (t : TileId) (g : Slot) (w : BitVec 56) (s : Machine.State) (s' : Machine.State) (gr : Group), let c : Nat × Machine.State := (if fImm24 w.toNat = 8 then tileClock s' t.val else (0, s')); issues { types := tyU, dst := Dst.value true, a := Src.none, b := Src.none, c := Src.none, any := false } true (modNone true w.toNat) (t.val) (g.val) w.toNat s s' gr ∧ srKnown (fImm24 w.toNat) = true ∧ fDk w.toNat = 1 ∧ fImm24 w.toNat ≠ 0 ∧ gr.active ≠ []) :=
  ⟨⟨767, 15, vWord 0 0 0 0 0 0 0 0 0 0, lane31, readySt lane31, readyGr lane31, ready_of (by decide +kernel), by decide +kernel⟩,
   ⟨767, 15, iWord 0 0 15 0 0 0xFFFFFF 0, lane31, readySt lane31, readyGr lane31, ⟨ready_of (by decide +kernel), by decide +kernel, by decide +kernel⟩⟩,
   ⟨767, 15, vWord 0 2 15 2 14 0 0 0 0 4, lane31, readySt lane31, readyGr lane31, ⟨ready_of (by decide +kernel), by decide +kernel, by decide +kernel⟩, by decide +kernel⟩,
   ⟨767, 15, vWord 0 1 63 2 15 0 0 0 0 8, lane31, readySt lane31, readyGr lane31, ⟨ready_of (by decide +kernel), by decide +kernel, by decide +kernel⟩, by decide +kernel⟩,
   ⟨false, 767, 15, vWord 0 0 15 0 14 0 13 0 0 12, lane31, readySt lane31, readyGr lane31, ⟨ready_of (by decide +kernel), by decide +kernel, by decide +kernel⟩⟩,
   ⟨false, 767, 15, vWord 0 1 63 0 15 1 13 0 0 0, lane31, readySt lane31, readyGr lane31, ⟨ready_of (by decide +kernel), by decide +kernel, by decide +kernel⟩, by decide +kernel⟩,
   ⟨767, 15, iWord 0 0 15 0 0 9 0, lane31, readySt lane31, readyGr lane31, ⟨ready_of (by decide +kernel), by decide +kernel, by decide +kernel⟩, by decide +kernel⟩,
   ⟨767, 15, iWord 0 1 63 0 0 9 0, lane31, readySt lane31, readyGr lane31, ⟨ready_of (by decide +kernel), by decide +kernel, by decide +kernel⟩, by decide +kernel⟩⟩

theorem witness_SlmAccessesReadAndWriteTheirBytes :
    (∃ (t : TileId) (g : Slot) (w : BitVec 56) (s : Machine.State) (s' : Machine.State) (gr : Group), accesses tyMem true false false true (t.val) (g.val) w.toNat s s' gr ∧ fSpace w.toNat = 1 ∧ (∀ (l : Nat × Nat), l ∈ laneAddrs gr w.toNat true → localHazard s' (t.val) (g.val) 1 l.snd (tyBytes (fTy w.toNat)) = false)) ∧
    (∃ (t : TileId) (g : Slot) (w : BitVec 56) (s : Machine.State) (s' : Machine.State) (gr : Group), accesses tyMem false true false false (t.val) (g.val) w.toNat s s' gr ∧ fSpace w.toNat = 1 ∧ (tile s' t.val).fls = [] ∧ (tile s' t.val).uncovered = []) ∧
    (∃ (t : TileId) (g : Slot) (w : BitVec 56) (s : Machine.State) (s' : Machine.State) (gr : Group), accesses [0, 1, 2, 3, 4, 5] true true true false (t.val) (g.val) w.toNat s s' gr ∧ fSpace w.toNat = 1) ∧
    (∃ (t : TileId) (g : Slot) (w : BitVec 56) (s : Machine.State) (s' : Machine.State) (gr : Group) (code : Nat), mayAccess tyMem true false false true (t.val) (g.val) w.toNat s s' gr ∧ failsCheck (t.val) w.toNat s' gr true code) ∧
    (∃ (t : TileId) (g : Slot) (w : BitVec 56) (s : Machine.State) (s' : Machine.State) (gr : Group) (code : Nat), mayAccess tyMem false true false false (t.val) (g.val) w.toNat s s' gr ∧ failsCheck (t.val) w.toNat s' gr false code) ∧
    (∃ (t : TileId) (g : Slot) (w : BitVec 56) (s : Machine.State) (s' : Machine.State) (gr : Group) (code : Nat), mayAccess [0, 1, 2, 3, 4, 5] true true true false (t.val) (g.val) w.toNat s s' gr ∧ failsCheck (t.val) w.toNat s' gr true code) :=
  ⟨⟨767, 15, mWord 0 0 15 1 1 0 1 0, lane31, readySt lane31, readyGr lane31, ⟨⟨ready_of (by decide +kernel), by decide +kernel, by decide +kernel⟩, by decide +kernel⟩, by decide +kernel⟩,
   ⟨767, 15, mWord 0 0 0 1 1 15 1 0, lane31, readySt lane31, readyGr lane31, ⟨⟨ready_of (by decide +kernel), by decide +kernel, by decide +kernel⟩, by decide +kernel⟩, by decide +kernel⟩,
   ⟨767, 15, mWord 0 0 15 1 1 14 1 0, lane31, readySt lane31, readyGr lane31, ⟨⟨ready_of (by decide +kernel), by decide +kernel, by decide +kernel⟩, by decide +kernel⟩, by decide +kernel⟩,
   ⟨767, 15, mWord 0 0 15 1 1 0 1 0, beyond, readySt beyond, readyGr beyond, 0x103, ⟨ready_of (by decide +kernel), by decide +kernel, by decide +kernel⟩, ⟨by decide +kernel, [], 31, [], by decide +kernel, by decide +kernel, by decide +kernel⟩⟩,
   ⟨767, 15, mWord 0 0 0 1 1 15 1 0, beyond, readySt beyond, readyGr beyond, 0x103, ⟨ready_of (by decide +kernel), by decide +kernel, by decide +kernel⟩, ⟨by decide +kernel, [], 31, [], by decide +kernel, by decide +kernel, by decide +kernel⟩⟩,
   ⟨767, 15, mWord 0 0 15 1 1 14 1 0, beyond, readySt beyond, readyGr beyond, 0x103, ⟨ready_of (by decide +kernel), by decide +kernel, by decide +kernel⟩, ⟨by decide +kernel, [], 31, [], by decide +kernel, by decide +kernel, by decide +kernel⟩⟩⟩

theorem witness_OuterAccessesAreHandedOn :
    (∃ (t : TileId) (g : Slot) (w : BitVec 56) (s : Machine.State) (s' : Machine.State) (gr : Group), accesses tyMem false true false false (t.val) (g.val) w.toNat s s' gr ∧ fSpace w.toNat = 2) ∧
    (∃ (t : TileId) (g : Slot) (w : BitVec 56) (s : Machine.State) (s' : Machine.State) (gr : Group), accesses tyMem true false false true (t.val) (g.val) w.toNat s s' gr ∧ fSpace w.toNat = 2) ∧
    (∃ (t : TileId) (g : Slot) (w : BitVec 56) (s : Machine.State) (s' : Machine.State) (gr : Group), accesses [0, 1, 2, 3, 4, 5] true true true false (t.val) (g.val) w.toNat s s' gr ∧ fSpace w.toNat = 2) ∧
    (∃ (t : TileId) (g : Slot) (w : BitVec 56) (s : Machine.State) (s' : Machine.State) (x : Machine.State) (gr : Group) (las : List (Nat × Nat)) (va : Nat), accesses tyMem false true false false (t.val) (g.val) w.toNat s s' gr ∧ lanesXlate (t.val) (tile s' t.val).ctx Need.store (laneAddrs gr w.toNat false) s' = (0, va, las, x) ∧ fSpace w.toNat = 0 ∧ pathHeld (tile x t.val) g.val = false) ∧
    (∃ (t : TileId) (g : Slot) (w : BitVec 56) (parity : List Nat) (n : Nat) (s : Machine.State) (s' : Machine.State) (x : Machine.State) (gr : Group) (las : List (Nat × Nat)) (va : Nat) (u : Machine.State), accesses tyMem true false false true (t.val) (g.val) w.toNat s s' gr ∧ lanesXlate (t.val) (tile s' t.val).ctx Need.load (laneAddrs gr w.toNat true) s' = (0, va, las, x) ∧ loadGlobal (correctedBy x (eccTile t.val) n) (t.val) (g.val) (fDk w.toNat == 1) (fDst w.toNat) (tyBytes (fTy w.toNat)) las (fCache w.toNat) parity = some u ∧ fSpace w.toNat = 0 ∧ pathHeld (tile x t.val) g.val = false) ∧
    (∃ (t : TileId) (g : Slot) (w : BitVec 56) (parity : List Nat) (n : Nat) (s : Machine.State) (s' : Machine.State) (x : Machine.State) (gr : Group) (las : List (Nat × Nat)) (va : Nat), accesses tyMem true false false true (t.val) (g.val) w.toNat s s' gr ∧ lanesXlate (t.val) (tile s' t.val).ctx Need.load (laneAddrs gr w.toNat true) s' = (0, va, las, x) ∧ loadGlobal (correctedBy x (eccTile t.val) n) (t.val) (g.val) (fDk w.toNat == 1) (fDst w.toNat) (tyBytes (fTy w.toNat)) las (fCache w.toNat) parity = none ∧ fSpace w.toNat = 0 ∧ pathHeld (tile x t.val) g.val = false) ∧
    (∃ (t : TileId) (g : Slot) (w : BitVec 56) (s : Machine.State) (s' : Machine.State) (x : Machine.State) (gr : Group) (las : List (Nat × Nat)) (va : Nat), accesses [0, 1, 2, 3, 4, 5] true true true false (t.val) (g.val) w.toNat s s' gr ∧ lanesXlate (t.val) (tile s' t.val).ctx Need.atomic (laneAddrs gr w.toNat true) s' = (0, va, las, x) ∧ fSpace w.toNat = 0 ∧ pathHeld (tile x t.val) g.val = false) ∧
    (∃ (t : TileId) (g : Slot) (w : BitVec 56) (s : Machine.State) (s' : Machine.State) (x : Machine.State) (gr : Group) (las : List (Nat × Nat)) (code : Nat) (va : Nat), accesses tyMem true false false true (t.val) (g.val) w.toNat s s' gr ∧ lanesXlate (t.val) (tile s' t.val).ctx Need.load (laneAddrs gr w.toNat true) s' = (code, va, las, x) ∧ fSpace w.toNat = 0 ∧ code ≠ 0) ∧
    (∃ (t : TileId) (g : Slot) (w : BitVec 56) (s : Machine.State) (s' : Machine.State) (x : Machine.State) (gr : Group) (las : List (Nat × Nat)) (code : Nat) (va : Nat), accesses tyMem true false false true (t.val) (g.val) w.toNat s s' gr ∧ lanesXlate (t.val) (tile s' t.val).ctx Need.load (laneAddrs gr w.toNat true) s' = (code, va, las, x) ∧ fSpace w.toNat = 0 ∧ code = 0 ∧ pathHeld (tile x t.val) g.val = true) ∧
    (∃ (t : TileId) (g : Slot) (w : BitVec 56) (s : Machine.State) (s' : Machine.State) (x : Machine.State) (gr : Group) (las : List (Nat × Nat)) (code : Nat) (va : Nat), accesses tyMem false true false false (t.val) (g.val) w.toNat s s' gr ∧ lanesXlate (t.val) (tile s' t.val).ctx Need.store (laneAddrs gr w.toNat false) s' = (code, va, las, x) ∧ fSpace w.toNat = 0 ∧ code ≠ 0) ∧
    (∃ (t : TileId) (g : Slot) (w : BitVec 56) (s : Machine.State) (s' : Machine.State) (x : Machine.State) (gr : Group) (las : List (Nat × Nat)) (code : Nat) (va : Nat), accesses tyMem false true false false (t.val) (g.val) w.toNat s s' gr ∧ lanesXlate (t.val) (tile s' t.val).ctx Need.store (laneAddrs gr w.toNat false) s' = (code, va, las, x) ∧ fSpace w.toNat = 0 ∧ code = 0 ∧ pathHeld (tile x t.val) g.val = true) ∧
    (∃ (t : TileId) (g : Slot) (w : BitVec 56) (s : Machine.State) (s' : Machine.State) (x : Machine.State) (gr : Group) (las : List (Nat × Nat)) (code : Nat) (va : Nat), accesses [0, 1, 2, 3, 4, 5] true true true false (t.val) (g.val) w.toNat s s' gr ∧ lanesXlate (t.val) (tile s' t.val).ctx Need.atomic (laneAddrs gr w.toNat true) s' = (code, va, las, x) ∧ fSpace w.toNat = 0 ∧ code ≠ 0) ∧
    (∃ (t : TileId) (g : Slot) (w : BitVec 56) (s : Machine.State) (s' : Machine.State) (x : Machine.State) (gr : Group) (las : List (Nat × Nat)) (code : Nat) (va : Nat), accesses [0, 1, 2, 3, 4, 5] true true true false (t.val) (g.val) w.toNat s s' gr ∧ lanesXlate (t.val) (tile s' t.val).ctx Need.atomic (laneAddrs gr w.toNat true) s' = (code, va, las, x) ∧ fSpace w.toNat = 0 ∧ code = 0 ∧ pathHeld (tile x t.val) g.val = true) ∧
    (∃ (t : TileId) (g : Slot) (w : BitVec 56) (s : Machine.State) (s' : Machine.State) (gr : Group), ready s t.val g.val = some (gr, s') ∧ memCheck tyAny false false false false (tile s t.val).alloc w.toNat = 0 ∧ loadsTouch gr (memTouches false false false w.toNat).fst (memTouches false false false w.toNat).snd = false ∧ (fSpace w.toNat = 0 → pathHeld (tile s' t.val) g.val = false)) :=
  ⟨⟨767, 15, mWord 0 0 0 1 2 15 2 0, lane31, readySt lane31, readyGr lane31, ⟨⟨ready_of (by decide +kernel), by decide +kernel, by decide +kernel⟩, by decide +kernel⟩, by decide +kernel⟩,
   ⟨767, 15, mWord 0 0 15 1 2 0 2 0, lane31, readySt lane31, readyGr lane31, ⟨⟨ready_of (by decide +kernel), by decide +kernel, by decide +kernel⟩, by decide +kernel⟩, by decide +kernel⟩,
   ⟨767, 15, mWord 0 0 15 1 2 14 2 0, lane31, readySt lane31, readyGr lane31, ⟨⟨ready_of (by decide +kernel), by decide +kernel, by decide +kernel⟩, by decide +kernel⟩, by decide +kernel⟩,
   ⟨767, 15, stWord, lane31, readySt lane31, stX.2.2.2, readyGr lane31, stX.2.2.1, stX.2.1, ⟨⟨ready_of (by decide +kernel), by decide +kernel, by decide +kernel⟩, by decide +kernel⟩, quad_of (p := stX) (by decide +kernel), by decide +kernel⟩,
   ⟨767, 15, ldWord, [], 1, lane31, readySt lane31, ldX.2.2.2, readyGr lane31, ldX.2.2.1, ldX.2.1, loaded, ⟨⟨ready_of (by decide +kernel), by decide +kernel, by decide +kernel⟩, by decide +kernel⟩, quad_of (p := ldX) (by decide +kernel), some_getD up (by decide +kernel), by decide +kernel⟩,
   ⟨767, 15, ldWord, [], 1, full, readySt full, fullX.2.2.2, readyGr full, fullX.2.2.1, fullX.2.1, ⟨⟨ready_of (by decide +kernel), by decide +kernel, by decide +kernel⟩, by decide +kernel⟩, quad_of (p := fullX) (by decide +kernel), none_of (by decide +kernel), by decide +kernel⟩,
   ⟨767, 15, atWord, lane31, readySt lane31, atX.2.2.2, readyGr lane31, atX.2.2.1, atX.2.1, ⟨⟨ready_of (by decide +kernel), by decide +kernel, by decide +kernel⟩, by decide +kernel⟩, quad_of (p := atX) (by decide +kernel), by decide +kernel⟩,
   ⟨767, 15, ldWord, unmapped, readySt unmapped, noX.2.2.2, readyGr unmapped, noX.2.2.1, noX.1, noX.2.1, ⟨⟨ready_of (by decide +kernel), by decide +kernel, by decide +kernel⟩, by decide +kernel⟩, quad_of (p := noX) rfl, by decide +kernel⟩,
   ⟨767, 15, ldWord, held, readySt held, heldX.2.2.2, readyGr held, heldX.2.2.1, 0, heldX.2.1, ⟨⟨ready_of (by decide +kernel), by decide +kernel, by decide +kernel⟩, by decide +kernel⟩, quad_of (p := heldX) (by decide +kernel), by decide +kernel⟩,
   ⟨767, 15, stWord, unmapped, readySt unmapped, noSt.2.2.2, readyGr unmapped, noSt.2.2.1, noSt.1, noSt.2.1, ⟨⟨ready_of (by decide +kernel), by decide +kernel, by decide +kernel⟩, by decide +kernel⟩, quad_of (p := noSt) rfl, by decide +kernel⟩,
   ⟨767, 15, stWord, held, readySt held, heldSt.2.2.2, readyGr held, heldSt.2.2.1, 0, heldSt.2.1, ⟨⟨ready_of (by decide +kernel), by decide +kernel, by decide +kernel⟩, by decide +kernel⟩, quad_of (p := heldSt) (by decide +kernel), by decide +kernel⟩,
   ⟨767, 15, atWord, unmapped, readySt unmapped, noAt.2.2.2, readyGr unmapped, noAt.2.2.1, noAt.1, noAt.2.1, ⟨⟨ready_of (by decide +kernel), by decide +kernel, by decide +kernel⟩, by decide +kernel⟩, quad_of (p := noAt) rfl, by decide +kernel⟩,
   ⟨767, 15, atWord, held, readySt held, heldAt.2.2.2, readyGr held, heldAt.2.2.1, 0, heldAt.2.1, ⟨⟨ready_of (by decide +kernel), by decide +kernel, by decide +kernel⟩, by decide +kernel⟩, quad_of (p := heldAt) (by decide +kernel), by decide +kernel⟩,
   ⟨767, 15, mWord 0 0 0 1 2 0 0 0, lane31, readySt lane31, readyGr lane31, ready_of (by decide +kernel), by decide +kernel⟩⟩

theorem witness_BranchesFollowTheReconvergenceStack :
    (∃ (t : TileId) (g : Slot) (w : BitVec 56) (s : Machine.State) (s' : Machine.State) (gr : Group) (e : StackEntry) (rest : List StackEntry), let taken : W32 := (maskOfLanes (lanesOf gr w.toNat)); let others : W32 := (maskOfLanes (List.filter (fun (l : Nat) => !(lanesOf gr w.toNat).contains l) gr.active)); ready s t.val g.val = some (gr, s') ∧ gr.stack = e :: rest ∧ fTy w.toNat = 0 ∧ loadsTouch gr [] [] = false ∧ others = 0 ∧ (taken = 0 ∨ canonical (targetOf e.pc (fTarget w.toNat)) = true)) ∧
    (∃ (t : TileId) (g : Slot) (w : BitVec 56) (s : Machine.State) (s' : Machine.State) (gr : Group) (e : StackEntry) (rest : List StackEntry), let taken : W32 := (maskOfLanes (lanesOf gr w.toNat)); let others : W32 := (maskOfLanes (List.filter (fun (l : Nat) => !(lanesOf gr w.toNat).contains l) gr.active)); ready s t.val g.val = some (gr, s') ∧ gr.stack = e :: rest ∧ fTy w.toNat = 0 ∧ loadsTouch gr [] [] = false ∧ others ≠ 0 ∧ taken = 0) ∧
    (∃ (t : TileId) (g : Slot) (w : BitVec 56) (s : Machine.State) (s' : Machine.State) (gr : Group) (e : StackEntry) (rest : List StackEntry), let taken : W32 := (maskOfLanes (lanesOf gr w.toNat)); let others : W32 := (maskOfLanes (List.filter (fun (l : Nat) => !(lanesOf gr w.toNat).contains l) gr.active)); let join : W64 := (e.pc + w64 (8 * fReconv w.toNat)); ready s t.val g.val = some (gr, s') ∧ gr.stack = e :: rest ∧ fTy w.toNat = 0 ∧ loadsTouch gr [] [] = false ∧ others ≠ 0 ∧ taken ≠ 0 ∧ canonical (targetOf e.pc (fTarget w.toNat)) = true ∧ fReconv w.toNat ≠ 0 ∧ e.rpc ≠ some join ∧ rest.length ≤ 29) ∧
    (∃ (t : TileId) (g : Slot) (w : BitVec 56) (s : Machine.State) (s' : Machine.State) (gr : Group) (e : StackEntry) (rest : List StackEntry), let taken : W32 := (maskOfLanes (lanesOf gr w.toNat)); let others : W32 := (maskOfLanes (List.filter (fun (l : Nat) => !(lanesOf gr w.toNat).contains l) gr.active)); let join : W64 := (e.pc + w64 (8 * fReconv w.toNat)); ready s t.val g.val = some (gr, s') ∧ gr.stack = e :: rest ∧ fTy w.toNat = 0 ∧ loadsTouch gr [] [] = false ∧ others ≠ 0 ∧ taken ≠ 0 ∧ canonical (targetOf e.pc (fTarget w.toNat)) = true ∧ fReconv w.toNat ≠ 0 ∧ e.rpc = some join ∧ rest.length ≤ 30) ∧
    (∃ (t : TileId) (g : Slot) (w : BitVec 56) (s : Machine.State) (s' : Machine.State) (gr : Group) (e : StackEntry) (rest : List StackEntry), let taken : W32 := (maskOfLanes (lanesOf gr w.toNat)); let others : W32 := (maskOfLanes (List.filter (fun (l : Nat) => !(lanesOf gr w.toNat).contains l) gr.active)); ready s t.val g.val = some (gr, s') ∧ gr.stack = e :: rest ∧ fTy w.toNat = 0 ∧ loadsTouch gr [] [] = false ∧ others ≠ 0 ∧ taken ≠ 0 ∧ canonical (targetOf e.pc (fTarget w.toNat)) = true ∧ fReconv w.toNat = 0) ∧
    (∃ (t : TileId) (g : Slot) (w : BitVec 56) (s : Machine.State) (s' : Machine.State) (gr : Group) (e : StackEntry) (rest : List StackEntry), let taken : W32 := (maskOfLanes (lanesOf gr w.toNat)); ready s t.val g.val = some (gr, s') ∧ gr.stack = e :: rest ∧ fTy w.toNat = 0 ∧ loadsTouch gr [] [] = false ∧ taken ≠ 0 ∧ canonical (targetOf e.pc (fTarget w.toNat)) = false) ∧
    (∃ (t : TileId) (g : Slot) (w : BitVec 56) (s : Machine.State) (s' : Machine.State) (gr : Group) (e : StackEntry) (rest : List StackEntry), let taken : W32 := (maskOfLanes (lanesOf gr w.toNat)); let others : W32 := (maskOfLanes (List.filter (fun (l : Nat) => !(lanesOf gr w.toNat).contains l) gr.active)); let join : W64 := (e.pc + w64 (8 * fReconv w.toNat)); ready s t.val g.val = some (gr, s') ∧ gr.stack = e :: rest ∧ fTy w.toNat = 0 ∧ loadsTouch gr [] [] = false ∧ others ≠ 0 ∧ taken ≠ 0 ∧ canonical (targetOf e.pc (fTarget w.toNat)) = true ∧ fReconv w.toNat ≠ 0 ∧ (if e.rpc = some join then 31 else 30) ≤ rest.length) :=
  ⟨⟨767, 15, BitVec.ofNat 56 0xFFFFFFFF, lane31, readySt (lane31), readyGr (lane31), ⟨0x1000, 0x80000000, none⟩, [], ready_of (by decide +kernel), by decide +kernel⟩,
   ⟨767, 15, bWord 1 1 false, onTile { parted with preds := [] }, readySt (onTile { parted with preds := [] }), readyGr (onTile { parted with preds := [] }), ⟨0x1000, 0x80000001, none⟩, [], ready_of (by decide +kernel), by decide +kernel⟩,
   ⟨767, 15, bWord 3 1 false, onTile parted, readySt (onTile parted), readyGr (onTile parted), ⟨0x1000, 0x80000001, none⟩, [], ready_of (by decide +kernel), by decide +kernel⟩,
   ⟨767, 15, bWord 2 1 false, onTile joining, readySt (onTile joining), readyGr (onTile joining), ⟨0x1000, 0x80000001, some 0x1010⟩, [⟨0x1010, 0xFFFFFFFF, none⟩], ready_of (by decide +kernel), by decide +kernel⟩,
   ⟨767, 15, bWord 0 1 false, onTile parted, readySt (onTile parted), readyGr (onTile parted), ⟨0x1000, 0x80000001, none⟩, [], ready_of (by decide +kernel), by decide +kernel⟩,
   ⟨767, 15, bWord 0 1 false, onTile lastPc, readySt (onTile lastPc), readyGr (onTile lastPc), ⟨0x7FFFFFFFFFF8, 0x80000001, none⟩, [], ready_of (by decide +kernel), by decide +kernel⟩,
   ⟨767, 15, bWord 3 1 false, onTile deep, readySt (onTile deep), readyGr (onTile deep), ⟨0x1000, 0x80000001, none⟩, List.replicate 30 ⟨0x2000, 0xFFFFFFFF, none⟩, ready_of (by decide +kernel), by decide +kernel⟩⟩

theorem witness_JumpsAndExitsMoveTheGroup :
    (∃ (t : TileId) (g : Slot) (w : BitVec 56) (s : Machine.State) (s' : Machine.State) (gr : Group), ready s t.val g.val = some (gr, s') ∧ jCheck w.toNat = 0 ∧ loadsTouch gr [] [fDst w.toNat] = false ∧ sget gr (fDst w.toNat) % 8 = 0 ∧ canonical (sget gr (fDst w.toNat)) = true) ∧
    (∃ (t : TileId) (g : Slot) (w : BitVec 56) (s : Machine.State) (s' : Machine.State) (gr : Group), ready s t.val g.val = some (gr, s') ∧ jCheck w.toNat = 0 ∧ loadsTouch gr [] [fDst w.toNat] = false ∧ canonical (targetOf gr.top.pc (fTarget w.toNat)) = true) ∧
    (∃ (t : TileId) (g : Slot) (w : BitVec 56) (s : Machine.State) (s' : Machine.State) (gr : Group), ready s t.val g.val = some (gr, s') ∧ jCheck w.toNat = 0 ∧ loadsTouch gr [] [fDst w.toNat] = false ∧ (sget gr (fDst w.toNat) % 8 ≠ 0 ∨ canonical (sget gr (fDst w.toNat)) = false)) ∧
    (∃ (t : TileId) (g : Slot) (w : BitVec 56) (s : Machine.State) (s' : Machine.State) (gr : Group), ready s t.val g.val = some (gr, s') ∧ jCheck w.toNat = 0 ∧ loadsTouch gr [] [fDst w.toNat] = false ∧ canonical (targetOf gr.top.pc (fTarget w.toNat)) = false) ∧
    (∃ (t : TileId) (g : Slot) (w : BitVec 56) (s : Machine.State) (s' : Machine.State) (gr : Group), let gone : W32 := (maskOfLanes (lanesOf gr w.toNat)); let left : Group := ({ groupId := gr.groupId, attempt := gr.attempt, stack := List.map (fun (e : StackEntry) => { pc := e.pc, mask := e.mask &&& ~~~gone, rpc := e.rpc }) gr.stack, exited := gr.exited ||| gone, vregs := gr.vregs, sregs := gr.sregs, preds := gr.preds, wait := gr.wait, pend := gr.pend, unperformed := gr.unperformed, invisible := gr.invisible }); ready s t.val g.val = some (gr, s') ∧ (form0 tyAny).check false (tile s t.val).alloc w.toNat (modNone false w.toNat) = 0 ∧ loadsTouch gr [] [] = false ∧ (∃ (e : StackEntry), e ∈ left.stack ∧ e.mask ≠ 0)) ∧
    (∃ (t : TileId) (g : Slot) (w : BitVec 56) (s : Machine.State) (s' : Machine.State) (gr : Group), let gone : W32 := (maskOfLanes (lanesOf gr w.toNat)); let left : Group := ({ groupId := gr.groupId, attempt := gr.attempt, stack := List.map (fun (e : StackEntry) => { pc := e.pc, mask := e.mask &&& ~~~gone, rpc := e.rpc }) gr.stack, exited := gr.exited ||| gone, vregs := gr.vregs, sregs := gr.sregs, preds := gr.preds, wait := gr.wait, pend := gr.pend, unperformed := gr.unperformed, invisible := gr.invisible }); ready s t.val g.val = some (gr, s') ∧ (form0 tyAny).check false (tile s t.val).alloc w.toNat (modNone false w.toNat) = 0 ∧ loadsTouch gr [] [] = false ∧ (∀ (e : StackEntry), e ∈ left.stack → e.mask = 0) ∧ gr.busy = false) ∧
    (∃ (t : TileId) (g : Slot) (w : BitVec 56) (s : Machine.State) (s' : Machine.State) (gr : Group), let gone : W32 := (maskOfLanes (lanesOf gr w.toNat)); let left : Group := ({ groupId := gr.groupId, attempt := gr.attempt, stack := List.map (fun (e : StackEntry) => { pc := e.pc, mask := e.mask &&& ~~~gone, rpc := e.rpc }) gr.stack, exited := gr.exited ||| gone, vregs := gr.vregs, sregs := gr.sregs, preds := gr.preds, wait := gr.wait, pend := gr.pend, unperformed := gr.unperformed, invisible := gr.invisible }); ready s t.val g.val = some (gr, s') ∧ (form0 tyAny).check false (tile s t.val).alloc w.toNat (modNone false w.toNat) = 0 ∧ loadsTouch gr [] [] = false ∧ (∀ (e : StackEntry), e ∈ left.stack → e.mask = 0) ∧ gr.busy = true) :=
  ⟨⟨767, 15, BitVec.ofNat 56 (1 <<< 44 + 2 <<< 36), lane31, readySt (lane31), readyGr (lane31), ready_of (by decide +kernel), by decide +kernel⟩,
   ⟨767, 15, BitVec.ofNat 56 (1 <<< 44 + 2 <<< 36 + 0xFFFFFFFF), lane31, readySt (lane31), readyGr (lane31), ready_of (by decide +kernel), by decide +kernel⟩,
   ⟨767, 15, BitVec.ofNat 56 (1 <<< 44 + 1 <<< 36), lane31, readySt (lane31), readyGr (lane31), ready_of (by decide +kernel), by decide +kernel⟩,
   ⟨767, 15, BitVec.ofNat 56 (1 <<< 44 + 2 <<< 36 + 1), onTile lastPc, readySt (onTile lastPc), readyGr (onTile lastPc), ready_of (by decide +kernel), by decide +kernel⟩,
   ⟨767, 15, BitVec.ofNat 56 (1 <<< 51 + 1 <<< 46), onTile parted, readySt (onTile parted), readyGr (onTile parted), ready_of (by decide +kernel), by decide +kernel⟩,
   ⟨767, 15, vWord 0 0 0 0 0 0 0 0 0 0, lane31, readySt (lane31), readyGr (lane31), ready_of (by decide +kernel), by decide +kernel⟩,
   ⟨767, 15, vWord 0 0 0 0 0 0 0 0 0 0, loading, readySt (loading), readyGr (loading), ready_of (by decide +kernel), by decide +kernel⟩⟩

theorem witness_BarriersAndFencesHoldTheGroup :
    (∃ (t : TileId) (g : Slot) (w : BitVec 56) (s : Machine.State) (s' : Machine.State) (gr : Group), ready s t.val g.val = some (gr, s') ∧ (form0 tyAny).check true (tile s t.val).alloc w.toNat (fImod w.toNat == 3 || decide (16 < bits (fImm24 w.toNat) 8 4)) = 0 ∧ loadsTouch gr [] [] = false ∧ lanesOf gr w.toNat = []) ∧
    (∃ (t : TileId) (g : Slot) (w : BitVec 56) (s : Machine.State) (s' : Machine.State) (gr : Group), ready s t.val g.val = some (gr, s') ∧ (form0 tyAny).check true (tile s t.val).alloc w.toNat (fImod w.toNat == 3 || decide (16 < bits (fImm24 w.toNat) 8 4)) = 0 ∧ loadsTouch gr [] [] = false ∧ lanesOf gr w.toNat ≠ [] ∧ gr.top.mask ≠ BitVec.allOnes 32) ∧
    (∃ (t : TileId) (g : Slot) (w : BitVec 56) (s : Machine.State) (s' : Machine.State) (gr : Group), let b : Nat := (fImm24 w.toNat % 16); let c : Nat := (bits (fImm24 w.toNat) 8 4); let y : Barrier := (barrier (tile s' t.val) b); ready s t.val g.val = some (gr, s') ∧ (form0 tyAny).check true (tile s t.val).alloc w.toNat (fImod w.toNat == 3 || decide (16 < bits (fImm24 w.toNat) 8 4)) = 0 ∧ loadsTouch gr [] [] = false ∧ lanesOf gr w.toNat ≠ [] ∧ gr.top.mask = BitVec.allOnes 32 ∧ (fImod w.toNat ≠ 2 ∨ mfind y.passed g.val = none) ∧ y.named = true ∧ c ≠ y.count) ∧
    (∃ (t : TileId) (g : Slot) (w : BitVec 56) (s : Machine.State) (s' : Machine.State) (gr : Group) (c' : Nat), let b : Nat := (fImm24 w.toNat % 16); let c : Nat := (bits (fImm24 w.toNat) 8 4); let y : Barrier := (barrier (tile s' t.val) b); ready s t.val g.val = some (gr, s') ∧ (form0 tyAny).check true (tile s t.val).alloc w.toNat (fImod w.toNat == 3 || decide (16 < bits (fImm24 w.toNat) 8 4)) = 0 ∧ loadsTouch gr [] [] = false ∧ lanesOf gr w.toNat ≠ [] ∧ gr.top.mask = BitVec.allOnes 32 ∧ fImod w.toNat = 2 ∧ mfind y.passed g.val = some c' ∧ c ≠ c') ∧
    (∃ (t : TileId) (g : Slot) (w : BitVec 56) (s : Machine.State) (s' : Machine.State) (gr : Group), let b : Nat := (fImm24 w.toNat % 16); let c : Nat := (bits (fImm24 w.toNat) 8 4); let y : Barrier := (barrier (tile s' t.val) b); ready s t.val g.val = some (gr, s') ∧ (form0 tyAny).check true (tile s t.val).alloc w.toNat (fImod w.toNat == 3 || decide (16 < bits (fImm24 w.toNat) 8 4)) = 0 ∧ loadsTouch gr [] [] = false ∧ lanesOf gr w.toNat ≠ [] ∧ gr.top.mask = BitVec.allOnes 32 ∧ gr.pend = [] ∧ fImod w.toNat = 0 ∧ (y.named = false ∨ c = y.count)) ∧
    (∃ (t : TileId) (g : Slot) (w : BitVec 56) (s : Machine.State) (s' : Machine.State) (gr : Group), let b : Nat := (fImm24 w.toNat % 16); let c : Nat := (bits (fImm24 w.toNat) 8 4); let y : Barrier := (barrier (tile s' t.val) b); ready s t.val g.val = some (gr, s') ∧ (form0 tyAny).check true (tile s t.val).alloc w.toNat (fImod w.toNat == 3 || decide (16 < bits (fImm24 w.toNat) 8 4)) = 0 ∧ loadsTouch gr [] [] = false ∧ lanesOf gr w.toNat ≠ [] ∧ gr.top.mask = BitVec.allOnes 32 ∧ gr.pend = [] ∧ fImod w.toNat = 1 ∧ (y.named = false ∨ c = y.count) ∧ (group (arrive s' (t.val) b c (g.val) false) t.val g.val).isSome = true) ∧
    (∃ (t : TileId) (g : Slot) (w : BitVec 56) (s : Machine.State) (s' : Machine.State) (gr : Group), let b : Nat := (fImm24 w.toNat % 16); let c : Nat := (bits (fImm24 w.toNat) 8 4); let y : Barrier := (barrier (tile s' t.val) b); ready s t.val g.val = some (gr, s') ∧ (form0 tyAny).check true (tile s t.val).alloc w.toNat (fImod w.toNat == 3 || decide (16 < bits (fImm24 w.toNat) 8 4)) = 0 ∧ loadsTouch gr [] [] = false ∧ lanesOf gr w.toNat ≠ [] ∧ gr.top.mask = BitVec.allOnes 32 ∧ gr.pend = [] ∧ fImod w.toNat = 2 ∧ mfind y.passed g.val = some c) ∧
    (∃ (t : TileId) (g : Slot) (w : BitVec 56) (s : Machine.State) (s' : Machine.State) (gr : Group), let b : Nat := (fImm24 w.toNat % 16); let c : Nat := (bits (fImm24 w.toNat) 8 4); let y : Barrier := (barrier (tile s' t.val) b); ready s t.val g.val = some (gr, s') ∧ (form0 tyAny).check true (tile s t.val).alloc w.toNat (fImod w.toNat == 3 || decide (16 < bits (fImm24 w.toNat) 8 4)) = 0 ∧ loadsTouch gr [] [] = false ∧ lanesOf gr w.toNat ≠ [] ∧ gr.top.mask = BitVec.allOnes 32 ∧ gr.pend = [] ∧ fImod w.toNat = 2 ∧ mfind y.passed g.val = none ∧ (y.named = false ∨ c = y.count)) ∧
    (∃ (t : TileId) (g : Slot) (w : BitVec 56) (s : Machine.State) (s' : Machine.State) (gr : Group), ready s t.val g.val = some (gr, s') ∧ (form0 tyAny).check true (tile s t.val).alloc w.toNat (modNone true w.toNat || decide (4 < fImm24 w.toNat % 8)) = 0 ∧ loadsTouch gr [] [] = false ∧ fImm24 w.toNat % 8 = 0 ∧ gr.pend = []) ∧
    (∃ (t : TileId) (g : Slot) (w : BitVec 56) (s : Machine.State) (s' : Machine.State) (gr : Group), ready s t.val g.val = some (gr, s') ∧ (form0 tyAny).check true (tile s t.val).alloc w.toNat (modNone true w.toNat || decide (4 < fImm24 w.toNat % 8)) = 0 ∧ loadsTouch gr [] [] = false ∧ fImm24 w.toNat % 8 = 0 ∧ gr.pend ≠ []) ∧
    (∃ (t : TileId) (g : Slot) (w : BitVec 56) (s : Machine.State) (s' : Machine.State) (gr : Group), ready s t.val g.val = some (gr, s') ∧ (form0 tyAny).check true (tile s t.val).alloc w.toNat (modNone true w.toNat || decide (4 < fImm24 w.toNat % 8)) = 0 ∧ loadsTouch gr [] [] = false ∧ fImm24 w.toNat % 8 = 1 ∧ tileDone (t.val) (g.val) s' gr = true) ∧
    (∃ (t : TileId) (g : Slot) (w : BitVec 56) (s : Machine.State) (s' : Machine.State) (gr : Group), ready s t.val g.val = some (gr, s') ∧ (form0 tyAny).check true (tile s t.val).alloc w.toNat (modNone true w.toNat || decide (4 < fImm24 w.toNat % 8)) = 0 ∧ loadsTouch gr [] [] = false ∧ fImm24 w.toNat % 8 = 1 ∧ tileDone (t.val) (g.val) s' gr = false) ∧
    (∃ (t : TileId) (g : Slot) (w : BitVec 56) (s : Machine.State) (s' : Machine.State) (gr : Group), ready s t.val g.val = some (gr, s') ∧ (form0 tyAny).check true (tile s t.val).alloc w.toNat (modNone true w.toNat || decide (4 < fImm24 w.toNat % 8)) = 0 ∧ loadsTouch gr [] [] = false ∧ fImm24 w.toNat % 8 = 2 ∧ dieDone (t.val) (l1Drain s' t.val) gr = true) ∧
    (∃ (t : TileId) (g : Slot) (w : BitVec 56) (s : Machine.State) (s' : Machine.State) (gr : Group), ready s t.val g.val = some (gr, s') ∧ (form0 tyAny).check true (tile s t.val).alloc w.toNat (modNone true w.toNat || decide (4 < fImm24 w.toNat % 8)) = 0 ∧ loadsTouch gr [] [] = false ∧ fImm24 w.toNat % 8 = 2 ∧ dieDone (t.val) (l1Drain s' t.val) gr = false) ∧
    (∃ (t : TileId) (g : Slot) (w : BitVec 56) (s : Machine.State) (s' : Machine.State) (gr : Group), ready s t.val g.val = some (gr, s') ∧ (form0 tyAny).check true (tile s t.val).alloc w.toNat (modNone true w.toNat || decide (4 < fImm24 w.toNat % 8)) = 0 ∧ loadsTouch gr [] [] = false ∧ fImm24 w.toNat % 8 = 3 ∧ dieDone (t.val) (l1Drain s' t.val) gr = false) ∧
    (∃ (t : TileId) (g : Slot) (w : BitVec 56) (s : Machine.State) (s' : Machine.State) (gr : Group), ready s t.val g.val = some (gr, s') ∧ (form0 tyAny).check true (tile s t.val).alloc w.toNat (modNone true w.toNat || decide (4 < fImm24 w.toNat % 8)) = 0 ∧ loadsTouch gr [] [] = false ∧ fImm24 w.toNat % 8 = 3 ∧ dieDone (t.val) (l1Drain s' t.val) gr = true) ∧
    (∃ (t : TileId) (g : Slot) (w : BitVec 56) (s : Machine.State) (s' : Machine.State) (gr : Group), ready s t.val g.val = some (gr, s') ∧ (form0 tyAny).check true (tile s t.val).alloc w.toNat (modNone true w.toNat || decide (4 < fImm24 w.toNat % 8)) = 0 ∧ loadsTouch gr [] [] = false ∧ fImm24 w.toNat % 8 = 4 ∧ sysDone (t.val) (l1Drain s' t.val) gr = true) ∧
    (∃ (t : TileId) (g : Slot) (w : BitVec 56) (s : Machine.State) (s' : Machine.State) (gr : Group), ready s t.val g.val = some (gr, s') ∧ (form0 tyAny).check true (tile s t.val).alloc w.toNat (modNone true w.toNat || decide (4 < fImm24 w.toNat % 8)) = 0 ∧ loadsTouch gr [] [] = false ∧ fImm24 w.toNat % 8 = 4 ∧ sysDone (t.val) (l1Drain s' t.val) gr = false) :=
  ⟨⟨767, 15, BitVec.ofNat 56 (1 <<< 51 + 1 <<< 46 + (15 + 2 <<< 4) <<< 2), whole, readySt (whole), readyGr (whole), ready_of (by decide +kernel), by decide +kernel⟩,
   ⟨767, 15, iWord 0 0 0 0 0 (15 + 2 <<< 4) 0, lane31, readySt (lane31), readyGr (lane31), ready_of (by decide +kernel), by decide +kernel⟩,
   ⟨767, 15, iWord 0 0 0 0 0 (15 + 3 <<< 4) 0, waiting1 (grp 0xFFFFFFFF) bar1, readySt (waiting1 (grp 0xFFFFFFFF) bar1), readyGr (waiting1 (grp 0xFFFFFFFF) bar1), ready_of (by decide +kernel), by decide +kernel⟩,
   ⟨767, 15, iWord 0 0 0 0 0 (15 + 3 <<< 4) 2, waiting1 (grp 0xFFFFFFFF) { bar1 with passed := [(15, 2)] }, readySt (waiting1 (grp 0xFFFFFFFF) { bar1 with passed := [(15, 2)] }), readyGr (waiting1 (grp 0xFFFFFFFF) { bar1 with passed := [(15, 2)] }), 2, ready_of (by decide +kernel), by decide +kernel⟩,
   ⟨767, 15, iWord 0 0 0 0 0 (15 + 2 <<< 4) 0, waiting1 (grp 0xFFFFFFFF) bar1, readySt (waiting1 (grp 0xFFFFFFFF) bar1), readyGr (waiting1 (grp 0xFFFFFFFF) bar1), ready_of (by decide +kernel), by decide +kernel⟩,
   ⟨767, 15, iWord 0 0 0 0 0 (15 + 2 <<< 4) 1, waiting1 (grp 0xFFFFFFFF) bar1, readySt (waiting1 (grp 0xFFFFFFFF) bar1), readyGr (waiting1 (grp 0xFFFFFFFF) bar1), ready_of (by decide +kernel), by decide +kernel⟩,
   ⟨767, 15, iWord 0 0 0 0 0 (15 + 2 <<< 4) 2, waiting1 (grp 0xFFFFFFFF) { bar1 with passed := [(15, 2)] }, readySt (waiting1 (grp 0xFFFFFFFF) { bar1 with passed := [(15, 2)] }), readyGr (waiting1 (grp 0xFFFFFFFF) { bar1 with passed := [(15, 2)] }), ready_of (by decide +kernel), by decide +kernel⟩,
   ⟨767, 15, iWord 0 0 0 0 0 (15 + 2 <<< 4) 2, waiting1 (grp 0xFFFFFFFF) bar1, readySt (waiting1 (grp 0xFFFFFFFF) bar1), readyGr (waiting1 (grp 0xFFFFFFFF) bar1), ready_of (by decide +kernel), by decide +kernel⟩,
   ⟨767, 15, iWord 0 0 0 0 0 0 0, whole, readySt (whole), readyGr (whole), ready_of (by decide +kernel), by decide +kernel⟩,
   ⟨767, 15, iWord 0 0 0 0 0 0 0, pending, readySt (pending), readyGr (pending), ready_of (by decide +kernel), by decide +kernel⟩,
   ⟨767, 15, iWord 0 0 0 0 0 1 0, whole, readySt (whole), readyGr (whole), ready_of (by decide +kernel), by decide +kernel⟩,
   ⟨767, 15, iWord 0 0 0 0 0 1 0, pending, readySt (pending), readyGr (pending), ready_of (by decide +kernel), by decide +kernel⟩,
   ⟨767, 15, iWord 0 0 0 0 0 2 0, whole, readySt (whole), readyGr (whole), ready_of (by decide +kernel), by decide +kernel⟩,
   ⟨767, 15, iWord 0 0 0 0 0 2 0, pending, readySt (pending), readyGr (pending), ready_of (by decide +kernel), by decide +kernel⟩,
   ⟨767, 15, iWord 0 0 0 0 0 3 0, pending, readySt (pending), readyGr (pending), ready_of (by decide +kernel), by decide +kernel⟩,
   ⟨767, 15, iWord 0 0 0 0 0 3 0, whole, readySt (whole), readyGr (whole), ready_of (by decide +kernel), by decide +kernel⟩,
   ⟨767, 15, iWord 0 0 0 0 0 4 0, whole, readySt (whole), readyGr (whole), ready_of (by decide +kernel), by decide +kernel⟩,
   ⟨767, 15, iWord 0 0 0 0 0 4 0, invisible1, readySt (invisible1), readyGr (invisible1), ready_of (by decide +kernel), by decide +kernel⟩⟩

theorem witness_TrapsAndFaultsAreRecorded :
    (∃ (t : TileId) (g : Slot) (w : BitVec 56) (s : Machine.State) (s' : Machine.State) (gr : Group), ready s t.val g.val = some (gr, s') ∧ (form0 tyAny).check true (tile s t.val).alloc w.toNat (modNone true w.toNat) = 0 ∧ loadsTouch gr [] [] = false ∧ lanesOf gr w.toNat ≠ []) ∧
    (∃ (t : TileId) (g : Slot) (w : BitVec 56) (s : Machine.State) (s' : Machine.State) (gr : Group), ready s t.val g.val = some (gr, s') ∧ (form0 tyAny).check true (tile s t.val).alloc w.toNat (modNone true w.toNat) = 0 ∧ loadsTouch gr [] [] = false ∧ lanesOf gr w.toNat = []) ∧
    (∃ (t : TileId) (g : Slot) (s : Machine.State) (s' : Machine.State) (gr : Group), Canonical s ∧ ready s t.val g.val = some (gr, s') ∧ canonical (BitVec.toNat gr.top.pc) = false ∧ rf s Reg.tileFault (tileDie t.val) (tileSite t.val) 0 63 63 = 0) ∧
    (∃ (t : TileId) (g : Slot) (w : W64) (s : Machine.State) (s' : Machine.State) (x : Machine.State) (gr : Group) (pa : Nat), ready s t.val g.val = some (gr, s') ∧ translate s' (t.val) (tile s' t.val).ctx (BitVec.toNat gr.top.pc % 2 ^ 48) Need.fetch = (0, pa, x) ∧ canonical (BitVec.toNat gr.top.pc) = true ∧ laneCode x (t.val) pa 8 = 0 ∧ tileInstr t g w = none) ∧
    (∃ (t : TileId) (s : Machine.State) (g : Nat) (gr : Group) (rest : Map Group) (j : Job), (∀ (e : Nat × Group), e ∈ (tile s t.val).groups → ∃ (b : Nat), e.snd.wait = GroupWait.barrier b) ∧ (tile s t.val).groups = (g, gr) :: rest ∧ jobOn s t.val = some j ∧ tileOpen s t.val = true ∧ (tile s t.val).mode = TileMode.running ∧ canLaunch s (t.val) j = false) ∧
    (∃ (t : TileId) (s : Machine.State), (∃ (e : Nat × Group), e ∈ (tile s t.val).groups ∧ ∀ (b : Nat), e.snd.wait ≠ GroupWait.barrier b) ∧ tileOpen s t.val = true ∧ tileRuns s t.val = true) :=
  ⟨⟨767, 15, iWord 0 0 0 0 0 0xFFFFFF 0, lane31, readySt (lane31), readyGr (lane31), ready_of (by decide +kernel), by decide +kernel⟩,
   ⟨767, 15, BitVec.ofNat 56 (1 <<< 51 + 1 <<< 46), lane31, readySt lane31, readyGr lane31, ready_of (by decide +kernel), by decide +kernel⟩,
   ⟨767, 15, onTile { grp 0x80000000 with stack := [⟨0x800000000000, 0x80000000, none⟩] }, readySt (onTile { grp 0x80000000 with stack := [⟨0x800000000000, 0x80000000, none⟩] }), readyGr (onTile { grp 0x80000000 with stack := [⟨0x800000000000, 0x80000000, none⟩] }), canonical_of (by decide +kernel), ready_of (by decide +kernel), by decide +kernel⟩,
   ⟨767, 15, 0xFF00000000000000, lane31, readySt lane31, fetchX.2.2, readyGr lane31, fetchX.2.1, ready_of (by decide +kernel), triple_of (p := fetchX) (by decide +kernel), by decide +kernel⟩,
   ⟨767, allWait, 15, { grp 0xFFFFFFFF with wait := .barrier 15 }, [], job0, fun e he => (List.mem_singleton.mp he) ▸ ⟨15, rfl⟩, by decide +kernel⟩,
   ⟨767, lane31, ⟨(15, grp 0x80000000), List.mem_cons_self, fun _ h => GroupWait.noConfusion h⟩, by decide +kernel⟩⟩

theorem witness_MatrixInstructionsAreQueued :
    (∃ (t : TileId) (g : Slot) (w : BitVec 56) (s : Machine.State) (s' : Machine.State) (gr : Group), mayQueue (t.val) (g.val) w.toNat (spread (mmaFrags w.toNat)) s s' gr ∧ mmIllegal false w.toNat = false ∧ (∀ (r : Nat × Nat), r ∈ mmaFrags w.toNat → r.fst + r.snd ≤ (tile s t.val).alloc) ∧ disjoint (mmaFrags w.toNat) = true ∧ xReg w.toNat % 4 = 0 ∧ xBreg w.toNat % 4 = 0 ∧ (xMx w.toNat = true → xSreg w.toNat % 2 = 0) ∧ (xSp w.toNat = true → xMreg w.toNat % (kStep (xRate w.toNat) true / 32) = 0) ∧ (xClr w.toNat = true ∨ flsTagging (tile s' t.val) 128 w.toNat = false ∧ tagWrong (tile s' t.val) 128 w.toNat = false)) ∧
    (∃ (t : TileId) (g : Slot) (w : BitVec 56) (s : Machine.State) (s' : Machine.State) (gr : Group), let ws : List W64 := ([w64 (sget gr (xReg w.toNat)), w64 (sget gr (xReg w.toNat + 1)), w64 (sget gr (xReg w.toNat + 2)), w64 (sget gr (xReg w.toNat + 3))]); ready s t.val g.val = some (gr, s') ∧ loadsTouch gr [] [xReg w.toNat, xReg w.toNat + 1, xReg w.toNat + 2, xReg w.toNat + 3] = false ∧ engFull s' (t.val) w.toNat = false ∧ allActive gr = true ∧ mmIllegal true w.toNat = false ∧ ((mtxDesc ws).decode = 0 ∨ (decStream s' (t.val) (mtxDesc ws).decode).changing = none) ∧ decodeCheck s' (t.val) w.toNat (mtxDesc ws) = 0 ∧ xReg w.toNat % 4 = 0 ∧ xAcc w.toNat % (mmasRows w.toNat * mmasCols w.toNat * mmasUnit w.toNat) = 0 ∧ (xClr w.toNat = true ∨ flsTagging (tile s' t.val) 129 w.toNat = false ∧ tagWrong (tile s' t.val) 129 w.toNat = false) ∧ streamCheck w.toNat ws (tile s' t.val).slmBytes = 0) ∧
    (∃ (t : TileId) (g : Slot) (w : BitVec 56) (s : Machine.State) (s' : Machine.State) (gr : Group), mayQueue (t.val) (g.val) w.toNat [] s s' gr ∧ mvCheck 136 (tile s t.val).alloc w.toNat = 0 ∧ (xPair w.toNat = true → xAcc w.toNat % 2 = 0)) ∧
    (∃ (t : TileId) (g : Slot) (w : BitVec 56) (s : Machine.State) (s' : Machine.State) (gr : Group), mayQueue (t.val) (g.val) w.toNat (spread [(xReg w.toNat, 16)]) s s' gr ∧ mvCheck 137 (tile s t.val).alloc w.toNat = 0 ∧ (xPair w.toNat = true → xAcc w.toNat % 2 = 0) ∧ xReg w.toNat % 4 = 0 ∧ flsTagging (tile s' t.val) 137 w.toNat = false ∧ tagWrong (tile s' t.val) 137 w.toNat = false) ∧
    (∃ (t : TileId) (g : Slot) (w : BitVec 56) (s : Machine.State) (s' : Machine.State) (gr : Group), mayQueue (t.val) (g.val) w.toNat (spread [(xReg w.toNat, 16)]) s s' gr ∧ mvCheck 138 (tile s t.val).alloc w.toNat = 0 ∧ (xPair w.toNat = true → xAcc w.toNat % 2 = 0) ∧ xReg w.toNat % 4 = 0) ∧
    (∃ (t : TileId) (g : Slot) (w : BitVec 56) (s : Machine.State) (s' : Machine.State) (gr : Group), ready s t.val g.val = some (gr, s') ∧ bits w.toNat 55 4 = 0 ∧ loadsTouch gr [] [] = false ∧ allActive gr = true ∧ (∀ (e : Nat), e < 4 → w.toNat % 16 = 0 ∨ bit w.toNat e = true → ∀ (o : MtxOp), o ∈ (eng (tile s' t.val) e).queue → ¬(o.opc = 129 ∧ o.from_ = gr.issuer g.val))) ∧
    (∃ (t : TileId) (g : Slot) (w : BitVec 56) (s : Machine.State) (s' : Machine.State) (gr : Group), ready s t.val g.val = some (gr, s') ∧ bits w.toNat 55 4 = 0 ∧ loadsTouch gr [] [] = false ∧ allActive gr = false) :=
  ⟨⟨767, 15, mmaWord, whole, readySt (whole), readyGr (whole), ⟨ready_of (by decide +kernel), by decide +kernel, by decide +kernel, by decide +kernel⟩, by decide +kernel⟩,
   ⟨767, 15, BitVec.ofNat 56 (5 <<< 52 + 31 <<< 40 + 60 <<< 32 + 5 <<< 3 + 1), mmasState, readySt (mmasState), readyGr (mmasState), ready_of (by decide +kernel), by decide +kernel⟩,
   ⟨767, 15, BitVec.ofNat 56 (4 <<< 52 + 31 <<< 40), whole, readySt (whole), readyGr (whole), ⟨ready_of (by decide +kernel), by decide +kernel, by decide +kernel, by decide +kernel⟩, by decide +kernel⟩,
   ⟨767, 15, BitVec.ofNat 56 (4 <<< 52 + 31 <<< 40), zeroTag, readySt (zeroTag), readyGr (zeroTag), ⟨ready_of (by decide +kernel), by decide +kernel, by decide +kernel, by decide +kernel⟩, by decide +kernel⟩,
   ⟨767, 15, BitVec.ofNat 56 (4 <<< 52 + 31 <<< 40), whole, readySt (whole), readyGr (whole), ⟨ready_of (by decide +kernel), by decide +kernel, by decide +kernel, by decide +kernel⟩, by decide +kernel⟩,
   ⟨767, 15, 15, whole, readySt (whole), readyGr (whole), ready_of (by decide +kernel), by decide +kernel⟩,
   ⟨767, 15, 15, lane31, readySt (lane31), readyGr (lane31), ready_of (by decide +kernel), by decide +kernel⟩⟩

theorem witness_EnginesRunTheirQueues :
    (∃ (t : TileId) (e : Fin 4) (s : Machine.State) (o : MtxOp) (rest : List MtxOp), (eng (tile s t.val) e.val).queue = o :: rest ∧ (eng (tile s t.val) e.val).running = false ∧ flsHolds (tile s t.val) o = false ∧ (eng (tile s t.val) e.val).freeAt ≤ timebaseOf s (tileDie t.val) ∧ (eng (tile s t.val) e.val).cold = false) ∧
    (∃ (t : TileId) (e : Fin 4) (s : Machine.State) (o : MtxOp) (rest : List MtxOp), (eng (tile s t.val) e.val).queue = o :: rest ∧ (eng (tile s t.val) e.val).running = false ∧ flsHolds (tile s t.val) o = false ∧ (eng (tile s t.val) e.val).freeAt ≤ timebaseOf s (tileDie t.val) ∧ (eng (tile s t.val) e.val).cold = true ∧ waveNow s t.val = true) ∧
    (∃ (t : TileId) (e : Fin 4) (s : Machine.State), (eng (tile s t.val) e.val).queue = [] ∧ (eng (tile s t.val) e.val).freeAt + rf s Reg.rimPaceCtl (tileDie t.val) 0 0 47 32 ≤ timebaseOf s (tileDie t.val)) ∧
    (∃ (t : TileId) (e : Fin 4) (s : Machine.State) (o : MtxOp) (rest : List MtxOp), (eng (tile s t.val) e.val).queue = o :: rest ∧ (eng (tile s t.val) e.val).running = true) :=
  ⟨⟨767, 3, withEngine { queue := [mmaOp], running := false, cold := false, since := 0, freeAt := 0 }, mmaOp, [], by decide +kernel⟩,
   ⟨767, 3, withEngine { queue := [mmaOp], running := false, cold := true, since := 0, freeAt := 0 }, mmaOp, [], by decide +kernel⟩,
   ⟨767, 3, withEngine { queue := [], running := false, cold := false, since := 0, freeAt := 0 }, by decide +kernel⟩,
   ⟨767, 3, withEngine { queue := [mmaOp], running := true, cold := false, since := 0, freeAt := 0 }, mmaOp, [], by decide +kernel⟩⟩

theorem witness_IntegerMmaSumsItsProducts :
    ∃ (t : TileId) (e : Fin 4) (s : Machine.State) (o : MtxOp) (rest : List MtxOp), s.tiles.rising ∧ (tile s t.val).acc.rising ∧ (eng (tile s t.val) e.val).queue = o :: rest ∧ (eng (tile s t.val) e.val).running = true ∧ o.opc = 128 ∧ xRate o.word.toNat = Rate.int ∧ xSp o.word.toNat = false :=
  ⟨767, 3, withEngine { queue := [mmaOp], running := true, cold := false, since := 0, freeAt := 0 }, mmaOp, [], rising_of (by decide +kernel), rising_of (by decide +kernel), by decide +kernel⟩

theorem witness_FlowstoneCommandsRunInOrder :
    (∃ (t : TileId) (g : Slot) (w : BitVec 56) (s : Machine.State) (s' : Machine.State) (gr : Group), let b : List W64 := (toWords 32 (slmBytesAt (tile s' t.val) (sget gr (fSreg w.toNat)) 256)); ready s t.val g.val = some (gr, s') ∧ flsWordCheck false w.toNat = 0 ∧ loadsTouch gr [] [fSreg w.toNat] = false ∧ (tile s' t.val).fls.length < 8 ∧ sget gr (fSreg w.toNat) % 256 = 0 ∧ sget gr (fSreg w.toNat) + 256 ≤ (tile s' t.val).slmBytes ∧ (blockCheck s' (t.val) b).fst = 0) ∧
    (∃ (t : TileId) (g : Slot) (w : BitVec 56) (s : Machine.State) (s' : Machine.State) (gr : Group), ready s t.val g.val = some (gr, s') ∧ flsWordCheck true w.toNat = 0 ∧ loadsTouch gr [] [] = false) ∧
    (∃ (t : TileId) (g : Slot) (w : BitVec 56) (s : Machine.State) (s' : Machine.State) (gr : Group), Canonical s ∧ ready s t.val g.val = some (gr, s') ∧ flsWordCheck false w.toNat = 0 ∧ loadsTouch gr [] [fSreg w.toNat] = false) ∧
    (∃ (t : TileId) (s : Machine.State) (c : FlsCmd), List.find? (fun (c : FlsCmd) => !c.started) (tile s t.val).fls = some c ∧ mtxHolds (tile s t.val) c = false) ∧
    (∃ (t : TileId) (s : Machine.State) (c : FlsCmd) (rest : List FlsCmd), Canonical s ∧ s.tiles.rising ∧ (tile s t.val).fls = c :: rest ∧ c.started = true ∧ c.dirty = [] ∧ c.byEngine = [] ∧ c.stat < 2 ^ 48 ∧ c.code < 2 ^ 16 ∧ c.fail = 0) ∧
    (∃ (a : Agent) (t : TileId) (s : Machine.State), Canonical s ∧ agentMay a Writers.any = true ∧ tileOpen s t.val = true) :=
  ⟨⟨767, 15, BitVec.ofNat 56 (63 <<< 36), withFls [], readySt (withFls []), readyGr (withFls []), ready_of (by decide +kernel), by decide +kernel⟩,
   ⟨767, 15, 7, withFls [flsCmd false], readySt (withFls [flsCmd false]), readyGr (withFls [flsCmd false]), ready_of (by decide +kernel), by decide +kernel⟩,
   ⟨767, 15, BitVec.ofNat 56 (63 <<< 36), withFls [], readySt (withFls []), readyGr (withFls []), canonical_of (by decide +kernel), ready_of (by decide +kernel), by decide +kernel⟩,
   ⟨767, withFls [flsCmd false], flsCmd false, by decide +kernel⟩,
   ⟨767, withFls [flsCmd true], flsCmd true, [], canonical_of (by decide +kernel), rising_of (by decide +kernel), by decide +kernel⟩,
   ⟨.core 127, 767, whole, canonical_of (by decide +kernel), by decide +kernel⟩⟩

theorem witness_L1DrainsInvalidatesAndFills :
    (∃ (t : TileId) (line : Nat) (e : MergeEntry) (s : Machine.State), tileOpen s t.val = true ∧ List.find? (fun (x : MergeEntry) => x.line == line) (tile s t.val).merge = some e) ∧
    (∃ (a : Agent) (t : TileId) (s : Machine.State), Canonical s ∧ s.tiles.rising ∧ l1Writable s a t.val = true) ∧
    (∃ (a : Agent) (t : TileId) (v : W64) (s : Machine.State), Canonical s ∧ l1Writable s a t.val = true ∧ l1Enabled s t.val = false ∧ bit (BitVec.toNat v) 0 = true) ∧
    (∃ (a : Agent) (t : TileId) (v : W64) (s : Machine.State), Canonical s ∧ l1Writable s a t.val = true ∧ l1Enabled s t.val = true ∧ bit (BitVec.toNat v) 0 = false) ∧
    (∃ (t : TileId) (line : Nat) (f : FillMsg) (m : L1Miss) (s : Machine.State), List.find? (fun (f : FillMsg) => f.line == line && f.dest == Origin.l1Fill t.val) s.l1Fills = some f ∧ List.find? (fun (m : L1Miss) => m.line == line) (tile s t.val).l1Miss = some m ∧ f.code = 0 ∧ m.install = true) ∧
    (∃ (t : TileId) (line : Nat) (f : FillMsg) (m : L1Miss) (s : Machine.State), List.find? (fun (f : FillMsg) => f.line == line && f.dest == Origin.l1Fill t.val) s.l1Fills = some f ∧ List.find? (fun (m : L1Miss) => m.line == line) (tile s t.val).l1Miss = some m ∧ f.code ≠ 0) :=
  ⟨⟨767, 352, ⟨352, [(127, 1)], false⟩, setTile whole 767 { Tile.reset with merge := [⟨352, [(127, 1)], false⟩] }, by decide +kernel⟩,
   ⟨.core 127, 767, whole, canonical_of (by decide +kernel), rising_of (by decide +kernel), by decide +kernel⟩,
   ⟨.uszon, 767, 1, whole, canonical_of (by decide +kernel), by decide +kernel⟩,
   ⟨.uszon, 767, 2 ^ 64 - 2, rfset whole .l1cCtl 5 127 0 0 0 1, canonical_of (by decide +kernel), by decide +kernel⟩,
   ⟨767, 352, ⟨352, [(127, 1)], 0, .l1Fill 767, false⟩, ⟨352, [(15, 0)], false, true, []⟩, { setTile up 767 { Tile.reset with l1Miss := [⟨352, [(15, 0)], false, true, []⟩] } with l1Fills := [⟨352, [(127, 1)], 0, .l1Fill 767, false⟩] }, by decide +kernel⟩,
   ⟨767, 352, ⟨352, [], 0x842, .l1Fill 767, false⟩, ⟨352, [(15, 0)], false, true, []⟩, { setTile up 767 { Tile.reset with l1Miss := [⟨352, [(15, 0)], false, true, []⟩] } with l1Fills := [⟨352, [], 0x842, .l1Fill 767, false⟩] }, by decide +kernel⟩⟩

theorem witness_DieCacheServesAccesses :
    (∃ (k : CDie) (n : Nat) (key : Nat) (e : WordEcc) (r : MemReq) (need : BitVec 128) (l : DccLine) (t : Nat) (s : Machine.State) (x : Machine.State), Canonical s ∧ dccTakes s (k.val) n e r x ∧ dccHas x (k.val) r.line key l ∧ dccEnabled s k.val = true ∧ r.kind = ReqKind.read need ∧ r.home = false ∧ r.from_ = Origin.l1Fill t ∧ need &&& ~~~l.valid = 0 ∧ l.prefetched = false) ∧
    (∃ (k : CDie) (n : Nat) (key : Nat) (e : WordEcc) (r : MemReq) (need : BitVec 128) (s : Machine.State) (x : Machine.State) (y : Machine.State), dccTakes s (k.val) n e r x ∧ dccAlloc x (k.val) r.line (openWays x k.val) = some (key, y) ∧ dccEnabled s k.val = true ∧ r.kind = ReqKind.read need ∧ r.home = false ∧ dccFind (dcc x k.val) r.line = none ∧ (dcc x k.val).misses.length < 4096) ∧
    (∃ (k : CDie) (n : Nat) (key : Nat) (e : WordEcc) (r : MemReq) (bs : Map Byte) (p : List Nat) (l : DccLine) (s : Machine.State) (x : Machine.State), dccTakes s (k.val) n e r x ∧ dccHas x (k.val) r.line key l ∧ dccEnabled s k.val = true ∧ r.kind = ReqKind.write bs p ∧ r.home = false ∧ l.prefetched = false) ∧
    (∃ (k : CDie) (n : Nat) (key : Nat) (e : WordEcc) (r : MemReq) (bs : Map Byte) (p : List Nat) (s : Machine.State) (x : Machine.State) (y : Machine.State), dccTakes s (k.val) n e r x ∧ dccAlloc x (k.val) r.line (openWays x k.val) = some (key, y) ∧ dccEnabled s k.val = true ∧ r.kind = ReqKind.write bs p ∧ r.home = false ∧ dccFind (dcc x k.val) r.line = none) ∧
    (∃ (k : CDie) (n : Nat) (e : WordEcc) (r : MemReq) (need : BitVec 128) (s : Machine.State) (x : Machine.State), dccTakes s (k.val) n e r x ∧ (dccEnabled s k.val = false ∨ r.home = true) ∧ r.kind = ReqKind.read need) ∧
    (∃ (k : CDie) (n : Nat) (e : WordEcc) (r : MemReq) (aop : BitVec 4) (ty : BitVec 4) (off : Nat) (ops : List (W64 × W64)) (s : Machine.State) (x : Machine.State), dccTakes s (k.val) n e r x ∧ r.kind = ReqKind.atomic aop ty off ops) ∧
    (∃ (k : CDie) (line : Nat) (f : Nat × FillMsg) (m : DccMiss) (l : DccLine) (s : Machine.State), List.find? (fun (f : Nat × FillMsg) => f.fst == k.val && f.snd.line == line) s.dccFills = some f ∧ List.find? (fun (m : DccMiss) => m.line == line) (dcc s k.val).misses = some m ∧ m.discard = false ∧ f.snd.code = 0 ∧ mfind (dcc s k.val).lines (dccSet line * 16 + m.way) = some l ∧ l.line = line ∧ (dcc s k.val).maint = none) ∧
    (∃ (k : CDie) (line : Nat) (f : Nat × FillMsg) (m : DccMiss) (l : DccLine) (s : Machine.State), s.dcc.rising ∧ (dcc s k.val).lines.rising ∧ List.find? (fun (f : Nat × FillMsg) => f.fst == k.val && f.snd.line == line) s.dccFills = some f ∧ List.find? (fun (m : DccMiss) => m.line == line) (dcc s k.val).misses = some m ∧ m.discard = false ∧ f.snd.code ≠ 0 ∧ mfind (dcc s k.val).lines (dccSet line * 16 + m.way) = some l ∧ l.line = line ∧ (dcc s k.val).maint = none) :=
  ⟨⟨5, 1, 5647, .good, req0 rdTop, BitVec.ofNat 128 (2 ^ 127), line1, 767, withDcc true (dc [(5647, line1)] rdTop), popped (withDcc true (dc [(5647, line1)] rdTop)), canonical_of (by decide +kernel), ⟨by decide +kernel, [other], by decide +kernel, by decide +kernel, rfl⟩, ⟨by decide +kernel, by decide +kernel⟩, by decide +kernel⟩,
   ⟨5, 1, allocX.1, .good, req0 rdTop, BitVec.ofNat 128 (2 ^ 127), missing, popped missing, allocX.2, ⟨by decide +kernel, [other], by decide +kernel, by decide +kernel, rfl⟩, got (0, up) (by decide +kernel), by decide +kernel⟩,
   ⟨5, 1, 5647, .good, req0 wrTop, [(127, 0xAB)], [], line1, withDcc true (dc [(5647, line1)] wrTop), popped (withDcc true (dc [(5647, line1)] wrTop)), ⟨by decide +kernel, [other], by decide +kernel, by decide +kernel, rfl⟩, ⟨by decide +kernel, by decide +kernel⟩, by decide +kernel⟩,
   ⟨5, 1, writtenX.1, .good, req0 wrTop, [(127, 0xAB)], [], withDcc true (dc [] wrTop), popped (withDcc true (dc [] wrTop)), writtenX.2, ⟨by decide +kernel, [other], by decide +kernel, by decide +kernel, rfl⟩, got (0, up) (by decide +kernel), by decide +kernel⟩,
   ⟨5, 1, .good, req0 rdTop, BitVec.ofNat 128 (2 ^ 127), withDcc false (dc [(5647, line1)] rdTop), popped (withDcc false (dc [(5647, line1)] rdTop)), ⟨by decide +kernel, [other], by decide +kernel, by decide +kernel, rfl⟩, by decide +kernel⟩,
   ⟨5, 1, .good, req0 atTop, 0, 0, 124, [(1, 0)], withDcc true (dc [(5647, line1)] atTop), popped (withDcc true (dc [(5647, line1)] atTop)), ⟨by decide +kernel, [other], by decide +kernel, by decide +kernel, rfl⟩, by decide +kernel⟩,
   ⟨5, 352, (5, ⟨352, [(127, 1)], 0, .dccFill 5, true⟩), ⟨352, 15, [], false⟩, line1, filling ⟨352, [(127, 1)], 0, .dccFill 5, true⟩, by decide +kernel⟩,
   ⟨5, 352, (5, ⟨352, [], 0x842, .dccFill 5, true⟩), ⟨352, 15, [], false⟩, line1, filling ⟨352, [], 0x842, .dccFill 5, true⟩, rising_of (by decide +kernel), rising_of (by decide +kernel), by decide +kernel⟩⟩

theorem witness_DieCacheMaintenance :
    (∃ (row : Nat × (Agent → CDie → BitVec 56 → Instr)) (a : Agent) (k : CDie) (s : Machine.State), row ∈ maintRows ++ setWayRows ++ [(31, Instr.dccInvAll)] ∧ cWrite s a k = true ∧ rf s Reg.dccMaintStatus (k.val) 0 0 63 63 = 1) ∧
    (∃ (row : Nat × (Agent → CDie → BitVec 56 → Instr)) (a : Agent) (k : CDie) (v : BitVec 56) (s : Machine.State), row ∈ maintRows ++ setWayRows ++ [(31, Instr.dccInvAll)] ∧ cWrite s a k = true ∧ rf s Reg.dccMaintStatus (k.val) 0 0 63 63 = 0 ∧ maintBad row.fst (rf s Reg.dccMaintAddr (k.val) 0 0 47 0) (rf s Reg.dccMaintLen (k.val) 0 0 48 0) (bits v.toNat 55 40) (bits v.toNat 38 0) (dccLocked s k.val) (bit v.toNat 39) = true) ∧
    (∃ (row : Nat × (Agent → CDie → BitVec 56 → Instr)) (a : Agent) (k : CDie) (v : BitVec 56) (s : Machine.State), let addr : Nat := (rf s Reg.dccMaintAddr (k.val) 0 0 47 0); let len : Nat := (rf s Reg.dccMaintLen (k.val) 0 0 48 0); row ∈ maintRows ∧ cWrite s a k = true ∧ rf s Reg.dccMaintStatus (k.val) 0 0 63 63 = 0 ∧ maintBad row.fst addr len (bits v.toNat 55 40) (bits v.toNat 38 0) (dccLocked s k.val) (bit v.toNat 39) = false) ∧
    (∃ (row : Nat × (Agent → CDie → BitVec 56 → Instr)) (a : Agent) (k : CDie) (v : BitVec 56) (s : Machine.State), let addr : Nat := (rf s Reg.dccMaintAddr (k.val) 0 0 47 0); let len : Nat := (rf s Reg.dccMaintLen (k.val) 0 0 48 0); let ways : Nat := (bits v.toNat 55 40); row ∈ setWayRows ∧ cWrite s a k = true ∧ rf s Reg.dccMaintStatus (k.val) 0 0 63 63 = 0 ∧ maintBad row.fst addr len ways (bits v.toNat 38 0) (dccLocked s k.val) (bit v.toNat 39) = false) ∧
    (∃ (a : Agent) (k : CDie) (v : BitVec 56) (s : Machine.State), Canonical s ∧ s.dcc.rising ∧ cWrite s a k = true ∧ rf s Reg.dccMaintStatus (k.val) 0 0 63 63 = 0 ∧ bits v.toNat 38 0 = 0) ∧
    (∃ (k : CDie) (m : Maint) (s : Machine.State), Canonical s ∧ (dcc s k.val).maint = some m ∧ m.fetching = [] ∧ (m.op ≤ 5 → m.addr + m.len ≤ m.pos * 128)) :=
  ⟨⟨(1, .dccInv), .core 127, 5, maintReg 0 0 1, List.mem_cons_self, by decide +kernel⟩,
   ⟨(1, .dccInv), .core 127, 5, 0, maintReg 0 0 0, List.mem_cons_self, by decide +kernel⟩,
   ⟨(1, .dccInv), .core 127, 5, 0, maintReg (2 ^ 48 - 128) 128 0, List.mem_cons_self, by decide +kernel⟩,
   ⟨(0x11, .dccInvSw), .core 127, 5, BitVec.ofNat 56 (2 ^ 55), maintReg 16383 16384 0, List.mem_cons_self, by decide +kernel⟩,
   ⟨.core 127, 5, 0, maintReg 0 0 0, canonical_of (by decide +kernel), rising_of (by decide +kernel), by decide +kernel⟩,
   ⟨5, ⟨5, 2 ^ 48 - 128, 128, 0, false, 2 ^ 41, [], [], 0, 0⟩, withDcc true { DieCache.reset with maint := some ⟨5, 2 ^ 48 - 128, 128, 0, false, 2 ^ 41, [], [], 0, 0⟩ }, canonical_of (by decide +kernel), by decide +kernel⟩⟩

theorem witness_DieCacheLinesAndControl :
    (∃ (s : Machine.State) (k : Nat) (lo : Nat) (hi : Nat) (line : Nat) (key : Nat) (l : DccLine), s.dcc.rising ∧ (dcc s k).lines.rising ∧ dccHas s k line key l ∧ lo ≤ line * 128 ∧ line * 128 + 128 ≤ hi ∧ l.dirtyMask ≠ 0) ∧
    (∃ (a : Agent) (k : CDie) (v : W64) (s : Machine.State), Canonical s ∧ cWrite s a k = true ∧ dccEnabled s k.val = false ∧ bit (BitVec.toNat v) 0 = true) ∧
    (∃ (a : Agent) (k : CDie) (v : W64) (s : Machine.State), Canonical s ∧ s.dcc.rising ∧ (dcc s k.val).lines.rising ∧ cWrite s a k = true ∧ dccEnabled s k.val = true ∧ bit (BitVec.toNat v) 0 = false) :=
  ⟨⟨withDcc true (dc [(5647, line1)] rdTop), 5, 352 * 128, 353 * 128, 352, 5647, line1, rising_of (by decide +kernel), rising_of (by decide +kernel), ⟨by decide +kernel, by decide +kernel⟩, by decide +kernel⟩,
   ⟨.uszon, 5, 1, withDcc false DieCache.reset, canonical_of (by decide +kernel), by decide +kernel⟩,
   ⟨.uszon, 5, 2 ^ 64 - 2, withDcc true DieCache.reset, canonical_of (by decide +kernel), rising_of (by decide +kernel), rising_of (by decide +kernel), by decide +kernel⟩⟩

theorem witness_HomesKeepWhatIsWritten :
    ∃ (s : Machine.State) (h : Nat) (bs : Map Byte), Canonical s ∧ s.homes.rising ∧ HomeSound (home s h) ∧ bs.rising ∧ bs ≠ [] ∧ (∀ (b : Nat × Byte), b ∈ bs → b.fst < 128) :=
  ⟨setHome up 35 sump1, 35, [(0, 1), (127, 0xAB)], canonical_of (by decide +kernel), rising_of (by decide +kernel), ⟨by decide +kernel, by decide +kernel, by decide +kernel, fun en h => (List.mem_singleton.mp (show en ∈ [⟨352, [(127, 0xAB)], [], false⟩] from h)) ▸ rising_of (by decide +kernel)⟩, rising_of (by decide +kernel), by decide +kernel⟩

theorem witness_HomesPerformRequests :
    (∃ (hm : Home) (n : Nat) (cells : List (Nat × Nat)) (errs : Nat) (r : MemReq) (need : BitVec 128) (s : Machine.State) (x : Machine.State), HomesQuiet s (homeKey hm) ∧ takeReq (correctedBy (wearCells s (homeKey hm) cells) (eccDir (homeDie (homeKey hm))) errs) (homeKey hm) n MemReq.isRead = some (r, x) ∧ r.kind = ReqKind.read need ∧ need ≠ 0 ∧ (home s (homeKey hm)).reads.length < readLimit (homeKey hm) ∧ sumpEntry x (homeKey hm) r.line = none ∧ inWriteQ x (homeKey hm) r.line = false) ∧
    (∃ (hm : Home) (n : Nat) (cells : List (Nat × Nat)) (errs : Nat) (r : MemReq) (need : BitVec 128) (en : SumpEntry) (s : Machine.State) (x : Machine.State), HomesQuiet s (homeKey hm) ∧ takeReq (correctedBy (wearCells s (homeKey hm) cells) (eccDir (homeDie (homeKey hm))) errs) (homeKey hm) n MemReq.isRead = some (r, x) ∧ r.kind = ReqKind.read need ∧ (home s (homeKey hm)).reads.length < readLimit (homeKey hm) ∧ sumpEntry x (homeKey hm) r.line = some en ∧ en.poison = [] ∧ need.toNat &&& maskOf en.bytes = need.toNat) ∧
    (∃ (hm : Home) (n : Nat) (k : Nat) (r : StackRead) (rest : List StackRead) (s : Machine.State), HomesQuiet s (homeKey hm) ∧ s.homes.rising ∧ takeAt (home s (homeKey hm)).reads n = some (r, rest) ∧ r.code = 0 ∧ r.req.from_ = Origin.dccFill k) ∧
    (∃ (hm : Home) (n : Nat) (k : Nat) (lo : Nat) (hi : Nat) (r : StackRead) (rest : List StackRead) (s : Machine.State), Canonical s ∧ HomesQuiet s (homeKey hm) ∧ takeAt (home s (homeKey hm)).reads n = some (r, rest) ∧ r.code = 0 ∧ r.req.from_ = Origin.dccFill k ∧ (r.need.toNat % 2 ^ 64 ≠ 0 ∧ 4 ≤ lo ∨ r.need.toNat >>> 64 % 2 ^ 64 ≠ 0 ∧ 4 ≤ hi) ∧ (∀ (j : Nat), j < 2 → mget 0 s.memErrs (2 * r.req.line + j) ≤ halfSymbols)) ∧
    (∃ (hm : Home) (n : Nat) (cells : List (Nat × Nat)) (errs : Nat) (r : MemReq) (bs : Map Byte) (p : List Nat) (s : Machine.State) (x : Machine.State), HomesQuiet s (homeKey hm) ∧ takeReq (correctedBy (wearCells s (homeKey hm) cells) (eccDir (homeDie (homeKey hm))) errs) (homeKey hm) n MemReq.isWrite = some (r, x) ∧ r.kind = ReqKind.write bs p) ∧
    (∃ (hm : Home) (line : Nat) (en : SumpEntry) (s : Machine.State), sumpEntry s (homeKey hm) line = some en ∧ homeOpen s (homeKey hm) = true) ∧
    (∃ (hm : Home) (n : Nat) (t : Nat) (g : Nat) (id : Nat) (code : Nat) (e : Ecc) (r : MemReq) (rest : List MemReq) (aop : BitVec 4) (ty : BitVec 4) (off : Nat) (ops : List (W64 × W64)) (outs : List Nat) (s : Machine.State) (y : Machine.State), HomesQuiet s (homeKey hm) ∧ amuExec
    (setHome s (homeKey hm)
      { home s (homeKey hm) with amuQ := rest })
    (homeKey hm) r e =
  (code, outs, y) ∧ takeAt (home s (homeKey hm)).amuQ n = some (r, rest) ∧ homeOpen s (homeKey hm) = true ∧ (∀ (q : MemReq), q ∈ List.take n (home s (homeKey hm)).amuQ → q.line ≠ r.line) ∧ r.from_ = Origin.atomic t g id ∧ r.kind = ReqKind.atomic aop ty off ops) ∧
    (∃ (hm : Home) (n : Nat) (m : Nat) (line : Nat) (r : MemReq) (s : Machine.State) (x : Machine.State), HomesQuiet s (homeKey hm) ∧ takeReq s (homeKey hm) n MemReq.isAtomic = some (r, x) ∧ homeNo s line = some (homeKey hm) ∧ lineReq s (homeKey hm) line m = some n) :=
  ⟨⟨.deep 1 11, 1, [], 1, req0 rdTop, BitVec.ofNat 128 (2 ^ 127), rdFirst, xRdFirst, ⟨by decide +kernel, by decide +kernel⟩, got_eq _ (by decide +kernel), by decide +kernel⟩,
   ⟨.deep 1 11, 1, [], 1, req0 rdTop, BitVec.ofNat 128 (2 ^ 127), ⟨352, [(127, 0xAB)], [], false⟩, rdSump, xRdSump, ⟨by decide +kernel, by decide +kernel⟩, got_eq _ (by decide +kernel), by decide +kernel⟩,
   ⟨.fast 11, 0, 5, stackRead (.dccFill 5), [], reading (.dccFill 5), ⟨by decide +kernel, by decide +kernel⟩, rising_of (by decide +kernel), by decide +kernel⟩,
   ⟨.fast 11, 0, 5, 0, 4, stackRead (.dccFill 5), [], reading (.dccFill 5), canonical_of (by decide +kernel), ⟨by decide +kernel, by decide +kernel⟩, by decide +kernel⟩,
   ⟨.fast 11, 1, [], 1, req0 wrTop, [(127, 0xAB)], [], wrHome, xWr, ⟨by decide +kernel, by decide +kernel⟩, got_eq _ (by decide +kernel), by decide +kernel⟩,
   ⟨.deep 1 11, 352, ⟨352, [(127, 0xAB)], [], false⟩, setHome up 35 sump1, by decide +kernel⟩,
   ⟨.fast 11, 1, 767, 15, 9, 0, .good, amuReq, [other], 0, 0, 124, [(1, 0)], amuX.2.1, amuSt, amuX.2.2, ⟨by decide +kernel, by decide +kernel⟩, triple_of (p := amuX) (by decide +kernel), by decide +kernel⟩,
   ⟨.fast 11, 1, 0, 352, req0 atTop, atHome1, xAt, ⟨by decide +kernel, by decide +kernel⟩, got_eq _ (by decide +kernel), by decide +kernel⟩⟩

theorem witness_HomesDrainScrubAndConfigure :
    (∃ (hm : Home) (a : Agent) (s : Machine.State), homeWritable s a (homeKey hm) = true ∧ rf s (smpStatusReg (homeKey hm)) (homeDie (homeKey hm)) (homePkg (homeKey hm)) 0 63 63 = 1) ∧
    (∃ (hm : Home) (a : Agent) (v : W64) (s : Machine.State), let st : Reg := (smpStatusReg (homeKey hm)); let d : Nat := (homeDie (homeKey hm)); let p : Nat := (homePkg (homeKey hm)); let addr : Nat := (rf s (drainAddrReg (homeKey hm)) d p 0 47 0); let len : Nat := (rf s (drainLenReg (homeKey hm)) d p 0 48 0); homeWritable s a (homeKey hm) = true ∧ bit (BitVec.toNat v) 0 = true ∧ rf s st d p 0 63 63 = 0 ∧ (len = 0 ∨ 2 ^ 48 < addr + len)) ∧
    (∃ (hm : Home) (a : Agent) (v : W64) (s : Machine.State), let st : Reg := (smpStatusReg (homeKey hm)); let d : Nat := (homeDie (homeKey hm)); let p : Nat := (homePkg (homeKey hm)); let addr : Nat := (rf s (drainAddrReg (homeKey hm)) d p 0 47 0); let len : Nat := (rf s (drainLenReg (homeKey hm)) d p 0 48 0); homeWritable s a (homeKey hm) = true ∧ bit (BitVec.toNat v) 0 = true ∧ rf s st d p 0 63 63 = 0 ∧ len ≠ 0 ∧ addr + len ≤ 2 ^ 48) ∧
    (∃ (hm : Home) (lost : Bool) (s : Machine.State), Canonical s ∧ (home s (homeKey hm)).drain = some lost) ∧
    (∃ (hm : Home) (s : Machine.State), homeOpen s (homeKey hm) = true ∧ s.memErrs = [] ∧ rf s (if isDeep (homeKey hm) = true then Reg.lpdCfg else Reg.memCfg) (homeDie (homeKey hm)) (homePkg (homeKey hm)) 0 7 0 ≠ 0) ∧
    (∃ (hm : Home) (x : Nat) (s : Machine.State), homeOpen s (homeKey hm) = true ∧ s.memErrs = [] ∧ homeNo s (x / 2) = some (homeKey hm) ∧ inWriteQ s (homeKey hm) (x / 2) = false ∧ s.memPoison.contains x = false ∧ rf s (if isDeep (homeKey hm) = true then Reg.lpdCfg else Reg.memCfg) (homeDie (homeKey hm)) (homePkg (homeKey hm)) 0 7 0 ≠ 0) ∧
    (∃ (hm : Home) (s : Machine.State), rf s (if isDeep (homeKey hm) = true then Reg.lpdCfg else Reg.memCfg) (homeDie (homeKey hm)) (homePkg (homeKey hm)) 0 7 0 = 0) ∧
    (∃ (hm : Home) (t : Int) (s : Machine.State), let no : Nat := (sensorNo
  (match hm with
  | Home.fast m => Sensor.stack m
  | Home.deep x n => Sensor.package x n)); s.pins.aux = true ∧ -40 ≤ t ∧ t ≤ 150 ∧ t < (sensorLimits no).snd.snd) :=
  ⟨⟨.deep 1 11, .uszon, drainReg 0 0 1, by decide +kernel⟩,
   ⟨.deep 1 11, .core 127, 1, drainReg 0 0 0, by decide +kernel⟩,
   ⟨.deep 1 11, .core 127, 1, drainReg (2 ^ 48 - 128) 128 0, by decide +kernel⟩,
   ⟨.deep 1 11, true, setHome up 35 { sump1 with drain := some true }, canonical_of (by decide +kernel), by decide +kernel⟩,
   ⟨.deep 1 11, trained, by decide +kernel⟩,
   ⟨.deep 1 11, 2 * (0x2C000000000 / 128 + 383) + 1, trained, by decide +kernel⟩,
   ⟨.deep 1 11, rfset up .lpdCfg 15 11 0 7 0 0, by decide +kernel⟩,
   ⟨.deep 1 11, 104, up, by decide +kernel⟩⟩

theorem witness_CoherentRequestsAreGranted :
    (∃ (c : AgentId → Nat → Instr) (a : AgentId) (line : Nat) (h : Nat) (s : Machine.State), c ∈ [Instr.rdShared, Instr.rdUnique, Instr.upgrade] ∧ cohTakes s (a.val) line h ∧ dirEntry s line = none ∧ dirFull s h line = false) ∧
    (∃ (a : AgentId) (line : Nat) (h : Nat) (e : DirEntry) (s : Machine.State), cohTakes s (a.val) line h ∧ dirEntry s line = some e ∧ e.st = DirState.shared ∧ (homeReadNow (roomForRead s h) h line fullMask).fst = 0) ∧
    (∃ (a : AgentId) (line : Nat) (h : Nat) (o : Nat) (e : DirEntry) (s : Machine.State), cohTakes s (a.val) line h ∧ dirEntry s line = some e ∧ ownerOf e.st = some o) ∧
    (∃ (a : AgentId) (line : Nat) (h : Nat) (e : DirEntry) (s : Machine.State), let others : List Nat := (List.filter (fun (x : Nat) => x != a.val) (holderIds e.holders)); cohTakes s (a.val) line h ∧ dirEntry s line = some e ∧ e.st = DirState.shared ∧ others ≠ [] ∧ a.val ∈ holderIds e.holders) ∧
    (∃ (a : AgentId) (line : Nat) (h : Nat) (e : DirEntry) (s : Machine.State), cohTakes s (a.val) line h ∧ dirEntry s line = some e ∧ e.st = DirState.shared ∧ a.val ∈ holderIds e.holders ∧ (∀ (b : Nat), b ∈ holderIds e.holders → b = a.val)) ∧
    (∃ (a : AgentId) (line : Nat) (h : Nat) (s : Machine.State), cohTakes s (a.val) line h ∧ (dirEntry s line = none ∨ ∃ (e : DirEntry), dirEntry s line = some e ∧ e.st = DirState.shared)) ∧
    (∃ (a : AgentId) (line : Nat) (h : Nat) (bs : List Byte) (s : Machine.State), HomesQuiet s h ∧ homeNo s line = some h ∧ homeOpen s h = true ∧ (mfind s.wbBuf (copyKey (a.val) line)).isSome = true ∧ mfind s.txns line = none ∧ List.find?
    (fun (f : Flight) =>
      f.agent == a.val && f.line == line &&
        match f.msg with
        | CohMsg.wbDirty bytes => true
        | x => false)
    s.cohNet =
  some { agent := a.val, line := line, msg := CohMsg.wbDirty bs }) ∧
    (∃ (a : AgentId) (line : Nat) (h : Nat) (w : AmoWait) (s : Machine.State), cohTakes s (a.val) line h ∧ a.val < 128 ∧ amoSent s a.val = false ∧ (Machine.core s a.val).amo = some w ∧ w.far = true ∧ w.op.addr.toNat / 128 = line) :=
  ⟨⟨.rdShared, 130, 383, 11, up, List.mem_cons_self, takes_of (by decide +kernel) (rising_of (by decide +kernel)) ⟨by decide +kernel, by decide +kernel⟩, by decide +kernel⟩,
   ⟨130, 383, 11, sharedBy [3], withDir (sharedBy [3]), takes_of (by decide +kernel) (rising_of (by decide +kernel)) ⟨by decide +kernel, by decide +kernel⟩, by decide +kernel⟩,
   ⟨130, 383, 11, 3, ⟨.owned 3, .ptr [3, 4], 9⟩, withDir ⟨.owned 3, .ptr [3, 4], 9⟩, takes_of (by decide +kernel) (rising_of (by decide +kernel)) ⟨by decide +kernel, by decide +kernel⟩, by decide +kernel⟩,
   ⟨130, 383, 11, sharedBy [3, 130], withDir (sharedBy [3, 130]), takes_of (by decide +kernel) (rising_of (by decide +kernel)) ⟨by decide +kernel, by decide +kernel⟩, by decide +kernel⟩,
   ⟨130, 383, 11, sharedBy [130], withDir (sharedBy [130]), takes_of (by decide +kernel) (rising_of (by decide +kernel)) ⟨by decide +kernel, by decide +kernel⟩, by decide +kernel⟩,
   ⟨130, 383, 11, up, takes_of (by decide +kernel) (rising_of (by decide +kernel)) ⟨by decide +kernel, by decide +kernel⟩, .inl (by decide +kernel)⟩,
   ⟨131, 383, 11, byte128, { msgTo 131 (.wbDirty byte128) with wbBuf := [(copyKey 131 383, byte128)] }, ⟨by decide +kernel, by decide +kernel⟩, by decide +kernel⟩,
   ⟨127, 383, 11, ⟨amo1 0, true, false⟩, farCore, takes_of (by decide +kernel) (rising_of (by decide +kernel)) ⟨by decide +kernel, by decide +kernel⟩, by decide +kernel⟩⟩

theorem witness_SnoopsAreAnsweredOnce :
    (∃ (row : CohMsg × (AgentId → Nat → List (Fin 128 × Byte) → Bool → Instr) × (MoesiState → Option MoesiState)) (a : AgentId) (line : Nat) (c : CacheLine) (s : Machine.State) (x : Machine.State), row ∈ snoopRows ∧ s.caches.rising ∧ s.cores.rising ∧ takeMsg s (a.val) line (fun (x : CohMsg) => x == row.fst) toAgent = some (row.fst, x) ∧ mfind s.wbBuf (copyKey (a.val) line) = none ∧ copyOf s (a.val) line = some c ∧ c.hold = false) ∧
    (∃ (row : CohMsg × (AgentId → Nat → List (Fin 128 × Byte) → Bool → Instr) × (MoesiState → Option MoesiState)) (a : AgentId) (line : Nat) (s : Machine.State) (x : Machine.State), row ∈ snoopRows ∧ takeMsg s (a.val) line (fun (x : CohMsg) => x == row.fst) toAgent = some (row.fst, x) ∧ copyOf s (a.val) line = none) ∧
    (∃ (row : CohMsg × (AgentId → Nat → List (Fin 128 × Byte) → Bool → Instr) × (MoesiState → Option MoesiState)) (a : AgentId) (line : Nat) (c : CacheLine) (s : Machine.State) (x : Machine.State), row ∈ snoopRows ∧ takeMsg s (a.val) line (fun (x : CohMsg) => x == row.fst) toAgent = some (row.fst, x) ∧ copyOf s (a.val) line = some c ∧ c.hold = true) ∧
    (∃ (row : CohMsg × (AgentId → Nat → List (Fin 128 × Byte) → Bool → Instr) × (MoesiState → Option MoesiState)) (a : AgentId) (line : Nat) (c : CacheLine) (s : Machine.State), row ∈ snoopRows ∧ s.caches.rising ∧ mfind s.wbBuf (copyKey (a.val) line) = none ∧ copyOf s (a.val) line = some c ∧ c.deferred = some row.fst) :=
  ⟨⟨(.snpShared, .snpShared, fun st => some (if st = .m ∨ st = .o then .o else .s)), 131, 383, copySt 131 .m false none, sn1, snpX sn1, List.mem_cons_self, rising_of (by decide +kernel), rising_of (by decide +kernel), got_eq _ (by decide +kernel), by decide +kernel⟩,
   ⟨(.snpShared, .snpShared, fun st => some (if st = .m ∨ st = .o then .o else .s)), 131, 383, sn2, snpX sn2, List.mem_cons_self, got_eq _ (by decide +kernel), by decide +kernel⟩,
   ⟨(.snpShared, .snpShared, fun st => some (if st = .m ∨ st = .o then .o else .s)), 131, 383, copySt 131 .m true none, sn3, snpX sn3, List.mem_cons_self, got_eq _ (by decide +kernel), by decide +kernel⟩,
   ⟨(.snpShared, .snpShared, fun st => some (if st = .m ∨ st = .o then .o else .s)), 131, 383, copySt 131 .m true (some .snpShared), { up with caches := [(copyKey 131 383, copySt 131 .m true (some .snpShared))] }, List.mem_cons_self, rising_of (by decide +kernel), by decide +kernel⟩⟩

theorem witness_CoherentTransactionsEnd :
    (∃ (a : AgentId) (line : Nat) (h : Nat) (q : Nat) (d : List Byte) (e : DirEntry) (t : Txn) (s : Machine.State) (x : Machine.State), arrives s (a.val) line h
  (fun (m : CohMsg) =>
    match m with
    | CohMsg.rspData bytes => true
    | x => false)
  (CohMsg.rspData d) x ∧ mfind s.txns line = some t ∧ t.kind = TxnKind.rdShared ∧ t.req = q ∧ t.waiting = [a.val] ∧ t.wbFrom = [] ∧ t.stalled = none ∧ dirEntry s line = some e ∧ ownerOf e.st = some a.val) ∧
    (∃ (a : AgentId) (line : Nat) (h : Nat) (q : Nat) (d : List Byte) (t : Txn) (s : Machine.State) (x : Machine.State), arrives s (a.val) line h
  (fun (m : CohMsg) =>
    match m with
    | CohMsg.rspData bytes => true
    | x => false)
  (CohMsg.rspData d) x ∧ mfind s.txns line = some t ∧ t.kind = TxnKind.rdUnique ∧ t.req = q ∧ t.waiting = [a.val] ∧ t.wbFrom = [] ∧ t.stalled = none) ∧
    (∃ (a : AgentId) (line : Nat) (h : Nat) (q : Nat) (e : DirEntry) (t : Txn) (s : Machine.State) (x : Machine.State), arrives s (a.val) line h (fun (x : CohMsg) => x == CohMsg.rspClean) CohMsg.rspClean x ∧ mfind s.txns line = some t ∧ t.kind = TxnKind.rdShared ∧ t.req = q ∧ t.waiting = [a.val] ∧ t.wbFrom = [] ∧ t.stalled = none ∧ t.data = none ∧ dirEntry s line = some e ∧ ownerOf e.st = some a.val ∧ (homeReadNow (roomForRead s h) h line fullMask).fst = 0) ∧
    (∃ (a : AgentId) (line : Nat) (h : Nat) (b : Nat) (rest : List Nat) (e : DirEntry) (t : Txn) (s : Machine.State) (x : Machine.State), Canonical s ∧ arrives s (a.val) line h (fun (x : CohMsg) => x == CohMsg.rspAbsent) CohMsg.rspAbsent x ∧ mfind s.txns line = some t ∧ a.val ∈ t.waiting ∧ kdel t.waiting a.val = b :: rest ∧ dirEntry s line = some e) ∧
    (∃ (a : AgentId) (line : Nat) (h : Nat) (t : Txn) (s : Machine.State) (x : Machine.State), arrives s (a.val) line h (fun (x : CohMsg) => x == CohMsg.rspWbInFlight) CohMsg.rspWbInFlight x ∧ mfind s.txns line = some t ∧ a.val ∈ t.waiting ∧ t.wbFrom = []) ∧
    (∃ (a : AgentId) (line : Nat) (m : CohMsg) (s : Machine.State) (x : Machine.State), takeMsg s (a.val) line
    (fun (m : CohMsg) =>
      match m with
      | CohMsg.grantS bytes => true
      | CohMsg.grantE bytes stale => true
      | CohMsg.grantUpgrade => true
      | CohMsg.grantErr code => true
      | x => false)
    toAgent =
  some (m, x) ∧ (a.val < 128 → (Machine.core s a.val).amo = none)) ∧
    (∃ (a : AgentId) (line : Nat) (s : Machine.State) (x : Machine.State), takeMsg s (a.val) line (fun (x : CohMsg) => x == CohMsg.wbAck) toAgent = some (CohMsg.wbAck, x)) ∧
    (∃ (a : AgentId) (line : Nat) (s : Machine.State) (x : Machine.State), takeMsg s (a.val) line (fun (x : CohMsg) => x == CohMsg.cmoAck) toAgent = some (CohMsg.cmoAck, x)) ∧
    (∃ (a : AgentId) (line : Nat) (code : Nat) (s : Machine.State) (x : Machine.State), takeMsg s (a.val) line
    (fun (m : CohMsg) =>
      match m with
      | CohMsg.grantS bytes => true
      | CohMsg.grantE bytes stale => true
      | CohMsg.grantUpgrade => true
      | CohMsg.grantErr code => true
      | x => false)
    toAgent =
  some (CohMsg.grantErr code, x)) ∧
    (∃ (n : Nat) (id : Nat) (t : Nat) (g : Nat) (i : Nat) (line : Nat) (code : Nat) (p : Bool) (v : Bool) (rest : List StoreAnswer) (s : Machine.State) (gr : Group), let x : Machine.State := (if code = 0 then { s with answers := rest } else imprecise { s with answers := rest } t code); takeAt s.answers n = some ({ id := id, dest := Origin.store t g i, performed := p, visible := v, line := line, code := code }, rest) ∧ group x t g = some gr) ∧
    (∃ (n : Nat) (id : Nat) (t : Nat) (g : Nat) (i : Nat) (line : Nat) (code : Nat) (p : Bool) (v : Bool) (rest : List StoreAnswer) (s : Machine.State), let x : Machine.State := (if code = 0 then { s with answers := rest } else imprecise { s with answers := rest } t code); takeAt s.answers n = some ({ id := id, dest := Origin.store t g i, performed := p, visible := v, line := line, code := code }, rest) ∧ 16 ≤ g ∧ group x t g = none) ∧
    (∃ (c : Fin 128) (v : W64) (cont : Bool) (code : Nat) (w : AmoWait) (s : Machine.State), Canonical s ∧ s.cores.rising ∧ List.find? (fun (r : Nat × W64 × Bool × Nat) => r.fst == c.val) s.amoResults = some (c.val, v, cont, code) ∧ (Machine.core s c.val).amo = some w) :=
  ⟨⟨127, 383, 11, 5, byte128, ⟨.excl 127, .ptr [127], 9⟩, txn1 .rdShared [127], arriving (.rspData byte128) (txn1 .rdShared [127]) ⟨.excl 127, .ptr [127], 9⟩, gone (arriving (.rspData byte128) (txn1 .rdShared [127]) ⟨.excl 127, .ptr [127], 9⟩) (.rspData byte128), ⟨by decide +kernel, ⟨by decide +kernel, by decide +kernel⟩, by decide +kernel, rfl⟩, by decide +kernel⟩,
   ⟨127, 383, 11, 5, byte128, txn1 .rdUnique [127], arriving (.rspData byte128) (txn1 .rdUnique [127]) ⟨.excl 127, .ptr [127], 9⟩, gone (arriving (.rspData byte128) (txn1 .rdUnique [127]) ⟨.excl 127, .ptr [127], 9⟩) (.rspData byte128), ⟨by decide +kernel, ⟨by decide +kernel, by decide +kernel⟩, by decide +kernel, rfl⟩, by decide +kernel⟩,
   ⟨127, 383, 11, 5, ⟨.excl 127, .ptr [127], 9⟩, txn1 .rdShared [127], arriving (.rspClean) (txn1 .rdShared [127]) ⟨.excl 127, .ptr [127], 9⟩, gone (arriving (.rspClean) (txn1 .rdShared [127]) ⟨.excl 127, .ptr [127], 9⟩) (.rspClean), ⟨by decide +kernel, ⟨by decide +kernel, by decide +kernel⟩, by decide +kernel, rfl⟩, by decide +kernel⟩,
   ⟨127, 383, 11, 3, [], ⟨.excl 127, .ptr [127], 9⟩, txn1 .rdUnique [127, 3], arriving (.rspAbsent) (txn1 .rdUnique [127, 3]) ⟨.excl 127, .ptr [127], 9⟩, gone (arriving (.rspAbsent) (txn1 .rdUnique [127, 3]) ⟨.excl 127, .ptr [127], 9⟩) (.rspAbsent), canonical_of (by decide +kernel), ⟨by decide +kernel, ⟨by decide +kernel, by decide +kernel⟩, by decide +kernel, rfl⟩, by decide +kernel⟩,
   ⟨127, 383, 11, txn1 .rdUnique [127], arriving (.rspWbInFlight) (txn1 .rdUnique [127]) ⟨.excl 127, .ptr [127], 9⟩, gone (arriving (.rspWbInFlight) (txn1 .rdUnique [127]) ⟨.excl 127, .ptr [127], 9⟩) (.rspWbInFlight), ⟨by decide +kernel, ⟨by decide +kernel, by decide +kernel⟩, by decide +kernel, rfl⟩, by decide +kernel⟩,
   ⟨131, 383, .grantE byte128 true, grantTo, grantX, got_eq _ (by decide +kernel), by decide +kernel⟩,
   ⟨131, 383, wbAckTo, wbAckX, got_eq _ (by decide +kernel)⟩,
   ⟨131, 383, cmoAckTo, cmoAckX, got_eq _ (by decide +kernel)⟩,
   ⟨131, 383, 0x841, errTo, errX, got_eq _ (by decide +kernel)⟩,
   ⟨1, 9, 767, 15, 4, 383, 0, true, false, [⟨8, .none, false, false, 382, 0⟩], { whole with answers := [⟨8, .none, false, false, 382, 0⟩, ⟨9, .store 767 15 4, true, false, 383, 0⟩] }, grp 0xFFFFFFFF, by decide +kernel⟩,
   ⟨0, 9, 767, 16, 4, 383, 0x841, true, false, [], { whole with answers := [⟨9, .store 767 16 4, true, false, 383, 0x841⟩] }, by decide +kernel⟩,
   ⟨127, 2 ^ 64 - 1, true, 0, ⟨amo1 0, true, false⟩, { farCore with amoResults := [(127, 2 ^ 64 - 1, true, 0)] }, canonical_of (by decide +kernel), rising_of (by decide +kernel), by decide +kernel⟩⟩

theorem witness_CoreAtomicsAndDirectoryErrors :
    (∃ (c : Fin 128) (op : CoreAmo) (cl : CacheLine) (s : Machine.State), Canonical s ∧ (cl.st = MoesiState.m ∨ cl.st = MoesiState.e) ∧ (Machine.core s c.val).released = true ∧ (Machine.core s c.val).amo = none ∧ dieActive s (agentDie c.val) = true ∧ amoKnown op.op.toNat = true ∧ isLr op.op.toNat = false ∧ isSc op.op.toNat = false ∧ (op.addr.toNat % if op.word = true then 4 else 8) = 0 ∧ inMemory op.addr.toNat = true ∧ amoGoesFar s (c.val) op = false ∧ copyOf s (c.val) (op.addr.toNat / 128) = some cl) ∧
    (∃ (c : Fin 128) (op : CoreAmo) (cl : CacheLine) (s : Machine.State), (Machine.core s c.val).released = true ∧ (Machine.core s c.val).amo = none ∧ dieActive s (agentDie c.val) = true ∧ (op.addr.toNat % if op.word = true then 4 else 8) = 0 ∧ inMemory op.addr.toNat = true ∧ copyOf s (c.val) (op.addr.toNat / 128) = some cl ∧ op.op.toNat = 2) ∧
    (∃ (c : Fin 128) (op : CoreAmo) (cl : CacheLine) (s : Machine.State), (cl.st = MoesiState.s ∨ cl.st = MoesiState.o) ∧ (Machine.core s c.val).released = true ∧ (Machine.core s c.val).amo = none ∧ dieActive s (agentDie c.val) = true ∧ (op.addr.toNat % if op.word = true then 4 else 8) = 0 ∧ inMemory op.addr.toNat = true ∧ copyOf s (c.val) (op.addr.toNat / 128) = some cl ∧ op.op.toNat = 3 ∧ (Machine.core s c.val).reservation ≠ some (op.addr.toNat / 128)) ∧
    (∃ (c : Fin 128) (op : CoreAmo) (s : Machine.State), (Machine.core s c.val).released = true ∧ (Machine.core s c.val).amo = none ∧ dieActive s (agentDie c.val) = true ∧ amoKnown op.op.toNat = true ∧ (op.addr.toNat % if op.word = true then 4 else 8) = 0 ∧ inMemory op.addr.toNat = true ∧ amoGoesFar s (c.val) op = true) ∧
    (∃ (c : Fin 128) (op : CoreAmo) (s : Machine.State), s.cores.rising ∧ (Machine.core s c.val).released = true ∧ (Machine.core s c.val).amo = none ∧ dieActive s (agentDie c.val) = true ∧ amoKnown op.op.toNat = true ∧ isLr op.op.toNat = false ∧ isSc op.op.toNat = false ∧ (op.addr.toNat % if op.word = true then 4 else 8) = 0 ∧ inMemory op.addr.toNat = false ∧ inAperture op.addr.toNat = none ∧ inRegisters op.addr.toNat = false) ∧
    (∃ (a : Agent) (p : PDie) (v : W64) (s : Machine.State), Canonical s ∧ agentMay a Writers.uszonCore = true ∧ dieActive s (8 + p.val) = true ∧ bit (BitVec.toNat v) 2 = true) ∧
    (∃ (a : AgentId) (line : Nat) (t : Txn) (s : Machine.State), mfind s.txns line = some t ∧ a.val ∈ t.waiting) ∧
    (∃ (hm : Home) (s : Machine.State), dieActive s (homeDie (homeKey hm)) = true) :=
  ⟨⟨127, amo1 0, copySt 127 .e false none, coreCopy .e, canonical_of (by decide +kernel), .inr rfl, by decide +kernel⟩,
   ⟨127, amo1 2, copySt 127 .s false none, coreCopy .s, by decide +kernel⟩,
   ⟨127, amo1 3, copySt 127 .o false none, coreCopy .o, .inr rfl, by decide +kernel⟩,
   ⟨127, amo1 28, rfset (withCore none) .cohAmoCtl 9 0 0 1 0 2, by decide +kernel⟩,
   ⟨127, { amo1 0 with addr := BitVec.ofNat 48 0x7FFFFFFFFFFC }, withCore none, rising_of (by decide +kernel), by decide +kernel⟩,
   ⟨.core 127, 1, 4, up, canonical_of (by decide +kernel), by decide +kernel⟩,
   ⟨127, 383, txn1 .evict [3, 127], { up with txns := [(383, txn1 .evict [3, 127])] }, by decide +kernel⟩,
   ⟨.deep 1 11, up, by decide +kernel⟩⟩

theorem witness_GrottoOwnershipAndApertures :
    (∃ (a : Agent) (k : CDie) (s : Machine.State), dieActive s k.val = true ∧ agentMay a Writers.uszonCore = true) ∧
    (∃ (k : CDie) (gr : Fin 96) (mask : Nat) (v : Nat) (s : Machine.State), Canonical s ∧ s.grottos.rising ∧ (grotto s k.val).bytes.rising ∧ List.find? (fun (w : Nat × Nat × Nat) => w.fst == gr.val / 8) (grotto s k.val).ownerPending = some (gr.val / 8, mask, v)) ∧
    (∃ (who : ApertureAgent) (k : CDie) (off : BitVec 32) (s : Machine.State) (n : Nat) (e : WordEcc), apertureOk s who (k.val) off.toNat n ∧ s.grottos.rising ∧ (grtRead (grtEcc s (k.val) off.toNat n e) (k.val) off.toNat n).fst = 0) ∧
    (∃ (who : ApertureAgent) (k : CDie) (off : BitVec 32) (s : Machine.State) (n : Nat) (e : WordEcc), apertureOk s who (k.val) off.toNat n ∧ (grtRead (grtEcc s (k.val) off.toNat n e) (k.val) off.toNat n).fst ≠ 0) ∧
    (∃ (who : ApertureAgent) (k : CDie) (off : BitVec 32) (s : Machine.State) (bs : List Byte), apertureOk s who (k.val) off.toNat bs.length ∧ s.grottos.rising ∧ (grotto s k.val).bytes.rising) ∧
    (∃ (who : ApertureAgent) (k : CDie) (off : BitVec 32) (s : Machine.State) (aop : BitVec 4) (ty : BitVec 4), apertureOk s who (k.val) off.toNat (atomWidth ty.toNat / 8) ∧ atomLegal aop.toNat ty.toNat = true ∧ off.toNat % (atomWidth ty.toNat / 8) = 0) ∧
    (∃ (t : TileId) (k : CDie) (off : BitVec 32) (bs : List Byte) (s : Machine.State), s.grottos.rising ∧ (grotto s k.val).bytes.rising ∧ bs ≠ [] ∧ off.toNat + bs.length ≤ grtEnd ∧ dieActive s k.val = true ∧ grtOwned s (k.val) (tile s t.val).ctx off.toNat bs.length = false) ∧
    (∃ (t : TileId) (k : CDie) (off : BitVec 32) (n : Nat) (s : Machine.State), n ≠ 0 ∧ off.toNat + n ≤ grtEnd ∧ dieActive s k.val = true ∧ grtOwned s (k.val) (tile s t.val).ctx off.toNat n = false) ∧
    (∃ (off : BitVec 32) (bs : List Byte), bs ≠ [] ∧ grtEnd < off.toNat + bs.length) :=
  ⟨⟨.core 127, 5, up, by decide +kernel⟩,
   ⟨5, 95, 2 ^ 7, 2 ^ 64 - 1, setGrotto up 5 { Grotto.reset with bytes := [(grtEnd - 1, 1)], ownerPending := [(11, 2 ^ 7, 2 ^ 64 - 1)] }, canonical_of (by decide +kernel), rising_of (by decide +kernel), rising_of (by decide +kernel), by decide +kernel⟩,
   ⟨.tile 767 15, 5, 0xFFFFF, whole, 1, .good, ⟨by decide +kernel, by decide +kernel, by decide +kernel⟩, rising_of (by decide +kernel), by decide +kernel⟩,
   ⟨.tile 767 15, 5, 0xFFFFF, whole, 1, .bad 0, ⟨by decide +kernel, by decide +kernel, by decide +kernel⟩, by decide +kernel⟩,
   ⟨.engine 5 31, 5, 0xFFFFE, whole, [1, 2], ⟨by decide +kernel, by decide +kernel, by decide +kernel⟩, rising_of (by decide +kernel), rising_of (by decide +kernel)⟩,
   ⟨.host, 5, BitVec.ofNat 32 (grtEnd - 8), whole, 8, 5, ⟨by decide +kernel, by decide +kernel, by decide +kernel⟩, by decide +kernel⟩,
   ⟨767, 5, 0x100000, [1], whole, rising_of (by decide +kernel), rising_of (by decide +kernel), by decide +kernel⟩,
   ⟨767, 5, 0x100000, 1, whole, by decide +kernel⟩,
   ⟨BitVec.ofNat 32 (grtEnd - 1), [1, 2], by decide +kernel⟩⟩

theorem witness_DescriptorQueuesRunInOrder :
    (∃ (a : Agent) (k : CDie) (n : Fin 32) (v : W64) (s : Machine.State), let new : Nat := (Reg.grtQcfg.spec.write (rget s Reg.grtQcfg (k.val) 0 n.val) (BitVec.toNat v)); Canonical s ∧ dieActive s k.val = true ∧ agentMay a Writers.any = true ∧ bit (rget s Reg.grtQcfg (k.val) 0 n.val) 63 = false ∧ bit (BitVec.toNat v) 63 = true ∧ grtEnableCode s (k.val) new = 0) ∧
    (∃ (a : Agent) (k : CDie) (n : Fin 32) (v : W64) (s : Machine.State), let new : Nat := (Reg.grtQcfg.spec.write (rget s Reg.grtQcfg (k.val) 0 n.val) (BitVec.toNat v)); Canonical s ∧ dieActive s k.val = true ∧ agentMay a Writers.any = true ∧ bit (rget s Reg.grtQcfg (k.val) 0 n.val) 63 = false ∧ bit (BitVec.toNat v) 63 = true ∧ grtEnableCode s (k.val) new ≠ 0) ∧
    (∃ (q : QueueRef) (c : QCfg) (s : Machine.State), qcfg s (queueOf q).fst (queueOf q).snd = some c ∧ queueUp s (queueOf q).fst (queueOf q).snd = true ∧ c.enabled = true ∧ c.recv = false) ∧
    (∃ (q : QueueRef) (t : Taken) (s : Machine.State), headOf s (queueOf q).fst (queueOf q).snd = some t ∧ queueUp s (queueOf q).fst (queueOf q).snd = true ∧ waitCode s (queueOf q).fst t = 0 ∧ waits t = true ∧ canStart s (queueOf q).fst (queueOf q).snd t = true ∧ hasRoom s (queueOf q).fst (queueOf q).snd t.engine = true) ∧
    (∃ (q : QueueRef) (t : Taken) (s : Machine.State), headOf s (queueOf q).fst (queueOf q).snd = some t ∧ queueUp s (queueOf q).fst (queueOf q).snd = true ∧ waitCode s (queueOf q).fst t = 0 ∧ waits t = true ∧ grtWord s (queueOf q).fst (bits (wd t.words 2) 31 0) < wd t.words 3) ∧
    (∃ (q : QueueRef) (t : Taken) (s : Machine.State), headOf s (queueOf q).fst (queueOf q).snd = some t ∧ queueUp s (queueOf q).fst (queueOf q).snd = true ∧ waitCode s (queueOf q).fst t ≠ 0) ∧
    (∃ (q : QueueRef) (t : Taken) (rest : List Taken) (code : Nat) (info : Nat) (s : Machine.State), queueUp s (queueOf q).fst (queueOf q).snd = true ∧ (queue s (queueOf q).fst (queueOf q).snd).taken = t :: rest ∧ t.result = some (code, info) ∧ (t.spoiled = false ∨ t.engine = 7) ∧ t.signal = false ∧ grtOwned s (queueOf q).fst t.ctx (t.off + 8) 8 = true ∧ Map.wf 0 (grotto s (queueOf q).fst).bytes = true ∧ code < 2 ^ 16) :=
  ⟨⟨.host, 5, 31, BitVec.ofNat 64 (2 ^ 63 + 7 * 2 ^ 59 + 8 * 2 ^ 49 + 0x10000 * 2 ^ 4), whole, canonical_of (by decide +kernel), by decide +kernel⟩,
   ⟨.host, 5, 31, BitVec.ofNat 64 (2 ^ 63 + 8 * 2 ^ 59), whole, canonical_of (by decide +kernel), by decide +kernel⟩,
   ⟨.fab 3 63, fabCfg, fabUp, some_getD _ (by decide +kernel), by decide +kernel⟩,
   ⟨.grt 5 31, taken1 0 false none, withQ 31 ⟨[taken1 0 false none], []⟩, by decide +kernel⟩,
   ⟨.grt 5 31, taken1 1 false none, withQ 31 ⟨[taken1 1 false none], []⟩, by decide +kernel⟩,
   ⟨.grt 5 31, unowned1, withQ 31 ⟨[unowned1], []⟩, by decide +kernel⟩,
   ⟨.fab 3 63, taken1 0 true (some (0xFFFF, 7)), [], 0xFFFF, 7, withQ 95 ⟨[taken1 0 true (some (0xFFFF, 7))], []⟩, by decide +kernel⟩⟩

theorem witness_CollectivesAndBindingsComplete :
    (∃ (k : CDie) (n : Nat) (c : Contribution) (rest : List Contribution) (s : Machine.State), let x : Machine.State := (setGrotto s (k.val)
  { grotto s k.val with contribs := rest }); dieActive s k.val = true ∧ takeAt (grotto s k.val).contribs n = some (c, rest) ∧ collCode x (k.val) c.ctx c.slot c.rank ≠ 0) ∧
    (∃ (s : Machine.State) (k : Nat) (slot : Nat) (rank : Nat) (d : List Byte) (c : CollSlot), collSlot s k slot = some c ∧ c.mode = 0 ∧ d ≠ [] ∧ d.length = c.len ∧ rank < c.n ∧ (¬rank ∈ c.arrived) ∧ grtOwned s k c.ctx (c.dst + rank * c.len) c.len = true) ∧
    (∃ (k : CDie) (slot : Fin 64) (c : CollSlot) (s : Machine.State), dieActive s k.val = true ∧ collSlot s k.val slot.val = some c ∧ c.timeoutUs ≠ 0) ∧
    (∃ (k : CDie) (n : Fin 32) (d : SendDest) (t : Taken) (bs : List Byte) (s : Machine.State), let x : Machine.State := (destMod s (k.val) (n.val) d.desc d.dest fun (d : SendDest) => { desc := d.desc, dest := d.dest, kind := d.kind, die := d.die, conn := d.conn, slot := d.slot, rank := d.rank, record := d.record, left := [partNo d.dest 0], rowsOk := d.rowsOk, failed := d.failed, recordFailed := d.recordFailed, sent := true }); dieActive s k.val = true ∧ List.find? recordReady (queue s k.val n.val).sends = some d ∧ d.record = some bs ∧ d.kind = 0 ∧ takenAt x (k.val) (n.val) d.desc = some t) ∧
    (∃ (k : CDie) (quad : Fin 32) (st : Fin 8) (c : Rebind) (s : Machine.State), s.grottos.rising ∧ (grotto s k.val).decoders.rising ∧ dieActive s k.val = true ∧ (decoder s (k.val) (quad.val * 8 + st.val)).changing = some c ∧ decBusy s (k.val) (quad.val) (st.val + 1) = false) ∧
    (∃ (k : CDie) (s : Machine.State), dieActive s k.val = true ∧ dieHasJob s k.val = false) ∧
    (∃ (k : CDie) (s : Machine.State), dieActive s k.val = true ∧ dieHasJob s k.val = true) ∧
    (∃ (k : CDie) (t : Bool) (s : Machine.State), Canonical s ∧ (grotto s k.val).drpTablePending = some t ∧ dieHasJob s k.val = false) :=
  ⟨⟨5, 0, contrib1, [], withColl [] [contrib1], by decide +kernel⟩,
   ⟨withColl [(63, coll1)] [], 5, 63, 63, List.replicate 8 7, coll1, by decide +kernel⟩,
   ⟨5, 63, coll1, withColl [(63, coll1)] [], by decide +kernel⟩,
   ⟨5, 31, send1, taken1 0 true none, [1, 2], sending, by decide +kernel⟩,
   ⟨5, 31, 7, rebind1, setGrotto whole 5 { Grotto.reset with decoders := [(255, ⟨none, some rebind1⟩)] }, rising_of (by decide +kernel), rising_of (by decide +kernel), by decide +kernel⟩,
   ⟨5, up, by decide +kernel⟩,
   ⟨5, whole, by decide +kernel⟩,
   ⟨5, true, setGrotto up 5 { Grotto.reset with drpTablePending := some true }, canonical_of (by decide +kernel), by decide +kernel⟩⟩

theorem witness_JobsAreSubmittedAndChecked :
    (∃ (a : Agent) (k : CDie) (q : Fin 16) (v : W64) (s : Machine.State), Canonical s ∧ cWrite s a k = true ∧ bit (rget s Reg.jobQcfg (k.val) 0 q.val) 63 = false ∧ bit (BitVec.toNat v) 63 = true) ∧
    (∃ (a : Agent) (k : CDie) (s : Machine.State), cWrite s a k = true ∧ s.rim.deepIdle = false) ∧
    (∃ (k : CDie) (q : Fin 16) (bs : List Byte) (s : Machine.State) (y : Machine.State), let head : Nat := (rf s Reg.jobQptr (k.val) 0 (q.val) 43 32); dieActive s k.val = true ∧ mainUp s = true ∧ List.find? (queueOpen s k.val) (List.map (fun (i : Nat) => (mget 0 s.rrNext k.val + i) % 16) (List.range 16)) = some q.val ∧ busRead { s with rrNext := mput 0 s.rrNext (k.val) ((q.val + 1) % 16) } none false (rf s Reg.jobQcfg (k.val) 0 (q.val) 47 8 * 256 + 256 * head) 256 = (0, bs, y)) ∧
    (∃ (s : Machine.State) (r : JobRef) (ws : List W64), let j : Job := (newJob s r ws); descBad j = true) ∧
    (∃ (s : Machine.State) (r : JobRef) (ws : List W64), let j : Job := (newJob s r ws); let x : Machine.State := ({ s with jobs := s.jobs ++ [j], hostSubmits := List.filter (fun (h : HostSubmit) => !JobRef.sameSlot h.job r) s.hostSubmits }); descBad j = false ∧ ctxCurrent x (↑r.lead) j.ctx j.gen = false) ∧
    (∃ (s : Machine.State) (r : JobRef) (ws : List W64), let j : Job := (newJob s r ws); let x : Machine.State := ({ s with jobs := s.jobs ++ [j], hostSubmits := List.filter (fun (h : HostSubmit) => !JobRef.sameSlot h.job r) s.hostSubmits }); descBad j = false ∧ ctxCurrent x (↑r.lead) j.ctx j.gen = true ∧ tilesBad x j = true) ∧
    (∃ (s : Machine.State) (r : JobRef) (ws : List W64), let j : Job := (newJob s r ws); let x : Machine.State := ({ s with jobs := s.jobs ++ [j], hostSubmits := List.filter (fun (h : HostSubmit) => !JobRef.sameSlot h.job r) s.hostSubmits }); descBad j = false ∧ ctxCurrent x (↑r.lead) j.ctx j.gen = true ∧ tilesBad x j = false ∧ j.restore = false) :=
  ⟨⟨.uszon, 5, 15, BitVec.ofNat 64 (2 ^ 63), up, canonical_of (by decide +kernel), by decide +kernel⟩,
   ⟨.core 127, 5, up, by decide +kernel⟩,
   ⟨5, 15, busX.2.1, jobWaits, busX.2.2, by decide +kernel⟩,
   ⟨up, ref1, [], by decide +kernel⟩,
   ⟨up, ref1, jw 32 0, by decide +kernel⟩,
   ⟨inCtx, ref1, jw 0 0, by decide +kernel⟩,
   ⟨inCtx, ref1, jw 32 0, by decide +kernel⟩⟩

theorem witness_JobsLaunchAndComplete :
    (∃ (r : JobRef) (b : Bool) (j : Job) (s : Machine.State), let free : List Nat := (List.filter (tileFree s) (List.flatMap dieTiles j.dies)); (b = true ∨ blockedBy s j = false) ∧ dieActive s ↑r.lead = true ∧ jobFind s r = some j ∧ j.stage = JobStage.waiting b ∧ tilesBad s j = false ∧ serialWait s j = false ∧ j.cplHost = true ∧ j.w 17 % 2 ^ 32 = 0 ∧ j.qmask = 0 ∧ j.restore = false ∧ free.length < jobT s j) ∧
    (∃ (r : JobRef) (b : Bool) (j : Job) (s : Machine.State), let free : List Nat := (List.filter (tileFree s) (List.flatMap dieTiles j.dies)); (b = true ∨ blockedBy s j = false) ∧ dieActive s ↑r.lead = true ∧ jobFind s r = some j ∧ j.stage = JobStage.waiting b ∧ tilesBad s j = false ∧ serialWait s j = false ∧ j.cplHost = true ∧ j.w 17 % 2 ^ 32 = 0 ∧ j.qmask = 0 ∧ j.restore = false ∧ jobT s j ≤ free.length) ∧
    (∃ (r : JobRef) (rank : Nat) (slot : Nat) (j : Job) (s : Machine.State), jobFind s r = some j ∧ j.stage = JobStage.running ∧ j.endCode = none ∧ rank < j.tiles.length ∧ (¬nth j.tiles rank ∈ j.lost) ∧ j.blocks = [] ∧ j.rerun = [] ∧ freeSlot s (nth j.tiles rank) j = some slot ∧ rank + mget 0 j.next rank * j.tiles.length < j.ngroups) ∧
    (∃ (r : JobRef) (j : Job) (s : Machine.State), jobFind s r = some j ∧ j.stage = JobStage.running ∧ ((j.endCode.isSome = true ∨ jobDone s j = true) ∧ (∀ (t : Nat), t ∈ j.alive → tileQuiet s t = true) ∧ queuesQuiet s j = true)) ∧
    (∃ (r : JobRef) (j : Job) (s : Machine.State), (¬((j.endCode.isSome = true ∨ jobDone s j = true) ∧ (∀ (t : Nat), t ∈ j.alive → tileQuiet s t = true) ∧ queuesQuiet s j = true)) ∧ jobFind s r = some j ∧ j.stage = JobStage.running) ∧
    (∃ (r : JobRef) (j : Job) (s : Machine.State), (∀ (x : Nat × Nat × Option Nat), j.host = some x → x.snd.snd = none) ∧ jobFind s r = some j ∧ j.cplHost = true ∧ j.w 18 % 64 = 0 ∧ recordAllowed s j = true ∧ canPost s = true ∧ j.ctl = false) :=
  ⟨⟨ref1, true, waitingJob, fullTile, .inl rfl, by decide +kernel⟩,
   ⟨ref1, true, waitingJob, freeTile, .inl rfl, by decide +kernel⟩,
   ⟨job0.ref, 0, 15, jobAt .running, oneSlotLeft, by decide +kernel⟩,
   ⟨job0.ref, { job0 with endCode := some 1 }, ending, by decide +kernel⟩,
   ⟨job0.ref, jobAt .running, oneSlotLeft, fun h => absurd h.1 (by decide +kernel), by decide +kernel⟩,
   ⟨job0.ref, jobAt .ended, { up with jobs := [jobAt .ended] }, none_all (by decide +kernel), by decide +kernel⟩⟩

theorem witness_JobControlAndFencing :
    (∃ (a : Agent) (k : CDie) (s : Machine.State), cWrite s a k = true ∧ rf s Reg.jobCtlStatus (k.val) 0 0 63 63 = 1) ∧
    (∃ (a : Agent) (k : CDie) (v : BitVec 60) (s : Machine.State), cWrite s a k = true ∧ rf s Reg.jobCtlStatus (k.val) 0 0 63 63 ≠ 1 ∧ jobNamed s (k.val) v.toNat = none) ∧
    (∃ (a : Agent) (k : CDie) (v : BitVec 60) (j : Job) (s : Machine.State), Canonical s ∧ cWrite s a k = true ∧ rf s Reg.jobCtlStatus (k.val) 0 0 63 63 ≠ 1 ∧ jobNamed s (k.val) v.toNat = some j ∧ jobFind s j.ref = some j ∧ j.stage = JobStage.running ∧ saveable j = true) ∧
    (∃ (a : Agent) (k : CDie) (v : BitVec 60) (j : Job) (s : Machine.State), Canonical s ∧ cWrite s a k = true ∧ rf s Reg.jobCtlStatus (k.val) 0 0 63 63 ≠ 1 ∧ jobNamed s (k.val) v.toNat = some j ∧ jobFind s j.ref = some j ∧ j.stage = JobStage.running ∧ saveable j = false) ∧
    (∃ (a : Agent) (k : CDie) (v : BitVec 60) (j : Job) (s : Machine.State), cWrite s a k = true ∧ rf s Reg.jobCtlStatus (k.val) 0 0 63 63 ≠ 1 ∧ (∀ (x : Job), x ∈ s.jobs → x.ref.lead = k → ↑x.ref.queue = bits v.toNat 19 16 → ↑x.ref.slot = bits v.toNat 11 0 → x = j ∧ ∃ (b : Bool), j.stage = JobStage.waiting b)) ∧
    (∃ (t : TileId) (s : Machine.State), Canonical s ∧ s.tiles.rising ∧ dieActive s (tileDie t.val) = true ∧ tileFenced s t.val = false ∧ (tile s t.val).job = none ∧ s.jobs = []) ∧
    (∃ (t : TileId) (j : Job) (s : Machine.State), dieActive s (tileDie t.val) = true ∧ tileFenced s t.val = false ∧ (tile s t.val).job = some j.ref ∧ s.jobs = [j] ∧ j.stage = JobStage.running ∧ j.endCode = none ∧ j.tolerant = false ∧ (¬t.val ∈ j.lost)) :=
  ⟨⟨.core 127, 5, rfset up .jobCtlStatus 5 0 0 63 63 1, by decide +kernel⟩,
   ⟨.core 127, 5, 2 ^ 60 - 1, up, by decide +kernel⟩,
   ⟨.uszon, 5, 2 ^ 60 - 1, saveJob, { whole with jobs := [saveJob] }, canonical_of (by decide +kernel), by decide +kernel⟩,
   ⟨.uszon, 5, 2 ^ 60 - 1, job0, whole, canonical_of (by decide +kernel), by decide +kernel⟩,
   ⟨.uszon, 5, 2 ^ 60 - 1, jobAt (.waiting false), { whole with jobs := [jobAt (.waiting false)] }, by decide +kernel⟩,
   ⟨767, setTile { whole with jobs := [] } 767 Tile.reset, canonical_of (by decide +kernel), rising_of (by decide +kernel), by decide +kernel⟩,
   ⟨767, job0, whole, by decide +kernel⟩⟩

theorem witness_FabricPortsFollowTheirStates :
    (∃ (p : Port) (r : TrainResult) (s : Machine.State), Canonical s ∧ portSt s p.val = pTraining ∧ portUp s p.val = true ∧ (port s p.val).queue = [] ∧ (r.lowerHalf = true ∨ r.upperHalf = true) ∧ r.partnerNode.toNat ≠ nodeOf s (portDie p.val)) ∧
    (∃ (p : Port) (r : TrainResult) (s : Machine.State), Canonical s ∧ portSt s p.val = pTraining ∧ portUp s p.val = true ∧ (r.lowerHalf = true ∨ r.upperHalf = true) ∧ r.partnerNode.toNat = nodeOf s (portDie p.val)) ∧
    (∃ (p : Port) (s : Machine.State), Canonical s ∧ portSt s p.val = pDown ∧ portF s (p.val) 63 48 ≠ 2828 ∧ rf s Reg.fabPortCtl (portDie p.val) (p.val % 4) 0 0 0 = 1 ∧ portUp s p.val = true) ∧
    (∃ (a : Agent) (p : Port) (v : W64) (s : Machine.State), Canonical s ∧ agentMay a Writers.uszonCore = true ∧ portUp s p.val = true ∧ rf s Reg.fabNode (portDie p.val) 0 0 63 63 = 1 ∧ bit (BitVec.toNat v) 0 = true ∧ (portSt s p.val = pDisabled ∨ portSt s p.val = pDown)) ∧
    (∃ (a : Agent) (p : Port) (v : W64) (s : Machine.State), Canonical s ∧ agentMay a Writers.uszonCore = true ∧ portUp s p.val = true ∧ rf s Reg.fabNode (portDie p.val) 0 0 63 63 = 1 ∧ bit (BitVec.toNat v) 0 = false ∧ portSt s p.val = pActive ∧ (port s p.val).queue = []) ∧
    (∃ (p : Port) (f : DataFrame) (s : Machine.State), portSt s p.val = pActive ∧ portUp s p.val = true ∧ codewordBad ↑f.symbolErrors = true) ∧
    (∃ (p : Port) (f : DataFrame) (s : Machine.State), portSt s p.val = pActive ∧ portUp s p.val = true ∧ codewordBad ↑f.symbolErrors = false ∧ frameKind f ≠ 0) ∧
    (∃ (p : Port) (f : DataFrame) (s : Machine.State), s.ports.rising ∧ portSt s p.val = pActive ∧ portUp s p.val = true ∧ codewordBad ↑f.symbolErrors = false ∧ frameKind f = 0 ∧ frameSeq f ≠ (port s p.val).rxSeq) ∧
    (∃ (p : Port) (f : DataFrame) (s : Machine.State), Canonical s ∧ s.ports.rising ∧ portSt s p.val = pActive ∧ portUp s p.val = true ∧ codewordBad ↑f.symbolErrors = false ∧ frameKind f = 0 ∧ frameSeq f = (port s p.val).rxSeq) ∧
    (∃ (p : Port) (errors : Fin 545) (f : ControlFrame) (s : Machine.State), s.ports.rising ∧ (∀ (x : DataFrame), x ∈ (port s p.val).replay.head? → (f.lastAck - frameSeq x).toNat + 1 ≤ (port s p.val).replay.length) ∧ portSt s p.val = pActive ∧ portUp s p.val = true ∧ (port s p.val).queue = [] ∧ (port s p.val).replay ≠ [] ∧ codewordBad errors.val = false ∧ f.nak = none ∧ f.wake = false) ∧
    (∃ (p : Port) (errors : Fin 545) (f : ControlFrame) (x : DataFrame) (rest : List DataFrame) (s : Machine.State), Canonical s ∧ s.ports.rising ∧ portSt s p.val = pActive ∧ portUp s p.val = true ∧ (port s p.val).queue = [] ∧ (port s p.val).replay = x :: rest ∧ rest.length < 4095 ∧ codewordBad errors.val = false ∧ f.nak = some (frameSeq x) ∧ f.lastAck = frameSeq x - 1 ∧ f.wake = false ∧ (∀ (y : DataFrame), y ∈ rest → frameSeq y ≠ frameSeq x)) ∧
    (∃ (p : Port) (errors : Fin 545) (s : Machine.State), portSt s p.val ∈ [pActive, pKeepalive, pWaking] ∧ portUp s p.val = true ∧ codewordBad errors.val = true) ∧
    (∃ (p : Port) (why : DownCause) (s : Machine.State), Canonical s ∧ (why = DownCause.replayLimit → ∃ (e : Nat × Nat), e ∈ (port s p.val).replays ∧ 16 ≤ e.snd) ∧ portSt s p.val = pActive ∧ portUp s p.val = true ∧ (port s p.val).queue = [] ∧ (why = DownCause.controlMissed → 8 ≤ (port s p.val).missed) ∧ (why = DownCause.partner → (port s p.val).downAsked = true)) ∧
    (∃ (p : Port) (s : Machine.State), Canonical s ∧ portUp s p.val = true ∧ portSt s p.val = pActive ∧ (port s p.val).replay = [] ∧ (port s p.val).queue = [] ∧ ((port s p.val).kaAsked = true ∨ rf s Reg.fabPortCtl (portDie p.val) (p.val % 4) 0 4 4 = 1 ∧ (port s p.val).kaGranted = true)) ∧
    (∃ (p : Port) (s : Machine.State), Canonical s ∧ portUp s p.val = true ∧ portSt s p.val = pWaking ∧ (port s p.val).queue = []) ∧
    (∃ (p : Port) (pk : Packet) (rest : List Packet) (s : Machine.State) (tr : W64), (port s p.val).rx = pk :: rest ∧ portUp s p.val = true ∧ tr ≠ packetTrailer pk) ∧
    (∃ (p : Port) (pk : Packet) (rest : List Packet) (s : Machine.State), (port s p.val).rx = pk :: rest ∧ portUp s p.val = true ∧ typeKnown pk.ptype.toNat = false) ∧
    (∃ (p : Port) (pk : Packet) (rest : List Packet) (s : Machine.State), (port s p.val).rx = pk :: rest ∧ portUp s p.val = true ∧ typeKnown pk.ptype.toNat = true ∧ pk.dst.toNat = nodeOf s (portDie p.val)) ∧
    (∃ (p : Port) (pk : Packet) (rest : List Packet) (s : Machine.State) (q : Nat) (out : Packet), routeOf s (portDie p.val) false pk = Routed.out q out ∧ (port s p.val).rx = pk :: rest ∧ portUp s p.val = true ∧ typeKnown pk.ptype.toNat = true) ∧
    (∃ (p : Port) (pk : Packet) (rest : List Packet) (s : Machine.State) (code : Nat), routeOf s (portDie p.val) false pk = Routed.drop code ∧ (port s p.val).rx = pk :: rest ∧ portUp s p.val = true ∧ typeKnown pk.ptype.toNat = true) :=
  ⟨⟨15, ⟨true, false, true, 2 ^ 18 - 1, 15⟩, portIn 2, canonical_of (by decide +kernel), by decide +kernel⟩,
   ⟨15, ⟨false, true, false, 0, 15⟩, portIn 2, canonical_of (by decide +kernel), by decide +kernel⟩,
   ⟨15, rfset (portIn pDown) .fabPortCtl 13 3 0 0 0 1, canonical_of (by decide +kernel), by decide +kernel⟩,
   ⟨.core 127, 15, 1, rfset (portIn pDisabled) .fabNode 13 0 0 63 63 1, canonical_of (by decide +kernel), by decide +kernel⟩,
   ⟨.core 127, 15, 2 ^ 64 - 2, rfset (portIn 3) .fabNode 13 0 0 63 63 1, canonical_of (by decide +kernel), by decide +kernel⟩,
   ⟨15, frame 0 16, portIn 3, by decide +kernel⟩,
   ⟨15, frame 4096 0, portIn 3, by decide +kernel⟩,
   ⟨15, frame 4095 15, portIn 3, rising_of (by decide +kernel), by decide +kernel⟩,
   ⟨15, frame 4095 15, withPort 3 { PortSt.reset with rxSeq := 4095 }, canonical_of (by decide +kernel), rising_of (by decide +kernel), by decide +kernel⟩,
   ⟨15, 15, ackFrame 0, withPort 3 { PortSt.reset with replay := [frame 4095 0, frame 0 0] }, rising_of (by decide +kernel), fun x hx => by cases hx; decide +kernel, by decide +kernel⟩,
   ⟨15, 15, { ackFrame 4095 with nak := some 0 }, frame 0 0, [frame 1 0], withPort 3 { PortSt.reset with replay := [frame 0 0, frame 1 0] }, canonical_of (by decide +kernel), rising_of (by decide +kernel), by decide +kernel⟩,
   ⟨15, 16, portIn pWaking, by decide +kernel⟩,
   ⟨15, .controlMissed, withPort 3 { PortSt.reset with missed := 8 }, canonical_of (by decide +kernel), fun h => DownCause.noConfusion h, by decide +kernel⟩,
   ⟨15, rfset (withPort 3 { PortSt.reset with kaAsked := true }) .fabPortCtl 13 3 0 4 4 1, canonical_of (by decide +kernel), by decide +kernel⟩,
   ⟨15, portIn pWaking, canonical_of (by decide +kernel), by decide +kernel⟩,
   ⟨15, pkt 1 5 0 0 [1], [], gotPkt (pkt 1 5 0 0 [1]), 0, by decide +kernel⟩,
   ⟨15, pkt 7 0 0 0 [], [], gotPkt (pkt 7 0 0 0 []), by decide +kernel⟩,
   ⟨15, pkt 11 0 0 0 [], [pkt 1 0 0 0 []], withPort 3 { PortSt.reset with rx := [pkt 11 0 0 0 [], pkt 1 0 0 0 []] }, by decide +kernel⟩,
   ⟨15, pkt 1 511 0 0 [], [], routed, routedOut.1, routedOut.2, out_of (r := routedTo) (by decide +kernel), by decide +kernel⟩,
   ⟨15, pkt 1 5 0 0 [], [], gotPkt (pkt 1 5 0 0 []), 0xB01, drop_of (by decide +kernel), by decide +kernel⟩⟩

theorem witness_FabricRequestsArePerformedInOrder :
    (∃ (row : Nat × (Nat → Instr) × (Machine.State → Nat → Packet → Nat × List Byte × Machine.State)) (n : Nat) (c : Nat) (p : Packet) (s : Machine.State) (x : Machine.State) (st : Nat) (data : List Byte) (y : Machine.State), row ∈ requestRows ∧ packetTaken s n row.fst c p x ∧ p.psn.toNat = connSeqF x c 31 0 ∧ connF x c (permBit row.fst) (permBit row.fst) = 1 ∧ row.snd.snd x c p = (st, data, y) ∧ st ≠ 2823) ∧
    (∃ (row : Nat × (Nat → Instr) × (Machine.State → Nat → Packet → Nat × List Byte × Machine.State)) (n : Nat) (c : Nat) (p : Packet) (s : Machine.State) (x : Machine.State) (st : Nat) (data : List Byte) (y : Machine.State), row ∈ requestRows ∧ packetTaken s n row.fst c p x ∧ p.psn.toNat = connSeqF x c 31 0 ∧ connF x c (permBit row.fst) (permBit row.fst) = 1 ∧ row.snd.snd x c p = (st, data, y) ∧ st = 2823) ∧
    (∃ (row : Nat × (Nat → Instr) × (Machine.State → Nat → Packet → Nat × List Byte × Machine.State)) (n : Nat) (c : Nat) (p : Packet) (s : Machine.State) (x : Machine.State), row ∈ requestRows ∧ packetTaken s n row.fst c p x ∧ p.psn.toNat = connSeqF x c 31 0 ∧ connF x c (permBit row.fst) (permBit row.fst) ≠ 1) ∧
    (∃ (row : Nat × (Nat → Instr) × (Machine.State → Nat → Packet → Nat × List Byte × Machine.State)) (n : Nat) (c : Nat) (p : Packet) (s : Machine.State) (x : Machine.State), row ∈ requestRows ∧ packetTaken s n row.fst c p x ∧ (∀ (t : Nat), (conn x c).lastNak = some t → t + 1000 ≤ BitVec.toNat x.master) ∧ 0 < psnAhead p.psn.toNat (connSeqF x c 31 0) ∧ psnAhead p.psn.toNat (connSeqF x c 31 0) < 2 ^ 31) ∧
    (∃ (row : Nat × (Nat → Instr) × (Machine.State → Nat → Packet → Nat × List Byte × Machine.State)) (n : Nat) (c : Nat) (p : Packet) (s : Machine.State) (x : Machine.State), row ∈ requestRows ∧ packetTaken s n row.fst c p x ∧ 2 ^ 31 ≤ psnAhead p.psn.toNat (connSeqF x c 31 0) ∧ row.fst = 3) ∧
    (∃ (row : Nat × (Nat → Instr) × (Machine.State → Nat → Packet → Nat × List Byte × Machine.State)) (n : Nat) (c : Nat) (p : Packet) (s : Machine.State) (x : Machine.State) (st : Nat) (data : List Byte) (y : Machine.State), row ∈ requestRows ∧ packetTaken s n row.fst c p x ∧ 2 ^ 31 ≤ psnAhead p.psn.toNat (connSeqF x c 31 0) ∧ row.fst = 2 ∧ connF x c 45 45 = 1 ∧ performRead x c p = (st, data, y)) ∧
    (∃ (row : Nat × (Nat → Instr) × (Machine.State → Nat → Packet → Nat × List Byte × Machine.State)) (n : Nat) (c : Nat) (p : Packet) (s : Machine.State) (x : Machine.State), row ∈ requestRows ∧ packetTaken s n row.fst c p x ∧ 2 ^ 31 ≤ psnAhead p.psn.toNat (connSeqF x c 31 0) ∧ row.fst ≠ 2 ∧ row.fst ≠ 3) ∧
    (∃ (row : Nat × (Nat → Instr) × (Machine.State → Nat → Packet → Nat × List Byte × Machine.State)) (n : Nat) (i : Nat) (p : Packet) (s : Machine.State) (x : Machine.State), row ∈ requestRows ∧ takePacket s n row.fst = some (i, p, x) ∧ connOf x p = none) ∧
    (∃ (s : Machine.State) (c : Nat) (q : QCfg), qcfg s (cDieOf (connDie c)) (32 + connF s c 41 36) = some q ∧ (q.enabled = false ∨ q.recv = false ∨ q.slots ≤ (mget 0 s.rxProduced (connDie c * 64 + connF s c 41 36) + 2 ^ 32 - mget 0 s.rxConsumed (connDie c * 64 + connF s c 41 36)) % 2 ^ 32)) :=
  ⟨⟨(1, .writePacket, performWrite), 1, 8191, pkt 1 0 0 0 [], writeIn, outbox writeIn, wrDone.1, wrDone.2.1, wrDone.2.2, List.mem_cons_self, ⟨⟨1, by decide +kernel⟩, by decide +kernel⟩, by decide +kernel⟩,
   ⟨(4, .messagePacket, performMessage), 1, 8191, pkt 4 0 0 0 [], messageIn, outbox messageIn, msgDone.1, msgDone.2.1, msgDone.2.2, List.mem_cons_of_mem _ (List.mem_cons_of_mem _ (List.mem_cons_of_mem _ (List.mem_cons_self))), ⟨⟨1, by decide +kernel⟩, by decide +kernel⟩, by decide +kernel⟩,
   ⟨(1, .writePacket, performWrite), 1, 8191, pkt 1 0 0 0 [], denied, outbox denied, List.mem_cons_self, ⟨⟨1, by decide +kernel⟩, by decide +kernel⟩, by decide +kernel⟩,
   ⟨(1, .writePacket, performWrite), 1, 8191, pkt 1 0 (2 ^ 31 - 1) 0 [], ahead, outbox ahead, List.mem_cons_self, ⟨⟨1, by decide +kernel⟩, by decide +kernel⟩, none_all (by decide +kernel), by decide +kernel⟩,
   ⟨(3, .atomicPacket, performAtomic), 1, 8191, pkt 3 0 (2 ^ 31) 0 [], behindAtomic, outbox behindAtomic, List.mem_cons_of_mem _ (List.mem_cons_of_mem _ (List.mem_cons_self)), ⟨⟨1, by decide +kernel⟩, by decide +kernel⟩, by decide +kernel⟩,
   ⟨(2, .readPacket, performRead), 1, 8191, pkt 2 0 (2 ^ 32 - 1) 0 [], behindRead, outbox behindRead, rdDone.1, rdDone.2.1, rdDone.2.2, List.mem_cons_of_mem _ (List.mem_cons_self), ⟨⟨1, by decide +kernel⟩, by decide +kernel⟩, by decide +kernel⟩,
   ⟨(1, .writePacket, performWrite), 1, 8191, pkt 1 0 (2 ^ 32 - 1) 0 [], behindWrite, outbox behindWrite, List.mem_cons_self, ⟨⟨1, by decide +kernel⟩, by decide +kernel⟩, by decide +kernel⟩,
   ⟨(1, .writePacket, performWrite), 1, 1, pkt 1 0 0 0 [], strange, outbox strange, List.mem_cons_self, by decide +kernel⟩,
   ⟨rxOff, 8191, rxCfg, some_getD _ (by decide +kernel), by decide +kernel⟩⟩

theorem witness_FabricAnswersAndRetries :
    (∃ (row : Nat × (Nat → Instr)) (n : Nat) (c : Nat) (p : Packet) (r : OutReq) (s : Machine.State) (x : Machine.State), row ∈ answerRows ∧ packetTaken s n row.fst c p x ∧ outReq x c p.psn = some r ∧ answerType r.pkt.ptype.toNat = row.fst ∧ p.status.toNat ≠ 0) ∧
    (∃ (row : Nat × (Nat → Instr)) (n : Nat) (c : Nat) (p : Packet) (r : OutReq) (s : Machine.State) (x : Machine.State), row ∈ answerRows ∧ packetTaken s n row.fst c p x ∧ outReq x c p.psn = some r ∧ answerType r.pkt.ptype.toNat = row.fst ∧ p.status.toNat = 0) ∧
    (∃ (n : Nat) (c : Nat) (p : Packet) (s : Machine.State) (x : Machine.State), packetTaken s n 11 c p x ∧ p.status = 0) ∧
    (∃ (n : Nat) (c : Nat) (p : Packet) (r : OutReq) (s : Machine.State) (x : Machine.State), packetTaken s n 11 c p x ∧ p.status = 2823 ∧ outReq x c p.psn = some r ∧ r.rxFull < retryMax x c) ∧
    (∃ (n : Nat) (c : Nat) (p : Packet) (r : OutReq) (s : Machine.State) (x : Machine.State), packetTaken s n 11 c p x ∧ p.status = 2823 ∧ outReq x c p.psn = some r ∧ retryMax x c ≤ r.rxFull) ∧
    (∃ (c : Fin 8192) (r : OutReq) (s : Machine.State), dieActive s (connDie c.val) = true ∧ List.find? (fun (x : OutReq) => x.rxWait) (conn s c.val).out = some r) ∧
    (∃ (c : Fin 8192) (s : Machine.State), dieActive s (connDie c.val) = true ∧ (∃ (r : OutReq), r ∈ (conn s c.val).out ∧ r.sends ≠ 0) ∧ (∀ (r : OutReq), r ∈ (conn s c.val).out → r.sends ≤ retryMax s c.val)) ∧
    (∃ (c : Fin 8192) (r : OutReq) (s : Machine.State), dieActive s (connDie c.val) = true ∧ List.find? (fun (r : OutReq) => decide (retryMax s c.val + 1 ≤ r.sends)) (List.filter (fun (r : OutReq) => r.sends != 0) (conn s c.val).out) = some r) ∧
    (∃ (a : Agent) (l : LDie) (n : Fin 64) (v : W64) (s : Machine.State), let new : Nat := (Reg.fabQcfg.spec.write (rget s Reg.fabQcfg (10 + l.val) 0 n.val) (BitVec.toNat v)); Canonical s ∧ dieActive s (10 + l.val) = true ∧ agentMay a Writers.uszonCore = true ∧ bit (rget s Reg.fabQcfg (10 + l.val) 0 n.val) 63 = false ∧ bit (BitVec.toNat v) 63 = true ∧ fabEnableRefused s (10 + l.val) new = false) ∧
    (∃ (a : Agent) (l : LDie) (n : Fin 64) (v : W64) (s : Machine.State), let new : Nat := (Reg.fabQcfg.spec.write (rget s Reg.fabQcfg (10 + l.val) 0 n.val) (BitVec.toNat v)); Canonical s ∧ dieActive s (10 + l.val) = true ∧ agentMay a Writers.uszonCore = true ∧ bit (rget s Reg.fabQcfg (10 + l.val) 0 n.val) 63 = false ∧ bit (BitVec.toNat v) 63 = true ∧ fabEnableRefused s (10 + l.val) new = true) ∧
    (∃ (l : LDie) (n : Fin 64) (q : QCfg) (s : Machine.State), qcfg s (cDieOf (10 + l.val)) (32 + n.val) = some q ∧ q.enabled = true ∧ q.recv = true ∧ dieActive s (cDieOf (10 + l.val)) = true ∧ dieActive s (10 + l.val) = true) :=
  ⟨⟨(8, .ackPacket), 1, 8191, pkt 8 0 topPsn 65535 [], sent topPsn 1 0 false, sentSt (sent topPsn 1 0 false) (pkt 8 0 topPsn 65535 []), outbox (sentSt (sent topPsn 1 0 false) (pkt 8 0 topPsn 65535 [])), List.mem_cons_self, ⟨⟨1, by decide +kernel⟩, by decide +kernel⟩, by decide +kernel⟩,
   ⟨(8, .ackPacket), 1, 8191, pkt 8 0 topPsn 0 [], sent topPsn 1 0 false, sentSt (sent topPsn 1 0 false) (pkt 8 0 topPsn 0 []), outbox (sentSt (sent topPsn 1 0 false) (pkt 8 0 topPsn 0 [])), List.mem_cons_self, ⟨⟨1, by decide +kernel⟩, by decide +kernel⟩, by decide +kernel⟩,
   ⟨1, 8191, pkt 11 0 topPsn 0 [], sentSt (sent topPsn 1 0 false) (pkt 11 0 topPsn 0 []), outbox (sentSt (sent topPsn 1 0 false) (pkt 11 0 topPsn 0 [])), ⟨⟨1, by decide +kernel⟩, by decide +kernel⟩, by decide +kernel⟩,
   ⟨1, 8191, pkt 11 0 topPsn 2823 [], sent topPsn 1 2 false, sentSt (sent topPsn 1 2 false) (pkt 11 0 topPsn 2823 []), outbox (sentSt (sent topPsn 1 2 false) (pkt 11 0 topPsn 2823 [])), ⟨⟨1, by decide +kernel⟩, by decide +kernel⟩, by decide +kernel⟩,
   ⟨1, 8191, pkt 11 0 topPsn 2823 [], sent topPsn 1 3 false, sentSt (sent topPsn 1 3 false) (pkt 11 0 topPsn 2823 []), outbox (sentSt (sent topPsn 1 3 false) (pkt 11 0 topPsn 2823 [])), ⟨⟨1, by decide +kernel⟩, by decide +kernel⟩, by decide +kernel⟩,
   ⟨8191, sent topPsn 1 1 true, sentSt (sent topPsn 1 1 true) (pkt 8 0 0 0 []), by decide +kernel⟩,
   ⟨8191, sentSt (sent topPsn 3 0 false) (pkt 8 0 0 0 []), by decide +kernel⟩,
   ⟨8191, sent topPsn 4 0 false, sentSt (sent topPsn 4 0 false) (pkt 8 0 0 0 []), by decide +kernel⟩,
   ⟨.core 127, 3, 63, BitVec.ofNat 64 (2 ^ 63 + 8 * 2 ^ 52 + 0x10000 * 2 ^ 4), whole, canonical_of (by decide +kernel), by decide +kernel⟩,
   ⟨.uszon, 3, 63, BitVec.ofNat 64 (2 ^ 63 + 9 * 2 ^ 52 + 0x10000 * 2 ^ 4), whole, canonical_of (by decide +kernel), by decide +kernel⟩,
   ⟨3, 63, recvCfg, recvOn, some_getD _ (by decide +kernel), by decide +kernel⟩⟩

theorem witness_RimstoneGovernsPower :
    (∃ (s : Machine.State), Canonical s ∧ s.pins.aux = true ∧ s.pins.auxReset = false) ∧
    (∃ (s : Machine.State), Canonical s ∧ dieActive s 14 = true ∧ s.rim.group = none) ∧
    (∃ (d : Die) (a : Nat) (b : Nat) (s : Machine.State), Canonical s ∧ dieActive s (dieIdx d) = true ∧ mfind s.rim.share (dieIdx d) = some (a, b)) ∧
    (∃ (d : Die) (i : Island) (s : Machine.State), let n : Nat := (islandNo i); Canonical s ∧ dieActive s (dieIdx d) = true ∧ droops d i = true ∧ isStretched s (dieIdx d) n = false) ∧
    (∃ (d : Die) (i : Island), droops d i = false) ∧
    (∃ (d : Die) (i : Island) (s : Machine.State), let n : Nat := (islandNo i); Canonical s ∧ isStretched s (dieIdx d) n = true) ∧
    (∃ (x : Sensor) (t : Int) (s : Machine.State), s.pins.aux = true ∧ -40 ≤ t ∧ t ≤ 150 ∧ t < (sensorLimits (sensorNo x)).snd.snd) ∧
    (∃ (x : Sensor) (t : Int) (s : Machine.State), Canonical s ∧ s.pins.aux = true ∧ s.pins.rails = true ∧ s.holds.contains 3 = false ∧ t ≤ 150 ∧ (sensorLimits (sensorNo x)).snd.snd ≤ t ∧ -40 ≤ t) ∧
    (∃ (x : Sensor) (s : Machine.State), (s.rim.failed.contains (sensorNo x) = false ∨ dieActive s (sensorDie x) = true ∧ rf s Reg.rimStatus (sensorDie x) 0 0 2 2 = 0)) ∧
    (∃ (d : Die) (n : Fin 32) (margin : Int) (s : Machine.State), let t : Nat := (isl s (dieIdx d) (n.val) 47 40); Canonical s ∧ dieActive s (dieIdx d) = true ∧ n.val < islandCount (dieIdx d) ∧ isStretched s (dieIdx d) n.val = false ∧ s.uszon.running = true ∧ margin < 0 ∧ t < 20) ∧
    (∃ (d : Die) (n : Fin 32) (margin : Int) (s : Machine.State), Canonical s ∧ dieActive s (dieIdx d) = true ∧ n.val < islandCount (dieIdx d) ∧ isStretched s (dieIdx d) n.val = false ∧ s.uszon.running = true ∧ 2 < margin) ∧
    (∃ (d : Die) (n : Fin 32) (margin : Int) (s : Machine.State), Canonical s ∧ dieActive s (dieIdx d) = true ∧ n.val < islandCount (dieIdx d) ∧ isStretched s (dieIdx d) n.val = false ∧ s.uszon.running = true ∧ 0 ≤ margin ∧ margin ≤ 2) ∧
    (∃ (k : CDie) (s : Machine.State), Canonical s ∧ dieActive s k.val = true) ∧
    (∃ (g : Nat) (s : Machine.State), dieActive s 14 = true ∧ s.rim.group = some g ∧ s.rim.deepIdle = false) ∧
    (∃ (n : Nat) (i : Nat) (p : Packet) (s : Machine.State) (x : Machine.State), takePacket s n 6 = some (i, p, x) ∧ bits (wd (toWords 8 p.payload) 0) 63 56 = 1 ∧ s.rim.group = some (bits (wd (toWords 8 p.payload) 0) 55 40)) ∧
    (∃ (node : BitVec 18) (y : Partner) (s : Machine.State), List.find? (fun (p : Partner) => p.node == node.toNat && !p.stale) s.rim.partners = some y) ∧
    (∃ (s : Machine.State), mainUp s = true ∧ s.rim.deepIdle = false ∧ s.rim.idleMs ≠ 0 ∧ moduleIdle s = true) :=
  ⟨⟨off, canonical_of (by decide +kernel), by decide +kernel⟩,
   ⟨up, canonical_of (by decide +kernel), by decide +kernel⟩,
   ⟨.c 5, 100, 200, { up with rim := { up.rim with share := [(5, (100, 200))] } }, canonical_of (by decide +kernel), by decide +kernel⟩,
   ⟨.c 5, .grotto, up, canonical_of (by decide +kernel), by decide +kernel⟩,
   ⟨.c 5, .port 3, by decide +kernel⟩,
   ⟨.c 5, .network, { up with rim := { up.rim with stretched := [64 * 5 + 33] } }, canonical_of (by decide +kernel), by decide +kernel⟩,
   ⟨.package 1 11, 104, inReset, by decide +kernel⟩,
   ⟨.package 1 11, 105, up, canonical_of (by decide +kernel), by decide +kernel⟩,
   ⟨.package 1 11, up, .inl (by decide +kernel)⟩,
   ⟨.p 1, 15, -1, up, canonical_of (by decide +kernel), by decide +kernel⟩,
   ⟨.c 5, 31, 3, up, canonical_of (by decide +kernel), by decide +kernel⟩,
   ⟨.c 5, 31, 2, up, canonical_of (by decide +kernel), by decide +kernel⟩,
   ⟨5, up, canonical_of (by decide +kernel), by decide +kernel⟩,
   ⟨0xFFFF, inGroup 0xFFFF, by decide +kernel⟩,
   ⟨1, 1, report, reported, outbox (inGroup 0xFFFF), by decide +kernel⟩,
   ⟨2 ^ 18 - 1, partner1, { up with rim := { up.rim with partners := [partner1] } }, by decide +kernel⟩,
   ⟨{ up with rim := { up.rim with idleMs := 60000 } }, by decide +kernel⟩⟩

theorem witness_LinksTrainMismatchAndFence :
    (∃ (x : LinkRef) (s : Machine.State) (p : Nat) (pl : Nat), Canonical s ∧ s.links.rising ∧ linkPartner (dieIdx x.die) ↑x.index = some (p, pl) ∧ mayTrain s (dieIdx x.die) ↑x.index = true) ∧
    (∃ (x : LinkRef) (s : Machine.State) (p : Nat) (pl : Nat), Canonical s ∧ s.links.rising ∧ linkPartner (dieIdx x.die) ↑x.index = some (p, pl) ∧ mayTrain s (dieIdx x.die) ↑x.index = true) ∧
    (∃ (x : LinkRef) (fails : Nat) (s : Machine.State) (p : Nat) (pl : Nat), let a : Nat := (dieIdx x.die); let l : Nat := (↑x.index); let mask : BitVec 16 := ((lk s a l).mask); Canonical s ∧ s.links.rising ∧ lkState s a l = lkActive ∧ linkPartner a l = some (p, pl) ∧ isMLink a l = false ∧ 64 < fails ∧ linkDie s a = true ∧ linkDie s p = true ∧ (lk s a l).stopped = false ∧ (lk s p pl).stopped = false ∧ (lk s a l).fresh = false ∧ (lk s p pl).fresh = false ∧ mask = (lk s p pl).mask ∧ mask ≠ 0 ∧ mask &&& BitVec.ofNat 16 (2 ^ linkWidth a l - 1) = mask) ∧
    (∃ (x : LinkRef) (fails : Nat) (s : Machine.State), let a : Nat := (dieIdx x.die); let l : Nat := (↑x.index); Canonical s ∧ s.links.rising ∧ (fails ≤ 64 ∨ isMLink a l = true) ∧ lkState s a l = lkActive) ∧
    (∃ (x : LinkRef) (s : Machine.State), let a : Nat := (dieIdx x.die); let l : Nat := (↑x.index); Canonical s ∧ s.links.rising ∧ lkState s a l ≠ lkActive) ∧
    (∃ (x : LinkRef) (s : Machine.State) (p : Nat) (pl : Nat), Canonical s ∧ LinkSpare s (dieIdx x.die) ↑x.index ∧ linkPartner (dieIdx x.die) ↑x.index = some (p, pl) ∧ lkState s (dieIdx x.die) ↑x.index ∈ [lkTraining, lkRetraining]) ∧
    (∃ (x : LinkRef) (s : Machine.State) (p : Nat) (pl : Nat), let a : Nat := (dieIdx x.die); let l : Nat := (↑x.index); Canonical s ∧ s.links.rising ∧ linkPartner (dieIdx x.die) ↑x.index = some (p, pl) ∧ dieActive s (dieIdx x.die) = true ∧ lkState s a l ∈ [lkActive, lkDown]) ∧
    (∃ (x : LinkRef) (s : Machine.State) (p : Nat) (pl : Nat), let a : Nat := (dieIdx x.die); let l : Nat := (↑x.index); Canonical s ∧ s.links.rising ∧ linkPartner (dieIdx x.die) ↑x.index = some (p, pl) ∧ dieActive s (dieIdx x.die) = true ∧ lkState s a l = lkFenced) ∧
    (∃ (g : Agent) (x : LinkRef) (s : Machine.State), (g ≠ Agent.uszon ∨ dieActive s (dieIdx x.die) = false)) ∧
    (∃ (m : MBase) (sec : Bool) (n : Fin 32) (pass : Bool) (s : Machine.State) (p : Nat) (pl : Nat), let d : Nat := (16 + m.val); let l : Nat := (b2n sec); let e : LinkSt := (lk s d l); let now : Bool := (pass && (bit e.slices.toNat n.val || e.fresh)); let sl : BitVec 32 := (if now = true then e.slices ||| BitVec.ofNat 32 (2 ^ n.val) else e.slices &&& ~~~BitVec.ofNat 32 (2 ^ n.val)); Canonical s ∧ s.links.rising ∧ n.val < linkWidth d l ∧ linkPartner d l = some (p, pl) ∧ lkState s d l ≠ lkFenced ∧ dieActive s d = true ∧ dieActive s p = true ∧ popMask sl.toNat ≠ 0) :=
  ⟨⟨link1, linkIn 1 [], 15, 1, canonical_of (by decide +kernel), rising_of (by decide +kernel), by decide +kernel⟩,
   ⟨link1, linkIn 4 [], 15, 1, canonical_of (by decide +kernel), rising_of (by decide +kernel), by decide +kernel⟩,
   ⟨link1, 65, linkIn 3 [(lkKey 5 4, keptLink), (lkKey 15 1, keptLink)], 15, 1, canonical_of (by decide +kernel), rising_of (by decide +kernel), by decide +kernel⟩,
   ⟨link1, 64, linkIn 3 [], canonical_of (by decide +kernel), rising_of (by decide +kernel), .inl (by decide +kernel), by decide +kernel⟩,
   ⟨link1, linkIn 1 [], canonical_of (by decide +kernel), rising_of (by decide +kernel), by decide +kernel⟩,
   ⟨link1, linkIn 4 [], 15, 1, canonical_of (by decide +kernel), linkSpare_of (by decide +kernel), by decide +kernel⟩,
   ⟨link1, linkIn 3 [], 15, 1, canonical_of (by decide +kernel), rising_of (by decide +kernel), by decide +kernel⟩,
   ⟨link1, linkIn lkFenced [], 15, 1, canonical_of (by decide +kernel), rising_of (by decide +kernel), by decide +kernel⟩,
   ⟨.host, link1, up, .inl Agent.noConfusion⟩,
   ⟨11, true, 7, true, up, 2, 11, canonical_of (by decide +kernel), rising_of (by decide +kernel), by decide +kernel⟩⟩

theorem witness_HostQueueCommandsRun :
    (∃ (q : Fin 64) (v : W64) (s : Machine.State), s.host.queues.rising ∧ hqState s q.val = hqActive ∧ 0 < (bits (BitVec.toNat v) 11 0 % (hq s q.val).size + (hq s q.val).size - (hq s q.val).cqHead) % (hq s q.val).size) ∧
    (∃ (q : Fin 64) (s : Machine.State), s.host.queues.rising ∧ hqState s q.val ≠ hqActive) ∧
    (∃ (q : Fin 64) (c : HostSlot) (s : Machine.State), hqReady s (q.val) c = true ∧ (slotOp c = 0 ∨ 5 < slotOp c)) ∧
    (∃ (q : Fin 64) (c : HostSlot) (s : Machine.State) (row : Nat × Instr), let x : Machine.State := (slotFetched s (q.val) c); row ∈ [(1, Instr.hifSubmit q c), (2, Instr.writeInline q c), (3, Instr.copyH2D q c), (4, Instr.copyD2H q c), (5, Instr.flag q c)] ∧ hqReady s (q.val) c = true ∧ slotOp c = row.fst ∧ hqCheck x (q.val) c ≠ 0) ∧
    (∃ (q : Fin 64) (c : HostSlot) (s : Machine.State) (y : Machine.State), let x : Machine.State := (slotFetched s (q.val) c); let w : Nat → Nat := (wd c.hdr); y.regs.rising ∧ hqReady s (q.val) c = true ∧ hqCheck x (q.val) c = 0 ∧ slotOp c = 1 ∧ devWrite x (rf x Reg.jobQcfg (bits (w 4) 50 48) 0 (bits (w 4) 47 44) 47 8 * 256 + 256 * rf x Reg.jobQptr (bits (w 4) 50 48) 0 (bits (w 4) 47 44) 11 0) (List.take 160 c.body ++ List.replicate 96 0) = (0, y) ∧ rf y Reg.jobQcfg (bits (w 4) 50 48) 0 (bits (w 4) 47 44) 59 56 ≤ 8) ∧
    (∃ (q : Fin 64) (c : HostSlot) (s : Machine.State) (code : Nat) (y : Machine.State), let x : Machine.State := (slotFetched s (q.val) c); let w : Nat → Nat := (wd c.hdr); hqReady s (q.val) c = true ∧ hqCheck x (q.val) c = 0 ∧ slotOp c = 2 ∧ devWrite x (w 1) (List.take (bits (w 0) 39 32) c.body) = (code, y)) ∧
    (∃ (q : Fin 64) (c : HostSlot) (s : Machine.State), let x : Machine.State := (slotFetched s (q.val) c); let w : Nat → Nat := (wd c.hdr); s.host.queues.rising ∧ hqReady s (q.val) c = true ∧ hqCheck x (q.val) c = 0 ∧ slotOp c = 3 ∧ (hq s q.val).started = [] ∧ hqReadsOut x < 1024 ∧ w 3 ≠ 0) ∧
    (∃ (q : Fin 64) (c : HostSlot) (s : Machine.State) (code : Nat) (n : Nat) (y : Machine.State), let x : Machine.State := (slotFetched s (q.val) c); let w : Nat → Nat := (wd c.hdr); hqReady s (q.val) c = true ∧ hqCheck x (q.val) c = 0 ∧ slotOp c = 4 ∧ hqD2H (2 * cdiv (w 3) 128 + 2) x (w 2) (w 1) (w 3) 0 = (code, n, y)) ∧
    (∃ (q : Fin 64) (c : HostSlot) (s : Machine.State), let x : Machine.State := (slotFetched s (q.val) c); hqReady s (q.val) c = true ∧ hqCheck x (q.val) c = 0 ∧ slotOp c = 5) ∧
    (∃ (q : Fin 64) (c : HostSlot) (s : Machine.State), Canonical s ∧ s.host.queues.rising ∧ hqReady s (q.val) c = true ∧ slotOp c = 0 ∧ (hq s q.val).started = [] ∧ bits (hq s q.val).cfg 47 44 ≤ 8) ∧
    (∃ (q : Fin 64) (tag : Nat) (da : Nat) (n : Nat) (cmd : HostCmd) (s : Machine.State) (bad : HostCpl), bad ∈ [HostCpl.ur, HostCpl.ca] ∧ hqReader s (q.val) tag = some (cmd, da, n)) ∧
    (∃ (q : Fin 64) (tag : Nat) (da : Nat) (n : Nat) (cmd : HostCmd) (s : Machine.State), hqReader s (q.val) tag = some (cmd, da, n) ∧ anyFatal s = true) ∧
    (∃ (q : Fin 64) (tag : Nat) (da : Nat) (n : Nat) (cmd : HostCmd) (s : Machine.State) (data : List Byte) (code : Nat) (y : Machine.State), hqReader s (q.val) tag = some (cmd, da, n) ∧ data.length = n ∧ anyFatal s = false ∧ devWrite (count s Reg.hifRxBytes 14 0 0 n) da data = (code, y) ∧ code ≠ 0) ∧
    (∃ (q : Fin 64) (tag : Nat) (da : Nat) (n : Nat) (cmd : HostCmd) (s : Machine.State) (data : List Byte) (code : Nat) (y : Machine.State), hqReader s (q.val) tag = some (cmd, da, n) ∧ data.length = n ∧ anyFatal s = false ∧ devWrite (count s Reg.hifRxBytes 14 0 0 n) da data = (code, y) ∧ code = 0) ∧
    (∃ (q : Fin 64) (c : HostSlot) (s : Machine.State) (i : Instr), i ∈ [Instr.hifNop q c, Instr.hifSubmit q c, Instr.writeInline q c, Instr.copyH2D q c, Instr.copyD2H q c, Instr.flag q c] ∧ anyFatal s = true) ∧
    (∃ (q : Fin 64) (s : Machine.State), s.host.queues.rising ∧ (hq s q.val).unsignalled ≠ 0 ∧ bits (hq s q.val).cfg 31 16 ≠ 0) ∧
    (∃ (q : Fin 64) (s : Machine.State), s.host.queues.rising ∧ Canonical s ∧ hqState s q.val = hqStopping ∧ (hq s q.val).started = []) ∧
    (∃ (q : Fin 64) (v : W64) (s : Machine.State), let g : Nat := (bits (BitVec.toNat v) 55 48); let h : Nat := (bits (BitVec.toNat v) 47 44); Canonical s ∧ s.host.queues.rising ∧ s.pins.pwrGood = true ∧ rf s Reg.hifHqCfg 14 0 (q.val) 63 63 = 0 ∧ bit (BitVec.toNat v) 63 = true ∧ s.pins.modReady = true ∧ g ≠ 0 ∧ g ≠ rf s Reg.hifHqStatus 14 0 (q.val) 47 40 ∧ h ≤ 8 ∧ hqState s q.val ≠ hqStopping) ∧
    (∃ (q : Fin 64) (v : W64) (s : Machine.State), let g : Nat := (bits (BitVec.toNat v) 55 48); let h : Nat := (bits (BitVec.toNat v) 47 44); Canonical s ∧ s.host.queues.rising ∧ s.pins.pwrGood = true ∧ rf s Reg.hifHqCfg 14 0 (q.val) 63 63 = 0 ∧ bit (BitVec.toNat v) 63 = true ∧ s.pins.modReady = true ∧ (g = 0 ∨ g = rf s Reg.hifHqStatus 14 0 (q.val) 47 40 ∨ 8 < h ∨ hqState s q.val = hqStopping)) ∧
    (∃ (q : Fin 64) (v : W64) (s : Machine.State), Canonical s ∧ s.host.queues.rising ∧ s.pins.pwrGood = true ∧ rf s Reg.hifHqCfg 14 0 (q.val) 63 63 = 1 ∧ hqState s q.val = hqActive ∧ bit (BitVec.toNat v) 63 = true) ∧
    (∃ (q : Fin 64) (v : W64) (s : Machine.State), Canonical s ∧ s.host.queues.rising ∧ s.pins.pwrGood = true ∧ rf s Reg.hifHqCfg 14 0 (q.val) 63 63 = 1 ∧ hqState s q.val = hqActive ∧ bit (BitVec.toNat v) 63 = false) :=
  ⟨⟨63, 1, hqOn, rising_of (by decide +kernel), by decide +kernel⟩,
   ⟨63, hqIn 0 hq1, rising_of (by decide +kernel), by decide +kernel⟩,
   ⟨63, slot 6 [] [], hqOn, by decide +kernel⟩,
   ⟨63, slot 1 [1] [], hqOn, (1, .hifSubmit 63 (slot 1 [1] [])), List.mem_cons_self, by decide +kernel⟩,
   ⟨63, submit1, hqOn, submitX.2, rising_of (by decide +kernel), by decide +kernel⟩,
   ⟨63, inline1, hqOn, inlineX.1, inlineX.2, by decide +kernel⟩,
   ⟨63, up1, hqOn, rising_of (by decide +kernel), by decide +kernel⟩,
   ⟨63, down1, hqOn, downX.1, downX.2.1, downX.2.2, by decide +kernel⟩,
   ⟨63, slot 5 [0, 0x1000, 0, 0, 7] [], hqOn, by decide +kernel⟩,
   ⟨63, slot 0 [] [], hqOn, canonical_of (by decide +kernel), rising_of (by decide +kernel), by decide +kernel⟩,
   ⟨63, 1023, 0xC000000000 - 4, 4, cmd1 (0xC000000000 - 4), reading1 (0xC000000000 - 4), .ur, List.mem_cons_self, by decide +kernel⟩,
   ⟨63, 1023, 0xC000000000 - 4, 4, cmd1 (0xC000000000 - 4), setDieSt (reading1 (0xC000000000 - 4)) 27 dsFatal, by decide +kernel⟩,
   ⟨63, 1023, 0xC000000000, 4, cmd1 0xC000000000, reading1 0xC000000000, [1, 2, 3, 4], 0x840, (readX 0xC000000000).2, by decide +kernel⟩,
   ⟨63, 1023, 0xC000000000 - 4, 4, cmd1 (0xC000000000 - 4), reading1 (0xC000000000 - 4), [1, 2, 3, 4], 0, (readX (0xC000000000 - 4)).2, by decide +kernel⟩,
   ⟨63, slot 0 [] [], setDieSt up 27 dsFatal, .hifNop 63 (slot 0 [] []), List.mem_cons_self, by decide +kernel⟩,
   ⟨63, hqIn hqActive { hq1 with unsignalled := 1 }, rising_of (by decide +kernel), by decide +kernel⟩,
   ⟨63, hqIn hqStopping hq1, rising_of (by decide +kernel), canonical_of (by decide +kernel), by decide +kernel⟩,
   ⟨63, BitVec.ofNat 64 (2 ^ 63 + 255 * 2 ^ 48 + 8 * 2 ^ 44), up, canonical_of (by decide +kernel), rising_of (by decide +kernel), by decide +kernel⟩,
   ⟨63, BitVec.ofNat 64 (2 ^ 63 + 255 * 2 ^ 48 + 9 * 2 ^ 44), up, canonical_of (by decide +kernel), rising_of (by decide +kernel), by decide +kernel⟩,
   ⟨63, BitVec.ofNat 64 (2 ^ 63), hqCfgOn, canonical_of (by decide +kernel), rising_of (by decide +kernel), by decide +kernel⟩,
   ⟨63, 0, hqCfgOn, canonical_of (by decide +kernel), rising_of (by decide +kernel), by decide +kernel⟩⟩

theorem witness_HostRequestsFollowTheirBars :
    (∃ (off : BitVec 24) (s : Machine.State), s.host.linkUp = true ∧ s.host.d3hot = false ∧ s.uszon.recovery = false ∧ off.toNat < 131072 ∧ off.toNat % 8 = 0) ∧
    (∃ (off : BitVec 24) (s : Machine.State), let addr : Nat := (263882790666240 + rf s Reg.hifRegwinBase 14 0 0 39 23 * 8388608 + (off.toNat - 8388608)); Canonical s ∧ s.host.linkUp = true ∧ s.host.d3hot = false ∧ s.uszon.recovery = false ∧ 8388608 ≤ off.toNat ∧ off.toNat % 8 = 0 ∧ windowWritable addr = false) ∧
    (∃ (off : BitVec 24) (s : Machine.State) (q : Fin 64), s.host.linkUp = true ∧ s.host.d3hot = false ∧ s.uszon.recovery = false ∧ off.toNat = 1048576 + 4096 * q.val) ∧
    (∃ (off : BitVec 24) (s : Machine.State) (q : Fin 64), s.host.linkUp = true ∧ s.host.d3hot = false ∧ s.uszon.recovery = false ∧ off.toNat = 1048584 + 4096 * q.val) ∧
    (∃ (off : BitVec 24) (s : Machine.State), s.host.linkUp = true ∧ s.host.d3hot = false ∧ s.uszon.recovery = false ∧ 1310720 ≤ off.toNat ∧ off.toNat < 8388608) ∧
    (∃ (off : BitVec 32) (s : Machine.State) (n : Nat) (code : Nat) (data : List Byte) (y : Machine.State), let addr : Nat := (rf s Reg.hifWinBase 14 0 0 47 32 <<< 32 + off.toNat); s.host.linkUp = true ∧ takesRequests s = true ∧ memoryUp s = true ∧ busRead s none true addr n = (code, data, y) ∧ code = 0) ∧
    (∃ (off : BitVec 32) (s : Machine.State) (n : Nat) (code : Nat) (data : List Byte) (y : Machine.State), let addr : Nat := (rf s Reg.hifWinBase 14 0 0 47 32 <<< 32 + off.toNat); s.host.linkUp = true ∧ takesRequests s = true ∧ memoryUp s = true ∧ busRead s none true addr n = (code, data, y) ∧ code = 2112) ∧
    (∃ (off : BitVec 32) (s : Machine.State) (data : List Byte) (code : Nat) (y : Machine.State), let addr : Nat := (rf s Reg.hifWinBase 14 0 0 47 32 <<< 32 + off.toNat); s.host.linkUp = true ∧ takesRequests s = true ∧ memoryUp s = true ∧ busWrite (count s Reg.hifRxBytes 14 0 0 data.length) none true addr data = (code, y)) ∧
    (∃ (off : BitVec 32) (s : Machine.State) (op : Nat × (Bool → W64 → W64 → HostAccess)) (dw : Bool) (a : W64) (b : W64) (prior : Nat) (y : Machine.State), let addr : Nat := (rf s Reg.hifWinBase 14 0 0 47 32 <<< 32 + off.toNat); op ∈ [(0, fun (dw : Bool) (a _b : W64) => HostAccess.fetchAdd dw a), (6, fun (dw : Bool) (a x : W64) => HostAccess.swap dw a), (7, fun (dw : Bool) (a b : W64) => HostAccess.cas dw a b)] ∧ s.host.linkUp = true ∧ takesRequests s = true ∧ memoryUp s = true ∧ (addr % if dw = true then 4 else 8) = 0 ∧ devAtomic (count s Reg.hifRxBytes 14 0 0 (if op.fst = 7 then 2 * if dw = true then 4 else 8 else if dw = true then 4 else 8)) addr op.fst (if dw = true then 0 else 2) a (if op.fst = 7 then b else 0) = (0, prior, y)) ∧
    (∃ (off : BitVec 42) (s : Machine.State) (n : Nat) (data : List Byte) (y : Machine.State), s.host.linkUp = true ∧ takesRequests s = true ∧ memoryUp s = true ∧ rf s Reg.hifCap 14 0 0 0 0 = 1 ∧ busRead s none false off.toNat n = (0, data, y)) ∧
    (∃ (off : BitVec 42) (s : Machine.State) (data : List Byte) (y : Machine.State), s.host.linkUp = true ∧ takesRequests s = true ∧ memoryUp s = true ∧ rf s Reg.hifCap 14 0 0 0 0 = 1 ∧ busWrite (count s Reg.hifRxBytes 14 0 0 data.length) none false off.toNat data = (0, y)) ∧
    (∃ (s : Machine.State), s.host.linkUp = true ∧ memoryUp s = false) ∧
    (∃ (s : Machine.State), Canonical s ∧ s.pins.pwrGood = true) ∧
    (∃ (s : Machine.State), Canonical s ∧ s.host.linkUp = true) ∧
    (∃ (s : Machine.State), Canonical s ∧ s.host.linkUp = true) ∧
    (∃ (s : Machine.State), Canonical s ∧ s.host.linkUp = true) ∧
    (∃ (s : Machine.State), Canonical s ∧ s.host.linkUp = true) ∧
    (∃ (s : Machine.State), Canonical s ∧ s.host.linkUp = true) ∧
    (∃ (s : Machine.State), Canonical s ∧ s.host.bars.rising ∧ s.host.linkUp = true) :=
  ⟨⟨0x1FFF8, up, by decide +kernel⟩,
   ⟨0xFFFFF8, up, canonical_of (by decide +kernel), by decide +kernel⟩,
   ⟨BitVec.ofNat 24 (0x100000 + 0x1000 * 63), up, 63, by decide +kernel⟩,
   ⟨BitVec.ofNat 24 (0x100008 + 0x1000 * 63), up, 63, by decide +kernel⟩,
   ⟨0x7FFFFF, up, by decide +kernel⟩,
   ⟨0xFFFFFFFC, winAt 0xBF, 4, 0, (winRead 0xBF).2.1, (winRead 0xBF).2.2, by decide +kernel⟩,
   ⟨0xFFFFFFFC, winAt 0x700, 4, 0x840, (winRead 0x700).2.1, (winRead 0x700).2.2, by decide +kernel⟩,
   ⟨0xFFFFFFFC, winAt 0xBF, [1, 2, 3, 4], 0, winWrite.2, by decide +kernel⟩,
   ⟨0xFFFFFFFC, winAt 0xBF, (0, fun dw a _ => .fetchAdd dw a), true, 1, 0, winAtomic.2.1, winAtomic.2.2, List.mem_cons_self, by decide +kernel⟩,
   ⟨0xBFFFFFFFFC, compatOn, 4, compatRead.2.1, compatRead.2.2, by decide +kernel⟩,
   ⟨0xBFFFFFFFFC, compatOn, [1, 2, 3, 4], compatWrite.2, by decide +kernel⟩,
   ⟨{ up with pins := { up.pins with modReady := false } }, by decide +kernel⟩,
   ⟨up, canonical_of (by decide +kernel), by decide +kernel⟩,
   ⟨up, canonical_of (by decide +kernel), by decide +kernel⟩,
   ⟨up, canonical_of (by decide +kernel), by decide +kernel⟩,
   ⟨up, canonical_of (by decide +kernel), by decide +kernel⟩,
   ⟨up, canonical_of (by decide +kernel), by decide +kernel⟩,
   ⟨up, canonical_of (by decide +kernel), by decide +kernel⟩,
   ⟨up, canonical_of (by decide +kernel), rising_of (by decide +kernel), by decide +kernel⟩⟩

theorem witness_ManagementCommandsAnswer :
    (∃ (m : Mbx) (s : Machine.State) (nonce : W128) (ok : Bool) (row : Nat × Nat × Instr), row ∈ [(1, 0, Instr.getInfo m), (2, 0, Instr.getNonce m), (3, 0, Instr.getSensors m), (257, 8, Instr.ctxCreate m), (258, 4, Instr.ctxDestroy m), (259, 16, Instr.grtAssign m), (513, 18, Instr.connCreate m), (514, 2, Instr.connDestroy m), (515, 4, Instr.nodeSet m), (769, 2, Instr.dieReset m), (770, 0, Instr.moduleReset m), (771, 2, Instr.fenceClear m), (1025, 6, Instr.setBudget m), (1027, 4, Instr.setIdle m), (1028, 5, Instr.setPace m), (1281, 1, Instr.rngTable m), (1282, 4, Instr.telPeriod m), (1283, 8, Instr.timebaseSet m), (1793, 32, Instr.ownerInstall m nonce ok), (1794, 32, Instr.keyRoll m nonce ok), (1795, 0, Instr.ownerClear m nonce ok), (1796, 32, Instr.attest m ok), (1797, 4, Instr.attestRead m), (1798, 0, Instr.getIdentity m), (2049, 4, Instr.fwBegin m ok), (2051, 0, Instr.fwCommit m ok), (2052, 0, Instr.fwActivate m nonce)] ∧ mbxHolds s (m.val) row.fst = true ∧ s.uszon.recovery = false ∧ (row.fst = 1283 → s.uszon.timeSet = none) ∧ bits (rget s Reg.mbxCmd 14 (m.val - 1)) 31 16 ≠ row.snd.fst) ∧
    (∃ (m : Mbx) (s : Machine.State) (nonce : W128) (ok : Bool) (row : Nat × Nat × Instr) (code : Nat) (x : Machine.State), row ∈ [(1, 0, Instr.getInfo m), (2, 0, Instr.getNonce m), (3, 0, Instr.getSensors m), (257, 8, Instr.ctxCreate m), (258, 4, Instr.ctxDestroy m), (259, 16, Instr.grtAssign m), (513, 18, Instr.connCreate m), (514, 2, Instr.connDestroy m), (515, 4, Instr.nodeSet m), (769, 2, Instr.dieReset m), (770, 0, Instr.moduleReset m), (771, 2, Instr.fenceClear m), (1025, 6, Instr.setBudget m), (1027, 4, Instr.setIdle m), (1028, 5, Instr.setPace m), (1281, 1, Instr.rngTable m), (1282, 4, Instr.telPeriod m), (1283, 8, Instr.timebaseSet m), (1793, 32, Instr.ownerInstall m nonce ok), (1794, 32, Instr.keyRoll m nonce ok), (1795, 0, Instr.ownerClear m nonce ok), (1796, 32, Instr.attest m ok), (1797, 4, Instr.attestRead m), (1798, 0, Instr.getIdentity m), (2049, 4, Instr.fwBegin m ok), (2051, 0, Instr.fwCommit m ok), (2052, 0, Instr.fwActivate m nonce)] ∧ mbxHolds s (m.val) row.fst = true ∧ s.uszon.recovery = false ∧ (row.fst = 1283 → s.uszon.timeSet = none) ∧ bits (rget s Reg.mbxCmd 14 (m.val - 1)) 31 16 = row.snd.fst ∧ row.fst ∈ mbxCritical ∧ mbxAuth s (m.val) row.fst row.snd.fst = (code, x) ∧ code ≠ 0) ∧
    (∃ (m : Mbx) (s : Machine.State) (b : List Byte), Admitted s m 2 false s b ∧ Canonical s ∧ b = []) ∧
    (∃ (m : Mbx) (s : Machine.State) (x : Machine.State) (b : List Byte), Admitted s m 1 false x b ∧ b = [] ∧ s.uszon.running = true) ∧
    (∃ (m : Mbx) (s : Machine.State) (x : Machine.State) (b : List Byte), Admitted s m 3 false x b ∧ b = []) ∧
    (∃ (m : Mbx) (s : Machine.State) (x : Machine.State) (b : List Byte), Admitted s m 4 true x b ∧ b.length = 8 + 8 * fld b 0 2 ∧ 1 ≤ fld b 0 2 ∧ fld b 0 2 ≤ 120 ∧ zeros b 2 6 = true ∧ (∀ (a : Nat), a ∈ telAddrs b → liveCounter s a = true) ∧ (∀ (a : Nat), a ∈ telAddrs b → rget s Reg.telShadowEpoch (bits a 39 32) = rget s Reg.telShadowEpoch (bits (nth (telAddrs b) 0) 39 32)) ∧ bit (rget s Reg.telShadowEpoch (bits (nth (telAddrs b) 0) 39 32)) 0 = true) ∧
    (∃ (m : Mbx) (s : Machine.State) (x : Machine.State) (b : List Byte), Admitted s m 771 false x b ∧ b.length = 2 ∧ fld b 0 2 < 768) ∧
    (∃ (m : Mbx) (s : Machine.State) (x : Machine.State) (b : List Byte), Admitted s m 1025 false x b ∧ Canonical x ∧ b.length = 6 ∧ (1000 ≤ fld b 0 2 ∧ fld b 0 2 ≤ 3600 ∧ fld b 4 2 ≤ fld b 2 2 ∧ fld b 2 2 ≤ fld b 0 2)) ∧
    (∃ (m : Mbx) (s : Machine.State) (x : Machine.State) (b : List Byte), Admitted s m 1025 false x b ∧ b.length = 6 ∧ (¬(1000 ≤ fld b 0 2 ∧ fld b 0 2 ≤ 3600 ∧ fld b 4 2 ≤ fld b 2 2 ∧ fld b 2 2 ≤ fld b 0 2))) ∧
    (∃ (m : Mbx) (s : Machine.State) (x : Machine.State) (b : List Byte), Admitted s m 1026 false x b ∧ Canonical s ∧ b.length = 8 + 4 * fld b 4 1 ∧ fld b 4 1 ≤ 31 ∧ zeros b 5 3 = true ∧ (∀ (n : Nat), n ∈ groupPartners b → n < 2 ^ 18)) ∧
    (∃ (m : Mbx) (s : Machine.State) (x : Machine.State) (b : List Byte), Admitted s m 1027 false x b ∧ b.length = 4 ∧ fld b 0 4 ≤ 60000) ∧
    (∃ (m : Mbx) (s : Machine.State) (x : Machine.State) (b : List Byte), Admitted s m 1028 true x b ∧ b.length = 5 ∧ paceOk (fld b 0 2) (fld b 2 2) (fld b 4 1) = true) ∧
    (∃ (m : Mbx) (s : Machine.State) (x : Machine.State) (b : List Byte), Admitted s m 1281 false x b ∧ b.length = 1 ∧ fld b 0 1 ≤ 1) ∧
    (∃ (m : Mbx) (s : Machine.State) (x : Machine.State) (b : List Byte), Admitted s m 1282 false x b ∧ b.length = 4 ∧ 100 ≤ fld b 0 4 ∧ fld b 0 4 ≤ 1000000) ∧
    (∃ (m : Mbx) (s : Machine.State) (x : Machine.State) (b : List Byte), Admitted s m 1283 false x b ∧ s.uszon.timeSet = none ∧ b.length = 8 ∧ BitVec.toNat x.master + 1000000 ≤ fld b 0 8) ∧
    (∃ (m : Mbx) (s : Machine.State) (x : Machine.State) (b : List Byte), Admitted s m 1793 false x b ∧ b.length = 32 ∧ s.flash.keys.ownerKey = none ∧ m.val < 16) ∧
    (∃ (m : Mbx) (s : Machine.State) (x : Machine.State) (b : List Byte), Admitted s m 1794 false x b ∧ b.length = 32 ∧ s.flash.keys.ownerKey ≠ none ∧ m.val < 16) ∧
    (∃ (m : Mbx) (s : Machine.State) (x : Machine.State) (b : List Byte), Admitted s m 1795 false x b ∧ b = [] ∧ s.flash.keys.ownerKey ≠ none ∧ m.val < 16) ∧
    (∃ (m : Mbx) (s : Machine.State) (x : Machine.State) (b : List Byte), Admitted s m 1796 false x b ∧ b.length = 32 ∧ s.uszon.signIndex < 2 ^ 40) ∧
    (∃ (m : Mbx) (s : Machine.State) (x : Machine.State) (b : List Byte), Admitted s m 1797 false x b ∧ b.length = 4 ∧ fld b 0 4 % 1024 = 0) ∧
    (∃ (m : Mbx) (s : Machine.State) (x : Machine.State) (b : List Byte), Admitted s m 1798 false x b ∧ b = []) ∧
    (∃ (m : Mbx) (s : Machine.State) (x : Machine.State) (b : List Byte), Admitted s m 2049 false x b ∧ b.length = 4 ∧ fld b 0 4 ≤ 1048576) ∧
    (∃ (m : Mbx) (s : Machine.State) (x : Machine.State) (b : List Byte), Admitted s m 2050 false x b ∧ b.length = 8 + fld b 4 2 ∧ 1 ≤ fld b 4 2 ∧ fld b 4 2 ≤ 1016 ∧ zeros b 6 2 = true ∧ s.uszon.fwOpen = true ∧ fld b 0 4 = s.uszon.fwReceived ∧ s.uszon.fwReceived + fld b 4 2 ≤ s.uszon.fwSize.getD 0) ∧
    (∃ (m : Mbx) (s : Machine.State) (x : Machine.State) (b : List Byte), Admitted s m 2050 false x b ∧ b.length = 8 + fld b 4 2 ∧ 1 ≤ fld b 4 2 ∧ fld b 4 2 ≤ 1016 ∧ zeros b 6 2 = true ∧ fld b 0 4 ≠ s.uszon.fwReceived) ∧
    (imgCheck (imgBytes imaged.flash.image) (storeRecord imaged).2.2 = 0 → ∃ (m : Mbx) (s : Machine.State) (x : Machine.State) (b : List Byte), Admitted s m 2051 false x b ∧ imgCheck (imgBytes x.flash.image) (storeRecord x).snd.snd = 0 ∧ b = []) ∧
    (∃ (m : Mbx) (s : Machine.State) (x : Machine.State) (b : List Byte) (ok : Bool), Admitted s m 2051 false x b ∧ (ok = false ∨ imgCheck (imgBytes x.flash.image) (storeRecord x).snd.snd ≠ 0) ∧ b = []) ∧
    (∃ (m : Mbx) (s : Machine.State) (x : Machine.State) (b : List Byte), Admitted s m 2052 false x b ∧ b = [] ∧ x.jobs.any jobRuns = true) ∧
    (∃ (m : Mbx) (s : Machine.State) (x : Machine.State) (b : List Byte), Admitted s m 2052 false x b ∧ b = [] ∧ x.jobs.any jobRuns = false) :=
  ⟨⟨31, mb 31 1 [1] up, 0, true, (1, 0, .getInfo 31), List.mem_cons_self, by decide +kernel⟩,
   ⟨31, spent, 0, true, (515, 4, .nodeSet 31), 0xF0D, spentX.2, List.mem_cons_of_mem _ (List.mem_cons_of_mem _ (List.mem_cons_of_mem _ (List.mem_cons_of_mem _ (List.mem_cons_of_mem _ (List.mem_cons_of_mem _ (List.mem_cons_of_mem _ (List.mem_cons_of_mem _ (List.mem_cons_self)))))))), by decide +kernel⟩,
   ⟨31, mb 31 2 [] up, [], ⟨by decide +kernel, by decide +kernel, by decide +kernel, by decide +kernel, by decide +kernel, by decide +kernel⟩, canonical_of (by decide +kernel), by decide +kernel⟩,
   ⟨31, mb 31 1 ([]) (up), mb 31 1 ([]) (up), [], ⟨by decide +kernel, by decide +kernel, by decide +kernel, by decide +kernel, by decide +kernel, by decide +kernel⟩, by decide +kernel⟩,
   ⟨31, mb 31 3 ([]) (up), mb 31 3 ([]) (up), [], ⟨by decide +kernel, by decide +kernel, by decide +kernel, by decide +kernel, by decide +kernel, by decide +kernel⟩, by decide +kernel⟩,
   ⟨31, mb 31 4 (capture) (rset up .telShadowEpoch 14 0 0 1), mb 31 4 (capture) (rset up .telShadowEpoch 14 0 0 1), capture, ⟨by decide +kernel, by decide +kernel, by decide +kernel, by decide +kernel, by decide +kernel, by decide +kernel⟩, by decide +kernel⟩,
   ⟨31, mb 31 771 (le 2 767) (up), mb 31 771 (le 2 767) (up), le 2 767, ⟨by decide +kernel, by decide +kernel, by decide +kernel, by decide +kernel, by decide +kernel, by decide +kernel⟩, by decide +kernel⟩,
   ⟨31, mb 31 1025 (le 2 3600 ++ le 2 3600 ++ le 2 3600) (up), mb 31 1025 (le 2 3600 ++ le 2 3600 ++ le 2 3600) (up), le 2 3600 ++ le 2 3600 ++ le 2 3600, ⟨by decide +kernel, by decide +kernel, by decide +kernel, by decide +kernel, by decide +kernel, by decide +kernel⟩, canonical_of (by decide +kernel), by decide +kernel⟩,
   ⟨31, mb 31 1025 (le 2 999 ++ le 2 1 ++ le 2 1) (up), mb 31 1025 (le 2 999 ++ le 2 1 ++ le 2 1) (up), le 2 999 ++ le 2 1 ++ le 2 1, ⟨by decide +kernel, by decide +kernel, by decide +kernel, by decide +kernel, by decide +kernel, by decide +kernel⟩, by decide +kernel⟩,
   ⟨31, mb 31 1026 (group1) (up), mb 31 1026 (group1) (up), group1, ⟨by decide +kernel, by decide +kernel, by decide +kernel, by decide +kernel, by decide +kernel, by decide +kernel⟩, canonical_of (by decide +kernel), by decide +kernel⟩,
   ⟨31, mb 31 1027 (le 4 60000) (up), mb 31 1027 (le 4 60000) (up), le 4 60000, ⟨by decide +kernel, by decide +kernel, by decide +kernel, by decide +kernel, by decide +kernel, by decide +kernel⟩, by decide +kernel⟩,
   ⟨31, mb 31 1028 (le 2 64 ++ le 2 1024 ++ [32]) (up), mb 31 1028 (le 2 64 ++ le 2 1024 ++ [32]) (up), le 2 64 ++ le 2 1024 ++ [32], ⟨by decide +kernel, by decide +kernel, by decide +kernel, by decide +kernel, by decide +kernel, by decide +kernel⟩, by decide +kernel⟩,
   ⟨31, mb 31 1281 ([1]) (up), mb 31 1281 ([1]) (up), [1], ⟨by decide +kernel, by decide +kernel, by decide +kernel, by decide +kernel, by decide +kernel, by decide +kernel⟩, by decide +kernel⟩,
   ⟨31, mb 31 1282 (le 4 1000000) (up), mb 31 1282 (le 4 1000000) (up), le 4 1000000, ⟨by decide +kernel, by decide +kernel, by decide +kernel, by decide +kernel, by decide +kernel, by decide +kernel⟩, by decide +kernel⟩,
   ⟨31, mb 31 1283 (le 8 1000000) (up), mb 31 1283 (le 8 1000000) (up), le 8 1000000, ⟨by decide +kernel, by decide +kernel, by decide +kernel, by decide +kernel, by decide +kernel, by decide +kernel⟩, by decide +kernel⟩,
   ⟨15, mb 15 1793 (List.replicate 32 7) (up), mb 15 1793 (List.replicate 32 7) (up), List.replicate 32 7, ⟨by decide +kernel, by decide +kernel, by decide +kernel, by decide +kernel, by decide +kernel, by decide +kernel⟩, by decide +kernel⟩,
   ⟨15, keyRoll1, accepted keyRoll1, key32, ⟨by decide +kernel, by decide +kernel, by decide +kernel, by decide +kernel, by decide +kernel, by decide +kernel⟩, by decide +kernel⟩,
   ⟨15, ownerClear1, accepted ownerClear1, [], ⟨by decide +kernel, by decide +kernel, by decide +kernel, by decide +kernel, by decide +kernel, by decide +kernel⟩, by decide +kernel⟩,
   ⟨31, mb 31 1796 (List.replicate 32 7) (up), mb 31 1796 (List.replicate 32 7) (up), List.replicate 32 7, ⟨by decide +kernel, by decide +kernel, by decide +kernel, by decide +kernel, by decide +kernel, by decide +kernel⟩, by decide +kernel⟩,
   ⟨31, mb 31 1797 (le 4 (2 ^ 32 - 1024)) (up), mb 31 1797 (le 4 (2 ^ 32 - 1024)) (up), le 4 (2 ^ 32 - 1024), ⟨by decide +kernel, by decide +kernel, by decide +kernel, by decide +kernel, by decide +kernel, by decide +kernel⟩, by decide +kernel⟩,
   ⟨31, mb 31 1798 ([]) (up), mb 31 1798 ([]) (up), [], ⟨by decide +kernel, by decide +kernel, by decide +kernel, by decide +kernel, by decide +kernel, by decide +kernel⟩, by decide +kernel⟩,
   ⟨31, mb 31 2049 (le 4 1048576) (up), mb 31 2049 (le 4 1048576) (up), le 4 1048576, ⟨by decide +kernel, by decide +kernel, by decide +kernel, by decide +kernel, by decide +kernel, by decide +kernel⟩, by decide +kernel⟩,
   ⟨31, mb 31 2050 (chunk 1048568) (loading1), mb 31 2050 (chunk 1048568) (loading1), chunk 1048568, ⟨by decide +kernel, by decide +kernel, by decide +kernel, by decide +kernel, by decide +kernel, by decide +kernel⟩, by decide +kernel⟩,
   ⟨31, mb 31 2050 (chunk 1048567) (loading1), mb 31 2050 (chunk 1048567) (loading1), chunk 1048567, ⟨by decide +kernel, by decide +kernel, by decide +kernel, by decide +kernel, by decide +kernel, by decide +kernel⟩, by decide +kernel⟩,
   fun hA => ⟨31, mb 31 2051 ([]) (imaged), mb 31 2051 ([]) (imaged), [], ⟨by decide +kernel, by decide +kernel, by decide +kernel, by decide +kernel, by decide +kernel, by decide +kernel⟩, hA, by decide +kernel⟩,
   ⟨31, mb 31 2051 ([]) (imaged), mb 31 2051 ([]) (imaged), [], false, ⟨by decide +kernel, by decide +kernel, by decide +kernel, by decide +kernel, by decide +kernel, by decide +kernel⟩, .inl rfl, by decide +kernel⟩,
   ⟨31, mb 31 2052 ([]) (whole), mb 31 2052 ([]) (whole), [], ⟨by decide +kernel, by decide +kernel, by decide +kernel, by decide +kernel, by decide +kernel, by decide +kernel⟩, by decide +kernel⟩,
   ⟨31, mb 31 2052 ([]) (up), mb 31 2052 ([]) (up), [], ⟨by decide +kernel, by decide +kernel, by decide +kernel, by decide +kernel, by decide +kernel, by decide +kernel⟩, by decide +kernel⟩⟩

theorem witness_UszonObjectsFaultsAndSideband :
    (∃ (m : Mbx) (s : Machine.State) (x : Machine.State) (b : List Byte) (n : Nat), Admitted s m 257 true x b ∧ Canonical s ∧ b.length = 8 ∧ fld b 0 8 < 2 ^ 36 ∧ List.find? (slotFree s) (List.range 64) = some n) ∧
    (∃ (m : Mbx) (s : Machine.State) (x : Machine.State) (b : List Byte), Admitted s m 257 true x b ∧ b.length = 8 ∧ fld b 0 8 < 2 ^ 36 ∧ List.find? (slotFree s) (List.range 64) = none) ∧
    (∃ (m : Mbx) (s : Machine.State) (x : Machine.State) (b : List Byte), Admitted s m 258 true x b ∧ b.length = 4 ∧ fld b 0 1 < 64 ∧ zeros b 1 1 = true ∧ ctxCurrent s 0 (fld b 0 1) (fld b 2 2) = true) ∧
    (∃ (m : Mbx) (s : Machine.State) (x : Machine.State) (b : List Byte), Admitted s m 258 true x b ∧ b.length = 4 ∧ fld b 0 1 < 64 ∧ zeros b 1 1 = true ∧ ctxCurrent s 0 (fld b 0 1) (fld b 2 2) = false) ∧
    (∃ (m : Mbx) (s : Machine.State) (x : Machine.State) (b : List Byte), Admitted s m 259 true x b ∧ s.grottos.rising ∧ b.length = 16 ∧ fld b 0 1 ≤ 5 ∧ dieActive s (fld b 0 1) = true ∧ (fld b 1 1 = 255 ∨ fld b 1 1 < 64 ∧ ctxCurrent s 0 (fld b 1 1) (fld b 2 2) = true)) ∧
    (∃ (m : Mbx) (s : Machine.State) (x : Machine.State) (b : List Byte), Admitted s m 513 true x b ∧ Canonical s ∧ b.length = 18 ∧ fld b 0 2 < 8192 ∧ fld b 2 1 < 64 ∧ fld b 7 1 < 32 ∧ fld b 8 1 < 64 ∧ fld b 9 1 ≤ 1 ∧ fld b 12 4 < 2 ^ 18 ∧ fld b 16 2 < 8192 ∧ zeros b 3 1 = true ∧ zeros b 10 2 = true ∧ ctxCurrent s 0 (fld b 2 1) (fld b 4 2) = false) ∧
    (∃ (m : Mbx) (s : Machine.State) (x : Machine.State) (b : List Byte), Admitted s m 513 true x b ∧ Canonical s ∧ b.length = 18 ∧ fld b 0 2 < 8192 ∧ fld b 2 1 < 64 ∧ fld b 7 1 < 32 ∧ fld b 8 1 < 64 ∧ fld b 9 1 ≤ 1 ∧ fld b 12 4 < 2 ^ 18 ∧ fld b 16 2 < 8192 ∧ zeros b 3 1 = true ∧ zeros b 10 2 = true ∧ ctxCurrent s 0 (fld b 2 1) (fld b 4 2) = true ∧ dieActive s (connDie (fld b 0 2)) = true ∧ connF s (fld b 0 2) 63 63 = 0) ∧
    (∃ (m : Mbx) (s : Machine.State) (x : Machine.State) (b : List Byte), Admitted s m 514 true x b ∧ Canonical s ∧ b.length = 2 ∧ fld b 0 2 < 8192) ∧
    (∃ (m : Mbx) (s : Machine.State) (x : Machine.State) (b : List Byte), Admitted s m 515 true x b ∧ b.length = 4 ∧ fld b 0 4 < 2 ^ 18 ∧ portsDisabled x = false) ∧
    (∃ (m : Mbx) (s : Machine.State) (x : Machine.State) (b : List Byte), Admitted s m 515 true x b ∧ Canonical x ∧ b.length = 4 ∧ fld b 0 4 < 2 ^ 18 ∧ portsDisabled x = true) ∧
    (∃ (m : Mbx) (s : Machine.State) (x : Machine.State) (b : List Byte), Admitted s m 516 true x b ∧ Canonical s ∧ b.length = 8 + 8 * fld b 4 2 ∧ fld b 0 1 ≤ 1 ∧ 1 ≤ fld b 4 2 ∧ fld b 4 2 ≤ 64 ∧ fld b 2 2 + fld b 4 2 ≤ 512 ∧ zeros b 1 1 = true ∧ zeros b 6 2 = true) ∧
    (∃ (m : Mbx) (s : Machine.State) (x : Machine.State) (b : List Byte) (code : Nat) (y : Machine.State), Admitted s m 769 true x b ∧ b.length = 2 ∧ dieAction x (fld b 1 1) (fld b 0 1) = (code, y) ∧ code ≠ 0 ∧ mbxState y m.val = mbBusy) ∧
    (∃ (m : Mbx) (s : Machine.State) (x : Machine.State) (b : List Byte) (code : Nat) (y : Machine.State), Admitted s m 769 true x b ∧ dieAction x (fld b 1 1) (fld b 0 1) = (code, y) ∧ b.length = 2 ∧ code = 0 ∧ fld b 1 1 ∈ [1, 2, 3] ∧ mbxState y m.val = mbBusy) ∧
    (∃ (m : Mbx) (s : Machine.State) (x : Machine.State) (b : List Byte), Admitted s m 770 false x b ∧ b = [] ∧ (aboveRelease x = true ∨ x.pins.pwrEn = false ∨ x.pins.modResetN = false)) ∧
    (∃ (m : Mbx) (s : Machine.State) (x : Machine.State) (b : List Byte), Admitted s m 770 false x b ∧ b = [] ∧ aboveRelease x = false ∧ x.pins.pwrEn = true ∧ x.pins.modResetN = true) ∧
    (∃ (m : Mbx) (s : Machine.State) (p : PendB) (code : Nat) (resp : List Byte), mfind s.uszon.pendingB m.val = some p ∧ p.op ≠ 258 ∧ pendingDone s p = some (code, resp)) ∧
    (∃ (m : Mbx) (s : Machine.State) (p : PendB) (code : Nat) (resp : List Byte), mfind s.uszon.pendingB m.val = some p ∧ p.op = 258 ∧ destroyWaits s (m.val) p = false ∧ pendingDone s p = some (code, resp)) ∧
    (∃ (m : Mbx) (s : Machine.State) (p : PendB), mfind s.uszon.pendingB m.val = some p ∧ p.op = 258 ∧ destroyWaits s (m.val) p = true) ∧
    (∃ (m : Mbx) (s : Machine.State) (p : PendB), mfind s.uszon.pendingB m.val = some p ∧ p.op ≠ 258 ∧ pendingDone s p = none) ∧
    (∃ (e : FaultEvent) (rest : List FaultEvent) (s : Machine.State), Canonical s ∧ s.uszon.running = true ∧ s.uszon.faults = e :: rest) ∧
    (∃ (a : Agent), (a = Agent.host ∨ a = Agent.uszon ∨ ∃ (n : Fin 128), a = Agent.core n)) ∧
    (∃ (a : Agent), (a = Agent.i3c ∨ a = Agent.mctp)) ∧
    (∃ (tick : W64) (s : Machine.State), Canonical s ∧ s.pins.aux = true ∧ s.pins.auxReset = false ∧ BitVec.toNat tick = nextBoundary s ∧ stepDue s (BitVec.toNat tick) = false) ∧
    (∃ (tick : W64) (s : Machine.State), s.pins.aux = true ∧ s.pins.auxReset = false ∧ BitVec.toNat tick ≠ nextBoundary s) ∧
    (∃ (s : Machine.State), s.pins.aux = true ∧ s.pins.auxReset = false) ∧
    (∃ (s : Machine.State), s.pins.aux = true ∧ s.pins.auxReset = false ∧ s.side.i3cAddr.isSome = true) ∧
    (∃ (s : Machine.State) (o : BitVec 16) (r : Reg) (i : Nat) (j : Nat), s.pins.aux = true ∧ s.pins.auxReset = false ∧ s.side.i3cAddr.isSome = true ∧ s.side.i3cPart = [] ∧ o.toNat % 8 = 0 ∧ o.toNat < 2048 ∧ regAt 14 (134217728 + 2048 * 31 + o.toNat) = some (r, i, j)) ∧
    (∃ (s : Machine.State) (body : List Byte), Canonical s ∧ s.host.linkUp = true ∧ 32 ≤ body.length ∧ mbxState s 30 ∈ [mbIdle, mbDone] ∧ fld body 0 2 ∈ mbxOpcodes) ∧
    (∃ (s : Machine.State) (body : List Byte), s.host.linkUp = true ∧ 32 ≤ body.length ∧ mbxState s 30 ∈ [mbBusy, mbPending]) ∧
    (∃ (s : Machine.State), s.host.linkUp = true) ∧
    (∃ (s : Machine.State) (eid : Byte), s.host.linkUp = true ∧ eid ≠ 0 ∧ eid ≠ 255) ∧
    (∃ (s : Machine.State) (t : Byte), s.host.linkUp = true ∧ t ∈ [0, 255, 126]) :=
  ⟨⟨31, at31 257 (le 8 (2 ^ 36 - 1)) (ctxs 63), at31 257 (le 8 (2 ^ 36 - 1)) (ctxs 63), le 8 (2 ^ 36 - 1), 63, ⟨by decide +kernel, by decide +kernel, by decide +kernel, by decide +kernel, by decide +kernel, by decide +kernel⟩, canonical_of (by decide +kernel), by decide +kernel⟩,
   ⟨31, at31 257 (le 8 (2 ^ 36 - 1)) (ctxs 64), at31 257 (le 8 (2 ^ 36 - 1)) (ctxs 64), le 8 (2 ^ 36 - 1), ⟨by decide +kernel, by decide +kernel, by decide +kernel, by decide +kernel, by decide +kernel, by decide +kernel⟩, by decide +kernel⟩,
   ⟨31, at31 258 ([63, 0] ++ le 2 0xFFFF) (inCtx63), at31 258 ([63, 0] ++ le 2 0xFFFF) (inCtx63), [63, 0] ++ le 2 0xFFFF, ⟨by decide +kernel, by decide +kernel, by decide +kernel, by decide +kernel, by decide +kernel, by decide +kernel⟩, by decide +kernel⟩,
   ⟨31, at31 258 ([63, 0] ++ le 2 0xFFFE) (inCtx63), at31 258 ([63, 0] ++ le 2 0xFFFE) (inCtx63), [63, 0] ++ le 2 0xFFFE, ⟨by decide +kernel, by decide +kernel, by decide +kernel, by decide +kernel, by decide +kernel, by decide +kernel⟩, by decide +kernel⟩,
   ⟨31, at31 259 ([5, 63] ++ le 2 0xFFFF ++ List.replicate 12 255) (inCtx63), at31 259 ([5, 63] ++ le 2 0xFFFF ++ List.replicate 12 255) (inCtx63), [5, 63] ++ le 2 0xFFFF ++ List.replicate 12 255, ⟨by decide +kernel, by decide +kernel, by decide +kernel, by decide +kernel, by decide +kernel, by decide +kernel⟩, rising_of (by decide +kernel), by decide +kernel⟩,
   ⟨31, at31 513 (connReq) (up), at31 513 (connReq) (up), connReq, ⟨by decide +kernel, by decide +kernel, by decide +kernel, by decide +kernel, by decide +kernel, by decide +kernel⟩, canonical_of (by decide +kernel), by decide +kernel⟩,
   ⟨31, at31 513 (connReq) (inCtx63), at31 513 (connReq) (inCtx63), connReq, ⟨by decide +kernel, by decide +kernel, by decide +kernel, by decide +kernel, by decide +kernel, by decide +kernel⟩, canonical_of (by decide +kernel), by decide +kernel⟩,
   ⟨31, at31 514 (le 2 8191) (up), at31 514 (le 2 8191) (up), le 2 8191, ⟨by decide +kernel, by decide +kernel, by decide +kernel, by decide +kernel, by decide +kernel, by decide +kernel⟩, canonical_of (by decide +kernel), by decide +kernel⟩,
   ⟨31, at31 515 (le 4 (2 ^ 18 - 1)) (portIn 3), at31 515 (le 4 (2 ^ 18 - 1)) (portIn 3), le 4 (2 ^ 18 - 1), ⟨by decide +kernel, by decide +kernel, by decide +kernel, by decide +kernel, by decide +kernel, by decide +kernel⟩, by decide +kernel⟩,
   ⟨31, at31 515 (le 4 (2 ^ 18 - 1)) (up), at31 515 (le 4 (2 ^ 18 - 1)) (up), le 4 (2 ^ 18 - 1), ⟨by decide +kernel, by decide +kernel, by decide +kernel, by decide +kernel, by decide +kernel, by decide +kernel⟩, canonical_of (by decide +kernel), by decide +kernel⟩,
   ⟨31, at31 516 (routesReq) (up), at31 516 (routesReq) (up), routesReq, ⟨by decide +kernel, by decide +kernel, by decide +kernel, by decide +kernel, by decide +kernel, by decide +kernel⟩, canonical_of (by decide +kernel), by decide +kernel⟩,
   ⟨31, at31 769 ([14, 3]) (up), at31 769 ([14, 3]) (up), [14, 3], 0xD82, at31 769 [14, 3] up, ⟨by decide +kernel, by decide +kernel, by decide +kernel, by decide +kernel, by decide +kernel, by decide +kernel⟩, by decide +kernel⟩,
   ⟨31, at31 769 ([13, 1]) (heldDie), at31 769 ([13, 1]) (heldDie), [13, 1], 0, resetX.2, ⟨by decide +kernel, by decide +kernel, by decide +kernel, by decide +kernel, by decide +kernel, by decide +kernel⟩, pair_of (p := resetX) (by decide +kernel), by decide +kernel⟩,
   ⟨31, at31 770 ([]) (off), at31 770 ([]) (off), [], ⟨by decide +kernel, by decide +kernel, by decide +kernel, by decide +kernel, by decide +kernel, by decide +kernel⟩, by decide +kernel⟩,
   ⟨31, at31 770 ([]) (up), at31 770 ([]) (up), [], ⟨by decide +kernel, by decide +kernel, by decide +kernel, by decide +kernel, by decide +kernel, by decide +kernel⟩, by decide +kernel⟩,
   ⟨31, pendingSt ⟨0x302, 0, none⟩, ⟨0x302, 0, none⟩, 0, [], by decide +kernel⟩,
   ⟨31, destroying, ⟨258, 63 + 256 * 0xFFFF, none⟩, 0, [], by decide +kernel⟩,
   ⟨31, { up with uszon := { up.uszon with pendingB := [(30, ⟨258, 63, none⟩), (31, ⟨258, 63, none⟩)], order := [30, 31] } }, ⟨258, 63, none⟩, by decide +kernel⟩,
   ⟨31, pendingSt ⟨0x301, 256 + 5, none⟩, ⟨0x301, 256 + 5, none⟩, by decide +kernel⟩,
   ⟨⟨0x841, 27, 3, 1, 2⟩, [], { up with uszon := { up.uszon with faults := [⟨0x841, 27, 3, 1, 2⟩] } }, canonical_of (by decide +kernel), by decide +kernel⟩,
   ⟨.core 127, .inr (.inr ⟨127, rfl⟩)⟩,
   ⟨.mctp, .inr rfl⟩,
   ⟨BitVec.ofNat 64 (nextBoundary up), up, canonical_of (by decide +kernel), by decide +kernel⟩,
   ⟨2 ^ 64 - 1, up, by decide +kernel⟩,
   ⟨off, by decide +kernel⟩,
   ⟨i3cOn, by decide +kernel⟩,
   ⟨i3cOn, 0x7F8, .mbxBuf, 30, 127, by decide +kernel⟩,
   ⟨rfset up .mbxStatus 14 29 0 3 0 1, mctpBody 0x804, canonical_of (by decide +kernel), by decide +kernel⟩,
   ⟨rfset up .mbxStatus 14 29 0 3 0 3, List.replicate 32 0, by decide +kernel⟩,
   ⟨up, by decide +kernel⟩,
   ⟨up, 254, by decide +kernel⟩,
   ⟨up, 126, by decide +kernel⟩⟩

/-- The cases of an attempt: a set in common, masks that differ where one end keeps its set, and no module in common. -/
theorem witness_LinksTrainMismatchAndFence_attempts :
    (∃ s, mayTrain s 5 4 = true ∧ (lk s 5 4).fresh = true ∧ (lk s 15 1).fresh = true ∧
      (identityOf s 5 4 8).mask &&& (identityOf s 15 1 15).mask ≠ 0) ∧
    (∃ s, LinkSpare s 5 4 ∧ mayTrain s 5 4 = true ∧ (lk s 5 4).fresh = false ∧ lkF s 5 4 17 16 ≤ 2 ∧ lkF s 15 1 17 16 ≤ 2 ∧
      (identityOf s 5 4 15).mask ≠ (identityOf s 15 1 8).mask) ∧
    (∃ s, LinkSpare s 5 4 ∧ mayTrain s 5 4 = true ∧ (lk s 5 4).fresh = true ∧ (lk s 15 1).fresh = true ∧ (lk s 5 4).fails < 2 ∧
      (identityOf s 5 4 8).mask &&& (identityOf s 15 1 7).mask = 0) :=
  ⟨⟨linkIn lkDown [], by decide +kernel⟩,
   ⟨linkIn lkRetraining [(lkKey 5 4, keptLink)], linkSpare_of (by decide +kernel), by decide +kernel⟩,
   ⟨linkIn lkTraining [], linkSpare_of (by decide +kernel), by decide +kernel⟩⟩
/-! ### R530 -/

def r530 : State :=
  rset (mb 3 0x0401 (le 2 3400 ++ le 2 3000 ++ le 2 2400)
    { up with uszon := { up.uszon with nonce := BitVec.ofNat 128 (ofBytes [0x9C, 0x41, 0x7E, 0x02, 0xD3, 0x5B, 0x10, 0xA8, 0x66, 0xF0, 0x21, 0x4C, 0x9E, 0x07, 0xB3, 0x18]) } })
    .mbxAuthCtr 14 2 0 42
/-- R530: the 35 bytes that the tag of SET_BUDGET covers. -/
theorem test_r530_message :
    mbxTagged r530 3 0x0401 6 =
      [0x01, 0x04, 0x03, 0x06, 0x00, 0x48, 0x0D, 0xB8, 0x0B, 0x60, 0x09, 0x2A, 0, 0, 0, 0, 0, 0, 0,
       0x9C, 0x41, 0x7E, 0x02, 0xD3, 0x5B, 0x10, 0xA8, 0x66, 0xF0, 0x21, 0x4C, 0x9E, 0x07, 0xB3, 0x18] := by decide +kernel

end Sys2Proof.Tests
end

/-!
SUPPORT. Every command keeps the canonical form of memory and of the registers, the queue and the counters (`Keeps`), so every step
keeps the canonical form (R8, R12, R34).
-/
namespace Sys2Proof.Machine

/-- What `Keeps` says holds between a state and the one in which a command completes: the dispatch of `exec`, arm by arm. -/
theorem keeps_exec (c : Instr) (s : State) : ∀ u, exec c s = .next u → Keeps s u := by
  cases c with
  | auxPowerApply nonce pwrEn modResetN => exact keeps_execAuxPowerApply nonce pwrEn modResetN (Keeps.refl s)
  | auxResetRelease straps sa => exact keeps_execAuxResetRelease straps sa (Keeps.refl s)
  | auxPowerRemove => exact keeps_execAuxPowerRemove (Keeps.refl s)
  | pwrEnAssert => exact keeps_execPwrEnAssert (Keeps.refl s)
  | railsGood compat => exact keeps_execRailsGood compat (Keeps.refl s)
  | mainStartup r => exact keeps_execMainStartup r (Keeps.refl s)
  | pwrEnDeassert => exact keeps_execPwrEnDeassert (Keeps.refl s)
  | modResetNAssert => exact keeps_execModResetNAssert (Keeps.refl s)
  | modResetNDeassert => exact keeps_execModResetNDeassert (Keeps.refl s)
  | perstNAssert compat => exact keeps_execPerstNAssert compat (Keeps.refl s)
  | perstNDeassert => exact keeps_execPerstNDeassert (Keeps.refl s)
  | hostPortLost why compat => exact keeps_execHostPortLost why compat (Keeps.refl s)
  | dlkCoreReleaseWrite a p v => exact keeps_execDlkCoreReleaseWrite a p v (Keeps.refl s)
  | jtagInstruction op => exact keeps_execJtagInstruction op (Keeps.refl s)
  | registerWrite a addr size v => exact keeps_execRegisterWrite a addr size v (Keeps.refl s)
  | timebaseSync d => exact keeps_execTimebaseSync d (Keeps.refl s)
  | islandClockLoss d n => exact keeps_execIslandClockLoss d n (Keeps.refl s)
  | heartbeatMissed d => exact keeps_execHeartbeatMissed d (Keeps.refl s)
  | cDieLoss k why => exact keeps_execCDieLoss k why (Keeps.refl s)
  | mLinkSwitch k => exact keeps_execMLinkSwitch k (Keeps.refl s)
  | lostDieTilesFenced k => exact keeps_execLostDieTilesFenced k (Keeps.refl s)
  | lDieLoss l why => exact keeps_execLDieLoss l why (Keeps.refl s)
  | fatalLoss d why => exact keeps_execFatalLoss d why (Keeps.refl s)
  | dieRejoin d r => exact keeps_execDieRejoin d r (Keeps.refl s)
  | dieRejoinFailed d => exact keeps_execDieRejoinFailed d (Keeps.refl s)
  | lDieRejoinOnCActive l => exact keeps_execLDieRejoinOnCActive l (Keeps.refl s)
  | dieActionResetHold a index => exact keeps_execDieActionResetHold a index (Keeps.refl s)
  | dieActionRejoin a index => exact keeps_execDieActionRejoin a index (Keeps.refl s)
  | dieActionResetRejoin a index => exact keeps_execDieActionResetRejoin a index (Keeps.refl s)
  | nop t g w => exact keeps_execNop t g w (Keeps.refl s)
  | mov t g w => exact keeps_execMov t g w (Keeps.refl s)
  | movi t g w => exact keeps_execMovi t g w (Keeps.refl s)
  | movl t g w => exact keeps_execMovl t g w (Keeps.refl s)
  | add iform t g w => exact keeps_execAdd iform t g w (Keeps.refl s)
  | sub iform t g w => exact keeps_execSub iform t g w (Keeps.refl s)
  | mulLo iform t g w => exact keeps_execMulLo iform t g w (Keeps.refl s)
  | mulHi t g w => exact keeps_execMulHi t g w (Keeps.refl s)
  | mad t g w => exact keeps_execMad t g w (Keeps.refl s)
  | min iform t g w => exact keeps_execMin iform t g w (Keeps.refl s)
  | max iform t g w => exact keeps_execMax iform t g w (Keeps.refl s)
  | and iform t g w => exact keeps_execAnd iform t g w (Keeps.refl s)
  | or iform t g w => exact keeps_execOr iform t g w (Keeps.refl s)
  | xor iform t g w => exact keeps_execXor iform t g w (Keeps.refl s)
  | not iform t g w => exact keeps_execNot iform t g w (Keeps.refl s)
  | shl iform t g w => exact keeps_execShl iform t g w (Keeps.refl s)
  | shr iform t g w => exact keeps_execShr iform t g w (Keeps.refl s)
  | sra iform t g w => exact keeps_execSra iform t g w (Keeps.refl s)
  | popc t g w => exact keeps_execPopc t g w (Keeps.refl s)
  | clz t g w => exact keeps_execClz t g w (Keeps.refl s)
  | brev t g w => exact keeps_execBrev t g w (Keeps.refl s)
  | bfe t g w => exact keeps_execBfe t g w (Keeps.refl s)
  | bfi t g w => exact keeps_execBfi t g w (Keeps.refl s)
  | pcmp rel t g w => exact keeps_execPcmp rel t g w (Keeps.refl s)
  | sel t g w => exact keeps_execSel t g w (Keeps.refl s)
  | plog t g w => exact keeps_execPlog t g w (Keeps.refl s)
  | fadd iform t g w => exact keeps_execFadd iform t g w (Keeps.refl s)
  | fsub iform t g w => exact keeps_execFsub iform t g w (Keeps.refl s)
  | fmul iform t g w => exact keeps_execFmul iform t g w (Keeps.refl s)
  | fma iform t g w => exact keeps_execFma iform t g w (Keeps.refl s)
  | fmin t g w => exact keeps_execFmin t g w (Keeps.refl s)
  | fmax t g w => exact keeps_execFmax t g w (Keeps.refl s)
  | rcp t g w => exact keeps_execRcp t g w (Keeps.refl s)
  | rsqrt t g w => exact keeps_execRsqrt t g w (Keeps.refl s)
  | sqrt t g w => exact keeps_execSqrt t g w (Keeps.refl s)
  | exp2 t g w => exact keeps_execExp2 t g w (Keeps.refl s)
  | log2 t g w => exact keeps_execLog2 t g w (Keeps.refl s)
  | sin t g w => exact keeps_execSin t g w (Keeps.refl s)
  | cos t g w => exact keeps_execCos t g w (Keeps.refl s)
  | cvt t g w => exact keeps_execCvt t g w (Keeps.refl s)
  | vote t g w => exact keeps_execVote t g w (Keeps.refl s)
  | shfl iform t g w => exact keeps_execShfl iform t g w (Keeps.refl s)
  | rdlane iform t g w => exact keeps_execRdlane iform t g w (Keeps.refl s)
  | rdsr t g w => exact keeps_execRdsr t g w (Keeps.refl s)
  | ld t g w => exact keeps_execLd t g w (Keeps.refl s)
  | st t g w => exact keeps_execSt t g w (Keeps.refl s)
  | atom t g w => exact keeps_execAtom t g w (Keeps.refl s)
  | pf t g w => exact keeps_execPf t g w (Keeps.refl s)
  | br t g w => exact keeps_execBr t g w (Keeps.refl s)
  | jmp t g w => exact keeps_execJmp t g w (Keeps.refl s)
  | call t g w => exact keeps_execCall t g w (Keeps.refl s)
  | ret t g w => exact keeps_execRet t g w (Keeps.refl s)
  | exit t g w => exact keeps_execExit t g w (Keeps.refl s)
  | trap t g w => exact keeps_execTrap t g w (Keeps.refl s)
  | bar t g w => exact keeps_execBar t g w (Keeps.refl s)
  | barDeadlock t => exact keeps_execBarDeadlock t (Keeps.refl s)
  | fenceGroup t g w => exact keeps_execFenceGroup t g w (Keeps.refl s)
  | fenceTile t g w => exact keeps_execFenceTile t g w (Keeps.refl s)
  | fenceDie t g w => exact keeps_execFenceDie t g w (Keeps.refl s)
  | fenceDevice t g w => exact keeps_execFenceDevice t g w (Keeps.refl s)
  | fenceSys t g w => exact keeps_execFenceSys t g w (Keeps.refl s)
  | tilePreciseFault t g w => exact keeps_execTilePreciseFault t g w (Keeps.refl s)
  | tileWatchdogExpiry t => exact keeps_execTileWatchdogExpiry t (Keeps.refl s)
  | tileUncorrectable t => exact keeps_execTileUncorrectable t (Keeps.refl s)
  | mma t g w => exact keeps_execMma t g w (Keeps.refl s)
  | mmas t g w => exact keeps_execMmas t g w (Keeps.refl s)
  | mtxZero t g w => exact keeps_execMtxZero t g w (Keeps.refl s)
  | mtxRd t g w => exact keeps_execMtxRd t g w (Keeps.refl s)
  | mtxWr t g w => exact keeps_execMtxWr t g w (Keeps.refl s)
  | mtxWait t g w => exact keeps_execMtxWait t g w (Keeps.refl s)
  | matrixEngineStart t e => exact keeps_execMatrixEngineStart t e (Keeps.refl s)
  | matrixInstrComplete t e => exact keeps_execMatrixInstrComplete t e (Keeps.refl s)
  | engineCold t e => exact keeps_execEngineCold t e (Keeps.refl s)
  | pacedStart t e => exact keeps_execPacedStart t e (Keeps.refl s)
  | flsIssue t g w => exact keeps_execFlsIssue t g w (Keeps.refl s)
  | flsWait t g w => exact keeps_execFlsWait t g w (Keeps.refl s)
  | flsStat t g w => exact keeps_execFlsStat t g w (Keeps.refl s)
  | flsCommandStart t => exact keeps_execFlsCommandStart t (Keeps.refl s)
  | flsCommandComplete t => exact keeps_execFlsCommandComplete t (Keeps.refl s)
  | flsStatWrite a t g v => exact keeps_execFlsStatWrite a t g v (Keeps.refl s)
  | mergeEntryIdleDrain t line => exact keeps_execMergeEntryIdleDrain t line (Keeps.refl s)
  | l1Inv a t v => exact keeps_execL1Inv a t v (Keeps.refl s)
  | l1cCtlEnableWrite a t v => exact keeps_execL1cCtlEnableWrite a t v (Keeps.refl s)
  | l1FillArrive t line => exact keeps_execL1FillArrive t line (Keeps.refl s)
  | dccAccess k n ecc => exact keeps_execDccAccess k n ecc (Keeps.refl s)
  | dccFillArrive k line => exact keeps_execDccFillArrive k line (Keeps.refl s)
  | dccInv a k v => exact keeps_execDccInv a k v (Keeps.refl s)
  | dccClean a k v => exact keeps_execDccClean a k v (Keeps.refl s)
  | dccCleanInv a k v => exact keeps_execDccCleanInv a k v (Keeps.refl s)
  | dccPreload a k v => exact keeps_execDccPreload a k v (Keeps.refl s)
  | dccZero a k v => exact keeps_execDccZero a k v (Keeps.refl s)
  | dccInvSw a k v => exact keeps_execDccInvSw a k v (Keeps.refl s)
  | dccCleanSw a k v => exact keeps_execDccCleanSw a k v (Keeps.refl s)
  | dccCleanInvSw a k v => exact keeps_execDccCleanInvSw a k v (Keeps.refl s)
  | dccInvAll a k v => exact keeps_execDccInvAll a k v (Keeps.refl s)
  | dccMaintComplete k => exact keeps_execDccMaintComplete k (Keeps.refl s)
  | dccCtlWrite a k v => exact keeps_execDccCtlWrite a k v (Keeps.refl s)
  | dccLockWrite a k v => exact keeps_execDccLockWrite a k v (Keeps.refl s)
  | grtOwnerWrite a k m v => exact keeps_execGrtOwnerWrite a k m v (Keeps.refl s)
  | granuleOwnerEffect k gr => exact keeps_execGranuleOwnerEffect k gr (Keeps.refl s)
  | grottoApertureAccess who k off acc => exact keeps_execGrottoApertureAccess who k off acc (Keeps.refl s)
  | grtQcfgWrite a k n v => exact keeps_execGrtQcfgWrite a k n v (Keeps.refl s)
  | grtDoorbell q => exact keeps_execGrtDoorbell q (Keeps.refl s)
  | descriptorStart q => exact keeps_execDescriptorStart q (Keeps.refl s)
  | waitReevaluate q => exact keeps_execWaitReevaluate q (Keeps.refl s)
  | descriptorComplete q => exact keeps_execDescriptorComplete q (Keeps.refl s)
  | collContribution k n => exact keeps_execCollContribution k n (Keeps.refl s)
  | collTimeout k slot => exact keeps_execCollTimeout k slot (Keeps.refl s)
  | hlxSendRecord k n => exact keeps_execHlxSendRecord k n (Keeps.refl s)
  | decoderBindingEffect k quad stream => exact keeps_execDecoderBindingEffect k quad stream (Keeps.refl s)
  | drpRngCfgWrite a k v => exact keeps_execDrpRngCfgWrite a k v (Keeps.refl s)
  | drpTableApply k => exact keeps_execDrpTableApply k (Keeps.refl s)
  | homeRead h n => exact keeps_execHomeRead h n (Keeps.refl s)
  | homeWrite h n => exact keeps_execHomeWrite h n (Keeps.refl s)
  | stackReadReturn h n e => exact keeps_execStackReadReturn h n e (Keeps.refl s)
  | sumpIdleWriteback h line e => exact keeps_execSumpIdleWriteback h line e (Keeps.refl s)
  | sumpDrainRange h a v => exact keeps_execSumpDrainRange h a v (Keeps.refl s)
  | sumpDrainAll h a v => exact keeps_execSumpDrainAll h a v (Keeps.refl s)
  | sumpDrainComplete h => exact keeps_execSumpDrainComplete h (Keeps.refl s)
  | amuAtomic h n e => exact keeps_execAmuAtomic h n e (Keeps.refl s)
  | memScrub h corrected bad => exact keeps_execMemScrub h corrected bad (Keeps.refl s)
  | memTempRead h celsius => exact keeps_execMemTempRead h celsius (Keeps.refl s)
  | memPeriodicRetrain h => exact keeps_execMemPeriodicRetrain h (Keeps.refl s)
  | memCfgWrite h a v => exact keeps_execMemCfgWrite h a v (Keeps.refl s)
  | rdShared req line => exact keeps_execRdShared req line (Keeps.refl s)
  | rdUnique req line => exact keeps_execRdUnique req line (Keeps.refl s)
  | upgrade req line => exact keeps_execUpgrade req line (Keeps.refl s)
  | cleanToHome req line => exact keeps_execCleanToHome req line (Keeps.refl s)
  | flushToHome req line => exact keeps_execFlushToHome req line (Keeps.refl s)
  | wbDirty req line stores => exact keeps_execWbDirty req line stores (Keeps.refl s)
  | amoFar req line => exact keeps_execAmoFar req line (Keeps.refl s)
  | ncRead line n => exact keeps_execNcRead line n (Keeps.refl s)
  | ncWrite line n => exact keeps_execNcWrite line n (Keeps.refl s)
  | ncAtomic line n => exact keeps_execNcAtomic line n (Keeps.refl s)
  | snpShared ag line stores evicting => exact keeps_execSnpShared ag line stores evicting (Keeps.refl s)
  | snpUnique ag line stores evicting => exact keeps_execSnpUnique ag line stores evicting (Keeps.refl s)
  | snpInv ag line stores evicting => exact keeps_execSnpInv ag line stores evicting (Keeps.refl s)
  | snpClean ag line stores evicting => exact keeps_execSnpClean ag line stores evicting (Keeps.refl s)
  | snoopHoldExpiry at_ line stores => exact keeps_execSnoopHoldExpiry at_ line stores (Keeps.refl s)
  | rspAbsent by_ line => exact keeps_execRspAbsent by_ line (Keeps.refl s)
  | rspClean by_ line => exact keeps_execRspClean by_ line (Keeps.refl s)
  | rspData by_ line => exact keeps_execRspData by_ line (Keeps.refl s)
  | rspWbInFlight by_ line => exact keeps_execRspWbInFlight by_ line (Keeps.refl s)
  | grant ag line => exact keeps_execGrant ag line (Keeps.refl s)
  | wbAck ag line => exact keeps_execWbAck ag line (Keeps.refl s)
  | cmoAck ag line => exact keeps_execCmoAck ag line (Keeps.refl s)
  | performedVisible n => exact keeps_execPerformedVisible n (Keeps.refl s)
  | amoResult c => exact keeps_execAmoResult c (Keeps.refl s)
  | coreAmo c op => exact keeps_execCoreAmo c op (Keeps.refl s)
  | cohAmoClear a p v => exact keeps_execCohAmoClear a p v (Keeps.refl s)
  | snoopTimeout agent line => exact keeps_execSnoopTimeout agent line (Keeps.refl s)
  | dirUncorrectable h line => exact keeps_execDirUncorrectable h line (Keeps.refl s)
  | jobSubmit a k q v => exact keeps_execJobSubmit a k q v (Keeps.refl s)
  | jobTake k => exact keeps_execJobTake k (Keeps.refl s)
  | jobTilesReserved j => exact keeps_execJobTilesReserved j (Keeps.refl s)
  | jobWaitPriority j => exact keeps_execJobWaitPriority j (Keeps.refl s)
  | groupLaunch j rank => exact keeps_execGroupLaunch j rank (Keeps.refl s)
  | jobComplete j => exact keeps_execJobComplete j (Keeps.refl s)
  | jobQcfgWrite a k q v => exact keeps_execJobQcfgWrite a k q v (Keeps.refl s)
  | jobAbort a k v => exact keeps_execJobAbort a k v (Keeps.refl s)
  | jobPreempt a k v => exact keeps_execJobPreempt a k v (Keeps.refl s)
  | tlbInv a k v => exact keeps_execTlbInv a k v (Keeps.refl s)
  | tileFence t => exact keeps_execTileFence t (Keeps.refl s)
  | portTrain p r => exact keeps_execPortTrain p r (Keeps.refl s)
  | portTrainTimeout p => exact keeps_execPortTrainTimeout p (Keeps.refl s)
  | portTrainRetry p => exact keeps_execPortTrainRetry p (Keeps.refl s)
  | fabPortCtlWrite a p v => exact keeps_execFabPortCtlWrite a p v (Keeps.refl s)
  | dataFrameReceive p f => exact keeps_execDataFrameReceive p f (Keeps.refl s)
  | controlFrameReceive p f => exact keeps_execControlFrameReceive p f (Keeps.refl s)
  | portDown p why => exact keeps_execPortDown p why (Keeps.refl s)
  | keepaliveEnter p => exact keeps_execKeepaliveEnter p (Keeps.refl s)
  | portWake p => exact keeps_execPortWake p (Keeps.refl s)
  | portWakeTimeout p => exact keeps_execPortWakeTimeout p (Keeps.refl s)
  | packetRoute p trailer => exact keeps_execPacketRoute p trailer (Keeps.refl s)
  | writePacket n => exact keeps_execWritePacket n (Keeps.refl s)
  | readPacket n => exact keeps_execReadPacket n (Keeps.refl s)
  | atomicPacket n => exact keeps_execAtomicPacket n (Keeps.refl s)
  | messagePacket n => exact keeps_execMessagePacket n (Keeps.refl s)
  | contribPacket n => exact keeps_execContribPacket n (Keeps.refl s)
  | powerPacket n => exact keeps_execPowerPacket n (Keeps.refl s)
  | ackPacket n => exact keeps_execAckPacket n (Keeps.refl s)
  | readDataPacket n => exact keeps_execReadDataPacket n (Keeps.refl s)
  | atomicResultPacket n => exact keeps_execAtomicResultPacket n (Keeps.refl s)
  | nakPacket n => exact keeps_execNakPacket n (Keeps.refl s)
  | fabRxFullRetry c => exact keeps_execFabRxFullRetry c (Keeps.refl s)
  | fabRtoExpiry c => exact keeps_execFabRtoExpiry c (Keeps.refl s)
  | fabQcfgWrite a l n v => exact keeps_execFabQcfgWrite a l n v (Keeps.refl s)
  | fabRxqDoorbell l n v => exact keeps_execFabRxqDoorbell l n v (Keeps.refl s)
  | hqSqTail q v => exact keeps_execHqSqTail q v (Keeps.refl s)
  | hqCqHead q v => exact keeps_execHqCqHead q v (Keeps.refl s)
  | hifNop q c => exact keeps_execHifNop q c (Keeps.refl s)
  | hifSubmit q c => exact keeps_execHifSubmit q c (Keeps.refl s)
  | writeInline q c => exact keeps_execWriteInline q c (Keeps.refl s)
  | copyH2D q c => exact keeps_execCopyH2D q c (Keeps.refl s)
  | copyD2H q c => exact keeps_execCopyD2H q c (Keeps.refl s)
  | flag q c => exact keeps_execFlag q c (Keeps.refl s)
  | hostReadCompletion q tag c => exact keeps_execHostReadCompletion q tag c (Keeps.refl s)
  | hqInterruptTimer q => exact keeps_execHqInterruptTimer q (Keeps.refl s)
  | bar0Access off size w => exact keeps_execBar0Access off size w (Keeps.refl s)
  | hostWindowAccess off acc => exact keeps_execHostWindowAccess off acc (Keeps.refl s)
  | compatBarAccess off acc => exact keeps_execCompatBarAccess off acc (Keeps.refl s)
  | hifWinBaseWrite a v => exact keeps_execHifWinBaseWrite a v (Keeps.refl s)
  | hifHqCfgWrite a q v => exact keeps_execHifHqCfgWrite a q v (Keeps.refl s)
  | hqStopped q => exact keeps_execHqStopped q (Keeps.refl s)
  | linkTrain l mask partnerMask confirm => exact keeps_execLinkTrain l mask partnerMask confirm (Keeps.refl s)
  | linkIdentity l x => exact keeps_execLinkIdentity l x (Keeps.refl s)
  | linkCrcRetrain l crcFails replayed a => exact keeps_execLinkCrcRetrain l crcFails replayed a (Keeps.refl s)
  | linkTrainFailed l => exact keeps_execLinkTrainFailed l (Keeps.refl s)
  | linkRetrain a l => exact keeps_execLinkRetrain a l (Keeps.refl s)
  | linkUnfence a l => exact keeps_execLinkUnfence a l (Keeps.refl s)
  | mlinkSliceRetrain m secondary slice pass => exact keeps_execMlinkSliceRetrain m secondary slice pass (Keeps.refl s)
  | mlinkTestFlit m => exact keeps_execMlinkTestFlit m (Keeps.refl s)
  | rimPowerSample watts energy => exact keeps_execRimPowerSample watts energy (Keeps.refl s)
  | rimCoordinatorTick => exact keeps_execRimCoordinatorTick (Keeps.refl s)
  | rimBudgetCheck d watts => exact keeps_execRimBudgetCheck d watts (Keeps.refl s)
  | rimFreqStep d n => exact keeps_execRimFreqStep d n (Keeps.refl s)
  | droopTrip d n => exact keeps_execDroopTrip d n (Keeps.refl s)
  | droopEnd d n => exact keeps_execDroopEnd d n (Keeps.refl s)
  | thermalRead n celsius => exact keeps_execThermalRead n celsius (Keeps.refl s)
  | sensorTimeout n => exact keeps_execSensorTimeout n (Keeps.refl s)
  | agingTrim d n margin => exact keeps_execAgingTrim d n margin (Keeps.refl s)
  | rimPaceCtlWrite a k v => exact keeps_execRimPaceCtlWrite a k v (Keeps.refl s)
  | powerReportSend via => exact keeps_execPowerReportSend via (Keeps.refl s)
  | groupPartnerStale node => exact keeps_execGroupPartnerStale node (Keeps.refl s)
  | deepIdleEnter => exact keeps_execDeepIdleEnter (Keeps.refl s)
  | epochLatch tick => exact keeps_execEpochLatch tick (Keeps.refl s)
  | faultRecord => exact keeps_execFaultRecord (Keeps.refl s)
  | mbxFaultSoftWrite a v => exact keeps_execMbxFaultSoftWrite a v (Keeps.refl s)
  | mbxClassBComplete m => exact keeps_execMbxClassBComplete m (Keeps.refl s)
  | getInfo m => exact keeps_execGetInfo m (Keeps.refl s)
  | getNonce m => exact keeps_execGetNonce m (Keeps.refl s)
  | getSensors m => exact keeps_execGetSensors m (Keeps.refl s)
  | telRead m => exact keeps_execTelRead m (Keeps.refl s)
  | ctxCreate m => exact keeps_execCtxCreate m (Keeps.refl s)
  | ctxDestroy m => exact keeps_execCtxDestroy m (Keeps.refl s)
  | grtAssign m => exact keeps_execGrtAssign m (Keeps.refl s)
  | connCreate m => exact keeps_execConnCreate m (Keeps.refl s)
  | connDestroy m => exact keeps_execConnDestroy m (Keeps.refl s)
  | nodeSet m => exact keeps_execNodeSet m (Keeps.refl s)
  | routeSet m => exact keeps_execRouteSet m (Keeps.refl s)
  | dieReset m => exact keeps_execDieReset m (Keeps.refl s)
  | moduleReset m => exact keeps_execModuleReset m (Keeps.refl s)
  | fenceClear m => exact keeps_execFenceClear m (Keeps.refl s)
  | setBudget m => exact keeps_execSetBudget m (Keeps.refl s)
  | setGroup m => exact keeps_execSetGroup m (Keeps.refl s)
  | setIdle m => exact keeps_execSetIdle m (Keeps.refl s)
  | setPace m => exact keeps_execSetPace m (Keeps.refl s)
  | rngTable m => exact keeps_execRngTable m (Keeps.refl s)
  | telPeriod m => exact keeps_execTelPeriod m (Keeps.refl s)
  | timebaseSet m => exact keeps_execTimebaseSet m (Keeps.refl s)
  | ownerInstall m nonce flashOk => exact keeps_execOwnerInstall m nonce flashOk (Keeps.refl s)
  | keyRoll m nonce flashOk => exact keeps_execKeyRoll m nonce flashOk (Keeps.refl s)
  | ownerClear m nonce flashOk => exact keeps_execOwnerClear m nonce flashOk (Keeps.refl s)
  | attest m flashOk => exact keeps_execAttest m flashOk (Keeps.refl s)
  | attestRead m => exact keeps_execAttestRead m (Keeps.refl s)
  | getIdentity m => exact keeps_execGetIdentity m (Keeps.refl s)
  | fwBegin m flashOk => exact keeps_execFwBegin m flashOk (Keeps.refl s)
  | fwChunk m flashOk => exact keeps_execFwChunk m flashOk (Keeps.refl s)
  | fwCommit m flashOk => exact keeps_execFwCommit m flashOk (Keeps.refl s)
  | fwActivate m nonce => exact keeps_execFwActivate m nonce (Keeps.refl s)
  | i3cPrivateWrite offset data => exact keeps_execI3cPrivateWrite offset data (Keeps.refl s)
  | i3cPrivateRead len => exact keeps_execI3cPrivateRead len (Keeps.refl s)
  | mctpRequest src body => exact keeps_execMctpRequest src body (Keeps.refl s)
  | mctpSetEndpointId src eid => exact keeps_execMctpSetEndpointId src eid (Keeps.refl s)
  | mctpGetEndpointId src => exact keeps_execMctpGetEndpointId src (Keeps.refl s)
  | mctpGetVersionSupport src mtype => exact keeps_execMctpGetVersionSupport src mtype (Keeps.refl s)
  | mctpGetMessageTypeSupport src => exact keeps_execMctpGetMessageTypeSupport src (Keeps.refl s)
  | hostLinkUp => exact keeps_execHostLinkUp (Keeps.refl s)
  | configRequest r => exact keeps_execConfigRequest r (Keeps.refl s)
  | completionTimeout q tag => exact keeps_execCompletionTimeout q tag (Keeps.refl s)
  | i3cDynamicAddress setdasa addr => exact keeps_execI3cDynamicAddress setdasa addr (Keeps.refl s)
  | inputBelowRating aux => exact keeps_execInputBelowRating aux (Keeps.refl s)
  | jtagTapReset => exact keeps_execJtagTapReset (Keeps.refl s)

theorem Keeps.canonical {s t : State} (h : Keeps s t) (hs : Canonical s) : Canonical t :=
  ⟨h.mem hs.1, h.regs hs.2⟩

/-- Settles O4: a step is a tick, or a command run on the rest of the queue, and both keep what `Keeps` says. -/
theorem stepKeepsCanonicalForm : Obligations.StepKeepsCanonicalForm := by
  intro s t hs hstep
  unfold step at hstep
  split at hstep
  · cases hstep
    exact (keeps_tick (Keeps.refl s)).canonical hs
  · next c rest _ =>
    have hrest : Canonical { s with pending := rest } := hs
    exact (keeps_exec c _ t hstep).canonical hrest

end Sys2Proof.Machine

/-!
SUPPORT. A tick with a collective slot in use and no matrix engine at work counts the waiting time of R503, so more than the timebase
copies changes beside the master.
-/
namespace Sys2Proof.Machine

/-- Auxiliary power is on and released, a slot of C0's collective engine is in use, and no tile has a matrix instruction queued. -/
def slotUsedNoMatrixWork : State :=
  { State.reset with
    pins := { Pins.reset with aux := true, auxReset := false },
    grottos := [(0, { Grotto.reset with
      coll := [(0, ⟨0, 0, 0, 0, 0, 0, 0, 2, [], 0, 0, 0⟩)] })] }

theorem step_slotUsedNoMatrixWork : step slotUsedNoMatrixWork = .next (tick slotUsedNoMatrixWork) := rfl

theorem tick_slotUsedNoMatrixWork_waited : (tick slotUsedNoMatrixWork).rim.waited = 1 := by decide +kernel

/-- Refutes O2: on an idle tick during which a collective slot is in use and every matrix engine is idle, `rim.waited` goes up (R503), and
the statement lets only the master and the timebase copies change. -/
theorem not_idleStepTicksTimebase : ¬ Obligations.IdleStepTicksTimebase := by
  intro h
  obtain ⟨t, hstep, -, hframe⟩ := (h slotUsedNoMatrixWork rfl).2 rfl rfl rfl (by decide)
  have ht : tick slotUsedNoMatrixWork = t := Host.Outcome.next.inj (step_slotUsedNoMatrixWork.symm.trans hstep)
  have hwaited : t.rim.waited = 0 := congrArg (fun s => s.rim.waited) hframe
  rw [← ht, tick_slotUsedNoMatrixWork_waited] at hwaited
  exact absurd hwaited (by decide)

end Sys2Proof.Machine

/-!
SUPPORT. A register's fields do not overlap, so a write acts on each as its access code says (R10, R11), and the word stays one of 64
bits.
-/
namespace Sys2Proof.Machine

/-- Two fields share no bit. -/
abbrev Field.apart (f g : Field) : Prop := f.hi < g.lo ∨ g.hi < f.lo

/-- A field of a 64-bit register that is not cleared by a read. -/
abbrev Field.plain (f : Field) : Prop := f.acc ≠ .rc ∧ f.lo ≤ f.hi ∧ f.hi < 64

theorem spec_fields_apart (r : Reg) : r.spec.fields.Pairwise Field.apart := by
  cases r <;> decide

theorem spec_fields_plain (r : Reg) : ∀ f ∈ r.spec.fields, f.plain := by
  cases r <;> decide

/-- Setting other fields leaves a field. -/
theorem bits_foldl_fset_apart {fs : List Field} {f : Field} (g : Field → Nat) (v : Nat) (hfs : ∀ e ∈ fs, e.lo ≤ e.hi ∧ f.apart e) :
    bits (fs.foldl (fun v e => fset v e.hi e.lo (g e)) v) f.hi f.lo = bits v f.hi f.lo := by
  induction fs generalizing v with
  | nil => rfl
  | cons e fs ih =>
    have he := hfs e List.mem_cons_self
    rw [List.foldl_cons, ih _ fun x hx => hfs x (List.mem_cons_of_mem _ hx), bits_fset_other he.1 he.2]

/-- Setting fields that do not overlap, each to its own value, leaves that value in each. -/
theorem bits_foldl_fset_mem {fs : List Field} {f : Field} (g : Field → Nat) (v : Nat) (hap : fs.Pairwise Field.apart)
    (hlo : ∀ e ∈ fs, e.lo ≤ e.hi) (hf : f ∈ fs) :
    bits (fs.foldl (fun v e => fset v e.hi e.lo (g e)) v) f.hi f.lo = g f % 2 ^ (f.hi + 1 - f.lo) := by
  induction fs generalizing v with
  | nil => contradiction
  | cons e fs ih =>
    obtain ⟨he, hap⟩ := List.pairwise_cons.1 hap
    have hlo' : ∀ x ∈ fs, x.lo ≤ x.hi := fun x hx => hlo x (List.mem_cons_of_mem _ hx)
    rw [List.foldl_cons]
    rcases List.mem_cons.1 hf with rfl | hf
    · rw [bits_foldl_fset_apart g _ fun x hx => ⟨hlo' x hx, he x hx⟩, bits_fset_same (hlo f List.mem_cons_self)]
    · exact ih _ hap hlo' hf

theorem foldl_fset_lt {fs : List Field} (g : Field → Nat) {v n : Nat} (hv : v < 2 ^ n) (hfs : ∀ e ∈ fs, e.lo ≤ e.hi ∧ e.hi < n) :
    fs.foldl (fun v e => fset v e.hi e.lo (g e)) v < 2 ^ n := by
  induction fs generalizing v with
  | nil => exact hv
  | cons e fs ih =>
    have he := hfs e List.mem_cons_self
    exact ih (fset_lt hv he.1 he.2) fun x hx => hfs x (List.mem_cons_of_mem _ hx)

/-- A write leaves in each field what its access code makes of the field's old and new bits. -/
theorem bits_spec_write (r : Reg) {f : Field} (hf : f ∈ r.spec.fields) (old new : Nat) :
    bits (r.spec.write old new) f.hi f.lo =
      f.acc.write (bits old f.hi f.lo) (bits new f.hi f.lo) % 2 ^ (f.hi + 1 - f.lo) :=
  bits_foldl_fset_mem (fun f => f.acc.write (bits old f.hi f.lo) (bits new f.hi f.lo)) old (spec_fields_apart r)
    (fun e he => (spec_fields_plain r e he).2.1) hf

theorem spec_write_lt (r : Reg) {old : Nat} (hold : old < 2 ^ 64) (new : Nat) : r.spec.write old new < 2 ^ 64 :=
  foldl_fset_lt _ hold fun e he => (spec_fields_plain r e he).2

/-- Clearing the bits of `y` in a 64-bit number. -/
theorem sub_and_eq_and_compl {x : Nat} (y : Nat) (hx : x < 2 ^ 64) : x - (x &&& y) = x &&& ((2 ^ 64 - 1) ^^^ y) := by
  have hbit : ∀ i, x.testBit i = true → i < 64 := fun i hi =>
    Nat.lt_of_not_le fun h => absurd hi (by simp [Nat.testBit_lt_two_pow (Nat.lt_of_lt_of_le hx (Nat.pow_le_pow_right (by decide) h))])
  have hor : (x &&& y) ||| (x &&& ((2 ^ 64 - 1) ^^^ y)) = x := by
    refine Nat.eq_of_testBit_eq fun i => ?_
    simp only [Nat.testBit_or, Nat.testBit_and, Nat.testBit_xor, Nat.testBit_two_pow_sub_one]
    cases hi : x.testBit i <;> simp [hbit i, hi]
  have hdisj : BitVec.ofNat 65 (x &&& y) &&& BitVec.ofNat 65 (x &&& ((2 ^ 64 - 1) ^^^ y)) = 0#65 := by
    refine BitVec.eq_of_getLsbD_eq fun i _ => ?_
    simp only [BitVec.getLsbD_and, BitVec.getLsbD_ofNat, Nat.testBit_and, Nat.testBit_xor, Nat.testBit_two_pow_sub_one]
    cases hi : x.testBit i <;> simp +contextual [hbit i, hi]
  have hsum := congrArg BitVec.toNat (BitVec.add_eq_or_of_and_eq_zero _ _ hdisj)
  have h1 : x &&& y ≤ x := Nat.and_le_left
  have h2 : x &&& ((2 ^ 64 - 1) ^^^ y) ≤ x := Nat.and_le_left
  simp only [BitVec.toNat_add, BitVec.toNat_or, BitVec.toNat_ofNat] at hsum
  rw [Nat.mod_eq_of_lt (a := x &&& y) (by omega), Nat.mod_eq_of_lt (a := x &&& ((2 ^ 64 - 1) ^^^ y)) (by omega), hor] at hsum
  omega

/-- Settles O10: fields do not overlap, so each ends with what its access code gives (`bits_spec_write`), which fits it. -/
theorem registerFieldsFollowTheirAccessCodes : Obligations.RegisterFieldsFollowTheirAccessCodes := by
  intro r _ f hf old new hold _
  obtain ⟨hrc, hlo, hhi⟩ := spec_fields_plain r f hf
  refine ⟨hrc, hlo, hhi, ?_⟩
  rw [bits_spec_write r hf]
  have ho : bits old f.hi f.lo < 2 ^ (f.hi + 1 - f.lo) := Nat.mod_lt _ (Nat.two_pow_pos _)
  have hn : bits new f.hi f.lo < 2 ^ (f.hi + 1 - f.lo) := Nat.mod_lt _ (Nat.two_pow_pos _)
  have ho64 : bits old f.hi f.lo < 2 ^ 64 := Nat.lt_of_lt_of_le ho (Nat.pow_le_pow_right (by decide) (by omega))
  generalize bits old f.hi f.lo = o at *
  generalize bits new f.hi f.lo = n at *
  cases hacc : f.acc with
  | rw => exact Nat.mod_eq_of_lt hn
  | ro => exact Nat.mod_eq_of_lt ho
  | wo => exact Nat.zero_mod _
  | w1c =>
    refine (Nat.mod_eq_of_lt (Nat.lt_of_le_of_lt (Nat.sub_le _ _) ho)).trans ?_
    exact sub_and_eq_and_compl n ho64
  | w1s => exact Nat.mod_eq_of_lt (Nat.or_lt_two_pow ho hn)
  | rc => exact absurd hacc hrc

end Sys2Proof.Machine

/-!
SUPPORT. Where an address of register space leads (R3, R8): its die index and offset, and the register that they name.
-/
namespace Sys2Proof.Machine

/-- The parts of an address of register space (R8). -/
theorem bits_regSpace {die off : Nat} (hdie : die < 256) (hoff : off < 2 ^ 32) :
    bits (0xF00000000000 + die <<< 32 + off) 47 40 = 0xF0 ∧ bits (0xF00000000000 + die <<< 32 + off) 39 32 = die ∧
      bits (0xF00000000000 + die <<< 32 + off) 31 0 = off := by
  simp only [bits, Nat.shiftRight_eq_div_pow, Nat.shiftLeft_eq]
  omega

theorem regSpace_lt {die off : Nat} (hdie : die < 256) (hoff : off < 2 ^ 32) : 0xF00000000000 + die <<< 32 + off < 2 ^ 48 := by
  rw [Nat.shiftLeft_eq]
  omega

/-- A repetition that an offset names lies at that offset. -/
theorem locate_some {sp : RegSpec} {off i j : Nat} (h : sp.locate off = some (i, j)) :
    i < sp.outer.2 ∧ j < sp.inner.2 ∧ sp.base + i * sp.outer.1 + j * sp.inner.1 = off := by
  unfold RegSpec.locate at h
  split at h
  · contradiction
  · next hbase =>
    dsimp only at h
    split at h
    · next hin =>
      obtain ⟨hi, hj, hq⟩ := hin
      obtain ⟨rfl, rfl⟩ := Prod.mk.inj (Option.some.inj h)
      have hle := Nat.div_mul_le_self (off - sp.base) sp.outer.1
      exact ⟨hi, hj, by omega⟩
    · contradiction

/-- A register that a die and an offset name: the die carries it, and the offset is that of one of its repetitions. -/
theorem regAt_some {die off : Nat} {r : Reg} {i j : Nat} (h : regAt die off = some (r, i, j)) :
    r.spec.dies.any (fun d => d.1 ≤ die ∧ die ≤ d.2) = true ∧ r.spec.locate off = some (i, j) := by
  obtain ⟨q, -, hq⟩ := List.exists_of_findSome?_eq_some h
  split at hq
  · next hd =>
    obtain ⟨p, hp, hq⟩ := Option.bind_eq_some_iff.1 hq
    split at hq
    · cases hq
      exact ⟨hd, hp⟩
    · contradiction
  · contradiction

/-- A register that a die and an offset name has the address that they spell (R8). -/
theorem regAddr_of_regAt {die off : Nat} {r : Reg} {i j : Nat} (h : regAt die off = some (r, i, j)) :
    regAddr r die i j = 0xF00000000000 + die <<< 32 + off := by
  have hoff := (locate_some (regAt_some h).2).2.2
  unfold regAddr
  omega

/-- Settles O11: the address's parts do not overlap, and an offset names a register at that offset. -/
theorem registerAddressesHoldDieAndOffset : Obligations.RegisterAddressesHoldDieAndOffset := by
  intro die off hdie hoff
  obtain ⟨htop, hd, ho⟩ := bits_regSpace hdie hoff
  exact ⟨regSpace_lt hdie hoff, htop, hd, ho, fun r i j h => regAddr_of_regAt h⟩

theorem spec_dies_mem (r : Reg) : ∀ d ∈ r.spec.dies, d ∈ x0Die :: allDies := by
  cases r <;> decide

/-- No register lies on a die index that is not in use (R3). -/
theorem regAt_unused {die : Nat} (hdie : dieUsed die = false) (off : Nat) : regAt die off = none := by
  refine Option.eq_none_iff_forall_ne_some.2 fun ⟨r, i, j⟩ h => ?_
  obtain ⟨d, hd, hin⟩ := List.any_eq_true.1 (regAt_some h).1
  have hmem := spec_dies_mem r d hd
  simp only [allDies, x0Die, cDies, pDies, lDies, xDies, mBases, List.mem_cons, List.not_mem_nil, or_false] at hmem
  simp only [dieUsed, Bool.or_eq_false_iff, Bool.and_eq_false_iff, decide_eq_false_iff_not] at hdie
  simp only [decide_eq_true_eq] at hin
  rcases hmem with rfl | rfl | rfl | rfl | rfl | rfl <;> omega

/-- Where no register lies, a write changes nothing (R12). -/
theorem regWrite_none {addr : Nat} (h : regAt (bits addr 39 32) (bits addr 31 0) = none) (s : State) (a : Agent) (v : Nat) :
    regWrite s a addr v = s := by
  unfold regWrite
  simp only [h]

theorem execRegisterWrite_none {addr : BitVec 48} (h : regAt (bits addr.toNat 39 32) (bits addr.toNat 31 0) = none) (a : Agent) (n : Nat)
    (v : W64) (s : State) : execRegisterWrite a addr n v s = .next s := by
  unfold execRegisterWrite
  rw [regWrite_none h, ite_self]

/-- Where no register lies, nor a counter whose shadow this is, a read gives all ones (R12, R539). -/
theorem regRead_none {a : Nat} (h : regAt (bits a 39 32) (bits a 31 0) = none)
    (hshadow : isShadow a = false ∨ regAt (bits a 39 32) (bits a 31 0 - 0x8000) = none) (s : State) :
    regRead s a = 2 ^ 64 - 1 := by
  have hones : ones64.toNat = 2 ^ 64 - 1 := by decide
  unfold regRead
  rcases hshadow with hs | hs <;> simp only [h, hs, hones, Bool.false_eq_true, if_false, ite_self]

/-- Settles O12: no register lies on an unused die index, nor the shadow of one. -/
theorem unusedDieIndicesReadOnes : Obligations.UnusedDieIndicesReadOnes := by
  intro die off hdie hoff
  have hunused : dieUsed die = false := by
    simp only [dieUsed, Bool.or_eq_false_iff, Bool.and_eq_false_iff, decide_eq_false_iff_not]
    omega
  obtain ⟨-, hd, -⟩ := bits_regSpace (die := die) (off := off) (by omega) hoff
  have hnone (o : Nat) : regAt (bits (0xF00000000000 + die <<< 32 + off) 39 32) o = none := by
    rw [hd]
    exact regAt_unused hunused o
  refine ⟨regRead_none (hnone _) (.inr (hnone _)), fun a n v s => ?_⟩
  refine execRegisterWrite_none ?_ a n v s
  rw [BitVec.toNat_ofNat, Nat.mod_eq_of_lt (regSpace_lt (by omega) hoff)]
  exact hnone _

end Sys2Proof.Machine

/-!
SUPPORT. What a register write does (R9-R12, R340, R437, R466, R513, R520, R541): which case of `regWrite` it meets, and what a stored
register leaves of the others.
-/
namespace Sys2Proof.Machine

/-! ### One register changes -/

/-- `t` is `s` but for one register, which holds `x`. -/
def RegBecomes (s t : State) (r : Reg) (die i j x : Nat) : Prop :=
  rget t r die i j = x ∧ OnlyRegs s t ∧ SameRegsBut [regAddr r die i j] s t

theorem mfind_mput_ne {α : Type} [DecidableEq α] {m : Map α} (hr : m.rising) (d : α) {a b : Nat} (v : α) (h : b ≠ a) :
    mfind (mput d m a v) b = mfind m b := by
  unfold mput
  split
  · exact mfind_mdel_ne hr h
  · exact mfind_mins_ne m v h

theorem sameRegsBut_rset {s : State} (hr : s.regs.rising) (r : Reg) (die i j v : Nat) :
    SameRegsBut [regAddr r die i j] s (rset s r die i j v) := by
  intro a ha
  unfold rset
  dsimp only
  generalize w64 r.spec.reset = z
  exact mfind_mput_ne hr z _ (by simpa using ha)

theorem regBecomes_rset {s : State} (hr : s.regs.rising) (r : Reg) (die i j : Nat) {x : Nat} (hx : x < 2 ^ 64) :
    RegBecomes s (rset s r die i j x) r die i j x :=
  ⟨rget_rset_same hr r die i j hx, rset_frame s r die i j x, sameRegsBut_rset hr r die i j x⟩

/-- A write by the access codes leaves the register as they say, and the others. -/
theorem regBecomes_regPut {s : State} (hr : s.regs.rising) (r : Reg) (die i j v : Nat) :
    RegBecomes s (regPut s r die i j v) r die (regHome r i) j (r.spec.write (rget s r die (regHome r i) j) v) :=
  regBecomes_rset hr _ _ _ _ (spec_write_lt r (rget_lt _ _ _ _ _) v)

/-! ### The cases of a write -/

theorem regAligned_false {addr n : Nat} (h : n ≠ 8 ∨ addr % 8 ≠ 0) : regAligned addr n = false := by
  simp only [regAligned, Bool.and_eq_false_iff, beq_eq_false_iff_ne]
  exact .inl h

section
variable {s : State} {a : Agent} {addr : BitVec 48} {v : W64} {r : Reg} {i j : Nat}
  (hat : regAt (bits addr.toNat 39 32) (bits addr.toNat 31 0) = some (r, i, j))
include hat

/-- A register that does not answer discards a write. -/
theorem execRegisterWrite_down (hup : regUp s r (bits addr.toNat 39 32) i = false) (n : Nat) :
    execRegisterWrite a addr n v s = .next s := by
  unfold execRegisterWrite regWrite
  simp only [hat, hup, Bool.not_false, if_true, ite_self]

/-- So does one that the agent may not write. -/
theorem execRegisterWrite_barred (hm : mailboxOf r i = none) (ha : agentMay a r.spec.writers = false) (n : Nat) :
    execRegisterWrite a addr n v s = .next s := by
  unfold execRegisterWrite regWrite
  simp only [hat, hm, ha, Bool.false_eq_true, if_false, ite_self]

variable (hal : regAligned addr.toNat 8 = true) (hup : regUp s r (bits addr.toNat 39 32) i = true)
include hal hup

theorem execRegisterWrite_act (hm : mailboxOf r i = none) (ha : agentMay a r.spec.writers = true) :
    execRegisterWrite a addr 8 v s = .next (regAct s a r (bits addr.toNat 39 32) i j v.toNat) := by
  unfold execRegisterWrite regWrite
  simp only [hal, hat, hup, hm, ha, Bool.not_true, Bool.false_eq_true, if_false, if_true]

theorem execRegisterWrite_mailbox {m : Nat} (hm : mailboxOf r i = some m) :
    execRegisterWrite a addr 8 v s = .next (if mbxOwns a m then mbxRegWrite s m r i j v.toNat else s) := by
  unfold execRegisterWrite regWrite
  simp only [hal, hat, hup, hm, Bool.not_true, Bool.false_eq_true, if_false, if_true]

end

/-- A register without a rule of its own is written by its access codes. -/
theorem regAct_plain {r : Reg} (hr : r ∉ ruledRegs) (s : State) (a : Agent) (die i j v : Nat) :
    regAct s a r die i j v = regPut s r die i j v := by
  unfold regAct
  split
  case h_33 => rfl
  all_goals exact absurd (by decide) hr

/-! ### Registers that lie in one place -/

/-- The die and the repetition of a register that an offset names. -/
theorem regAt_place {die off : Nat} {r : Reg} {i j : Nat} (h : regAt die off = some (r, i, j)) :
    (∃ d ∈ r.spec.dies, d.1 ≤ die ∧ die ≤ d.2) ∧ i < r.spec.outer.2 ∧ j < r.spec.inner.2 := by
  obtain ⟨hd, hl⟩ := regAt_some h
  obtain ⟨d, hmem, hin⟩ := List.any_eq_true.1 hd
  exact ⟨⟨d, hmem, by simpa using hin⟩, (locate_some hl).1, (locate_some hl).2.1⟩

/-- A register that lies once, on X0. -/
theorem regAt_x0 {die off : Nat} {r : Reg} {i j : Nat} (h : regAt die off = some (r, i, j)) (hd : r.spec.dies = [x0Die])
    (ho : r.spec.outer.2 = 1) (hi : r.spec.inner.2 = 1) : die = 14 ∧ i = 0 ∧ j = 0 := by
  obtain ⟨⟨d, hmem, hle⟩, hi', hj'⟩ := regAt_place h
  rw [hd, List.mem_singleton] at hmem
  subst hmem
  simp only [x0Die] at hle
  omega

/-! ### Mailbox registers (R520) -/

/-- The registers of a command mailbox that hold a word as it is written. -/
def mbxWords : List Reg := [.mbxAuthCtr, .mbxAuthTag0, .mbxAuthTag1, .mbxBuf]

theorem bits_word {x : Nat} (hx : x < 2 ^ 64) : bits x 63 0 = x := by
  simp only [bits, Nat.shiftRight_zero]
  exact Nat.mod_eq_of_lt hx

theorem mbxWords_write {r : Reg} (hr : r ∈ mbxWords) {old v : Nat} (ho : old < 2 ^ 64) (hv : v < 2 ^ 64) : r.spec.write old v = v := by
  have hfield : ⟨63, 0, .rw, 0⟩ ∈ r.spec.fields := by
    simp only [mbxWords, List.mem_cons, List.not_mem_nil, or_false] at hr
    rcases hr with rfl | rfl | rfl | rfl <;> decide
  have h := bits_spec_write r hfield old v
  simp only [Acc.write] at h
  rw [bits_word (spec_write_lt r ho v), bits_word hv] at h
  exact h.trans (Nat.mod_eq_of_lt hv)

theorem mbxWords_regAddr_ne_status {r : Reg} (hr : r ∈ mbxWords) (i j : Nat) : regAddr r 14 i j ≠ regAddr .mbxStatus 14 i 0 := by
  simp only [mbxWords, List.mem_cons, List.not_mem_nil, or_false] at hr
  rcases hr with rfl | rfl | rfl | rfl <;> simp only [regAddr, Reg.spec] <;> omega

theorem mbxWords_mailboxOf {r : Reg} (hr : r ∈ mbxWords) {i m : Nat} (hm : mailboxOf r i = some m) : m = i + 1 := by
  simp only [mbxWords, List.mem_cons, List.not_mem_nil, or_false] at hr
  rcases hr with rfl | rfl | rfl | rfl <;> exact (Option.some.inj hm).symm

theorem mbxRegWrite_word {r : Reg} (hr : r ∈ mbxWords) (s : State) (m i j v : Nat) :
    mbxRegWrite s m r i j v =
      if mbxState s m = mbIdle ∨ mbxState s m = mbDone then rset s r 14 i j (r.spec.write (rget s r 14 i j) v)
      else mbxSet s m 5 5 1 := by
  simp only [mbxWords, List.mem_cons, List.not_mem_nil, or_false] at hr
  rcases hr with rfl | rfl | rfl | rfl <;> rfl

/-- A word of a mailbox takes what is written while no command runs; else it stays, and DROPPED is set. -/
theorem mbxRegWrite_word_spec {r : Reg} (hr : r ∈ mbxWords) {s : State} (hs : s.regs.rising) (i j : Nat) {v : Nat} (hv : v < 2 ^ 64) :
    OnlyRegs s (mbxRegWrite s (i + 1) r i j v) ∧
      if mbxState s (i + 1) = mbIdle ∨ mbxState s (i + 1) = mbDone then rget (mbxRegWrite s (i + 1) r i j v) r 14 i j = v
      else rget (mbxRegWrite s (i + 1) r i j v) r 14 i j = rget s r 14 i j ∧ mbxF (mbxRegWrite s (i + 1) r i j v) (i + 1) 5 5 = 1 := by
  rw [mbxRegWrite_word hr]
  split
  · refine ⟨rset_frame _ _ _ _ _ _, ?_⟩
    rw [rget_rset_same hs _ _ _ _ (spec_write_lt r (rget_lt _ _ _ _ _) v), mbxWords_write hr (rget_lt _ _ _ _ _) hv]
  · exact ⟨rfset_frame _ _ _ _ _ _ _ _, rget_rset_other hs _ (mbxWords_regAddr_ne_status hr i j),
      rf_rfset_same hs .mbxStatus 14 i 0 1 (by decide) (by decide)⟩

theorem mbxF_mbxSet_same {s : State} (hs : s.regs.rising) (m : Nat) {hi lo : Nat} (v : Nat) (hl : lo ≤ hi) (hi64 : hi < 64) :
    mbxF (mbxSet s m hi lo v) m hi lo = v % 2 ^ (hi + 1 - lo) :=
  rf_rfset_same hs _ _ _ _ v hl hi64

theorem mbxF_mbxSet_apart {s : State} (hs : s.regs.rising) (m : Nat) {hi lo h2 l2 : Nat} (v : Nat) (hl : lo ≤ hi) (hi64 : hi < 64)
    (hd : h2 < lo ∨ hi < l2) : mbxF (mbxSet s m hi lo v) m h2 l2 = mbxF s m h2 l2 :=
  rf_rfset_field hs _ _ _ _ v hl hi64 hd

/-- A mailbox's status is a matter of the registers alone. -/
theorem mbxF_congr {s t : State} (h : t.regs = s.regs) (m hi lo : Nat) : mbxF t m hi lo = mbxF s m hi lo := by
  unfold mbxF rf rget
  rw [h]

/-- The registers that an accepted command leaves: the command, and a status with its REQID, AUTHED cleared and BUSY. -/
theorem mbxCmdWrite_regs {s : State} {m v : Nat} (hst : mbxState s m = mbIdle ∨ mbxState s m = mbDone)
    (hop : mbxOpcodes.contains (bits v 15 0) = true) :
    (mbxCmdWrite s m v).regs = (mbxSet (mbxSet (mbxSet (rset s .mbxCmd 14 (m - 1) 0 (Reg.mbxCmd.spec.write 0 v)) m 47 32 (bits v 63 48))
      m 4 4 0) m 3 0 mbBusy).regs := by
  unfold mbxCmdWrite
  simp only [if_pos hst, if_pos hop]

/-- A command of the table that an idle mailbox takes leaves it BUSY, with the request's REQID. -/
theorem mbxCmdWrite_busy {s : State} (hs : s.regs.rising) {m v : Nat} (hst : mbxState s m = mbIdle ∨ mbxState s m = mbDone)
    (hop : mbxOpcodes.contains (bits v 15 0) = true) :
    mbxState (mbxCmdWrite s m v) m = mbBusy ∧ mbxF (mbxCmdWrite s m v) m 47 32 = bits v 63 48 := by
  have h0 := rising_rset hs .mbxCmd 14 (m - 1) 0 (Reg.mbxCmd.spec.write 0 v)
  unfold mbxState
  rw [mbxF_congr (mbxCmdWrite_regs hst hop), mbxF_congr (mbxCmdWrite_regs hst hop)]
  generalize rset s .mbxCmd 14 (m - 1) 0 (Reg.mbxCmd.spec.write 0 v) = x at h0
  have h1 : (mbxSet x m 47 32 (bits v 63 48)).regs.rising := rising_rfset h0 ..
  have h2 : (mbxSet (mbxSet x m 47 32 (bits v 63 48)) m 4 4 0).regs.rising := rising_rfset h1 ..
  constructor
  · rw [mbxF_mbxSet_same h2 m mbBusy (by decide) (by decide)]
    rfl
  · rw [mbxF_mbxSet_apart h2 m _ (by decide) (by decide) (by decide), mbxF_mbxSet_apart h1 m _ (by decide) (by decide) (by decide),
      mbxF_mbxSet_same h0 m _ (by decide) (by decide)]
    exact Nat.mod_eq_of_lt (Nat.mod_lt _ (Nat.two_pow_pos _))

/-! ### The registers with rules of their own -/

section
variable {s : State} (hs : s.regs.rising) (a : Agent)
include hs

/-- R340: clearing VALID of an error log clears MORE, and nothing else acts. -/
theorem regAct_errLog {r : Reg} (hr : r = .memErrLog0 ∨ r = .lpdErrLog0) (die i : Nat) {j : Nat} (hj : j = 0) (v : Nat) :
    if bit v 63 then RegBecomes s (regAct s a r die i j v) r die i j (rget s r die i j % 2 ^ 48) else regAct s a r die i j v = s := by
  subst hj
  have hact : regAct s a r die i 0 v = if bit v 63 then rset s r die i 0 (rget s r die i % 2 ^ 48) else s := by
    rcases hr with rfl | rfl <;> rfl
  rw [hact]
  split
  · exact regBecomes_rset hs r die i 0 (Nat.lt_of_le_of_lt (Nat.mod_le _ _) (rget_lt _ _ _ _ _))
  · rfl

/-- R466: a ring base is kept while its queue is enabled. -/
theorem regAct_ringBase {r : Reg} (hr : r = .hifHqSqbase ∨ r = .hifHqCqbase) (die i j v : Nat) :
    if rf s .hifHqCfg 14 0 j 63 63 = 1 then regAct s a r die i j v = s
    else RegBecomes s (regAct s a r die i j v) r die i j (r.spec.write (rget s r die i j) v) := by
  have hact : regAct s a r die i j v = if rf s .hifHqCfg 14 0 j 63 63 = 1 then s else regPut s r die i j v := by
    rcases hr with rfl | rfl <;> rfl
  have hhome : regHome r i = i := by
    rcases hr with rfl | rfl <;> rfl
  rw [hact]
  split
  · rfl
  · have h := regBecomes_regPut hs r die i j v
    rwa [hhome] at h

/-- R513: the power budget takes only values that pass its check. -/
theorem regAct_budget {die i j : Nat} (hplace : die = 14 ∧ i = 0 ∧ j = 0) (v : Nat) :
    if 1000 ≤ bits v 63 48 ∧ bits v 63 48 ≤ 3600 ∧ bits v 15 0 ≤ bits v 31 16 ∧ bits v 31 16 ≤ bits v 63 48 then
      RegBecomes s (regAct s a .rimModBudget die i j v) .rimModBudget die i j
        (Reg.rimModBudget.spec.write (rget s .rimModBudget die i j) v)
    else regAct s a .rimModBudget die i j v = s := by
  obtain ⟨rfl, rfl, rfl⟩ := hplace
  have hact : regAct s a .rimModBudget 14 0 0 v = budgetWrite s v := rfl
  rw [hact, budgetWrite]
  split
  · exact regBecomes_regPut hs .rimModBudget 14 0 0 v
  · rfl

/-- R437: the node ID is written while every port is DISABLED. -/
theorem regAct_node (die i j v : Nat) :
    if portsDisabled s then
      RegBecomes s (regAct s a .fabNode die i j v) .fabNode die i j (Reg.fabNode.spec.write (rget s .fabNode die i j) v)
    else regAct s a .fabNode die i j v = s := by
  have hact : regAct s a .fabNode die i j v = if portsDisabled s then regPut s .fabNode die i j v else s := rfl
  rw [hact]
  split
  · exact regBecomes_regPut hs .fabNode die i j v
  · rfl

/-- R541: the epoch period takes a value in its range, which waits for the next boundary. -/
theorem regAct_period {die i j : Nat} (hplace : die = 14 ∧ i = 0 ∧ j = 0) (v : Nat) :
    if 100 ≤ bits v 31 0 ∧ bits v 31 0 ≤ 1000000 then
      rget (regAct s a .telEpochCtl die i j v) .telEpochCtl die i j = bits v 31 0 ∧
        (regAct s a .telEpochCtl die i j v).uszon.newPeriod = some (bits v 31 0)
    else regAct s a .telEpochCtl die i j v = s := by
  obtain ⟨rfl, rfl, rfl⟩ := hplace
  have hact : regAct s a .telEpochCtl 14 0 0 v = telPeriodWrite s (bits v 31 0) := rfl
  rw [hact, telPeriodWrite]
  have hlt : bits v 31 0 < 2 ^ 64 := Nat.lt_of_lt_of_le (Nat.mod_lt _ (Nat.two_pow_pos _)) (by decide)
  split
  · exact ⟨rget_rset_same hs .telEpochCtl 14 0 0 hlt, rfl⟩
  · rfl

end

end Sys2Proof.Machine

/-!
The statement of register writes (O13), clause by clause.
-/
namespace Sys2Proof.Machine

section
variable {s : State} (hs : s.regs.rising) {a : Agent} {addr : BitVec 48} {v : W64} {r : Reg} {i j : Nat}
  (hat : regAt (bits addr.toNat 39 32) (bits addr.toNat 31 0) = some (r, i, j))
  (hal : regAligned addr.toNat 8 = true) (hup : regUp s r (bits addr.toNat 39 32) i = true)
include hs hat hal hup

theorem registerWrite_plain (hm : mailboxOf r i = none) (ha : agentMay a r.spec.writers = true) (hr : r ∉ ruledRegs) :
    ∃ t, exec (.registerWrite a addr 8 v) s = .next t ∧ OnlyRegs s t ∧
      rget t r (bits addr.toNat 39 32) (regHome r i) j = r.spec.write (rget s r (bits addr.toNat 39 32) (regHome r i) j) v.toNat ∧
      SameRegsBut [regAddr r (bits addr.toNat 39 32) (regHome r i) j] s t := by
  obtain ⟨hval, honly, hsame⟩ := regBecomes_regPut hs r (bits addr.toNat 39 32) i j v.toNat
  refine ⟨_, ?_, honly, hval, hsame⟩
  rw [← regAct_plain hr s a]
  exact execRegisterWrite_act hat hal hup hm ha

theorem registerWrite_mailboxWord {m : Nat} (hm : mailboxOf r i = some m) (ho : mbxOwns a m = true) (hr : r ∈ mbxWords) :
    ∃ t, exec (.registerWrite a addr 8 v) s = .next t ∧ OnlyRegs s t ∧
      if mbxState s m = mbIdle ∨ mbxState s m = mbDone then rget t r 14 i j = v.toNat
      else rget t r 14 i j = rget s r 14 i j ∧ mbxF t m 5 5 = 1 := by
  refine ⟨_, execRegisterWrite_mailbox hat hal hup hm, ?_⟩
  rw [if_pos ho, mbxWords_mailboxOf hr hm]
  exact mbxRegWrite_word_spec hr hs i j v.isLt

theorem registerWrite_mailboxCommand {m : Nat} (hm : mailboxOf r i = some m) (ho : mbxOwns a m = true) (hr : r = .mbxCmd)
    (hst : mbxState s m = mbIdle ∨ mbxState s m = mbDone) (hop : mbxOpcodes.contains (bits v.toNat 15 0) = true) :
    ∃ t, exec (.registerWrite a addr 8 v) s = .next t ∧ mbxState t m = mbBusy ∧ mbxF t m 47 32 = bits v.toNat 63 48 := by
  refine ⟨_, execRegisterWrite_mailbox hat hal hup hm, ?_⟩
  rw [if_pos ho, mbxRegWrite, if_pos hr]
  exact mbxCmdWrite_busy hs hst hop

end

/-- What follows from each branch follows from the choice. -/
theorem ite_mono {c p q p' q' : Prop} [Decidable c] (hp : p → p') (hq : q → q') (h : if c then p else q) : if c then p' else q' := by
  by_cases hc : c
  · rw [if_pos hc] at h ⊢
    exact hp h
  · rw [if_neg hc] at h ⊢
    exact hq h

/-- Settles O13: `execRegisterWrite` meets one of the cases of `regWrite`, and in each the register's rule says what it becomes. -/
theorem registerWritesActOnTheirRegisterAlone : Obligations.RegisterWritesActOnTheirRegisterAlone := by
  refine ⟨⟨?plain, ?misaligned, ?refused, ?ruled, ?mailbox⟩, ?unoccupied⟩
  case plain =>
    intro a addr v s r i j hc hal hat hup hm ha hr
    exact registerWrite_plain hc.2 hat hal hup hm ha hr
  case misaligned =>
    intro a addr n v s hn
    show execRegisterWrite a addr n v s = _
    rw [execRegisterWrite, regAligned_false hn]
    rfl
  case refused =>
    rintro a addr n v s r i j hat (hup | ⟨hm, ha⟩)
    · exact execRegisterWrite_down hat hup n
    · exact execRegisterWrite_barred hat hm ha n
  case ruled =>
    intro a addr v s r i j hc hal hat hup hm ha die n stays becomes
    have hexec : exec (.registerWrite a addr 8 v) s = .next (regAct s a r die i j n) := execRegisterWrite_act hat hal hup hm ha
    have hbecomes (x : Nat) (h : RegBecomes s (regAct s a r die i j n) r die i j x) : becomes x := ⟨_, hexec, h⟩
    have hstays (h : regAct s a r die i j n = s) : stays := hexec.trans (congrArg _ h)
    refine ⟨fun hr => ?errLog, fun hr => ?ringBase, fun hr => ?budget, fun hr => ?node, fun hr => ?period⟩
    case errLog =>
      have hj : j = 0 := by
        have := (regAt_place hat).2.2
        rcases hr with rfl | rfl <;> exact Nat.lt_one_iff.1 this
      exact ite_mono (hbecomes _) hstays (regAct_errLog hc.2 a hr die i hj n)
    case ringBase => exact ite_mono hstays (hbecomes _) (regAct_ringBase hc.2 a hr die i j n)
    case budget =>
      subst hr
      exact ite_mono (hbecomes _) hstays (regAct_budget hc.2 a (regAt_x0 hat rfl rfl rfl) n)
    case node =>
      subst hr
      exact ite_mono (hbecomes _) hstays (regAct_node hc.2 a die i j n)
    case period =>
      subst hr
      exact ite_mono (fun h => ⟨_, hexec, h⟩) hstays (regAct_period hc.2 a (regAt_x0 hat rfl rfl rfl) n)
  case mailbox =>
    intro a addr v s r i j m hc hal hat hup hm
    refine ⟨fun ho => ?_, fun ho hr => ?_, fun ho hr hst hop => registerWrite_mailboxCommand hc.2 hat hal hup hm ho hr hst hop⟩
    · exact (execRegisterWrite_mailbox hat hal hup hm).trans (by rw [ho]; rfl)
    · exact registerWrite_mailboxWord hc.2 hat hal hup hm ho (by simpa [mbxWords] using hr)
  case unoccupied =>
    intro a addr n v s hat
    exact ⟨execRegisterWrite_none hat a n v s, fun hsh => regRead_none hat (.inl hsh) s⟩

end Sys2Proof.Machine

/-!
SUPPORT. A failed start-up keeps the auxiliary domain's registers (R34, R564), the words of a mailbox among them, and one of them lies
where an array of die states without a bound would go on.
-/
namespace Sys2Proof.Machine

/-- A start-up may begin, and MBX_AUTH_TAG0 of mailbox 1 holds the tag word 3, as its owner may write it (R520, R546). -/
def startingWithTag : State :=
  rset (setPhase { State.reset with pins := { Pins.reset with rails := true, modResetN := true } } 4) .mbxAuthTag0 14 0 0 3

/-- Die C0 fails its tests in phase 5 of the start-up. -/
def dieC0Fails : StartupResult :=
  { memMode := false, failure := some (.c 0, 5), links := [], slices := [], badTiles := [], badQuads := [], badFlowstone := [],
    badDripstone := [], elapsedMs := 0 }

/-- The n at which DLK_DIE_STATE_n, of which there are 28, would lie at MBX_AUTH_TAG0 of mailbox 1: (0x8000818 - 0x1000) / 8. -/
def tagIndex : Nat := 0xFFFF03

theorem canonical_startingWithTag : Canonical startingWithTag :=
  ⟨rfl, rising_rset (rising_rfset (s := State.reset) List.Pairwise.nil ..) ..⟩

/-- A start-up that may begin and meets a named failure. -/
theorem exec_mainStartup_failure {r : StartupResult} {s : State} {d : Die} {ph : BitVec 4} (hphase : phase s = 4)
    (hrails : s.pins.rails = true) (hmod : s.pins.modResetN = true) (hholds : s.holds = []) (hfail : r.failure = some (d, ph)) :
    exec (.mainStartup r) s = .next (startFail (rfset s .dlkStraps 14 0 0 8 8 (b2n r.memMode)) (dieIdx d) ph.toNat) := by
  show execMainStartup r s = _
  unfold execMainStartup
  simp only [hphase, hrails, hmod, hholds, hfail, beq_self_eq_true, List.isEmpty_nil, Bool.and_self, Bool.not_true, Bool.false_eq_true,
    if_false]

theorem dieSt_tagIndex_after_failure :
    dieSt (startFail (rfset startingWithTag .dlkStraps 14 0 0 8 8 (b2n dieC0Fails.memMode)) (dieIdx (.c 0)) (5 : BitVec 4).toNat)
      tagIndex = dsActive := by
  decide +kernel

/-- Refutes O9: the statement says of every number, not of every die index, that no state register reads ACTIVE after a failure, and
beyond the 28 dies the addresses are those of other registers: a mailbox's tag word, which the auxiliary domain keeps, reads 3. -/
theorem not_mainStartupEndsReadyOrFailed : ¬ Obligations.MainStartupEndsReadyOrFailed := by
  intro h
  have hphase : phase startingWithTag = 4 := by decide +kernel
  obtain ⟨-, hfail, -⟩ := h dieC0Fails startingWithTag canonical_startingWithTag hphase rfl rfl rfl
  obtain ⟨t, hexec, -, -, -, -, -, -, -, hdies, -⟩ := hfail (.c 0) 5 rfl
  have hrun := exec_mainStartup_failure (r := dieC0Fails) (s := startingWithTag) (d := .c 0) (ph := 5) hphase rfl rfl rfl rfl
  have ht := Host.Outcome.next.inj (hrun.symm.trans hexec)
  exact hdies tagIndex (ht ▸ dieSt_tagIndex_after_failure)

end Sys2Proof.Machine

/-!
SUPPORT. What a write of the Grotto leaves in the array, and the write of a tile's group to a byte that a Flowstone command of the die
writes: the byte is left undefined (R171).
-/
namespace Sys2Proof.Machine

/-! ### The array after a write -/

theorem grotto_setGrotto {s : State} (hr : s.grottos.rising) (k : Nat) (g : Grotto) : grotto (setGrotto s k g) k = g :=
  mget_mput_self hr Grotto.reset k g

theorem rising_setGrotto {s : State} (hr : s.grottos.rising) (k : Nat) (g : Grotto) : (setGrotto s k g).grottos.rising :=
  rising_mput hr Grotto.reset k g

/-- Two states hold the same bytes in C-die k's array, and list their Grottos by rising index. -/
def SameArray (k : Nat) (s t : State) : Prop := t.grottos.rising ∧ (grotto t k).bytes = (grotto s k).bytes

theorem SameArray.refl {s : State} (hr : s.grottos.rising) (k : Nat) : SameArray k s s := ⟨hr, rfl⟩

theorem SameArray.trans {k : Nat} {s t u : State} (h : SameArray k s t) (h' : SameArray k t u) : SameArray k s u :=
  ⟨h'.1, h'.2.trans h.2⟩

theorem SameArray.bytes_eq {k : Nat} {s t : State} {m : Map Byte} (h : SameArray k s t) (hm : (grotto s k).bytes = m) :
    t.grottos.rising ∧ (grotto t k).bytes = m :=
  ⟨h.1, h.2.trans hm⟩

theorem SameArray.of_grottos {k : Nat} {s t : State} (hr : s.grottos.rising) (h : t.grottos = s.grottos) : SameArray k s t :=
  ⟨h ▸ hr, by unfold grotto; rw [h]⟩

theorem sameArray_setGrotto {s : State} (hr : s.grottos.rising) {k : Nat} {g : Grotto} (hg : g.bytes = (grotto s k).bytes) :
    SameArray k s (setGrotto s k g) :=
  ⟨rising_setGrotto hr k g, by rw [grotto_setGrotto hr, hg]⟩

theorem sameArray_qsSet {k : Nat} {s t : State} (h : SameArray k s t) (c : QCfg) (hi lo v : Nat) : SameArray k s (qsSet t c hi lo v) :=
  h.trans (.of_grottos h.1 rfl)

theorem sameArray_setQueue {k : Nat} {s : State} (hr : s.grottos.rising) (key : Nat) (q : Queue) : SameArray k s (setQueue s k key q) :=
  sameArray_setGrotto hr rfl

/-- Taking descriptors out of a ring leaves the array. -/
theorem sameArray_takeSlots (n : Nat) {s : State} (hr : s.grottos.rising) (k key : Nat) : SameArray k s (takeSlots n s k key) := by
  induction n generalizing s with
  | zero => exact .refl hr k
  | succ n ih =>
    have hnext {x : State} (hx : SameArray k s x) : SameArray k s (takeSlots n x k key) := hx.trans (ih hx.1)
    have hstay : SameArray k s s := .refl hr k
    unfold takeSlots
    split
    · exact hstay
    · dsimp only
      split
      · exact hstay
      split
      · exact hstay
      split
      · exact sameArray_qsSet (sameArray_qsSet hstay ..) ..
      split
      · exact hstay
      refine hnext ?_
      split
      · exact sameArray_qsSet (sameArray_qsSet (sameArray_setQueue hr key _) ..) ..
      · exact sameArray_qsSet (sameArray_setQueue hr key _) ..

/-- A doorbell leaves the array. -/
theorem sameArray_ringBell {s : State} (hr : s.grottos.rising) (k key v : Nat) : SameArray k s (ringBell s k key v) := by
  unfold ringBell
  split
  · exact .refl hr k
  split
  · exact .refl hr k
  split
  · exact .of_grottos hr rfl
  · exact sameArray_takeSlots _ hr k key

theorem SameArray.foldl {α : Type} {k : Nat} {s x : State} {f : State → α → State} {l : List α}
    (hf : ∀ y a, y.grottos.rising → SameArray k y (f y a)) (hx : SameArray k s x) : SameArray k s (l.foldl f x) := by
  induction l generalizing x with
  | nil => exact hx
  | cons a l ih => exact ih (hx.trans (hf x a hx.1))

theorem sameArray_drpMark {s : State} (hr : s.grottos.rising) (k : Nat) (p : Taken → Bool) : SameArray k s (drpMark s k p) :=
  sameArray_setGrotto hr rfl

/-- A write of the array writes its bytes, whatever doorbells it rings. -/
theorem grtPut_bytes {s : State} (hr : s.grottos.rising) (k off : Nat) (data : List Byte) (engine : Bool) :
    (grtPut s k off data engine).grottos.rising ∧ (grotto (grtPut s k off data engine) k).bytes = memPut (grotto s k).bytes off data := by
  unfold grtPut
  extract_lets +onlyGivenNames x y g covered z
  have hx : SameArray k s x := sameArray_drpMark hr k _
  have hy : SameArray k s y := by
    dsimp only [y]
    split
    · exact hx.trans (.of_grottos hx.1 rfl)
    · exact hx
  have hg : g.bytes = (grotto s k).bytes := hy.2
  have hz : z.grottos.rising ∧ (grotto z k).bytes = memPut (grotto s k).bytes off data := by
    refine ⟨rising_setGrotto hy.1 k _, ?_⟩
    dsimp only [z]
    rw [grotto_setGrotto hy.1, hg]
  refine SameArray.bytes_eq (.foldl (fun t key ht => ?_) (.refl hz.1 k)) hz.2
  split
  · exact .refl ht k
  split
  · exact sameArray_ringBell ht k key _
  · exact .refl ht k

/-! ### A byte that a Flowstone command writes (R171) -/

/-- Freeing one byte of the Grotto of an owning tile's die writes a free value there. -/
theorem flsFree_grotto_byte {s : State} {t a : Nat} (hr : s.grottos.rising) (hb : (grotto s (tileDie t)).bytes.rising)
    (hown : grtOwned s (tileDie t) (tile s t).ctx a 1 = true) :
    mget 0 (grotto (flsFree s t 1 [a]) (tileDie t)).bytes a = BitVec.ofNat 8 (Config.freeValue s.freeCount).toNat := by
  have hspace : (flsFree s t 1 [a]) = grtWrite
      (engineWrote (drawFree s).2 (fun u => u / 128 == tileDie t && u != t) 1 (a / 4 * 4) (cdiv (a + 1) 4 * 4 - a / 4 * 4))
      (tileDie t) a [BitVec.ofNat 8 (Config.freeValue s.freeCount).toNat] := by
    have hown' : grtOwned (drawFree s).2 (tileDie t) (tile (drawFree s).2 t).ctx a 1 = true := hown
    show (spaceWrite (drawFree s).2 t 1 a [BitVec.ofNat 8 (Config.freeValue s.freeCount).toNat]).2 = _
    unfold spaceWrite
    simp only [List.length_singleton, hown', if_true]
  rw [hspace, grtWrite, (grtPut_bytes (by exact hr) ..).2]
  exact mget_mput_self (by exact hb) 0 a _

/-- One command that has completed and that no group of its tile has waited for, and no other: what its tile's `keepOut` frees. -/
theorem keepOut_one {s : State} {u a : Nat} {v : Uncovered} {me : Option Nat} {space n : Nat} (hfls : (tile s u).fls = [])
    (hunc : (tile s u).uncovered = [v]) (hwait : v.waited = false) (hcmd : v.words.isEmpty = false)
    (hund : undefinedBytes v.words space a n false = [a]) (hreads : bReads v.words space a n = false) :
    keepOut s u me space a n = flsFree (setTile s u (tile s u)) u space [a] := by
  have htile : { tile s u with fls := (tile s u).fls.map fun c => { c with dirty := c.dirty ++ [(space, a, n)] } } = tile s u := by
    rw [hfls, List.map_nil, ← hfls]
  unfold keepOut
  dsimp only
  rw [htile, hfls, hunc]
  simp [Uncovered.ownsWait, hwait, hcmd, hund, flsTaint, hreads]

end Sys2Proof.Machine

/-!
SUPPORT. The state that refutes O46: a Flowstone command of a tile has filled a word of the Grotto with random bits, and another group
of the tile, which has not waited for it, writes the word's first byte.
-/
namespace Sys2Proof.Machine

/-- A block of operation 0x38 with one element, the u32 at byte 0 of the Grotto (R153, R154, R161). -/
def fillBlock : Block :=
  ([0x3800000000000000, 0x0001000100010001, 0, 0, 0, 0, 0, 0, 0, 0, 0, 0, 0x3200000000000000] : List W64) ++ List.replicate 19 0

/-- The completed command, of the group in slot 1, that nobody has waited for. -/
def fillDone : Uncovered := { from_ := ⟨1, 0, 0⟩, words := fillBlock, engine := 0, reads := [], targets := [], waited := false }

/-- Its tile, which runs with context 0. -/
def fillTile : Tile := { Tile.reset with mode := .running, uncovered := [fillDone] }

/-- That tile is tile 0 of C0, and context 0 owns granule 0 of C0's Grotto. -/
def afterFill : State := { rset (setDieSt State.reset 0 dsActive) .grtOwner 0 0 0 0x80 with tiles := [(0, fillTile)] }

/-- The group in slot 0 writes byte 0: the state before the hazard is looked at. -/
def byteWritten (b : Byte) : State := grtPut afterFill 0 0 [b] false

theorem apertureOk_afterFill : apertureOk afterFill (.tile 0 0) 0 0 1 :=
  ⟨by decide, by decide, by decide +kernel⟩

theorem byteWritten_tiles {b : Byte} (hb : b = 0 ∨ b = 1) : (byteWritten b).tiles = afterFill.tiles := by
  rcases hb with rfl | rfl <;> decide +kernel

theorem tile_byteWritten {b : Byte} (hb : b = 0 ∨ b = 1) : tile (byteWritten b) 0 = fillTile := by
  unfold tile
  rw [byteWritten_tiles hb]
  rfl

theorem byteWritten_owned {b : Byte} (hb : b = 0 ∨ b = 1) : grtOwned (byteWritten b) 0 (tile (byteWritten b) 0).ctx 0 1 = true := by
  rcases hb with rfl | rfl <;> decide +kernel

theorem byteWritten_freeCount {b : Byte} (hb : b = 0 ∨ b = 1) : (byteWritten b).freeCount = 0 := by
  rcases hb with rfl | rfl <;> decide +kernel

theorem byteWritten_array (b : Byte) : (byteWritten b).grottos.rising ∧ (grotto (byteWritten b) 0).bytes.rising := by
  obtain ⟨hrise, hbytes⟩ := grtPut_bytes (s := afterFill) List.Pairwise.nil 0 0 [b] false
  refine ⟨hrise, ?_⟩
  rw [byteWritten, hbytes]
  exact rising_mput (m := []) List.Pairwise.nil 0 0 b

/-- The only tile has one command that completed, and it takes the byte: what is undefined is that byte. -/
theorem keepOut_byteWritten {b : Byte} (hb : b = 0 ∨ b = 1) :
    keepOutGrotto (byteWritten b) 0 0 0 0 1 = flsFree (byteWritten b) 0 1 [0] := by
  have htile := tile_byteWritten hb
  have hset : setTile (byteWritten b) 0 (tile (byteWritten b) 0) = byteWritten b := by
    rcases hb with rfl | rfl <;> decide +kernel
  have hone := keepOut_one (s := byteWritten b) (u := 0) (a := 0) (v := fillDone) (me := some 0) (space := 1) (n := 1)
    (by rw [htile]; rfl) (by rw [htile]; rfl) rfl rfl (by decide +kernel) (by decide +kernel)
  rw [hset] at hone
  unfold keepOutGrotto
  rw [byteWritten_tiles hb]
  exact hone

/-- What the array then holds at the byte is a free value, whatever was written. -/
theorem hazard_frees_byte {b : Byte} (hb : b = 0 ∨ b = 1) :
    mget 0 (grotto (keepOutGrotto (byteWritten b) 0 0 0 0 1) 0).bytes 0 = BitVec.ofNat 8 (Config.freeValue 0).toNat := by
  obtain ⟨hrise, hbytes⟩ := byteWritten_array b
  have hfree := flsFree_grotto_byte (s := byteWritten b) (t := 0) (a := 0) hrise hbytes (byteWritten_owned hb)
  rw [byteWritten_freeCount hb] at hfree
  rw [keepOut_byteWritten hb]
  exact hfree

/-- The write itself: its one line is allowed, so it is performed and the hazard is looked at. -/
theorem exec_byteWrite (b : Byte) :
    exec (.grottoApertureAccess (.tile 0 0) 0 0 ⟨.write [b], .good⟩) afterFill = .next (keepOutGrotto (byteWritten b) 0 0 0 0 1) := by
  have hcode : apertureCode afterFill 0 (apertureCtx afterFill (.tile 0 0)) 0 1 = 0 := by decide +kernel
  have hpieces : pieces 0 1 = [(0, 1)] := by decide
  show Host.Outcome.next (apertureAccess afterFill (.tile 0 0) 0 0 (.write [b]) .good) = _
  refine congrArg _ ?_
  show apertureWrite afterFill (.tile 0 0) 0 0 [b] = _
  unfold apertureWrite
  rw [List.length_singleton, hpieces]
  simp only [List.foldl_cons, List.foldl_nil, hcode]
  rfl

/-- Refutes O46: an allowed write by a group of a tile does not leave its bytes where a Flowstone command of the die that the group has
not waited for writes them too: what they hold is undefined (R171), and the model draws it freely. -/
theorem not_grottoOwnershipAndApertures : ¬ Obligations.GrottoOwnershipAndApertures := by
  intro h
  obtain ⟨-, -, haccess, -⟩ := h
  obtain ⟨-, -, hwrite, -⟩ := haccess (.tile 0 0) 0 0 afterFill
  have hstays {b : Byte} (hb : b = 0 ∨ b = 1) : b = BitVec.ofNat 8 (Config.freeValue 0).toNat := by
    obtain ⟨u, hu, hbytes, -⟩ := hwrite [b] .good apertureOk_afterFill List.Pairwise.nil List.Pairwise.nil
    have hu' := Host.Outcome.next.inj ((exec_byteWrite b).symm.trans hu)
    rw [← hazard_frees_byte hb, hu']
    exact (hbytes 0 Nat.zero_lt_one).symm
  exact absurd ((hstays (.inl rfl)).trans (hstays (.inr rfl)).symm) (by decide)

end Sys2Proof.Machine

/-!
SUPPORT. The matrix engines (R108, R114): when an engine starts its next instruction, and what starting it leaves. An engine that runs
is not the engine after reset, nor is its tile the tile after reset, so what is written is listed and read back, whatever the maps list.
-/
namespace Sys2Proof.Machine

/-! ### A running engine is read back -/

/-- What is not the default is listed, so it is read back whatever the map lists. -/
theorem mget_mput_of_ne {α : Type} [DecidableEq α] {d v : α} (hv : v ≠ d) (m : Map α) (a : Nat) : mget d (mput d m a v) a = v := by
  rw [mget, mput, if_neg hv, mfind_mins_self, Option.getD_some]

theorem ne_reset_of_running {n : Engine} (hn : n.running = true) : n ≠ Engine.reset :=
  fun h => Bool.false_ne_true ((congrArg Engine.running h).symm.trans hn)

theorem eng_setEng_of_running {n : Engine} (hn : n.running = true) (x : Tile) (e : Nat) : eng (setEng x e n) e = n :=
  mget_mput_of_ne (ne_reset_of_running hn) x.engines e

theorem tile_ne_reset_of_running {x : Tile} {e : Nat} (hx : (eng x e).running = true) : x ≠ Tile.reset :=
  fun h => ne_reset_of_running hx (congrArg (eng · e) h)

theorem tile_setTile_of_running {x : Tile} {e : Nat} (hx : (eng x e).running = true) (s : State) (t : Nat) : tile (setTile s t x) t = x :=
  mget_mput_of_ne (tile_ne_reset_of_running hx) s.tiles t

/-! ### An engine starts -/

/-- The engine once it has started: it runs, and is warm. -/
def Engine.started (n : Engine) : Engine := { n with running := true, cold := false }

/-- A warm engine waits for no wave: starting it is a write of its tile. -/
theorem engStart_warm {s : State} {t e : Nat} (hwarm : (eng (tile s t) e).cold = false) :
    engStart s t e = setTile s t (setEng (tile s t) e (eng (tile s t) e).started) := by
  unfold engStart
  simp only [hwarm, Bool.false_eq_true, if_false]
  rfl

/-- A cold one has waited for its wave, and the wait is counted too (R114, R120). -/
theorem engStart_cold {s : State} {t e : Nat} (hcold : (eng (tile s t) e).cold = true) :
    engStart s t e = count (setTile s t (setEng (tile s t) e (eng (tile s t) e).started)) .mtxPaceWait (tileDie t) (tileSite t) 0
      ((timebaseOf s (tileDie t) - (eng (tile s t) e).since) * tileMhz s t / 1000) := by
  unfold engStart
  simp only [hcold, if_true]
  rfl

/-- Warm or cold, the tile's engine is the started one. -/
theorem eng_engStart (s : State) (t e : Nat) : eng (tile (engStart s t e) t) e = (eng (tile s t) e).started := by
  have hrun : (eng (tile s t) e).started.running = true := rfl
  have heng := eng_setEng_of_running hrun (tile s t) e
  have htile := tile_setTile_of_running (heng.symm ▸ hrun) s t
  cases hc : (eng (tile s t) e).cold with
  | false => rw [engStart_warm hc, htile, heng]
  | true =>
    rw [engStart_cold hc]
    exact (congrArg (eng · e) htile).trans heng

/-- A warm engine's start writes its tile, and no register. -/
theorem engStart_warm_frame {s : State} {t e : Nat} (hwarm : (eng (tile s t) e).cold = false) :
    { engStart s t e with tiles := s.tiles } = s := by
  rw [engStart_warm hwarm]
  rfl

/-- A cold engine's start counts the paced wait, and writes no other register. -/
theorem engStart_cold_regs {s : State} {t e : Nat} (hcold : (eng (tile s t) e).cold = true) :
    (engStart s t e).regs = (count s .mtxPaceWait (tileDie t) (tileSite t) 0
      ((timebaseOf s (tileDie t) - (eng (tile s t) e).since) * tileMhz s t / 1000)).regs := by
  rw [engStart_cold hcold]
  rfl

/-! ### The engine's commands -/

/-- An engine that does not run, whose first instruction neither the interlock (R168) nor the throttle (R491) holds, is ready. -/
theorem engReady_of_queue {s : State} {t e : Nat} {o : MtxOp} {rest : List MtxOp} (hq : (eng (tile s t) e).queue = o :: rest)
    (hidle : (eng (tile s t) e).running = false) (hfls : flsHolds (tile s t) o = false)
    (hfree : (eng (tile s t) e).freeAt ≤ timebaseOf s (tileDie t)) : engReady s t e = true := by
  unfold engReady
  simp only [hq, hidle, hfls, hfree, decide_true, Bool.not_false, Bool.and_self]

theorem execMatrixEngineStart_ready {t : TileId} {e : Fin 4} {s : State} (hr : engReady s t e = true)
    (hwave : (eng (tile s t) e).cold = false ∨ waveNow s t = true) : execMatrixEngineStart t e s = .next (engStart s t e) := by
  have hgo : (!(eng (tile s t) e).cold || waveNow s t) = true := by
    rcases hwave with h | h <;> simp only [h, Bool.not_false, Bool.true_or, Bool.or_true]
  simp only [execMatrixEngineStart, hr, hgo, Bool.and_self, if_true]

theorem execPacedStart_ready {t : TileId} {e : Fin 4} {s : State} (hr : engReady s t e = true)
    (hcold : (eng (tile s t) e).cold = true) (hwave : waveNow s t = true) : execPacedStart t e s = .next (engStart s t e) := by
  simp only [execPacedStart, hr, hcold, hwave, Bool.and_self, if_true]

/-- ENGINE_COLD acts on an engine that holds nothing and has been idle for COLD_NS. -/
theorem execEngineCold_idle {t : TileId} {e : Fin 4} {s : State} (hq : (eng (tile s t) e).queue = [])
    (hidle : (eng (tile s t) e).freeAt + coldNs s t ≤ timebaseOf s (tileDie t)) :
    execEngineCold t e s = .next (setTile s t (setEng (tile s t) e { eng (tile s t) e with cold := true })) := by
  simp only [execEngineCold, hq, hidle, List.isEmpty_nil, decide_true, Bool.and_self, if_true]

/-- Settles O32: a start is `engStart`, whose engine runs and is warm (`eng_engStart`), and a completion takes its running branch. -/
theorem enginesRunTheirQueues : Obligations.EnginesRunTheirQueues := by
  refine ⟨fun t e s o rest hq hidle hfls hfree hwarm => ?_, fun t e s o rest hq hidle hfls hfree hcold hwave => ?_,
    fun t e s hq hidle => execEngineCold_idle hq hidle, fun t e s o rest hq hrun => ?_⟩
  · have hready := engReady_of_queue hq hidle hfls hfree
    refine ⟨engStart s t e, execMatrixEngineStart_ready hready (.inl hwarm), ?_, ?_, ?_, engStart_warm_frame hwarm⟩ <;>
      rw [eng_engStart]
    · rfl
    · rfl
    · exact hq
  · have hready := engReady_of_queue hq hidle hfls hfree
    refine ⟨engStart s t e, execPacedStart_ready hready hcold hwave, execMatrixEngineStart_ready hready (.inr hwave), ?_, ?_,
      engStart_cold_regs hcold⟩ <;> rw [eng_engStart] <;> rfl
  · show execMatrixInstrComplete t e s = _
    unfold execMatrixInstrComplete
    simp only [hrun, hq]

end Sys2Proof.Machine

/-!
SUPPORT. The state that refutes O34: a group has issued a Flowstone command that writes a word of the SLM, has not waited for it, and
issues the block that holds the word (R149, R171).
-/
namespace Sys2Proof.Machine

/-! ### What an issue copies (R149, R171) -/

/-- One byte of the copy: a free value where the group must not read the byte yet. -/
def copyByte (x : Tile) (g off : Nat) (acc : List Byte × State) (e : Byte × Nat) : List Byte × State :=
  if flsHazard x (some g) 0 (off + e.2) 1 then (acc.1 ++ [BitVec.ofNat 8 (drawFree acc.2).1.toNat], (drawFree acc.2).2)
  else (acc.1 ++ [e.1], acc.2)

theorem blockCopy_state (s : State) (t g off : Nat) :
    (blockCopy s t g off).2 = ((slmBytesAt (tile s t) off 256).zipIdx.foldl (copyByte (tile s t) g off) ([], s)).2 := by
  unfold blockCopy
  generalize (slmBytesAt (tile s t) off 256).zipIdx = bytes
  rfl

theorem foldl_copyByte_freeCount (x : Tile) (g off : Nat) (bytes : List (Byte × Nat)) (acc : List Byte × State) :
    (bytes.foldl (copyByte x g off) acc).2.freeCount =
      acc.2.freeCount + bytes.countP fun e => flsHazard x (some g) 0 (off + e.2) 1 := by
  induction bytes generalizing acc with
  | nil => rfl
  | cons e bytes ih =>
    rw [List.foldl_cons, ih, List.countP_cons, copyByte]
    split
    · show acc.2.freeCount + 1 + _ = _
      omega
    · rfl

/-- The copy of a block draws a free value for each byte that the group must not read yet. -/
theorem blockCopy_freeCount (s : State) (t g off : Nat) :
    (blockCopy s t g off).2.freeCount =
      s.freeCount + (slmBytesAt (tile s t) off 256).zipIdx.countP fun e => flsHazard (tile s t) (some g) 0 (off + e.2) 1 := by
  rw [blockCopy_state, foldl_copyByte_freeCount]

/-- An issue that passes its checks queues the copy behind the other commands; the state is the one that the copy leaves. -/
theorem exec_flsIssue {t : TileId} {g : Slot} {w : BitVec 56} {s s' : State} {gr : Group} {b : Block} {x : State}
    (hready : ready s t g = some (gr, s')) (hword : flsWordCheck false w.toNat = 0) (hloads : loadsTouch gr [] [fSreg w.toNat] = false)
    (hroom : (tile s' t).fls.length < 8) (halign : sget gr (fSreg w.toNat) % 256 = 0)
    (hfits : sget gr (fSreg w.toNat) + 256 ≤ (tile s' t).slmBytes) (hcopy : blockCopy s' t g (sget gr (fSreg w.toNat)) = (b, x))
    (hcheck : (blockCheck x t b).1 = 0) :
    exec (.flsIssue t g w) s = .next (setGroup (setTile (drpAccIssue x (tileDie t) (tileSite t) (bSetTiles b)) t { tile s' t with
      fls := (tile s' t).fls ++ [⟨b, gr.issuer g, (tile s' t).flsSeq, false, [], [], 0, 0, 0⟩], flsSeq := (tile s' t).flsSeq + 1 })
      t g gr.step) := by
  have hfull : ¬ 8 ≤ (tile s' t).fls.length := Nat.not_le.mpr hroom
  have hshort : ¬ (tile s' t).slmBytes < sget gr (fSreg w.toNat) + 256 := Nat.not_lt.mpr hfits
  show execFlsIssue t g w s = _
  simp only [execFlsIssue, issue, hready, hword, hloads, hfull, halign, hshort, hcopy, hcheck, ne_eq, not_true_eq_false, if_false,
    Bool.false_eq_true]

theorem drpAccIssue_freeCount (s : State) (k site : Nat) (as : List Nat) : (drpAccIssue s k site as).freeCount = s.freeCount := rfl

/-! ### A block whose KEY a command still writes -/

/-- A block of operation 0x38 with one element, the u32 at byte 48 of the SLM (R153, R154, R161): the first word of KEY of a block at
byte 0. -/
def keyBlock : Block :=
  ([0x3800000000000000, 0x0001000100010001, 0, 0, 0, 0, 0, 0, 0, 0, 0, 0, 0x1200000000000030] : List W64) ++ List.replicate 19 0

/-- The group, which has that block queued and waits for nothing. -/
def keyGroup : Group :=
  { groupId := 0, attempt := 0, stack := [⟨0x1000, 0xFFFFFFFF, none⟩], exited := 0, vregs := [], sregs := [], preds := [],
    wait := .ready, pend := [], unperformed := [], invisible := [] }

def keyCmd : FlsCmd :=
  { words := keyBlock, from_ := keyGroup.issuer 0, seq := 0, started := false, dirty := [], byEngine := [], stat := 0, code := 0, fail := 0 }

/-- Its tile, where the block stands at byte 0 of the SLM. -/
def keyTile : Tile :=
  { Tile.reset with
    mode := .running, slmBytes := 4096, groups := [(0, keyGroup)], slm := memPut [] 0 (wordBytes keyBlock), fls := [keyCmd], flsSeq := 1 }

/-- That tile is tile 0 of C0. -/
def keyQueued : State := { rset (setDieSt State.reset 0 dsActive) .jobTiles 0 0 0 1 with tiles := [(0, keyTile)] }

theorem ready_keyQueued : ready keyQueued 0 0 = some (keyGroup, keyQueued) := by decide +kernel

theorem blockCheck_slm : (blockCheck keyQueued 0 (toWords 32 (slmBytesAt (tile keyQueued 0) 0 256))).1 = 0 := by decide +kernel

/-- The checks of a block do not look at KEY, so the copy passes whatever the free values are. -/
theorem blockCheck_copy : (blockCheck (blockCopy keyQueued 0 0 0).2 0 (blockCopy keyQueued 0 0 0).1).1 = 0 := by decide +kernel

/-- The four bytes that the queued command writes. -/
theorem blockCopy_draws : (blockCopy keyQueued 0 0 0).2.freeCount = 4 := by
  rw [blockCopy_freeCount]
  decide +kernel

/-- Refutes O34: an issue does not copy the bytes of its block that a Flowstone command still writes and that the group has not waited
for: they are undefined (R171), and the model draws a free value for each, where the statement has the SLM's bytes and no draw. -/
theorem not_flowstoneCommandsRunInOrder : ¬ Obligations.FlowstoneCommandsRunInOrder := by
  intro h
  obtain ⟨hissue, -⟩ := h
  have hword : flsWordCheck false (0 : BitVec 56).toNat = 0 := by decide
  have hloads : loadsTouch keyGroup [] [fSreg (0 : BitVec 56).toNat] = false := rfl
  have hroom : (tile keyQueued 0).fls.length < 8 := by decide
  have hoff : sget keyGroup (fSreg (0 : BitVec 56).toNat) = 0 := rfl
  have halign : sget keyGroup (fSreg (0 : BitVec 56).toNat) % 256 = 0 := by rw [hoff]
  have hfits : sget keyGroup (fSreg (0 : BitVec 56).toNat) + 256 ≤ (tile keyQueued 0).slmBytes := by rw [hoff]; decide
  have hstated := hissue 0 0 0 keyQueued keyQueued keyGroup ready_keyQueued hword hloads hroom halign hfits
    (by rw [hoff]; exact blockCheck_slm)
  have hcheck := blockCheck_copy
  have hdraws := blockCopy_draws
  obtain ⟨b, x, hcopy⟩ : ∃ b x, blockCopy keyQueued 0 0 0 = (b, x) := ⟨_, _, rfl⟩
  rw [hcopy] at hcheck hdraws
  have hmodel := exec_flsIssue (t := 0) (g := 0) (w := 0) ready_keyQueued hword hloads hroom halign hfits
    (by rw [hoff]; exact hcopy) hcheck
  have hsame := Host.Outcome.next.inj (hmodel.symm.trans hstated)
  have hcount := congrArg State.freeCount hsame
  simp only [setGroup_freeCount, setTile_freeCount, drpAccIssue_freeCount] at hcount
  exact absurd (hdraws.symm.trans hcount) (by decide)

end Sys2Proof.Machine
